-- ==== Sys2Proof/Word.lean ====
section
/-! DEFINITION. The word types and the index types of the Nathor N-440 (00 Conventions: a word is 16 bits, a 32-bit field is two
words; lines are numbered 0 to 3, pumps 0 to 2, greeting slots 0 to 7, message entries 0 to 31). -/

namespace Sys2Proof

/-- A byte of the store or of a line. -/
abbrev Byte := BitVec 8

/-- A 16-bit word, the unit of every host access. -/
abbrev Word := BitVec 16

/-- A 32-bit field: the Tick, the Day Clock, the Sweep Count, the captures. -/
abbrev Long := BitVec 32

/-- A line, 0 to 3. -/
abbrev LineId := Fin 4

/-- A pump, P0 to P2. -/
abbrev PumpId := Fin 3

/-- A greeting slot, 0 to 7. -/
abbrev SlotId := Fin 8

/-- An entry of the Message Table, 0 to 31. -/
abbrev EntryId := Fin 32

/-- One audio sample, from −8192 to 8191 in two's complement (R135). -/
abbrev Sample := BitVec 14

end Sys2Proof
end

