-- ==== Sys2Proof/Config.lean ====
section
/-! DEFINITION. What the manual leaves open for an implementation: the free values. -/

namespace Sys2Proof

/-- FREE VALUE (log 13): what a count that the manual gives the range 0 to 65535, and no wrap and no stop, becomes when it is
raised from 65535 (06 R94: the frame-error count F; 07 R115: page count, pages discarded, rows, bad rows; 09 R165: the block count of
a PAGE entry). Nothing
constrains it but its 16 bits. -/
opaque Config.countPastTop : Nat → BitVec 16

/-- FREE VALUE (log 13): what the field of a DIAL answer shows of a count too large for it (02 R39: the attempt count past 255, the
ringback count past 65535). A function of the count, with nothing to constrain it. -/
opaque Config.shownPastTop : Nat → BitVec 16

/-- FREE VALUE (log 28): whether a duration half way between two tens of milliseconds is measured as the higher of them; R34 says to
the nearest 10 and names no way of a tie. A function of the duration, with nothing to constrain it. -/
opaque Config.tieRoundsUp : Nat → Bool

end Sys2Proof
end

