-- ==== Sys2Proof/Syntax.lean ====
section
/-! DEFINITION. The commands of the block: one constructor per row of spec/opcode_table.json. The table gives no operand fields,
so the operands are the model's (log 8): the line or pump an event happens on, the card an order stands in, what a detector
measured, the bytes of a frame or burst, and the inputs the engine samples (line voltage, a settle check, the size strap). -/

namespace Sys2Proof

/-- The store size strap (09 R153). -/
inductive StoreSize
  | k128 | k256 | k512
deriving DecidableEq, Repr

/-- An order table: one per line and one for the engine (10 section 10.4). -/
inductive TableId
  | line (n : LineId)
  | engine
deriving DecidableEq, Repr

/-- A piece of a sweep that the manual lets pass in any order with the others (10 R172): for a table's list the reading of a card's hand
word, and of its post number, and the making of the list; the step of the next listed card of a table alone, which takes it or passes it
by (R173); the next order of a table, its card taken first where it was not (R174); the acknowledge word of a record (R177); the return
sweep's visit to the next map entry, and what is left of the return sweep (09 R162). -/
inductive SweepUnit
  | hand (t : TableId) (card : Fin 8)
  | number (t : TableId) (card : Fin 8)
  | list (t : TableId)
  | take (t : TableId)
  | card (t : TableId)
  | ack (t : TableId)
  | visit
  | returns
deriving DecidableEq, Repr

/-- What one SWEEP command passes of the running sweep: the units in their order and, where the sweep `ends` with it, all that is left. -/
structure SweepPlan where
  units : List SweepUnit
  ends : Bool
deriving DecidableEq, Repr

/-- What the four voltage senses would read at an off-hook attempt (01 R9). -/
structure Volts where
  l0 : Bool
  l1 : Bool
  l2 : Bool
  l3 : Bool
deriving DecidableEq, Repr

/-- The voltage sense of line `n`. -/
def Volts.at (v : Volts) (n : LineId) : Bool :=
  match n with
  | 0 => v.l0
  | 1 => v.l1
  | 2 => v.l2
  | 3 => v.l3

/-- The four fields of a fax Offer frame (07 R118). -/
structure Offer where
  maxRung : Nat
  fine : Bool
  rowTime : Nat
  width : Nat
deriving DecidableEq, Repr

/-- The fields of a fax Choice frame (07 R120): the rung and the other chosen fields. -/
structure Choice where
  rung : Nat
  fine : Bool
  rowTime : Nat
  width : Nat
deriving DecidableEq, Repr

/-- The verdicts a receiver sends (07 R127). -/
inductive SentVerdict
  | good | goodRetrain | bad
deriving DecidableEq, Repr

/-- A retrain attempt of a line's call, by its number in the call: the retrain count with which it was asked (05 R87). A report of a pump
names the attempt it is of, so that what comes after that attempt has failed is discarded (04 R71). -/
structure RetrainAttempt where
  line : LineId
  number : Nat
deriving DecidableEq, Repr

/-- The commands, in the order of spec/opcode_table.json. -/
inductive Instr
  /-- ENGINE_RESET (R179): the reset pin, with the strap as sampled. -/
  | engineReset (strap : StoreSize)
  /-- CTRL_RESET (R179): a CTRL write of `value` with RESET set, with the strap as sampled. -/
  | ctrlReset (value : Word) (strap : StoreSize)
  /-- CTRL_ENABLE_WRITE (R167): a CTRL write of `value` with RESET clear. -/
  | ctrlEnableWrite (value : Word)
  /-- WINA_WRITE (R168) -/
  | winaWrite (value : Word)
  /-- WINB_WRITE (R168) -/
  | winbWrite (value : Word)
  /-- ATTN_WRITE (R172) -/
  | attnWrite (value : Word)
  /-- STAT_READ (R167) -/
  | statRead
  /-- STAT_WRITE (R167) -/
  | statWrite (value : Word)
  /-- HOST_STORE_WRITE (R169): a host word write at window offset `offset`. -/
  | hostStoreWrite (offset : BitVec 12) (value : Word)
  /-- HOST_STORE_READ (R168): a host word read at window offset `offset`. -/
  | hostStoreRead (offset : BitVec 12)
  /-- TICK (R175) -/
  | tick
  /-- SWEEP (R172): the running sweep passes the units of `plan` in their order; where the plan ends it, it passes what is left and ends,
else it runs on, and other commands may come before its next piece (log 9). -/
  | sweep (volts : Volts) (plan : SweepPlan)
  /-- UNKNOWN_ORDER (R174): the running sweep takes card `card` of `table`, whose order code is not one of the table's. -/
  | unknownOrder (table : TableId) (card : Fin 8)
  /-- ENABLE (R18): the running sweep takes card `card` of line `n`'s table, which holds an ENABLE. -/
  | enable (n : LineId) (card : Fin 8)
  /-- DISABLE (R19) -/
  | disable (n : LineId) (card : Fin 8)
  /-- DIAL (R23), with the line voltage found at an off-hook attempt. -/
  | dial (n : LineId) (card : Fin 8) (volt : Bool)
  /-- ANSWER (R48), with the line voltage found at the answer attempt. -/
  | answer (n : LineId) (card : Fin 8) (volt : Bool)
  /-- HANGUP (R20) -/
  | hangup (n : LineId) (card : Fin 8)
  /-- SEND (R99) -/
  | send (n : LineId) (card : Fin 8)
  /-- FAX_PAGES (R122) -/
  | faxPages (n : LineId) (card : Fin 8)
  /-- PLAY (R147) -/
  | play (n : LineId) (card : Fin 8)
  /-- RECORD (R138) -/
  | record (n : LineId) (card : Fin 8)
  /-- STOP (R149) -/
  | stop (n : LineId) (card : Fin 8)
  /-- TAKE_DIGITS (R151) -/
  | takeDigits (n : LineId) (card : Fin 8)
  /-- CLEAR_FAULT (R186) -/
  | clearFault (n : LineId) (card : Fin 8)
  /-- CLEAR_RETRY_COUNT (R186) -/
  | clearRetryCount (n : LineId) (card : Fin 8)
  /-- TAKE_BLOCKS (R164): the running sweep takes card `card` of the engine table, which holds a TAKE BLOCKS. -/
  | takeBlocks (card : Fin 4)
  /-- LOAD_GREETING (R145) -/
  | loadGreeting (card : Fin 4)
  /-- UNLOAD_GREETING (R146) -/
  | unloadGreeting (card : Fin 4)
  /-- COLLECT_MESSAGE (R143) -/
  | collectMessage (card : Fin 4)
  /-- DISCARD_MESSAGE (R143) -/
  | discardMessage (card : Fin 4)
  /-- SET_CLOCK (R175) -/
  | setClock (card : Fin 4)
  /-- CLEAR_LINE (R21) -/
  | clearLine (card : Fin 4)
  /-- RING_VOLTAGE_ONSET (R43) -/
  | ringVoltageOnset (n : LineId)
  /-- RING_COUNTED (R40): a burst of 200 ms or more ended, with the line voltage found at an answer attempt. -/
  | ringCounted (n : LineId) (volt : Bool)
  /-- RING_GAP_EXPIRY (R12) -/
  | ringGapExpiry (n : LineId)
  /-- CALLER_BURST_END (R45): the carrier ceased after `rest`, the bytes received after the first. -/
  | callerBurstEnd (n : LineId) (rest : List Byte)
  /-- LOOP_CURRENT_FALL (R10) -/
  | loopCurrentFall (n : LineId)
  /-- LOOP_CURRENT_RETURN (R10) -/
  | loopCurrentReturn (n : LineId)
  /-- LOOP_DROP_EXPIRY (R10) -/
  | loopDropExpiry (n : LineId)
  /-- GUARD_TIME_EXPIRY (R16) -/
  | guardTimeExpiry (n : LineId)
  /-- DECLINED_RING_GAP_EXPIRY (R16) -/
  | declinedRingGapExpiry (n : LineId)
  /-- RETRY_DELAY_EXPIRY (R183), with the line voltage found at a voice redial's off-hook attempt. -/
  | retryDelayExpiry (n : LineId) (volt : Bool)
  /-- DIAL_TONE_WAIT_EXPIRY (R11) -/
  | dialToneWaitExpiry (n : LineId)
  /-- PROGRESS_TONE_ONSET (R34): the silence before it lasted `offMs` milliseconds. -/
  | progressToneOnset (n : LineId) (offMs : Nat)
  /-- PROGRESS_TONE_CEASE (R34): the tone lasted `onMs` milliseconds. -/
  | progressToneCease (n : LineId) (onMs : Nat)
  /-- DIAL_TONE_ACCEPTED (R28) -/
  | dialToneAccepted (n : LineId)
  /-- W_WAIT_EXPIRY (R32) -/
  | wWaitExpiry (n : LineId)
  /-- TONE_ON_END (R30) -/
  | toneOnEnd (n : LineId)
  /-- TONE_GAP_END (R30) -/
  | toneGapEnd (n : LineId)
  /-- PULSE_BREAK_END (R31) -/
  | pulseBreakEnd (n : LineId)
  /-- PULSE_MAKE_END (R31) -/
  | pulseMakeEnd (n : LineId)
  /-- INTERDIGIT_PAUSE_END (R31) -/
  | interdigitPauseEnd (n : LineId)
  /-- PAUSE_END (R32) -/
  | pauseEnd (n : LineId)
  /-- FLASH_END (R32) -/
  | flashEnd (n : LineId)
  /-- ANSWER_WAIT_EXPIRY (R11) -/
  | answerWaitExpiry (n : LineId)
  /-- ANSWER_TONE_ONSET (R37) -/
  | answerToneOnset (n : LineId)
  /-- ANSWER_TONE_CEASE (R37) -/
  | answerToneCease (n : LineId)
  /-- ANSWER_TONE_ACCEPTED (R37) -/
  | answerToneAccepted (n : LineId)
  /-- VOICE_PATH_OPEN (R38) -/
  | voicePathOpen (n : LineId)
  /-- VOICE_FRAME_END (R136): a frame of 80 samples ended; the samples of it that the encoder has not been given. -/
  | voiceFrameEnd (n : LineId) (samples : List Sample)
  /-- VOICE_SETTLE_EXPIRY (R51) -/
  | voiceSettleExpiry (n : LineId)
  /-- ADAPTIVE_LISTEN_EXPIRY (R54) -/
  | adaptiveListenExpiry (n : LineId)
  /-- FAX_CALLING_TONE_ONSET (R54) -/
  | faxCallingToneOnset (n : LineId)
  /-- FAX_CALLING_TONE_CEASE (R54): the burst lasted `ms` milliseconds. -/
  | faxCallingToneCease (n : LineId) (ms : Nat)
  /-- DATA_CALLING_TONE_ONSET (R54) -/
  | dataCallingToneOnset (n : LineId)
  /-- DATA_CALLING_TONE_CEASE (R54) -/
  | dataCallingToneCease (n : LineId)
  /-- DATA_CALLING_TONE_ACCEPTED (R54) -/
  | dataCallingToneAccepted (n : LineId)
  /-- DTMF_DIGIT (R150): the digit's character code. -/
  | dtmfDigit (n : LineId) (digit : Byte)
  /-- ENCODE_SAMPLE (R140) -/
  | encodeSample (n : LineId) (x : Sample)
  /-- DECODE_SAMPLE (R148) -/
  | decodeSample (n : LineId)
  /-- PUMP_SETTLE_COMPLETE (R63): the settle check passed or failed; the voltage at an off-hook attempt that follows. -/
  | pumpSettleComplete (p : PumpId) (pass : Bool) (volt : Bool)
  /-- CLAIM_WAIT_EXPIRY (R62) -/
  | claimWaitExpiry (n : LineId)
  /-- PUMP_SELF_FAULT (R66) -/
  | pumpSelfFault (p : PumpId)
  /-- DATA_TRAINING_SUCCESS (R80): the far maximum rung and the first report. -/
  | dataTrainingSuccess (n : LineId) (farMax : Nat) (sig err : Word)
  /-- FAX_TRAINING_SUCCESS (R68): the first report. -/
  | faxTrainingSuccess (n : LineId) (sig err : Word)
  /-- TRAINING_SERVICE_MISMATCH (R68) -/
  | trainingServiceMismatch (n : LineId)
  /-- TRAINING_TIMER_EXPIRY (R11) -/
  | trainingTimerExpiry (n : LineId)
  /-- GRADING_WINDOW (R81): the window's S and E. -/
  | gradingWindow (n : LineId) (sig err : Word)
  /-- SHIFT_DONE (R85) -/
  | shiftDone (n : LineId)
  /-- SHIFT_FAILED (R86) -/
  | shiftFailed (n : LineId)
  /-- SHIFT_ANSWER_EXPIRY (R70) -/
  | shiftAnswerExpiry (n : LineId)
  /-- FAR_RETRAIN (R86) -/
  | farRetrain (n : LineId)
  /-- RETRAIN_COMPLETION (R88): the attempt, the far maximum rung and the first report of the new exchange. -/
  | retrainCompletion (a : RetrainAttempt) (farMax : Nat) (sig err : Word)
  /-- RETRAIN_ATTEMPT_EXPIRY (R71) -/
  | retrainAttemptExpiry (a : RetrainAttempt)
  /-- RETRAIN_SERVICE_MISMATCH (R71) -/
  | retrainServiceMismatch (a : RetrainAttempt)
  /-- CARRIER_CEASE (R72) -/
  | carrierCease (n : LineId)
  /-- CARRIER_RETURN (R72) -/
  | carrierReturn (n : LineId)
  /-- CARRIER_LOSS_EXPIRY (R72) -/
  | carrierLossExpiry (n : LineId)
  /-- LINK_OPEN_REPEAT (R95) -/
  | linkOpenRepeat (n : LineId)
  /-- LINK_OPEN_EXPIRY (R95) -/
  | linkOpenExpiry (n : LineId)
  /-- LINK_OPEN_FRAME (R95): the run of bytes between two flags. -/
  | linkOpenFrame (n : LineId) (run : List Byte)
  /-- INFO_FRAME (R106) -/
  | infoFrame (n : LineId) (run : List Byte)
  /-- RECEIPT_FRAME (R101) -/
  | receiptFrame (n : LineId) (run : List Byte)
  /-- REJECT_FRAME (R102) -/
  | rejectFrame (n : LineId) (run : List Byte)
  /-- HOLD_FRAME (R104) -/
  | holdFrame (n : LineId) (run : List Byte)
  /-- LINK_CLOSE_FRAME (R113) -/
  | linkCloseFrame (n : LineId) (run : List Byte)
  /-- BAD_FRAME (R98) -/
  | badFrame (n : LineId) (run : List Byte)
  /-- FRAME_SENT (R100) -/
  | frameSent (n : LineId)
  /-- REPLY_TIMER_EXPIRY (R103) -/
  | replyTimerExpiry (n : LineId)
  /-- HOLD_TIMER_EXPIRY (R104) -/
  | holdTimerExpiry (n : LineId)
  /-- DELIVERY_IDLE_EXPIRY (R111) -/
  | deliveryIdleExpiry (n : LineId)
  /-- OFFER_FRAME (R119) -/
  | offerFrame (n : LineId) (offer : Offer)
  /-- CHOICE_FRAME (R121) -/
  | choiceFrame (n : LineId) (choice : Choice)
  /-- CHECK_PATTERN_SENT (R73) -/
  | checkPatternSent (n : LineId)
  /-- CHECK_PATTERN_RESULT (R73): the pattern has been received; the bytes received at its byte positions. -/
  | checkPatternResult (n : LineId) (received : List Byte)
  /-- CHECK_CARRIER_WAIT_EXPIRY (R121) -/
  | checkCarrierWaitExpiry (n : LineId)
  /-- READY_FRAME (R120) -/
  | readyFrame (n : LineId)
  /-- NOT_READY_FRAME (R120) -/
  | notReadyFrame (n : LineId)
  /-- PAGE_SENT (R124) -/
  | pageSent (n : LineId)
  /-- PAGE_CARRIER_START (R125) -/
  | pageCarrierStart (n : LineId)
  /-- PAGE_ROW (R125): a decoded row, its fill removed. -/
  | pageRow (n : LineId) (damaged : Bool) (row : List Byte)
  /-- PAGE_CARRIER_CEASE (R125) -/
  | pageCarrierCease (n : LineId)
  /-- MORE_FRAME (R127) -/
  | moreFrame (n : LineId)
  /-- LAST_FRAME (R127) -/
  | lastFrame (n : LineId)
  /-- VERDICT_FRAME (R128): the verdict with the page's rows and bad rows as the receiver counted them. -/
  | verdictFrame (n : LineId) (verdict : SentVerdict) (rows badRows : Nat)
  /-- FAX_RELEASE_SENT (R128) -/
  | faxReleaseSent (n : LineId)
  /-- RELEASE_FRAME (R130) -/
  | releaseFrame (n : LineId)
  /-- FAX_REPLY_EXPIRY (R117) -/
  | faxReplyExpiry (n : LineId)
  /-- PULSE_PERIOD_END (R187): should silence be declared, the lines act in the order of `order`. -/
  | pulsePeriodEnd (order : List LineId)
  /-- CALLER_BURST_START (R43): the decoder found the data carrier and took the burst's first byte. -/
  | callerBurstStart (n : LineId) (first : Byte)
deriving DecidableEq, Repr

end Sys2Proof
end

