-- ==== Sys2Proof/Machine/Wire.lean ====
section
/-! DEFINITION. The frames of the checked link on the line (06 R97, R98): kinds, check, escapes, flags, and what a receiver
makes of a run of bytes between two flags. -/

namespace Sys2Proof.Machine

/-- A good frame of the checked link (R97). Numbers are modulo 128. -/
inductive LinkFrame
  | info (number : BitVec 7) (data : List Byte)
  | receipt (number : BitVec 7)
  | reject (number : BitVec 7)
  | hold (number : BitVec 7)
  | linkOpen (window infoLength : Nat)
  | linkClose
deriving DecidableEq, Repr

/-- The frames the engine can send: a window of 1 to 15, an info length of 1 to 256, 1 to 256 data bytes. -/
def LinkFrame.sendable : LinkFrame → Bool
  | .info _ data => decide (data ≠ [] ∧ data.length ≤ 256)
  | .linkOpen w l => decide (1 ≤ w ∧ w ≤ 15 ∧ 1 ≤ l ∧ l ≤ 256)
  | .receipt _ => true
  | .reject _ => true
  | .hold _ => true
  | .linkClose => true

namespace Wire

/-- The flag byte (R97). -/
def flag : Byte := 0xA5

/-- The escape byte (R97). -/
def escape : Byte := 0xA6

/-- One bit of the check register, the generator x^16 + x^12 + x^5 + 1 taken least significant bit first (R98). -/
def crcBit (r : Word) : Word :=
  if r.getLsbD 0 then (r >>> 1) ^^^ 0x8408 else r >>> 1

/-- One content byte fed to the check register, least significant bit first (R98). -/
def crcByte (r : Word) (b : Byte) : Word :=
  crcBit (crcBit (crcBit (crcBit (crcBit (crcBit (crcBit (crcBit (r ^^^ b.setWidth 16))))))))

/-- The check of some content bytes: the complement of the register (R98). -/
def check (content : List Byte) : Word := ~~~ (content.foldl crcByte 0xFFFF)

/-- The two check bytes, less significant first (R98). -/
def checkBytes (content : List Byte) : List Byte :=
  [(check content).setWidth 8, (check content >>> 8).setWidth 8]

/-- A frame's number as a byte (R97). -/
def numberByte (k : BitVec 7) : Byte := k.setWidth 8

/-- Kind byte and fields of a frame (R97). -/
def fields : LinkFrame → List Byte
  | .info k data => 0x10 :: numberByte k :: data
  | .receipt k => [0x21, numberByte k]
  | .reject k => [0x22, numberByte k]
  | .hold k => [0x23, numberByte k]
  | .linkOpen w l => [0x31, BitVec.ofNat 8 w, BitVec.ofNat 8 (l - 1)]
  | .linkClose => [0x32]

/-- The content of a frame: its fields and the two check bytes (R97, R98). -/
def content (f : LinkFrame) : List Byte := fields f ++ checkBytes (fields f)

/-- Escapes added (R97). -/
def addEscapes : List Byte → List Byte
  | [] => []
  | b :: rest => if b = flag ∨ b = escape then escape :: (b ^^^ 0x20) :: addEscapes rest else b :: addEscapes rest

/-- Escapes removed (R97); none where the run ends in an escape byte, that is, where a flag follows it. -/
def removeEscapes : List Byte → Option (List Byte)
  | [] => some []
  | b :: rest =>
    if b = escape then
      match rest with
      | [] => none
      | c :: rest' => (removeEscapes rest').map ((c ^^^ 0x20) :: ·)
    else (removeEscapes rest).map (b :: ·)

/-- The run of bytes between two flags that carries a frame. -/
def run (f : LinkFrame) : List Byte := addEscapes (content f)

/-- The bytes the pump sends for a frame, its two flags with it (R97). -/
def onLine (f : LinkFrame) : List Byte := flag :: (run f ++ [flag])

/-- A number field, 0 to 127 (R97). -/
def readNumber (b : Byte) : Option (BitVec 7) := if b.toNat < 128 then some (b.setWidth 7) else none

/-- The frame that a kind byte and fields spell; none where length or a field does not match the kind (R97, R98). -/
def readFields : List Byte → Option LinkFrame
  | [] => none
  | kind :: fs =>
    if kind = 0x10 then
      match fs with
      | [] => none
      | k :: data =>
        if data ≠ [] ∧ data.length ≤ 256 then (readNumber k).map (LinkFrame.info · data) else none
    else if kind = 0x32 then (if fs = [] then some .linkClose else none)
    else
      match fs with
      | [k] =>
        if kind = 0x21 then (readNumber k).map .receipt
        else if kind = 0x22 then (readNumber k).map .reject
        else if kind = 0x23 then (readNumber k).map .hold
        else none
      | [w, l] =>
        if kind = 0x31 ∧ 1 ≤ w.toNat ∧ w.toNat ≤ 15 then some (.linkOpen w.toNat (l.toNat + 1)) else none
      | _ => none

/-- The frame some content bytes carry, where the check is good (R98). -/
def readContent (c : List Byte) : Option LinkFrame :=
  if 3 ≤ c.length ∧ c.drop (c.length - 2) = checkBytes (c.take (c.length - 2)) then
    readFields (c.take (c.length - 2))
  else none

/-- What a receiver makes of a run between two flags: the good frame, or none for a bad frame (R97, R98). The test of an INFO
frame's length against the agreed L is the Link Framer's (`Link.goodFrame`). -/
def receive (r : List Byte) : Option LinkFrame :=
  match removeEscapes r with
  | none => none
  | some c => readContent c

end Wire

end Sys2Proof.Machine
end

