-- ==== Sys2Proof/Machine/Types.lean ====
section
/-! DEFINITION. The pieces of state the manual gives the engine, chapter by chapter, as plain data. -/

namespace Sys2Proof.Machine

/-! ## Lines and calls (01) -/

/-- The fourteen line states (R1), in the order of the table of R1. -/
inductive LineState
  | off | idle | alerting | queued | seized | dialling | progress | answering | training | connected | retraining
  | clearing | holdoff | fault
deriving DecidableEq, Repr

/-- The service of a call (R3). -/
inductive Service
  | none | data | fax | voice
deriving DecidableEq, Repr

/-- The direction of a call (R3). -/
inductive Direction
  | originate | answer
deriving DecidableEq, Repr

/-- The ten fault kinds, in the order of the table of R180. -/
inductive FaultKind
  | noDialTone | lineAbsent | noPump | pumpLost | trainFailed | carrierLost | retrainExhausted | linkExhausted
  | gradeCollapse | faxFailed
deriving DecidableEq, Repr

/-- The call outcomes, in the order of the table of section 1.5; FAULT with its kind. -/
inductive CallOutcome
  | none | connectedData | connectedFax | connectedVoice | busy | noAnswer | missed | cutByRing | localCleared
  | remoteCleared | hostSilent
  | fault (kind : FaultKind)
deriving DecidableEq, Repr

/-- The four fault policies (R181). -/
inductive Policy
  | latch | retry | report | silent
deriving DecidableEq, Repr

/-- The detail of a FAX_FAILED fault (R115, R181). -/
inductive FailDetail
  | none | training | noReply
deriving DecidableEq, Repr

/-- A timer: stopped, running from a limit in milliseconds, or paused (R11, R105). -/
inductive Timer
  | stopped
  | running (limitMs : Nat)
  | paused (limitMs : Nat)
deriving DecidableEq, Repr

/-- The state of a caller record (R45). -/
inductive CallerState
  | absent | present | withheld | damaged
deriving DecidableEq, Repr

/-- A caller record: its state and the three texts (R3, R45). -/
structure CallerRecord where
  state : CallerState
  number : List Byte
  name : List Byte
  dateTime : List Byte
deriving DecidableEq, Repr

/-- The call record of a line (R3, R6). -/
structure CallRecord where
  state : LineState
  service : Service
  direction : Direction
  pump : Option PumpId
  tRing : Long
  tOffhook : Long
  tConnect : Long
  tClear : Long
  dayConnect : Long
  /-- Whether the call has entered CONNECTED, so that t_connect is captured once (R6). -/
  wasConnected : Bool
  ringCount : Nat
  caller : CallerRecord
  lastOutcome : CallOutcome
  disablePending : Bool
deriving DecidableEq, Repr

/-- The Line Controller's own flags, sense inputs and timers (R10, R11, R15, R16; 02 R28, R37; 03 R54). -/
structure LineControl where
  declined : Bool
  heldCarrierLoss : Bool
  stateTimer : Timer
  /-- The 8 s since the last ring of a declined call (R16). -/
  declinedGap : Timer
  loopPresent : Bool
  loopMeasuring : Bool
  progressTone : Bool
  toneInFrame : Bool
  answerTone : Bool
  dataTone : Bool
  faxToneBurst : Bool
  dialCard : Option Nat
  answerCard : Option Nat
deriving DecidableEq, Repr

/-! ## Dialling and call progress (02) -/

/-- The mode of the dialler (R29). -/
inductive DialMode
  | tone | pulse
deriving DecidableEq, Repr

/-- What the dialler is doing (R30 to R32); `pulsesLeft` counts the breaks still to make, the present one with them. -/
inductive DialPhase
  | idle | toneOn | toneGap
  | pulseBreak (pulsesLeft : Nat)
  | pulseMake (pulsesLeft : Nat)
  | interdigit | pause | waitTone | flash
deriving DecidableEq, Repr

/-- The dialler: its copy of the order, what is left of the string in this attempt, and the counts of R39. -/
structure Dialler where
  service : Service
  symbols : List Byte
  rest : List Byte
  mode : DialMode
  phase : DialPhase
  /-- Runs through a tone's on time and gap, a break, a make, a pause, a W wait or a flash. -/
  timer : Timer
  attempt : Nat
  skipped : Nat
deriving DecidableEq, Repr

/-- The progress classifier (R34 to R38). -/
structure Progress where
  busyRun : Nat
  ringbackCount : Nat
  ringbackHeard : Bool
  /-- An onset of the present tone was seen in PROGRESS, so its on period is measured. -/
  onMeasured : Bool
  /-- The measured on period that the present off period follows. -/
  onPeriod : Option Nat
  voiceRun : Nat
  voicePath : Bool
  /-- The 4 s with no onset of progress tone. -/
  pathTimer : Timer
deriving DecidableEq, Repr

/-! ## Ringing, caller records and answering (03) -/

/-- The caller-record decoder (R43): its window, and the first byte of a burst in progress. -/
structure Decoder where
  windowOpen : Bool
  burst : Option Byte
deriving DecidableEq, Repr

/-- The steps of the answer sequence (R52). -/
inductive SeqStep
  | greeting | listen | switchWait | recording | host
deriving DecidableEq, Repr

/-- The answer sequence of a line (R49, R51 to R57). -/
structure AnswerSeq where
  step : SeqStep
  adaptive : Bool
  listening : Bool
  greetingStopped : Bool
  /-- The service a judged calling tone asked for (R55). -/
  switchTo : Service
  settleTimer : Timer
  listenTimer : Timer
deriving DecidableEq, Repr

/-! ## The pump pool (04) -/

/-- The states of a pump (R59). -/
inductive PumpState
  | free | settling | attached | out
deriving DecidableEq, Repr

/-- The side a pump trains as (R68). -/
inductive Role
  | originator | answerer
deriving DecidableEq, Repr

/-- What an attached pump is doing (R67). -/
inductive Activity
  | standby | training | carrying | shifting | retraining
deriving DecidableEq, Repr

/-- A pump (R59, R67, R70 to R72). -/
structure Pump where
  state : PumpState
  line : Option LineId
  activity : Activity
  role : Role
  /-- Holding in its activity after a far retrain request (R71), or after SHIFT_FAILED (R70). -/
  holding : Bool
  /-- The 2 s of a shift request or the 5 s of a retrain attempt (R70, R71). -/
  attemptTimer : Timer
  /-- The carrier-loss measurement (R72). -/
  carrierTimer : Timer
  /-- Carrier loss was reported: no further work for the line (R72). -/
  carrierLost : Bool
deriving DecidableEq, Repr

/-- The two classes of claims (R60). -/
inductive ClaimClass
  | answer | originate
deriving DecidableEq, Repr

/-- A line's claim (R60, R62): its class and its wait timer, stopped where it was granted without waiting. -/
structure Claim where
  cls : ClaimClass
  wait : Timer
deriving DecidableEq, Repr

/-- The Pump Wait Queue (R60), each class from its head. -/
structure WaitQueue where
  answer : List LineId
  originate : List LineId
deriving DecidableEq, Repr

/-! ## Line grade and the rate ladder (05) -/

/-- The rate state (R74). -/
inductive RateState
  | settled
  | shifting (target : Nat)
  | retraining
deriving DecidableEq, Repr

/-- The grade state of a line (R74); the grade G is computed from A (R77). -/
structure Grade where
  acc : Nat
  lastQ : Nat
  rung : Nat
  ceiling : Nat
  floor : Nat
  upCount : Nat
  downCount : Nat
  collapseCount : Nat
  retrainCount : Nat
  rate : RateState
  seedPending : Bool
deriving DecidableEq, Repr

/-! ## Blocks and chains (09) -/

/-- The owner of a block (section 9.2). -/
inductive Owner
  | free | host
  | send (n : LineId)
  | play (n : LineId)
  | recv (n : LineId)
  | deliv (n : LineId)
  | msg (m : EntryId)
  | greet (g : SlotId)
  | absent
deriving DecidableEq, Repr

/-- The kinds of payload (R154). -/
inductive BlockKind
  | plain | rows | voice
deriving DecidableEq, Repr

/-- The tests of a chain walk (R160). -/
inductive ChainTest
  | range | owner | repeated | length | fill | kind
deriving DecidableEq, Repr

/-- An accepted chain: its blocks in order, each with its fill as it stood at acceptance (R148, R161). -/
abbrev Chain := List (Nat × Nat)

/-- Where a chain walk failed (R160). -/
structure ChainFault where
  position : Nat
  test : ChainTest
deriving DecidableEq, Repr

/-- The kinds of Delivered List entry (R165). -/
inductive EntryKind
  | data | page
deriving DecidableEq, Repr

/-- Page verdicts (R115, R165). -/
inductive Verdict
  | none | good | goodRetrain | bad | incomplete
deriving DecidableEq, Repr

/-- A Delivered List entry (R165); `outstanding` holds its blocks still owned DELIV, `last` its last block. -/
structure Entry where
  kind : EntryKind
  first : Nat
  last : Nat
  blockCount : Nat
  outstanding : List Nat
  /-- Byte count of a DATA entry, row count of a PAGE entry. -/
  count : Nat
  badRows : Nat
  verdict : Verdict
  pageNumber : Nat
  closed : Bool
deriving DecidableEq, Repr

/-! ## The checked link (06) -/

/-- The link state (R94). -/
inductive LinkState
  | none | opening | up | farClosed | closed
deriving DecidableEq, Repr

/-- A chain accepted for sending (R99): the card it came with names it. -/
structure SendChain where
  card : Nat
  chain : Chain
  framed : Nat
  acked : Nat
deriving DecidableEq, Repr

/-- A frame sent and not acknowledged (R94). -/
structure SentFrame where
  number : BitVec 7
  card : Nat
  pos : Nat
  len : Nat
  tries : Nat
deriving DecidableEq, Repr

/-- The six link counters, 16 bits each, wrapping (R112). -/
structure LinkCounters where
  sent : Word
  resent : Word
  rejects : Word
  received : Word
  bad : Word
  holds : Word
deriving DecidableEq, Repr

/-- The link of a line (R94), and what the pump still has to send for it (R100). -/
structure Link where
  state : LinkState
  window : Nat
  infoLength : Nat
  nextSend : BitVec 7
  sendWindow : List SentFrame
  sendList : List SendChain
  held : Bool
  expected : BitVec 7
  rejectSent : Bool
  critical : Bool
  inFlight : Bool
  replyDue : Option LinkFrame
  frameErrors : Nat
  counters : LinkCounters
  openTimer : Timer
  repeatTimer : Timer
  replyTimer : Timer
  holdTimer : Timer
  idleTimer : Timer
  /-- The frame the pump is sending. -/
  sending : Option LinkFrame
  /-- Replies due, in order. -/
  replies : List LinkFrame
  /-- Numbers of the Send Window still to be sent again, in order. -/
  resends : List (BitVec 7)
deriving DecidableEq, Repr

/-! ## Fax sessions (07) -/

/-- The side a line plays (R115). -/
inductive FaxRole
  | none | sender | receiver
deriving DecidableEq, Repr

/-- The phases (R115). -/
inductive FaxPhase
  | none | offer | choice | check | page | post | release
deriving DecidableEq, Repr

/-- A control frame (chapter 7). -/
inductive FaxFrame
  | offer (o : Offer)
  | choice (c : Choice)
  | ready | notReady | more | last
  | verdict (v : SentVerdict) (rows badRows : Nat)
  | release
deriving DecidableEq, Repr

/-- What the pump is doing for the session (R73, R124, R125, R128). -/
inductive FaxWork
  | none
  | patternOut (rung : Nat)
  | patternIn (rung : Nat)
  | pageOut | pageIn | releaseOut
deriving DecidableEq, Repr

/-- The page being received (R115, R125). -/
structure OpenPage where
  rows : Nat
  badRows : Nat
  run : Nat
  longest : Nat
  discarded : Bool
deriving DecidableEq, Repr

/-- A page waiting to be sent (R122): its order's card, its position in the order, its chain, its last-of-document flag, and
whether it has been sent again after a BAD. -/
structure Page where
  card : Nat
  index : Nat
  chain : Chain
  lastOfDocument : Bool
  resent : Bool
deriving DecidableEq, Repr

/-- A FAX PAGES order with pages in the Page List (R122, R129). -/
structure FaxOrder where
  card : Nat
  verdicts : List Verdict
  resent : Nat
  cutShort : Nat
deriving DecidableEq, Repr

/-- A wait of R117 that a check has interrupted (R121). -/
structure FaxWait where
  phase : FaxPhase
  standing : Option FaxFrame
  expiries : Nat
deriving DecidableEq, Repr

/-- The fax session of a line (R115). -/
structure Fax where
  role : FaxRole
  phase : FaxPhase
  offerHeld : Option Offer
  rung : Nat
  fine : Bool
  rowTime : Nat
  width : Nat
  standing : Option FaxFrame
  expiries : Nat
  replyTimer : Timer
  checkAttempts : Nat
  resendPending : Bool
  retrainPending : Bool
  pageCount : Nat
  pagesDiscarded : Nat
  page : Option OpenPage
  lastVerdict : Verdict
  lastRows : Nat
  lastBadRows : Nat
  failDetail : FailDetail
  pages : List Page
  orders : List FaxOrder
  work : FaxWork
  /-- The 3 s in which the pattern's carrier must be found (R121). -/
  carrierTimer : Timer
  /-- The wait the receiver was in when a Choice came (R121). -/
  waitBefore : Option FaxWait
  /-- Sender: the frame after the head page was LAST (R123). -/
  sentLast : Bool
  /-- Receiver: the verdict of the page is given, and whether on LAST (R117, R127). -/
  judged : Option Bool
deriving DecidableEq, Repr

/-! ## Voice (08) -/

/-- The play in progress (R134). -/
inductive Play
  | none
  | slot (g : SlotId)
  | chain (first : Nat)
deriving DecidableEq, Repr

/-- Who started a recording (R134). -/
inductive RecordingKind
  | automatic
  | host (card : Nat)
deriving DecidableEq, Repr

/-- End reasons of recordings (R141), and TABLE_FULL (R139). -/
inductive EndReason
  | none | silence | maxLength | storeFull | digit | stopped | remote | cleared | tableFull
deriving DecidableEq, Repr

/-- How a play ended (R148). -/
inductive PlayEnd
  | ended | stopped | switched | cleared
deriving DecidableEq, Repr

/-- One half of a codec: predictor and step index (R135). -/
structure Codec where
  p : Int
  k : Nat
deriving DecidableEq, Repr

/-- The voice state of a line (R134). -/
structure Voice where
  play : Play
  playCard : Option Nat
  playChain : Chain
  playTotal : Nat
  samplesPlayed : Nat
  recording : Option EntryId
  recKind : RecordingKind
  stopOnDigit : Bool
  encoder : Codec
  decoder : Codec
  silentRun : Nat
  /-- The samples of the present frame that the encoder has been given (R136). -/
  frame : List Sample
  /-- Samples of frames already judged that the encoder has yet to be given (R136, R141). -/
  ahead : Nat
  digits : List Byte
  overflow : Nat
  lastMessage : Nat
  lastEnd : EndReason
deriving DecidableEq, Repr

/-- The states of a Message Table entry (R137). -/
inductive MessageState
  | empty | recording | complete
deriving DecidableEq, Repr

/-- A Message Table entry (R137); `blocks` is its chain. -/
structure Message where
  changeCount : Word
  state : MessageState
  line : LineId
  number : Nat
  dayClock : Long
  caller : CallerRecord
  blocks : List Nat
  sampleCount : Nat
  endReason : EndReason
  trailingMs : Nat
deriving DecidableEq, Repr

/-- The states of a greeting slot (R144). -/
inductive SlotState
  | empty | loaded | withdrawing
deriving DecidableEq, Repr

/-- A greeting slot (R144), with the UNLOAD GREETING card that waits for its plays (R146). -/
structure Slot where
  state : SlotState
  chain : Chain
  sampleCount : Nat
  playCount : Nat
  unloadCard : Option Nat
deriving DecidableEq, Repr

/-! ## Orders and events (10) -/

/-- The hand word of a card (R171). -/
inductive Hand
  | free | posted | taken | answered
deriving DecidableEq, Repr

/-- A card: its hand word, and the 30 bytes from offset 0x02 on (12 section 12.6). -/
structure Card where
  hand : Hand
  body : List Byte
deriving DecidableEq, Repr

/-- What the running sweep has read of a card for its table's list (R173): whether the hand word was POSTED, and the post number where
that word has been read too. -/
structure CardRead where
  card : Nat
  posted : Bool
  number : Option Word
deriving DecidableEq, Repr

/-- The list of POSTED cards of the running sweep (R173): being made, with the cards read so far; or made, with the cards that have been
taken and whose orders wait for their owner (R174), and the cards left, each in the order of taking. -/
inductive CardList
  | reading (reads : List CardRead)
  | made (waiting cards : List Nat)
deriving DecidableEq, Repr

/-- An order table (R171, R173): its cards, its last-taken number, and the list of POSTED cards of the running sweep. -/
structure OrderTable where
  cards : List Card
  lastTaken : Word
  listed : CardList
deriving DecidableEq, Repr

/-- An event word with its tally and the three host words beside it (R176 to R178). -/
structure EventWord where
  bits : Word
  tally : Word
  mask : Word
  route : Word
  ack : Word
deriving DecidableEq, Repr

/-- The events of a line word, in the order of section 10.8. -/
inductive LineEvent
  | ring | caller | callUp | callDown | answered | digit | rate | retrain | recv | critical | page | message | fault
  | poolDry
deriving DecidableEq, Repr

/-- The events of the engine word, in the order of section 10.8. -/
inductive EngineEvent
  | started | answered | guard | mapRepair | poolLow | pumpOut | hostSilent | hostBack
deriving DecidableEq, Repr

/-- The answer statuses (R174). -/
inductive Status
  | done | refusedState | refusedBusy | refusedFull | badField | badChain | absent | cut | failed | unknown
deriving DecidableEq, Repr

/-- The Order Sweeper (R172): a sweep running, one held, and what the running sweep has passed. -/
structure Sweep where
  running : Bool
  held : Bool
  acked : List TableId
  /-- The next Block Map entry of the return sweep (09 R162). -/
  visited : Nat
  returned : Bool
deriving DecidableEq, Repr

/-- The port registers (R167), the sampled strap, the engine state, and the word the last host read gave. -/
structure Port where
  winA : BitVec 8
  winB : BitVec 8
  ieA : Bool
  ieB : Bool
  guardFlag : Bool
  strap : StoreSize
  engineRunning : Bool
  readData : Word
deriving DecidableEq, Repr

/-- The Engine Header's own fields (12 section 12.3); Free Count, block count and pump entries are computed. -/
structure Header where
  changeCount : Word
  ev : EventWord
  hostPulse : Word
  pulsePeriod : Word
  pulseMode : Word
  reserve : Word
  guardCount : Word
  mapRepairCount : Word
  tick : Long
  dayClock : Long
  dayTicks : Nat
  sweepCount : Long
  nextMessage : Nat
deriving DecidableEq, Repr

/-! ## Faults and the host pulse monitor (11) -/

/-- The last fault of a line (R180). -/
structure LastFault where
  kind : FaultKind
  detail : FailDetail
  policy : Policy
  tick : Long
deriving DecidableEq, Repr

/-- The Fault Manager's state of a line (R180). -/
structure FaultRecord where
  latch : Option FaultKind
  retryPending : Bool
  retryCount : Nat
  last : Option LastFault
deriving DecidableEq, Repr

/-- The host pulse monitor (R187): running with its period in seconds, the sample, the counts and flags. -/
structure Monitor where
  period : Option Nat
  sample : Word
  unchanged : Nat
  silent : Bool
  suspended : Bool
deriving DecidableEq, Repr

/-! ## The Line Profile (12 R190) -/

/-- The answer modes (03). -/
inductive AnswerMode
  | none | data | fax | voice | adaptive
deriving DecidableEq, Repr

/-- The call profile: every setting of R190, clamped, in the order of its table. -/
structure Profile where
  dialMode : DialMode
  blindDialling : Bool
  dialToneWait : Nat
  toneOn : Nat
  toneGap : Nat
  pauseTime : Nat
  answerWait : Nat
  busyOn : Nat
  busyOff : Nat
  ringbackOn : Nat
  ringbackOff : Nat
  tolerance : Nat
  ringbackLimit : Nat
  silenceThreshold : Nat
  trainingLimit : Nat
  guardTime : Nat
  callerCapture : Bool
  answerMode : AnswerMode
  ringsBeforeAnswer : Nat
  greetingSlot : Option SlotId
  recordAfter : Bool
  listenTime : Nat
  answerPumpWait : Nat
  originatePumpWait : Nat
  carrierLossTime : Nat
  maxRung : Nat
  minRung : Nat
  upMargin : Nat
  upWindows : Nat
  downWindows : Nat
  collapseThreshold : Nat
  collapseTime : Nat
  retrainLimit : Nat
  linkWindow : Nat
  maxInfo : Nat
  replyTime : Nat
  tryLimit : Nat
  receiveLimit : Nat
  deliveryIdle : Nat
  faxMaxRung : Nat
  fineResolution : Bool
  minRowTime : Nat
  widthClass : Nat
  badRowLimit : Nat
  runLimit : Nat
  silenceLimit : Nat
  maxLength : Nat
  stopOnDigit : Bool
  policies : List Policy
  retryLimit : Nat
  retryDelay : Nat
deriving DecidableEq, Repr

/-! ## A line, and what leaves the block -/

/-- A line: the state each block keeps for it. -/
structure Line where
  changeCount : Word
  ev : EventWord
  call : CallRecord
  ctl : LineControl
  profile : Profile
  claim : Option Claim
  dialler : Dialler
  prog : Progress
  dec : Decoder
  seq : AnswerSeq
  grade : Grade
  link : Link
  /-- The one block the line is filling (R106, R125). -/
  recvBlock : Option Nat
  delivered : List Entry
  fax : Fax
  voice : Voice
  fm : FaultRecord
  table : OrderTable
deriving DecidableEq, Repr

/-- What the block sends on a line or asks of the far end (log 6). -/
inductive Output
  /-- The bytes of a link frame, flags with them (R97). -/
  | linkBytes (n : LineId) (bytes : List Byte)
  | faxFrame (n : LineId) (f : FaxFrame)
  /-- The bytes of the check pattern at a rung (R73). -/
  | checkPattern (n : LineId) (rung : Nat) (bytes : List Byte)
  /-- A page's rows at a rung, each with the count of its fill bytes (R124). -/
  | pageRows (n : LineId) (rung : Nat) (rows : List (List Byte × Nat))
  /-- The dual tone of a symbol (R30). -/
  | dialTone (n : LineId) (symbol : Byte)
  /-- A shift request naming a rung (R70). -/
  | shiftRequest (n : LineId) (target : Nat)
  /-- A retrain started (R71). -/
  | retrainStart (n : LineId)
  /-- Training started as one side (R68). -/
  | trainingStart (n : LineId) (role : Role)
  /-- One sample of a play (R148). -/
  | audio (n : LineId) (x : Int)
deriving DecidableEq, Repr

end Sys2Proof.Machine
end

