-- ==== Sys2Proof/Machine/Grading.lean ====
section
/-! DEFINITION. The arithmetic of the Grade Unit (05 R75 to R79): measures, margins, the accumulator, the rung ladder. -/

namespace Sys2Proof.Machine

/-- The position of the highest set bit, counted from 0 (R75); 0 for 0. -/
def highBit (x : Nat) : Nat := Nat.log2 x

/-- The logarithmic measure of a power from 1 to 65535 (R75). -/
def lgOf (x : Nat) : Nat :=
  16 * highBit x + (if 4 ≤ highBit x then x / 2 ^ (highBit x - 4) else x * 2 ^ (4 - highBit x)) - 16

/-- The measure of a reported power, 0 taken as 1 (R75). -/
def lg (x : Word) : Nat := lgOf (if x.toNat = 0 then 1 else x.toNat)

/-- The clamped margin Q of a window (R76). -/
def margin (sig err : Word) : Nat :=
  min 160 ((3 * ((lg sig : Int) - (lg err : Int))).fdiv 4).toNat

/-- The accumulator after a window that is smoothed (R77): trunc rounds toward zero. -/
def smooth (acc q : Nat) : Nat := ((acc : Int) + ((16 * q : Int) - (acc : Int)).tdiv 4).toNat

/-- The grade G of an accumulator (R77). -/
def gradeOf (acc : Nat) : Nat := (acc + 8) / 16

/-- The grade G of a line (R74, R77). -/
def Grade.value (g : Grade) : Nat := gradeOf g.acc

/-- The threshold of a rung (R79). -/
def threshold (r : Nat) : Nat := 24 + 8 * r

/-- The highest rung from `lo` to `hi` whose threshold is at most `g` (R80, R83, R88). -/
def highestRung (lo g : Nat) : Nat → Option Nat
  | 0 => none
  | hi + 1 => if hi + 1 < lo then none else if threshold (hi + 1) ≤ g then some (hi + 1) else highestRung lo g hi

/-- A window smoothed into the grade (R76, R77). -/
def Grade.take (g : Grade) (q : Nat) : Grade := { g with lastQ := q, acc := smooth g.acc q }

/-- A report that seeds the grade (R78). -/
def Grade.seed (g : Grade) (q : Nat) : Grade := { g with lastQ := q, acc := 16 * q }

/-- The bounds of a data line from the far maximum rung (R79). -/
def Grade.bounds (g : Grade) (maxRung minRung farMax : Nat) : Grade :=
  let far := if farMax < 1 then 1 else if 14 < farMax then 14 else farMax
  { g with ceiling := min maxRung far, floor := min minRung (min maxRung far) }

end Sys2Proof.Machine
end

