-- ==== Sys2Proof/Machine/Memory.lean ====
section
/-! DEFINITION. The plain bytes of the store (12 section 12.1, 09 R153): Line Profiles, Block Map, host scratch and blocks, as a
list of (address, byte) pairs in one canonical form. The engine's records are not here: their bytes are computed (Layout.lean). -/

namespace Sys2Proof.Machine

/-- The Line Profile as engine reset writes it, one word each in the order of R190 (defaults of chapters 1 to 8 and 11). -/
def profileDefaults : List Nat :=
  [0, 0, 3, 80, 80, 2, 45, 500, 500, 1000, 4000, 20, 0, 64, 20, 1000] ++
  [1, 0, 2, 65535, 1, 3, 3, 60, 1500] ++
  [14, 1, 8, 20, 3, 20, 5, 3] ++
  [8, 128, 10, 6, 16, 50] ++
  [6, 1, 10, 0, 5, 16, 5, 60, 1] ++
  [1, 0, 1, 2, 1, 2, 2, 2, 2, 1, 3, 10]

/-- Byte `i` (0 the least significant) of a number. -/
def byteOf (v i : Nat) : Byte := BitVec.ofNat 8 (v / 256 ^ i)

/-- What an address that no entry lists reads as: the Line Profiles their defaults (R4, R179), everything else 0 (log 3). -/
def unlisted (a : Nat) : Byte :=
  if 0x0500 ≤ a ∧ a < 0x0900 then byteOf ((profileDefaults[(a % 256) / 2]?).getD 0) (a % 2) else 0

/-- The byte at an address. -/
def Memory.get : List Host.Cell → Nat → Byte
  | [], a => unlisted a
  | (b, v) :: rest, a => if a = b then v else if a < b then unlisted a else Memory.get rest a

/-- One byte written, the canonical form kept. -/
def Memory.set : List Host.Cell → Nat → Byte → List Host.Cell
  | [], a, v => if v = unlisted a then [] else [(a, v)]
  | (b, w) :: rest, a, v =>
    if a < b then (if v = unlisted a then (b, w) :: rest else (a, v) :: (b, w) :: rest)
    else if a = b then (if v = unlisted a then rest else (a, v) :: rest)
    else (b, w) :: Memory.set rest a v

/-- The canonical form: addresses strictly rising, no entry equal to what its address reads as unlisted. -/
def Memory.wf : List Host.Cell → Bool
  | [] => true
  | (a, v) :: rest =>
    (v != unlisted a) && (match rest with | [] => true | (b, _) :: _ => decide (a < b)) && Memory.wf rest

/-- A word, less significant byte at the lower address (00 Conventions). -/
def Memory.word (m : List Host.Cell) (a : Nat) : Nat := (Memory.get m a).toNat + 256 * (Memory.get m (a + 1)).toNat

/-- A word written. -/
def Memory.setWord (m : List Host.Cell) (a v : Nat) : List Host.Cell :=
  Memory.set (Memory.set m a (byteOf v 0)) (a + 1) (byteOf v 1)

/-- Bytes written from an address on. -/
def Memory.setBytes (m : List Host.Cell) (a : Nat) : List Byte → List Host.Cell
  | [] => m
  | b :: rest => Memory.setBytes (Memory.set m a b) (a + 1) rest

/-- `k` bytes from an address on. -/
def Memory.bytes (m : List Host.Cell) (a : Nat) : Nat → List Byte
  | 0 => []
  | k + 1 => Memory.get m a :: Memory.bytes m (a + 1) k

end Sys2Proof.Machine
end

