-- ==== Sys2Proof/Machine/Profile.lean ====
section
/-! DEFINITION. The copy of a Line Profile into the call profile, every setting brought into its range (01 R5, 12 R190). -/

namespace Sys2Proof.Machine

/-- `v` clamped into `lo` to `hi` (00 Conventions). -/
def clampNat (lo hi v : Nat) : Nat := if v < lo then lo else if hi < v then hi else v

/-- A minimum row time raised to the next of the five values, 40 ms above 40 (07 R118). -/
def raiseRowTime (v : Nat) : Nat := if v = 0 then 0 else if v ≤ 5 then 5 else if v ≤ 10 then 10 else if v ≤ 20 then 20 else 40

/-- A policy word (R190): a value above 3 reads REPORT. -/
def policyOf (v : Nat) : Policy :=
  match v with
  | 0 => .latch
  | 1 => .retry
  | 3 => .silent
  | _ => .report

/-- An answer mode word (R190): a value above 4 reads NONE. -/
def answerModeOf (v : Nat) : AnswerMode :=
  match v with
  | 1 => .data
  | 2 => .fax
  | 3 => .voice
  | 4 => .adaptive
  | _ => .none

/-- A greeting slot word (R190): a value above 7 reads none. -/
def slotOf (v : Nat) : Option SlotId := if h : v < 8 then some ⟨v, h⟩ else none

/-- The call profile made from the words of a Line Profile, `w o` the word at offset `o` (R5, R190). -/
def Profile.ofWords (w : Nat → Nat) : Profile where
  dialMode := if w 0x00 = 1 then .pulse else .tone
  blindDialling := w 0x02 != 0
  dialToneWait := clampNat 1 15 (w 0x04)
  toneOn := clampNat 40 200 (w 0x06)
  toneGap := clampNat 40 200 (w 0x08)
  pauseTime := clampNat 1 10 (w 0x0A)
  answerWait := clampNat 10 90 (w 0x0C)
  busyOn := clampNat 200 800 (w 0x0E)
  busyOff := clampNat 200 800 (w 0x10)
  ringbackOn := clampNat 800 2500 (w 0x12)
  ringbackOff := clampNat 2000 6000 (w 0x14)
  tolerance := clampNat 10 30 (w 0x16)
  ringbackLimit := clampNat 0 20 (w 0x18)
  silenceThreshold := clampNat 0 1023 (w 0x1A)
  trainingLimit := clampNat 5 30 (w 0x1C)
  guardTime := clampNat 500 5000 (w 0x1E)
  callerCapture := w 0x20 != 0
  answerMode := answerModeOf (w 0x22)
  ringsBeforeAnswer := clampNat 1 15 (w 0x24)
  greetingSlot := slotOf (w 0x26)
  recordAfter := w 0x28 != 0
  listenTime := clampNat 0 10 (w 0x2A)
  answerPumpWait := clampNat 0 10 (w 0x2C)
  originatePumpWait := clampNat 0 120 (w 0x2E)
  carrierLossTime := clampNat 500 5000 (w 0x30)
  maxRung := clampNat 1 14 (w 0x32)
  minRung := min (clampNat 1 14 (w 0x34)) (clampNat 1 14 (w 0x32))
  upMargin := clampNat 0 16 (w 0x36)
  upWindows := clampNat 1 31 (w 0x38)
  downWindows := clampNat 1 15 (w 0x3A)
  collapseThreshold := clampNat 0 160 (w 0x3C)
  collapseTime := clampNat 1 30 (w 0x3E)
  retrainLimit := clampNat 1 7 (w 0x40)
  linkWindow := clampNat 1 15 (w 0x42)
  maxInfo := clampNat 1 256 (w 0x44)
  replyTime := clampNat 1 50 (w 0x46)
  tryLimit := clampNat 1 15 (w 0x48)
  receiveLimit := clampNat 2 64 (w 0x4A)
  deliveryIdle := clampNat 10 500 (w 0x4C)
  faxMaxRung := clampNat 1 6 (w 0x4E)
  fineResolution := w 0x50 != 0
  minRowTime := raiseRowTime (w 0x52)
  widthClass := clampNat 0 2 (w 0x54)
  badRowLimit := clampNat 1 20 (w 0x56)
  runLimit := clampNat 1 64 (w 0x58)
  silenceLimit := clampNat 1 15 (w 0x5A)
  maxLength := clampNat 5 120 (w 0x5C)
  stopOnDigit := w 0x5E != 0
  policies := (List.range 10).map fun i => policyOf (w (0x60 + 2 * i))
  retryLimit := clampNat 0 15 (w 0x74)
  retryDelay := clampNat 1 60 (w 0x76)

/-- The call profile of the defaults (R4). -/
def Profile.default : Profile := Profile.ofWords fun o => (profileDefaults[o / 2]?).getD 0

/-- Where a fault kind stands in the table of R180. -/
def FaultKind.index : FaultKind → Nat
  | .noDialTone => 0
  | .lineAbsent => 1
  | .noPump => 2
  | .pumpLost => 3
  | .trainFailed => 4
  | .carrierLost => 5
  | .retrainExhausted => 6
  | .linkExhausted => 7
  | .gradeCollapse => 8
  | .faxFailed => 9

/-- The policy of the call profile for a fault kind (R181). -/
def Profile.policy (p : Profile) (k : FaultKind) : Policy := (p.policies[k.index]?).getD .report

end Sys2Proof.Machine
end

