-- ==== Sys2Proof/Machine/Initial.lean ====
section
/-! DEFINITION. The values of engine reset, piece by piece, as each chapter gives them. -/

namespace Sys2Proof.Machine

/-- A caller record of state ABSENT with empty texts (R4, R5). -/
def CallerRecord.none : CallerRecord := ⟨.absent, [], [], []⟩

/-- The call record at engine reset (R4). -/
def CallRecord.initial : CallRecord where
  state := .off
  service := .none
  direction := .originate
  pump := none
  tRing := 0
  tOffhook := 0
  tConnect := 0
  tClear := 0
  dayConnect := 0
  wasConnected := false
  ringCount := 0
  caller := .none
  lastOutcome := .none
  disablePending := false

/-- The Line Controller at engine reset (R4); loop current is presumed present (log 22). -/
def LineControl.initial : LineControl where
  declined := false
  heldCarrierLoss := false
  stateTimer := .stopped
  declinedGap := .stopped
  loopPresent := true
  loopMeasuring := false
  progressTone := false
  toneInFrame := false
  answerTone := false
  dataTone := false
  faxToneBurst := false
  dialCard := none
  answerCard := none

/-- The dialler at engine reset: stopped (R4). -/
def Dialler.initial : Dialler := ⟨.none, [], [], .tone, .idle, .stopped, 0, 0⟩

/-- The progress classifier with its counts at zero (R33 to R38). -/
def Progress.initial : Progress := ⟨0, 0, false, false, none, 0, false, .stopped⟩

/-- The answer sequence at step HOST (R52, R58). -/
def AnswerSeq.initial : AnswerSeq := ⟨.host, false, false, false, .none, .stopped, .stopped⟩

/-- The grade state at engine reset and at call start (R74). -/
def Grade.initial : Grade := ⟨0, 0, 0, 0, 0, 0, 0, 0, 0, .settled, false⟩

/-- The link counters at engine reset and at call start (R112). -/
def LinkCounters.initial : LinkCounters := ⟨0, 0, 0, 0, 0, 0⟩

/-- The link at engine reset and at call start (R94). -/
def Link.initial : Link where
  state := .none
  window := 0
  infoLength := 0
  nextSend := 0
  sendWindow := []
  sendList := []
  held := false
  expected := 0
  rejectSent := false
  critical := false
  inFlight := false
  replyDue := none
  frameErrors := 0
  counters := .initial
  openTimer := .stopped
  repeatTimer := .stopped
  replyTimer := .stopped
  holdTimer := .stopped
  idleTimer := .stopped
  sending := none
  replies := []
  resends := []

/-- The fax session at engine reset (R115). -/
def Fax.initial : Fax where
  role := .none
  phase := .none
  offerHeld := none
  rung := 0
  fine := false
  rowTime := 0
  width := 0
  standing := none
  expiries := 0
  replyTimer := .stopped
  checkAttempts := 0
  resendPending := false
  retrainPending := false
  pageCount := 0
  pagesDiscarded := 0
  page := none
  lastVerdict := .none
  lastRows := 0
  lastBadRows := 0
  failDetail := .none
  pages := []
  orders := []
  work := .none
  carrierTimer := .stopped
  waitBefore := none
  sentLast := false
  judged := none

/-- A codec half at the start of a recording or play (R135). -/
def Codec.initial : Codec := ⟨0, 0⟩

/-- The voice state at engine reset (R134). R134 names no reset value for the recording kind, which no recording then has: AUTOMATIC
is the model's choice (log 31). -/
def Voice.initial : Voice where
  play := .none
  playCard := none
  playChain := []
  playTotal := 0
  samplesPlayed := 0
  recording := none
  recKind := .automatic
  stopOnDigit := false
  encoder := .initial
  decoder := .initial
  silentRun := 0
  frame := []
  ahead := 0
  digits := []
  overflow := 0
  lastMessage := 0
  lastEnd := .none

/-- An EMPTY message entry (R137, R143): no block and every count 0. That its other fields are 0, ABSENT and NONE is the model's DESIGN
CHOICE, unsafe (log 42). -/
def Message.initial (changeCount : Word) : Message := ⟨changeCount, .empty, 0, 0, 0, .none, [], 0, .none, 0⟩

/-- An EMPTY greeting slot (R144). -/
def Slot.initial : Slot := ⟨.empty, [], 0, 0, none⟩

/-- A card at engine reset: FREE (R171); the bytes of its body are the model's choice (log 11). -/
def Card.initial : Card := ⟨.free, List.replicate 30 0⟩

/-- A table of `k` cards at engine reset (R171, R173). -/
def OrderTable.initial (k : Nat) : OrderTable := ⟨List.replicate k .initial, 0, .reading []⟩

/-- An event word at engine reset (R176). -/
def EventWord.initial : EventWord := ⟨0, 0, 0, 0, 0⟩

/-- The Fault Manager's state of a line at engine reset (R180). -/
def FaultRecord.initial : FaultRecord := ⟨none, false, 0, none⟩

/-- A line at engine reset. -/
def Line.initial : Line where
  changeCount := 0
  ev := .initial
  call := .initial
  ctl := .initial
  profile := .default
  claim := none
  dialler := .initial
  prog := .initial
  dec := ⟨false, none⟩
  seq := .initial
  grade := .initial
  link := .initial
  recvBlock := none
  delivered := []
  fax := .initial
  voice := .initial
  fm := .initial
  table := .initial 8

/-- The Engine Header at engine reset (R179, R159, R134). -/
def Header.initial : Header where
  changeCount := 0
  ev := .initial
  hostPulse := 0
  pulsePeriod := 0
  pulseMode := 0
  reserve := 16
  guardCount := 0
  mapRepairCount := 0
  tick := 0
  dayClock := 0
  dayTicks := 0
  sweepCount := 0
  nextMessage := 1

/-- A pump at engine reset: SETTLING with no line (R59). R67 gives an activity to an ATTACHED pump alone and R68 a role at training; that
the two fields hold STANDBY and originator before is the model's choice (log 36). -/
def Pump.initial : Pump := ⟨.settling, none, .standby, .originator, false, .stopped, .stopped, false⟩

/-- The port at engine reset with a strap (R167). -/
def Port.initial (strap : StoreSize) : Port := ⟨0, 1, false, false, false, strap, false, 0⟩

/-- The monitor at engine reset (R187). -/
def Monitor.initial : Monitor := ⟨none, 0, 0, false, false⟩

/-- The block count of a store size (R153). -/
def blocksFitted : StoreSize → Nat
  | .k128 => 112
  | .k256 => 240
  | .k512 => 496

end Sys2Proof.Machine
end

