-- ==== Sys2Proof/Machine/State.lean ====
section
/-! DEFINITION. The state of the block as plain data, its reasons to stop, and the state right after reset. -/

namespace Sys2Proof.Machine

/-- The Store Controller's own: the plain bytes of the store, the internal owner of each block below the block count, and the
free stack, top first (R153 to R158). -/
structure Store where
  mem : List Host.Cell
  owners : List Owner
  free : List Nat
deriving DecidableEq, Repr

/-- Everything the spec gives the engine; `outputs` (log 6), `draws` (log 13) and `pending` (log 1) are the model's own. -/
structure State where
  port : Port
  hdr : Header
  engTable : OrderTable
  sweep : Sweep
  lines : Vector Line 4
  pumps : Vector Pump 3
  queue : WaitQueue
  store : Store
  messages : Vector Message 32
  slots : Vector Slot 8
  monitor : Monitor
  outputs : List Output
  draws : Nat
  pending : List Instr
deriving DecidableEq, Repr

/-- The reasons a step stops with a fault. -/
inductive Fault
  /-- Raised by HOST_STORE_WRITE and HOST_STORE_READ at an odd window offset, an address R168 says no access has (log 12): safe,
  since the state is not changed and no ill-formed access is given a meaning. -/
  | oddOffset
deriving DecidableEq, Repr

/-- The reasons a step has no meaning. -/
inductive Refusal
  /-- Raised by an arm of `exec` whose command has no meaning yet: safe, the state is not changed. No arm does. -/
  | notModelled (mnemonic : String)
deriving DecidableEq, Repr

/-- The state after steps 1 to 3 of an engine reset (R179) with a strap, over some store bytes, outputs, draws and waiting commands. -/
def State.resetWith (strap : StoreSize) (mem : List Host.Cell) (outputs : List Output) (draws : Nat) (pending : List Instr) :
    State where
  port := .initial strap
  hdr := .initial
  engTable := .initial 4
  sweep := ⟨false, false, [], 0, false⟩
  lines := Vector.replicate 4 .initial
  pumps := Vector.replicate 3 .initial
  queue := ⟨[], []⟩
  store := ⟨mem, List.replicate (blocksFitted strap) .free, List.range (blocksFitted strap)⟩
  messages := Vector.replicate 32 (.initial 0)
  slots := Vector.replicate 8 .initial
  monitor := .initial
  outputs := outputs
  draws := draws
  pending := pending

/-- The machine right after reset at power-on: STARTING, its pumps settling (R179, log 4), the strap at 128 KiB (log 2). -/
def State.reset : State := .resetWith .k128 [] [] 0 []

end Sys2Proof.Machine
end

