-- ==== Sys2Proof/Machine/Access.lean ====
section
/-! DEFINITION. Reading and updating one piece of the state: a line, a part of a line, a pump, a slot, a message, a card. -/

namespace Sys2Proof.Machine

/-- The four lines, in ascending order. -/
def allLines : List LineId := [0, 1, 2, 3]

/-- The three pumps, in ascending order. -/
def allPumps : List PumpId := [0, 1, 2]

/-- Line `n`. -/
def State.line (s : State) (n : LineId) : Line := s.lines[n]

/-- Line `n` changed by `f`. -/
def State.onLine (s : State) (n : LineId) (f : Line → Line) : State :=
  { s with lines := s.lines.set n.val (f (s.line n)) n.isLt }

/-- The call record of line `n` changed. -/
def State.onCall (s : State) (n : LineId) (f : CallRecord → CallRecord) : State := s.onLine n fun l => { l with call := f l.call }

/-- The Line Controller of line `n` changed. -/
def State.onCtl (s : State) (n : LineId) (f : LineControl → LineControl) : State := s.onLine n fun l => { l with ctl := f l.ctl }

/-- The dialler of line `n` changed. -/
def State.onDialler (s : State) (n : LineId) (f : Dialler → Dialler) : State :=
  s.onLine n fun l => { l with dialler := f l.dialler }

/-- The progress classifier of line `n` changed. -/
def State.onProg (s : State) (n : LineId) (f : Progress → Progress) : State := s.onLine n fun l => { l with prog := f l.prog }

/-- The answer sequence of line `n` changed. -/
def State.onSeq (s : State) (n : LineId) (f : AnswerSeq → AnswerSeq) : State := s.onLine n fun l => { l with seq := f l.seq }

/-- The grade of line `n` changed. -/
def State.onGrade (s : State) (n : LineId) (f : Grade → Grade) : State := s.onLine n fun l => { l with grade := f l.grade }

/-- The link of line `n` changed. -/
def State.onLink (s : State) (n : LineId) (f : Link → Link) : State := s.onLine n fun l => { l with link := f l.link }

/-- The fax session of line `n` changed. -/
def State.onFax (s : State) (n : LineId) (f : Fax → Fax) : State := s.onLine n fun l => { l with fax := f l.fax }

/-- The voice state of line `n` changed. -/
def State.onVoice (s : State) (n : LineId) (f : Voice → Voice) : State := s.onLine n fun l => { l with voice := f l.voice }

/-- The Fault Manager's state of line `n` changed. -/
def State.onFm (s : State) (n : LineId) (f : FaultRecord → FaultRecord) : State := s.onLine n fun l => { l with fm := f l.fm }

/-- The Engine Header changed. -/
def State.onHdr (s : State) (f : Header → Header) : State := { s with hdr := f s.hdr }

/-- The store changed. -/
def State.onStore (s : State) (f : Store → Store) : State := { s with store := f s.store }

/-- Pump `p`. -/
def State.pump (s : State) (p : PumpId) : Pump := s.pumps[p]

/-- Pump `p` changed. -/
def State.onPump (s : State) (p : PumpId) (f : Pump → Pump) : State :=
  { s with pumps := s.pumps.set p.val (f (s.pump p)) p.isLt }

/-- Greeting slot `g`. -/
def State.slot (s : State) (g : SlotId) : Slot := s.slots[g]

/-- Greeting slot `g` changed. -/
def State.onSlot (s : State) (g : SlotId) (f : Slot → Slot) : State :=
  { s with slots := s.slots.set g.val (f (s.slot g)) g.isLt }

/-- Message entry `m`. -/
def State.message (s : State) (m : EntryId) : Message := s.messages[m]

/-- Message entry `m` changed. -/
def State.onMessage (s : State) (m : EntryId) (f : Message → Message) : State :=
  { s with messages := s.messages.set m.val (f (s.message m)) m.isLt }

/-- An order table. -/
def State.table (s : State) (t : TableId) : OrderTable :=
  match t with
  | .line n => (s.line n).table
  | .engine => s.engTable

/-- An order table changed. -/
def State.onTable (s : State) (t : TableId) (f : OrderTable → OrderTable) : State :=
  match t with
  | .line n => s.onLine n fun l => { l with table := f l.table }
  | .engine => { s with engTable := f s.engTable }

/-- Card `i` of a table. -/
def State.card (s : State) (t : TableId) (i : Nat) : Card := ((s.table t).cards[i]?).getD .initial

/-- Card `i` of a table written. -/
def State.setCard (s : State) (t : TableId) (i : Nat) (c : Card) : State :=
  s.onTable t fun tb => { tb with cards := tb.cards.set i c }

/-- Something sent on a line or asked of the far end (log 6). -/
def State.emit (s : State) (o : Output) : State := { s with outputs := s.outputs ++ [o] }

/-- Whether a timer runs. -/
def Timer.isRunning : Timer → Bool
  | .running _ => true
  | _ => false

/-- A running timer paused with the time it has left (R105). -/
def Timer.pause : Timer → Timer
  | .running ms => .paused ms
  | t => t

/-- A paused timer resumed (R105). -/
def Timer.resume : Timer → Timer
  | .paused ms => .running ms
  | t => t

/-- A count of 16 bits raised by 1. What it becomes past 65535, where the manual gives neither a wrap nor a stop, is a free value
(log 13); `k` tells the counts of one event apart. -/
def State.bump (s : State) (n : LineId) (k v : Nat) : Nat :=
  if v < 65535 then v + 1 else (Config.countPastTop (32 * s.draws + 8 * n.val + k)).toNat

/-- The event's free values are used up (log 13). -/
def State.draw (s : State) : State := { s with draws := s.draws + 1 }

/-- The hook of a line is off exactly in these states (R1). -/
def LineState.offHook : LineState → Bool
  | .seized | .dialling | .progress | .answering | .training | .connected | .retraining => true
  | _ => false

/-- The line is in state CONNECTED with a service. -/
def Line.connectedAs (l : Line) (v : Service) : Bool := decide (l.call.state = .connected) && decide (l.call.service = v)

end Sys2Proof.Machine
end

