-- ==== Sys2Proof/Machine/Flags.lean ====
section
/-! DEFINITION. Event words, tallies, the interrupt pins and the bits of STAT and CTRL (10 R167, R176 to R178, 12 sections 12.2
and 12.7). -/

namespace Sys2Proof.Machine

/-- The bit of a line event (12.7: in the order of the table of section 10.8). -/
def LineEvent.bit : LineEvent → Nat
  | .ring => 0
  | .caller => 1
  | .callUp => 2
  | .callDown => 3
  | .answered => 4
  | .digit => 5
  | .rate => 6
  | .retrain => 7
  | .recv => 8
  | .critical => 9
  | .page => 10
  | .message => 11
  | .fault => 12
  | .poolDry => 13

/-- The bit of an engine event (12.7). -/
def EngineEvent.bit : EngineEvent → Nat
  | .started => 0
  | .answered => 1
  | .guard => 2
  | .mapRepair => 3
  | .poolLow => 4
  | .pumpOut => 5
  | .hostSilent => 6
  | .hostBack => 7

/-- The word with one bit set. -/
def bitWord (i : Nat) : Word := (1 : Word) <<< i

/-- An event raised in a word: its bit set, the tally one more (R176). -/
def EventWord.raise (w : EventWord) (i : Nat) : EventWord := { w with bits := w.bits ||| bitWord i, tally := w.tally + 1 }

/-- One acknowledge step: the bits set in the acknowledge word cleared, the acknowledge word zeroed, the tally kept (R177). -/
def EventWord.acknowledge (w : EventWord) : EventWord := { w with bits := w.bits &&& ~~~ w.ack, ack := 0 }

/-- A line event raised (R176). -/
def State.raise (s : State) (n : LineId) (e : LineEvent) : State := s.onLine n fun l => { l with ev := l.ev.raise e.bit }

/-- An engine event raised (R176). -/
def State.raiseEngine (s : State) (e : EngineEvent) : State := s.onHdr fun h => { h with ev := h.ev.raise e.bit }

/-- The five event words. -/
def State.eventWords (s : State) : List EventWord := s.hdr.ev :: allLines.map fun n => (s.line n).ev

/-- INTA: IEA set and some event bit set, enabled and routed to A (R178). -/
def State.inta (s : State) : Bool := s.port.ieA && s.eventWords.any fun w => w.bits &&& w.mask &&& ~~~ w.route != 0

/-- INTB: IEB set and some event bit set, enabled and routed to B (R178). -/
def State.intb (s : State) : Bool := s.port.ieB && s.eventWords.any fun w => w.bits &&& w.mask &&& w.route != 0

/-- The word a STAT read gives (R167, 12.2); the bits that 12.2 does not name read 0, the model's choice (log 30). -/
def State.stat (s : State) : Word :=
  (if s.port.engineRunning then bitWord 0 else 0) ||| (if s.inta then bitWord 1 else 0) |||
  (if s.intb then bitWord 2 else 0) ||| (if s.port.guardFlag then bitWord 3 else 0)

/-- The strap as CTRL bits 8 and 9 read it (12.2). -/
def strapCode : StoreSize → Nat
  | .k128 => 0
  | .k256 => 1
  | .k512 => 2

/-- The word a CTRL read gives: the sampled strap, IEA and IEB, RESET as 0 (R167, 12.2); the bits that 12.2 does not name read 0,
the model's choice (log 30). -/
def State.ctrl (s : State) : Word :=
  BitVec.ofNat 16 (256 * strapCode s.port.strap) ||| (if s.port.ieA then bitWord 1 else 0) |||
  (if s.port.ieB then bitWord 2 else 0)

/-- The word an ATTN read gives: the low 16 bits of the Sweep Count (R167, R172). -/
def State.attn (s : State) : Word := s.hdr.sweepCount.setWidth 16

/-- The word a WINA read gives (R167). -/
def State.wina (s : State) : Word := s.port.winA.setWidth 16

/-- The word a WINB read gives (R167). -/
def State.winb (s : State) : Word := s.port.winB.setWidth 16

end Sys2Proof.Machine
end

