-- ==== Sys2Proof/Machine/Operands.lean ====
section
/-! DEFINITION. The codes of chapter 12, the parameters of a card, and the walk that validates a chain (09 R160, 12 sections 12.4
to 12.7). -/

namespace Sys2Proof.Machine

/-- Line state codes: 0 to 13 in the order of the table of R1. -/
def LineState.code : LineState → Nat
  | .off => 0
  | .idle => 1
  | .alerting => 2
  | .queued => 3
  | .seized => 4
  | .dialling => 5
  | .progress => 6
  | .answering => 7
  | .training => 8
  | .connected => 9
  | .retraining => 10
  | .clearing => 11
  | .holdoff => 12
  | .fault => 13

/-- Service codes. -/
def Service.code : Service → Nat
  | .none => 0
  | .data => 1
  | .fax => 2
  | .voice => 3

/-- Direction codes. -/
def Direction.code : Direction → Nat
  | .originate => 0
  | .answer => 1

/-- Fault kind codes: 32 to 41 in the order of the table of R180. -/
def FaultKind.code (k : FaultKind) : Nat := 32 + k.index

/-- Outcome codes: 0 to 11 in the order of the table of section 1.5. -/
def CallOutcome.code : CallOutcome → Nat
  | .none => 0
  | .connectedData => 1
  | .connectedFax => 2
  | .connectedVoice => 3
  | .busy => 4
  | .noAnswer => 5
  | .missed => 6
  | .cutByRing => 7
  | .localCleared => 8
  | .remoteCleared => 9
  | .hostSilent => 10
  | .fault _ => 11

/-- The reason code SWITCHED of a play cut by an adaptive switch. -/
def switchedCode : Nat := 16

/-- Status codes. -/
def Status.code : Status → Nat
  | .done => 1
  | .refusedState => 2
  | .refusedBusy => 3
  | .refusedFull => 4
  | .badField => 5
  | .badChain => 6
  | .absent => 7
  | .cut => 8
  | .failed => 9
  | .unknown => 10

/-- Chain test codes. -/
def ChainTest.code : ChainTest → Nat
  | .range => 1
  | .owner => 2
  | .repeated => 3
  | .length => 4
  | .fill => 5
  | .kind => 6

/-- Caller record state codes. -/
def CallerState.code : CallerState → Nat
  | .absent => 0
  | .present => 1
  | .withheld => 2
  | .damaged => 3

/-- End reason codes. -/
def EndReason.code : EndReason → Nat
  | .none => 0
  | .silence => 1
  | .maxLength => 2
  | .storeFull => 3
  | .digit => 4
  | .stopped => 5
  | .remote => 6
  | .cleared => 7
  | .tableFull => 8

/-- Play end codes. -/
def PlayEnd.code : PlayEnd → Nat
  | .ended => 1
  | .stopped => 2
  | .switched => 3
  | .cleared => 4

/-- Verdict codes in the Line Record and in answers. -/
def Verdict.code : Verdict → Nat
  | .none => 0
  | .good => 1
  | .goodRetrain => 2
  | .bad => 3
  | .incomplete => 4

/-- Link state codes, in the order of R94. -/
def LinkState.code : LinkState → Nat
  | .none => 0
  | .opening => 1
  | .up => 2
  | .farClosed => 3
  | .closed => 4

/-- Fax role codes, in the order of R115. -/
def FaxRole.code : FaxRole → Nat
  | .none => 0
  | .sender => 1
  | .receiver => 2

/-- Fax phase codes, in the order of R115. -/
def FaxPhase.code : FaxPhase → Nat
  | .none => 0
  | .offer => 1
  | .choice => 2
  | .check => 3
  | .page => 4
  | .post => 5
  | .release => 6

/-- Fail detail codes, in the order of R115. -/
def FailDetail.code : FailDetail → Nat
  | .none => 0
  | .training => 1
  | .noReply => 2

/-- Policy codes (R190). -/
def Policy.code : Policy → Nat
  | .latch => 0
  | .retry => 1
  | .report => 2
  | .silent => 3

/-- Owner codes (12.5). -/
def Owner.code : Owner → Nat
  | .free => 0
  | .host => 1
  | .send _ => 2
  | .play _ => 3
  | .recv _ => 4
  | .deliv _ => 5
  | .msg _ => 6
  | .greet _ => 7
  | .absent => 8

/-- The index byte of an owner, 0 for an owner without one (R156). -/
def Owner.index : Owner → Nat
  | .send n => n.val
  | .play n => n.val
  | .recv n => n.val
  | .deliv n => n.val
  | .msg m => m.val
  | .greet g => g.val
  | _ => 0

/-- The map entry of an owner: code in the low byte, index in the high byte (12.5). -/
def Owner.word (o : Owner) : Nat := o.code + 256 * o.index

/-- Pump state codes (12.3). -/
def PumpState.code : PumpState → Nat
  | .free => 0
  | .settling => 1
  | .attached => 2
  | .out => 3

/-- Hand word codes (12.6). -/
def Hand.code : Hand → Nat
  | .free => 0
  | .posted => 1
  | .taken => 2
  | .answered => 3

/-- Message state codes (12.4). -/
def MessageState.code : MessageState → Nat
  | .empty => 0
  | .recording => 1
  | .complete => 2

/-- Slot state codes (12.4). -/
def SlotState.code : SlotState → Nat
  | .empty => 0
  | .loaded => 1
  | .withdrawing => 2

/-- Block kind codes (12.5). -/
def BlockKind.code : BlockKind → Nat
  | .plain => 1
  | .rows => 2
  | .voice => 3

/-- Delivered List entry kind codes (12.4). -/
def EntryKind.code : EntryKind → Nat
  | .data => 1
  | .page => 2

/-- State and verdict byte of a Delivered List slot (12.4). -/
def Entry.stateCode (e : Entry) : Nat :=
  if e.closed then
    match e.kind with
    | .data => 1
    | .page => e.verdict.code + 1
  else 0

/-- Yes and no. -/
def flagCode (b : Bool) : Nat := if b then 1 else 0

/-- The service of a card's code, DATA, FAX or VOICE (R22). -/
def serviceOf (c : Nat) : Option Service :=
  match c with
  | 1 => some .data
  | 2 => some .fax
  | 3 => some .voice
  | _ => none

/-- Byte at offset `o` of a card, from 0x02 on. -/
def Card.byte (c : Card) (o : Nat) : Nat := ((c.body[o - 2]?).getD 0).toNat

/-- Word at offset `o` of a card. -/
def Card.word (c : Card) (o : Nat) : Nat := c.byte o + 256 * c.byte (o + 1)

/-- A 32-bit field at offset `o` of a card. -/
def Card.long (c : Card) (o : Nat) : Nat := c.word o + 65536 * c.word (o + 2)

/-- The bytes of a word. -/
def wordBytes (v : Nat) : List Byte := [byteOf v 0, byteOf v 1]

/-- The bytes of a 32-bit field. -/
def longBytes (v : Nat) : List Byte := [byteOf v 0, byteOf v 1, byteOf v 2, byteOf v 3]

/-- The order codes of the line tables, 1 to 13 (12.6). -/
def isLineOrder (c : Nat) : Bool := decide (1 ≤ c ∧ c ≤ 13)

/-- The order codes of the engine table, 33 to 39 (12.6). -/
def isEngineOrder (c : Nat) : Bool := decide (33 ≤ c ∧ c ≤ 39)

/-! ## Blocks and chains -/

/-- Where block `b` begins (R153). -/
def blockAddr (b : Nat) : Nat := 0x4000 + 1024 * b

/-- The block count (R153): the owner map has one entry for each block. -/
def Store.blockCount (st : Store) : Nat := st.owners.length

/-- The Free Count (R158). -/
def Store.freeCount (st : Store) : Nat := st.free.length

/-- The next field of a block's header (R154). -/
def Store.next (st : Store) (b : Nat) : Nat := Memory.word st.mem (blockAddr b)

/-- The fill field of a block's header. -/
def Store.fill (st : Store) (b : Nat) : Nat := Memory.word st.mem (blockAddr b + 2)

/-- The kind byte of a block's header. -/
def Store.kind (st : Store) (b : Nat) : Nat := (Memory.get st.mem (blockAddr b + 4)).toNat

/-- One block tested at a position of a walk, the first test that fails in the order of R160. -/
def Store.testBlock (st : Store) (kind : BlockKind) (limit : Nat) (met : List Nat) (pos b : Nat) : Option ChainTest :=
  match st.owners[b]? with
  | none => some .range
  | some o =>
    if o ≠ .host then some .owner
    else if b ∈ met then some .repeated
    else if limit ≤ pos then some .length
    else if st.fill b = 0 ∨ 1016 < st.fill b then some .fill
    else if st.kind b ≠ kind.code then some .kind
    else none

/-- The walk from block `b` at position `pos` (R160); `met` holds the blocks met before. At most `limit` blocks pass, so fuel
above the limit is never used up. -/
def Store.walk (st : Store) (kind : BlockKind) (limit : Nat) : Nat → List Nat → Nat → Nat → Except ChainFault Chain
  | 0, _, pos, _ => .error ⟨pos, .length⟩
  | fuel + 1, met, pos, b =>
    match st.testBlock kind limit met pos b with
    | some t => .error ⟨pos, t⟩
    | none =>
      if st.next b = 65535 then .ok [(b, st.fill b)]
      else
        match st.walk kind limit fuel (b :: met) (pos + 1) (st.next b) with
        | .error e => .error e
        | .ok c => .ok ((b, st.fill b) :: c)

/-- Chain validation from a first block (R160). -/
def Store.validate (st : Store) (kind : BlockKind) (limit first : Nat) : Except ChainFault Chain :=
  st.walk kind limit (limit + 1) [] 0 first

/-- The pages of a FAX PAGES order validated in turn (R122, R160): a failure gives the page's position with it. That the pages of an order
are counted from 0, where no rule gives a base, is the model's choice (log 35). -/
def Store.validatePages (st : Store) : List Nat → Nat → List Nat → Except (Nat × ChainFault) (List Chain)
  | _, _, [] => .ok []
  | met, i, first :: rest =>
    match st.walk .rows 64 65 met 0 first with
    | .error e => .error (i, e)
    | .ok c =>
      match st.validatePages (c.map Prod.fst ++ met) (i + 1) rest with
      | .error e => .error e
      | .ok cs => .ok (c :: cs)

/-- The byte count of an accepted chain: the sum of its fills (R99). -/
def Chain.bytes (c : Chain) : Nat := (c.map Prod.snd).sum

end Sys2Proof.Machine
end

