-- ==== Sys2Proof/Machine/Ops.lean ====
section
/-! DEFINITION. The named operations over the store, its owners and the free stack, and over cards. Owners and the free stack are
changed by `Store.take`, `Store.assign` and `Store.release` alone (09 R155). -/

namespace Sys2Proof.Machine

/-! ## Owners and the free stack -/

/-- Where the map entry of block `b` stands (12.1). -/
def mapAddr (b : Nat) : Nat := 0x0D00 + 2 * b

/-- Block `b` given to owner `o` in the owner map, and its map entry rewritten in the same step (R156). -/
def Store.setOwner (st : Store) (b : Nat) (o : Owner) : Store :=
  { st with owners := st.owners.set b o, mem := Memory.setWord st.mem (mapAddr b) o.word }

/-- A pop: the block on top of the free stack goes to owner `o` (R158); none where the stack is empty. -/
def Store.take (st : Store) (o : Owner) : Option (Nat × Store) :=
  match st.free with
  | [] => none
  | b :: rest => some (b, { st with free := rest }.setOwner b o)

/-- A change of owner that leaves the free stack as it stands (R155): from an owner that is not FREE. -/
def Store.assign (st : Store) (b : Nat) (o : Owner) : Store :=
  match st.owners[b]? with
  | some .free => st
  | some _ => st.setOwner b o
  | none => st

/-- A change to FREE, which pushes the block on the free stack (R155). -/
def Store.release (st : Store) (b : Nat) : Store :=
  match st.owners[b]? with
  | some .free => st
  | some _ => { st.setOwner b .free with free := b :: st.free }
  | none => st

/-- Several blocks given to one owner in one step (R156, R161). -/
def Store.assignAll (st : Store) (bs : List Nat) (o : Owner) : Store := bs.foldl (fun st b => st.assign b o) st

/-- The blocks of a list that a given owner still holds. -/
def Store.ownedBy (st : Store) (bs : List Nat) (o : Owner) : List Nat := bs.filter fun b => st.owners[b]? == some o

/-- How many blocks an owner holds. -/
def Store.countOwned (st : Store) (o : Owner) : Nat := st.owners.count o

/-- The Reserve as the engine reads it, clamped to 0 to 64 (R159). -/
def State.reserve (s : State) : Nat := min s.hdr.reserve.toNat 64

/-- A pop with the POOL_LOW test (R158, R159). -/
def State.pop (s : State) (o : Owner) : Option (Nat × State) :=
  match s.store.take o with
  | none => none
  | some (b, st) =>
    some (b,
      if s.reserve ≤ s.store.freeCount ∧ st.freeCount < s.reserve then { s with store := st }.raiseEngine .poolLow
      else { s with store := st })

/-! ## Block headers and payloads -/

/-- The next field of a block written (R154). -/
def Store.setNext (st : Store) (b v : Nat) : Store := { st with mem := Memory.setWord st.mem (blockAddr b) v }

/-- The fill field of a block written. -/
def Store.setFill (st : Store) (b v : Nat) : Store := { st with mem := Memory.setWord st.mem (blockAddr b + 2) v }

/-- The whole header of a block that the engine begins to fill (R154): next 65535, fill 0. -/
def Store.newHeader (st : Store) (b : Nat) (kind : BlockKind) (n : LineId) (seq : Nat) : Store :=
  { st with
    mem := Memory.setBytes st.mem (blockAddr b)
      (wordBytes 65535 ++ wordBytes 0 ++ [byteOf kind.code 0, byteOf n.val 0] ++ wordBytes seq) }

/-- Bytes appended to a block after its fill, the fill raised (R106, R125). -/
def Store.append (st : Store) (b : Nat) (bytes : List Byte) : Store :=
  { st with mem := Memory.setBytes st.mem (blockAddr b + 8 + st.fill b) bytes }.setFill b (st.fill b + bytes.length)

/-- A payload byte of a block. -/
def Store.payload (st : Store) (b i : Nat) : Byte := Memory.get st.mem (blockAddr b + 8 + i)

/-- A payload byte of a block written. -/
def Store.setPayload (st : Store) (b i : Nat) (v : Byte) : Store :=
  { st with mem := Memory.set st.mem (blockAddr b + 8 + i) v }

/-- The byte at a position of a chain (R100, R148): blocks in chain order, each its first fill bytes. -/
def Store.chainByte (st : Store) : Chain → Nat → Byte
  | [], _ => 0
  | (b, fill) :: rest, i => if i < fill then st.payload b i else st.chainByte rest (i - fill)

/-- `k` bytes of a chain from a position on. -/
def Store.chainBytes (st : Store) (c : Chain) (from_ k : Nat) : List Byte :=
  (List.range k).map fun i => st.chainByte c (from_ + i)

/-! ## Answers -/

/-- The body an answer leaves in a card (R189): the Tick, the order code kept, status, reason, count, and the fields of the
answer, every byte not named 0. -/
def answerBody (c : Card) (tick : Long) (st : Status) (reason count : Nat) (fields : List Byte) : List Byte :=
  wordBytes tick.toNat ++ [byteOf (c.byte 4) 0, byteOf st.code 0, byteOf reason 0, byteOf count 0] ++
    (fields ++ List.replicate 24 0).take 24

/-- The answer of a card (R174, R189): the fields, then ANSWERED in the hand word, then the event ANSWERED. -/
def State.answerWith (s : State) (t : TableId) (i : Nat) (st : Status) (reason count : Nat) (fields : List Byte) : State :=
  let s := s.setCard t i ⟨.answered, answerBody (s.card t i) s.hdr.tick st reason count fields⟩
  match t with
  | .line n => s.raise n .answered
  | .engine => s.raiseEngine .answered

/-- An answer with answer count 0 (R189). -/
def State.answer (s : State) (t : TableId) (i : Nat) (st : Status) (reason : Nat) (fields : List Byte) : State :=
  s.answerWith t i st reason 0 fields

/-- The answer BAD_CHAIN: the test as reason, the position at 0x08 (R160, 12.6). -/
def State.answerBadChain (s : State) (t : TableId) (i : Nat) (e : ChainFault) : State :=
  s.answer t i .badChain e.test.code (wordBytes e.position)

/-- Status and reason of a long order ended by the end of its call (R15): CUT with the outcome, or FAILED with the fault kind. -/
def endAnswer (o : CallOutcome) : Status × Nat :=
  match o with
  | .fault k => (.failed, k.code)
  | o => (.cut, o.code)

end Sys2Proof.Machine
end

