-- ==== Sys2Proof/Machine/Layout.lean ====
section
/-! DEFINITION. The byte layout of the store as the host sees it (12 sections 12.1 to 12.7), the write guard (10 R169, R171), and
the bracketed updates of the Change Counts (10 R170). -/

namespace Sys2Proof.Machine

/-- A field of a record: its offset, its size in bytes and its value, little-endian. -/
abbrev Field := Nat × Nat × Nat

/-- The byte of a record at an offset; a byte that no field names reads 0 (chapter 12). -/
def fieldByte : List Field → Nat → Byte
  | [], _ => 0
  | (a, k, v) :: rest, o => if a ≤ o ∧ o < a + k then byteOf v (o - a) else fieldByte rest o

/-- A text as the value of its field: left-aligned, 0 beyond it (R190). -/
def textValue (bs : List Byte) : Nat := bs.foldr (fun b v => b.toNat + 256 * v) 0

/-- A line or pump number, 255 for none. -/
def orNone (o : Option Nat) : Nat := o.getD 255

/-- A pump entry of the Engine Header (12.3). -/
def Pump.entry (p : Pump) : Nat := p.state.code + 256 * orNone (p.line.map Fin.val)

/-- The engine fields of the Engine Header but the Change Count (12.3). -/
def State.headerFields (s : State) : List Field :=
  [(0x02, 2, s.hdr.ev.bits.toNat), (0x04, 2, s.hdr.ev.tally.toNat), (0x14, 2, s.store.freeCount),
   (0x16, 2, s.hdr.guardCount.toNat), (0x18, 2, s.hdr.mapRepairCount.toNat), (0x1A, 2, s.store.blockCount),
   (0x1C, 4, s.hdr.tick.toNat), (0x20, 4, s.hdr.dayClock.toNat), (0x24, 4, s.hdr.sweepCount.toNat),
   (0x28, 2, (s.pump 0).entry), (0x2A, 2, (s.pump 1).entry), (0x2C, 2, (s.pump 2).entry), (0x2E, 2, s.hdr.nextMessage)]

/-- The host fields of an event word (12.3, 12.4). -/
def EventWord.hostFields (w : EventWord) : List Field :=
  [(0x06, 2, w.mask.toNat), (0x08, 2, w.route.toNat), (0x0A, 2, w.ack.toNat)]

/-- The whole Engine Header. -/
def State.headerImage (s : State) : List Field :=
  (0x00, 2, s.hdr.changeCount.toNat) :: s.headerFields ++ s.hdr.ev.hostFields ++
  [(0x0C, 2, s.hdr.hostPulse.toNat), (0x0E, 2, s.hdr.pulsePeriod.toNat), (0x10, 2, s.hdr.pulseMode.toNat),
   (0x12, 2, s.hdr.reserve.toNat)]

/-- The fields of a greeting slot (12.4). -/
def Slot.fields (g : Slot) : List Field :=
  [(0x00, 1, g.state.code), (0x01, 1, g.playCount), (0x02, 2, (g.chain.head?.map Prod.fst).getD 65535),
   (0x04, 2, g.chain.length), (0x06, 4, g.sampleCount)]

/-- The call record's fields of a Line Record (12.4). -/
def CallRecord.fields (c : CallRecord) (latch : Option FaultKind) : List Field :=
  [(0x0C, 1, c.state.code), (0x0D, 1, c.service.code), (0x0E, 1, c.direction.code), (0x0F, 1, orNone (c.pump.map Fin.val)),
   (0x10, 4, c.tRing.toNat), (0x14, 4, c.tOffhook.toNat), (0x18, 4, c.tConnect.toNat), (0x1C, 4, c.tClear.toNat),
   (0x20, 4, c.dayConnect.toNat), (0x24, 2, c.ringCount), (0x26, 1, c.lastOutcome.code),
   (0x27, 1, (latch.map FaultKind.code).getD 0), (0x28, 1, flagCode c.disablePending), (0x29, 1, c.caller.state.code),
   (0x2A, 1, c.caller.number.length), (0x2B, 1, c.caller.name.length), (0x2C, 16, textValue c.caller.number),
   (0x3C, 15, textValue c.caller.name), (0x4B, 8, textValue c.caller.dateTime)]

/-- The grade's fields of a Line Record (12.4). -/
def Grade.fields (g : Grade) : List Field :=
  [(0x54, 2, g.acc), (0x56, 1, g.value), (0x57, 1, g.lastQ), (0x58, 1, g.rung), (0x59, 1, g.ceiling), (0x5A, 1, g.floor),
   (0x5B, 1, g.upCount), (0x5C, 1, g.downCount), (0x5D, 1, g.retrainCount), (0x5E, 2, g.collapseCount)]

/-- The link's fields of a Line Record (12.4). -/
def Link.fields (l : Link) : List Field :=
  [(0x60, 1, l.state.code), (0x61, 1, l.window), (0x62, 2, l.infoLength), (0x64, 1, l.nextSend.toNat),
   (0x65, 1, l.expected.toNat), (0x66, 1, l.sendWindow.length), (0x67, 1, l.sendList.length), (0x68, 1, flagCode l.held),
   (0x69, 1, flagCode l.critical), (0x6A, 2, l.counters.sent.toNat), (0x6C, 2, l.counters.resent.toNat),
   (0x6E, 2, l.counters.rejects.toNat), (0x70, 2, l.counters.received.toNat), (0x72, 2, l.counters.bad.toNat),
   (0x74, 2, l.counters.holds.toNat)]

/-- The fax session's fields of a Line Record (12.4). -/
def Fax.fields (f : Fax) : List Field :=
  [(0x76, 1, f.role.code), (0x77, 1, f.phase.code), (0x78, 1, f.rung), (0x79, 1, flagCode f.fine), (0x7A, 1, f.rowTime),
   (0x7B, 1, f.width), (0x7C, 1, f.lastVerdict.code), (0x7D, 1, f.failDetail.code), (0x7E, 2, f.pageCount),
   (0x80, 2, f.pagesDiscarded), (0x82, 2, f.lastRows), (0x84, 2, f.lastBadRows), (0x86, 1, f.pages.length)]

/-- Play kind and play slot or first block (12.4); with no play the block number reads 65535 (DEDUCED, log 11). -/
def Play.codes : Play → Nat × Nat
  | .none => (0, 65535)
  | .slot g => (1, g.val)
  | .chain first => (2, first)

/-- The voice fields of a Line Record (12.4). -/
def Voice.fields (v : Voice) : List Field :=
  [(0x88, 1, v.play.codes.1), (0x89, 1, orNone (v.recording.map Fin.val)), (0x8A, 2, v.play.codes.2),
   (0x8C, 4, v.samplesPlayed), (0x90, 2, v.lastMessage), (0x92, 1, v.lastEnd.code), (0x93, 1, v.digits.length),
   (0x94, 2, v.overflow)]

/-- The fault fields of a Line Record (12.4). 12.4 gives 0 for a last fault of none to its kind alone: that its detail, policy and Tick
bytes then read 0 too is the model's choice (log 11). -/
def FaultRecord.fields (f : FaultRecord) : List Field :=
  (0x96, 1, f.retryCount) ::
  match f.last with
  | none => []
  | some x => [(0x97, 1, x.kind.code), (0x98, 1, x.detail.code), (0x99, 1, x.policy.code), (0x9A, 4, x.tick.toNat)]

/-- The engine fields of a Line Record but the Change Count (12.4). -/
def Line.fields (l : Line) : List Field :=
  (0x02, 2, l.ev.bits.toNat) :: (0x04, 2, l.ev.tally.toNat) :: (0x53, 1, l.delivered.length) ::
  (l.call.fields l.fm.latch ++ l.grade.fields ++ l.link.fields ++ l.fax.fields ++ l.voice.fields ++ l.fm.fields)

/-- The whole Line Record. -/
def Line.image (l : Line) : List Field := (0x00, 2, l.changeCount.toNat) :: l.ev.hostFields ++ l.fields

/-- A Delivered List slot; one beyond the last entry reads kind NONE and first block 65535 (R165, 12.4). DESIGN CHOICE, unsafe (log 40):
the other named bytes of such a slot read 0. -/
def entryFields (e : Option Entry) : List Field :=
  match e with
  | none => [(0x02, 2, 65535)]
  | some e =>
    [(0x00, 1, e.kind.code), (0x01, 1, e.stateCode), (0x02, 2, e.first), (0x04, 2, e.blockCount),
     (0x06, 2, e.outstanding.length), (0x08, 2, e.count), (0x0A, 2, e.badRows)]

/-- A Message Table entry's mirror (12.4). What it shows of an EMPTY entry beside the first block and the counts, and of a RECORDING entry
at 0x12 and 0x14, is the model's choice (log 42). -/
def Message.fields (m : Message) : List Field :=
  [(0x00, 2, m.changeCount.toNat), (0x02, 1, m.state.code), (0x03, 1, m.line.val), (0x04, 2, m.number),
   (0x06, 4, m.dayClock.toNat), (0x0A, 2, m.blocks.head?.getD 65535), (0x0C, 2, m.blocks.length), (0x0E, 4, m.sampleCount),
   (0x12, 1, m.endReason.code), (0x13, 1, m.caller.state.code), (0x14, 2, m.trailingMs), (0x16, 1, m.caller.number.length),
   (0x17, 1, m.caller.name.length), (0x18, 16, textValue m.caller.number), (0x28, 15, textValue m.caller.name),
   (0x37, 8, textValue m.caller.dateTime)]

/-- A byte of a card (12.6). -/
def Card.image (c : Card) (o : Nat) : Byte :=
  if o < 2 then byteOf c.hand.code o else (c.body[o - 2]?).getD 0

/-- The table and card index of an offset in the fixed area that lies in an order table (12.1). -/
def cardAt (a : Nat) : Option (TableId × Nat) :=
  if 0x0080 ≤ a ∧ a < 0x0100 then some (.engine, (a - 0x0080) / 32)
  else if 0x0900 ≤ a ∧ a < 0x0D00 then some (.line (Fin.ofNat 4 ((a - 0x0900) / 256)), (a % 256) / 32)
  else none

/-- A byte of the fixed area or of a block, as an access reads it (12.1). -/
def State.byteAt (s : State) (a : Nat) : Byte :=
  match cardAt a with
  | some (t, i) => (s.card t i).image (a % 32)
  | none =>
    if a < 0x0080 then fieldByte s.headerImage a
    else if a < 0x0500 then fieldByte (s.line (Fin.ofNat 4 ((a - 0x0100) / 256))).image (a % 256)
    else if a < 0x0900 then Memory.get s.store.mem a
    else if a < 0x1100 then
      if (a - 0x0D00) / 2 < s.store.blockCount then Memory.get s.store.mem a
      else if a < 0x10E0 then byteOf Owner.absent.word (a % 2) else 0
    else if a < 0x1900 then fieldByte (s.message (Fin.ofNat 32 ((a - 0x1100) / 64))).fields (a % 64)
    else if a < 0x1980 then fieldByte (s.slot (Fin.ofNat 8 ((a - 0x1900) / 16))).fields (a % 16)
    else if a < 0x1C80 then
      fieldByte (entryFields ((s.line (Fin.ofNat 4 ((a - 0x1980) / 192))).delivered[((a - 0x1980) % 192) / 12]?))
        ((a - 0x1980) % 12)
    else if a < 0x1D00 then
      byteOf ((((s.line (Fin.ofNat 4 ((a - 0x1C80) / 32))).delivered[((a - 0x1C80) % 32) / 2]?).map Entry.pageNumber).getD 0)
        (a % 2)
    else Memory.get s.store.mem a

/-- Bytes of the fitted store (R153). -/
def State.storeSize (s : State) : Nat := 0x4000 + 1024 * s.store.blockCount

/-- The word a host read of a store offset returns; a slice beyond the fitted store returns 0xFFFF (R168). -/
def State.wordAt (s : State) (a : Nat) : Word :=
  if a < s.storeSize then BitVec.ofNat 16 ((s.byteAt a).toNat + 256 * (s.byteAt (a + 1)).toNat) else 0xFFFF

/-- The store offset that a window offset reaches (R168). -/
def State.windowAddr (s : State) (o : BitVec 12) : Nat :=
  if o.toNat < 0x800 then 2048 * s.port.winA.toNat + o.toNat else 2048 * s.port.winB.toNat + (o.toNat - 0x800)

/-! ## The write guard -/

/-- A host write to a hand word (R171): the hand word after it, none where the write is dropped. -/
def Hand.hostWrite (h : Hand) (v : Word) : Option Hand :=
  match h with
  | .free => if v = 1 then some .posted else if v = 0 then some .free else none
  | .posted => if v = 0 then some .free else none
  | .answered => if v = 0 then some .free else none
  | .taken => none

/-- A host write to a card (R169, R171). -/
def Card.hostWrite (c : Card) (o : Nat) (v : Word) : Option Card :=
  if o = 0 then (c.hand.hostWrite v).map fun h => { c with hand := h }
  else if c.hand = .free then
    some { c with body := (c.body.set (o - 2) (byteOf v.toNat 0)).set (o - 1) (byteOf v.toNat 1) }
  else none

/-- A host write to the host fields of an event word (R169). -/
def EventWord.hostWrite (w : EventWord) (o : Nat) (v : Word) : Option EventWord :=
  if o = 0x06 then some { w with mask := v }
  else if o = 0x08 then some { w with route := v }
  else if o = 0x0A then some { w with ack := v }
  else none

/-- A host write to the Engine Header (R169). -/
def Header.hostWrite (h : Header) (o : Nat) (v : Word) : Option Header :=
  if o = 0x0C then some { h with hostPulse := v }
  else if o = 0x0E then some { h with pulsePeriod := v }
  else if o = 0x10 then some { h with pulseMode := v }
  else if o = 0x12 then some { h with reserve := v }
  else (h.ev.hostWrite o v).map fun w => { h with ev := w }

/-- Plain bytes of the store written. -/
def State.writePlain (s : State) (a : Nat) (v : Word) : State :=
  s.onStore fun st => { st with mem := Memory.setWord st.mem a v.toNat }

/-- A host word write at an even store offset under the write guard (R169): the state after it, none where it is dropped. A
write to a word of a Line Profile that the tables do not name is honoured and leaves the word reading 0 (chapter 12; DEDUCED, log 11). -/
def State.guarded (s : State) (a : Nat) (v : Word) : Option State :=
  match cardAt a with
  | some (t, i) => ((s.card t i).hostWrite (a % 32) v).map fun c => s.setCard t i c
  | none =>
    if a < 0x0080 then (s.hdr.hostWrite a v).map fun h => { s with hdr := h }
    else if a < 0x0500 then
      ((s.line (Fin.ofNat 4 ((a - 0x0100) / 256))).ev.hostWrite (a % 256) v).map fun w =>
        s.onLine (Fin.ofNat 4 ((a - 0x0100) / 256)) fun l => { l with ev := w }
    else if a < 0x0900 then some (if a % 256 < 0x78 then s.writePlain a v else s)
    else if a < 0x1100 then (if (a - 0x0D00) / 2 < s.store.blockCount then some (s.writePlain a v) else none)
    else if a < 0x1D00 then none
    else if a < 0x4000 then some (s.writePlain a v)
    else if s.store.owners[(a - 0x4000) / 1024]? = some .host then some (s.writePlain a v)
    else none

/-- What a dropped write does (R169): Guard Count, GUARD flag, GUARD event. -/
def State.guardDrop (s : State) : State :=
  { s with port := { s.port with guardFlag := true } }.onHdr (fun h => { h with guardCount := h.guardCount + 1 })
    |>.raiseEngine .guard

/-- A host word write at an even store offset (R169). -/
def State.hostWord (s : State) (a : Nat) (v : Word) : State := (s.guarded a v).getD s.guardDrop

/-! ## Change Counts -/

/-- Everything the Engine Header's Change Count brackets: its engine fields, the pump entries and the greeting slots (R170). -/
def State.headerView (s : State) : List Field × List (List Field) :=
  (s.headerFields, s.slots.toList.map Slot.fields)

/-- Everything a Line Record's Change Count brackets: its engine fields and its Delivered List (R170, R165). -/
def Line.view (l : Line) : List Field × List (List Field × Nat) :=
  (l.fields, l.delivered.map fun e => (entryFields (some e), e.pageNumber))

/-- A line after one event: its Change Count raised by 2, once on each side of the bracket, where the event changed an engine
field (R170, log 10). -/
def commitLine (before after : Line) : Line :=
  { after with changeCount := if before.view = after.view then before.changeCount else before.changeCount + 2 }

/-- A message entry after one event (R170, log 10). -/
def commitMessage (before after : Message) : Message :=
  { after with
    changeCount :=
      if { before with changeCount := 0 } = { after with changeCount := 0 } then before.changeCount
      else before.changeCount + 2 }

/-- The state after one event, its bracketed updates counted (R170). No event touches the waiting commands. -/
def State.commit (before after : State) : State :=
  { after with
    hdr :=
      { after.hdr with
        changeCount :=
          if before.headerView = after.headerView then before.hdr.changeCount else before.hdr.changeCount + 2 }
    lines := Vector.ofFn fun n => commitLine (before.line n) (after.line n)
    messages := Vector.ofFn fun m => commitMessage (before.message m) (after.message m)
    pending := before.pending }

end Sys2Proof.Machine
end

