-- ==== Sys2Proof/Machine/LinkSend.lean ====
section
/-! DEFINITION. What the Link Framer hands to the pump (06 R100, R105), the exit from receive-critical (06 R109), and the push of
freed blocks (09 R158). -/

namespace Sys2Proof.Machine

/-- The pump of the call record, where it is ATTACHED to the line. -/
def State.heldPump (s : State) (n : LineId) : Option PumpId :=
  match (s.line n).call.pump with
  | some p => if (s.pump p).state = .attached ∧ (s.pump p).line = some n then some p else none
  | none => none

/-- The line's pump carries: ATTACHED, in CARRYING, not holding, its carrier not reported lost (R67, R71, R72). -/
def State.carrying (s : State) (n : LineId) : Bool :=
  match s.heldPump n with
  | some p => decide ((s.pump p).activity = .carrying) && !(s.pump p).holding && !(s.pump p).carrierLost
  | none => false

/-- The link frames of a line are being framed and received (R94, R96). -/
def LinkState.active : LinkState → Bool
  | .opening | .up | .farClosed => true
  | _ => false

/-- The pump begins to send a frame (R97, R100). -/
def State.beginFrame (s : State) (n : LineId) (f : LinkFrame) : State :=
  (s.onLink n fun l => { l with sending := some f }).emit (.linkBytes n (Wire.onLine f))

/-- The data of a frame of the Send Window, read from its chain (R94, R100). -/
def State.frameData (s : State) (n : LineId) (f : SentFrame) : List Byte :=
  match (s.line n).link.sendList.find? fun c => c.card == f.card with
  | some c => s.store.chainBytes c.chain f.pos f.len
  | none => []

/-- A frame of the Send Window sent again (R102, R103). -/
def State.resendFrame (s : State) (n : LineId) (f : SentFrame) : State :=
  (s.onLink n fun l => { l with counters := { l.counters with resent := l.counters.resent + 1 } }).beginFrame n
    (.info f.number (s.frameData n f))

/-- A new INFO frame of the oldest chain with bytes not yet framed (R100). -/
def State.newFrame (s : State) (n : LineId) (c : SendChain) : State :=
  let l := (s.line n).link
  let f : SentFrame := ⟨l.nextSend, c.card, c.framed, min l.infoLength (c.chain.bytes - c.framed), 1⟩
  (s.onLink n fun l =>
    { l with
      sendList := l.sendList.map fun d => if d.card = c.card then { d with framed := d.framed + f.len } else d
      replyTimer := if l.sendWindow = [] then .running ((s.line n).profile.replyTime * 100) else l.replyTimer
      sendWindow := l.sendWindow ++ [f]
      nextSend := l.nextSend + 1
      counters := { l.counters with sent := l.counters.sent + 1 } }).beginFrame n
    (.info f.number (s.frameData n f))

/-- INFO frames may be begun: UP, not held, the rate not in flight (R100, R104, R105). -/
def Link.mayFrame (l : Link) : Bool := decide (l.state = .up) && !l.held && !l.inFlight

/-- The pump, idle and carrying, begins the next frame due: a reply, then a resend, then a new frame (R100). The resends waiting
are frames of the Send Window (`State.ackFrames`). -/
def State.linkKick (s : State) (n : LineId) : State :=
  let l := (s.line n).link
  if l.sending.isSome || !s.carrying n then s
  else
    match l.replies with
    | f :: rest => (s.onLink n fun l => { l with replies := rest }).beginFrame n f
    | [] =>
      if !l.mayFrame then s
      else
        match l.resends with
        | k :: rest =>
          match l.sendWindow.find? fun f => f.number == k with
          | some f => (s.onLink n fun l => { l with resends := rest }).resendFrame n f
          | none => s.onLink n fun l => { l with resends := rest }
        | [] =>
          match l.sendList.find? fun c => decide (c.framed < c.chain.bytes) with
          | some c => if l.sendWindow.length < l.window then s.newFrame n c else s
          | none => s

/-- A reply frame falls due: sent before the next INFO frame (R100), or kept as the reply due while the rate is in flight, a
later one replacing an earlier one (R105). -/
def State.sendReply (s : State) (n : LineId) (f : LinkFrame) : State :=
  if (s.line n).link.inFlight then s.onLink n fun l => { l with replyDue := some f }
  else (s.onLink n fun l => { l with replies := l.replies ++ [f] }).linkKick n

/-- The engine's own LINK-OPEN (R95). -/
def State.ownLinkOpen (s : State) (n : LineId) : LinkFrame :=
  .linkOpen (s.line n).profile.linkWindow (s.line n).profile.maxInfo

/-- The rate is in flight (R105): the frame being sent is lost, the timers pause, replies waiting become the reply due. -/
def State.rateInFlight (s : State) (n : LineId) : State :=
  s.onLink n fun l =>
    { l with
      inFlight := true
      sending := none
      replyDue := (l.replies.getLast?).or l.replyDue
      replies := []
      replyTimer := l.replyTimer.pause
      holdTimer := l.holdTimer.pause
      repeatTimer := .stopped }

/-- The rate is settled (R105): the reply due first, then a LINK-OPEN where the link is still OPENING, and sending resumes. -/
def State.rateSettled (s : State) (n : LineId) : State :=
  let opening := decide ((s.line n).link.state = .opening)
  (s.onLink n fun l =>
    { l with
      inFlight := false
      replies := l.replyDue.toList ++ (if opening then [s.ownLinkOpen n] else [])
      replyDue := none
      replyTimer := l.replyTimer.resume
      holdTimer := l.holdTimer.resume
      repeatTimer := if opening then .running 500 else l.repeatTimer }).linkKick n

/-- The line's count of blocks owned RECV or DELIV (R108, R109). -/
def State.heldBlocks (s : State) (n : LineId) : Nat := s.store.countOwned (.recv n) + s.store.countOwned (.deliv n)

/-- The exit test of receive-critical (R109). -/
def State.mayLeaveCritical (s : State) (n : LineId) : Bool :=
  (s.line n).link.critical && decide (s.heldBlocks n ≤ (s.line n).profile.receiveLimit - 2) &&
  decide ((s.line n).delivered.length < 16) && decide (0 < s.store.freeCount)

/-- The exit from receive-critical where its test is met (R109): no RECEIPT in FAR_CLOSED. -/
def State.criticalExit (s : State) (n : LineId) : State :=
  if s.mayLeaveCritical n then
    let s := s.onLink n fun l => { l with critical := false, rejectSent := false }
    if (s.line n).link.state = .farClosed then s else s.sendReply n (.receipt (s.line n).link.expected)
  else s

/-- The exit test of every receive-critical line (R109), in ascending order (log 21). -/
def State.criticalExits (s : State) : State := allLines.foldl State.criticalExit s

/-- A block pushed on the free stack, and the exit tests that follow each push (R109, R158). -/
def State.freeBlock (s : State) (b : Nat) : State := (s.onStore fun st => st.release b).criticalExits

/-- Blocks pushed in order (R158). -/
def State.freeBlocks (s : State) (bs : List Nat) : State := bs.foldl State.freeBlock s

/-- Blocks given to one owner in one step (R156). -/
def State.giveBlocks (s : State) (bs : List Nat) (o : Owner) : State := s.onStore fun st => st.assignAll bs o

end Sys2Proof.Machine
end

