-- ==== Sys2Proof/Machine/Delivery.lean ====
section
/-! DEFINITION. The Delivered Lists (09 R165, R166), received blocks and their delivery (06 R106, R110, R111; 07 R125, R126). -/

namespace Sys2Proof.Machine

/-- The open entry of a kind (R165: at most one is open). -/
def Line.openEntry (l : Line) (k : EntryKind) : Option Entry := l.delivered.find? fun e => decide (e.kind = k) && !e.closed

/-- The open entry of a kind changed. -/
def State.onOpenEntry (s : State) (n : LineId) (k : EntryKind) (f : Entry → Entry) : State :=
  s.onLine n fun l => { l with delivered := l.delivered.map fun e => if e.kind = k ∧ e.closed = false then f e else e }

/-- Entries CLOSED with no block outstanding leave the list (R166), and the exit test of the line follows (R109). -/
def State.removeEntries (s : State) (n : LineId) : State :=
  let left := (s.line n).delivered.filter fun e => !(e.closed && e.outstanding.isEmpty)
  if left.length = (s.line n).delivered.length then s
  else (s.onLine n fun l => { l with delivered := left }).criticalExit n

/-- A block popped as the line's RECV block, its header written and linked from the open entry's last block where that is still
DELIV for the line (R106, R125); none where the free stack is empty. -/
def State.popRecv (s : State) (n : LineId) (ek : EntryKind) (bk : BlockKind) : Option State :=
  match s.pop (.recv n) with
  | none => none
  | some (b, s) =>
    match (s.line n).openEntry ek with
    | none => some ((s.onStore fun st => st.newHeader b bk n 0).onLine n fun l => { l with recvBlock := some b })
    | some e =>
      some ((s.onStore fun st =>
          let st := st.newHeader b bk n e.blockCount
          if st.owners[e.last]? = some (.deliv n) then st.setNext e.last b else st).onLine n fun l =>
            { l with recvBlock := some b })

/-- A block joins an entry as its last block (R110, R126). -/
def Entry.join (e : Entry) (b blockCount bytes : Nat) : Entry :=
  { e with last := b, blockCount := blockCount, outstanding := e.outstanding ++ [b], count := e.count + bytes }

/-- A new entry for its first block (R110, R126). -/
def Entry.new (k : EntryKind) (b pageNumber : Nat) : Entry := ⟨k, b, b, 0, [], 0, 0, .none, pageNumber, false⟩

/-- The open DATA entry, if any, is closed: RECV is raised, and it leaves the list where none of its blocks is outstanding (R111,
R166). -/
def State.closeData (s : State) (n : LineId) : State :=
  match (s.line n).openEntry .data with
  | none => s
  | some _ => ((s.onOpenEntry n .data fun e => { e with closed := true }).raise n .recv).removeEntries n

/-- The RECV block of a data line is delivered (R110). -/
def State.deliverData (s : State) (n : LineId) : State :=
  match (s.line n).recvBlock with
  | none => s
  | some b =>
    let fill := s.store.fill b
    let s := (s.onStore fun st => st.assign b (.deliv n)).onLine n fun l =>
      { l with
        recvBlock := none
        delivered := if (l.openEntry .data).isSome then l.delivered else l.delivered ++ [Entry.new .data b 0] }
    let s := s.onOpenEntry n .data fun e => e.join b (e.blockCount + 1) fill
    match (s.line n).openEntry .data with
    | some e => if 8 ≤ e.blockCount then s.closeData n else s
    | none => s

/-- As many bytes stored in the RECV block as it holds, a block popped first where the line has none; a block filled to 1016 is
delivered (R106). What is left is given back. -/
def State.storeSome (s : State) (n : LineId) (data : List Byte) : State × List Byte :=
  match (match (s.line n).recvBlock with | some _ => some s | none => s.popRecv n .data .plain) with
  | none => (s, [])
  | some s =>
    match (s.line n).recvBlock with
    | none => (s, [])
    | some b =>
      let room := 1016 - s.store.fill b
      let s := s.onStore fun st => st.append b (data.take room)
      (if s.store.fill b = 1016 then s.deliverData n else s, data.drop room)

/-- The data of an INFO frame stored in order (R106): at most 256 bytes, so at most two blocks take them. -/
def State.storeData (s : State) (n : LineId) (data : List Byte) : State :=
  let (s, rest) := s.storeSome n data
  if rest = [] then s else (s.storeSome n rest).1

/-- The RECV block of a page is delivered into the page's entry (R126). Where a new entry finds the Delivered List full, the page
is discarded and the block freed. -/
def State.deliverPage (s : State) (n : LineId) : State :=
  match (s.line n).recvBlock with
  | none => s
  | some b =>
    let s := s.onLine n fun l => { l with recvBlock := none }
    if (s.line n).openEntry .page = none ∧ 16 ≤ (s.line n).delivered.length then
      (s.onFax n fun f =>
        { f with page := f.page.map fun p => { p with discarded := true }, pagesDiscarded := s.bump n 1 f.pagesDiscarded }).draw.freeBlock b
    else
      let s := (s.onStore fun st => st.assign b (.deliv n)).onLine n fun l =>
        { l with
          delivered :=
            if (l.openEntry .page).isSome then l.delivered else l.delivered ++ [Entry.new .page b l.fax.pageCount] }
      (s.onOpenEntry n .page fun e => e.join b (s.bump n 4 e.blockCount) 0).draw

/-- The page's entry, if it has one, is closed with its counts and verdict (R127, R132, R166). -/
def State.closePage (s : State) (n : LineId) (v : Verdict) (rows badRows : Nat) : State :=
  (s.onOpenEntry n .page fun e => { e with count := rows, badRows := badRows, verdict := v, closed := true }).removeEntries n

end Sys2Proof.Machine
end

