-- ==== Sys2Proof/Machine/Calls.lean ====
section
/-! DEFINITION. Call start, connection, states and their timers, the answers of DIAL and ANSWER, the caller record (01 R5 to R7,
R11, R15; 02 R39; 03 R43 to R48). -/

namespace Sys2Proof.Machine

/-- The line enters a state, its state timer set for it (R11). -/
def State.enter (s : State) (n : LineId) (st : LineState) (t : Timer) : State :=
  (s.onCall n fun c => { c with state := st }).onCtl n fun c => { c with stateTimer := t }

/-- The Line Profile in the store copied into the call profile (R5, R190). -/
def State.copyProfile (s : State) (n : LineId) : State :=
  s.onLine n fun l =>
    { l with profile := Profile.ofWords fun o => Memory.word s.store.mem (0x0500 + 256 * n.val + o) }

/-- A call begins in a direction (R5): captures, ring count, caller record and service are reset and the services told. The Page
List is kept, and resend pending at a redial (R115). -/
def State.callStart (s : State) (n : LineId) (d : Direction) (redial : Bool) : State :=
  s.onLine n fun l =>
    { l with
      call :=
        { l.call with
          direction := d, service := .none, tRing := 0, tOffhook := 0, tConnect := 0, tClear := 0, dayConnect := 0
          wasConnected := false, ringCount := 0, caller := .none }
      ctl := { l.ctl with declined := false, heldCarrierLoss := false }
      seq := .initial
      grade := .initial
      link := .initial
      fax :=
        { Fax.initial with
          pages := l.fax.pages, orders := l.fax.orders, resendPending := redial && l.fax.resendPending }
      voice := { l.voice with digits := [], overflow := 0 } }

/-- A count in a byte of a DIAL answer; a count above 255, for which the byte has no value, gives a free value (log 13). -/
def countByte (v : Nat) : Byte := if v ≤ 255 then byteOf v 0 else (Config.shownPastTop v).setWidth 8

/-- A count in a word of a DIAL answer; a count above 65535, for which the word has no value, gives a free value (log 13). -/
def countWord (v : Nat) : List Byte := wordBytes (if v ≤ 65535 then v else (Config.shownPastTop v).toNat)

/-- The answer fields of DIAL (R39); at most 20 symbols are skipped. -/
def Line.dialFields (l : Line) : List Byte :=
  [countByte l.dialler.attempt, byteOf l.dialler.skipped 0] ++ countWord l.prog.ringbackCount

/-- The answer fields of ANSWER (R48). -/
def Line.answerFields (l : Line) : List Byte := wordBytes l.call.ringCount ++ [byteOf l.call.caller.state.code 0]

/-- A TAKEN DIAL card of the line is answered (R39). -/
def State.answerDial (s : State) (n : LineId) (st : Status) (reason : Nat) : State :=
  match (s.line n).ctl.dialCard with
  | none => s
  | some i => (s.answer (.line n) i st reason (s.line n).dialFields).onCtl n fun c => { c with dialCard := none }

/-- A TAKEN ANSWER card of the line is answered (R48). -/
def State.answerAnswer (s : State) (n : LineId) (st : Status) (reason : Nat) : State :=
  match (s.line n).ctl.answerCard with
  | none => s
  | some i => (s.answer (.line n) i st reason (s.line n).answerFields).onCtl n fun c => { c with answerCard := none }

/-- The outcome of a connection (R7). -/
def Service.outcome : Service → CallOutcome
  | .data => .connectedData
  | .fax => .connectedFax
  | .voice => .connectedVoice
  | .none => .none

/-- The call connects with a service (R7); t_connect and day_connect are taken at the first connection of the call (R6). -/
def State.connect (s : State) (n : LineId) (v : Service) : State :=
  let s := s.enter n .connected .stopped
  let s := s.onCall n fun c =>
    { c with
      service := v
      tConnect := if c.wasConnected then c.tConnect else s.hdr.tick
      dayConnect := if c.wasConnected then c.dayConnect else s.hdr.dayClock
      wasConnected := true
      lastOutcome := v.outcome }
  ((s.raise n .callUp).answerDial n .done v.outcome.code).answerAnswer n .done v.outcome.code

/-- The framing of the silence measurement starts from the next sample (R136). -/
def Voice.framed (v : Voice) : Voice := { v with frame := [], ahead := 0 }

/-- The hook relay closes after a voltage check: t_offhook is captured (R6, R9), loop current is taken as present (log 22), and the
framing of the silence measurement starts (R136), a progress tone that stands then being in its first frame (R38). -/
def State.closeHook (s : State) (n : LineId) : State :=
  ((s.onCall n fun c => { c with tOffhook := s.hdr.tick }).onCtl n fun c =>
    { c with loopPresent := true, loopMeasuring := false, toneInFrame := c.progressTone }).onVoice n Voice.framed

/-! ## The caller record -/

/-- The fields of a call record's body as (code, value) pairs; none where a field runs past the end (R44, R45). -/
def burstFields : Nat → List Byte → Option (List (Nat × List Byte))
  | _, [] => some []
  | 0, _ => none
  | fuel + 1, bs =>
    match bs with
    | code :: len :: rest =>
      if len.toNat ≤ rest.length then
        (burstFields fuel (rest.drop len.toNat)).map ((code.toNat, rest.take len.toNat) :: ·)
      else none
    | _ => none

/-- A digit character (R44). -/
def isDigit (b : Byte) : Bool := decide (0x30 ≤ b.toNat ∧ b.toNat ≤ 0x39)

/-- The value of a field has the form R44 gives its code; a field of another code is skipped. -/
def goodField (f : Nat × List Byte) : Bool :=
  if f.1 = 0x21 then decide (f.2.length = 8) && f.2.all isDigit
  else if f.1 = 0x22 then decide (1 ≤ f.2.length ∧ f.2.length ≤ 16) && f.2.all isDigit
  else if f.1 = 0x23 then decide (f.2.length = 1)
  else if f.1 = 0x24 then decide (1 ≤ f.2.length ∧ f.2.length ≤ 15)
  else true

/-- No field of codes 0x21 to 0x24 appears twice (R45). -/
def noTwice (fs : List (Nat × List Byte)) : Bool :=
  [0x21, 0x22, 0x23, 0x24].all fun c => decide ((fs.filter fun f => f.1 == c).length ≤ 1)

/-- The value of a field, empty where absent. -/
def fieldText (fs : List (Nat × List Byte)) (c : Nat) : List Byte := ((fs.find? fun f => f.1 == c).map Prod.snd).getD []

/-- A name byte as filed (R45). -/
def nameByte (b : Byte) : Byte := if 0x20 ≤ b.toNat ∧ b.toNat ≤ 0x7E then b else 0x3F

/-- The caller record of a burst whose fields have passed (R45). -/
def filedRecord (fs : List (Nat × List Byte)) : CallerRecord :=
  let withheld := fs.any fun f => f.1 == 0x23
  { state := if withheld then .withheld else .present
    number := if withheld then [] else fieldText fs 0x22
    name := (fieldText fs 0x24).map nameByte
    dateTime := fieldText fs 0x21 }

/-- A burst of call-record type judged (R45): complete, then sum, then fields; DAMAGED where one fails. -/
def judgeBurst (bs : List Byte) : CallerRecord :=
  let damaged : CallerRecord := ⟨.damaged, [], [], []⟩
  match bs with
  | _ :: len :: rest =>
    if rest.length < len.toNat + 1 then damaged
    else if ((bs.take (len.toNat + 3)).map BitVec.toNat).sum % 256 ≠ 0 then damaged
    else
      match burstFields 256 (rest.take len.toNat) with
      | none => damaged
      | some fs => if fs.all goodField && noTwice fs then filedRecord fs else damaged
  | _ => damaged

/-- The caller record written and CALLER raised (R46). -/
def State.fileCaller (s : State) (n : LineId) (r : CallerRecord) : State :=
  (s.onCall n fun c => { c with caller := r }).raise n .caller

/-- The decoder's window closes (R43). A burst of call-record type cut off by it is truncated, so DAMAGED (R45, log 16). -/
def State.closeWindow (s : State) (n : LineId) : State :=
  let s' := s.onLine n fun l => { l with dec := ⟨false, none⟩ }
  if (s.line n).dec.windowOpen ∧ (s.line n).dec.burst = some 0x41 then s'.fileCaller n ⟨.damaged, [], [], []⟩ else s'

end Sys2Proof.Machine
end

