-- ==== Sys2Proof/Machine/Pumps.lean ====
section
/-! DEFINITION. The Pump Pool: claims, grants, withdrawal and release (04 R59 to R65). -/

namespace Sys2Proof.Machine

/-- A pump that does no work, in a state, held by a line or none. -/
def Pump.inState (st : PumpState) (n : Option LineId) : Pump := { Pump.initial with state := st, line := n }

/-- The lowest-numbered FREE pump (R61). -/
def State.lowestFree (s : State) : Option PumpId := allPumps.find? fun p => decide ((s.pump p).state = .free)

/-- The claim the arbiter chooses: the head of the ANSWER class, else the head of the ORIGINATE class (R61). -/
def WaitQueue.head (q : WaitQueue) : Option LineId := q.answer.head?.or q.originate.head?

/-- A line leaves the queue. -/
def WaitQueue.remove (q : WaitQueue) (n : LineId) : WaitQueue :=
  ⟨q.answer.filter (· != n), q.originate.filter (· != n)⟩

/-- A line joins the tail of its class (R60). -/
def WaitQueue.enqueue (q : WaitQueue) (n : LineId) (c : ClaimClass) : WaitQueue :=
  match c with
  | .answer => { q with answer := q.answer ++ [n] }
  | .originate => { q with originate := q.originate ++ [n] }

/-- A line joins the head of its class, after a settle check failure (R60, R63). -/
def WaitQueue.enqueueHead (q : WaitQueue) (n : LineId) (c : ClaimClass) : WaitQueue :=
  match c with
  | .answer => { q with answer := n :: q.answer }
  | .originate => { q with originate := n :: q.originate }

/-- The wait limit of a class, in seconds (R62). -/
def Profile.pumpWait (p : Profile) : ClaimClass → Nat
  | .answer => p.answerPumpWait
  | .originate => p.originatePumpWait

/-- One grant where there is both a FREE pump and a claim in the queue (R61). -/
def State.grantNext (s : State) : State :=
  match s.lowestFree, s.queue.head with
  | some p, some n => { s with queue := s.queue.remove n }.onPump p fun _ => Pump.inState .settling (some n)
  | _, _ => s

/-- The grant arbiter (R61): as long as there is both a FREE pump and a claim; there are three pumps. -/
def State.arbitrate (s : State) : State := allPumps.foldl (fun s _ => s.grantNext) s

/-- A claim of a line (R60, R61): granted the lowest FREE pump at once, or queued at the tail of its class with its wait timer
started (R62). -/
def State.placeClaim (s : State) (n : LineId) (c : ClaimClass) : State :=
  match s.lowestFree with
  | some p =>
    (s.onPump p fun _ => Pump.inState .settling (some n)).onLine n fun l => { l with claim := some ⟨c, .stopped⟩ }
  | none =>
    { s with queue := s.queue.enqueue n c }.onLine n fun l =>
      { l with claim := some ⟨c, .running (l.profile.pumpWait c * 1000)⟩ }

/-- The claim of a line has entered the queue with a wait limit of 0 s, and expires (R62). -/
def Line.claimExpired (l : Line) : Bool :=
  match l.claim with
  | some c => decide (c.wait = .running 0)
  | none => false

/-- A claim withdrawn or expired (R62, R64): it leaves the queue or its SETTLING pump, whose settle goes on without it. -/
def State.dropClaim (s : State) (n : LineId) : State :=
  let s := { s with queue := s.queue.remove n }.onLine n fun l => { l with claim := none }
  allPumps.foldl (fun s p =>
    if (s.pump p).state = .settling ∧ (s.pump p).line = some n then s.onPump p fun q => { q with line := none } else s) s

/-- Step 1 of the call-end sequence (R14): the claim is withdrawn (R64) or the pump released, abandoning its work, and granted to
a waiting claim (R65). -/
def State.releasePump (s : State) (n : LineId) : State :=
  let s := s.dropClaim n
  let s := allPumps.foldl (fun s p =>
    if (s.pump p).state = .attached ∧ (s.pump p).line = some n then s.onPump p fun _ => Pump.inState .free none else s) s
  (s.onCall n fun c => { c with pump := none }).arbitrate

end Sys2Proof.Machine
end

