-- ==== Sys2Proof/Machine/CallEnd.lean ====
section
/-! DEFINITION. The teardowns of the services, the call-end sequence, the clear decision (01 R13 to R15; 03 R58; 05 R93; 06 R113,
R114; 07 R131 to R133; 08 R142, R146, R148, R152), and the Fault Manager (11 R180 to R186). -/

namespace Sys2Proof.Machine

/-! ## Voice -/

/-- A slot emptied: its blocks are freed in chain order (R146). -/
def State.emptySlot (s : State) (g : SlotId) : State :=
  (s.onSlot g fun _ => .initial).freeBlocks ((s.slot g).chain.map Prod.fst)

/-- A play of a slot ends: its play count falls, and a WITHDRAWING slot whose count reaches 0 completes its withdrawal and answers
its UNLOAD GREETING card (R146, R148). -/
def State.slotPlayEnds (s : State) (g : SlotId) : State :=
  let x := s.slot g
  if x.state = .withdrawing ∧ x.playCount ≤ 1 then
    let s := s.emptySlot g
    match x.unloadCard with
    | some i => s.answer .engine i .done 0 []
    | none => s
  else s.onSlot g fun x => { x with playCount := x.playCount - 1 }

/-- The play in progress on a line ends, its card answered (R148). -/
def State.finishPlay (s : State) (n : LineId) (e : PlayEnd) (st : Status) (reason : Nat) : State :=
  let v := (s.line n).voice
  let s1 := s.onVoice n fun v => { v with play := .none, playCard := none, playChain := [], playTotal := 0 }
  let s2 :=
    match v.play with
    | .none => s1
    | .slot g => s1.slotPlayEnds g
    | .chain _ => s1.giveBlocks (v.playChain.map Prod.fst) .host
  match v.playCard with
  | none => s2
  | some i => s2.answer (.line n) i st reason (longBytes v.samplesPlayed ++ [byteOf e.code 0])

/-- The answer fields of RECORD (R142, 12.6). -/
def recordFields (m : EntryId) (x : Message) : List Byte :=
  wordBytes m.val ++ wordBytes x.number ++ wordBytes x.endReason.code ++ longBytes x.sampleCount ++ wordBytes x.blocks.length

/-- The recording in progress ends: steps 1 to 5 of R142. The frame it cuts short is not judged (R136). -/
def State.finishRecording (s : State) (n : LineId) (r : EndReason) : State :=
  match (s.line n).voice.recording with
  | none => s
  | some m =>
    let v := (s.line n).voice
    let s := s.onMessage m fun x => { x with state := .complete, endReason := r, trailingMs := 10 * v.silentRun }
    let s := s.onVoice n fun v => { v.framed with recording := none, lastMessage := (s.message m).number, lastEnd := r }
    let s := s.raise n .message
    match v.recKind with
    | .automatic => s
    | .host i => s.answer (.line n) i .done 0 (recordFields m (s.message m))

/-- The Voice Unit's teardown (R152). -/
def State.voiceTeardown (s : State) (n : LineId) (o : CallOutcome) : State :=
  let s := s.finishRecording n (if o = .remoteCleared then .remote else .cleared)
  if (s.line n).voice.play = .none then s else s.finishPlay n .cleared (endAnswer o).1 (endAnswer o).2

/-! ## Link -/

/-- The blocks of a chain whose bytes are all among the first `acked` (R101). -/
def ackedBlocks : Chain → Nat → List Nat
  | [], _ => []
  | (b, fill) :: rest, acked => if fill ≤ acked then b :: ackedBlocks rest (acked - fill) else []

/-- Where the first byte not acknowledged stands: the blocks from the one it lies in, and its offset in that block (R114). -/
def unackedFrom : Chain → Nat → List Nat × Nat
  | [], _ => ([], 0)
  | (b, fill) :: rest, acked => if fill ≤ acked then unackedFrom rest (acked - fill) else (b :: rest.map Prod.fst, acked)

/-- The answer fields of a SEND ended by teardown (R114, 12.6). -/
def sendFields (c : SendChain) : List Byte :=
  wordBytes c.acked ++ wordBytes ((unackedFrom c.chain c.acked).1.head?.getD 65535) ++
    wordBytes (unackedFrom c.chain c.acked).1.length ++ wordBytes (unackedFrom c.chain c.acked).2

/-- A chain of the Send List returned to the host at teardown, its card answered (R114). -/
def State.returnChain (s : State) (n : LineId) (o : CallOutcome) (c : SendChain) : State :=
  (s.giveBlocks (s.store.ownedBy (c.chain.map Prod.fst) (.send n)) .host).answer (.line n) c.card (endAnswer o).1
    (endAnswer o).2 (sendFields c)

/-- The Link Framer's teardown at the end of a data call, its link opened or not (R94, R114, log 17). -/
def State.linkTeardown (s : State) (n : LineId) (o : CallOutcome) : State :=
  if (s.line n).call.service = .data then
    let chains := (s.line n).link.sendList
    let s := s.onLink n fun l =>
      { Link.initial with
        state := .closed, window := l.window, infoLength := l.infoLength, nextSend := l.nextSend, expected := l.expected
        frameErrors := l.frameErrors, counters := l.counters }
    let s := chains.foldl (fun s c => s.returnChain n o c) s
    (s.deliverData n).closeData n
  else s

/-! ## Fax -/

/-- The byte that gives the count of blocks cut short; a count above 255, for which the byte has no value, gives a free value
(log 13). -/
def State.cutShortByte (s : State) (n : LineId) (x : FaxOrder) : Byte :=
  if x.cutShort ≤ 255 then byteOf x.cutShort 0 else (Config.countPastTop (32 * s.draws + 8 * n.val + 5)).setWidth 8

/-- The answer fields of FAX PAGES (R129, 12.6). -/
def State.faxFields (s : State) (n : LineId) (x : FaxOrder) : List Byte :=
  (x.verdicts.map (fun (v : Verdict) => byteOf v.code 0) ++ List.replicate 8 0).take 8 ++
    [byteOf x.resent 0, s.cutShortByte n x, byteOf (s.line n).fax.rung 0, byteOf (flagCode (s.line n).fax.fine) 0,
     byteOf (s.line n).fax.width 0]

/-- A FAX PAGES card answered (R129, R131). -/
def State.answerPages (s : State) (n : LineId) (st : Status) (reason : Nat) (x : FaxOrder) : State :=
  (s.answer (.line n) x.card st reason (s.faxFields n x)).draw

/-- Every page left in the Page List returns to the host, and each order with a page there is answered (R131 step 3). -/
def State.returnPages (s : State) (n : LineId) (o : CallOutcome) : State :=
  let f := (s.line n).fax
  let s := f.pages.foldl (fun s p => s.giveBlocks (p.chain.map Prod.fst) .host) s
  let s := s.onFax n fun f => { f with pages := [], orders := [], resendPending := false }
  f.orders.foldl (fun s x => s.answerPages n (endAnswer o).1 (endAnswer o).2 x) s

/-- The session's role and phase end, its waits and the pump's work with them (R131, R132). -/
def Fax.ended (f : Fax) : Fax :=
  { f with
    role := .none, phase := .none, replyTimer := .stopped, carrierTimer := .stopped, work := .none, standing := none
    waitBefore := none, offerHeld := none, page := none, judged := none }

/-- The sending side's teardown (R131). -/
def State.faxSenderTeardown (s : State) (n : LineId) (o : CallOutcome) : State :=
  (if (s.line n).fm.retryPending then s else s.returnPages n o).onFax n Fax.ended

/-- The receiving side's teardown (R132): an open page is delivered and closed INCOMPLETE. -/
def State.faxReceiverTeardown (s : State) (n : LineId) : State :=
  match (s.line n).fax.page with
  | none => s.onFax n Fax.ended
  | some p =>
    let s := (s.deliverPage n).closePage n .incomplete p.rows p.badRows
    let s := s.onFax n fun f => { f with lastVerdict := .incomplete, lastRows := p.rows, lastBadRows := p.badRows }
    (s.raise n .page).onFax n Fax.ended

/-- The Fax Sequencer's teardown of a call: the sending side of an originated fax call, or a receiving side (R131, R132). -/
def State.faxTeardown (s : State) (n : LineId) (o : CallOutcome) : State :=
  let l := s.line n
  if l.call.direction = .originate ∧ l.call.service = .fax then s.faxSenderTeardown n o
  else if l.fax.role = .receiver then s.faxReceiverTeardown n
  else s

/-! ## The call-end sequence -/

/-- The Grade Unit's teardown (R93). -/
def Grade.ended (g : Grade) : Grade := { g with rate := .settled, seedPending := false }

/-- Step 3 of the call-end sequence (R15): no answer while a retry is pending. -/
def State.answerCallCards (s : State) (n : LineId) (o : CallOutcome) : State :=
  let a : Status × Nat :=
    match o with
    | .busy => (.failed, CallOutcome.busy.code)
    | .noAnswer => (.failed, CallOutcome.noAnswer.code)
    | o => endAnswer o
  let s := if (s.line n).fm.retryPending then s else s.answerDial n a.1 a.2
  s.answerAnswer n a.1 a.2

/-- The service becomes NONE (step 2 of R14), the dialler and the classifier stop, and the answer sequence returns to HOST (R58). -/
def State.stopUnits (s : State) (n : LineId) : State :=
  s.onLine n fun l =>
    { l with
      call := { l.call with service := .none }
      seq := .initial
      dialler := { l.dialler with phase := .idle, timer := .stopped }
      prog := { l.prog with pathTimer := .stopped } }

/-- The call-end sequence (R14). -/
def State.callEnd (s : State) (n : LineId) (o : CallOutcome) : State :=
  let s := (s.releasePump n).onGrade n Grade.ended
  let s := ((s.linkTeardown n o).faxTeardown n o).voiceTeardown n o
  let s := s.stopUnits n
  let s := s.answerCallCards n o
  (s.onCall n fun c => { c with tClear := s.hdr.tick }).raise n .callDown

/-- At a clear decision on a link that is UP, not remotely cleared, one LINK-CLOSE is handed to the pump (R113), also to a pump that has
reported carrier loss, from which nothing of it may reach the line (R72, log 33). -/
def State.sendLinkClose (s : State) (n : LineId) (o : CallOutcome) : State :=
  if (s.line n).link.state = .up ∧ o ≠ .remoteCleared ∧ s.heldPump n ≠ none then
    s.emit (.linkBytes n (Wire.onLine .linkClose))
  else s

/-- The clear decision (R13): the outcome recorded, CLEARING entered with the hook open and the guard timer started, and the
call-end sequence run. A decision from ALERTING declines the call (R16). -/
def State.clearDecision (s : State) (n : LineId) (o : CallOutcome) : State :=
  let fromAlerting := decide ((s.line n).call.state = .alerting)
  let s := (s.closeWindow n).sendLinkClose n o
  let s := s.onCall n fun c => { c with lastOutcome := o }
  let s := s.enter n .clearing (.running (s.line n).profile.guardTime)
  let s := s.onCtl n fun c =>
    { c with
      declined := c.declined || fromAlerting
      declinedGap := if fromAlerting then .running 8000 else .stopped
      heldCarrierLoss := false
      loopMeasuring := false }
  s.callEnd n o

/-! ## The Fault Manager -/

/-- The policy applied to a fault (R181). -/
def appliedPolicy (p : Policy) (d : Direction) (count limit : Nat) : Policy :=
  match p with
  | .retry => match d with
    | .answer => .report
    | .originate => if count < limit then .retry else .latch
  | p => p

/-- The line is in a call in which faults are taken (R180); `attempt` marks the off-hook attempt from IDLE or HOLDOFF (R24). -/
def Line.takesFault (l : Line) (attempt : Bool) : Bool :=
  match l.call.state with
  | .alerting | .queued => true
  | .idle | .holdoff => attempt
  | st => st.offHook

/-- A fault reported for a line (R180 to R185). `goesOn` says whether the call can go on after it under REPORT or SILENT; a fault
that finds no call is discarded. -/
def State.takeFault (s : State) (n : LineId) (k : FaultKind) (d : FailDetail) (goesOn attempt : Bool) : State :=
  let l := s.line n
  if l.takesFault attempt then
    let p := appliedPolicy (l.profile.policy k) l.call.direction l.fm.retryCount l.profile.retryLimit
    let s := s.onFm n fun f => { f with last := some ⟨k, d, p, s.hdr.tick⟩ }
    let s := if p = .silent then s else s.raise n .fault
    match p with
    | .latch => (s.onFm n fun f => { f with latch := some k }).clearDecision n (.fault k)
    | .retry =>
      (s.onFm n fun f => { f with retryCount := f.retryCount + 1, retryPending := true }).clearDecision n (.fault k)
    | _ => if goesOn then s else s.clearDecision n (.fault k)
  else s

/-- A fault that cannot go on, in a call (R180). -/
def State.fault (s : State) (n : LineId) (k : FaultKind) : State := s.takeFault n k .none false false

/-- A FAX_FAILED fault with its detail (R117, R120). -/
def State.faxFailed (s : State) (n : LineId) (d : FailDetail) : State :=
  (s.onFax n fun f => { f with failDetail := d }).takeFault n .faxFailed d false false

/-- A pending retry is abandoned (R184): the DIAL card is answered CUT, and a sending fax line's kept pages return. -/
def State.abandonRetry (s : State) (n : LineId) (o : CallOutcome) : State :=
  if (s.line n).fm.retryPending then
    let s := s.onFm n fun f => { f with retryPending := false }
    let s := s.answerDial n (endAnswer o).1 (endAnswer o).2
    if (s.line n).dialler.service = .fax then s.returnPages n o else s
  else s

/-! ## The states after a call -/

/-- The line enters OFF: pages still waiting return with reason LOCAL_CLEARED (R133). -/
def State.enterOff (s : State) (n : LineId) : State := (s.enter n .off .stopped).returnPages n .localCleared

/-- The end of CLEARING (R16): FAULT, HOLDOFF, OFF or IDLE. -/
def State.endClearing (s : State) (n : LineId) : State :=
  let l := s.line n
  let s := (s.onCtl n fun c => { c with declined := false, declinedGap := .stopped }).onCall n fun c =>
    { c with disablePending := false }
  if l.fm.latch.isSome then s.enter n .fault .stopped
  else if l.fm.retryPending then s.enter n .holdoff (.running (l.profile.retryDelay * 1000))
  else if l.call.disablePending then s.enterOff n
  else s.enter n .idle .stopped

end Sys2Proof.Machine
end

