-- ==== Sys2Proof/Machine/Sequence.lean ====
section
/-! DEFINITION. Recordings, plays and the answer sequence (03 R53 to R57; 08 R139, R141, R142, R148), and claims with their expiry
(04 R60 to R62). -/

namespace Sys2Proof.Machine

/-- The lowest-numbered EMPTY entry of the Message Table (R139). -/
def State.lowestEmpty (s : State) : Option EntryId := (List.finRange 32).find? fun m => decide ((s.message m).state = .empty)

/-- The next message number after one (R139). -/
def nextNumber (k : Nat) : Nat := if k = 65535 then 1 else k + 1

/-- A recording starts into entry `m` (R139); the framing of R136 starts again from its first sample. That the RECORDING entry holds end
reason NONE and trailing silence 0, which R137 gives to a COMPLETE entry alone and R139 does not set, is the model's DESIGN CHOICE, unsafe
(log 42). -/
def State.beginRecording (s : State) (n : LineId) (m : EntryId) (k : RecordingKind) (stop : Bool) : State :=
  let s := s.onMessage m fun x =>
    { Message.initial x.changeCount with
      state := .recording, line := n, number := s.hdr.nextMessage, dayClock := s.hdr.dayClock
      caller := (s.line n).call.caller }
  let s := s.onHdr fun h => { h with nextMessage := nextNumber h.nextMessage }
  s.onVoice n fun v =>
    { v.framed with recording := some m, recKind := k, stopOnDigit := stop, encoder := .initial, silentRun := 0 }

/-- Automatic recording is called for (R139): with no EMPTY entry the call is cleared. -/
def State.autoRecord (s : State) (n : LineId) : State :=
  match s.lowestEmpty with
  | some m =>
    (s.beginRecording n m .automatic (s.line n).profile.stopOnDigit).onSeq n fun q => { q with step := .recording }
  | none => ((s.onVoice n fun v => { v with lastEnd := .tableFull }).raise n .message).clearDecision n .localCleared

/-- The sequence goes on after the greeting or the listen time (R53, R54): automatic recording, or step HOST. -/
def State.goOn (s : State) (n : LineId) : State :=
  if (s.line n).profile.recordAfter ∧ (s.line n).seq.greetingStopped = false then s.autoRecord n
  else s.onSeq n fun q => { q with step := .host }

/-- Listening ends (R54, R55). -/
def AnswerSeq.deaf (q : AnswerSeq) : AnswerSeq := { q with listening := false, listenTimer := .stopped }

/-- The listen time starts (R54); a time of 0 ends listening as it begins. -/
def State.beginListen (s : State) (n : LineId) : State :=
  if (s.line n).profile.listenTime = 0 then (s.onSeq n AnswerSeq.deaf).goOn n
  else s.onSeq n fun q => { q with step := .listen, listenTimer := .running ((s.line n).profile.listenTime * 1000) }

/-- A greeting of the answer sequence has ended (R53 to R55, R57). -/
def State.afterGreeting (s : State) (n : LineId) (stopped : Bool) : State :=
  let s := s.onSeq n fun q => { q with greetingStopped := q.greetingStopped || stopped }
  match (s.line n).seq.step with
  | .greeting => if (s.line n).seq.listening then s.beginListen n else s.goOn n
  | _ => s

/-- A play starts (R148): the decoder at 0, samples played at 0; a slot's play count rises (R147, R53). -/
def State.beginPlay (s : State) (n : LineId) (p : Play) (c : Chain) (total : Nat) (card : Option Nat) : State :=
  let s := s.onVoice n fun v =>
    { v with play := p, playCard := card, playChain := c, playTotal := total, samplesPlayed := 0, decoder := .initial }
  match p with
  | .slot g => s.onSlot g fun x => { x with playCount := x.playCount + 1 }
  | _ => s

/-- A play ends END or STOPPED (R148); the end of a greeting is told to the answer sequence. -/
def State.endPlay (s : State) (n : LineId) (e : PlayEnd) : State :=
  let greeting := (s.line n).voice.playCard.isNone
  let s := s.finishPlay n e .done 0
  if greeting then s.afterGreeting n (decide (e = .stopped)) else s

/-- A recording in progress ends with a reason of its own (R141, R142): an automatic one returns to HOST at a digit, and clears
the call otherwise. -/
def State.endRecording (s : State) (n : LineId) (r : EndReason) : State :=
  let kind := (s.line n).voice.recKind
  let s := s.finishRecording n r
  match kind with
  | .host _ => s
  | .automatic => if r = .digit then s.onSeq n fun q => { q with step := .host } else s.clearDecision n .localCleared

/-- The answer sequence begins at the entry to CONNECTED-VOICE (R53, R54); a fax calling tone whose onset came before it does not
count. -/
def State.beginSequence (s : State) (n : LineId) : State :=
  let s := s.onSeq n fun q => { q with listening := q.adaptive, greetingStopped := false }
  let s := s.onCtl n fun c => { c with faxToneBurst := false }
  match (s.line n).profile.greetingSlot with
  | some g =>
    if (s.slot g).state = .loaded then
      (s.beginPlay n (.slot g) (s.slot g).chain (s.slot g).sampleCount none).onSeq n fun q => { q with step := .greeting }
    else if (s.line n).seq.adaptive then s.beginListen n
    else s.goOn n
  | none => if (s.line n).seq.adaptive then s.beginListen n else s.goOn n

/-- The switch claim has failed and the call goes on (R57): the sequence continues as if the listen time had run out. -/
def State.resumeSequence (s : State) (n : LineId) : State :=
  match (s.line n).voice.play, (s.line n).voice.playCard with
  | .slot _, none => s.onSeq n fun q => { q with step := .greeting }
  | _, _ => s.goOn n

/-- A claim's wait limit expires (R62): the claim is removed and NO_PUMP reported; on an adaptive switch the call can go on
(R57). -/
def State.expireClaim (s : State) (n : LineId) : State :=
  let s := s.dropClaim n
  if (s.line n).seq.step = .switchWait then
    let s := s.takeFault n .noPump .none true false
    if (s.line n).call.state = .connected then s.resumeSequence n else s
  else s.fault n .noPump

/-- A claim made (R60): with a wait limit of 0 s it expires as soon as it has entered the queue (R62). -/
def State.makeClaim (s : State) (n : LineId) (c : ClaimClass) : State :=
  let s := s.placeClaim n c
  if (s.line n).claimExpired then s.expireClaim n else s

end Sys2Proof.Machine
end

