-- ==== Sys2Proof/Machine/Taking.lean ====
section
/-! DEFINITION. What a command answers, and the taking of a card by the running sweep (10 R172 to R174). -/

namespace Sys2Proof.Machine

/-- One event done: the state after it, its bracketed updates counted (R170). -/
def done (before after : State) : Host.Outcome State Fault Refusal := .next (before.commit after)

/-- The hand word of a card. -/
def OrderTable.hand (t : OrderTable) (i : Nat) : Hand := ((t.cards[i]?).getD .initial).hand

/-- The post number of a card as it stands. -/
def OrderTable.postNumber (t : OrderTable) (i : Nat) : Word := BitVec.ofNat 16 (((t.cards[i]?).getD .initial).word 2)

/-- What the running sweep has read of a card for the list that is being made. -/
def OrderTable.readOf (t : OrderTable) (i : Nat) : Option CardRead :=
  match t.listed with
  | .reading reads => reads.find? fun r => r.card == i
  | .made _ _ => none

/-- The sweep reads the hand word of a card for the list (R173), once: a host write may be served between two such reads (R168). -/
def OrderTable.readHand (t : OrderTable) (i : Nat) : OrderTable :=
  match t.listed with
  | .reading reads =>
    if i < t.cards.length ∧ t.readOf i = none then
      { t with listed := .reading (⟨i, decide (t.hand i = .posted), none⟩ :: reads) }
    else t
  | .made _ _ => t

/-- The sweep reads the post number of a card that it found POSTED, once. -/
def OrderTable.readNumber (t : OrderTable) (i : Nat) : OrderTable :=
  match t.listed with
  | .reading reads =>
    { t with
      listed := .reading (reads.map fun r =>
        if r.card = i ∧ r.posted = true ∧ r.number = none then { r with number := some (t.postNumber i) } else r) }
  | .made _ _ => t

/-- A card is found POSTED by the making of the list: as its hand word was read, or as it stands where it is read now. -/
def OrderTable.foundPosted (t : OrderTable) (i : Nat) : Bool :=
  match t.readOf i with
  | some r => r.posted
  | none => decide (t.hand i = .posted)

/-- The post number that places a card on the list: as it was read, or as it stands where it is read now. -/
def OrderTable.listNumber (t : OrderTable) (i : Nat) : Word := ((t.readOf i).bind CardRead.number).getD (t.postNumber i)

/-- The distance that orders the cards of one sweep: (post number − last-taken number) modulo 65536, 0 counted as 65536 (R173). -/
def OrderTable.distance (t : OrderTable) (i : Nat) : Nat :=
  let d := (t.listNumber i - t.lastTaken).toNat
  if d = 0 then 65536 else d

/-- A card index put into a list ordered by distance, then by index. -/
def OrderTable.insert (t : OrderTable) (i : Nat) : List Nat → List Nat
  | [] => [i]
  | j :: rest =>
    if t.distance i < t.distance j ∨ (t.distance i = t.distance j ∧ i < j) then i :: j :: rest else j :: t.insert i rest

/-- The list of the cards found POSTED in the order in which they are taken (R173). -/
def OrderTable.posted (t : OrderTable) : List Nat := ((List.range t.cards.length).filter t.foundPosted).foldr t.insert []

/-- The list that the running sweep goes by: fixed once it is made, else as it would be made now (R173). -/
def OrderTable.listing (t : OrderTable) : List Nat :=
  match t.listed with
  | .made _ cards => cards
  | .reading _ => t.posted

/-- The cards taken whose orders have not been carried out: their hand words read TAKEN, and the host's writes to them are dropped (R171). -/
def OrderTable.waiting (t : OrderTable) : List Nat :=
  match t.listed with
  | .made waiting _ => waiting
  | .reading _ => []

/-- The list made, what had not been read of the cards read now: from here on it is fixed, an empty one too, so that a card that becomes
POSTED waits for the next sweep and a listed card withdrawn and posted again keeps its place (R173). -/
def OrderTable.make (t : OrderTable) : OrderTable := { t with listed := .made t.waiting t.listing }

/-- The first card of the list, found FREE at its step, is passed by (R173). -/
def OrderTable.pass (t : OrderTable) : OrderTable := { t with listed := .made t.waiting t.listing.tail }

/-- The taking of card `i`, the first of the list (R173): TAKEN written, the last-taken number set, its order waiting for its owner. -/
def OrderTable.take (t : OrderTable) (i : Nat) : OrderTable :=
  ⟨t.cards.set i ⟨.taken, ((t.cards[i]?).getD .initial).body⟩, t.postNumber i, .made (t.waiting ++ [i]) t.listing.tail⟩

/-- The first of the orders that wait goes to its owner (R174). -/
def OrderTable.handOver (t : OrderTable) : OrderTable := { t with listed := .made t.waiting.tail t.listing }

/-- The Store Controller's step of the next card of the list alone (R173): found POSTED it is taken, else it is passed by. -/
def OrderTable.takeStep (t : OrderTable) : OrderTable :=
  match t.listing with
  | [] => t.pass
  | i :: _ => if t.hand i = .posted then t.take i else t.pass

/-- The card whose order comes next: the first of those taken, or else the next of the list. -/
def OrderTable.due (t : OrderTable) : Option Nat := (t.waiting ++ t.listing).head?

/-- Card `i` is the one whose order comes next: TAKEN and waiting, or else found POSTED at its step. -/
def OrderTable.comesTo (t : OrderTable) (i : Nat) : Bool :=
  t.due == some i && decide (t.hand i = if t.waiting = [] then .posted else .taken)

/-- The order of card `i` goes to its owner, the card being taken first where it was not. -/
def OrderTable.taking (t : OrderTable) (i : Nat) : OrderTable := (if t.waiting = [] then t.take i else t).handOver

/-- Card `i` of a table is the one whose order the running sweep carries out next, and its order code is one for which `codes` holds. -/
def State.takesCard (s : State) (t : TableId) (i : Nat) (codes : Nat → Bool) : Bool :=
  s.port.engineRunning && s.sweep.running && (s.table t).comesTo i && codes ((s.card t i).byte 4)

/-- The state in which the order of card `i` is carried out: its card TAKEN, the order no longer waiting (R173, R174). -/
def State.taking (s : State) (t : TableId) (i : Nat) : State := s.onTable t fun tb => tb.taking i

/-- An order command: where the running sweep comes to card `i`, taken already or to be taken now, and the card holds such an order, the
order is done; otherwise the command has no effect (log 9). -/
def takeOrder (s : State) (t : TableId) (i : Nat) (codes : Nat → Bool) (order : State → Card → State) :
    Host.Outcome State Fault Refusal :=
  if s.takesCard t i codes then done s (order (s.taking t i) (s.card t i)) else .next s

/-- An order refused for the line's state (R17, R189). -/
def State.refuseState (s : State) (n : LineId) (i : Nat) : State :=
  s.answer (.line n) i .refusedState (s.line n).call.state.code []

end Sys2Proof.Machine
end

