-- ==== Sys2Proof/Machine/Lines.lean ====
section
/-! DEFINITION. Lines and calls: ENABLE, DISABLE, HANGUP, CLEAR LINE, the loop sense and the timers of ALERTING and CLEARING (01
R10 to R21), CLEAR FAULT and CLEAR RETRY COUNT (11 R186). -/

namespace Sys2Proof.Machine

/-- ENABLE (R18). -/
def State.enableOrder (s : State) (n : LineId) (i : Nat) : State :=
  match (s.line n).call.state with
  | .off => (s.enter n .idle .stopped).answer (.line n) i .done 0 []
  | .fault => s.refuseState n i
  | _ => s.answer (.line n) i .done 0 []

/-- ENABLE (R18) -/
def execEnable (n : LineId) (card : Fin 8) (s : State) : Host.Outcome State Fault Refusal :=
  takeOrder s (.line n) card.val (· == 1) fun s _ => s.enableOrder n card.val

/-- What a DISABLE does by the line's state (R19): a latch or a pending retry is cancelled in every state. -/
def State.disableEffect (s : State) (n : LineId) : State :=
  let s := (s.onFm n fun f => { f with latch := none }).abandonRetry n .localCleared
  match (s.line n).call.state with
  | .off => s
  | .idle => s.enterOff n
  | .clearing => s.onCall n fun c => { c with disablePending := true }
  | .holdoff => s.enterOff n
  | .fault => s.enterOff n
  | _ => (s.clearDecision n .localCleared).onCall n fun c => { c with disablePending := true }

/-- DISABLE (R19). -/
def State.disableOrder (s : State) (n : LineId) (i : Nat) : State := (s.disableEffect n).answer (.line n) i .done 0 []

/-- DISABLE (R19) -/
def execDisable (n : LineId) (card : Fin 8) (s : State) : Host.Outcome State Fault Refusal :=
  takeOrder s (.line n) card.val (· == 2) fun s _ => s.disableOrder n card.val

/-- What a HANGUP does by the line's state (R20). -/
def State.hangupEffect (s : State) (n : LineId) : State :=
  match (s.line n).call.state with
  | .clearing | .idle | .off | .fault => s
  | .holdoff => (s.abandonRetry n .localCleared).enter n .idle .stopped
  | _ => s.clearDecision n .localCleared

/-- HANGUP (R20). -/
def State.hangupOrder (s : State) (n : LineId) (i : Nat) : State :=
  if (s.line n).call.state = .fault then s.refuseState n i else (s.hangupEffect n).answer (.line n) i .done 0 []

/-- HANGUP (R20) -/
def execHangup (n : LineId) (card : Fin 8) (s : State) : Host.Outcome State Fault Refusal :=
  takeOrder s (.line n) card.val (· == 5) fun s _ => s.hangupOrder n card.val

/-- What a CLEAR LINE does to the line it names (R21). -/
def State.clearLineEffect (s : State) (n : LineId) : State :=
  if (s.line n).call.state = .fault then (s.onFm n fun f => { f with latch := none }).enter n .idle .stopped
  else s.hangupEffect n

/-- CLEAR LINE (R21). That the line is the one byte at 0x06 is the model's choice (log 38). -/
def State.clearLineOrder (s : State) (i : Nat) (c : Card) : State :=
  if h : c.byte 6 < 4 then (s.clearLineEffect ⟨c.byte 6, h⟩).answer .engine i .done 0 []
  else s.answer .engine i .badField 6 []

/-- CLEAR LINE (R21) -/
def execClearLine (card : Fin 4) (s : State) : Host.Outcome State Fault Refusal :=
  takeOrder s .engine card.val (· == 39) fun s c => s.clearLineOrder card.val c

/-- CLEAR FAULT (R186). -/
def State.clearFaultOrder (s : State) (n : LineId) (i : Nat) : State :=
  if (s.line n).call.state = .fault then
    ((s.onFm n fun f => { f with latch := none }).enter n .idle .stopped).answer (.line n) i .done
      (((s.line n).fm.latch.map FaultKind.code).getD 0) []
  else s.refuseState n i

/-- CLEAR FAULT (R186) -/
def execClearFault (n : LineId) (card : Fin 8) (s : State) : Host.Outcome State Fault Refusal :=
  takeOrder s (.line n) card.val (· == 12) fun s _ => s.clearFaultOrder n card.val

/-- CLEAR RETRY COUNT (R186). -/
def State.clearRetryCountOrder (s : State) (n : LineId) (i : Nat) : State :=
  if (s.line n).call.state = .off then s.refuseState n i
  else
    (s.onFm n fun f => { f with retryCount := 0 }).answer (.line n) i .done 0 [byteOf (s.line n).fm.retryCount 0]

/-- CLEAR RETRY COUNT (R186) -/
def execClearRetryCount (n : LineId) (card : Fin 8) (s : State) : Host.Outcome State Fault Refusal :=
  takeOrder s (.line n) card.val (· == 13) fun s _ => s.clearRetryCountOrder n card.val

/-! ## Loop sense -/

/-- The dial switch holds the loop open for a pulse break or a flash (R1, R31, R32). -/
def DialPhase.breaksLoop : DialPhase → Bool
  | .pulseBreak _ => true
  | .flash => true
  | _ => false

/-- LOOP_CURRENT_FALL (R10): with the hook off and the loop sense not suppressed a loop-drop measurement starts. -/
def State.loopFall (s : State) (n : LineId) : State :=
  let l := s.line n
  s.onCtl n fun c =>
    { c with
      loopPresent := false
      loopMeasuring := c.loopMeasuring || (l.call.state.offHook && !l.dialler.phase.breaksLoop) }

/-- LOOP_CURRENT_FALL (R10) -/
def execLoopCurrentFall (n : LineId) (s : State) : Host.Outcome State Fault Refusal := done s (s.loopFall n)

/-- LOOP_CURRENT_RETURN (R10): the measurement is abandoned, and a held carrier loss is passed on. -/
def State.loopReturn (s : State) (n : LineId) : State :=
  let held := (s.line n).ctl.heldCarrierLoss
  let s := s.onCtl n fun c => { c with loopPresent := true, loopMeasuring := false, heldCarrierLoss := false }
  if held then s.fault n .carrierLost else s

/-- LOOP_CURRENT_RETURN (R10) -/
def execLoopCurrentReturn (n : LineId) (s : State) : Host.Outcome State Fault Refusal := done s (s.loopReturn n)

/-- LOOP_DROP_EXPIRY (R10): a measurement reaches 400 ms. -/
def State.loopDrop (s : State) (n : LineId) : State :=
  if (s.line n).ctl.loopMeasuring then s.clearDecision n .remoteCleared else s

/-- LOOP_DROP_EXPIRY (R10) -/
def execLoopDropExpiry (n : LineId) (s : State) : Host.Outcome State Fault Refusal := done s (s.loopDrop n)

/-! ## Timers of ALERTING and CLEARING -/

/-- The state timer of the line runs in a state (R11): its expiry is then taken. -/
def Line.expires (l : Line) (st : LineState) : Bool := decide (l.call.state = st) && l.ctl.stateTimer.isRunning

/-- RING_GAP_EXPIRY (R12): the incoming call ends MISSED, without CLEARING. -/
def State.ringGap (s : State) (n : LineId) : State :=
  if (s.line n).expires .alerting then
    (((s.closeWindow n).onCall n fun c => { c with lastOutcome := .missed }).callEnd n .missed).enter n .idle .stopped
  else s

/-- RING_GAP_EXPIRY (R12) -/
def execRingGapExpiry (n : LineId) (s : State) : Host.Outcome State Fault Refusal := done s (s.ringGap n)

/-- GUARD_TIME_EXPIRY (R16): CLEARING ends, unless the call was declined and its 8 s have not passed. -/
def State.guardExpiry (s : State) (n : LineId) : State :=
  if (s.line n).expires .clearing then
    let s := s.onCtl n fun c => { c with stateTimer := .stopped }
    if (s.line n).ctl.declined ∧ (s.line n).ctl.declinedGap.isRunning then s else s.endClearing n
  else s

/-- GUARD_TIME_EXPIRY (R16) -/
def execGuardTimeExpiry (n : LineId) (s : State) : Host.Outcome State Fault Refusal := done s (s.guardExpiry n)

/-- DECLINED_RING_GAP_EXPIRY (R16): CLEARING ends, unless the guard time still runs. -/
def State.declinedGapExpiry (s : State) (n : LineId) : State :=
  if (s.line n).call.state = .clearing ∧ (s.line n).ctl.declined ∧ (s.line n).ctl.declinedGap.isRunning then
    let s := s.onCtl n fun c => { c with declinedGap := .stopped }
    if (s.line n).ctl.stateTimer.isRunning then s else s.endClearing n
  else s

/-- DECLINED_RING_GAP_EXPIRY (R16) -/
def execDeclinedRingGapExpiry (n : LineId) (s : State) : Host.Outcome State Fault Refusal := done s (s.declinedGapExpiry n)

end Sys2Proof.Machine
end

