-- ==== Sys2Proof/Machine/Dial.lean ====
section
/-! DEFINITION. Dialling and call progress: the DIAL order, the dialler, dial tone, the classifier, and the redial (02 R22 to R39; 11
R183). -/

namespace Sys2Proof.Machine

/-- The line enters PROGRESS (R33): the answer wait starts, the classifier starts at zero; the 4 s of a voice path run (R38). -/
def State.enterProgress (s : State) (n : LineId) : State :=
  let s := s.enter n .progress (.running ((s.line n).profile.answerWait * 1000))
  let s := s.onDialler n fun d => { d with phase := .idle, timer := .stopped }
  s.onProg n fun _ =>
    { Progress.initial with pathTimer := if (s.line n).call.service = .voice then .running 4000 else .stopped }

/-- The breaks of a pulse digit (R31): 0 gives 10. -/
def pulsesOf (b : Byte) : Nat := if b = 0x30 then 10 else b.toNat - 0x30

/-- A symbol sent as a tone digit in tone mode only (R29): *, #, A to D. -/
def isToneOnly (b : Byte) : Bool := b == 0x2A || b == 0x23 || decide (0x41 ≤ b.toNat ∧ b.toNat ≤ 0x44)

/-- A break of the loop by the dial switch begins (R10): the measurement in progress is abandoned. -/
def State.beginBreak (s : State) (n : LineId) : State := s.onCtl n fun c => { c with loopMeasuring := false }

/-- The break ends (R10): a measurement starts afresh if the current is absent. -/
def State.endBreak (s : State) (n : LineId) : State := s.onCtl n fun c => { c with loopMeasuring := !c.loopPresent }

/-- The dialler takes the symbols left, each finished before the next (R29 to R33). -/
def State.takeSymbols (s : State) (n : LineId) : List Byte → State
  | [] => (s.onDialler n fun d => { d with rest := [] }).enterProgress n
  | b :: rest =>
    let p := (s.line n).profile
    let start := fun (ph : DialPhase) (ms : Nat) => s.onDialler n fun d => { d with rest := rest, phase := ph, timer := .running ms }
    if (s.line n).dialler.mode = .tone ∧ (isDigit b ∨ isToneOnly b) then (start .toneOn p.toneOn).emit (.dialTone n b)
    else if isDigit b then (start (.pulseBreak (pulsesOf b)) 60).beginBreak n
    else if b = 0x2C then start .pause (p.pauseTime * 1000)
    else if b = 0x57 then start .waitTone (p.dialToneWait * 1000)
    else if b = 0x21 then (start .flash 500).beginBreak n
    else if b = 0x50 then (s.onDialler n fun d => { d with mode := .pulse }).takeSymbols n rest
    else if b = 0x54 then (s.onDialler n fun d => { d with mode := .tone }).takeSymbols n rest
    else (s.onDialler n fun d => { d with skipped := d.skipped + 1 }).takeSymbols n rest

/-- The next symbol of the line's dial string is taken. -/
def State.nextSymbol (s : State) (n : LineId) : State := s.takeSymbols n (s.line n).dialler.rest

/-- DIALLING is entered with the first symbol of the string (R28, R33). -/
def State.enterDialling (s : State) (n : LineId) : State := (s.enter n .dialling .stopped).nextSymbol n

/-- The off-hook attempt of an originated call (R24), `volt` the line voltage found. -/
def State.offHookAttempt (s : State) (n : LineId) (volt : Bool) : State :=
  if volt then
    let s := s.closeHook n
    if (s.line n).profile.blindDialling then s.enterDialling n
    else s.enter n .seized (.running ((s.line n).profile.dialToneWait * 1000))
  else s.takeFault n .lineAbsent .none false true

/-- What follows the start of an originated call, first or redialled (R23, R39): a claim, or the voice off-hook attempt. -/
def State.placeCall (s : State) (n : LineId) (volt : Bool) : State :=
  if (s.line n).call.service = .voice then s.offHookAttempt n volt
  else (s.enter n .queued .stopped).makeClaim n .originate

/-- DIAL taken in IDLE with good fields (R23). -/
def State.dialCall (s : State) (n : LineId) (i : Nat) (v : Service) (symbols : List Byte) (volt : Bool) : State :=
  let s := (s.callStart n .originate false).copyProfile n
  let s := s.onLine n fun l =>
    { l with
      call := { l.call with service := v }
      dialler := ⟨v, symbols, symbols, l.profile.dialMode, .idle, .stopped, 1, 0⟩
      prog := .initial
      fm := { l.fm with retryCount := 0 }
      ctl := { l.ctl with dialCard := some i } }
  s.placeCall n volt

/-- DIAL (R22, R23). -/
def State.dialOrder (s : State) (n : LineId) (i : Nat) (c : Card) (volt : Bool) : State :=
  if (s.line n).call.state = .idle then
    match serviceOf (c.byte 6) with
    | none => s.answer (.line n) i .badField 6 []
    | some v =>
      if 20 < c.byte 7 then s.answer (.line n) i .badField 7 []
      else s.dialCall n i v ((c.body.drop 6).take (c.byte 7)) volt
  else s.refuseState n i

/-- DIAL (R23) -/
def execDial (n : LineId) (card : Fin 8) (volt : Bool) (s : State) : Host.Outcome State Fault Refusal :=
  takeOrder s (.line n) card.val (· == 3) fun s c => s.dialOrder n card.val c volt

/-- RETRY_DELAY_EXPIRY (R183, R39): the redial, a new call without a new copy of the Line Profile. -/
def State.redial (s : State) (n : LineId) (volt : Bool) : State :=
  if (s.line n).expires .holdoff then
    let s := (s.onFm n fun f => { f with retryPending := false }).callStart n .originate true
    let s := s.onLine n fun l =>
      { l with
        call := { l.call with service := l.dialler.service }
        ctl := { l.ctl with stateTimer := .stopped }
        dialler :=
          ⟨l.dialler.service, l.dialler.symbols, l.dialler.symbols, l.profile.dialMode, .idle, .stopped, l.dialler.attempt + 1, 0⟩
        prog := .initial }
    s.placeCall n volt
  else s

/-- RETRY_DELAY_EXPIRY (R183) -/
def execRetryDelayExpiry (n : LineId) (volt : Bool) (s : State) : Host.Outcome State Fault Refusal := done s (s.redial n volt)

/-! ## Dial tone and symbols -/

/-- DIAL_TONE_WAIT_EXPIRY (R11, R28). -/
def State.dialToneWaitExpiry (s : State) (n : LineId) : State :=
  if (s.line n).expires .seized then s.fault n .noDialTone else s

/-- DIAL_TONE_WAIT_EXPIRY (R11) -/
def execDialToneWaitExpiry (n : LineId) (s : State) : Host.Outcome State Fault Refusal := done s (s.dialToneWaitExpiry n)

/-- The dialler is at a phase in DIALLING. -/
def Line.dialsAt (l : Line) (p : DialPhase) : Bool := decide (l.call.state = .dialling) && decide (l.dialler.phase = p)

/-- DIAL_TONE_ACCEPTED (R28, R32): in SEIZED the dial begins, at a W symbol it goes on. -/
def State.dialToneAccepted (s : State) (n : LineId) : State :=
  let l := s.line n
  if l.ctl.progressTone = false then s
  else if l.call.state = .seized then s.enterDialling n
  else if l.dialsAt .waitTone then s.nextSymbol n
  else s

/-- DIAL_TONE_ACCEPTED (R28) -/
def execDialToneAccepted (n : LineId) (s : State) : Host.Outcome State Fault Refusal := done s (s.dialToneAccepted n)

/-- W_WAIT_EXPIRY (R32). -/
def State.wWaitExpiry (s : State) (n : LineId) : State := if (s.line n).dialsAt .waitTone then s.fault n .noDialTone else s

/-- W_WAIT_EXPIRY (R32) -/
def execWWaitExpiry (n : LineId) (s : State) : Host.Outcome State Fault Refusal := done s (s.wWaitExpiry n)

/-- TONE_ON_END (R30): silence for the tone gap. -/
def State.toneOnEnd (s : State) (n : LineId) : State :=
  if (s.line n).dialsAt .toneOn then
    s.onDialler n fun d => { d with phase := .toneGap, timer := .running (s.line n).profile.toneGap }
  else s

/-- TONE_ON_END (R30) -/
def execToneOnEnd (n : LineId) (s : State) : Host.Outcome State Fault Refusal := done s (s.toneOnEnd n)

/-- TONE_GAP_END (R30) -/
def execToneGapEnd (n : LineId) (s : State) : Host.Outcome State Fault Refusal :=
  done s (if (s.line n).dialsAt .toneGap then s.nextSymbol n else s)

/-- PULSE_BREAK_END (R31): a make of 40 ms. -/
def State.pulseBreakEnd (s : State) (n : LineId) : State :=
  match (s.line n).call.state, (s.line n).dialler.phase with
  | .dialling, .pulseBreak k => (s.onDialler n fun d => { d with phase := .pulseMake k, timer := .running 40 }).endBreak n
  | _, _ => s

/-- PULSE_BREAK_END (R31) -/
def execPulseBreakEnd (n : LineId) (s : State) : Host.Outcome State Fault Refusal := done s (s.pulseBreakEnd n)

/-- PULSE_MAKE_END (R31): the next break of 60 ms, or after the last make the interdigit pause of 700 ms. -/
def State.pulseMakeEnd (s : State) (n : LineId) : State :=
  match (s.line n).call.state, (s.line n).dialler.phase with
  | .dialling, .pulseMake k =>
    if 1 < k then (s.onDialler n fun d => { d with phase := .pulseBreak (k - 1), timer := .running 60 }).beginBreak n
    else s.onDialler n fun d => { d with phase := .interdigit, timer := .running 700 }
  | _, _ => s

/-- PULSE_MAKE_END (R31) -/
def execPulseMakeEnd (n : LineId) (s : State) : Host.Outcome State Fault Refusal := done s (s.pulseMakeEnd n)

/-- INTERDIGIT_PAUSE_END (R31) -/
def execInterdigitPauseEnd (n : LineId) (s : State) : Host.Outcome State Fault Refusal :=
  done s (if (s.line n).dialsAt .interdigit then s.nextSymbol n else s)

/-- PAUSE_END (R32) -/
def execPauseEnd (n : LineId) (s : State) : Host.Outcome State Fault Refusal :=
  done s (if (s.line n).dialsAt .pause then s.nextSymbol n else s)

/-- FLASH_END (R32): the loop closes and the next symbol is taken. -/
def execFlashEnd (n : LineId) (s : State) : Host.Outcome State Fault Refusal :=
  done s (if (s.line n).dialsAt .flash then (s.endBreak n).nextSymbol n else s)

/-! ## Progress -/

/-- A measured duration to the nearest 10 ms (R34); which way a tie goes is a free value (log 28). -/
def nearestTen (ms : Nat) : Nat :=
  if ms % 10 = 5 then (if Config.tieRoundsUp ms then ms + 5 else ms - 5) else (ms + 5) / 10 * 10

/-- A measured duration matches a nominal one under a tolerance in per cent (R34). -/
def matchesNominal (d n tol : Nat) : Bool := decide ((if d < n then n - d else d - n) * 100 ≤ tol * n)

/-- The kinds of cycle (R34). -/
inductive Cycle
  | busy | ringback | unmatched
deriving DecidableEq, Repr

/-- A cycle judged (R34). -/
def judgeCycle (p : Profile) (on off : Nat) : Cycle :=
  if matchesNominal on p.busyOn p.tolerance ∧ matchesNominal off p.busyOff p.tolerance then .busy
  else if matchesNominal on p.ringbackOn p.tolerance ∧ matchesNominal off p.ringbackOff p.tolerance then .ringback
  else .unmatched

/-- A judged cycle counted (R35, R36): BUSY at two busy cycles in a row, NO_ANSWER at the ringback limit. -/
def State.countCycle (s : State) (n : LineId) (c : Cycle) : State :=
  match c with
  | .busy =>
    let s := s.onProg n fun g => { g with busyRun := g.busyRun + 1 }
    if 2 ≤ (s.line n).prog.busyRun then s.clearDecision n .busy else s
  | .ringback =>
    let s := s.onProg n fun g => { g with busyRun := 0, ringbackCount := g.ringbackCount + 1 }
    if 1 ≤ (s.line n).profile.ringbackLimit ∧ (s.line n).profile.ringbackLimit ≤ (s.line n).prog.ringbackCount then
      s.clearDecision n .noAnswer
    else s
  | .unmatched => s.onProg n fun g => { g with busyRun := 0 }

/-- PROGRESS_TONE_ONSET (R28, R34, R38), `offMs` the length of the silence before it. -/
def State.progressToneOnset (s : State) (n : LineId) (offMs : Nat) : State :=
  let s := s.onCtl n fun c => { c with progressTone := true, toneInFrame := true }
  if (s.line n).call.state = .progress then
    let on := (s.line n).prog.onPeriod
    let s := s.onProg n fun g => { g with onMeasured := true, onPeriod := none, pathTimer := .stopped }
    match on with
    | some d => s.countCycle n (judgeCycle (s.line n).profile d (nearestTen offMs))
    | none => s
  else s

/-- PROGRESS_TONE_ONSET (R34) -/
def execProgressToneOnset (n : LineId) (offMs : Nat) (s : State) : Host.Outcome State Fault Refusal :=
  done s (s.progressToneOnset n offMs)

/-- The voice path is open (R38). -/
def Progress.pathOpen (g : Progress) : Bool := g.ringbackHeard || g.voicePath

/-- The connection of a voice answer where its run stands at 20 or more with the path open (R38). -/
def State.voiceAnswer (s : State) (n : LineId) : State :=
  if (s.line n).call.state = .progress ∧ (s.line n).call.service = .voice ∧ 20 ≤ (s.line n).prog.voiceRun ∧
      (s.line n).prog.pathOpen then
    (s.onProg n fun g => { g with pathTimer := .stopped }).connect n .voice
  else s

/-- PROGRESS_TONE_CEASE (R34, R36), `onMs` the length of the tone. A tone present at the entry to PROGRESS has no on period. -/
def State.progressToneCease (s : State) (n : LineId) (onMs : Nat) : State :=
  let s := s.onCtl n fun c => { c with progressTone := false }
  if (s.line n).call.state = .progress ∧ (s.line n).prog.onMeasured then
    let p := (s.line n).profile
    (s.onProg n fun g =>
      { g with
        onMeasured := false
        onPeriod := some (nearestTen onMs)
        ringbackHeard := g.ringbackHeard || matchesNominal (nearestTen onMs) p.ringbackOn p.tolerance }).voiceAnswer n
  else s

/-- PROGRESS_TONE_CEASE (R34) -/
def execProgressToneCease (n : LineId) (onMs : Nat) (s : State) : Host.Outcome State Fault Refusal :=
  done s (s.progressToneCease n onMs)

/-- VOICE_PATH_OPEN (R38): the 4 s have passed with no onset of progress tone. -/
def State.voicePathOpen (s : State) (n : LineId) : State :=
  if (s.line n).call.state = .progress ∧ (s.line n).prog.pathTimer.isRunning then
    (s.onProg n fun g => { g with voicePath := true, pathTimer := .stopped }).voiceAnswer n
  else s

/-- VOICE_PATH_OPEN (R38) -/
def execVoicePathOpen (n : LineId) (s : State) : Host.Outcome State Fault Refusal := done s (s.voicePathOpen n)

/-- ANSWER_WAIT_EXPIRY (R11, R36) -/
def execAnswerWaitExpiry (n : LineId) (s : State) : Host.Outcome State Fault Refusal :=
  done s (if (s.line n).expires .progress then s.clearDecision n .noAnswer else s)

/-- ANSWER_TONE_ONSET (R37) -/
def execAnswerToneOnset (n : LineId) (s : State) : Host.Outcome State Fault Refusal :=
  done s (s.onCtl n fun c => { c with answerTone := true })

/-- ANSWER_TONE_CEASE (R37) -/
def execAnswerToneCease (n : LineId) (s : State) : Host.Outcome State Fault Refusal :=
  done s (s.onCtl n fun c => { c with answerTone := false })

/-- The line enters TRAINING and its pump begins to train as one side (R37, R50, R56, R68). -/
def State.beginTraining (s : State) (n : LineId) (r : Role) : State :=
  let s := s.enter n .training (.running ((s.line n).profile.trainingLimit * 1000))
  let s := s.onProg n fun g => { g with pathTimer := .stopped }
  match s.heldPump n with
  | some p => (s.onPump p fun q => { q with activity := .training, role := r }).emit (.trainingStart n r)
  | none => s

/-- ANSWER_TONE_ACCEPTED (R37): present for 500 ms on a DATA or FAX call in PROGRESS. DESIGN CHOICE, unsafe (log 39): a tone whose onset
came before the entry to PROGRESS counts, R37 being silent on it. -/
def State.answerToneAccepted (s : State) (n : LineId) : State :=
  if (s.line n).call.state = .progress ∧ (s.line n).call.service ≠ .voice ∧ (s.line n).ctl.answerTone then
    s.beginTraining n .originator
  else s

/-- ANSWER_TONE_ACCEPTED (R37) -/
def execAnswerToneAccepted (n : LineId) (s : State) : Host.Outcome State Fault Refusal := done s (s.answerToneAccepted n)

end Sys2Proof.Machine
end

