-- ==== Sys2Proof/Machine/Ringing.lean ====
section
/-! DEFINITION. Ringing, caller records and answering: rings, the decoder's bursts, ANSWER, the voice settle, adaptive listening
(03 R40 to R58). -/

namespace Sys2Proof.Machine

/-- The answer attempt of R49 with a service; ADAPTIVE is a voice answer with the adaptive flag. `volt` is the line voltage
found. -/
def State.answerAttempt (s : State) (n : LineId) (v : Service) (adaptive volt : Bool) : State :=
  if volt then
    let s := (s.closeWindow n).closeHook n
    let s := (s.onCall n fun c => { c with service := v }).enter n .answering .stopped
    if v = .voice then s.onSeq n fun q => { q with adaptive := adaptive, settleTimer := .running 300 }
    else s.makeClaim n .answer
  else s.fault n .lineAbsent

/-- The auto-answer test at a counted ring (R47). -/
def State.autoAnswer (s : State) (n : LineId) (volt : Bool) : State :=
  let l := s.line n
  if l.profile.ringsBeforeAnswer ≤ l.call.ringCount ∧ s.monitor.suspended = false then
    match l.profile.answerMode with
    | .none => s
    | .data => s.answerAttempt n .data false volt
    | .fax => s.answerAttempt n .fax false volt
    | .voice => s.answerAttempt n .voice false volt
    | .adaptive => s.answerAttempt n .voice true volt
  else s

/-- The first ring of a call counted (R40). -/
def State.firstRing (s : State) (n : LineId) (volt : Bool) : State :=
  let s := (s.callStart n .answer false).copyProfile n
  let s := s.onCall n fun c => { c with tRing := s.hdr.tick, ringCount := 1 }
  let s := (s.enter n .alerting (.running 8000)).raise n .ring
  let s := s.onLine n fun l => { l with dec := ⟨l.profile.callerCapture, none⟩ }
  s.autoAnswer n volt

/-- A further ring counted in ALERTING (R41). -/
def State.furtherRing (s : State) (n : LineId) (volt : Bool) : State :=
  let s := s.onCall n fun c => { c with ringCount := min 65535 (c.ringCount + 1) }
  let s := s.onCtl n fun c => { c with stateTimer := .running 8000 }
  ((s.raise n .ring).closeWindow n).autoAnswer n volt

/-- RING_COUNTED (R2, R16, R26, R40, R41, R184): what a counted ring does by the line's state. -/
def State.ringCounted (s : State) (n : LineId) (volt : Bool) : State :=
  match (s.line n).call.state with
  | .idle => s.firstRing n volt
  | .alerting => s.furtherRing n volt
  | .queued => ((s.onCall n fun c => { c with lastOutcome := .cutByRing }).callEnd n .cutByRing).firstRing n volt
  | .holdoff =>
    ((s.abandonRetry n .cutByRing).onCall n fun c => { c with lastOutcome := .cutByRing }).firstRing n volt
  | .clearing =>
    if (s.line n).ctl.declined then s.onCtl n fun c => { c with declinedGap := .running 8000 } else s
  | _ => s

/-- RING_COUNTED (R40) -/
def execRingCounted (n : LineId) (volt : Bool) (s : State) : Host.Outcome State Fault Refusal := done s (s.ringCounted n volt)

/-- RING_VOLTAGE_ONSET (R43): the decoder's window closes. -/
def execRingVoltageOnset (n : LineId) (s : State) : Host.Outcome State Fault Refusal := done s (s.closeWindow n)

/-- CALLER_BURST_START (R43): one burst is judged at a time. -/
def State.burstStart (s : State) (n : LineId) (first : Byte) : State :=
  if (s.line n).dec.windowOpen ∧ (s.line n).dec.burst = none then
    s.onLine n fun l => { l with dec := { l.dec with burst := some first } }
  else s

/-- CALLER_BURST_START (R43) -/
def execCallerBurstStart (n : LineId) (first : Byte) (s : State) : Host.Outcome State Fault Refusal :=
  done s (s.burstStart n first)

/-- CALLER_BURST_END (R43, R45, R46): a burst of call-record type is judged and the window closes; another is set aside. -/
def State.burstEnd (s : State) (n : LineId) (rest : List Byte) : State :=
  match (s.line n).dec.windowOpen, (s.line n).dec.burst with
  | true, some first =>
    if first = 0x41 then (s.onLine n fun l => { l with dec := ⟨false, none⟩ }).fileCaller n (judgeBurst (first :: rest))
    else s.onLine n fun l => { l with dec := { l.dec with burst := none } }
  | _, _ => s

/-- CALLER_BURST_END (R45) -/
def execCallerBurstEnd (n : LineId) (rest : List Byte) (s : State) : Host.Outcome State Fault Refusal :=
  done s (s.burstEnd n rest)

/-- ANSWER (R48). That the service is the one byte at 0x06 is the model's choice (log 38). -/
def State.answerOrder (s : State) (n : LineId) (i : Nat) (c : Card) (volt : Bool) : State :=
  if (s.line n).call.state = .alerting then
    let go := fun (v : Service) (adaptive : Bool) =>
      (s.onCtl n fun k => { k with answerCard := some i }).answerAttempt n v adaptive volt
    match c.byte 6 with
    | 1 => go .data false
    | 2 => go .fax false
    | 3 => go .voice false
    | 4 => go .voice true
    | _ => s.answer (.line n) i .badField 6 []
  else s.refuseState n i

/-- ANSWER (R48) -/
def execAnswer (n : LineId) (card : Fin 8) (volt : Bool) (s : State) : Host.Outcome State Fault Refusal :=
  takeOrder s (.line n) card.val (· == 4) fun s c => s.answerOrder n card.val c volt

/-- VOICE_SETTLE_EXPIRY (R51): the call connects as voice and the answer sequence begins. -/
def State.voiceSettle (s : State) (n : LineId) : State :=
  if (s.line n).call.state = .answering ∧ (s.line n).seq.settleTimer.isRunning then
    ((s.onSeq n fun q => { q with settleTimer := .stopped }).connect n .voice).beginSequence n
  else s

/-- VOICE_SETTLE_EXPIRY (R51) -/
def execVoiceSettleExpiry (n : LineId) (s : State) : Host.Outcome State Fault Refusal := done s (s.voiceSettle n)

/-- ADAPTIVE_LISTEN_EXPIRY (R54): nothing was judged. -/
def State.listenExpiry (s : State) (n : LineId) : State :=
  if (s.line n).seq.step = .listen ∧ (s.line n).seq.listening ∧ (s.line n).seq.listenTimer.isRunning then
    (s.onSeq n AnswerSeq.deaf).goOn n
  else s

/-- ADAPTIVE_LISTEN_EXPIRY (R54) -/
def execAdaptiveListenExpiry (n : LineId) (s : State) : Host.Outcome State Fault Refusal := done s (s.listenExpiry n)

/-- A calling tone judged in listening (R55): listening ends, an ANSWER claim is made, the step becomes SWITCH WAIT. -/
def State.switchClaim (s : State) (n : LineId) (v : Service) : State :=
  (s.onSeq n fun q => { q.deaf with switchTo := v, step := .switchWait }).makeClaim n .answer

/-- FAX_CALLING_TONE_ONSET (R54): a burst counts only where its onset came in listening. -/
def execFaxCallingToneOnset (n : LineId) (s : State) : Host.Outcome State Fault Refusal :=
  done s (s.onCtl n fun c => { c with faxToneBurst := (s.line n).seq.listening })

/-- FAX_CALLING_TONE_CEASE (R54): a burst of 400 to 700 ms is judged. -/
def State.faxToneCease (s : State) (n : LineId) (ms : Nat) : State :=
  let burst := (s.line n).ctl.faxToneBurst
  let s := s.onCtl n fun c => { c with faxToneBurst := false }
  if burst ∧ (s.line n).seq.listening ∧ 400 ≤ ms ∧ ms ≤ 700 then s.switchClaim n .fax else s

/-- FAX_CALLING_TONE_CEASE (R54) -/
def execFaxCallingToneCease (n : LineId) (ms : Nat) (s : State) : Host.Outcome State Fault Refusal := done s (s.faxToneCease n ms)

/-- DATA_CALLING_TONE_ONSET (R54) -/
def execDataCallingToneOnset (n : LineId) (s : State) : Host.Outcome State Fault Refusal :=
  done s (s.onCtl n fun c => { c with dataTone := true })

/-- DATA_CALLING_TONE_CEASE (R54) -/
def execDataCallingToneCease (n : LineId) (s : State) : Host.Outcome State Fault Refusal :=
  done s (s.onCtl n fun c => { c with dataTone := false })

/-- DATA_CALLING_TONE_ACCEPTED (R54): present without a cease for 400 ms, judged in listening. -/
def State.dataToneAccepted (s : State) (n : LineId) : State :=
  if (s.line n).seq.listening ∧ (s.line n).ctl.dataTone then s.switchClaim n .data else s

/-- DATA_CALLING_TONE_ACCEPTED (R54) -/
def execDataCallingToneAccepted (n : LineId) (s : State) : Host.Outcome State Fault Refusal := done s (s.dataToneAccepted n)

end Sys2Proof.Machine
end

