-- ==== Sys2Proof/Machine/Voice.lean ====
section
/-! DEFINITION. Voice: the codec, silence, recording and playing, digits, the Message Table and the greeting slots (08 R134 to
R152). -/

namespace Sys2Proof.Machine

/-! ## The codec -/

/-- The step size s(k) (R135). -/
def stepSize : Nat → Nat
  | 0 => 16
  | k + 1 => stepSize k + stepSize k / 8

/-- adj(m) (R135). -/
def stepAdjust (m : Nat) : Int :=
  match m with
  | 4 => 2
  | 5 => 4
  | 6 => 6
  | 7 => 8
  | _ => -1

/-- An integer clamped into a range (00 Conventions). -/
def clampInt (lo hi v : Int) : Int := if v < lo then lo else if hi < v then hi else v

/-- Steps 4 to 6 of R135, shared by the encoder and the decoder. -/
def Codec.update (c : Codec) (negative : Bool) (m : Nat) : Codec :=
  let delta : Int := ((2 * m + 1) * stepSize c.k / 4 : Nat)
  ⟨clampInt (-8192) 8191 (if negative then c.p - delta else c.p + delta), (clampInt 0 46 ((c.k : Int) + stepAdjust m)).toNat⟩

/-- Steps 1 to 3 of R135: the sign and m of a sample. -/
def Codec.measure (c : Codec) (x : Int) : Bool × Nat :=
  (decide (x - c.p < 0), min 7 (2 * (x - c.p).natAbs / stepSize c.k))

/-- One sample coded (R135): its 4-bit code and the encoder after it. -/
def Codec.encode (c : Codec) (x : Int) : Nat × Codec :=
  let a := c.measure x
  ((if a.1 then 8 else 0) + a.2, c.update a.1 a.2)

/-- One code decoded (R135): the decoder after it, its predictor the sample sent. -/
def Codec.decode (c : Codec) (code : Nat) : Codec := c.update (decide (8 ≤ code)) (code % 8)

/-! ## Recording -/

/-- The last block of an entry where it has room for a byte (R140). -/
def State.openBlock (s : State) (m : EntryId) : Option Nat :=
  match (s.message m).blocks.getLast? with
  | some b => if s.store.fill b < 1016 then some b else none
  | none => none

/-- A block for entry `m` popped above the Reserve, its header written and linked (R140); none at or below the Reserve. -/
def State.popMessage (s : State) (n : LineId) (m : EntryId) : Option (Nat × State) :=
  if s.reserve < s.store.freeCount then
    match s.pop (.msg m) with
    | none => none
    | some (b, s) =>
      let x := s.message m
      let s := s.onStore fun st =>
        let st := st.newHeader b .voice n x.blocks.length
        match x.blocks.getLast? with
        | some last => st.setNext last b
        | none => st
      some (b, s.onMessage m fun x => { x with blocks := x.blocks ++ [b] })
  else none

/-- A code stored for entry `m` (R140): the more significant four bits of a new byte, or the less significant of the last. None
where a block is needed and the Free Count is at or below the Reserve. -/
def State.storeCode (s : State) (n : LineId) (m : EntryId) (code : Nat) : Option State :=
  let count := fun (s : State) => s.onMessage m fun x => { x with sampleCount := x.sampleCount + 1 }
  if (s.message m).sampleCount % 2 = 1 then
    match (s.message m).blocks.getLast? with
    | some b =>
      let i := s.store.fill b - 1
      some (count (s.onStore fun st => st.setPayload b i ((st.payload b i &&& 0xF0) ||| BitVec.ofNat 8 code)))
    | none => some (count s)
  else
    match (match s.openBlock m with | some b => some (b, s) | none => s.popMessage n m) with
    | none => none
    | some (b, s) => some (count (s.onStore fun st => st.append b [BitVec.ofNat 8 (16 * code)]))

/-- A received sample joins the present frame (R136), unless its frame has been judged before the sample is coded: either may be
taken first (R141). A frame of 80 samples whose end has not been reported gives way to the next. -/
def Voice.hear (v : Voice) (x : Sample) : Voice :=
  if 0 < v.ahead then { v with ahead := v.ahead - 1 }
  else { v with frame := if v.frame.length < 80 then v.frame ++ [x] else [x] }

/-- ENCODE_SAMPLE (R140, R141): a received sample of a line that is recording. -/
def State.encodeSample (s : State) (n : LineId) (x : Sample) : State :=
  match (s.line n).voice.recording with
  | none => s
  | some m =>
    let a := (s.line n).voice.encoder.encode x.toInt
    match s.storeCode n m a.1 with
    | none => (s.raise n .poolDry).endRecording n .storeFull
    | some s =>
      let s := s.onVoice n fun v => { v.hear x with encoder := a.2 }
      if (s.line n).profile.maxLength * 8000 ≤ (s.message m).sampleCount then s.endRecording n .maxLength else s

/-- ENCODE_SAMPLE (R140) -/
def execEncodeSample (n : LineId) (x : Sample) (s : State) : Host.Outcome State Fault Refusal := done s (s.encodeSample n x)

/-- The level of a frame (R136). -/
def frameLevel (xs : List Sample) : Nat := (xs.map fun x => x.toInt.natAbs).sum / 80

/-- The voice run of the progress classifier at the end of a frame (R38), `tone` saying whether a progress tone was reported at any
time in it. The frame during which PROGRESS was entered is a frame in PROGRESS, judged on the whole of its samples and tones: R38 does
not say, and this is the model's choice (log 29). -/
def State.frameInProgress (s : State) (n : LineId) (silent tone : Bool) : State :=
  if (s.line n).call.state = .progress ∧ (s.line n).call.service = .voice then
    (s.onProg n fun g => { g with voiceRun := if silent || tone then 0 else g.voiceRun + 1 }).voiceAnswer n
  else s

/-- The silent run of the recording in progress at the end of a frame (R136, R141). -/
def State.frameInRecording (s : State) (n : LineId) (silent : Bool) : State :=
  if (s.line n).voice.recording.isSome then
    let s := s.onVoice n fun v => { v with silentRun := if silent then v.silentRun + 1 else 0 }
    if silent ∧ (s.line n).profile.silenceLimit * 100 ≤ (s.line n).voice.silentRun then s.endRecording n .silence else s
  else s

/-- The next frame begins (R136): the `k` samples of the judged frame that a recording's encoder has not been given are still to
come to it, and a progress tone that stands is in the next frame (R38). -/
def State.nextFrame (s : State) (n : LineId) (k : Nat) : State :=
  (s.onVoice n fun v => { v with frame := [], ahead := if v.recording.isSome then v.ahead + k else 0 }).onCtl n fun c =>
    { c with toneInFrame := c.progressTone }

/-- VOICE_FRAME_END (R136): the frame made of the samples that the encoder has been given since the framing started and of those
given here is judged, for the recording in progress and for the progress classifier. Where they are not 80 no frame has ended. -/
def State.frameEnd (s : State) (n : LineId) (xs : List Sample) : State :=
  let l := s.line n
  let frame := l.voice.frame ++ xs
  if l.call.state.offHook ∧ frame.length = 80 then
    let silent := decide (frameLevel frame < l.profile.silenceThreshold)
    ((s.nextFrame n xs.length).frameInRecording n silent).frameInProgress n silent l.ctl.toneInFrame
  else s

/-- VOICE_FRAME_END (R136) -/
def execVoiceFrameEnd (n : LineId) (samples : List Sample) (s : State) : Host.Outcome State Fault Refusal :=
  done s (s.frameEnd n samples)

/-- RECORD (R138). That stop on digit is the one byte at 0x06 is the model's choice (log 38). -/
def State.recordOrder (s : State) (n : LineId) (i : Nat) (c : Card) : State :=
  let l := s.line n
  if l.connectedAs .voice then
    if l.voice.recording.isSome ∨ l.seq.step ≠ .host then s.answer (.line n) i .refusedBusy 0 []
    else
      match s.lowestEmpty with
      | none => s.answer (.line n) i .refusedFull 0 []
      | some m => s.beginRecording n m (.host i) (c.byte 6 != 0)
  else s.refuseState n i

/-- RECORD (R138) -/
def execRecord (n : LineId) (card : Fin 8) (s : State) : Host.Outcome State Fault Refusal :=
  takeOrder s (.line n) card.val (· == 9) fun s c => s.recordOrder n card.val c

/-! ## Playing -/

/-- The samples of a chain: twice the sum of its fills (R135). -/
def Chain.samples (c : Chain) : Nat := 2 * Chain.bytes c

/-- PLAY (R147). -/
def State.playOrder (s : State) (n : LineId) (i : Nat) (c : Card) : State :=
  let l := s.line n
  if l.connectedAs .voice then
    if l.voice.play ≠ .none then s.answer (.line n) i .refusedBusy 0 []
    else if c.byte 6 = 1 then
      match slotOf (c.byte 7) with
      | none => s.answer (.line n) i .badField 7 []
      | some g =>
        if (s.slot g).state = .loaded then s.beginPlay n (.slot g) (s.slot g).chain (s.slot g).sampleCount (some i)
        else s.answer (.line n) i .absent 0 []
    else if c.byte 6 = 2 then
      match s.store.validate .voice 255 (c.word 8) with
      | .error e => s.answerBadChain (.line n) i e
      | .ok ch => (s.giveBlocks (ch.map Prod.fst) (.play n)).beginPlay n (.chain (c.word 8)) ch (Chain.samples ch) (some i)
    else s.answer (.line n) i .badField 6 []
  else s.refuseState n i

/-- PLAY (R147) -/
def execPlay (n : LineId) (card : Fin 8) (s : State) : Host.Outcome State Fault Refusal :=
  takeOrder s (.line n) card.val (· == 8) fun s c => s.playOrder n card.val c

/-- The code of the next sample of a play (R148): the more significant four bits of each byte first. -/
def Store.nextCode (st : Store) (v : Voice) : Nat :=
  let b := (st.chainByte v.playChain (v.samplesPlayed / 2)).toNat
  if v.samplesPlayed % 2 = 0 then b / 16 else b % 16

/-- DECODE_SAMPLE (R148): one sample of the play sent; the play ends END at its last. The last sample and the end are one step, so a STOP
taken before the end finds samples played at most one short of the count and never equal to it, where R148 allows both: the model's
choice (log 34). -/
def State.decodeSample (s : State) (n : LineId) : State :=
  if (s.line n).voice.play = .none then s
  else
    let d := (s.line n).voice.decoder.decode (s.store.nextCode (s.line n).voice)
    let s := (s.onVoice n fun v => { v with decoder := d, samplesPlayed := v.samplesPlayed + 1 }).emit (.audio n d.p)
    if (s.line n).voice.playTotal ≤ (s.line n).voice.samplesPlayed then s.endPlay n .ended else s

/-- DECODE_SAMPLE (R148) -/
def execDecodeSample (n : LineId) (s : State) : Host.Outcome State Fault Refusal := done s (s.decodeSample n)

/-- STOP (R149). -/
def State.stopOrder (s : State) (n : LineId) (i : Nat) : State :=
  let l := s.line n
  if l.call.state = .off ∨ l.call.state = .fault then s.refuseState n i
  else
    let playing := decide (l.voice.play ≠ .none)
    let recording := l.voice.recording.isSome
    let s := if playing then s.endPlay n .stopped else s
    let s := if recording then s.endRecording n .stopped else s
    s.answer (.line n) i .done 0 [byteOf (flagCode playing) 0, byteOf (flagCode recording) 0]

/-- STOP (R149) -/
def execStop (n : LineId) (card : Fin 8) (s : State) : Host.Outcome State Fault Refusal :=
  takeOrder s (.line n) card.val (· == 10) fun s _ => s.stopOrder n card.val

/-! ## Digits -/

/-- A digit placed in the Digit Queue, or discarded where it holds 16 (R150). -/
def State.queueDigit (s : State) (n : LineId) (d : Byte) : State :=
  let v := (s.line n).voice
  if v.digits.length < 16 then
    let s := s.onVoice n fun v => { v with digits := v.digits ++ [d] }
    if v.digits = [] then s.raise n .digit else s
  else s.onVoice n fun v => { v with overflow := min 65535 (v.overflow + 1) }

/-- Adaptive listening ends at a digit (R54): after the greeting the sequence goes on at once. -/
def State.digitEndsListening (s : State) (n : LineId) : State :=
  if (s.line n).seq.listening then
    let s := s.onSeq n AnswerSeq.deaf
    if (s.line n).seq.step = .listen then s.goOn n else s
  else s

/-- DTMF_DIGIT (R150): queued, then handed to a recording that stops on a digit, or to adaptive listening. -/
def State.digitHeard (s : State) (n : LineId) (d : Byte) : State :=
  if (s.line n).connectedAs .voice then
    let s := s.queueDigit n d
    if (s.line n).voice.recording.isSome ∧ (s.line n).voice.stopOnDigit then s.endRecording n .digit
    else s.digitEndsListening n
  else s

/-- DTMF_DIGIT (R150) -/
def execDtmfDigit (n : LineId) (digit : Byte) (s : State) : Host.Outcome State Fault Refusal := done s (s.digitHeard n digit)

/-- TAKE DIGITS (R151). -/
def State.takeDigitsOrder (s : State) (n : LineId) (i : Nat) : State :=
  let v := (s.line n).voice
  (s.onVoice n fun v => { v with digits := [], overflow := 0 }).answerWith (.line n) i .done 0 v.digits.length
    ((v.digits ++ List.replicate 16 0).take 16 ++ wordBytes v.overflow)

/-- TAKE DIGITS (R151) -/
def execTakeDigits (n : LineId) (card : Fin 8) (s : State) : Host.Outcome State Fault Refusal :=
  takeOrder s (.line n) card.val (· == 11) fun s _ => s.takeDigitsOrder n card.val

/-! ## Greeting slots and messages -/

/-- LOAD GREETING (R145). That the slot is the one byte at 0x06 is the model's choice (log 38). -/
def State.loadGreetingOrder (s : State) (i : Nat) (c : Card) : State :=
  match slotOf (c.byte 6) with
  | none => s.answer .engine i .badField 6 []
  | some g =>
    if (s.slot g).state ≠ .empty then s.answer .engine i .refusedBusy 0 []
    else
      match s.store.validate .voice 255 (c.word 8) with
      | .error e => s.answerBadChain .engine i e
      | .ok ch =>
        ((s.giveBlocks (ch.map Prod.fst) (.greet g)).onSlot g fun _ => ⟨.loaded, ch, Chain.samples ch, 0, none⟩).answer
          .engine i .done 0 (wordBytes ch.length ++ longBytes (Chain.samples ch))

/-- LOAD GREETING (R145) -/
def execLoadGreeting (card : Fin 4) (s : State) : Host.Outcome State Fault Refusal :=
  takeOrder s .engine card.val (· == 34) fun s c => s.loadGreetingOrder card.val c

/-- UNLOAD GREETING (R146). That the slot is the one byte at 0x06 is the model's choice (log 38). -/
def State.unloadGreetingOrder (s : State) (i : Nat) (c : Card) : State :=
  match slotOf (c.byte 6) with
  | none => s.answer .engine i .badField 6 []
  | some g =>
    match (s.slot g).state with
    | .empty => s.answer .engine i .absent 0 []
    | .withdrawing => s.answer .engine i .refusedBusy 0 []
    | .loaded =>
      if (s.slot g).playCount = 0 then (s.emptySlot g).answer .engine i .done 0 []
      else s.onSlot g fun x => { x with state := .withdrawing, unloadCard := some i }

/-- UNLOAD GREETING (R146) -/
def execUnloadGreeting (card : Fin 4) (s : State) : Host.Outcome State Fault Refusal :=
  takeOrder s .engine card.val (· == 35) fun s c => s.unloadGreetingOrder card.val c

/-- The COMPLETE entry that a COLLECT MESSAGE or DISCARD MESSAGE card names, or how the card is answered (R143). That the entry is the one
byte at 0x06 is the model's choice (log 38). -/
def State.namedMessage (s : State) (c : Card) : Except Status EntryId :=
  if h : c.byte 6 < 32 then
    if (s.message ⟨c.byte 6, h⟩).state = .complete ∧ (s.message ⟨c.byte 6, h⟩).number = c.word 8 then .ok ⟨c.byte 6, h⟩
    else .error .absent
  else .error .badField

/-- The entry becomes EMPTY (R143). -/
def State.clearMessage (s : State) (m : EntryId) : State := s.onMessage m fun x => .initial x.changeCount

/-- COLLECT MESSAGE (R143). DESIGN CHOICE, unsafe (log 41): the first block field of an ABSENT or BAD_FIELD answer is written 0. -/
def State.collectOrder (s : State) (i : Nat) (c : Card) : State :=
  match s.namedMessage c with
  | .error st => s.answer .engine i st (if st = .badField then 6 else 0) []
  | .ok m =>
    let x := s.message m
    ((s.giveBlocks x.blocks .host).clearMessage m).answer .engine i .done 0
      (wordBytes (x.blocks.head?.getD 65535) ++ wordBytes x.blocks.length ++ longBytes x.sampleCount ++ [byteOf x.endReason.code 0])

/-- COLLECT MESSAGE (R143) -/
def execCollectMessage (card : Fin 4) (s : State) : Host.Outcome State Fault Refusal :=
  takeOrder s .engine card.val (· == 36) fun s c => s.collectOrder card.val c

/-- DISCARD MESSAGE (R143). -/
def State.discardOrder (s : State) (i : Nat) (c : Card) : State :=
  match s.namedMessage c with
  | .error st => s.answer .engine i st (if st = .badField then 6 else 0) []
  | .ok m =>
    let x := s.message m
    ((s.clearMessage m).freeBlocks x.blocks).answer .engine i .done 0 (wordBytes x.blocks.length)

/-- DISCARD MESSAGE (R143) -/
def execDiscardMessage (card : Fin 4) (s : State) : Host.Outcome State Fault Refusal :=
  takeOrder s .engine card.val (· == 37) fun s c => s.discardOrder card.val c

end Sys2Proof.Machine
end

