-- ==== Sys2Proof/Machine/Rate.lean ====
section
/-! DEFINITION. The Grade Unit's decisions and the pump's shifts and retrains (04 R68 to R72; 05 R80 to R90). -/

namespace Sys2Proof.Machine

/-- The line's pump changed, where it holds one. -/
def State.onHeldPump (s : State) (n : LineId) (f : Pump → Pump) : State :=
  match s.heldPump n with
  | some p => s.onPump p f
  | none => s

/-- The line's pump is at an activity, its carrier not reported lost (R67, R72). -/
def State.pumpAt (s : State) (n : LineId) (a : Activity) : Bool :=
  match s.heldPump n with
  | some p => decide ((s.pump p).activity = a) && !(s.pump p).carrierLost
  | none => false

/-- The pump enters an activity with the timer of its attempt (R70, R71). -/
def Pump.work (q : Pump) (a : Activity) (t : Timer) : Pump := { q with activity := a, holding := false, attemptTimer := t }

/-- Link open begins (R95). -/
def State.beginLinkOpen (s : State) (n : LineId) : State :=
  (s.onLink n fun l => { l with state := .opening, openTimer := .running 5000, repeatTimer := .running 500 }).sendReply n
    (s.ownLinkOpen n)

/-- A seed of a data line: both counts become 0 (R78). -/
def Grade.seedData (g : Grade) (q : Nat) : Grade := { g.seed q with upCount := 0, downCount := 0 }

/-- The grade of a data line after the report of a completed exchange: seeded, its bounds computed (R79, R80, R88). -/
def Grade.exchange (g : Grade) (p : Profile) (q farMax : Nat) : Grade := (g.seedData q).bounds p.maxRung p.minRung farMax

/-- The rung chosen from grade and bounds (R80, R88). -/
def Grade.choice (g : Grade) : Option Nat := highestRung g.floor g.value g.ceiling

/-- The Link Framer sets F to 0 as the Grade Unit reads it (R81 step 1, R98). -/
def State.errorsRead (s : State) (n : LineId) : State := s.onLink n fun k => { k with frameErrors := 0 }

/-- The first window report of a new exchange (R81 steps 1 to 3; R79, R80, R88): F read, the grade seeded, its bounds computed. -/
def State.exchangeReport (s : State) (n : LineId) (farMax : Nat) (sig err : Word) : State :=
  (s.errorsRead n).onGrade n fun g => g.exchange (s.line n).profile (margin sig err) farMax

/-- DATA_TRAINING_SUCCESS (R68, R80). -/
def State.dataTraining (s : State) (n : LineId) (farMax : Nat) (sig err : Word) : State :=
  let l := s.line n
  if l.call.state = .training ∧ l.call.service = .data ∧ s.pumpAt n .training then
    let s := s.exchangeReport n farMax sig err
    match (s.line n).grade.choice with
    | some r =>
      ((s.onGrade n fun g => { g with rung := r, rate := .settled }).onHeldPump n fun q => q.work .carrying .stopped).beginLinkOpen n
    | none => s.fault n .trainFailed
  else s

/-- DATA_TRAINING_SUCCESS (R80) -/
def execDataTrainingSuccess (n : LineId) (farMax : Nat) (sig err : Word) (s : State) : Host.Outcome State Fault Refusal :=
  done s (s.dataTraining n farMax sig err)

/-- TRAINING_SERVICE_MISMATCH (R68). -/
def State.trainingMismatch (s : State) (n : LineId) : State :=
  if (s.line n).call.state = .training ∧ s.pumpAt n .training then s.fault n .trainFailed else s

/-- TRAINING_SERVICE_MISMATCH (R68) -/
def execTrainingServiceMismatch (n : LineId) (s : State) : Host.Outcome State Fault Refusal := done s (s.trainingMismatch n)

/-- TRAINING_TIMER_EXPIRY (R11) -/
def execTrainingTimerExpiry (n : LineId) (s : State) : Host.Outcome State Fault Refusal :=
  done s (if (s.line n).expires .training then s.fault n .trainFailed else s)

/-- A shift requested to a target rung (R70, R84). -/
def State.requestShift (s : State) (n : LineId) (t : Nat) : State :=
  (((s.onGrade n fun g => { g with rate := .shifting t }).onHeldPump n fun q => q.work .shifting (.running 2000)).emit
    (.shiftRequest n t)).rateInFlight n

/-- A retrain begun, or RETRAIN_EXHAUSTED at the limit (R87). -/
def State.beginRetrain (s : State) (n : LineId) : State :=
  let l := s.line n
  if l.grade.retrainCount < l.profile.retrainLimit then
    let s := s.onGrade n fun g => { g with retrainCount := g.retrainCount + 1, rate := .retraining }
    let s := if l.link.inFlight then s else s.rateInFlight n
    let s := (s.onHeldPump n fun q => q.work .retraining (.running 5000)).emit (.retrainStart n)
    if l.connectedAs .data then (s.onCall n fun c => { c with state := .retraining }).raise n .retrain else s
  else s.fault n .retrainExhausted

/-- The collapse count and its test (R90). -/
def State.collapseTest (s : State) (n : LineId) : State :=
  let p := (s.line n).profile
  if (s.line n).grade.value < p.collapseThreshold then
    if p.collapseTime * 10 ≤ (s.line n).grade.collapseCount + 1 then
      (s.onGrade n fun g => { g with collapseCount := 0 }).takeFault n .gradeCollapse .none true false
    else s.onGrade n fun g => { g with collapseCount := g.collapseCount + 1 }
  else s.onGrade n fun g => { g with collapseCount := 0 }

/-- A window is good (R82). -/
def Grade.good (g : Grade) (up f : Nat) : Bool :=
  decide (g.rung < g.ceiling) && decide (threshold (g.rung + 1) + up ≤ g.value) && decide (f = 0)

/-- A window is poor (R83). -/
def Grade.poor (g : Grade) (f : Nat) : Bool := decide (g.value < threshold g.rung) || decide (3 ≤ f)

/-- The rung decisions of a window on a settled data line (R81 step 5, R82, R83). -/
def State.judgeWindow (s : State) (n : LineId) (f : Nat) : State :=
  let p := (s.line n).profile
  let g := (s.line n).grade
  if g.good p.upMargin f then
    let s := s.onGrade n fun g => { g with upCount := g.upCount + 1, downCount := 0 }
    if p.upWindows ≤ g.upCount + 1 then s.requestShift n (g.rung + 1) else s
  else if g.poor f then
    let s := s.onGrade n fun g => { g with downCount := g.downCount + 1, upCount := 0 }
    if p.downWindows ≤ g.downCount + 1 then
      match highestRung g.floor g.value (g.rung - 1) with
      | some r => s.requestShift n r
      | none => s.beginRetrain n
    else s
  else s.onGrade n fun g => { g with upCount := 0, downCount := 0 }

/-- The states in which a window report is taken (R81). -/
def LineState.takesWindows : LineState → Bool
  | .training | .connected | .retraining => true
  | _ => false

/-- GRADING_WINDOW (R69, R81, R91): F read, Q formed, the grade seeded or smoothed, then collapse and rung decisions. -/
def State.window (s : State) (n : LineId) (sig err : Word) : State :=
  let l := s.line n
  if l.call.state.takesWindows ∧ s.carrying n then
    let f := if l.call.service = .data then l.link.frameErrors else 0
    let s := if l.call.service = .data then s.errorsRead n else s
    let q := margin sig err
    let s := s.onGrade n fun g => if g.seedPending then { g.seed q with seedPending := false } else g.take q
    if l.call.state = .connected then
      let s := s.collapseTest n
      if (s.line n).connectedAs .data ∧ (s.line n).grade.rate = .settled then s.judgeWindow n f else s
    else s
  else s

/-- GRADING_WINDOW (R81) -/
def execGradingWindow (n : LineId) (sig err : Word) (s : State) : Host.Outcome State Fault Refusal := done s (s.window n sig err)

/-- The target of the shift in flight, where the pump is SHIFTING. -/
def State.shiftTarget (s : State) (n : LineId) : Option Nat :=
  match (s.line n).grade.rate with
  | .shifting t => if s.pumpAt n .shifting then some t else none
  | _ => none

/-- SHIFT_DONE (R70, R85). -/
def State.shiftDone (s : State) (n : LineId) : State :=
  match s.shiftTarget n with
  | none => s
  | some t =>
    let s := s.onGrade n fun g => { g with rung := t, rate := .settled, upCount := 0, downCount := 0 }
    ((s.onHeldPump n fun q => q.work .carrying .stopped).rateSettled n).raise n .rate

/-- SHIFT_DONE (R85) -/
def execShiftDone (n : LineId) (s : State) : Host.Outcome State Fault Refusal := done s (s.shiftDone n)

/-- SHIFT_FAILED (R86): the far end refused. -/
def execShiftFailed (n : LineId) (s : State) : Host.Outcome State Fault Refusal :=
  done s (if (s.shiftTarget n).isSome then s.beginRetrain n else s)

/-- SHIFT_ANSWER_EXPIRY (R70): no answer within 2 s. -/
def execShiftAnswerExpiry (n : LineId) (s : State) : Host.Outcome State Fault Refusal :=
  done s (if (s.shiftTarget n).isSome then s.beginRetrain n else s)

/-- FAR_RETRAIN (R71, R86): received in CARRYING or SHIFTING on a data call. -/
def State.farRetrain (s : State) (n : LineId) : State :=
  if (s.line n).call.service = .data ∧ (s.pumpAt n .carrying ∨ s.pumpAt n .shifting) then
    (s.onHeldPump n fun q => { q with holding := true }).beginRetrain n
  else s

/-- FAR_RETRAIN (R86) -/
def execFarRetrain (n : LineId) (s : State) : Host.Outcome State Fault Refusal := done s (s.farRetrain n)

/-- The attempt is the one in progress on its line (R71, R87). -/
def State.inAttempt (s : State) (a : RetrainAttempt) : Bool :=
  s.pumpAt a.line .retraining && a.number == (s.line a.line).grade.retrainCount

/-- A completed exchange of line `n` taken (R88): F read, the grade reseeded, the bounds computed afresh, a rung chosen, or a failed
attempt (R81, R89). -/
def State.exchangeDone (s : State) (n : LineId) (farMax : Nat) (sig err : Word) : State :=
  let old := (s.line n).grade.rung
  let s := s.exchangeReport n farMax sig err
  match (s.line n).grade.choice with
  | some r =>
    let s := (s.onGrade n fun g => { g with rung := r, rate := .settled }).onHeldPump n fun q => q.work .carrying .stopped
    let s := s.onCall n fun c => { c with state := if c.state = .retraining then .connected else c.state }
    let s := s.rateSettled n
    if r = old then s else s.raise n .rate
  | none => s.beginRetrain n

/-- RETRAIN_COMPLETION (R71, R88): the completion of an attempt that has failed is discarded. -/
def State.retrainDone (s : State) (a : RetrainAttempt) (farMax : Nat) (sig err : Word) : State :=
  if s.inAttempt a then s.exchangeDone a.line farMax sig err else s

/-- RETRAIN_COMPLETION (R88) -/
def execRetrainCompletion (a : RetrainAttempt) (farMax : Nat) (sig err : Word) (s : State) : Host.Outcome State Fault Refusal :=
  done s (s.retrainDone a farMax sig err)

/-- A retrain attempt in progress has failed (R71, R89). -/
def State.attemptFailed (s : State) (a : RetrainAttempt) : State := if s.inAttempt a then s.beginRetrain a.line else s

/-- RETRAIN_ATTEMPT_EXPIRY (R71, R89): the exchange is not complete within 5 s. -/
def execRetrainAttemptExpiry (a : RetrainAttempt) (s : State) : Host.Outcome State Fault Refusal := done s (s.attemptFailed a)

/-- RETRAIN_SERVICE_MISMATCH (R71, R89): the far end's signals show the other service. -/
def execRetrainServiceMismatch (a : RetrainAttempt) (s : State) : Host.Outcome State Fault Refusal := done s (s.attemptFailed a)

/-! ## Carrier watch -/

/-- The pump watches the far carrier (R67, R72). -/
def State.watches (s : State) (n : LineId) : Bool := s.pumpAt n .carrying || s.pumpAt n .shifting || s.pumpAt n .retraining

/-- CARRIER_CEASE (R72): a measurement starts. -/
def execCarrierCease (n : LineId) (s : State) : Host.Outcome State Fault Refusal :=
  done s (if s.watches n then
    s.onHeldPump n fun q => { q with carrierTimer := .running (s.line n).profile.carrierLossTime } else s)

/-- CARRIER_RETURN (R72): the measurement is abandoned. -/
def execCarrierReturn (n : LineId) (s : State) : Host.Outcome State Fault Refusal :=
  done s (s.onHeldPump n fun q => { q with carrierTimer := .stopped })

/-- A carrier-loss measurement of the line's pump runs. -/
def State.measuresCarrier (s : State) (n : LineId) : Bool :=
  match s.heldPump n with
  | some p => (s.pump p).carrierTimer.isRunning
  | none => false

/-- CARRIER_LOSS_EXPIRY (R72): reported, and passed on as CARRIER_LOST or held while a loop-drop measurement runs (R10). -/
def State.carrierLoss (s : State) (n : LineId) : State :=
  if s.measuresCarrier n then
    let s := s.onHeldPump n fun q => { q with carrierTimer := .stopped, attemptTimer := .stopped, carrierLost := true }
    if (s.line n).ctl.loopMeasuring then s.onCtl n fun c => { c with heldCarrierLoss := true } else s.fault n .carrierLost
  else s

/-- CARRIER_LOSS_EXPIRY (R72) -/
def execCarrierLossExpiry (n : LineId) (s : State) : Host.Outcome State Fault Refusal := done s (s.carrierLoss n)

/-! ## Settling, claims and self-faults -/

/-- The adaptive switch (R56). -/
def State.adaptiveSwitch (s : State) (n : LineId) : State :=
  let s := if (s.line n).voice.play = .none then s else s.finishPlay n .switched .cut switchedCode
  let s := s.onCall n fun c => { c with service := (s.line n).seq.switchTo }
  let s := s.onSeq n fun q => { q with step := .host, adaptive := false }
  s.beginTraining n .answerer

/-- The Line Controller is told that its grant has settled (R25, R50, R56). -/
def State.grantSettled (s : State) (n : LineId) (volt : Bool) : State :=
  match (s.line n).call.state with
  | .queued => s.offHookAttempt n volt
  | .answering => s.beginTraining n .answerer
  | .connected => if (s.line n).seq.step = .switchWait then s.adaptiveSwitch n else s
  | _ => s

/-- The claim returns to the head of its class after a failed settle check (R63), its wait timer kept or started (R62), and is
granted another FREE pump at once; with a limit of 0 s and no FREE pump it expires (log 19). -/
def State.requeue (s : State) (n : LineId) : State :=
  match (s.line n).claim with
  | none => s
  | some c =>
    let w := if c.wait.isRunning then c.wait else .running ((s.line n).profile.pumpWait c.cls * 1000)
    let s := { s with queue := s.queue.enqueueHead n c.cls }.onLine n fun l => { l with claim := some { c with wait := w } }
    if s.lowestFree.isSome then s.arbitrate else if w = .running 0 then s.expireClaim n else s

/-- The settle check of a pump with its result (R63). -/
def State.settleChecked (s : State) (p : PumpId) (pass volt : Bool) : State :=
  match (s.pump p).line with
  | some n =>
    if pass then
      let s := s.onPump p fun _ => Pump.inState .attached (some n)
      let s := s.onLine n fun l => { l with claim := none, call := { l.call with pump := some p } }
      s.grantSettled n volt
    else ((s.onPump p fun _ => Pump.inState .out none).raiseEngine .pumpOut).requeue n
  | none =>
    if pass then (s.onPump p fun _ => Pump.inState .free none).arbitrate
    else (s.onPump p fun _ => Pump.inState .out none).raiseEngine .pumpOut

/-- The end of start-up (R179): when the reset settles are done the engine enters RUNNING and STARTED is raised. -/
def State.startUp (s : State) : State :=
  if s.port.engineRunning = false ∧ allPumps.all (fun p => decide ((s.pump p).state ≠ .settling)) then
    { s with port := { s.port with engineRunning := true } }.raiseEngine .started
  else s

/-- PUMP_SETTLE_COMPLETE (R63, R179). -/
def State.settleComplete (s : State) (p : PumpId) (pass volt : Bool) : State :=
  if (s.pump p).state = .settling then (s.settleChecked p pass volt).startUp else s

/-- PUMP_SETTLE_COMPLETE (R63) -/
def execPumpSettleComplete (p : PumpId) (pass volt : Bool) (s : State) : Host.Outcome State Fault Refusal :=
  done s (s.settleComplete p pass volt)

/-- CLAIM_WAIT_EXPIRY (R62). -/
def State.claimWaitExpiry (s : State) (n : LineId) : State :=
  match (s.line n).claim with
  | some c => if c.wait.isRunning then s.expireClaim n else s
  | none => s

/-- CLAIM_WAIT_EXPIRY (R62) -/
def execClaimWaitExpiry (n : LineId) (s : State) : Host.Outcome State Fault Refusal := done s (s.claimWaitExpiry n)

/-- PUMP_SELF_FAULT (R66). -/
def State.selfFault (s : State) (p : PumpId) : State :=
  if (s.pump p).state = .attached then
    match (s.pump p).line with
    | some n =>
      (((s.onPump p fun _ => Pump.inState .out none).raiseEngine .pumpOut).onCall n fun c => { c with pump := none }).fault n
        .pumpLost
    | none => s
  else s

/-- PUMP_SELF_FAULT (R66) -/
def execPumpSelfFault (p : PumpId) (s : State) : Host.Outcome State Fault Refusal := done s (s.selfFault p)

end Sys2Proof.Machine
end

