-- ==== Sys2Proof/Machine/LinkReceive.lean ====
section
/-! DEFINITION. The checked link: SEND, link open, acknowledgement, rejects, holds, receiving and closing (06 R95 to R113). -/

namespace Sys2Proof.Machine

/-- The answer fields of a SEND that returns no block (R189, 12.6): first block returned reads 65535; a chain refused gives its
position at 0x08. -/
def sendRefused (position : Nat) : List Byte := wordBytes position ++ wordBytes 65535

/-- SEND (R99). -/
def State.sendOrder (s : State) (n : LineId) (i : Nat) (c : Card) : State :=
  let l := s.line n
  if l.connectedAs .data ∧ l.link.state = .up then
    if 6 ≤ l.link.sendList.length then s.answer (.line n) i .refusedFull 0 (sendRefused 0)
    else
      match s.store.validate .plain 64 (c.word 8) with
      | .error e => s.answer (.line n) i .badChain e.test.code (sendRefused e.position)
      | .ok ch =>
        ((s.giveBlocks (ch.map Prod.fst) (.send n)).onLink n fun k =>
          { k with sendList := k.sendList ++ [⟨i, ch, 0, 0⟩] }).linkKick n
  else s.answer (.line n) i .refusedState l.call.state.code (sendRefused 0)

/-- SEND (R99) -/
def execSend (n : LineId) (card : Fin 8) (s : State) : Host.Outcome State Fault Refusal :=
  takeOrder s (.line n) card.val (· == 6) fun s c => s.sendOrder n card.val c

/-- LINK_OPEN_REPEAT (R95): every 500 ms while OPENING. -/
def State.linkOpenRepeat (s : State) (n : LineId) : State :=
  if (s.line n).link.state = .opening ∧ (s.line n).link.repeatTimer.isRunning then
    (s.onLink n fun l => { l with repeatTimer := .running 500 }).sendReply n (s.ownLinkOpen n)
  else s

/-- LINK_OPEN_REPEAT (R95) -/
def execLinkOpenRepeat (n : LineId) (s : State) : Host.Outcome State Fault Refusal := done s (s.linkOpenRepeat n)

/-- LINK_OPEN_EXPIRY (R95): the training has failed. -/
def execLinkOpenExpiry (n : LineId) (s : State) : Host.Outcome State Fault Refusal :=
  done s (if (s.line n).link.state = .opening ∧ (s.line n).link.openTimer.isRunning then s.fault n .trainFailed else s)

/-- The link comes up at the far end's LINK-OPEN (R95). -/
def State.linkUp (s : State) (n : LineId) (w len : Nat) : State :=
  let s := s.onLink n fun l => { l with openTimer := .stopped, repeatTimer := .stopped }
  let s := s.sendReply n (s.ownLinkOpen n)
  let s := s.onLink n fun l =>
    { l with
      window := min (s.line n).profile.linkWindow w, infoLength := min (s.line n).profile.maxInfo len, state := .up
      nextSend := 0, expected := 0, frameErrors := 0, sendWindow := [], sendList := [] }
  s.connect n .data

/-! ## Acknowledgement -/

/-- How many frames of the Send Window a number acknowledges; none where it is not acceptable (R101). -/
def Link.acknowledged (l : Link) (k : BitVec 7) : Option Nat :=
  let oldest := (l.sendWindow.head?.map SentFrame.number).getD l.nextSend
  if (k - oldest).toNat ≤ l.sendWindow.length then some (k - oldest).toNat else none

/-- The bytes of a chain among some acknowledged frames. -/
def ackedIn (fs : List SentFrame) (card : Nat) : Nat := ((fs.filter fun f => f.card == card).map SentFrame.len).sum

/-- A chain with the bytes of some frames acknowledged (R101). -/
def SendChain.ack (c : SendChain) (fs : List SentFrame) : SendChain := { c with acked := c.acked + ackedIn fs c.card }

/-- The blocks of a chain that become fully acknowledged (R101). -/
def SendChain.freed (c : SendChain) (fs : List SentFrame) : List Nat :=
  (ackedBlocks c.chain (c.ack fs).acked).drop (ackedBlocks c.chain c.acked).length

/-- A chain whose bytes are all acknowledged answers its SEND card DONE (R101, 12.6). -/
def State.answerSent (s : State) (n : LineId) (c : SendChain) : State :=
  s.answer (.line n) c.card .done 0 (wordBytes c.acked ++ wordBytes 65535 ++ wordBytes 0 ++ wordBytes 0)

/-- The acknowledgement of the first `d` frames of the Send Window (R101). -/
def State.ackFrames (s : State) (n : LineId) (d : Nat) : State :=
  let l := (s.line n).link
  let fs := l.sendWindow.take d
  let after := l.sendList.map fun c => c.ack fs
  let s := s.onLink n fun k =>
    { k with
      sendWindow := k.sendWindow.drop d
      resends := k.resends.filter fun x => (k.sendWindow.drop d).any fun f => f.number == x
      sendList := after.filter fun c => decide (c.acked < c.chain.bytes) }
  let s := s.freeBlocks (l.sendList.flatMap fun c => c.freed fs)
  (after.filter fun c => decide (c.chain.bytes ≤ c.acked)).foldl (fun s c => s.answerSent n c) s

/-- The reply timer's full time (R103). -/
def Profile.replyLimit (p : Profile) : Timer := .running (p.replyTime * 100)

/-- The hold ends (R104). -/
def Link.release (l : Link) : Link := { l with held := false, holdTimer := .stopped }

/-- A RECEIPT in link state UP (R101). -/
def State.receipt (s : State) (n : LineId) (k : BitVec 7) : State :=
  match (s.line n).link.acknowledged k with
  | none => s
  | some d =>
    let moved := decide (0 < d) || (s.line n).link.held
    let s := (s.ackFrames n d).onLink n Link.release
    (s.onLink n fun l =>
      { l with
        replyTimer :=
          if l.sendWindow = [] then .stopped else if moved then (s.line n).profile.replyLimit else l.replyTimer }).linkKick n

/-- Every frame of the Send Window is sent again, the oldest's tries one more, the reply timer from its full time (R102, R103). -/
def State.resendWindow (s : State) (n : LineId) : State :=
  (s.onLink n fun l =>
    { l with
      sendWindow :=
        match l.sendWindow with
        | [] => []
        | f :: rest => { f with tries := f.tries + 1 } :: rest
      resends := l.sendWindow.map SentFrame.number
      replyTimer := (s.line n).profile.replyLimit }).linkKick n

/-- The Send Window sent again, or LINK_EXHAUSTED where the oldest frame's tries equal the try limit (R102, R103). -/
def State.resendOrExhaust (s : State) (n : LineId) : State :=
  match (s.line n).link.sendWindow with
  | [] => (s.onLink n fun l => { l with replyTimer := .stopped }).linkKick n
  | f :: _ => if f.tries < (s.line n).profile.tryLimit then s.resendWindow n else s.fault n .linkExhausted

/-- A REJECT in link state UP (R102). -/
def State.reject (s : State) (n : LineId) (k : BitVec 7) : State :=
  match (s.line n).link.acknowledged k with
  | none => s
  | some d =>
    ((s.ackFrames n d).onLink n fun l =>
      { l.release with counters := { l.counters with rejects := l.counters.rejects + 1 } }).resendOrExhaust n

/-- A HOLD in link state UP (R104). -/
def State.holdReceived (s : State) (n : LineId) (k : BitVec 7) : State :=
  match (s.line n).link.acknowledged k with
  | none => s
  | some d =>
    (s.ackFrames n d).onLink n fun l =>
      { l with
        held := true
        replyTimer := .stopped
        holdTimer := if l.held then l.holdTimer else .running 60000 }

/-- REPLY_TIMER_EXPIRY (R103). Exhausted, the link is torn down in this step, with no time between the report and the teardown (log 37). -/
def State.replyExpiry (s : State) (n : LineId) : State :=
  if (s.line n).link.replyTimer.isRunning ∧ (s.line n).link.sendWindow ≠ [] then s.resendOrExhaust n else s

/-- REPLY_TIMER_EXPIRY (R103) -/
def execReplyTimerExpiry (n : LineId) (s : State) : Host.Outcome State Fault Refusal := done s (s.replyExpiry n)

/-- HOLD_TIMER_EXPIRY (R104). The teardown is in this step, so a RECEIPT taken after it finds the link CLOSED and is discarded, where R104
says that it only acknowledges: the model's reading (log 37). -/
def execHoldTimerExpiry (n : LineId) (s : State) : Host.Outcome State Fault Refusal :=
  done s (if (s.line n).link.held ∧ (s.line n).link.holdTimer.isRunning then s.fault n .linkExhausted else s)

/-! ## Receiving -/

/-- The line has room (R108). -/
def State.hasRoom (s : State) (n : LineId) : Bool :=
  decide (s.heldBlocks n < (s.line n).profile.receiveLimit) && decide ((s.line n).delivered.length < 16) &&
  decide (0 < s.store.freeCount)

/-- An INFO frame discarded for want of room, or while receive-critical: HOLD(V), and POOL_DRY where the Free Count is 0 (R108). The
HOLD is counted as sent when it falls due, also where the pump is busy then: R108 does not say when, and this is the model's choice
(log 18). -/
def State.discardFrame (s : State) (n : LineId) : State :=
  let s := s.onLink n fun l => { l with counters := { l.counters with holds := l.counters.holds + 1 } }
  let s := if s.store.freeCount = 0 then s.raise n .poolDry else s
  s.sendReply n (.hold (s.line n).link.expected)

/-- An INFO frame taken (R106). -/
def State.takeInfo (s : State) (n : LineId) (data : List Byte) : State :=
  let s := (s.storeData n data).onLink n fun l =>
    { l with
      expected := l.expected + 1
      rejectSent := false
      counters := { l.counters with received := l.counters.received + 1 }
      idleTimer := .running (s.line n).profile.deliveryIdle }
  s.sendReply n (.receipt (s.line n).link.expected)

/-- An INFO frame in link state UP (R106 to R108). -/
def State.infoReceived (s : State) (n : LineId) (k : BitVec 7) (data : List Byte) : State :=
  let l := (s.line n).link
  if l.critical then s.discardFrame n
  else if k = l.expected then
    if s.hasRoom n then s.takeInfo n data
    else ((s.onLink n fun l => { l with critical := true }).raise n .critical).discardFrame n
  else if 1 ≤ (l.expected - k).toNat ∧ (l.expected - k).toNat ≤ l.window then s.sendReply n (.receipt l.expected)
  else if l.rejectSent then s
  else (s.onLink n fun l => { l with rejectSent := true }).sendReply n (.reject l.expected)

/-- What the idle expiry and the far end's LINK-CLOSE do: the RECV block delivered, the open entry closed (R111, R113). -/
def State.flush (s : State) (n : LineId) : State :=
  ((s.onLink n fun l => { l with idleTimer := .stopped }).deliverData n).closeData n

/-- DELIVERY_IDLE_EXPIRY (R111) -/
def execDeliveryIdleExpiry (n : LineId) (s : State) : Host.Outcome State Fault Refusal :=
  done s (if (s.line n).link.idleTimer.isRunning then s.flush n else s)

/-- A LINK-CLOSE in link state UP (R113). -/
def State.farClose (s : State) (n : LineId) : State :=
  (s.onLink n fun l =>
    { l with
      state := .farClosed
      replyTimer := .stopped
      holdTimer := .stopped
      resends := []
      replies := l.replies.filter fun f => match f with | .linkOpen _ _ => true | _ => false }).flush n

/-- A good frame by the link state (R95, R96). -/
def State.frameReceived (s : State) (n : LineId) (f : LinkFrame) : State :=
  match (s.line n).link.state, f with
  | .opening, .linkOpen w len => s.linkUp n w len
  | .up, .linkOpen _ _ => s.sendReply n (s.ownLinkOpen n)
  | .farClosed, .linkOpen _ _ => s.sendReply n (s.ownLinkOpen n)
  | .up, .info k data => s.infoReceived n k data
  | .up, .receipt k => s.receipt n k
  | .up, .reject k => s.reject n k
  | .up, .hold k => s.holdReceived n k
  | .up, .linkClose => s.farClose n
  | _, _ => s

/-- A bad frame (R98): counted, and no reply; what F becomes past 65535 is a free value (log 13). -/
def State.frameBad (s : State) (n : LineId) : State :=
  (s.onLink n fun l =>
    { l with frameErrors := s.bump n 6 l.frameErrors, counters := { l.counters with bad := l.counters.bad + 1 } }).draw

/-- The good frame of a run where the line stands: an INFO frame longer than L is not good while the link is UP (R98). -/
def Link.goodFrame (l : Link) (run : List Byte) : Option LinkFrame :=
  match Wire.receive run with
  | some (.info k data) => if l.state = .up ∧ l.infoLength < data.length then none else some (.info k data)
  | r => r

/-- A run of bytes between two flags reaches the Link Framer (R96 to R98). Nothing between two flags is a gap; a run that finds
the pump not carrying or the link not active is discarded (log 15). -/
def State.runReceived (s : State) (n : LineId) (run : List Byte) : State :=
  if run = [] ∨ s.carrying n = false ∨ (s.line n).link.state.active = false then s
  else
    match (s.line n).link.goodFrame run with
    | none => s.frameBad n
    | some f => s.frameReceived n f

/-- LINK_OPEN_FRAME (R95, R96) -/
def execLinkOpenFrame (n : LineId) (run : List Byte) (s : State) : Host.Outcome State Fault Refusal := done s (s.runReceived n run)

/-- INFO_FRAME (R106 to R108) -/
def execInfoFrame (n : LineId) (run : List Byte) (s : State) : Host.Outcome State Fault Refusal := done s (s.runReceived n run)

/-- RECEIPT_FRAME (R101) -/
def execReceiptFrame (n : LineId) (run : List Byte) (s : State) : Host.Outcome State Fault Refusal := done s (s.runReceived n run)

/-- REJECT_FRAME (R102) -/
def execRejectFrame (n : LineId) (run : List Byte) (s : State) : Host.Outcome State Fault Refusal := done s (s.runReceived n run)

/-- HOLD_FRAME (R104) -/
def execHoldFrame (n : LineId) (run : List Byte) (s : State) : Host.Outcome State Fault Refusal := done s (s.runReceived n run)

/-- LINK_CLOSE_FRAME (R113) -/
def execLinkCloseFrame (n : LineId) (run : List Byte) (s : State) : Host.Outcome State Fault Refusal := done s (s.runReceived n run)

/-- BAD_FRAME (R98) -/
def execBadFrame (n : LineId) (run : List Byte) (s : State) : Host.Outcome State Fault Refusal := done s (s.runReceived n run)

/-- FRAME_SENT (R100): the pump has sent its frame and begins the next one due. -/
def State.frameSent (s : State) (n : LineId) : State :=
  if s.carrying n then (s.onLink n fun l => { l with sending := none }).linkKick n else s

/-- FRAME_SENT (R100) -/
def execFrameSent (n : LineId) (s : State) : Host.Outcome State Fault Refusal := done s (s.frameSent n)

end Sys2Proof.Machine
end

