-- ==== Sys2Proof/Machine/Fax.lean ====
section
/-! DEFINITION. Fax sessions: Offer, Choice, check, pages in and out, verdicts and release (07 R115 to R130). -/

namespace Sys2Proof.Machine

/-! ## Frames and waits -/

/-- The line is in a connected fax call whose pump carries (R115). -/
def State.faxLive (s : State) (n : LineId) : Bool := (s.line n).connectedAs .fax && s.carrying n

/-- The line plays a side of a live session. -/
def State.faxAs (s : State) (n : LineId) (r : FaxRole) : Bool := s.faxLive n && decide ((s.line n).fax.role = r)

/-- A control frame sent. -/
def State.sendFax (s : State) (n : LineId) (f : FaxFrame) : State := s.emit (.faxFrame n f)

/-- The reply timer of 3 s (R117). -/
def faxReply : Timer := .running 3000

/-- A wait of R117 entered in a phase with a standing frame or none: the timer from 3 s, expiries at 0. -/
def State.faxWait (s : State) (n : LineId) (p : FaxPhase) (f : Option FaxFrame) : State :=
  s.onFax n fun x => { x with phase := p, standing := f, expiries := 0, replyTimer := faxReply }

/-- A new standing frame sent in a phase (R117). -/
def State.faxStand (s : State) (n : LineId) (p : FaxPhase) (f : FaxFrame) : State := (s.faxWait n p (some f)).sendFax n f

/-- The Grade Unit is told the rung of a check and asked for a seed (R91). -/
def State.faxRung (s : State) (n : LineId) (r : Nat) : State :=
  let old := (s.line n).grade.rung
  let s := s.onGrade n fun g => { g with rung := r, seedPending := true }
  if old = 0 ∨ old = r then s else s.raise n .rate

/-- The Choice of a sender from its chosen fields (R120). -/
def Fax.asChoice (f : Fax) : Choice := ⟨f.rung, f.fine, f.rowTime, f.width⟩

/-- The check pattern at a rung (R73): 450 · r bytes of value 0x00. -/
def checkPatternBytes (r : Nat) : List Byte := List.replicate (450 * r) 0x00

/-- The Choice and its check pattern sent (R120): the timer stops while the pattern is sent (R117). -/
def State.sendCheck (s : State) (n : LineId) : State :=
  let c := (s.line n).fax.asChoice
  ((s.sendFax n (.choice c)).onFax n fun f =>
    { f with phase := .check, work := .patternOut c.rung, replyTimer := .stopped }).emit
    (.checkPattern n c.rung (checkPatternBytes c.rung))

/-- The sender begins a check at a rung: steps 1 to 3 of R120. -/
def State.beginCheck (s : State) (n : LineId) (r : Nat) : State :=
  ((s.faxRung n r).onFax n fun f =>
    { f with rung := r, phase := .choice, standing := none, expiries := 0, replyTimer := .stopped }).sendCheck n

/-- One rung lower, not below rung 1 (R128). -/
def rungBelow (r : Nat) : Nat := max 1 (r - 1)

/-- The sender releases: a RELEASE frame goes to the pump (R116, R128). -/
def State.beginRelease (s : State) (n : LineId) : State :=
  (s.onFax n fun f =>
    { f with phase := .release, standing := none, replyTimer := .stopped, work := .releaseOut }).sendFax n .release

/-- The standing frame of a wait sent again (R117): a Choice with its check pattern. A pump that has reported carrier loss sends
nothing more (R72). -/
def State.repeatStanding (s : State) (n : LineId) : State :=
  if s.carrying n then
    match (s.line n).fax.standing with
    | none => s
    | some (.choice _) => s.sendCheck n
    | some f => s.sendFax n f
  else s

/-- An expiry of the present wait (R117): counted, or the wait has failed. -/
def State.faxExpiry (s : State) (n : LineId) : State :=
  let f := (s.line n).fax
  if f.expiries < 3 then
    (s.onFax n fun f => { f with expiries := f.expiries + 1, replyTimer := faxReply }).repeatStanding n
  else if f.role = .receiver ∧ f.phase = .release then s.clearDecision n .localCleared
  else s.faxFailed n .noReply

/-- FAX_REPLY_EXPIRY (R117) -/
def execFaxReplyExpiry (n : LineId) (s : State) : Host.Outcome State Fault Refusal :=
  done s (if (s.line n).fax.role ≠ .none ∧ (s.line n).fax.replyTimer.isRunning then s.faxExpiry n else s)

/-! ## Offer and session start -/

/-- The fields of an Offer brought into their ranges (R119). -/
def offerClamped (o : Offer) : Offer := ⟨clampNat 1 6 o.maxRung, o.fine, raiseRowTime o.rowTime, min 2 o.width⟩

/-- The sender takes an Offer (R119). -/
def State.takeOffer (s : State) (n : LineId) (o : Offer) : State :=
  let p := (s.line n).profile
  let c := offerClamped o
  (s.onFax n fun f =>
    { f with
      phase := .choice, offerHeld := none, rung := min c.maxRung p.faxMaxRung, fine := c.fine && p.fineResolution
      rowTime := c.rowTime, width := min c.width p.widthClass, checkAttempts := 0 }).beginCheck n
    (min c.maxRung p.faxMaxRung)

/-- The Offer of a receiver (R118). -/
def Profile.offer (p : Profile) : Offer := ⟨p.faxMaxRung, p.fineResolution, p.minRowTime, p.widthClass⟩

/-- The session begins on the side of the call's direction (R116). R116 names no phase for a sender whose Page List is empty while its
RELEASE is sent: RELEASE is the model's choice (log 20). -/
def State.beginSession (s : State) (n : LineId) : State :=
  match (s.line n).call.direction with
  | .answer => (s.onFax n fun f => { f with role := .receiver }).faxStand n .offer (.offer (s.line n).profile.offer)
  | .originate =>
    let s := s.onFax n fun f => { f with role := .sender }
    if (s.line n).fax.pages = [] then s.beginRelease n
    else
      match (s.line n).fax.offerHeld with
      | some o => s.takeOffer n o
      | none => s.faxWait n .offer none

/-- FAX_TRAINING_SUCCESS (R68, R91, R116). -/
def State.faxTraining (s : State) (n : LineId) (sig err : Word) : State :=
  if (s.line n).call.state = .training ∧ (s.line n).call.service = .fax ∧ s.pumpAt n .training then
    let s := s.onGrade n fun g => g.seed (margin sig err)
    let s := s.onHeldPump n fun q => q.work .carrying .stopped
    (s.connect n .fax).beginSession n
  else s

/-- FAX_TRAINING_SUCCESS (R68) -/
def execFaxTrainingSuccess (n : LineId) (sig err : Word) (s : State) : Host.Outcome State Fault Refusal :=
  done s (s.faxTraining n sig err)

/-- OFFER_FRAME (R37, R119): heard in PROGRESS it takes the line to TRAINING and is held; a sender in OFFER takes it. -/
def State.offerReceived (s : State) (n : LineId) (o : Offer) : State :=
  let l := s.line n
  if l.call.state = .progress ∧ l.call.service = .fax ∧ (s.heldPump n).isSome then
    (s.onFax n fun f => { f with offerHeld := some o }).beginTraining n .originator
  else if s.faxAs n .sender ∧ l.fax.phase = .offer then s.takeOffer n o
  else s

/-- OFFER_FRAME (R119) -/
def execOfferFrame (n : LineId) (offer : Offer) (s : State) : Host.Outcome State Fault Refusal :=
  done s (s.offerReceived n offer)

/-! ## The check, receiving side -/

/-- The wait that a Choice interrupts (R121); a Choice during a check leaves the wait before that check. -/
def Fax.interrupted (f : Fax) : Option FaxWait := f.waitBefore.or (some ⟨f.phase, f.standing, f.expiries⟩)

/-- A Choice taken by the receiver (R121). -/
def State.takeChoice (s : State) (n : LineId) (c : Choice) : State :=
  if (s.line n).profile.faxMaxRung < c.rung then
    (s.onFax n fun f => { f with work := .none, carrierTimer := .stopped, waitBefore := none }).faxStand n .check .notReady
  else
    (s.onFax n fun f =>
      { f with
        rung := c.rung, fine := c.fine, rowTime := c.rowTime, width := c.width
        waitBefore := f.interrupted
        phase := .check, standing := none, replyTimer := .stopped, work := .patternIn c.rung
        carrierTimer := faxReply }).faxRung n c.rung

/-- CHOICE_FRAME (R121): in any phase but NONE and RELEASE. -/
def State.choiceReceived (s : State) (n : LineId) (c : Choice) : State :=
  if s.faxAs n .receiver ∧ (s.line n).fax.phase ≠ .none ∧ (s.line n).fax.phase ≠ .release then s.takeChoice n c else s

/-- CHOICE_FRAME (R121) -/
def execChoiceFrame (n : LineId) (choice : Choice) (s : State) : Host.Outcome State Fault Refusal :=
  done s (s.choiceReceived n choice)

/-- The check-pass test (R92). -/
def checkPasses (errored r g : Nat) : Bool := decide (errored * 100 ≤ 450 * r) && decide (threshold r ≤ g)

/-- C, the errored bytes of a check pattern at rung `r` (R73): the bytes received at its 450 · r positions with a value other than
0x00, and the positions at which none was received. -/
def erroredBytes (r : Nat) (received : List Byte) : Nat :=
  ((received.take (450 * r)).filter fun b => b != 0x00).length + (450 * r - received.length)

/-- CHECK_PATTERN_RESULT (R73, R121). -/
def State.patternJudged (s : State) (n : LineId) (received : List Byte) : State :=
  if s.faxAs n .receiver then
    match (s.line n).fax.work with
    | .patternIn r =>
      let s := s.onFax n fun f => { f with work := .none, carrierTimer := .stopped, waitBefore := none }
      if checkPasses (erroredBytes r received) r (s.line n).grade.value then s.faxStand n .page .ready else s.faxStand n .check .notReady
    | _ => s
  else s

/-- CHECK_PATTERN_RESULT (R73) -/
def execCheckPatternResult (n : LineId) (received : List Byte) (s : State) : Host.Outcome State Fault Refusal :=
  done s (s.patternJudged n received)

/-- CHECK_CARRIER_WAIT_EXPIRY (R121): the check has not taken place, and the wait before it has one expiry more. Where the Choice came
while a page was being received there was no wait, and R121 does not say what follows: the receiver then waits in PAGE with no
standing frame and one expiry counted, the model's choice (log 20). -/
def State.noPattern (s : State) (n : LineId) : State :=
  if (s.line n).fax.carrierTimer.isRunning then
    match (s.line n).fax.waitBefore with
    | none => s
    | some w =>
      (s.onFax n fun f =>
        { f with
          work := .none, carrierTimer := .stopped, waitBefore := none
          phase := w.phase, standing := w.standing, expiries := w.expiries }).faxExpiry n
  else s

/-- CHECK_CARRIER_WAIT_EXPIRY (R121) -/
def execCheckCarrierWaitExpiry (n : LineId) (s : State) : Host.Outcome State Fault Refusal := done s (s.noPattern n)

/-! ## Sending pages -/

/-- The row records of a block from position `p` (R124): the rows, and whether the block is cut short. At most `fuel` records fit. -/
def Store.rowsFrom (st : Store) (b fill : Nat) : Nat → Nat → List (List Byte) × Bool
  | 0, _ => ([], false)
  | fuel + 1, p =>
    if p = fill then ([], false)
    else if fill < p + 2 then ([], true)
    else
      let len := (st.payload b p).toNat + 256 * (st.payload b (p + 1)).toNat
      if len = 0 ∨ fill < p + 2 + len then ([], true)
      else
        let r := st.rowsFrom b fill fuel (p + 2 + len)
        ((List.range len).map (fun i => st.payload b (p + 2 + i)) :: r.1, r.2)

/-- The rows of a block and whether it is cut short (R124). -/
def Store.blockRows (st : Store) (x : Nat × Nat) : List (List Byte) × Bool := st.rowsFrom x.1 x.2 (x.2 + 1) 0

/-- The rows of a page (R124). -/
def Store.pageRows (st : Store) (c : Chain) : List (List Byte) := c.flatMap fun x => (st.blockRows x).1

/-- The blocks of a page that are cut short (R124). -/
def Store.pageCuts (st : Store) (c : Chain) : Nat := (c.filter fun x => (st.blockRows x).2).length

/-- The least bytes of a row at a rung and a row time: m = ceil(3 · r · t / 10) (R124). -/
def leastBytes (r t : Nat) : Nat := (3 * r * t + 9) / 10

/-- The head page sent at the chosen rung, each row with its fill (R124). -/
def State.sendPage (s : State) (n : LineId) : State :=
  match (s.line n).fax.pages with
  | [] => s.beginRelease n
  | p :: _ =>
    let f := (s.line n).fax
    (s.onFax n fun f => { f with phase := .page, standing := none, replyTimer := .stopped, work := .pageOut }).emit
      (.pageRows n f.rung ((s.store.pageRows p.chain).map fun row => (row, leastBytes f.rung f.rowTime - row.length)))

/-- CHECK_PATTERN_SENT (R73, R120 step 4). -/
def State.patternSent (s : State) (n : LineId) : State :=
  if s.faxAs n .sender then
    match (s.line n).fax.work with
    | .patternOut _ =>
      s.onFax n fun f => { f with work := .none, standing := some (.choice f.asChoice), replyTimer := faxReply }
    | _ => s
  else s

/-- CHECK_PATTERN_SENT (R73) -/
def execCheckPatternSent (n : LineId) (s : State) : Host.Outcome State Fault Refusal := done s (s.patternSent n)

/-- The sender waits for the reply of a check (R117, R120). -/
def State.awaitsReady (s : State) (n : LineId) : Bool :=
  s.faxAs n .sender && decide ((s.line n).fax.phase = .check) && (s.line n).fax.standing.isSome

/-- READY_FRAME (R120). -/
def State.ready (s : State) (n : LineId) : State :=
  if s.awaitsReady n then (s.onFax n fun f => { f with checkAttempts := 0 }).sendPage n else s

/-- READY_FRAME (R120) -/
def execReadyFrame (n : LineId) (s : State) : Host.Outcome State Fault Refusal := done s (s.ready n)

/-- NOT_READY_FRAME (R120). -/
def State.notReady (s : State) (n : LineId) : State :=
  if s.awaitsReady n then
    let f := (s.line n).fax
    if f.checkAttempts = 0 then (s.onFax n fun f => { f with checkAttempts := 1 }).beginCheck n f.rung
    else if 1 < f.rung then (s.onFax n fun f => { f with checkAttempts := 0 }).beginCheck n (f.rung - 1)
    else s.faxFailed n .training
  else s

/-- NOT_READY_FRAME (R120) -/
def execNotReadyFrame (n : LineId) (s : State) : Host.Outcome State Fault Refusal := done s (s.notReady n)

/-- The order of a page changed. -/
def State.onFaxOrder (s : State) (n : LineId) (card : Nat) (f : FaxOrder → FaxOrder) : State :=
  s.onFax n fun x => { x with orders := x.orders.map fun o => if o.card = card then f o else o }

/-- The head page counted as sent (R124, R129): blocks cut short, and its first resend. A page counts as resent where it is sent again
after a BAD, resend pending being yes; whether one that a redial alone sends again counts too, R129 leaves open, and that it does not is
the model's choice (log 20). -/
def State.countPage (s : State) (n : LineId) (p : Page) : State :=
  let again := (s.line n).fax.resendPending && !p.resent
  let s := s.onFaxOrder n p.card fun o =>
    { o with cutShort := o.cutShort + s.store.pageCuts p.chain, resent := if again then o.resent + 1 else o.resent }
  (s.onFax n fun f =>
    { f with
      pageCount := s.bump n 0 f.pageCount
      pages := if again then { p with resent := true } :: f.pages.tail else f.pages }).draw

/-- MORE or LAST after the head page (R123). -/
def Fax.lastNow (f : Fax) : Bool :=
  match f.pages with
  | [] => true
  | [_] => true
  | p :: _ => p.lastOfDocument

/-- PAGE_SENT (R123, R124). -/
def State.pageSent (s : State) (n : LineId) : State :=
  if s.faxAs n .sender ∧ (s.line n).fax.work = .pageOut then
    match (s.line n).fax.pages with
    | [] => s
    | p :: _ =>
      let last := (s.line n).fax.lastNow
      let s := (s.countPage n p).onFax n fun f => { f with work := .none, sentLast := last }
      s.faxStand n .post (if last then .last else .more)
  else s

/-- PAGE_SENT (R124) -/
def execPageSent (n : LineId) (s : State) : Host.Outcome State Fault Refusal := done s (s.pageSent n)

/-! ## After the verdict -/

/-- A FAX PAGES order with no page left in the Page List is answered DONE (R129). -/
def State.answerPagesDone (s : State) (n : LineId) (card : Nat) : State :=
  if (s.line n).fax.pages.any fun p => p.card == card then s
  else
    match (s.line n).fax.orders.find? fun o => o.card == card with
    | none => s
    | some o =>
      (s.answerPages n .done 0 o).onFax n fun f => { f with orders := f.orders.filter fun o => o.card != card }

/-- The head page takes its final verdict: its blocks are freed in chain order, it leaves the Page List, and its order is answered
where it was the last (R128, R129). -/
def State.finalVerdict (s : State) (n : LineId) (v : Verdict) : State :=
  match (s.line n).fax.pages with
  | [] => s
  | p :: rest =>
    let s := s.onFaxOrder n p.card fun o => { o with verdicts := o.verdicts.set p.index v }
    let s := (s.onFax n fun f => { f with pages := rest, resendPending := false }).freeBlocks (p.chain.map Prod.fst)
    s.answerPagesDone n p.card

/-- The sender goes on when the head page has left the Page List (R128). -/
def State.afterVerdict (s : State) (n : LineId) : State :=
  let f := (s.line n).fax
  if f.sentLast then s.beginRelease n
  else if f.retrainPending then (s.onFax n fun f => { f with retrainPending := false }).beginCheck n (rungBelow f.rung)
  else s.sendPage n

/-- The verdict a frame carries. -/
def verdictOf : SentVerdict → Verdict
  | .good => .good
  | .goodRetrain => .goodRetrain
  | .bad => .bad

/-- The cases of R128. -/
def State.actOnVerdict (s : State) (n : LineId) (v : SentVerdict) : State :=
  match v with
  | .good => (s.finalVerdict n .good).afterVerdict n
  | .goodRetrain =>
    ((s.finalVerdict n .goodRetrain).onFax n fun f => { f with retrainPending := true }).afterVerdict n
  | .bad =>
    if (s.line n).fax.resendPending then
      ((s.finalVerdict n .bad).onFax n fun f => { f with retrainPending := true }).afterVerdict n
    else (s.onFax n fun f => { f with resendPending := true }).beginCheck n (rungBelow (s.line n).fax.rung)

/-- VERDICT_FRAME (R128): the sender in POST takes the verdict on its head page. -/
def State.verdictReceived (s : State) (n : LineId) (v : SentVerdict) (rows badRows : Nat) : State :=
  if s.faxAs n .sender ∧ (s.line n).fax.phase = .post then
    (((s.onFax n fun f =>
      { f with
        lastVerdict := verdictOf v, lastRows := rows, lastBadRows := badRows, standing := none
        replyTimer := .stopped }).raise n .page).actOnVerdict n v)
  else s

/-- VERDICT_FRAME (R128) -/
def execVerdictFrame (n : LineId) (verdict : SentVerdict) (rows badRows : Nat) (s : State) :
    Host.Outcome State Fault Refusal :=
  done s (s.verdictReceived n verdict rows badRows)

/-- FAX_RELEASE_SENT (R116, R128): the frame has gone. -/
def State.releaseSent (s : State) (n : LineId) : State :=
  if s.faxAs n .sender ∧ (s.line n).fax.work = .releaseOut then s.clearDecision n .localCleared else s

/-- FAX_RELEASE_SENT (R128) -/
def execFaxReleaseSent (n : LineId) (s : State) : Host.Outcome State Fault Refusal := done s (s.releaseSent n)

/-- RELEASE_FRAME (R127, R130): a receiver in POST or RELEASE. -/
def State.releaseReceived (s : State) (n : LineId) : State :=
  if s.faxAs n .receiver ∧ ((s.line n).fax.phase = .post ∨ (s.line n).fax.phase = .release) then
    s.clearDecision n .localCleared
  else s

/-- RELEASE_FRAME (R130) -/
def execReleaseFrame (n : LineId) (s : State) : Host.Outcome State Fault Refusal := done s (s.releaseReceived n)

/-! ## Receiving pages -/

/-- The counts of a page that begins (R125). -/
def OpenPage.empty : OpenPage := ⟨0, 0, 0, 0, false⟩

/-- A page begins: the page count rises and the open page's counts are 0 (R125). -/
def State.openPage (s : State) (n : LineId) : State :=
  (s.onFax n fun f => { f with pageCount := s.bump n 0 f.pageCount, page := some .empty, judged := none }).draw

/-- The receiver waits for a page carrier (R117, R125). -/
def Fax.awaitsPage (f : Fax) : Bool :=
  (decide (f.phase = .page) && decide (f.work ≠ .pageIn)) || (decide (f.phase = .post) && f.judged.isSome)

/-- PAGE_CARRIER_START (R125). -/
def State.pageStart (s : State) (n : LineId) : State :=
  if s.faxAs n .receiver ∧ (s.line n).fax.awaitsPage then
    (s.openPage n).onFax n fun f =>
      { f with phase := .page, standing := none, expiries := 0, replyTimer := .stopped, work := .pageIn }
  else s

/-- PAGE_CARRIER_START (R125) -/
def execPageCarrierStart (n : LineId) (s : State) : Host.Outcome State Fault Refusal := done s (s.pageStart n)

/-- The row record of a row (R125, 12.5): a DAMAGED row's length word has 32768 more. -/
def rowRecord (damaged : Bool) (row : List Byte) : List Byte :=
  wordBytes (row.length + if damaged then 32768 else 0) ++ row

/-- The page being received was discarded (R126). -/
def Fax.pageGone (f : Fax) : Bool := (f.page.map OpenPage.discarded).getD false

/-- The RECV block delivered where it has no room for a record of `k` bytes (R125). -/
def State.rowRoom (s : State) (n : LineId) (k : Nat) : State :=
  match (s.line n).recvBlock with
  | some b => if s.store.fill b + k ≤ 1016 then s else s.deliverPage n
  | none => s

/-- A record stored in the RECV block, which is first delivered where it has no room, and popped where there is none (R125).
The second component says that the row was lost for want of a block. -/
def State.storeRow (s : State) (n : LineId) (r : List Byte) : State × Bool :=
  if (s.line n).fax.pageGone then (s, false)
  else
    let s := s.rowRoom n r.length
    if (s.line n).fax.pageGone then (s, false)
    else
      match (match (s.line n).recvBlock with | some _ => some s | none => s.popRecv n .page .rows) with
      | none => (s.raise n .poolDry, true)
      | some s =>
        match (s.line n).recvBlock with
        | some b => (s.onStore fun st => st.append b r, false)
        | none => (s, false)

/-- A row counted (R125). -/
def State.countRow (s : State) (n : LineId) (damaged : Bool) : State :=
  (s.onFax n fun f =>
    { f with
      page := f.page.map fun p =>
        { p with
          rows := s.bump n 2 p.rows
          badRows := if damaged then s.bump n 3 p.badRows else p.badRows
          run := if damaged then p.run + 1 else 0
          longest := if damaged then max p.longest (p.run + 1) else p.longest } }).draw

/-- PAGE_ROW (R125). -/
def State.rowReceived (s : State) (n : LineId) (damaged : Bool) (row : List Byte) : State :=
  if s.faxAs n .receiver ∧ (s.line n).fax.work = .pageIn then
    let bad := damaged || decide (1014 < row.length)
    let a := s.storeRow n (rowRecord bad (row.take 1014))
    a.1.countRow n (bad || a.2)
  else s

/-- PAGE_ROW (R125) -/
def execPageRow (n : LineId) (damaged : Bool) (row : List Byte) (s : State) : Host.Outcome State Fault Refusal :=
  done s (s.rowReceived n damaged row)

/-- PAGE_CARRIER_CEASE (R125): the page ends. -/
def State.pageEnd (s : State) (n : LineId) : State :=
  if s.faxAs n .receiver ∧ (s.line n).fax.work = .pageIn then
    (s.onFax n fun f => { f with work := .none }).faxWait n .post none
  else s

/-- PAGE_CARRIER_CEASE (R125) -/
def execPageCarrierCease (n : LineId) (s : State) : Host.Outcome State Fault Refusal := done s (s.pageEnd n)

/-- The verdict on a page (R127). -/
def OpenPage.judge (p : OpenPage) (badRowLimit runLimit rung g up : Nat) : SentVerdict :=
  if p.discarded ∨ p.rows = 0 then .bad
  else if badRowLimit * p.rows < p.badRows * 100 ∨ runLimit < p.longest then .bad
  else if g < threshold rung + up then .goodRetrain
  else .good

/-- The open page judged on MORE or LAST (R127). -/
def State.judgePage (s : State) (n : LineId) (last : Bool) : State :=
  let s := s.deliverPage n
  let l := s.line n
  let p := l.fax.page.getD .empty
  let v := p.judge l.profile.badRowLimit l.profile.runLimit l.fax.rung l.grade.value l.profile.upMargin
  let s := s.closePage n (verdictOf v) p.rows p.badRows
  let s := s.onFax n fun f =>
    { f with
      page := none, judged := some last, lastVerdict := verdictOf v, lastRows := p.rows, lastBadRows := p.badRows }
  (s.raise n .page).faxStand n (if last ∧ v ≠ .bad then .release else .post) (.verdict v p.rows p.badRows)

/-- MORE or LAST received (R117, R125, R127). -/
def State.pageFrame (s : State) (n : LineId) (last : Bool) : State :=
  if s.faxAs n .receiver then
    let f := (s.line n).fax
    if f.phase = .post ∧ f.judged = none then s.judgePage n last
    else if f.phase = .page ∧ f.work ≠ .pageIn then (s.openPage n).judgePage n last
    else if (f.phase = .post ∨ f.phase = .release) ∧ f.judged = some last then s.repeatStanding n
    else s
  else s

/-- MORE_FRAME (R127) -/
def execMoreFrame (n : LineId) (s : State) : Host.Outcome State Fault Refusal := done s (s.pageFrame n false)

/-- LAST_FRAME (R127) -/
def execLastFrame (n : LineId) (s : State) : Host.Outcome State Fault Refusal := done s (s.pageFrame n true)

/-! ## FAX PAGES -/

/-- The states in which FAX PAGES is accepted (R122). -/
def Line.takesPages (l : Line) : Bool :=
  match l.call.state with
  | .idle => true
  | .queued | .seized | .dialling | .progress | .training | .connected =>
    decide (l.call.direction = .originate) && decide (l.call.service = .fax)
  | _ => false

/-- The first blocks a FAX PAGES card names. -/
def Card.pageFirsts (c : Card) : List Nat := (List.range (c.byte 6)).map fun i => c.word (8 + 2 * i)

/-- The pages of an accepted order (R122). -/
def newPages (card : Nat) (chains : List Chain) (lastOfDocument : Bool) : List Page :=
  (chains.zipIdx).map fun x => ⟨card, x.2, x.1, lastOfDocument && x.2 + 1 == chains.length, false⟩

/-- FAX PAGES (R122). A last-of-document byte other than 0 and 1, which 12.7 gives no meaning, is read as yes, the model's choice
(log 32). -/
def State.faxPagesOrder (s : State) (n : LineId) (i : Nat) (c : Card) : State :=
  let l := s.line n
  if l.takesPages then
    if c.byte 6 = 0 ∨ 8 < c.byte 6 then s.answer (.line n) i .badField 6 []
    else if 16 < l.fax.pages.length + c.byte 6 then s.answer (.line n) i .refusedFull 0 []
    else
      match s.store.validatePages [] 0 c.pageFirsts with
      | .error e => s.answer (.line n) i .badChain e.2.test.code (wordBytes e.2.position ++ wordBytes e.1)
      | .ok chains =>
        (s.giveBlocks (chains.flatMap fun ch => ch.map Prod.fst) (.send n)).onFax n fun f =>
          { f with
            pages := f.pages ++ newPages i chains (c.byte 7 != 0)
            orders := f.orders ++ [⟨i, List.replicate (c.byte 6) .none, 0, 0⟩] }
  else s.refuseState n i

/-- FAX_PAGES (R122) -/
def execFaxPages (n : LineId) (card : Fin 8) (s : State) : Host.Outcome State Fault Refusal :=
  takeOrder s (.line n) card.val (· == 7) fun s c => s.faxPagesOrder n card.val c

end Sys2Proof.Machine
end

