-- ==== Sys2Proof/Machine/Engine.lean ====
section
/-! DEFINITION. Engine orders of the store and the clock, order codes not known to a table, the Clock and the host pulse monitor (09
R164; 10 R172, R174, R175; 11 R187, R188). -/

namespace Sys2Proof.Machine

/-! ## Orders -/

/-- The count a TAKE BLOCKS card asks for (R164). -/
def askedBlocks (n : Nat) : Nat := clampNat 1 12 n

/-- Blocks popped for the host one at a time, at most `k`, in the order popped (R164). -/
def State.popHost (s : State) : Nat → List Nat × State
  | 0 => ([], s)
  | k + 1 =>
    match s.pop .host with
    | none => ([], s)
    | some (b, s) =>
      let r := s.popHost k
      (b :: r.1, r.2)

/-- TAKE BLOCKS (R164): no further than the Reserve. That n is the one byte at 0x06 is the model's choice (log 38). -/
def State.takeBlocksOrder (s : State) (i : Nat) (c : Card) : State :=
  let r := s.popHost (min (askedBlocks (c.byte 6)) (s.store.freeCount - s.reserve))
  r.2.answerWith .engine i .done 0 r.1.length ((r.1 ++ List.replicate 12 65535).take 12 |>.flatMap wordBytes)

/-- TAKE_BLOCKS (R164) -/
def execTakeBlocks (card : Fin 4) (s : State) : Host.Outcome State Fault Refusal :=
  takeOrder s .engine card.val (· == 33) fun s c => s.takeBlocksOrder card.val c

/-- SET CLOCK (R175). -/
def State.setClockOrder (s : State) (i : Nat) (c : Card) : State :=
  (s.onHdr fun h => { h with dayClock := BitVec.ofNat 32 (c.long 8), dayTicks := 0 }).answer .engine i .done 0
    (longBytes s.hdr.dayClock.toNat)

/-- SET_CLOCK (R175) -/
def execSetClock (card : Fin 4) (s : State) : Host.Outcome State Fault Refusal :=
  takeOrder s .engine card.val (· == 38) fun s c => s.setClockOrder card.val c

/-- The order codes of a table (R174, 12.6). -/
def knownOrder : TableId → Nat → Bool
  | .line _ => isLineOrder
  | .engine => isEngineOrder

/-- An order code that is not one of the table's orders (R174). -/
def State.unknownOrder (s : State) (t : TableId) (i : Nat) : State := s.answer t i .unknown 0 []

/-- UNKNOWN_ORDER (R174) -/
def execUnknownOrder (table : TableId) (card : Fin 8) (s : State) : Host.Outcome State Fault Refusal :=
  takeOrder s table card.val (fun c => !knownOrder table c) fun s _ => s.unknownOrder table card.val

/-! ## The Clock -/

/-- A sweep requested (R172): started, held while one runs, or discarded while the engine is STARTING. -/
def State.requestSweep (s : State) : State :=
  if s.port.engineRunning then
    { s with sweep := if s.sweep.running then { s.sweep with held := true } else { s.sweep with running := true } }
  else s

/-- The period in seconds that a Pulse Period word gives, none for 0 (R187). -/
def periodOf (w : Word) : Option Nat :=
  if w.toNat = 0 then none
  else if w.toNat ≤ 2 then some w.toNat
  else if w.toNat ≤ 5 then some 5
  else some 10

/-- The monitor's read of Pulse Period at a tick while it is not running (R187). -/
def State.monitorTick (s : State) : State :=
  match s.monitor.period, periodOf s.hdr.pulsePeriod with
  | none, some p => { s with monitor := { s.monitor with period := some p, sample := s.hdr.hostPulse, unchanged := 0 } }
  | _, _ => s

/-- The Tick and the Day Clock after one tick (R175). -/
def Header.tickOnce (h : Header) : Header :=
  { h with
    tick := h.tick + 1
    dayTicks := if 99 ≤ h.dayTicks then 0 else h.dayTicks + 1
    dayClock := if 99 ≤ h.dayTicks then h.dayClock + 1 else h.dayClock }

/-- TICK (R172, R175, R187): from the end of engine reset on. -/
def State.tickOnce (s : State) : State :=
  if s.port.engineRunning then ((s.onHdr Header.tickOnce).monitorTick).requestSweep else s

/-- TICK (R175) -/
def execTick (s : State) : Host.Outcome State Fault Refusal := done s s.tickOnce

/-! ## The host pulse monitor -/

/-- What a line does at a silence declared in mode RELEASE, by its state at that moment (R184, R188). -/
def State.silence (s : State) (n : LineId) : State :=
  match (s.line n).call.state with
  | .holdoff => ((s.abandonRetry n .hostSilent).enter n .idle .stopped).onCall n fun c => { c with lastOutcome := .hostSilent }
  | .clearing => s.abandonRetry n .hostSilent
  | .queued => s.clearDecision n .hostSilent
  | st => if st.offHook then s.clearDecision n .hostSilent else s

/-- Silence declared (R188); the lines act in the order given, any not named after them (log 21). -/
def State.declareSilence (s : State) (order : List LineId) : State :=
  let s := { s with monitor := { s.monitor with silent := true } }.raiseEngine .hostSilent
  if s.hdr.pulseMode = 1 then
    (order ++ allLines.filter fun n => decide (n ∉ order)).foldl State.silence
      { s with monitor := { s.monitor with suspended := true } }
  else s

/-- The silent flag cleared where it is set, and the suspension with it (R187). -/
def State.hostBack (s : State) : State :=
  if s.monitor.silent then { s with monitor := { s.monitor with silent := false, suspended := false } }.raiseEngine .hostBack
  else s

/-- The comparison of a period end (R187). -/
def State.comparePulse (s : State) (order : List LineId) : State :=
  if s.hdr.hostPulse ≠ s.monitor.sample then { s with monitor := { s.monitor with unchanged := 0 } }.hostBack
  else
    let s := { s with monitor := { s.monitor with unchanged := min 3 (s.monitor.unchanged + 1) } }
    if s.monitor.unchanged = 3 ∧ s.monitor.silent = false then s.declareSilence order else s

/-- The end of a pulse period (R187): the comparison, the new sample, the next period or the stop. -/
def State.pulseEnd (s : State) (order : List LineId) : State :=
  match s.monitor.period with
  | none => s
  | some _ =>
    let s := s.comparePulse order
    let s := { s with monitor := { s.monitor with sample := s.hdr.hostPulse, period := periodOf s.hdr.pulsePeriod } }
    if s.monitor.period = none then s.hostBack else s

/-- PULSE_PERIOD_END (R187) -/
def execPulsePeriodEnd (order : List LineId) (s : State) : Host.Outcome State Fault Refusal := done s (s.pulseEnd order)

end Sys2Proof.Machine
end

