-- ==== Sys2Proof/Machine/Port.lean ====
section
/-! DEFINITION. The port: register writes and reads, the window, and engine reset (10 R167 to R169, R172, R179). -/

namespace Sys2Proof.Machine

/-- The port changed. -/
def State.onPort (s : State) (f : Port → Port) : State := { s with port := f s.port }

/-- The store bytes that an engine reset does not change: host scratch and blocks (R179). -/
def keptBytes (m : List Host.Cell) : List Host.Cell := m.filter fun c => decide (0x1D00 ≤ c.1)

/-- Engine reset with the strap as sampled (R179, steps 1 to 3; step 4 begins: every pump settles). -/
def State.engineReset (s : State) (strap : StoreSize) : State :=
  (State.resetWith strap (keptBytes s.store.mem) s.outputs s.draws s.pending).onPort fun p =>
    { p with readData := s.port.readData }

/-- ENGINE_RESET (R179) -/
def execEngineReset (strap : StoreSize) (s : State) : Host.Outcome State Fault Refusal := .next (s.engineReset strap)

/-- CTRL_RESET (R179): the rest of the write is not used. -/
def execCtrlReset (_value : Word) (strap : StoreSize) (s : State) : Host.Outcome State Fault Refusal :=
  .next (s.engineReset strap)

/-- CTRL_ENABLE_WRITE (R167): IEA is bit 1 and IEB bit 2 (12.2). -/
def execCtrlEnableWrite (value : Word) (s : State) : Host.Outcome State Fault Refusal :=
  done s (s.onPort fun p => { p with ieA := value.getLsbD 1, ieB := value.getLsbD 2 })

/-- WINA_WRITE (R167, R168) -/
def execWinaWrite (value : Word) (s : State) : Host.Outcome State Fault Refusal :=
  done s (s.onPort fun p => { p with winA := value.setWidth 8 })

/-- WINB_WRITE (R167, R168) -/
def execWinbWrite (value : Word) (s : State) : Host.Outcome State Fault Refusal :=
  done s (s.onPort fun p => { p with winB := value.setWidth 8 })

/-- ATTN_WRITE (R167, R172): whatever the value. -/
def execAttnWrite (_value : Word) (s : State) : Host.Outcome State Fault Refusal := done s s.requestSweep

/-- STAT_READ (R167): the word is given and the GUARD flag cleared. -/
def execStatRead (s : State) : Host.Outcome State Fault Refusal :=
  done s (s.onPort fun p => { p with readData := s.stat, guardFlag := false })

/-- STAT_WRITE (R167): ignored. -/
def execStatWrite (_value : Word) (s : State) : Host.Outcome State Fault Refusal := done s s

/-- HOST_STORE_WRITE (R168, R169): an access at an odd offset, which no access has, stops (log 12). -/
def execHostStoreWrite (offset : BitVec 12) (value : Word) (s : State) : Host.Outcome State Fault Refusal :=
  if offset.getLsbD 0 then .fault .oddOffset else done s (s.hostWord (s.windowAddr offset) value)

/-- HOST_STORE_READ (R168) -/
def execHostStoreRead (offset : BitVec 12) (s : State) : Host.Outcome State Fault Refusal :=
  if offset.getLsbD 0 then .fault .oddOffset
  else done s (s.onPort fun p => { p with readData := s.wordAt (s.windowAddr offset) })

end Sys2Proof.Machine
end

