-- ==== Sys2Proof/Machine/Sweep.lean ====
section
/-! DEFINITION. The Order Sweeper: the tables, the acknowledge words and the return sweep of one sweep (09 R162; 10 R172, R173, R177).
Each card taken, each acknowledge word and each block visited is one event with bracketed updates of its own, and a host write may come
between any two of them. -/

namespace Sys2Proof.Machine

/-- A line order handed to its owner by its code (R174, 12.6). -/
def State.lineOrder (s : State) (n : LineId) (volt : Bool) (i : Nat) (c : Card) : State :=
  match c.byte 4 with
  | 1 => s.enableOrder n i
  | 2 => s.disableOrder n i
  | 3 => s.dialOrder n i c volt
  | 4 => s.answerOrder n i c volt
  | 5 => s.hangupOrder n i
  | 6 => s.sendOrder n i c
  | 7 => s.faxPagesOrder n i c
  | 8 => s.playOrder n i c
  | 9 => s.recordOrder n i c
  | 10 => s.stopOrder n i
  | 11 => s.takeDigitsOrder n i
  | 12 => s.clearFaultOrder n i
  | 13 => s.clearRetryCountOrder n i
  | _ => s.unknownOrder (.line n) i

/-- An engine order handed to its owner by its code (R174, 12.6). -/
def State.engineOrder (s : State) (i : Nat) (c : Card) : State :=
  match c.byte 4 with
  | 33 => s.takeBlocksOrder i c
  | 34 => s.loadGreetingOrder i c
  | 35 => s.unloadGreetingOrder i c
  | 36 => s.collectOrder i c
  | 37 => s.discardOrder i c
  | 38 => s.setClockOrder i c
  | 39 => s.clearLineOrder i c
  | _ => s.unknownOrder .engine i

/-- An order handed to its owner. -/
def State.carryOut (s : State) (volts : Volts) (t : TableId) (i : Nat) (c : Card) : State :=
  match t with
  | .line n => s.lineOrder n (volts.at n) i c
  | .engine => s.engineOrder i c

/-- The sweep comes to the next order of a table (R173, R174): the first of those that wait is carried out, and where none waits the next
card of the list is taken and its order carried out, or the card, found FREE, is passed by; the list is made where it was not. -/
def State.takeNext (s : State) (volts : Volts) (t : TableId) : State :=
  match (s.table t).due with
  | none => s.onTable t OrderTable.pass
  | some i =>
    if (s.table t).comesTo i then s.commit ((s.taking t i).carryOut volts t i (s.card t i))
    else s.onTable t fun tb => if tb.waiting = [] then tb.pass else tb.handOver

/-- The acknowledge word of a table's record processed, once in a sweep (R172, R177). -/
def State.ackOnce (s : State) (t : TableId) : State :=
  if t ∈ s.sweep.acked then s
  else
    let s' := match t with
      | .line n => s.onLine n fun l => { l with ev := l.ev.acknowledge }
      | .engine => s.onHdr fun h => { h with ev := h.ev.acknowledge }
    s.commit { s' with sweep := { s'.sweep with acked := t :: s'.sweep.acked } }

/-- A map entry rewritten from the internal owner and counted as a repair (R162). -/
def State.repairEntry (s : State) (b : Nat) (o : Owner) : State :=
  ((s.onStore fun st => { st with mem := Memory.setWord st.mem (mapAddr b) o.word }).onHdr fun h =>
    { h with mapRepairCount := h.mapRepairCount + 1 }).raiseEngine .mapRepair

/-- A block of a Delivered List returned (R162, R166). -/
def State.returnDelivered (s : State) (b : Nat) (n : LineId) : State :=
  ((s.freeBlock b).onLine n fun l =>
    { l with delivered := l.delivered.map fun e => { e with outstanding := e.outstanding.filter (· != b) } }).removeEntries n

/-- What the return sweep does about an entry that does not read as the internal owner (R162). -/
def State.judgeEntry (s : State) (b : Nat) (o : Owner) : State :=
  if Memory.word s.store.mem (mapAddr b) % 256 = 255 then
    match o with
    | .host => s.freeBlock b
    | .deliv n => s.returnDelivered b n
    | o => s.repairEntry b o
  else s.repairEntry b o

/-- The return sweep's visit to the map entry of a block (R162). -/
def State.visitBlock (s : State) (b : Nat) : State :=
  match s.store.owners[b]? with
  | none => s
  | some o => if Memory.word s.store.mem (mapAddr b) = o.word then s else s.commit (s.judgeEntry b o)

/-- The return sweep's visit to the next map entry, where one is left, so that a host write may come before or after it (R162, R163). -/
def State.visitNext (s : State) : State :=
  if s.sweep.visited < s.store.blockCount then
    let t := s.visitBlock s.sweep.visited
    { t with sweep := { t.sweep with visited := s.sweep.visited + 1 } }
  else s

/-- What is left of the return sweep, once in a sweep, with the exit tests after it (R109, R162). -/
def State.returnsOnce (s : State) : State :=
  if s.sweep.returned then s
  else
    let s := ((List.range s.store.blockCount).drop s.sweep.visited).foldl State.visitBlock s
    s.commit ({ s with sweep := { s.sweep with visited := s.store.blockCount, returned := true } }.criticalExits)

/-- One piece of a sweep (R172). -/
def State.sweepUnit (volts : Volts) (s : State) : SweepUnit → State
  | .hand t i => s.onTable t fun tb => tb.readHand i.val
  | .number t i => s.onTable t fun tb => tb.readNumber i.val
  | .list t => s.onTable t OrderTable.make
  | .take t => s.onTable t OrderTable.takeStep
  | .card t => s.takeNext volts t
  | .ack t => s.ackOnce t
  | .visit => s.visitNext
  | .returns => s.returnsOnce

/-- The five tables. -/
def allTables : List TableId := [.line 0, .line 1, .line 2, .line 3, .engine]

/-- Everything of a sweep that the plan may leave: the orders of every table (eight at most), the acknowledge words, the returns. -/
def fullPlan : List SweepUnit :=
  (allTables.flatMap fun t => List.replicate 8 (.card t)) ++ allTables.map .ack ++ [.returns]

/-- A table at the end of a sweep: the list is forgotten. -/
def OrderTable.sweepEnd (t : OrderTable) : OrderTable := { t with listed := .reading [] }

/-- The end of a sweep (R172): the Sweep Count rises, and a held request starts the next. -/
def State.endSweep (s : State) : State :=
  let s' := allTables.foldl (fun s t => s.onTable t OrderTable.sweepEnd) s
  let s' := s'.onHdr fun h => { h with sweepCount := h.sweepCount + 1 }
  s.commit { s' with sweep := ⟨s'.sweep.held, false, [], 0, false⟩ }

/-- Pieces of a sweep passed in turn. -/
def State.sweepUnits (s : State) (volts : Volts) (units : List SweepUnit) : State := units.foldl (State.sweepUnit volts) s

/-- SWEEP (R172): the running sweep passes the units of the plan and, where the plan ends it, what is left. -/
def State.sweepOnce (s : State) (volts : Volts) (plan : SweepPlan) : State :=
  if s.port.engineRunning ∧ s.sweep.running then
    if plan.ends then (s.sweepUnits volts (plan.units ++ fullPlan)).endSweep else s.sweepUnits volts plan.units
  else s

/-- SWEEP (R172) -/
def execSweep (volts : Volts) (plan : SweepPlan) (s : State) : Host.Outcome State Fault Refusal := .next (s.sweepOnce volts plan)

end Sys2Proof.Machine
end

