-- ==== Sys2Proof/Machine/Dispatch.lean ====
section
/-! DEFINITION. What each command does to everything but the queue: one arm per constructor of Instr. -/

namespace Sys2Proof.Machine

def exec (i : Instr) (s : State) : Host.Outcome State Fault Refusal :=
  match i with
  | .engineReset strap => Sys2Proof.Machine.execEngineReset strap s
  | .ctrlReset value strap => Sys2Proof.Machine.execCtrlReset value strap s
  | .ctrlEnableWrite value => Sys2Proof.Machine.execCtrlEnableWrite value s
  | .winaWrite value => Sys2Proof.Machine.execWinaWrite value s
  | .winbWrite value => Sys2Proof.Machine.execWinbWrite value s
  | .attnWrite value => Sys2Proof.Machine.execAttnWrite value s
  | .statRead => Sys2Proof.Machine.execStatRead s
  | .statWrite value => Sys2Proof.Machine.execStatWrite value s
  | .hostStoreWrite offset value => Sys2Proof.Machine.execHostStoreWrite offset value s
  | .hostStoreRead offset => Sys2Proof.Machine.execHostStoreRead offset s
  | .tick => Sys2Proof.Machine.execTick s
  | .sweep volts plan => Sys2Proof.Machine.execSweep volts plan s
  | .unknownOrder table card => Sys2Proof.Machine.execUnknownOrder table card s
  | .enable n card => Sys2Proof.Machine.execEnable n card s
  | .disable n card => Sys2Proof.Machine.execDisable n card s
  | .dial n card volt => Sys2Proof.Machine.execDial n card volt s
  | .answer n card volt => Sys2Proof.Machine.execAnswer n card volt s
  | .hangup n card => Sys2Proof.Machine.execHangup n card s
  | .send n card => Sys2Proof.Machine.execSend n card s
  | .faxPages n card => Sys2Proof.Machine.execFaxPages n card s
  | .play n card => Sys2Proof.Machine.execPlay n card s
  | .record n card => Sys2Proof.Machine.execRecord n card s
  | .stop n card => Sys2Proof.Machine.execStop n card s
  | .takeDigits n card => Sys2Proof.Machine.execTakeDigits n card s
  | .clearFault n card => Sys2Proof.Machine.execClearFault n card s
  | .clearRetryCount n card => Sys2Proof.Machine.execClearRetryCount n card s
  | .takeBlocks card => Sys2Proof.Machine.execTakeBlocks card s
  | .loadGreeting card => Sys2Proof.Machine.execLoadGreeting card s
  | .unloadGreeting card => Sys2Proof.Machine.execUnloadGreeting card s
  | .collectMessage card => Sys2Proof.Machine.execCollectMessage card s
  | .discardMessage card => Sys2Proof.Machine.execDiscardMessage card s
  | .setClock card => Sys2Proof.Machine.execSetClock card s
  | .clearLine card => Sys2Proof.Machine.execClearLine card s
  | .ringVoltageOnset n => Sys2Proof.Machine.execRingVoltageOnset n s
  | .ringCounted n volt => Sys2Proof.Machine.execRingCounted n volt s
  | .ringGapExpiry n => Sys2Proof.Machine.execRingGapExpiry n s
  | .callerBurstEnd n rest => Sys2Proof.Machine.execCallerBurstEnd n rest s
  | .loopCurrentFall n => Sys2Proof.Machine.execLoopCurrentFall n s
  | .loopCurrentReturn n => Sys2Proof.Machine.execLoopCurrentReturn n s
  | .loopDropExpiry n => Sys2Proof.Machine.execLoopDropExpiry n s
  | .guardTimeExpiry n => Sys2Proof.Machine.execGuardTimeExpiry n s
  | .declinedRingGapExpiry n => Sys2Proof.Machine.execDeclinedRingGapExpiry n s
  | .retryDelayExpiry n volt => Sys2Proof.Machine.execRetryDelayExpiry n volt s
  | .dialToneWaitExpiry n => Sys2Proof.Machine.execDialToneWaitExpiry n s
  | .progressToneOnset n offMs => Sys2Proof.Machine.execProgressToneOnset n offMs s
  | .progressToneCease n onMs => Sys2Proof.Machine.execProgressToneCease n onMs s
  | .dialToneAccepted n => Sys2Proof.Machine.execDialToneAccepted n s
  | .wWaitExpiry n => Sys2Proof.Machine.execWWaitExpiry n s
  | .toneOnEnd n => Sys2Proof.Machine.execToneOnEnd n s
  | .toneGapEnd n => Sys2Proof.Machine.execToneGapEnd n s
  | .pulseBreakEnd n => Sys2Proof.Machine.execPulseBreakEnd n s
  | .pulseMakeEnd n => Sys2Proof.Machine.execPulseMakeEnd n s
  | .interdigitPauseEnd n => Sys2Proof.Machine.execInterdigitPauseEnd n s
  | .pauseEnd n => Sys2Proof.Machine.execPauseEnd n s
  | .flashEnd n => Sys2Proof.Machine.execFlashEnd n s
  | .answerWaitExpiry n => Sys2Proof.Machine.execAnswerWaitExpiry n s
  | .answerToneOnset n => Sys2Proof.Machine.execAnswerToneOnset n s
  | .answerToneCease n => Sys2Proof.Machine.execAnswerToneCease n s
  | .answerToneAccepted n => Sys2Proof.Machine.execAnswerToneAccepted n s
  | .voicePathOpen n => Sys2Proof.Machine.execVoicePathOpen n s
  | .voiceFrameEnd n samples => Sys2Proof.Machine.execVoiceFrameEnd n samples s
  | .voiceSettleExpiry n => Sys2Proof.Machine.execVoiceSettleExpiry n s
  | .adaptiveListenExpiry n => Sys2Proof.Machine.execAdaptiveListenExpiry n s
  | .faxCallingToneOnset n => Sys2Proof.Machine.execFaxCallingToneOnset n s
  | .faxCallingToneCease n ms => Sys2Proof.Machine.execFaxCallingToneCease n ms s
  | .dataCallingToneOnset n => Sys2Proof.Machine.execDataCallingToneOnset n s
  | .dataCallingToneCease n => Sys2Proof.Machine.execDataCallingToneCease n s
  | .dataCallingToneAccepted n => Sys2Proof.Machine.execDataCallingToneAccepted n s
  | .dtmfDigit n digit => Sys2Proof.Machine.execDtmfDigit n digit s
  | .encodeSample n x => Sys2Proof.Machine.execEncodeSample n x s
  | .decodeSample n => Sys2Proof.Machine.execDecodeSample n s
  | .pumpSettleComplete p pass volt => Sys2Proof.Machine.execPumpSettleComplete p pass volt s
  | .claimWaitExpiry n => Sys2Proof.Machine.execClaimWaitExpiry n s
  | .pumpSelfFault p => Sys2Proof.Machine.execPumpSelfFault p s
  | .dataTrainingSuccess n farMax sig err => Sys2Proof.Machine.execDataTrainingSuccess n farMax sig err s
  | .faxTrainingSuccess n sig err => Sys2Proof.Machine.execFaxTrainingSuccess n sig err s
  | .trainingServiceMismatch n => Sys2Proof.Machine.execTrainingServiceMismatch n s
  | .trainingTimerExpiry n => Sys2Proof.Machine.execTrainingTimerExpiry n s
  | .gradingWindow n sig err => Sys2Proof.Machine.execGradingWindow n sig err s
  | .shiftDone n => Sys2Proof.Machine.execShiftDone n s
  | .shiftFailed n => Sys2Proof.Machine.execShiftFailed n s
  | .shiftAnswerExpiry n => Sys2Proof.Machine.execShiftAnswerExpiry n s
  | .farRetrain n => Sys2Proof.Machine.execFarRetrain n s
  | .retrainCompletion a farMax sig err => Sys2Proof.Machine.execRetrainCompletion a farMax sig err s
  | .retrainAttemptExpiry a => Sys2Proof.Machine.execRetrainAttemptExpiry a s
  | .retrainServiceMismatch a => Sys2Proof.Machine.execRetrainServiceMismatch a s
  | .carrierCease n => Sys2Proof.Machine.execCarrierCease n s
  | .carrierReturn n => Sys2Proof.Machine.execCarrierReturn n s
  | .carrierLossExpiry n => Sys2Proof.Machine.execCarrierLossExpiry n s
  | .linkOpenRepeat n => Sys2Proof.Machine.execLinkOpenRepeat n s
  | .linkOpenExpiry n => Sys2Proof.Machine.execLinkOpenExpiry n s
  | .linkOpenFrame n run => Sys2Proof.Machine.execLinkOpenFrame n run s
  | .infoFrame n run => Sys2Proof.Machine.execInfoFrame n run s
  | .receiptFrame n run => Sys2Proof.Machine.execReceiptFrame n run s
  | .rejectFrame n run => Sys2Proof.Machine.execRejectFrame n run s
  | .holdFrame n run => Sys2Proof.Machine.execHoldFrame n run s
  | .linkCloseFrame n run => Sys2Proof.Machine.execLinkCloseFrame n run s
  | .badFrame n run => Sys2Proof.Machine.execBadFrame n run s
  | .frameSent n => Sys2Proof.Machine.execFrameSent n s
  | .replyTimerExpiry n => Sys2Proof.Machine.execReplyTimerExpiry n s
  | .holdTimerExpiry n => Sys2Proof.Machine.execHoldTimerExpiry n s
  | .deliveryIdleExpiry n => Sys2Proof.Machine.execDeliveryIdleExpiry n s
  | .offerFrame n offer => Sys2Proof.Machine.execOfferFrame n offer s
  | .choiceFrame n choice => Sys2Proof.Machine.execChoiceFrame n choice s
  | .checkPatternSent n => Sys2Proof.Machine.execCheckPatternSent n s
  | .checkPatternResult n received => Sys2Proof.Machine.execCheckPatternResult n received s
  | .checkCarrierWaitExpiry n => Sys2Proof.Machine.execCheckCarrierWaitExpiry n s
  | .readyFrame n => Sys2Proof.Machine.execReadyFrame n s
  | .notReadyFrame n => Sys2Proof.Machine.execNotReadyFrame n s
  | .pageSent n => Sys2Proof.Machine.execPageSent n s
  | .pageCarrierStart n => Sys2Proof.Machine.execPageCarrierStart n s
  | .pageRow n damaged row => Sys2Proof.Machine.execPageRow n damaged row s
  | .pageCarrierCease n => Sys2Proof.Machine.execPageCarrierCease n s
  | .moreFrame n => Sys2Proof.Machine.execMoreFrame n s
  | .lastFrame n => Sys2Proof.Machine.execLastFrame n s
  | .verdictFrame n verdict rows badRows => Sys2Proof.Machine.execVerdictFrame n verdict rows badRows s
  | .faxReleaseSent n => Sys2Proof.Machine.execFaxReleaseSent n s
  | .releaseFrame n => Sys2Proof.Machine.execReleaseFrame n s
  | .faxReplyExpiry n => Sys2Proof.Machine.execFaxReplyExpiry n s
  | .pulsePeriodEnd order => Sys2Proof.Machine.execPulsePeriodEnd order s
  | .callerBurstStart n first => Sys2Proof.Machine.execCallerBurstStart n first s

end Sys2Proof.Machine
end

