-- ==== Sys2Proof/Machine/Step.lean ====
section
/-! DEFINITION. One step: the command at the front of the queue (log 1). -/

namespace Sys2Proof.Machine

/-- The state without its front command. -/
def State.withQueue (s : State) (q : List Instr) : State := { s with pending := q }

/-- One step: the front command of the queue is done with the rest of the queue behind it; an empty queue idles. -/
def step (s : State) : Host.Outcome State Fault Refusal :=
  match s.pending with
  | [] => .next s
  | c :: rest => exec c (s.withQueue rest)

/-- The command that a word spells put at the front of the queue, the state unchanged where it spells none. -/
def State.withFetchWord (s : State) (nbits w : Nat) : State :=
  match decodeTableWord nbits w with
  | none => s
  | some c => s.withQueue (c :: s.pending)

end Sys2Proof.Machine
end

