-- ==== Sys2Proof/WellFormed.lean ====
section
/-! DEFINITION. Which commands have operands that the port, the line or the store can have. -/

namespace Sys2Proof

/-- The digits a keypad sends: 0 to 9, *, #, A to D, as character codes (08 R150). -/
def isKeypadDigit (d : Byte) : Bool :=
  (0x30 ≤ d.toNat && d.toNat ≤ 0x39) || d == 0x2A || d == 0x23 || (0x41 ≤ d.toNat && d.toNat ≤ 0x44)

/-- A run of bytes between two flags holds no flag byte, and is not a gap (06 R97). -/
def isRun (r : List Byte) : Bool := !r.isEmpty && !r.contains Machine.Wire.flag

/-- The kind of good frame a run carries, by the row's name. -/
def runCarries (r : List Byte) (test : Machine.LinkFrame → Bool) : Bool :=
  isRun r && (match Machine.Wire.receive r with | some f => test f | none => false)

/-- An attempt's number is 1 to 7, since no retrain limit is above 7 (05 R87, 12 R190). -/
def RetrainAttempt.fits (a : RetrainAttempt) : Bool := decide (1 ≤ a.number ∧ a.number ≤ 7)

/-- The operands of a command are ones that the hardware can meet. -/
def Instr.wellFormed : Instr → Bool
  | .ctrlReset v _ => v.getLsbD 0
  | .ctrlEnableWrite v => !v.getLsbD 0
  | .hostStoreWrite o _ => !o.getLsbD 0
  | .hostStoreRead o => !o.getLsbD 0
  | .unknownOrder (.line _) _ => true
  | .unknownOrder .engine c => decide (c.val < 4)
  | .voiceFrameEnd _ xs => decide (xs.length ≤ 80)
  | .dtmfDigit _ d => isKeypadDigit d
  | .linkOpenFrame _ r => runCarries r fun f => match f with | .linkOpen _ _ => true | _ => false
  | .infoFrame _ r => runCarries r fun f => match f with | .info _ _ => true | _ => false
  | .receiptFrame _ r => runCarries r fun f => match f with | .receipt _ => true | _ => false
  | .rejectFrame _ r => runCarries r fun f => match f with | .reject _ => true | _ => false
  | .holdFrame _ r => runCarries r fun f => match f with | .hold _ => true | _ => false
  | .linkCloseFrame _ r => runCarries r fun f => match f with | .linkClose => true | _ => false
  | .badFrame _ r => isRun r && (match Machine.Wire.receive r with
      | none => true
      | some (.info _ _) => true
      | some _ => false)
  | .choiceFrame _ c => decide (1 ≤ c.rung ∧ c.rung ≤ 6) && [0, 5, 10, 20, 40].contains c.rowTime && decide (c.width ≤ 2)
  | .checkPatternResult _ bytes => decide (bytes.length ≤ 2700)
  | .verdictFrame _ _ rows badRows => decide (rows ≤ 65535) && decide (badRows ≤ 65535)
  | .retrainCompletion a _ _ _ | .retrainAttemptExpiry a | .retrainServiceMismatch a => a.fits
  | .engineReset _ | .winaWrite _ | .winbWrite _ | .attnWrite _ | .statRead | .statWrite _ | .tick | .sweep _ _
  | .enable _ _ | .disable _ _ | .dial _ _ _ | .answer _ _ _ | .hangup _ _ | .send _ _ | .faxPages _ _ | .play _ _
  | .record _ _ | .stop _ _ | .takeDigits _ _ | .clearFault _ _ | .clearRetryCount _ _ | .takeBlocks _
  | .loadGreeting _ | .unloadGreeting _ | .collectMessage _ | .discardMessage _ | .setClock _ | .clearLine _
  | .ringVoltageOnset _ | .ringCounted _ _ | .ringGapExpiry _ | .callerBurstEnd _ _ | .loopCurrentFall _
  | .loopCurrentReturn _ | .loopDropExpiry _ | .guardTimeExpiry _ | .declinedRingGapExpiry _ | .retryDelayExpiry _ _
  | .dialToneWaitExpiry _ | .progressToneOnset _ _ | .progressToneCease _ _ | .dialToneAccepted _ | .wWaitExpiry _
  | .toneOnEnd _ | .toneGapEnd _ | .pulseBreakEnd _ | .pulseMakeEnd _ | .interdigitPauseEnd _ | .pauseEnd _
  | .flashEnd _ | .answerWaitExpiry _ | .answerToneOnset _ | .answerToneCease _ | .answerToneAccepted _
  | .voicePathOpen _ | .voiceSettleExpiry _ | .adaptiveListenExpiry _ | .faxCallingToneOnset _
  | .faxCallingToneCease _ _ | .dataCallingToneOnset _ | .dataCallingToneCease _ | .dataCallingToneAccepted _
  | .encodeSample _ _ | .decodeSample _ | .pumpSettleComplete _ _ _ | .claimWaitExpiry _ | .pumpSelfFault _
  | .dataTrainingSuccess _ _ _ _ | .faxTrainingSuccess _ _ _ | .trainingServiceMismatch _ | .trainingTimerExpiry _
  | .gradingWindow _ _ _ | .shiftDone _ | .shiftFailed _ | .shiftAnswerExpiry _ | .farRetrain _
  | .carrierCease _ | .carrierReturn _ | .carrierLossExpiry _ | .linkOpenRepeat _ | .linkOpenExpiry _ | .frameSent _
  | .replyTimerExpiry _ | .holdTimerExpiry _ | .deliveryIdleExpiry _ | .offerFrame _ _ | .checkPatternSent _
  | .checkCarrierWaitExpiry _ | .readyFrame _ | .notReadyFrame _ | .pageSent _ | .pageCarrierStart _ | .pageRow _ _ _
  | .pageCarrierCease _ | .moreFrame _ | .lastFrame _ | .faxReleaseSent _ | .releaseFrame _ | .faxReplyExpiry _
  | .pulsePeriodEnd _ | .callerBurstStart _ _ => true

end Sys2Proof
end

