-- ==== Sys2Proof/Safety.lean ====
section
/-! DEFINITION. What counts as a safe state and a safe run, in the terms that statements use. -/

namespace Sys2Proof.Machine

/-- The next step does not stop. -/
def State.goesOn (s : State) : Prop := ∃ t, step s = .next t

/-- Every waiting command has operands that the hardware can meet. -/
def State.queueWellFormed (s : State) : Prop := ∀ c ∈ s.pending, c.wellFormed = true

/-- A 16-bit count is even. -/
def evenCount (c : Word) : Bool := c.getLsbD 0 == false

/-- Every Change Count is even, as between updates (R170). -/
def State.CountsEven (s : State) : Prop :=
  evenCount s.hdr.changeCount = true ∧ (∀ n : LineId, evenCount (s.line n).changeCount = true) ∧
  ∀ m : EntryId, evenCount (s.message m).changeCount = true

/-- The free stack holds exactly the blocks whose owner is FREE, each once (R155). -/
def Store.Economy (st : Store) : Prop := st.free.Nodup ∧ ∀ b : Nat, b ∈ st.free ↔ st.owners[b]? = some .free

/-- The block count is the one the sampled strap gives (R153, R167). -/
def State.Fitted (s : State) : Prop := s.store.owners.length = blocksFitted s.port.strap

/-- The store is in order: its bytes in canonical form, free stack and owners agreeing (R155), as many blocks as the strap gives. -/
structure State.Sound (s : State) : Prop where
  canonical : Memory.wf s.store.mem = true
  economy : s.store.Economy
  fitted : s.Fitted

/-- The bounds that the manual gives a line's values: A to 2560 and Q to 160 (R76, R77), a ring count of 65535 (R41), a Digit Queue
of 16 (R150). -/
structure Line.Bounded (l : Line) : Prop where
  acc : l.grade.acc ≤ 2560
  lastQ : l.grade.lastQ ≤ 160
  rings : l.call.ringCount ≤ 65535
  digits : l.voice.digits.length ≤ 16

/-- Every line keeps its bounds. -/
def State.Bounded (s : State) : Prop := ∀ n : LineId, (s.line n).Bounded

/-- Pump `p` settles for line `n` or is attached to it. -/
def State.serves (s : State) (p : PumpId) (n : LineId) : Prop := (s.pump p).line = some n

/-- Line `n` waits in the Pump Wait Queue (R60). -/
def State.queued (s : State) (n : LineId) : Prop := n ∈ s.queue.answer ∨ n ∈ s.queue.originate

/-- The law of the pump pool (04 R59 to R61): a pump serves one line, a line holds one pump, a queued line holds none, and no pump is
FREE beside a waiting claim. -/
structure State.PumpsInOrder (s : State) : Prop where
  /-- A pump that serves a line settles for it or is attached to it; an ATTACHED pump serves a line (R59). -/
  settling : ∀ p n, s.serves p n → (s.pump p).state = .settling ∨ (s.pump p).state = .attached
  attached : ∀ p, (s.pump p).state = .attached → ∃ n, s.serves p n
  /-- No two pumps serve one line. -/
  one : ∀ p q n, s.serves p n → s.serves q n → p = q
  /-- The pump of a call record is the one attached to the line (R3). -/
  recorded : ∀ n p, (s.line n).call.pump = some p ↔ (s.pump p).state = .attached ∧ s.serves p n
  /-- A line stands in the queue at most once, and in the class of its claim (R60). -/
  once : (s.queue.answer ++ s.queue.originate).Nodup
  answers : ∀ n, n ∈ s.queue.answer → (s.line n).claim.map Claim.cls = some .answer
  originates : ∀ n, n ∈ s.queue.originate → (s.line n).claim.map Claim.cls = some .originate
  /-- A line has a claim exactly while it waits in the queue or a pump settles for it (R60, R61). -/
  claims : ∀ n, (s.line n).claim ≠ none ↔ s.queued n ∨ ∃ p, (s.pump p).state = .settling ∧ s.serves p n
  /-- A queued line holds no pump. -/
  waiting : ∀ p n, s.queued n → ¬ s.serves p n
  /-- No pump is FREE while a claim waits (R61). -/
  granted : ∀ p n, s.queued n → (s.pump p).state ≠ .free
  /-- Claims and pumps are of lines QUEUED or off hook (R60, R65). -/
  calls : ∀ n, (s.line n).claim ≠ none ∨ (∃ p, s.serves p n) → (s.line n).call.state = .queued ∨ (s.line n).call.state.offHook = true
  /-- The 300 ms of a voice answer, and listening, are without claim and pump (03 R51, R54). -/
  settles : ∀ n, (s.line n).seq.settleTimer.isRunning = true →
    (s.line n).call.state = .answering ∧ (s.line n).claim = none ∧ ∀ p, ¬ s.serves p n
  listens : ∀ n, (s.line n).seq.listening = true →
    (s.line n).connectedAs .voice = true ∧ (s.line n).claim = none ∧ ∀ p, ¬ s.serves p n

/-- A link that is OPENING is that of a data call in TRAINING (06 R95). -/
def Line.opensInTraining (l : Line) : Prop := l.link.state = .opening → l.call.state = .training ∧ l.call.service = .data

/-- The law of plays (08 R144, R146, R147): a slot's play count is the number of lines that play it, at least 1 while it is WITHDRAWING,
and 0 while it is EMPTY. -/
structure State.PlaysInOrder (s : State) : Prop where
  counted : ∀ g, (s.slot g).playCount = (allLines.filter fun n => decide ((s.line n).voice.play = .slot g)).length
  withdrawing : ∀ g, (s.slot g).state = .withdrawing → 1 ≤ (s.slot g).playCount
  empty : ∀ g, (s.slot g).state = .empty → (s.slot g).playCount = 0 ∧ (s.slot g).chain = []
  /-- A line plays in CONNECTED-VOICE alone. -/
  connected : ∀ n, (s.line n).voice.play ≠ .none → (s.line n).connectedAs .voice = true
  opening : ∀ n, (s.line n).opensInTraining

/-- The law of recordings (08 R137, R139): an entry is RECORDING exactly for the line whose recording it is, so that a line has one
recording and an entry one line. -/
structure State.RecordingsInOrder (s : State) : Prop where
  one : ∀ n m, (s.line n).voice.recording = some m ↔ (s.message m).state = .recording ∧ (s.message m).line = n
  /-- A line records in CONNECTED-VOICE, at step RECORDING or HOST of its answer sequence (03 R52). -/
  connected : ∀ n, (s.line n).voice.recording ≠ none →
    (s.line n).connectedAs .voice = true ∧ ((s.line n).seq.step = .host ∨ (s.line n).seq.step = .recording)
  /-- A line listens during its greeting and its listen time (03 R54). -/
  listens : ∀ n, (s.line n).seq.listening = true → (s.line n).seq.step = .greeting ∨ (s.line n).seq.step = .listen
  /-- The answer sequence is at another step than HOST in CONNECTED-VOICE alone (03 R52, R58). -/
  sequence : ∀ n, (s.line n).seq.step ≠ .host → (s.line n).connectedAs .voice = true
  opening : ∀ n, (s.line n).opensInTraining

/-- The line is CONNECTED or RETRAINING on a data call. -/
def Line.onData (l : Line) : Prop := l.call.service = .data ∧ (l.call.state = .connected ∨ l.call.state = .retraining)

/-- The line receives a page of a fax call (07 R125). -/
def Line.onPage (l : Line) : Prop := l.fax.role = .receiver ∧ l.fax.page ≠ none

/-- The law of received data (06 R106; 09 R165): a line fills one RECV block, its Delivered List has at most 16 entries, and at most one
of them is open. -/
structure State.ReceivingInOrder (s : State) : Prop where
  /-- A block owned RECV is the one that its line is filling. -/
  one : ∀ (b : Nat) n, s.store.owners[b]? = some (.recv n) → (s.line n).recvBlock = some b
  entries : ∀ n, (s.line n).delivered.length ≤ 16
  oneOpen : ∀ n, ((s.line n).delivered.filter fun e => !e.closed).length ≤ 1
  /-- A line fills a block, and has an open entry of a kind, while it receives data or a page. -/
  filling : ∀ n, (s.line n).recvBlock ≠ none → (s.line n).onData ∨ (s.line n).onPage
  openData : ∀ n, ∀ e ∈ (s.line n).delivered, e.closed = false → e.kind = .data → (s.line n).onData
  openPage : ∀ n, ∀ e ∈ (s.line n).delivered, e.closed = false → e.kind = .page → (s.line n).onPage
  /-- A data line that fills a block has an open entry for it or room for one (06 R108). -/
  room : ∀ n, (s.line n).call.service = .data → (s.line n).recvBlock ≠ none →
    (∃ e ∈ (s.line n).delivered, e.closed = false) ∨ (s.line n).delivered.length ≤ 15
  /-- The link is up on a connected data call alone, and the delivery idle timer runs while it is UP (06 R95, R111). -/
  up : ∀ n, (s.line n).link.state = .up ∨ (s.line n).link.state = .farClosed → (s.line n).onData
  idle : ∀ n, (s.line n).link.idleTimer.isRunning = true → (s.line n).link.state = .up
  opening : ∀ n, (s.line n).opensInTraining
  /-- The receiver of a session is the answering side of a connected fax call, and a page is the receiver's (07 R116, R125). -/
  receiver : ∀ n, (s.line n).fax.role = .receiver →
    (s.line n).connectedAs .fax = true ∧ (s.line n).call.direction = .answer
  page : ∀ n, (s.line n).fax.page ≠ none → (s.line n).fax.role = .receiver
  pageIn : ∀ n, (s.line n).fax.work = .pageIn → (s.line n).onPage ∧ (s.line n).fax.phase = .page
  /-- The answer sequence and listening are those of CONNECTED-VOICE (03 R52, R54). -/
  sequence : ∀ n, (s.line n).seq.step ≠ .host ∨ (s.line n).seq.listening = true → (s.line n).connectedAs .voice = true

/-- The cards of a line's long orders not yet answered (10 R174): DIAL, ANSWER, the SENDs and FAX PAGES with a chain or page left, the
PLAY in progress, the RECORD of the recording in progress. -/
def Line.longCards (l : Line) : List Nat :=
  l.ctl.dialCard.toList ++ l.ctl.answerCard.toList ++ l.link.sendList.map SendChain.card ++ l.fax.orders.map FaxOrder.card ++
    l.voice.playCard.toList ++
    match l.voice.recording, l.voice.recKind with
    | some _, .host i => [i]
    | _, _ => []

/-- The law of long orders (10 R171, R174): the card of each is TAKEN, and no card serves two of them; so too for the UNLOAD GREETING
cards of withdrawing slots; and a card taken whose order waits for its owner is TAKEN too, and serves none of them yet. -/
structure State.LongOrdersTaken (s : State) : Prop where
  taken : ∀ n, ∀ i ∈ (s.line n).longCards ++ (s.line n).table.waiting, (s.card (.line n) i).hand = .taken
  once : ∀ n, ((s.line n).longCards ++ (s.line n).table.waiting).Nodup
  waiting : ∀ i ∈ s.engTable.waiting, (s.card .engine i).hand = .taken ∧ ∀ g, (s.slot g).unloadCard ≠ some i
  waitingOnce : s.engTable.waiting.Nodup
  unload : ∀ g i, (s.slot g).unloadCard = some i → (s.card .engine i).hand = .taken
  unloadOnce : ∀ g k i, (s.slot g).unloadCard = some i → (s.slot k).unloadCard = some i → g = k

/-- Between two states, the lines other than `n` differ at most in their link and their Change Count: blocks freed by an event of
line `n` may let another line leave receive-critical (06 R109). -/
def State.Aside (n : LineId) (s t : State) : Prop :=
  ∀ m : LineId, m ≠ n → ∃ (k : Link) (c : Word), t.line m = { s.line m with link := k, changeCount := c }

/-- An event word that events alone have touched: bits set, none cleared, the tally raised, the host's three words as they were
(R176). -/
def EventWord.Risen (w v : EventWord) : Prop := ∃ b c, v = { w with bits := w.bits ||| b, tally := w.tally + c }

/-- What an answer leaves (10 R174, R189): the card ANSWERED with the Tick, status, reason, count and the
fields padded with 0, and the event ANSWERED (bit 4 of a line's word, bit 1 of the engine's) raised in the record of the table. -/
structure State.Answered (T : TableId) (i : Nat) (st : Status) (reason count : Nat) (fs : List Byte) (s t : State) : Prop where
  hand : (t.card T i).hand = .answered
  tick : (t.card T i).word 2 = s.hdr.tick.toNat % 65536
  status : (t.card T i).byte 5 = st.code
  reason : (t.card T i).byte 6 = reason % 256
  count : (t.card T i).byte 7 = count % 256
  fields : (t.card T i).body.drop 6 = (fs ++ List.replicate 24 0).take 24
  event : (match T with | .line n => (t.line n).ev.bits.getLsbD 4 | .engine => t.hdr.ev.bits.getLsbD 1) = true

/-- What a clear decision with an outcome leaves of line `n` (01 R13, R14; what its call-end sequence answers and tears down is stated
by the obligations named CallEnd): CLEARING with the guard timer started, the outcome,
service NONE, no pump and t_clear in the call record (a burst cut off may file a caller record), no claim, CALL_DOWN (bit 3)
raised, no play and no recording, the profile as it was, the other lines aside. -/
structure State.Cleared (n : LineId) (o : CallOutcome) (s t : State) : Prop where
  call : (t.line n).call =
    { (s.line n).call with
      state := .clearing, lastOutcome := o, service := .none, pump := none, tClear := s.hdr.tick
      caller := (t.line n).call.caller }
  guardTime : (t.line n).ctl.stateTimer = .running (s.line n).profile.guardTime
  claim : (t.line n).claim = none
  pumps : ∀ p, (t.pump p).state = .attached → (t.pump p).line ≠ some n
  down : (t.line n).ev.bits.getLsbD 3 = true
  play : (t.line n).voice.play = .none
  recording : (t.line n).voice.recording = none
  profile : (t.line n).profile = (s.line n).profile
  events : (s.line n).ev.Risen (t.line n).ev
  others : State.Aside n s t

/-- The policy applied to a fault of a kind on a line (11 R181). -/
def Line.applied (l : Line) (k : FaultKind) : Policy :=
  appliedPolicy (l.profile.policy k) l.call.direction l.fm.retryCount l.profile.retryLimit

/-- What a fault after which the call cannot go on leaves of line `n` (11 R181 to R185): the last fault with the policy applied,
FAULT (bit 12) raised but under SILENT, the latch under LATCH, the retry count and the pending retry under RETRY, and the call
cleared with the kind. -/
structure State.Faulted (n : LineId) (k : FaultKind) (d : FailDetail) (s t : State) : Prop where
  cleared : State.Cleared n (.fault k) s t
  last : (t.line n).fm.last = some ⟨k, d, (s.line n).applied k, s.hdr.tick⟩
  latch : (t.line n).fm.latch = if (s.line n).applied k = .latch then some k else (s.line n).fm.latch
  retryCount : (t.line n).fm.retryCount = (s.line n).fm.retryCount + if (s.line n).applied k = .retry then 1 else 0
  retryPending : (t.line n).fm.retryPending = (decide ((s.line n).applied k = .retry) || (s.line n).fm.retryPending)
  event : (s.line n).applied k ≠ .silent → (t.line n).ev.bits.getLsbD 12 = true

/-- The Page List of line `n` has been emptied, the cards of `out` aside (07 R131, R133): no page and no order is left, and each order was
answered CUT with the outcome. -/
structure State.PagesCut (n : LineId) (o : CallOutcome) (out : List Nat) (s t : State) : Prop where
  pages : (t.line n).fax.pages = [] ∧ (t.line n).fax.orders = []
  orders : ((s.line n).fax.orders.map FaxOrder.card).Nodup →
    ∀ x ∈ (s.line n).fax.orders, x.card ∉ out → x.cutShort ≤ 255 → x.card < (s.line n).table.cards.length →
      State.Answered (.line n) x.card .cut o.code 0
        (((x.verdicts.map fun v : Verdict => BitVec.ofNat 8 v.code) ++ List.replicate 8 0).take 8 ++
          [BitVec.ofNat 8 x.resent, BitVec.ofNat 8 x.cutShort, BitVec.ofNat 8 (s.line n).fax.rung,
            if (s.line n).fax.fine then 1 else 0, BitVec.ofNat 8 (s.line n).fax.width]) s t

/-- What an abandoned retry leaves of line `n` (11 R184), the cards of `out` aside: no retry pending, the DIAL card that waited for it
answered CUT with the outcome, and, where the call was a fax call, the Page List empty and the cards of its orders answered CUT
(07 R131). -/
structure State.RetryAbandoned (n : LineId) (o : CallOutcome) (out : List Nat) (s t : State) : Prop where
  pending : (t.line n).fm.retryPending = false
  dialCard : (t.line n).ctl.dialCard = none
  dial : ∀ i, (s.line n).ctl.dialCard = some i → i ∉ out → (∀ x ∈ (s.line n).fax.orders, x.card ≠ i) →
    i < (s.line n).table.cards.length → State.Answered (.line n) i .cut o.code 0 (s.line n).dialFields s t
  pages : (s.line n).dialler.service = .fax → State.PagesCut n o out s t

/-- The store with the blocks of every page in line `n`'s Page List gone back to the host, and else as it was (07 R131, R133). -/
def State.pagesHome (s : State) (n : LineId) : Store :=
  (s.line n).fax.pages.foldl (fun st p => st.assignAll (p.chain.map Prod.fst) .host) s.store

/-- The pages that a fax call of line `n` kept for its redial have gone back to the host, and the store is else as it was (07 R131). -/
def State.KeptPagesReturned (n : LineId) (s t : State) : Prop :=
  (s.line n).dialler.service = .fax → t.store = s.pagesHome n

/-- One event that changes line `n` by `f` and nothing else; the line's Change Count rises by 2 where the event changed an engine
field of its record (10 R170). -/
def State.eventOn (s : State) (n : LineId) (f : Line → Line) : State := s.onLine n fun l => commitLine l (f l)

/-- The ring detector is armed (01 R2). -/
def Line.armed (l : Line) : Bool :=
  match l.call.state with
  | .idle | .alerting | .queued | .holdoff => true
  | .clearing => l.ctl.declined
  | _ => false

/-- The last-taken number of a table when the order of card `i` has been carried out: the card's post number where it is taken with its
order, and as it stood where it had been taken before (10 R173). -/
def State.lastTakenWith (s : State) (T : TableId) (i : Nat) : Word :=
  if (s.table T).waiting = [] then BitVec.ofNat 16 ((s.card T i).word 2) else (s.table T).lastTaken

/-- A short order of line `n` answered in the sweep that takes it, the line otherwise becoming `l`: card `i` holds the answer
and its order code, the other cards stand, the last-taken number is the card's post number where it was not taken before (10 R173), ANSWERED
is raised and counted once, and all but line `n` is as it was. -/
structure State.ShortOrder (n : LineId) (i : Nat) (st : Status) (reason count : Nat) (fs : List Byte) (l : Line) (s t : State) :
    Prop where
  answer : State.Answered (.line n) i st reason count fs s t
  code : (t.card (.line n) i).byte 4 = (s.card (.line n) i).byte 4
  cards : ∀ j, j ≠ i → t.card (.line n) j = s.card (.line n) j
  lastTaken : (t.table (.line n)).lastTaken = s.lastTakenWith (.line n) i
  event : (t.line n).ev = { l.ev with bits := l.ev.bits ||| 0x0010, tally := l.ev.tally + 1 }
  rest : ∃ tb c, t = s.onLine n fun _ => { l with table := tb, ev := (t.line n).ev, changeCount := c }

/-- A state with every Change Count read as 0: equal images mean states that differ in Change Counts alone (10 R170). -/
def State.uncounted (s : State) : State :=
  { s with
    hdr := { s.hdr with changeCount := 0 }
    lines := s.lines.map fun l => { l with changeCount := 0 }
    messages := s.messages.map fun m => { m with changeCount := 0 } }

/-- A short engine order answered in the sweep that takes it, the state otherwise becoming `u`: card `i` holds the answer
and its order code, the other cards stand, the last-taken number is the card's post number where it was not taken before, ANSWERED is
raised and counted once. -/
structure State.ShortEngineOrder (i : Nat) (st : Status) (reason count : Nat) (fs : List Byte) (u s t : State) : Prop where
  answer : State.Answered .engine i st reason count fs s t
  code : (t.card .engine i).byte 4 = (s.card .engine i).byte 4
  cards : ∀ j, j ≠ i → t.card .engine j = s.card .engine j
  lastTaken : t.engTable.lastTaken = s.lastTakenWith .engine i
  event : t.hdr.ev = { u.hdr.ev with bits := u.hdr.ev.bits ||| 0x0002, tally := u.hdr.ev.tally + 1 }
  rest : t.uncounted = { u with engTable := t.engTable, hdr := { u.hdr with ev := t.hdr.ev } }.uncounted

/-- What no event of a line touches: the port, the sweep, the host pulse monitor, the Clock and the host's words of the Engine
Header, its event mask, route and acknowledge words with them; the engine event word only rises, and what was sent before stays sent. -/
structure State.Steady (s t : State) : Prop where
  port : t.port = s.port
  sweep : t.sweep = s.sweep
  monitor : t.monitor = s.monitor
  ev : s.hdr.ev.Risen t.hdr.ev
  hdr : ∃ k c, t.hdr = { s.hdr with ev := t.hdr.ev, nextMessage := k, changeCount := c }
  outputs : s.outputs <+: t.outputs

/-- The command completes, in the state `u` but for Change Counts, which `Obligations.ChangeCountsBracketEachEvent` gives. -/
def Leads (c : Instr) (s u : State) : Prop := ∃ t, exec c s = .next t ∧ t.uncounted = u.uncounted

/-- The command ends the call of line `n` by a clear decision with an outcome (01 R13), no fault being taken. -/
def Clears (c : Instr) (n : LineId) (o : CallOutcome) (s : State) : Prop :=
  ∃ t, exec c s = .next t ∧ State.Cleared n o s t ∧ (t.line n).fm = (s.line n).fm ∧ State.Steady s t

/-- The command reports a fault of line `n` after which the call cannot go on (11 R181 to R185). -/
def Faults (c : Instr) (n : LineId) (k : FaultKind) (d : FailDetail) (s : State) : Prop :=
  ∃ t, exec c s = .next t ∧ State.Faulted n k d s t ∧ State.Steady s t

/-- The call of line `n` has connected with a service (01 R6, R7; 02 R39; 03 R48): CONNECTED, the outcome, t_connect and day_connect
taken at the first connection, CALL_UP (bit 2) raised, a TAKEN DIAL or ANSWER card answered DONE with the outcome. -/
structure State.Connects (n : LineId) (v : Service) (s t : State) : Prop where
  call : (t.line n).call =
    { (s.line n).call with
      state := .connected, service := v, lastOutcome := v.outcome, wasConnected := true
      tConnect := if (s.line n).call.wasConnected then (s.line n).call.tConnect else s.hdr.tick
      dayConnect := if (s.line n).call.wasConnected then (s.line n).call.dayConnect else s.hdr.dayClock }
  timer : (t.line n).ctl.stateTimer = .stopped
  up : (t.line n).ev.bits.getLsbD 2 = true
  dial : ∀ i, (s.line n).ctl.dialCard = some i → (s.line n).ctl.answerCard = none → i < (s.line n).table.cards.length →
    State.Answered (.line n) i .done v.outcome.code 0 (s.line n).dialFields s t ∧ (t.line n).ctl.dialCard = none
  answer : ∀ i, (s.line n).ctl.answerCard = some i → (s.line n).ctl.dialCard = none → i < (s.line n).table.cards.length →
    State.Answered (.line n) i .done v.outcome.code 0 (s.line n).answerFields s t ∧ (t.line n).ctl.answerCard = none
  others : State.Aside n s t
  steady : State.Steady s t

/-- The reason with which a card is answered at the end of a call (01 R15): the fault kind, or the outcome. -/
def CallOutcome.reason : CallOutcome → Nat
  | .fault k => k.code
  | o => o.code

/-- The status with which a service answers its long orders at the end of a call (01 R15). -/
def CallOutcome.cutStatus : CallOutcome → Status
  | .fault _ => .failed
  | _ => .cut

/-- The status with which a DIAL or ANSWER card still TAKEN is answered at the end of a call (01 R15). -/
def CallOutcome.ownStatus : CallOutcome → Status
  | .busy | .noAnswer | .fault _ => .failed
  | _ => .cut

/-- The command is taken on line `n` and clears its call with an outcome (01 R13), changing nothing else before its call-end sequence
but the card of an order: HANGUP and CLEAR LINE, the loop drop, and eight expiries that end a call. CLEAR LINE names its line in the byte at 0x06
(log 38). -/
def EndsCall (c : Instr) (n : LineId) (o : CallOutcome) (s : State) : Prop :=
  let l := s.line n
  let inCall := l.call.state = .alerting ∨ l.call.state = .queued ∨ l.call.state.offHook = true
  let timed := fun (st : LineState) => l.call.state = st ∧ l.ctl.stateTimer.isRunning = true
  (∃ i : Fin 8, c = .hangup n i ∧ s.takesCard (.line n) i.val (· == 5) = true ∧ inCall ∧ o = .localCleared) ∨
  (∃ i : Fin 4, c = .clearLine i ∧ s.takesCard .engine i.val (· == 39) = true ∧ (s.card .engine i.val).byte 6 = n.val ∧ inCall ∧
    o = .localCleared) ∨
  (c = .loopDropExpiry n ∧ l.ctl.loopMeasuring = true ∧ l.call.state.offHook = true ∧ o = .remoteCleared) ∨
  (c = .answerWaitExpiry n ∧ timed .progress ∧ o = .noAnswer) ∨
  (c = .dialToneWaitExpiry n ∧ timed .seized ∧ o = .fault .noDialTone) ∨
  (c = .wWaitExpiry n ∧ l.call.state = .dialling ∧ l.dialler.phase = .waitTone ∧ o = .fault .noDialTone) ∨
  (c = .trainingTimerExpiry n ∧ timed .training ∧ o = .fault .trainFailed) ∨
  (c = .linkOpenExpiry n ∧ l.call.state.offHook = true ∧ l.link.state = .opening ∧ l.link.openTimer.isRunning = true ∧
    o = .fault .trainFailed) ∨
  (c = .holdTimerExpiry n ∧ l.call.state.offHook = true ∧ l.link.held = true ∧ l.link.holdTimer.isRunning = true ∧
    o = .fault .linkExhausted) ∨
  (c = .carrierLossExpiry n ∧ l.call.state.offHook = true ∧ s.measuresCarrier n = true ∧ l.ctl.loopMeasuring = false ∧
    o = .fault .carrierLost) ∨
  (c = .claimWaitExpiry n ∧ (l.call.state = .queued ∨ l.call.state.offHook = true) ∧ l.seq.step ≠ .switchWait ∧
    (∃ k, l.claim = some k ∧ k.wait.isRunning = true) ∧ o = .fault .noPump)

/-- The line whose command this is: the orders of its table and the events on it. -/
def lineOf : Instr → Option LineId
  | .enable n _ | .disable n _ | .dial n _ _ | .answer n _ _ | .hangup n _ | .send n _ | .faxPages n _ | .play n _
  | .record n _ | .stop n _ | .takeDigits n _ | .clearFault n _ | .clearRetryCount n _ | .ringVoltageOnset n
  | .ringCounted n _ | .ringGapExpiry n | .callerBurstEnd n _ | .loopCurrentFall n | .loopCurrentReturn n
  | .loopDropExpiry n | .guardTimeExpiry n | .declinedRingGapExpiry n | .retryDelayExpiry n _ | .dialToneWaitExpiry n
  | .progressToneOnset n _ | .progressToneCease n _ | .dialToneAccepted n | .wWaitExpiry n | .toneOnEnd n | .toneGapEnd n
  | .pulseBreakEnd n | .pulseMakeEnd n | .interdigitPauseEnd n | .pauseEnd n | .flashEnd n | .answerWaitExpiry n
  | .answerToneOnset n | .answerToneCease n | .answerToneAccepted n | .voicePathOpen n | .voiceFrameEnd n _
  | .voiceSettleExpiry n | .adaptiveListenExpiry n | .faxCallingToneOnset n | .faxCallingToneCease n _
  | .dataCallingToneOnset n | .dataCallingToneCease n | .dataCallingToneAccepted n | .dtmfDigit n _ | .encodeSample n _
  | .decodeSample n | .claimWaitExpiry n | .dataTrainingSuccess n _ _ _ | .faxTrainingSuccess n _ _
  | .trainingServiceMismatch n | .trainingTimerExpiry n | .gradingWindow n _ _ | .shiftDone n | .shiftFailed n
  | .shiftAnswerExpiry n | .farRetrain n
  | .carrierCease n | .carrierReturn n | .carrierLossExpiry n | .linkOpenRepeat n | .linkOpenExpiry n | .linkOpenFrame n _
  | .infoFrame n _ | .receiptFrame n _ | .rejectFrame n _ | .holdFrame n _ | .linkCloseFrame n _ | .badFrame n _
  | .frameSent n | .replyTimerExpiry n | .holdTimerExpiry n | .deliveryIdleExpiry n | .offerFrame n _ | .choiceFrame n _
  | .checkPatternSent n | .checkPatternResult n _ | .checkCarrierWaitExpiry n | .readyFrame n | .notReadyFrame n
  | .pageSent n | .pageCarrierStart n | .pageRow n _ _ | .pageCarrierCease n | .moreFrame n | .lastFrame n
  | .verdictFrame n _ _ _ | .faxReleaseSent n | .releaseFrame n | .faxReplyExpiry n | .callerBurstStart n _ => some n
  | .retrainCompletion a _ _ _ | .retrainAttemptExpiry a | .retrainServiceMismatch a => some a.line
  | .engineReset _ | .ctrlReset _ _ | .ctrlEnableWrite _ | .winaWrite _ | .winbWrite _ | .attnWrite _ | .statRead
  | .statWrite _ | .hostStoreWrite _ _ | .hostStoreRead _ | .tick | .sweep _ _ | .unknownOrder _ _ | .takeBlocks _
  | .loadGreeting _ | .unloadGreeting _ | .collectMessage _ | .discardMessage _ | .setClock _ | .clearLine _
  | .pumpSettleComplete _ _ _ | .pumpSelfFault _ | .pulsePeriodEnd _ => none

/-- A host write dropped by the guard (10 R169): the store as it was, Guard Count one more, the GUARD flag set, GUARD (bit 2) raised
in the engine word, and the Change Count of the header for it. -/
def State.dropped (s : State) : State :=
  { s with
    port := { s.port with guardFlag := true }
    hdr :=
      { s.hdr with
        guardCount := s.hdr.guardCount + 1
        ev := { s.hdr.ev with bits := s.hdr.ev.bits ||| 0x0004, tally := s.hdr.ev.tally + 1 }
        changeCount := s.hdr.changeCount + 2 } }

/-- Pump `p` works for line `n` (04 R67): the pump of the call record, ATTACHED to the line, its carrier not reported lost. -/
structure State.Works (s : State) (n : LineId) (p : PumpId) : Prop where
  held : (s.line n).call.pump = some p
  state : (s.pump p).state = .attached
  line : (s.pump p).line = some n
  carrier : (s.pump p).carrierLost = false

/-- The link while the rate is in flight (06 R105): timers paused, the frame being sent lost, the last reply waiting kept as the
reply due. -/
def Link.heldBack (l : Link) : Link :=
  { l with
    inFlight := true, sending := none, replies := [], repeatTimer := .stopped
    replyDue := match l.replies.getLast? with | some f => some f | none => l.replyDue
    replyTimer := match l.replyTimer with | .running k => .paused k | x => x
    holdTimer := match l.holdTimer with | .running k => .paused k | x => x }

/-- A shift of line `n` to a target rung begun with pump `p` (05 R84; 04 R70). -/
def State.shiftBegun (s : State) (n : LineId) (p : PumpId) (target : Nat) : State :=
  ((s.onLine n fun l =>
    { l with grade := { l.grade with rate := .shifting target }, link := l.link.heldBack }).onPump p fun x =>
    { x with activity := .shifting, holding := false, attemptTimer := .running 2000 }).emit (.shiftRequest n target)

/-- A retrain attempt of line `n` begun with pump `p` (05 R87; 04 R71): a line CONNECTED-DATA moves to RETRAINING, with RETRAIN
(bit 7) raised. -/
def State.retrainBegun (s : State) (n : LineId) (p : PumpId) : State :=
  ((s.onLine n fun l =>
    { l with
      grade := { l.grade with rate := .retraining, retrainCount := l.grade.retrainCount + 1 }
      link := if l.link.inFlight then l.link else l.link.heldBack
      call := if l.connectedAs .data then { l.call with state := .retraining } else l.call
      ev :=
        if l.connectedAs .data then { l.ev with bits := l.ev.bits ||| 0x0080, tally := l.ev.tally + 1 } else l.ev }).onPump p
    fun x => { x with activity := .retraining, holding := false, attemptTimer := .running 5000 }).emit (.retrainStart n)

/-- The pump of line `n` begins a link frame: its bytes between two flags (06 R97). -/
def State.frameBegun (s : State) (n : LineId) (f : LinkFrame) : State :=
  (s.onLine n fun l => { l with link := { l.link with sending := some f } }).emit (.linkBytes n (0xA5 :: (Wire.run f ++ [0xA5])))

end Sys2Proof.Machine
end

