-- ==== Sys2Proof/Certificates/Slice0/Obligations.lean ====
section
/-! DEFINITION. The statements for the provers, from the numbered rules of spec/: what each command leaves of the state, and what
every step keeps. -/

open Sys2Proof Sys2Proof.Machine

/-! ## The queue, completion and what every step keeps -/

/-- A step runs the command at the front of the queue on the state with the rest of the queue; on an empty queue the block idles (the
queue and the idling are the model's choice, log 1). -/
def Obligations.StepRunsTheFrontCommand : Prop :=
  (∀ (c : Instr) (rest : List Instr) (s : State), step (s.withQueue (c :: rest)) = exec c (s.withQueue rest)) ∧
  ∀ s : State, s.pending = [] → step s = .next s

/-- Every step keeps the law of the pump pool (04 R59 to R61): a pump serves one line, a line holds one pump, a queued line holds none,
and no pump is FREE beside a waiting claim. -/
def Obligations.EveryStepKeepsPumpsInOrder : Prop := ∀ s t : State, s.PumpsInOrder → step s = .next t → t.PumpsInOrder

/-- Every command whose operands the hardware can meet completes, and no command touches the waiting commands; a host access at an odd
offset, which no access has (10 R168), stops with a fault (the model's choice, log 12). -/
def Obligations.WellFormedCommandsComplete : Prop :=
  (∀ (c : Instr) (s : State), c.wellFormed = true → ∃ t, exec c s = .next t ∧ t.pending = s.pending) ∧
  ∀ (o : BitVec 12) (v : Word) (s : State), o.getLsbD 0 = true →
    exec (.hostStoreWrite o v) s = .fault .oddOffset ∧ exec (.hostStoreRead o) s = .fault .oddOffset

/-- Every step keeps the law of plays (08 R144, R146): a slot's play count is the number of lines that play it, at least 1 while it is
WITHDRAWING, 0 while it is EMPTY. -/
def Obligations.EveryStepKeepsPlaysCounted : Prop := ∀ s t : State, s.PlaysInOrder → step s = .next t → t.PlaysInOrder

/-- Every step keeps the store in order: its bytes in canonical form, the free stack holding exactly the FREE blocks, each once
(09 R155), as many blocks as the strap gives. -/
def Obligations.EveryStepKeepsTheStoreInOrder : Prop := ∀ s t : State, s.Sound → step s = .next t → t.Sound

/-- Every step keeps every Change Count even (10 R170). -/
def Obligations.EveryStepKeepsChangeCountsEven : Prop := ∀ s t : State, s.CountsEven → step s = .next t → t.CountsEven

/-- Every step keeps the law of long orders (10 R171, R174): the card of each long order in progress and of each order that waits is TAKEN,
and no card serves two. -/
def Obligations.EveryStepKeepsLongOrdersTaken : Prop :=
  ∀ s t : State, s.LongOrdersTaken → step s = .next t → t.LongOrdersTaken

/-- Every step keeps the bounds of grade, margin, ring count and Digit Queue (05 R76, R77; 03 R41; 08 R150). -/
def Obligations.EveryStepKeepsTheBounds : Prop := ∀ s t : State, s.Bounded → step s = .next t → t.Bounded

/-- The state after reset has every invariant that every step keeps: the store in order, even Change Counts, the bounds, and the laws of
pumps, plays, recordings, received data and long orders. -/
def Obligations.ResetIsInOrder : Prop :=
  State.reset.Sound ∧ State.reset.CountsEven ∧ State.reset.Bounded ∧ State.reset.PumpsInOrder ∧ State.reset.PlaysInOrder ∧
    State.reset.RecordingsInOrder ∧ State.reset.ReceivingInOrder ∧ State.reset.LongOrdersTaken

/-- Every command but a reset and a sweep is one event: the Change Count of the header, of each line and of each message entry rises
by 2 where the event changed an engine field it brackets, and stays otherwise. That a count rises, on both sides of an update, is
10 R170's; that it rises by exactly 2, once for an event, and stays where no field changed its value, is the model's choice (log 10). -/
def Obligations.ChangeCountsBracketEachEvent : Prop :=
  ∀ (c : Instr) (s t : State), (∀ k, c ≠ .engineReset k) → (∀ v k, c ≠ .ctrlReset v k) → (∀ v p, c ≠ .sweep v p) →
    exec c s = .next t →
    t.hdr.changeCount = (if s.headerView = t.headerView then s.hdr.changeCount else s.hdr.changeCount + 2) ∧
    (∀ n, (t.line n).changeCount =
      if (s.line n).view = (t.line n).view then (s.line n).changeCount else (s.line n).changeCount + 2) ∧
    ∀ m, (t.message m).changeCount =
      if { s.message m with changeCount := 0 } = { t.message m with changeCount := 0 } then (s.message m).changeCount
      else (s.message m).changeCount + 2

/-- A command of line `n` stays on it: the other lines change at most in their link (blocks freed may let them leave
receive-critical, 06 R109) and Change Count, no event bit of the line is cleared, and the port, the sweep, the monitor, the Clock and
the host's words of the header stay as they were, the engine event word only rising (its mask, route and acknowledge words stay, no bit of
it is cleared). -/
def Obligations.LineCommandsStayOnTheirLine : Prop :=
  ∀ (c : Instr) (n : LineId) (s t : State), lineOf c = some n → exec c s = .next t →
    State.Aside n s t ∧ (s.line n).ev.Risen (t.line n).ev ∧ State.Steady s t

/-! ## The port, the window, the Clock and the sweep (chapter 10) -/

/-- Engine reset, at the pin or by CTRL, leaves the values of 10 R179 (with 09 R157, 04 R59 and 01 R4): STARTING, every card FREE, every
line OFF, every pump SETTLING, every block FREE with block 0 on top of the stack, the fixed area initialised, host scratch and blocks
unchanged, each Line Profile its defaults in the order of 12 R190, the Block Map FREE below the block count; of each line the call record,
the call profile, the defaults that its Line Profile then holds, the stopped dialler and classifier (01 R4), the grade (05 R74), the link
(06 R94, R112), the fax session (07 R115), the voice state (08 R134), the Delivered List and the RECV block. Eight points are the model's:
the word last read and the waiting commands stay (log 7, log 1), the body of each card reads 0 (log 11), the fields of an EMPTY message
entry beside its first block and counts are 0, ABSENT and NONE (log 42), loop current counts as present, and the numbers of the dialler, the
classifier, the decoder and the answer sequence are 0 and none, the dial mode TONE (log 22), the recording kind is AUTOMATIC (log 31), and
the state stands after step 3 of R179, STARTING with every pump SETTLING (log 4). -/
def Obligations.EngineResetLeaves : Prop :=
  ∀ (k : StoreSize) (v : Word) (s : State), ∃ t,
    exec (.engineReset k) s = .next t ∧ exec (.ctrlReset v k) s = .next t ∧
    t.port = ⟨0, 1, false, false, false, k, false, s.port.readData⟩ ∧
    t.hdr = ⟨0, ⟨0, 0, 0, 0, 0⟩, 0, 0, 0, 16, 0, 0, 0, 0, 0, 0, 1⟩ ∧
    t.engTable = ⟨List.replicate 4 ⟨.free, List.replicate 30 0⟩, 0, .reading []⟩ ∧ t.sweep = ⟨false, false, [], 0, false⟩ ∧
    (∀ n,
      (t.line n).call =
        { state := .off, service := .none, direction := .originate, pump := none, tRing := 0, tOffhook := 0, tConnect := 0
          tClear := 0, dayConnect := 0, wasConnected := false, ringCount := 0, caller := ⟨.absent, [], [], []⟩
          lastOutcome := .none, disablePending := false } ∧
      (t.line n).ctl =
        { declined := false, heldCarrierLoss := false, stateTimer := .stopped, declinedGap := .stopped, loopPresent := true
          loopMeasuring := false, progressTone := false, toneInFrame := false, answerTone := false, dataTone := false
          faxToneBurst := false, dialCard := none, answerCard := none } ∧
      (t.line n).profile = Profile.ofWords (fun o => Memory.word t.store.mem (0x500 + 256 * n.val + o)) ∧
      (t.line n).dialler =
        { service := .none, symbols := [], rest := [], mode := .tone, phase := .idle, timer := .stopped, attempt := 0
          skipped := 0 } ∧
      (t.line n).prog =
        { busyRun := 0, ringbackCount := 0, ringbackHeard := false, onMeasured := false, onPeriod := none, voiceRun := 0
          voicePath := false, pathTimer := .stopped } ∧
      (t.line n).dec = ⟨false, none⟩ ∧ (t.line n).seq = ⟨.host, false, false, false, .none, .stopped, .stopped⟩ ∧
      (t.line n).grade =
        { acc := 0, lastQ := 0, rung := 0, ceiling := 0, floor := 0, upCount := 0, downCount := 0, collapseCount := 0
          retrainCount := 0, rate := .settled, seedPending := false } ∧
      (t.line n).link =
        { state := .none, window := 0, infoLength := 0, nextSend := 0, sendWindow := [], sendList := [], held := false
          expected := 0, rejectSent := false, critical := false, inFlight := false, replyDue := none, frameErrors := 0
          counters := ⟨0, 0, 0, 0, 0, 0⟩, openTimer := .stopped, repeatTimer := .stopped, replyTimer := .stopped
          holdTimer := .stopped, idleTimer := .stopped, sending := none, replies := [], resends := [] } ∧
      (t.line n).fax =
        { role := .none, phase := .none, offerHeld := none, rung := 0, fine := false, rowTime := 0, width := 0
          standing := none, expiries := 0, replyTimer := .stopped, checkAttempts := 0, resendPending := false
          retrainPending := false, pageCount := 0, pagesDiscarded := 0, page := none, lastVerdict := .none, lastRows := 0
          lastBadRows := 0, failDetail := .none, pages := [], orders := [], work := .none, carrierTimer := .stopped
          waitBefore := none, sentLast := false, judged := none } ∧
      (t.line n).voice =
        { play := .none, playCard := none, playChain := [], playTotal := 0, samplesPlayed := 0, recording := none
          recKind := .automatic, stopOnDigit := false, encoder := ⟨0, 0⟩, decoder := ⟨0, 0⟩, silentRun := 0, frame := []
          ahead := 0, digits := [], overflow := 0, lastMessage := 0, lastEnd := .none } ∧
      (t.line n).changeCount = 0 ∧ (t.line n).ev = ⟨0, 0, 0, 0, 0⟩ ∧ (t.line n).claim = none ∧ (t.line n).delivered = [] ∧
      (t.line n).recvBlock = none ∧ (t.line n).fm = ⟨none, false, 0, none⟩ ∧
      (t.line n).table = ⟨List.replicate 8 ⟨.free, List.replicate 30 0⟩, 0, .reading []⟩) ∧
    (∀ p, (t.pump p).state = .settling ∧ (t.pump p).line = none) ∧ t.queue = ⟨[], []⟩ ∧
    (∀ g, t.slot g = ⟨.empty, [], 0, 0, none⟩) ∧
    (∀ m, t.message m =
      { changeCount := 0, state := .empty, line := 0, number := 0, dayClock := 0, caller := ⟨.absent, [], [], []⟩, blocks := []
        sampleCount := 0, endReason := .none, trailingMs := 0 }) ∧
    (blocksFitted .k128 = 112 ∧ blocksFitted .k256 = 240 ∧ blocksFitted .k512 = 496) ∧
    t.store.owners = List.replicate (blocksFitted k) .free ∧ t.store.free = List.range (blocksFitted k) ∧
    (Memory.wf s.store.mem = true → ∀ a, 0x1D00 ≤ a → Memory.get t.store.mem a = Memory.get s.store.mem a) ∧
    (∀ n : LineId, (List.range 60).map (fun i => Memory.word t.store.mem (0x500 + 256 * n.val + 2 * i)) =
      [0, 0, 3, 80, 80, 2, 45, 500, 500, 1000, 4000, 20, 0, 64, 20, 1000, 1, 0, 2, 65535, 1, 3, 3, 60, 1500, 14, 1, 8, 20, 3, 20, 5,
        3, 8, 128, 10, 6, 16, 50, 6, 1, 10, 0, 5, 16, 5, 60, 1, 1, 0, 1, 2, 1, 2, 2, 2, 2, 1, 3, 10]) ∧
    (∀ b, b < blocksFitted k → Memory.word t.store.mem (0xD00 + 2 * b) = 0) ∧
    (∀ a, a < 0x1D00 → Memory.get t.store.mem a = Memory.get [] a) ∧
    t.monitor = ⟨none, 0, 0, false, false⟩ ∧ t.inta = false ∧ t.intb = false ∧ t.pending = s.pending

/-- CTRL, WINA, WINB, STAT and ATTN written: IEA and IEB from bits 1 and 2 (12 section 12.2), the low 8 bits as the slice number, a STAT
write ignored (10 R167); an ATTN write, whatever its value, starts a sweep, or is held while one runs, or is discarded while the engine is
STARTING (10 R172). The pins (10 R178): INTA is asserted exactly when IEA is set and some event bit of the engine word or of a line word is
set, enabled by its mask and routed to A; INTB likewise for route B; STAT shows them as they stand; after engine reset IEA and IEB are 0,
and with these at 0 both pins are deasserted whatever events stand. A STAT read gives engine state, INTA, INTB and the GUARD flag in bits 0
to 3 (12 section 12.2) and clears the GUARD flag (10 R167); that its other bits read 0 is the model's choice (log 30). -/
def Obligations.PortRegistersAndPins : Prop :=
  (∀ (v : Word) (s : State),
     exec (.ctrlEnableWrite v) s = .next { s with port := { s.port with ieA := v.getLsbD 1, ieB := v.getLsbD 2 } } ∧
     exec (.winaWrite v) s = .next { s with port := { s.port with winA := v.setWidth 8 } } ∧
     exec (.winbWrite v) s = .next { s with port := { s.port with winB := v.setWidth 8 } } ∧
     exec (.statWrite v) s = .next s ∧
     (s.port.engineRunning = false → exec (.attnWrite v) s = .next s) ∧
     (s.port.engineRunning = true → s.sweep.running = false →
       exec (.attnWrite v) s = .next { s with sweep := { s.sweep with running := true } }) ∧
     (s.port.engineRunning = true → s.sweep.running = true →
       exec (.attnWrite v) s = .next { s with sweep := { s.sweep with held := true } })) ∧
  (∀ s : State,
    (s.inta = true ↔ s.port.ieA = true ∧ ∃ w i, (w = s.hdr.ev ∨ ∃ n, w = (s.line n).ev) ∧
      w.bits.getLsbD i = true ∧ w.mask.getLsbD i = true ∧ w.route.getLsbD i = false) ∧
    (s.intb = true ↔ s.port.ieB = true ∧ ∃ w i, (w = s.hdr.ev ∨ ∃ n, w = (s.line n).ev) ∧
      w.bits.getLsbD i = true ∧ w.mask.getLsbD i = true ∧ w.route.getLsbD i = true) ∧
    ∃ w : Word, exec .statRead s = .next { s with port := { s.port with readData := w, guardFlag := false } } ∧
      w.getLsbD 0 = s.port.engineRunning ∧ w.getLsbD 1 = s.inta ∧ w.getLsbD 2 = s.intb ∧ w.getLsbD 3 = s.port.guardFlag ∧
      ∀ i, 4 ≤ i → w.getLsbD i = false) ∧
  (∀ (k : StoreSize) (v : Word) (s : State), ∃ t, exec (.engineReset k) s = .next t ∧ exec (.ctrlReset v k) s = .next t ∧
    t.port.ieA = false ∧ t.port.ieB = false) ∧
  ∀ s : State, s.port.ieA = false → s.port.ieB = false → s.inta = false ∧ s.intb = false

/-- Every step keeps the law of recordings (08 R137): an entry is RECORDING exactly for the line whose recording it is, so that a line has
one recording and an entry one line. -/
def Obligations.EveryStepKeepsRecordingsInOrder : Prop :=
  ∀ s t : State, s.RecordingsInOrder → step s = .next t → t.RecordingsInOrder

/-- A host read at an even window offset (10 R168): half A reaches 2048 · WINA + w, half B 2048 · WINB + (w − 0x800), the word of the
store's two bytes there is given, 0xFFFF beyond the fitted store, and nothing else changes. What each byte of the engine's records reads (12
sections 12.1, 12.3, 12.4 and 12.6): each field at its offset, in its size, less significant byte first, and 0 where no field is named, in
the Engine Header, the Line Records, the cards, the Block Map beyond the block count, the Message Table, the Greeting Slots, the Delivered
Lists and their page numbers; the bytes held in the store itself as the engine and the host last wrote them, in the Line Profiles, the Block
Map below the block count, the host scratch and the blocks; and the codes of the fields (12.7). That the first block of a PLAY reads 65535
with no play in progress, and that the unused bytes 0x10E0 to 0x10FF read 0, is the model's reading (log 11); that the detail, policy and
Tick of a last fault of none read 0 is its choice (log 11), as are the bytes but kind, first block and page number of a Delivered List slot
beyond the last entry (log 40), and what the mirror of an EMPTY message entry reads beside its first block and counts, and that of a
RECORDING one at 0x12 and 0x14 (log 42). -/
def Obligations.HostReads : Prop :=
  (∀ (o : BitVec 12) (s : State), o.getLsbD 0 = false →
     s.windowAddr o = (if o.toNat < 0x800 then 2048 * s.port.winA.toNat + o.toNat
       else 2048 * s.port.winB.toNat + (o.toNat - 0x800)) ∧
     ∃ w : Word, exec (.hostStoreRead o) s = .next { s with port := { s.port with readData := w } } ∧
       w.toNat = if s.windowAddr o < 0x4000 + 1024 * s.store.owners.length then
         (s.byteAt (s.windowAddr o)).toNat + 256 * (s.byteAt (s.windowAddr o + 1)).toNat else 0xFFFF) ∧
  (∀ s : State,
    let read := fun (fields : List (Nat × Nat × Nat)) (o : Nat) =>
      match fields.find? fun f => decide (f.1 ≤ o ∧ o < f.1 + f.2.1) with
      | some f => BitVec.ofNat 8 (f.2.2 / 256 ^ (o - f.1))
      | none => 0
    let text := fun (bs : List Byte) => bs.foldr (fun b v => b.toNat + 256 * v) 0
    let number := fun {k : Nat} (o : Option (Fin k)) => match o with | some x => x.val | none => 255
    let flag := fun (b : Bool) => if b = true then 1 else 0
    let events := fun (w : EventWord) =>
      [(0x02, 2, w.bits.toNat), (0x04, 2, w.tally.toNat), (0x06, 2, w.mask.toNat), (0x08, 2, w.route.toNat), (0x0A, 2, w.ack.toNat)]
    let pump := fun (p : PumpId) => (s.pump p).state.code + 256 * number (s.pump p).line
    let header := (0x00, 2, s.hdr.changeCount.toNat) :: events s.hdr.ev ++
      [(0x0C, 2, s.hdr.hostPulse.toNat), (0x0E, 2, s.hdr.pulsePeriod.toNat), (0x10, 2, s.hdr.pulseMode.toNat),
        (0x12, 2, s.hdr.reserve.toNat), (0x14, 2, s.store.free.length), (0x16, 2, s.hdr.guardCount.toNat),
        (0x18, 2, s.hdr.mapRepairCount.toNat), (0x1A, 2, s.store.owners.length), (0x1C, 4, s.hdr.tick.toNat),
        (0x20, 4, s.hdr.dayClock.toNat), (0x24, 4, s.hdr.sweepCount.toNat), (0x28, 2, pump 0), (0x2A, 2, pump 1),
        (0x2C, 2, pump 2), (0x2E, 2, s.hdr.nextMessage)]
    let record := fun (l : Line) => (0x00, 2, l.changeCount.toNat) :: events l.ev ++
      [(0x0C, 1, l.call.state.code), (0x0D, 1, l.call.service.code), (0x0E, 1, l.call.direction.code),
        (0x0F, 1, number l.call.pump), (0x10, 4, l.call.tRing.toNat), (0x14, 4, l.call.tOffhook.toNat),
        (0x18, 4, l.call.tConnect.toNat), (0x1C, 4, l.call.tClear.toNat), (0x20, 4, l.call.dayConnect.toNat),
        (0x24, 2, l.call.ringCount), (0x26, 1, l.call.lastOutcome.code), (0x27, 1, (l.fm.latch.map FaultKind.code).getD 0),
        (0x28, 1, flag l.call.disablePending), (0x29, 1, l.call.caller.state.code), (0x2A, 1, l.call.caller.number.length),
        (0x2B, 1, l.call.caller.name.length), (0x2C, 16, text l.call.caller.number), (0x3C, 15, text l.call.caller.name),
        (0x4B, 8, text l.call.caller.dateTime), (0x53, 1, l.delivered.length)] ++
      [(0x54, 2, l.grade.acc), (0x56, 1, (l.grade.acc + 8) / 16), (0x57, 1, l.grade.lastQ), (0x58, 1, l.grade.rung),
        (0x59, 1, l.grade.ceiling), (0x5A, 1, l.grade.floor), (0x5B, 1, l.grade.upCount), (0x5C, 1, l.grade.downCount),
        (0x5D, 1, l.grade.retrainCount), (0x5E, 2, l.grade.collapseCount)] ++
      [(0x60, 1, l.link.state.code), (0x61, 1, l.link.window), (0x62, 2, l.link.infoLength), (0x64, 1, l.link.nextSend.toNat),
        (0x65, 1, l.link.expected.toNat), (0x66, 1, l.link.sendWindow.length), (0x67, 1, l.link.sendList.length),
        (0x68, 1, flag l.link.held), (0x69, 1, flag l.link.critical), (0x6A, 2, l.link.counters.sent.toNat),
        (0x6C, 2, l.link.counters.resent.toNat), (0x6E, 2, l.link.counters.rejects.toNat),
        (0x70, 2, l.link.counters.received.toNat), (0x72, 2, l.link.counters.bad.toNat), (0x74, 2, l.link.counters.holds.toNat)] ++
      [(0x76, 1, l.fax.role.code), (0x77, 1, l.fax.phase.code), (0x78, 1, l.fax.rung), (0x79, 1, flag l.fax.fine),
        (0x7A, 1, l.fax.rowTime), (0x7B, 1, l.fax.width), (0x7C, 1, l.fax.lastVerdict.code), (0x7D, 1, l.fax.failDetail.code),
        (0x7E, 2, l.fax.pageCount), (0x80, 2, l.fax.pagesDiscarded), (0x82, 2, l.fax.lastRows), (0x84, 2, l.fax.lastBadRows),
        (0x86, 1, l.fax.pages.length)] ++
      [(0x88, 1, match l.voice.play with | .none => 0 | .slot _ => 1 | .chain _ => 2), (0x89, 1, number l.voice.recording),
        (0x8A, 2, match l.voice.play with | .none => 65535 | .slot g => g.val | .chain b => b),
        (0x8C, 4, l.voice.samplesPlayed), (0x90, 2, l.voice.lastMessage), (0x92, 1, l.voice.lastEnd.code),
        (0x93, 1, l.voice.digits.length), (0x94, 2, l.voice.overflow)] ++
      [(0x96, 1, l.fm.retryCount), (0x97, 1, (l.fm.last.map fun f => f.kind.code).getD 0),
        (0x98, 1, (l.fm.last.map fun f => f.detail.code).getD 0), (0x99, 1, (l.fm.last.map fun f => f.policy.code).getD 0),
        (0x9A, 4, (l.fm.last.map fun f => f.tick.toNat).getD 0)]
    let message := fun (m : Message) =>
      [(0x00, 2, m.changeCount.toNat), (0x02, 1, m.state.code), (0x03, 1, m.line.val), (0x04, 2, m.number),
        (0x06, 4, m.dayClock.toNat), (0x0A, 2, m.blocks.head?.getD 65535), (0x0C, 2, m.blocks.length), (0x0E, 4, m.sampleCount),
        (0x12, 1, m.endReason.code), (0x13, 1, m.caller.state.code), (0x14, 2, m.trailingMs), (0x16, 1, m.caller.number.length),
        (0x17, 1, m.caller.name.length), (0x18, 16, text m.caller.number), (0x28, 15, text m.caller.name),
        (0x37, 8, text m.caller.dateTime)]
    let slot := fun (g : Slot) =>
      [(0x00, 1, g.state.code), (0x01, 1, g.playCount), (0x02, 2, (g.chain.head?.map Prod.fst).getD 65535),
        (0x04, 2, g.chain.length), (0x06, 4, g.sampleCount)]
    let entry := fun (x : Option Entry) =>
      match x with
      | none => [(0x02, 2, 65535)]
      | some e =>
        [(0x00, 1, match e.kind with | .data => 1 | .page => 2),
          (0x01, 1, match e.closed, e.kind with | false, _ => 0 | true, .data => 1 | true, .page => e.verdict.code + 1),
          (0x02, 2, e.first), (0x04, 2, e.blockCount), (0x06, 2, e.outstanding.length), (0x08, 2, e.count), (0x0A, 2, e.badRows)]
    (∀ o, o < 128 → s.byteAt o = read header o) ∧
    (∀ (n : LineId) (o : Nat), o < 256 → s.byteAt (0x100 + 256 * n.val + o) = read (record (s.line n)) o) ∧
    (∀ (T : TableId) (i o : Nat), i < (match T with | .line _ => 8 | .engine => 4) → o < 32 →
      s.byteAt ((match T with | .line n => 0x900 + 256 * n.val | .engine => 0x80) + 32 * i + o) =
        if o < 2 then BitVec.ofNat 8 ((s.card T i).hand.code / 256 ^ o) else ((s.card T i).body[o - 2]?).getD 0) ∧
    (∀ b, s.store.owners.length ≤ b → b < 496 → s.byteAt (0xD00 + 2 * b) = 8 ∧ s.byteAt (0xD00 + 2 * b + 1) = 0) ∧
    (∀ b k, b < s.store.owners.length → b < 496 → k < 2 →
      s.byteAt (0xD00 + 2 * b + k) = Memory.get s.store.mem (0xD00 + 2 * b + k)) ∧
    (∀ a, s.store.owners.length ≤ 496 → 0x10E0 ≤ a → a < 0x1100 → s.byteAt a = 0) ∧
    (∀ a, 0x500 ≤ a → a < 0x900 → s.byteAt a = Memory.get s.store.mem a) ∧
    (∀ a, 0x1D00 ≤ a → s.byteAt a = Memory.get s.store.mem a) ∧
    (∀ (m : EntryId) (o : Nat), o < 64 → s.byteAt (0x1100 + 64 * m.val + o) = read (message (s.message m)) o) ∧
    (∀ (g : SlotId) (o : Nat), o < 16 → s.byteAt (0x1900 + 16 * g.val + o) = read (slot (s.slot g)) o) ∧
    (∀ (n : LineId) (i o : Nat), i < 16 → o < 12 →
      s.byteAt (0x1980 + 192 * n.val + 12 * i + o) = read (entry (s.line n).delivered[i]?) o) ∧
    ∀ (n : LineId) (i o : Nat), i < 16 → o < 2 →
      s.byteAt (0x1C80 + 32 * n.val + 2 * i + o) =
        BitVec.ofNat 8 ((((s.line n).delivered[i]?).map Entry.pageNumber).getD 0 / 256 ^ o)) ∧
  [LineState.off, .idle, .alerting, .queued, .seized, .dialling, .progress, .answering, .training, .connected, .retraining, .clearing,
    .holdoff, .fault].map LineState.code = List.range 14 ∧
  [Service.none, .data, .fax, .voice].map Service.code = List.range 4 ∧ [Direction.originate, .answer].map Direction.code = [0, 1] ∧
  ([CallOutcome.none, .connectedData, .connectedFax, .connectedVoice, .busy, .noAnswer, .missed, .cutByRing, .localCleared,
    .remoteCleared, .hostSilent].map CallOutcome.code = List.range 11 ∧ ∀ k, (CallOutcome.fault k).code = 11) ∧
  [FaultKind.noDialTone, .lineAbsent, .noPump, .pumpLost, .trainFailed, .carrierLost, .retrainExhausted, .linkExhausted,
    .gradeCollapse, .faxFailed].map FaultKind.code = List.range' 32 10 ∧
  [CallerState.absent, .present, .withheld, .damaged].map CallerState.code = List.range 4 ∧
  [EndReason.none, .silence, .maxLength, .storeFull, .digit, .stopped, .remote, .cleared, .tableFull].map EndReason.code =
    List.range 9 ∧
  [Verdict.none, .good, .goodRetrain, .bad, .incomplete].map Verdict.code = List.range 5 ∧
  [LinkState.none, .opening, .up, .farClosed, .closed].map LinkState.code = List.range 5 ∧
  [FaxRole.none, .sender, .receiver].map FaxRole.code = List.range 3 ∧
  [FaxPhase.none, .offer, .choice, .check, .page, .post, .release].map FaxPhase.code = List.range 7 ∧
  [FailDetail.none, .training, .noReply].map FailDetail.code = List.range 3 ∧
  [Policy.latch, .retry, .report, .silent].map Policy.code = List.range 4 ∧
  [PumpState.free, .settling, .attached, .out].map PumpState.code = List.range 4 ∧
  [Hand.free, .posted, .taken, .answered].map Hand.code = List.range 4 ∧
  [MessageState.empty, .recording, .complete].map MessageState.code = List.range 3 ∧
  [SlotState.empty, .loaded, .withdrawing].map SlotState.code = List.range 3

/-- A tick (10 R175, R172, 11 R187): none while the engine is STARTING; in RUNNING the Tick rises by 1, the Day Clock at every hundredth
tick after its last setting, a sweep is requested, a stopped monitor that finds a period starts, and nothing else changes. The host pulse
monitor (11 R187, R188). A Pulse Period word names 1, 2, 5 or 10 s, any other the next above, 0 none. At a period's end Host Pulse is
compared with the sample and sampled again: a change ends a silence with HOST_BACK, the third period in a row without one declares silence
with HOST_SILENT, and in pulse mode 1 suspends auto-answer, clears every call off hook or QUEUED with HOST_SILENT, abandons every retry
pending and takes a line in HOLDOFF to IDLE; at a stop of the monitor a silence ends. -/
def Obligations.TickAndHostPulseMonitor : Prop :=
  (∀ s : State,
     (s.port.engineRunning = false → exec .tick s = .next s) ∧
     (s.port.engineRunning = true → ∃ t, exec .tick s = .next t ∧
       t.uncounted =
         { s with
           hdr :=
             { s.hdr with
               tick := s.hdr.tick + 1
               dayTicks := if 99 ≤ s.hdr.dayTicks then 0 else s.hdr.dayTicks + 1
               dayClock := if 99 ≤ s.hdr.dayTicks then s.hdr.dayClock + 1 else s.hdr.dayClock }
           sweep := if s.sweep.running then { s.sweep with held := true } else { s.sweep with running := true }
           monitor :=
             if s.monitor.period = none ∧ s.hdr.pulsePeriod ≠ 0 then
               { s.monitor with period := periodOf s.hdr.pulsePeriod, sample := s.hdr.hostPulse, unchanged := 0 }
             else s.monitor }.uncounted)) ∧
  (∀ w : Word, periodOf w = if w.toNat = 0 then none else if w.toNat = 1 then some 1 else if w.toNat = 2 then some 2
    else if w.toNat ≤ 5 then some 5 else some 10) ∧
  ∀ (order : List LineId) (s : State),
    let m := s.monitor
    let p := periodOf s.hdr.pulsePeriod
    let back := { s.hdr with ev := { s.hdr.ev with bits := s.hdr.ev.bits ||| 0x0080, tally := s.hdr.ev.tally + 1 } }
    let silent := { s.hdr with ev := { s.hdr.ev with bits := s.hdr.ev.bits ||| 0x0040, tally := s.hdr.ev.tally + 1 } }
    (m.period = none → Leads (.pulsePeriodEnd order) s s) ∧
    (m.period ≠ none →
      (s.hdr.hostPulse ≠ m.sample → Leads (.pulsePeriodEnd order) s
        { s with
          hdr := if m.silent then back else s.hdr
          monitor := ⟨p, s.hdr.hostPulse, 0, false, m.suspended && !m.silent⟩ }) ∧
      (s.hdr.hostPulse = m.sample → m.unchanged + 1 < 3 ∨ m.silent = true → Leads (.pulsePeriodEnd order) s
        { s with
          hdr := if m.silent && p.isNone then back else s.hdr
          monitor :=
            ⟨p, m.sample, min 3 (m.unchanged + 1), m.silent && p.isSome, m.suspended && !(m.silent && p.isNone)⟩ }) ∧
      (s.hdr.hostPulse = m.sample → 2 ≤ m.unchanged → m.silent = false → p ≠ none → s.hdr.pulseMode ≠ 1 →
        Leads (.pulsePeriodEnd order) s { s with hdr := silent, monitor := ⟨p, m.sample, 3, true, m.suspended⟩ }) ∧
      (s.hdr.hostPulse = m.sample → 2 ≤ m.unchanged → m.silent = false → p ≠ none → s.hdr.pulseMode = 1 →
        ∃ t, exec (.pulsePeriodEnd order) s = .next t ∧ t.monitor = ⟨p, m.sample, 3, true, true⟩ ∧
          t.hdr.ev.bits.getLsbD 6 = true ∧ t.port = s.port ∧ t.sweep = s.sweep ∧
          ∀ n,
            ((s.line n).call.state.offHook = true ∨ (s.line n).call.state = .queued →
              (t.line n).call.state = .clearing ∧ (t.line n).call.lastOutcome = .hostSilent) ∧
            ((s.line n).call.state = .holdoff → (t.line n).call.state = .idle ∧
              (t.line n).call.lastOutcome = .hostSilent ∧ (t.line n).fm.retryPending = false) ∧
            ((s.line n).call.state = .clearing → (t.line n).call.state = .clearing ∧
              (t.line n).fm.retryPending = false) ∧
            ((s.line n).call.state = .holdoff ∨ (s.line n).call.state = .clearing → (s.line n).fm.retryPending = true →
              State.RetryAbandoned n .hostSilent [] s t) ∧
            ((s.line n).call.state = .idle ∨ (s.line n).call.state = .off ∨ (s.line n).call.state = .alerting ∨
              (s.line n).call.state = .fault → (t.line n).call = (s.line n).call)))

/-- Host writes that the guard drops (10 R169): engine fields of the header and of a Line Record, the Block Map at or beyond the block
count, the Message Table, greeting slots and Delivered Lists, and every block whose internal owner is not HOST, fitted or not. A dropped
write is counted, sets the GUARD flag and raises GUARD; that the Change Count of the header rises by exactly 2 for it is the model's choice
(log 10). Host writes of plain bytes that the guard honours (10 R169): the named words of a Line Profile, the Block Map below the block
count, host scratch, a block whose internal owner is HOST. The two bytes there become the word's, every other byte reads as before, and
nothing else changes. Host writes to the host's own words (10 R169): mask, route word and acknowledge word of the engine and of a line, Host
Pulse, Pulse Period, Pulse Mode and Reserve take the value, and nothing else changes. Host writes to a card (10 R169, R171): a hand word
FREE takes POSTED and FREE, POSTED and ANSWERED take FREE, the body of a FREE card takes the word; every other write is dropped. Where the
write is honoured nothing but the card changes. That the Change Count of the header rises by exactly 2 for a dropped write is the model's
choice (log 10). -/
def Obligations.WriteGuard : Prop :=
  (∀ (o : BitVec 12) (v : Word) (s : State), o.getLsbD 0 = false →
     ((s.windowAddr o < 0x80 ∧ s.windowAddr o ∉ [0x06, 0x08, 0x0A, 0x0C, 0x0E, 0x10, 0x12]) ∨
       (0x100 ≤ s.windowAddr o ∧ s.windowAddr o < 0x500 ∧ s.windowAddr o % 256 ∉ [0x06, 0x08, 0x0A]) ∨
       (0xD00 ≤ s.windowAddr o ∧ 0xD00 + 2 * s.store.owners.length ≤ s.windowAddr o ∧ s.windowAddr o < 0x1D00) ∨
       (0x1100 ≤ s.windowAddr o ∧ s.windowAddr o < 0x1D00) ∨
       (0x4000 ≤ s.windowAddr o ∧ s.store.owners[(s.windowAddr o - 0x4000) / 1024]? ≠ some .host)) →
     exec (.hostStoreWrite o v) s = .next s.dropped) ∧
  (∀ (o : BitVec 12) (v : Word) (s : State), o.getLsbD 0 = false →
     ((0x500 ≤ s.windowAddr o ∧ s.windowAddr o < 0x900 ∧ s.windowAddr o % 256 < 0x78) ∨
       (0xD00 ≤ s.windowAddr o ∧ s.windowAddr o < 0xD00 + 2 * s.store.owners.length ∧ s.windowAddr o < 0x1100) ∨
       (0x1D00 ≤ s.windowAddr o ∧ s.windowAddr o < 0x4000) ∨
       (0x4000 ≤ s.windowAddr o ∧ s.store.owners[(s.windowAddr o - 0x4000) / 1024]? = some .host)) →
     ∃ m, exec (.hostStoreWrite o v) s = .next { s with store := { s.store with mem := m } } ∧
       (Memory.wf s.store.mem = true → ∀ a, Memory.get m a =
         if a = s.windowAddr o then v.setWidth 8
         else if a = s.windowAddr o + 1 then (v >>> 8).setWidth 8
         else Memory.get s.store.mem a)) ∧
  (∀ (o : BitVec 12) (v : Word) (s : State),
     (s.windowAddr o = 0x06 → o.getLsbD 0 = false → exec (.hostStoreWrite o v) s =
       .next { s with hdr := { s.hdr with ev := { s.hdr.ev with mask := v } } }) ∧
     (s.windowAddr o = 0x08 → o.getLsbD 0 = false → exec (.hostStoreWrite o v) s =
       .next { s with hdr := { s.hdr with ev := { s.hdr.ev with route := v } } }) ∧
     (s.windowAddr o = 0x0A → o.getLsbD 0 = false → exec (.hostStoreWrite o v) s =
       .next { s with hdr := { s.hdr with ev := { s.hdr.ev with ack := v } } }) ∧
     (s.windowAddr o = 0x0C → o.getLsbD 0 = false → exec (.hostStoreWrite o v) s =
       .next { s with hdr := { s.hdr with hostPulse := v } }) ∧
     (s.windowAddr o = 0x0E → o.getLsbD 0 = false → exec (.hostStoreWrite o v) s =
       .next { s with hdr := { s.hdr with pulsePeriod := v } }) ∧
     (s.windowAddr o = 0x10 → o.getLsbD 0 = false → exec (.hostStoreWrite o v) s =
       .next { s with hdr := { s.hdr with pulseMode := v } }) ∧
     (s.windowAddr o = 0x12 → o.getLsbD 0 = false → exec (.hostStoreWrite o v) s =
       .next { s with hdr := { s.hdr with reserve := v } }) ∧
     ∀ n : LineId,
       (s.windowAddr o = 0x106 + 256 * n.val → o.getLsbD 0 = false → exec (.hostStoreWrite o v) s =
         .next (s.onLine n fun l => { l with ev := { l.ev with mask := v } })) ∧
       (s.windowAddr o = 0x108 + 256 * n.val → o.getLsbD 0 = false → exec (.hostStoreWrite o v) s =
         .next (s.onLine n fun l => { l with ev := { l.ev with route := v } })) ∧
       (s.windowAddr o = 0x10A + 256 * n.val → o.getLsbD 0 = false → exec (.hostStoreWrite o v) s =
         .next (s.onLine n fun l => { l with ev := { l.ev with ack := v } }))) ∧
  ∀ (T : TableId) (i : Nat) (o : BitVec 12) (v : Word) (s : State), o.getLsbD 0 = false →
    i < (match T with | .line _ => 8 | .engine => 4) →
    let a := match T with | .line n => 0x900 + 256 * n.val + 32 * i | .engine => 0x80 + 32 * i
    let c := s.card T i
    (s.windowAddr o = a →
      (c.hand = .free → v = 1 → exec (.hostStoreWrite o v) s = .next (s.setCard T i { c with hand := .posted })) ∧
      (c.hand = .free → v = 0 → exec (.hostStoreWrite o v) s = .next (s.setCard T i { c with hand := .free })) ∧
      (c.hand = .posted ∨ c.hand = .answered → v = 0 →
        exec (.hostStoreWrite o v) s = .next (s.setCard T i { c with hand := .free })) ∧
      (c.hand = .taken ∨ (c.hand = .free ∧ v ≠ 0 ∧ v ≠ 1) ∨ ((c.hand = .posted ∨ c.hand = .answered) ∧ v ≠ 0) →
        exec (.hostStoreWrite o v) s = .next s.dropped)) ∧
    ∀ k, 2 ≤ k → k < 32 → s.windowAddr o = a + k →
      (c.hand = .free → exec (.hostStoreWrite o v) s =
        .next (s.setCard T i
          { c with body := (c.body.set (k - 2) (v.setWidth 8)).set (k - 1) ((v >>> 8).setWidth 8) })) ∧
      (c.hand ≠ .free → exec (.hostStoreWrite o v) s = .next s.dropped)

/-- SWEEP (10 R172): with a sweep running in RUNNING, a plan that ends it passes what is left, the Sweep Count rises by 1, a held request
starts the next, the lists of cards taken are forgotten, and the port and the Tick stay; a plan that does not end it leaves it running, its
count and a held request as they were; otherwise the command finds no sweep and changes nothing. Units passed in one command are passed as
in two, the sweep running between them (log 9). A record's acknowledge word is processed once in a sweep, a value the host writes after that
staying for the next (R177). A sweep that finds no POSTED card, every map entry as the internal owner and no line receive-critical does
one thing but end: each of the five event words loses the bits set in its acknowledge word, the acknowledge word becomes 0 and the tally
stays (10 R172, R177; 09 R162). -/
def Obligations.SweepEndsAndAcknowledges : Prop :=
  (∀ (v : Volts) (plan : SweepPlan) (s : State),
     (s.port.engineRunning = false ∨ s.sweep.running = false → exec (.sweep v plan) s = .next s) ∧
     (s.port.engineRunning = true → s.sweep.running = true → ∃ t, exec (.sweep v plan) s = .next t ∧
       t.port = s.port ∧ t.hdr.tick = s.hdr.tick ∧
       (plan.ends = true → t.hdr.sweepCount = s.hdr.sweepCount + 1 ∧ t.sweep = ⟨s.sweep.held, false, [], 0, false⟩ ∧
         ∀ T, (t.table T).listed = .reading []) ∧
       (plan.ends = false → t.hdr.sweepCount = s.hdr.sweepCount ∧ t.sweep.running = true ∧ t.sweep.held = s.sweep.held))) ∧
  (∀ (v : Volts) (first rest : List SweepUnit) (ends : Bool) (s u : State), exec (.sweep v ⟨first, false⟩) s = .next u →
    exec (.sweep v ⟨first ++ rest, ends⟩) s = exec (.sweep v ⟨rest, ends⟩) u) ∧
  (∀ (v : Volts) (T : TableId) (s : State), s.port.engineRunning = true → s.sweep.running = true →
    (T ∈ s.sweep.acked → exec (.sweep v ⟨[.ack T], false⟩) s = .next s) ∧
    (T ∉ s.sweep.acked → ∃ t, exec (.sweep v ⟨[.ack T], false⟩) s = .next t ∧
      let u : State := { s with sweep := { s.sweep with acked := T :: s.sweep.acked } }
      t.uncounted = State.uncounted (match T with
        | .line n => u.onLine n fun l => { l with ev := l.ev.acknowledge }
        | .engine => { u with hdr := { s.hdr with ev := s.hdr.ev.acknowledge } }))) ∧
  ∀ (v : Volts) (s : State), s.port.engineRunning = true → s.sweep.running = true → s.sweep.acked = [] → s.sweep.returned = false →
    (∀ T, (s.table T).listed = .reading [] ∧ ∀ i, (s.card T i).hand ≠ .posted) →
    (∀ b o, s.store.owners[b]? = some o → Memory.word s.store.mem (mapAddr b) = o.word) →
    (∀ n, (s.line n).link.critical = false) →
    ∃ t, exec (.sweep v ⟨[], true⟩) s = .next t ∧
      t.uncounted = State.uncounted
        { s with
          hdr :=
            { s.hdr with
              ev := s.hdr.ev.acknowledge
              sweepCount := s.hdr.sweepCount + 1 }
          sweep := ⟨s.sweep.held, false, [], 0, false⟩
          lines := s.lines.map fun l => { l with ev := l.ev.acknowledge } } ∧
      ∀ w : EventWord, w.acknowledge = ⟨w.bits &&& ~~~w.ack, w.tally, w.mask, w.route, 0⟩

/-- The return sweep (09 R162), no card being POSTED, no order waiting, no line receive-critical and one entry of the Block Map that is still to be visited
differing from the internal owner: where that owner is HOST and the entry's low byte is 255 (RETURNED), the block goes to FREE on top of
the stack with its entry 0. Where the owner is DELIV for a line, RETURNED does the same, the block leaves the outstanding blocks of the
line's Delivered List, and closed entries of which none is outstanding leave the list, the other lines' lists being as they were (09 R166).
An entry that is not RETURNED, or is RETURNED for a block of any other owner, is rewritten from the internal owner, the Map Repair Count
rises by 1 and MAP_REPAIR (bit 3) is raised. The entries are visited one by one, in ascending order: one visit leaves every other entry and
owner as it was, and an entry that the host writes after its visit is left for the next sweep (09 R163). That a sweep runs on between two
visits of it is the model's way (log 9). -/
def Obligations.ReturnSweepJudgesTheBlockMap : Prop :=
  (∀ (v : Volts) (s : State) (b : Nat) (o : Owner), s.port.engineRunning = true → s.sweep.running = true → s.sweep.acked = [] →
    s.sweep.returned = false → s.sweep.visited ≤ b → Memory.wf s.store.mem = true →
    (∀ T, (s.table T).waiting = [] ∧ ∀ i, (s.card T i).hand ≠ .posted) → (∀ n, (s.line n).link.critical = false) →
    s.store.owners[b]? = some o → b < 496 → (∀ c p, s.sweep.visited ≤ c → c ≠ b → s.store.owners[c]? = some p →
      Memory.word s.store.mem (mapAddr c) = p.word) →
    (o = .host → Memory.word s.store.mem (mapAddr b) % 256 = 255 → ∃ t, exec (.sweep v ⟨[], true⟩) s = .next t ∧
      t.store.owners = s.store.owners.set b .free ∧ t.store.free = b :: s.store.free ∧
      Memory.word t.store.mem (mapAddr b) = 0 ∧ t.hdr.mapRepairCount = s.hdr.mapRepairCount) ∧
    (∀ n, o = .deliv n → Memory.word s.store.mem (mapAddr b) % 256 = 255 → ∃ t, exec (.sweep v ⟨[], true⟩) s = .next t ∧
      t.store.owners = s.store.owners.set b .free ∧ t.store.free = b :: s.store.free ∧
      Memory.word t.store.mem (mapAddr b) = 0 ∧ t.hdr.mapRepairCount = s.hdr.mapRepairCount ∧
      (t.line n).delivered = ((s.line n).delivered.map fun e => { e with outstanding := e.outstanding.filter (· != b) }).filter
        (fun e => !(e.closed && e.outstanding.isEmpty)) ∧
      ∀ m, m ≠ n → (t.line m).delivered = (s.line m).delivered) ∧
    (Memory.word s.store.mem (mapAddr b) % 256 ≠ 255 ∨ (o ≠ .host ∧ ∀ n, o ≠ .deliv n) →
      Memory.word s.store.mem (mapAddr b) ≠ o.word →
      ∃ t, exec (.sweep v ⟨[], true⟩) s = .next t ∧ t.store.owners = s.store.owners ∧ t.store.free = s.store.free ∧
      Memory.word t.store.mem (mapAddr b) = o.word ∧ t.hdr.mapRepairCount = s.hdr.mapRepairCount + 1 ∧
      t.hdr.ev.bits.getLsbD 3 = true)) ∧
  (∀ (v : Volts) (s : State), s.port.engineRunning = true → s.sweep.running = true → Memory.wf s.store.mem = true →
    (s.store.blockCount ≤ s.sweep.visited → exec (.sweep v ⟨[.visit], false⟩) s = .next s) ∧
    (s.sweep.visited < s.store.blockCount → ∃ t, exec (.sweep v ⟨[.visit], false⟩) s = .next t ∧
      t.sweep = { s.sweep with visited := s.sweep.visited + 1 } ∧
      ∀ c, c ≠ s.sweep.visited → t.store.owners[c]? = s.store.owners[c]? ∧
        Memory.word t.store.mem (mapAddr c) = Memory.word s.store.mem (mapAddr c))) ∧
  ∀ (v : Volts) (s : State), s.port.engineRunning = true → s.sweep.running = true →
    (∀ T, (s.table T).waiting = [] ∧ ∀ i, (s.card T i).hand ≠ .posted) →
    (∀ c p, s.sweep.visited ≤ c → s.store.owners[c]? = some p → Memory.word s.store.mem (mapAddr c) = p.word) →
    ∃ t, exec (.sweep v ⟨[], true⟩) s = .next t ∧ t.store = s.store ∧ t.hdr.mapRepairCount = s.hdr.mapRepairCount

/-- The order of taking (10 R173). For a table's list the hand word of each card is read, and the post number of each found POSTED. The
distance of a card is its post number less the last-taken number modulo 65536, 0 counted as 65536; the list holds the cards found POSTED,
each once, by distance and then by index. A SWEEP may read one hand word or post number, each once and before the list is made; what it
has read counts as read, whatever the host writes after, and the rest is read when the list is made. The taking of a card, the first of
the list and found POSTED at its step, writes TAKEN, sets the last-taken number to its post number as it then stands, leaves the cards
behind it listed and puts its order behind those that wait. A card found FREE at its step leaves the list and nothing else changes. Once a
list is made no write to a card changes it, and a card neither on it nor waiting is not taken in this sweep. While an order waits its card
is TAKEN: the host's FREE is dropped (R171) and the order goes ahead. The order that comes next is the first of those that wait, or, where
none waits, that of the first card listed, then taken with it. An order's row that does not come to its card changes nothing. A SWEEP
whose plan begins with the making of a list, or with the taking of a table's card, does that and goes on; one that begins with a table's
card carries its order out as the order's row does, with the line's voltage from its operand, or passes it by, and goes on; one that ends
the sweep with an empty plan begins with all cards of all tables. That rows and a SWEEP in parts pass one piece of a sweep, that hand
words and post numbers are read in any order, that a list not made is made with the first step of its cards, that orders wait in the order
of their taking, and that one may be carried out with its taking, is the model's way (log 9). -/
def Obligations.OrderOfTaking : Prop :=
  (∀ (T : TableId) (s : State),
    let tb := s.table T
    let read : Nat → Option CardRead := fun i =>
      match tb.listed with | .reading reads => reads.find? fun r => r.card == i | .made _ _ => none
    let found := fun i => match read i with | some r => r.posted = true | none => (s.card T i).hand = .posted
    let post := fun i => match (read i).bind CardRead.number with | some v => v.toNat | none => (s.card T i).word 2
    let distance := fun i =>
      if (post i + 65536 - tb.lastTaken.toNat) % 65536 = 0 then 65536 else (post i + 65536 - tb.lastTaken.toNat) % 65536
    (∀ i, tb.distance i = distance i) ∧
    (∀ i, i ∈ tb.posted ↔ i < tb.cards.length ∧ found i) ∧ tb.posted.Nodup ∧
    tb.posted.Pairwise (fun i j => distance i < distance j ∨ distance i = distance j ∧ i < j) ∧
    tb.listing = (match tb.listed with | .made _ cards => cards | .reading _ => tb.posted) ∧
    tb.waiting = (match tb.listed with | .made waiting _ => waiting | .reading _ => []) ∧
    ∀ i : Nat,
      (∀ codes, s.takesCard T i codes = true ↔
        s.port.engineRunning = true ∧ s.sweep.running = true ∧ codes ((s.card T i).byte 4) = true ∧
        ((∃ rest, tb.waiting = i :: rest) ∧ (s.card T i).hand = .taken ∨
          tb.waiting = [] ∧ (∃ after, tb.listing = i :: after) ∧ (s.card T i).hand = .posted)) ∧
      (∀ rest, tb.waiting = i :: rest →
        s.taking T i = s.onTable T fun _ => { tb with listed := .made rest tb.listing }) ∧
      ∀ after, tb.waiting = [] → tb.listing = i :: after → s.taking T i = s.onTable T fun _ =>
        ⟨tb.cards.set i ⟨.taken, (s.card T i).body⟩, BitVec.ofNat 16 ((s.card T i).word 2), .made [] after⟩) ∧
  (∀ (T : TableId) (i : Fin 8) (v : Volts) (units : List SweepUnit) (ends : Bool) (s : State), s.port.engineRunning = true →
    s.sweep.running = true →
    let tb := s.table T
    let goesOn := fun (listed : CardList) => exec (.sweep v ⟨units, ends⟩) (s.onTable T fun tb => { tb with listed := listed })
    (∀ reads, tb.listed = .reading reads →
      (i.val < tb.cards.length → (∀ r ∈ reads, r.card ≠ i.val) →
        exec (.sweep v ⟨.hand T i :: units, ends⟩) s =
          goesOn (.reading (⟨i.val, decide ((s.card T i.val).hand = .posted), none⟩ :: reads))) ∧
      (tb.cards.length ≤ i.val ∨ (∃ r ∈ reads, r.card = i.val) →
        exec (.sweep v ⟨.hand T i :: units, ends⟩) s = exec (.sweep v ⟨units, ends⟩) s) ∧
      exec (.sweep v ⟨.number T i :: units, ends⟩) s =
        goesOn (.reading (reads.map fun r =>
          if r.card = i.val ∧ r.posted = true ∧ r.number = none then
            { r with number := some (BitVec.ofNat 16 ((s.card T i.val).word 2)) }
          else r))) ∧
    (∀ waiting cards, tb.listed = .made waiting cards →
      exec (.sweep v ⟨.hand T i :: units, ends⟩) s = exec (.sweep v ⟨units, ends⟩) s ∧
      exec (.sweep v ⟨.number T i :: units, ends⟩) s = exec (.sweep v ⟨units, ends⟩) s) ∧
    exec (.sweep v ⟨.list T :: units, ends⟩) s = goesOn (.made tb.waiting tb.listing) ∧
    (tb.listing = [] → exec (.sweep v ⟨.take T :: units, ends⟩) s = goesOn (.made tb.waiting []) ∧
      (tb.waiting = [] → exec (.sweep v ⟨.card T :: units, ends⟩) s = goesOn (.made [] []))) ∧
    ∀ j after, tb.listing = j :: after →
      ((s.card T j).hand = .posted → exec (.sweep v ⟨.take T :: units, ends⟩) s =
        exec (.sweep v ⟨units, ends⟩) (s.onTable T fun _ =>
          ⟨tb.cards.set j ⟨.taken, (s.card T j).body⟩, BitVec.ofNat 16 ((s.card T j).word 2), .made (tb.waiting ++ [j]) after⟩)) ∧
      ((s.card T j).hand ≠ .posted → exec (.sweep v ⟨.take T :: units, ends⟩) s = goesOn (.made tb.waiting after) ∧
        (tb.waiting = [] → exec (.sweep v ⟨.card T :: units, ends⟩) s = goesOn (.made [] after)))) ∧
  (∀ (T : TableId) (s : State), (∀ j c, ((s.setCard T j c).table T).listed = (s.table T).listed) ∧
    (∀ waiting cards i codes, (s.table T).listed = .made waiting cards → i ∉ waiting ++ cards → s.takesCard T i codes = false) ∧
    (∀ (i : Nat) (o : BitVec 12), i ∈ (s.table T).waiting → (s.card T i).hand = .taken →
      i < (match T with | .line _ => 8 | .engine => 4) → o.getLsbD 0 = false →
      s.windowAddr o = (match T with | .line n => 0x900 + 256 * n.val + 32 * i | .engine => 0x80 + 32 * i) →
      exec (.hostStoreWrite o 0) s = .next s.dropped) ∧
    ∀ i codes, s.dropped.takesCard T i codes = s.takesCard T i codes ∧ s.dropped.taking T i = (s.taking T i).dropped) ∧
  (∀ (n : LineId) (i : Fin 8) (volt : Bool) (s : State),
    (∀ x ∈ [(Instr.enable n i, 1), (.disable n i, 2), (.dial n i volt, 3), (.answer n i volt, 4), (.hangup n i, 5), (.send n i, 6),
        (.faxPages n i, 7), (.play n i, 8), (.record n i, 9), (.stop n i, 10), (.takeDigits n i, 11), (.clearFault n i, 12),
        (.clearRetryCount n i, 13)],
      (s.takesCard (.line n) i.val (· == x.2) = false → exec x.1 s = .next s) ∧
      ∀ (v : Volts) (units : List SweepUnit) (ends : Bool) (u : State), v.at n = volt → s.takesCard (.line n) i.val (· == x.2) = true →
        exec x.1 s = .next u → exec (.sweep v ⟨.card (.line n) :: units, ends⟩) s = exec (.sweep v ⟨units, ends⟩) u) ∧
    ∀ j : Fin 4, ∀ x ∈ [(Instr.takeBlocks j, 33), (.loadGreeting j, 34), (.unloadGreeting j, 35), (.collectMessage j, 36),
        (.discardMessage j, 37), (.setClock j, 38), (.clearLine j, 39)],
      (s.takesCard .engine j.val (· == x.2) = false → exec x.1 s = .next s) ∧
      ∀ (v : Volts) (units : List SweepUnit) (ends : Bool) (u : State), s.takesCard .engine j.val (· == x.2) = true →
        exec x.1 s = .next u → exec (.sweep v ⟨.card .engine :: units, ends⟩) s = exec (.sweep v ⟨units, ends⟩) u) ∧
  (∀ (T : TableId) (i : Fin 8) (s : State),
    let unknown := fun c => match T with | .line _ => !decide (1 ≤ c ∧ c ≤ 13) | .engine => !decide (33 ≤ c ∧ c ≤ 39)
    (s.takesCard T i.val unknown = false → exec (.unknownOrder T i) s = .next s) ∧
    ∀ (v : Volts) (units : List SweepUnit) (ends : Bool) (u : State), s.takesCard T i.val unknown = true →
      exec (.unknownOrder T i) s = .next u → exec (.sweep v ⟨.card T :: units, ends⟩) s = exec (.sweep v ⟨units, ends⟩) u) ∧
  ∀ (v : Volts) (s : State), s.port.engineRunning = true → s.sweep.running = true →
    (∀ T, (∃ reads, (s.table T).listed = .reading reads) ∧ (s.table T).cards.length ≤ 8) → exec (.sweep v ⟨[], true⟩) s =
      exec (.sweep v ⟨[TableId.line 0, .line 1, .line 2, .line 3, .engine].flatMap fun T => List.replicate 8 (.card T), true⟩) s

/-- The exit from receive-critical (06 R109). After the return sweep of a sweep that finds no card POSTED and no order waiting, and finds every map entry as the
internal owner, a receive-critical line whose test is met (RECV and DELIV blocks at most the receive limit less 2, fewer than 16 entries,
a Free Count above 0) leaves it: receive-critical and reject sent become no, and RECEIPT(V) is sent, waits behind a frame being sent or
for a pump that carries, or is the reply due while the rate is in flight; in FAR_CLOSED none is sent. A line whose test is not met keeps
its link as it is. After a push, here that of a block of a discarded message, the Free Count is above 0, and each line whose other two
conditions hold leaves receive-critical. After the removal of an entry, here of the open DATA entry that the delivery idle expiry closes
when all its blocks have been returned (06 R111; 09 R166), the line leaves where the test is met with the entries left. That replies wait
in order is the model's reading (log 18), that the entry of a DISCARD MESSAGE is one byte its choice (log 38). -/
def Obligations.ReceiveCriticalEnds : Prop :=
  let test := fun (s : State) (n : LineId) (entries : List Entry) =>
    (s.line n).link.critical = true ∧ s.store.free ≠ [] ∧ entries.length < 16 ∧
      s.store.owners.count (.recv n) + s.store.owners.count (.deliv n) ≤ (s.line n).profile.receiveLimit - 2
  let leaves := fun (s t : State) (n : LineId) (k : Link) =>
    let carries := ∃ p, s.Works n p ∧ (s.pump p).activity = .carrying ∧ (s.pump p).holding = false
    let left := { k with critical := false, rejectSent := false }
    let receipt : LinkFrame := .receipt k.expected
    (k.state = .farClosed → (t.line n).link = left) ∧
    (k.state ≠ .farClosed →
      (k.inFlight = true → (t.line n).link = { left with replyDue := some receipt }) ∧
      (k.inFlight = false → ¬carries ∨ k.sending ≠ none → (t.line n).link = { left with replies := k.replies ++ [receipt] }) ∧
      (k.inFlight = false → carries → k.sending = none → ∀ f rest, k.replies ++ [receipt] = f :: rest →
        (t.line n).link = { left with replies := rest, sending := some f } ∧
        .linkBytes n (0xA5 :: (Wire.run f ++ [0xA5])) ∈ t.outputs))
  (∀ (v : Volts) (s : State), s.port.engineRunning = true → s.sweep.running = true → s.sweep.acked = [] → s.sweep.returned = false →
    (∀ T, (s.table T).waiting = [] ∧ ∀ i, (s.card T i).hand ≠ .posted) →
    (∀ b o, s.store.owners[b]? = some o → Memory.word s.store.mem (mapAddr b) = o.word) →
    ∃ t, exec (.sweep v ⟨[], true⟩) s = .next t ∧ t.store = s.store ∧ ∀ n,
      (¬test s n (s.line n).delivered → (t.line n).link = (s.line n).link) ∧
      (test s n (s.line n).delivered → leaves s t n (s.line n).link)) ∧
  (∀ (i : Fin 4) (m : EntryId) (s : State), s.takesCard .engine i.val (· == 37) = true → (s.card .engine i.val).byte 6 = m.val →
    (s.message m).state = .complete → (s.message m).number = (s.card .engine i.val).word 8 →
    (∃ b ∈ (s.message m).blocks, s.store.owners[b]? = some (.msg m)) →
    ∃ t, exec (.discardMessage i) s = .next t ∧ t.store.free ≠ [] ∧ ∀ n, (s.line n).link.critical = true →
      (s.line n).delivered.length < 16 →
      s.store.owners.count (.recv n) + s.store.owners.count (.deliv n) ≤ (s.line n).profile.receiveLimit - 2 →
      (t.line n).link.critical = false ∧ (t.line n).link.rejectSent = false) ∧
  ∀ (n : LineId) (s : State) (before : List Entry) (e : Entry) (after : List Entry),
    (s.line n).link.idleTimer.isRunning = true → (s.line n).recvBlock = none → (s.line n).delivered = before ++ e :: after →
    e.kind = .data → e.closed = false → e.outstanding = [] → (∀ x ∈ before ++ after, x.closed = true ∧ x.outstanding ≠ []) →
    let k := { (s.line n).link with idleTimer := .stopped }
    ∃ t, exec (.deliveryIdleExpiry n) s = .next t ∧ (t.line n).delivered = before ++ after ∧ t.store = s.store ∧
      (t.line n).ev.bits.getLsbD 8 = true ∧ (¬test s n (before ++ after) → (t.line n).link = k) ∧
      (test s n (before ++ after) → leaves s t n k)

/-- An order code that is not one of the table's (1 to 13 in a line table, 33 to 39 in the engine table, 12 section 12.6) is answered
UNKNOWN with no other effect (10 R174). TAKE BLOCKS (09 R164) and SET CLOCK (10 R175). The first pops, for the host, as many of the asked 1
to 12 blocks as stand above the Reserve, in the order of the free stack. The second answers the Day Clock and sets it, its ticks counted
afresh. That the count asked is one byte is the model's choice (log 38). -/
def Obligations.UnknownOrdersTakeBlocksAndSetClock : Prop :=
  ((∀ (n : LineId) (c : Nat), knownOrder (.line n) c = decide (1 ≤ c ∧ c ≤ 13) ∧
     knownOrder .engine c = decide (33 ≤ c ∧ c ≤ 39)) ∧
   (∀ (n : LineId) (i : Fin 8) (s : State), s.takesCard (.line n) i.val (fun c => !knownOrder (.line n) c) = true →
     ∃ t, exec (.unknownOrder (.line n) i) s = .next t ∧ State.ShortOrder n i.val .unknown 0 0 [] (s.line n) s t) ∧
   ∀ (i : Fin 8) (s : State), s.takesCard .engine i.val (fun c => !knownOrder .engine c) = true →
     ∃ t, exec (.unknownOrder .engine i) s = .next t ∧ State.ShortEngineOrder i.val .unknown 0 0 [] s s t) ∧
  ∀ (i : Fin 4) (s : State),
    let card := s.card .engine i.val
    (s.takesCard .engine i.val (· == 33) = true → s.Sound →
      let k := min (max 1 (min 12 (card.byte 6))) (s.store.free.length - min s.hdr.reserve.toNat 64)
      let given := s.store.free.take k
      ∃ t, exec (.takeBlocks i) s = .next t ∧
        State.Answered .engine i.val .done 0 k ((given ++ List.replicate 12 65535).take 12 |>.flatMap wordBytes) s t ∧
        t.store.free = s.store.free.drop k ∧ t.lines = s.lines ∧
        ∀ b, t.store.owners[b]? = if b ∈ given then some .host else s.store.owners[b]?) ∧
    (s.takesCard .engine i.val (· == 38) = true → ∃ t, exec (.setClock i) s = .next t ∧
      State.ShortEngineOrder i.val .done 0 0 (longBytes s.hdr.dayClock.toNat)
        { s with hdr := { s.hdr with dayClock := BitVec.ofNat 32 (card.long 8), dayTicks := 0 } } s t)

/-- Chain validation (09 R160; 07 R122). Each block met is tested for RANGE, OWNER, REPEAT, LENGTH, FILL and KIND, in this order; a walk
along blocks that pass ends with success where a next field is 65535, the chain being its blocks with their fills, and at the first block
that fails with its position and the first test it fails. The pages of a FAX PAGES order are walked in turn, the blocks of the pages
before counting as met, and a failure names its page, counted from 0, which is the model's choice (log 35). -/
def Obligations.ChainValidation : Prop :=
  ∀ (st : Store) (kind : BlockKind) (limit : Nat),
    let head := fun (b k : Nat) => Memory.get st.mem (0x4000 + 1024 * b + k)
    let word := fun (b k : Nat) => (head b k).toNat + 256 * (head b (k + 1)).toNat
    let test : BlockKind → Nat → List Nat → Nat → Nat → Option ChainTest := fun kind limit met pos b =>
      if st.owners.length ≤ b then some .range
      else if st.owners[b]? ≠ some .host then some .owner
      else if b ∈ met then some .repeated
      else if limit ≤ pos then some .length
      else if word b 2 = 0 ∨ 1016 < word b 2 then some .fill
      else if (head b 4).toNat ≠ (match kind with | .plain => 1 | .rows => 2 | .voice => 3) then some .kind
      else none
    let passes : BlockKind → Nat → List Nat → List Nat → Prop := fun kind limit met bs =>
      ∀ (i : Nat) (h : i < bs.length), test kind limit (met ++ bs.take i) i bs[i] = none ∧
        ∀ h' : i + 1 < bs.length, word bs[i] 0 = bs[i + 1] ∧ bs[i + 1] ≠ 65535
    let whole : List Nat → Prop := fun bs => ∀ b, bs.getLast? = some b → word b 0 = 65535
    let stops : BlockKind → Nat → List Nat → List Nat → Nat → ChainTest → Prop := fun kind limit met bs b t =>
      passes kind limit met bs ∧ (∀ c, bs.getLast? = some c → word c 0 = b ∧ b ≠ 65535) ∧
        test kind limit (met ++ bs) bs.length b = some t
    let chain : List Nat → Chain := fun bs => bs.map fun b => (b, word b 2)
    (∀ (first : Nat) (bs : List Nat), bs.head? = some first → passes kind limit [] bs → whole bs →
      st.validate kind limit first = .ok (chain bs)) ∧
    (∀ (first : Nat) (bs : List Nat) (b : Nat) (t : ChainTest), (bs ++ [b]).head? = some first → stops kind limit [] bs b t →
      st.validate kind limit first = .error ⟨bs.length, t⟩) ∧
    (∀ (firsts : List Nat) (pages : List (List Nat)), pages.map List.head? = firsts.map some →
      (∀ (k : Nat) (h : k < pages.length), passes .rows 64 (pages.take k).flatten pages[k] ∧ whole pages[k]) →
      st.validatePages [] 0 firsts = .ok (pages.map chain)) ∧
    ∀ (firsts : List Nat) (pages : List (List Nat)) (bs : List Nat) (b : Nat) (t : ChainTest),
      pages.map List.head? ++ [(bs ++ [b]).head?] <+: firsts.map some →
      (∀ (k : Nat) (h : k < pages.length), passes .rows 64 (pages.take k).flatten pages[k] ∧ whole pages[k]) →
      stops .rows 64 pages.flatten bs b t →
      st.validatePages [] 0 firsts = .error (pages.length, ⟨bs.length, t⟩)

/-! ## Lines, calls and faults (chapters 1 and 11) -/

/-- ENABLE (01 R18): in OFF the line enters IDLE with its ring detector armed, answered DONE; in FAULT it is answered REFUSED_STATE;
in any other state it is answered DONE. But for the move to IDLE the line is unchanged, a disable pending with it. -/
def Obligations.EnableOrder : Prop :=
  ∀ (n : LineId) (i : Fin 8) (s : State), s.takesCard (.line n) i.val (· == 1) = true →
    ((s.line n).call.state = .off → ∃ t, exec (.enable n i) s = .next t ∧
      State.ShortOrder n i.val .done 0 0 []
        { s.line n with
          call := { (s.line n).call with state := .idle }, ctl := { (s.line n).ctl with stateTimer := .stopped } } s t ∧
      (t.line n).armed = true) ∧
    ((s.line n).call.state = .fault → ∃ t, exec (.enable n i) s = .next t ∧
      State.ShortOrder n i.val .refusedState 13 0 [] (s.line n) s t) ∧
    ((s.line n).call.state ≠ .off → (s.line n).call.state ≠ .fault → ∃ t, exec (.enable n i) s = .next t ∧
      State.ShortOrder n i.val .done 0 0 [] (s.line n) s t)

/-- DISABLE (01 R19): answered DONE in every state, any latch and any pending retry cancelled; OFF from OFF, IDLE, HOLDOFF and FAULT;
in CLEARING disable pending becomes yes; in a call the call is cleared LOCAL_CLEARED with disable pending, a call in
ALERTING being declined (01 R16). A retry pending in HOLDOFF or
CLEARING is abandoned (11 R184): its DIAL card is answered CUT with LOCAL_CLEARED, and the pages that a fax call kept for it go back to
the host, their cards answered CUT. On the entry to OFF from IDLE, HOLDOFF or FAULT every page of the Page List goes back to the host, the
cards of its orders answered CUT with LOCAL_CLEARED (07 R133). -/
def Obligations.DisableOrder : Prop :=
  ∀ (n : LineId) (i : Fin 8) (s : State), s.takesCard (.line n) i.val (· == 2) = true →
    ∃ t, exec (.disable n i) s = .next t ∧ State.Answered (.line n) i.val .done 0 0 [] s t ∧
      (t.line n).fm.latch = none ∧ (t.line n).fm.retryPending = false ∧ State.Aside n s t ∧ State.Steady s t ∧
      ((s.line n).call.state = .holdoff ∨ (s.line n).call.state = .clearing → (s.line n).fm.retryPending = true →
        State.RetryAbandoned n .localCleared [i.val] s t ∧ State.KeptPagesReturned n s t) ∧
      ((s.line n).call.state = .off ∨ (s.line n).call.state = .idle ∨ (s.line n).call.state = .holdoff ∨
        (s.line n).call.state = .fault → (t.line n).call.state = .off) ∧
      ((s.line n).call.state = .idle ∨ (s.line n).call.state = .holdoff ∨ (s.line n).call.state = .fault →
        State.PagesCut n .localCleared [i.val] s t ∧ t.store = s.pagesHome n) ∧
      ((s.line n).call.state = .clearing → (t.line n).call.state = .clearing ∧ (t.line n).call.disablePending = true ∧
        (t.line n).call.lastOutcome = (s.line n).call.lastOutcome) ∧
      ((s.line n).call.state = .alerting ∨ (s.line n).call.state = .queued ∨ (s.line n).call.state.offHook = true →
        (t.line n).call.state = .clearing ∧ (t.line n).call.lastOutcome = .localCleared ∧
        (t.line n).call.disablePending = true ∧ (t.line n).call.service = .none ∧ (t.line n).call.pump = none ∧
        ((s.line n).call.state = .alerting → (t.line n).ctl.declined = true))

/-- HANGUP (01 R20), by the line's state, and CLEAR LINE (01 R21): a line number above 3 is answered BAD_FIELD; for a line the order
is answered DONE and acts as HANGUP does (a call cleared from ALERTING is declined, 01 R16), but in
FAULT, where the fault kind becomes none and the line enters IDLE. A retry pending in
HOLDOFF is abandoned by either (11 R184): its DIAL card is answered CUT with LOCAL_CLEARED, and the pages that a fax call kept for it go
back to the host, their cards answered CUT. That the line number is one byte is the model's choice (log 38). -/
def Obligations.HangupAndClearLine : Prop :=
  (∀ (n : LineId) (i : Fin 8) (s : State), s.takesCard (.line n) i.val (· == 5) = true →
    ((s.line n).call.state = .alerting ∨ (s.line n).call.state = .queued ∨ (s.line n).call.state.offHook = true →
      ∃ t, exec (.hangup n i) s = .next t ∧ State.Cleared n .localCleared s t ∧ (t.line n).fm = (s.line n).fm ∧
        State.Answered (.line n) i.val .done 0 0 [] s t ∧ State.Steady s t ∧
        ((s.line n).call.state = .alerting → (t.line n).ctl.declined = true)) ∧
    ((s.line n).call.state = .clearing ∨ (s.line n).call.state = .idle ∨ (s.line n).call.state = .off →
      ∃ t, exec (.hangup n i) s = .next t ∧ State.ShortOrder n i.val .done 0 0 [] (s.line n) s t) ∧
    ((s.line n).call.state = .holdoff → ∃ t, exec (.hangup n i) s = .next t ∧ State.Answered (.line n) i.val .done 0 0 [] s t ∧
      (t.line n).call.state = .idle ∧ (t.line n).fm.retryPending = false ∧ (t.line n).ctl.stateTimer = .stopped ∧
      ((s.line n).fm.retryPending = true →
        State.RetryAbandoned n .localCleared [i.val] s t ∧ State.KeptPagesReturned n s t) ∧
      State.Aside n s t ∧ State.Steady s t) ∧
    ((s.line n).call.state = .fault → ∃ t, exec (.hangup n i) s = .next t ∧
      State.ShortOrder n i.val .refusedState 13 0 [] (s.line n) s t)) ∧
  ∀ (i : Fin 4) (s : State), s.takesCard .engine i.val (· == 39) = true →
    (4 ≤ (s.card .engine i.val).byte 6 → ∃ t, exec (.clearLine i) s = .next t ∧
      State.ShortEngineOrder i.val .badField 6 0 [] s s t) ∧
    ∀ n : LineId, (s.card .engine i.val).byte 6 = n.val →
      ((s.line n).call.state = .alerting ∨ (s.line n).call.state = .queued ∨ (s.line n).call.state.offHook = true →
        ∃ t, exec (.clearLine i) s = .next t ∧ State.Cleared n .localCleared s t ∧ (t.line n).fm = (s.line n).fm ∧
          State.Answered .engine i.val .done 0 0 [] s t ∧ State.Steady s t ∧
          ((s.line n).call.state = .alerting → (t.line n).ctl.declined = true)) ∧
      ((s.line n).call.state = .clearing ∨ (s.line n).call.state = .idle ∨ (s.line n).call.state = .off →
        ∃ t, exec (.clearLine i) s = .next t ∧ State.ShortEngineOrder i.val .done 0 0 [] s s t) ∧
      ((s.line n).call.state = .holdoff → ∃ t, exec (.clearLine i) s = .next t ∧
        State.Answered .engine i.val .done 0 0 [] s t ∧ (t.line n).call.state = .idle ∧
        (t.line n).fm.retryPending = false ∧ (t.line n).ctl.stateTimer = .stopped ∧
        ((s.line n).fm.retryPending = true →
          State.RetryAbandoned n .localCleared [] s t ∧ State.KeptPagesReturned n s t) ∧
        State.Aside n s t ∧ State.Steady s t) ∧
      ((s.line n).call.state = .fault → ∃ t, exec (.clearLine i) s = .next t ∧
        State.ShortEngineOrder i.val .done 0 0 []
          (s.onLine n fun l =>
            { l with
              call := { l.call with state := .idle }, ctl := { l.ctl with stateTimer := .stopped }
              fm := { l.fm with latch := none } }) s t)

/-- CLEAR FAULT and CLEAR RETRY COUNT (11 R186). -/
def Obligations.ClearFaultAndClearRetryCount : Prop :=
  ∀ (n : LineId) (i : Fin 8) (s : State),
    (s.takesCard (.line n) i.val (· == 12) = true →
      ((s.line n).call.state = .fault → ∃ t, exec (.clearFault n i) s = .next t ∧
        State.ShortOrder n i.val .done (((s.line n).fm.latch.map FaultKind.code).getD 0) 0 []
          { s.line n with
            call := { (s.line n).call with state := .idle }, ctl := { (s.line n).ctl with stateTimer := .stopped }
            fm := { (s.line n).fm with latch := none } } s t ∧
        (t.line n).armed = true) ∧
      ((s.line n).call.state ≠ .fault → ∃ t, exec (.clearFault n i) s = .next t ∧
        State.ShortOrder n i.val .refusedState (s.line n).call.state.code 0 [] (s.line n) s t)) ∧
    (s.takesCard (.line n) i.val (· == 13) = true →
      ((s.line n).call.state = .off → ∃ t, exec (.clearRetryCount n i) s = .next t ∧
        State.ShortOrder n i.val .refusedState 0 0 [] (s.line n) s t) ∧
      ((s.line n).call.state ≠ .off → ∃ t, exec (.clearRetryCount n i) s = .next t ∧
        State.ShortOrder n i.val .done 0 0 [BitVec.ofNat 8 (s.line n).fm.retryCount]
          { s.line n with fm := { (s.line n).fm with retryCount := 0 } } s t))

/-- The loop sense (01 R10): the current's fall starts the 400 ms measurement on a line off hook whose dialler does not hold the loop open;
its return abandons it, and a carrier loss held meanwhile is passed on as CARRIER_LOST. The line's Change Count is given exactly
(State.eventOn), which is the model's choice (log 10). Five events that end a call: four by a clear decision (01 R13): the loop-drop
measurement reaches 400 ms (R10, REMOTE_CLEARED), the answer wait expires in PROGRESS (R11, NO_ANSWER), the sender's RELEASE has gone (07
R128), the receiver in POST or RELEASE hears it (07 R130), the last two LOCAL_CLEARED; and the ring gap's expiry in ALERTING, after which
the call-end sequence runs with outcome MISSED and the line enters IDLE without CLEARING (01 R12). -/
def Obligations.LoopSenseAndEventsThatClear : Prop :=
  (∀ (n : LineId) (s : State),
     ((s.line n).call.state.offHook = true → (s.line n).dialler.phase ≠ .flash →
       (∀ k, (s.line n).dialler.phase ≠ .pulseBreak k) → exec (.loopCurrentFall n) s =
         .next (s.eventOn n fun l => { l with ctl := { l.ctl with loopPresent := false, loopMeasuring := true } })) ∧
     ((s.line n).call.state.offHook = false ∨ (s.line n).dialler.phase = .flash ∨
       (∃ k, (s.line n).dialler.phase = .pulseBreak k) → exec (.loopCurrentFall n) s =
         .next (s.eventOn n fun l => { l with ctl := { l.ctl with loopPresent := false } })) ∧
     ((s.line n).ctl.heldCarrierLoss = false → exec (.loopCurrentReturn n) s =
       .next (s.eventOn n fun l => { l with ctl := { l.ctl with loopPresent := true, loopMeasuring := false } })) ∧
     ((s.line n).ctl.heldCarrierLoss = true → (s.line n).call.state.offHook = true →
       Faults (.loopCurrentReturn n) n .carrierLost .none s)) ∧
  ∀ (n : LineId) (s : State),
    ((s.line n).ctl.loopMeasuring = true → Clears (.loopDropExpiry n) n .remoteCleared s) ∧
    ((s.line n).call.state = .progress → (s.line n).ctl.stateTimer.isRunning = true →
      Clears (.answerWaitExpiry n) n .noAnswer s) ∧
    (s.faxAs n .sender = true → (s.line n).fax.work = .releaseOut → Clears (.faxReleaseSent n) n .localCleared s) ∧
    (s.faxAs n .receiver = true → (s.line n).fax.phase = .post ∨ (s.line n).fax.phase = .release →
      Clears (.releaseFrame n) n .localCleared s) ∧
    ((s.line n).call.state = .alerting → (s.line n).ctl.stateTimer.isRunning = true →
      ∃ t, exec (.ringGapExpiry n) s = .next t ∧
        (t.line n).call =
          { (s.line n).call with
            state := .idle, lastOutcome := .missed, service := .none, pump := none, tClear := s.hdr.tick
            caller := (t.line n).call.caller } ∧
        (t.line n).ctl.stateTimer = .stopped ∧ (t.line n).claim = none ∧ (t.line n).ev.bits.getLsbD 3 = true ∧
        (t.line n).fm = (s.line n).fm ∧ (s.line n).ev.Risen (t.line n).ev ∧ State.Aside n s t ∧ State.Steady s t)

/-- The end of CLEARING (01 R16): at the guard time's expiry, or of a declined call at the later of that and the 8 s gap, the line
enters FAULT with a latch, else HOLDOFF with a retry pending, its retry delay started, else OFF with disable pending, every page of the Page
List going back to the host, the cards of its orders answered CUT with LOCAL_CLEARED (07 R133), else IDLE. At
the earlier of the two times of a declined call it stays in CLEARING. The line's Change Count is given exactly (State.eventOn), which is
the model's choice (log 10). -/
def Obligations.EndOfClearing : Prop :=
  (∀ (n : LineId) (s : State), (s.line n).call.state = .clearing → (s.line n).ctl.declined = true →
    (s.line n).ctl.declinedGap.isRunning = true → (s.line n).ctl.stateTimer.isRunning = true →
    exec (.guardTimeExpiry n) s = .next (s.eventOn n fun l => { l with ctl := { l.ctl with stateTimer := .stopped } }) ∧
    exec (.declinedRingGapExpiry n) s =
      .next (s.eventOn n fun l => { l with ctl := { l.ctl with declinedGap := .stopped } })) ∧
  ∀ (n : LineId) (s : State) (c : Instr), (s.line n).call.state = .clearing →
    (c = .guardTimeExpiry n ∧ (s.line n).ctl.stateTimer.isRunning = true ∧
        ((s.line n).ctl.declined = false ∨ (s.line n).ctl.declinedGap.isRunning = false) ∨
      c = .declinedRingGapExpiry n ∧ (s.line n).ctl.declined = true ∧ (s.line n).ctl.declinedGap.isRunning = true ∧
        (s.line n).ctl.stateTimer.isRunning = false) →
    let ends := fun (st : LineState) (timer : Timer) => s.eventOn n fun l =>
      { l with
        call := { l.call with state := st, disablePending := false }
        ctl := { l.ctl with declined := false, declinedGap := .stopped, stateTimer := timer } }
    ((s.line n).fm.latch ≠ none → exec c s = .next (ends .fault .stopped)) ∧
    ((s.line n).fm.latch = none → (s.line n).fm.retryPending = true →
      exec c s = .next (ends .holdoff (.running ((s.line n).profile.retryDelay * 1000)))) ∧
    ((s.line n).fm.latch = none → (s.line n).fm.retryPending = false → (s.line n).call.disablePending = true →
      ∃ t, exec c s = .next t ∧ (t.line n).call.state = .off ∧ (t.line n).call.disablePending = false ∧
        (t.line n).ctl.declined = false ∧ State.PagesCut n .localCleared [] s t ∧ t.store = s.pagesHome n ∧
        State.Aside n s t ∧ State.Steady s t) ∧
    ((s.line n).fm.latch = none → (s.line n).fm.retryPending = false → (s.line n).call.disablePending = false →
      exec c s = .next (ends .idle .stopped))

/-- The end of a call, what the Line Controller and the pool do (01 R13 to R16; 03 R58; 04 R64, R65; 05 R93): CLEARING with the outcome; a
DIAL card still TAKEN is answered FAILED (BUSY, NO_ANSWER or the fault kind) or CUT (any other outcome), but stays TAKEN while a retry is
pending; an ANSWER card likewise; the answer sequence is at HOST, the dialler stopped, the decoder's window closed, a shift or retrain
over; the line's pump goes FREE, or to the claim at the head of the queue; a pump settling for the line settles on for none; a claim in
the queue leaves it. A decision from ALERTING sets declined. That a pump not attached holds STANDBY and originator (log 36) and that CLEAR
LINE's line number is one byte (log 38) are the model's choices. -/
def Obligations.CallEndAnswersAndReleases : Prop :=
  ∀ (c : Instr) (n : LineId) (o : CallOutcome) (s : State), EndsCall c n o s → s.LongOrdersTaken → s.PumpsInOrder →
    ∃ t, exec c s = .next t ∧ State.Cleared n o s t ∧ State.Steady s t ∧
      ((s.line n).call.state = .alerting → (t.line n).ctl.declined = true) ∧
      (t.line n).grade = { (s.line n).grade with rate := .settled, seedPending := false } ∧
      (t.line n).seq = ⟨.host, false, false, false, .none, .stopped, .stopped⟩ ∧
      (t.line n).dialler = { (s.line n).dialler with phase := .idle, timer := .stopped } ∧ (t.line n).dec = ⟨false, none⟩ ∧
      (∀ i, (s.line n).ctl.dialCard = some i →
        ((t.line n).fm.retryPending = true → (t.line n).ctl.dialCard = some i ∧ t.card (.line n) i = s.card (.line n) i) ∧
        ((t.line n).fm.retryPending = false → (t.line n).ctl.dialCard = none ∧
          State.Answered (.line n) i o.ownStatus o.reason 0 (s.line n).dialFields s t)) ∧
      (∀ i, (s.line n).ctl.answerCard = some i → (t.line n).ctl.answerCard = none ∧
        State.Answered (.line n) i o.ownStatus o.reason 0 (t.line n).answerFields s t) ∧
      (∀ p, ¬ s.serves p n → t.pump p = s.pump p) ∧
      (∀ p, s.serves p n → (s.pump p).state = .settling → t.pump p = { s.pump p with line := none } ∧ t.queue = s.queue) ∧
      (s.queued n → t.queue = ⟨s.queue.answer.filter (· != n), s.queue.originate.filter (· != n)⟩) ∧
      ∀ p, s.serves p n → (s.pump p).state = .attached →
        (s.queue = ⟨[], []⟩ → t.pump p = Pump.inState .free none ∧ t.queue = s.queue) ∧
        ∀ m rest,
          (s.queue.answer = m :: rest →
            t.pump p = Pump.inState .settling (some m) ∧ t.queue = ⟨rest, s.queue.originate⟩) ∧
          (s.queue.answer = [] → s.queue.originate = m :: rest →
            t.pump p = Pump.inState .settling (some m) ∧ t.queue = ⟨[], rest⟩)

/-- The end of a data call, what the Link Framer does (06 R113, R114; 01 R15; 09 R166; 12 section 12.6): one LINK-CLOSE goes to the pump
attached to the line where the link is UP, but for REMOTE_CLEARED; the link is CLOSED, its window, list and timers empty, its sizes,
numbers and counters kept; the blocks of each chain still owned SEND become HOST, and its card is answered CUT or FAILED with the count
of bytes acknowledged, the block of the first byte not acknowledged, the count of blocks from there and its offset in that block; the
RECV block joins the open entry or a new one, and the entry is closed, raising RECV, and leaves the list where all its blocks have been
returned. Two points are the model's reading: a link never opened is closed too, F and the numbers kept (log 17); and the LINK-CLOSE goes
also to a pump that has reported carrier loss, which does no further work (04 section 4.6), R113 excepting REMOTE_CLEARED alone (log 33). -/
def Obligations.CallEndTearsDownTheLink : Prop :=
  ∀ (c : Instr) (n : LineId) (o : CallOutcome) (s : State), EndsCall c n o s → s.LongOrdersTaken → s.Sound →
    (s.line n).call.service = .data → (s.line n).voice.play = .none → (s.line n).fax.role ≠ .receiver →
    let k := (s.line n).link
    let recv := (s.line n).recvBlock
    let isOpen := fun (e : Entry) => decide (e.kind = .data ∧ e.closed = false)
    let entries : List Entry :=
      match recv with
      | some b =>
        if (s.line n).delivered.any isOpen then (s.line n).delivered
        else (s.line n).delivered ++ [⟨.data, b, b, 0, [], 0, 0, .none, 0, false⟩]
      | none => (s.line n).delivered
    let joined : Entry → Entry := fun e =>
      match recv with
      | some b =>
        { e with
          last := b, blockCount := e.blockCount + 1, outstanding := e.outstanding ++ [b], count := e.count + s.store.fill b }
      | none => e
    let closes := k.state = .up ∧ o ≠ .remoteCleared ∧
      ∃ p, (s.line n).call.pump = some p ∧ (s.pump p).state = .attached ∧ (s.pump p).line = some n
    ∃ t, exec c s = .next t ∧
      (t.line n).link =
        { k with
          state := .closed, sendWindow := [], sendList := [], held := false, rejectSent := false, critical := false
          inFlight := false, replyDue := none, openTimer := .stopped, repeatTimer := .stopped, replyTimer := .stopped
          holdTimer := .stopped, idleTimer := .stopped, sending := none, replies := [], resends := [] } ∧
      (closes → t.outputs = s.outputs ++ [.linkBytes n (0xA5 :: (Wire.run .linkClose ++ [0xA5]))]) ∧
      (¬closes → t.outputs = s.outputs) ∧
      (∀ x ∈ k.sendList, ∀ before b fill after, x.chain = before ++ (b, fill) :: after →
        (before.map Prod.snd).sum ≤ x.acked → x.acked < (before.map Prod.snd).sum + fill →
        State.Answered (.line n) x.card o.cutStatus o.reason 0
          (wordBytes x.acked ++ wordBytes b ++ wordBytes (after.length + 1) ++
            wordBytes (x.acked - (before.map Prod.snd).sum)) s t) ∧
      t.store.free = s.store.free ∧
      (∀ b : Nat, t.store.owners[b]? =
        if recv = some b ∧ b < s.store.owners.length ∧ s.store.owners[b]? ≠ some .free then some (.deliv n)
        else if s.store.owners[b]? = some (.send n) ∧ (∃ x ∈ k.sendList, b ∈ x.chain.map Prod.fst) then some .host
        else s.store.owners[b]?) ∧
      (t.line n).recvBlock = none ∧
      (entries.any isOpen = false → (t.line n).delivered = entries) ∧
      (entries.any isOpen = true → (t.line n).ev.bits.getLsbD 8 = true ∧ (t.line n).delivered =
        (entries.map fun e => if isOpen e then { joined e with closed := true } else e).filter fun e =>
          decide (e.closed = false ∨ e.outstanding ≠ []))

/-- The end of a fax call, what the Fax Sequencer does (07 R131, R132; 01 R15). On the calling side the session ends, its shown items kept;
the Page List, its blocks and cards are kept where a retry is pending, and else each page's blocks become HOST and each order is answered
CUT or FAILED with the final verdicts given. On the answering side an open page's RECV block joins the page's entry or a new one, and the
entry is closed INCOMPLETE with its counts, PAGE raised; a block that finds 16 entries and no open one is freed and the page discarded; with no
page open nothing is delivered; the Page List stays. The answer of an order is stated up to 255 blocks cut short, and an entry's block
count below 65535, past which they are free (log 13). -/
def Obligations.CallEndTearsDownTheFaxSession : Prop :=
  ∀ (c : Instr) (n : LineId) (o : CallOutcome) (s : State), EndsCall c n o s → s.LongOrdersTaken →
    (s.line n).call.service = .fax → (s.line n).voice.play = .none →
    let f := (s.line n).fax
    let ended := fun (t : State) =>
      let g := (t.line n).fax
      g.role = .none ∧ g.phase = .none ∧ g.replyTimer = .stopped ∧ g.carrierTimer = .stopped ∧ g.work = .none ∧ g.page = none ∧
      g.rung = f.rung ∧ g.fine = f.fine ∧ g.rowTime = f.rowTime ∧ g.width = f.width ∧ g.pageCount = f.pageCount ∧
      g.failDetail = f.failDetail
    let same := fun (t : State) =>
      let g := (t.line n).fax
      g.lastVerdict = f.lastVerdict ∧ g.lastRows = f.lastRows ∧ g.lastBadRows = f.lastBadRows ∧ g.pagesDiscarded = f.pagesDiscarded
    ((s.line n).call.direction = .originate → ∃ t, exec c s = .next t ∧ ended t ∧ same t ∧
      ((t.line n).fm.retryPending = true → t.store = s.store ∧ (t.line n).fax.pages = f.pages ∧ (t.line n).fax.orders = f.orders ∧
        (t.line n).fax.resendPending = f.resendPending ∧
        ∀ x ∈ f.orders, t.card (.line n) x.card = s.card (.line n) x.card) ∧
      ((t.line n).fm.retryPending = false → (t.line n).fax.pages = [] ∧ (t.line n).fax.orders = [] ∧
        t.store = f.pages.foldl (fun st p => st.assignAll (p.chain.map Prod.fst) .host) s.store ∧
        ∀ x ∈ f.orders, x.cutShort ≤ 255 → State.Answered (.line n) x.card o.cutStatus o.reason 0
          (((x.verdicts.map fun v : Verdict => BitVec.ofNat 8 v.code) ++ List.replicate 8 0).take 8 ++
            [BitVec.ofNat 8 x.resent, BitVec.ofNat 8 x.cutShort, BitVec.ofNat 8 f.rung, if f.fine then 1 else 0,
              BitVec.ofNat 8 f.width]) s t)) ∧
    ((s.line n).call.direction = .answer → f.role = .receiver →
      (∀ e ∈ (s.line n).delivered, e.outstanding ≠ []) →
      let isOpen := fun (e : Entry) => decide (e.kind = .page ∧ e.closed = false)
      let kept := fun (t : State) => ended t ∧ (t.line n).fax.pages = f.pages ∧ (t.line n).fax.orders = f.orders
      (f.page = none → ∃ t, exec c s = .next t ∧ kept t ∧ same t ∧ t.store = s.store ∧
        (t.line n).recvBlock = (s.line n).recvBlock ∧ (t.line n).delivered = (s.line n).delivered) ∧
      ∀ g, f.page = some g →
        let closed := fun (e : Entry) =>
          { e with count := g.rows, badRows := g.badRows, verdict := .incomplete, closed := true }
        let shut := fun (t : State) => kept t ∧ (t.line n).fax.lastVerdict = .incomplete ∧ (t.line n).fax.lastRows = g.rows ∧
          (t.line n).fax.lastBadRows = g.badRows ∧ (t.line n).recvBlock = none ∧ (t.line n).ev.bits.getLsbD 10 = true
        ((s.line n).recvBlock = none → ∃ t, exec c s = .next t ∧ shut t ∧ t.store = s.store ∧
          (t.line n).fax.pagesDiscarded = f.pagesDiscarded ∧
          (t.line n).delivered = (s.line n).delivered.map fun e => if isOpen e then closed e else e) ∧
        ∀ b, (s.line n).recvBlock = some b → s.store.owners[b]? = some (.recv n) →
          ((s.line n).delivered.any isOpen = true ∨ (s.line n).delivered.length < 16 →
            (∀ e ∈ (s.line n).delivered, e.blockCount < 65535) →
            let entries :=
              if (s.line n).delivered.any isOpen then (s.line n).delivered
              else (s.line n).delivered ++ [⟨.page, b, b, 0, [], 0, 0, .none, f.pageCount, false⟩]
            ∃ t, exec c s = .next t ∧ shut t ∧ t.store = s.store.assign b (.deliv n) ∧
              (t.line n).fax.pagesDiscarded = f.pagesDiscarded ∧
              (t.line n).delivered = entries.map fun e =>
                if isOpen e then
                  closed { e with last := b, blockCount := e.blockCount + 1, outstanding := e.outstanding ++ [b] }
                else e) ∧
          ((s.line n).delivered.any isOpen = false → 16 ≤ (s.line n).delivered.length →
            ∃ t, exec c s = .next t ∧ shut t ∧ t.store = s.store.release b ∧
              (f.pagesDiscarded < 65535 → (t.line n).fax.pagesDiscarded = f.pagesDiscarded + 1) ∧
              (t.line n).delivered = (s.line n).delivered))

/-- The end of a voice call, what the Voice Unit does (08 R142, R146, R148, R152; 01 R15): a recording ends REMOTE at a remote clear, else
CLEARED: its entry COMPLETE with the silent run as trailing silence, the line's last message and end reason, MESSAGE raised, a RECORD card
answered DONE; a play ends CLEARED: its PLAY card answered CUT or FAILED with the samples played, its chain back to HOST, or its slot's
play count one less, and the last play of a WITHDRAWING slot empties it, frees its blocks in chain order and answers its UNLOAD GREETING
card DONE. The Digit Queue stays. -/
def Obligations.CallEndEndsRecordingAndPlay : Prop :=
  ∀ (c : Instr) (n : LineId) (o : CallOutcome) (s : State), EndsCall c n o s → s.LongOrdersTaken →
    (s.line n).call.service = .voice → (s.line n).fax.role ≠ .receiver →
    let v := (s.line n).voice
    let reason : EndReason := if o = .remoteCleared then .remote else .cleared
    ∃ t, exec c s = .next t ∧ (t.line n).voice.play = .none ∧ (v.play ≠ .none → (t.line n).voice.playCard = none) ∧
      (t.line n).voice.recording = none ∧ (t.line n).voice.digits = v.digits ∧ (t.line n).voice.overflow = v.overflow ∧
      (v.recording = none → (t.line n).voice.lastMessage = v.lastMessage ∧ (t.line n).voice.lastEnd = v.lastEnd) ∧
      (∀ m, v.recording = some m →
        (t.line n).voice.lastMessage = (s.message m).number ∧ (t.line n).voice.lastEnd = reason ∧
        (t.line n).ev.bits.getLsbD 11 = true ∧
        t.message m =
          { s.message m with
            state := .complete, endReason := reason, trailingMs := 10 * v.silentRun
            changeCount := (t.message m).changeCount } ∧
        ∀ i, v.recKind = .host i → State.Answered (.line n) i .done 0 0
          (wordBytes m.val ++ wordBytes (s.message m).number ++ wordBytes reason.code ++ longBytes (s.message m).sampleCount ++
            wordBytes (s.message m).blocks.length) s t) ∧
      (∀ i, v.play ≠ .none → v.playCard = some i →
        State.Answered (.line n) i o.cutStatus o.reason 0 (longBytes v.samplesPlayed ++ [4]) s t) ∧
      (v.play = .none → t.store = s.store ∧ t.slots = s.slots) ∧
      (∀ first, v.play = .chain first → t.store = s.store.assignAll (v.playChain.map Prod.fst) .host ∧ t.slots = s.slots) ∧
      ∀ g, v.play = .slot g →
        (∀ k, k ≠ g → t.slot k = s.slot k) ∧
        ((s.slot g).state ≠ .withdrawing ∨ 1 < (s.slot g).playCount →
          t.slot g = { s.slot g with playCount := (s.slot g).playCount - 1 } ∧ t.store = s.store) ∧
        ((s.slot g).state = .withdrawing → (s.slot g).playCount ≤ 1 →
          t.slot g = ⟨.empty, [], 0, 0, none⟩ ∧ t.store = ((s.slot g).chain.map Prod.fst).foldl Store.release s.store ∧
          ∀ i, (s.slot g).unloadCard = some i → State.Answered .engine i .done 0 0 [] s t)

/-- The call profile that the words of a Line Profile give (12 R190; 01 R5; 07 R118): each setting clamped into its range; yes for any
value of a yes/no setting but 0; a dial mode other than 1 TONE; an answer mode above 4 NONE; a greeting slot above 7 none; a policy above
3 REPORT; the minimum rung no higher than the maximum (05); the minimum row time raised to the next of its five values. -/
def Obligations.ProfileSettings : Prop :=
  ∀ w : Nat → Nat,
    let p := Profile.ofWords w
    (∀ x ∈ [(p.dialToneWait, 1, 15, 0x04), (p.toneOn, 40, 200, 0x06), (p.toneGap, 40, 200, 0x08), (p.pauseTime, 1, 10, 0x0A),
        (p.answerWait, 10, 90, 0x0C), (p.busyOn, 200, 800, 0x0E), (p.busyOff, 200, 800, 0x10), (p.ringbackOn, 800, 2500, 0x12),
        (p.ringbackOff, 2000, 6000, 0x14), (p.tolerance, 10, 30, 0x16), (p.ringbackLimit, 0, 20, 0x18),
        (p.silenceThreshold, 0, 1023, 0x1A), (p.trainingLimit, 5, 30, 0x1C), (p.guardTime, 500, 5000, 0x1E),
        (p.ringsBeforeAnswer, 1, 15, 0x24), (p.listenTime, 0, 10, 0x2A), (p.answerPumpWait, 0, 10, 0x2C),
        (p.originatePumpWait, 0, 120, 0x2E), (p.carrierLossTime, 500, 5000, 0x30), (p.maxRung, 1, 14, 0x32),
        (p.upMargin, 0, 16, 0x36), (p.upWindows, 1, 31, 0x38), (p.downWindows, 1, 15, 0x3A), (p.collapseThreshold, 0, 160, 0x3C),
        (p.collapseTime, 1, 30, 0x3E), (p.retrainLimit, 1, 7, 0x40), (p.linkWindow, 1, 15, 0x42), (p.maxInfo, 1, 256, 0x44),
        (p.replyTime, 1, 50, 0x46), (p.tryLimit, 1, 15, 0x48), (p.receiveLimit, 2, 64, 0x4A), (p.deliveryIdle, 10, 500, 0x4C),
        (p.faxMaxRung, 1, 6, 0x4E), (p.widthClass, 0, 2, 0x54), (p.badRowLimit, 1, 20, 0x56), (p.runLimit, 1, 64, 0x58),
        (p.silenceLimit, 1, 15, 0x5A), (p.maxLength, 5, 120, 0x5C), (p.retryLimit, 0, 15, 0x74), (p.retryDelay, 1, 60, 0x76)],
      x.1 = max x.2.1 (min x.2.2.1 (w x.2.2.2))) ∧
    p.minRung = min (max 1 (min 14 (w 0x34))) p.maxRung ∧
    (∀ x ∈ [(p.blindDialling, 0x02), (p.callerCapture, 0x20), (p.recordAfter, 0x28), (p.fineResolution, 0x50), (p.stopOnDigit, 0x5E)],
      x.1 = true ↔ w x.2 ≠ 0) ∧
    p.dialMode = (if w 0x00 = 1 then .pulse else .tone) ∧
    p.answerMode =
      (if w 0x22 = 1 then .data else if w 0x22 = 2 then .fax else if w 0x22 = 3 then .voice else if w 0x22 = 4 then .adaptive
        else .none) ∧
    (∀ g : SlotId, p.greetingSlot = some g ↔ w 0x26 = g.val) ∧
    p.minRowTime =
      (if w 0x52 = 0 then 0 else if w 0x52 ≤ 5 then 5 else if w 0x52 ≤ 10 then 10 else if w 0x52 ≤ 20 then 20 else 40) ∧
    ∀ k ∈ [FaultKind.noDialTone, .lineAbsent, .noPump, .pumpLost, .trainFailed, .carrierLost, .retrainExhausted, .linkExhausted,
        .gradeCollapse, .faxFailed],
      let x := w (0x60 + 2 * (k.code - 32))
      p.policy k = if x = 0 then .latch else if x = 1 then .retry else if x = 3 then .silent else .report

/-- Every step keeps the law of received data (06 R106; 09 R165): a line fills one RECV block, its Delivered List has at most 16 entries,
and at most one of them is open. -/
def Obligations.EveryStepKeepsReceivingInOrder : Prop :=
  ∀ s t : State, s.ReceivingInOrder → step s = .next t → t.ReceivingInOrder

/-- The policy applied to a fault (11 R181): RETRY acts as REPORT on an answered call, and as LATCH on an originated call whose retry
count is at the retry limit; the others are applied as they are. Nine events that report a fault after which the call cannot go on, each
taken under its policy (11 R180 to R185; 01 R11; 02 R32; 04 R62, R66, R68, R72; 06 R95, R104). That the hold timer's expiry reports and
tears down in one step is the model's reading (log 37). -/
def Obligations.FaultEvents : Prop :=
  (∀ (p : Policy) (d : Direction) (count limit : Nat), appliedPolicy p d count limit =
    if p = .retry then (if d = .answer then .report else if count < limit then .retry else .latch) else p) ∧
  ∀ (n : LineId) (s : State),
    ((s.line n).call.state = .seized → (s.line n).ctl.stateTimer.isRunning = true →
      Faults (.dialToneWaitExpiry n) n .noDialTone .none s) ∧
    ((s.line n).call.state = .dialling → (s.line n).dialler.phase = .waitTone →
      Faults (.wWaitExpiry n) n .noDialTone .none s) ∧
    ((s.line n).call.state = .training → (s.line n).ctl.stateTimer.isRunning = true →
      Faults (.trainingTimerExpiry n) n .trainFailed .none s) ∧
    ((s.line n).call.state = .training → s.pumpAt n .training = true →
      Faults (.trainingServiceMismatch n) n .trainFailed .none s) ∧
    ((s.line n).call.state.offHook = true → (s.line n).link.state = .opening → (s.line n).link.openTimer.isRunning = true →
      Faults (.linkOpenExpiry n) n .trainFailed .none s) ∧
    ((s.line n).call.state.offHook = true → (s.line n).link.held = true → (s.line n).link.holdTimer.isRunning = true →
      Faults (.holdTimerExpiry n) n .linkExhausted .none s) ∧
    ((s.line n).call.state.offHook = true → s.measuresCarrier n = true → (s.line n).ctl.loopMeasuring = false →
      Faults (.carrierLossExpiry n) n .carrierLost .none s) ∧
    ((s.line n).call.state = .queued ∨ (s.line n).call.state.offHook = true → (s.line n).seq.step ≠ .switchWait →
      (∃ c, (s.line n).claim = some c ∧ c.wait.isRunning = true) → Faults (.claimWaitExpiry n) n .noPump .none s) ∧
    ∀ p : PumpId, (s.line n).call.state.offHook = true → (s.pump p).state = .attached → (s.pump p).line = some n →
      ∃ t, exec (.pumpSelfFault p) s = .next t ∧ State.Faulted n .pumpLost .none s t ∧ State.Steady s t ∧
        (t.pump p).state = .out ∧ t.hdr.ev.bits.getLsbD 5 = true

/-! ## Dialling and call progress (chapter 2) -/

/-- The dialler's timers (02 R30, R31): a tone gives way to the tone gap, a break of the loop to a make of 40 ms, a make to the next break
of 60 ms or, after the last, to the interdigit pause of 700 ms. While the loop is broken the loop sense is suppressed; at a break's end it
measures afresh where the current is absent (01 R10). The next symbol (02 R28 to R33), taken at the end of a tone gap, an interdigit pause,
a pause or a flash, at a dial tone awaited in SEIZED or at a W: a tone digit, a pulse digit with its breaks (10 for 0), a pause, a wait, a
flash, a change of mode, a symbol skipped and counted; at the end of the string the line enters PROGRESS. -/
def Obligations.DialTimersAndSymbols : Prop :=
  (∀ (n : LineId) (s : State), (s.line n).call.state = .dialling →
     ((s.line n).dialler.phase = .toneOn → Leads (.toneOnEnd n) s (s.onLine n fun l =>
       { l with dialler := { l.dialler with phase := .toneGap, timer := .running l.profile.toneGap } })) ∧
     ∀ k : Nat,
       ((s.line n).dialler.phase = .pulseBreak k → Leads (.pulseBreakEnd n) s (s.onLine n fun l =>
         { l with
           dialler := { l.dialler with phase := .pulseMake k, timer := .running 40 }
           ctl := { l.ctl with loopMeasuring := !l.ctl.loopPresent } })) ∧
       ((s.line n).dialler.phase = .pulseMake k → 1 < k → Leads (.pulseMakeEnd n) s (s.onLine n fun l =>
         { l with
           dialler := { l.dialler with phase := .pulseBreak (k - 1), timer := .running 60 }
           ctl := { l.ctl with loopMeasuring := false } })) ∧
       ((s.line n).dialler.phase = .pulseMake k → k ≤ 1 → Leads (.pulseMakeEnd n) s (s.onLine n fun l =>
         { l with dialler := { l.dialler with phase := .interdigit, timer := .running 700 } }))) ∧
  ∀ (c : Instr) (n : LineId) (s : State) (g : Line → Line),
    (c = .toneGapEnd n ∧ (s.line n).dialsAt .toneGap = true ∧ g = (fun l => l) ∨
      c = .interdigitPauseEnd n ∧ (s.line n).dialsAt .interdigit = true ∧ g = (fun l => l) ∨
      c = .pauseEnd n ∧ (s.line n).dialsAt .pause = true ∧ g = (fun l => l) ∨
      c = .flashEnd n ∧ (s.line n).dialsAt .flash = true ∧
        g = (fun l => { l with ctl := { l.ctl with loopMeasuring := !l.ctl.loopPresent } }) ∨
      c = .dialToneAccepted n ∧ (s.line n).ctl.progressTone = true ∧ (s.line n).dialsAt .waitTone = true ∧ g = (fun l => l) ∨
      c = .dialToneAccepted n ∧ (s.line n).ctl.progressTone = true ∧ (s.line n).call.state = .seized ∧
        g = fun l =>
          { l with call := { l.call with state := .dialling }, ctl := { l.ctl with stateTimer := .stopped } }) →
    let put := fun (rest : List Byte) (ph : DialPhase) (ms : Nat) (l : Line) =>
      ({ g l with dialler := { l.dialler with rest := rest, phase := ph, timer := .running ms } } : Line)
    let quiet := fun (l : Line) => ({ l with ctl := { l.ctl with loopMeasuring := false } } : Line)
    let p := (s.line n).profile
    (∀ b rest, (s.line n).dialler.rest = b :: rest →
      ((s.line n).dialler.mode = .tone →
        b ∈ [0x30, 0x31, 0x32, 0x33, 0x34, 0x35, 0x36, 0x37, 0x38, 0x39, 0x2A, 0x23, 0x41, 0x42, 0x43, 0x44] →
        Leads c s ((s.onLine n (put rest .toneOn p.toneOn)).emit (.dialTone n b))) ∧
      ((s.line n).dialler.mode = .pulse → 0x30 ≤ b.toNat → b.toNat ≤ 0x39 →
        Leads c s (s.onLine n fun l =>
          quiet (put rest (.pulseBreak (if b.toNat = 0x30 then 10 else b.toNat - 0x30)) 60 l))) ∧
      (b = 0x2C → Leads c s (s.onLine n (put rest .pause (p.pauseTime * 1000)))) ∧
      (b = 0x57 → Leads c s (s.onLine n (put rest .waitTone (p.dialToneWait * 1000)))) ∧
      (b = 0x21 → Leads c s (s.onLine n fun l => quiet (put rest .flash 500 l))) ∧
      (b = 0x50 → ∀ u,
        Leads c (s.onLine n fun l => { l with dialler := { l.dialler with mode := .pulse, rest := rest } }) u → Leads c s u) ∧
      (b = 0x54 → ∀ u,
        Leads c (s.onLine n fun l => { l with dialler := { l.dialler with mode := .tone, rest := rest } }) u → Leads c s u) ∧
      (b ∉ [0x30, 0x31, 0x32, 0x33, 0x34, 0x35, 0x36, 0x37, 0x38, 0x39, 0x2C, 0x57, 0x21, 0x50, 0x54] →
        (s.line n).dialler.mode = .pulse ∨ b ∉ [0x2A, 0x23, 0x41, 0x42, 0x43, 0x44] → ∀ u,
        Leads c (s.onLine n fun l =>
          { l with dialler := { l.dialler with skipped := l.dialler.skipped + 1, rest := rest } }) u → Leads c s u)) ∧
    ((s.line n).dialler.rest = [] → Leads c s (s.onLine n fun l =>
      { g l with
        call := { l.call with state := .progress }
        ctl := { (g l).ctl with stateTimer := .running (p.answerWait * 1000) }
        dialler := { l.dialler with rest := [], phase := .idle, timer := .stopped }
        prog := { Progress.initial with pathTimer := if l.call.service = .voice then .running 4000 else .stopped } }))

/-- Progress tones (02 R34 to R36, R38): a duration, measured to the nearest 10 ms (a tie either way, log 28), matches a
nominal one within the tolerance; the off period that ends at an onset completes a cycle, busy (the second in a row clears BUSY),
ringback (the last of the limit clears NO_ANSWER) or neither; a cease gives the on period, and connects a voice call whose run
already stands at 20 frames. -/
def Obligations.ProgressTones : Prop :=
  (∀ d nominal tol : Nat, matchesNominal d nominal tol = true ↔ ((d : Int) - nominal).natAbs * 100 ≤ tol * nominal) ∧
  (∀ ms : Nat, nearestTen ms % 10 = 0 ∧ ms ≤ nearestTen ms + 5 ∧ nearestTen ms ≤ ms + 5) ∧
  ∀ (n : LineId) (ms : Nat) (s : State),
    let p := (s.line n).profile
    let near := nearestTen ms
    let heard := fun (f : Progress → Progress) => s.onLine n fun l =>
      { l with
        ctl := { l.ctl with progressTone := true, toneInFrame := true }
        prog := f { l.prog with onMeasured := true, onPeriod := none, pathTimer := .stopped } }
    ((s.line n).call.state ≠ .progress → Leads (.progressToneOnset n ms) s (s.onLine n fun l =>
      { l with ctl := { l.ctl with progressTone := true, toneInFrame := true } })) ∧
    ((s.line n).call.state = .progress → (s.line n).prog.onPeriod = none →
      Leads (.progressToneOnset n ms) s (heard fun g => g)) ∧
    (∀ d, (s.line n).call.state = .progress → (s.line n).prog.onPeriod = some d →
      let busy := matchesNominal d p.busyOn p.tolerance && matchesNominal near p.busyOff p.tolerance
      let ringback := matchesNominal d p.ringbackOn p.tolerance && matchesNominal near p.ringbackOff p.tolerance
      (busy = true → (s.line n).prog.busyRun = 0 →
        Leads (.progressToneOnset n ms) s (heard fun g => { g with busyRun := 1 })) ∧
      (busy = true → 1 ≤ (s.line n).prog.busyRun → Clears (.progressToneOnset n ms) n .busy s) ∧
      (busy = false → ringback = true → p.ringbackLimit = 0 ∨ (s.line n).prog.ringbackCount + 1 < p.ringbackLimit →
        Leads (.progressToneOnset n ms) s
          (heard fun g => { g with busyRun := 0, ringbackCount := g.ringbackCount + 1 })) ∧
      (busy = false → ringback = true → 1 ≤ p.ringbackLimit → p.ringbackLimit ≤ (s.line n).prog.ringbackCount + 1 →
        Clears (.progressToneOnset n ms) n .noAnswer s) ∧
      (busy = false → ringback = false → Leads (.progressToneOnset n ms) s (heard fun g => { g with busyRun := 0 }))) ∧
    ((s.line n).call.state ≠ .progress ∨ (s.line n).prog.onMeasured = false → Leads (.progressToneCease n ms) s
      (s.onLine n fun l => { l with ctl := { l.ctl with progressTone := false } })) ∧
    ((s.line n).call.state = .progress → (s.line n).prog.onMeasured = true →
      let rings := (s.line n).prog.ringbackHeard || matchesNominal near p.ringbackOn p.tolerance
      let run := (s.line n).call.service = .voice ∧ 20 ≤ (s.line n).prog.voiceRun ∧
        (rings = true ∨ (s.line n).prog.voicePath = true)
      (¬run → Leads (.progressToneCease n ms) s (s.onLine n fun l =>
        { l with
          ctl := { l.ctl with progressTone := false }
          prog := { l.prog with onMeasured := false, onPeriod := some near, ringbackHeard := rings } })) ∧
      (run → ∃ t, exec (.progressToneCease n ms) s = .next t ∧ State.Connects n .voice s t))

/-- Voice frames (02 R38; 08 R136, R141). A frame is the 80 samples since the last: those that an encoder has been given and those given
at its end. Its level is the mean of their magnitudes; a frame below the threshold is silent, and the next frame begins at its end.
In PROGRESS a frame neither silent nor touched by a progress tone lengthens the voice run, another ends it, and the twentieth in a
row with the path open connects the call; the path opens after 4 s with no onset. In a recording a silent frame lengthens the silent
run, and the run that reaches the silence limit ends the recording SILENCE, an automatic one with its call. That the frame during which
PROGRESS is entered counts as a frame in PROGRESS (log 29), and that the end of a frame of other than 80 samples is no frame's end (log
26), are the model's choice. -/
def Obligations.VoiceFrames : Prop :=
  (∀ xs : List Sample, frameLevel xs = (xs.map fun x => x.toInt.natAbs).sum / 80) ∧
  ∀ (n : LineId) (xs : List Sample) (s : State),
    let v := (s.line n).voice
    let frame := v.frame ++ xs
    let silent := decide (frameLevel frame < (s.line n).profile.silenceThreshold)
    let next := s.onLine n fun l =>
      { l with
        voice := { l.voice with frame := [], ahead := if v.recording = none then 0 else v.ahead + xs.length }
        ctl := { l.ctl with toneInFrame := l.ctl.progressTone } }
    ((s.line n).call.state.offHook = false ∨ frame.length ≠ 80 → Leads (.voiceFrameEnd n xs) s s) ∧
    ((s.line n).call.state.offHook = true → frame.length = 80 → v.recording = none →
      (s.line n).call.state ≠ .progress ∨ (s.line n).call.service ≠ .voice → Leads (.voiceFrameEnd n xs) s next) ∧
    ((s.line n).call.state = .progress → (s.line n).call.service = .voice → v.recording = none → frame.length = 80 →
      let run := if silent = true ∨ (s.line n).ctl.toneInFrame = true then 0 else (s.line n).prog.voiceRun + 1
      (run < 20 ∨ ((s.line n).prog.ringbackHeard = false ∧ (s.line n).prog.voicePath = false) →
        Leads (.voiceFrameEnd n xs) s (next.onLine n fun l => { l with prog := { l.prog with voiceRun := run } })) ∧
      (20 ≤ run → (s.line n).prog.ringbackHeard = true ∨ (s.line n).prog.voicePath = true →
        ∃ t, exec (.voiceFrameEnd n xs) s = .next t ∧ State.Connects n .voice s t)) ∧
    ((s.line n).call.state = .progress → (s.line n).prog.pathTimer.isRunning = true →
      ((s.line n).call.service ≠ .voice ∨ (s.line n).prog.voiceRun < 20 → Leads (.voicePathOpen n) s (s.onLine n fun l =>
        { l with prog := { l.prog with voicePath := true, pathTimer := .stopped } })) ∧
      ((s.line n).call.service = .voice → 20 ≤ (s.line n).prog.voiceRun →
        ∃ t, exec (.voicePathOpen n) s = .next t ∧ State.Connects n .voice s t)) ∧
    ((s.line n).call.state.offHook = true → (s.line n).call.state ≠ .progress → frame.length = 80 → ∀ m, v.recording = some m →
      let run := if silent = true then v.silentRun + 1 else 0
      let limit := (s.line n).profile.silenceLimit * 100
      (silent = false ∨ run < limit → Leads (.voiceFrameEnd n xs) s (next.onLine n fun l =>
        { l with voice := { l.voice with silentRun := run } })) ∧
      (silent = true → limit ≤ run → ∃ t, exec (.voiceFrameEnd n xs) s = .next t ∧
        (t.line n).voice.recording = none ∧ (t.message m).state = .complete ∧ (t.message m).endReason = .silence ∧
        (t.message m).trailingMs = 10 * run ∧ State.Aside n s t ∧ State.Steady s t ∧
        ((s.line n).voice.recKind = .automatic → (t.line n).call.state = .clearing ∧
          (t.line n).call.lastOutcome = .localCleared)))

/-- TRAINING begins as the originator at an accepted answer tone on a DATA or FAX call in PROGRESS (02 R37), and at an Offer heard there
on a FAX call, which is held (07 R119); the line's pump trains (04 R68). Tones on and off (02 R37; 03 R54, R55): presence of the answer
tone and of the data calling tone, the onset of a fax calling tone that counts in listening alone, and in listening a fax tone of 400 to
700 ms or an accepted data tone, judged: listening ends and an ANSWER claim is made for the service, granted the lowest FREE pump or
queued with its wait limit (04 R61, R62). That a pump settling for a line holds STANDBY and originator (log 36), and that an
answer tone begun before the entry to PROGRESS counts (log 39), are the model's choices. -/
def Obligations.OriginatorTrainsAndCallingTones : Prop :=
  (∀ (n : LineId) (p : PumpId) (s : State), (s.line n).call.state = .progress → (s.line n).call.pump = some p →
     (s.pump p).state = .attached → (s.pump p).line = some n →
     let trains := fun (f : Fax → Fax) =>
       ((s.onLine n fun l =>
           { l with
             call := { l.call with state := .training }
             ctl := { l.ctl with stateTimer := .running (l.profile.trainingLimit * 1000) }
             prog := { l.prog with pathTimer := .stopped }
             fax := f l.fax }).onPump p fun q => { q with activity := .training, role := .originator }).emit
         (.trainingStart n .originator)
     ((s.line n).call.service ≠ .voice → (s.line n).ctl.answerTone = true →
       Leads (.answerToneAccepted n) s (trains fun f => f)) ∧
     ∀ o : Offer, (s.line n).call.service = .fax → Leads (.offerFrame n o) s (trains fun f => { f with offerHeld := some o })) ∧
  ∀ (n : LineId) (s : State),
    let ctl := fun (f : LineControl → LineControl) => s.onLine n fun l => { l with ctl := f l.ctl }
    Leads (.answerToneOnset n) s (ctl fun c => { c with answerTone := true }) ∧
    Leads (.answerToneCease n) s (ctl fun c => { c with answerTone := false }) ∧
    Leads (.dataCallingToneOnset n) s (ctl fun c => { c with dataTone := true }) ∧
    Leads (.dataCallingToneCease n) s (ctl fun c => { c with dataTone := false }) ∧
    Leads (.faxCallingToneOnset n) s (ctl fun c => { c with faxToneBurst := (s.line n).seq.listening }) ∧
    (∀ ms, (s.line n).ctl.faxToneBurst = false ∨ (s.line n).seq.listening = false ∨ ms < 400 ∨ 700 < ms →
      Leads (.faxCallingToneCease n ms) s (ctl fun c => { c with faxToneBurst := false })) ∧
    ((s.line n).seq.listening = false ∨ (s.line n).ctl.dataTone = false → Leads (.dataCallingToneAccepted n) s s) ∧
    ∀ (c : Instr) (v : Service), (s.line n).seq.listening = true →
      ((∃ ms, c = .faxCallingToneCease n ms ∧ 400 ≤ ms ∧ ms ≤ 700) ∧ (s.line n).ctl.faxToneBurst = true ∧ v = .fax ∨
        c = .dataCallingToneAccepted n ∧ (s.line n).ctl.dataTone = true ∧ v = .data) →
      let judged := fun (w : Timer) => s.onLine n fun l =>
        { l with
          ctl := { l.ctl with faxToneBurst := decide (v ≠ .fax) && l.ctl.faxToneBurst }
          seq := { l.seq with listening := false, listenTimer := .stopped, switchTo := v, step := .switchWait }
          claim := some ⟨.answer, w⟩ }
      (∀ p, (s.pump p).state = .free → (∀ q < p, (s.pump q).state ≠ .free) →
        Leads c s ((judged .stopped).onPump p fun _ => Pump.inState .settling (some n))) ∧
      ((∀ p, (s.pump p).state ≠ .free) → 0 < (s.line n).profile.answerPumpWait →
        Leads c s { judged (.running ((s.line n).profile.answerPumpWait * 1000)) with
          queue := { s.queue with answer := s.queue.answer ++ [n] } })

/-! ## Ringing, caller records, originating and answering (chapters 2 and 3) -/

/-- Rings counted (03 R40, R41; 01 R16; 02 R26; 11 R184), auto-answer not answering, for want of an answer mode or of rings, or
suspended (where it answers: AnswerOrder): the first rings a new call in IDLE; a further one in ALERTING raises the count, closes the decoder's window and restarts the
8 s; in QUEUED and HOLDOFF the waiting call ends CUT_BY_RING, its DIAL card answered CUT, a retry pending being abandoned, and a new one
rings; of a declined call
in CLEARING the 8 s restart; in any other state it does nothing. -/
def Obligations.RingsCounted : Prop :=
  ∀ (n : LineId) (volt : Bool) (s : State),
    let p := Profile.ofWords fun o => Memory.word s.store.mem (0x0500 + 256 * n.val + o)
    let silent := p.answerMode = .none ∨ 1 < p.ringsBeforeAnswer ∨ s.monitor.suspended = true
    ((s.line n).call.state = .idle → silent →
      ∃ t, exec (.ringCounted n volt) s = .next t ∧ (t.line n).profile = p ∧
        (t.line n).call =
          { (s.line n).call with
            state := .alerting, service := .none, direction := .answer, tRing := s.hdr.tick, tOffhook := 0, tConnect := 0
            tClear := 0, dayConnect := 0, wasConnected := false, ringCount := 1, caller := ⟨.absent, [], [], []⟩ } ∧
        (t.line n).ctl.stateTimer = .running 8000 ∧ (t.line n).dec = ⟨p.callerCapture, none⟩ ∧
        (t.line n).ev = { (s.line n).ev with bits := (s.line n).ev.bits ||| 1, tally := (s.line n).ev.tally + 1 } ∧
        (t.line n).voice.digits = [] ∧ (t.line n).voice.overflow = 0 ∧ (t.line n).fm = (s.line n).fm ∧
        State.Aside n s t ∧ State.Steady s t) ∧
    ((s.line n).call.state = .alerting → (s.line n).profile.answerMode = .none ∨ s.monitor.suspended = true ∨
        min 65535 ((s.line n).call.ringCount + 1) < (s.line n).profile.ringsBeforeAnswer →
      (s.line n).dec.burst = none → Leads (.ringCounted n volt) s (s.onLine n fun l =>
        { l with
          call := { l.call with ringCount := min 65535 (l.call.ringCount + 1) }
          ctl := { l.ctl with stateTimer := .running 8000 }
          ev := { l.ev with bits := l.ev.bits ||| 1, tally := l.ev.tally + 1 }
          dec := ⟨false, none⟩ })) ∧
    ((s.line n).call.state = .queued ∨ (s.line n).call.state = .holdoff → Memory.wf s.store.mem = true → silent →
      ∃ t, exec (.ringCounted n volt) s = .next t ∧ (t.line n).call.state = .alerting ∧ (t.line n).profile = p ∧
        (t.line n).call.direction = .answer ∧ (t.line n).call.ringCount = 1 ∧ (t.line n).call.tRing = s.hdr.tick ∧
        (t.line n).call.lastOutcome = .cutByRing ∧ (t.line n).ev.bits.getLsbD 0 = true ∧
        ((s.line n).call.state = .queued → (t.line n).claim = none ∧ (t.line n).ev.bits.getLsbD 3 = true ∧
          (s.LongOrdersTaken → (s.line n).fm.retryPending = false → ∀ i, (s.line n).ctl.dialCard = some i →
            (t.line n).ctl.dialCard = none ∧
            State.Answered (.line n) i .cut CallOutcome.cutByRing.code 0 (s.line n).dialFields s t)) ∧
        ((s.line n).call.state = .holdoff → (t.line n).fm.retryPending = false ∧
          ((s.line n).fm.retryPending = true → State.RetryAbandoned n .cutByRing [] s t ∧ State.KeptPagesReturned n s t)) ∧
        State.Aside n s t ∧ State.Steady s t) ∧
    ((s.line n).call.state = .clearing → (s.line n).ctl.declined = true → Leads (.ringCounted n volt) s
      (s.onLine n fun l => { l with ctl := { l.ctl with declinedGap := .running 8000 } })) ∧
    ((s.line n).call.state = .clearing ∧ (s.line n).ctl.declined = false ∨ (s.line n).call.state = .off ∨
        (s.line n).call.state = .fault ∨ (s.line n).call.state.offHook = true →
      Leads (.ringCounted n volt) s s)

/-- Caller records (03 R43 to R46). A ring's onset closes the decoder's window; in an open window one burst at a time is taken; a
burst of call-record type (65) is judged at its end, any other set aside. A judged burst whose length byte, fields and sum are
complete is PRESENT or WITHHELD where each field has the form of its code and none of the four codes is repeated, else DAMAGED: a
date-time of 8 digits, a number of 1 to 16 digits, a WITHHELD mark of 1 byte, a name of 1 to 15 bytes, a field of another code being
skipped. A WITHHELD record has no number, and a name byte outside 0x20 to 0x7E is filed as 0x3F. A burst of call-record type that the
window's end cuts off is filed DAMAGED, the model's reading (log 16). -/
def Obligations.CallerBursts : Prop :=
  (∀ (n : LineId) (s : State),
    ((s.line n).dec.windowOpen = false ∨ (s.line n).dec.burst ≠ some 0x41 → Leads (.ringVoltageOnset n) s
      (s.onLine n fun l => { l with dec := ⟨false, none⟩ })) ∧
    ((s.line n).dec = ⟨true, some 0x41⟩ → Leads (.ringVoltageOnset n) s (s.onLine n fun l =>
      { l with
        dec := ⟨false, none⟩
        call := { l.call with caller := ⟨.damaged, [], [], []⟩ }
        ev := { l.ev with bits := l.ev.bits ||| 2, tally := l.ev.tally + 1 } })) ∧
    ∀ (first : Byte) (rest : List Byte),
      ((s.line n).dec.windowOpen = true → (s.line n).dec.burst = none → Leads (.callerBurstStart n first) s
        (s.onLine n fun l => { l with dec := ⟨true, some first⟩ })) ∧
      ((s.line n).dec.windowOpen = false ∨ (s.line n).dec.burst ≠ none → Leads (.callerBurstStart n first) s s) ∧
      ((s.line n).dec = ⟨true, some first⟩ → first ≠ 0x41 → Leads (.callerBurstEnd n rest) s
        (s.onLine n fun l => { l with dec := ⟨true, none⟩ })) ∧
      ((s.line n).dec = ⟨true, some 0x41⟩ → Leads (.callerBurstEnd n rest) s (s.onLine n fun l =>
        { l with
          dec := ⟨false, none⟩
          call := { l.call with caller := judgeBurst (0x41 :: rest) }
          ev := { l.ev with bits := l.ev.bits ||| 2, tally := l.ev.tally + 1 } }))) ∧
  (∀ rest : List Byte, (judgeBurst (0x41 :: rest)).state ≠ .absent) ∧
  (∀ (c : Nat) (x : List Byte),
    let digits := ∀ b ∈ x, 0x30 ≤ b.toNat ∧ b.toNat ≤ 0x39
    goodField (c, x) = true ↔ (c = 0x21 → x.length = 8 ∧ digits) ∧ (c = 0x22 → 1 ≤ x.length ∧ x.length ≤ 16 ∧ digits) ∧
      (c = 0x23 → x.length = 1) ∧ (c = 0x24 → 1 ≤ x.length ∧ x.length ≤ 15)) ∧
  (∀ fs : List (Nat × List Byte),
    let text := fun (c : Nat) => match fs.find? fun f => f.1 == c with | some f => f.2 | none => []
    let withheld := ∃ f ∈ fs, f.1 = 0x23
    (noTwice fs = true ↔ ∀ c ∈ [0x21, 0x22, 0x23, 0x24], (fs.filter fun f => f.1 == c).length ≤ 1) ∧
    (withheld → filedRecord fs = ⟨.withheld, [], (filedRecord fs).name, text 0x21⟩) ∧
    (¬withheld → filedRecord fs = ⟨.present, text 0x22, (filedRecord fs).name, text 0x21⟩) ∧
    (filedRecord fs).name = (text 0x24).map fun b => if 0x20 ≤ b.toNat ∧ b.toNat ≤ 0x7E then b else 0x3F) ∧
  (∀ (len : Byte) (rest : List Byte), rest.length ≤ len.toNat → judgeBurst (0x41 :: len :: rest) = ⟨.damaged, [], [], []⟩) ∧
  ∀ (fs : List (Byte × List Byte)) (sum : Byte) (after : List Byte), (∀ f ∈ fs, f.2.length < 256) →
    let fields := fs.flatMap fun f => f.1 :: BitVec.ofNat 8 f.2.length :: f.2
    let values := fs.map fun f => (f.1.toNat, f.2)
    fields.length < 256 →
    judgeBurst (0x41 :: BitVec.ofNat 8 fields.length :: (fields ++ sum :: after)) =
      if (0x41 + fields.length + (fields.map BitVec.toNat).sum + sum.toNat) % 256 = 0 ∧ values.all goodField = true ∧
        noTwice values = true then filedRecord values else ⟨.damaged, [], [], []⟩

/-- DIAL and the redial (02 R22 to R25, R39; 11 R183). DIAL is refused outside IDLE; a service code not 1 to 3 and a length above 20 are
BAD_FIELD; an accepted order takes its card and starts an originated call on a fresh copy of the profile with the dial string. At the end
of the retry delay the call starts again with the same string and profile, one attempt more. A VOICE call seizes the line where the
voltage is there (LINE_ABSENT where not), or with blind dialling is at once in DIALLING and takes its first symbol, as the dialler does at
the end of a pause. A DATA or FAX call claims a pump and waits in QUEUED; with no FREE pump and an originate pump wait of 0 s it ends at
once with NO_PUMP (04 R62, log 19). That a bad service code is named before a bad length is the model's reading (log 23), and that loop
current counts as present when the hook closes (log 22) and a settling pump holds STANDBY and originator (log 36) are its choices. -/
def Obligations.OriginatedCalls : Prop :=
  ∀ (n : LineId) (i : Fin 8) (volt : Bool) (s : State) (c : Instr) (v : Service) (symbols : List Byte) (p : Profile)
    (attempt : Nat),
    let card := s.card (.line n) i.val
    (s.takesCard (.line n) i.val (· == 3) = true →
      ((s.line n).call.state ≠ .idle → ∃ t, exec (.dial n i volt) s = .next t ∧
        State.ShortOrder n i.val .refusedState (s.line n).call.state.code 0 [] (s.line n) s t) ∧
      ((s.line n).call.state = .idle → card.byte 6 ∉ [1, 2, 3] → ∃ t, exec (.dial n i volt) s = .next t ∧
        State.ShortOrder n i.val .badField 6 0 [] (s.line n) s t) ∧
      ((s.line n).call.state = .idle → card.byte 6 ∈ [1, 2, 3] → 20 < card.byte 7 → ∃ t, exec (.dial n i volt) s = .next t ∧
        State.ShortOrder n i.val .badField 7 0 [] (s.line n) s t)) ∧
    (c = .dial n i volt ∧ s.takesCard (.line n) i.val (· == 3) = true ∧ (s.line n).call.state = .idle ∧
        card.byte 6 = v.code ∧ v ≠ .none ∧ card.byte 7 ≤ 20 ∧ symbols = (card.body.drop 6).take (card.byte 7) ∧
        p = Profile.ofWords (fun o => Memory.word s.store.mem (0x0500 + 256 * n.val + o)) ∧ attempt = 1 ∨
      c = .retryDelayExpiry n volt ∧ (s.line n).call.state = .holdoff ∧ (s.line n).ctl.stateTimer.isRunning = true ∧
        v = (s.line n).dialler.service ∧ symbols = (s.line n).dialler.symbols ∧ p = (s.line n).profile ∧
        attempt = (s.line n).dialler.attempt + 1) →
    let begun := fun (t : State) (st : LineState) (ph : DialPhase) (offhook : Long) =>
      (t.line n).profile = p ∧ (t.line n).dialler = ⟨v, symbols, symbols, p.dialMode, ph, .stopped, attempt, 0⟩ ∧
      (t.line n).call =
        { (s.line n).call with
          state := st, service := v, direction := .originate, tRing := 0, tOffhook := offhook, tConnect := 0, tClear := 0
          dayConnect := 0, wasConnected := false, ringCount := 0, caller := ⟨.absent, [], [], []⟩ } ∧
      (c = .dial n i volt → (t.card (.line n) i.val).hand = .taken ∧ (t.line n).ctl.dialCard = some i.val ∧
        (t.line n).fm.retryCount = 0) ∧
      (c = .retryDelayExpiry n volt → (t.line n).fm = { (s.line n).fm with retryPending := false }) ∧
      State.Aside n s t ∧ State.Steady s t
    (v = .voice → volt = true → p.blindDialling = false → ∃ t, exec c s = .next t ∧ begun t .seized .idle s.hdr.tick ∧
      (t.line n).ctl.stateTimer = .running (p.dialToneWait * 1000) ∧ (t.line n).ctl.loopPresent = true) ∧
    (v = .voice → volt = true → p.blindDialling = true → ∃ u, begun u .dialling .pause s.hdr.tick ∧
      (u.line n).ctl.stateTimer = .stopped ∧ (u.line n).ctl.loopPresent = true ∧ (u.line n).prog = Progress.initial ∧
      ∀ w, Leads (.pauseEnd n) u w → Leads c s w) ∧
    (v = .voice → volt = false → ∃ t, exec c s = .next t ∧ (t.line n).call.state = .clearing ∧
      (t.line n).call.lastOutcome = .fault .lineAbsent ∧ (t.line n).fm.last.map LastFault.kind = some .lineAbsent) ∧
    (v = .data ∨ v = .fax → ∀ q, (s.pump q).state = .free → (∀ r < q, (s.pump r).state ≠ .free) →
      ∃ t, exec c s = .next t ∧ begun t .queued .idle 0 ∧ (t.line n).claim = some ⟨.originate, .stopped⟩ ∧
        t.pump q = Pump.inState .settling (some n) ∧ t.queue = s.queue) ∧
    (v = .data ∨ v = .fax → (∀ q, (s.pump q).state ≠ .free) → 0 < p.originatePumpWait →
      ∃ t, exec c s = .next t ∧ begun t .queued .idle 0 ∧
        (t.line n).claim = some ⟨.originate, .running (p.originatePumpWait * 1000)⟩ ∧ t.pumps = s.pumps ∧
        t.queue = ⟨s.queue.answer, s.queue.originate ++ [n]⟩) ∧
    (v = .data ∨ v = .fax → (∀ q, (s.pump q).state ≠ .free) → p.originatePumpWait = 0 →
      ∃ t, exec c s = .next t ∧ (t.line n).call.state = .clearing ∧ (t.line n).call.lastOutcome = .fault .noPump ∧
        (t.line n).fm.last.map LastFault.kind = some .noPump ∧ (t.line n).claim = none ∧
        n ∉ t.queue.answer ∧ n ∉ t.queue.originate ∧ State.Aside n s t ∧ State.Steady s t)

/-- ANSWER and auto-answer (03 R47 to R51). ANSWER is refused outside ALERTING and BAD_FIELD for a code not 1 to 4; an accepted one takes
its card. Either answers with DATA, FAX, VOICE or ADAPTIVE (a voice answer that listens): the hook closes where the voltage is there, a
VOICE answer waits 300 ms, a DATA or FAX one claims a pump; with no FREE pump and an answer pump wait of 0 s NO_PUMP is reported at once
(04 R62, log 19), without voltage LINE_ABSENT. Auto-answer answers so at a further ring, and with rings before answer 1 at the first ring
of a call (R40), in IDLE, and in QUEUED and HOLDOFF, whose waiting call first ends CUT_BY_RING as RingsCounted states. That loop current
counts as present when the hook closes (log 22), that a settling pump holds STANDBY and originator (log 36) and that the service is one
byte (log 38) are the model's choices. -/
def Obligations.AnswerOrder : Prop :=
  ∀ (n : LineId) (i : Fin 8) (volt : Bool) (s : State) (c : Instr) (k : Nat),
    let card := s.card (.line n) i.val
    (s.takesCard (.line n) i.val (· == 4) = true →
      ((s.line n).call.state ≠ .alerting → ∃ t, exec (.answer n i volt) s = .next t ∧
        State.ShortOrder n i.val .refusedState (s.line n).call.state.code 0 [] (s.line n) s t) ∧
      ((s.line n).call.state = .alerting → card.byte 6 ∉ [1, 2, 3, 4] → ∃ t, exec (.answer n i volt) s = .next t ∧
        State.ShortOrder n i.val .badField 6 0 [] (s.line n) s t)) ∧
    ((s.line n).call.state = .alerting → k ∈ [1, 2, 3, 4] →
      c = .answer n i volt ∧ s.takesCard (.line n) i.val (· == 4) = true ∧ card.byte 6 = k ∨
        c = .ringCounted n volt ∧ s.monitor.suspended = false ∧
          (s.line n).profile.ringsBeforeAnswer ≤ min 65535 ((s.line n).call.ringCount + 1) ∧
          (s.line n).profile.answerMode =
            (match k with | 1 => AnswerMode.data | 2 => .fax | 3 => .voice | _ => .adaptive) →
      let v : Service := match k with | 1 => .data | 2 => .fax | _ => .voice
      let begun := fun (t : State) =>
        (t.line n).call.state = .answering ∧ (t.line n).call.service = v ∧ (t.line n).call.tOffhook = s.hdr.tick ∧
        (t.line n).ctl.loopPresent = true ∧ (t.line n).dec = ⟨false, none⟩ ∧ (t.line n).ctl.stateTimer = .stopped ∧
        (c = .answer n i volt → (t.card (.line n) i.val).hand = .taken ∧ (t.line n).ctl.answerCard = some i.val ∧
          (t.line n).call.ringCount = (s.line n).call.ringCount) ∧
        (c = .ringCounted n volt → (t.line n).call.ringCount = min 65535 ((s.line n).call.ringCount + 1)) ∧
        State.Aside n s t ∧ State.Steady s t
      (volt = true → 3 ≤ k → ∃ t, exec c s = .next t ∧ begun t ∧ (t.line n).seq.adaptive = decide (k = 4) ∧
        (t.line n).seq.settleTimer = .running 300) ∧
      (volt = true → k ≤ 2 → ∀ q, (s.pump q).state = .free → (∀ r < q, (s.pump r).state ≠ .free) →
        ∃ t, exec c s = .next t ∧ begun t ∧ (t.line n).claim = some ⟨.answer, .stopped⟩ ∧
          t.pump q = Pump.inState .settling (some n) ∧ t.queue = s.queue) ∧
      (volt = true → k ≤ 2 → (∀ q, (s.pump q).state ≠ .free) → 0 < (s.line n).profile.answerPumpWait →
        ∃ t, exec c s = .next t ∧ begun t ∧
          (t.line n).claim = some ⟨.answer, .running ((s.line n).profile.answerPumpWait * 1000)⟩ ∧ t.pumps = s.pumps ∧
          t.queue = ⟨s.queue.answer ++ [n], s.queue.originate⟩) ∧
      (volt = true → k ≤ 2 → (∀ q, (s.pump q).state ≠ .free) → (s.line n).profile.answerPumpWait = 0 →
        (s.line n).seq.step ≠ .switchWait →
        ∃ t, exec c s = .next t ∧ (t.line n).call.state = .clearing ∧ (t.line n).call.lastOutcome = .fault .noPump ∧
          (t.line n).fm.last.map LastFault.kind = some .noPump ∧ (t.line n).call.tOffhook = s.hdr.tick ∧ (t.line n).claim = none ∧
          n ∉ t.queue.answer ∧ n ∉ t.queue.originate ∧ State.Aside n s t ∧ State.Steady s t) ∧
      (volt = false → ∃ t, exec c s = .next t ∧ (t.line n).call.state = .clearing ∧
        (t.line n).call.lastOutcome = .fault .lineAbsent ∧ (t.line n).fm.last.map LastFault.kind = some .lineAbsent)) ∧
    (let p := Profile.ofWords fun o => Memory.word s.store.mem (0x0500 + 256 * n.val + o)
     let waiting := (s.line n).call.state = .queued ∨ (s.line n).call.state = .holdoff
     (s.line n).call.state = .idle ∨ waiting → k ∈ [1, 2, 3, 4] → s.monitor.suspended = false → p.ringsBeforeAnswer = 1 →
      p.answerMode = (match k with | 1 => AnswerMode.data | 2 => .fax | 3 => .voice | _ => .adaptive) →
      Memory.wf s.store.mem = true → s.PumpsInOrder → (∀ q, s.serves q n → (s.pump q).state = .settling) →
      let v : Service := match k with | 1 => .data | 2 => .fax | _ => .voice
      let rung := fun (t : State) =>
        (t.line n).profile = p ∧ (t.line n).call.direction = .answer ∧ (t.line n).call.tRing = s.hdr.tick ∧
        (t.line n).call.ringCount = 1 ∧ (t.line n).ev.bits.getLsbD 0 = true ∧
        ((s.line n).call.state = .queued → (t.line n).ev.bits.getLsbD 3 = true ∧
          (s.LongOrdersTaken → (s.line n).fm.retryPending = false → ∀ j, (s.line n).ctl.dialCard = some j →
            (t.line n).ctl.dialCard = none ∧
            State.Answered (.line n) j .cut CallOutcome.cutByRing.code 0 (s.line n).dialFields s t)) ∧
        ((s.line n).call.state = .holdoff → (s.line n).fm.retryPending = true →
          State.RetryAbandoned n .cutByRing [] s t ∧ State.KeptPagesReturned n s t) ∧
        State.Aside n s t ∧ State.Steady s t
      let begun := fun (t : State) =>
        rung t ∧ (t.line n).call.state = .answering ∧ (t.line n).call.service = v ∧ (t.line n).call.tOffhook = s.hdr.tick ∧
        (waiting → (t.line n).call.lastOutcome = .cutByRing) ∧ (t.line n).ctl.loopPresent = true ∧
        (t.line n).dec = ⟨false, none⟩ ∧ (t.line n).ctl.stateTimer = .stopped
      let left := s.queue.answer.filter (· != n)
      let dropped := fun (q : PumpId) => if (s.pump q).line = some n then { s.pump q with line := none } else s.pump q
      (volt = true → 3 ≤ k → ∃ t, exec (.ringCounted n volt) s = .next t ∧ begun t ∧
        (t.line n).seq.adaptive = decide (k = 4) ∧ (t.line n).seq.settleTimer = .running 300) ∧
      (volt = true → k ≤ 2 → (s.line n).call.state ≠ .queued → ∀ q, (s.pump q).state = .free →
        (∀ r < q, (s.pump r).state ≠ .free) → ∃ t, exec (.ringCounted n volt) s = .next t ∧ begun t ∧
          (t.line n).claim = some ⟨.answer, .stopped⟩ ∧ t.pump q = Pump.inState .settling (some n) ∧ t.queue = s.queue) ∧
      (volt = true → k ≤ 2 → (∀ q, (s.pump q).state ≠ .free) → 0 < p.answerPumpWait →
        ∃ t, exec (.ringCounted n volt) s = .next t ∧ begun t ∧
          (t.line n).claim = some ⟨.answer, .running (p.answerPumpWait * 1000)⟩ ∧ (∀ q, t.pump q = dropped q) ∧
          t.queue = ⟨left ++ [n], s.queue.originate.filter (· != n)⟩) ∧
      (volt = true → k ≤ 2 → (∀ q, (s.pump q).state ≠ .free) → p.answerPumpWait = 0 →
        ∃ t, exec (.ringCounted n volt) s = .next t ∧ rung t ∧ (t.line n).call.state = .clearing ∧
          (t.line n).call.lastOutcome = .fault .noPump ∧ (t.line n).fm.last.map LastFault.kind = some .noPump ∧
          (t.line n).call.tOffhook = s.hdr.tick ∧ (t.line n).claim = none ∧ n ∉ t.queue.answer ∧ n ∉ t.queue.originate) ∧
      (volt = false → ∃ t, exec (.ringCounted n volt) s = .next t ∧ rung t ∧ (t.line n).call.state = .clearing ∧
        (t.line n).call.lastOutcome = .fault .lineAbsent ∧ (t.line n).fm.last.map LastFault.kind = some .lineAbsent ∧
        (t.line n).ctl.declined = true))

/-- The answer sequence (03 R51 to R54; 08 R139). At the end of the 300 ms the call connects as voice; a loaded greeting plays first, an
adaptive answer then listens for its time, and automatic recording or step HOST follows. At the end of the listen time nothing was judged
and the sequence goes on: a recording into the lowest-numbered EMPTY entry, its framing begun afresh, or with none the end of the call. That
an entry that begins to record holds end reason NONE and trailing silence 0 is the model's choice (log 42). -/
def Obligations.AnswerSequence : Prop :=
  ∀ (n : LineId) (s : State),
    let p := (s.line n).profile
    let q := (s.line n).seq
    let silent := p.greetingSlot = none ∨ ∃ g, p.greetingSlot = some g ∧ (s.slot g).state ≠ .loaded
    ((s.line n).call.state = .answering → q.settleTimer.isRunning = true →
      (∀ g, p.greetingSlot = some g → (s.slot g).state = .loaded → ∃ t, exec (.voiceSettleExpiry n) s = .next t ∧
        State.Connects n .voice s t ∧
        (t.line n).seq =
          { q with step := .greeting, listening := q.adaptive, greetingStopped := false, settleTimer := .stopped } ∧
        (t.line n).voice =
          { (s.line n).voice with
            play := .slot g, playCard := none, playChain := (s.slot g).chain, playTotal := (s.slot g).sampleCount
            samplesPlayed := 0, decoder := ⟨0, 0⟩ } ∧
        t.slot g = { s.slot g with playCount := (s.slot g).playCount + 1 }) ∧
      (silent → q.adaptive = true → 0 < p.listenTime → ∃ t, exec (.voiceSettleExpiry n) s = .next t ∧
        State.Connects n .voice s t ∧
        (t.line n).seq =
          { q with
            step := .listen, listening := true, greetingStopped := false, settleTimer := .stopped
            listenTimer := .running (p.listenTime * 1000) }) ∧
      (silent → q.adaptive = false → p.recordAfter = false → ∃ t, exec (.voiceSettleExpiry n) s = .next t ∧
        State.Connects n .voice s t ∧
        (t.line n).seq = { q with step := .host, listening := false, greetingStopped := false, settleTimer := .stopped })) ∧
    (q.step = .listen → q.listening = true → q.listenTimer.isRunning = true →
      let deaf := fun (st : SeqStep) => ({ q with step := st, listening := false, listenTimer := .stopped } : AnswerSeq)
      (p.recordAfter = false ∨ q.greetingStopped = true → Leads (.adaptiveListenExpiry n) s
        (s.onLine n fun l => { l with seq := deaf .host })) ∧
      (p.recordAfter = true → q.greetingStopped = false →
        (∀ m, (s.message m).state = .empty → (∀ k < m, (s.message k).state ≠ .empty) → Leads (.adaptiveListenExpiry n) s
          (((s.onMessage m fun x =>
            { Message.initial x.changeCount with
              state := .recording, line := n, number := s.hdr.nextMessage, dayClock := s.hdr.dayClock
              caller := (s.line n).call.caller }).onHdr fun h =>
                { h with nextMessage := if h.nextMessage = 65535 then 1 else h.nextMessage + 1 }).onLine n fun l =>
            { l with
              seq := deaf .recording
              voice :=
                { l.voice with
                  recording := some m, recKind := .automatic, stopOnDigit := p.stopOnDigit, encoder := ⟨0, 0⟩
                  silentRun := 0, frame := [], ahead := 0 } })) ∧
        ((∀ m, (s.message m).state ≠ .empty) → (s.line n).voice.recording = none →
          ∃ t, exec (.adaptiveListenExpiry n) s = .next t ∧
          State.Cleared n .localCleared s t ∧ (t.line n).voice.lastEnd = .tableFull ∧
          (t.line n).ev.bits.getLsbD 11 = true ∧ State.Steady s t)))

/-- The answer sequence between its steps (03 R53 to R55, R57; 08 R139, R142). With no greeting and nothing to listen for, automatic
recording starts as the call connects, or the step is HOST, or with no EMPTY entry the call is cleared. At a greeting's last sample, or at
the STOP that ends it, a listening line listens for its time, and another, or one with a listen time of 0 (the model's reading, log 25),
records or goes to HOST; after a STOP it never records; in SWITCH WAIT the step stays. A switch claim that expires reports NO_PUMP, which
clears the call under LATCH alone (RETRY acting as REPORT there), and else goes on: at GREETING while the greeting plays, else with a
recording or HOST. That an entry that begins to record holds end reason NONE and trailing silence 0 is the model's choice (log 42). -/
def Obligations.AnswerSequenceGoesOn : Prop :=
  ∀ (n : LineId) (s : State),
    let l := s.line n
    let p := l.profile
    let q := l.seq
    let v := l.voice
    let deaf : AnswerSeq := { q with listening := false, listenTimer := .stopped }
    let lowest := fun (m : EntryId) => (s.message m).state = .empty ∧ ∀ k < m, (s.message k).state ≠ .empty
    let full := (∀ m, (s.message m).state ≠ .empty) ∧ v.recording = none
    let records := fun (u : State) (m : EntryId) (x : AnswerSeq) =>
      ((u.onMessage m fun y =>
        { Message.initial y.changeCount with
          state := .recording, line := n, number := s.hdr.nextMessage, dayClock := s.hdr.dayClock, caller := l.call.caller }).onHdr
        fun h => { h with nextMessage := if h.nextMessage = 65535 then 1 else h.nextMessage + 1 }).onLine n fun y =>
      { y with
        seq := { x with step := .recording }
        voice :=
          { y.voice with
            recording := some m, recKind := .automatic, stopOnDigit := p.stopOnDigit, encoder := ⟨0, 0⟩, silentRun := 0
            frame := [], ahead := 0 } }
    let seq := fun (u : State) (x : AnswerSeq) => u.onLine n fun y => { y with seq := x }
    (l.call.state = .answering → q.settleTimer.isRunning = true →
      (p.greetingSlot = none ∨ ∃ g, p.greetingSlot = some g ∧ (s.slot g).state ≠ .loaded) →
      q.adaptive = false ∨ p.listenTime = 0 →
      (p.recordAfter = false → ∃ t, exec (.voiceSettleExpiry n) s = .next t ∧ State.Connects n .voice s t ∧
        (t.line n).seq.step = .host ∧ (t.line n).seq.listening = false ∧ (t.line n).voice = v) ∧
      (p.recordAfter = true →
        (∀ m, lowest m → ∃ t, exec (.voiceSettleExpiry n) s = .next t ∧ State.Connects n .voice s t ∧
          (t.line n).seq.step = .recording ∧ (t.line n).seq.listening = false ∧
          (t.line n).voice =
            { v with
              recording := some m, recKind := .automatic, stopOnDigit := p.stopOnDigit, encoder := ⟨0, 0⟩, silentRun := 0
              frame := [], ahead := 0 } ∧
          t.message m =
            { Message.initial (t.message m).changeCount with
              state := .recording, line := n, number := s.hdr.nextMessage, dayClock := s.hdr.dayClock, caller := l.call.caller } ∧
          t.hdr.nextMessage = if s.hdr.nextMessage = 65535 then 1 else s.hdr.nextMessage + 1) ∧
        (full → ∃ t, exec (.voiceSettleExpiry n) s = .next t ∧ (t.line n).call.state = .clearing ∧
          (t.line n).call.lastOutcome = .localCleared ∧ (t.line n).call.tConnect =
            (if l.call.wasConnected then l.call.tConnect else s.hdr.tick) ∧ (t.line n).call.tClear = s.hdr.tick ∧
          (t.line n).voice.lastEnd = .tableFull ∧ (t.line n).ev.bits.getLsbD 2 = true ∧ (t.line n).ev.bits.getLsbD 3 = true ∧
          (t.line n).ev.bits.getLsbD 11 = true ∧ State.Aside n s t ∧ State.Steady s t))) ∧
    (∀ g, v.play = .slot g → v.playCard = none → v.playTotal ≤ v.samplesPlayed + 1 → (s.slot g).state = .loaded →
      let byte := (s.store.chainByte v.playChain (v.samplesPlayed / 2)).toNat
      let d := v.decoder.decode (if v.samplesPlayed % 2 = 0 then byte / 16 else byte % 16)
      let played := ((s.onLine n fun y =>
        { y with
          voice :=
            { y.voice with
              play := .none, playChain := [], playTotal := 0, decoder := d, samplesPlayed := v.samplesPlayed + 1 } }).onSlot g
          fun x => { x with playCount := x.playCount - 1 }).emit (.audio n d.p)
      let c : Instr := .decodeSample n
      (q.step ≠ .greeting → Leads c s played) ∧
      (q.step = .greeting → q.listening = true → 0 < p.listenTime → Leads c s (seq played
        { q with step := .listen, listenTimer := .running (p.listenTime * 1000) })) ∧
      ∀ x, q.step = .greeting → (q.listening = true ∧ p.listenTime = 0 ∧ x = deaf ∨ q.listening = false ∧ x = q) →
        (p.recordAfter = false ∨ q.greetingStopped = true → Leads c s (seq played { x with step := .host })) ∧
        (p.recordAfter = true → q.greetingStopped = false →
          (∀ m, lowest m → Leads c s (records played m x)) ∧
          (full → ∃ t, exec c s = .next t ∧ State.Cleared n .localCleared s t ∧ (t.line n).voice.lastEnd = .tableFull ∧
            (t.line n).ev.bits.getLsbD 11 = true ∧ State.Steady s t))) ∧
    (∀ (g : SlotId) (i : Fin 8), v.play = .slot g → v.playCard = none → v.recording = none → l.connectedAs .voice = true →
      s.takesCard (.line n) i.val (· == 10) = true → ∃ t, exec (.stop n i) s = .next t ∧
        State.Answered (.line n) i.val .done 0 0 [1, 0] s t ∧ (t.line n).voice.play = .none ∧
        (t.line n).voice.recording = none ∧ (t.line n).call = l.call ∧
        (q.step ≠ .greeting → (t.line n).seq = { q with greetingStopped := true }) ∧
        (q.step = .greeting → q.listening = true → 0 < p.listenTime → (t.line n).seq =
          { q with greetingStopped := true, step := .listen, listenTimer := .running (p.listenTime * 1000) }) ∧
        (q.step = .greeting → q.listening = true → p.listenTime = 0 → (t.line n).seq =
          { deaf with greetingStopped := true, step := .host }) ∧
        (q.step = .greeting → q.listening = false → (t.line n).seq = { q with greetingStopped := true, step := .host })) ∧
    (l.connectedAs .voice = true → q.step = .switchWait → (∃ k, l.claim = some k ∧ k.wait.isRunning = true) →
      let c : Instr := .claimWaitExpiry n
      let policy : Policy := l.applied .noPump
      (policy = .latch ∨ policy = .retry → Faults c n .noPump .none s) ∧
      ((∀ k : Policy, l.call.direction = .answer → p.policy .noPump = k → policy = if k = .retry then Policy.report else k) ∧
        (policy = .report ∨ policy = .silent → (∀ k, s.serves k n → (s.pump k).state ≠ .settling) →
          let on : State := { s with queue := ⟨s.queue.answer.filter (· != n), s.queue.originate.filter (· != n)⟩ }.onLine n fun y =>
            { y with
              claim := none
              fm := { y.fm with last := some ⟨.noPump, .none, policy, s.hdr.tick⟩ }
              ev := if policy = Policy.silent then y.ev else { y.ev with bits := y.ev.bits ||| 0x1000, tally := y.ev.tally + 1 } }
          let greets := v.playCard = none ∧ ∃ g, v.play = .slot g
          (greets → Leads c s (seq on { q with step := .greeting })) ∧
          (¬greets → p.recordAfter = false ∨ q.greetingStopped = true → Leads c s (seq on { q with step := .host })) ∧
          (¬greets → p.recordAfter = true → q.greetingStopped = false →
            (∀ m, lowest m → Leads c s (records on m q)) ∧
            (full → ∃ t, exec c s = .next t ∧ State.Cleared n .localCleared s t ∧ (t.line n).voice.lastEnd = .tableFull ∧
              (t.line n).ev.bits.getLsbD 11 = true ∧ State.Steady s t)))))

/-! ## Voice, greetings and messages (chapter 8) -/

/-- PLAY, RECORD and STOP (08 R138, R139, R147 to R149; 10 R173): their refusals; a long order accepted leaves its card TAKEN with its body
and starts a play of a slot or a chain, whose blocks become PLAY, or a recording into the lowest-numbered EMPTY entry; STOP ends both on the
line and says which were in progress, the cards of a PLAY and a RECORD being answered DONE with STOPPED; the chain of the play goes back to
HOST, or its slot's play count falls by one, the last play of a WITHDRAWING slot emptying it with its UNLOAD GREETING card answered DONE (08
R146, R148); after an automatic recording the call is cleared LOCAL_CLEARED, and else it goes on (08 R142, R149). That stop on digit is one
byte is the model's choice (log 38). That an entry that begins to record holds end reason NONE and trailing silence 0 is the model's choice
(log 42). -/
def Obligations.PlayRecordAndStop : Prop :=
  ∀ (n : LineId) (i : Fin 8) (s : State),
    let card := s.card (.line n) i.val
    let taken := s.taking (.line n) i.val
    let v := (s.line n).voice
    let short := fun (c : Instr) (st : Status) (reason : Nat) (fs : List Byte) =>
      ∃ t, exec c s = .next t ∧ State.ShortOrder n i.val st reason 0 fs (s.line n) s t
    ((∀ codes, s.takesCard (.line n) i.val codes = true → taken.card (.line n) i.val = ⟨.taken, card.body⟩ ∧
      (taken.table (.line n)).lastTaken = s.lastTakenWith (.line n) i.val) ∧
      ∀ j, j ≠ i.val → taken.card (.line n) j = s.card (.line n) j) ∧
    (s.takesCard (.line n) i.val (· == 9) = true →
      ((s.line n).connectedAs .voice = false → short (.record n i) .refusedState (s.line n).call.state.code []) ∧
      ((s.line n).connectedAs .voice = true →
        (v.recording ≠ none ∨ (s.line n).seq.step ≠ .host → short (.record n i) .refusedBusy 0 []) ∧
        (v.recording = none → (s.line n).seq.step = .host →
          ((∀ m, (s.message m).state ≠ .empty) → short (.record n i) .refusedFull 0 []) ∧
          ∀ m, (s.message m).state = .empty → (∀ k < m, (s.message k).state ≠ .empty) → Leads (.record n i) s
            (((taken.onMessage m fun x =>
              { Message.initial x.changeCount with
                state := .recording, line := n, number := s.hdr.nextMessage, dayClock := s.hdr.dayClock
                caller := (s.line n).call.caller }).onHdr fun h =>
                  { h with nextMessage := if h.nextMessage = 65535 then 1 else h.nextMessage + 1 }).onLine n fun l =>
              { l with
                voice :=
                  { l.voice with
                    recording := some m, recKind := .host i.val, stopOnDigit := card.byte 6 != 0, encoder := ⟨0, 0⟩
                    silentRun := 0, frame := [], ahead := 0 } })))) ∧
    (s.takesCard (.line n) i.val (· == 8) = true →
      ((s.line n).connectedAs .voice = false → short (.play n i) .refusedState (s.line n).call.state.code []) ∧
      ((s.line n).connectedAs .voice = true →
        (v.play ≠ .none → short (.play n i) .refusedBusy 0 []) ∧
        (v.play = .none →
          let playing := fun (u : State) (p : Play) (c : Chain) (total : Nat) => u.onLine n fun l =>
            { l with
              voice :=
                { l.voice with
                  play := p, playCard := some i.val, playChain := c, playTotal := total, samplesPlayed := 0
                  decoder := ⟨0, 0⟩ } }
          (card.byte 6 ≠ 1 → card.byte 6 ≠ 2 → short (.play n i) .badField 6 []) ∧
          (card.byte 6 = 1 → 8 ≤ card.byte 7 → short (.play n i) .badField 7 []) ∧
          (∀ g : SlotId, card.byte 6 = 1 → card.byte 7 = g.val →
            ((s.slot g).state ≠ .loaded → short (.play n i) .absent 0 []) ∧
            ((s.slot g).state = .loaded → Leads (.play n i) s
              ((playing taken (.slot g) (s.slot g).chain (s.slot g).sampleCount).onSlot g fun x =>
                { x with playCount := x.playCount + 1 }))) ∧
          (card.byte 6 = 2 → ∀ e, s.store.validate .voice 255 (card.word 8) = .error e →
            short (.play n i) .badChain e.test.code (wordBytes e.position)) ∧
          (card.byte 6 = 2 → ∀ c, s.store.validate .voice 255 (card.word 8) = .ok c → Leads (.play n i) s
            (playing (taken.onStore fun st => st.assignAll (c.map Prod.fst) (.play n)) (.chain (card.word 8)) c
              (2 * (c.map Prod.snd).sum)))))) ∧
    (s.takesCard (.line n) i.val (· == 10) = true →
      ((s.line n).call.state = .off ∨ (s.line n).call.state = .fault →
        short (.stop n i) .refusedState (s.line n).call.state.code []) ∧
      ((s.line n).call.state ≠ .off → (s.line n).call.state ≠ .fault → ∃ t, exec (.stop n i) s = .next t ∧
        State.Answered (.line n) i.val .done 0 0
          [if v.play = .none then 0 else 1, if v.recording = none then 0 else 1] s t ∧
        (t.line n).voice.play = .none ∧ (t.line n).voice.recording = none ∧ State.Aside n s t ∧ State.Steady s t ∧
        (∀ m, v.recording = some m → (t.message m).state = .complete ∧ (t.message m).endReason = .stopped ∧
          (v.recKind = .automatic → State.Cleared n .localCleared s t)) ∧
        (v.recording = none ∨ (∃ j, v.recKind = .host j) → (t.line n).call = (s.line n).call) ∧
        ((s.line n).connectedAs .voice = true → (s.line n).fax.role ≠ .receiver →
          (v.play = .none → t.store = s.store) ∧
          (∀ first, v.play = .chain first → t.store = s.store.assignAll (v.playChain.map Prod.fst) .host) ∧
          ∀ g, v.play = .slot g →
            ((s.slot g).state ≠ .withdrawing ∨ 1 < (s.slot g).playCount →
              t.slot g = { s.slot g with playCount := (s.slot g).playCount - 1 } ∧ t.store = s.store) ∧
            ((s.slot g).state = .withdrawing → (s.slot g).playCount ≤ 1 →
              t.slot g = ⟨.empty, [], 0, 0, none⟩ ∧ t.store = ((s.slot g).chain.map Prod.fst).foldl Store.release s.store ∧
              ∀ j, (s.slot g).unloadCard = some j → j < s.engTable.cards.length → State.Answered .engine j .done 0 0 [] s t)) ∧
        (s.LongOrdersTaken →
          (∀ j, v.play ≠ .none → v.playCard = some j →
            State.Answered (.line n) j .done 0 0 (longBytes v.samplesPlayed ++ [2]) s t) ∧
          ∀ m j, v.recording = some m → v.recKind = .host j → State.Answered (.line n) j .done 0 0
            (wordBytes m.val ++ wordBytes (s.message m).number ++ wordBytes 5 ++ longBytes (s.message m).sampleCount ++
              wordBytes (s.message m).blocks.length) s t)))

/-- TAKE DIGITS (08 R151) is answered DONE in every state with the count, the digits in the order heard and the overflow, and empties the
queue. A digit heard in CONNECTED-VOICE (08 R150) is queued, raising DIGIT in an empty queue, or counted as overflow where 16 are queued; it
ends a recording that stops on a digit, and adaptive listening (03 R54): in step LISTEN the answer sequence then goes on at once, to an
automatic recording into the lowest-numbered EMPTY entry, with none to the end of the call, or to HOST (03 R53; 08 R139). That an entry that
begins to record holds end reason NONE and trailing silence 0 is the model's choice (log 42). -/
def Obligations.TakeDigitsAndDigits : Prop :=
  (∀ (n : LineId) (i : Fin 8) (s : State), s.takesCard (.line n) i.val (· == 11) = true →
    ∃ t, exec (.takeDigits n i) s = .next t ∧
      State.ShortOrder n i.val .done 0 (s.line n).voice.digits.length
        (((s.line n).voice.digits ++ List.replicate 16 0).take 16 ++ wordBytes (s.line n).voice.overflow)
        { s.line n with voice := { (s.line n).voice with digits := [], overflow := 0 } } s t) ∧
  ∀ (n : LineId) (d : Byte) (s : State),
    let v := (s.line n).voice
    ((s.line n).connectedAs .voice = false → Leads (.dtmfDigit n d) s s) ∧
    (∀ g : Line → Line, (s.line n).connectedAs .voice = true → v.recording = none ∨ v.stopOnDigit = false →
      v.digits = [] ∧ g = (fun l =>
          { l with
            voice := { l.voice with digits := [d] }
            ev := { l.ev with bits := l.ev.bits ||| 0x0020, tally := l.ev.tally + 1 } }) ∨
        v.digits ≠ [] ∧ v.digits.length < 16 ∧ g = (fun l =>
          { l with voice := { l.voice with digits := l.voice.digits ++ [d] } }) ∨
        16 ≤ v.digits.length ∧ g = (fun l =>
          { l with voice := { l.voice with overflow := min 65535 (l.voice.overflow + 1) } }) →
      let p := (s.line n).profile
      let deaf := fun (q : AnswerSeq) => { q with listening := false, listenTimer := .stopped }
      ((s.line n).seq.listening = false → Leads (.dtmfDigit n d) s (s.onLine n g)) ∧
      ((s.line n).seq.listening = true → (s.line n).seq.step ≠ .listen →
        Leads (.dtmfDigit n d) s (s.onLine n fun l => { g l with seq := deaf l.seq })) ∧
      ((s.line n).seq.listening = true → (s.line n).seq.step = .listen → v.recording = none →
        (p.recordAfter = false ∨ (s.line n).seq.greetingStopped = true →
          Leads (.dtmfDigit n d) s (s.onLine n fun l => { g l with seq := { deaf l.seq with step := .host } })) ∧
        (p.recordAfter = true → (s.line n).seq.greetingStopped = false →
          (∀ m, (s.message m).state = .empty → (∀ k < m, (s.message k).state ≠ .empty) → Leads (.dtmfDigit n d) s
            (((s.onMessage m fun x =>
              { Message.initial x.changeCount with
                state := .recording, line := n, number := s.hdr.nextMessage, dayClock := s.hdr.dayClock
                caller := (s.line n).call.caller }).onHdr fun h =>
                  { h with nextMessage := if h.nextMessage = 65535 then 1 else h.nextMessage + 1 }).onLine n fun l =>
              { g l with
                seq := { deaf l.seq with step := .recording }
                voice :=
                  { (g l).voice with
                    recording := some m, recKind := .automatic, stopOnDigit := p.stopOnDigit, encoder := ⟨0, 0⟩
                    silentRun := 0, frame := [], ahead := 0 } })) ∧
          ((∀ m, (s.message m).state ≠ .empty) → ∃ t, exec (.dtmfDigit n d) s = .next t ∧
            State.Cleared n .localCleared s t ∧ (t.line n).voice.lastEnd = .tableFull ∧
            (t.line n).voice.digits = (g (s.line n)).voice.digits ∧ (t.line n).ev.bits.getLsbD 11 = true ∧
            State.Steady s t)))) ∧
    ∀ m, (s.line n).connectedAs .voice = true → v.recording = some m → v.stopOnDigit = true →
      ∃ t, exec (.dtmfDigit n d) s = .next t ∧ (t.line n).voice.recording = none ∧ (t.message m).state = .complete ∧
        (t.message m).endReason = .digit ∧ (t.line n).ev.bits.getLsbD 11 = true ∧ State.Aside n s t ∧ State.Steady s t ∧
        (v.recKind = .automatic → (t.line n).seq.step = .host ∧ (t.line n).call = (s.line n).call)

/-- The codec and its samples (08 R135, R140, R148). Step size, code, predictor and step index of a sample; the decoder that takes
the code follows the encoder. A play sends one sample of its chain at a time, the more significant four bits of a byte first, and
ends with its last, its PLAY card answered DONE with END, its chain back to HOST or its slot's play count one less, the last play of a
WITHDRAWING slot emptying it, with its UNLOAD GREETING card answered DONE (R146, R148; a greeting's end: AnswerSequenceGoesOn); a recording
stores two codes to a byte, takes the sample into the present frame of the silence measurement unless
that frame has been judged, and ends STORE_FULL where a block is needed at the Reserve, or MAX_LENGTH with the sample that
fills its time; a RECORD card is then answered DONE (R142), and an automatic recording's call clears. Two points are the model's. A sample
of a frame judged before the sample was coded, of which `ahead` counts those still to come, joins no further frame: its reading of R136 and
R141 (log 26). The last sample of a play and the play's end are one step: its choice where R148 leaves the order of the last sample and a
STOP open (log 34). -/
def Obligations.SamplesCodedAndDecoded : Prop :=
  (stepSize 0 = 16 ∧ ∀ k, stepSize (k + 1) = stepSize k + stepSize k / 8) ∧
  (∀ (c : Codec) (x : Int),
    let m := min 7 (2 * (x - c.p).natAbs / stepSize c.k)
    let delta : Int := ((2 * m + 1) * stepSize c.k / 4 : Nat)
    let adj : Int := if m ≤ 3 then -1 else 2 * m - 6
    (c.encode x).1 = (if x < c.p then 8 else 0) + m ∧
    (c.encode x).2 = ⟨max (-8192) (min 8191 (if x < c.p then c.p - delta else c.p + delta)),
      (max 0 (min 46 ((c.k : Int) + adj))).toNat⟩ ∧
    c.decode (c.encode x).1 = (c.encode x).2) ∧
  ∀ (n : LineId) (x : Sample) (s : State),
    let v := (s.line n).voice
    let byte := (s.store.chainByte v.playChain (v.samplesPlayed / 2)).toNat
    let d := v.decoder.decode (if v.samplesPlayed % 2 = 0 then byte / 16 else byte % 16)
    (v.play = .none → Leads (.decodeSample n) s s) ∧
    (v.play ≠ .none → v.samplesPlayed + 1 < v.playTotal → Leads (.decodeSample n) s
      ((s.onLine n fun l =>
        { l with voice := { l.voice with decoder := d, samplesPlayed := l.voice.samplesPlayed + 1 } }).emit (.audio n d.p))) ∧
    (∀ j first, v.play = .chain first → v.playCard = some j → j < (s.line n).table.cards.length →
      v.playTotal ≤ v.samplesPlayed + 1 → ∃ t, exec (.decodeSample n) s = .next t ∧ (t.line n).voice.play = .none ∧
        State.Answered (.line n) j .done 0 0 (longBytes (v.samplesPlayed + 1) ++ [1]) s t ∧
        t.store = s.store.assignAll (v.playChain.map Prod.fst) .host ∧ State.Aside n s t ∧ State.Steady s t) ∧
    (∀ j g, v.play = .slot g → v.playCard = some j → j < (s.line n).table.cards.length → v.playTotal ≤ v.samplesPlayed + 1 →
      ∃ t, exec (.decodeSample n) s = .next t ∧ (t.line n).voice.play = .none ∧ (t.line n).voice.playCard = none ∧
        (t.line n).seq = (s.line n).seq ∧
        State.Answered (.line n) j .done 0 0 (longBytes (v.samplesPlayed + 1) ++ [1]) s t ∧
        ((s.slot g).state ≠ .withdrawing ∨ 1 < (s.slot g).playCount →
          t.slot g = { s.slot g with playCount := (s.slot g).playCount - 1 } ∧ t.store = s.store) ∧
        ((s.slot g).state = .withdrawing → (s.slot g).playCount ≤ 1 →
          t.slot g = ⟨.empty, [], 0, 0, none⟩ ∧ t.store = ((s.slot g).chain.map Prod.fst).foldl Store.release s.store ∧
          ∀ i, (s.slot g).unloadCard = some i → i < s.engTable.cards.length → State.Answered .engine i .done 0 0 [] s t) ∧
        State.Aside n s t ∧ State.Steady s t) ∧
    (v.recording = none → Leads (.encodeSample n x) s s) ∧
    ∀ m, v.recording = some m →
      let e := v.encoder.encode x.toInt
      let heard := fun (v : Voice) => if 0 < v.ahead then { v with encoder := e.2, ahead := v.ahead - 1 }
        else { v with encoder := e.2, frame := if v.frame.length < 80 then v.frame ++ [x] else [x] }
      let counted := fun (u : State) => (u.onMessage m fun y => { y with sampleCount := y.sampleCount + 1 }).onLine n fun l =>
        { l with voice := heard l.voice }
      (∀ b, (s.message m).blocks.getLast? = some b → (s.message m).sampleCount + 1 < (s.line n).profile.maxLength * 8000 →
        ((s.message m).sampleCount % 2 = 1 → Leads (.encodeSample n x) s (counted (s.onStore fun st =>
          st.setPayload b (st.fill b - 1) ((st.payload b (st.fill b - 1) &&& 0xF0) ||| BitVec.ofNat 8 e.1)))) ∧
        ((s.message m).sampleCount % 2 = 0 → s.store.fill b < 1016 → Leads (.encodeSample n x) s
          (counted (s.onStore fun st => st.append b [BitVec.ofNat 8 (16 * e.1)])))) ∧
      (∀ b, (s.message m).blocks.getLast? = some b → (s.line n).profile.maxLength * 8000 ≤ (s.message m).sampleCount + 1 →
        (s.message m).sampleCount % 2 = 1 ∨ s.store.fill b < 1016 → ∃ t, exec (.encodeSample n x) s = .next t ∧
          (t.line n).voice.recording = none ∧ (t.message m).state = .complete ∧ (t.message m).endReason = .maxLength ∧
          (t.message m).sampleCount = (s.message m).sampleCount + 1 ∧ (t.line n).ev.bits.getLsbD 11 = true ∧
          (∀ j, v.recKind = .host j → j < (s.line n).table.cards.length → State.Answered (.line n) j .done 0 0
            (wordBytes m.val ++ wordBytes (s.message m).number ++ wordBytes 2 ++ longBytes ((s.message m).sampleCount + 1) ++
              wordBytes (s.message m).blocks.length) s t ∧ (t.line n).call = (s.line n).call) ∧
          (v.recKind = .automatic → (t.line n).call.state = .clearing ∧ (t.line n).call.lastOutcome = .localCleared) ∧
          State.Aside n s t ∧ State.Steady s t) ∧
      ((s.message m).sampleCount % 2 = 0 →
        (s.message m).blocks = [] ∨ (∃ b, (s.message m).blocks.getLast? = some b ∧ s.store.fill b = 1016) →
        (s.store.free.length ≤ min s.hdr.reserve.toNat 64 → ∃ t, exec (.encodeSample n x) s = .next t ∧
          (t.line n).voice.recording = none ∧ (t.message m).state = .complete ∧ (t.message m).endReason = .storeFull ∧
          (t.message m).sampleCount = (s.message m).sampleCount ∧ (t.line n).ev.bits.getLsbD 13 = true ∧
          (∀ j, v.recKind = .host j → j < (s.line n).table.cards.length → State.Answered (.line n) j .done 0 0
            (wordBytes m.val ++ wordBytes (s.message m).number ++ wordBytes 3 ++ longBytes (s.message m).sampleCount ++
              wordBytes (s.message m).blocks.length) s t ∧ (t.line n).call = (s.line n).call) ∧
          (v.recKind = .automatic → (t.line n).call.state = .clearing ∧ (t.line n).call.lastOutcome = .localCleared) ∧
          State.Aside n s t ∧ State.Steady s t) ∧
        ∀ b rest, s.store.free = b :: rest → min s.hdr.reserve.toNat 64 < s.store.free.length →
          (s.message m).sampleCount + 1 < (s.line n).profile.maxLength * 8000 → ∃ t, exec (.encodeSample n x) s = .next t ∧
          t.store.free = rest ∧ t.store.owners = s.store.owners.set b (.msg m) ∧
          (t.message m).blocks = (s.message m).blocks ++ [b] ∧ (t.message m).sampleCount = (s.message m).sampleCount + 1 ∧
          (t.line n).voice = heard v ∧ State.Aside n s t ∧ State.Steady s t)

/-- LOAD GREETING, UNLOAD GREETING, COLLECT MESSAGE and DISCARD MESSAGE (08 R143 to R146): their refusals; a greeting loaded into an EMPTY
slot, whose blocks become GREET; a slot emptied, or withdrawn while plays of it go on; a COMPLETE entry collected, its blocks becoming HOST,
or discarded, its blocks freed in chain order. That the slot and the entry are one byte is the model's choice (log 38). That the first block
field of an ABSENT or BAD_FIELD answer of COLLECT MESSAGE is 0 is the model's choice (log 41), and so are the fields of the emptied entry
beside its first block and counts (log 42). -/
def Obligations.GreetingsAndMessages : Prop :=
  ∀ (i : Fin 4) (s : State),
    let card := s.card .engine i.val
    let short := fun (c : Instr) (st : Status) (reason : Nat) (fs : List Byte) (u : State) =>
      ∃ t, exec c s = .next t ∧ State.ShortEngineOrder i.val st reason 0 fs u s t
    let load := s.takesCard .engine i.val (· == 34)
    let unload := s.takesCard .engine i.val (· == 35)
    (load = true → 8 ≤ card.byte 6 → short (.loadGreeting i) .badField 6 [] s) ∧
    (unload = true → 8 ≤ card.byte 6 → short (.unloadGreeting i) .badField 6 [] s) ∧
    (∀ g : SlotId, card.byte 6 = g.val →
      (load = true →
        ((s.slot g).state ≠ .empty → short (.loadGreeting i) .refusedBusy 0 [] s) ∧
        ((s.slot g).state = .empty → ∀ e, s.store.validate .voice 255 (card.word 8) = .error e →
          short (.loadGreeting i) .badChain e.test.code (wordBytes e.position) s) ∧
        ((s.slot g).state = .empty → ∀ c, s.store.validate .voice 255 (card.word 8) = .ok c →
          short (.loadGreeting i) .done 0 (wordBytes c.length ++ longBytes (2 * (c.map Prod.snd).sum))
            ((s.onStore fun st => st.assignAll (c.map Prod.fst) (.greet g)).onSlot g fun _ =>
              ⟨.loaded, c, 2 * (c.map Prod.snd).sum, 0, none⟩))) ∧
      (unload = true →
        ((s.slot g).state = .empty → short (.unloadGreeting i) .absent 0 [] s) ∧
        ((s.slot g).state = .withdrawing → short (.unloadGreeting i) .refusedBusy 0 [] s) ∧
        ((s.slot g).state = .loaded → (s.slot g).playCount = 0 → ∃ t, exec (.unloadGreeting i) s = .next t ∧
          State.Answered .engine i.val .done 0 0 [] s t ∧ t.slot g = ⟨.empty, [], 0, 0, none⟩ ∧
          t.store = ((s.slot g).chain.map Prod.fst).foldl Store.release s.store) ∧
        ((s.slot g).state = .loaded → 0 < (s.slot g).playCount → Leads (.unloadGreeting i) s
          ((s.taking .engine i.val).onSlot g fun x => { x with state := .withdrawing, unloadCard := some i.val })))) ∧
    ∀ (c : Instr) (code : Nat), c = .collectMessage i ∧ code = 36 ∨ c = .discardMessage i ∧ code = 37 →
      s.takesCard .engine i.val (· == code) = true →
      (32 ≤ card.byte 6 → short c .badField 6 [] s) ∧
      ∀ m : EntryId, card.byte 6 = m.val →
        ((s.message m).state ≠ .complete ∨ (s.message m).number ≠ card.word 8 → short c .absent 0 [] s) ∧
        ((s.message m).state = .complete → (s.message m).number = card.word 8 →
          let x := s.message m
          (code = 36 → short c .done 0
            (wordBytes (x.blocks.head?.getD 65535) ++ wordBytes x.blocks.length ++ longBytes x.sampleCount ++
              [byteOf x.endReason.code 0])
            ((s.onStore fun st => st.assignAll x.blocks .host).onMessage m fun y => .initial y.changeCount)) ∧
          (code = 37 → ∃ t, exec c s = .next t ∧ State.Answered .engine i.val .done 0 0 (wordBytes x.blocks.length) s t ∧
            (t.message m).state = .empty ∧ (t.message m).blocks = [] ∧ t.store = x.blocks.foldl Store.release s.store))

/-! ## Blocks, clock and pumps (chapters 4, 9, 10 and 11) -/

/-- PUMP SETTLE COMPLETE in RUNNING (04 R61, R63; 02 R25; 03 R50, R56). A pump settling for no line becomes FREE, or OUT with PUMP_OUT;
one that passes with claims waiting goes to the head of the queue. One settling for a line that passes is ATTACHED to it: the line goes
off hook from QUEUED, seizing it, or with blind dialling taking its first symbol as at the end of a pause, or without voltage reporting
LINE_ABSENT; or it trains as the answerer from ANSWERING or an adaptive switch, which ends a play in progress SWITCHED. One that fails
becomes OUT and the claim returns to the head of its class. The last of the start-up settles, whether it passes or fails, ends STARTING
with STARTED (10 R179); one before it leaves its pump FREE, or OUT with PUMP_OUT. That loop current counts as present when the hook closes
(log 22) and that a pump not attached holds STANDBY, and one not yet trained originator (log 36), are the model's choices, that a returned
claim keeps its running timer its reading (log 19). -/
def Obligations.PumpSettles : Prop :=
  ∀ (p : PumpId) (volt : Bool) (s : State), (s.pump p).state = .settling →
    let put := fun (st : PumpState) (n : Option LineId) => s.onPump p fun _ => Pump.inState st n
    let out := fun (u : State) => u.onHdr fun h =>
      { h with ev := { h.ev with bits := h.ev.bits ||| 0x0020, tally := h.ev.tally + 1 } }
    (s.port.engineRunning = true →
      ((s.pump p).line = none → s.queue = ⟨[], []⟩ → Leads (.pumpSettleComplete p true volt) s (put .free none)) ∧
      ((s.pump p).line = none → (∀ q, q ≠ p → (s.pump q).state ≠ .free) → ∀ m rest,
        (s.queue.answer = m :: rest → m ∉ rest → m ∉ s.queue.originate →
          Leads (.pumpSettleComplete p true volt) s { put .settling (some m) with queue := ⟨rest, s.queue.originate⟩ }) ∧
        (s.queue.answer = [] → s.queue.originate = m :: rest → m ∉ rest →
          Leads (.pumpSettleComplete p true volt) s { put .settling (some m) with queue := ⟨[], rest⟩ })) ∧
      ((s.pump p).line = none → Leads (.pumpSettleComplete p false volt) s (out (put .out none))) ∧
      ∀ n, (s.pump p).line = some n →
        let trains := fun (v : Service) (q : AnswerSeq) =>
          ((s.onLine n fun l =>
            { l with
              claim := none, seq := q
              call := { l.call with state := .training, service := v, pump := some p }
              ctl := { l.ctl with stateTimer := .running (l.profile.trainingLimit * 1000) }
              prog := { l.prog with pathTimer := .stopped } }).onPump p fun _ =>
            { Pump.inState .attached (some n) with activity := .training, role := .answerer }).emit (.trainingStart n .answerer)
        let offHook := fun (st : LineState) (timer : Timer) (f : Dialler → Dialler) => (put .attached (some n)).onLine n fun l =>
          { l with
            claim := none
            call := { l.call with state := st, pump := some p, tOffhook := s.hdr.tick }
            ctl :=
              { l.ctl with
                stateTimer := timer, loopPresent := true, loopMeasuring := false, toneInFrame := l.ctl.progressTone }
            voice := { l.voice with frame := [], ahead := 0 }
            dialler := f l.dialler }
        ((s.line n).call.state = .queued → volt = true → (s.line n).profile.blindDialling = false →
          Leads (.pumpSettleComplete p true volt) s
            (offHook .seized (.running ((s.line n).profile.dialToneWait * 1000)) fun d => d)) ∧
        ((s.line n).call.state = .queued → volt = true → (s.line n).profile.blindDialling = true → ∀ w,
          Leads (.pauseEnd n) (offHook .dialling .stopped fun d => { d with phase := .pause }) w →
            Leads (.pumpSettleComplete p true volt) s w) ∧
        ((s.line n).call.state = .queued → volt = false → Faults (.pumpSettleComplete p true volt) n .lineAbsent .none s) ∧
        ((s.line n).call.state = .answering → Leads (.pumpSettleComplete p true volt) s
          (trains (s.line n).call.service (s.line n).seq)) ∧
        ((s.line n).call.state = .connected → (s.line n).seq.step = .switchWait → (s.line n).voice.play = .none →
          Leads (.pumpSettleComplete p true volt) s
            (trains (s.line n).seq.switchTo { (s.line n).seq with step := .host, adaptive := false })) ∧
        ((s.line n).call.state = .connected → (s.line n).seq.step = .switchWait → (s.line n).voice.play ≠ .none →
          let v := (s.line n).voice
          ∃ t, exec (.pumpSettleComplete p true volt) s = .next t ∧
            (t.line n).call =
              { (s.line n).call with state := .training, service := (s.line n).seq.switchTo, pump := some p } ∧
            (t.line n).claim = none ∧ (t.line n).seq = { (s.line n).seq with step := .host, adaptive := false } ∧
            (t.line n).ctl.stateTimer = .running ((s.line n).profile.trainingLimit * 1000) ∧
            t.pump p = { Pump.inState .attached (some n) with activity := .training, role := .answerer } ∧
            t.outputs.getLast? = some (.trainingStart n .answerer) ∧ (t.line n).voice.play = .none ∧
            (∀ j, v.playCard = some j → j < (s.line n).table.cards.length →
              State.Answered (.line n) j .cut 16 0 (longBytes v.samplesPlayed ++ [3]) s t) ∧
            (∀ first, v.play = .chain first → t.store = s.store.assignAll (v.playChain.map Prod.fst) .host) ∧
            (∀ g, v.play = .slot g → (s.slot g).state = .loaded →
              t.slot g = { s.slot g with playCount := (s.slot g).playCount - 1 }) ∧
            (∀ g, v.play = .slot g → (s.slot g).state = .withdrawing → (s.slot g).playCount = 1 → (t.slot g).state = .empty) ∧
            State.Aside n s t ∧ State.Steady s t) ∧
        ∀ c, (s.line n).claim = some c → c.wait.isRunning = true → c.wait ≠ .running 0 → (∀ q, q ≠ p → (s.pump q).state ≠ .free) →
          Leads (.pumpSettleComplete p false volt) s
            { out (put .out none) with
              queue :=
                match c.cls with
                | .answer => { s.queue with answer := n :: s.queue.answer }
                | .originate => { s.queue with originate := n :: s.queue.originate } }) ∧
    (s.port.engineRunning = false → (s.pump p).line = none → s.queue = ⟨[], []⟩ →
      let running := fun (u : State) => { u with port := { u.port with engineRunning := true } }.onHdr fun h =>
        { h with ev := { h.ev with bits := h.ev.bits ||| 1, tally := h.ev.tally + 1 } }
      ((∀ q, q ≠ p → (s.pump q).state ≠ .settling) →
        Leads (.pumpSettleComplete p true volt) s (running (put .free none)) ∧
        Leads (.pumpSettleComplete p false volt) s (running (out (put .out none)))) ∧
      (∀ q, q ≠ p → (s.pump q).state = .settling →
        Leads (.pumpSettleComplete p true volt) s (put .free none) ∧
        Leads (.pumpSettleComplete p false volt) s (out (put .out none))))

/-! ## Grade, rate and carrier (chapters 4 and 5) -/

/-- Training success (04 R68; 05 R79, R80, R91; 06 R95; 07 R116, R118). A data training seeds the grade, computes ceiling and floor
and takes the highest rung from the floor up to the ceiling whose threshold the grade meets: the pump carries and link open begins, F
read and so 0 (05 R81); with no such rung TRAIN_FAILED. A fax training seeds the grade on either side and connects: an answerer becomes
receiver and sends its Offer; an originator becomes sender, which takes an Offer held since PROGRESS and begins the check at once (07 R119,
R120; 05 R91), waits for the Offer where none is held, or with no page releases; that it shows the phase RELEASE then is the model's choice
(log 20). -/
def Obligations.TrainingSuccess : Prop :=
  ∀ (n : LineId) (p : PumpId) (farMax : Nat) (sig err : Word) (s : State),
    s.Works n p → (s.line n).call.state = .training → (s.pump p).activity = .training →
    let prof := (s.line n).profile
    let q := margin sig err
    let top := min prof.maxRung (max 1 (min 14 farMax))
    let low := min prof.minRung top
    let link := (s.line n).link
    let seeded := { (s.line n).grade with lastQ := q, acc := 16 * q }
    ((s.line n).call.service = .data →
      (∀ r, 1 ≤ r → low ≤ r → r ≤ top → 24 + 8 * r ≤ q → (∀ k, r < k → k ≤ top → q < 24 + 8 * k) →
        link.inFlight = false → link.sending = none → link.replies = [] →
        Leads (.dataTrainingSuccess n farMax sig err) s
          (((s.onPump p fun x => { x with activity := .carrying, holding := false, attemptTimer := .stopped }).onLine n fun l =>
            { l with
              grade :=
                { l.grade with
                  lastQ := q, acc := 16 * q, upCount := 0, downCount := 0, ceiling := top, floor := low, rung := r
                  rate := .settled }
              link :=
                { l.link with
                  state := .opening, openTimer := .running 5000, repeatTimer := .running 500, frameErrors := 0 } }).frameBegun n
            (.linkOpen prof.linkWindow prof.maxInfo))) ∧
      ((∀ r, 1 ≤ r → low ≤ r → r ≤ top → q < 24 + 8 * r) →
        Faults (.dataTrainingSuccess n farMax sig err) n .trainFailed .none s)) ∧
    ((s.line n).call.service = .fax → ∃ t, exec (.faxTrainingSuccess n sig err) s = .next t ∧ State.Connects n .fax s t ∧
      t.pump p = { s.pump p with activity := .carrying, holding := false, attemptTimer := .stopped } ∧
      ((s.line n).call.direction = .answer →
        let o : FaxFrame := .offer ⟨prof.faxMaxRung, prof.fineResolution, prof.minRowTime, prof.widthClass⟩
        (t.line n).grade = seeded ∧
        (t.line n).fax =
          { (s.line n).fax with
            role := .receiver, phase := .offer, standing := some o, expiries := 0, replyTimer := .running 3000 } ∧
        t.outputs = s.outputs ++ [.faxFrame n o]) ∧
      ((s.line n).call.direction = .originate → (s.line n).fax.pages = [] →
        (t.line n).grade = seeded ∧
        (t.line n).fax =
          { (s.line n).fax with
            role := .sender, phase := .release, standing := none, replyTimer := .stopped, work := .releaseOut } ∧
        t.outputs = s.outputs ++ [.faxFrame n .release]) ∧
      ((s.line n).call.direction = .originate → (s.line n).fax.pages ≠ [] → (s.line n).fax.offerHeld = none →
        (t.line n).grade = seeded ∧
        (t.line n).fax =
          { (s.line n).fax with
            role := .sender, phase := .offer, standing := none, expiries := 0, replyTimer := .running 3000 } ∧
        t.outputs = s.outputs) ∧
      ((s.line n).call.direction = .originate → (s.line n).fax.pages ≠ [] → ∀ o, (s.line n).fax.offerHeld = some o →
        let r := min (max 1 (min 6 o.maxRung)) prof.faxMaxRung
        let c : Choice :=
          ⟨r, o.fine && prof.fineResolution,
            if o.rowTime = 0 then 0 else if o.rowTime ≤ 5 then 5 else if o.rowTime ≤ 10 then 10
            else if o.rowTime ≤ 20 then 20 else 40,
            min (min 2 o.width) prof.widthClass⟩
        (t.line n).grade = { seeded with rung := r, seedPending := true } ∧
        (seeded.rung ≠ 0 → seeded.rung ≠ r → (t.line n).ev.bits.getLsbD 6 = true) ∧
        (t.line n).fax =
          { (s.line n).fax with
            role := .sender, phase := .check, offerHeld := none, rung := r, fine := c.fine, rowTime := c.rowTime
            width := c.width, checkAttempts := 0, standing := none, expiries := 0, replyTimer := .stopped
            work := .patternOut r } ∧
        t.outputs = s.outputs ++ [.faxFrame n (.choice c), .checkPattern n r (List.replicate (450 * r) 0x00)]))

/-- Grading windows (05 R75 to R78, R81 to R83, R90, R91): the measure of a power, the clamped margin Q, the accumulator A and the
grade; a window taken smooths or seeds, a window of a connected line counts towards a collapse, and on a settled data line is
good, poor or neither, the counts leading to a shift up by one rung, a shift down to the highest rung the grade meets, or a retrain.
A collapse under REPORT or SILENT sets the collapse count to 0 and goes on, also to the decisions of a data line. A window that finds the
line in another state changes nothing. That the last reply waiting becomes the reply due when the rate goes in flight (Link.heldBack in
State.shiftBegun and State.retrainBegun) is the model's reading (log 18). -/
def Obligations.GradingWindows : Prop :=
  (lg 0 = 0 ∧ ∀ (x : Word) (k : Nat), 2 ^ k ≤ x.toNat → x.toNat < 2 ^ (k + 1) →
    lg x + 16 = 16 * k + if 4 ≤ k then x.toNat / 2 ^ (k - 4) else x.toNat * 2 ^ (4 - k)) ∧
  (∀ x e : Word, (margin x e : Int) = max 0 (min 160 (3 * ((lg x : Int) - lg e) / 4))) ∧
  (∀ a q : Nat, a ≤ 16 * q ∧ smooth a q = a + (16 * q - a) / 4 ∨ 16 * q ≤ a ∧ smooth a q = a - (a - 16 * q) / 4) ∧
  ∀ (n : LineId) (p : PumpId) (sig err : Word) (s : State), s.Works n p → (s.pump p).activity = .carrying →
    (s.pump p).holding = false →
    let l := s.line n
    let q := margin sig err
    let f := if l.call.service = .data then l.link.frameErrors else 0
    let g :=
      if l.grade.seedPending then { l.grade with lastQ := q, acc := 16 * q, seedPending := false }
      else { l.grade with lastQ := q, acc := smooth l.grade.acc q }
    let G := (g.acc + 8) / 16
    let graded := fun (x : Grade) => s.onLine n fun l =>
      { l with
        grade := x
        link := { l.link with frameErrors := if l.call.service = .data then 0 else l.link.frameErrors } }
    let w : Instr := .gradingWindow n sig err
    ((l.call.state = .training ∨ l.call.state = .retraining) → Leads w s (graded g)) ∧
    (l.call.state ≠ .training → l.call.state ≠ .retraining → l.call.state ≠ .connected → Leads w s s) ∧
    (l.call.state = .connected →
      let below := decide (G < l.profile.collapseThreshold)
      let count := if below then g.collapseCount + 1 else 0
      let hit := below && decide (l.profile.collapseTime * 10 ≤ count)
      let policy := l.applied .gradeCollapse
      (hit = true → policy = .latch ∨ policy = .retry → Faults w n .gradeCollapse .none s) ∧
      (hit = false ∨ policy = .report ∨ policy = .silent →
        let g := { g with collapseCount := if hit then 0 else count }
        let goesOn := fun (x : Grade) => (graded x).onLine n fun l =>
          if hit then
            { l with
              fm := { l.fm with last := some ⟨.gradeCollapse, .none, policy, s.hdr.tick⟩ }
              ev :=
                if policy = .silent then l.ev
                else { l.ev with bits := l.ev.bits ||| 0x1000, tally := l.ev.tally + 1 } }
          else l
        (l.call.service ≠ .data ∨ g.rate ≠ .settled → Leads w s (goesOn g)) ∧
        (l.call.service = .data → g.rate = .settled →
          let good := g.rung < g.ceiling ∧ 24 + 8 * (g.rung + 1) + l.profile.upMargin ≤ G ∧ f = 0
          let poor := G < 24 + 8 * g.rung ∨ 3 ≤ f
          let up := { g with upCount := g.upCount + 1, downCount := 0 }
          let down := { g with downCount := g.downCount + 1, upCount := 0 }
          (good → g.upCount + 1 < l.profile.upWindows → Leads w s (goesOn up)) ∧
          (good → l.profile.upWindows ≤ g.upCount + 1 → Leads w s ((goesOn up).shiftBegun n p (g.rung + 1))) ∧
          (¬good → ¬poor → Leads w s (goesOn { g with upCount := 0, downCount := 0 })) ∧
          (¬good → poor → g.downCount + 1 < l.profile.downWindows → Leads w s (goesOn down)) ∧
          (¬good → poor → l.profile.downWindows ≤ g.downCount + 1 →
            (∀ r, 1 ≤ r → g.floor ≤ r → r < g.rung → 24 + 8 * r ≤ G → (∀ k, r < k → k < g.rung → G < 24 + 8 * k) →
              Leads w s ((goesOn down).shiftBegun n p r)) ∧
            ((∀ r, 1 ≤ r → g.floor ≤ r → r < g.rung → G < 24 + 8 * r) →
              (g.retrainCount < l.profile.retrainLimit → Leads w s ((goesOn down).retrainBegun n p)) ∧
              (l.profile.retrainLimit ≤ g.retrainCount → Faults w n .retrainExhausted .none s))))))

/-- Shifts, retrains and the carrier (04 R70 to R72; 05 R84 to R89; 06 R105; 01 R10). SHIFT_DONE settles the rate at the target with
RATE; a refused or unanswered shift, a far retrain request and a failed attempt begin a retrain, or at the retrain limit
RETRAIN_EXHAUSTED; a completion that chooses a rung settles, raises RATE where the rung is new, and returns the line to CONNECTED. The
report of a completion reads F, which becomes 0 (05 R81). A report of an attempt that is not the one in progress has no effect: where the
5 s limit or the other service is taken first, the completion of that attempt is discarded (04 R71). A completion that finds the call still
in TRAINING leaves it there, and the opening link sends the reply due, or else its own LINK-OPEN first. A carrier that ceases is measured
for the carrier-loss time; a loss found while a loop drop is measured is held. That the last reply waiting becomes the reply due when the
rate goes in flight (Link.heldBack in State.retrainBegun) is the model's reading (log 18), that a report names its attempt by the retrain
count its choice (log 8). -/
def Obligations.ShiftsRetrainsAndCarrier : Prop :=
  ∀ (n : LineId) (p : PumpId) (s : State), s.Works n p →
    let l := s.line n
    let act := (s.pump p).activity
    let attempt : RetrainAttempt := ⟨n, l.grade.retrainCount⟩
    let rate := fun (e : EventWord) => ({ e with bits := e.bits ||| 0x0040, tally := e.tally + 1 } : EventWord)
    let resume := fun (x : Timer) => match x with | .paused k => .running k | x => x
    let carries := fun (u : State) =>
      u.onPump p fun x => { x with activity := .carrying, holding := false, attemptTimer := .stopped }
    let settled := fun (u : State) => u.onLine n fun x =>
      { x with
        link :=
          { x.link with
            inFlight := false, replies := [], replyDue := none
            replyTimer := resume x.link.replyTimer, holdTimer := resume x.link.holdTimer } }
    let sends := fun (u : State) => match l.link.replyDue with | some f => (settled u).frameBegun n f | none => settled u
    let quiet := l.link.state = .up ∧ l.link.sending = none ∧ (l.link.replyDue.isSome = true ∨ l.link.held = true ∨
      l.link.resends = [] ∧ ∀ c ∈ l.link.sendList, c.chain.bytes ≤ c.framed)
    (∀ t, l.grade.rate = .shifting t → act = .shifting → quiet → Leads (.shiftDone n) s
      (sends ((carries s).onLine n fun x =>
        { x with
          grade := { x.grade with rung := t, rate := .settled, upCount := 0, downCount := 0 }, ev := rate x.ev }))) ∧
    (∀ c : Instr,
      ((c = .shiftFailed n ∨ c = .shiftAnswerExpiry n) ∧ (∃ t, l.grade.rate = .shifting t) ∧ act = .shifting ∨
        c = .farRetrain n ∧ l.call.service = .data ∧ (act = .carrying ∨ act = .shifting) ∨
        (c = .retrainAttemptExpiry attempt ∨ c = .retrainServiceMismatch attempt) ∧ act = .retraining) →
      (l.grade.retrainCount < l.profile.retrainLimit → Leads c s (s.retrainBegun n p)) ∧
      (l.profile.retrainLimit ≤ l.grade.retrainCount → l.call.state.offHook = true →
        Faults c n .retrainExhausted .none s)) ∧
    (∀ (farMax : Nat) (sig err : Word), act = .retraining → l.call.state = .retraining →
      let q := margin sig err
      let top := min l.profile.maxRung (max 1 (min 14 farMax))
      let low := min l.profile.minRung top
      let seeded := { l.grade with lastQ := q, acc := 16 * q, upCount := 0, downCount := 0, ceiling := top, floor := low }
      (∀ r, 1 ≤ r → low ≤ r → r ≤ top → 24 + 8 * r ≤ q → (∀ k, r < k → k ≤ top → q < 24 + 8 * k) → quiet →
        Leads (.retrainCompletion attempt farMax sig err) s (sends ((carries s).onLine n fun x =>
          { x with
            call := { x.call with state := .connected }
            grade := { seeded with rung := r, rate := .settled }
            link := { x.link with frameErrors := 0 }
            ev := if r = l.grade.rung then x.ev else rate x.ev }))) ∧
      ((∀ r, 1 ≤ r → low ≤ r → r ≤ top → q < 24 + 8 * r) →
        (l.grade.retrainCount < l.profile.retrainLimit → Leads (.retrainCompletion attempt farMax sig err) s
          ((s.onLine n fun x => { x with grade := seeded, link := { x.link with frameErrors := 0 } }).retrainBegun n p)) ∧
        (l.profile.retrainLimit ≤ l.grade.retrainCount →
          Faults (.retrainCompletion attempt farMax sig err) n .retrainExhausted .none s))) ∧
    (∀ (farMax : Nat) (sig err : Word) (r : Nat), act = .retraining → l.call.state = .training → l.link.state = .opening →
      let q := margin sig err
      let top := min l.profile.maxRung (max 1 (min 14 farMax))
      let low := min l.profile.minRung top
      let own : LinkFrame := .linkOpen l.profile.linkWindow l.profile.maxInfo
      let resumes := fun (waiting : List LinkFrame) (f : LinkFrame) => ((carries s).onLine n fun x =>
        { x with
          grade :=
            { x.grade with
              lastQ := q, acc := 16 * q, upCount := 0, downCount := 0, ceiling := top, floor := low, rung := r
              rate := .settled }
          link :=
            { x.link with
              frameErrors := 0, inFlight := false, replies := waiting, replyDue := none, replyTimer := resume x.link.replyTimer
              holdTimer := resume x.link.holdTimer, repeatTimer := .running 500 }
          ev := if r = l.grade.rung then x.ev else rate x.ev }).frameBegun n f
      1 ≤ r → low ≤ r → r ≤ top → 24 + 8 * r ≤ q → (∀ k, r < k → k ≤ top → q < 24 + 8 * k) → l.link.sending = none →
        (l.link.replyDue = none → Leads (.retrainCompletion attempt farMax sig err) s (resumes [] own)) ∧
        ∀ f, l.link.replyDue = some f → Leads (.retrainCompletion attempt farMax sig err) s (resumes [own] f)) ∧
    (∀ (a : RetrainAttempt) (farMax : Nat) (sig err : Word), a.line = n → act ≠ .retraining ∨ a.number ≠ l.grade.retrainCount →
      Leads (.retrainCompletion a farMax sig err) s s ∧ Leads (.retrainAttemptExpiry a) s s ∧
        Leads (.retrainServiceMismatch a) s s) ∧
    (act = .retraining → l.call.state.offHook = true →
      ∀ c ∈ [Instr.retrainAttemptExpiry attempt, .retrainServiceMismatch attempt], ∃ t, exec c s = .next t ∧
        ∀ (farMax : Nat) (sig err : Word), Leads (.retrainCompletion attempt farMax sig err) t t) ∧
    (act = .carrying ∨ act = .shifting ∨ act = .retraining → Leads (.carrierCease n) s
      (s.onPump p fun x => { x with carrierTimer := .running l.profile.carrierLossTime })) ∧
    Leads (.carrierReturn n) s (s.onPump p fun x => { x with carrierTimer := .stopped }) ∧
    ((s.pump p).carrierTimer.isRunning = true → l.ctl.loopMeasuring = true → Leads (.carrierLossExpiry n) s
      ((s.onPump p fun x =>
        { x with carrierTimer := .stopped, attemptTimer := .stopped, carrierLost := true }).onLine n fun x =>
        { x with ctl := { x.ctl with heldCarrierLoss := true } }))

/-! ## The checked link (chapter 6) -/

/-- Sending on the link (06 R95, R99 to R104; 10 R173; 12 section 12.6). The pump, when a frame has gone, begins a reply waiting, else
a resend, else while UP, not held, the rate not in flight and the Send Window not full, a new frame of the next L bytes of the oldest
chain with bytes not framed. SEND is refused on a line that is not CONNECTED-DATA with the link UP, and with six chains; its chain is
validated and its blocks become SEND, also while the rate is in flight, the link held or the pump not carrying, when nothing of it is begun
yet (R99, R105). The repeat of LINK-OPEN; the reply timer's expiry, which sends the window again or is LINK_EXHAUSTED. RECEIPT,
REJECT and HOLD acknowledge frames: blocks all acknowledged are freed, a chain all acknowledged is answered DONE. A SEND that is refused
returns no block, so its answer names 65535 as the first (12 R189). That a frame counts and joins the Send Window when the pump begins
it, that resends wait by their numbers, and that the reply timer is set full by the report that orders them are the model's reading
(log 18), as is the teardown in the step of the reply timer's expiry (log 37). -/
def Obligations.LinkSending : Prop :=
  (∀ (n : LineId) (i : Fin 8) (s : State), s.takesCard (.line n) i.val (· == 6) = true →
    let k := (s.line n).link
    let up := (s.line n).connectedAs .data = true ∧ k.state = .up
    let first := (s.card (.line n) i.val).word 8
    (¬up → ∃ t, exec (.send n i) s = .next t ∧
      State.ShortOrder n i.val .refusedState (s.line n).call.state.code 0 [0, 0, 255, 255] (s.line n) s t) ∧
    (up → 6 ≤ k.sendList.length → ∃ t, exec (.send n i) s = .next t ∧
      State.ShortOrder n i.val .refusedFull 0 0 [0, 0, 255, 255] (s.line n) s t) ∧
    (up → k.sendList.length < 6 →
      (∀ e, s.store.validate .plain 64 first = .error e → ∃ t, exec (.send n i) s = .next t ∧
        State.ShortOrder n i.val .badChain e.test.code 0 (wordBytes e.position ++ [255, 255]) (s.line n) s t) ∧
      ∀ c, s.store.validate .plain 64 first = .ok c →
        k.sending.isSome = true ∨ k.replies = [] ∧ (k.held = true ∨ k.inFlight = true) ∨
          k.replies = [] ∧ k.resends = [] ∧ k.window ≤ k.sendWindow.length ∨
          (∀ p, s.Works n p → (s.pump p).activity ≠ .carrying ∨ (s.pump p).holding = true) →
        Leads (.send n i) s
          (((s.taking (.line n) i.val).onStore fun st => st.assignAll (c.map Prod.fst) (.send n)).onLine n fun l =>
            { l with link := { l.link with sendList := l.link.sendList ++ [⟨i.val, c, 0, 0⟩] } }))) ∧
  ∀ (n : LineId) (p : PumpId) (s : State), s.Works n p → (s.pump p).activity = .carrying → (s.pump p).holding = false →
    let prof := (s.line n).profile
    let k := (s.line n).link
    let on := fun (u : State) (f : Link → Link) => u.onLine n fun l => { l with link := f l.link }
    let idle := k.sending = none ∧ k.replies = []
    let mayFrame := k.state = .up ∧ k.held = false ∧ k.inFlight = false
    let full : Timer := .running (prof.replyTime * 100)
    let own : LinkFrame := .linkOpen prof.linkWindow prof.maxInfo
    let fresh := fun (u : State) (x : Link) (before : List SendChain) (c : SendChain) (after : List SendChain) =>
      let len := min x.infoLength (c.chain.bytes - c.framed)
      (on u fun _ =>
        { x with
          sendList := before ++ { c with framed := c.framed + len } :: after
          sendWindow := x.sendWindow ++ [⟨x.nextSend, c.card, c.framed, len, 1⟩]
          nextSend := x.nextSend + 1
          counters := { x.counters with sent := x.counters.sent + 1 }
          replyTimer := if x.sendWindow = [] then full else x.replyTimer }).frameBegun n
        (.info x.nextSend (u.store.chainBytes c.chain c.framed len))
    let again := fun (x : Link) (f : SentFrame) (rest : List SentFrame) =>
      { x with sendWindow := { f with tries := f.tries + 1 } :: rest, resends := x.sendWindow.map SentFrame.number, replyTimer := full }
    (∀ f rest, k.replies = f :: rest →
      Leads (.frameSent n) s ((on s fun x => { x with replies := rest }).frameBegun n f)) ∧
    (k.replies = [] → ¬mayFrame → Leads (.frameSent n) s (on s fun x => { x with sending := none })) ∧
    (k.replies = [] → mayFrame →
      (∀ j rest f c, k.resends = j :: rest → k.sendWindow.find? (fun x : SentFrame => x.number == j) = some f →
        k.sendList.find? (fun x : SendChain => x.card == f.card) = some c →
        Leads (.frameSent n) s ((on s fun x =>
          { x with resends := rest, counters := { x.counters with resent := x.counters.resent + 1 } }).frameBegun n
            (.info f.number (s.store.chainBytes c.chain f.pos f.len)))) ∧
      (k.resends = [] → k.window ≤ k.sendWindow.length ∨ (∀ c ∈ k.sendList, c.chain.bytes ≤ c.framed) →
        Leads (.frameSent n) s (on s fun x => { x with sending := none })) ∧
      (∀ before c after, k.resends = [] → k.sendWindow.length < k.window → k.sendList = before ++ c :: after →
        (k.sendList.map SendChain.card).Nodup → (∀ d ∈ before, d.chain.bytes ≤ d.framed) → c.framed < c.chain.bytes →
        Leads (.frameSent n) s (fresh s k before c after))) ∧
    (∀ (i : Fin 8) (c : Chain), s.takesCard (.line n) i.val (· == 6) = true → (s.line n).connectedAs .data = true →
      k.sendList.length < 6 → s.store.validate .plain 64 ((s.card (.line n) i.val).word 8) = .ok c →
      idle → mayFrame → k.resends = [] → k.sendWindow.length < k.window → 0 < c.bytes →
      (∀ d ∈ k.sendList, d.chain.bytes ≤ d.framed ∧ d.card ≠ i.val) →
      Leads (.send n i) s (fresh ((s.taking (.line n) i.val).onStore fun st => st.assignAll (c.map Prod.fst) (.send n)) k
        k.sendList ⟨i.val, c, 0, 0⟩ [])) ∧
    (k.state = .opening → k.repeatTimer.isRunning = true → k.inFlight = false →
      (k.sending.isSome = true → Leads (.linkOpenRepeat n) s
        (on s fun x => { x with repeatTimer := .running 500, replies := x.replies ++ [own] })) ∧
      (idle → Leads (.linkOpenRepeat n) s ((on s fun x => { x with repeatTimer := .running 500 }).frameBegun n own))) ∧
    (∀ f rest, k.sendWindow = f :: rest → k.replyTimer.isRunning = true →
      (prof.tryLimit ≤ f.tries → (s.line n).call.state.offHook = true →
        Faults (.replyTimerExpiry n) n .linkExhausted .none s) ∧
      (f.tries < prof.tryLimit → k.sending.isSome = true →
        Leads (.replyTimerExpiry n) s (on s fun x => again x f rest)) ∧
      (f.tries < prof.tryLimit → idle → mayFrame → ∀ c, k.sendList.find? (fun x : SendChain => x.card == f.card) = some c →
        Leads (.replyTimerExpiry n) s ((on s fun x =>
          { again x f rest with
            resends := rest.map SentFrame.number
            counters := { x.counters with resent := x.counters.resent + 1 } }).frameBegun n
              (.info f.number (s.store.chainBytes c.chain f.pos f.len))))) ∧
    ∀ (c : Instr) (run : List Byte) (a : BitVec 7), run ≠ [] → k.state = .up →
      let receipt := c = .receiptFrame n run ∧ Wire.receive run = some (.receipt a)
      let reject := c = .rejectFrame n run ∧ Wire.receive run = some (.reject a)
      let hold := c = .holdFrame n run ∧ Wire.receive run = some (.hold a)
      let d := (a - match k.sendWindow with | f :: _ => f.number | [] => k.nextSend).toNat
      let rejects := { k.counters with rejects := k.counters.rejects + 1 }
      receipt ∨ reject ∨ hold →
      (k.sendWindow.length < d → Leads c s s) ∧
      (d = 0 → (∀ x ∈ k.sendList, x.acked < x.chain.bytes) → (∀ x ∈ k.resends, ∃ f ∈ k.sendWindow, f.number = x) →
        k.sending.isSome = true →
        (receipt → Leads c s (on s fun x =>
          { x with
            held := false, holdTimer := .stopped
            replyTimer := if x.sendWindow = [] then .stopped else if x.held then full else x.replyTimer })) ∧
        (hold → Leads c s (on s fun x =>
          { x with held := true, replyTimer := .stopped, holdTimer := if x.held then x.holdTimer else .running 60000 })) ∧
        (reject → k.sendWindow = [] → Leads c s (on s fun x =>
          { x with held := false, holdTimer := .stopped, replyTimer := .stopped, counters := rejects })) ∧
        ∀ f rest, reject → k.sendWindow = f :: rest →
          (f.tries < prof.tryLimit → Leads c s (on s fun x =>
            { again x f rest with held := false, holdTimer := .stopped, counters := rejects })) ∧
          (prof.tryLimit ≤ f.tries → (s.line n).call.state.offHook = true → Faults c n .linkExhausted .none s)) ∧
      (d ≤ k.sendWindow.length → (k.sendList.map SendChain.card).Nodup →
        (reject → ∀ f ∈ (k.sendWindow.drop d).head?, f.tries < prof.tryLimit) →
        let gone := k.sendWindow.take d
        let after := k.sendList.map fun x =>
          { x with acked := x.acked + ((gone.filter fun f : SentFrame => f.card == x.card).map SentFrame.len).sum }
        ∃ t, exec c s = .next t ∧ (t.line n).link.held = decide hold ∧ State.Aside n s t ∧ State.Steady s t ∧
          (k.sendWindow.drop d).map SentFrame.number <+: (t.line n).link.sendWindow.map SentFrame.number ∧
          (t.line n).link.sendList.map (fun x : SendChain => (x.card, x.chain, x.acked)) =
            (after.filter fun x => decide (x.acked < x.chain.bytes)).map (fun x : SendChain => (x.card, x.chain, x.acked)) ∧
          t.store = (k.sendList.flatMap fun x => x.freed gone).foldl Store.release s.store ∧
          ∀ x ∈ after, x.chain.bytes ≤ x.acked → x.card < (s.line n).table.cards.length →
            State.Answered (.line n) x.card .done 0 0 (wordBytes x.acked ++ [255, 255, 0, 0, 0, 0]) s t)

/-- Receiving on the link (06 R95, R96, R98, R106 to R111, R113). A frame of no active link, or to no carrying pump, is discarded; a bad
frame is counted in F (past 65535 open, log 13) and among the bad frames. A LINK-OPEN brings an OPENING link up with the smaller values,
and is answered in UP and FAR_CLOSED. An INFO frame with the expected number is stored where there is room and answered RECEIPT; a
duplicate is answered RECEIPT, the first frame out of order REJECT; without room the line becomes receive-critical and each frame is
answered HOLD. LINK-CLOSE and the delivery idle expiry deliver the RECV block and close the open entry, raising RECV; where all blocks of
the entry had been returned it leaves the list at once (09 R166), and a receive-critical line then makes the exit test (R109), a RECEIPT
falling due where it is met but in FAR_CLOSED. That a frame at a link NONE or CLOSED, or at a pump that does not carry, is not counted
(log 15), that held is kept over LINK-CLOSE (log 26), and that replies wait in order, a later one replacing the reply due while the rate
is in flight, and a HOLD counts when it falls due (log 18), are the model's. -/
def Obligations.LinkReceiving : Prop :=
  (∀ (n : LineId) (c : Instr) (run : List Byte) (s : State),
    c ∈ [Instr.linkOpenFrame n run, .infoFrame n run, .receiptFrame n run, .rejectFrame n run, .holdFrame n run,
      .linkCloseFrame n run, .badFrame n run] →
    run = [] ∨ (s.line n).link.state = .none ∨ (s.line n).link.state = .closed ∨
      (∀ p, s.Works n p → (s.pump p).activity ≠ .carrying ∨ (s.pump p).holding = true) → Leads c s s) ∧
  ∀ (n : LineId) (p : PumpId) (run : List Byte) (s : State), s.Works n p → (s.pump p).activity = .carrying →
    (s.pump p).holding = false → run ≠ [] →
    let prof := (s.line n).profile
    let k := (s.line n).link
    let on := fun (u : State) (f : Link → Link) => u.onLine n fun l => { l with link := f l.link }
    let reply := fun (u : State) (f : LinkFrame) =>
      if k.inFlight then on u fun x => { x with replyDue := some f }
      else if k.sending.isNone then u.frameBegun n f
      else on u fun x => { x with replies := x.replies ++ [f] }
    let ev := fun (u : State) (i : Nat) => u.onLine n fun l =>
      { l with ev := { l.ev with bits := l.ev.bits ||| (1 : Word) <<< i, tally := l.ev.tally + 1 } }
    let own : LinkFrame := .linkOpen prof.linkWindow prof.maxInfo
    let countsBad := fun (c : Instr) => ∃ e, (k.frameErrors < 65535 → e = k.frameErrors + 1) ∧
      Leads c s (on s fun x =>
        { x with frameErrors := e, counters := { x.counters with bad := x.counters.bad + 1 } }).draw
    let ready := k.sending.isSome = true ∨ k.replies = []
    let noEntry := ∀ e ∈ (s.line n).delivered, e.closed = false → e.kind ≠ .data
    let entry : Nat → Nat → Bool → Entry := fun b bytes closed => ⟨.data, b, b, 1, [b], bytes, 0, .none, 0, closed⟩
    let settled := ∀ e ∈ (s.line n).delivered, e.outstanding ≠ []
    (k.state.active = true → Wire.receive run = none → countsBad (.badFrame n run)) ∧
    (∀ w len, Wire.receive run = some (.linkOpen w len) → ready →
      (k.state = .opening → ∃ t, exec (.linkOpenFrame n run) s = .next t ∧ State.Connects n .data s t ∧
        (t.line n).link =
          { ((reply s own).line n).link with
            window := min prof.linkWindow w, infoLength := min prof.maxInfo len, state := .up, nextSend := 0, expected := 0
            frameErrors := 0, sendWindow := [], sendList := [], openTimer := .stopped, repeatTimer := .stopped } ∧
        t.outputs = (reply s own).outputs) ∧
      (k.state = .up ∨ k.state = .farClosed → Leads (.linkOpenFrame n run) s (reply s own))) ∧
    (∀ j data, Wire.receive run = some (.info j data) →
      (k.state = .opening ∨ k.state = .farClosed → Leads (.infoFrame n run) s s) ∧
      (k.state = .up → k.infoLength < data.length → countsBad (.infoFrame n run)) ∧
      (k.state = .up → data.length ≤ k.infoLength → ready →
        let held := s.store.owners.count (.recv n) + s.store.owners.count (.deliv n)
        let room := held < prof.receiveLimit ∧ (s.line n).delivered.length < 16 ∧ s.store.free ≠ []
        let hold := fun (u : State) =>
          let u := on u fun x => { x with counters := { x.counters with holds := x.counters.holds + 1 } }
          reply (if s.store.free = [] then ev u 13 else u) (.hold k.expected)
        let taken := fun (u : State) => reply (on u fun x =>
          { x with
            expected := x.expected + 1, rejectSent := false, idleTimer := .running prof.deliveryIdle
            counters := { x.counters with received := x.counters.received + 1 } }) (.receipt (k.expected + 1))
        (k.critical = true → Leads (.infoFrame n run) s (hold s)) ∧
        (k.critical = false → j = k.expected → ¬room →
          Leads (.infoFrame n run) s (hold (ev (on s fun x => { x with critical := true }) 9))) ∧
        (k.critical = false → j ≠ k.expected →
          ((k.expected - j).toNat ≤ k.window → Leads (.infoFrame n run) s (reply s (.receipt k.expected))) ∧
          (k.window < (k.expected - j).toNat →
            (k.rejectSent = true → Leads (.infoFrame n run) s s) ∧
            (k.rejectSent = false →
              Leads (.infoFrame n run) s (reply (on s fun x => { x with rejectSent := true }) (.reject k.expected))))) ∧
        (k.critical = false → j = k.expected → room → s.Sound →
          (∀ b, (s.line n).recvBlock = some b → s.store.fill b + data.length < 1016 →
            Leads (.infoFrame n run) s (taken (s.onStore fun st => st.append b data))) ∧
          (∀ b, (s.line n).recvBlock = some b → s.store.owners[b]? = some (.recv n) → noEntry →
            s.store.fill b + data.length = 1016 →
            Leads (.infoFrame n run) s (taken ((s.onStore fun st => (st.append b data).assign b (.deliv n)).onLine n fun l =>
              { l with recvBlock := none, delivered := l.delivered ++ [entry b 1016 false] }))) ∧
          (∀ b rest, (s.line n).recvBlock = none → s.store.free = b :: rest → ∃ t, exec (.infoFrame n run) s = .next t ∧
            t.store.free = rest ∧ t.store.owners = s.store.owners.set b (.recv n) ∧ (t.line n).recvBlock = some b ∧
            t.store.fill b = data.length ∧ (∀ i (h : i < data.length), t.store.payload b i = data[i]) ∧
            (t.line n).delivered = (s.line n).delivered ∧ (t.line n).link = ((taken s).line n).link ∧
            t.outputs = (taken s).outputs) ∧
          (∀ b c rest, (s.line n).recvBlock = some b → s.store.owners[b]? = some (.recv n) → noEntry →
            s.store.fill b ≤ 1016 → 1016 < s.store.fill b + data.length → s.store.free = c :: rest →
            let k' := 1016 - s.store.fill b
            ∃ t, exec (.infoFrame n run) s = .next t ∧ t.store.free = rest ∧
              t.store.owners = (s.store.owners.set b (.deliv n)).set c (.recv n) ∧ (t.line n).recvBlock = some c ∧
              (t.line n).delivered = (s.line n).delivered ++ [entry b 1016 false] ∧ t.store.next b = c ∧
              t.store.fill c = data.length - k' ∧
              (∀ i (h : i < data.length),
                (if i < k' then t.store.payload b (s.store.fill b + i) else t.store.payload c (i - k')) = data[i]) ∧
              (t.line n).link = ((taken s).line n).link ∧ t.outputs = (taken s).outputs)))) ∧
    ∀ (c : Instr) (f : Link → Link),
      (c = .linkCloseFrame n run ∧ Wire.receive run = some .linkClose ∧ k.state = .up ∧ f = (fun x =>
          { x with
            state := .farClosed, replyTimer := .stopped, holdTimer := .stopped, idleTimer := .stopped, resends := []
            replies := x.replies.filter fun r => match r with | .linkOpen _ _ => true | _ => false }) ∨
        c = .deliveryIdleExpiry n ∧ k.idleTimer.isRunning = true ∧ f = fun x => { x with idleTimer := .stopped }) →
      ((s.line n).recvBlock = none → noEntry → Leads c s (on s f)) ∧
      (∀ b, (s.line n).recvBlock = some b → s.store.owners[b]? = some (.recv n) → noEntry → settled →
        Leads c s (ev (((on s f).onStore fun st => st.assign b (.deliv n)).onLine n fun l =>
          { l with recvBlock := none, delivered := l.delivered ++ [entry b (s.store.fill b) true] }) 8)) ∧
      ((s.line n).recvBlock = none → ¬noEntry → settled → Leads c s (ev ((on s f).onLine n fun l =>
        { l with
          delivered := l.delivered.map fun e => if e.kind = .data ∧ e.closed = false then { e with closed := true } else e })
            8)) ∧
      ∀ before e after, (s.line n).recvBlock = none → (s.line n).delivered = before ++ e :: after → e.kind = .data →
        e.closed = false → e.outstanding = [] → (∀ x ∈ before ++ after, x.closed = true ∧ x.outstanding ≠ []) →
        let gone := ev ((on s f).onLine n fun l => { l with delivered := before ++ after }) 8
        let left := on gone fun x => { x with critical := false, rejectSent := false }
        let ends := k.critical = true ∧ (before ++ after).length < 16 ∧ s.store.free ≠ [] ∧
          s.store.owners.count (.recv n) + s.store.owners.count (.deliv n) ≤ prof.receiveLimit - 2
        (¬ends → Leads c s gone) ∧
        (ends → (f k).state = .farClosed → Leads c s left) ∧
        (ends → (f k).state ≠ .farClosed → ready → Leads c s (reply left (.receipt k.expected)))

/-- The frames of the link (06 R97, R98). What a receiver makes of the run of bytes of a frame the engine can send is that frame,
and no byte of the run is a flag; over the text 123456789 the check is 0x906E. -/
def Obligations.LinkFramesRoundTrip : Prop :=
  (∀ f : LinkFrame, f.sendable = true → Wire.receive (Wire.run f) = some f ∧ ∀ b ∈ Wire.run f, b ≠ 0xA5) ∧
  Wire.check [0x31, 0x32, 0x33, 0x34, 0x35, 0x36, 0x37, 0x38, 0x39] = 0x906E

/-- Received blocks and open entries (06 R106, R110, R111, R113; 07 R125 to R127; 09 R158, R159, R165). A full RECV block joins the open
DATA entry at its end, its bytes counted, and the eighth block closes the entry, raising RECV; the delivery idle expiry and LINK-CLOSE
join the RECV block to the open entry and close it; a RECV block into which a record does not fit joins the page's open
entry, also where no block is then to be had and the row is lost with POOL_DRY, and MORE
or LAST joins the last block and closes the entry with its counts and verdict. A block popped while an entry is open is linked from the
entry's last block where the line still owns that, and carries the entry's block count as its number. A pop for reception raises POOL_LOW
(bit 4) exactly where it takes the Free Count from at least the Reserve to below it; a TAKE BLOCKS and a pop for a recording raise none. The
page entry's block count is stated below 65535, past which it is free (log 13). -/
def Obligations.BlocksJoinOpenEntries : Prop :=
  (∀ (n : LineId) (p : PumpId) (run : List Byte) (j : BitVec 7) (data : List Byte) (s : State), s.Works n p →
    (s.pump p).activity = .carrying → (s.pump p).holding = false → s.Sound → Wire.receive run = some (.info j data) →
    let k := (s.line n).link
    let low := min s.hdr.reserve.toNat 64
    k.state = .up → k.critical = false → j = k.expected → data.length ≤ k.infoLength → data.length ≤ 256 → run ≠ [] →
    s.store.owners.count (.recv n) + s.store.owners.count (.deliv n) < (s.line n).profile.receiveLimit →
    (s.line n).delivered.length < 16 → s.store.free ≠ [] →
    let noEntry := ∀ e ∈ (s.line n).delivered, e.closed = false → e.kind ≠ .data
    (∀ before e after b, (s.line n).delivered = before ++ e :: after → e.kind = .data → e.closed = false →
      (∀ x ∈ before ++ after, x.closed = true ∧ x.outstanding ≠ []) →
      (s.line n).recvBlock = some b → s.store.owners[b]? = some (.recv n) → s.store.fill b + data.length = 1016 →
      ∃ t, exec (.infoFrame n run) s = .next t ∧ State.Aside n s t ∧ State.Steady s t ∧ (t.line n).recvBlock = none ∧
        t.store.owners = s.store.owners.set b (.deliv n) ∧ t.store.free = s.store.free ∧ t.hdr.ev = s.hdr.ev ∧
        (t.line n).link.expected = k.expected + 1 ∧
        (t.line n).delivered = before ++
          { e with
            last := b, blockCount := e.blockCount + 1, outstanding := e.outstanding ++ [b], count := e.count + 1016
            closed := decide (8 ≤ e.blockCount + 1) } :: after ∧
        (8 ≤ e.blockCount + 1 → (t.line n).ev.bits.getLsbD 8 = true)) ∧
    (∀ before e after b rest, (s.line n).delivered = before ++ e :: after → e.kind = .data → e.closed = false →
      (∀ x ∈ before ++ after, x.closed = true) →
      (s.line n).recvBlock = none → s.store.free = b :: rest → e.last ≠ b → data.length < 1016 →
      ∃ t, exec (.infoFrame n run) s = .next t ∧ (t.line n).recvBlock = some b ∧ t.store.free = rest ∧
        t.store.next b = 65535 ∧ t.store.fill b = data.length ∧
        Memory.word t.store.mem (0x4000 + 1024 * b + 6) = e.blockCount % 65536 ∧
        (s.store.owners[e.last]? = some (.deliv n) → t.store.next e.last = b) ∧ (t.line n).delivered = (s.line n).delivered) ∧
    (noEntry → (s.line n).recvBlock = none → data.length < 1016 → ∃ t, exec (.infoFrame n run) s = .next t ∧
      t.hdr.ev =
        if low ≤ s.store.free.length ∧ s.store.free.length - 1 < low then
          { s.hdr.ev with bits := s.hdr.ev.bits ||| 0x0010, tally := s.hdr.ev.tally + 1 }
        else s.hdr.ev)) ∧
  (∀ (n : LineId) (p : PumpId) (run : List Byte) (c : Instr) (s : State) (before : List Entry) (e : Entry) (after : List Entry) (b : Nat),
    c = .deliveryIdleExpiry n ∧ (s.line n).link.idleTimer.isRunning = true ∨
      c = .linkCloseFrame n run ∧ run ≠ [] ∧ Wire.receive run = some .linkClose ∧ (s.line n).link.state = .up ∧ s.Works n p ∧
        (s.pump p).activity = .carrying ∧ (s.pump p).holding = false →
    (s.line n).delivered = before ++ e :: after → e.kind = .data → e.closed = false →
    (∀ x ∈ before ++ after, x.closed = true ∧ x.outstanding ≠ []) →
    (s.line n).recvBlock = some b → s.store.owners[b]? = some (.recv n) →
    ∃ t, exec c s = .next t ∧ State.Aside n s t ∧ State.Steady s t ∧ (t.line n).recvBlock = none ∧
      t.store = s.store.assign b (.deliv n) ∧ (t.line n).ev.bits.getLsbD 8 = true ∧
      (t.line n).delivered = before ++
        { e with
          last := b, blockCount := e.blockCount + 1, outstanding := e.outstanding ++ [b], count := e.count + s.store.fill b
          closed := true } :: after) ∧
  (∀ (n : LineId) (p : PumpId) (s : State) (g : OpenPage), s.Works n p → (s.pump p).activity = .carrying →
    (s.pump p).holding = false → (s.line n).connectedAs .fax = true → (s.line n).fax.role = .receiver →
    (s.line n).fax.page = some g → s.Sound →
    let prof := (s.line n).profile
    let f := (s.line n).fax
    let low := min s.hdr.reserve.toNat 64
    let verdict : Verdict := if g.discarded = true ∨ g.rows = 0 then .bad
      else if prof.badRowLimit * g.rows < g.badRows * 100 ∨ prof.runLimit < g.longest then .bad
      else if ((s.line n).grade.acc + 8) / 16 < 24 + 8 * f.rung + prof.upMargin then .goodRetrain else .good
    let closed := fun (e : Entry) => { e with count := g.rows, badRows := g.badRows, verdict := verdict, closed := true }
    let joined := fun (e : Entry) (b : Nat) =>
      { e with last := b, blockCount := e.blockCount + 1, outstanding := e.outstanding ++ [b] }
    (∀ (before : List Entry) (e : Entry) (after : List Entry), (s.line n).delivered = before ++ e :: after → e.kind = .page →
      e.closed = false → (∀ x ∈ e :: (before ++ after), x.outstanding ≠ []) → (∀ x ∈ before ++ after, x.closed = true) →
      e.blockCount < 65535 →
      (∀ (damaged : Bool) (row : List Byte) (b c : Nat) (rest : List Nat), f.work = .pageIn → g.discarded = false →
        (s.line n).recvBlock = some b → s.store.owners[b]? = some (.recv n) →
        1016 < s.store.fill b + (2 + min row.length 1014) → s.store.free = c :: rest →
        ∃ t, exec (.pageRow n damaged row) s = .next t ∧ (t.line n).recvBlock = some c ∧ t.store.free = rest ∧
          t.store.owners = (s.store.owners.set b (.deliv n)).set c (.recv n) ∧ t.store.next b = c ∧
          Memory.word t.store.mem (0x4000 + 1024 * c + 6) = e.blockCount + 1 ∧
          (t.line n).delivered = before ++ joined e b :: after) ∧
      (∀ (damaged : Bool) (row : List Byte) (b : Nat), f.work = .pageIn → g.discarded = false → (s.line n).recvBlock = some b →
        s.store.owners[b]? = some (.recv n) → 1016 < s.store.fill b + (2 + min row.length 1014) → s.store.free = [] →
        ∃ t, exec (.pageRow n damaged row) s = .next t ∧ (t.line n).recvBlock = none ∧ t.store = s.store.assign b (.deliv n) ∧
          (t.line n).delivered = before ++ joined e b :: after ∧ (t.line n).ev.bits.getLsbD 13 = true) ∧
      ∀ c, c = .moreFrame n ∨ c = .lastFrame n → f.phase = .post → f.judged = none →
        ((s.line n).recvBlock = none → ∃ t, exec c s = .next t ∧ t.store = s.store ∧
          (t.line n).delivered = before ++ closed e :: after ∧ (t.line n).ev.bits.getLsbD 10 = true) ∧
        ∀ b, (s.line n).recvBlock = some b → s.store.owners[b]? = some (.recv n) → ∃ t, exec c s = .next t ∧
          t.store = s.store.assign b (.deliv n) ∧ (t.line n).recvBlock = none ∧
          (t.line n).delivered = before ++ closed (joined e b) :: after ∧ (t.line n).ev.bits.getLsbD 10 = true) ∧
    (∀ (damaged : Bool) (row : List Byte) (b : Nat) (rest : List Nat), f.work = .pageIn → g.discarded = false →
      (s.line n).recvBlock = none → s.store.free = b :: rest → ∃ t, exec (.pageRow n damaged row) s = .next t ∧
      t.hdr.ev =
        if low ≤ s.store.free.length ∧ s.store.free.length - 1 < low then
          { s.hdr.ev with bits := s.hdr.ev.bits ||| 0x0010, tally := s.hdr.ev.tally + 1 }
        else s.hdr.ev)) ∧
  ∀ (i : Fin 4) (n : LineId) (x : Sample) (s : State),
    (s.takesCard .engine i.val (· == 33) = true → ∃ t, exec (.takeBlocks i) s = .next t ∧
      t.hdr.ev = { s.hdr.ev with bits := s.hdr.ev.bits ||| 0x0002, tally := s.hdr.ev.tally + 1 }) ∧
    ((s.line n).voice.play = .none → ∃ t, exec (.encodeSample n x) s = .next t ∧ t.hdr.ev = s.hdr.ev)

/-! ## Fax sessions (chapter 7) -/

/-- The sender's session (07 R117, R119, R120, R122 to R124, R128, R129). An Offer in OFFER sets the chosen fields and begins a check; the
pattern sent, the Choice stands; READY sends the head page with its fill bytes, NOT_READY brings a second check, then one rung lower, then
FAX_FAILED; a page sent is followed by MORE or LAST; a verdict keeps the page for its resend or frees it and goes on. FAX PAGES is
refused, or its pages join the Page List. An expiry repeats the standing frame, the fourth is FAX_FAILED. The check pattern is 450 · r
bytes of 0x00 (04 R73). Seven points are the model's (log 20): expiries become 0 when a check begins; the Choice stands when its pattern
has gone; READY and NOT_READY are taken from the first end of the pattern on, also while it is sent again; blocks cut short and a resend
are counted when the page has gone; a page counts as resent where it is sent again with resend pending yes, not where a redial alone sends
it again; resend pending becomes no at every final verdict; and a sender whose Page List is empty at READY, or after a verdict with MORE
sent, releases. That a last-of-document byte other than 0 and 1 reads yes is the model's choice (log 32), and so is that the position of a
bad page counts from 0 (log 35). -/
def Obligations.FaxSender : Prop :=
  (∀ (n : LineId) (p : PumpId) (s : State), s.Works n p → (s.pump p).activity = .carrying → (s.pump p).holding = false →
    (s.line n).connectedAs .fax = true → (s.line n).fax.role = .sender →
    let prof := (s.line n).profile
    let f := (s.line n).fax
    let on := fun (u : State) (g : Fax → Fax) => u.onLine n fun l => { l with fax := g l.fax }
    let three : Timer := .running 3000
    let pattern := fun (u : State) =>
      let x := (u.line n).fax
      ((on u fun x => { x with phase := .check, replyTimer := .stopped, work := .patternOut x.rung }).emit
        (.faxFrame n (.choice ⟨x.rung, x.fine, x.rowTime, x.width⟩))).emit
        (.checkPattern n x.rung (List.replicate (450 * x.rung) 0x00))
    let check := fun (u : State) (r : Nat) =>
      pattern (u.onLine n fun l =>
        { l with
          grade := { l.grade with rung := r, seedPending := true }
          ev :=
            if l.grade.rung = 0 ∨ l.grade.rung = r then l.ev
            else { l.ev with bits := l.ev.bits ||| 0x0040, tally := l.ev.tally + 1 }
          fax := { l.fax with rung := r, standing := none, expiries := 0 } })
    (∀ o, f.phase = .offer → Leads (.offerFrame n o) s (check
      (on s fun x =>
        { x with
          offerHeld := none, fine := o.fine && prof.fineResolution, width := min (min 2 o.width) prof.widthClass
          checkAttempts := 0
          rowTime :=
            if o.rowTime = 0 then 0 else if o.rowTime ≤ 5 then 5 else if o.rowTime ≤ 10 then 10
            else if o.rowTime ≤ 20 then 20 else 40 })
      (min (max 1 (min 6 o.maxRung)) prof.faxMaxRung))) ∧
    (∀ r, f.work = .patternOut r → Leads (.checkPatternSent n) s (on s fun x =>
      { x with work := .none, standing := some (.choice ⟨x.rung, x.fine, x.rowTime, x.width⟩), replyTimer := three })) ∧
    (f.phase = .check → f.standing.isSome = true →
      (∀ g rest, f.pages = g :: rest → Leads (.readyFrame n) s ((on s fun x =>
        { x with phase := .page, standing := none, replyTimer := .stopped, work := .pageOut, checkAttempts := 0 }).emit
          (.pageRows n f.rung ((s.store.pageRows g.chain).map fun row =>
            (row, (3 * f.rung * f.rowTime + 9) / 10 - row.length))))) ∧
      (f.pages = [] → Leads (.readyFrame n) s ((on s fun x =>
        { x with
          phase := .release, standing := none, replyTimer := .stopped, work := .releaseOut, checkAttempts := 0 }).emit
          (.faxFrame n .release))) ∧
      (f.checkAttempts = 0 → Leads (.notReadyFrame n) s (check (on s fun x => { x with checkAttempts := 1 }) f.rung)) ∧
      (f.checkAttempts ≠ 0 → 1 < f.rung →
        Leads (.notReadyFrame n) s (check (on s fun x => { x with checkAttempts := 0 }) (f.rung - 1))) ∧
      (f.checkAttempts ≠ 0 → f.rung ≤ 1 → Faults (.notReadyFrame n) n .faxFailed .training s)) ∧
    (∀ g rest, f.pages = g :: rest →
      (f.work = .pageOut →
        let last := g.lastOfDocument || rest.isEmpty
        let frame : FaxFrame := if last then .last else .more
        let again := f.resendPending && !g.resent
        ∃ count, (f.pageCount < 65535 → count = f.pageCount + 1) ∧ Leads (.pageSent n) s
          ((on s fun x =>
            { x with
              pageCount := count, work := .none, sentLast := last, phase := .post, standing := some frame, expiries := 0
              replyTimer := three
              pages := if again then { g with resent := true } :: rest else x.pages
              orders := x.orders.map fun o =>
                if o.card = g.card then
                  { o with
                    cutShort := o.cutShort + s.store.pageCuts g.chain
                    resent := if again then o.resent + 1 else o.resent }
                else o }).draw.emit (.faxFrame n frame))) ∧
      ∀ (v : SentVerdict) (rows badRows : Nat), f.phase = .post →
        let lower := max 1 (f.rung - 1)
        (v = .bad → f.resendPending = false → Leads (.verdictFrame n v rows badRows) s (check
          (s.onLine n fun l =>
            { l with
              fax :=
                { l.fax with
                  lastVerdict := .bad, lastRows := rows, lastBadRows := badRows, replyTimer := .stopped
                  resendPending := true }
              ev := { l.ev with bits := l.ev.bits ||| 0x0400, tally := l.ev.tally + 1 } }) lower)) ∧
        (v ≠ .bad ∨ f.resendPending = true →
          let retrain := f.retrainPending || decide (v ≠ .good)
          ∃ t, exec (.verdictFrame n v rows badRows) s = .next t ∧ State.Aside n s t ∧ State.Steady s t ∧
            t.store = (g.chain.map Prod.fst).foldl Store.release s.store ∧ (t.line n).fax.pages = rest ∧
            (t.line n).fax.resendPending = false ∧ (t.line n).fax.lastVerdict = verdictOf v ∧
            (t.line n).fax.lastRows = rows ∧ (t.line n).fax.lastBadRows = badRows ∧ (t.line n).ev.bits.getLsbD 10 = true ∧
            (f.sentLast = true ∨ retrain = false ∧ rest = [] → (t.line n).fax.phase = .release ∧ (t.line n).fax.work = .releaseOut ∧
              t.outputs.getLast? = some (.faxFrame n .release)) ∧
            (f.sentLast = false → retrain = true → (t.line n).fax.phase = .check ∧ (t.line n).fax.rung = lower ∧
              (t.line n).fax.work = .patternOut lower ∧ (t.line n).fax.retrainPending = false ∧
              t.outputs.getLast? = some (.checkPattern n lower (List.replicate (450 * lower) 0x00))) ∧
            (f.sentLast = false → retrain = false → rest ≠ [] → (t.line n).fax.phase = .page ∧
              (t.line n).fax.work = .pageOut ∧ (t.line n).fax.rung = f.rung) ∧
            ∀ x, f.orders.find? (fun o : FaxOrder => o.card == g.card) = some x → (∀ q ∈ rest, q.card ≠ g.card) →
              x.cutShort ≤ 255 → g.card < (s.line n).table.cards.length →
              State.Answered (.line n) g.card .done 0 0
                ((((x.verdicts.set g.index (verdictOf v)).map fun w : Verdict => BitVec.ofNat 8 w.code) ++
                    List.replicate 8 0).take 8 ++
                  [BitVec.ofNat 8 x.resent, BitVec.ofNat 8 x.cutShort, BitVec.ofNat 8 f.rung, if f.fine then 1 else 0,
                    BitVec.ofNat 8 f.width]) s t)) ∧
    (f.replyTimer.isRunning = true →
      let u := on s fun x => { x with expiries := x.expiries + 1, replyTimer := three }
      (3 ≤ f.expiries → Faults (.faxReplyExpiry n) n .faxFailed .noReply s) ∧
      (f.expiries < 3 →
        (f.standing = none → Leads (.faxReplyExpiry n) s u) ∧
        (f.standing = some .more ∨ f.standing = some .last →
          ∀ x, f.standing = some x → Leads (.faxReplyExpiry n) s (u.emit (.faxFrame n x))) ∧
        (∀ c, f.standing = some (.choice c) → Leads (.faxReplyExpiry n) s (pattern u))))) ∧
  ∀ (n : LineId) (i : Fin 8) (s : State), s.takesCard (.line n) i.val (· == 7) = true →
    let card := s.card (.line n) i.val
    let l := s.line n
    let firsts := (List.range (card.byte 6)).map fun j => card.word (8 + 2 * j)
    let accepts := l.call.state = .idle ∨ l.call.direction = .originate ∧ l.call.service = .fax ∧
      l.call.state ∈ [LineState.queued, .seized, .dialling, .progress, .training, .connected]
    let short := fun (st : Status) (reason : Nat) (fs : List Byte) =>
      ∃ t, exec (.faxPages n i) s = .next t ∧ State.ShortOrder n i.val st reason 0 fs l s t
    (¬accepts → short .refusedState l.call.state.code []) ∧
    (accepts → card.byte 6 = 0 ∨ 8 < card.byte 6 → short .badField 6 []) ∧
    (accepts → 1 ≤ card.byte 6 → card.byte 6 ≤ 8 →
      (16 < l.fax.pages.length + card.byte 6 → short .refusedFull 0 []) ∧
      (l.fax.pages.length + card.byte 6 ≤ 16 →
        (∀ e, s.store.validatePages [] 0 firsts = .error e →
          short .badChain e.2.test.code (wordBytes e.2.position ++ wordBytes e.1)) ∧
        ∀ chains, s.store.validatePages [] 0 firsts = .ok chains → Leads (.faxPages n i) s
          (((s.taking (.line n) i.val).onStore fun st =>
            st.assignAll (chains.flatMap fun c => c.map Prod.fst) (.send n)).onLine n fun l =>
            { l with
              fax :=
                { l.fax with
                  pages := l.fax.pages ++ chains.zipIdx.map fun x =>
                    ⟨i.val, x.2, x.1, card.byte 7 != 0 && x.2 + 1 == chains.length, false⟩
                  orders := l.fax.orders ++ [⟨i.val, List.replicate (card.byte 6) .none, 0, 0⟩] } })))

/-- The receiver's session (07 R117, R121, R125 to R127; 05 R91, R92). A Choice begins a check, or is answered NOT_READY above the
offered rung; the pattern received is judged READY or NOT_READY, C being the count of its 450 · r positions at which no byte 0x00 was
received (04 R73); no pattern carrier counts an expiry of the wait before. A page
carrier begins a page; each row is counted and stored whole in the RECV block, a full block being delivered first and a fresh one
popped, a row without a block lost with POOL_DRY, also after that delivery; MORE or LAST closes the page with its verdict, PAGE raised, or repeats it. An expiry
repeats the standing frame; the fourth is FAX_FAILED, but in RELEASE clears the call LOCAL_CLEARED (07 R117). Three
points are the model's reading (log 20): the wait before the first Choice is kept over further ones, and where a page was being received
it has no standing frame; the chosen fields are kept over a Choice answered NOT_READY for its rung; a standing verdict is sent again only
for the frame it judged. -/
def Obligations.FaxReceiver : Prop :=
  ∀ (n : LineId) (p : PumpId) (s : State), s.Works n p → (s.pump p).activity = .carrying → (s.pump p).holding = false →
    (s.line n).connectedAs .fax = true → (s.line n).fax.role = .receiver →
    let prof := (s.line n).profile
    let f := (s.line n).fax
    let G := ((s.line n).grade.acc + 8) / 16
    let on := fun (u : State) (g : Fax → Fax) => u.onLine n fun l => { l with fax := g l.fax }
    let three : Timer := .running 3000
    let stand := fun (u : State) (ph : FaxPhase) (fr : FaxFrame) =>
      (on u fun x => { x with phase := ph, standing := some fr, expiries := 0, replyTimer := three }).emit (.faxFrame n fr)
    let judged := on s fun x => { x with work := .none, carrierTimer := .stopped, waitBefore := none }
    let noEntry := ∀ e ∈ (s.line n).delivered, e.outstanding ≠ [] ∧ (e.closed = false → e.kind ≠ .page)
    (∀ c, f.phase ≠ .none → f.phase ≠ .release →
      (prof.faxMaxRung < c.rung → Leads (.choiceFrame n c) s (stand judged .check .notReady)) ∧
      (c.rung ≤ prof.faxMaxRung → Leads (.choiceFrame n c) s (s.onLine n fun l =>
        { l with
          grade := { l.grade with rung := c.rung, seedPending := true }
          ev :=
            if l.grade.rung = 0 ∨ l.grade.rung = c.rung then l.ev
            else { l.ev with bits := l.ev.bits ||| 0x0040, tally := l.ev.tally + 1 }
          fax :=
            { l.fax with
              rung := c.rung, fine := c.fine, rowTime := c.rowTime, width := c.width, phase := .check, standing := none
              replyTimer := .stopped, work := .patternIn c.rung, carrierTimer := three
              waitBefore := match f.waitBefore with | some w => some w | none => some ⟨f.phase, f.standing, f.expiries⟩ } }))) ∧
    (∀ (r : Nat) (received : List Byte), f.work = .patternIn r →
      let errored := (List.range (450 * r)).countP fun i => received[i]? != some 0x00
      (errored * 100 ≤ 450 * r ∧ 24 + 8 * r ≤ G → Leads (.checkPatternResult n received) s (stand judged .page .ready)) ∧
      (450 * r < errored * 100 ∨ G < 24 + 8 * r →
        Leads (.checkPatternResult n received) s (stand judged .check .notReady))) ∧
    (∀ w, f.carrierTimer.isRunning = true → f.waitBefore = some w →
      let back := on judged fun x =>
        { x with phase := w.phase, standing := w.standing, expiries := w.expiries + 1, replyTimer := three }
      (w.expiries < 3 → w.standing = none → Leads (.checkCarrierWaitExpiry n) s back) ∧
      (∀ x, w.expiries < 3 → w.standing = some x → (∀ c, x ≠ .choice c) →
        Leads (.checkCarrierWaitExpiry n) s (back.emit (.faxFrame n x))) ∧
      (3 ≤ w.expiries → w.phase ≠ .release → Faults (.checkCarrierWaitExpiry n) n .faxFailed .noReply s)) ∧
    (f.replyTimer.isRunning = true →
      let u := on s fun x => { x with expiries := x.expiries + 1, replyTimer := three }
      (f.expiries < 3 → (∀ c, f.standing ≠ some (.choice c)) →
        Leads (.faxReplyExpiry n) s (match f.standing with | some x => u.emit (.faxFrame n x) | none => u)) ∧
      (3 ≤ f.expiries → f.phase ≠ .release → Faults (.faxReplyExpiry n) n .faxFailed .noReply s) ∧
      (3 ≤ f.expiries → f.phase = .release → Clears (.faxReplyExpiry n) n .localCleared s)) ∧
    (f.phase = .page ∧ f.work ≠ .pageIn ∨ f.phase = .post ∧ f.judged ≠ none →
      ∃ count, (f.pageCount < 65535 → count = f.pageCount + 1) ∧ Leads (.pageCarrierStart n) s (on s fun x =>
        { x with
          pageCount := count, page := some ⟨0, 0, 0, 0, false⟩, judged := none, phase := .page, standing := none, expiries := 0
          replyTimer := .stopped, work := .pageIn }).draw) ∧
    (f.work = .pageIn → Leads (.pageCarrierCease n) s (on s fun x =>
      { x with work := .none, phase := .post, standing := none, expiries := 0, replyTimer := three })) ∧
    (∀ (g : OpenPage) (damaged : Bool) (row : List Byte), f.work = .pageIn → f.page = some g →
      let bad := damaged || decide (1014 < row.length)
      let record := wordBytes (min row.length 1014 + if bad then 32768 else 0) ++ row.take 1014
      let counted := fun (lost gone : Bool) (rows badRows : Nat) =>
        ({ g with
          rows := rows, badRows := badRows, run := if bad || lost then g.run + 1 else 0, discarded := gone
          longest := if bad || lost then max g.longest (g.run + 1) else g.longest } : OpenPage)
      let count := fun (lost : Bool) (rows badRows : Nat) => (g.rows < 65535 → rows = g.rows + 1) ∧
        if bad || lost then g.badRows < 65535 → badRows = g.badRows + 1 else badRows = g.badRows
      (g.discarded = true → ∃ a b, count false a b ∧ Leads (.pageRow n damaged row) s
        (on s fun x => { x with page := some (counted false true a b) }).draw) ∧
      (g.discarded = false → s.Sound →
        (∀ k, (s.line n).recvBlock = some k → s.store.fill k + record.length ≤ 1016 → ∃ a b, count false a b ∧
          Leads (.pageRow n damaged row) s
            (on (s.onStore fun st => st.append k record) fun x => { x with page := some (counted false false a b) }).draw) ∧
        ((s.line n).recvBlock = none → s.store.free = [] → ∃ a b, count true a b ∧ Leads (.pageRow n damaged row) s
          (s.onLine n fun l =>
            { l with
              fax := { l.fax with page := some (counted true false a b) }
              ev := { l.ev with bits := l.ev.bits ||| 0x2000, tally := l.ev.tally + 1 } }).draw) ∧
        (∀ k rest, (s.line n).recvBlock = none → s.store.free = k :: rest → ∃ a b t, count false a b ∧
          exec (.pageRow n damaged row) s = .next t ∧ t.store.free = rest ∧
          t.store.owners = s.store.owners.set k (.recv n) ∧ (t.line n).recvBlock = some k ∧
          t.store.fill k = record.length ∧ (∀ i (h : i < record.length), t.store.payload k i = record[i]) ∧
          (t.line n).fax = { f with page := some (counted false false a b) }) ∧
        (∀ k, (s.line n).recvBlock = some k → s.store.owners[k]? = some (.recv n) → 1016 < s.store.fill k + record.length →
          noEntry →
          (∀ c rest, (s.line n).delivered.length < 16 → s.store.free = c :: rest → ∃ a b t, count false a b ∧
            exec (.pageRow n damaged row) s = .next t ∧ t.store.free = rest ∧
            t.store.owners = (s.store.owners.set k (.deliv n)).set c (.recv n) ∧ (t.line n).recvBlock = some c ∧
            (t.line n).delivered = (s.line n).delivered ++ [⟨.page, k, k, 1, [k], 0, 0, .none, f.pageCount, false⟩] ∧
            t.store.next k = c ∧ t.store.fill c = record.length ∧
            (∀ i (h : i < record.length), t.store.payload c i = record[i]) ∧
            (t.line n).fax = { f with page := some (counted false false a b) }) ∧
          ((s.line n).delivered.length < 16 → s.store.free = [] → ∃ a b t, count true a b ∧
            exec (.pageRow n damaged row) s = .next t ∧ t.store = s.store.assign k (.deliv n) ∧ (t.line n).recvBlock = none ∧
            (t.line n).delivered = (s.line n).delivered ++ [⟨.page, k, k, 1, [k], 0, 0, .none, f.pageCount, false⟩] ∧
            (t.line n).ev = { (s.line n).ev with bits := (s.line n).ev.bits ||| 0x2000, tally := (s.line n).ev.tally + 1 } ∧
            (t.line n).fax = { f with page := some (counted true false a b) }) ∧
          (16 ≤ (s.line n).delivered.length → ∃ a b d t, count false a b ∧
            (f.pagesDiscarded < 65535 → d = f.pagesDiscarded + 1) ∧ exec (.pageRow n damaged row) s = .next t ∧
            t.store = s.store.release k ∧ (t.line n).recvBlock = none ∧
            (t.line n).delivered = (s.line n).delivered ∧
            (t.line n).fax = { f with page := some (counted false true a b), pagesDiscarded := d })))) ∧
    ∀ (c : Instr) (last : Bool), c = .moreFrame n ∧ last = false ∨ c = .lastFrame n ∧ last = true →
      let verdict := fun (g : OpenPage) => if g.discarded = true ∨ g.rows = 0 then SentVerdict.bad
        else if prof.badRowLimit * g.rows < g.badRows * 100 ∨ prof.runLimit < g.longest then .bad
        else if G < 24 + 8 * f.rung + prof.upMargin then .goodRetrain else .good
      let closed := fun (u : State) (g : OpenPage) => stand (u.onLine n fun l =>
        { l with
          fax :=
            { l.fax with
              page := none, judged := some last, lastVerdict := verdictOf (verdict g), lastRows := g.rows
              lastBadRows := g.badRows }
          ev := { l.ev with bits := l.ev.bits ||| 0x0400, tally := l.ev.tally + 1 } })
        (if last = true ∧ verdict g ≠ .bad then .release else .post) (.verdict (verdict g) g.rows g.badRows)
      (∀ g, f.phase = .post → f.judged = none → f.page = some g → noEntry →
        ((s.line n).recvBlock = none → Leads c s (closed s g)) ∧
        (∀ k, (s.line n).recvBlock = some k → s.store.owners[k]? = some (.recv n) → (s.line n).delivered.length < 16 →
          Leads c s (closed ((s.onStore fun st => st.assign k (.deliv n)).onLine n fun l =>
            { l with
              recvBlock := none
              delivered := l.delivered ++
                [⟨.page, k, k, 1, [k], g.rows, g.badRows, verdictOf (verdict g), l.fax.pageCount, true⟩] }) g).draw)) ∧
      (f.phase = .page → f.work ≠ .pageIn → noEntry → (s.line n).recvBlock = none →
        ∃ count, (f.pageCount < 65535 → count = f.pageCount + 1) ∧
          Leads c s (closed (on s fun x => { x with pageCount := count }) ⟨0, 0, 0, 0, false⟩).draw) ∧
      ∀ v rows badRows, f.phase = .post ∨ f.phase = .release → f.judged = some last →
        f.standing = some (.verdict v rows badRows) → Leads c s (s.emit (.faxFrame n (.verdict v rows badRows)))
end

