-- ==== Sys2Proof/Laws/State.lean ====
section
/-! SUPPORT. What each update of the state changes and what it leaves: one lemma per field per update. -/

set_option Elab.async false

namespace Sys2Proof.Machine

/-! ### onLine -/

@[simp] theorem State.port_onLine (s : State) (n : LineId) (f : Line → Line) : (s.onLine n f).port = s.port := rfl

@[simp] theorem State.hdr_onLine (s : State) (n : LineId) (f : Line → Line) : (s.onLine n f).hdr = s.hdr := rfl

@[simp] theorem State.engTable_onLine (s : State) (n : LineId) (f : Line → Line) : (s.onLine n f).engTable = s.engTable := rfl

@[simp] theorem State.sweep_onLine (s : State) (n : LineId) (f : Line → Line) : (s.onLine n f).sweep = s.sweep := rfl

@[simp] theorem State.pumps_onLine (s : State) (n : LineId) (f : Line → Line) : (s.onLine n f).pumps = s.pumps := rfl

@[simp] theorem State.queue_onLine (s : State) (n : LineId) (f : Line → Line) : (s.onLine n f).queue = s.queue := rfl

@[simp] theorem State.store_onLine (s : State) (n : LineId) (f : Line → Line) : (s.onLine n f).store = s.store := rfl

@[simp] theorem State.messages_onLine (s : State) (n : LineId) (f : Line → Line) : (s.onLine n f).messages = s.messages := rfl

@[simp] theorem State.slots_onLine (s : State) (n : LineId) (f : Line → Line) : (s.onLine n f).slots = s.slots := rfl

@[simp] theorem State.monitor_onLine (s : State) (n : LineId) (f : Line → Line) : (s.onLine n f).monitor = s.monitor := rfl

@[simp] theorem State.outputs_onLine (s : State) (n : LineId) (f : Line → Line) : (s.onLine n f).outputs = s.outputs := rfl

@[simp] theorem State.draws_onLine (s : State) (n : LineId) (f : Line → Line) : (s.onLine n f).draws = s.draws := rfl

@[simp] theorem State.pending_onLine (s : State) (n : LineId) (f : Line → Line) : (s.onLine n f).pending = s.pending := rfl

@[simp] theorem State.pump_onLine (s : State) (n : LineId) (f : Line → Line) (q : PumpId) : (s.onLine n f).pump q = s.pump q := rfl

@[simp] theorem State.slot_onLine (s : State) (n : LineId) (f : Line → Line) (k : SlotId) : (s.onLine n f).slot k = s.slot k := rfl

@[simp] theorem State.message_onLine (s : State) (n : LineId) (f : Line → Line) (e : EntryId) : (s.onLine n f).message e = s.message e := rfl

/-! ### onCall -/

@[simp] theorem State.port_onCall (s : State) (n : LineId) (f : CallRecord → CallRecord) : (s.onCall n f).port = s.port := rfl

@[simp] theorem State.hdr_onCall (s : State) (n : LineId) (f : CallRecord → CallRecord) : (s.onCall n f).hdr = s.hdr := rfl

@[simp] theorem State.engTable_onCall (s : State) (n : LineId) (f : CallRecord → CallRecord) : (s.onCall n f).engTable = s.engTable := rfl

@[simp] theorem State.sweep_onCall (s : State) (n : LineId) (f : CallRecord → CallRecord) : (s.onCall n f).sweep = s.sweep := rfl

@[simp] theorem State.pumps_onCall (s : State) (n : LineId) (f : CallRecord → CallRecord) : (s.onCall n f).pumps = s.pumps := rfl

@[simp] theorem State.queue_onCall (s : State) (n : LineId) (f : CallRecord → CallRecord) : (s.onCall n f).queue = s.queue := rfl

@[simp] theorem State.store_onCall (s : State) (n : LineId) (f : CallRecord → CallRecord) : (s.onCall n f).store = s.store := rfl

@[simp] theorem State.messages_onCall (s : State) (n : LineId) (f : CallRecord → CallRecord) : (s.onCall n f).messages = s.messages := rfl

@[simp] theorem State.slots_onCall (s : State) (n : LineId) (f : CallRecord → CallRecord) : (s.onCall n f).slots = s.slots := rfl

@[simp] theorem State.monitor_onCall (s : State) (n : LineId) (f : CallRecord → CallRecord) : (s.onCall n f).monitor = s.monitor := rfl

@[simp] theorem State.outputs_onCall (s : State) (n : LineId) (f : CallRecord → CallRecord) : (s.onCall n f).outputs = s.outputs := rfl

@[simp] theorem State.draws_onCall (s : State) (n : LineId) (f : CallRecord → CallRecord) : (s.onCall n f).draws = s.draws := rfl

@[simp] theorem State.pending_onCall (s : State) (n : LineId) (f : CallRecord → CallRecord) : (s.onCall n f).pending = s.pending := rfl

@[simp] theorem State.pump_onCall (s : State) (n : LineId) (f : CallRecord → CallRecord) (q : PumpId) : (s.onCall n f).pump q = s.pump q := rfl

@[simp] theorem State.slot_onCall (s : State) (n : LineId) (f : CallRecord → CallRecord) (k : SlotId) : (s.onCall n f).slot k = s.slot k := rfl

@[simp] theorem State.message_onCall (s : State) (n : LineId) (f : CallRecord → CallRecord) (e : EntryId) : (s.onCall n f).message e = s.message e := rfl

/-! ### onCtl -/

@[simp] theorem State.port_onCtl (s : State) (n : LineId) (f : LineControl → LineControl) : (s.onCtl n f).port = s.port := rfl

@[simp] theorem State.hdr_onCtl (s : State) (n : LineId) (f : LineControl → LineControl) : (s.onCtl n f).hdr = s.hdr := rfl

@[simp] theorem State.engTable_onCtl (s : State) (n : LineId) (f : LineControl → LineControl) : (s.onCtl n f).engTable = s.engTable := rfl

@[simp] theorem State.sweep_onCtl (s : State) (n : LineId) (f : LineControl → LineControl) : (s.onCtl n f).sweep = s.sweep := rfl

@[simp] theorem State.pumps_onCtl (s : State) (n : LineId) (f : LineControl → LineControl) : (s.onCtl n f).pumps = s.pumps := rfl

@[simp] theorem State.queue_onCtl (s : State) (n : LineId) (f : LineControl → LineControl) : (s.onCtl n f).queue = s.queue := rfl

@[simp] theorem State.store_onCtl (s : State) (n : LineId) (f : LineControl → LineControl) : (s.onCtl n f).store = s.store := rfl

@[simp] theorem State.messages_onCtl (s : State) (n : LineId) (f : LineControl → LineControl) : (s.onCtl n f).messages = s.messages := rfl

@[simp] theorem State.slots_onCtl (s : State) (n : LineId) (f : LineControl → LineControl) : (s.onCtl n f).slots = s.slots := rfl

@[simp] theorem State.monitor_onCtl (s : State) (n : LineId) (f : LineControl → LineControl) : (s.onCtl n f).monitor = s.monitor := rfl

@[simp] theorem State.outputs_onCtl (s : State) (n : LineId) (f : LineControl → LineControl) : (s.onCtl n f).outputs = s.outputs := rfl

@[simp] theorem State.draws_onCtl (s : State) (n : LineId) (f : LineControl → LineControl) : (s.onCtl n f).draws = s.draws := rfl

@[simp] theorem State.pending_onCtl (s : State) (n : LineId) (f : LineControl → LineControl) : (s.onCtl n f).pending = s.pending := rfl

@[simp] theorem State.pump_onCtl (s : State) (n : LineId) (f : LineControl → LineControl) (q : PumpId) : (s.onCtl n f).pump q = s.pump q := rfl

@[simp] theorem State.slot_onCtl (s : State) (n : LineId) (f : LineControl → LineControl) (k : SlotId) : (s.onCtl n f).slot k = s.slot k := rfl

@[simp] theorem State.message_onCtl (s : State) (n : LineId) (f : LineControl → LineControl) (e : EntryId) : (s.onCtl n f).message e = s.message e := rfl

/-! ### onDialler -/

@[simp] theorem State.port_onDialler (s : State) (n : LineId) (f : Dialler → Dialler) : (s.onDialler n f).port = s.port := rfl

@[simp] theorem State.hdr_onDialler (s : State) (n : LineId) (f : Dialler → Dialler) : (s.onDialler n f).hdr = s.hdr := rfl

@[simp] theorem State.engTable_onDialler (s : State) (n : LineId) (f : Dialler → Dialler) : (s.onDialler n f).engTable = s.engTable := rfl

@[simp] theorem State.sweep_onDialler (s : State) (n : LineId) (f : Dialler → Dialler) : (s.onDialler n f).sweep = s.sweep := rfl

@[simp] theorem State.pumps_onDialler (s : State) (n : LineId) (f : Dialler → Dialler) : (s.onDialler n f).pumps = s.pumps := rfl

@[simp] theorem State.queue_onDialler (s : State) (n : LineId) (f : Dialler → Dialler) : (s.onDialler n f).queue = s.queue := rfl

@[simp] theorem State.store_onDialler (s : State) (n : LineId) (f : Dialler → Dialler) : (s.onDialler n f).store = s.store := rfl

@[simp] theorem State.messages_onDialler (s : State) (n : LineId) (f : Dialler → Dialler) : (s.onDialler n f).messages = s.messages := rfl

@[simp] theorem State.slots_onDialler (s : State) (n : LineId) (f : Dialler → Dialler) : (s.onDialler n f).slots = s.slots := rfl

@[simp] theorem State.monitor_onDialler (s : State) (n : LineId) (f : Dialler → Dialler) : (s.onDialler n f).monitor = s.monitor := rfl

@[simp] theorem State.outputs_onDialler (s : State) (n : LineId) (f : Dialler → Dialler) : (s.onDialler n f).outputs = s.outputs := rfl

@[simp] theorem State.draws_onDialler (s : State) (n : LineId) (f : Dialler → Dialler) : (s.onDialler n f).draws = s.draws := rfl

@[simp] theorem State.pending_onDialler (s : State) (n : LineId) (f : Dialler → Dialler) : (s.onDialler n f).pending = s.pending := rfl

@[simp] theorem State.pump_onDialler (s : State) (n : LineId) (f : Dialler → Dialler) (q : PumpId) : (s.onDialler n f).pump q = s.pump q := rfl

@[simp] theorem State.slot_onDialler (s : State) (n : LineId) (f : Dialler → Dialler) (k : SlotId) : (s.onDialler n f).slot k = s.slot k := rfl

@[simp] theorem State.message_onDialler (s : State) (n : LineId) (f : Dialler → Dialler) (e : EntryId) : (s.onDialler n f).message e = s.message e := rfl

/-! ### onProg -/

@[simp] theorem State.port_onProg (s : State) (n : LineId) (f : Progress → Progress) : (s.onProg n f).port = s.port := rfl

@[simp] theorem State.hdr_onProg (s : State) (n : LineId) (f : Progress → Progress) : (s.onProg n f).hdr = s.hdr := rfl

@[simp] theorem State.engTable_onProg (s : State) (n : LineId) (f : Progress → Progress) : (s.onProg n f).engTable = s.engTable := rfl

@[simp] theorem State.sweep_onProg (s : State) (n : LineId) (f : Progress → Progress) : (s.onProg n f).sweep = s.sweep := rfl

@[simp] theorem State.pumps_onProg (s : State) (n : LineId) (f : Progress → Progress) : (s.onProg n f).pumps = s.pumps := rfl

@[simp] theorem State.queue_onProg (s : State) (n : LineId) (f : Progress → Progress) : (s.onProg n f).queue = s.queue := rfl

@[simp] theorem State.store_onProg (s : State) (n : LineId) (f : Progress → Progress) : (s.onProg n f).store = s.store := rfl

@[simp] theorem State.messages_onProg (s : State) (n : LineId) (f : Progress → Progress) : (s.onProg n f).messages = s.messages := rfl

@[simp] theorem State.slots_onProg (s : State) (n : LineId) (f : Progress → Progress) : (s.onProg n f).slots = s.slots := rfl

@[simp] theorem State.monitor_onProg (s : State) (n : LineId) (f : Progress → Progress) : (s.onProg n f).monitor = s.monitor := rfl

@[simp] theorem State.outputs_onProg (s : State) (n : LineId) (f : Progress → Progress) : (s.onProg n f).outputs = s.outputs := rfl

@[simp] theorem State.draws_onProg (s : State) (n : LineId) (f : Progress → Progress) : (s.onProg n f).draws = s.draws := rfl

@[simp] theorem State.pending_onProg (s : State) (n : LineId) (f : Progress → Progress) : (s.onProg n f).pending = s.pending := rfl

@[simp] theorem State.pump_onProg (s : State) (n : LineId) (f : Progress → Progress) (q : PumpId) : (s.onProg n f).pump q = s.pump q := rfl

@[simp] theorem State.slot_onProg (s : State) (n : LineId) (f : Progress → Progress) (k : SlotId) : (s.onProg n f).slot k = s.slot k := rfl

@[simp] theorem State.message_onProg (s : State) (n : LineId) (f : Progress → Progress) (e : EntryId) : (s.onProg n f).message e = s.message e := rfl

/-! ### onSeq -/

@[simp] theorem State.port_onSeq (s : State) (n : LineId) (f : AnswerSeq → AnswerSeq) : (s.onSeq n f).port = s.port := rfl

@[simp] theorem State.hdr_onSeq (s : State) (n : LineId) (f : AnswerSeq → AnswerSeq) : (s.onSeq n f).hdr = s.hdr := rfl

@[simp] theorem State.engTable_onSeq (s : State) (n : LineId) (f : AnswerSeq → AnswerSeq) : (s.onSeq n f).engTable = s.engTable := rfl

@[simp] theorem State.sweep_onSeq (s : State) (n : LineId) (f : AnswerSeq → AnswerSeq) : (s.onSeq n f).sweep = s.sweep := rfl

@[simp] theorem State.pumps_onSeq (s : State) (n : LineId) (f : AnswerSeq → AnswerSeq) : (s.onSeq n f).pumps = s.pumps := rfl

@[simp] theorem State.queue_onSeq (s : State) (n : LineId) (f : AnswerSeq → AnswerSeq) : (s.onSeq n f).queue = s.queue := rfl

@[simp] theorem State.store_onSeq (s : State) (n : LineId) (f : AnswerSeq → AnswerSeq) : (s.onSeq n f).store = s.store := rfl

@[simp] theorem State.messages_onSeq (s : State) (n : LineId) (f : AnswerSeq → AnswerSeq) : (s.onSeq n f).messages = s.messages := rfl

@[simp] theorem State.slots_onSeq (s : State) (n : LineId) (f : AnswerSeq → AnswerSeq) : (s.onSeq n f).slots = s.slots := rfl

@[simp] theorem State.monitor_onSeq (s : State) (n : LineId) (f : AnswerSeq → AnswerSeq) : (s.onSeq n f).monitor = s.monitor := rfl

@[simp] theorem State.outputs_onSeq (s : State) (n : LineId) (f : AnswerSeq → AnswerSeq) : (s.onSeq n f).outputs = s.outputs := rfl

@[simp] theorem State.draws_onSeq (s : State) (n : LineId) (f : AnswerSeq → AnswerSeq) : (s.onSeq n f).draws = s.draws := rfl

@[simp] theorem State.pending_onSeq (s : State) (n : LineId) (f : AnswerSeq → AnswerSeq) : (s.onSeq n f).pending = s.pending := rfl

@[simp] theorem State.pump_onSeq (s : State) (n : LineId) (f : AnswerSeq → AnswerSeq) (q : PumpId) : (s.onSeq n f).pump q = s.pump q := rfl

@[simp] theorem State.slot_onSeq (s : State) (n : LineId) (f : AnswerSeq → AnswerSeq) (k : SlotId) : (s.onSeq n f).slot k = s.slot k := rfl

@[simp] theorem State.message_onSeq (s : State) (n : LineId) (f : AnswerSeq → AnswerSeq) (e : EntryId) : (s.onSeq n f).message e = s.message e := rfl

/-! ### onGrade -/

@[simp] theorem State.port_onGrade (s : State) (n : LineId) (f : Grade → Grade) : (s.onGrade n f).port = s.port := rfl

@[simp] theorem State.hdr_onGrade (s : State) (n : LineId) (f : Grade → Grade) : (s.onGrade n f).hdr = s.hdr := rfl

@[simp] theorem State.engTable_onGrade (s : State) (n : LineId) (f : Grade → Grade) : (s.onGrade n f).engTable = s.engTable := rfl

@[simp] theorem State.sweep_onGrade (s : State) (n : LineId) (f : Grade → Grade) : (s.onGrade n f).sweep = s.sweep := rfl

@[simp] theorem State.pumps_onGrade (s : State) (n : LineId) (f : Grade → Grade) : (s.onGrade n f).pumps = s.pumps := rfl

@[simp] theorem State.queue_onGrade (s : State) (n : LineId) (f : Grade → Grade) : (s.onGrade n f).queue = s.queue := rfl

@[simp] theorem State.store_onGrade (s : State) (n : LineId) (f : Grade → Grade) : (s.onGrade n f).store = s.store := rfl

@[simp] theorem State.messages_onGrade (s : State) (n : LineId) (f : Grade → Grade) : (s.onGrade n f).messages = s.messages := rfl

@[simp] theorem State.slots_onGrade (s : State) (n : LineId) (f : Grade → Grade) : (s.onGrade n f).slots = s.slots := rfl

@[simp] theorem State.monitor_onGrade (s : State) (n : LineId) (f : Grade → Grade) : (s.onGrade n f).monitor = s.monitor := rfl

@[simp] theorem State.outputs_onGrade (s : State) (n : LineId) (f : Grade → Grade) : (s.onGrade n f).outputs = s.outputs := rfl

@[simp] theorem State.draws_onGrade (s : State) (n : LineId) (f : Grade → Grade) : (s.onGrade n f).draws = s.draws := rfl

@[simp] theorem State.pending_onGrade (s : State) (n : LineId) (f : Grade → Grade) : (s.onGrade n f).pending = s.pending := rfl

@[simp] theorem State.pump_onGrade (s : State) (n : LineId) (f : Grade → Grade) (q : PumpId) : (s.onGrade n f).pump q = s.pump q := rfl

@[simp] theorem State.slot_onGrade (s : State) (n : LineId) (f : Grade → Grade) (k : SlotId) : (s.onGrade n f).slot k = s.slot k := rfl

@[simp] theorem State.message_onGrade (s : State) (n : LineId) (f : Grade → Grade) (e : EntryId) : (s.onGrade n f).message e = s.message e := rfl

/-! ### onLink -/

@[simp] theorem State.port_onLink (s : State) (n : LineId) (f : Link → Link) : (s.onLink n f).port = s.port := rfl

@[simp] theorem State.hdr_onLink (s : State) (n : LineId) (f : Link → Link) : (s.onLink n f).hdr = s.hdr := rfl

@[simp] theorem State.engTable_onLink (s : State) (n : LineId) (f : Link → Link) : (s.onLink n f).engTable = s.engTable := rfl

@[simp] theorem State.sweep_onLink (s : State) (n : LineId) (f : Link → Link) : (s.onLink n f).sweep = s.sweep := rfl

@[simp] theorem State.pumps_onLink (s : State) (n : LineId) (f : Link → Link) : (s.onLink n f).pumps = s.pumps := rfl

@[simp] theorem State.queue_onLink (s : State) (n : LineId) (f : Link → Link) : (s.onLink n f).queue = s.queue := rfl

@[simp] theorem State.store_onLink (s : State) (n : LineId) (f : Link → Link) : (s.onLink n f).store = s.store := rfl

@[simp] theorem State.messages_onLink (s : State) (n : LineId) (f : Link → Link) : (s.onLink n f).messages = s.messages := rfl

@[simp] theorem State.slots_onLink (s : State) (n : LineId) (f : Link → Link) : (s.onLink n f).slots = s.slots := rfl

@[simp] theorem State.monitor_onLink (s : State) (n : LineId) (f : Link → Link) : (s.onLink n f).monitor = s.monitor := rfl

@[simp] theorem State.outputs_onLink (s : State) (n : LineId) (f : Link → Link) : (s.onLink n f).outputs = s.outputs := rfl

@[simp] theorem State.draws_onLink (s : State) (n : LineId) (f : Link → Link) : (s.onLink n f).draws = s.draws := rfl

@[simp] theorem State.pending_onLink (s : State) (n : LineId) (f : Link → Link) : (s.onLink n f).pending = s.pending := rfl

@[simp] theorem State.pump_onLink (s : State) (n : LineId) (f : Link → Link) (q : PumpId) : (s.onLink n f).pump q = s.pump q := rfl

@[simp] theorem State.slot_onLink (s : State) (n : LineId) (f : Link → Link) (k : SlotId) : (s.onLink n f).slot k = s.slot k := rfl

@[simp] theorem State.message_onLink (s : State) (n : LineId) (f : Link → Link) (e : EntryId) : (s.onLink n f).message e = s.message e := rfl

/-! ### onFax -/

@[simp] theorem State.port_onFax (s : State) (n : LineId) (f : Fax → Fax) : (s.onFax n f).port = s.port := rfl

@[simp] theorem State.hdr_onFax (s : State) (n : LineId) (f : Fax → Fax) : (s.onFax n f).hdr = s.hdr := rfl

@[simp] theorem State.engTable_onFax (s : State) (n : LineId) (f : Fax → Fax) : (s.onFax n f).engTable = s.engTable := rfl

@[simp] theorem State.sweep_onFax (s : State) (n : LineId) (f : Fax → Fax) : (s.onFax n f).sweep = s.sweep := rfl

@[simp] theorem State.pumps_onFax (s : State) (n : LineId) (f : Fax → Fax) : (s.onFax n f).pumps = s.pumps := rfl

@[simp] theorem State.queue_onFax (s : State) (n : LineId) (f : Fax → Fax) : (s.onFax n f).queue = s.queue := rfl

@[simp] theorem State.store_onFax (s : State) (n : LineId) (f : Fax → Fax) : (s.onFax n f).store = s.store := rfl

@[simp] theorem State.messages_onFax (s : State) (n : LineId) (f : Fax → Fax) : (s.onFax n f).messages = s.messages := rfl

@[simp] theorem State.slots_onFax (s : State) (n : LineId) (f : Fax → Fax) : (s.onFax n f).slots = s.slots := rfl

@[simp] theorem State.monitor_onFax (s : State) (n : LineId) (f : Fax → Fax) : (s.onFax n f).monitor = s.monitor := rfl

@[simp] theorem State.outputs_onFax (s : State) (n : LineId) (f : Fax → Fax) : (s.onFax n f).outputs = s.outputs := rfl

@[simp] theorem State.draws_onFax (s : State) (n : LineId) (f : Fax → Fax) : (s.onFax n f).draws = s.draws := rfl

@[simp] theorem State.pending_onFax (s : State) (n : LineId) (f : Fax → Fax) : (s.onFax n f).pending = s.pending := rfl

@[simp] theorem State.pump_onFax (s : State) (n : LineId) (f : Fax → Fax) (q : PumpId) : (s.onFax n f).pump q = s.pump q := rfl

@[simp] theorem State.slot_onFax (s : State) (n : LineId) (f : Fax → Fax) (k : SlotId) : (s.onFax n f).slot k = s.slot k := rfl

@[simp] theorem State.message_onFax (s : State) (n : LineId) (f : Fax → Fax) (e : EntryId) : (s.onFax n f).message e = s.message e := rfl

/-! ### onVoice -/

@[simp] theorem State.port_onVoice (s : State) (n : LineId) (f : Voice → Voice) : (s.onVoice n f).port = s.port := rfl

@[simp] theorem State.hdr_onVoice (s : State) (n : LineId) (f : Voice → Voice) : (s.onVoice n f).hdr = s.hdr := rfl

@[simp] theorem State.engTable_onVoice (s : State) (n : LineId) (f : Voice → Voice) : (s.onVoice n f).engTable = s.engTable := rfl

@[simp] theorem State.sweep_onVoice (s : State) (n : LineId) (f : Voice → Voice) : (s.onVoice n f).sweep = s.sweep := rfl

@[simp] theorem State.pumps_onVoice (s : State) (n : LineId) (f : Voice → Voice) : (s.onVoice n f).pumps = s.pumps := rfl

@[simp] theorem State.queue_onVoice (s : State) (n : LineId) (f : Voice → Voice) : (s.onVoice n f).queue = s.queue := rfl

@[simp] theorem State.store_onVoice (s : State) (n : LineId) (f : Voice → Voice) : (s.onVoice n f).store = s.store := rfl

@[simp] theorem State.messages_onVoice (s : State) (n : LineId) (f : Voice → Voice) : (s.onVoice n f).messages = s.messages := rfl

@[simp] theorem State.slots_onVoice (s : State) (n : LineId) (f : Voice → Voice) : (s.onVoice n f).slots = s.slots := rfl

@[simp] theorem State.monitor_onVoice (s : State) (n : LineId) (f : Voice → Voice) : (s.onVoice n f).monitor = s.monitor := rfl

@[simp] theorem State.outputs_onVoice (s : State) (n : LineId) (f : Voice → Voice) : (s.onVoice n f).outputs = s.outputs := rfl

@[simp] theorem State.draws_onVoice (s : State) (n : LineId) (f : Voice → Voice) : (s.onVoice n f).draws = s.draws := rfl

@[simp] theorem State.pending_onVoice (s : State) (n : LineId) (f : Voice → Voice) : (s.onVoice n f).pending = s.pending := rfl

@[simp] theorem State.pump_onVoice (s : State) (n : LineId) (f : Voice → Voice) (q : PumpId) : (s.onVoice n f).pump q = s.pump q := rfl

@[simp] theorem State.slot_onVoice (s : State) (n : LineId) (f : Voice → Voice) (k : SlotId) : (s.onVoice n f).slot k = s.slot k := rfl

@[simp] theorem State.message_onVoice (s : State) (n : LineId) (f : Voice → Voice) (e : EntryId) : (s.onVoice n f).message e = s.message e := rfl

/-! ### onFm -/

@[simp] theorem State.port_onFm (s : State) (n : LineId) (f : FaultRecord → FaultRecord) : (s.onFm n f).port = s.port := rfl

@[simp] theorem State.hdr_onFm (s : State) (n : LineId) (f : FaultRecord → FaultRecord) : (s.onFm n f).hdr = s.hdr := rfl

@[simp] theorem State.engTable_onFm (s : State) (n : LineId) (f : FaultRecord → FaultRecord) : (s.onFm n f).engTable = s.engTable := rfl

@[simp] theorem State.sweep_onFm (s : State) (n : LineId) (f : FaultRecord → FaultRecord) : (s.onFm n f).sweep = s.sweep := rfl

@[simp] theorem State.pumps_onFm (s : State) (n : LineId) (f : FaultRecord → FaultRecord) : (s.onFm n f).pumps = s.pumps := rfl

@[simp] theorem State.queue_onFm (s : State) (n : LineId) (f : FaultRecord → FaultRecord) : (s.onFm n f).queue = s.queue := rfl

@[simp] theorem State.store_onFm (s : State) (n : LineId) (f : FaultRecord → FaultRecord) : (s.onFm n f).store = s.store := rfl

@[simp] theorem State.messages_onFm (s : State) (n : LineId) (f : FaultRecord → FaultRecord) : (s.onFm n f).messages = s.messages := rfl

@[simp] theorem State.slots_onFm (s : State) (n : LineId) (f : FaultRecord → FaultRecord) : (s.onFm n f).slots = s.slots := rfl

@[simp] theorem State.monitor_onFm (s : State) (n : LineId) (f : FaultRecord → FaultRecord) : (s.onFm n f).monitor = s.monitor := rfl

@[simp] theorem State.outputs_onFm (s : State) (n : LineId) (f : FaultRecord → FaultRecord) : (s.onFm n f).outputs = s.outputs := rfl

@[simp] theorem State.draws_onFm (s : State) (n : LineId) (f : FaultRecord → FaultRecord) : (s.onFm n f).draws = s.draws := rfl

@[simp] theorem State.pending_onFm (s : State) (n : LineId) (f : FaultRecord → FaultRecord) : (s.onFm n f).pending = s.pending := rfl

@[simp] theorem State.pump_onFm (s : State) (n : LineId) (f : FaultRecord → FaultRecord) (q : PumpId) : (s.onFm n f).pump q = s.pump q := rfl

@[simp] theorem State.slot_onFm (s : State) (n : LineId) (f : FaultRecord → FaultRecord) (k : SlotId) : (s.onFm n f).slot k = s.slot k := rfl

@[simp] theorem State.message_onFm (s : State) (n : LineId) (f : FaultRecord → FaultRecord) (e : EntryId) : (s.onFm n f).message e = s.message e := rfl

/-! ### raise -/

@[simp] theorem State.port_raise (s : State) (n : LineId) (e : LineEvent) : (s.raise n e).port = s.port := rfl

@[simp] theorem State.hdr_raise (s : State) (n : LineId) (e : LineEvent) : (s.raise n e).hdr = s.hdr := rfl

@[simp] theorem State.engTable_raise (s : State) (n : LineId) (e : LineEvent) : (s.raise n e).engTable = s.engTable := rfl

@[simp] theorem State.sweep_raise (s : State) (n : LineId) (e : LineEvent) : (s.raise n e).sweep = s.sweep := rfl

@[simp] theorem State.pumps_raise (s : State) (n : LineId) (e : LineEvent) : (s.raise n e).pumps = s.pumps := rfl

@[simp] theorem State.queue_raise (s : State) (n : LineId) (e : LineEvent) : (s.raise n e).queue = s.queue := rfl

@[simp] theorem State.store_raise (s : State) (n : LineId) (e : LineEvent) : (s.raise n e).store = s.store := rfl

@[simp] theorem State.messages_raise (s : State) (n : LineId) (e : LineEvent) : (s.raise n e).messages = s.messages := rfl

@[simp] theorem State.slots_raise (s : State) (n : LineId) (e : LineEvent) : (s.raise n e).slots = s.slots := rfl

@[simp] theorem State.monitor_raise (s : State) (n : LineId) (e : LineEvent) : (s.raise n e).monitor = s.monitor := rfl

@[simp] theorem State.outputs_raise (s : State) (n : LineId) (e : LineEvent) : (s.raise n e).outputs = s.outputs := rfl

@[simp] theorem State.draws_raise (s : State) (n : LineId) (e : LineEvent) : (s.raise n e).draws = s.draws := rfl

@[simp] theorem State.pending_raise (s : State) (n : LineId) (e : LineEvent) : (s.raise n e).pending = s.pending := rfl

@[simp] theorem State.pump_raise (s : State) (n : LineId) (e : LineEvent) (q : PumpId) : (s.raise n e).pump q = s.pump q := rfl

@[simp] theorem State.slot_raise (s : State) (n : LineId) (e : LineEvent) (k : SlotId) : (s.raise n e).slot k = s.slot k := rfl

@[simp] theorem State.message_raise (s : State) (n : LineId) (e : LineEvent) (x : EntryId) : (s.raise n e).message x = s.message x := rfl

/-! ### onHdr -/

@[simp] theorem State.port_onHdr (s : State) (f : Header → Header) : (s.onHdr f).port = s.port := rfl

@[simp] theorem State.engTable_onHdr (s : State) (f : Header → Header) : (s.onHdr f).engTable = s.engTable := rfl

@[simp] theorem State.sweep_onHdr (s : State) (f : Header → Header) : (s.onHdr f).sweep = s.sweep := rfl

@[simp] theorem State.lines_onHdr (s : State) (f : Header → Header) : (s.onHdr f).lines = s.lines := rfl

@[simp] theorem State.pumps_onHdr (s : State) (f : Header → Header) : (s.onHdr f).pumps = s.pumps := rfl

@[simp] theorem State.queue_onHdr (s : State) (f : Header → Header) : (s.onHdr f).queue = s.queue := rfl

@[simp] theorem State.store_onHdr (s : State) (f : Header → Header) : (s.onHdr f).store = s.store := rfl

@[simp] theorem State.messages_onHdr (s : State) (f : Header → Header) : (s.onHdr f).messages = s.messages := rfl

@[simp] theorem State.slots_onHdr (s : State) (f : Header → Header) : (s.onHdr f).slots = s.slots := rfl

@[simp] theorem State.monitor_onHdr (s : State) (f : Header → Header) : (s.onHdr f).monitor = s.monitor := rfl

@[simp] theorem State.outputs_onHdr (s : State) (f : Header → Header) : (s.onHdr f).outputs = s.outputs := rfl

@[simp] theorem State.draws_onHdr (s : State) (f : Header → Header) : (s.onHdr f).draws = s.draws := rfl

@[simp] theorem State.pending_onHdr (s : State) (f : Header → Header) : (s.onHdr f).pending = s.pending := rfl

@[simp] theorem State.line_onHdr (s : State) (f : Header → Header) (m : LineId) : (s.onHdr f).line m = s.line m := rfl

@[simp] theorem State.pump_onHdr (s : State) (f : Header → Header) (q : PumpId) : (s.onHdr f).pump q = s.pump q := rfl

@[simp] theorem State.slot_onHdr (s : State) (f : Header → Header) (k : SlotId) : (s.onHdr f).slot k = s.slot k := rfl

@[simp] theorem State.message_onHdr (s : State) (f : Header → Header) (e : EntryId) : (s.onHdr f).message e = s.message e := rfl

/-! ### raiseEngine -/

@[simp] theorem State.port_raiseEngine (s : State) (e : EngineEvent) : (s.raiseEngine e).port = s.port := rfl

@[simp] theorem State.engTable_raiseEngine (s : State) (e : EngineEvent) : (s.raiseEngine e).engTable = s.engTable := rfl

@[simp] theorem State.sweep_raiseEngine (s : State) (e : EngineEvent) : (s.raiseEngine e).sweep = s.sweep := rfl

@[simp] theorem State.lines_raiseEngine (s : State) (e : EngineEvent) : (s.raiseEngine e).lines = s.lines := rfl

@[simp] theorem State.pumps_raiseEngine (s : State) (e : EngineEvent) : (s.raiseEngine e).pumps = s.pumps := rfl

@[simp] theorem State.queue_raiseEngine (s : State) (e : EngineEvent) : (s.raiseEngine e).queue = s.queue := rfl

@[simp] theorem State.store_raiseEngine (s : State) (e : EngineEvent) : (s.raiseEngine e).store = s.store := rfl

@[simp] theorem State.messages_raiseEngine (s : State) (e : EngineEvent) : (s.raiseEngine e).messages = s.messages := rfl

@[simp] theorem State.slots_raiseEngine (s : State) (e : EngineEvent) : (s.raiseEngine e).slots = s.slots := rfl

@[simp] theorem State.monitor_raiseEngine (s : State) (e : EngineEvent) : (s.raiseEngine e).monitor = s.monitor := rfl

@[simp] theorem State.outputs_raiseEngine (s : State) (e : EngineEvent) : (s.raiseEngine e).outputs = s.outputs := rfl

@[simp] theorem State.draws_raiseEngine (s : State) (e : EngineEvent) : (s.raiseEngine e).draws = s.draws := rfl

@[simp] theorem State.pending_raiseEngine (s : State) (e : EngineEvent) : (s.raiseEngine e).pending = s.pending := rfl

@[simp] theorem State.line_raiseEngine (s : State) (e : EngineEvent) (m : LineId) : (s.raiseEngine e).line m = s.line m := rfl

@[simp] theorem State.pump_raiseEngine (s : State) (e : EngineEvent) (q : PumpId) : (s.raiseEngine e).pump q = s.pump q := rfl

@[simp] theorem State.slot_raiseEngine (s : State) (e : EngineEvent) (k : SlotId) : (s.raiseEngine e).slot k = s.slot k := rfl

@[simp] theorem State.message_raiseEngine (s : State) (e : EngineEvent) (x : EntryId) : (s.raiseEngine e).message x = s.message x := rfl

/-! ### onStore -/

@[simp] theorem State.port_onStore (s : State) (f : Store → Store) : (s.onStore f).port = s.port := rfl

@[simp] theorem State.hdr_onStore (s : State) (f : Store → Store) : (s.onStore f).hdr = s.hdr := rfl

@[simp] theorem State.engTable_onStore (s : State) (f : Store → Store) : (s.onStore f).engTable = s.engTable := rfl

@[simp] theorem State.sweep_onStore (s : State) (f : Store → Store) : (s.onStore f).sweep = s.sweep := rfl

@[simp] theorem State.lines_onStore (s : State) (f : Store → Store) : (s.onStore f).lines = s.lines := rfl

@[simp] theorem State.pumps_onStore (s : State) (f : Store → Store) : (s.onStore f).pumps = s.pumps := rfl

@[simp] theorem State.queue_onStore (s : State) (f : Store → Store) : (s.onStore f).queue = s.queue := rfl

@[simp] theorem State.messages_onStore (s : State) (f : Store → Store) : (s.onStore f).messages = s.messages := rfl

@[simp] theorem State.slots_onStore (s : State) (f : Store → Store) : (s.onStore f).slots = s.slots := rfl

@[simp] theorem State.monitor_onStore (s : State) (f : Store → Store) : (s.onStore f).monitor = s.monitor := rfl

@[simp] theorem State.outputs_onStore (s : State) (f : Store → Store) : (s.onStore f).outputs = s.outputs := rfl

@[simp] theorem State.draws_onStore (s : State) (f : Store → Store) : (s.onStore f).draws = s.draws := rfl

@[simp] theorem State.pending_onStore (s : State) (f : Store → Store) : (s.onStore f).pending = s.pending := rfl

@[simp] theorem State.line_onStore (s : State) (f : Store → Store) (m : LineId) : (s.onStore f).line m = s.line m := rfl

@[simp] theorem State.pump_onStore (s : State) (f : Store → Store) (q : PumpId) : (s.onStore f).pump q = s.pump q := rfl

@[simp] theorem State.slot_onStore (s : State) (f : Store → Store) (k : SlotId) : (s.onStore f).slot k = s.slot k := rfl

@[simp] theorem State.message_onStore (s : State) (f : Store → Store) (e : EntryId) : (s.onStore f).message e = s.message e := rfl

/-! ### onPump -/

@[simp] theorem State.port_onPump (s : State) (p : PumpId) (f : Pump → Pump) : (s.onPump p f).port = s.port := rfl

@[simp] theorem State.hdr_onPump (s : State) (p : PumpId) (f : Pump → Pump) : (s.onPump p f).hdr = s.hdr := rfl

@[simp] theorem State.engTable_onPump (s : State) (p : PumpId) (f : Pump → Pump) : (s.onPump p f).engTable = s.engTable := rfl

@[simp] theorem State.sweep_onPump (s : State) (p : PumpId) (f : Pump → Pump) : (s.onPump p f).sweep = s.sweep := rfl

@[simp] theorem State.lines_onPump (s : State) (p : PumpId) (f : Pump → Pump) : (s.onPump p f).lines = s.lines := rfl

@[simp] theorem State.queue_onPump (s : State) (p : PumpId) (f : Pump → Pump) : (s.onPump p f).queue = s.queue := rfl

@[simp] theorem State.store_onPump (s : State) (p : PumpId) (f : Pump → Pump) : (s.onPump p f).store = s.store := rfl

@[simp] theorem State.messages_onPump (s : State) (p : PumpId) (f : Pump → Pump) : (s.onPump p f).messages = s.messages := rfl

@[simp] theorem State.slots_onPump (s : State) (p : PumpId) (f : Pump → Pump) : (s.onPump p f).slots = s.slots := rfl

@[simp] theorem State.monitor_onPump (s : State) (p : PumpId) (f : Pump → Pump) : (s.onPump p f).monitor = s.monitor := rfl

@[simp] theorem State.outputs_onPump (s : State) (p : PumpId) (f : Pump → Pump) : (s.onPump p f).outputs = s.outputs := rfl

@[simp] theorem State.draws_onPump (s : State) (p : PumpId) (f : Pump → Pump) : (s.onPump p f).draws = s.draws := rfl

@[simp] theorem State.pending_onPump (s : State) (p : PumpId) (f : Pump → Pump) : (s.onPump p f).pending = s.pending := rfl

@[simp] theorem State.line_onPump (s : State) (p : PumpId) (f : Pump → Pump) (m : LineId) : (s.onPump p f).line m = s.line m := rfl

@[simp] theorem State.slot_onPump (s : State) (p : PumpId) (f : Pump → Pump) (k : SlotId) : (s.onPump p f).slot k = s.slot k := rfl

@[simp] theorem State.message_onPump (s : State) (p : PumpId) (f : Pump → Pump) (e : EntryId) : (s.onPump p f).message e = s.message e := rfl

/-! ### onSlot -/

@[simp] theorem State.port_onSlot (s : State) (g : SlotId) (f : Slot → Slot) : (s.onSlot g f).port = s.port := rfl

@[simp] theorem State.hdr_onSlot (s : State) (g : SlotId) (f : Slot → Slot) : (s.onSlot g f).hdr = s.hdr := rfl

@[simp] theorem State.engTable_onSlot (s : State) (g : SlotId) (f : Slot → Slot) : (s.onSlot g f).engTable = s.engTable := rfl

@[simp] theorem State.sweep_onSlot (s : State) (g : SlotId) (f : Slot → Slot) : (s.onSlot g f).sweep = s.sweep := rfl

@[simp] theorem State.lines_onSlot (s : State) (g : SlotId) (f : Slot → Slot) : (s.onSlot g f).lines = s.lines := rfl

@[simp] theorem State.pumps_onSlot (s : State) (g : SlotId) (f : Slot → Slot) : (s.onSlot g f).pumps = s.pumps := rfl

@[simp] theorem State.queue_onSlot (s : State) (g : SlotId) (f : Slot → Slot) : (s.onSlot g f).queue = s.queue := rfl

@[simp] theorem State.store_onSlot (s : State) (g : SlotId) (f : Slot → Slot) : (s.onSlot g f).store = s.store := rfl

@[simp] theorem State.messages_onSlot (s : State) (g : SlotId) (f : Slot → Slot) : (s.onSlot g f).messages = s.messages := rfl

@[simp] theorem State.monitor_onSlot (s : State) (g : SlotId) (f : Slot → Slot) : (s.onSlot g f).monitor = s.monitor := rfl

@[simp] theorem State.outputs_onSlot (s : State) (g : SlotId) (f : Slot → Slot) : (s.onSlot g f).outputs = s.outputs := rfl

@[simp] theorem State.draws_onSlot (s : State) (g : SlotId) (f : Slot → Slot) : (s.onSlot g f).draws = s.draws := rfl

@[simp] theorem State.pending_onSlot (s : State) (g : SlotId) (f : Slot → Slot) : (s.onSlot g f).pending = s.pending := rfl

@[simp] theorem State.line_onSlot (s : State) (g : SlotId) (f : Slot → Slot) (m : LineId) : (s.onSlot g f).line m = s.line m := rfl

@[simp] theorem State.pump_onSlot (s : State) (g : SlotId) (f : Slot → Slot) (q : PumpId) : (s.onSlot g f).pump q = s.pump q := rfl

@[simp] theorem State.message_onSlot (s : State) (g : SlotId) (f : Slot → Slot) (e : EntryId) : (s.onSlot g f).message e = s.message e := rfl

/-! ### onMessage -/

@[simp] theorem State.port_onMessage (s : State) (m : EntryId) (f : Message → Message) : (s.onMessage m f).port = s.port := rfl

@[simp] theorem State.hdr_onMessage (s : State) (m : EntryId) (f : Message → Message) : (s.onMessage m f).hdr = s.hdr := rfl

@[simp] theorem State.engTable_onMessage (s : State) (m : EntryId) (f : Message → Message) : (s.onMessage m f).engTable = s.engTable := rfl

@[simp] theorem State.sweep_onMessage (s : State) (m : EntryId) (f : Message → Message) : (s.onMessage m f).sweep = s.sweep := rfl

@[simp] theorem State.lines_onMessage (s : State) (m : EntryId) (f : Message → Message) : (s.onMessage m f).lines = s.lines := rfl

@[simp] theorem State.pumps_onMessage (s : State) (m : EntryId) (f : Message → Message) : (s.onMessage m f).pumps = s.pumps := rfl

@[simp] theorem State.queue_onMessage (s : State) (m : EntryId) (f : Message → Message) : (s.onMessage m f).queue = s.queue := rfl

@[simp] theorem State.store_onMessage (s : State) (m : EntryId) (f : Message → Message) : (s.onMessage m f).store = s.store := rfl

@[simp] theorem State.slots_onMessage (s : State) (m : EntryId) (f : Message → Message) : (s.onMessage m f).slots = s.slots := rfl

@[simp] theorem State.monitor_onMessage (s : State) (m : EntryId) (f : Message → Message) : (s.onMessage m f).monitor = s.monitor := rfl

@[simp] theorem State.outputs_onMessage (s : State) (m : EntryId) (f : Message → Message) : (s.onMessage m f).outputs = s.outputs := rfl

@[simp] theorem State.draws_onMessage (s : State) (m : EntryId) (f : Message → Message) : (s.onMessage m f).draws = s.draws := rfl

@[simp] theorem State.pending_onMessage (s : State) (m : EntryId) (f : Message → Message) : (s.onMessage m f).pending = s.pending := rfl

@[simp] theorem State.line_onMessage (s : State) (m : EntryId) (f : Message → Message) (x : LineId) : (s.onMessage m f).line x = s.line x := rfl

@[simp] theorem State.pump_onMessage (s : State) (m : EntryId) (f : Message → Message) (q : PumpId) : (s.onMessage m f).pump q = s.pump q := rfl

@[simp] theorem State.slot_onMessage (s : State) (m : EntryId) (f : Message → Message) (k : SlotId) : (s.onMessage m f).slot k = s.slot k := rfl

/-! ### emit -/

@[simp] theorem State.port_emit (s : State) (o : Output) : (s.emit o).port = s.port := rfl

@[simp] theorem State.hdr_emit (s : State) (o : Output) : (s.emit o).hdr = s.hdr := rfl

@[simp] theorem State.engTable_emit (s : State) (o : Output) : (s.emit o).engTable = s.engTable := rfl

@[simp] theorem State.sweep_emit (s : State) (o : Output) : (s.emit o).sweep = s.sweep := rfl

@[simp] theorem State.lines_emit (s : State) (o : Output) : (s.emit o).lines = s.lines := rfl

@[simp] theorem State.pumps_emit (s : State) (o : Output) : (s.emit o).pumps = s.pumps := rfl

@[simp] theorem State.queue_emit (s : State) (o : Output) : (s.emit o).queue = s.queue := rfl

@[simp] theorem State.store_emit (s : State) (o : Output) : (s.emit o).store = s.store := rfl

@[simp] theorem State.messages_emit (s : State) (o : Output) : (s.emit o).messages = s.messages := rfl

@[simp] theorem State.slots_emit (s : State) (o : Output) : (s.emit o).slots = s.slots := rfl

@[simp] theorem State.monitor_emit (s : State) (o : Output) : (s.emit o).monitor = s.monitor := rfl

@[simp] theorem State.draws_emit (s : State) (o : Output) : (s.emit o).draws = s.draws := rfl

@[simp] theorem State.pending_emit (s : State) (o : Output) : (s.emit o).pending = s.pending := rfl

@[simp] theorem State.line_emit (s : State) (o : Output) (m : LineId) : (s.emit o).line m = s.line m := rfl

@[simp] theorem State.pump_emit (s : State) (o : Output) (q : PumpId) : (s.emit o).pump q = s.pump q := rfl

@[simp] theorem State.slot_emit (s : State) (o : Output) (k : SlotId) : (s.emit o).slot k = s.slot k := rfl

@[simp] theorem State.message_emit (s : State) (o : Output) (e : EntryId) : (s.emit o).message e = s.message e := rfl

/-! ### draw -/

@[simp] theorem State.port_draw (s : State) : (s.draw).port = s.port := rfl

@[simp] theorem State.hdr_draw (s : State) : (s.draw).hdr = s.hdr := rfl

@[simp] theorem State.engTable_draw (s : State) : (s.draw).engTable = s.engTable := rfl

@[simp] theorem State.sweep_draw (s : State) : (s.draw).sweep = s.sweep := rfl

@[simp] theorem State.lines_draw (s : State) : (s.draw).lines = s.lines := rfl

@[simp] theorem State.pumps_draw (s : State) : (s.draw).pumps = s.pumps := rfl

@[simp] theorem State.queue_draw (s : State) : (s.draw).queue = s.queue := rfl

@[simp] theorem State.store_draw (s : State) : (s.draw).store = s.store := rfl

@[simp] theorem State.messages_draw (s : State) : (s.draw).messages = s.messages := rfl

@[simp] theorem State.slots_draw (s : State) : (s.draw).slots = s.slots := rfl

@[simp] theorem State.monitor_draw (s : State) : (s.draw).monitor = s.monitor := rfl

@[simp] theorem State.outputs_draw (s : State) : (s.draw).outputs = s.outputs := rfl

@[simp] theorem State.pending_draw (s : State) : (s.draw).pending = s.pending := rfl

@[simp] theorem State.line_draw (s : State) (m : LineId) : (s.draw).line m = s.line m := rfl

@[simp] theorem State.pump_draw (s : State) (q : PumpId) : (s.draw).pump q = s.pump q := rfl

@[simp] theorem State.slot_draw (s : State) (k : SlotId) : (s.draw).slot k = s.slot k := rfl

@[simp] theorem State.message_draw (s : State) (e : EntryId) : (s.draw).message e = s.message e := rfl

/-! ### onPort -/

@[simp] theorem State.hdr_onPort (s : State) (f : Port → Port) : (s.onPort f).hdr = s.hdr := rfl

@[simp] theorem State.engTable_onPort (s : State) (f : Port → Port) : (s.onPort f).engTable = s.engTable := rfl

@[simp] theorem State.sweep_onPort (s : State) (f : Port → Port) : (s.onPort f).sweep = s.sweep := rfl

@[simp] theorem State.lines_onPort (s : State) (f : Port → Port) : (s.onPort f).lines = s.lines := rfl

@[simp] theorem State.pumps_onPort (s : State) (f : Port → Port) : (s.onPort f).pumps = s.pumps := rfl

@[simp] theorem State.queue_onPort (s : State) (f : Port → Port) : (s.onPort f).queue = s.queue := rfl

@[simp] theorem State.store_onPort (s : State) (f : Port → Port) : (s.onPort f).store = s.store := rfl

@[simp] theorem State.messages_onPort (s : State) (f : Port → Port) : (s.onPort f).messages = s.messages := rfl

@[simp] theorem State.slots_onPort (s : State) (f : Port → Port) : (s.onPort f).slots = s.slots := rfl

@[simp] theorem State.monitor_onPort (s : State) (f : Port → Port) : (s.onPort f).monitor = s.monitor := rfl

@[simp] theorem State.outputs_onPort (s : State) (f : Port → Port) : (s.onPort f).outputs = s.outputs := rfl

@[simp] theorem State.draws_onPort (s : State) (f : Port → Port) : (s.onPort f).draws = s.draws := rfl

@[simp] theorem State.pending_onPort (s : State) (f : Port → Port) : (s.onPort f).pending = s.pending := rfl

@[simp] theorem State.line_onPort (s : State) (f : Port → Port) (m : LineId) : (s.onPort f).line m = s.line m := rfl

@[simp] theorem State.pump_onPort (s : State) (f : Port → Port) (q : PumpId) : (s.onPort f).pump q = s.pump q := rfl

@[simp] theorem State.slot_onPort (s : State) (f : Port → Port) (k : SlotId) : (s.onPort f).slot k = s.slot k := rfl

@[simp] theorem State.message_onPort (s : State) (f : Port → Port) (e : EntryId) : (s.onPort f).message e = s.message e := rfl

/-! ### withQueue -/

@[simp] theorem State.port_withQueue (s : State) (q : List Instr) : (s.withQueue q).port = s.port := rfl

@[simp] theorem State.hdr_withQueue (s : State) (q : List Instr) : (s.withQueue q).hdr = s.hdr := rfl

@[simp] theorem State.engTable_withQueue (s : State) (q : List Instr) : (s.withQueue q).engTable = s.engTable := rfl

@[simp] theorem State.sweep_withQueue (s : State) (q : List Instr) : (s.withQueue q).sweep = s.sweep := rfl

@[simp] theorem State.lines_withQueue (s : State) (q : List Instr) : (s.withQueue q).lines = s.lines := rfl

@[simp] theorem State.pumps_withQueue (s : State) (q : List Instr) : (s.withQueue q).pumps = s.pumps := rfl

@[simp] theorem State.queue_withQueue (s : State) (q : List Instr) : (s.withQueue q).queue = s.queue := rfl

@[simp] theorem State.store_withQueue (s : State) (q : List Instr) : (s.withQueue q).store = s.store := rfl

@[simp] theorem State.messages_withQueue (s : State) (q : List Instr) : (s.withQueue q).messages = s.messages := rfl

@[simp] theorem State.slots_withQueue (s : State) (q : List Instr) : (s.withQueue q).slots = s.slots := rfl

@[simp] theorem State.monitor_withQueue (s : State) (q : List Instr) : (s.withQueue q).monitor = s.monitor := rfl

@[simp] theorem State.outputs_withQueue (s : State) (q : List Instr) : (s.withQueue q).outputs = s.outputs := rfl

@[simp] theorem State.draws_withQueue (s : State) (q : List Instr) : (s.withQueue q).draws = s.draws := rfl

@[simp] theorem State.line_withQueue (s : State) (q : List Instr) (m : LineId) : (s.withQueue q).line m = s.line m := rfl

@[simp] theorem State.pump_withQueue (s : State) (q : List Instr) (x : PumpId) : (s.withQueue q).pump x = s.pump x := rfl

@[simp] theorem State.slot_withQueue (s : State) (q : List Instr) (k : SlotId) : (s.withQueue q).slot k = s.slot k := rfl

@[simp] theorem State.message_withQueue (s : State) (q : List Instr) (e : EntryId) : (s.withQueue q).message e = s.message e := rfl

/-! ### Reading what was updated -/

theorem State.line_onLine (s : State) (n m : LineId) (f : Line → Line) :
    (s.onLine n f).line m = if m = n then f (s.line n) else s.line m := by
  simp only [State.line, State.onLine, Fin.getElem_fin, Vector.getElem_set, Fin.ext_iff, eq_comm]

@[simp] theorem State.line_onLine_self (s : State) (n : LineId) (f : Line → Line) : (s.onLine n f).line n = f (s.line n) := by
  simp [State.line_onLine]

@[simp] theorem State.line_onLine_ne (s : State) {n m : LineId} (h : m ≠ n) (f : Line → Line) :
    (s.onLine n f).line m = s.line m := by
  simp [State.line_onLine, h]

theorem State.pump_onPump (s : State) (p q : PumpId) (f : Pump → Pump) :
    (s.onPump p f).pump q = if q = p then f (s.pump p) else s.pump q := by
  simp only [State.pump, State.onPump, Fin.getElem_fin, Vector.getElem_set, Fin.ext_iff, eq_comm]

@[simp] theorem State.pump_onPump_self (s : State) (p : PumpId) (f : Pump → Pump) : (s.onPump p f).pump p = f (s.pump p) := by
  simp [State.pump_onPump]

@[simp] theorem State.pump_onPump_ne (s : State) {p q : PumpId} (h : q ≠ p) (f : Pump → Pump) :
    (s.onPump p f).pump q = s.pump q := by
  simp [State.pump_onPump, h]

theorem State.slot_onSlot (s : State) (g k : SlotId) (f : Slot → Slot) :
    (s.onSlot g f).slot k = if k = g then f (s.slot g) else s.slot k := by
  simp only [State.slot, State.onSlot, Fin.getElem_fin, Vector.getElem_set, Fin.ext_iff, eq_comm]

@[simp] theorem State.slot_onSlot_self (s : State) (g : SlotId) (f : Slot → Slot) : (s.onSlot g f).slot g = f (s.slot g) := by
  simp [State.slot_onSlot]

theorem State.message_onMessage (s : State) (m k : EntryId) (f : Message → Message) :
    (s.onMessage m f).message k = if k = m then f (s.message m) else s.message k := by
  simp only [State.message, State.onMessage, Fin.getElem_fin, Vector.getElem_set, Fin.ext_iff, eq_comm]

@[simp] theorem State.message_onMessage_self (s : State) (m : EntryId) (f : Message → Message) :
    (s.onMessage m f).message m = f (s.message m) := by
  simp [State.message_onMessage]

@[simp] theorem State.hdr_onHdr (s : State) (f : Header → Header) : (s.onHdr f).hdr = f s.hdr := rfl

@[simp] theorem State.store_onStore (s : State) (f : Store → Store) : (s.onStore f).store = f s.store := rfl

@[simp] theorem State.port_onPort (s : State) (f : Port → Port) : (s.onPort f).port = f s.port := rfl

@[simp] theorem State.outputs_emit (s : State) (o : Output) : (s.emit o).outputs = s.outputs ++ [o] := rfl

@[simp] theorem State.draws_draw (s : State) : s.draw.draws = s.draws + 1 := rfl

@[simp] theorem State.pending_withQueue (s : State) (q : List Instr) : (s.withQueue q).pending = q := rfl

theorem State.withQueue_self (s : State) : s.withQueue s.pending = s := rfl

@[simp] theorem State.line_onCall_self (s : State) (n : LineId) (f : CallRecord → CallRecord) :
    (s.onCall n f).line n = { s.line n with call := f (s.line n).call } := State.line_onLine_self ..

@[simp] theorem State.line_onCall_ne (s : State) (n : LineId) (f : CallRecord → CallRecord) {m : LineId} (h : m ≠ n) :
    (s.onCall n f).line m = s.line m := State.line_onLine_ne _ h _

@[simp] theorem State.line_onCtl_self (s : State) (n : LineId) (f : LineControl → LineControl) :
    (s.onCtl n f).line n = { s.line n with ctl := f (s.line n).ctl } := State.line_onLine_self ..

@[simp] theorem State.line_onCtl_ne (s : State) (n : LineId) (f : LineControl → LineControl) {m : LineId} (h : m ≠ n) :
    (s.onCtl n f).line m = s.line m := State.line_onLine_ne _ h _

@[simp] theorem State.line_onDialler_self (s : State) (n : LineId) (f : Dialler → Dialler) :
    (s.onDialler n f).line n = { s.line n with dialler := f (s.line n).dialler } := State.line_onLine_self ..

@[simp] theorem State.line_onDialler_ne (s : State) (n : LineId) (f : Dialler → Dialler) {m : LineId} (h : m ≠ n) :
    (s.onDialler n f).line m = s.line m := State.line_onLine_ne _ h _

@[simp] theorem State.line_onProg_self (s : State) (n : LineId) (f : Progress → Progress) :
    (s.onProg n f).line n = { s.line n with prog := f (s.line n).prog } := State.line_onLine_self ..

@[simp] theorem State.line_onProg_ne (s : State) (n : LineId) (f : Progress → Progress) {m : LineId} (h : m ≠ n) :
    (s.onProg n f).line m = s.line m := State.line_onLine_ne _ h _

@[simp] theorem State.line_onSeq_self (s : State) (n : LineId) (f : AnswerSeq → AnswerSeq) :
    (s.onSeq n f).line n = { s.line n with seq := f (s.line n).seq } := State.line_onLine_self ..

@[simp] theorem State.line_onSeq_ne (s : State) (n : LineId) (f : AnswerSeq → AnswerSeq) {m : LineId} (h : m ≠ n) :
    (s.onSeq n f).line m = s.line m := State.line_onLine_ne _ h _

@[simp] theorem State.line_onGrade_self (s : State) (n : LineId) (f : Grade → Grade) :
    (s.onGrade n f).line n = { s.line n with grade := f (s.line n).grade } := State.line_onLine_self ..

@[simp] theorem State.line_onGrade_ne (s : State) (n : LineId) (f : Grade → Grade) {m : LineId} (h : m ≠ n) :
    (s.onGrade n f).line m = s.line m := State.line_onLine_ne _ h _

@[simp] theorem State.line_onLink_self (s : State) (n : LineId) (f : Link → Link) :
    (s.onLink n f).line n = { s.line n with link := f (s.line n).link } := State.line_onLine_self ..

@[simp] theorem State.line_onLink_ne (s : State) (n : LineId) (f : Link → Link) {m : LineId} (h : m ≠ n) :
    (s.onLink n f).line m = s.line m := State.line_onLine_ne _ h _

@[simp] theorem State.line_onFax_self (s : State) (n : LineId) (f : Fax → Fax) :
    (s.onFax n f).line n = { s.line n with fax := f (s.line n).fax } := State.line_onLine_self ..

@[simp] theorem State.line_onFax_ne (s : State) (n : LineId) (f : Fax → Fax) {m : LineId} (h : m ≠ n) :
    (s.onFax n f).line m = s.line m := State.line_onLine_ne _ h _

@[simp] theorem State.line_onVoice_self (s : State) (n : LineId) (f : Voice → Voice) :
    (s.onVoice n f).line n = { s.line n with voice := f (s.line n).voice } := State.line_onLine_self ..

@[simp] theorem State.line_onVoice_ne (s : State) (n : LineId) (f : Voice → Voice) {m : LineId} (h : m ≠ n) :
    (s.onVoice n f).line m = s.line m := State.line_onLine_ne _ h _

@[simp] theorem State.line_onFm_self (s : State) (n : LineId) (f : FaultRecord → FaultRecord) :
    (s.onFm n f).line n = { s.line n with fm := f (s.line n).fm } := State.line_onLine_self ..

@[simp] theorem State.line_onFm_ne (s : State) (n : LineId) (f : FaultRecord → FaultRecord) {m : LineId} (h : m ≠ n) :
    (s.onFm n f).line m = s.line m := State.line_onLine_ne _ h _

@[simp] theorem State.line_raise_self (s : State) (n : LineId) (e : LineEvent) :
    (s.raise n e).line n = { s.line n with ev := (s.line n).ev.raise e.bit } := State.line_onLine_self ..

@[simp] theorem State.line_raise_ne (s : State) (n : LineId) (e : LineEvent) {m : LineId} (h : m ≠ n) :
    (s.raise n e).line m = s.line m := State.line_onLine_ne _ h _

@[simp] theorem State.hdr_raiseEngine (s : State) (e : EngineEvent) :
    (s.raiseEngine e).hdr = { s.hdr with ev := s.hdr.ev.raise e.bit } := rfl

/-! ### onTable -/

@[simp] theorem State.port_onTable (s : State) (t : TableId) (f : OrderTable → OrderTable) : (s.onTable t f).port = s.port := by cases t <;> rfl

@[simp] theorem State.hdr_onTable (s : State) (t : TableId) (f : OrderTable → OrderTable) : (s.onTable t f).hdr = s.hdr := by cases t <;> rfl

@[simp] theorem State.sweep_onTable (s : State) (t : TableId) (f : OrderTable → OrderTable) : (s.onTable t f).sweep = s.sweep := by cases t <;> rfl

@[simp] theorem State.pumps_onTable (s : State) (t : TableId) (f : OrderTable → OrderTable) : (s.onTable t f).pumps = s.pumps := by cases t <;> rfl

@[simp] theorem State.queue_onTable (s : State) (t : TableId) (f : OrderTable → OrderTable) : (s.onTable t f).queue = s.queue := by cases t <;> rfl

@[simp] theorem State.store_onTable (s : State) (t : TableId) (f : OrderTable → OrderTable) : (s.onTable t f).store = s.store := by cases t <;> rfl

@[simp] theorem State.messages_onTable (s : State) (t : TableId) (f : OrderTable → OrderTable) : (s.onTable t f).messages = s.messages := by cases t <;> rfl

@[simp] theorem State.slots_onTable (s : State) (t : TableId) (f : OrderTable → OrderTable) : (s.onTable t f).slots = s.slots := by cases t <;> rfl

@[simp] theorem State.monitor_onTable (s : State) (t : TableId) (f : OrderTable → OrderTable) : (s.onTable t f).monitor = s.monitor := by cases t <;> rfl

@[simp] theorem State.outputs_onTable (s : State) (t : TableId) (f : OrderTable → OrderTable) : (s.onTable t f).outputs = s.outputs := by cases t <;> rfl

@[simp] theorem State.draws_onTable (s : State) (t : TableId) (f : OrderTable → OrderTable) : (s.onTable t f).draws = s.draws := by cases t <;> rfl

@[simp] theorem State.pending_onTable (s : State) (t : TableId) (f : OrderTable → OrderTable) : (s.onTable t f).pending = s.pending := by cases t <;> rfl

@[simp] theorem State.pump_onTable (s : State) (t : TableId) (f : OrderTable → OrderTable) (q : PumpId) : (s.onTable t f).pump q = s.pump q := by cases t <;> rfl

@[simp] theorem State.slot_onTable (s : State) (t : TableId) (f : OrderTable → OrderTable) (k : SlotId) : (s.onTable t f).slot k = s.slot k := by cases t <;> rfl

@[simp] theorem State.message_onTable (s : State) (t : TableId) (f : OrderTable → OrderTable) (e : EntryId) : (s.onTable t f).message e = s.message e := by cases t <;> rfl

/-! ### setCard -/

@[simp] theorem State.port_setCard (s : State) (t : TableId) (i : Nat) (c : Card) : (s.setCard t i c).port = s.port := by cases t <;> rfl

@[simp] theorem State.hdr_setCard (s : State) (t : TableId) (i : Nat) (c : Card) : (s.setCard t i c).hdr = s.hdr := by cases t <;> rfl

@[simp] theorem State.sweep_setCard (s : State) (t : TableId) (i : Nat) (c : Card) : (s.setCard t i c).sweep = s.sweep := by cases t <;> rfl

@[simp] theorem State.pumps_setCard (s : State) (t : TableId) (i : Nat) (c : Card) : (s.setCard t i c).pumps = s.pumps := by cases t <;> rfl

@[simp] theorem State.queue_setCard (s : State) (t : TableId) (i : Nat) (c : Card) : (s.setCard t i c).queue = s.queue := by cases t <;> rfl

@[simp] theorem State.store_setCard (s : State) (t : TableId) (i : Nat) (c : Card) : (s.setCard t i c).store = s.store := by cases t <;> rfl

@[simp] theorem State.messages_setCard (s : State) (t : TableId) (i : Nat) (c : Card) : (s.setCard t i c).messages = s.messages := by cases t <;> rfl

@[simp] theorem State.slots_setCard (s : State) (t : TableId) (i : Nat) (c : Card) : (s.setCard t i c).slots = s.slots := by cases t <;> rfl

@[simp] theorem State.monitor_setCard (s : State) (t : TableId) (i : Nat) (c : Card) : (s.setCard t i c).monitor = s.monitor := by cases t <;> rfl

@[simp] theorem State.outputs_setCard (s : State) (t : TableId) (i : Nat) (c : Card) : (s.setCard t i c).outputs = s.outputs := by cases t <;> rfl

@[simp] theorem State.draws_setCard (s : State) (t : TableId) (i : Nat) (c : Card) : (s.setCard t i c).draws = s.draws := by cases t <;> rfl

@[simp] theorem State.pending_setCard (s : State) (t : TableId) (i : Nat) (c : Card) : (s.setCard t i c).pending = s.pending := by cases t <;> rfl

@[simp] theorem State.pump_setCard (s : State) (t : TableId) (i : Nat) (c : Card) (q : PumpId) : (s.setCard t i c).pump q = s.pump q := by cases t <;> rfl

@[simp] theorem State.slot_setCard (s : State) (t : TableId) (i : Nat) (c : Card) (k : SlotId) : (s.setCard t i c).slot k = s.slot k := by cases t <;> rfl

@[simp] theorem State.message_setCard (s : State) (t : TableId) (i : Nat) (c : Card) (e : EntryId) : (s.setCard t i c).message e = s.message e := by cases t <;> rfl

/-! ### The framing of the silence measurement -/

@[simp] theorem Voice.play_framed (v : Voice) : v.framed.play = v.play := rfl

@[simp] theorem Voice.playCard_framed (v : Voice) : v.framed.playCard = v.playCard := rfl

@[simp] theorem Voice.playChain_framed (v : Voice) : v.framed.playChain = v.playChain := rfl

@[simp] theorem Voice.playTotal_framed (v : Voice) : v.framed.playTotal = v.playTotal := rfl

@[simp] theorem Voice.samplesPlayed_framed (v : Voice) : v.framed.samplesPlayed = v.samplesPlayed := rfl

@[simp] theorem Voice.recording_framed (v : Voice) : v.framed.recording = v.recording := rfl

@[simp] theorem Voice.recKind_framed (v : Voice) : v.framed.recKind = v.recKind := rfl

@[simp] theorem Voice.stopOnDigit_framed (v : Voice) : v.framed.stopOnDigit = v.stopOnDigit := rfl

@[simp] theorem Voice.encoder_framed (v : Voice) : v.framed.encoder = v.encoder := rfl

@[simp] theorem Voice.decoder_framed (v : Voice) : v.framed.decoder = v.decoder := rfl

@[simp] theorem Voice.silentRun_framed (v : Voice) : v.framed.silentRun = v.silentRun := rfl

@[simp] theorem Voice.digits_framed (v : Voice) : v.framed.digits = v.digits := rfl

@[simp] theorem Voice.overflow_framed (v : Voice) : v.framed.overflow = v.overflow := rfl

@[simp] theorem Voice.lastMessage_framed (v : Voice) : v.framed.lastMessage = v.lastMessage := rfl

@[simp] theorem Voice.lastEnd_framed (v : Voice) : v.framed.lastEnd = v.lastEnd := rfl

@[simp] theorem Voice.frame_framed (v : Voice) : v.framed.frame = [] := rfl

@[simp] theorem Voice.ahead_framed (v : Voice) : v.framed.ahead = 0 := rfl

@[simp] theorem Voice.play_hear (v : Voice) (x : Sample) : (v.hear x).play = v.play := by unfold Voice.hear; split <;> rfl

@[simp] theorem Voice.playCard_hear (v : Voice) (x : Sample) : (v.hear x).playCard = v.playCard := by unfold Voice.hear; split <;> rfl

@[simp] theorem Voice.playChain_hear (v : Voice) (x : Sample) : (v.hear x).playChain = v.playChain := by unfold Voice.hear; split <;> rfl

@[simp] theorem Voice.playTotal_hear (v : Voice) (x : Sample) : (v.hear x).playTotal = v.playTotal := by unfold Voice.hear; split <;> rfl

@[simp] theorem Voice.samplesPlayed_hear (v : Voice) (x : Sample) : (v.hear x).samplesPlayed = v.samplesPlayed := by unfold Voice.hear; split <;> rfl

@[simp] theorem Voice.recording_hear (v : Voice) (x : Sample) : (v.hear x).recording = v.recording := by unfold Voice.hear; split <;> rfl

@[simp] theorem Voice.recKind_hear (v : Voice) (x : Sample) : (v.hear x).recKind = v.recKind := by unfold Voice.hear; split <;> rfl

@[simp] theorem Voice.stopOnDigit_hear (v : Voice) (x : Sample) : (v.hear x).stopOnDigit = v.stopOnDigit := by unfold Voice.hear; split <;> rfl

@[simp] theorem Voice.encoder_hear (v : Voice) (x : Sample) : (v.hear x).encoder = v.encoder := by unfold Voice.hear; split <;> rfl

@[simp] theorem Voice.decoder_hear (v : Voice) (x : Sample) : (v.hear x).decoder = v.decoder := by unfold Voice.hear; split <;> rfl

@[simp] theorem Voice.silentRun_hear (v : Voice) (x : Sample) : (v.hear x).silentRun = v.silentRun := by unfold Voice.hear; split <;> rfl

@[simp] theorem Voice.digits_hear (v : Voice) (x : Sample) : (v.hear x).digits = v.digits := by unfold Voice.hear; split <;> rfl

@[simp] theorem Voice.overflow_hear (v : Voice) (x : Sample) : (v.hear x).overflow = v.overflow := by unfold Voice.hear; split <;> rfl

@[simp] theorem Voice.lastMessage_hear (v : Voice) (x : Sample) : (v.hear x).lastMessage = v.lastMessage := by unfold Voice.hear; split <;> rfl

@[simp] theorem Voice.lastEnd_hear (v : Voice) (x : Sample) : (v.hear x).lastEnd = v.lastEnd := by unfold Voice.hear; split <;> rfl

end Sys2Proof.Machine
end

