-- ==== Sys2Proof/Laws/Memory.lean ====
section
/-! SUPPORT. The store's bytes: every write keeps the canonical form, and what a byte reads as after a write. -/

set_option Elab.async false

namespace Sys2Proof.Machine

/-- Every address of a memory lies above a bound. -/
def Memory.above (lo : Nat) (m : List Host.Cell) : Prop := ∀ c ∈ m, lo < c.1

theorem Memory.above_nil (lo : Nat) : Memory.above lo [] := by simp [Memory.above]

theorem Memory.above_cons {lo : Nat} {c : Host.Cell} {m : List Host.Cell} :
    Memory.above lo (c :: m) ↔ lo < c.1 ∧ Memory.above lo m := by simp [Memory.above]

theorem Memory.above_mono {lo hi : Nat} {m : List Host.Cell} (h : lo ≤ hi) (hm : Memory.above hi m) : Memory.above lo m :=
  fun c hc => lt_of_le_of_lt h (hm c hc)

/-- The canonical form, entry by entry. -/
theorem Memory.wf_cons {a : Nat} {v : Byte} {m : List Host.Cell} :
    Memory.wf ((a, v) :: m) = true ↔ v ≠ unlisted a ∧ Memory.above a m ∧ Memory.wf m = true := by
  induction m generalizing a v with
  | nil => simp [Memory.wf, Memory.above_nil]
  | cons c m ih =>
    obtain ⟨b, w⟩ := c
    rw [Memory.wf]
    simp only [Bool.and_eq_true, bne_iff_ne, ne_eq, decide_eq_true_eq, Memory.above_cons]
    constructor
    · rintro ⟨⟨h1, h2⟩, h3⟩
      exact ⟨h1, ⟨h2, Memory.above_mono h2.le (ih.mp h3).2.1⟩, h3⟩
    · rintro ⟨h1, h2, h3⟩
      exact ⟨⟨h1, h2.1⟩, h3⟩

theorem Memory.above_set {lo a : Nat} (h : lo < a) (v : Byte) {m : List Host.Cell} (hm : Memory.above lo m) :
    Memory.above lo (Memory.set m a v) := by
  induction m with
  | nil => simp only [Memory.set]; split <;> simp [Memory.above, h]
  | cons c m ih =>
    obtain ⟨b, w⟩ := c
    rw [Memory.above_cons] at hm
    simp only [Memory.set]
    split
    · split <;> simp [Memory.above_cons, h, hm.1, hm.2]
    · split
      · split <;> simp [Memory.above_cons, h, hm.2]
      · simp [Memory.above_cons, hm.1, ih hm.2]

/-- A write of one byte keeps the canonical form. -/
theorem Memory.wf_set {m : List Host.Cell} (h : Memory.wf m = true) (a : Nat) (v : Byte) :
    Memory.wf (Memory.set m a v) = true := by
  induction m with
  | nil => simp only [Memory.set]; split <;> simp_all [Memory.wf]
  | cons c m ih =>
    obtain ⟨b, w⟩ := c
    have h' := Memory.wf_cons.mp h
    simp only [Memory.set]
    split
    next hlt =>
      split
      · exact h
      next hv => exact Memory.wf_cons.mpr ⟨hv, Memory.above_cons.mpr ⟨hlt, Memory.above_mono hlt.le h'.2.1⟩, h⟩
    · split
      next heq =>
        split
        · exact h'.2.2
        next hv => exact Memory.wf_cons.mpr ⟨hv, heq ▸ h'.2.1, h'.2.2⟩
      next hne => exact Memory.wf_cons.mpr ⟨h'.1, Memory.above_set (by omega) v h'.2.1, ih h'.2.2⟩

theorem Memory.get_above {m : List Host.Cell} {a : Nat} (h : Memory.above a m) : Memory.get m a = unlisted a := by
  cases m with
  | nil => rfl
  | cons c m =>
    have := (Memory.above_cons.mp h).1
    obtain ⟨b, w⟩ := c
    simp only [Memory.get]
    rw [if_neg (by simp at this; omega), if_pos (by simpa using this)]

/-- A byte read after a write of one byte. -/
theorem Memory.get_set {m : List Host.Cell} (h : Memory.wf m = true) (a b : Nat) (v : Byte) :
    Memory.get (Memory.set m a v) b = if b = a then v else Memory.get m b := by
  induction m with
  | nil =>
    simp only [Memory.set]
    split
    next hv => simp only [Memory.get]; split <;> simp_all
    next hv => simp only [Memory.get]; split <;> simp
  | cons c m ih =>
    obtain ⟨x, w⟩ := c
    have h' := Memory.wf_cons.mp h
    simp only [Memory.set]
    split
    next hlt =>
      split
      next hv =>
        split
        next hb => subst hb; simp only [Memory.get]; rw [if_neg (by omega), if_pos hlt, hv]
        next hb => rfl
      next hv =>
        rw [Memory.get]
        split
        · rfl
        next hb =>
          split
          next hlt' => simp only [Memory.get]; rw [if_neg (by omega), if_pos (by omega)]
          next => rfl
    · split
      next heq =>
        subst heq
        split
        next hv =>
          split
          next hb => subst hb; rw [Memory.get_above h'.2.1, hv]
          next hb =>
            simp only [Memory.get]
            rw [if_neg hb]
            split
            next hlt => exact Memory.get_above (Memory.above_mono hlt.le h'.2.1)
            next => rfl
        next hv => simp only [Memory.get]; split <;> rfl
      next hne =>
        rw [Memory.get, ih h'.2.2, Memory.get]
        split
        next hb => rw [if_neg (by omega)]
        next hb =>
          split
          next hlt => rw [if_neg (by omega)]
          next => rfl

theorem Memory.wf_setWord {m : List Host.Cell} (h : Memory.wf m = true) (a v : Nat) : Memory.wf (Memory.setWord m a v) = true :=
  Memory.wf_set (Memory.wf_set h _ _) _ _

theorem Memory.wf_setBytes {m : List Host.Cell} (h : Memory.wf m = true) (a : Nat) (bs : List Byte) :
    Memory.wf (Memory.setBytes m a bs) = true := by
  induction bs generalizing m a with
  | nil => exact h
  | cons b bs ih => exact ih (Memory.wf_set h _ _) _

/-- A byte read after a word is written: the word's own two bytes, and every other byte as before. -/
theorem Memory.get_setWord {m : List Host.Cell} (h : Memory.wf m = true) (a v b : Nat) :
    Memory.get (Memory.setWord m a v) b =
      if b = a + 1 then byteOf v 1 else if b = a then byteOf v 0 else Memory.get m b := by
  rw [Memory.setWord, Memory.get_set (Memory.wf_set h _ _), Memory.get_set h]

/-- A word read where it was written. -/
theorem Memory.word_setWord {m : List Host.Cell} (h : Memory.wf m = true) (a v : Nat) (hv : v < 65536) :
    Memory.word (Memory.setWord m a v) a = v := by
  simp only [Memory.word, Memory.get_setWord h, if_pos, Nat.left_eq_add, Nat.succ_ne_self, if_false, byteOf, BitVec.toNat_ofNat]
  simp
  omega

/-- A word that lies outside the word written reads as before. -/
theorem Memory.word_setWord_of_far {m : List Host.Cell} (h : Memory.wf m = true) {a b : Nat} (v : Nat) (hf : b + 2 ≤ a ∨ a + 2 ≤ b) :
    Memory.word (Memory.setWord m a v) b = Memory.word m b := by
  simp only [Memory.word, Memory.get_setWord h]
  rw [if_neg (by omega), if_neg (by omega), if_neg (by omega), if_neg (by omega)]

/-- Cells kept by a test keep the canonical form. -/
theorem Memory.wf_filter {m : List Host.Cell} (h : Memory.wf m = true) (p : Host.Cell → Bool) :
    Memory.wf (m.filter p) = true := by
  induction m with
  | nil => rfl
  | cons c m ih =>
    obtain ⟨a, v⟩ := c
    have h' := Memory.wf_cons.mp h
    rw [List.filter_cons]
    split
    · exact Memory.wf_cons.mpr ⟨h'.1, fun c hc => h'.2.1 c (List.mem_filter.mp hc).1, ih h'.2.2⟩
    · exact ih h'.2.2

/-- A byte outside the bytes written reads as before. -/
theorem Memory.get_setBytes_of_far {m : List Host.Cell} (h : Memory.wf m = true) {a b : Nat} (bs : List Byte)
    (hf : b < a ∨ a + bs.length ≤ b) : Memory.get (Memory.setBytes m a bs) b = Memory.get m b := by
  induction bs generalizing m a with
  | nil => rfl
  | cons x bs ih =>
    simp only [List.length_cons] at hf
    rw [Memory.setBytes, ih (Memory.wf_set h _ _) (by omega), Memory.get_set h, if_neg (by omega)]

end Sys2Proof.Machine
end

