-- ==== Sys2Proof/Laws/Store.lean ====
section
/-! SUPPORT. What the store's operations keep: the canonical form, the agreement of owners and free stack, the block count. -/

set_option Elab.async false

namespace Sys2Proof.Machine

/-- A store in order, of `k` blocks. -/
structure Store.Good (k : Nat) (st : Store) : Prop where
  canonical : Memory.wf st.mem = true
  economy : st.Economy
  blocks : st.owners.length = k

theorem Store.good_iff_sound (s : State) : s.Sound ↔ s.store.Good (blocksFitted s.port.strap) :=
  ⟨fun h => ⟨h.canonical, h.economy, h.fitted⟩, fun h => ⟨h.canonical, h.economy, h.blocks⟩⟩

/-- A write to the bytes alone keeps a store in order. -/
theorem Store.good_mem {k : Nat} {st : Store} (h : st.Good k) {m : List Host.Cell} (hm : Memory.wf m = true) :
    Store.Good k { st with mem := m } := ⟨hm, h.economy, h.blocks⟩

/-- A pop moves the top of the free stack to a new owner. -/
theorem Store.take_eq_some {st : Store} {o : Owner} {b : Nat} {st' : Store} (h : st.take o = some (b, st')) :
    ∃ rest, st.free = b :: rest ∧ st' = { st with free := rest }.setOwner b o := by
  unfold Store.take at h
  split at h
  · simp at h
  next c rest heq =>
    simp only [Option.some.injEq, Prod.mk.injEq] at h
    exact ⟨rest, by rw [heq, h.1], by rw [← h.2, h.1]⟩

theorem Store.take_eq_none {st : Store} {o : Owner} : st.take o = none ↔ st.free = [] := by
  unfold Store.take; split <;> simp_all

/-- A pop to an owner that is not FREE keeps the store in order. -/
theorem Store.good_take {k : Nat} {st st' : Store} {o : Owner} {b : Nat} (h : st.Good k) (ho : o ≠ .free)
    (ht : st.take o = some (b, st')) : st'.Good k := by
  obtain ⟨rest, hf, rfl⟩ := Store.take_eq_some ht
  have hn := h.economy.1
  rw [hf, List.nodup_cons] at hn
  refine ⟨Memory.wf_setWord h.canonical _ _, ⟨hn.2, fun c => ?_⟩, by simpa [Store.setOwner] using h.blocks⟩
  have hc := h.economy.2 c
  rw [hf, List.mem_cons] at hc
  simp only [Store.setOwner, List.getElem?_set]
  by_cases hbc : b = c
  · subst hbc
    simp only [if_true, hn.1, false_iff]
    split <;> simp [ho]
  · rw [if_neg hbc, ← hc]
    exact ⟨Or.inr, fun h => h.resolve_left (fun e => hbc e.symm)⟩

/-- A change of owner to one that is not FREE keeps the store in order. -/
theorem Store.good_assign {k : Nat} {st : Store} (h : st.Good k) (b : Nat) {o : Owner} (ho : o ≠ .free) :
    (st.assign b o).Good k := by
  unfold Store.assign
  split
  · exact h
  next p hp hb =>
    refine ⟨Memory.wf_setWord h.canonical _ _, ⟨h.economy.1, fun c => ?_⟩, by simpa [Store.setOwner] using h.blocks⟩
    have hc := h.economy.2 c
    simp only [Store.setOwner, List.getElem?_set]
    by_cases hbc : b = c
    · subst hbc
      have hnot : b ∉ st.free := fun hm => hp (by have := hc.mp hm; rw [hb] at this; exact Option.some.inj this)
      simp only [if_true, hnot, false_iff]
      split <;> simp [ho]
    · rw [if_neg hbc]; exact hc
  · exact h

theorem Store.good_assignAll {k : Nat} {st : Store} (h : st.Good k) (bs : List Nat) {o : Owner} (ho : o ≠ .free) :
    (st.assignAll bs o).Good k := by
  unfold Store.assignAll
  induction bs generalizing st with
  | nil => exact h
  | cons b bs ih => exact ih (Store.good_assign h b ho)

/-- A release keeps the store in order. -/
theorem Store.good_release {k : Nat} {st : Store} (h : st.Good k) (b : Nat) : (st.release b).Good k := by
  unfold Store.release
  split
  · exact h
  next p hp hb =>
    have hnot : b ∉ st.free := fun hm => hp (by have := (h.economy.2 b).mp hm; rw [hb] at this; exact Option.some.inj this)
    have hlt : b < st.owners.length := (List.getElem?_eq_some_iff.mp hb).1
    refine ⟨Memory.wf_setWord h.canonical _ _, ⟨List.nodup_cons.mpr ⟨hnot, h.economy.1⟩, fun c => ?_⟩,
      by simpa [Store.setOwner] using h.blocks⟩
    have hc := h.economy.2 c
    simp only [Store.setOwner, List.getElem?_set, List.mem_cons]
    by_cases hbc : b = c
    · subst hbc; simp [hlt]
    · rw [if_neg hbc, ← hc]
      exact ⟨fun h => h.resolve_left (fun e => hbc e.symm), Or.inr⟩
  · exact h

theorem Store.good_setNext {k : Nat} {st : Store} (h : st.Good k) (b v : Nat) : (st.setNext b v).Good k :=
  Store.good_mem h (Memory.wf_setWord h.canonical _ _)

theorem Store.good_setFill {k : Nat} {st : Store} (h : st.Good k) (b v : Nat) : (st.setFill b v).Good k :=
  Store.good_mem h (Memory.wf_setWord h.canonical _ _)

theorem Store.good_newHeader {k : Nat} {st : Store} (h : st.Good k) (b : Nat) (kd : BlockKind) (n : LineId) (q : Nat) :
    (st.newHeader b kd n q).Good k := Store.good_mem h (Memory.wf_setBytes h.canonical _ _)

theorem Store.good_append {k : Nat} {st : Store} (h : st.Good k) (b : Nat) (bs : List Byte) : (st.append b bs).Good k :=
  Store.good_setFill (st := { st with mem := _ }) (Store.good_mem h (Memory.wf_setBytes h.canonical _ _)) _ _

theorem Store.good_setPayload {k : Nat} {st : Store} (h : st.Good k) (b i : Nat) (v : Byte) : (st.setPayload b i v).Good k :=
  Store.good_mem h (Memory.wf_set h.canonical _ _)

/-! ## What each operation does to owners and the free stack -/

/-- The free stack after a pop is what lay below the top. -/
theorem Store.free_take {st st' : Store} {o : Owner} {b : Nat} (h : st.take o = some (b, st')) : st.free = b :: st'.free := by
  obtain ⟨rest, hf, rfl⟩ := Store.take_eq_some h
  exact hf

theorem Store.freeCount_take {st st' : Store} {o : Owner} {b : Nat} (h : st.take o = some (b, st')) :
    st.freeCount = st'.freeCount + 1 := by simp [Store.freeCount, Store.free_take h]

@[simp] theorem Store.free_assign (st : Store) (b : Nat) (o : Owner) : (st.assign b o).free = st.free := by
  unfold Store.assign; split <;> rfl

@[simp] theorem Store.free_assignAll (st : Store) (bs : List Nat) (o : Owner) : (st.assignAll bs o).free = st.free := by
  unfold Store.assignAll
  induction bs generalizing st with
  | nil => rfl
  | cons b bs ih => rw [List.foldl_cons, ih, Store.free_assign]

/-- A block released goes on top of the free stack. -/
theorem Store.free_release {st : Store} {b : Nat} {o : Owner} (h : st.owners[b]? = some o) (ho : o ≠ .free) :
    (st.release b).free = b :: st.free := by
  unfold Store.release
  split
  · simp_all
  · rfl
  · simp_all

@[simp] theorem Store.free_setNext (st : Store) (b v : Nat) : (st.setNext b v).free = st.free := rfl
@[simp] theorem Store.free_setFill (st : Store) (b v : Nat) : (st.setFill b v).free = st.free := rfl
@[simp] theorem Store.free_append (st : Store) (b : Nat) (bs : List Byte) : (st.append b bs).free = st.free := rfl
@[simp] theorem Store.owners_setNext (st : Store) (b v : Nat) : (st.setNext b v).owners = st.owners := rfl
@[simp] theorem Store.owners_setFill (st : Store) (b v : Nat) : (st.setFill b v).owners = st.owners := rfl
@[simp] theorem Store.owners_append (st : Store) (b : Nat) (bs : List Byte) : (st.append b bs).owners = st.owners := rfl
@[simp] theorem Store.owners_newHeader (st : Store) (b : Nat) (kd : BlockKind) (n : LineId) (q : Nat) :
    (st.newHeader b kd n q).owners = st.owners := rfl

/-- The owner of a block after a change of owner. -/
theorem Store.owners_assign {st : Store} {b : Nat} {p : Owner} (o : Owner) (h : st.owners[b]? = some p) (hp : p ≠ .free) :
    (st.assign b o).owners = st.owners.set b o := by
  unfold Store.assign
  split
  · simp_all
  · rfl
  · simp_all

end Sys2Proof.Machine
end

