-- ==== Sys2Proof/Laws/Effects.lean ====
section
/-! SUPPORT. Everything an operation on one line can do, said once (`LineEffect`), and the lemma of each basic operation. A lemma
`LineEffect.op` says: what led from `s₀` to `s` and then `op` have together such an effect. -/

set_option Elab.async false

namespace Sys2Proof.Machine

/-- What every operation but an engine reset keeps. -/
structure Keeps (s t : State) : Prop where
  sound : s.Sound → t.Sound
  bounded : s.Bounded → t.Bounded
  strap : t.port.strap = s.port.strap
  pending : t.pending = s.pending
  outputs : s.outputs <+: t.outputs

/-- What an operation of line `n` can do: it keeps the other lines aside, the port, the sweep and the monitor, and of the Engine
Header it changes only the event word, the next message number and the Change Count. -/
structure LineEffect (n : LineId) (s t : State) : Prop extends Keeps s t where
  aside : State.Aside n s t
  events : (s.line n).ev.Risen (t.line n).ev
  cards : ∀ T, (t.table T).cards.length = (s.table T).cards.length
  port : t.port = s.port
  sweep : t.sweep = s.sweep
  monitor : t.monitor = s.monitor
  hdr : ∃ e k c, s.hdr.ev.Risen e ∧ t.hdr = { s.hdr with ev := e, nextMessage := k, changeCount := c }

theorem Keeps.refl {s : State} : Keeps s s := ⟨id, id, Eq.refl _, Eq.refl _, List.prefix_rfl⟩

theorem Keeps.trans {s t u : State} (h : Keeps s t) (k : Keeps t u) : Keeps s u :=
  ⟨k.sound ∘ h.sound, k.bounded ∘ h.bounded, k.strap.trans h.strap, k.pending.trans h.pending, h.outputs.trans k.outputs⟩

theorem EventWord.Risen.refl {w : EventWord} : w.Risen w := ⟨0, 0, by simp⟩

theorem EventWord.Risen.trans {w v u : EventWord} (h : w.Risen v) (k : v.Risen u) : w.Risen u := by
  obtain ⟨a, b, rfl⟩ := h
  obtain ⟨c, d, rfl⟩ := k
  exact ⟨a ||| c, b + d, by simp [BitVec.or_assoc, BitVec.add_assoc]⟩

theorem EventWord.Risen.raise {w v : EventWord} (h : w.Risen v) (i : Nat) : w.Risen (v.raise i) := h.trans ⟨bitWord i, 1, rfl⟩

theorem State.Aside.refl {n : LineId} {s : State} : State.Aside n s s := fun m _ => ⟨(s.line m).link, (s.line m).changeCount, Eq.refl _⟩

theorem State.Aside.trans {n : LineId} {s t u : State} (h : State.Aside n s t) (k : State.Aside n t u) : State.Aside n s u := by
  intro m hm
  obtain ⟨a, b, hab⟩ := h m hm
  obtain ⟨c, d, hcd⟩ := k m hm
  exact ⟨c, d, by rw [hcd, hab]⟩

theorem LineEffect.refl {n : LineId} {s : State} : LineEffect n s s :=
  ⟨.refl, .refl, .refl, fun _ => Eq.refl _, Eq.refl _, Eq.refl _, Eq.refl _, s.hdr.ev, s.hdr.nextMessage, s.hdr.changeCount, .refl, Eq.refl _⟩

theorem LineEffect.trans {n : LineId} {s t u : State} (h : LineEffect n s t) (k : LineEffect n t u) : LineEffect n s u := by
  refine ⟨h.toKeeps.trans k.toKeeps, h.aside.trans k.aside, h.events.trans k.events, fun T => (k.cards T).trans (h.cards T), k.port.trans h.port, k.sweep.trans h.sweep,
    k.monitor.trans h.monitor, ?_⟩
  obtain ⟨a, b, c, ha, hh⟩ := h.hdr
  obtain ⟨a', b', c', hb, hk⟩ := k.hdr
  exact ⟨a', b', c', ha.trans (by rw [hh] at hb; exact hb), by rw [hk, hh]⟩

/-- A bound that a change of parts other than grade, call and voice keeps. -/
theorem Line.Bounded.of_eq {l k : Line} (h : l.Bounded) (hg : k.grade = l.grade) (hc : k.call = l.call) (hv : k.voice = l.voice) :
    k.Bounded := ⟨hg ▸ h.acc, hg ▸ h.lastQ, hc ▸ h.rings, hv ▸ h.digits⟩

/-- States with the same lines have the same bounds. -/
theorem State.Bounded.of_lines {s t : State} (h : s.Bounded) (e : t.lines = s.lines) : t.Bounded := by
  intro n; have := h n; simpa [State.line, e] using this

theorem State.Aside.of_lines {n : LineId} {s t : State} (e : t.lines = s.lines) : State.Aside n s t :=
  fun m _ => ⟨(s.line m).link, (s.line m).changeCount, by simp [State.line, e]⟩

theorem EventWord.Risen.of_lines {n : LineId} {s t : State} (e : t.lines = s.lines) : (s.line n).ev.Risen (t.line n).ev := by
  have : t.line n = s.line n := by simp [State.line, e]
  rw [this]; exact .refl

/-- The tables are as long in states with the same lines and the same engine table. -/
theorem State.length_of_lines {s t : State} (e : t.lines = s.lines) (k : t.engTable.cards.length = s.engTable.cards.length) (T : TableId) :
    (t.table T).cards.length = (s.table T).cards.length := by
  cases T with
  | line n => simp [State.table, State.line, e]
  | engine => simp [State.table, k]

theorem State.Sound.of_store {s t : State} (h : s.Sound) (e : t.store = s.store) (p : t.port.strap = s.port.strap) : t.Sound :=
  ⟨e ▸ h.canonical, e ▸ h.economy, by have := h.fitted; simpa [State.Fitted, e, p] using this⟩

/-- An update that leaves lines, store, port, sweep, monitor, header, outputs and queue of commands as they are. -/
theorem LineEffect.of_rest {n : LineId} {s t : State} (hl : t.lines = s.lines) (hs : t.store = s.store) (hp : t.port = s.port)
    (hw : t.sweep = s.sweep) (hm : t.monitor = s.monitor) (hh : t.hdr = s.hdr) (ho : s.outputs <+: t.outputs)
    (hq : t.pending = s.pending) (he : t.engTable.cards.length = s.engTable.cards.length := by exact rfl) : LineEffect n s t :=
  ⟨⟨fun h => h.of_store hs (by rw [hp]), fun h => h.of_lines hl, by rw [hp], hq, ho⟩, .of_lines hl, .of_lines hl, State.length_of_lines hl he, hp, hw, hm,
    s.hdr.ev, s.hdr.nextMessage, s.hdr.changeCount, .refl, hh⟩

theorem State.length_onLine (s : State) (n : LineId) {f : Line → Line} (h : ∀ l, (f l).table.cards.length = l.table.cards.length)
    (T : TableId) : ((s.onLine n f).table T).cards.length = (s.table T).cards.length := by
  cases T with
  | line m =>
    simp only [State.table, State.line_onLine]
    split
    next e => subst e; exact h _
    next => rfl
  | engine => rfl

variable {n : LineId} {s₀ s : State}

/-- A change of line `n` that keeps its bounds. -/
theorem LineEffect.onLine (h : LineEffect n s₀ s) {f : Line → Line}
    (hf : ∀ l, l.Bounded → (f l).Bounded := by exact fun _ k => k.of_eq rfl rfl rfl)
    (he : ∀ l : Line, l.ev.Risen (f l).ev := by exact fun _ => .refl)
    (ht : ∀ l : Line, (f l).table.cards.length = l.table.cards.length := by exact fun _ => rfl) :
    LineEffect n s₀ (s.onLine n f) := by
  refine h.trans ⟨⟨fun k => k.of_store rfl rfl, fun k m => ?_, rfl, rfl, List.prefix_rfl⟩,
    fun m hm => ⟨_, _, State.line_onLine_ne s hm f⟩, by rw [State.line_onLine_self]; exact he _,
    State.length_onLine s n ht, rfl, rfl,
    rfl, s.hdr.ev, s.hdr.nextMessage, s.hdr.changeCount, .refl, rfl⟩
  rw [State.line_onLine]
  split
  · exact hf _ (k n)
  · exact k m

/-- A change of the link of any line. -/
theorem LineEffect.onLink (h : LineEffect n s₀ s) (m : LineId) (f : Link → Link) : LineEffect n s₀ (s.onLink m f) := by
  refine h.trans ⟨⟨fun k => k.of_store rfl rfl, fun k q => ?_, rfl, rfl, List.prefix_rfl⟩, fun q hq => ?_, ?_,
    State.length_onLine s m fun _ => rfl, rfl, rfl, rfl, s.hdr.ev, s.hdr.nextMessage, s.hdr.changeCount, .refl, rfl⟩
  · rw [State.onLink, State.line_onLine]
    split
    · exact (k m).of_eq rfl rfl rfl
    · exact k q
  · rw [State.onLink, State.line_onLine]
    split
    next e => exact ⟨_, (s.line q).changeCount, by subst e; rfl⟩
    next => exact ⟨_, _, rfl⟩
  · rw [State.onLink, State.line_onLine]
    split
    next e => subst e; exact .refl
    next => exact .refl

theorem LineEffect.onCall (h : LineEffect n s₀ s) {f : CallRecord → CallRecord}
    (hf : ∀ c, c.ringCount ≤ 65535 → (f c).ringCount ≤ 65535 := by exact fun _ k => k) : LineEffect n s₀ (s.onCall n f) :=
  h.onLine fun _ k => ⟨k.acc, k.lastQ, hf _ k.rings, k.digits⟩

theorem LineEffect.onGrade (h : LineEffect n s₀ s) {f : Grade → Grade}
    (hf : ∀ g, g.acc ≤ 2560 → g.lastQ ≤ 160 → (f g).acc ≤ 2560 ∧ (f g).lastQ ≤ 160 := by exact fun _ a b => ⟨a, b⟩) :
    LineEffect n s₀ (s.onGrade n f) :=
  h.onLine fun _ k => ⟨(hf _ k.acc k.lastQ).1, (hf _ k.acc k.lastQ).2, k.rings, k.digits⟩

theorem LineEffect.onVoice (h : LineEffect n s₀ s) {f : Voice → Voice}
    (hf : ∀ v, v.digits.length ≤ 16 → (f v).digits.length ≤ 16 := by exact fun _ k => k) : LineEffect n s₀ (s.onVoice n f) :=
  h.onLine fun _ k => ⟨k.acc, k.lastQ, k.rings, hf _ k.digits⟩

theorem LineEffect.onCtl (h : LineEffect n s₀ s) (f : LineControl → LineControl) : LineEffect n s₀ (s.onCtl n f) :=
  h.onLine fun _ k => k.of_eq rfl rfl rfl

theorem LineEffect.onDialler (h : LineEffect n s₀ s) (f : Dialler → Dialler) : LineEffect n s₀ (s.onDialler n f) :=
  h.onLine fun _ k => k.of_eq rfl rfl rfl

theorem LineEffect.onProg (h : LineEffect n s₀ s) (f : Progress → Progress) : LineEffect n s₀ (s.onProg n f) :=
  h.onLine fun _ k => k.of_eq rfl rfl rfl

theorem LineEffect.onSeq (h : LineEffect n s₀ s) (f : AnswerSeq → AnswerSeq) : LineEffect n s₀ (s.onSeq n f) :=
  h.onLine fun _ k => k.of_eq rfl rfl rfl

theorem LineEffect.onFax (h : LineEffect n s₀ s) (f : Fax → Fax) : LineEffect n s₀ (s.onFax n f) :=
  h.onLine fun _ k => k.of_eq rfl rfl rfl

theorem LineEffect.onFm (h : LineEffect n s₀ s) (f : FaultRecord → FaultRecord) : LineEffect n s₀ (s.onFm n f) :=
  h.onLine fun _ k => k.of_eq rfl rfl rfl

theorem LineEffect.raise (h : LineEffect n s₀ s) (e : LineEvent) : LineEffect n s₀ (s.raise n e) :=
  h.onLine (fun _ k => k.of_eq rfl rfl rfl) fun _ => EventWord.Risen.refl.raise _

theorem LineEffect.onPump (h : LineEffect n s₀ s) (p : PumpId) (f : Pump → Pump) : LineEffect n s₀ (s.onPump p f) :=
  h.trans (.of_rest rfl rfl rfl rfl rfl rfl List.prefix_rfl rfl)

theorem LineEffect.onSlot (h : LineEffect n s₀ s) (g : SlotId) (f : Slot → Slot) : LineEffect n s₀ (s.onSlot g f) :=
  h.trans (.of_rest rfl rfl rfl rfl rfl rfl List.prefix_rfl rfl)

theorem LineEffect.onMessage (h : LineEffect n s₀ s) (m : EntryId) (f : Message → Message) : LineEffect n s₀ (s.onMessage m f) :=
  h.trans (.of_rest rfl rfl rfl rfl rfl rfl List.prefix_rfl rfl)

theorem LineEffect.withWaitQueue (h : LineEffect n s₀ s) (q : WaitQueue) : LineEffect n s₀ { s with queue := q } :=
  h.trans (.of_rest rfl rfl rfl rfl rfl rfl List.prefix_rfl rfl)

theorem LineEffect.draw (h : LineEffect n s₀ s) : LineEffect n s₀ s.draw :=
  h.trans (.of_rest rfl rfl rfl rfl rfl rfl List.prefix_rfl rfl)

theorem LineEffect.emit (h : LineEffect n s₀ s) (o : Output) : LineEffect n s₀ (s.emit o) :=
  h.trans (.of_rest rfl rfl rfl rfl rfl rfl (List.prefix_append _ _) rfl)

theorem LineEffect.raiseEngine (h : LineEffect n s₀ s) (e : EngineEvent) : LineEffect n s₀ (s.raiseEngine e) :=
  h.trans ⟨⟨fun k => k.of_store rfl rfl, fun k => k.of_lines rfl, rfl, rfl, List.prefix_rfl⟩, .of_lines rfl, .of_lines rfl, State.length_of_lines rfl rfl, rfl, rfl, rfl,
    _, s.hdr.nextMessage, s.hdr.changeCount, EventWord.Risen.refl.raise _, rfl⟩

theorem LineEffect.nextMessage (h : LineEffect n s₀ s) (f : Nat → Nat) :
    LineEffect n s₀ (s.onHdr fun h => { h with nextMessage := f h.nextMessage }) :=
  h.trans ⟨⟨fun k => k.of_store rfl rfl, fun k => k.of_lines rfl, rfl, rfl, List.prefix_rfl⟩, .of_lines rfl, .of_lines rfl, State.length_of_lines rfl rfl, rfl, rfl, rfl,
    s.hdr.ev, _, s.hdr.changeCount, .refl, rfl⟩

/-- A change of the store that keeps it in order. -/
theorem LineEffect.onStore (h : LineEffect n s₀ s) {f : Store → Store} (hf : ∀ k st, st.Good k → (f st).Good k) :
    LineEffect n s₀ (s.onStore f) :=
  h.trans ⟨⟨fun k => (Store.good_iff_sound _).mpr (hf _ _ ((Store.good_iff_sound _).mp k)), fun k => k.of_lines rfl, rfl, rfl,
    List.prefix_rfl⟩, .of_lines rfl, .of_lines rfl, State.length_of_lines rfl rfl, rfl, rfl, rfl, s.hdr.ev, s.hdr.nextMessage, s.hdr.changeCount, .refl, rfl⟩

theorem LineEffect.onTable (h : LineEffect n s₀ s) (f : OrderTable → OrderTable)
    (hf : ∀ tb, (f tb).cards.length = tb.cards.length := by exact fun _ => rfl) :
    LineEffect n s₀ (s.onTable (.line n) f) :=
  h.onLine (f := fun l => { l with table := f l.table }) (fun _ k => k.of_eq rfl rfl rfl) (fun _ => .refl) fun l => hf l.table

theorem LineEffect.setCardLine (h : LineEffect n s₀ s) (i : Nat) (c : Card) : LineEffect n s₀ (s.setCard (.line n) i c) :=
  h.onTable _ fun _ => List.length_set

theorem LineEffect.setCardEngine (h : LineEffect n s₀ s) (i : Nat) (c : Card) : LineEffect n s₀ (s.setCard .engine i c) :=
  h.trans (.of_rest rfl rfl rfl rfl rfl rfl List.prefix_rfl rfl List.length_set)

@[simp] theorem OrderTable.length_take (t : OrderTable) (i : Nat) : (t.take i).cards.length = t.cards.length := List.length_set

@[simp] theorem OrderTable.length_takeStep (t : OrderTable) : t.takeStep.cards.length = t.cards.length := by
  unfold OrderTable.takeStep; repeat' split
  · rfl
  · exact t.length_take _
  · rfl

@[simp] theorem OrderTable.length_taking (t : OrderTable) (i : Nat) : (t.taking i).cards.length = t.cards.length := by
  unfold OrderTable.taking; split
  · exact t.length_take i
  · rfl

theorem LineEffect.taking (h : LineEffect n s₀ s) (i : Nat) : LineEffect n s₀ (s.taking (.line n) i) :=
  h.onTable _ fun tb => tb.length_taking i

theorem LineEffect.takingEngine (h : LineEffect n s₀ s) (i : Nat) : LineEffect n s₀ (s.taking .engine i) :=
  h.trans (.of_rest rfl rfl rfl rfl rfl rfl List.prefix_rfl rfl (OrderTable.length_taking _ i))

theorem LineEffect.answerWith (h : LineEffect n s₀ s) (i : Nat) (st : Status) (r c : Nat) (fs : List Byte) :
    LineEffect n s₀ (s.answerWith (.line n) i st r c fs) := (h.setCardLine i _).raise _

theorem LineEffect.answerWithEngine (h : LineEffect n s₀ s) (i : Nat) (st : Status) (r c : Nat) (fs : List Byte) :
    LineEffect n s₀ (s.answerWith .engine i st r c fs) := (h.setCardEngine i _).raiseEngine _

theorem LineEffect.answer (h : LineEffect n s₀ s) (i : Nat) (st : Status) (r : Nat) (fs : List Byte) :
    LineEffect n s₀ (s.answer (.line n) i st r fs) := h.answerWith i st r 0 fs

theorem LineEffect.answerEngine (h : LineEffect n s₀ s) (i : Nat) (st : Status) (r : Nat) (fs : List Byte) :
    LineEffect n s₀ (s.answer .engine i st r fs) := h.answerWithEngine i st r 0 fs

theorem LineEffect.answerBadChain (h : LineEffect n s₀ s) (i : Nat) (e : ChainFault) :
    LineEffect n s₀ (s.answerBadChain (.line n) i e) := h.answer i _ _ _

theorem LineEffect.answerBadChainEngine (h : LineEffect n s₀ s) (i : Nat) (e : ChainFault) :
    LineEffect n s₀ (s.answerBadChain .engine i e) := h.answerEngine i _ _ _

theorem LineEffect.refuseState (h : LineEffect n s₀ s) (i : Nat) : LineEffect n s₀ (s.refuseState n i) := h.answer i _ _ _

/-- Blocks given to an owner that is not FREE. -/
theorem LineEffect.giveBlocks (h : LineEffect n s₀ s) (bs : List Nat) {o : Owner} (ho : o ≠ .free) :
    LineEffect n s₀ (s.giveBlocks bs o) := h.onStore fun _ _ g => Store.good_assignAll g bs ho

/-- A pop for an owner that is not FREE. -/
theorem LineEffect.pop (h : LineEffect n s₀ s) {o : Owner} (ho : o ≠ .free) {b : Nat} {t : State} (hp : s.pop o = some (b, t)) :
    LineEffect n s₀ t := by
  unfold State.pop at hp
  split at hp
  · simp at hp
  next c st ht =>
    have key : LineEffect n s₀ { s with store := st } :=
      h.trans ⟨⟨fun k => (Store.good_iff_sound _).mpr (Store.good_take ((Store.good_iff_sound s).mp k) ho ht),
        fun k => k.of_lines rfl, rfl, rfl, List.prefix_rfl⟩, .of_lines rfl, .of_lines rfl, State.length_of_lines rfl rfl, rfl, rfl, rfl, s.hdr.ev, s.hdr.nextMessage,
        s.hdr.changeCount, .refl, rfl⟩
    simp only [Option.some.injEq, Prod.mk.injEq] at hp
    rw [← hp.2]
    split
    · exact key.raiseEngine _
    · exact key

/-- A fold of operations each of which has such an effect. -/
theorem LineEffect.foldl {α : Type} {f : State → α → State} (hf : ∀ s a, LineEffect n s₀ s → LineEffect n s₀ (f s a))
    (h : LineEffect n s₀ s) (xs : List α) : LineEffect n s₀ (xs.foldl f s) := by
  induction xs generalizing s with
  | nil => exact h
  | cons x xs ih => exact ih (hf s x h)

/-- A choice between two operations. -/
theorem LineEffect.ite {c : Prop} [Decidable c] {a b : State} (ha : c → LineEffect n s₀ a) (hb : ¬c → LineEffect n s₀ b) :
    LineEffect n s₀ (if c then a else b) := by
  split
  next k => exact ha k
  next k => exact hb k

/-! ## The commit of an event -/

@[simp] theorem State.line_commit (s t : State) (n : LineId) : (s.commit t).line n = commitLine (s.line n) (t.line n) := by
  simp [State.commit, State.line]

@[simp] theorem State.message_commit (s t : State) (m : EntryId) :
    (s.commit t).message m = commitMessage (s.message m) (t.message m) := by
  simp [State.commit, State.message]

@[simp] theorem State.pending_commit (s t : State) : (s.commit t).pending = s.pending := rfl
@[simp] theorem State.port_commit (s t : State) : (s.commit t).port = t.port := rfl
@[simp] theorem State.store_commit (s t : State) : (s.commit t).store = t.store := rfl
@[simp] theorem State.sweep_commit (s t : State) : (s.commit t).sweep = t.sweep := rfl
@[simp] theorem State.monitor_commit (s t : State) : (s.commit t).monitor = t.monitor := rfl
@[simp] theorem State.pumps_commit (s t : State) : (s.commit t).pumps = t.pumps := rfl
@[simp] theorem State.queue_commit (s t : State) : (s.commit t).queue = t.queue := rfl
@[simp] theorem State.slots_commit (s t : State) : (s.commit t).slots = t.slots := rfl
@[simp] theorem State.outputs_commit (s t : State) : (s.commit t).outputs = t.outputs := rfl
@[simp] theorem State.draws_commit (s t : State) : (s.commit t).draws = t.draws := rfl
@[simp] theorem State.engTable_commit (s t : State) : (s.commit t).engTable = t.engTable := rfl
@[simp] theorem State.pump_commit (s t : State) (p : PumpId) : (s.commit t).pump p = t.pump p := rfl
@[simp] theorem State.slot_commit (s t : State) (g : SlotId) : (s.commit t).slot g = t.slot g := rfl

/-- A commit changes no part of a line but its Change Count. -/
theorem commitLine_eq (a b : Line) : ∃ c, commitLine a b = { b with changeCount := c } := ⟨_, rfl⟩

@[simp] theorem commitLine_self (l : Line) : commitLine l l = l := by simp [commitLine]

@[simp] theorem commitMessage_self (m : Message) : commitMessage m m = m := by simp [commitMessage]

/-- The commit of an event that leaves the header's fields and the messages as they are. -/
theorem State.commit_lines {s t : State} (hv : s.headerView = t.headerView) (hc : t.hdr.changeCount = s.hdr.changeCount)
    (hm : t.messages = s.messages) (hp : t.pending = s.pending) :
    s.commit t = { t with lines := Vector.ofFn fun n => commitLine (s.line n) (t.line n) } := by
  have e : (Vector.ofFn fun m => commitMessage (s.message m) (t.message m)) = t.messages := by
    ext i hi : 1
    simp [State.message, hm]
  have e2 : { t.hdr with changeCount := if s.headerView = t.headerView then s.hdr.changeCount else s.hdr.changeCount + 2 }
      = t.hdr := by rw [if_pos hv, ← hc]
  unfold State.commit
  rw [e, e2, ← hp]

theorem State.onLine_onLine (s : State) (n : LineId) (f g : Line → Line) :
    (s.onLine n f).onLine n g = s.onLine n fun l => g (f l) := by simp [State.onLine, State.line]

/-- The second state is the first but for line `n`. -/
def OnlyLine (n : LineId) (s t : State) : Prop := ∃ f, t = s.onLine n f

theorem OnlyLine.onLine {n : LineId} {s t : State} (h : OnlyLine n s t) (f : Line → Line) : OnlyLine n s (t.onLine n f) := by
  obtain ⟨g, rfl⟩ := h
  exact ⟨_, State.onLine_onLine s n g f⟩

theorem OnlyLine.of_onLine {n : LineId} {s : State} (f : Line → Line) : OnlyLine n s (s.onLine n f) := ⟨f, rfl⟩

/-- The state that differs in line `n` alone, by that line. -/
theorem OnlyLine.eq {n : LineId} {s t : State} (h : OnlyLine n s t) : t = s.onLine n fun _ => t.line n := by
  obtain ⟨f, rfl⟩ := h
  rw [State.line_onLine_self]; rfl

/-- The commit of an event that changes line `n` alone. -/
theorem State.commit_onLine (s : State) (n : LineId) (f : Line → Line) :
    s.commit (s.onLine n f) = s.onLine n fun l => commitLine l (f l) := by
  rw [State.commit_lines (s := s) (t := s.onLine n f) rfl rfl rfl rfl]
  have : (Vector.ofFn fun m => commitLine (s.line m) ((s.onLine n f).line m)) =
      s.lines.set n.val (commitLine (s.line n) (f (s.line n))) n.isLt := by
    ext i hi : 1
    simp only [Vector.getElem_ofFn, Vector.getElem_set, State.line_onLine, Fin.ext_iff]
    by_cases h : n.val = i
    · subst h; simp
    · have h' : ¬i = n.val := fun e => h e.symm
      simp [h, h', State.line]
  rw [this]
  rfl

/-- The commit of an event that changes nothing of line `n` that its Change Count brackets. -/
theorem State.commit_unseen (s : State) (n : LineId) {f : Line → Line} (hv : ∀ l, (f l).view = l.view)
    (hc : ∀ l, (f l).changeCount = l.changeCount) : s.commit (s.onLine n f) = s.onLine n f := by
  rw [State.commit_onLine]
  congr 1
  funext l
  rw [commitLine, if_pos (hv l).symm, ← hc l]

/-- An event of line `n` alone, by what it leaves of the line. -/
theorem OnlyLine.commit {n : LineId} {s t : State} (h : OnlyLine n s t) {l : Line} (e : t.line n = l) :
    s.commit t = s.onLine n fun k => commitLine k l := by
  rw [h.eq, State.commit_onLine, e]

/-- The commit of an event that changes nothing any Change Count brackets, and no line. -/
theorem State.commit_rest {s t : State} (hv : s.headerView = t.headerView) (hc : t.hdr.changeCount = s.hdr.changeCount)
    (hl : t.lines = s.lines) (hm : t.messages = s.messages) (hp : t.pending = s.pending) : s.commit t = t := by
  rw [State.commit_lines hv hc hm hp]
  have : (Vector.ofFn fun n => commitLine (s.line n) (t.line n)) = t.lines := by
    ext i hi : 1
    simp [State.line, hl]
  rw [this]

/-- A commit changes Change Counts alone. -/
theorem State.uncounted_commit {s t : State} (h : t.pending = s.pending) : (s.commit t).uncounted = t.uncounted := by
  have e : (Vector.ofFn fun n => commitLine (s.line n) (t.line n)).map (fun l => { l with changeCount := 0 }) =
      t.lines.map fun l => { l with changeCount := 0 } := by
    ext i hi : 1
    simp [commitLine, State.line]
  have e2 : (Vector.ofFn fun m => commitMessage (s.message m) (t.message m)).map (fun m => { m with changeCount := 0 }) =
      t.messages.map fun m => { m with changeCount := 0 } := by
    ext i hi : 1
    simp [commitMessage, State.message]
  unfold State.uncounted State.commit
  rw [e, e2, ← h]

@[simp] theorem State.commit_self (s : State) : s.commit s = s := State.commit_rest rfl rfl rfl rfl rfl

/-- A count raised by 2 or kept stays even (R170). -/
theorem evenCount_add_two (c : Word) (h : evenCount c = true) : evenCount (c + 2) = true := by
  have two : BitVec.toNat (2 : Word) = 2 := rfl
  simp only [evenCount, BitVec.getLsbD, BitVec.toNat_add, Nat.testBit_zero, beq_iff_eq, decide_eq_false_iff_not, two] at *
  omega

/-- A commit keeps every Change Count even (R170). -/
theorem State.CountsEven.commit {s : State} (h : s.CountsEven) (t : State) : (s.commit t).CountsEven := by
  refine ⟨?_, fun n => ?_, fun m => ?_⟩
  · simp only [State.commit]
    split
    · exact h.1
    · exact evenCount_add_two _ h.1
  · rw [State.line_commit]
    simp only [commitLine]
    split
    · exact h.2.1 n
    · exact evenCount_add_two _ (h.2.1 n)
  · rw [State.message_commit]
    simp only [commitMessage]
    split
    · exact h.2.2 m
    · exact evenCount_add_two _ (h.2.2 m)

theorem Keeps.commit {s t : State} (h : Keeps s t) : Keeps s (s.commit t) :=
  ⟨fun k => (h.sound k).of_store rfl rfl, fun k n => by rw [State.line_commit]; exact (h.bounded k n).of_eq rfl rfl rfl, h.strap,
    rfl, h.outputs⟩

theorem LineEffect.commit {n : LineId} {s t : State} (h : LineEffect n s t) : LineEffect n s (s.commit t) := by
  refine ⟨h.toKeeps.commit, fun m hm => ?_, by rw [State.line_commit]; exact h.events, fun T => ?_, h.port, h.sweep, h.monitor, ?_⟩
  · obtain ⟨k, c, e⟩ := h.aside m hm
    rw [State.line_commit, commitLine, e]
    exact ⟨_, _, rfl⟩
  · rw [← h.cards T]
    cases T with
    | line m => simp [State.table, commitLine]
    | engine => rfl
  · obtain ⟨a, b, c, r, e⟩ := h.hdr
    refine ⟨a, b, (s.commit t).hdr.changeCount, r, ?_⟩
    simp only [State.commit, e]

end Sys2Proof.Machine
end

