-- ==== Sys2Proof/Laws/LinkEffects.lean ====
section
/-! SUPPORT. The effect of each operation of LinkSend, Delivery, Calls and Pumps (see `LineEffect`). -/

set_option Elab.async false

namespace Sys2Proof.Machine

variable {n : LineId} {s₀ s : State}

/-! ## LinkSend -/

theorem LineEffect.beginFrame (h : LineEffect n s₀ s) (m : LineId) (f : LinkFrame) : LineEffect n s₀ (s.beginFrame m f) :=
  (h.onLink m _).emit _

theorem LineEffect.resendFrame (h : LineEffect n s₀ s) (m : LineId) (f : SentFrame) : LineEffect n s₀ (s.resendFrame m f) :=
  (h.onLink m _).beginFrame m _

theorem LineEffect.newFrame (h : LineEffect n s₀ s) (m : LineId) (c : SendChain) : LineEffect n s₀ (s.newFrame m c) :=
  (h.onLink m _).beginFrame m _

theorem LineEffect.linkKick (h : LineEffect n s₀ s) (m : LineId) : LineEffect n s₀ (s.linkKick m) := by
  unfold State.linkKick; dsimp only; repeat' split
  all_goals apply_rules [LineEffect.beginFrame, LineEffect.resendFrame, LineEffect.newFrame, LineEffect.onLink]

theorem LineEffect.sendReply (h : LineEffect n s₀ s) (m : LineId) (f : LinkFrame) : LineEffect n s₀ (s.sendReply m f) := by
  unfold State.sendReply; split
  · exact h.onLink m _
  · exact (h.onLink m _).linkKick m

theorem LineEffect.rateInFlight (h : LineEffect n s₀ s) (m : LineId) : LineEffect n s₀ (s.rateInFlight m) := h.onLink m _

theorem LineEffect.rateSettled (h : LineEffect n s₀ s) (m : LineId) : LineEffect n s₀ (s.rateSettled m) :=
  (h.onLink m _).linkKick m

theorem LineEffect.criticalExit (h : LineEffect n s₀ s) (m : LineId) : LineEffect n s₀ (s.criticalExit m) := by
  unfold State.criticalExit; dsimp only; repeat' split
  all_goals apply_rules [LineEffect.sendReply, LineEffect.onLink]

theorem LineEffect.criticalExits (h : LineEffect n s₀ s) : LineEffect n s₀ s.criticalExits :=
  LineEffect.foldl (fun _ m k => k.criticalExit m) h allLines

theorem LineEffect.freeBlock (h : LineEffect n s₀ s) (b : Nat) : LineEffect n s₀ (s.freeBlock b) :=
  LineEffect.criticalExits (h.onStore fun _ _ g => Store.good_release g b)

theorem LineEffect.freeBlocks (h : LineEffect n s₀ s) (bs : List Nat) : LineEffect n s₀ (s.freeBlocks bs) :=
  LineEffect.foldl (fun _ b k => k.freeBlock b) h bs

/-! ## Delivery -/

theorem LineEffect.onOpenEntry (h : LineEffect n s₀ s) (k : EntryKind) (f : Entry → Entry) :
    LineEffect n s₀ (s.onOpenEntry n k f) := h.onLine

theorem LineEffect.setDelivered (h : LineEffect n s₀ s) (f : Line → List Entry) :
    LineEffect n s₀ (s.onLine n fun l => { l with delivered := f l }) := h.onLine

theorem LineEffect.setRecvBlock (h : LineEffect n s₀ s) (f : Line → Option Nat) :
    LineEffect n s₀ (s.onLine n fun l => { l with recvBlock := f l }) := h.onLine

theorem LineEffect.removeEntries (h : LineEffect n s₀ s) : LineEffect n s₀ (s.removeEntries n) := by
  unfold State.removeEntries; dsimp only; split
  · exact h
  · exact (h.setDelivered _).criticalExit n

theorem LineEffect.popRecv (h : LineEffect n s₀ s) {ek : EntryKind} {bk : BlockKind} {t : State}
    (hp : s.popRecv n ek bk = some t) : LineEffect n s₀ t := by
  unfold State.popRecv at hp
  split at hp
  · simp at hp
  next b s' hpop =>
    have hs := h.pop (by simp) hpop
    split at hp
    all_goals
      rw [← Option.some.inj hp]
      refine LineEffect.setRecvBlock (hs.onStore fun k st g => ?_) fun _ => some b
    · exact Store.good_newHeader g ..
    · dsimp only
      split
      · exact Store.good_setNext (Store.good_newHeader g ..) ..
      · exact Store.good_newHeader g ..

theorem LineEffect.closeData (h : LineEffect n s₀ s) : LineEffect n s₀ (s.closeData n) := by
  unfold State.closeData; split
  · exact h
  · exact LineEffect.removeEntries ((h.onOpenEntry _ _).raise _)

theorem LineEffect.deliverData (h : LineEffect n s₀ s) : LineEffect n s₀ (s.deliverData n) := by
  unfold State.deliverData
  split
  · exact h
  next b _ =>
    have k := ((h.onStore fun _ _ g => Store.good_assign g b (o := .deliv n) (by simp)).onLine
      (f := fun l => { l with
        recvBlock := none
        delivered := if (l.openEntry .data).isSome then l.delivered else l.delivered ++ [Entry.new .data b 0] })).onOpenEntry .data fun e => e.join b (e.blockCount + 1) (s.store.fill b)
    dsimp only
    split
    · split
      · exact k.closeData
      · exact k
    · exact k

theorem LineEffect.storeSome (h : LineEffect n s₀ s) (data : List Byte) : LineEffect n s₀ (s.storeSome n data).1 := by
  unfold State.storeSome
  split
  · exact h
  next t ht =>
    have k : LineEffect n s₀ t := by
      split at ht
      · exact Option.some.inj ht ▸ h
      · exact h.popRecv ht
    split
    · exact k
    next b _ =>
      dsimp only
      have k' := k.onStore (f := fun st => st.append b (data.take (1016 - t.store.fill b)))
        fun _ _ g => Store.good_append g b _
      split
      · exact k'.deliverData
      · exact k'

theorem LineEffect.storeData (h : LineEffect n s₀ s) (data : List Byte) : LineEffect n s₀ (s.storeData n data) := by
  unfold State.storeData; dsimp only
  split
  · exact h.storeSome data
  · exact (h.storeSome data).storeSome _

theorem LineEffect.deliverPage (h : LineEffect n s₀ s) : LineEffect n s₀ (s.deliverPage n) := by
  unfold State.deliverPage
  split
  · exact h
  next b _ =>
    have k := h.setRecvBlock fun _ => none
    dsimp only
    split
    · exact LineEffect.freeBlock (LineEffect.draw (k.onFax _)) b
    · exact LineEffect.draw (LineEffect.onOpenEntry (LineEffect.onLine
        (k.onStore fun _ _ g => Store.good_assign g b (o := .deliv n) (by simp))) _ _)

theorem LineEffect.closePage (h : LineEffect n s₀ s) (v : Verdict) (r b : Nat) : LineEffect n s₀ (s.closePage n v r b) :=
  (h.onOpenEntry .page _).removeEntries

/-! ## Calls -/

theorem LineEffect.enter (h : LineEffect n s₀ s) (st : LineState) (t : Timer) : LineEffect n s₀ (s.enter n st t) :=
  (h.onCall).onCtl _

theorem LineEffect.copyProfile (h : LineEffect n s₀ s) : LineEffect n s₀ (s.copyProfile n) :=
  h.onLine

theorem LineEffect.callStart (h : LineEffect n s₀ s) (d : Direction) (r : Bool) : LineEffect n s₀ (s.callStart n d r) :=
  h.onLine fun _ _ => ⟨Nat.zero_le _, Nat.zero_le _, Nat.zero_le _, Nat.zero_le _⟩

theorem LineEffect.answerDial (h : LineEffect n s₀ s) (st : Status) (r : Nat) : LineEffect n s₀ (s.answerDial n st r) := by
  unfold State.answerDial; split
  · exact h
  · exact (h.answer _ _ _ _).onCtl _

theorem LineEffect.answerAnswer (h : LineEffect n s₀ s) (st : Status) (r : Nat) : LineEffect n s₀ (s.answerAnswer n st r) := by
  unfold State.answerAnswer; split
  · exact h
  · exact (h.answer _ _ _ _).onCtl _

theorem LineEffect.connect (h : LineEffect n s₀ s) (v : Service) : LineEffect n s₀ (s.connect n v) :=
  ((((h.enter _ _).onCall).raise _).answerDial _ _).answerAnswer _ _

theorem LineEffect.closeHook (h : LineEffect n s₀ s) : LineEffect n s₀ (s.closeHook n) := ((h.onCall).onCtl _).onVoice

theorem LineEffect.fileCaller (h : LineEffect n s₀ s) (r : CallerRecord) : LineEffect n s₀ (s.fileCaller n r) :=
  (h.onCall).raise _

theorem LineEffect.setDecoder (h : LineEffect n s₀ s) (f : Line → Decoder) :
    LineEffect n s₀ (s.onLine n fun l => { l with dec := f l }) := h.onLine

theorem LineEffect.closeWindow (h : LineEffect n s₀ s) : LineEffect n s₀ (s.closeWindow n) := by
  unfold State.closeWindow; dsimp only; split
  · exact (h.setDecoder _).fileCaller _
  · exact h.setDecoder _

/-! ## Pumps -/

theorem LineEffect.setClaim (h : LineEffect n s₀ s) (f : Line → Option Claim) :
    LineEffect n s₀ (s.onLine n fun l => { l with claim := f l }) := h.onLine

theorem LineEffect.grantNext (h : LineEffect n s₀ s) : LineEffect n s₀ s.grantNext := by
  unfold State.grantNext; split
  · exact (h.withWaitQueue _).onPump _ _
  · exact h

theorem LineEffect.arbitrate (h : LineEffect n s₀ s) : LineEffect n s₀ s.arbitrate :=
  LineEffect.foldl (fun _ _ k => k.grantNext) h allPumps

theorem LineEffect.placeClaim (h : LineEffect n s₀ s) (c : ClaimClass) : LineEffect n s₀ (s.placeClaim n c) := by
  unfold State.placeClaim; split
  · exact (h.onPump _ _).setClaim _
  · exact (h.withWaitQueue _).setClaim _

theorem LineEffect.dropClaim (h : LineEffect n s₀ s) : LineEffect n s₀ (s.dropClaim n) := by
  unfold State.dropClaim
  refine LineEffect.foldl (fun t p k => ?_) ((h.withWaitQueue _).setClaim fun _ => none) allPumps
  split
  · exact k.onPump _ _
  · exact k

theorem LineEffect.releasePump (h : LineEffect n s₀ s) : LineEffect n s₀ (s.releasePump n) := by
  unfold State.releasePump
  refine LineEffect.arbitrate (LineEffect.onCall (LineEffect.foldl (fun t p k => ?_) h.dropClaim allPumps))
  split
  · exact k.onPump _ _
  · exact k

end Sys2Proof.Machine
end

