-- ==== Sys2Proof/Laws/CallEffects.lean ====
section
/-! SUPPORT. The effect of each operation of CallEnd and Sequence (see `LineEffect`). -/

set_option Elab.async false

namespace Sys2Proof.Machine

variable {n : LineId} {s₀ s : State}

/-! ## Voice -/

theorem LineEffect.emptySlot (h : LineEffect n s₀ s) (g : SlotId) : LineEffect n s₀ (s.emptySlot g) :=
  (h.onSlot g _).freeBlocks _

theorem LineEffect.slotPlayEnds (h : LineEffect n s₀ s) (g : SlotId) : LineEffect n s₀ (s.slotPlayEnds g) := by
  unfold State.slotPlayEnds; dsimp only; split
  · split
    · exact (h.emptySlot g).answerEngine _ _ _ _
    · exact h.emptySlot g
  · exact h.onSlot g _

theorem LineEffect.finishPlay (h : LineEffect n s₀ s) (e : PlayEnd) (st : Status) (r : Nat) :
    LineEffect n s₀ (s.finishPlay n e st r) := by
  have k : LineEffect n s₀ (s.onVoice n fun v => { v with play := .none, playCard := none, playChain := [], playTotal := 0 }) :=
    h.onVoice
  have k2 : LineEffect n s₀ (match (s.line n).voice.play with
      | .none => s.onVoice n fun v => { v with play := .none, playCard := none, playChain := [], playTotal := 0 }
      | .slot g => (s.onVoice n fun v => { v with play := .none, playCard := none, playChain := [], playTotal := 0 }).slotPlayEnds g
      | .chain _ => (s.onVoice n fun v => { v with play := .none, playCard := none, playChain := [], playTotal := 0 }).giveBlocks
          ((s.line n).voice.playChain.map Prod.fst) .host) := by
    split
    · exact k
    · exact k.slotPlayEnds _
    · exact k.giveBlocks _ (by simp)
  unfold State.finishPlay; dsimp only
  split
  · exact k2
  · exact k2.answer _ _ _ _

theorem LineEffect.finishRecording (h : LineEffect n s₀ s) (r : EndReason) : LineEffect n s₀ (s.finishRecording n r) := by
  unfold State.finishRecording; dsimp only
  split
  · exact h
  · split
    · exact ((h.onMessage _ _).onVoice).raise _
    · exact (((h.onMessage _ _).onVoice).raise _).answer _ _ _ _

theorem LineEffect.voiceTeardown (h : LineEffect n s₀ s) (o : CallOutcome) : LineEffect n s₀ (s.voiceTeardown n o) := by
  unfold State.voiceTeardown; dsimp only
  generalize (if o = .remoteCleared then EndReason.remote else .cleared) = r
  split
  · exact h.finishRecording r
  · exact (h.finishRecording r).finishPlay _ _ _

/-! ## Link and fax -/

theorem LineEffect.returnChain (h : LineEffect n s₀ s) (o : CallOutcome) (c : SendChain) : LineEffect n s₀ (s.returnChain n o c) :=
  (h.giveBlocks _ (by simp)).answer _ _ _ _

theorem LineEffect.linkTeardown (h : LineEffect n s₀ s) (o : CallOutcome) : LineEffect n s₀ (s.linkTeardown n o) := by
  unfold State.linkTeardown; split
  · exact LineEffect.closeData (LineEffect.deliverData (LineEffect.foldl (fun _ c k => k.returnChain o c) (h.onLink n _) _))
  · exact h

theorem LineEffect.answerPages (h : LineEffect n s₀ s) (st : Status) (r : Nat) (x : FaxOrder) :
    LineEffect n s₀ (s.answerPages n st r x) := LineEffect.draw (h.answer _ _ _ _)

theorem LineEffect.returnPages (h : LineEffect n s₀ s) (o : CallOutcome) : LineEffect n s₀ (s.returnPages n o) :=
  LineEffect.foldl (fun _ x k => k.answerPages _ _ x)
    ((LineEffect.foldl (fun _ _ k => k.giveBlocks _ (by simp)) h _).onFax _) _

theorem LineEffect.faxSenderTeardown (h : LineEffect n s₀ s) (o : CallOutcome) : LineEffect n s₀ (s.faxSenderTeardown n o) := by
  unfold State.faxSenderTeardown; split
  · exact h.onFax _
  · exact (h.returnPages o).onFax _

theorem LineEffect.faxReceiverTeardown (h : LineEffect n s₀ s) : LineEffect n s₀ (s.faxReceiverTeardown n) := by
  unfold State.faxReceiverTeardown; split
  · exact h.onFax _
  · exact (((h.deliverPage.closePage _ _ _).onFax _).raise _).onFax _

theorem LineEffect.faxTeardown (h : LineEffect n s₀ s) (o : CallOutcome) : LineEffect n s₀ (s.faxTeardown n o) := by
  unfold State.faxTeardown; dsimp only; repeat' split
  · exact h.faxSenderTeardown o
  · exact h.faxReceiverTeardown
  · exact h

/-! ## The call-end sequence and the clear decision -/

theorem LineEffect.answerCallCards (h : LineEffect n s₀ s) (o : CallOutcome) : LineEffect n s₀ (s.answerCallCards n o) := by
  unfold State.answerCallCards; dsimp only; split
  · exact h.answerAnswer _ _
  · exact (h.answerDial _ _).answerAnswer _ _

theorem LineEffect.stopUnits (h : LineEffect n s₀ s) : LineEffect n s₀ (s.stopUnits n) :=
  h.onLine (by exact fun _ k => ⟨k.acc, k.lastQ, k.rings, k.digits⟩)

theorem LineEffect.callEnd (h : LineEffect n s₀ s) (o : CallOutcome) : LineEffect n s₀ (s.callEnd n o) := by
  have a : LineEffect n s₀ ((s.releasePump n).onGrade n Grade.ended) := h.releasePump.onGrade
  exact (((((a.linkTeardown o).faxTeardown o).voiceTeardown o).stopUnits).answerCallCards o).onCall.raise _

theorem LineEffect.sendLinkClose (h : LineEffect n s₀ s) (o : CallOutcome) : LineEffect n s₀ (s.sendLinkClose n o) := by
  unfold State.sendLinkClose; split
  · exact h.emit _
  · exact h

theorem LineEffect.clearDecision (h : LineEffect n s₀ s) (o : CallOutcome) : LineEffect n s₀ (s.clearDecision n o) :=
  ((((h.closeWindow.sendLinkClose o).onCall).enter _ _).onCtl _).callEnd o

/-! ## Faults -/

theorem LineEffect.takeFault (h : LineEffect n s₀ s) (k : FaultKind) (d : FailDetail) (g a : Bool) :
    LineEffect n s₀ (s.takeFault n k d g a) := by
  have key : ∀ p : Policy, LineEffect n s₀ (if p = .silent then s.onFm n fun f => { f with last := some ⟨k, d, p, s.hdr.tick⟩ }
      else (s.onFm n fun f => { f with last := some ⟨k, d, p, s.hdr.tick⟩ }).raise n .fault) := by
    intro p; split
    · exact h.onFm _
    · exact (h.onFm _).raise _
  unfold State.takeFault; dsimp only; split
  · split
    · exact ((key _).onFm _).clearDecision _
    · exact ((key _).onFm _).clearDecision _
    · split
      · exact key _
      · exact (key _).clearDecision _
  · exact h

theorem LineEffect.fault (h : LineEffect n s₀ s) (k : FaultKind) : LineEffect n s₀ (s.fault n k) := h.takeFault k _ _ _

theorem LineEffect.faxFailed (h : LineEffect n s₀ s) (d : FailDetail) : LineEffect n s₀ (s.faxFailed n d) :=
  (h.onFax _).takeFault _ d _ _

theorem LineEffect.abandonRetry (h : LineEffect n s₀ s) (o : CallOutcome) : LineEffect n s₀ (s.abandonRetry n o) := by
  unfold State.abandonRetry; dsimp only; split
  · split
    · exact ((h.onFm _).answerDial _ _).returnPages o
    · exact (h.onFm _).answerDial _ _
  · exact h

theorem LineEffect.enterOff (h : LineEffect n s₀ s) : LineEffect n s₀ (s.enterOff n) := (h.enter _ _).returnPages _

theorem LineEffect.endClearing (h : LineEffect n s₀ s) : LineEffect n s₀ (s.endClearing n) := by
  have k : LineEffect n s₀ ((s.onCtl n fun c => { c with declined := false, declinedGap := .stopped }).onCall n fun c =>
    { c with disablePending := false }) := (h.onCtl _).onCall
  unfold State.endClearing; dsimp only; repeat' split
  · exact k.enter _ _
  · exact k.enter _ _
  · exact k.enterOff
  · exact k.enter _ _

/-! ## Recordings, plays and the answer sequence -/

theorem LineEffect.beginRecording (h : LineEffect n s₀ s) (m : EntryId) (k : RecordingKind) (b : Bool) :
    LineEffect n s₀ (s.beginRecording n m k b) := by
  unfold State.beginRecording; dsimp only
  exact ((h.onMessage m _).nextMessage nextNumber).onVoice

theorem LineEffect.autoRecord (h : LineEffect n s₀ s) : LineEffect n s₀ (s.autoRecord n) := by
  unfold State.autoRecord; split
  · exact (h.beginRecording _ _ _).onSeq _
  · exact ((h.onVoice).raise _).clearDecision _

theorem LineEffect.goOn (h : LineEffect n s₀ s) : LineEffect n s₀ (s.goOn n) := by
  unfold State.goOn; split
  · exact h.autoRecord
  · exact h.onSeq _

theorem LineEffect.beginListen (h : LineEffect n s₀ s) : LineEffect n s₀ (s.beginListen n) := by
  unfold State.beginListen; split
  · exact (h.onSeq _).goOn
  · exact h.onSeq _

theorem LineEffect.afterGreeting (h : LineEffect n s₀ s) (b : Bool) : LineEffect n s₀ (s.afterGreeting n b) := by
  have k : LineEffect n s₀ (s.onSeq n fun q => { q with greetingStopped := q.greetingStopped || b }) := h.onSeq _
  unfold State.afterGreeting; dsimp only; repeat' split
  · exact k.beginListen
  · exact k.goOn
  · exact k

theorem LineEffect.beginPlay (h : LineEffect n s₀ s) (p : Play) (c : Chain) (t : Nat) (d : Option Nat) :
    LineEffect n s₀ (s.beginPlay n p c t d) := by
  unfold State.beginPlay; dsimp only; split
  · exact h.onVoice.onSlot _ _
  · exact h.onVoice

theorem LineEffect.endPlay (h : LineEffect n s₀ s) (e : PlayEnd) : LineEffect n s₀ (s.endPlay n e) := by
  unfold State.endPlay; dsimp only; split
  · exact (h.finishPlay _ _ _).afterGreeting _
  · exact h.finishPlay _ _ _

theorem LineEffect.endRecording (h : LineEffect n s₀ s) (r : EndReason) : LineEffect n s₀ (s.endRecording n r) := by
  unfold State.endRecording; dsimp only; repeat' split
  · exact h.finishRecording _
  · exact (h.finishRecording _).onSeq _
  · exact (h.finishRecording _).clearDecision _

theorem LineEffect.beginSequence (h : LineEffect n s₀ s) : LineEffect n s₀ (s.beginSequence n) := by
  have k : LineEffect n s₀ ((s.onSeq n fun q => { q with listening := q.adaptive, greetingStopped := false }).onCtl n fun c =>
    { c with faxToneBurst := false }) := (h.onSeq _).onCtl _
  unfold State.beginSequence; dsimp only; repeat' split
  · exact (k.beginPlay _ _ _ _).onSeq _
  · exact k.beginListen
  · exact k.goOn
  · exact k.beginListen
  · exact k.goOn

theorem LineEffect.resumeSequence (h : LineEffect n s₀ s) : LineEffect n s₀ (s.resumeSequence n) := by
  unfold State.resumeSequence; split
  · exact h.onSeq _
  · exact h.goOn

theorem LineEffect.expireClaim (h : LineEffect n s₀ s) : LineEffect n s₀ (s.expireClaim n) := by
  have k := h.dropClaim.takeFault .noPump .none true false
  unfold State.expireClaim; dsimp only; repeat' split
  · exact k.resumeSequence
  · exact k
  · exact h.dropClaim.fault _

theorem LineEffect.makeClaim (h : LineEffect n s₀ s) (c : ClaimClass) : LineEffect n s₀ (s.makeClaim n c) := by
  unfold State.makeClaim; dsimp only; split
  · exact (h.placeClaim c).expireClaim
  · exact h.placeClaim c

end Sys2Proof.Machine
end

