-- ==== Sys2Proof/Laws/Cards.lean ====
section
/-! SUPPORT. What writes to order tables, answers and raised events leave of a line and of the engine; the card an answer leaves. -/

set_option Elab.async false

namespace Sys2Proof.Machine

/-! ### onTable -/

@[simp] theorem State.changeCount_line_onTable (s : State) (t : TableId) (f : OrderTable → OrderTable) (m : LineId) :
    ((s.onTable t f).line m).changeCount = (s.line m).changeCount := by
  cases t with
  | line n => simp only [State.onTable, State.line_onLine]; split <;> simp_all
  | engine => rfl

@[simp] theorem State.ev_line_onTable (s : State) (t : TableId) (f : OrderTable → OrderTable) (m : LineId) :
    ((s.onTable t f).line m).ev = (s.line m).ev := by
  cases t with
  | line n => simp only [State.onTable, State.line_onLine]; split <;> simp_all
  | engine => rfl

@[simp] theorem State.call_line_onTable (s : State) (t : TableId) (f : OrderTable → OrderTable) (m : LineId) :
    ((s.onTable t f).line m).call = (s.line m).call := by
  cases t with
  | line n => simp only [State.onTable, State.line_onLine]; split <;> simp_all
  | engine => rfl

@[simp] theorem State.ctl_line_onTable (s : State) (t : TableId) (f : OrderTable → OrderTable) (m : LineId) :
    ((s.onTable t f).line m).ctl = (s.line m).ctl := by
  cases t with
  | line n => simp only [State.onTable, State.line_onLine]; split <;> simp_all
  | engine => rfl

@[simp] theorem State.profile_line_onTable (s : State) (t : TableId) (f : OrderTable → OrderTable) (m : LineId) :
    ((s.onTable t f).line m).profile = (s.line m).profile := by
  cases t with
  | line n => simp only [State.onTable, State.line_onLine]; split <;> simp_all
  | engine => rfl

@[simp] theorem State.claim_line_onTable (s : State) (t : TableId) (f : OrderTable → OrderTable) (m : LineId) :
    ((s.onTable t f).line m).claim = (s.line m).claim := by
  cases t with
  | line n => simp only [State.onTable, State.line_onLine]; split <;> simp_all
  | engine => rfl

@[simp] theorem State.dialler_line_onTable (s : State) (t : TableId) (f : OrderTable → OrderTable) (m : LineId) :
    ((s.onTable t f).line m).dialler = (s.line m).dialler := by
  cases t with
  | line n => simp only [State.onTable, State.line_onLine]; split <;> simp_all
  | engine => rfl

@[simp] theorem State.prog_line_onTable (s : State) (t : TableId) (f : OrderTable → OrderTable) (m : LineId) :
    ((s.onTable t f).line m).prog = (s.line m).prog := by
  cases t with
  | line n => simp only [State.onTable, State.line_onLine]; split <;> simp_all
  | engine => rfl

@[simp] theorem State.dec_line_onTable (s : State) (t : TableId) (f : OrderTable → OrderTable) (m : LineId) :
    ((s.onTable t f).line m).dec = (s.line m).dec := by
  cases t with
  | line n => simp only [State.onTable, State.line_onLine]; split <;> simp_all
  | engine => rfl

@[simp] theorem State.seq_line_onTable (s : State) (t : TableId) (f : OrderTable → OrderTable) (m : LineId) :
    ((s.onTable t f).line m).seq = (s.line m).seq := by
  cases t with
  | line n => simp only [State.onTable, State.line_onLine]; split <;> simp_all
  | engine => rfl

@[simp] theorem State.grade_line_onTable (s : State) (t : TableId) (f : OrderTable → OrderTable) (m : LineId) :
    ((s.onTable t f).line m).grade = (s.line m).grade := by
  cases t with
  | line n => simp only [State.onTable, State.line_onLine]; split <;> simp_all
  | engine => rfl

@[simp] theorem State.link_line_onTable (s : State) (t : TableId) (f : OrderTable → OrderTable) (m : LineId) :
    ((s.onTable t f).line m).link = (s.line m).link := by
  cases t with
  | line n => simp only [State.onTable, State.line_onLine]; split <;> simp_all
  | engine => rfl

@[simp] theorem State.recvBlock_line_onTable (s : State) (t : TableId) (f : OrderTable → OrderTable) (m : LineId) :
    ((s.onTable t f).line m).recvBlock = (s.line m).recvBlock := by
  cases t with
  | line n => simp only [State.onTable, State.line_onLine]; split <;> simp_all
  | engine => rfl

@[simp] theorem State.delivered_line_onTable (s : State) (t : TableId) (f : OrderTable → OrderTable) (m : LineId) :
    ((s.onTable t f).line m).delivered = (s.line m).delivered := by
  cases t with
  | line n => simp only [State.onTable, State.line_onLine]; split <;> simp_all
  | engine => rfl

@[simp] theorem State.fax_line_onTable (s : State) (t : TableId) (f : OrderTable → OrderTable) (m : LineId) :
    ((s.onTable t f).line m).fax = (s.line m).fax := by
  cases t with
  | line n => simp only [State.onTable, State.line_onLine]; split <;> simp_all
  | engine => rfl

@[simp] theorem State.voice_line_onTable (s : State) (t : TableId) (f : OrderTable → OrderTable) (m : LineId) :
    ((s.onTable t f).line m).voice = (s.line m).voice := by
  cases t with
  | line n => simp only [State.onTable, State.line_onLine]; split <;> simp_all
  | engine => rfl

@[simp] theorem State.fm_line_onTable (s : State) (t : TableId) (f : OrderTable → OrderTable) (m : LineId) :
    ((s.onTable t f).line m).fm = (s.line m).fm := by
  cases t with
  | line n => simp only [State.onTable, State.line_onLine]; split <;> simp_all
  | engine => rfl

/-! ### setCard -/

@[simp] theorem State.changeCount_line_setCard (s : State) (t : TableId) (i : Nat) (c : Card) (m : LineId) :
    ((s.setCard t i c).line m).changeCount = (s.line m).changeCount := State.changeCount_line_onTable ..

@[simp] theorem State.ev_line_setCard (s : State) (t : TableId) (i : Nat) (c : Card) (m : LineId) :
    ((s.setCard t i c).line m).ev = (s.line m).ev := State.ev_line_onTable ..

@[simp] theorem State.call_line_setCard (s : State) (t : TableId) (i : Nat) (c : Card) (m : LineId) :
    ((s.setCard t i c).line m).call = (s.line m).call := State.call_line_onTable ..

@[simp] theorem State.ctl_line_setCard (s : State) (t : TableId) (i : Nat) (c : Card) (m : LineId) :
    ((s.setCard t i c).line m).ctl = (s.line m).ctl := State.ctl_line_onTable ..

@[simp] theorem State.profile_line_setCard (s : State) (t : TableId) (i : Nat) (c : Card) (m : LineId) :
    ((s.setCard t i c).line m).profile = (s.line m).profile := State.profile_line_onTable ..

@[simp] theorem State.claim_line_setCard (s : State) (t : TableId) (i : Nat) (c : Card) (m : LineId) :
    ((s.setCard t i c).line m).claim = (s.line m).claim := State.claim_line_onTable ..

@[simp] theorem State.dialler_line_setCard (s : State) (t : TableId) (i : Nat) (c : Card) (m : LineId) :
    ((s.setCard t i c).line m).dialler = (s.line m).dialler := State.dialler_line_onTable ..

@[simp] theorem State.prog_line_setCard (s : State) (t : TableId) (i : Nat) (c : Card) (m : LineId) :
    ((s.setCard t i c).line m).prog = (s.line m).prog := State.prog_line_onTable ..

@[simp] theorem State.dec_line_setCard (s : State) (t : TableId) (i : Nat) (c : Card) (m : LineId) :
    ((s.setCard t i c).line m).dec = (s.line m).dec := State.dec_line_onTable ..

@[simp] theorem State.seq_line_setCard (s : State) (t : TableId) (i : Nat) (c : Card) (m : LineId) :
    ((s.setCard t i c).line m).seq = (s.line m).seq := State.seq_line_onTable ..

@[simp] theorem State.grade_line_setCard (s : State) (t : TableId) (i : Nat) (c : Card) (m : LineId) :
    ((s.setCard t i c).line m).grade = (s.line m).grade := State.grade_line_onTable ..

@[simp] theorem State.link_line_setCard (s : State) (t : TableId) (i : Nat) (c : Card) (m : LineId) :
    ((s.setCard t i c).line m).link = (s.line m).link := State.link_line_onTable ..

@[simp] theorem State.recvBlock_line_setCard (s : State) (t : TableId) (i : Nat) (c : Card) (m : LineId) :
    ((s.setCard t i c).line m).recvBlock = (s.line m).recvBlock := State.recvBlock_line_onTable ..

@[simp] theorem State.delivered_line_setCard (s : State) (t : TableId) (i : Nat) (c : Card) (m : LineId) :
    ((s.setCard t i c).line m).delivered = (s.line m).delivered := State.delivered_line_onTable ..

@[simp] theorem State.fax_line_setCard (s : State) (t : TableId) (i : Nat) (c : Card) (m : LineId) :
    ((s.setCard t i c).line m).fax = (s.line m).fax := State.fax_line_onTable ..

@[simp] theorem State.voice_line_setCard (s : State) (t : TableId) (i : Nat) (c : Card) (m : LineId) :
    ((s.setCard t i c).line m).voice = (s.line m).voice := State.voice_line_onTable ..

@[simp] theorem State.fm_line_setCard (s : State) (t : TableId) (i : Nat) (c : Card) (m : LineId) :
    ((s.setCard t i c).line m).fm = (s.line m).fm := State.fm_line_onTable ..

/-! ### taking -/

@[simp] theorem State.changeCount_line_taking (s : State) (t : TableId) (i : Nat) (m : LineId) :
    ((s.taking t i).line m).changeCount = (s.line m).changeCount := by
  simp only [State.taking, State.changeCount_line_onTable]

@[simp] theorem State.ev_line_taking (s : State) (t : TableId) (i : Nat) (m : LineId) :
    ((s.taking t i).line m).ev = (s.line m).ev := by
  simp only [State.taking, State.ev_line_onTable]

@[simp] theorem State.call_line_taking (s : State) (t : TableId) (i : Nat) (m : LineId) :
    ((s.taking t i).line m).call = (s.line m).call := by
  simp only [State.taking, State.call_line_onTable]

@[simp] theorem State.ctl_line_taking (s : State) (t : TableId) (i : Nat) (m : LineId) :
    ((s.taking t i).line m).ctl = (s.line m).ctl := by
  simp only [State.taking, State.ctl_line_onTable]

@[simp] theorem State.profile_line_taking (s : State) (t : TableId) (i : Nat) (m : LineId) :
    ((s.taking t i).line m).profile = (s.line m).profile := by
  simp only [State.taking, State.profile_line_onTable]

@[simp] theorem State.claim_line_taking (s : State) (t : TableId) (i : Nat) (m : LineId) :
    ((s.taking t i).line m).claim = (s.line m).claim := by
  simp only [State.taking, State.claim_line_onTable]

@[simp] theorem State.dialler_line_taking (s : State) (t : TableId) (i : Nat) (m : LineId) :
    ((s.taking t i).line m).dialler = (s.line m).dialler := by
  simp only [State.taking, State.dialler_line_onTable]

@[simp] theorem State.prog_line_taking (s : State) (t : TableId) (i : Nat) (m : LineId) :
    ((s.taking t i).line m).prog = (s.line m).prog := by
  simp only [State.taking, State.prog_line_onTable]

@[simp] theorem State.dec_line_taking (s : State) (t : TableId) (i : Nat) (m : LineId) :
    ((s.taking t i).line m).dec = (s.line m).dec := by
  simp only [State.taking, State.dec_line_onTable]

@[simp] theorem State.seq_line_taking (s : State) (t : TableId) (i : Nat) (m : LineId) :
    ((s.taking t i).line m).seq = (s.line m).seq := by
  simp only [State.taking, State.seq_line_onTable]

@[simp] theorem State.grade_line_taking (s : State) (t : TableId) (i : Nat) (m : LineId) :
    ((s.taking t i).line m).grade = (s.line m).grade := by
  simp only [State.taking, State.grade_line_onTable]

@[simp] theorem State.link_line_taking (s : State) (t : TableId) (i : Nat) (m : LineId) :
    ((s.taking t i).line m).link = (s.line m).link := by
  simp only [State.taking, State.link_line_onTable]

@[simp] theorem State.recvBlock_line_taking (s : State) (t : TableId) (i : Nat) (m : LineId) :
    ((s.taking t i).line m).recvBlock = (s.line m).recvBlock := by
  simp only [State.taking, State.recvBlock_line_onTable]

@[simp] theorem State.delivered_line_taking (s : State) (t : TableId) (i : Nat) (m : LineId) :
    ((s.taking t i).line m).delivered = (s.line m).delivered := by
  simp only [State.taking, State.delivered_line_onTable]

@[simp] theorem State.fax_line_taking (s : State) (t : TableId) (i : Nat) (m : LineId) :
    ((s.taking t i).line m).fax = (s.line m).fax := by
  simp only [State.taking, State.fax_line_onTable]

@[simp] theorem State.voice_line_taking (s : State) (t : TableId) (i : Nat) (m : LineId) :
    ((s.taking t i).line m).voice = (s.line m).voice := by
  simp only [State.taking, State.voice_line_onTable]

@[simp] theorem State.fm_line_taking (s : State) (t : TableId) (i : Nat) (m : LineId) :
    ((s.taking t i).line m).fm = (s.line m).fm := by
  simp only [State.taking, State.fm_line_onTable]

@[simp] theorem State.port_taking (s : State) (t : TableId) (i : Nat) : (s.taking t i).port = s.port := by
  cases t <;> rfl

@[simp] theorem State.sweep_taking (s : State) (t : TableId) (i : Nat) : (s.taking t i).sweep = s.sweep := by
  cases t <;> rfl

@[simp] theorem State.pumps_taking (s : State) (t : TableId) (i : Nat) : (s.taking t i).pumps = s.pumps := by
  cases t <;> rfl

@[simp] theorem State.queue_taking (s : State) (t : TableId) (i : Nat) : (s.taking t i).queue = s.queue := by
  cases t <;> rfl

@[simp] theorem State.store_taking (s : State) (t : TableId) (i : Nat) : (s.taking t i).store = s.store := by
  cases t <;> rfl

@[simp] theorem State.messages_taking (s : State) (t : TableId) (i : Nat) : (s.taking t i).messages = s.messages := by
  cases t <;> rfl

@[simp] theorem State.slots_taking (s : State) (t : TableId) (i : Nat) : (s.taking t i).slots = s.slots := by
  cases t <;> rfl

@[simp] theorem State.monitor_taking (s : State) (t : TableId) (i : Nat) : (s.taking t i).monitor = s.monitor := by
  cases t <;> rfl

@[simp] theorem State.outputs_taking (s : State) (t : TableId) (i : Nat) : (s.taking t i).outputs = s.outputs := by
  cases t <;> rfl

@[simp] theorem State.draws_taking (s : State) (t : TableId) (i : Nat) : (s.taking t i).draws = s.draws := by
  cases t <;> rfl

@[simp] theorem State.pending_taking (s : State) (t : TableId) (i : Nat) : (s.taking t i).pending = s.pending := by
  cases t <;> rfl

@[simp] theorem State.pump_taking (s : State) (t : TableId) (i : Nat) (x : PumpId) : (s.taking t i).pump x = s.pump x := by
  cases t <;> rfl

@[simp] theorem State.slot_taking (s : State) (t : TableId) (i : Nat) (x : SlotId) : (s.taking t i).slot x = s.slot x := by
  cases t <;> rfl

@[simp] theorem State.message_taking (s : State) (t : TableId) (i : Nat) (x : EntryId) : (s.taking t i).message x = s.message x := by
  cases t <;> rfl

/-! ### raise -/

@[simp] theorem State.changeCount_line_raise (s : State) (n : LineId) (e : LineEvent) (m : LineId) :
    ((s.raise n e).line m).changeCount = (s.line m).changeCount := by
  simp only [State.raise, State.line_onLine]; split <;> simp_all

@[simp] theorem State.call_line_raise (s : State) (n : LineId) (e : LineEvent) (m : LineId) :
    ((s.raise n e).line m).call = (s.line m).call := by
  simp only [State.raise, State.line_onLine]; split <;> simp_all

@[simp] theorem State.ctl_line_raise (s : State) (n : LineId) (e : LineEvent) (m : LineId) :
    ((s.raise n e).line m).ctl = (s.line m).ctl := by
  simp only [State.raise, State.line_onLine]; split <;> simp_all

@[simp] theorem State.profile_line_raise (s : State) (n : LineId) (e : LineEvent) (m : LineId) :
    ((s.raise n e).line m).profile = (s.line m).profile := by
  simp only [State.raise, State.line_onLine]; split <;> simp_all

@[simp] theorem State.claim_line_raise (s : State) (n : LineId) (e : LineEvent) (m : LineId) :
    ((s.raise n e).line m).claim = (s.line m).claim := by
  simp only [State.raise, State.line_onLine]; split <;> simp_all

@[simp] theorem State.dialler_line_raise (s : State) (n : LineId) (e : LineEvent) (m : LineId) :
    ((s.raise n e).line m).dialler = (s.line m).dialler := by
  simp only [State.raise, State.line_onLine]; split <;> simp_all

@[simp] theorem State.prog_line_raise (s : State) (n : LineId) (e : LineEvent) (m : LineId) :
    ((s.raise n e).line m).prog = (s.line m).prog := by
  simp only [State.raise, State.line_onLine]; split <;> simp_all

@[simp] theorem State.dec_line_raise (s : State) (n : LineId) (e : LineEvent) (m : LineId) :
    ((s.raise n e).line m).dec = (s.line m).dec := by
  simp only [State.raise, State.line_onLine]; split <;> simp_all

@[simp] theorem State.seq_line_raise (s : State) (n : LineId) (e : LineEvent) (m : LineId) :
    ((s.raise n e).line m).seq = (s.line m).seq := by
  simp only [State.raise, State.line_onLine]; split <;> simp_all

@[simp] theorem State.grade_line_raise (s : State) (n : LineId) (e : LineEvent) (m : LineId) :
    ((s.raise n e).line m).grade = (s.line m).grade := by
  simp only [State.raise, State.line_onLine]; split <;> simp_all

@[simp] theorem State.link_line_raise (s : State) (n : LineId) (e : LineEvent) (m : LineId) :
    ((s.raise n e).line m).link = (s.line m).link := by
  simp only [State.raise, State.line_onLine]; split <;> simp_all

@[simp] theorem State.recvBlock_line_raise (s : State) (n : LineId) (e : LineEvent) (m : LineId) :
    ((s.raise n e).line m).recvBlock = (s.line m).recvBlock := by
  simp only [State.raise, State.line_onLine]; split <;> simp_all

@[simp] theorem State.delivered_line_raise (s : State) (n : LineId) (e : LineEvent) (m : LineId) :
    ((s.raise n e).line m).delivered = (s.line m).delivered := by
  simp only [State.raise, State.line_onLine]; split <;> simp_all

@[simp] theorem State.fax_line_raise (s : State) (n : LineId) (e : LineEvent) (m : LineId) :
    ((s.raise n e).line m).fax = (s.line m).fax := by
  simp only [State.raise, State.line_onLine]; split <;> simp_all

@[simp] theorem State.voice_line_raise (s : State) (n : LineId) (e : LineEvent) (m : LineId) :
    ((s.raise n e).line m).voice = (s.line m).voice := by
  simp only [State.raise, State.line_onLine]; split <;> simp_all

@[simp] theorem State.fm_line_raise (s : State) (n : LineId) (e : LineEvent) (m : LineId) :
    ((s.raise n e).line m).fm = (s.line m).fm := by
  simp only [State.raise, State.line_onLine]; split <;> simp_all

@[simp] theorem State.table_line_raise (s : State) (n : LineId) (e : LineEvent) (m : LineId) :
    ((s.raise n e).line m).table = (s.line m).table := by
  simp only [State.raise, State.line_onLine]; split <;> simp_all

/-! ### answerWith -/

@[simp] theorem State.changeCount_line_answerWith (s : State) (t : TableId) (i : Nat) (st : Status) (r c : Nat) (fs : List Byte) (m : LineId) :
    ((s.answerWith t i st r c fs).line m).changeCount = (s.line m).changeCount := by
  cases t <;> simp [State.answerWith]

@[simp] theorem State.call_line_answerWith (s : State) (t : TableId) (i : Nat) (st : Status) (r c : Nat) (fs : List Byte) (m : LineId) :
    ((s.answerWith t i st r c fs).line m).call = (s.line m).call := by
  cases t <;> simp [State.answerWith]

@[simp] theorem State.ctl_line_answerWith (s : State) (t : TableId) (i : Nat) (st : Status) (r c : Nat) (fs : List Byte) (m : LineId) :
    ((s.answerWith t i st r c fs).line m).ctl = (s.line m).ctl := by
  cases t <;> simp [State.answerWith]

@[simp] theorem State.profile_line_answerWith (s : State) (t : TableId) (i : Nat) (st : Status) (r c : Nat) (fs : List Byte) (m : LineId) :
    ((s.answerWith t i st r c fs).line m).profile = (s.line m).profile := by
  cases t <;> simp [State.answerWith]

@[simp] theorem State.claim_line_answerWith (s : State) (t : TableId) (i : Nat) (st : Status) (r c : Nat) (fs : List Byte) (m : LineId) :
    ((s.answerWith t i st r c fs).line m).claim = (s.line m).claim := by
  cases t <;> simp [State.answerWith]

@[simp] theorem State.dialler_line_answerWith (s : State) (t : TableId) (i : Nat) (st : Status) (r c : Nat) (fs : List Byte) (m : LineId) :
    ((s.answerWith t i st r c fs).line m).dialler = (s.line m).dialler := by
  cases t <;> simp [State.answerWith]

@[simp] theorem State.prog_line_answerWith (s : State) (t : TableId) (i : Nat) (st : Status) (r c : Nat) (fs : List Byte) (m : LineId) :
    ((s.answerWith t i st r c fs).line m).prog = (s.line m).prog := by
  cases t <;> simp [State.answerWith]

@[simp] theorem State.dec_line_answerWith (s : State) (t : TableId) (i : Nat) (st : Status) (r c : Nat) (fs : List Byte) (m : LineId) :
    ((s.answerWith t i st r c fs).line m).dec = (s.line m).dec := by
  cases t <;> simp [State.answerWith]

@[simp] theorem State.seq_line_answerWith (s : State) (t : TableId) (i : Nat) (st : Status) (r c : Nat) (fs : List Byte) (m : LineId) :
    ((s.answerWith t i st r c fs).line m).seq = (s.line m).seq := by
  cases t <;> simp [State.answerWith]

@[simp] theorem State.grade_line_answerWith (s : State) (t : TableId) (i : Nat) (st : Status) (r c : Nat) (fs : List Byte) (m : LineId) :
    ((s.answerWith t i st r c fs).line m).grade = (s.line m).grade := by
  cases t <;> simp [State.answerWith]

@[simp] theorem State.link_line_answerWith (s : State) (t : TableId) (i : Nat) (st : Status) (r c : Nat) (fs : List Byte) (m : LineId) :
    ((s.answerWith t i st r c fs).line m).link = (s.line m).link := by
  cases t <;> simp [State.answerWith]

@[simp] theorem State.recvBlock_line_answerWith (s : State) (t : TableId) (i : Nat) (st : Status) (r c : Nat) (fs : List Byte) (m : LineId) :
    ((s.answerWith t i st r c fs).line m).recvBlock = (s.line m).recvBlock := by
  cases t <;> simp [State.answerWith]

@[simp] theorem State.delivered_line_answerWith (s : State) (t : TableId) (i : Nat) (st : Status) (r c : Nat) (fs : List Byte) (m : LineId) :
    ((s.answerWith t i st r c fs).line m).delivered = (s.line m).delivered := by
  cases t <;> simp [State.answerWith]

@[simp] theorem State.fax_line_answerWith (s : State) (t : TableId) (i : Nat) (st : Status) (r c : Nat) (fs : List Byte) (m : LineId) :
    ((s.answerWith t i st r c fs).line m).fax = (s.line m).fax := by
  cases t <;> simp [State.answerWith]

@[simp] theorem State.voice_line_answerWith (s : State) (t : TableId) (i : Nat) (st : Status) (r c : Nat) (fs : List Byte) (m : LineId) :
    ((s.answerWith t i st r c fs).line m).voice = (s.line m).voice := by
  cases t <;> simp [State.answerWith]

@[simp] theorem State.fm_line_answerWith (s : State) (t : TableId) (i : Nat) (st : Status) (r c : Nat) (fs : List Byte) (m : LineId) :
    ((s.answerWith t i st r c fs).line m).fm = (s.line m).fm := by
  cases t <;> simp [State.answerWith]

@[simp] theorem State.port_answerWith (s : State) (t : TableId) (i : Nat) (st : Status) (r c : Nat) (fs : List Byte) : (s.answerWith t i st r c fs).port = s.port := by
  cases t <;> rfl

@[simp] theorem State.sweep_answerWith (s : State) (t : TableId) (i : Nat) (st : Status) (r c : Nat) (fs : List Byte) : (s.answerWith t i st r c fs).sweep = s.sweep := by
  cases t <;> rfl

@[simp] theorem State.pumps_answerWith (s : State) (t : TableId) (i : Nat) (st : Status) (r c : Nat) (fs : List Byte) : (s.answerWith t i st r c fs).pumps = s.pumps := by
  cases t <;> rfl

@[simp] theorem State.queue_answerWith (s : State) (t : TableId) (i : Nat) (st : Status) (r c : Nat) (fs : List Byte) : (s.answerWith t i st r c fs).queue = s.queue := by
  cases t <;> rfl

@[simp] theorem State.store_answerWith (s : State) (t : TableId) (i : Nat) (st : Status) (r c : Nat) (fs : List Byte) : (s.answerWith t i st r c fs).store = s.store := by
  cases t <;> rfl

@[simp] theorem State.messages_answerWith (s : State) (t : TableId) (i : Nat) (st : Status) (r c : Nat) (fs : List Byte) : (s.answerWith t i st r c fs).messages = s.messages := by
  cases t <;> rfl

@[simp] theorem State.slots_answerWith (s : State) (t : TableId) (i : Nat) (st : Status) (r c : Nat) (fs : List Byte) : (s.answerWith t i st r c fs).slots = s.slots := by
  cases t <;> rfl

@[simp] theorem State.monitor_answerWith (s : State) (t : TableId) (i : Nat) (st : Status) (r c : Nat) (fs : List Byte) : (s.answerWith t i st r c fs).monitor = s.monitor := by
  cases t <;> rfl

@[simp] theorem State.outputs_answerWith (s : State) (t : TableId) (i : Nat) (st : Status) (r c : Nat) (fs : List Byte) : (s.answerWith t i st r c fs).outputs = s.outputs := by
  cases t <;> rfl

@[simp] theorem State.draws_answerWith (s : State) (t : TableId) (i : Nat) (st : Status) (r c : Nat) (fs : List Byte) : (s.answerWith t i st r c fs).draws = s.draws := by
  cases t <;> rfl

@[simp] theorem State.pending_answerWith (s : State) (t : TableId) (i : Nat) (st : Status) (r c : Nat) (fs : List Byte) : (s.answerWith t i st r c fs).pending = s.pending := by
  cases t <;> rfl

@[simp] theorem State.pump_answerWith (s : State) (t : TableId) (i : Nat) (st : Status) (r c : Nat) (fs : List Byte) (x : PumpId) : (s.answerWith t i st r c fs).pump x = s.pump x := by
  cases t <;> rfl

@[simp] theorem State.slot_answerWith (s : State) (t : TableId) (i : Nat) (st : Status) (r c : Nat) (fs : List Byte) (x : SlotId) : (s.answerWith t i st r c fs).slot x = s.slot x := by
  cases t <;> rfl

@[simp] theorem State.message_answerWith (s : State) (t : TableId) (i : Nat) (st : Status) (r c : Nat) (fs : List Byte) (x : EntryId) : (s.answerWith t i st r c fs).message x = s.message x := by
  cases t <;> rfl

/-! ### answer -/

@[simp] theorem State.changeCount_line_answer (s : State) (t : TableId) (i : Nat) (st : Status) (r : Nat) (fs : List Byte) (m : LineId) :
    ((s.answer t i st r fs).line m).changeCount = (s.line m).changeCount := State.changeCount_line_answerWith ..

@[simp] theorem State.call_line_answer (s : State) (t : TableId) (i : Nat) (st : Status) (r : Nat) (fs : List Byte) (m : LineId) :
    ((s.answer t i st r fs).line m).call = (s.line m).call := State.call_line_answerWith ..

@[simp] theorem State.ctl_line_answer (s : State) (t : TableId) (i : Nat) (st : Status) (r : Nat) (fs : List Byte) (m : LineId) :
    ((s.answer t i st r fs).line m).ctl = (s.line m).ctl := State.ctl_line_answerWith ..

@[simp] theorem State.profile_line_answer (s : State) (t : TableId) (i : Nat) (st : Status) (r : Nat) (fs : List Byte) (m : LineId) :
    ((s.answer t i st r fs).line m).profile = (s.line m).profile := State.profile_line_answerWith ..

@[simp] theorem State.claim_line_answer (s : State) (t : TableId) (i : Nat) (st : Status) (r : Nat) (fs : List Byte) (m : LineId) :
    ((s.answer t i st r fs).line m).claim = (s.line m).claim := State.claim_line_answerWith ..

@[simp] theorem State.dialler_line_answer (s : State) (t : TableId) (i : Nat) (st : Status) (r : Nat) (fs : List Byte) (m : LineId) :
    ((s.answer t i st r fs).line m).dialler = (s.line m).dialler := State.dialler_line_answerWith ..

@[simp] theorem State.prog_line_answer (s : State) (t : TableId) (i : Nat) (st : Status) (r : Nat) (fs : List Byte) (m : LineId) :
    ((s.answer t i st r fs).line m).prog = (s.line m).prog := State.prog_line_answerWith ..

@[simp] theorem State.dec_line_answer (s : State) (t : TableId) (i : Nat) (st : Status) (r : Nat) (fs : List Byte) (m : LineId) :
    ((s.answer t i st r fs).line m).dec = (s.line m).dec := State.dec_line_answerWith ..

@[simp] theorem State.seq_line_answer (s : State) (t : TableId) (i : Nat) (st : Status) (r : Nat) (fs : List Byte) (m : LineId) :
    ((s.answer t i st r fs).line m).seq = (s.line m).seq := State.seq_line_answerWith ..

@[simp] theorem State.grade_line_answer (s : State) (t : TableId) (i : Nat) (st : Status) (r : Nat) (fs : List Byte) (m : LineId) :
    ((s.answer t i st r fs).line m).grade = (s.line m).grade := State.grade_line_answerWith ..

@[simp] theorem State.link_line_answer (s : State) (t : TableId) (i : Nat) (st : Status) (r : Nat) (fs : List Byte) (m : LineId) :
    ((s.answer t i st r fs).line m).link = (s.line m).link := State.link_line_answerWith ..

@[simp] theorem State.recvBlock_line_answer (s : State) (t : TableId) (i : Nat) (st : Status) (r : Nat) (fs : List Byte) (m : LineId) :
    ((s.answer t i st r fs).line m).recvBlock = (s.line m).recvBlock := State.recvBlock_line_answerWith ..

@[simp] theorem State.delivered_line_answer (s : State) (t : TableId) (i : Nat) (st : Status) (r : Nat) (fs : List Byte) (m : LineId) :
    ((s.answer t i st r fs).line m).delivered = (s.line m).delivered := State.delivered_line_answerWith ..

@[simp] theorem State.fax_line_answer (s : State) (t : TableId) (i : Nat) (st : Status) (r : Nat) (fs : List Byte) (m : LineId) :
    ((s.answer t i st r fs).line m).fax = (s.line m).fax := State.fax_line_answerWith ..

@[simp] theorem State.voice_line_answer (s : State) (t : TableId) (i : Nat) (st : Status) (r : Nat) (fs : List Byte) (m : LineId) :
    ((s.answer t i st r fs).line m).voice = (s.line m).voice := State.voice_line_answerWith ..

@[simp] theorem State.fm_line_answer (s : State) (t : TableId) (i : Nat) (st : Status) (r : Nat) (fs : List Byte) (m : LineId) :
    ((s.answer t i st r fs).line m).fm = (s.line m).fm := State.fm_line_answerWith ..

@[simp] theorem State.port_answer (s : State) (t : TableId) (i : Nat) (st : Status) (r : Nat) (fs : List Byte) : (s.answer t i st r fs).port = s.port := by
  cases t <;> rfl

@[simp] theorem State.sweep_answer (s : State) (t : TableId) (i : Nat) (st : Status) (r : Nat) (fs : List Byte) : (s.answer t i st r fs).sweep = s.sweep := by
  cases t <;> rfl

@[simp] theorem State.pumps_answer (s : State) (t : TableId) (i : Nat) (st : Status) (r : Nat) (fs : List Byte) : (s.answer t i st r fs).pumps = s.pumps := by
  cases t <;> rfl

@[simp] theorem State.queue_answer (s : State) (t : TableId) (i : Nat) (st : Status) (r : Nat) (fs : List Byte) : (s.answer t i st r fs).queue = s.queue := by
  cases t <;> rfl

@[simp] theorem State.store_answer (s : State) (t : TableId) (i : Nat) (st : Status) (r : Nat) (fs : List Byte) : (s.answer t i st r fs).store = s.store := by
  cases t <;> rfl

@[simp] theorem State.messages_answer (s : State) (t : TableId) (i : Nat) (st : Status) (r : Nat) (fs : List Byte) : (s.answer t i st r fs).messages = s.messages := by
  cases t <;> rfl

@[simp] theorem State.slots_answer (s : State) (t : TableId) (i : Nat) (st : Status) (r : Nat) (fs : List Byte) : (s.answer t i st r fs).slots = s.slots := by
  cases t <;> rfl

@[simp] theorem State.monitor_answer (s : State) (t : TableId) (i : Nat) (st : Status) (r : Nat) (fs : List Byte) : (s.answer t i st r fs).monitor = s.monitor := by
  cases t <;> rfl

@[simp] theorem State.outputs_answer (s : State) (t : TableId) (i : Nat) (st : Status) (r : Nat) (fs : List Byte) : (s.answer t i st r fs).outputs = s.outputs := by
  cases t <;> rfl

@[simp] theorem State.draws_answer (s : State) (t : TableId) (i : Nat) (st : Status) (r : Nat) (fs : List Byte) : (s.answer t i st r fs).draws = s.draws := by
  cases t <;> rfl

@[simp] theorem State.pending_answer (s : State) (t : TableId) (i : Nat) (st : Status) (r : Nat) (fs : List Byte) : (s.answer t i st r fs).pending = s.pending := by
  cases t <;> rfl

@[simp] theorem State.pump_answer (s : State) (t : TableId) (i : Nat) (st : Status) (r : Nat) (fs : List Byte) (x : PumpId) : (s.answer t i st r fs).pump x = s.pump x := by
  cases t <;> rfl

@[simp] theorem State.slot_answer (s : State) (t : TableId) (i : Nat) (st : Status) (r : Nat) (fs : List Byte) (x : SlotId) : (s.answer t i st r fs).slot x = s.slot x := by
  cases t <;> rfl

@[simp] theorem State.message_answer (s : State) (t : TableId) (i : Nat) (st : Status) (r : Nat) (fs : List Byte) (x : EntryId) : (s.answer t i st r fs).message x = s.message x := by
  cases t <;> rfl

@[simp] theorem State.hdr_taking (s : State) (t : TableId) (i : Nat) : (s.taking t i).hdr = s.hdr := by
  cases t <;> rfl

@[simp] theorem State.hdr_answerWith_line (s : State) (n : LineId) (i : Nat) (st : Status) (r c : Nat) (fs : List Byte) :
    (s.answerWith (.line n) i st r c fs).hdr = s.hdr := rfl

@[simp] theorem State.hdr_answer_line (s : State) (n : LineId) (i : Nat) (st : Status) (r : Nat) (fs : List Byte) :
    (s.answer (.line n) i st r fs).hdr = s.hdr := rfl

@[simp] theorem State.hdr_answerWith_engine (s : State) (i : Nat) (st : Status) (r c : Nat) (fs : List Byte) :
    (s.answerWith .engine i st r c fs).hdr = { s.hdr with ev := s.hdr.ev.raise 1 } := rfl

@[simp] theorem State.hdr_answer_engine (s : State) (i : Nat) (st : Status) (r : Nat) (fs : List Byte) :
    (s.answer .engine i st r fs).hdr = { s.hdr with ev := s.hdr.ev.raise 1 } := rfl

/-! ### Cards -/

theorem State.table_onTable (s : State) (t u : TableId) (f : OrderTable → OrderTable) :
    (s.onTable t f).table u = if u = t then f (s.table t) else s.table u := by
  cases t with
  | line n =>
    cases u with
    | line m =>
      simp only [State.table, State.onTable, State.line_onLine, TableId.line.injEq]
      split <;> simp_all
    | engine => simp [State.table, State.onTable, State.onLine]
  | engine =>
    cases u with
    | line m => rfl
    | engine => simp [State.table, State.onTable]

@[simp] theorem State.table_raise (s : State) (n : LineId) (e : LineEvent) (u : TableId) : (s.raise n e).table u = s.table u := by
  cases u with
  | line m => simp [State.table]
  | engine => rfl

@[simp] theorem State.table_raiseEngine (s : State) (e : EngineEvent) (u : TableId) :
    (s.raiseEngine e).table u = s.table u := by cases u <;> rfl

@[simp] theorem State.table_commit (s t : State) (u : TableId) : (s.commit t).table u = t.table u := by
  cases u with
  | line m => simp [State.table, commitLine]
  | engine => rfl

@[simp] theorem State.card_commit (s t : State) (u : TableId) (i : Nat) : (s.commit t).card u i = t.card u i := by
  simp [State.card]

/-- A card read where it was written, the table long enough. -/
theorem State.card_setCard {s : State} {t : TableId} {i : Nat} (c : Card) (h : i < (s.table t).cards.length) :
    (s.setCard t i c).card t i = c := by
  simp [State.card, State.setCard, State.table_onTable, h]

/-- What an answer leaves in its card (R189). -/
theorem State.card_answerWith {s : State} {t : TableId} {i : Nat} (h : i < (s.table t).cards.length) (st : Status) (r c : Nat)
    (fs : List Byte) : (s.answerWith t i st r c fs).card t i = ⟨.answered, answerBody (s.card t i) s.hdr.tick st r c fs⟩ := by
  have k := State.card_setCard ⟨.answered, answerBody (s.card t i) s.hdr.tick st r c fs⟩ h
  cases t <;> simpa [State.answerWith, State.card] using k

/-- A line whose card has been answered. -/
theorem State.line_answer_self (s : State) (n : LineId) (i : Nat) (st : Status) (r : Nat) (fs : List Byte) :
    (s.answer (.line n) i st r fs).line n =
      { s.line n with
        table :=
          { (s.line n).table with
            cards := (s.line n).table.cards.set i ⟨.answered, answerBody (s.card (.line n) i) s.hdr.tick st r 0 fs⟩ }
        ev := (s.line n).ev.raise 4 } := by
  simp [State.answer, State.answerWith, State.setCard, State.onTable, State.raise, LineEvent.bit]

/-- A card whose hand word is not FREE is one of the table's. -/
theorem OrderTable.lt_of_hand {t : OrderTable} {i : Nat} (h : t.hand i ≠ .free) : i < t.cards.length := by
  by_contra hn
  exact h (by simp [OrderTable.hand, List.getElem?_eq_none (Nat.le_of_not_lt hn), Card.initial])

/-- What it takes for a card's order to come next: it is the first of those that wait, TAKEN, or, where none waits, the first of the list,
found POSTED. -/
theorem OrderTable.comesTo_iff {t : OrderTable} {i : Nat} :
    t.comesTo i = true ↔ (∃ rest, t.waiting = i :: rest) ∧ t.hand i = .taken ∨
      t.waiting = [] ∧ (∃ rest, t.listing = i :: rest) ∧ t.hand i = .posted := by
  unfold OrderTable.comesTo OrderTable.due
  simp only [Bool.and_eq_true, beq_iff_eq, decide_eq_true_eq]
  cases h : t.waiting with
  | nil => simp [List.head?_eq_some_iff]
  | cons j js => simp [eq_comm]

/-- What it takes for an order command to be the next of the running sweep. -/
theorem State.takesCard_iff {s : State} {t : TableId} {i : Nat} {codes : Nat → Bool} :
    s.takesCard t i codes = true ↔ s.port.engineRunning = true ∧ s.sweep.running = true ∧ (s.table t).comesTo i = true ∧
      codes ((s.card t i).byte 4) = true := by
  unfold State.takesCard
  simp only [Bool.and_eq_true, and_assoc]

theorem OrderTable.hand_of_comesTo {t : OrderTable} {i : Nat} (h : t.comesTo i = true) :
    t.hand i = if t.waiting = [] then .posted else .taken := by
  unfold OrderTable.comesTo at h
  simp only [Bool.and_eq_true, decide_eq_true_eq] at h
  exact h.2

theorem State.takesCard_lt {s : State} {t : TableId} {i : Nat} {codes : Nat → Bool} (h : s.takesCard t i codes = true) :
    i < (s.table t).cards.length := by
  refine OrderTable.lt_of_hand ?_
  rw [OrderTable.hand_of_comesTo (State.takesCard_iff.mp h).2.2.1]
  split <;> simp

/-- The cards when an order goes to its owner: its own card is TAKEN with its body, the others stand. -/
theorem OrderTable.cards_taking (t : OrderTable) (i : Nat) :
    (t.taking i).cards = if t.waiting = [] then t.cards.set i ⟨.taken, ((t.cards[i]?).getD .initial).body⟩ else t.cards := by
  unfold OrderTable.taking; split <;> rfl

/-- The last-taken number when an order goes to its owner: the card's post number where it is taken now, else as it stood. -/
theorem OrderTable.lastTaken_taking (t : OrderTable) (i : Nat) :
    (t.taking i).lastTaken = if t.waiting = [] then t.postNumber i else t.lastTaken := by
  unfold OrderTable.taking; split <;> rfl

end Sys2Proof.Machine
end

