-- ==== Sys2Proof/Laws/Grade.lean ====
section
/-! SUPPORT. The bounds of the Grade Unit's arithmetic (05 R75 to R79). -/

set_option Elab.async false

namespace Sys2Proof.Machine

/-- Q is at most 160 (R76). -/
theorem margin_le (sig err : Word) : margin sig err ≤ 160 := Nat.min_le_left ..

/-- A smoothed accumulator stays between the accumulator and 16 times the margin (R77). -/
theorem smooth_le {acc q m : Nat} (ha : acc ≤ m) (hq : 16 * q ≤ m) : smooth acc q ≤ m := by
  unfold smooth
  have : ((acc : Int) + ((16 * q : Int) - acc).tdiv 4) ≤ m := by
    rcases le_or_gt (acc : Int) (16 * q : Int) with h | h
    · rw [Int.tdiv_eq_ediv_of_nonneg (by omega)]; omega
    · rw [show (16 * q : Int) - acc = -(acc - 16 * q) by ring, Int.neg_tdiv, Int.tdiv_eq_ediv_of_nonneg (by omega)]
      omega
  omega

theorem smooth_bounded {acc q : Nat} (ha : acc ≤ 2560) (hq : q ≤ 160) : smooth acc q ≤ 2560 := smooth_le ha (by omega)

/-- The grade of an accumulator within its bound is at most 160. -/
theorem gradeOf_le {acc : Nat} (h : acc ≤ 2560) : gradeOf acc ≤ 160 := by unfold gradeOf; omega

/-- The rung found lies in the range asked for and its threshold is met. -/
theorem highestRung_some {lo g hi r : Nat} (h : highestRung lo g hi = some r) : lo ≤ r ∧ r ≤ hi ∧ threshold r ≤ g := by
  induction hi with
  | zero => simp [highestRung] at h
  | succ hi ih =>
    unfold highestRung at h
    split at h
    · simp at h
    · split at h
      next ht => cases h; exact ⟨by omega, le_refl _, ht⟩
      next => obtain ⟨a, b, c⟩ := ih h; exact ⟨a, by omega, c⟩

/-- No rung of the range met its threshold where none is found. -/
theorem highestRung_none {lo g hi : Nat} (h : highestRung lo g hi = none) (r : Nat) (h1 : 1 ≤ r) (hl : lo ≤ r) (hh : r ≤ hi) :
    g < threshold r := by
  induction hi with
  | zero => omega
  | succ hi ih =>
    unfold highestRung at h
    split at h
    next => omega
    next =>
      split at h
      · simp at h
      next ht =>
        by_cases e : r = hi + 1
        · subst e; omega
        · exact ih h (by omega)

end Sys2Proof.Machine
end

