-- ==== Sys2Proof/Laws/LineEffects.lean ====
section
/-! SUPPORT. The effect of each operation of Lines, Dial and Ringing (see `LineEffect`). -/

set_option Elab.async false

namespace Sys2Proof.Machine

variable {n : LineId} {s₀ s : State}

/-! ## Lines -/

theorem LineEffect.enableOrder (h : LineEffect n s₀ s) (i : Nat) : LineEffect n s₀ (s.enableOrder n i) := by
  unfold State.enableOrder; split
  · exact (h.enter _ _).answer _ _ _ _
  · exact h.refuseState _
  · exact h.answer _ _ _ _

theorem LineEffect.disableEffect (h : LineEffect n s₀ s) : LineEffect n s₀ (s.disableEffect n) := by
  have k : LineEffect n s₀ ((s.onFm n fun f => { f with latch := none }).abandonRetry n .localCleared) :=
    (h.onFm _).abandonRetry _
  unfold State.disableEffect; dsimp only; split
  · exact k
  · exact k.enterOff
  · exact k.onCall
  · exact k.enterOff
  · exact k.enterOff
  · exact (k.clearDecision _).onCall

theorem LineEffect.disableOrder (h : LineEffect n s₀ s) (i : Nat) : LineEffect n s₀ (s.disableOrder n i) :=
  h.disableEffect.answer _ _ _ _

theorem LineEffect.hangupEffect (h : LineEffect n s₀ s) : LineEffect n s₀ (s.hangupEffect n) := by
  unfold State.hangupEffect; split
  · exact h
  · exact h
  · exact h
  · exact h
  · exact (h.abandonRetry _).enter _ _
  · exact h.clearDecision _

theorem LineEffect.hangupOrder (h : LineEffect n s₀ s) (i : Nat) : LineEffect n s₀ (s.hangupOrder n i) := by
  unfold State.hangupOrder; split
  · exact h.refuseState _
  · exact h.hangupEffect.answer _ _ _ _

theorem LineEffect.clearLineEffect (h : LineEffect n s₀ s) : LineEffect n s₀ (s.clearLineEffect n) := by
  unfold State.clearLineEffect; split
  · exact (h.onFm _).enter _ _
  · exact h.hangupEffect

theorem LineEffect.clearFaultOrder (h : LineEffect n s₀ s) (i : Nat) : LineEffect n s₀ (s.clearFaultOrder n i) := by
  unfold State.clearFaultOrder; split
  · exact ((h.onFm _).enter _ _).answer _ _ _ _
  · exact h.refuseState _

theorem LineEffect.clearRetryCountOrder (h : LineEffect n s₀ s) (i : Nat) : LineEffect n s₀ (s.clearRetryCountOrder n i) := by
  unfold State.clearRetryCountOrder; split
  · exact h.refuseState _
  · exact (h.onFm _).answer _ _ _ _

theorem LineEffect.loopFall (h : LineEffect n s₀ s) : LineEffect n s₀ (s.loopFall n) := by
  unfold State.loopFall; exact h.onCtl _

theorem LineEffect.loopReturn (h : LineEffect n s₀ s) : LineEffect n s₀ (s.loopReturn n) := by
  unfold State.loopReturn; dsimp only; split
  · exact (h.onCtl _).fault _
  · exact h.onCtl _

theorem LineEffect.loopDrop (h : LineEffect n s₀ s) : LineEffect n s₀ (s.loopDrop n) := by
  unfold State.loopDrop; split
  · exact h.clearDecision _
  · exact h

theorem LineEffect.ringGap (h : LineEffect n s₀ s) : LineEffect n s₀ (s.ringGap n) := by
  unfold State.ringGap; split
  · exact ((h.closeWindow.onCall).callEnd _).enter _ _
  · exact h

theorem LineEffect.guardExpiry (h : LineEffect n s₀ s) : LineEffect n s₀ (s.guardExpiry n) := by
  unfold State.guardExpiry; dsimp only; repeat' split
  · exact h.onCtl _
  · exact (h.onCtl _).endClearing
  · exact h

theorem LineEffect.declinedGapExpiry (h : LineEffect n s₀ s) : LineEffect n s₀ (s.declinedGapExpiry n) := by
  unfold State.declinedGapExpiry; dsimp only; repeat' split
  · exact h.onCtl _
  · exact (h.onCtl _).endClearing
  · exact h

/-! ## Dialling -/

theorem LineEffect.enterProgress (h : LineEffect n s₀ s) : LineEffect n s₀ (s.enterProgress n) := by
  unfold State.enterProgress; exact ((h.enter _ _).onDialler _).onProg _

theorem LineEffect.takeSymbols (h : LineEffect n s₀ s) (bs : List Byte) : LineEffect n s₀ (s.takeSymbols n bs) := by
  induction bs generalizing s with
  | nil => exact (h.onDialler _).enterProgress
  | cons b bs ih =>
    unfold State.takeSymbols; dsimp only; repeat' split
    · exact (h.onDialler _).emit _
    · exact (h.onDialler _).onCtl _
    · exact h.onDialler _
    · exact h.onDialler _
    · exact (h.onDialler _).onCtl _
    · exact ih (h.onDialler _)
    · exact ih (h.onDialler _)
    · exact ih (h.onDialler _)

theorem LineEffect.nextSymbol (h : LineEffect n s₀ s) : LineEffect n s₀ (s.nextSymbol n) := h.takeSymbols _

theorem LineEffect.enterDialling (h : LineEffect n s₀ s) : LineEffect n s₀ (s.enterDialling n) := (h.enter _ _).nextSymbol

theorem LineEffect.offHookAttempt (h : LineEffect n s₀ s) (v : Bool) : LineEffect n s₀ (s.offHookAttempt n v) := by
  unfold State.offHookAttempt; dsimp only; repeat' split
  · exact h.closeHook.enterDialling
  · exact h.closeHook.enter _ _
  · exact h.takeFault _ _ _ _

theorem LineEffect.placeCall (h : LineEffect n s₀ s) (v : Bool) : LineEffect n s₀ (s.placeCall n v) := by
  unfold State.placeCall; split
  · exact h.offHookAttempt v
  · exact (h.enter _ _).makeClaim _

theorem LineEffect.dialCall (h : LineEffect n s₀ s) (i : Nat) (v : Service) (bs : List Byte) (b : Bool) :
    LineEffect n s₀ (s.dialCall n i v bs b) := by
  unfold State.dialCall; dsimp only
  exact (LineEffect.onLine (h.callStart _ _).copyProfile (by exact fun _ k => ⟨k.acc, k.lastQ, k.rings, k.digits⟩)).placeCall b

theorem LineEffect.dialOrder (h : LineEffect n s₀ s) (i : Nat) (c : Card) (b : Bool) : LineEffect n s₀ (s.dialOrder n i c b) := by
  unfold State.dialOrder; repeat' split
  · exact h.answer _ _ _ _
  · exact h.answer _ _ _ _
  · exact h.dialCall _ _ _ _
  · exact h.refuseState _

theorem LineEffect.redial (h : LineEffect n s₀ s) (b : Bool) : LineEffect n s₀ (s.redial n b) := by
  unfold State.redial; dsimp only; split
  · exact (LineEffect.onLine ((h.onFm _).callStart _ _) (by exact fun _ k => ⟨k.acc, k.lastQ, k.rings, k.digits⟩)).placeCall b
  · exact h

theorem LineEffect.dialToneWaitExpiry (h : LineEffect n s₀ s) : LineEffect n s₀ (s.dialToneWaitExpiry n) := by
  unfold State.dialToneWaitExpiry; split
  · exact h.fault _
  · exact h

theorem LineEffect.dialToneAccepted (h : LineEffect n s₀ s) : LineEffect n s₀ (s.dialToneAccepted n) := by
  unfold State.dialToneAccepted; dsimp only; repeat' split
  · exact h
  · exact h.enterDialling
  · exact h.nextSymbol
  · exact h

theorem LineEffect.wWaitExpiry (h : LineEffect n s₀ s) : LineEffect n s₀ (s.wWaitExpiry n) := by
  unfold State.wWaitExpiry; split
  · exact h.fault _
  · exact h

theorem LineEffect.toneOnEnd (h : LineEffect n s₀ s) : LineEffect n s₀ (s.toneOnEnd n) := by
  unfold State.toneOnEnd; split
  · exact h.onDialler _
  · exact h

theorem LineEffect.pulseBreakEnd (h : LineEffect n s₀ s) : LineEffect n s₀ (s.pulseBreakEnd n) := by
  unfold State.pulseBreakEnd; split
  · exact (h.onDialler _).onCtl _
  · exact h

theorem LineEffect.pulseMakeEnd (h : LineEffect n s₀ s) : LineEffect n s₀ (s.pulseMakeEnd n) := by
  unfold State.pulseMakeEnd; repeat' split
  · exact (h.onDialler _).onCtl _
  · exact h.onDialler _
  · exact h

theorem LineEffect.countCycle (h : LineEffect n s₀ s) (c : Cycle) : LineEffect n s₀ (s.countCycle n c) := by
  unfold State.countCycle; dsimp only; repeat' split
  · exact (h.onProg _).clearDecision _
  · exact h.onProg _
  · exact (h.onProg _).clearDecision _
  · exact h.onProg _
  · exact h.onProg _

theorem LineEffect.progressToneOnset (h : LineEffect n s₀ s) (ms : Nat) : LineEffect n s₀ (s.progressToneOnset n ms) := by
  unfold State.progressToneOnset; dsimp only; repeat' split
  · exact ((h.onCtl _).onProg _).countCycle _
  · exact (h.onCtl _).onProg _
  · exact h.onCtl _

theorem LineEffect.voiceAnswer (h : LineEffect n s₀ s) : LineEffect n s₀ (s.voiceAnswer n) := by
  unfold State.voiceAnswer; split
  · exact (h.onProg _).connect _
  · exact h

theorem LineEffect.progressToneCease (h : LineEffect n s₀ s) (ms : Nat) : LineEffect n s₀ (s.progressToneCease n ms) := by
  unfold State.progressToneCease; dsimp only; split
  · exact ((h.onCtl _).onProg _).voiceAnswer
  · exact h.onCtl _

theorem LineEffect.voicePathOpen (h : LineEffect n s₀ s) : LineEffect n s₀ (s.voicePathOpen n) := by
  unfold State.voicePathOpen; split
  · exact (h.onProg _).voiceAnswer
  · exact h

theorem LineEffect.beginTraining (h : LineEffect n s₀ s) (r : Role) : LineEffect n s₀ (s.beginTraining n r) := by
  unfold State.beginTraining; dsimp only; split
  · exact (((h.enter _ _).onProg _).onPump _ _).emit _
  · exact (h.enter _ _).onProg _

theorem LineEffect.answerToneAccepted (h : LineEffect n s₀ s) : LineEffect n s₀ (s.answerToneAccepted n) := by
  unfold State.answerToneAccepted; split
  · exact h.beginTraining _
  · exact h

/-! ## Ringing and answering -/

theorem LineEffect.answerAttempt (h : LineEffect n s₀ s) (v : Service) (a b : Bool) : LineEffect n s₀ (s.answerAttempt n v a b) := by
  have k : LineEffect n s₀ ((((s.closeWindow n).closeHook n).onCall n fun c => { c with service := v }).enter n .answering .stopped) :=
    (h.closeWindow.closeHook.onCall).enter _ _
  unfold State.answerAttempt; dsimp only; repeat' split
  · exact k.onSeq _
  · exact k.makeClaim _
  · exact h.fault _

theorem LineEffect.autoAnswer (h : LineEffect n s₀ s) (b : Bool) : LineEffect n s₀ (s.autoAnswer n b) := by
  unfold State.autoAnswer; dsimp only; repeat' split
  all_goals first | exact h | exact h.answerAttempt _ _ _

theorem LineEffect.firstRing (h : LineEffect n s₀ s) (b : Bool) : LineEffect n s₀ (s.firstRing n b) :=
  (((((h.callStart _ _).copyProfile.onCall (hf := fun _ _ => by simp)).enter _ _).raise _).setDecoder _).autoAnswer b

theorem LineEffect.furtherRing (h : LineEffect n s₀ s) (b : Bool) : LineEffect n s₀ (s.furtherRing n b) :=
  ((((h.onCall (hf := fun _ _ => by simp)).onCtl _).raise _).closeWindow).autoAnswer b

theorem LineEffect.ringCounted (h : LineEffect n s₀ s) (b : Bool) : LineEffect n s₀ (s.ringCounted n b) := by
  unfold State.ringCounted; repeat' split
  · exact h.firstRing b
  · exact h.furtherRing b
  · exact (h.onCall.callEnd _).firstRing b
  · exact ((h.abandonRetry _).onCall).firstRing b
  · exact h.onCtl _
  · exact h
  · exact h

theorem LineEffect.burstStart (h : LineEffect n s₀ s) (b : Byte) : LineEffect n s₀ (s.burstStart n b) := by
  unfold State.burstStart; split
  · exact h.setDecoder _
  · exact h

theorem LineEffect.burstEnd (h : LineEffect n s₀ s) (bs : List Byte) : LineEffect n s₀ (s.burstEnd n bs) := by
  unfold State.burstEnd; repeat' split
  · exact (h.setDecoder _).fileCaller _
  · exact h.setDecoder _
  · exact h

theorem LineEffect.answerOrder (h : LineEffect n s₀ s) (i : Nat) (c : Card) (b : Bool) : LineEffect n s₀ (s.answerOrder n i c b) := by
  unfold State.answerOrder; dsimp only; repeat' split
  all_goals first
    | exact (h.onCtl _).answerAttempt _ _ _
    | exact h.answer _ _ _ _

theorem LineEffect.voiceSettle (h : LineEffect n s₀ s) : LineEffect n s₀ (s.voiceSettle n) := by
  unfold State.voiceSettle; split
  · exact ((h.onSeq _).connect _).beginSequence
  · exact h

theorem LineEffect.listenExpiry (h : LineEffect n s₀ s) : LineEffect n s₀ (s.listenExpiry n) := by
  unfold State.listenExpiry; split
  · exact (h.onSeq _).goOn
  · exact h

theorem LineEffect.switchClaim (h : LineEffect n s₀ s) (v : Service) : LineEffect n s₀ (s.switchClaim n v) :=
  (h.onSeq _).makeClaim _

theorem LineEffect.faxToneCease (h : LineEffect n s₀ s) (ms : Nat) : LineEffect n s₀ (s.faxToneCease n ms) := by
  unfold State.faxToneCease; dsimp only; split
  · exact (h.onCtl _).switchClaim _
  · exact h.onCtl _

theorem LineEffect.dataToneAccepted (h : LineEffect n s₀ s) : LineEffect n s₀ (s.dataToneAccepted n) := by
  unfold State.dataToneAccepted; split
  · exact h.switchClaim _
  · exact h

end Sys2Proof.Machine
end

