-- ==== Sys2Proof/Laws/RateEffects.lean ====
section
/-! SUPPORT. The effect of each operation of Voice, Rate and LinkReceive (see `LineEffect`). -/

set_option Elab.async false

namespace Sys2Proof.Machine

variable {n : LineId} {s₀ s : State}

/-! ## Voice -/

theorem LineEffect.popMessage (h : LineEffect n s₀ s) {m : EntryId} {b : Nat} {t : State} {k : LineId}
    (hp : s.popMessage k m = some (b, t)) : LineEffect n s₀ t := by
  unfold State.popMessage at hp
  split at hp
  · split at hp
    · simp at hp
    next c u hu =>
      simp only [Option.some.injEq, Prod.mk.injEq] at hp
      rw [← hp.2]
      refine ((h.pop (by simp) hu).onStore fun i st g => ?_).onMessage _ _
      split
      · exact Store.good_setNext (Store.good_newHeader g ..) ..
      · exact Store.good_newHeader g ..
  · simp at hp

theorem LineEffect.storeCode (h : LineEffect n s₀ s) {m : EntryId} {c : Nat} {t : State} {k : LineId}
    (hp : s.storeCode k m c = some t) : LineEffect n s₀ t := by
  unfold State.storeCode at hp
  dsimp only at hp
  split at hp
  · split at hp
    · rw [← Option.some.inj hp]
      exact (h.onStore fun _ _ g => Store.good_setPayload g ..).onMessage _ _
    · rw [← Option.some.inj hp]
      exact h.onMessage _ _
  · split at hp
    · simp at hp
    next b u hu =>
      rw [← Option.some.inj hp]
      have k' : LineEffect n s₀ u := by
        split at hu
        · cases hu; exact h
        · exact h.popMessage hu
      exact (k'.onStore fun _ _ g => Store.good_append g ..).onMessage _ _

theorem LineEffect.encodeSample (h : LineEffect n s₀ s) (x : Sample) : LineEffect n s₀ (s.encodeSample n x) := by
  unfold State.encodeSample; dsimp only; split
  · exact h
  · split
    · exact (h.raise _).endRecording _
    next t ht =>
      have k : LineEffect n s₀ t := h.storeCode ht
      have e : LineEffect n s₀ (t.onVoice n fun v => { v.hear x with encoder := ((s.line n).voice.encoder.encode x.toInt).2 }) :=
        k.onVoice (hf := fun v hv => by unfold Voice.hear; split <;> exact hv)
      split
      · exact e.endRecording _
      · exact e

theorem LineEffect.frameInProgress (h : LineEffect n s₀ s) (b c : Bool) : LineEffect n s₀ (s.frameInProgress n b c) := by
  unfold State.frameInProgress; split
  · exact (h.onProg _).voiceAnswer
  · exact h

theorem LineEffect.frameInRecording (h : LineEffect n s₀ s) (b : Bool) : LineEffect n s₀ (s.frameInRecording n b) := by
  have k : LineEffect n s₀ (s.onVoice n fun v => { v with silentRun := if b then v.silentRun + 1 else 0 }) := h.onVoice
  unfold State.frameInRecording; dsimp only
  generalize (s.onVoice n fun v => { v with silentRun := if b then v.silentRun + 1 else 0 }) = t at *
  repeat' split
  · exact k.endRecording _
  · exact k
  · exact h

theorem LineEffect.nextFrame (h : LineEffect n s₀ s) (k : Nat) : LineEffect n s₀ (s.nextFrame n k) := h.onVoice.onCtl _

theorem LineEffect.frameEnd (h : LineEffect n s₀ s) (xs : List Sample) : LineEffect n s₀ (s.frameEnd n xs) := by
  unfold State.frameEnd; dsimp only; split
  · exact ((h.nextFrame _).frameInRecording _).frameInProgress _ _
  · exact h

theorem LineEffect.recordOrder (h : LineEffect n s₀ s) (i : Nat) (c : Card) : LineEffect n s₀ (s.recordOrder n i c) := by
  unfold State.recordOrder; dsimp only; repeat' split
  · exact h.answer _ _ _ _
  · exact h.answer _ _ _ _
  · exact h.beginRecording _ _ _
  · exact h.refuseState _

theorem LineEffect.playOrder (h : LineEffect n s₀ s) (i : Nat) (c : Card) : LineEffect n s₀ (s.playOrder n i c) := by
  unfold State.playOrder; dsimp only; repeat' split
  · exact h.answer _ _ _ _
  · exact h.answer _ _ _ _
  · exact h.beginPlay _ _ _ _
  · exact h.answer _ _ _ _
  · exact h.answerBadChain _ _
  · exact (h.giveBlocks _ (by simp)).beginPlay _ _ _ _
  · exact h.answer _ _ _ _
  · exact h.refuseState _

theorem LineEffect.decodeSample (h : LineEffect n s₀ s) : LineEffect n s₀ (s.decodeSample n) := by
  unfold State.decodeSample; dsimp only; repeat' split
  · exact h
  · exact (h.onVoice.emit _).endPlay _
  · exact h.onVoice.emit _

theorem LineEffect.stopOrder (h : LineEffect n s₀ s) (i : Nat) : LineEffect n s₀ (s.stopOrder n i) := by
  have a : LineEffect n s₀ (if decide ((s.line n).voice.play ≠ .none) = true then s.endPlay n .stopped else s) := by
    split
    · exact h.endPlay _
    · exact h
  unfold State.stopOrder; dsimp only; split
  · exact h.refuseState _
  · refine LineEffect.answer ?_ _ _ _ _
    generalize (if decide ((s.line n).voice.play ≠ .none) = true then s.endPlay n .stopped else s) = t at *
    split
    · exact a.endRecording _
    · exact a

theorem LineEffect.queueDigit (h : LineEffect n s₀ s) (d : Byte) : LineEffect n s₀ (s.queueDigit n d) := by
  unfold State.queueDigit; dsimp only; split
  next hl =>
    have k : LineEffect n s₀ (s.onVoice n fun v => { v with digits := v.digits ++ [d] }) := by
      refine h.trans ⟨⟨fun k => k.of_store rfl rfl, fun k m => ?_, rfl, rfl, List.prefix_rfl⟩,
        fun m hm => ⟨_, _, State.line_onLine_ne s hm _⟩, by rw [State.onVoice, State.line_onLine_self]; exact .refl, State.length_onLine s n fun _ => rfl,
        rfl, rfl, rfl, s.hdr.ev, s.hdr.nextMessage, s.hdr.changeCount, .refl, rfl⟩
      rw [State.onVoice, State.line_onLine]
      split
      · refine ⟨(k n).acc, (k n).lastQ, (k n).rings, ?_⟩
        simp only [List.length_append, List.length_cons, List.length_nil]
        omega
      · exact k m
    split
    · exact k.raise _
    · exact k
  · exact h.onVoice

theorem LineEffect.digitEndsListening (h : LineEffect n s₀ s) : LineEffect n s₀ (s.digitEndsListening n) := by
  unfold State.digitEndsListening; dsimp only; repeat' split
  · exact (h.onSeq _).goOn
  · exact h.onSeq _
  · exact h

theorem LineEffect.digitHeard (h : LineEffect n s₀ s) (d : Byte) : LineEffect n s₀ (s.digitHeard n d) := by
  unfold State.digitHeard; dsimp only; repeat' split
  · exact (h.queueDigit d).endRecording _
  · exact (h.queueDigit d).digitEndsListening
  · exact h

theorem LineEffect.takeDigitsOrder (h : LineEffect n s₀ s) (i : Nat) : LineEffect n s₀ (s.takeDigitsOrder n i) := by
  unfold State.takeDigitsOrder; dsimp only
  exact (h.onVoice (hf := by simp)).answerWith _ _ _ _ _

theorem LineEffect.loadGreetingOrder (h : LineEffect n s₀ s) (i : Nat) (c : Card) : LineEffect n s₀ (s.loadGreetingOrder i c) := by
  unfold State.loadGreetingOrder; repeat' split
  · exact h.answerEngine _ _ _ _
  · exact h.answerEngine _ _ _ _
  · exact h.answerBadChainEngine _ _
  · exact ((h.giveBlocks _ (by simp)).onSlot _ _).answerEngine _ _ _ _

theorem LineEffect.unloadGreetingOrder (h : LineEffect n s₀ s) (i : Nat) (c : Card) :
    LineEffect n s₀ (s.unloadGreetingOrder i c) := by
  unfold State.unloadGreetingOrder; repeat' split
  · exact h.answerEngine _ _ _ _
  · exact h.answerEngine _ _ _ _
  · exact h.answerEngine _ _ _ _
  · exact (h.emptySlot _).answerEngine _ _ _ _
  · exact h.onSlot _ _

theorem LineEffect.collectOrder (h : LineEffect n s₀ s) (i : Nat) (c : Card) : LineEffect n s₀ (s.collectOrder i c) := by
  unfold State.collectOrder; split
  · exact h.answerEngine _ _ _ _
  · exact ((h.giveBlocks _ (by simp)).onMessage _ _).answerEngine _ _ _ _

theorem LineEffect.discardOrder (h : LineEffect n s₀ s) (i : Nat) (c : Card) : LineEffect n s₀ (s.discardOrder i c) := by
  unfold State.discardOrder; split
  · exact h.answerEngine _ _ _ _
  · exact ((h.onMessage _ _).freeBlocks _).answerEngine _ _ _ _

/-! ## Rate -/

theorem LineEffect.onHeldPump (h : LineEffect n s₀ s) (f : Pump → Pump) : LineEffect n s₀ (s.onHeldPump n f) := by
  unfold State.onHeldPump; split
  · exact h.onPump _ _
  · exact h

theorem LineEffect.beginLinkOpen (h : LineEffect n s₀ s) : LineEffect n s₀ (s.beginLinkOpen n) := (h.onLink n _).sendReply n _

theorem Grade.exchange_bounded (g : Grade) (p : Profile) (q f : Nat) (hq : q ≤ 160) :
    (g.exchange p q f).acc ≤ 2560 ∧ (g.exchange p q f).lastQ ≤ 160 := by
  simp only [Grade.exchange, Grade.seedData, Grade.seed, Grade.bounds]
  omega

theorem LineEffect.errorsRead (h : LineEffect n s₀ s) : LineEffect n s₀ (s.errorsRead n) := h.onLink n _

theorem LineEffect.exchangeReport (h : LineEffect n s₀ s) (f : Nat) (a b : Word) : LineEffect n s₀ (s.exchangeReport n f a b) :=
  h.errorsRead.onGrade (hf := fun g _ _ => g.exchange_bounded _ _ _ (margin_le a b))

theorem LineEffect.dataTraining (h : LineEffect n s₀ s) (f : Nat) (a b : Word) : LineEffect n s₀ (s.dataTraining n f a b) := by
  unfold State.dataTraining; dsimp only; repeat' split
  · exact (((h.exchangeReport f a b).onGrade).onHeldPump _).beginLinkOpen
  · exact (h.exchangeReport f a b).fault _
  · exact h

theorem LineEffect.trainingMismatch (h : LineEffect n s₀ s) : LineEffect n s₀ (s.trainingMismatch n) := by
  unfold State.trainingMismatch; split
  · exact h.fault _
  · exact h

theorem LineEffect.requestShift (h : LineEffect n s₀ s) (t : Nat) : LineEffect n s₀ (s.requestShift n t) :=
  ((h.onGrade.onHeldPump _).emit _).rateInFlight n

theorem LineEffect.beginRetrain (h : LineEffect n s₀ s) : LineEffect n s₀ (s.beginRetrain n) := by
  have k : LineEffect n s₀ (if (s.line n).link.inFlight = true then
      s.onGrade n fun g => { g with retrainCount := g.retrainCount + 1, rate := .retraining }
      else (s.onGrade n fun g => { g with retrainCount := g.retrainCount + 1, rate := .retraining }).rateInFlight n) := by
    split
    · exact h.onGrade
    · exact h.onGrade.rateInFlight n
  unfold State.beginRetrain; dsimp only
  split
  · generalize (if (s.line n).link.inFlight = true then
      s.onGrade n fun g => { g with retrainCount := g.retrainCount + 1, rate := .retraining }
      else (s.onGrade n fun g => { g with retrainCount := g.retrainCount + 1, rate := .retraining }).rateInFlight n) = t at *
    split
    · exact (((k.onHeldPump _).emit _).onCall).raise _
    · exact (k.onHeldPump _).emit _
  · exact h.fault _

theorem LineEffect.collapseTest (h : LineEffect n s₀ s) : LineEffect n s₀ (s.collapseTest n) := by
  unfold State.collapseTest; dsimp only; repeat' split
  · exact h.onGrade.takeFault _ _ _ _
  · exact h.onGrade
  · exact h.onGrade

theorem LineEffect.judgeWindow (h : LineEffect n s₀ s) (f : Nat) : LineEffect n s₀ (s.judgeWindow n f) := by
  unfold State.judgeWindow; dsimp only; repeat' split
  · exact h.onGrade.requestShift _
  · exact h.onGrade
  · exact h.onGrade.requestShift _
  · exact h.onGrade.beginRetrain
  · exact h.onGrade
  · exact h.onGrade

theorem LineEffect.window (h : LineEffect n s₀ s) (a b : Word) : LineEffect n s₀ (s.window n a b) := by
  have e : LineEffect n s₀ (if (s.line n).call.service = .data then s.errorsRead n else s) := .ite (fun _ => h.errorsRead) fun _ => h
  have k : LineEffect n s₀ ((if (s.line n).call.service = .data then s.errorsRead n else s).onGrade n fun g =>
      if g.seedPending then { g.seed (margin a b) with seedPending := false } else g.take (margin a b)) := by
    refine e.onGrade fun g ha hq => ?_
    have := margin_le a b
    split
    · simp only [Grade.seed]; omega
    · simp only [Grade.take]; exact ⟨smooth_bounded ha this, this⟩
  unfold State.window; dsimp only
  exact .ite (fun _ => .ite (fun _ => .ite (fun _ => k.collapseTest.judgeWindow _) fun _ => k.collapseTest)
    fun _ => k) fun _ => h

theorem LineEffect.shiftDone (h : LineEffect n s₀ s) : LineEffect n s₀ (s.shiftDone n) := by
  unfold State.shiftDone; split
  · exact h
  · exact ((h.onGrade.onHeldPump _).rateSettled n).raise _

theorem LineEffect.farRetrain (h : LineEffect n s₀ s) : LineEffect n s₀ (s.farRetrain n) := by
  unfold State.farRetrain; split
  · exact (h.onHeldPump _).beginRetrain
  · exact h

theorem LineEffect.exchangeDone (h : LineEffect n s₀ s) (f : Nat) (a b : Word) : LineEffect n s₀ (s.exchangeDone n f a b) := by
  have k : LineEffect n s₀ (s.exchangeReport n f a b) := h.exchangeReport f a b
  unfold State.exchangeDone; dsimp only; repeat' split
  · exact ((k.onGrade.onHeldPump _).onCall).rateSettled n
  · exact (((k.onGrade.onHeldPump _).onCall).rateSettled n).raise _
  · exact k.beginRetrain

/-- A report of a retrain attempt that is not the one in progress has no effect (R71). -/
theorem State.retrainDone_of_stale {s : State} {a : RetrainAttempt} (h : s.inAttempt a = false) (f : Nat) (x y : Word) :
    s.retrainDone a f x y = s ∧ s.attemptFailed a = s := by
  simp [State.retrainDone, State.attemptFailed, h]

/-- What it takes for a report to be of the attempt in progress (R71, R87). -/
theorem State.inAttempt_iff {s : State} {a : RetrainAttempt} :
    s.inAttempt a = true ↔ s.pumpAt a.line .retraining = true ∧ a.number = (s.line a.line).grade.retrainCount := by
  simp [State.inAttempt]

theorem LineEffect.retrainDone {a : RetrainAttempt} (h : LineEffect a.line s₀ s) (f : Nat) (x y : Word) :
    LineEffect a.line s₀ (s.retrainDone a f x y) := .ite (fun _ => h.exchangeDone f x y) fun _ => h

theorem LineEffect.attemptFailed {a : RetrainAttempt} (h : LineEffect a.line s₀ s) : LineEffect a.line s₀ (s.attemptFailed a) :=
  .ite (fun _ => h.beginRetrain) fun _ => h

theorem LineEffect.carrierLoss (h : LineEffect n s₀ s) : LineEffect n s₀ (s.carrierLoss n) := by
  unfold State.carrierLoss; dsimp only; repeat' split
  · exact (h.onHeldPump _).onCtl _
  · exact (h.onHeldPump _).fault _
  · exact h

theorem LineEffect.adaptiveSwitch (h : LineEffect n s₀ s) : LineEffect n s₀ (s.adaptiveSwitch n) := by
  have k : LineEffect n s₀ (if (s.line n).voice.play = .none then s else s.finishPlay n .switched .cut switchedCode) := by
    split
    · exact h
    · exact h.finishPlay _ _ _
  unfold State.adaptiveSwitch; dsimp only
  exact ((k.onCall).onSeq _).beginTraining _

theorem LineEffect.grantSettled (h : LineEffect n s₀ s) (v : Bool) : LineEffect n s₀ (s.grantSettled n v) := by
  unfold State.grantSettled; repeat' split
  · exact h.offHookAttempt v
  · exact h.beginTraining _
  · exact h.adaptiveSwitch
  · exact h
  · exact h

theorem LineEffect.requeue (h : LineEffect n s₀ s) : LineEffect n s₀ (s.requeue n) := by
  unfold State.requeue; dsimp only; split
  · exact h
  · exact .ite (fun _ => ((h.withWaitQueue _).setClaim _).arbitrate)
      fun _ => .ite (fun _ => ((h.withWaitQueue _).setClaim _).expireClaim) fun _ => (h.withWaitQueue _).setClaim _

theorem LineEffect.claimWaitExpiry (h : LineEffect n s₀ s) : LineEffect n s₀ (s.claimWaitExpiry n) := by
  unfold State.claimWaitExpiry; repeat' split
  · exact h.expireClaim
  · exact h
  · exact h

/-! ## The checked link -/

theorem LineEffect.sendOrder (h : LineEffect n s₀ s) (i : Nat) (c : Card) : LineEffect n s₀ (s.sendOrder n i c) := by
  unfold State.sendOrder; dsimp only; repeat' split
  · exact h.answer _ _ _ _
  · exact h.answer _ _ _ _
  · exact ((h.giveBlocks _ (by simp)).onLink n _).linkKick n
  · exact h.answer _ _ _ _

theorem LineEffect.linkOpenRepeat (h : LineEffect n s₀ s) : LineEffect n s₀ (s.linkOpenRepeat n) := by
  unfold State.linkOpenRepeat; split
  · exact (h.onLink n _).sendReply n _
  · exact h

theorem LineEffect.linkUp (h : LineEffect n s₀ s) (w l : Nat) : LineEffect n s₀ (s.linkUp n w l) :=
  (((h.onLink n _).sendReply n _).onLink n _).connect _

theorem LineEffect.ackFrames (h : LineEffect n s₀ s) (d : Nat) : LineEffect n s₀ (s.ackFrames n d) :=
  LineEffect.foldl (fun _ _ k => k.answer _ _ _ _) ((h.onLink n _).freeBlocks _) _

theorem LineEffect.receipt (h : LineEffect n s₀ s) (k : BitVec 7) : LineEffect n s₀ (s.receipt n k) := by
  unfold State.receipt; dsimp only; split
  · exact h
  · exact (((h.ackFrames _).onLink n _).onLink n _).linkKick n

theorem LineEffect.resendWindow (h : LineEffect n s₀ s) : LineEffect n s₀ (s.resendWindow n) := (h.onLink n _).linkKick n

theorem LineEffect.resendOrExhaust (h : LineEffect n s₀ s) : LineEffect n s₀ (s.resendOrExhaust n) := by
  unfold State.resendOrExhaust; repeat' split
  · exact (h.onLink n _).linkKick n
  · exact h.resendWindow
  · exact h.fault _

theorem LineEffect.reject (h : LineEffect n s₀ s) (k : BitVec 7) : LineEffect n s₀ (s.reject n k) := by
  unfold State.reject; split
  · exact h
  · exact ((h.ackFrames _).onLink n _).resendOrExhaust

theorem LineEffect.holdReceived (h : LineEffect n s₀ s) (k : BitVec 7) : LineEffect n s₀ (s.holdReceived n k) := by
  unfold State.holdReceived; split
  · exact h
  · exact (h.ackFrames _).onLink n _

theorem LineEffect.replyExpiry (h : LineEffect n s₀ s) : LineEffect n s₀ (s.replyExpiry n) := by
  unfold State.replyExpiry; split
  · exact h.resendOrExhaust
  · exact h

theorem LineEffect.discardFrame (h : LineEffect n s₀ s) : LineEffect n s₀ (s.discardFrame n) := by
  unfold State.discardFrame; dsimp only; split
  · exact ((h.onLink n _).raise _).sendReply n _
  · exact (h.onLink n _).sendReply n _

theorem LineEffect.takeInfo (h : LineEffect n s₀ s) (d : List Byte) : LineEffect n s₀ (s.takeInfo n d) :=
  ((h.storeData d).onLink n _).sendReply n _

theorem LineEffect.infoReceived (h : LineEffect n s₀ s) (k : BitVec 7) (d : List Byte) : LineEffect n s₀ (s.infoReceived n k d) := by
  unfold State.infoReceived; dsimp only; repeat' split
  · exact h.discardFrame
  · exact h.takeInfo d
  · exact ((h.onLink n _).raise _).discardFrame
  · exact h.sendReply n _
  · exact h
  · exact (h.onLink n _).sendReply n _

theorem LineEffect.flush (h : LineEffect n s₀ s) : LineEffect n s₀ (s.flush n) := (h.onLink n _).deliverData.closeData

theorem LineEffect.farClose (h : LineEffect n s₀ s) : LineEffect n s₀ (s.farClose n) := (h.onLink n _).flush

theorem LineEffect.frameReceived (h : LineEffect n s₀ s) (f : LinkFrame) : LineEffect n s₀ (s.frameReceived n f) := by
  unfold State.frameReceived; split
  · exact h.linkUp _ _
  · exact h.sendReply n _
  · exact h.sendReply n _
  · exact h.infoReceived _ _
  · exact h.receipt _
  · exact h.reject _
  · exact h.holdReceived _
  · exact h.farClose
  · exact h

theorem LineEffect.runReceived (h : LineEffect n s₀ s) (r : List Byte) : LineEffect n s₀ (s.runReceived n r) := by
  unfold State.runReceived; repeat' split
  · exact h
  · exact LineEffect.draw (h.onLink n _)
  · exact h.frameReceived _

theorem LineEffect.frameSent (h : LineEffect n s₀ s) : LineEffect n s₀ (s.frameSent n) := by
  unfold State.frameSent; split
  · exact (h.onLink n _).linkKick n
  · exact h

end Sys2Proof.Machine
end

