-- ==== Sys2Proof/Laws/FaxEffects.lean ====
section
/-! SUPPORT. The effect of each operation of Fax (see `LineEffect`). -/

set_option Elab.async false

namespace Sys2Proof.Machine

variable {n : LineId} {s₀ s : State}

theorem LineEffect.sendFax (h : LineEffect n s₀ s) (f : FaxFrame) : LineEffect n s₀ (s.sendFax n f) := h.emit _

theorem LineEffect.faxWait (h : LineEffect n s₀ s) (p : FaxPhase) (f : Option FaxFrame) : LineEffect n s₀ (s.faxWait n p f) :=
  h.onFax _

theorem LineEffect.faxStand (h : LineEffect n s₀ s) (p : FaxPhase) (f : FaxFrame) : LineEffect n s₀ (s.faxStand n p f) :=
  (h.faxWait p _).sendFax f

theorem LineEffect.faxRung (h : LineEffect n s₀ s) (r : Nat) : LineEffect n s₀ (s.faxRung n r) := by
  unfold State.faxRung; dsimp only; split
  · exact h.onGrade
  · exact h.onGrade.raise _

theorem LineEffect.sendCheck (h : LineEffect n s₀ s) : LineEffect n s₀ (s.sendCheck n) := ((h.sendFax _).onFax _).emit _

theorem LineEffect.beginCheck (h : LineEffect n s₀ s) (r : Nat) : LineEffect n s₀ (s.beginCheck n r) :=
  ((h.faxRung r).onFax _).sendCheck

theorem LineEffect.beginRelease (h : LineEffect n s₀ s) : LineEffect n s₀ (s.beginRelease n) := (h.onFax _).sendFax _

theorem LineEffect.repeatStanding (h : LineEffect n s₀ s) : LineEffect n s₀ (s.repeatStanding n) := by
  unfold State.repeatStanding; repeat' split
  · exact h
  · exact h.sendCheck
  · exact h.sendFax _
  · exact h

theorem LineEffect.faxExpiry (h : LineEffect n s₀ s) : LineEffect n s₀ (s.faxExpiry n) := by
  unfold State.faxExpiry; dsimp only; repeat' split
  · exact (h.onFax _).repeatStanding
  · exact h.clearDecision _
  · exact h.faxFailed _

theorem LineEffect.takeOffer (h : LineEffect n s₀ s) (o : Offer) : LineEffect n s₀ (s.takeOffer n o) := (h.onFax _).beginCheck _

theorem LineEffect.beginSession (h : LineEffect n s₀ s) : LineEffect n s₀ (s.beginSession n) := by
  unfold State.beginSession; dsimp only; repeat' split
  · exact (h.onFax _).faxStand _ _
  · exact (h.onFax _).beginRelease
  · exact (h.onFax _).takeOffer _
  · exact (h.onFax _).faxWait _ _

theorem LineEffect.faxTraining (h : LineEffect n s₀ s) (a b : Word) : LineEffect n s₀ (s.faxTraining n a b) := by
  unfold State.faxTraining; dsimp only; split
  · exact (LineEffect.connect (LineEffect.onHeldPump (h.onGrade (hf := fun g _ _ => by
      have := margin_le a b; simp only [Grade.seed]; omega)) _) _).beginSession
  · exact h

theorem LineEffect.offerReceived (h : LineEffect n s₀ s) (o : Offer) : LineEffect n s₀ (s.offerReceived n o) := by
  unfold State.offerReceived; dsimp only; repeat' split
  · exact (h.onFax _).beginTraining _
  · exact h.takeOffer o
  · exact h

theorem LineEffect.takeChoice (h : LineEffect n s₀ s) (c : Choice) : LineEffect n s₀ (s.takeChoice n c) := by
  unfold State.takeChoice; split
  · exact (h.onFax _).faxStand _ _
  · exact (h.onFax _).faxRung _

theorem LineEffect.choiceReceived (h : LineEffect n s₀ s) (c : Choice) : LineEffect n s₀ (s.choiceReceived n c) := by
  unfold State.choiceReceived; split
  · exact h.takeChoice c
  · exact h

theorem LineEffect.patternJudged (h : LineEffect n s₀ s) (e : List Byte) : LineEffect n s₀ (s.patternJudged n e) := by
  unfold State.patternJudged; dsimp only; repeat' split
  · exact (h.onFax _).faxStand _ _
  · exact (h.onFax _).faxStand _ _
  · exact h
  · exact h

theorem LineEffect.noPattern (h : LineEffect n s₀ s) : LineEffect n s₀ (s.noPattern n) := by
  unfold State.noPattern; repeat' split
  · exact h
  · exact (h.onFax _).faxExpiry
  · exact h

theorem LineEffect.sendPage (h : LineEffect n s₀ s) : LineEffect n s₀ (s.sendPage n) := by
  unfold State.sendPage; dsimp only; split
  · exact h.beginRelease
  · exact (h.onFax _).emit _

theorem LineEffect.patternSent (h : LineEffect n s₀ s) : LineEffect n s₀ (s.patternSent n) := by
  unfold State.patternSent; repeat' split
  · exact h.onFax _
  · exact h
  · exact h

theorem LineEffect.ready (h : LineEffect n s₀ s) : LineEffect n s₀ (s.ready n) := by
  unfold State.ready; split
  · exact (h.onFax _).sendPage
  · exact h

theorem LineEffect.notReady (h : LineEffect n s₀ s) : LineEffect n s₀ (s.notReady n) := by
  unfold State.notReady; dsimp only; repeat' split
  · exact (h.onFax _).beginCheck _
  · exact (h.onFax _).beginCheck _
  · exact h.faxFailed _
  · exact h

theorem LineEffect.onFaxOrder (h : LineEffect n s₀ s) (c : Nat) (f : FaxOrder → FaxOrder) : LineEffect n s₀ (s.onFaxOrder n c f) :=
  h.onFax _

theorem LineEffect.countPage (h : LineEffect n s₀ s) (p : Page) : LineEffect n s₀ (s.countPage n p) :=
  LineEffect.draw ((h.onFaxOrder _ _).onFax _)

theorem LineEffect.pageSent (h : LineEffect n s₀ s) : LineEffect n s₀ (s.pageSent n) := by
  unfold State.pageSent; split
  · split
    · exact h
    · exact ((h.countPage _).onFax _).faxStand _ _
  · exact h

theorem LineEffect.answerPagesDone (h : LineEffect n s₀ s) (c : Nat) : LineEffect n s₀ (s.answerPagesDone n c) := by
  unfold State.answerPagesDone; repeat' split
  · exact h
  · exact h
  · exact (h.answerPages _ _ _).onFax _

theorem LineEffect.finalVerdict (h : LineEffect n s₀ s) (v : Verdict) : LineEffect n s₀ (s.finalVerdict n v) := by
  unfold State.finalVerdict; split
  · exact h
  · exact (((h.onFaxOrder _ _).onFax _).freeBlocks _).answerPagesDone _

theorem LineEffect.afterVerdict (h : LineEffect n s₀ s) : LineEffect n s₀ (s.afterVerdict n) := by
  unfold State.afterVerdict; dsimp only; repeat' split
  · exact h.beginRelease
  · exact (h.onFax _).beginCheck _
  · exact h.sendPage

theorem LineEffect.actOnVerdict (h : LineEffect n s₀ s) (v : SentVerdict) : LineEffect n s₀ (s.actOnVerdict n v) := by
  unfold State.actOnVerdict; repeat' split
  · exact (h.finalVerdict _).afterVerdict
  · exact ((h.finalVerdict _).onFax _).afterVerdict
  · exact ((h.finalVerdict _).onFax _).afterVerdict
  · exact (h.onFax _).beginCheck _

theorem LineEffect.verdictReceived (h : LineEffect n s₀ s) (v : SentVerdict) (r b : Nat) :
    LineEffect n s₀ (s.verdictReceived n v r b) := by
  unfold State.verdictReceived; split
  · exact ((h.onFax _).raise _).actOnVerdict v
  · exact h

theorem LineEffect.releaseSent (h : LineEffect n s₀ s) : LineEffect n s₀ (s.releaseSent n) := by
  unfold State.releaseSent; split
  · exact h.clearDecision _
  · exact h

theorem LineEffect.releaseReceived (h : LineEffect n s₀ s) : LineEffect n s₀ (s.releaseReceived n) := by
  unfold State.releaseReceived; split
  · exact h.clearDecision _
  · exact h

theorem LineEffect.openPage (h : LineEffect n s₀ s) : LineEffect n s₀ (s.openPage n) := LineEffect.draw (h.onFax _)

theorem LineEffect.pageStart (h : LineEffect n s₀ s) : LineEffect n s₀ (s.pageStart n) := by
  unfold State.pageStart; split
  · exact h.openPage.onFax _
  · exact h

theorem LineEffect.rowRoom (h : LineEffect n s₀ s) (k : Nat) : LineEffect n s₀ (s.rowRoom n k) := by
  unfold State.rowRoom; repeat' split
  · exact h
  · exact h.deliverPage
  · exact h

theorem LineEffect.storeRow (h : LineEffect n s₀ s) (r : List Byte) : LineEffect n s₀ (s.storeRow n r).1 := by
  have k := h.rowRoom r.length
  unfold State.storeRow; dsimp only
  generalize s.rowRoom n r.length = t at *
  split
  · exact h
  · split
    · exact k
    · split
      · exact k.raise _
      next u hu =>
        have ku : LineEffect n s₀ u := by
          split at hu
          · exact Option.some.inj hu ▸ k
          · exact k.popRecv hu
        split
        · exact ku.onStore fun _ _ g => Store.good_append g ..
        · exact ku

theorem LineEffect.countRow (h : LineEffect n s₀ s) (d : Bool) : LineEffect n s₀ (s.countRow n d) := LineEffect.draw (h.onFax _)

theorem LineEffect.rowReceived (h : LineEffect n s₀ s) (d : Bool) (r : List Byte) : LineEffect n s₀ (s.rowReceived n d r) := by
  unfold State.rowReceived; dsimp only; split
  · exact (h.storeRow _).countRow _
  · exact h

theorem LineEffect.pageEnd (h : LineEffect n s₀ s) : LineEffect n s₀ (s.pageEnd n) := by
  unfold State.pageEnd; split
  · exact (h.onFax _).faxWait _ _
  · exact h

theorem LineEffect.judgePage (h : LineEffect n s₀ s) (l : Bool) : LineEffect n s₀ (s.judgePage n l) :=
  (((h.deliverPage.closePage _ _ _).onFax _).raise _).faxStand _ _

theorem LineEffect.pageFrame (h : LineEffect n s₀ s) (l : Bool) : LineEffect n s₀ (s.pageFrame n l) := by
  unfold State.pageFrame; dsimp only; repeat' split
  · exact h.judgePage l
  · exact h.openPage.judgePage l
  · exact h.repeatStanding
  · exact h
  · exact h

theorem LineEffect.faxPagesOrder (h : LineEffect n s₀ s) (i : Nat) (c : Card) : LineEffect n s₀ (s.faxPagesOrder n i c) := by
  unfold State.faxPagesOrder; dsimp only; repeat' split
  · exact h.answer _ _ _ _
  · exact h.answer _ _ _ _
  · exact h.answer _ _ _ _
  · exact (h.giveBlocks _ (by simp)).onFax _
  · exact h.refuseState _

end Sys2Proof.Machine
end

