-- ==== Sys2Proof/Laws/EngineEffects.lean ====
section
/-! SUPPORT. What the operations of the whole engine keep (see `Keeps`): pumps, engine orders, the Clock, the host pulse monitor, the
port and the sweep. -/

set_option Elab.async false

namespace Sys2Proof.Machine

variable {s₀ s : State}

/-- A change that leaves lines, store, strap, outputs and queue of commands as they are. -/
theorem Keeps.of_rest {t : State} (hl : t.lines = s.lines) (hs : t.store = s.store) (hp : t.port.strap = s.port.strap)
    (hq : t.pending = s.pending) (ho : t.outputs = s.outputs) : Keeps s t :=
  ⟨fun h => h.of_store hs hp, fun h => h.of_lines hl, hp, hq, ho ▸ List.prefix_rfl⟩

/-- What a line's operation does keeps what every operation keeps. -/
theorem Keeps.line {n : LineId} {t : State} (h : Keeps s₀ s) (k : LineEffect n s t) : Keeps s₀ t := h.trans k.toKeeps

/-- An event word written, as the host and the sweep may. -/
theorem Keeps.onEv (h : Keeps s₀ s) (n : LineId) (f : EventWord → EventWord) :
    Keeps s₀ (s.onLine n fun l => { l with ev := f l.ev }) := by
  refine h.trans ⟨fun k => k.of_store rfl rfl, fun k m => ?_, rfl, rfl, List.prefix_rfl⟩
  rw [State.line_onLine]
  split
  · exact (k n).of_eq rfl rfl rfl
  · exact k m

theorem Keeps.foldl {α : Type} {f : State → α → State} (hf : ∀ s a, Keeps s₀ s → Keeps s₀ (f s a)) (h : Keeps s₀ s) (xs : List α) :
    Keeps s₀ (xs.foldl f s) := by
  induction xs generalizing s with
  | nil => exact h
  | cons x xs ih => exact ih (hf s x h)

/-! ## Pumps -/

theorem Keeps.startUp (h : Keeps s₀ s) : Keeps s₀ s.startUp := by
  unfold State.startUp; split
  · exact h.trans (.of_rest rfl rfl rfl rfl rfl)
  · exact h

theorem Keeps.settleChecked (h : Keeps s₀ s) (p : PumpId) (a b : Bool) : Keeps s₀ (s.settleChecked p a b) := by
  unfold State.settleChecked
  split
  next n _ =>
    dsimp only
    have k := LineEffect.refl (n := n) (s := s)
    split
    · exact h.line (((k.onPump p _).onLine (by exact fun _ k => ⟨k.acc, k.lastQ, k.rings, k.digits⟩)).grantSettled b)
    · exact h.line (((k.onPump p _).raiseEngine _).requeue)
  · have k := LineEffect.refl (n := 0) (s := s)
    split
    · exact h.line ((k.onPump p _).arbitrate)
    · exact h.line ((k.onPump p _).raiseEngine _)

theorem Keeps.settleComplete (h : Keeps s₀ s) (p : PumpId) (a b : Bool) : Keeps s₀ (s.settleComplete p a b) := by
  unfold State.settleComplete; split
  · exact (h.settleChecked p a b).startUp
  · exact h

theorem Keeps.selfFault (h : Keeps s₀ s) (p : PumpId) : Keeps s₀ (s.selfFault p) := by
  unfold State.selfFault; repeat' split
  next n _ =>
    have k := LineEffect.refl (n := n) (s := s)
    exact h.line ((((k.onPump p _).raiseEngine _).onCall).fault _)
  · exact h
  · exact h

/-! ## Engine orders and the Clock -/

theorem LineEffect.popHost {n : LineId} (h : LineEffect n s₀ s) (k : Nat) : LineEffect n s₀ (s.popHost k).2 := by
  induction k generalizing s with
  | zero => exact h
  | succ k ih =>
    unfold State.popHost
    split
    · exact h
    next hp => exact ih (h.pop (by simp) hp)

theorem LineEffect.takeBlocksOrder {n : LineId} (h : LineEffect n s₀ s) (i : Nat) (c : Card) :
    LineEffect n s₀ (s.takeBlocksOrder i c) := (h.popHost _).answerWithEngine _ _ _ _ _

theorem Keeps.setClockOrder (h : Keeps s₀ s) (i : Nat) (c : Card) : Keeps s₀ (s.setClockOrder i c) :=
  h.trans (.of_rest rfl rfl rfl rfl rfl)

theorem Keeps.unknownOrder (h : Keeps s₀ s) (t : TableId) (i : Nat) : Keeps s₀ (s.unknownOrder t i) := by
  cases t with
  | line n => exact h.line (LineEffect.refl.answer (n := n) _ _ _ _)
  | engine => exact h.line (LineEffect.refl.answerEngine (n := 0) _ _ _ _)

theorem Keeps.requestSweep (h : Keeps s₀ s) : Keeps s₀ s.requestSweep := by
  unfold State.requestSweep; split
  · exact h.trans (.of_rest rfl rfl rfl rfl rfl)
  · exact h

theorem Keeps.monitorTick (h : Keeps s₀ s) : Keeps s₀ s.monitorTick := by
  unfold State.monitorTick; split
  · exact h.trans (.of_rest rfl rfl rfl rfl rfl)
  · exact h

theorem Keeps.onHdr (h : Keeps s₀ s) (f : Header → Header) : Keeps s₀ (s.onHdr f) := h.trans (.of_rest rfl rfl rfl rfl rfl)

theorem Keeps.tickOnce (h : Keeps s₀ s) : Keeps s₀ s.tickOnce := by
  unfold State.tickOnce; split
  · exact (h.onHdr _).monitorTick.requestSweep
  · exact h

/-! ## The host pulse monitor -/

theorem LineEffect.silence {n : LineId} (h : LineEffect n s₀ s) : LineEffect n s₀ (s.silence n) := by
  unfold State.silence; repeat' split
  · exact ((h.abandonRetry _).enter _ _).onCall
  · exact h.abandonRetry _
  · exact h.clearDecision _
  · exact h.clearDecision _
  · exact h

theorem Keeps.declareSilence (h : Keeps s₀ s) (order : List LineId) : Keeps s₀ (s.declareSilence order) := by
  unfold State.declareSilence; dsimp only; split
  · refine Keeps.foldl (f := State.silence) (fun _ n k => k.line (LineEffect.silence (n := n) .refl)) ?_ _
    exact h.trans (.of_rest rfl rfl rfl rfl rfl)
  · exact h.trans (.of_rest rfl rfl rfl rfl rfl)

theorem Keeps.hostBack (h : Keeps s₀ s) : Keeps s₀ s.hostBack := by
  unfold State.hostBack; split
  · exact h.trans (.of_rest rfl rfl rfl rfl rfl)
  · exact h

theorem Keeps.setMonitor (h : Keeps s₀ s) (m : Monitor) : Keeps s₀ { s with monitor := m } :=
  h.trans (.of_rest rfl rfl rfl rfl rfl)

theorem Keeps.comparePulse (h : Keeps s₀ s) (order : List LineId) : Keeps s₀ (s.comparePulse order) := by
  unfold State.comparePulse; dsimp only; repeat' split
  · exact (h.setMonitor _).hostBack
  · exact (h.setMonitor _).declareSilence order
  · exact h.setMonitor _

theorem Keeps.pulseEnd (h : Keeps s₀ s) (order : List LineId) : Keeps s₀ (s.pulseEnd order) := by
  unfold State.pulseEnd; dsimp only; repeat' split
  · exact h
  · exact ((h.comparePulse order).setMonitor _).hostBack
  · exact (h.comparePulse order).setMonitor _

/-! ## The port -/

theorem LineEffect.writePlain {n : LineId} (h : LineEffect n s₀ s) (a : Nat) (v : Word) : LineEffect n s₀ (s.writePlain a v) :=
  h.onStore fun _ _ g => Store.good_mem g (Memory.wf_setWord g.canonical _ _)

theorem Keeps.setCard (h : Keeps s₀ s) (t : TableId) (i : Nat) (c : Card) : Keeps s₀ (s.setCard t i c) := by
  cases t with
  | line n => exact h.line (LineEffect.refl.setCardLine (n := n) i c)
  | engine => exact h.line (LineEffect.refl.setCardEngine (n := 0) i c)

theorem Keeps.guarded (h : Keeps s₀ s) {a : Nat} {v : Word} {t : State} (e : s.guarded a v = some t) : Keeps s₀ t := by
  have w : ∀ a v, Keeps s₀ (s.writePlain a v) := fun a v => h.line (LineEffect.refl.writePlain (n := 0) a v)
  unfold State.guarded at e
  split at e
  · obtain ⟨c, -, rfl⟩ := Option.map_eq_some_iff.mp e
    exact h.setCard _ _ _
  · repeat' split at e
    all_goals first
      | (cases e; done)
      | (cases e; first | exact w _ _ | exact h)
      | (obtain ⟨c, -, rfl⟩ := Option.map_eq_some_iff.mp e
         first
          | exact h.trans (.of_rest rfl rfl rfl rfl rfl)
          | exact h.onEv _ fun _ => c)

theorem Keeps.hostWord (h : Keeps s₀ s) (a : Nat) (v : Word) : Keeps s₀ (s.hostWord a v) := by
  unfold State.hostWord
  cases e : s.guarded a v with
  | none => exact h.trans (.of_rest rfl rfl rfl rfl rfl)
  | some t => exact h.guarded e

/-! ## The sweep -/

theorem LineEffect.lineOrder {n : LineId} (h : LineEffect n s₀ s) (v : Bool) (i : Nat) (c : Card) :
    LineEffect n s₀ (s.lineOrder n v i c) := by
  unfold State.lineOrder; split
  · exact h.enableOrder i
  · exact h.disableOrder i
  · exact h.dialOrder i c v
  · exact h.answerOrder i c v
  · exact h.hangupOrder i
  · exact h.sendOrder i c
  · exact h.faxPagesOrder i c
  · exact h.playOrder i c
  · exact h.recordOrder i c
  · exact h.stopOrder i
  · exact h.takeDigitsOrder i
  · exact h.clearFaultOrder i
  · exact h.clearRetryCountOrder i
  · exact h.answer _ _ _ _

theorem Keeps.clearLineOrder (h : Keeps s₀ s) (i : Nat) (c : Card) : Keeps s₀ (s.clearLineOrder i c) := by
  unfold State.clearLineOrder; split
  next e => exact h.line ((LineEffect.refl (n := ⟨c.byte 6, e⟩)).clearLineEffect.answerEngine _ _ _ _)
  next => exact h.line (LineEffect.refl.answerEngine (n := 0) _ _ _ _)

theorem Keeps.engineOrder (h : Keeps s₀ s) (i : Nat) (c : Card) : Keeps s₀ (s.engineOrder i c) := by
  have r := LineEffect.refl (n := 0) (s := s)
  unfold State.engineOrder; split
  · exact h.line (r.takeBlocksOrder i c)
  · exact h.line (r.loadGreetingOrder i c)
  · exact h.line (r.unloadGreetingOrder i c)
  · exact h.line (r.collectOrder i c)
  · exact h.line (r.discardOrder i c)
  · exact h.setClockOrder i c
  · exact h.clearLineOrder i c
  · exact h.unknownOrder _ _

theorem Keeps.taking (h : Keeps s₀ s) (t : TableId) (i : Nat) : Keeps s₀ (s.taking t i) := by
  cases t with
  | line n => exact h.line (LineEffect.refl.taking (n := n) i)
  | engine => exact h.line (LineEffect.refl.takingEngine (n := 0) i)

theorem Keeps.carryOut (h : Keeps s₀ s) (v : Volts) (t : TableId) (i : Nat) (c : Card) : Keeps s₀ (s.carryOut v t i c) := by
  cases t with
  | line n => exact h.line (LineEffect.refl.lineOrder (n := n) _ i c)
  | engine => exact h.engineOrder i c

theorem Keeps.onTable (h : Keeps s₀ s) (t : TableId) (f : OrderTable → OrderTable)
    (hf : ∀ tb, (f tb).cards.length = tb.cards.length := by exact fun _ => rfl) : Keeps s₀ (s.onTable t f) := by
  cases t with
  | line n => exact h.line (LineEffect.refl.onTable (n := n) f hf)
  | engine => exact h.trans (.of_rest rfl rfl rfl rfl rfl)

/-! ### The making of a table's list -/

@[simp] theorem OrderTable.cards_readHand (t : OrderTable) (i : Nat) : (t.readHand i).cards = t.cards := by
  unfold OrderTable.readHand; repeat' split
  all_goals rfl

@[simp] theorem OrderTable.lastTaken_readHand (t : OrderTable) (i : Nat) : (t.readHand i).lastTaken = t.lastTaken := by
  unfold OrderTable.readHand; repeat' split
  all_goals rfl

@[simp] theorem OrderTable.cards_readNumber (t : OrderTable) (i : Nat) : (t.readNumber i).cards = t.cards := by
  unfold OrderTable.readNumber; split <;> rfl

@[simp] theorem OrderTable.lastTaken_readNumber (t : OrderTable) (i : Nat) : (t.readNumber i).lastTaken = t.lastTaken := by
  unfold OrderTable.readNumber; split <;> rfl

/-- Where nothing has been read of the cards, the list is made of the cards as they stand. -/
theorem OrderTable.readOf_fresh {t : OrderTable} (h : t.listed = .reading []) (i : Nat) : t.readOf i = none := by
  simp [OrderTable.readOf, h]

/-- A hand word read is kept as it was read, and the others are not touched. -/
theorem OrderTable.readOf_readHand (t : OrderTable) {reads : List CardRead} (h : t.listed = .reading reads) {i : Nat}
    (hi : i < t.cards.length) (hr : t.readOf i = none) (j : Nat) :
    (t.readHand i).readOf j = if j = i then some ⟨i, decide (t.hand i = .posted), none⟩ else t.readOf j := by
  have e : t.readHand i = { t with listed := .reading (⟨i, decide (t.hand i = .posted), none⟩ :: reads) } := by
    simp [OrderTable.readHand, h, hi, hr]
  by_cases hj : j = i
  · simp [e, OrderTable.readOf, hj]
  · simp [e, OrderTable.readOf, h, hj, Ne.symm hj]

/-- An update of a table is what it makes of the table as it stands. -/
theorem State.onTable_congr (s : State) (T : TableId) {f g : OrderTable → OrderTable} (h : f (s.table T) = g (s.table T)) :
    s.onTable T f = s.onTable T g := by
  cases T with
  | line n => simp only [State.onTable, State.table] at *; simp only [State.onLine, h]
  | engine => simp only [State.onTable, State.table] at *; rw [h]

/-- Everything the coming of the sweep to a table's next order can do (R173, R174): the order of the card that is due is carried out, or a
card found FREE is passed by. -/
theorem State.takeNext_cases (s : State) (v : Volts) (t : TableId) :
    (∃ f : OrderTable → OrderTable, s.takeNext v t = s.onTable t f ∧ ∀ tb, (f tb).cards = tb.cards ∧ (f tb).lastTaken = tb.lastTaken) ∨
    ∃ i, (s.table t).comesTo i = true ∧ s.takeNext v t = s.commit ((s.taking t i).carryOut v t i (s.card t i)) := by
  unfold State.takeNext; split
  · exact .inl ⟨_, rfl, fun _ => ⟨rfl, rfl⟩⟩
  next i _ =>
    split
    next h => exact .inr ⟨i, h, rfl⟩
    next => exact .inl ⟨_, rfl, fun tb => by split <;> exact ⟨rfl, rfl⟩⟩

theorem Keeps.takeNext (h : Keeps s₀ s) (v : Volts) (t : TableId) : Keeps s₀ (s.takeNext v t) := by
  obtain ⟨f, e, k⟩ | ⟨i, -, e⟩ := s.takeNext_cases v t <;> rw [e]
  · exact h.onTable t f fun tb => by rw [(k tb).1]
  · exact h.trans (Keeps.commit ((Keeps.refl.taking t i).carryOut v t i _))

/-! The units of a sweep pass one after another, and a list made is fixed. -/

@[simp] theorem State.sweepUnits_nil (s : State) (v : Volts) : s.sweepUnits v [] = s := rfl

@[simp] theorem State.sweepUnits_cons (s : State) (v : Volts) (u : SweepUnit) (us : List SweepUnit) :
    s.sweepUnits v (u :: us) = (State.sweepUnit v s u).sweepUnits v us := rfl

theorem State.sweepUnits_append (s : State) (v : Volts) (p q : List SweepUnit) :
    s.sweepUnits v (p ++ q) = (s.sweepUnits v p).sweepUnits v q := List.foldl_append ..

@[simp] theorem OrderTable.listing_made (tb : OrderTable) (ws is : List Nat) : { tb with listed := .made ws is }.listing = is := rfl

@[simp] theorem OrderTable.waiting_made (tb : OrderTable) (ws is : List Nat) : { tb with listed := .made ws is }.waiting = ws := rfl

@[simp] theorem OrderTable.listing_make (tb : OrderTable) : tb.make.listing = tb.listing := rfl

@[simp] theorem OrderTable.waiting_make (tb : OrderTable) : tb.make.waiting = tb.waiting := rfl

@[simp] theorem OrderTable.waiting_pass (tb : OrderTable) : tb.pass.waiting = tb.waiting := rfl

@[simp] theorem OrderTable.waiting_take (tb : OrderTable) (i : Nat) : (tb.take i).waiting = tb.waiting ++ [i] := rfl

@[simp] theorem OrderTable.waiting_handOver (tb : OrderTable) : tb.handOver.waiting = tb.waiting.tail := rfl

theorem Keeps.ackOnce (h : Keeps s₀ s) (t : TableId) : Keeps s₀ (s.ackOnce t) := by
  unfold State.ackOnce; split
  · exact h
  · refine h.trans (Keeps.commit ?_)
    have a : ∀ u : State, Keeps s u → Keeps s { u with sweep := { u.sweep with acked := t :: u.sweep.acked } } :=
      fun u k => k.trans (.of_rest rfl rfl rfl rfl rfl)
    cases t with
    | line n => exact a _ (Keeps.refl.onEv n EventWord.acknowledge)
    | engine => exact a _ (Keeps.refl.onHdr _)

theorem Keeps.repairEntry (h : Keeps s₀ s) (b : Nat) (o : Owner) : Keeps s₀ (s.repairEntry b o) :=
  (h.line (LineEffect.onStore (n := 0) .refl fun _ _ g => Store.good_mem g (Memory.wf_setWord g.canonical _ _))).trans
    (.of_rest rfl rfl rfl rfl rfl)

theorem LineEffect.returnDelivered {n : LineId} (h : LineEffect n s₀ s) (b : Nat) : LineEffect n s₀ (s.returnDelivered b n) :=
  ((h.freeBlock b).setDelivered _).removeEntries

theorem Keeps.judgeEntry (h : Keeps s₀ s) (b : Nat) (o : Owner) : Keeps s₀ (s.judgeEntry b o) := by
  unfold State.judgeEntry; repeat' split
  · exact h.line (LineEffect.refl.freeBlock (n := 0) b)
  next n => exact h.line (LineEffect.refl.returnDelivered (n := n) b)
  · exact h.repairEntry _ _
  · exact h.repairEntry _ _

theorem Keeps.visitBlock (h : Keeps s₀ s) (b : Nat) : Keeps s₀ (s.visitBlock b) := by
  unfold State.visitBlock; repeat' split
  · exact h
  · exact h
  · exact h.trans (Keeps.commit (Keeps.refl.judgeEntry _ _))

theorem Keeps.visitNext (h : Keeps s₀ s) : Keeps s₀ s.visitNext := by
  unfold State.visitNext; split
  · exact (h.visitBlock _).trans (.of_rest rfl rfl rfl rfl rfl)
  · exact h

theorem Keeps.returnsOnce (h : Keeps s₀ s) : Keeps s₀ s.returnsOnce := by
  unfold State.returnsOnce; split
  · exact h
  · have k := Keeps.foldl (fun _ b k => k.visitBlock b) h ((List.range s.store.blockCount).drop s.sweep.visited)
    refine k.trans (Keeps.commit (Keeps.line (n := 0) (.of_rest ?_ ?_ ?_ ?_ ?_) LineEffect.refl.criticalExits))
    all_goals rfl

theorem Keeps.sweepUnit (h : Keeps s₀ s) (v : Volts) (u : SweepUnit) : Keeps s₀ (State.sweepUnit v s u) := by
  cases u with
  | hand t i => exact h.onTable t (fun tb => tb.readHand i.val) fun tb => by simp
  | number t i => exact h.onTable t (fun tb => tb.readNumber i.val) fun tb => by simp
  | list t => exact h.onTable t _
  | take t => exact h.onTable t _ fun tb => tb.length_takeStep
  | card t => exact h.takeNext v t
  | ack t => exact h.ackOnce t
  | visit => exact h.visitNext
  | returns => exact h.returnsOnce

theorem Keeps.sweepUnits (h : Keeps s₀ s) (v : Volts) (units : List SweepUnit) : Keeps s₀ (s.sweepUnits v units) :=
  Keeps.foldl (fun _ u k => k.sweepUnit v u) h units

theorem Keeps.endSweep (h : Keeps s₀ s) : Keeps s₀ s.endSweep := by
  unfold State.endSweep; dsimp only
  have k : Keeps s ((allTables.foldl (fun s t => s.onTable t OrderTable.sweepEnd) s).onHdr fun h =>
      { h with sweepCount := h.sweepCount + 1 }) :=
    (Keeps.foldl (f := fun s t => s.onTable t OrderTable.sweepEnd) (fun _ t k => k.onTable t _) .refl allTables).onHdr _
  exact h.trans (Keeps.commit (k.trans (.of_rest rfl rfl rfl rfl rfl)))

theorem Keeps.sweepOnce (h : Keeps s₀ s) (v : Volts) (plan : SweepPlan) : Keeps s₀ (s.sweepOnce v plan) := by
  unfold State.sweepOnce; repeat' split
  · exact (h.sweepUnits v _).endSweep
  · exact h.sweepUnits v _
  · exact h

/-- The shape of an order command: it keeps the card untouched, or does the order on the card taken. -/
theorem takeOrder_next {s t : State} {T : TableId} {i : Nat} {codes : Nat → Bool} {order : State → Card → State}
    (h : takeOrder s T i codes order = .next t) :
    t = s ∨ s.takesCard T i codes = true ∧ t = s.commit (order (s.taking T i) (s.card T i)) := by
  unfold takeOrder done at h
  split at h
  next e => exact Or.inr ⟨e, (Host.Outcome.next.inj h).symm⟩
  next => exact Or.inl (Host.Outcome.next.inj h).symm

/-- An order command never stops. -/
theorem takeOrder_goes (s : State) (T : TableId) (i : Nat) (codes : Nat → Bool) (order : State → Card → State) :
    ∃ t, takeOrder s T i codes order = .next t := by
  unfold takeOrder; split
  · exact ⟨_, rfl⟩
  · exact ⟨_, rfl⟩

/-! ## Every Change Count stays even through a sweep -/

theorem State.CountsEven.onTable {s : State} (h : s.CountsEven) (t : TableId) (f : OrderTable → OrderTable) :
    (s.onTable t f).CountsEven := by
  cases t with
  | line n =>
    refine ⟨h.1, fun m => ?_, h.2.2⟩
    simp only [State.onTable]
    rw [State.line_onLine]
    split
    · exact h.2.1 n
    · exact h.2.1 m
  | engine => exact h

theorem State.CountsEven.takeNext {s : State} (h : s.CountsEven) (v : Volts) (t : TableId) : (s.takeNext v t).CountsEven := by
  obtain ⟨f, e, -⟩ | ⟨i, -, e⟩ := s.takeNext_cases v t <;> rw [e]
  · exact h.onTable t f
  · exact h.commit _

theorem State.CountsEven.ackOnce {s : State} (h : s.CountsEven) (t : TableId) : (s.ackOnce t).CountsEven := by
  unfold State.ackOnce; split
  · exact h
  · exact h.commit _

theorem State.CountsEven.visitBlock {s : State} (h : s.CountsEven) (b : Nat) : (s.visitBlock b).CountsEven := by
  unfold State.visitBlock; repeat' split
  · exact h
  · exact h
  · exact h.commit _

theorem State.CountsEven.foldl {α : Type} {f : State → α → State} (hf : ∀ s a, s.CountsEven → (f s a).CountsEven) {s : State}
    (h : s.CountsEven) (xs : List α) : (xs.foldl f s).CountsEven := by
  induction xs generalizing s with
  | nil => exact h
  | cons x xs ih => exact ih (hf s x h)

theorem State.CountsEven.visitNext {s : State} (h : s.CountsEven) : s.visitNext.CountsEven := by
  unfold State.visitNext; split
  · exact h.visitBlock _
  · exact h

theorem State.CountsEven.returnsOnce {s : State} (h : s.CountsEven) : s.returnsOnce.CountsEven := by
  unfold State.returnsOnce; split
  · exact h
  · exact (State.CountsEven.foldl (fun _ b k => k.visitBlock b) h _).commit _

theorem State.CountsEven.sweepUnit {s : State} (h : s.CountsEven) (v : Volts) (u : SweepUnit) :
    (State.sweepUnit v s u).CountsEven := by
  cases u with
  | hand t i => exact h.onTable t _
  | number t i => exact h.onTable t _
  | list t => exact h.onTable t _
  | take t => exact h.onTable t _
  | card t => exact h.takeNext v t
  | ack t => exact h.ackOnce t
  | visit => exact h.visitNext
  | returns => exact h.returnsOnce

theorem State.CountsEven.sweepUnits {s : State} (h : s.CountsEven) (v : Volts) (units : List SweepUnit) :
    (s.sweepUnits v units).CountsEven := State.CountsEven.foldl (fun _ u k => k.sweepUnit v u) h units

theorem State.CountsEven.sweepOnce {s : State} (h : s.CountsEven) (v : Volts) (plan : SweepPlan) :
    (s.sweepOnce v plan).CountsEven := by
  unfold State.sweepOnce; repeat' split
  · exact (h.sweepUnits v _).commit _
  · exact h.sweepUnits v _
  · exact h

end Sys2Proof.Machine
end

