-- ==== Sys2Proof/Laws/ClearEffects.lean ====
section
/-! SUPPORT. What the call-end sequence and the clear decision leave (`State.Cleared`), through what the teardowns keep (`Quiet`). -/

set_option Elab.async false

namespace Sys2Proof.Machine

/-- What framing, the exit tests and the freeing of blocks can change: the link of a line, the store, what is sent. -/
structure LinkOnly (s t : State) : Prop where
  lines : ∀ m, ∃ k : Link, t.line m = { s.line m with link := k }
  rest : ∃ ls st os, t = { s with lines := ls, store := st, outputs := os }

theorem LinkOnly.refl {s : State} : LinkOnly s s := ⟨fun m => ⟨(s.line m).link, rfl⟩, s.lines, s.store, s.outputs, rfl⟩

theorem LinkOnly.trans {s t u : State} (h : LinkOnly s t) (k : LinkOnly t u) : LinkOnly s u := by
  refine ⟨fun m => ?_, ?_⟩
  · obtain ⟨a, ha⟩ := h.lines m
    obtain ⟨b, hb⟩ := k.lines m
    exact ⟨b, by rw [hb, ha]⟩
  · obtain ⟨_, _, _, ha⟩ := h.rest
    obtain ⟨b, c, d, hb⟩ := k.rest
    exact ⟨b, c, d, by rw [hb, ha]⟩

theorem LinkOnly.onLink {s₀ s : State} (h : LinkOnly s₀ s) (m : LineId) (f : Link → Link) : LinkOnly s₀ (s.onLink m f) := by
  refine h.trans ⟨fun q => ?_, _, s.store, s.outputs, rfl⟩
  rw [State.onLink, State.line_onLine]
  split
  next e => subst e; exact ⟨_, rfl⟩
  next => exact ⟨(s.line q).link, rfl⟩

theorem LinkOnly.emit {s₀ s : State} (h : LinkOnly s₀ s) (o : Output) : LinkOnly s₀ (s.emit o) :=
  h.trans ⟨fun m => ⟨(s.line m).link, rfl⟩, s.lines, s.store, _, rfl⟩

theorem LinkOnly.onStore {s₀ s : State} (h : LinkOnly s₀ s) (f : Store → Store) : LinkOnly s₀ (s.onStore f) :=
  h.trans ⟨fun m => ⟨(s.line m).link, rfl⟩, s.lines, _, s.outputs, rfl⟩

theorem LinkOnly.beginFrame {s₀ s : State} (h : LinkOnly s₀ s) (m : LineId) (f : LinkFrame) : LinkOnly s₀ (s.beginFrame m f) :=
  (h.onLink m _).emit _

theorem LinkOnly.linkKick {s₀ s : State} (h : LinkOnly s₀ s) (m : LineId) : LinkOnly s₀ (s.linkKick m) := by
  unfold State.linkKick; dsimp only; repeat' split
  · exact h
  · exact (h.onLink m _).beginFrame m _
  · exact h
  · exact ((h.onLink m _).onLink m _).beginFrame m _
  · exact h.onLink m _
  · exact (h.onLink m _).beginFrame m _
  · exact h
  · exact h

theorem LinkOnly.sendReply {s₀ s : State} (h : LinkOnly s₀ s) (m : LineId) (f : LinkFrame) : LinkOnly s₀ (s.sendReply m f) := by
  unfold State.sendReply; split
  · exact h.onLink m _
  · exact (h.onLink m _).linkKick m

theorem LinkOnly.criticalExit {s₀ s : State} (h : LinkOnly s₀ s) (m : LineId) : LinkOnly s₀ (s.criticalExit m) := by
  unfold State.criticalExit; dsimp only; repeat' split
  · exact h.onLink m _
  · exact (h.onLink m _).sendReply m _
  · exact h

theorem LinkOnly.foldl {s₀ s : State} {α : Type} {f : State → α → State} (hf : ∀ s a, LinkOnly s₀ s → LinkOnly s₀ (f s a))
    (h : LinkOnly s₀ s) (xs : List α) : LinkOnly s₀ (xs.foldl f s) := by
  induction xs generalizing s with
  | nil => exact h
  | cons x xs ih => exact ih (hf s x h)

theorem LinkOnly.criticalExits {s₀ s : State} (h : LinkOnly s₀ s) : LinkOnly s₀ s.criticalExits :=
  LinkOnly.foldl (fun _ m k => k.criticalExit m) h allLines

theorem LinkOnly.freeBlocks {s₀ s : State} (h : LinkOnly s₀ s) (bs : List Nat) : LinkOnly s₀ (s.freeBlocks bs) :=
  LinkOnly.foldl (f := State.freeBlock) (fun _ b k => (k.onStore fun st => st.release b).criticalExits) h bs

/-- What the teardowns of the services keep of a line and of the engine. -/
structure Quiet (n : LineId) (s t : State) : Prop where
  call : (t.line n).call = (s.line n).call
  profile : (t.line n).profile = (s.line n).profile
  fm : (t.line n).fm = (s.line n).fm
  claim : (t.line n).claim = (s.line n).claim
  timer : (t.line n).ctl.stateTimer = (s.line n).ctl.stateTimer
  pumps : t.pumps = s.pumps
  tick : t.hdr.tick = s.hdr.tick

theorem Quiet.refl {n : LineId} {s : State} : Quiet n s s := ⟨rfl, rfl, rfl, rfl, rfl, rfl, rfl⟩

theorem Quiet.trans {n : LineId} {s t u : State} (h : Quiet n s t) (k : Quiet n t u) : Quiet n s u :=
  ⟨k.call.trans h.call, k.profile.trans h.profile, k.fm.trans h.fm, k.claim.trans h.claim, k.timer.trans h.timer,
    k.pumps.trans h.pumps, k.tick.trans h.tick⟩

theorem Quiet.of_lines {n : LineId} {s t : State} (e : t.lines = s.lines) (p : t.pumps = s.pumps) (k : t.hdr.tick = s.hdr.tick) :
    Quiet n s t := by
  have : t.line n = s.line n := by simp [State.line, e]
  exact ⟨by rw [this], by rw [this], by rw [this], by rw [this], by rw [this], p, k⟩

variable {n : LineId} {s₀ s : State}

/-- A change of some line that keeps call record, profile, faults, claim and state timer. -/
theorem Quiet.onLine (h : Quiet n s₀ s) (m : LineId) {f : Line → Line}
    (hf : ∀ l, (f l).call = l.call ∧ (f l).profile = l.profile ∧ (f l).fm = l.fm ∧ (f l).claim = l.claim ∧
      (f l).ctl.stateTimer = l.ctl.stateTimer := by exact fun _ => ⟨rfl, rfl, rfl, rfl, rfl⟩) : Quiet n s₀ (s.onLine m f) := by
  refine h.trans ?_
  have key : ∀ {α : Type} (π : Line → α), (∀ l, π (f l) = π l) → π ((s.onLine m f).line n) = π (s.line n) := by
    intro α π hπ
    rw [State.line_onLine]
    split
    next e => rw [hπ, e]
    next => rfl
  exact ⟨key Line.call fun l => (hf l).1, key Line.profile fun l => (hf l).2.1, key Line.fm fun l => (hf l).2.2.1,
    key Line.claim fun l => (hf l).2.2.2.1, key (fun l => l.ctl.stateTimer) fun l => (hf l).2.2.2.2, rfl, rfl⟩

theorem Quiet.onLink (h : Quiet n s₀ s) (m : LineId) (f : Link → Link) : Quiet n s₀ (s.onLink m f) := h.onLine m
theorem Quiet.onVoice (h : Quiet n s₀ s) (m : LineId) (f : Voice → Voice) : Quiet n s₀ (s.onVoice m f) := h.onLine m
theorem Quiet.onFax (h : Quiet n s₀ s) (m : LineId) (f : Fax → Fax) : Quiet n s₀ (s.onFax m f) := h.onLine m
theorem Quiet.onGrade (h : Quiet n s₀ s) (m : LineId) (f : Grade → Grade) : Quiet n s₀ (s.onGrade m f) := h.onLine m
theorem Quiet.raise (h : Quiet n s₀ s) (m : LineId) (e : LineEvent) : Quiet n s₀ (s.raise m e) := h.onLine m
theorem Quiet.onOpenEntry (h : Quiet n s₀ s) (m : LineId) (k : EntryKind) (f : Entry → Entry) :
    Quiet n s₀ (s.onOpenEntry m k f) := h.onLine m
theorem Quiet.raiseEngine (h : Quiet n s₀ s) (e : EngineEvent) : Quiet n s₀ (s.raiseEngine e) :=
  h.trans (.of_lines rfl rfl rfl)
theorem Quiet.emit (h : Quiet n s₀ s) (o : Output) : Quiet n s₀ (s.emit o) := h.trans (.of_lines rfl rfl rfl)
theorem Quiet.draw (h : Quiet n s₀ s) : Quiet n s₀ s.draw := h.trans (.of_lines rfl rfl rfl)
theorem Quiet.onStore (h : Quiet n s₀ s) (f : Store → Store) : Quiet n s₀ (s.onStore f) := h.trans (.of_lines rfl rfl rfl)
theorem Quiet.onSlot (h : Quiet n s₀ s) (g : SlotId) (f : Slot → Slot) : Quiet n s₀ (s.onSlot g f) :=
  h.trans (.of_lines rfl rfl rfl)
theorem Quiet.onMessage (h : Quiet n s₀ s) (m : EntryId) (f : Message → Message) : Quiet n s₀ (s.onMessage m f) :=
  h.trans (.of_lines rfl rfl rfl)
theorem Quiet.giveBlocks (h : Quiet n s₀ s) (bs : List Nat) (o : Owner) : Quiet n s₀ (s.giveBlocks bs o) := h.onStore _

theorem Quiet.answer (h : Quiet n s₀ s) (T : TableId) (i : Nat) (st : Status) (r : Nat) (fs : List Byte) :
    Quiet n s₀ (s.answer T i st r fs) := by
  refine h.trans ⟨by simp, by simp, by simp, by simp, by simp, by simp, ?_⟩
  cases T <;> rfl

theorem Quiet.foldl {α : Type} {f : State → α → State} (hf : ∀ s a, Quiet n s₀ s → Quiet n s₀ (f s a)) (h : Quiet n s₀ s)
    (xs : List α) : Quiet n s₀ (xs.foldl f s) := by
  induction xs generalizing s with
  | nil => exact h
  | cons x xs ih => exact ih (hf s x h)

theorem Quiet.linkOnly {t : State} (h : Quiet n s₀ s) (k : LinkOnly s t) : Quiet n s₀ t := by
  obtain ⟨l, e⟩ := k.lines n
  obtain ⟨_, _, _, r⟩ := k.rest
  exact h.trans ⟨by rw [e], by rw [e], by rw [e], by rw [e], by rw [e], by rw [r], by rw [r]⟩

theorem Quiet.criticalExit (h : Quiet n s₀ s) (m : LineId) : Quiet n s₀ (s.criticalExit m) := h.linkOnly (LinkOnly.refl.criticalExit m)

theorem Quiet.freeBlocks (h : Quiet n s₀ s) (bs : List Nat) : Quiet n s₀ (s.freeBlocks bs) := h.linkOnly (LinkOnly.refl.freeBlocks bs)

theorem Quiet.freeBlock (h : Quiet n s₀ s) (b : Nat) : Quiet n s₀ (s.freeBlock b) := h.freeBlocks [b]

theorem Quiet.removeEntries (h : Quiet n s₀ s) (m : LineId) : Quiet n s₀ (s.removeEntries m) := by
  unfold State.removeEntries; dsimp only; split
  · exact h
  · exact (h.onLine m).criticalExit m

theorem Quiet.closeData (h : Quiet n s₀ s) (m : LineId) : Quiet n s₀ (s.closeData m) := by
  unfold State.closeData; split
  · exact h
  · exact ((h.onOpenEntry m _ _).raise m _).removeEntries m

theorem Quiet.deliverData (h : Quiet n s₀ s) (m : LineId) : Quiet n s₀ (s.deliverData m) := by
  unfold State.deliverData; split
  · exact h
  · dsimp only; repeat' split
    · exact (((h.onStore _).onLine m).onOpenEntry m _ _).closeData m
    · exact ((h.onStore _).onLine m).onOpenEntry m _ _
    · exact ((h.onStore _).onLine m).onOpenEntry m _ _

theorem Quiet.deliverPage (h : Quiet n s₀ s) (m : LineId) : Quiet n s₀ (s.deliverPage m) := by
  unfold State.deliverPage; split
  · exact h
  · dsimp only; split
    · exact (((h.onLine m).onFax m _).draw).freeBlock _
    · exact ((((h.onLine m).onStore _).onLine m).onOpenEntry m _ _).draw

theorem Quiet.linkTeardown (h : Quiet n s₀ s) (o : CallOutcome) : Quiet n s₀ (s.linkTeardown n o) := by
  unfold State.linkTeardown; split
  · exact ((Quiet.foldl (fun _ c k => (k.giveBlocks _ _).answer _ _ _ _ _) (h.onLink n _) _).deliverData n).closeData n
  · exact h

theorem Quiet.returnPages (h : Quiet n s₀ s) (o : CallOutcome) : Quiet n s₀ (s.returnPages n o) :=
  Quiet.foldl (fun _ _ k => (k.answer _ _ _ _ _).draw) ((Quiet.foldl (fun _ _ k => k.giveBlocks _ _) h _).onFax n _) _

theorem Quiet.faxTeardown (h : Quiet n s₀ s) (o : CallOutcome) : Quiet n s₀ (s.faxTeardown n o) := by
  unfold State.faxTeardown; dsimp only; repeat' split
  · unfold State.faxSenderTeardown; split
    · exact h.onFax n _
    · exact (h.returnPages o).onFax n _
  · unfold State.faxReceiverTeardown; split
    · exact h.onFax n _
    · exact (((((h.deliverPage n).onOpenEntry n _ _).removeEntries n).onFax n _).raise n _).onFax n _
  · exact h

theorem Quiet.finishRecording (h : Quiet n s₀ s) (r : EndReason) : Quiet n s₀ (s.finishRecording n r) := by
  unfold State.finishRecording; dsimp only; repeat' split
  · exact h
  · exact ((h.onMessage _ _).onVoice n _).raise n _
  · exact (((h.onMessage _ _).onVoice n _).raise n _).answer _ _ _ _ _

theorem Quiet.slotPlayEnds (h : Quiet n s₀ s) (g : SlotId) : Quiet n s₀ (s.slotPlayEnds g) := by
  unfold State.slotPlayEnds; dsimp only; repeat' split
  · exact ((h.onSlot g _).freeBlocks _).answer _ _ _ _ _
  · exact (h.onSlot g _).freeBlocks _
  · exact h.onSlot g _

theorem Quiet.finishPlay (h : Quiet n s₀ s) (e : PlayEnd) (st : Status) (r : Nat) : Quiet n s₀ (s.finishPlay n e st r) := by
  have k : Quiet n s₀ (s.onVoice n fun v => { v with play := .none, playCard := none, playChain := [], playTotal := 0 }) :=
    h.onVoice n _
  unfold State.finishPlay; dsimp only
  generalize (s.onVoice n fun v => { v with play := .none, playCard := none, playChain := [], playTotal := 0 }) = t at *
  repeat' split
  · exact k
  · exact k.slotPlayEnds _
  · exact k.giveBlocks _ _
  · exact k.answer _ _ _ _ _
  · exact (k.slotPlayEnds _).answer _ _ _ _ _
  · exact (k.giveBlocks _ _).answer _ _ _ _ _

theorem Quiet.voiceTeardown (h : Quiet n s₀ s) (o : CallOutcome) : Quiet n s₀ (s.voiceTeardown n o) := by
  unfold State.voiceTeardown; dsimp only
  generalize (if o = .remoteCleared then EndReason.remote else .cleared) = r
  split
  · exact h.finishRecording r
  · exact (h.finishRecording r).finishPlay _ _ _

/-! ## Voice at the end of a call -/

/-- Two states in which line `n` has the same voice state. -/
abbrev SameVoice (n : LineId) (s t : State) : Prop := (t.line n).voice = (s.line n).voice

theorem SameVoice.freeBlocks (h : SameVoice n s₀ s) (bs : List Nat) : SameVoice n s₀ (s.freeBlocks bs) := by
  obtain ⟨l, e⟩ := ((LinkOnly.refl (s := s)).freeBlocks bs).lines n
  unfold SameVoice at *
  rw [e]; exact h

theorem SameVoice.answer (h : SameVoice n s₀ s) (T : TableId) (i : Nat) (st : Status) (r : Nat) (fs : List Byte) :
    SameVoice n s₀ (s.answer T i st r fs) := by unfold SameVoice at *; simpa using h

theorem SameVoice.slotPlayEnds (h : SameVoice n s₀ s) (g : SlotId) : SameVoice n s₀ (s.slotPlayEnds g) := by
  have k : ∀ f, SameVoice n s₀ (s.onSlot g f) := fun _ => h
  unfold State.slotPlayEnds; dsimp only; repeat' split
  · exact ((k _).freeBlocks _).answer _ _ _ _ _
  · exact (k _).freeBlocks _
  · exact k _

/-- A play ended leaves none in progress, and the recording as it was (R148). -/
theorem State.voice_finishPlay (s : State) (n : LineId) (e : PlayEnd) (st : Status) (r : Nat) :
    ((s.finishPlay n e st r).line n).voice =
      { (s.line n).voice with play := .none, playCard := none, playChain := [], playTotal := 0 } := by
  have e : ((s.onVoice n fun v => { v with play := .none, playCard := none, playChain := [], playTotal := 0 }).line n).voice =
      { (s.line n).voice with play := .none, playCard := none, playChain := [], playTotal := 0 } := by
    rw [State.line_onVoice_self]
  rw [← e]
  have k : SameVoice n (s.onVoice n fun v => { v with play := .none, playCard := none, playChain := [], playTotal := 0 })
      (s.onVoice n fun v => { v with play := .none, playCard := none, playChain := [], playTotal := 0 }) := rfl
  unfold State.finishPlay; dsimp only
  generalize (s.onVoice n fun v => { v with play := .none, playCard := none, playChain := [], playTotal := 0 }) = t at *
  have g : ∀ bs, SameVoice n t (t.giveBlocks bs .host) := fun _ => rfl
  repeat' split
  · exact k
  · exact k.slotPlayEnds _
  · exact g _
  · exact k.answer _ _ _ _ _
  · exact (k.slotPlayEnds _).answer _ _ _ _ _
  · exact (g _).answer _ _ _ _ _

/-- A recording ended leaves none in progress, and the play as it was (R142). -/
theorem State.voice_finishRecording (s : State) (n : LineId) (r : EndReason) :
    ((s.finishRecording n r).line n).voice.recording = none ∧
    ((s.finishRecording n r).line n).voice.play = (s.line n).voice.play := by
  unfold State.finishRecording; dsimp only; repeat' split
  all_goals simp_all

/-- The Voice Unit's teardown leaves no play and no recording (R152). -/
theorem State.voice_voiceTeardown (s : State) (n : LineId) (o : CallOutcome) :
    ((s.voiceTeardown n o).line n).voice.play = .none ∧ ((s.voiceTeardown n o).line n).voice.recording = none := by
  unfold State.voiceTeardown; dsimp only
  generalize (if o = .remoteCleared then EndReason.remote else .cleared) = r
  have k := State.voice_finishRecording s n r
  split
  next e => exact ⟨e, k.1⟩
  next => rw [State.voice_finishPlay]; exact ⟨rfl, k.1⟩

/-! ## The release of the pump (R64, R65) -/

/-- What grants and releases leave as it is. -/
structure PoolOnly (s t : State) : Prop where
  rest : ∃ ps q, t = { s with pumps := ps, queue := q }

theorem PoolOnly.refl {s : State} : PoolOnly s s := ⟨s.pumps, s.queue, rfl⟩

theorem PoolOnly.trans {s t u : State} (h : PoolOnly s t) (k : PoolOnly t u) : PoolOnly s u := by
  obtain ⟨_, _, h⟩ := h.rest
  obtain ⟨b, c, k⟩ := k.rest
  exact ⟨b, c, by rw [k, h]⟩

theorem PoolOnly.onPump {s₀ s : State} (h : PoolOnly s₀ s) (p : PumpId) (f : Pump → Pump) : PoolOnly s₀ (s.onPump p f) :=
  h.trans ⟨_, s.queue, rfl⟩

theorem PoolOnly.foldl {s₀ s : State} {α : Type} {f : State → α → State} (hf : ∀ s a, PoolOnly s₀ s → PoolOnly s₀ (f s a))
    (h : PoolOnly s₀ s) (xs : List α) : PoolOnly s₀ (xs.foldl f s) := by
  induction xs generalizing s with
  | nil => exact h
  | cons x xs ih => exact ih (hf s x h)

theorem PoolOnly.grantNext {s₀ s : State} (h : PoolOnly s₀ s) : PoolOnly s₀ s.grantNext := by
  unfold State.grantNext; split
  · exact h.trans ⟨_, _, rfl⟩
  · exact h

theorem PoolOnly.arbitrate {s₀ s : State} (h : PoolOnly s₀ s) : PoolOnly s₀ s.arbitrate :=
  PoolOnly.foldl (fun _ _ k => k.grantNext) h allPumps

theorem PoolOnly.line {s t : State} (h : PoolOnly s t) (n : LineId) : t.line n = s.line n := by
  obtain ⟨_, _, e⟩ := h.rest; rw [e]; rfl

theorem PoolOnly.hdr {s t : State} (h : PoolOnly s t) : t.hdr = s.hdr := by
  obtain ⟨_, _, e⟩ := h.rest; rw [e]

/-- No ATTACHED pump is held by line `n`. -/
def HoldsNone (n : LineId) (s : State) : Prop := ∀ p, (s.pump p).state = .attached → (s.pump p).line ≠ some n

theorem HoldsNone.grantNext (h : HoldsNone n s) : HoldsNone n s.grantNext := by
  unfold State.grantNext; split
  next p m _ _ =>
    intro q
    rw [State.pump_onPump]
    split
    · simp [Pump.inState]
    · exact h q
  next => exact h

theorem HoldsNone.arbitrate (h : HoldsNone n s) : HoldsNone n s.arbitrate := by
  unfold State.arbitrate
  generalize allPumps = xs
  induction xs generalizing s with
  | nil => exact h
  | cons x xs ih => exact ih h.grantNext

/-- The pumps ATTACHED to line `n` become FREE. -/
theorem holdsNone_free (n : LineId) (xs : List PumpId) (s : State)
    (h : ∀ p, p ∈ xs ∨ ((s.pump p).state = .attached → (s.pump p).line ≠ some n)) :
    HoldsNone n (xs.foldl (fun s p =>
      if (s.pump p).state = .attached ∧ (s.pump p).line = some n then s.onPump p fun _ => Pump.inState .free none else s) s) := by
  induction xs generalizing s with
  | nil => intro p; exact (h p).resolve_left (by simp)
  | cons x xs ih =>
    refine ih _ fun p => ?_
    by_cases e : p = x
    · right
      subst e
      dsimp only
      split
      · simp [Pump.inState]
      next k => exact fun a b => k ⟨a, b⟩
    · rcases h p with h | h
      · exact Or.inl ((List.mem_cons.mp h).resolve_left e)
      · right
        dsimp only
        split
        · rw [State.pump_onPump_ne _ e]; exact h
        · exact h

/-- What the release of a line's pump and claim leaves (R64, R65). -/
theorem State.releasePump_spec (s : State) (n : LineId) :
    (s.releasePump n).line n = { s.line n with claim := none, call := { (s.line n).call with pump := none } } ∧
    HoldsNone n (s.releasePump n) ∧ (s.releasePump n).hdr = s.hdr := by
  have d : (s.dropClaim n).line n = { s.line n with claim := none } ∧ (s.dropClaim n).hdr = s.hdr := by
    have k := PoolOnly.foldl (f := fun s p =>
      if (s.pump p).state = .settling ∧ (s.pump p).line = some n then s.onPump p fun q => { q with line := none } else s)
      (fun t p k => by split; exacts [k.onPump _ _, k])
      (PoolOnly.refl (s := { s with queue := s.queue.remove n }.onLine n fun l => { l with claim := none })) allPumps
    exact ⟨(k.line n).trans (State.line_onLine_self _ n _), k.hdr⟩
  have f := PoolOnly.foldl (f := fun s p =>
      if (s.pump p).state = .attached ∧ (s.pump p).line = some n then s.onPump p fun _ => Pump.inState .free none else s)
      (fun t p k => by split; exacts [k.onPump _ _, k]) (PoolOnly.refl (s := s.dropClaim n)) allPumps
  have g := holdsNone_free n allPumps (s.dropClaim n) (fun p => Or.inl (by fin_cases p <;> simp [allPumps]))
  unfold State.releasePump; dsimp only
  generalize (allPumps.foldl _ (s.dropClaim n)) = t at *
  refine ⟨?_, HoldsNone.arbitrate g, ?_⟩
  · rw [(PoolOnly.refl.arbitrate).line n, State.line_onCall_self, f.line n, d.1]
  · rw [(PoolOnly.refl.arbitrate).hdr, State.hdr_onCall, f.hdr, d.2]

/-! ## The clear decision -/

/-- The answers of a DIAL and an ANSWER card keep the rest of the line. -/
theorem State.answerCallCards_spec (s : State) (n : LineId) (o : CallOutcome) :
    (∃ tb ev a b, (s.answerCallCards n o).line n =
      { s.line n with table := tb, ev := ev, ctl := { (s.line n).ctl with dialCard := a, answerCard := b } }) ∧
    (s.answerCallCards n o).pumps = s.pumps ∧ (s.answerCallCards n o).hdr = s.hdr := by
  have ad : ∀ (y : State) st r, (∃ tb ev a, (y.answerDial n st r).line n =
      { y.line n with table := tb, ev := ev, ctl := { (y.line n).ctl with dialCard := a } }) ∧
      (y.answerDial n st r).pumps = y.pumps ∧ (y.answerDial n st r).hdr = y.hdr := by
    intro y st r; unfold State.answerDial; split
    · exact ⟨⟨_, _, _, rfl⟩, rfl, rfl⟩
    · exact ⟨⟨_, _, none, by rw [State.line_onCtl_self, State.line_answer_self]⟩, rfl, rfl⟩
  have aa : ∀ (y : State) st r, (∃ tb ev a, (y.answerAnswer n st r).line n =
      { y.line n with table := tb, ev := ev, ctl := { (y.line n).ctl with answerCard := a } }) ∧
      (y.answerAnswer n st r).pumps = y.pumps ∧ (y.answerAnswer n st r).hdr = y.hdr := by
    intro y st r; unfold State.answerAnswer; split
    · exact ⟨⟨_, _, _, rfl⟩, rfl, rfl⟩
    · exact ⟨⟨_, _, none, by rw [State.line_onCtl_self, State.line_answer_self]⟩, rfl, rfl⟩
  unfold State.answerCallCards; dsimp only
  split
  · obtain ⟨⟨a, b, c, h⟩, k⟩ := aa s _ _
    exact ⟨⟨a, b, (s.line n).ctl.dialCard, c, h⟩, k⟩
  · obtain ⟨⟨a, b, c, h⟩, k, k'⟩ := aa (s.answerDial n _ _) _ _
    obtain ⟨⟨a', b', c', h'⟩, j, j'⟩ := ad s _ _
    exact ⟨⟨a, b, c', c, by rw [h, h']⟩, k.trans j, k'.trans j'⟩

/-- The end of the call-end sequence, after the teardowns. -/
theorem State.callEnd_tail (t : State) (n : LineId) (o : CallOutcome) :
    (∃ ls, ((((t.stopUnits n).answerCallCards n o).onCall n fun c =>
      { c with tClear := ((t.stopUnits n).answerCallCards n o).hdr.tick }).raise n .callDown).line n = ls ∧
      ls.call = { (t.line n).call with service := .none, tClear := t.hdr.tick } ∧ ls.claim = (t.line n).claim ∧
      ls.profile = (t.line n).profile ∧ ls.fm = (t.line n).fm ∧ ls.ctl.stateTimer = (t.line n).ctl.stateTimer ∧
      ls.ev.bits.getLsbD 3 = true ∧ ls.voice = (t.line n).voice) ∧
    ((((t.stopUnits n).answerCallCards n o).onCall n fun c =>
      { c with tClear := ((t.stopUnits n).answerCallCards n o).hdr.tick }).raise n .callDown).pumps = t.pumps := by
  obtain ⟨⟨tb, ev, a, b, h⟩, hp, hk⟩ := State.answerCallCards_spec (t.stopUnits n) n o
  have x : (t.stopUnits n).line n = _ := State.line_onLine_self t n _
  rw [x] at h
  refine ⟨⟨_, rfl, ?_⟩, hp⟩
  rw [State.line_raise_self, State.line_onCall_self, h, hk]
  refine ⟨rfl, rfl, rfl, rfl, rfl, ?_, rfl⟩
  simp [EventWord.raise, LineEvent.bit, bitWord]

/-- What the call-end sequence leaves (R14). -/
theorem State.callEnd_spec (s : State) (n : LineId) (o : CallOutcome) :
    ((s.callEnd n o).line n).call =
      { (s.line n).call with pump := none, service := .none, tClear := s.hdr.tick } ∧
    ((s.callEnd n o).line n).claim = none ∧ ((s.callEnd n o).line n).profile = (s.line n).profile ∧
    ((s.callEnd n o).line n).fm = (s.line n).fm ∧
    ((s.callEnd n o).line n).ctl.stateTimer = (s.line n).ctl.stateTimer ∧
    HoldsNone n (s.callEnd n o) ∧ ((s.callEnd n o).line n).ev.bits.getLsbD 3 = true ∧
    ((s.callEnd n o).line n).voice.play = .none ∧ ((s.callEnd n o).line n).voice.recording = none := by
  obtain ⟨r1, r2, r3⟩ := State.releasePump_spec s n
  unfold State.callEnd; dsimp only
  generalize hr : (s.releasePump n).onGrade n Grade.ended = r
  have q := ((((Quiet.refl (n := n) (s := r)).linkTeardown o).faxTeardown o).voiceTeardown o)
  have v := State.voice_voiceTeardown ((r.linkTeardown n o).faxTeardown n o) n o
  generalize ((r.linkTeardown n o).faxTeardown n o).voiceTeardown n o = t at *
  obtain ⟨⟨ls, e, e1, e2, e3, e4, e5, e6, e7⟩, ep⟩ := State.callEnd_tail t n o
  have g : r.line n = { s.line n with
      claim := none, call := { (s.line n).call with pump := none }, grade := (s.line n).grade.ended } := by
    rw [← hr, State.line_onGrade_self, r1]
  have gk : r.hdr = s.hdr := by rw [← hr, State.hdr_onGrade, r3]
  have gp : ∀ p, r.pump p = (s.releasePump n).pump p := by intro p; rw [← hr, State.pump_onGrade]
  rw [e]
  refine ⟨?_, ?_, ?_, ?_, ?_, fun p => ?_, e6, e7 ▸ v.1, e7 ▸ v.2⟩
  · rw [e1, q.call, g, q.tick, gk]
  · rw [e2, q.claim, g]
  · rw [e3, q.profile, g]
  · rw [e4, q.fm, g]
  · rw [e5, q.timer, g]
  · have := r2 p
    rw [← gp p] at this
    simpa only [State.pump, ep, q.pumps] using this

/-- What a clear decision leaves (R13, R14), with the faults of the line as they were. -/
theorem State.clearDecision_both (s : State) (n : LineId) (o : CallOutcome) :
    State.Cleared n o s (s.clearDecision n o) ∧ ((s.clearDecision n o).line n).fm = (s.line n).fm := by
  have al := (LineEffect.refl (n := n) (s := s)).clearDecision o
  have e1 : ((s.closeWindow n).sendLinkClose n o).hdr.tick = s.hdr.tick ∧
      (((s.closeWindow n).sendLinkClose n o).line n).profile = (s.line n).profile ∧
      (((s.closeWindow n).sendLinkClose n o).line n).fm = (s.line n).fm ∧
      ∃ r, (((s.closeWindow n).sendLinkClose n o).line n).call = { (s.line n).call with caller := r } := by
    have a : (s.closeWindow n).hdr.tick = s.hdr.tick ∧ ((s.closeWindow n).line n).profile = (s.line n).profile ∧
        ((s.closeWindow n).line n).fm = (s.line n).fm ∧
        ∃ r, ((s.closeWindow n).line n).call = { (s.line n).call with caller := r } := by
      unfold State.closeWindow State.fileCaller; dsimp only; split
      · exact ⟨by simp, by simp, by simp, ⟨.damaged, [], [], []⟩, by simp⟩
      · exact ⟨by simp, by simp, by simp, (s.line n).call.caller, by simp⟩
    unfold State.sendLinkClose; split
    · exact a
    · exact a
  unfold State.clearDecision at *; dsimp only at *
  generalize (s.closeWindow n).sendLinkClose n o = t at *
  obtain ⟨a, b, c, d, e, f, g, h, i⟩ := State.callEnd_spec
    (((t.onCall n fun c => { c with lastOutcome := o }).enter n .clearing
      (.running (((t.onCall n fun c => { c with lastOutcome := o }).line n).profile.guardTime))).onCtl n fun c =>
      { c with
        declined := c.declined || decide ((s.line n).call.state = .alerting)
        declinedGap := if decide ((s.line n).call.state = .alerting) = true then .running 8000 else .stopped
        heldCarrierLoss := false
        loopMeasuring := false }) n o
  obtain ⟨e2, e3, e4, r, e5⟩ := e1
  refine ⟨⟨?_, ?_, b, f, g, h, i, ?_, al.events, al.aside⟩, ?_⟩
  · rw [a]; simp [State.enter, e2, e5]
  · rw [e]; simp [State.enter, e3]
  · rw [c]; simp [State.enter, e3]
  · rw [d]; simp [State.enter, e4]

/-- What a clear decision leaves (R13, R14). -/
theorem State.clearDecision_spec (s : State) (n : LineId) (o : CallOutcome) : State.Cleared n o s (s.clearDecision n o) :=
  (s.clearDecision_both n o).1

/-- A change of line `n` that keeps call record, profile and guard settings, before a clear decision. -/
theorem State.Cleared.before {n : LineId} {o : CallOutcome} {s u t : State} (h : State.Cleared n o u t)
    (hc : (u.line n).call = (s.line n).call) (hp : (u.line n).profile = (s.line n).profile) (hk : u.hdr.tick = s.hdr.tick)
    (he : (s.line n).ev.Risen (u.line n).ev) (ha : State.Aside n s u) : State.Cleared n o s t :=
  ⟨by rw [h.call, hc, hk], by rw [h.guardTime, hp], h.claim, h.pumps, h.down, h.play, h.recording, by rw [h.profile, hp],
    he.trans h.events, ha.trans h.others⟩

/-- A commit after a clear decision. -/
theorem State.Cleared.commit {n : LineId} {o : CallOutcome} {s t : State} (h : State.Cleared n o s t) :
    State.Cleared n o s (s.commit t) := by
  refine ⟨?_, ?_, ?_, fun p => h.pumps p, ?_, ?_, ?_, ?_, ?_, fun m hm => ?_⟩
  all_goals try (rw [State.line_commit])
  · exact h.call
  · exact h.guardTime
  · exact h.claim
  · exact h.down
  · exact h.play
  · exact h.recording
  · exact h.profile
  · exact h.events
  · obtain ⟨k, c, e⟩ := h.others m hm
    rw [commitLine, e]
    exact ⟨_, _, rfl⟩

/-- A fault after which the call cannot go on (R181 to R185). -/
theorem State.takeFault_spec (s : State) (n : LineId) (k : FaultKind) (d : FailDetail) (attempt : Bool)
    (h : (s.line n).takesFault attempt = true) : State.Faulted n k d s (s.takeFault n k d false attempt) := by
  have key : ∀ (u : State) (f : FaultRecord), (u.line n).call = (s.line n).call → (u.line n).profile = (s.line n).profile →
      u.hdr.tick = s.hdr.tick → (s.line n).ev.Risen (u.line n).ev → State.Aside n s u → (u.line n).fm = f →
      f.last = some ⟨k, d, (s.line n).applied k, s.hdr.tick⟩ →
      f.latch = (if (s.line n).applied k = .latch then some k else (s.line n).fm.latch) →
      f.retryCount = (s.line n).fm.retryCount + (if (s.line n).applied k = .retry then 1 else 0) →
      f.retryPending = (decide ((s.line n).applied k = .retry) || (s.line n).fm.retryPending) →
      ((s.line n).applied k ≠ .silent → (u.line n).ev.bits.getLsbD 12 = true) →
      State.Faulted n k d s (u.clearDecision n (.fault k)) := by
    intro u f hc hp hk he ha hf h1 h2 h3 h4 h5
    obtain ⟨c, cf⟩ := u.clearDecision_both n (.fault k)
    refine ⟨c.before hc hp hk he ha, ?_, ?_, ?_, ?_, fun x => ?_⟩
    · rw [cf, hf, h1]
    · rw [cf, hf, h2]
    · rw [cf, hf, h3]
    · rw [cf, hf, h4]
    · obtain ⟨b, c', e⟩ := c.events
      rw [e]; simp [h5 x]
  have ha : ∀ f : Line → Line, State.Aside n s (s.onLine n f) := fun f m hm => ⟨_, _, State.line_onLine_ne s hm f⟩
  have ha2 : ∀ (f g : Line → Line), State.Aside n s ((s.onLine n f).onLine n g) := fun f g =>
    (ha f).trans fun m hm => ⟨_, _, State.line_onLine_ne _ hm g⟩
  have ha3 : ∀ (f g h : Line → Line), State.Aside n s (((s.onLine n f).onLine n g).onLine n h) := fun f g h =>
    (ha2 f g).trans fun m hm => ⟨_, _, State.line_onLine_ne _ hm h⟩
  have r := EventWord.Risen.refl (w := (s.line n).ev)
  unfold State.takeFault; simp only [h, if_true]
  generalize hp : appliedPolicy ((s.line n).profile.policy k) (s.line n).call.direction (s.line n).fm.retryCount
      (s.line n).profile.retryLimit = p
  have hp' : (s.line n).applied k = p := hp
  cases p <;> simp only [reduceCtorEq, if_false, if_true]
  · refine key _ _ ?_ ?_ ?_ ?_ (ha3 _ _ _) rfl ?_ ?_ ?_ ?_ ?_ <;>
      simp [hp', State.onFm, State.raise, EventWord.raise, LineEvent.bit, bitWord]
    exact r.raise 12
  · refine key _ _ ?_ ?_ ?_ ?_ (ha3 _ _ _) rfl ?_ ?_ ?_ ?_ ?_ <;>
      simp [hp', State.onFm, State.raise, EventWord.raise, LineEvent.bit, bitWord]
    exact r.raise 12
  · refine key _ _ ?_ ?_ ?_ ?_ (ha2 _ _) rfl ?_ ?_ ?_ ?_ ?_ <;>
      simp [hp', State.onFm, State.raise, EventWord.raise, LineEvent.bit, bitWord]
    exact r.raise 12
  · refine key _ _ ?_ ?_ ?_ ?_ (ha _) rfl ?_ ?_ ?_ ?_ ?_ <;>
      simp [hp', State.onFm]
    exact r

end Sys2Proof.Machine
end

