-- ==== Sys2Proof/Laws/Orders.lean ====
section
/-! SUPPORT. What a short order leaves (`State.ShortOrder`, `State.ShortEngineOrder`): the answer, the other cards, the rest. -/

set_option Elab.async false

namespace Sys2Proof.Machine

theorem byteOf_toNat (v : Nat) : (byteOf v 0).toNat = v % 256 := by simp [byteOf]

theorem Card.byte_wordBytes_tick (v : Nat) : (byteOf v 0).toNat + 256 * (byteOf v 1).toNat = v % 65536 := by
  simp [byteOf]; omega

/-- The parts of an answer's body (R189). -/
theorem answerBody_parts (c : Card) (tick : Long) (st : Status) (r k : Nat) (fs : List Byte) (h : Hand) :
    (⟨h, answerBody c tick st r k fs⟩ : Card).word 2 = tick.toNat % 65536 ∧
    (⟨h, answerBody c tick st r k fs⟩ : Card).byte 4 = c.byte 4 ∧
    (⟨h, answerBody c tick st r k fs⟩ : Card).byte 5 = st.code ∧
    (⟨h, answerBody c tick st r k fs⟩ : Card).byte 6 = r % 256 ∧
    (⟨h, answerBody c tick st r k fs⟩ : Card).byte 7 = k % 256 ∧
    (answerBody c tick st r k fs).drop 6 = (fs ++ List.replicate 24 0).take 24 := by
  have e : answerBody c tick st r k fs = byteOf tick.toNat 0 :: byteOf tick.toNat 1 :: byteOf (c.byte 4) 0 ::
      byteOf st.code 0 :: byteOf r 0 :: byteOf k 0 :: (fs ++ List.replicate 24 0).take 24 := rfl
  rw [e]
  refine ⟨?_, ?_, ?_, ?_, ?_, rfl⟩
  · simp [Card.word, Card.byte, Card.byte_wordBytes_tick]
  · simpa [Card.byte, byteOf_toNat] using BitVec.isLt _
  · simp [Card.byte, byteOf_toNat]; cases st <;> decide
  · simp [Card.byte, byteOf_toNat]
  · simp [Card.byte, byteOf_toNat]

/-- The taking of a card leaves its body and the other cards as they were. -/
theorem State.card_taking (s : State) (t : TableId) (i j : Nat) :
    ((s.taking t i).card t j).body = (s.card t j).body ∧ (j ≠ i → (s.taking t i).card t j = s.card t j) := by
  unfold State.taking State.card
  rw [State.table_onTable, if_pos rfl, OrderTable.cards_taking]
  split
  next =>
    by_cases e : j = i
    · subst e
      refine ⟨?_, fun h => absurd rfl h⟩
      by_cases l : j < (s.table t).cards.length
      · simp [l]
      · rw [List.set_eq_of_length_le (by omega)]
    · simp [Ne.symm e]
  next => exact ⟨rfl, fun _ => rfl⟩

theorem State.length_taking (s : State) (t : TableId) (i : Nat) :
    ((s.taking t i).table t).cards.length = (s.table t).cards.length := by
  unfold State.taking
  rw [State.table_onTable, if_pos rfl, OrderTable.length_taking]

theorem State.card_answerWith_ne (s : State) (t : TableId) {i j : Nat} (h : j ≠ i) (st : Status) (r c : Nat) (fs : List Byte) :
    (s.answerWith t i st r c fs).card t j = s.card t j := by
  cases t <;>
    simp [State.answerWith, State.card, State.setCard, State.table_onTable, Ne.symm h]

/-- An answer, seen from a state with the same card and Tick. -/
theorem State.answered_of {s u : State} {T : TableId} {i : Nat} (h : i < (u.table T).cards.length) (st : Status)
    (r k : Nat) (fs : List Byte) (ht : u.hdr.tick = s.hdr.tick) :
    State.Answered T i st r k fs s (u.answerWith T i st r k fs) := by
  have a := State.card_answerWith h st r k fs
  obtain ⟨b1, -, b3, b4, b5, b6⟩ := answerBody_parts (u.card T i) u.hdr.tick st r k fs .answered
  refine ⟨by rw [a], by rw [a, b1, ht], by rw [a, b3], by rw [a, b4], by rw [a, b5], by rw [a]; exact b6, ?_⟩
  cases T with
  | line n => simp [State.answerWith, EventWord.raise, LineEvent.bit, bitWord]
  | engine => simp [State.answerWith, State.raiseEngine, EventWord.raise, EngineEvent.bit, bitWord]

/-- An answer keeps the order code (R189). -/
theorem State.code_answerWith {u : State} {T : TableId} {i : Nat} (h : i < (u.table T).cards.length) (st : Status)
    (r k : Nat) (fs : List Byte) : ((u.answerWith T i st r k fs).card T i).byte 4 = (u.card T i).byte 4 := by
  rw [State.card_answerWith h st r k fs]
  exact (answerBody_parts (u.card T i) u.hdr.tick st r k fs .answered).2.1

theorem State.Answered.commit {s u v : State} {T : TableId} {i : Nat} {st : Status} {r k : Nat} {fs : List Byte}
    (h : State.Answered T i st r k fs s u) : State.Answered T i st r k fs s (v.commit u) := by
  refine ⟨?_, ?_, ?_, ?_, ?_, ?_, ?_⟩
  all_goals try rw [State.card_commit]
  · exact h.hand
  · exact h.tick
  · exact h.status
  · exact h.reason
  · exact h.count
  · exact h.fields
  · have := h.event
    cases T with
    | line n => simpa [commitLine] using this
    | engine => exact this

/-- The taking of a card sets the last-taken number (R173). -/
theorem State.lastTaken_taking (s : State) (t : TableId) (i : Nat) :
    ((s.taking t i).table t).lastTaken = s.lastTakenWith t i := by
  unfold State.taking State.lastTakenWith
  rw [State.table_onTable, if_pos rfl, OrderTable.lastTaken_taking]
  rfl

/-- A short order of line `n` that changes the line by `f` (R173, R174, R189). -/
theorem State.shortOrder {s : State} {n : LineId} {i : Nat} {codes : Nat → Bool} (h : s.takesCard (.line n) i codes = true)
    (f : Line → Line) (st : Status) (r k : Nat) (fs : List Byte)
    (hf : ∀ l tb, f { l with table := tb } = { f l with table := tb } := by exact fun _ _ => rfl)
    (ht : ∀ l, (f l).table = l.table := by exact fun _ => rfl) :
    State.ShortOrder n i st r k fs (f (s.line n)) s
      (s.commit (((s.taking (.line n) i).onLine n f).answerWith (.line n) i st r k fs)) := by
  have tb : ∀ j, ((s.taking (.line n) i).onLine n f).card (.line n) j = (s.taking (.line n) i).card (.line n) j := by
    intro j; simp [State.card, State.table, ht]
  have len : i < (((s.taking (.line n) i).onLine n f).table (.line n)).cards.length := by
    have := State.takesCard_lt h
    rw [← State.length_taking s (.line n) i] at this
    simpa [State.table, ht] using this
  have ln : (s.taking (.line n) i).line n = { s.line n with table := ((s.taking (.line n) i).line n).table } := by
    simp [State.taking, State.onTable]
  have tk : OnlyLine n s (((s.taking (.line n) i).onLine n f).answerWith (.line n) i st r k fs) := by
    simp only [State.answerWith, State.setCard, State.taking, State.onTable, State.raise]
    exact (((OnlyLine.of_onLine _).onLine _).onLine _).onLine _
  have l2 : (((s.taking (.line n) i).onLine n f).answerWith (.line n) i st r k fs).line n =
      { f (s.line n) with
        table := (((s.taking (.line n) i).onLine n f).answerWith (.line n) i st r k fs).table (.line n)
        ev := (f (s.line n)).ev.raise 4 } := by
    simp only [State.answerWith, State.setCard, State.onTable, State.line_raise_self, State.line_onLine_self]
    rw [ln, hf]
    simp [State.table, LineEvent.bit, ht]
  refine ⟨State.Answered.commit (State.answered_of len st r k fs (by simp)), ?_, fun j hj => ?_, ?_, ?_, ?_⟩
  · rw [State.card_commit, State.code_answerWith len, tb, Card.byte, (State.card_taking s (.line n) i i).1]; rfl
  · rw [State.card_commit, State.card_answerWith_ne _ _ hj, tb, (State.card_taking s (.line n) i j).2 hj]
  · rw [State.table_commit, ← State.lastTaken_taking]
    simp [State.answerWith, State.setCard, State.onTable, State.table, ht]
  · rw [State.line_commit, commitLine, l2]; rfl
  · generalize ((s.taking (.line n) i).onLine n f).answerWith (.line n) i st r k fs = u at *
    refine ⟨u.table (.line n), (commitLine (s.line n) (u.line n)).changeCount, ?_⟩
    rw [tk.commit l2, State.line_onLine_self, l2]
    rfl

/-- A short engine order that leaves the state `u` before its answer (R173, R174, R189). -/
theorem State.shortEngineOrder {s u : State} {i : Nat} {codes : Nat → Bool} (h : s.takesCard .engine i codes = true)
    (st : Status) (r k : Nat) (fs : List Byte) (he : u.engTable = (s.taking .engine i).engTable) (hk : u.hdr.tick = s.hdr.tick)
    (hp : u.pending = s.pending) :
    State.ShortEngineOrder i st r k fs u s (s.commit (u.answerWith .engine i st r k fs)) := by
  have tb : ∀ j, u.card .engine j = (s.taking .engine i).card .engine j := by
    intro j; simp [State.card, State.table, he]
  have len : i < (u.table .engine).cards.length := by
    have := State.takesCard_lt h
    rw [← State.length_taking s .engine i] at this
    simpa [State.table, he] using this
  refine ⟨State.Answered.commit (State.answered_of len st r k fs hk), ?_, fun j hj => ?_, ?_, rfl, ?_⟩
  · rw [State.card_commit, State.code_answerWith len, tb, Card.byte, (State.card_taking s .engine i i).1]; rfl
  · rw [State.card_commit, State.card_answerWith_ne _ _ hj, tb, (State.card_taking s .engine i j).2 hj]
  · rw [← State.lastTaken_taking]
    show u.engTable.lastTaken = _
    rw [he]; rfl
  · exact State.uncounted_commit (t := u.answerWith .engine i st r k fs) hp

end Sys2Proof.Machine
end

