-- ==== Sys2Proof/Laws/Step.lean ====
section
/-! SUPPORT. What any command can do, said once: a command of a line has a line's effect, every command but a reset keeps what
`Keeps` says, and every command but a store access completes. -/

set_option Elab.async false

namespace Sys2Proof.Machine

/-- An order of line `n`. -/
theorem takeOrder_effect {s : State} {n : LineId} {i : Nat} {codes : Nat → Bool} {order : State → Card → State}
    (h : ∀ c, ∀ {u : State}, LineEffect n s u → LineEffect n s (order u c)) :
    ∃ t, takeOrder s (.line n) i codes order = .next t ∧ LineEffect n s t := by
  unfold takeOrder; split
  · exact ⟨_, rfl, (h _ (LineEffect.refl.taking i)).commit⟩
  · exact ⟨_, rfl, .refl⟩

/-- A command of line `n` completes with a line's effect. -/
theorem exec_line {c : Instr} {n : LineId} (h : lineOf c = some n) (s : State) :
    ∃ t, exec c s = .next t ∧ LineEffect n s t := by
  cases c with
  | enable m _ => cases h; exact takeOrder_effect fun _ _ k => by apply LineEffect.enableOrder; exact k
  | disable m _ => cases h; exact takeOrder_effect fun _ _ k => by apply LineEffect.disableOrder; exact k
  | dial m _ _ => cases h; exact takeOrder_effect fun _ _ k => by apply LineEffect.dialOrder; exact k
  | answer m _ _ => cases h; exact takeOrder_effect fun _ _ k => by apply LineEffect.answerOrder; exact k
  | hangup m _ => cases h; exact takeOrder_effect fun _ _ k => by apply LineEffect.hangupOrder; exact k
  | send m _ => cases h; exact takeOrder_effect fun _ _ k => by apply LineEffect.sendOrder; exact k
  | faxPages m _ => cases h; exact takeOrder_effect fun _ _ k => by apply LineEffect.faxPagesOrder; exact k
  | play m _ => cases h; exact takeOrder_effect fun _ _ k => by apply LineEffect.playOrder; exact k
  | record m _ => cases h; exact takeOrder_effect fun _ _ k => by apply LineEffect.recordOrder; exact k
  | stop m _ => cases h; exact takeOrder_effect fun _ _ k => by apply LineEffect.stopOrder; exact k
  | takeDigits m _ => cases h; exact takeOrder_effect fun _ _ k => by apply LineEffect.takeDigitsOrder; exact k
  | clearFault m _ => cases h; exact takeOrder_effect fun _ _ k => by apply LineEffect.clearFaultOrder; exact k
  | clearRetryCount m _ => cases h; exact takeOrder_effect fun _ _ k => by apply LineEffect.clearRetryCountOrder; exact k
  | ringVoltageOnset m => cases h; exact ⟨_, rfl, LineEffect.commit ((by apply LineEffect.closeWindow; exact .refl))⟩
  | ringCounted m _ => cases h; exact ⟨_, rfl, LineEffect.commit ((by apply LineEffect.ringCounted; exact .refl))⟩
  | ringGapExpiry m => cases h; exact ⟨_, rfl, LineEffect.commit ((by apply LineEffect.ringGap; exact .refl))⟩
  | callerBurstEnd m _ => cases h; exact ⟨_, rfl, LineEffect.commit ((by apply LineEffect.burstEnd; exact .refl))⟩
  | loopCurrentFall m => cases h; exact ⟨_, rfl, LineEffect.commit ((by apply LineEffect.loopFall; exact .refl))⟩
  | loopCurrentReturn m => cases h; exact ⟨_, rfl, LineEffect.commit ((by apply LineEffect.loopReturn; exact .refl))⟩
  | loopDropExpiry m => cases h; exact ⟨_, rfl, LineEffect.commit ((by apply LineEffect.loopDrop; exact .refl))⟩
  | guardTimeExpiry m => cases h; exact ⟨_, rfl, LineEffect.commit ((by apply LineEffect.guardExpiry; exact .refl))⟩
  | declinedRingGapExpiry m => cases h; exact ⟨_, rfl, LineEffect.commit ((by apply LineEffect.declinedGapExpiry; exact .refl))⟩
  | retryDelayExpiry m _ => cases h; exact ⟨_, rfl, LineEffect.commit ((by apply LineEffect.redial; exact .refl))⟩
  | dialToneWaitExpiry m => cases h; exact ⟨_, rfl, LineEffect.commit ((by apply LineEffect.dialToneWaitExpiry; exact .refl))⟩
  | progressToneOnset m _ => cases h; exact ⟨_, rfl, LineEffect.commit ((by apply LineEffect.progressToneOnset; exact .refl))⟩
  | progressToneCease m _ => cases h; exact ⟨_, rfl, LineEffect.commit ((by apply LineEffect.progressToneCease; exact .refl))⟩
  | dialToneAccepted m => cases h; exact ⟨_, rfl, LineEffect.commit ((by apply LineEffect.dialToneAccepted; exact .refl))⟩
  | wWaitExpiry m => cases h; exact ⟨_, rfl, LineEffect.commit ((by apply LineEffect.wWaitExpiry; exact .refl))⟩
  | toneOnEnd m => cases h; exact ⟨_, rfl, LineEffect.commit ((by apply LineEffect.toneOnEnd; exact .refl))⟩
  | toneGapEnd m => cases h; exact ⟨_, rfl, LineEffect.commit (.ite (fun _ => (by apply LineEffect.nextSymbol; exact .refl)) fun _ => .refl)⟩
  | pulseBreakEnd m => cases h; exact ⟨_, rfl, LineEffect.commit ((by apply LineEffect.pulseBreakEnd; exact .refl))⟩
  | pulseMakeEnd m => cases h; exact ⟨_, rfl, LineEffect.commit ((by apply LineEffect.pulseMakeEnd; exact .refl))⟩
  | interdigitPauseEnd m => cases h; exact ⟨_, rfl, LineEffect.commit (.ite (fun _ => (by apply LineEffect.nextSymbol; exact .refl)) fun _ => .refl)⟩
  | pauseEnd m => cases h; exact ⟨_, rfl, LineEffect.commit (.ite (fun _ => (by apply LineEffect.nextSymbol; exact .refl)) fun _ => .refl)⟩
  | flashEnd m => cases h; exact ⟨_, rfl, LineEffect.commit (.ite (fun _ => (by apply LineEffect.nextSymbol; exact LineEffect.onCtl .refl _)) fun _ => .refl)⟩
  | answerWaitExpiry m => cases h; exact ⟨_, rfl, LineEffect.commit (.ite (fun _ => (by apply LineEffect.clearDecision; exact .refl)) fun _ => .refl)⟩
  | answerToneOnset m => cases h; exact ⟨_, rfl, LineEffect.commit ((by apply LineEffect.onCtl; exact .refl))⟩
  | answerToneCease m => cases h; exact ⟨_, rfl, LineEffect.commit ((by apply LineEffect.onCtl; exact .refl))⟩
  | answerToneAccepted m => cases h; exact ⟨_, rfl, LineEffect.commit ((by apply LineEffect.answerToneAccepted; exact .refl))⟩
  | voicePathOpen m => cases h; exact ⟨_, rfl, LineEffect.commit ((by apply LineEffect.voicePathOpen; exact .refl))⟩
  | voiceFrameEnd m _ => cases h; exact ⟨_, rfl, LineEffect.commit ((by apply LineEffect.frameEnd; exact .refl))⟩
  | voiceSettleExpiry m => cases h; exact ⟨_, rfl, LineEffect.commit ((by apply LineEffect.voiceSettle; exact .refl))⟩
  | adaptiveListenExpiry m => cases h; exact ⟨_, rfl, LineEffect.commit ((by apply LineEffect.listenExpiry; exact .refl))⟩
  | faxCallingToneOnset m => cases h; exact ⟨_, rfl, LineEffect.commit ((by apply LineEffect.onCtl; exact .refl))⟩
  | faxCallingToneCease m _ => cases h; exact ⟨_, rfl, LineEffect.commit ((by apply LineEffect.faxToneCease; exact .refl))⟩
  | dataCallingToneOnset m => cases h; exact ⟨_, rfl, LineEffect.commit ((by apply LineEffect.onCtl; exact .refl))⟩
  | dataCallingToneCease m => cases h; exact ⟨_, rfl, LineEffect.commit ((by apply LineEffect.onCtl; exact .refl))⟩
  | dataCallingToneAccepted m => cases h; exact ⟨_, rfl, LineEffect.commit ((by apply LineEffect.dataToneAccepted; exact .refl))⟩
  | dtmfDigit m _ => cases h; exact ⟨_, rfl, LineEffect.commit ((by apply LineEffect.digitHeard; exact .refl))⟩
  | encodeSample m _ => cases h; exact ⟨_, rfl, LineEffect.commit ((by apply LineEffect.encodeSample; exact .refl))⟩
  | decodeSample m => cases h; exact ⟨_, rfl, LineEffect.commit ((by apply LineEffect.decodeSample; exact .refl))⟩
  | claimWaitExpiry m => cases h; exact ⟨_, rfl, LineEffect.commit ((by apply LineEffect.claimWaitExpiry; exact .refl))⟩
  | dataTrainingSuccess m _ _ _ => cases h; exact ⟨_, rfl, LineEffect.commit ((by apply LineEffect.dataTraining; exact .refl))⟩
  | faxTrainingSuccess m _ _ => cases h; exact ⟨_, rfl, LineEffect.commit ((by apply LineEffect.faxTraining; exact .refl))⟩
  | trainingServiceMismatch m => cases h; exact ⟨_, rfl, LineEffect.commit ((by apply LineEffect.trainingMismatch; exact .refl))⟩
  | trainingTimerExpiry m => cases h; exact ⟨_, rfl, LineEffect.commit (.ite (fun _ => (by apply LineEffect.fault; exact .refl)) fun _ => .refl)⟩
  | gradingWindow m _ _ => cases h; exact ⟨_, rfl, LineEffect.commit ((by apply LineEffect.window; exact .refl))⟩
  | shiftDone m => cases h; exact ⟨_, rfl, LineEffect.commit ((by apply LineEffect.shiftDone; exact .refl))⟩
  | shiftFailed m => cases h; exact ⟨_, rfl, LineEffect.commit (.ite (fun _ => (by apply LineEffect.beginRetrain; exact .refl)) fun _ => .refl)⟩
  | shiftAnswerExpiry m => cases h; exact ⟨_, rfl, LineEffect.commit (.ite (fun _ => (by apply LineEffect.beginRetrain; exact .refl)) fun _ => .refl)⟩
  | farRetrain m => cases h; exact ⟨_, rfl, LineEffect.commit ((by apply LineEffect.farRetrain; exact .refl))⟩
  | retrainCompletion m _ _ _ => cases h; exact ⟨_, rfl, LineEffect.commit ((by apply LineEffect.retrainDone; exact .refl))⟩
  | retrainAttemptExpiry a => cases h; exact ⟨_, rfl, LineEffect.commit ((by apply LineEffect.attemptFailed; exact .refl))⟩
  | retrainServiceMismatch a => cases h; exact ⟨_, rfl, LineEffect.commit ((by apply LineEffect.attemptFailed; exact .refl))⟩
  | carrierCease m => cases h; exact ⟨_, rfl, LineEffect.commit (.ite (fun _ => (by apply LineEffect.onHeldPump; exact .refl)) fun _ => .refl)⟩
  | carrierReturn m => cases h; exact ⟨_, rfl, LineEffect.commit ((by apply LineEffect.onHeldPump; exact .refl))⟩
  | carrierLossExpiry m => cases h; exact ⟨_, rfl, LineEffect.commit ((by apply LineEffect.carrierLoss; exact .refl))⟩
  | linkOpenRepeat m => cases h; exact ⟨_, rfl, LineEffect.commit ((by apply LineEffect.linkOpenRepeat; exact .refl))⟩
  | linkOpenExpiry m => cases h; exact ⟨_, rfl, LineEffect.commit (.ite (fun _ => (by apply LineEffect.fault; exact .refl)) fun _ => .refl)⟩
  | linkOpenFrame m _ => cases h; exact ⟨_, rfl, LineEffect.commit ((by apply LineEffect.runReceived; exact .refl))⟩
  | infoFrame m _ => cases h; exact ⟨_, rfl, LineEffect.commit ((by apply LineEffect.runReceived; exact .refl))⟩
  | receiptFrame m _ => cases h; exact ⟨_, rfl, LineEffect.commit ((by apply LineEffect.runReceived; exact .refl))⟩
  | rejectFrame m _ => cases h; exact ⟨_, rfl, LineEffect.commit ((by apply LineEffect.runReceived; exact .refl))⟩
  | holdFrame m _ => cases h; exact ⟨_, rfl, LineEffect.commit ((by apply LineEffect.runReceived; exact .refl))⟩
  | linkCloseFrame m _ => cases h; exact ⟨_, rfl, LineEffect.commit ((by apply LineEffect.runReceived; exact .refl))⟩
  | badFrame m _ => cases h; exact ⟨_, rfl, LineEffect.commit ((by apply LineEffect.runReceived; exact .refl))⟩
  | frameSent m => cases h; exact ⟨_, rfl, LineEffect.commit ((by apply LineEffect.frameSent; exact .refl))⟩
  | replyTimerExpiry m => cases h; exact ⟨_, rfl, LineEffect.commit ((by apply LineEffect.replyExpiry; exact .refl))⟩
  | holdTimerExpiry m => cases h; exact ⟨_, rfl, LineEffect.commit (.ite (fun _ => (by apply LineEffect.fault; exact .refl)) fun _ => .refl)⟩
  | deliveryIdleExpiry m => cases h; exact ⟨_, rfl, LineEffect.commit (.ite (fun _ => (by apply LineEffect.flush; exact .refl)) fun _ => .refl)⟩
  | offerFrame m _ => cases h; exact ⟨_, rfl, LineEffect.commit ((by apply LineEffect.offerReceived; exact .refl))⟩
  | choiceFrame m _ => cases h; exact ⟨_, rfl, LineEffect.commit ((by apply LineEffect.choiceReceived; exact .refl))⟩
  | checkPatternSent m => cases h; exact ⟨_, rfl, LineEffect.commit ((by apply LineEffect.patternSent; exact .refl))⟩
  | checkPatternResult m _ => cases h; exact ⟨_, rfl, LineEffect.commit ((by apply LineEffect.patternJudged; exact .refl))⟩
  | checkCarrierWaitExpiry m => cases h; exact ⟨_, rfl, LineEffect.commit ((by apply LineEffect.noPattern; exact .refl))⟩
  | readyFrame m => cases h; exact ⟨_, rfl, LineEffect.commit ((by apply LineEffect.ready; exact .refl))⟩
  | notReadyFrame m => cases h; exact ⟨_, rfl, LineEffect.commit ((by apply LineEffect.notReady; exact .refl))⟩
  | pageSent m => cases h; exact ⟨_, rfl, LineEffect.commit ((by apply LineEffect.pageSent; exact .refl))⟩
  | pageCarrierStart m => cases h; exact ⟨_, rfl, LineEffect.commit ((by apply LineEffect.pageStart; exact .refl))⟩
  | pageRow m _ _ => cases h; exact ⟨_, rfl, LineEffect.commit ((by apply LineEffect.rowReceived; exact .refl))⟩
  | pageCarrierCease m => cases h; exact ⟨_, rfl, LineEffect.commit ((by apply LineEffect.pageEnd; exact .refl))⟩
  | moreFrame m => cases h; exact ⟨_, rfl, LineEffect.commit ((by apply LineEffect.pageFrame; exact .refl))⟩
  | lastFrame m => cases h; exact ⟨_, rfl, LineEffect.commit ((by apply LineEffect.pageFrame; exact .refl))⟩
  | verdictFrame m _ _ _ => cases h; exact ⟨_, rfl, LineEffect.commit ((by apply LineEffect.verdictReceived; exact .refl))⟩
  | faxReleaseSent m => cases h; exact ⟨_, rfl, LineEffect.commit ((by apply LineEffect.releaseSent; exact .refl))⟩
  | releaseFrame m => cases h; exact ⟨_, rfl, LineEffect.commit ((by apply LineEffect.releaseReceived; exact .refl))⟩
  | faxReplyExpiry m => cases h; exact ⟨_, rfl, LineEffect.commit (.ite (fun _ => (by apply LineEffect.faxExpiry; exact .refl)) fun _ => .refl)⟩
  | callerBurstStart m _ => cases h; exact ⟨_, rfl, LineEffect.commit ((by apply LineEffect.burstStart; exact .refl))⟩
  | _ => simp [lineOf] at h

/-- An engine order, or one whose code no table knows. -/
theorem takeOrder_keeps {s : State} {T : TableId} {i : Nat} {codes : Nat → Bool} {order : State → Card → State}
    (h : ∀ c, ∀ {u : State}, Keeps s u → Keeps s (order u c)) : ∃ t, takeOrder s T i codes order = .next t ∧ Keeps s t := by
  unfold takeOrder; split
  · exact ⟨_, rfl, (h _ (Keeps.refl.taking T i)).commit⟩
  · exact ⟨_, rfl, .refl⟩

/-- A command that is neither a reset nor a store access at an odd offset completes and keeps what `Keeps` says. -/
theorem exec_keeps {c : Instr} (hr : ∀ k, c ≠ .engineReset k) (hc : ∀ v k, c ≠ .ctrlReset v k)
    (hw : ∀ o v, c = .hostStoreWrite o v → o.getLsbD 0 = false) (ho : ∀ o, c = .hostStoreRead o → o.getLsbD 0 = false)
    (s : State) : ∃ t, exec c s = .next t ∧ Keeps s t := by
  cases e : lineOf c with
  | some n =>
    obtain ⟨t, ht, k⟩ := exec_line e s
    exact ⟨t, ht, k.toKeeps⟩
  | none =>
    cases c with
    | engineReset k => exact absurd rfl (hr k)
    | ctrlReset v k => exact absurd rfl (hc v k)
    | ctrlEnableWrite v => exact ⟨_, rfl, Keeps.commit (.of_rest rfl rfl rfl rfl rfl)⟩
    | winaWrite v => exact ⟨_, rfl, Keeps.commit (.of_rest rfl rfl rfl rfl rfl)⟩
    | winbWrite v => exact ⟨_, rfl, Keeps.commit (.of_rest rfl rfl rfl rfl rfl)⟩
    | attnWrite v => exact ⟨_, rfl, Keeps.commit (Keeps.requestSweep .refl)⟩
    | statRead => exact ⟨_, rfl, Keeps.commit (.of_rest rfl rfl rfl rfl rfl)⟩
    | statWrite v => exact ⟨_, rfl, Keeps.commit .refl⟩
    | hostStoreWrite o v =>
      simp only [exec, execHostStoreWrite, hw o v rfl, Bool.false_eq_true, if_false]
      exact ⟨_, rfl, Keeps.commit (Keeps.hostWord .refl _ _)⟩
    | hostStoreRead o =>
      simp only [exec, execHostStoreRead, ho o rfl, Bool.false_eq_true, if_false]
      exact ⟨_, rfl, Keeps.commit (.of_rest rfl rfl rfl rfl rfl)⟩
    | tick => exact ⟨_, rfl, Keeps.commit (Keeps.tickOnce .refl)⟩
    | sweep v p => exact ⟨_, rfl, Keeps.sweepOnce .refl v p⟩
    | unknownOrder T i => exact takeOrder_keeps fun _ _ k => k.unknownOrder T i
    | takeBlocks i => exact takeOrder_keeps fun c _ k => k.line (LineEffect.takeBlocksOrder (n := 0) .refl _ c)
    | loadGreeting i => exact takeOrder_keeps fun c _ k => k.line (LineEffect.loadGreetingOrder (n := 0) .refl _ c)
    | unloadGreeting i => exact takeOrder_keeps fun c _ k => k.line (LineEffect.unloadGreetingOrder (n := 0) .refl _ c)
    | collectMessage i => exact takeOrder_keeps fun c _ k => k.line (LineEffect.collectOrder (n := 0) .refl _ c)
    | discardMessage i => exact takeOrder_keeps fun c _ k => k.line (LineEffect.discardOrder (n := 0) .refl _ c)
    | setClock i => exact takeOrder_keeps fun c _ k => k.setClockOrder _ c
    | clearLine i => exact takeOrder_keeps fun c _ k => k.clearLineOrder _ c
    | pumpSettleComplete p a b => exact ⟨_, rfl, Keeps.commit (Keeps.settleComplete .refl p a b)⟩
    | pumpSelfFault p => exact ⟨_, rfl, Keeps.commit (Keeps.selfFault .refl p)⟩
    | pulsePeriodEnd o => exact ⟨_, rfl, Keeps.commit (Keeps.pulseEnd .refl o)⟩
    | _ => simp [lineOf] at e

/-- Every command but a reset and a sweep is one event, so its bracketed updates are counted once (R170). -/
theorem exec_event {c : Instr} {s t : State} (hr : ∀ k, c ≠ .engineReset k) (hc : ∀ v k, c ≠ .ctrlReset v k)
    (hw : ∀ v p, c ≠ .sweep v p) (e : exec c s = .next t) : ∃ u, t = s.commit u := by
  have one : ∀ {u}, done s u = .next t → ∃ u, t = s.commit u := fun k => ⟨_, (Host.Outcome.next.inj k).symm⟩
  have order : ∀ {T i codes f}, takeOrder s T i codes f = .next t → ∃ u, t = s.commit u := fun k =>
    (takeOrder_next k).elim (fun x => ⟨s, by rw [State.commit_self]; exact x⟩) fun x => ⟨_, x.2⟩
  cases c with
  | engineReset k => exact absurd rfl (hr k)
  | ctrlReset v k => exact absurd rfl (hc v k)
  | sweep v p => exact absurd rfl (hw v p)
  | hostStoreWrite o v =>
    simp only [exec, execHostStoreWrite] at e
    split at e
    · exact nomatch e
    · exact one e
  | hostStoreRead o =>
    simp only [exec, execHostStoreRead] at e
    split at e
    · exact nomatch e
    · exact one e
  | _ =>
    first
    | exact one e
    | simp only [exec, execUnknownOrder, execEnable, execDisable, execDial, execAnswer, execHangup, execSend, execFaxPages, execPlay,
      execRecord, execStop, execTakeDigits, execClearFault, execClearRetryCount, execTakeBlocks, execLoadGreeting,
      execUnloadGreeting, execCollectMessage, execDiscardMessage, execSetClock, execClearLine] at e
      exact order e

end Sys2Proof.Machine
end

