-- ==== Sys2Proof/Laws/Outcomes.lean ====
section
/-! SUPPORT. How the relations that statements use (`Leads`, `Clears`, `Faults`, `State.Answered`, `State.ShortOrder`) follow from
what the operations do. -/

set_option Elab.async false

namespace Sys2Proof.Machine

theorem LineEffect.steady {n : LineId} {s t : State} (h : LineEffect n s t) : State.Steady s t :=
  by
    obtain ⟨e, k, c, r, x⟩ := h.hdr
    exact ⟨h.port, h.sweep, h.monitor, by rw [x]; exact r, ⟨k, c, by rw [x]⟩, h.outputs⟩

theorem LineEffect.tick {n : LineId} {s t : State} (h : LineEffect n s t) : t.hdr.tick = s.hdr.tick := by
  obtain ⟨_, _, _, _, e⟩ := h.hdr; rw [e]

theorem State.pending_of_uncounted {t u : State} (e : t.uncounted = u.uncounted) : t.pending = u.pending :=
  show t.uncounted.pending = u.uncounted.pending by rw [e]

/-- A command that is one event leads to what the event leaves. -/
theorem Leads.of_done {c : Instr} {s t u : State} (h : exec c s = done s t) (e : t.uncounted = u.uncounted)
    (hp : u.pending = s.pending := by rfl) : Leads c s u :=
  ⟨_, h, (State.uncounted_commit ((State.pending_of_uncounted e).trans hp)).trans e⟩

theorem State.onLine_congr {s : State} {n : LineId} {f g : Line → Line} (h : f (s.line n) = g (s.line n)) :
    s.onLine n f = s.onLine n g := by simp [State.onLine, h]

theorem Leads.of_next {c : Instr} {s : State} (h : exec c s = .next s) : Leads c s s := ⟨_, h, rfl⟩

/-! ## Clear decisions and faults -/

theorem State.Faulted.commit {n : LineId} {k : FaultKind} {d : FailDetail} {s t : State} (h : State.Faulted n k d s t) :
    State.Faulted n k d s (s.commit t) := by
  refine ⟨h.cleared.commit, ?_, ?_, ?_, ?_, ?_⟩
  all_goals rw [State.line_commit]
  · exact h.last
  · exact h.latch
  · exact h.retryCount
  · exact h.retryPending
  · exact h.event

/-- A change of line `n` that keeps call record, profile and fault record, before a fault. -/
theorem State.Faulted.before {n : LineId} {k : FaultKind} {d : FailDetail} {s u t : State} (h : State.Faulted n k d u t)
    (hc : (u.line n).call = (s.line n).call) (hp : (u.line n).profile = (s.line n).profile) (hk : u.hdr.tick = s.hdr.tick)
    (hf : (u.line n).fm = (s.line n).fm) (he : (s.line n).ev.Risen (u.line n).ev) (ha : State.Aside n s u) :
    State.Faulted n k d s t := by
  have ap : (u.line n).applied k = (s.line n).applied k := by simp [Line.applied, hc, hp, hf]
  refine ⟨h.cleared.before hc hp hk he ha, ?_, ?_, ?_, ?_, ?_⟩
  · rw [h.last, ap, hk]
  · rw [h.latch, ap, hf]
  · rw [h.retryCount, ap, hf]
  · rw [h.retryPending, ap, hf]
  · rw [← ap]; exact h.event

/-- A clear decision after a change of line `n` that keeps call record, profile and fault record. -/
theorem State.clearDecision_after {n : LineId} {s u : State} (hc : (u.line n).call = (s.line n).call)
    (hp : (u.line n).profile = (s.line n).profile) (hf : (u.line n).fm = (s.line n).fm) (l : LineEffect n s u) (o : CallOutcome) :
    State.Cleared n o s (u.clearDecision n o) ∧ ((u.clearDecision n o).line n).fm = (s.line n).fm := by
  have c := u.clearDecision_both n o
  exact ⟨c.1.before hc hp l.tick l.events l.aside, c.2.trans hf⟩

/-- An answer on the line's table after a clear decision. -/
theorem State.Cleared.answer {n : LineId} {o : CallOutcome} {s u : State} {i : Nat} {st : Status} {r : Nat} {fs : List Byte}
    (h : State.Cleared n o s u) : State.Cleared n o s (u.answer (.line n) i st r fs) := by
  have al : LineEffect n u (u.answer (.line n) i st r fs) := LineEffect.refl.answer ..
  refine ⟨?_, ?_, ?_, ?_, ?_, ?_, ?_, ?_, ?_, ?_⟩
  · have := h.call; simpa using this
  · have := h.guardTime; simpa using this
  · have := h.claim; simpa using this
  · have := h.pumps; simpa [State.answer, State.answerWith, State.setCard, State.onTable, State.raise] using this
  · have := h.down; obtain ⟨b, c, e⟩ := al.events; rw [e]; simp [this]
  · have := h.play; simpa using this
  · have := h.recording; simpa using this
  · have := h.profile; simpa using this
  · exact h.events.trans al.events
  · exact h.others.trans al.aside

theorem Clears.of_done {c : Instr} {n : LineId} {o : CallOutcome} {s u : State} (h : exec c s = done s (u.clearDecision n o))
    (hc : (u.line n).call = (s.line n).call) (hp : (u.line n).profile = (s.line n).profile)
    (hf : (u.line n).fm = (s.line n).fm) (l : LineEffect n s u) : Clears c n o s := by
  have k := State.clearDecision_after hc hp hf l o
  have l2 := l.clearDecision o
  generalize u.clearDecision n o = v at *
  exact ⟨_, h, k.1.commit, by rw [State.line_commit]; exact k.2, l2.commit.steady⟩

theorem Line.takesFault_of {l : Line} (h : l.call.state = .alerting ∨ l.call.state = .queued ∨ l.call.state.offHook = true) :
    l.takesFault false = true := by
  unfold Line.takesFault
  rcases h with h | h | h
  · rw [h]
  · rw [h]
  · revert h; cases l.call.state <;> simp [LineState.offHook]

theorem Faults.of_done {c : Instr} {n : LineId} {k : FaultKind} {d : FailDetail} {s u : State} {a : Bool}
    (h : exec c s = done s (u.takeFault n k d false a)) (ht : (u.line n).takesFault a = true)
    (hc : (u.line n).call = (s.line n).call) (hp : (u.line n).profile = (s.line n).profile)
    (hf : (u.line n).fm = (s.line n).fm) (l : LineEffect n s u) : Faults c n k d s := by
  have f := (State.takeFault_spec u n k d a ht).before hc hp l.tick hf l.events l.aside
  have l2 := l.takeFault k d false a
  generalize u.takeFault n k d false a = v at *
  exact ⟨_, h, f.commit, l2.commit.steady⟩

/-! ## Connection -/

/-- A DIAL or ANSWER card answered changes the line in its table, event word and the two card numbers alone. -/
theorem State.line_answerDial (s : State) (n : LineId) (st : Status) (r : Nat) :
    ((s.answerDial n st r).line n).call = (s.line n).call ∧ ((s.answerDial n st r).line n).ctl.stateTimer = (s.line n).ctl.stateTimer ∧
    ((s.answerDial n st r).line n).ctl.answerCard = (s.line n).ctl.answerCard ∧
    ((s.answerDial n st r).line n).ctl.dialCard = none ∧ (s.line n).ev.Risen ((s.answerDial n st r).line n).ev ∧
    LineEffect n s (s.answerDial n st r) := by
  have l : LineEffect n s (s.answerDial n st r) := LineEffect.refl.answerDial st r
  refine ⟨?_, ?_, ?_, ?_, l.events, l⟩
  all_goals unfold State.answerDial; split <;> simp_all [State.onCtl]

theorem State.line_answerAnswer (s : State) (n : LineId) (st : Status) (r : Nat) :
    ((s.answerAnswer n st r).line n).call = (s.line n).call ∧
    ((s.answerAnswer n st r).line n).ctl.stateTimer = (s.line n).ctl.stateTimer ∧
    ((s.answerAnswer n st r).line n).ctl.dialCard = (s.line n).ctl.dialCard ∧
    ((s.answerAnswer n st r).line n).ctl.answerCard = none ∧ (s.line n).ev.Risen ((s.answerAnswer n st r).line n).ev ∧
    LineEffect n s (s.answerAnswer n st r) := by
  have l : LineEffect n s (s.answerAnswer n st r) := LineEffect.refl.answerAnswer st r
  refine ⟨?_, ?_, ?_, ?_, l.events, l⟩
  all_goals unfold State.answerAnswer; split <;> simp_all [State.onCtl]

/-- What a change of the connecting line keeps, for its connection to read as from before the change. -/
structure BeforeConnect (n : LineId) (s u : State) : Prop extends LineEffect n s u where
  call : (u.line n).call = (s.line n).call
  dialCard : (u.line n).ctl.dialCard = (s.line n).ctl.dialCard
  answerCard : (u.line n).ctl.answerCard = (s.line n).ctl.answerCard
  fields : (u.line n).dialFields = (s.line n).dialFields
  day : u.hdr.dayClock = s.hdr.dayClock

theorem BeforeConnect.of_effect {n : LineId} {s u : State} (l : LineEffect n s u) (c : (u.line n).call = (s.line n).call)
    (d : (u.line n).ctl.dialCard = (s.line n).ctl.dialCard) (a : (u.line n).ctl.answerCard = (s.line n).ctl.answerCard)
    (f : (u.line n).dialFields = (s.line n).dialFields) : BeforeConnect n s u :=
  ⟨l, c, d, a, f, by obtain ⟨_, _, _, _, e⟩ := l.hdr; rw [e]⟩

/-- The call connects (R6, R7). -/
theorem State.connects {n : LineId} {s u : State} (b : BeforeConnect n s u) (v : Service) : State.Connects n v s (u.connect n v) := by
  have l := b.toLineEffect.connect v
  unfold State.connect
  dsimp only
  generalize hw : (((u.enter n .connected .stopped).onCall n fun c =>
    { c with
      service := v
      tConnect := if c.wasConnected then c.tConnect else (u.enter n .connected .stopped).hdr.tick
      dayConnect := if c.wasConnected then c.dayConnect else (u.enter n .connected .stopped).hdr.dayClock
      wasConnected := true
      lastOutcome := v.outcome }).raise n .callUp) = w
  have lw : LineEffect n s w := by rw [← hw]; exact ((b.toLineEffect.enter _ _).onCall).raise _
  have e : w.line n = { u.line n with
      ev := (u.line n).ev.raise 2
      ctl := { (u.line n).ctl with stateTimer := .stopped }
      call :=
        { (u.line n).call with
          state := .connected, service := v, lastOutcome := v.outcome, wasConnected := true
          tConnect := if (u.line n).call.wasConnected then (u.line n).call.tConnect else s.hdr.tick
          dayConnect := if (u.line n).call.wasConnected then (u.line n).call.dayConnect else s.hdr.dayClock } } := by
    rw [← hw]
    simp [State.enter, State.onCall, State.onCtl, State.raise, LineEvent.bit, b.day, b.tick]
  obtain ⟨d1, d2, d3, d4, d5, d6⟩ := w.line_answerDial n .done v.outcome.code
  obtain ⟨a1, a2, a3, a4, a5, a6⟩ := (w.answerDial n .done v.outcome.code).line_answerAnswer n .done v.outcome.code
  have la := (lw.trans d6).trans a6
  refine ⟨?_, ?_, ?_, fun i h1 h2 h3 => ⟨?_, ?_⟩, fun i h1 h2 h3 => ⟨?_, a4⟩, la.aside, la.steady⟩
  · rw [a1, d1, e, b.call]
  · rw [a2, d2, e]
  · obtain ⟨x, y, k⟩ := d5.trans a5
    rw [k, e]
    simp [EventWord.raise, bitWord]
  · have n2 : (w.answerDial n .done v.outcome.code).answerAnswer n .done v.outcome.code = w.answerDial n .done v.outcome.code := by
      unfold State.answerAnswer; rw [d3, e]; simp [b.answerCard, h2]
    rw [n2]
    have f : (w.line n).dialFields = (s.line n).dialFields := by rw [e, ← b.fields]; rfl
    have g : (w.line n).ctl.dialCard = some i := by rw [e]; exact b.dialCard.trans h1
    unfold State.answerDial
    simp only [g, f]
    have k := State.answered_of (s := s) (u := w) (T := .line n) (i := i) (by rw [lw.cards]; exact h3) .done v.outcome.code 0
      (s.line n).dialFields lw.tick
    refine ⟨?_, ?_, ?_, ?_, ?_, ?_, ?_⟩
    · simpa [State.card, State.table, State.onCtl, State.answer] using k.hand
    · simpa [State.card, State.table, State.onCtl, State.answer] using k.tick
    · simpa [State.card, State.table, State.onCtl, State.answer] using k.status
    · simpa [State.card, State.table, State.onCtl, State.answer] using k.reason
    · simpa [State.card, State.table, State.onCtl, State.answer] using k.count
    · simpa [State.card, State.table, State.onCtl, State.answer] using k.fields
    · simpa [State.card, State.table, State.onCtl, State.answer] using k.event
  · rw [a3, d4]
  · have n2 : w.answerDial n .done v.outcome.code = w := by
      unfold State.answerDial; rw [e]; simp [b.dialCard, h2]
    rw [n2]
    have f : (w.line n).answerFields = (s.line n).answerFields := by rw [e]; unfold Line.answerFields; rw [← b.call]
    have g : (w.line n).ctl.answerCard = some i := by rw [e]; exact b.answerCard.trans h1
    unfold State.answerAnswer
    simp only [g, f]
    have k := State.answered_of (s := s) (u := w) (T := .line n) (i := i) (by rw [lw.cards]; exact h3) .done v.outcome.code 0
      (s.line n).answerFields lw.tick
    refine ⟨?_, ?_, ?_, ?_, ?_, ?_, ?_⟩
    · simpa [State.card, State.table, State.onCtl, State.answer] using k.hand
    · simpa [State.card, State.table, State.onCtl, State.answer] using k.tick
    · simpa [State.card, State.table, State.onCtl, State.answer] using k.status
    · simpa [State.card, State.table, State.onCtl, State.answer] using k.reason
    · simpa [State.card, State.table, State.onCtl, State.answer] using k.count
    · simpa [State.card, State.table, State.onCtl, State.answer] using k.fields
    · simpa [State.card, State.table, State.onCtl, State.answer] using k.event

theorem State.Connects.commit {n : LineId} {v : Service} {s t : State} (h : State.Connects n v s t) :
    State.Connects n v s (s.commit t) := by
  refine ⟨?_, ?_, ?_, fun i h1 h2 h3 => ⟨(h.dial i h1 h2 h3).1.commit, ?_⟩, fun i h1 h2 h3 => ⟨(h.answer i h1 h2 h3).1.commit, ?_⟩,
    fun m hm => ?_, ?_⟩
  · rw [State.line_commit]; exact h.call
  · rw [State.line_commit]; exact h.timer
  · rw [State.line_commit]; exact h.up
  · rw [State.line_commit]; exact (h.dial i h1 h2 h3).2
  · rw [State.line_commit]; exact (h.answer i h1 h2 h3).2
  · obtain ⟨k, c, e⟩ := h.others m hm
    rw [State.line_commit, commitLine, e]
    exact ⟨_, _, rfl⟩
  · obtain ⟨p, w, m, e, ⟨k, c, x⟩, o⟩ := h.steady
    exact ⟨p, w, m, e, ⟨k, (s.commit t).hdr.changeCount, by simp only [State.commit]; rw [x]⟩, o⟩

/-! ## Taken cards -/

/-- The taking of a card changes nothing of its line but the table (R173). -/
theorem State.line_taking (s : State) (n : LineId) (i : Nat) :
    (s.taking (.line n) i).line n = { s.line n with table := (s.taking (.line n) i).table (.line n) } := by
  simp [State.taking, State.onTable, State.table]

theorem State.onLine_id (s : State) (n : LineId) : s.onLine n (fun l => l) = s := by
  simp [State.onLine, State.line]

/-- A short order that changes nothing but its card. -/
theorem State.shortOrder_same {s : State} {n : LineId} {i : Nat} {codes : Nat → Bool}
    (h : s.takesCard (.line n) i codes = true) (st : Status) (r k : Nat) (fs : List Byte) :
    State.ShortOrder n i st r k fs (s.line n) s (s.commit ((s.taking (.line n) i).answerWith (.line n) i st r k fs)) := by
  have := State.shortOrder h (fun l => l) st r k fs
  rwa [State.onLine_id] at this

/-- An answer in the event that takes its card, whatever the order did before to the line. -/
theorem State.answered_taken {n : LineId} {s u : State} {i : Nat} {codes : Nat → Bool} (h : s.takesCard (.line n) i codes = true)
    (l : LineEffect n s u) (st : Status) (r : Nat) (fs : List Byte) :
    State.Answered (.line n) i st r 0 fs s (s.commit (u.answer (.line n) i st r fs)) :=
  State.Answered.commit (State.answered_of (by rw [l.cards]; exact State.takesCard_lt h) st r 0 fs l.tick)

/-- An order command whose card is the next that the sweep takes. -/
theorem takeOrder_taken {s : State} {T : TableId} {i : Nat} {codes : Nat → Bool} {order : State → Card → State}
    (h : s.takesCard T i codes = true) : takeOrder s T i codes order = done s (order (s.taking T i) (s.card T i)) := by
  simp only [takeOrder, h, if_true]

end Sys2Proof.Machine
end

