-- ==== Sys2Proof/Tests/Slice0.lean ====
section
/-! SUPPORT. The model's own tests: the checks of WellFormed, worked values of the manual, and for each statement states and operands
that meet its hypotheses, clause by clause. -/

set_option Elab.async false

namespace Sys2Proof.Tests

open Sys2Proof.Machine

/-! ## The checks of WellFormed, each with a term it refuses -/

theorem test_wf_ctrl : Instr.wellFormed (.ctrlReset 2 .k128) = false ∧ Instr.wellFormed (.ctrlEnableWrite 1) = false := by decide

theorem test_wf_offsets : Instr.wellFormed (.hostStoreWrite 1 0) = false ∧ Instr.wellFormed (.hostStoreRead 0xFFF) = false := by decide

theorem test_wf_unknownOrder : Instr.wellFormed (.unknownOrder .engine 4) = false := by decide

theorem test_wf_voiceFrame : Instr.wellFormed (.voiceFrameEnd 0 (List.replicate 81 0)) = false := by decide

theorem test_wf_digit : Instr.wellFormed (.dtmfDigit 0 0x3A) = false := by decide

theorem test_wf_frames_of_another_kind :
    ([Instr.linkOpenFrame 0, .infoFrame 0, .rejectFrame 0, .holdFrame 0, .linkCloseFrame 0, .badFrame 0].all fun c =>
      (c (Wire.run (.receipt 0))).wellFormed == false) = true ∧
    Instr.wellFormed (.receiptFrame 0 (Wire.run (.reject 0))) = false := by decide +kernel

theorem test_wf_runs_with_flags : Instr.wellFormed (.badFrame 0 [0xA5]) = false ∧ Instr.wellFormed (.badFrame 0 []) = false := by
  decide +kernel

theorem test_wf_choice : Instr.wellFormed (.choiceFrame 0 ⟨0, false, 0, 0⟩) = false ∧
    Instr.wellFormed (.choiceFrame 0 ⟨1, false, 7, 0⟩) = false ∧ Instr.wellFormed (.choiceFrame 0 ⟨1, false, 0, 3⟩) = false := by decide

theorem test_wf_checkPattern : Instr.wellFormed (.checkPatternResult 0 (List.replicate 2701 0)) = false := by
  decide +kernel

theorem test_wf_verdict : Instr.wellFormed (.verdictFrame 0 .good 65536 0) = false ∧
    Instr.wellFormed (.verdictFrame 0 .good 0 65536) = false := by decide

theorem test_wf_retrainAttempt : Instr.wellFormed (.retrainAttemptExpiry ⟨0, 0⟩) = false ∧
    Instr.wellFormed (.retrainCompletion ⟨0, 8⟩ 14 0 0) = false ∧ Instr.wellFormed (.retrainServiceMismatch ⟨0, 8⟩) = false := by decide

/-! ## Values the manual works out -/

/-- The check of the text 123456789 (06 R98). -/
theorem test_crc : Wire.check [0x31, 0x32, 0x33, 0x34, 0x35, 0x36, 0x37, 0x38, 0x39] = 0x906E := by decide +kernel

/-- Samples 100, 90, 50 and 40 are coded in the bytes 0x71 and 0xA8 (08 section 8.2). -/
theorem test_four_samples :
    let a := Codec.encode ⟨0, 0⟩ 100
    let b := a.2.encode 90
    let c := b.2.encode 50
    let d := c.2.encode 40
    16 * a.1 + b.1 = 0x71 ∧ 16 * c.1 + d.1 = 0xA8 := by decide +kernel

/-- Measures of powers (05 R75). -/
theorem test_lg : lg 1 = 0 ∧ lg 5 = 36 ∧ lg 40 = 84 ∧ lg 300 = 130 ∧ lg 20000 = 227 ∧ lg 65535 = 255 := by decide +kernel

/-- Durations to the nearest 10 ms (02 R34), none of them a tie. -/
theorem test_nearest_ten : nearestTen 496 = 500 ∧ nearestTen 504 = 500 ∧ nearestTen 506 = 510 := by decide

/-- Thresholds of the rungs (05 R79): 32 at rung 1, 56 at rung 4, 136 at rung 14. -/
theorem test_thresholds : threshold 1 = 32 ∧ threshold 4 = 56 ∧ threshold 14 = 136 := by decide

/-- Block 37 lies in slice 26, at offset 0x400 (09 section 9.1). -/
theorem test_block_37 : blockAddr 37 = 2048 * 26 + 0x400 := by decide

/-! ## States for the witnesses -/

/-- RUNNING, a sweep running. -/
def live : State :=
  { State.reset with
    port := { State.reset.port with engineRunning := true }, sweep := { State.reset.sweep with running := true } }

/-- Line 0 as `f` makes it. -/
def lineWith (f : Line → Line) : State := live.onLine 0 f

/-- Line 0 in a state, with a service. -/
def lineIn (st : LineState) (v : Service := .none) : State :=
  lineWith fun l => { l with call := { l.call with state := st, service := v } }

/-- A card POSTED, with an order code and parameters from offset 6 on. -/
def posted (s : State) (t : TableId) (i code : Nat) (params : List Byte) : State :=
  s.setCard t i ⟨.posted, (wordBytes 1 ++ [BitVec.ofNat 8 code, 0] ++ params ++ List.replicate 26 0).take 30⟩

/-- An order posted on card 0 of line 0. -/
def ordered (s : State) (code : Nat) (params : List Byte := []) : State := posted s (.line 0) 0 code params

/-- An order posted on card 0 of the engine table. -/
def asked (s : State) (code : Nat) (params : List Byte := []) : State := posted s .engine 0 code params

/-- Pump 0 working for line 0 at an activity. -/
def pumped (st : LineState) (v : Service) (a : Activity) (f : Line → Line := id) : State :=
  (lineWith fun l => f { l with call := { l.call with state := st, service := v, pump := some 0 } }).onPump 0 fun _ =>
    { Pump.inState .attached (some 0) with activity := a }

/-- A one-block chain of a kind in the HOST block 0, with a fill and the first bytes of its payload. -/
def hosted (s : State) (kind : BlockKind) (payload : List Byte) (fill : Nat := payload.length) : State :=
  { s with
    store :=
      ⟨Memory.setBytes [] 0x4000 (wordBytes 65535 ++ wordBytes fill ++ [BitVec.ofNat 8 kind.code, 0, 0, 0] ++ payload),
        s.store.owners.set 0 .host, s.store.free.erase 0⟩ }

/-- Every pump FREE. -/
def pool (s : State) : State := { s with pumps := Vector.replicate 3 (Pump.inState .free none) }

/-- The owners and free stack of a store with some first owners, the other blocks HOST. -/
def owned (s : State) (owners : List Owner) (free : List Nat) : State :=
  { s with store := ⟨s.store.mem, owners ++ List.replicate (112 - owners.length) .host, free⟩ }

/-- Cards of a table TAKEN. -/
def held (s : State) (t : TableId) (is : List Nat) : State :=
  is.foldl (fun s i => s.setCard t i ⟨.taken, List.replicate 30 0⟩) s

/-- Whether a command answers a next state. -/
def goes (c : Instr) (s : State) : Bool := match exec c s with | .next _ => true | _ => false

theorem next_of_goes {c : Instr} {s : State} (h : goes c s = true) : ∃ t, exec c s = .next t := by
  unfold goes at h
  cases e : exec c s with
  | next t => exact ⟨t, rfl⟩
  | _ => simp [e] at h

theorem leads_of_goes {c : Instr} {s : State} (h : goes c s = true) : ∃ u, Leads c s u := by
  obtain ⟨t, e⟩ := next_of_goes h
  exact ⟨t, t, e, rfl⟩

theorem works_of {s : State} {n : LineId} {p : PumpId}
    (h : (s.line n).call.pump = some p ∧ (s.pump p).state = .attached ∧ (s.pump p).line = some n ∧
      (s.pump p).carrierLost = false) : s.Works n p := ⟨h.1, h.2.1, h.2.2.1, h.2.2.2⟩

/-- The law of long orders, its numbers bounded. -/
theorem long_of {s : State}
    (h : (∀ n, (∀ i ∈ (s.line n).longCards ++ (s.line n).table.waiting, (s.card (.line n) i).hand = .taken) ∧
        ((s.line n).longCards ++ (s.line n).table.waiting).Nodup) ∧
      (∀ i ∈ s.engTable.waiting, (s.card .engine i).hand = .taken ∧ ∀ g, (s.slot g).unloadCard ≠ some i) ∧ s.engTable.waiting.Nodup ∧
      (∀ g, ∀ i ∈ (s.slot g).unloadCard.toList, (s.card .engine i).hand = .taken) ∧
      ∀ g k, g ≠ k → ∀ i ∈ (s.slot g).unloadCard.toList, i ∉ (s.slot k).unloadCard.toList) : s.LongOrdersTaken := by
  obtain ⟨l, w, o, u, v⟩ := h
  refine ⟨fun n => (l n).1, fun n => (l n).2, w, o, fun g i e => u g i (by simp [e]), fun g k i a b => ?_⟩
  exact Decidable.byContradiction fun q => v g k q i (by simp [a]) (by simp [b])

/-- A store is in order when its first two blocks are `o` and FREE, the others HOST, and the free stack agrees. -/
theorem sound_of {s : State} (o : Owner) (m : Memory.wf s.store.mem = true)
    (w : s.store.owners = o :: .free :: List.replicate 110 .host) (f : s.store.free = if o = .free then [0, 1] else [1])
    (k : s.port.strap = .k128) : s.Sound := by
  have hosts : ∀ b : Nat, (List.replicate 110 Owner.host)[b]? ≠ some .free := fun b => by
    rw [List.getElem?_replicate]; split <;> simp
  have len : (List.replicate 110 Owner.host).length = 110 := List.length_replicate ..
  generalize List.replicate 110 Owner.host = rest at w hosts len
  refine ⟨m, ⟨?_, fun b => ?_⟩, ?_⟩
  · rw [f]; split <;> simp
  · rw [f, w]
    rcases b with _ | _ | b
    · by_cases h : o = .free <;> simp [h]
    · split <;> simp
    · have := hosts b
      split <;> simpa using this
  · unfold State.Fitted; rw [w, k]; simp [blocksFitted, len]

/-- A store is in order when its first block is RECV of line 0, the others HOST, and the free stack empty. -/
theorem sound_of_none {s : State} (m : Memory.wf s.store.mem = true) (w : s.store.owners = .recv 0 :: List.replicate 111 .host)
    (f : s.store.free = []) (k : s.port.strap = .k128) : s.Sound := by
  have hosts : ∀ b : Nat, (List.replicate 111 Owner.host)[b]? ≠ some .free := fun b => by
    rw [List.getElem?_replicate]; split <;> simp
  have len : (List.replicate 111 Owner.host).length = 111 := List.length_replicate ..
  generalize List.replicate 111 Owner.host = rest at w hosts len
  refine ⟨m, ⟨by simp [f], fun b => ?_⟩, ?_⟩
  · rw [f, w]
    rcases b with _ | b
    · simp
    · simpa using hosts b
  · unfold State.Fitted; rw [w, k]; simp [blocksFitted, len]

/-! ## Witnesses: the queue, the port, the window, the Clock and the sweep -/

theorem test_witness_StepRunsTheFrontCommand : State.reset.pending = [] := by decide +kernel

theorem test_witness_WellFormedCommandsComplete :
    Instr.wellFormed .tick = true ∧ (0xFFF : BitVec 12).getLsbD 0 = true := by decide

/-- A tick waiting in a state with its first block RECV. -/
def ticking : State := { owned live [.recv 0, .free] [1] with pending := [.tick] }

theorem ticking_goes : ∃ t, step ticking = .next t := by
  have h : (match step ticking with | .next _ => true | _ => false) = true := by decide +kernel
  cases e : step ticking with
  | next t => exact ⟨t, rfl⟩
  | _ => simp [e] at h

/-- Line 0 CONNECTED-DATA over pump 0, its RECV block and its open entry; line 1 ANSWERING, pump 1 settling for it; line 2 QUEUED with its
claim; line 3 CONNECTED-VOICE, playing slot 7 and recording into entry 31. A tick waits. -/
def busy : State :=
  let call := fun (l : Line) (st : LineState) (v : Service) (p : Option PumpId) =>
    { l with call := { l.call with state := st, service := v, pump := p } }
  { owned live [.recv 0] [] with
    pending := [.tick]
    queue := ⟨[], [2]⟩
    lines := #v[
      { call (live.line 0) .connected .data (some 0) with
        link := { (live.line 0).link with state := .up }, recvBlock := some 0
        delivered := [⟨.data, 0, 0, 0, [], 7, 0, .none, 0, false⟩] },
      { call (live.line 1) .answering .data none with claim := some ⟨.answer, .stopped⟩ },
      { call (live.line 2) .queued .fax none with claim := some ⟨.originate, .running 60000⟩ },
      { call (live.line 3) .connected .voice none with
        voice := { (live.line 3).voice with play := .slot 7, recording := some 31 } }]
    pumps := #v[Pump.inState .attached (some 0), Pump.inState .settling (some 1), Pump.inState .out none]
    slots := live.slots.set 7 ⟨.loaded, [(1, 8)], 16, 1, none⟩
    messages := live.messages.set 31 { Message.initial 0 with state := .recording, line := 3 } }

theorem busy_goes : ∃ t, step busy = .next t := by
  have h : (match step busy with | .next _ => true | _ => false) = true := by decide +kernel
  cases e : step busy with
  | next t => exact ⟨t, rfl⟩
  | _ => simp [e] at h

theorem test_witness_EveryStepKeepsPumpsInOrder : busy.PumpsInOrder ∧ ∃ t, step busy = .next t := by
  refine ⟨⟨?_, ?_, ?_, ?_, ?_, ?_, ?_, ?_, ?_, ?_, ?_, ?_, ?_⟩, busy_goes⟩ <;> (try simp only [State.serves, State.queued]) <;> decide +kernel

/-- Six long orders on line 0, one of each kind, and two withdrawing slots with their UNLOAD GREETING cards; two orders of line 0 and one of
the engine taken and waiting. A tick waits. -/
def waiting : State :=
  let s := held (held live (.line 0) [0, 1, 2, 3, 4, 5, 6, 7]) .engine [0, 1, 3]
  let s := s.onTable (.line 0) fun tb => { tb with listed := .made [7, 6] [] }
  let s := s.onTable .engine fun tb => { tb with listed := .made [1] [2] }
  let s := s.onLine 0 fun l => { l with
    ctl := { l.ctl with dialCard := some 0, answerCard := some 1 }
    link := { l.link with sendList := [⟨2, [(0, 9)], 0, 0⟩] }
    fax := { l.fax with orders := [⟨3, [.none], 0, 0⟩] }
    voice := { l.voice with play := .chain 0, playCard := some 4, recording := some 31, recKind := .host 5 } }
  { s with pending := [.tick], slots := (s.slots.set 0 ⟨.withdrawing, [], 0, 1, some 0⟩).set 7 ⟨.withdrawing, [], 0, 1, some 3⟩ }

theorem test_witness_EveryStepKeepsLongOrdersTaken : waiting.LongOrdersTaken ∧ ∃ t, step waiting = .next t := by
  refine ⟨long_of (by decide +kernel), ?_⟩
  have h : (match step waiting with | .next _ => true | _ => false) = true := by decide +kernel
  cases e : step waiting with
  | next t => exact ⟨t, rfl⟩
  | _ => simp [e] at h

theorem test_witness_EveryStepKeepsPlaysCounted : busy.PlaysInOrder ∧ ∃ t, step busy = .next t := by
  refine ⟨⟨?_, ?_, ?_, ?_, ?_⟩, busy_goes⟩ <;> (try unfold Line.opensInTraining) <;> decide +kernel

theorem test_witness_EveryStepKeepsRecordingsInOrder : busy.RecordingsInOrder ∧ ∃ t, step busy = .next t := by
  refine ⟨⟨?_, ?_, ?_, ?_, ?_⟩, busy_goes⟩ <;> (try unfold Line.opensInTraining) <;> decide +kernel

theorem test_witness_EveryStepKeepsReceivingInOrder : busy.ReceivingInOrder ∧ ∃ t, step busy = .next t := by
  have w : busy.store.owners = .recv 0 :: List.replicate 111 .host := by decide +kernel
  have hosts : ∀ (b : Nat) n, (List.replicate 111 Owner.host)[b]? ≠ some (.recv n) := fun b n => by
    rw [List.getElem?_replicate]; split <;> simp
  have first : (busy.line 0).recvBlock = some 0 := by decide +kernel
  generalize List.replicate 111 Owner.host = rest at w hosts
  refine ⟨⟨fun b n h => ?_, ?_, ?_, ?_, ?_, ?_, ?_, ?_, ?_, ?_, ?_, ?_, ?_, ?_⟩, busy_goes⟩
  · rw [w] at h
    rcases b with _ | b
    · simp at h; cases h; exact first
    · exact absurd (by simpa using h) (hosts b n)
  all_goals try simp only [Line.onData, Line.onPage, Line.opensInTraining]
  all_goals decide +kernel

theorem test_witness_EveryStepKeepsTheStoreInOrder : ticking.Sound ∧ ∃ t, step ticking = .next t :=
  ⟨sound_of (.recv 0) (by decide +kernel) (by decide +kernel) (by decide +kernel) (by decide +kernel), ticking_goes⟩

theorem test_witness_EveryStepKeepsChangeCountsEven : ticking.CountsEven ∧ ∃ t, step ticking = .next t :=
  ⟨by unfold State.CountsEven; decide +kernel, ticking_goes⟩

theorem test_witness_EveryStepKeepsTheBounds : ticking.Bounded ∧ ∃ t, step ticking = .next t := by
  have h : ∀ n, (ticking.line n).grade.acc ≤ 2560 ∧ (ticking.line n).grade.lastQ ≤ 160 ∧
      (ticking.line n).call.ringCount ≤ 65535 ∧ (ticking.line n).voice.digits.length ≤ 16 := by decide +kernel
  exact ⟨fun n => ⟨(h n).1, (h n).2.1, (h n).2.2.1, (h n).2.2.2⟩, ticking_goes⟩

theorem test_witness_ChangeCountsBracketEachEvent : (∀ k, Instr.tick ≠ .engineReset k) ∧ (∀ v k, Instr.tick ≠ .ctrlReset v k) ∧
    (∀ v p, Instr.tick ≠ .sweep v p) ∧ ∃ t, exec .tick live = .next t :=
  ⟨nofun, nofun, nofun, next_of_goes (by decide +kernel)⟩

theorem test_witness_LineCommandsStayOnTheirLine :
    lineOf (.loopCurrentFall 3) = some 3 ∧ ∃ t, exec (.loopCurrentFall 3) live = .next t :=
  ⟨by decide, next_of_goes (by decide +kernel)⟩

theorem test_witness_EngineResetLeaves : Memory.wf State.reset.store.mem = true ∧ 0x1D00 ≤ 0x1D00 ∧ 0x1CFF < 0x1D00 := by
  decide +kernel

theorem test_witness_PortRegistersAndPins_pins : State.reset.port.ieA = false ∧ State.reset.port.ieB = false ∧ 4 ≤ 4 ∧ 4 ≤ 15 := by
  decide +kernel

/-- The ends of the ranges of the read side, with a fitted store of 112 blocks. -/
theorem test_witness_HostReads_fields :
    (0 < 128 ∧ 127 < 128) ∧ (0 < 256 ∧ 255 < 256) ∧ (∀ k ∈ [8, 4], 0 < k ∧ k - 1 < k) ∧ (0 < 32 ∧ 31 < 32) ∧
    (live.store.owners.length ≤ 112 ∧ 112 < 496 ∧ live.store.owners.length ≤ 495 ∧ 495 < 496) ∧ (0 < 64 ∧ 63 < 64) ∧
    (0 < 16 ∧ 15 < 16) ∧ (0 < 12 ∧ 11 < 12) ∧ (0 < 2 ∧ 1 < 2) ∧
    (0 < live.store.owners.length ∧ 111 < live.store.owners.length) ∧ (0x10E0 ≤ 0x10E0 ∧ 0x10FF < 0x1100) ∧
    (0x500 ≤ 0x500 ∧ 0x8FF < 0x900) ∧ 0x1D00 ≤ 0x1D00 := by decide +kernel

/-- Named fields of the records of `busy` at their bytes, and bytes that no field names. -/
theorem test_reads_named_fields :
    ([(0x1A, 112), (0x1B, 0), (0x29, 0), (0x30, 0), (0x10C, 9), (0x10D, 1), (0x10F, 0), (0x153, 1), (0x160, 2), (0x188, 0), (0x189, 255),
      (0x19E, 0), (0x30F, 255), (0x40C, 9), (0x40D, 3), (0x488, 1), (0x489, 31), (0x82, 0), (0xDE0, 8), (0xDE1, 0),
      (0x18C2, 1), (0x18C3, 3), (0x1970, 1), (0x1971, 1), (0x1980, 1), (0x1981, 0), (0x1982, 0), (0x198E, 255), (0x1C80, 0)].all
      fun x : Nat × Nat => busy.byteAt x.1 == BitVec.ofNat 8 x.2) = true := by decide +kernel

theorem test_witness_PortRegistersAndPins_writes : State.reset.port.engineRunning = false ∧
    (live.port.engineRunning = true ∧ live.sweep.running = true) ∧
    { live with sweep := State.reset.sweep }.sweep.running = false := by decide +kernel

theorem test_witness_TickAndHostPulseMonitor_tick : State.reset.port.engineRunning = false ∧ live.port.engineRunning = true := by
  decide +kernel

theorem test_witness_HostReads_window :
    ([0, 0x7FE, 0x800, 0xFFE].all fun o : BitVec 12 => !o.getLsbD 0) = true := by decide

/-- Slice register A at the slice of an address, and the offset at which half A shows the address. -/
def shown (s : State) (a : Nat) : State := { s with port := { s.port with winA := BitVec.ofNat 8 (a / 2048) } }

/-- The offset that goes with `shown`. -/
def offsetOf (a : Nat) : BitVec 12 := BitVec.ofNat 12 (a % 2048)

/-- Half A shows the addresses at even offsets. -/
def reaches (s : State) (as : List Nat) : Bool :=
  as.all fun a => (shown s a).windowAddr (offsetOf a) == a && !(offsetOf a).getLsbD 0

/-- The ends of each range that the guard drops: the owner of the last blocks fitted is FREE, the blocks above are unfitted. -/
theorem test_witness_WriteGuard_drops :
    reaches live [0, 0x7E, 0x100, 0x4FE, 0xDE0, 0x10FE, 0x1100, 0x1CFE, 0x4000, 0x1FFFE, 0x20000, 0x7FFFE] = true ∧
    (∀ a ∈ [0, 0x7E], a < 0x80 ∧ a ∉ [0x06, 0x08, 0x0A, 0x0C, 0x0E, 0x10, 0x12]) ∧
    (∀ a ∈ [0x100, 0x4FE], 0x100 ≤ a ∧ a < 0x500 ∧ a % 256 ∉ [0x06, 0x08, 0x0A]) ∧
    (∀ a ∈ [0xDE0, 0x10FE], 0xD00 ≤ a ∧ 0xD00 + 2 * live.store.owners.length ≤ a ∧ a < 0x1D00) ∧
    ∀ a ∈ [0x4000, 0x1FFFE, 0x20000, 0x7FFFE], 0x4000 ≤ a ∧ live.store.owners[(a - 0x4000) / 1024]? ≠ some .host := by decide +kernel

/-- The ends of each range of plain bytes that the guard honours, block 0 being HOST. -/
theorem test_witness_WriteGuard_plain :
    let s := hosted live .plain [1]
    reaches s [0x500, 0x876, 0xD00, 0xDDE, 0x1D00, 0x3FFE, 0x4000, 0x43FE] = true ∧
    (∀ a ∈ [0x500, 0x876], 0x500 ≤ a ∧ a < 0x900 ∧ a % 256 < 0x78) ∧
    (∀ a ∈ [0xD00, 0xDDE], 0xD00 ≤ a ∧ a < 0xD00 + 2 * s.store.owners.length ∧ a < 0x1100) ∧
    (∀ a ∈ [0x4000, 0x43FE], 0x4000 ≤ a ∧ s.store.owners[(a - 0x4000) / 1024]? = some .host) ∧ Memory.wf s.store.mem = true := by
  decide +kernel

theorem test_witness_WriteGuard_host_words :
    reaches live [0x06, 0x08, 0x0A, 0x0C, 0x0E, 0x10, 0x12] = true ∧
    reaches live ([0, 1, 2, 3].flatMap fun n => [0x106 + 256 * n, 0x108 + 256 * n, 0x10A + 256 * n]) = true := by decide +kernel

/-- The first and last card of a line table and of the engine table, in each hand. -/
theorem test_witness_WriteGuard_cards :
    reaches live [0x900, 0x900 + 2, 0x900 + 30, 0x900 + 256 * 3 + 32 * 7 + 30, 0x80, 0x80 + 32 * 3 + 30] = true ∧
    ∀ h ∈ [Hand.free, .posted, .taken, .answered], ((live.setCard (.line 0) 0 ⟨h, List.replicate 30 0⟩).card (.line 0) 0).hand = h ∧
      ((live.setCard .engine 3 ⟨h, List.replicate 30 0⟩).card .engine 3).hand = h := by decide +kernel

theorem test_witness_SweepEndsAndAcknowledges_ends : State.reset.port.engineRunning = false ∧
    live.port.engineRunning = true ∧ live.sweep.running = true := by decide +kernel

/-- A state whose cards are as at reset has none POSTED and no order waiting. -/
theorem no_card_of {s : State} (l : ∀ n : LineId, (s.line n).table = .initial 8) (e : s.engTable = .initial 4) (t : TableId) :
    ((s.table t).listed = .reading [] ∧ (s.table t).waiting = []) ∧ ∀ i, (s.card t i).hand ≠ .posted := by
  have h : ∀ k i : Nat, ((OrderTable.initial k).cards[i]?.getD Card.initial).hand ≠ .posted := fun k i => by
    unfold OrderTable.initial
    simp only [List.getElem?_replicate]
    split <;> simp [Card.initial]
  cases t with
  | line n => exact ⟨by simp only [State.table, l]; exact ⟨rfl, rfl⟩, fun i => by simpa only [State.card, State.table, l] using h 8 i⟩
  | engine => exact ⟨by simp only [State.table, e]; exact ⟨rfl, rfl⟩, fun i => by simpa only [State.card, State.table, e] using h 4 i⟩

theorem live_has_no_card (t : TableId) :
    ((live.table t).listed = .reading [] ∧ (live.table t).waiting = []) ∧ ∀ i, (live.card t i).hand ≠ .posted :=
  no_card_of (by decide +kernel) (by decide +kernel) t

theorem live_map_in_order (b : Nat) (o : Owner) (h : live.store.owners[b]? = some o) :
    Memory.word [] (mapAddr b) = o.word ∧ b < 112 := by
  have w : live.store.owners = List.replicate 112 .free := by decide +kernel
  have z : ∀ b : Fin 112, Memory.word [] (mapAddr b.val) = 0 := by decide +kernel
  rw [w, List.getElem?_replicate] at h
  split at h
  · next k => cases h; exact ⟨z ⟨b, k⟩, k⟩
  · simp at h

theorem test_witness_SweepEndsAndAcknowledges_quiet :
    (live.port.engineRunning = true ∧ live.sweep.running = true ∧ live.sweep.acked = [] ∧ live.sweep.returned = false ∧
      live.sweep.visited = 0) ∧
    (∀ t, ((live.table t).listed = .reading [] ∧ (live.table t).waiting = []) ∧ ∀ i, (live.card t i).hand ≠ .posted) ∧
    (∀ b o, live.store.owners[b]? = some o → Memory.word live.store.mem (mapAddr b) = o.word) ∧
    ∀ n, (live.line n).link.critical = false :=
  ⟨by decide +kernel, live_has_no_card, fun b o h => (live_map_in_order b o h).1, by decide +kernel⟩

/-- Block 0 of an owner, its map entry `w`. -/
def mapped (o : Owner) (w : Nat) : State :=
  { live with
    store := { live.store with owners := live.store.owners.set 0 o, mem := Memory.setWord [] (mapAddr 0) w } }

theorem mapped_elsewhere (o : Owner) (w : Nat) (hw : w = 0 ∨ w = 255) (c : Nat) (p : Owner) (hc : c ≠ 0)
    (h : (mapped o w).store.owners[c]? = some p) : Memory.word (mapped o w).store.mem (mapAddr c) = p.word := by
  have g : live.store.owners[c]? = some p := by simpa [mapped, List.getElem?_set_ne (Ne.symm hc)] using h
  obtain ⟨z, k⟩ := live_map_in_order c p g
  rw [← z]
  have t : ∀ c : Fin 112, c.val ≠ 0 → ∀ w ∈ [0, 255],
      Memory.word (Memory.setWord [] (mapAddr 0) w) (mapAddr c.val) = Memory.word [] (mapAddr c.val) := by decide +kernel
  exact t ⟨c, k⟩ hc w (by simpa using hw)

/-- A block of each kind of owner, its map entry RETURNED or FREE. -/
theorem test_witness_ReturnSweepJudgesTheBlockMap :
    (∀ o t, (((mapped o 255).table t).listed = .reading [] ∧ ((mapped o 255).table t).waiting = []) ∧
      ∀ i, ((mapped o 255).card t i).hand ≠ .posted) ∧
    (∀ o ∈ [Owner.host, .deliv 3, .recv 0, .send 1, .msg 31],
      o.word ≠ 0 ∧ o.word ≠ 255 ∧ (mapped o 0).store.owners[0]? = some o ∧ (mapped o 255).store.owners[0]? = some o) ∧
    ∀ (o : Owner), ∀ w ∈ [0, 255], Memory.wf (mapped o w).store.mem = true ∧
      Memory.word (mapped o w).store.mem (mapAddr 0) = w ∧
      (∀ c p, c ≠ 0 → (mapped o w).store.owners[c]? = some p → Memory.word (mapped o w).store.mem (mapAddr c) = p.word) ∧
      ∀ n, ((mapped o w).line n).link.critical = false := by
  refine ⟨fun _ => live_has_no_card, by decide +kernel, fun o w hw => ?_⟩
  have m : ∀ w ∈ [0, 255], Memory.wf (Memory.setWord [] (mapAddr 0) w) = true ∧
      Memory.word (Memory.setWord [] (mapAddr 0) w) (mapAddr 0) = w := by decide +kernel
  have k : ∀ n, (live.line n).link.critical = false := by decide +kernel
  exact ⟨(m w hw).1, (m w hw).2, mapped_elsewhere _ _ (by simpa using hw), k⟩

theorem test_witness_UnknownOrdersTakeBlocksAndSetClock_unknown :
    (∀ c ∈ [0, 14, 255], (ordered live c).takesCard (.line 0) 0 (fun k => !knownOrder (.line 0) k) = true) ∧
    ∀ c ∈ [0, 1, 32, 40, 255], (asked live c).takesCard .engine 0 (fun k => !knownOrder .engine k) = true := by decide +kernel

/-- The next card of a table taken alone, its order left waiting. -/
def took (s : State) (T : TableId) : State := s.onTable T OrderTable.takeStep

/-- Every order is taken where its card is listed, whatever stands POSTED behind it, and completes; and so does one whose card was taken
before. -/
theorem test_witness_OrderOfTaking :
    ([(Instr.enable 0 0, 1), (.disable 0 0, 2), (.dial 0 0 true, 3), (.answer 0 0 true, 4), (.hangup 0 0, 5), (.send 0 0, 6),
        (.faxPages 0 0, 7), (.play 0 0, 8), (.record 0 0, 9), (.stop 0 0, 10), (.takeDigits 0 0, 11), (.clearFault 0 0, 12),
        (.clearRetryCount 0 0, 13), (.unknownOrder (.line 0) 0, 14)].all fun x : Instr × Nat =>
      [ordered live x.2, took (ordered live x.2) (.line 0)].all fun s =>
        s.takesCard (.line 0) 0 (· == x.2) && goes x.1 s) = true ∧
    ([(Instr.takeBlocks 0, 33), (.loadGreeting 0, 34), (.unloadGreeting 0, 35), (.collectMessage 0, 36), (.discardMessage 0, 37),
        (.setClock 0, 38), (.clearLine 0, 39), (.unknownOrder .engine 0, 40)].all fun x : Instr × Nat =>
      [asked live x.2, took (asked live x.2) .engine].all fun s =>
        s.takesCard .engine 0 (· == x.2) && goes x.1 s) = true := by decide +kernel

/-- A list with a card on it that has been withdrawn, two cards whose post numbers are 0 and 1 behind a last-taken number of 0, and tables
with no list made. -/
theorem test_witness_OrderOfTaking_lists :
    (let s := (ordered live 5).onTable (.line 0) fun tb => { tb with listed := .made [] [1, 0] }
     s.port.engineRunning = true ∧ s.sweep.running = true ∧ (s.table (.line 0)).listing = 1 :: [0] ∧
      (s.table (.line 0)).waiting = [] ∧ (s.card (.line 0) 1).hand ≠ .posted ∧
      (s.onTable (.line 0) OrderTable.pass).takesCard (.line 0) 0 (· == 5) = true) ∧
    (let s := (ordered (posted live (.line 0) 1 5 []) 5).setCard (.line 0) 0 ⟨.posted, List.replicate 30 0⟩
     (s.table (.line 0)).posted = [1, 0] ∧ (s.table (.line 0)).lastTaken = 0 ∧ (s.card (.line 0) 0).word 2 = 0 ∧
      (s.card (.line 0) 1).word 2 = 1) ∧
    (live.port.engineRunning = true ∧ live.sweep.running = true ∧ (live.table .engine).listing = [] ∧
      (∀ n, (live.table (.line n)).listed = .reading [] ∧ (live.table (.line n)).cards.length ≤ 8) ∧
      (live.table .engine).listed = .reading [] ∧ (live.table .engine).cards.length ≤ 8) := by decide +kernel

/-- The cards 7 and 0 of line 3's table POSTED with HANGUP and CLEAR RETRY COUNT, and taken, their orders waiting; the last card of the
engine table likewise. -/
def twoTaken : State :=
  let card := fun (number code : Nat) => (⟨.posted, wordBytes number ++ [BitVec.ofNat 8 code, 0] ++ List.replicate 26 0⟩ : Card)
  let s := (live.setCard (.line 3) 7 (card 1 5)).setCard (.line 3) 0 (card 2 13)
  took (took (took (s.setCard .engine 3 (card 1 38)) (.line 3)) (.line 3)) .engine

/-- Orders that wait, the first of them next; their hand words within the host's window. -/
theorem test_witness_OrderOfTaking_waiting :
    ((twoTaken.table (.line 3)).waiting = 7 :: [0] ∧ (twoTaken.table (.line 3)).listing = [] ∧ (twoTaken.table .engine).waiting = [3]) ∧
    twoTaken.takesCard (.line 3) 7 (· == 5) = true ∧ twoTaken.takesCard (.line 3) 0 (· == 13) = false ∧
    (∀ i ∈ [0, 7], (twoTaken.card (.line 3) i).hand = .taken) ∧ (twoTaken.card .engine 3).hand = .taken ∧
    reaches twoTaken [0x900 + 256 * 3, 0x900 + 256 * 3 + 32 * 7, 0x80 + 32 * 3] = true := by decide +kernel

/-- The host's FREE to a card that the sweep has taken and not yet answered is dropped, Guard Count and GUARD counting it, and the short order
goes ahead (R171; section 10.10): HANGUP is answered DONE in the same sweep, the order behind it then being next. -/
theorem test_free_of_a_taken_short_order_is_dropped :
    let s := shown twoTaken (0x900 + 256 * 3 + 32 * 7)
    let answer := fun c t => match exec c t with | .next u => u | _ => t
    let dropped := answer (.hostStoreWrite (offsetOf (0x900 + 256 * 3 + 32 * 7)) 0) s
    let done := answer (.hangup 3 7) dropped
    dropped.hdr.guardCount = 1 ∧ dropped.port.guardFlag = true ∧ dropped.hdr.ev.bits = 0x0004 ∧
      (dropped.card (.line 3) 7).hand = .taken ∧ (done.card (.line 3) 7).hand = .answered ∧
      done.takesCard (.line 3) 0 (· == 13) = true ∧ (done.table (.line 3)).lastTaken = 2 := by decide +kernel

/-- The sweep has read the hand words of cards 0 and 1 of line 0's table, card 1 POSTED with its number 1 and card 0 FREE, and the number of
card 1; the host has then posted card 0 and changed the number of card 1 to 9. -/
def halfRead : State :=
  let s := (posted live (.line 0) 1 5 []).onTable (.line 0) fun tb => ((tb.readHand 0).readHand 1).readNumber 1
  (ordered s 5).setCard (.line 0) 1 ⟨.posted, wordBytes 9 ++ [5, 0] ++ List.replicate 26 0⟩

/-- A card posted after its hand word was read waits for the next sweep, and a number counts as it was read (R168, R173). -/
theorem test_hand_words_are_read_one_by_one :
    (halfRead.table (.line 0)).listed = .reading [⟨1, true, some 1⟩, ⟨0, false, none⟩] ∧
    (halfRead.table (.line 0)).listing = [1] ∧ (halfRead.table (.line 0)).distance 1 = 1 ∧
    (halfRead.takesCard (.line 0) 0 (· == 5) = false) ∧ halfRead.takesCard (.line 0) 1 (· == 5) = true := by decide +kernel

/-- Reads of a hand word and of a number that still stand to be made, and one made before; a card behind the last of the table. -/
theorem test_witness_OrderOfTaking_reads :
    (∀ r ∈ [(⟨1, true, some 1⟩ : CardRead), ⟨0, false, none⟩], r.card ≠ 2) ∧ 2 < (halfRead.table (.line 0)).cards.length ∧
    halfRead.port.engineRunning = true ∧ halfRead.sweep.running = true ∧ (halfRead.table .engine).cards.length ≤ 4 ∧
    ∃ r ∈ [(⟨1, true, some 1⟩ : CardRead), ⟨0, false, none⟩], r.card = 0 :=
  ⟨by decide, by decide +kernel, by decide +kernel, by decide +kernel, by decide +kernel, ⟨0, false, none⟩, by decide, rfl⟩

/-- The table of section 10.10: line 2's last-taken number 65534, five cards POSTED with the numbers given. -/
def wrapped : State :=
  [(0, 1), (3, 65535), (4, 2), (5, 0), (6, 65534)].foldl
    (fun s x => s.setCard (.line 2) x.1 ⟨.posted, wordBytes x.2 ++ [5, 0] ++ List.replicate 26 0⟩)
    (live.onTable (.line 2) fun tb => { tb with lastTaken := 65534 })

/-- The order of section 10.10, with its distances. -/
theorem test_section_10_10_order : (wrapped.table (.line 2)).listing = [3, 5, 0, 4, 6] ∧
    [3, 5, 0, 4, 6].map (wrapped.table (.line 2)).distance = [1, 2, 3, 4, 65536] := by decide +kernel

/-- Step 4 of section 10.10: card 4, withdrawn, is passed by, the last-taken number stays 1, and posted again it waits for the next sweep
while card 6 is the next. -/
theorem test_section_10_10_passed_by :
    let s := (wrapped.setCard (.line 2) 4 .initial).onTable (.line 2) fun tb => { tb with listed := .made [] [4, 6], lastTaken := 1 }
    let u := s.takeNext ⟨true, true, true, true⟩ (.line 2)
    let again := u.setCard (.line 2) 4 ⟨.posted, List.replicate 30 0⟩
    (u.table (.line 2)).listed = .made [] [6] ∧ (u.table (.line 2)).lastTaken = 1 ∧
      again.takesCard (.line 2) 4 (fun _ => true) = false ∧ again.takesCard (.line 2) 6 (· == 5) = true := by decide +kernel

/-- The list of table 0 made with card 0 alone on it. -/
def listedOnce : State := (ordered live 5).onTable (.line 0) OrderTable.make

/-- A listed card withdrawn and posted again under another number keeps its place before a card posted after the list was made, which waits;
a list made empty stays empty (R173). -/
theorem test_list_is_fixed :
    (let s := (posted (listedOnce.setCard (.line 0) 0 .initial) (.line 0) 0 5 []).setCard (.line 0) 1 ⟨.posted, List.replicate 30 0⟩
     s.takesCard (.line 0) 0 (· == 5) = true ∧
      (s.taking (.line 0) 0).takesCard (.line 0) 1 (fun _ => true) = false) ∧
    (ordered (live.onTable (.line 0) OrderTable.make) 5).takesCard (.line 0) 0 (fun _ => true) = false := by decide +kernel

/-- A list made, with a card on it and one not; a table whose list is empty. -/
theorem test_witness_OrderOfTaking_made :
    (listedOnce.table (.line 0)).listed = .made [] [0] ∧ 1 ∉ [] ++ [0] ∧ listedOnce.port.engineRunning = true ∧
      listedOnce.sweep.running = true ∧ ((live.onTable .engine OrderTable.make).table .engine).listed = .made [] [] := by decide +kernel

/-- The first acknowledge word passed and passed again; a return sweep at its first entry, at its last, and past it, after a write to an
entry that it has visited. -/
theorem test_witness_sweep_in_parts :
    (let s := live.ackOnce (.line 3)
     .line 3 ∉ live.sweep.acked ∧ .line 3 ∈ s.sweep.acked ∧ s.port.engineRunning = true ∧ s.sweep.running = true) ∧
    (goes (.sweep ⟨true, true, true, true⟩ ⟨[.list .engine, .ack .engine, .visit], false⟩) live = true) ∧
    live.sweep.visited < live.store.blockCount ∧
    (∀ k ∈ [111, 112], let s := { mapped .host 255 with sweep := ⟨true, false, [], k, false⟩ }
      s.port.engineRunning = true ∧ Memory.wf s.store.mem = true ∧ s.store.blockCount = 112 ∧ ¬s.sweep.visited ≤ 0 ∧
        Memory.word s.store.mem (mapAddr 0) = 255) := by decide +kernel

/-- Line 0 receive-critical on a link that is UP, pump 0 carrying or not. -/
def critical (a : Activity) (k : Link → Link) : State :=
  pumped .connected .data a fun l => { l with link := k { l.link with state := .up, critical := true } }

theorem test_witness_ReceiveCriticalEnds :
    (∀ s ∈ [critical .carrying id, critical .training fun k => { k with inFlight := true },
        critical .carrying fun k => { k with state := .farClosed, sending := some (.hold 0) }],
      (s.port.engineRunning = true ∧ s.sweep.running = true ∧ s.sweep.acked = [] ∧ s.sweep.returned = false) ∧
      (∀ T, ((s.table T).listed = .reading [] ∧ (s.table T).waiting = []) ∧ ∀ i, (s.card T i).hand ≠ .posted) ∧
      (∀ b o, s.store.owners[b]? = some o → Memory.word s.store.mem (mapAddr b) = o.word) ∧ s.store.free ≠ [] ∧
      (s.line 0).link.critical = true ∧ (s.line 0).delivered.length < 16 ∧
      s.store.owners.count (.recv 0) + s.store.owners.count (.deliv 0) ≤ (s.line 0).profile.receiveLimit - 2) ∧
    ((critical .carrying id).Works 0 0 ∧ ((critical .carrying id).pump 0).activity = .carrying ∧
      ((critical .carrying id).pump 0).holding = false ∧ ((critical .carrying id).line 0).link.replies = []) := by
  refine ⟨fun s h => ?_, works_of (by decide +kernel), by decide +kernel⟩
  simp only [List.mem_cons, List.not_mem_nil, or_false] at h
  rcases h with rfl | rfl | rfl <;>
    exact ⟨by decide +kernel, no_card_of (by decide +kernel) (by decide +kernel), fun b o h => (live_map_in_order b o h).1,
      by decide +kernel, by decide +kernel⟩

/-- A discarded message whose block is pushed while line 0 is receive-critical. -/
theorem test_witness_ReceiveCriticalEnds_push :
    let s := (posted (owned (critical .carrying id) [.msg 31] []) .engine 0 37 [31, 0, 9]).onMessage 31 fun m =>
      { m with state := .complete, number := 9, blocks := [0] }
    s.takesCard .engine 0 (· == 37) = true ∧ (s.card .engine 0).byte 6 = 31 ∧ (s.message 31).state = .complete ∧
      (s.message 31).number = (s.card .engine 0).word 8 ∧ 0 ∈ (s.message 31).blocks ∧ s.store.owners[0]? = some (.msg 31) ∧
      (s.line 0).link.critical = true ∧ (s.line 0).delivered.length < 16 ∧
      s.store.owners.count (.recv 0) + s.store.owners.count (.deliv 0) ≤ (s.line 0).profile.receiveLimit - 2 := by decide +kernel

/-- The idle expiry closes an open entry whose blocks have all been returned, fifteen closed ones before it and none after. -/
theorem test_witness_ReceiveCriticalEnds_removal :
    let closed : Entry := ⟨.data, 3, 3, 1, [3], 7, 0, .none, 0, true⟩
    let gone : Entry := ⟨.data, 0, 0, 1, [], 7, 0, .none, 0, false⟩
    ∀ c ∈ [true, false], ∀ st ∈ [LinkState.up, .farClosed], ∀ fl ∈ [true, false], ∀ sd ∈ [none, some (LinkFrame.hold 0)],
      let s := (critical .carrying fun k =>
        { k with critical := c, state := st, inFlight := fl, sending := sd, idleTimer := .running 50 }).onLine 0 fun l =>
          { l with delivered := List.replicate 15 closed ++ gone :: [] }
      let l := s.line 0
      (l.link.idleTimer.isRunning = true ∧ l.recvBlock = none ∧ gone.kind = .data ∧ gone.closed = false ∧ gone.outstanding = [] ∧
        closed.closed = true ∧ closed.outstanding ≠ []) ∧
      (l.link.critical = c ∧ l.link.state = st ∧ l.link.inFlight = fl ∧ l.link.sending = sd ∧ l.link.replies = [] ∧
        s.store.free ≠ [] ∧ (List.replicate 15 closed).length < 16 ∧
        s.store.owners.count (.recv 0) + s.store.owners.count (.deliv 0) ≤ l.profile.receiveLimit - 2) := by decide +kernel

/-- Block 0 a whole chain of one block of voice, block 1 of the next field of which block 0 is. -/
def chained : Store :=
  ⟨Memory.setBytes (Memory.setBytes [] 0x4000 (wordBytes 65535 ++ wordBytes 1016 ++ [3])) 0x4400 (wordBytes 0 ++ wordBytes 1 ++ [3]),
    [.host, .host, .free], []⟩

/-- The header fields of `chained` by which a walk from block 1 passes it and block 0 and ends, the last block and the block above it,
where OWNER and RANGE fail, and chains of ROWS, where KIND fails. -/
theorem test_witness_ChainValidation :
    (let word := fun b k : Nat =>
      (Memory.get chained.mem (0x4000 + 1024 * b + k)).toNat + 256 * (Memory.get chained.mem (0x4000 + 1024 * b + (k + 1))).toNat
     word 1 0 = 0 ∧ word 0 0 = 65535 ∧ word 1 2 = 1 ∧ word 0 2 = 1016 ∧ word 2 2 = 0 ∧
      (Memory.get chained.mem (0x4000 + 4)).toNat = 3 ∧ (Memory.get chained.mem (0x4400 + 4)).toNat = 3) ∧
    (chained.owners[0]? = some .host ∧ chained.owners[1]? = some .host ∧ chained.owners[2]? ≠ some .host ∧ chained.owners.length ≤ 3) ∧
    ([1, 0] : List Nat).head? = some 1 ∧ ([] ++ [2] : List Nat).head? = some 2 ∧ [[1, 0]].map List.head? = [1].map some ∧
    [[1, 0]].map List.head? ++ [([] ++ [2] : List Nat).head?] = [1, 2].map some := by decide +kernel

/-- Walks that pass, and one that fails each test. -/
theorem test_chain_walks :
    let rows : Store := ⟨Memory.setBytes [] 0x4000 (wordBytes 0 ++ wordBytes 4 ++ [2]), [.host, .host], []⟩
    chained.validate .voice 255 1 = .ok [(1, 1), (0, 1016)] ∧ chained.validate .voice 255 3 = .error ⟨0, .range⟩ ∧
    chained.validate .voice 255 2 = .error ⟨0, .owner⟩ ∧ chained.validate .voice 1 1 = .error ⟨1, .length⟩ ∧
    chained.validate .plain 64 1 = .error ⟨0, .kind⟩ ∧ rows.validate .rows 64 0 = .error ⟨1, .repeated⟩ ∧
    rows.validate .rows 64 1 = .error ⟨0, .fill⟩ ∧ rows.validatePages [] 0 [0] = .error (0, ⟨1, .repeated⟩) := by decide +kernel

/-! ## Witnesses: lines, calls and faults -/

/-- The fourteen line states. -/
def states : List LineState :=
  [.off, .idle, .alerting, .queued, .seized, .dialling, .progress, .answering, .training, .connected, .retraining, .clearing,
    .holdoff, .fault]

/-- An order of a code is taken from a line in each of the fourteen states. -/
def takenInEveryState (code : Nat) : Bool :=
  states.all fun st => (ordered (lineIn st) code).takesCard (.line 0) 0 (· == code) &&
    decide (((ordered (lineIn st) code).line 0).call.state = st)

theorem test_witness_EnableOrder : takenInEveryState 1 = true := by decide +kernel

theorem test_witness_DisableOrder : takenInEveryState 2 = true := by decide +kernel

theorem test_witness_HangupAndClearLine : takenInEveryState 5 = true ∧
    (asked live 39 [4]).takesCard .engine 0 (· == 39) = true ∧ 4 ≤ ((asked live 39 [4]).card .engine 0).byte 6 ∧
    states.all (fun st => (asked (lineIn st) 39 [0]).takesCard .engine 0 (· == 39) &&
      ((asked (lineIn st) 39 [0]).card .engine 0).byte 6 == 0) = true := by decide +kernel

/-- Line 0 in a state, a retry of a fax call pending with its DIAL card 1 and a page kept under card 2. -/
def retries (st : LineState) : State :=
  lineWith fun l => { l with
    call := { l.call with state := st }, fm := { l.fm with retryPending := true }
    ctl := { l.ctl with dialCard := some 1 }, dialler := { l.dialler with service := .fax }
    fax := { l.fax with pages := [⟨2, 0, [(0, 4)], true, false⟩], orders := [⟨2, [.good], 255, 255⟩] } }

/-- Pages waiting, a retry pending or not, as the line enters OFF by DISABLE or at the end of CLEARING. -/
theorem test_witness_pages_waiting_at_off :
    (∀ st ∈ [LineState.idle, .holdoff, .fault], ∀ r ∈ [true, false],
      let s := (ordered (retries st) 2).onLine 0 fun l => { l with fm := { l.fm with retryPending := r } }
      let l := s.line 0
      s.takesCard (.line 0) 0 (· == 2) = true ∧ l.call.state = st ∧ l.fm.retryPending = r ∧ l.fax.pages ≠ [] ∧
        (l.fax.orders.map FaxOrder.card).Nodup ∧
        ∀ x ∈ l.fax.orders, x.card ∉ [0] ∧ x.cutShort ≤ 255 ∧ x.card < l.table.cards.length) ∧
    (let l := ((retries .clearing).onLine 0 fun l =>
        { l with
          fm := { l.fm with retryPending := false }, call := { l.call with disablePending := true }
          ctl := { l.ctl with stateTimer := .running 2000 } }).line 0
     l.call.state = .clearing ∧ l.ctl.stateTimer.isRunning = true ∧ l.ctl.declined = false ∧ l.fm.latch = none ∧
      l.fm.retryPending = false ∧ l.call.disablePending = true ∧ l.fax.pages ≠ [] ∧ (l.fax.orders.map FaxOrder.card).Nodup ∧
      ∀ x ∈ l.fax.orders, x.card ∉ ([] : List Nat) ∧ x.cutShort ≤ 255 ∧ x.card < l.table.cards.length) := by decide +kernel

/-- The retries that DISABLE, HANGUP, CLEAR LINE, a ring and host silence abandon. -/
theorem test_witness_retries_abandoned :
    ([LineState.holdoff, .clearing].all fun st => [ordered (retries st) 2, ordered (retries st) 5, asked (retries st) 39 [0]].all fun s =>
      let l := s.line 0
      decide (l.call.state = st ∧ l.fm.retryPending = true ∧ l.ctl.dialCard = some 1 ∧ (1 ∉ [0]) ∧ (∀ x ∈ l.fax.orders, x.card ≠ 1) ∧
        1 < l.table.cards.length ∧ l.dialler.service = .fax ∧ (l.fax.orders.map FaxOrder.card).Nodup ∧
        (∀ x ∈ l.fax.orders, x.card ∉ [0] ∧ x.cutShort ≤ 255 ∧ x.card < l.table.cards.length))) = true ∧
    (ordered (retries .holdoff) 2).takesCard (.line 0) 0 (· == 2) = true ∧
    (ordered (retries .holdoff) 5).takesCard (.line 0) 0 (· == 5) = true ∧
    (asked (retries .holdoff) 39 [0]).takesCard .engine 0 (· == 39) = true := by decide +kernel

theorem test_witness_ClearFaultAndClearRetryCount : takenInEveryState 12 = true ∧ takenInEveryState 13 = true := by decide +kernel

/-- Line 0 in a state, its dialler in a phase. -/
def dialling (st : LineState) (ph : DialPhase) (f : Line → Line := id) : State :=
  lineWith fun l => f { l with call := { l.call with state := st }, dialler := { l.dialler with phase := ph } }

theorem test_witness_LoopSenseAndEventsThatClear_loop :
    (((lineIn .seized).line 0).call.state.offHook = true ∧ ((lineIn .seized).line 0).dialler.phase = .idle ∧
      ((lineIn .seized).line 0).ctl.heldCarrierLoss = false) ∧
    (live.line 0).call.state.offHook = false ∧ ((dialling .dialling .flash).line 0).dialler.phase = .flash ∧
    ((dialling .dialling (.pulseBreak 1)).line 0).dialler.phase = .pulseBreak 1 ∧
    (let s := dialling .connected .idle fun l => { l with ctl := { l.ctl with heldCarrierLoss := true } }
     (s.line 0).ctl.heldCarrierLoss = true ∧ (s.line 0).call.state.offHook = true) := by decide +kernel

/-- Line 0 in a state, its state timer running. -/
def timed (st : LineState) (f : Line → Line := id) : State :=
  lineWith fun l => f { l with call := { l.call with state := st }, ctl := { l.ctl with stateTimer := .running 1000 } }

/-- A fax session of line 0, pump 0 carrying. -/
def faxing (role : FaxRole) (g : Fax → Fax) (f : Line → Line := id) : State :=
  pumped .connected .fax .carrying fun l => f { l with fax := g { l.fax with role := role } }

theorem test_witness_LoopSenseAndEventsThatClear_clears :
    ((lineWith fun l => { l with ctl := { l.ctl with loopMeasuring := true } }).line 0).ctl.loopMeasuring = true ∧
    (∀ st ∈ [LineState.progress, .alerting],
      ((timed st).line 0).call.state = st ∧ ((timed st).line 0).ctl.stateTimer.isRunning = true) ∧
    (let s := faxing .sender fun f => { f with work := .releaseOut }
     s.faxAs 0 .sender = true ∧ (s.line 0).fax.work = .releaseOut) ∧
    ∀ ph ∈ [FaxPhase.post, .release], let s := faxing .receiver fun f => { f with phase := ph }
      s.faxAs 0 .receiver = true ∧ (s.line 0).fax.phase = ph := by decide +kernel

/-- A line clearing a declined call, with each of its two timers running or not. -/
def declined (guard gap : Timer) (f : Line → Line := id) : State :=
  lineWith fun l => f { l with
    call := { l.call with state := .clearing }
    ctl := { l.ctl with declined := true, stateTimer := guard, declinedGap := gap } }

theorem test_witness_EndOfClearing :
    (let l := (declined (.running 2000) (.running 8000)).line 0
     l.call.state = .clearing ∧ l.ctl.declined = true ∧ l.ctl.declinedGap.isRunning = true ∧ l.ctl.stateTimer.isRunning = true) ∧
    (let l := (timed .clearing).line 0
     l.call.state = .clearing ∧ l.ctl.stateTimer.isRunning = true ∧ l.ctl.declined = false ∧ l.fm.latch = none ∧
      l.fm.retryPending = false ∧ l.call.disablePending = false) ∧
    (let l := (declined .stopped (.running 8000)).line 0
     l.ctl.declined = true ∧ l.ctl.declinedGap.isRunning = true ∧ l.ctl.stateTimer.isRunning = false) ∧
    (let l := (timed .clearing fun l => { l with fm := { l.fm with latch := some .noPump } }).line 0
     l.ctl.stateTimer.isRunning = true ∧ l.ctl.declined = false ∧ l.fm.latch ≠ none) ∧
    (let l := (timed .clearing fun l => { l with fm := { l.fm with retryPending := true } }).line 0
     l.ctl.stateTimer.isRunning = true ∧ l.ctl.declined = false ∧ l.fm.latch = none ∧ l.fm.retryPending = true) ∧
    (let l := (timed .clearing fun l => { l with call := { l.call with disablePending := true } }).line 0
     l.ctl.stateTimer.isRunning = true ∧ l.ctl.declined = false ∧ l.fm.latch = none ∧ l.fm.retryPending = false ∧
      l.call.disablePending = true) := by decide +kernel

theorem test_witness_FaultEvents :
    (∀ st ∈ [LineState.seized, .training],
      ((timed st).line 0).call.state = st ∧ ((timed st).line 0).ctl.stateTimer.isRunning = true) ∧
    ((dialling .dialling .waitTone).line 0).call.state = .dialling ∧
    ((dialling .dialling .waitTone).line 0).dialler.phase = .waitTone ∧
    (pumped .training .data .training).pumpAt 0 .training = true ∧
    (let s := pumped .training .data .carrying fun l =>
        { l with link := { l.link with state := .opening, openTimer := .running 5000 } }
     (s.line 0).call.state.offHook = true ∧ (s.line 0).link.state = .opening ∧ (s.line 0).link.openTimer.isRunning = true) ∧
    (let s := pumped .connected .data .carrying fun l => { l with link := { l.link with held := true, holdTimer := .running 60000 } }
     (s.line 0).call.state.offHook = true ∧ (s.line 0).link.held = true ∧ (s.line 0).link.holdTimer.isRunning = true) ∧
    (let s := (pumped .connected .data .carrying).onPump 0 fun p => { p with carrierTimer := .running 700 }
     (s.line 0).call.state.offHook = true ∧ s.measuresCarrier 0 = true ∧ (s.line 0).ctl.loopMeasuring = false) ∧
    (∀ st ∈ [LineState.queued, .answering],
      let s := lineWith fun l =>
        { l with call := { l.call with state := st }, claim := some ⟨.answer, .running 60000⟩ }
      (s.line 0).call.state = st ∧ (s.line 0).seq.step ≠ .switchWait ∧
        (s.line 0).claim = some ⟨.answer, .running 60000⟩ ∧ (Timer.running 60000).isRunning = true) ∧
    (let s := pumped .connected .data .carrying
     (s.line 0).call.state.offHook = true ∧ (s.pump 0).state = .attached ∧ (s.pump 0).line = some 0) := by decide +kernel

/-! ## Witnesses: dialling, progress and calling tones -/

theorem test_witness_DialTimersAndSymbols_timers :
    (∀ ph ∈ [DialPhase.toneOn, .pulseBreak 10, .pulseMake 2, .pulseMake 1],
      ((dialling .dialling ph).line 0).call.state = .dialling ∧ ((dialling .dialling ph).line 0).dialler.phase = ph) ∧
    1 < 2 ∧ 1 ≤ 1 := by decide +kernel

/-- A line that dials in a phase, with a rest of its string and a mode. -/
def dials (ph : DialPhase) (rest : List Byte) (m : DialMode) : State :=
  dialling .dialling ph fun l =>
    { l with dialler := { l.dialler with rest := rest, mode := m }, ctl := { l.ctl with progressTone := true } }

/-- Each end of a wait of the dialler, each symbol in each mode, and for the symbols that do no more than change it the next state from
which the statement goes on. -/
theorem test_witness_DialTimersAndSymbols_symbols :
    (∀ ph ∈ [DialPhase.toneGap, .interdigit, .pause, .flash, .waitTone],
      ∀ b ∈ [[], [0x30], [0x39], [0x2A], [0x44], [0x2C], [0x57], [0x21], [0x50], [0x54], [0x20]], ∀ m ∈ [DialMode.tone, .pulse],
      ((dials ph b m).line 0).dialsAt ph = true ∧ ((dials ph b m).line 0).ctl.progressTone = true ∧
        ((dials ph b m).line 0).dialler.rest = b ∧ ((dials ph b m).line 0).dialler.mode = m) ∧
    (let s := dialling .seized .idle fun l => { l with ctl := { l.ctl with progressTone := true } }
     (s.line 0).ctl.progressTone = true ∧ (s.line 0).call.state = .seized ∧ (s.line 0).dialler.rest = []) ∧
    ∀ m, m = DialMode.tone ∨ m = .pulse → ∃ u, Leads (.toneGapEnd 0)
      ((dials .toneGap [0x50] .tone).onLine 0 fun l => { l with dialler := { l.dialler with mode := m, rest := [] } }) u := by
  refine ⟨by decide +kernel, by decide +kernel, fun m h => leads_of_goes ?_⟩
  rcases h with rfl | rfl <;> decide +kernel

/-- A line of service VOICE in PROGRESS, its classifier as given. -/
def hears (g : Progress → Progress) (f : Line → Line := id) : State :=
  lineWith fun l => f { l with call := { l.call with state := .progress, service := .voice }, prog := g l.prog }

theorem test_witness_ProgressTones :
    (live.line 0).call.state ≠ .progress ∧ ((hears id).line 0).prog.onPeriod = none ∧
    (let p := ((hears id).line 0).profile
     ((hears fun g => { g with onPeriod := some p.busyOn, busyRun := 1 }).line 0).prog.busyRun = 1 ∧
     (matchesNominal p.busyOn p.busyOn p.tolerance && matchesNominal p.busyOff p.busyOff p.tolerance) = true ∧
     (matchesNominal p.ringbackOn p.busyOn p.tolerance) = false ∧
     (matchesNominal p.ringbackOn p.ringbackOn p.tolerance && matchesNominal p.ringbackOff p.ringbackOff p.tolerance) = true ∧
     matchesNominal 1 p.busyOn p.tolerance = false ∧ matchesNominal 1 p.ringbackOn p.tolerance = false ∧
     nearestTen p.busyOff = p.busyOff ∧ nearestTen p.ringbackOff = p.ringbackOff ∧
     p.ringbackLimit = 0) ∧
     (∀ k ∈ [0, 1], let l := (hears (fun g => { g with ringbackCount := k }) fun l => { l with profile := { l.profile with ringbackLimit := 2 } }).line 0
      l.profile.ringbackLimit = 2 ∧ l.prog.ringbackCount = k) ∧ 0 + 1 < 2 ∧ 2 ≤ 1 + 1 ∧
    ((hears id).line 0).prog.onMeasured = false ∧ ((hears fun g => { g with onMeasured := true }).line 0).prog.onMeasured = true ∧
    (let s := hears fun g => { g with onMeasured := true, voiceRun := 20, voicePath := true }
     (s.line 0).call.service = .voice ∧ 20 ≤ (s.line 0).prog.voiceRun ∧ (s.line 0).prog.voicePath = true) := by decide +kernel

/-- Silence, and a frame at the greatest level. -/
theorem test_witness_VoiceFrames :
    frameLevel (List.replicate 80 0) = 0 ∧ 0 < (live.line 0).profile.silenceThreshold ∧
    ¬ frameLevel (List.replicate 80 8191) < (live.line 0).profile.silenceThreshold ∧
    (live.line 0).call.state.offHook = false ∧
    ((hears id).line 0).voice.recording = none ∧ ((hears id).line 0).prog.voicePath = false ∧
    ((hears fun g => { g with voiceRun := 19, voicePath := true }).line 0).prog.voiceRun = 19 ∧
    (∀ k ∈ [19, 20], ((hears fun g => { g with voiceRun := k, pathTimer := .running 4000 }).line 0).prog.voiceRun = k ∧
      ((hears fun g => { g with voiceRun := k, pathTimer := .running 4000 }).line 0).prog.pathTimer.isRunning = true) ∧
    (let l := (pumped .connected .voice .standby fun l =>
        { l with voice := { l.voice with recording := some 31, silentRun := l.profile.silenceLimit * 100 - 1 } }).line 0
     l.call.state.offHook = true ∧ l.call.state ≠ .progress ∧ l.voice.recording = some 31 ∧ l.voice.recKind = .automatic ∧
      l.profile.silenceLimit * 100 ≤ l.voice.silentRun + 1) := by decide +kernel

/-- Frames that an encoder has begun, ended at 80 samples and at other counts. -/
theorem test_witness_VoiceFrames_begun :
    (∀ k ∈ [0, 40, 79, 80], let v := ((lineWith fun l =>
        { l with voice := { l.voice with recording := some 31, frame := List.replicate k 0 } }).line 0).voice
      v.recording = some 31 ∧ (v.frame ++ List.replicate (80 - k) 0).length = 80 ∧ (v.frame ++ List.replicate (81 - k) 0).length ≠ 80) ∧
    (List.replicate 79 (0 : Sample)).length ≠ 80 := by decide +kernel

theorem test_witness_OriginatorTrainsAndCallingTones_trains : ∀ v ∈ [Service.data, .fax],
    let s := pumped .progress v .standby fun l => { l with ctl := { l.ctl with answerTone := true } }
    (s.line 0).call.state = .progress ∧ (s.line 0).call.pump = some 0 ∧ (s.pump 0).state = .attached ∧ (s.pump 0).line = some 0 ∧
      (s.line 0).call.service = v ∧ (s.line 0).ctl.answerTone = true := by decide +kernel

theorem test_witness_OriginatorTrainsAndCallingTones_tones :
    ((live.line 0).ctl.faxToneBurst = false ∧ (live.line 0).seq.listening = false ∧ (live.line 0).ctl.dataTone = false) ∧
    (let s := lineWith fun l =>
        { l with seq := { l.seq with listening := true }, ctl := { l.ctl with faxToneBurst := true, dataTone := true } }
     (s.line 0).seq.listening = true ∧ (s.line 0).ctl.faxToneBurst = true ∧ (s.line 0).ctl.dataTone = true ∧
      ((pool s).line 0).seq.listening = true ∧ ((pool s).pump 0).state = .free ∧ (∀ q < (0 : PumpId), ((pool s).pump q).state ≠ .free) ∧
      (∀ p, (s.pump p).state ≠ .free) ∧ 0 < (s.line 0).profile.answerPumpWait) := by decide +kernel

/-! ## Witnesses: ringing, caller records, originating and answering -/

theorem test_witness_RingsCounted :
    (states.all fun st => decide (((lineIn st).line 0).call.state = st)) = true ∧
    (let p := Profile.ofWords fun o => Memory.word live.store.mem (0x0500 + o)
     p.answerMode = .none ∧ (live.line 0).profile.answerMode = .none ∧ ((lineIn .alerting).line 0).dec.burst = none) ∧
    { live with monitor := { live.monitor with suspended := true } }.monitor.suspended = true ∧
    ((declined .stopped (.running 8000)).line 0).ctl.declined = true ∧ ((lineIn .clearing).line 0).ctl.declined = false := by
  decide +kernel

/-- An answer mode that waits for a second ring, in ALERTING and in the fresh profile of a new call. -/
theorem test_witness_RingsCounted_few_rings :
    (let s := { live with store := { live.store with mem := Memory.setWord (Memory.setWord [] 0x522 1) 0x524 2 } }
     let p := Profile.ofWords fun o => Memory.word s.store.mem (0x0500 + o)
     p.answerMode ≠ .none ∧ 1 < p.ringsBeforeAnswer ∧ s.monitor.suspended = false ∧ Memory.wf s.store.mem = true) ∧
    (let l := (lineWith fun l =>
        { l with
          call := { l.call with state := .alerting, ringCount := 1 }
          profile := { l.profile with answerMode := .data, ringsBeforeAnswer := 3 } }).line 0
     l.call.state = .alerting ∧ min 65535 (l.call.ringCount + 1) < l.profile.ringsBeforeAnswer ∧ l.dec.burst = none) := by
  decide +kernel

/-- A line whose decoder is as given. -/
def decodes (d : Decoder) : State := lineWith fun l => { l with dec := d }

theorem test_witness_CallerBursts :
    (live.line 0).dec.windowOpen = false ∧ ((decodes ⟨true, none⟩).line 0).dec = ⟨true, none⟩ ∧
    ((decodes ⟨true, some 0x41⟩).line 0).dec = ⟨true, some 0x41⟩ ∧ ((decodes ⟨true, some 0x42⟩).line 0).dec.burst ≠ some 0x41 ∧
    (0x42 : Byte) ≠ 0x41 ∧ [(0 : Byte)].length ≤ (1 : Byte).toNat ∧ (List.replicate 253 (0x31 : Byte)).length < 256 ∧
    ([(2, List.replicate 253 0x31)].flatMap fun f : Byte × List Byte => f.1 :: BitVec.ofNat 8 f.2.length :: f.2).length < 256 := by
  decide +kernel

/-- The line waiting out its retry delay, with a service to dial again. -/
def redials (v : Service) : State :=
  timed .holdoff fun l => { l with dialler := { l.dialler with service := v, symbols := [0x31] } }

theorem test_witness_OriginatedCalls :
    takenInEveryState 3 = true ∧
    (∀ c ∈ [0, 4], let s := ordered (lineIn .idle) 3 [BitVec.ofNat 8 c, 0]
      s.takesCard (.line 0) 0 (· == 3) = true ∧ (s.card (.line 0) 0).byte 6 ∉ [1, 2, 3]) ∧
    (let s := ordered (lineIn .idle) 3 [1, 21]
     s.takesCard (.line 0) 0 (· == 3) = true ∧ (s.card (.line 0) 0).byte 6 ∈ [1, 2, 3] ∧ 20 < (s.card (.line 0) 0).byte 7) ∧
    (∀ v ∈ [Service.data, .fax, .voice], let s := ordered (lineIn .idle) 3 [BitVec.ofNat 8 v.code, 20]
      s.takesCard (.line 0) 0 (· == 3) = true ∧ (s.line 0).call.state = .idle ∧ (s.card (.line 0) 0).byte 6 = v.code ∧
        (s.card (.line 0) 0).byte 7 = 20 ∧
        (Profile.ofWords fun o => Memory.word s.store.mem (0x0500 + o)).blindDialling = false ∧
        0 < (Profile.ofWords fun o => Memory.word s.store.mem (0x0500 + o)).originatePumpWait ∧
        (∀ q, (s.pump q).state ≠ .free) ∧ ((pool s).pump 0).state = .free ∧ ∀ r < (0 : PumpId), ((pool s).pump r).state ≠ .free) ∧
    ∀ v ∈ [Service.data, .fax, .voice],
      ((redials v).line 0).call.state = .holdoff ∧ ((redials v).line 0).ctl.stateTimer.isRunning = true ∧
        ((redials v).line 0).dialler.service = v ∧ ((redials v).line 0).profile.blindDialling = false ∧
        0 < ((redials v).line 0).profile.originatePumpWait := by decide +kernel

/-- Blind dialling and an originate pump wait of 0, in the fresh profile of a DIAL and in a redial's. -/
theorem test_witness_OriginatedCalls_blind :
    (∀ v ∈ [Service.voice, .data, .fax],
      let s := ordered (lineIn .idle) 3 [BitVec.ofNat 8 v.code, 1, 0x31]
      let s := { s with store := { s.store with mem := Memory.setWord (Memory.setWord [] 0x502 1) 0x52E 0 } }
      let p := Profile.ofWords fun o => Memory.word s.store.mem (0x0500 + o)
      s.takesCard (.line 0) 0 (· == 3) = true ∧ (s.card (.line 0) 0).byte 6 = v.code ∧ p.blindDialling = true ∧
        p.originatePumpWait = 0 ∧ ∀ q, (s.pump q).state ≠ .free) ∧
    (let p := ((redials .voice).onLine 0 fun l =>
        { l with profile := { l.profile with blindDialling := true, originatePumpWait := 0 } }).line 0 |>.profile
     p.blindDialling = true ∧ p.originatePumpWait = 0) ∧
    ∃ w, Leads (.pauseEnd 0) (dials .pause [0x31] .tone) w :=
  ⟨by decide +kernel, by decide +kernel, leads_of_goes (by decide +kernel)⟩

theorem test_witness_AnswerOrder :
    takenInEveryState 4 = true ∧
    (∀ k ∈ [0, 1, 2, 3, 4, 5], let s := ordered (lineIn .alerting) 4 [BitVec.ofNat 8 k]
      s.takesCard (.line 0) 0 (· == 4) = true ∧ (s.line 0).call.state = .alerting ∧ (s.card (.line 0) 0).byte 6 = k ∧
        (∀ q, (s.pump q).state ≠ .free) ∧ 0 < (s.line 0).profile.answerPumpWait ∧ ((pool s).pump 0).state = .free ∧
        ∀ r < (0 : PumpId), ((pool s).pump r).state ≠ .free) ∧
    ∀ m ∈ [AnswerMode.data, .fax, .voice, .adaptive],
      let s := lineWith fun l =>
        { l with call := { l.call with state := .alerting }, profile := { l.profile with answerMode := m, ringsBeforeAnswer := 1 } }
      (s.line 0).call.state = .alerting ∧ s.monitor.suspended = false ∧ (s.line 0).profile.answerMode = m ∧
        (s.line 0).profile.ringsBeforeAnswer ≤ min 65535 ((s.line 0).call.ringCount + 1) := by decide +kernel

/-- An answer pump wait of 0 with no FREE pump. -/
theorem test_witness_AnswerOrder_no_wait :
    let s := (ordered (lineIn .alerting) 4 [1]).onLine 0 fun l => { l with profile := { l.profile with answerPumpWait := 0 } }
    s.takesCard (.line 0) 0 (· == 4) = true ∧ (s.line 0).call.state = .alerting ∧ (s.card (.line 0) 0).byte 6 = 1 ∧
      (∀ q, (s.pump q).state ≠ .free) ∧ (s.line 0).profile.answerPumpWait = 0 ∧ (s.line 0).seq.step ≠ .switchWait := by decide +kernel

/-- The answer sequence of line 0 at the end of its 300 ms, with a greeting slot. -/
def settles (slot : Option SlotId) (q : AnswerSeq → AnswerSeq) : State :=
  lineWith fun l => { l with
    call := { l.call with state := .answering }, seq := q { l.seq with settleTimer := .running 300 }
    profile := { l.profile with greetingSlot := slot, recordAfter := false } }

/-- The answer sequence of line 0 listening. -/
def listens (after : Bool) (q : AnswerSeq → AnswerSeq) : State :=
  lineWith fun l => { l with
    call := { l.call with state := .connected, service := .voice }
    seq := q { l.seq with step := .listen, listening := true, listenTimer := .running 5000 }
    profile := { l.profile with recordAfter := after } }

theorem test_witness_AnswerSequence :
    (let s := (settles (some 7) id).onSlot 7 fun x => { x with state := .loaded }
     (s.line 0).call.state = .answering ∧ (s.line 0).seq.settleTimer.isRunning = true ∧
      (s.line 0).profile.greetingSlot = some 7 ∧ (s.slot 7).state = .loaded) ∧
    (let s := settles (some 7) id
     (s.slot 7).state ≠ .loaded ∧ (s.line 0).seq.adaptive = false ∧ (s.line 0).profile.recordAfter = false) ∧
    (let s := settles none fun q => { q with adaptive := true }
     (s.line 0).profile.greetingSlot = none ∧ (s.line 0).seq.adaptive = true ∧ 0 < (s.line 0).profile.listenTime) ∧
    (∀ after ∈ [true, false], ∀ stopped ∈ [true, false],
      let s := listens after fun q => { q with greetingStopped := stopped }
      (s.line 0).seq.step = .listen ∧ (s.line 0).seq.listening = true ∧ (s.line 0).seq.listenTimer.isRunning = true ∧
        (s.line 0).profile.recordAfter = after ∧ (s.line 0).seq.greetingStopped = stopped) ∧
    ((live.message 0).state = .empty ∧ ∀ k < (0 : EntryId), (live.message k).state ≠ .empty) ∧
    (let s := { listens true id with messages := Vector.replicate 32 { Message.initial 0 with state := .complete } }
     (∀ m, (s.message m).state ≠ .empty) ∧ (s.line 0).voice.recording = none) := by decide +kernel

/-! ## Witnesses: voice, greetings, messages, blocks, clock and pumps -/

/-- A voice call of line 0, its voice state as given. -/
def talks (g : Voice → Voice) (f : Line → Line := id) : State :=
  lineWith fun l => f { l with call := { l.call with state := .connected, service := .voice }, voice := g l.voice }

/-- The Message Table with no EMPTY entry. -/
def full (s : State) : State := { s with messages := Vector.replicate 32 { Message.initial 0 with state := .complete } }

theorem test_witness_PlayRecordAndStop :
    (takenInEveryState 8 = true ∧ takenInEveryState 9 = true ∧ takenInEveryState 10 = true) ∧
    (let s := ordered (talks id) 9
     (s.line 0).connectedAs .voice = true ∧ (s.line 0).seq.step = .host ∧ (s.line 0).voice.recording = none ∧
      (s.line 0).voice.play = .none ∧ (s.message 0).state = .empty ∧ (∀ m, ((full s).message m).state ≠ .empty)) ∧
    (((talks fun v => { v with recording := some 0 }).line 0).voice.recording ≠ none ∧
      ((talks id fun l => { l with seq := { l.seq with step := .greeting } }).line 0).seq.step ≠ .host ∧
      ((talks fun v => { v with play := .slot 0 }).line 0).voice.play ≠ .none) ∧
    (∀ a ∈ [0, 1, 2, 3], ∀ b ∈ [7, 8], let s := ordered (talks id) 8 [BitVec.ofNat 8 a, BitVec.ofNat 8 b]
      s.takesCard (.line 0) 0 (· == 8) = true ∧ (s.card (.line 0) 0).byte 6 = a ∧ (s.card (.line 0) 0).byte 7 = b ∧
        (s.slot 7).state ≠ .loaded ∧ ((s.onSlot 7 fun x => { x with state := .loaded }).slot 7).state = .loaded) ∧
    (let s := hosted (ordered (talks id) 8 [2]) .voice [0x71, 0xA8]
     s.takesCard (.line 0) 0 (· == 8) = true ∧ s.store.validate .voice 255 ((s.card (.line 0) 0).word 8) = .ok [(0, 2)] ∧
      live.store.validate .voice 255 0 = .error ⟨0, .owner⟩) := by decide +kernel

theorem test_witness_TakeDigitsAndDigits :
    takenInEveryState 11 = true ∧ (live.line 0).connectedAs .voice = false ∧
    (∀ k ∈ [0, 1, 15, 16], ∀ st ∈ [SeqStep.host, .greeting, .listen], ∀ h ∈ [true, false], ∀ after ∈ [true, false],
      ∀ stopped ∈ [true, false],
      let s := (listens after fun q => { q with step := st, listening := h, greetingStopped := stopped }).onLine 0 fun l =>
        { l with voice := { l.voice with digits := List.replicate k 0x31 } }
      let l := s.line 0
      l.connectedAs .voice = true ∧ l.voice.recording = none ∧ l.seq.step = st ∧ l.seq.listening = h ∧
        l.voice.digits.length = k ∧ l.profile.recordAfter = after ∧ l.seq.greetingStopped = stopped) ∧
    ((live.message 0).state = .empty ∧ (∀ k < (0 : EntryId), (live.message k).state ≠ .empty) ∧
      ∀ m, ((full (listens true id)).message m).state ≠ .empty) ∧
    (let l := (talks fun v => { v with recording := some 31, stopOnDigit := true }).line 0
     l.connectedAs .voice = true ∧ l.voice.recording = some 31 ∧ l.voice.stopOnDigit = true ∧ l.voice.recKind = .automatic) := by
  decide +kernel

/-- A recording of line 0 into entry 31, its chain block 0 with a fill and a count of samples. -/
def records (fill count : Nat) (blocks : List Nat) : State :=
  (hosted (talks fun v => { v with recording := some 31 }) .voice [] fill).onMessage 31 fun m =>
    { m with state := .recording, blocks := blocks, sampleCount := count }

theorem test_witness_SamplesCodedAndDecoded :
    ((talks id).line 0).voice.play = .none ∧ ((talks id).line 0).voice.recording = none ∧
    (∀ k ∈ [0, 1], let v := ((talks fun v =>
        { v with play := .chain 0, playCard := some 7, playChain := [(0, 1)], playTotal := 2, samplesPlayed := k }).line 0).voice
      v.play = .chain 0 ∧ v.playCard = some 7 ∧ v.playTotal = 2 ∧ v.samplesPlayed = k) ∧
    (0 + 1 < 2 ∧ 2 ≤ 1 + 1 ∧ 7 < (live.line 0).table.cards.length) ∧
    (∀ count ∈ [2, 3], let s := records 2 count [0]
      (s.line 0).voice.recording = some 31 ∧ (s.message 31).blocks.getLast? = some 0 ∧ (s.message 31).sampleCount = count ∧
        (s.message 31).sampleCount + 1 < (s.line 0).profile.maxLength * 8000 ∧ s.store.fill 0 < 1016) ∧
    (let s := records 1016 2032 [0]
     s.store.fill 0 = 1016 ∧ (s.message 31).sampleCount % 2 = 0 ∧ min s.hdr.reserve.toNat 64 < s.store.free.length ∧
      (s.message 31).sampleCount + 1 < (s.line 0).profile.maxLength * 8000) ∧
    (let s := owned (records 1 0 []) [.free] [0]
     (s.message 31).blocks = [] ∧ (s.message 31).sampleCount % 2 = 0 ∧ s.store.free.length ≤ min s.hdr.reserve.toNat 64) := by
  decide +kernel

/-- A sample judged before it is coded is counted off; one heard later joins the present frame, and the 81st begins the next. -/
theorem test_framing :
    Voice.hear { Voice.initial with ahead := 1, frame := [] } 7 = { Voice.initial with ahead := 0, frame := [] } ∧
    (Voice.hear { Voice.initial with frame := List.replicate 79 0 } 7).frame = List.replicate 79 0 ++ [7] ∧
    (Voice.hear { Voice.initial with frame := List.replicate 80 0 } 7).frame = [7] := by decide +kernel

theorem test_witness_GreetingsAndMessages :
    (∀ code ∈ [34, 35, 36, 37], ∀ k ∈ [7, 8, 31, 32], let s := asked live code [BitVec.ofNat 8 k]
      s.takesCard .engine 0 (· == code) = true ∧ (s.card .engine 0).byte 6 = k) ∧
    (∀ st ∈ [SlotState.empty, .loaded, .withdrawing], ∀ k ∈ [0, 1],
      let s := live.onSlot 7 fun x => { x with state := st, playCount := k }
      (s.slot 7).state = st ∧ (s.slot 7).playCount = k) ∧
    (let s := hosted (asked live 34 [7]) .voice [0x71]
     s.takesCard .engine 0 (· == 34) = true ∧ s.store.validate .voice 255 ((s.card .engine 0).word 8) = .ok [(0, 1)] ∧
      live.store.validate .voice 255 ((s.card .engine 0).word 8) = .error ⟨0, .owner⟩) ∧
    ((live.message 31).state ≠ .complete ∧
      let s := (asked live 36 [31, 0, 9]).onMessage 31 fun m => { m with state := .complete, number := 9 }
      (s.message 31).state = .complete ∧ (s.message 31).number = (s.card .engine 0).word 8) := by decide +kernel

theorem test_witness_UnknownOrdersTakeBlocksAndSetClock_engine :
    (let s := asked (owned live [.recv 0, .free] [1]) 33 [12]
     s.takesCard .engine 0 (· == 33) = true ∧ s.Sound) ∧ (asked live 38).takesCard .engine 0 (· == 38) = true :=
  ⟨⟨by decide +kernel, sound_of (.recv 0) (by decide +kernel) (by decide +kernel) (by decide +kernel) (by decide +kernel)⟩,
    by decide +kernel⟩

/-- The monitor as given, with a Pulse Period word. -/
def monitored (m : Monitor) (period mode : Word) : State :=
  { live with monitor := m, hdr := { live.hdr with pulsePeriod := period, pulseMode := mode } }

theorem test_witness_TickAndHostPulseMonitor_monitor :
    live.monitor.period = none ∧
    (monitored ⟨some 1, 1, 0, true, true⟩ 0 0).hdr.hostPulse ≠ (monitored ⟨some 1, 1, 0, true, true⟩ 0 0).monitor.sample ∧
    (∀ m ∈ [Monitor.mk (some 1) 0 0 false false, ⟨some 1, 0, 1, false, false⟩, ⟨some 1, 0, 3, true, true⟩],
      (monitored m 0 0).monitor = m ∧ (monitored m 0 0).hdr.hostPulse = m.sample ∧ m.period ≠ none ∧
        (m.unchanged + 1 < 3 ∨ m.silent = true)) ∧
    (let m : Monitor := ⟨some 1, 0, 2, false, false⟩
     (monitored m 1 0).hdr.hostPulse = m.sample ∧ 2 ≤ m.unchanged ∧ m.silent = false ∧ periodOf 1 ≠ none ∧
      (monitored m 1 0).hdr.pulseMode ≠ 1 ∧ (monitored m 1 1).hdr.pulseMode = 1 ∧ (monitored m 1 2).hdr.pulseMode ≠ 1) := by
  decide +kernel

/-- Pump 0 settling for a line or none, the line in a state. -/
def settling (n : Option LineId) (st : LineState) (f : Line → Line := id) : State :=
  (lineWith fun l => f { l with call := { l.call with state := st }, claim := some ⟨.answer, .running 60000⟩ }).onPump 0 fun _ =>
    Pump.inState .settling n

theorem test_witness_PumpSettles :
    (let s := settling none .idle
     s.port.engineRunning = true ∧ (s.pump 0).state = .settling ∧ (s.pump 0).line = none ∧ s.queue = ⟨[], []⟩) ∧
    (∀ st ∈ [LineState.queued, .answering], let s := settling (some 0) st
      (s.pump 0).state = .settling ∧ (s.pump 0).line = some 0 ∧ (s.line 0).call.state = st ∧
        (s.line 0).profile.blindDialling = false ∧ (s.line 0).claim = some ⟨.answer, .running 60000⟩ ∧
        (Timer.running 60000).isRunning = true ∧ Timer.running 60000 ≠ .running 0 ∧ ∀ q, q ≠ 0 → (s.pump q).state ≠ .free) ∧
    (let s := settling (some 0) .connected fun l => { l with seq := { l.seq with step := .switchWait } }
     (s.line 0).call.state = .connected ∧ (s.line 0).seq.step = .switchWait ∧ (s.line 0).voice.play = .none) ∧
    (let s := { pool (settling none .idle) with port := State.reset.port }.onPump 0 fun _ => Pump.initial
     s.port.engineRunning = false ∧ (s.pump 0).state = .settling ∧ (s.pump 0).line = none ∧ s.queue = ⟨[], []⟩ ∧
      ∀ q, q ≠ 0 → (s.pump q).state ≠ .settling) := by decide +kernel

/-- The first of the start-up settles, the others still to come. -/
theorem test_witness_PumpSettles_start_up :
    State.reset.port.engineRunning = false ∧ (State.reset.pump 0).state = .settling ∧ (State.reset.pump 0).line = none ∧
      State.reset.queue = ⟨[], []⟩ ∧ ∀ q, q ≠ 0 → (State.reset.pump q).state = .settling := by decide +kernel

/-- Claims waiting behind a pump that settles for no line. -/
theorem test_witness_PumpSettles_claims :
    (∀ q ∈ [WaitQueue.mk [1, 2] [3], ⟨[], [1, 2]⟩], let s := { settling none .idle with queue := q }
      (s.pump 0).state = .settling ∧ (s.pump 0).line = none ∧ s.queue = q ∧ ∀ r, r ≠ 0 → (s.pump r).state ≠ .free) ∧
    (1 : LineId) ∉ ([2] : List LineId) ∧ (1 : LineId) ∉ ([3] : List LineId) := by decide +kernel

/-- Blind dialling, and a play of a chain or a slot that a switch ends. -/
theorem test_witness_PumpSettles_blind :
    (let s := settling (some 0) .queued fun l => { l with profile := { l.profile with blindDialling := true } }
     (s.line 0).call.state = .queued ∧ (s.line 0).profile.blindDialling = true) ∧
    (∀ pl ∈ [Play.chain 0, .slot 7], ∀ x ∈ [SlotState.loaded, .withdrawing],
      let s := (settling (some 0) .connected fun l => { l with
        seq := { l.seq with step := .switchWait }
        voice := { l.voice with play := pl, playCard := some 7, playChain := [(0, 1)] } }).onSlot 7 fun g =>
          { g with state := x, playCount := 1 }
      (s.line 0).call.state = .connected ∧ (s.line 0).seq.step = .switchWait ∧ (s.line 0).voice.play = pl ∧
        (s.line 0).voice.playCard = some 7 ∧ 7 < (s.line 0).table.cards.length ∧ (s.slot 7).state = x ∧ (s.slot 7).playCount = 1) ∧
    ∃ w, Leads (.pauseEnd 0) (dials .pause [0x31] .pulse) w :=
  ⟨by decide +kernel, by decide +kernel, leads_of_goes (by decide +kernel)⟩

/-! ## Witnesses: what ends a call, the answer sequence and the profile -/

/-- Line 0 in a state with a HANGUP posted and its DIAL and ANSWER cards TAKEN, pump 0 as given, other lines' claims waiting. -/
def ending (st : LineState) (p : Pump) (q : WaitQueue) (f : Line → Line := id) : State :=
  let claims := fun (n : LineId) (l : Line) =>
    if n ∈ q.answer then { l with call := { l.call with state := .queued }, claim := some ⟨.answer, .running 9⟩ }
    else if n ∈ q.originate then { l with call := { l.call with state := .queued }, claim := some ⟨.originate, .running 9⟩ }
    else l
  let s := { live with queue := q, lines := Vector.ofFn fun n => claims n (live.line n) }
  let s := s.onLine 0 fun l => f { l with
    call := { l.call with state := st, pump := if p.state = .attached then some 0 else none }
    claim := if p.state = .settling ∧ p.line = some 0 then some ⟨.answer, .running 9⟩ else l.claim
    ctl := { l.ctl with dialCard := some 1, answerCard := some 2, stateTimer := .running 1000 } }
  (held (ordered s 5) (.line 0) [1, 2]).onPump 0 fun _ => p

theorem hangs_up {s : State} (h : s.takesCard (.line 0) 0 (· == 5) = true)
    (k : (s.line 0).call.state = .alerting ∨ (s.line 0).call.state = .queued ∨ (s.line 0).call.state.offHook = true) :
    EndsCall (.hangup 0 0) 0 .localCleared s := .inl ⟨0, rfl, h, k, rfl⟩

/-- The line ALERTING, its pump attached with no claim, an ANSWER or an ORIGINATE claim waiting, its pump settling, its claim queued. -/
theorem test_witness_CallEndAnswersAndReleases :
    ∀ s ∈ [ending .alerting (.inState .out none) ⟨[], []⟩, ending .connected (.inState .attached (some 0)) ⟨[], []⟩,
        ending .connected (.inState .attached (some 0)) ⟨[1, 2], [3]⟩, ending .connected (.inState .attached (some 0)) ⟨[], [3]⟩,
        ending .answering (.inState .settling (some 0)) ⟨[], [3]⟩, ending .queued (.inState .out none) ⟨[], [0, 3]⟩],
      EndsCall (.hangup 0 0) 0 .localCleared s ∧ s.LongOrdersTaken ∧ s.PumpsInOrder := by
  intro s h
  simp only [List.mem_cons, List.not_mem_nil, or_false] at h
  rcases h with rfl | rfl | rfl | rfl | rfl | rfl <;>
    refine ⟨hangs_up (by decide +kernel) (by decide +kernel), long_of (by decide +kernel), ⟨?_, ?_, ?_, ?_, ?_, ?_, ?_, ?_, ?_, ?_, ?_,
      ?_, ?_⟩⟩ <;> (try simp only [State.serves, State.queued]) <;> decide +kernel

/-- A store whose Line Profile of line 0 answers at the first ring, with an answer mode and an answer pump wait. -/
def rings (mode wait : Nat) (s : State) : State :=
  { s with
    store := { s.store with mem := Memory.setWord (Memory.setWord (Memory.setWord [] 0x522 mode) 0x524 1) 0x52C wait } }

/-- The profile that such a store gives, in each answer mode, with an answer pump wait of 0 s and of 10 s. -/
theorem test_witness_AnswerOrder_profile :
    ∀ k ∈ [1, 2, 3, 4], ∀ w ∈ [0, 10],
      let s := rings k w live
      let p := Profile.ofWords fun o => Memory.word s.store.mem (0x0500 + o)
      p.ringsBeforeAnswer = 1 ∧ p.answerPumpWait = w ∧ Memory.wf s.store.mem = true ∧ s.monitor.suspended = false ∧
        p.answerMode = (match k with | 1 => AnswerMode.data | 2 => .fax | 3 => .voice | _ => .adaptive) := by decide +kernel

/-- Lines that wait for a first ring: IDLE and HOLDOFF with and without a FREE pump, QUEUED in the queue and with its pump settling. -/
theorem test_witness_AnswerOrder_first_ring :
    (∀ s ∈ [lineIn .idle, pool (lineIn .idle), retries .holdoff, pool (retries .holdoff),
        ending .queued (.inState .out none) ⟨[], [0, 3]⟩, ending .queued (.inState .settling (some 0)) ⟨[], [3]⟩],
      (rings 1 10 s).PumpsInOrder ∧ (∀ q, (rings 1 10 s).serves q 0 → ((rings 1 10 s).pump q).state = .settling)) ∧
    (∀ s ∈ [lineIn .idle, retries .holdoff, ending .queued (.inState .out none) ⟨[], [0, 3]⟩,
        ending .queued (.inState .settling (some 0)) ⟨[], [3]⟩], ∀ q, (s.pump q).state ≠ .free) ∧
    (∀ s ∈ [pool (lineIn .idle), pool (retries .holdoff)], (s.pump 0).state = .free ∧ ∀ r < (0 : PumpId), (s.pump r).state ≠ .free) ∧
    (let s := rings 1 10 (ending .queued (.inState .out none) ⟨[], [0, 3]⟩)
     s.LongOrdersTaken ∧ (s.line 0).fm.retryPending = false ∧ (s.line 0).ctl.dialCard = some 1) := by
  refine ⟨fun s h => ?_, by decide +kernel, by decide +kernel, long_of (by decide +kernel), by decide +kernel⟩
  simp only [List.mem_cons, List.not_mem_nil, or_false] at h
  rcases h with rfl | rfl | rfl | rfl | rfl | rfl <;>
    refine ⟨⟨?_, ?_, ?_, ?_, ?_, ?_, ?_, ?_, ?_, ?_, ?_, ?_, ?_⟩, ?_⟩ <;>
      (try simp only [State.serves, State.queued]) <;> decide +kernel

/-- The other ways that end a call, each with the state of a line that it finds. -/
theorem test_witness_EndsCall :
    (let s := posted (lineIn .queued) .engine 3 39 [0]
     s.takesCard .engine 3 (· == 39) = true ∧ (s.card .engine 3).byte 6 = 0 ∧ (s.line 0).call.state = .queued) ∧
    (let s := pumped .connected .data .carrying fun l => { l with ctl := { l.ctl with loopMeasuring := true } }
     (s.line 0).ctl.loopMeasuring = true ∧ (s.line 0).call.state.offHook = true) ∧
    (∀ st ∈ [LineState.progress, .seized, .training],
      ((timed st).line 0).call.state = st ∧ ((timed st).line 0).ctl.stateTimer.isRunning = true) ∧
    (let l := (dialling .dialling .waitTone).line 0
     l.call.state = .dialling ∧ l.dialler.phase = .waitTone) ∧
    (let l := (pumped .training .data .carrying fun l =>
        { l with link := { l.link with state := .opening, openTimer := .running 5000, held := true, holdTimer := .running 5000 } }).line 0
     l.call.state.offHook = true ∧ l.link.state = .opening ∧ l.link.openTimer.isRunning = true ∧ l.link.held = true ∧
      l.link.holdTimer.isRunning = true) ∧
    (let s := (pumped .connected .data .carrying).onPump 0 fun p => { p with carrierTimer := .running 700 }
     (s.line 0).call.state.offHook = true ∧ s.measuresCarrier 0 = true ∧ (s.line 0).ctl.loopMeasuring = false) ∧
    (let l := (ending .queued (.inState .out none) ⟨[], [0]⟩).line 0
     l.call.state = .queued ∧ l.seq.step ≠ .switchWait ∧ l.claim = some ⟨.originate, .running 9⟩ ∧
      (Timer.running 9).isRunning = true) := by decide +kernel

/-- A voice call that ends while it records for a RECORD card and plays a chain or the slot 7 for a PLAY card. -/
def voiced (p : Play) (x : SlotState) : State :=
  let s := ending .connected (.inState .out none) ⟨[], []⟩ fun l => { l with
    call := { l.call with service := .voice }
    voice := { l.voice with
      play := p, playCard := some 3, playChain := [(0, 1)], recording := some 31, recKind := .host 4 } }
  (held (held s (.line 0) [3, 4]) .engine [2]).onSlot 7 fun g => { g with state := x, playCount := 1, unloadCard := some 2 }

theorem test_witness_CallEndEndsRecordingAndPlay :
    (∀ s ∈ [voiced .none .loaded, voiced (.chain 0) .loaded, voiced (.slot 7) .loaded, voiced (.slot 7) .withdrawing],
      EndsCall (.hangup 0 0) 0 .localCleared s ∧ s.LongOrdersTaken ∧ (s.line 0).call.service = .voice ∧
        (s.line 0).fax.role ≠ .receiver ∧ (s.line 0).voice.recording = some 31 ∧ (s.line 0).voice.recKind = .host 4) ∧
    ((talks id).line 0).voice.recording = none := by
  refine ⟨fun s h => ?_, by decide +kernel⟩
  simp only [List.mem_cons, List.not_mem_nil, or_false] at h
  rcases h with rfl | rfl | rfl | rfl <;>
    exact ⟨hangs_up (by decide +kernel) (by decide +kernel), long_of (by decide +kernel), by decide +kernel⟩

/-- A call in QUEUED, its DIAL card TAKEN, that a ring cuts, and a STOP that finds a PLAY and a RECORD. -/
theorem test_witness_long_orders_cut :
    (let s := ending .queued (.inState .out none) ⟨[], [0]⟩
     s.LongOrdersTaken ∧ (s.line 0).fm.retryPending = false ∧ (s.line 0).ctl.dialCard = some 1 ∧ (s.line 0).call.state = .queued ∧
      Memory.wf s.store.mem = true) ∧
    (let s := posted (voiced (.chain 0) .loaded) (.line 0) 0 10 []
     s.LongOrdersTaken ∧ s.takesCard (.line 0) 0 (· == 10) = true ∧ (s.line 0).voice.playCard = some 3 ∧
      (s.line 0).voice.recKind = .host 4 ∧ (s.line 0).call.state ≠ .off ∧ (s.line 0).call.state ≠ .fault) :=
  ⟨⟨long_of (by decide +kernel), by decide +kernel⟩, ⟨long_of (by decide +kernel), by decide +kernel⟩⟩

/-- A STOP that finds an automatic recording or one for a card, with no play, a play of a chain, of a LOADED or a WITHDRAWING slot. -/
theorem test_witness_PlayRecordAndStop_stops :
    ∀ k ∈ [RecordingKind.automatic, .host 4], ∀ pl ∈ [Play.none, .chain 0, .slot 7], ∀ x ∈ [SlotState.loaded, .withdrawing],
      let s := (posted (voiced pl x) (.line 0) 0 10 []).onLine 0 fun l => { l with voice := { l.voice with recKind := k } }
      s.takesCard (.line 0) 0 (· == 10) = true ∧ (s.line 0).connectedAs .voice = true ∧ (s.line 0).fax.role ≠ .receiver ∧
        (s.line 0).voice.recording = some 31 ∧ (s.line 0).voice.recKind = k ∧ (s.line 0).voice.play = pl ∧ (s.slot 7).state = x ∧
        (s.slot 7).playCount ≤ 1 ∧ (s.slot 7).unloadCard = some 2 ∧ 2 < s.engTable.cards.length := by decide +kernel

/-- The last sample of a slot play that a card waits for, in a LOADED and a WITHDRAWING slot, and the last sample of a recording's time. -/
theorem test_witness_SamplesCodedAndDecoded_ends :
    (∀ x ∈ [SlotState.loaded, .withdrawing],
      let s := (voiced (.slot 7) x).onLine 0 fun l => { l with voice := { l.voice with playTotal := 2, samplesPlayed := 1 } }
      (s.line 0).voice.play = .slot 7 ∧ (s.line 0).voice.playCard = some 3 ∧ 3 < (s.line 0).table.cards.length ∧
        (s.line 0).voice.playTotal ≤ (s.line 0).voice.samplesPlayed + 1 ∧ (s.slot 7).state = x ∧ (s.slot 7).playCount = 1 ∧
        (s.slot 7).unloadCard = some 2 ∧ 2 < s.engTable.cards.length) ∧
    (∀ k ∈ [RecordingKind.automatic, .host 7], let s := (records 2 ((live.line 0).profile.maxLength * 8000 - 1) [0]).onLine 0 fun l =>
        { l with voice := { l.voice with recKind := k } }
      (s.line 0).voice.recording = some 31 ∧ (s.message 31).blocks.getLast? = some 0 ∧ (s.line 0).voice.recKind = k ∧
        (s.line 0).profile.maxLength * 8000 ≤ (s.message 31).sampleCount + 1 ∧ (s.message 31).sampleCount % 2 = 1 ∧
        7 < (s.line 0).table.cards.length) := by decide +kernel

/-- The words of a profile all 0, and all 65535. -/
theorem test_profile_extremes :
    let low := Profile.ofWords fun _ => 0
    let high := Profile.ofWords fun _ => 65535
    low.dialMode = .tone ∧ low.answerMode = .none ∧ low.greetingSlot = some 0 ∧ low.minRung = 1 ∧ low.maxRung = 1 ∧ low.minRowTime = 0 ∧
    low.policy .faxFailed = .latch ∧ low.recordAfter = false ∧ high.dialMode = .tone ∧ high.answerMode = .none ∧
    high.greetingSlot = none ∧ high.minRung = 14 ∧ high.maxRung = 14 ∧ high.minRowTime = 40 ∧ high.policy .noDialTone = .report ∧
    high.recordAfter = true := by decide +kernel

/-- A voice settle with nothing to listen for or a listen time of 0, recording after it or not, an entry EMPTY or none. -/
theorem test_witness_AnswerSequenceGoesOn_settle :
    (∀ after ∈ [true, false], ∀ adaptive ∈ [true, false],
      let s := (settles none fun q => { q with adaptive := adaptive }).onLine 0 fun l =>
        { l with profile := { l.profile with recordAfter := after, listenTime := 0 } }
      (s.line 0).call.state = .answering ∧ (s.line 0).seq.settleTimer.isRunning = true ∧ (s.line 0).profile.greetingSlot = none ∧
        (s.line 0).profile.listenTime = 0 ∧ (s.line 0).profile.recordAfter = after ∧ (s.line 0).voice.recording = none) ∧
    ((settles none id).message 0).state = .empty ∧ (∀ k < (0 : EntryId), ((settles none id).message k).state ≠ .empty) ∧
    ∀ m, ((full (settles none id)).message m).state ≠ .empty := by decide +kernel

/-- A greeting of slot 7 at its last sample, the answer sequence as given. -/
def greets (time : Nat) (after : Bool) (q : AnswerSeq → AnswerSeq) : State :=
  (talks (fun v => { v with play := .slot 7, playChain := [(0, 1)], playTotal := 2, samplesPlayed := 1 }) fun l => { l with
    seq := q { l.seq with step := .greeting }, profile := { l.profile with listenTime := time, recordAfter := after } }).onSlot 7 fun g =>
    { g with state := .loaded, playCount := 1 }

theorem test_witness_AnswerSequenceGoesOn_greeting :
    (∀ time ∈ [0, 5], ∀ after ∈ [true, false], ∀ l ∈ [true, false], ∀ st ∈ [true, false],
      let s := greets time after fun q => { q with listening := l, greetingStopped := st }
      (s.line 0).voice.play = .slot 7 ∧ (s.line 0).voice.playCard = none ∧
        (s.line 0).voice.playTotal ≤ (s.line 0).voice.samplesPlayed + 1 ∧ (s.slot 7).state = .loaded ∧ (s.line 0).seq.step = .greeting ∧
        (s.line 0).seq.listening = l ∧ (s.line 0).profile.listenTime = time ∧ (s.line 0).profile.recordAfter = after ∧
        (s.line 0).seq.greetingStopped = st) ∧
    (let s := ordered (greets 0 true id) 10
     s.takesCard (.line 0) 0 (· == 10) = true ∧ (s.line 0).connectedAs .voice = true ∧ (s.line 0).voice.recording = none) ∧
    ∀ m, ((full (greets 0 true id)).message m).state ≠ .empty := by decide +kernel

/-- A switch claim whose wait limit expires, under each policy, the greeting still playing or not. -/
theorem test_witness_AnswerSequenceGoesOn_switch :
    (∀ a ∈ [Policy.latch, .retry, .report, .silent], ∀ d ∈ [Direction.answer, .originate], ∀ p ∈ [Play.none, .slot 7],
      let s := talks (fun v => { v with play := p }) fun l => { l with
        call := { l.call with direction := d }, claim := some ⟨.answer, .running 3000⟩, seq := { l.seq with step := .switchWait }
        profile := { l.profile with policies := List.replicate 10 a, retryLimit := 1 } }
      (s.line 0).connectedAs .voice = true ∧ (s.line 0).seq.step = .switchWait ∧ (s.line 0).claim = some ⟨.answer, .running 3000⟩ ∧
        (Timer.running 3000).isRunning = true ∧ (s.line 0).profile.policy .noPump = a ∧ (s.line 0).call.direction = d ∧
        (s.line 0).voice.play = p ∧ (s.line 0).voice.playCard = none ∧
        (s.line 0).applied .noPump = if d = .answer ∧ a = .retry then .report else a) ∧
    (∀ k, ((talks id).pump k).line ≠ some 0) := by decide +kernel

/-- Fields at the ends of their lengths, and texts of a record with and without a WITHHELD mark. -/
theorem test_witness_CallerBursts_fields :
    (∀ k ∈ [8, 1, 16, 15], ∀ b ∈ List.replicate k (0x39 : Byte), 0x30 ≤ b.toNat ∧ b.toNat ≤ 0x39) ∧
    goodField (0x21, List.replicate 8 0x30) = true ∧ goodField (0x22, List.replicate 17 0x30) = false ∧
    goodField (0x23, []) = false ∧ goodField (0x24, List.replicate 15 0) = true ∧ goodField (0x25, []) = true ∧
    noTwice [(0x21, []), (0x25, []), (0x25, [])] = true ∧ noTwice [(0x24, []), (0x24, [])] = false ∧
    filedRecord [(0x22, [0x31]), (0x23, [0]), (0x24, [0x41, 0x1F])] = ⟨.withheld, [], [0x41, 0x3F], []⟩ ∧
    filedRecord [(0x22, [0x31])] = ⟨.present, [0x31], [], []⟩ ∧ ((decodes ⟨true, some 0x41⟩).line 0).dec = ⟨true, some 0x41⟩ := by
  decide +kernel

/-! ## Witnesses: grade, rate and carrier -/

/-- The highest margin at the rung from which training chooses 14 and 1, the lowest at which it chooses none. -/
theorem test_witness_TrainingSuccess :
    (∀ v ∈ [Service.data, .fax], ∀ d ∈ [Direction.originate, .answer],
      let s := pumped .training v .training fun l => { l with call := { l.call with direction := d } }
      ((s.line 0).call.pump = some 0 ∧ (s.pump 0).state = .attached ∧ (s.pump 0).line = some 0 ∧ (s.pump 0).carrierLost = false) ∧
        (s.line 0).call.state = .training ∧ (s.pump 0).activity = .training ∧ (s.line 0).call.service = v ∧
        (s.line 0).call.direction = d ∧ (s.line 0).link.inFlight = false ∧ (s.line 0).link.sending = none ∧
        (s.line 0).link.replies = [] ∧ (s.line 0).fax.pages = [] ∧ (s.line 0).fax.offerHeld = none ∧
        (s.line 0).profile.maxRung = 14 ∧ (s.line 0).profile.minRung = 1) ∧
    margin 65535 1 = 160 ∧ margin 1 1 = 0 ∧
    (∀ farMax ∈ [0, 1, 14, 15], let top := min 14 (max 1 (min 14 farMax))
      1 ≤ top ∧ min 1 top ≤ top ∧ 24 + 8 * top ≤ 160) ∧
    (∀ top k : Nat, top < k → k ≤ top → 160 < 24 + 8 * k) ∧ (∀ r : Nat, 1 ≤ r → 0 < 24 + 8 * r) ∧
    (let s := pumped .training .fax .training fun l => { l with fax := { l.fax with pages := [⟨0, 0, [(0, 1)], false, false⟩] } }
     (s.line 0).fax.pages ≠ [] ∧ (s.line 0).fax.offerHeld = none) := by
  refine ⟨by decide +kernel, by decide +kernel, by decide +kernel, by decide +kernel, fun _ _ _ _ => by omega, fun _ _ => by omega,
    by decide +kernel⟩

/-- An Offer held from PROGRESS by a sender with a page, its fields at the ends of their ranges, the rung told before none, another or
the same. -/
theorem test_witness_TrainingSuccess_held :
    ∀ o ∈ [Offer.mk 0 true 0 0, ⟨9, false, 41, 3⟩, ⟨1, true, 5, 2⟩, ⟨6, true, 20, 1⟩], ∀ r ∈ [0, 1, 6],
      let s := pumped .training .fax .training fun l =>
        { l with
          call := { l.call with direction := .originate }, grade := { l.grade with rung := r }
          fax := { l.fax with pages := [⟨0, 0, [(0, 1)], false, false⟩], offerHeld := some o } }
      (s.line 0).call.direction = .originate ∧ (s.line 0).fax.pages ≠ [] ∧ (s.line 0).fax.offerHeld = some o ∧
        (s.line 0).grade.rung = r ∧ (s.line 0).profile.faxMaxRung = 6 ∧ (s.line 0).call.state = .training ∧
        (s.line 0).call.service = .fax := by decide +kernel

/-- A carrying line, its grade state as given. -/
def graded (st : LineState) (v : Service) (g : Grade → Grade) (f : Line → Line := id) : State :=
  pumped st v .carrying fun l => f { l with grade := g l.grade }

/-- The default profile's bounds, which the grading witnesses rest on. -/
theorem default_profile_of_grading :
    let p := (live.line 0).profile
    p.upMargin = 8 ∧ p.upWindows = 20 ∧ p.downWindows = 3 ∧ p.collapseThreshold = 20 ∧ p.collapseTime = 5 ∧ p.retrainLimit = 3 := by
  decide +kernel

theorem test_witness_GradingWindows :
    ((1 : Word).toNat < 2 ^ 1 ∧ 2 ^ 0 ≤ (1 : Word).toNat ∧ 2 ^ 15 ≤ (65535 : Word).toNat ∧ (65535 : Word).toNat < 2 ^ 16) ∧
    (∀ st ∈ [LineState.training, .retraining, .clearing, .connected], ∀ v ∈ [Service.data, .fax],
      let s := graded st v id
      ((s.line 0).call.pump = some 0 ∧ (s.pump 0).state = .attached ∧ (s.pump 0).line = some 0 ∧ (s.pump 0).carrierLost = false) ∧
        (s.pump 0).activity = .carrying ∧ (s.pump 0).holding = false ∧ (s.line 0).call.state = st ∧
        (s.line 0).call.service = v ∧ (s.line 0).grade.rate = .settled) ∧
    margin 1 1 = 0 ∧ margin 65535 1 = 160 ∧ smooth 0 0 = 0 ∧ smooth 2560 160 = 2560 ∧ (0 + 8) / 16 < 20 ∧ ¬ (2560 + 8) / 16 < 20 ∧
    (∀ c ∈ [48, 49], ((graded .connected .data fun g => { g with collapseCount := c }).line 0).grade.collapseCount = c) ∧
    ¬ 5 * 10 ≤ 48 + 1 ∧ 5 * 10 ≤ 49 + 1 ∧
    (∀ a ∈ [Policy.latch, .retry, .report, .silent],
      ((graded .connected .fax id fun l => { l with profile := { l.profile with policies := List.replicate 10 a } }).line 0).applied
        .gradeCollapse = a) ∧
    (∀ up ∈ [18, 19], ∀ down ∈ [1, 2], ∀ n ∈ [2, 3], ∀ f ∈ [0, 3], ∀ rung ∈ [13, 14],
      let l := (graded .connected .data
        (fun g => { g with acc := 2560, rung := rung, ceiling := 14, floor := 13, upCount := up, downCount := down, retrainCount := n })
        fun l => { l with link := { l.link with frameErrors := f } }).line 0
      l.grade.acc = 2560 ∧ l.grade.rung = rung ∧ l.grade.ceiling = 14 ∧ l.grade.floor = 13 ∧ l.grade.upCount = up ∧
        l.grade.downCount = down ∧ l.grade.retrainCount = n ∧ l.link.frameErrors = f ∧ l.grade.rate = .settled) ∧
    24 + 8 * (13 + 1) + 8 ≤ (2560 + 8) / 16 ∧ ¬ (2560 + 8) / 16 < 24 + 8 * 14 ∧
    (∀ k : Nat, 13 < k → k < 14 → (2560 + 8) / 16 < 24 + 8 * k) ∧
    (∀ r : Nat, 13 ≤ r → r < 13 → (2560 + 8) / 16 < 24 + 8 * r) := by
  refine ⟨by decide, by decide +kernel, by decide +kernel, by decide +kernel, by decide +kernel, by decide +kernel, by decide, by decide,
    by decide +kernel, by decide, by decide, by decide +kernel, by decide +kernel, by decide, by decide, fun _ _ _ => by omega,
    fun _ _ _ => by omega⟩

/-- A collapse of a data line under each policy. -/
theorem test_witness_GradingWindows_collapse :
    ∀ a ∈ [Policy.latch, .retry, .report, .silent],
      let l := (graded .connected .data (fun g => { g with acc := 0, collapseCount := 49 }) fun l =>
        { l with profile := { l.profile with policies := List.replicate 10 a } }).line 0
      l.call.service = .data ∧ l.grade.rate = .settled ∧ l.grade.collapseCount = 49 ∧
        (l.applied .gradeCollapse = .latch ∨ l.applied .gradeCollapse = a) := by decide +kernel

/-- Line 0 with its pump at an activity, a rate state and a count of retrains, its link as given. -/
def rated (a : Activity) (r : RateState) (count : Nat) (k : Link → Link) (st : LineState := .connected) : State :=
  pumped st .data a fun l => { l with grade := { l.grade with rate := r, retrainCount := count }, link := k l.link }

theorem test_witness_ShiftsRetrainsAndCarrier :
    (∀ a ∈ [Activity.shifting, .retraining, .carrying], ∀ count ∈ [2, 3], ∀ st ∈ [LineState.connected, .retraining],
      let s := rated a (if a = .shifting then .shifting 9 else .settled) count
        (fun k => { k with state := .up, replyDue := some (.receipt 3) }) st
      ((s.line 0).call.pump = some 0 ∧ (s.pump 0).state = .attached ∧ (s.pump 0).line = some 0 ∧ (s.pump 0).carrierLost = false) ∧
        (s.pump 0).activity = a ∧ (a = .shifting → (s.line 0).grade.rate = .shifting 9) ∧ (s.line 0).grade.retrainCount = count ∧
        (s.line 0).profile.retrainLimit = 3 ∧ (s.line 0).call.state = st ∧ (s.line 0).call.state.offHook = true ∧
        (s.line 0).call.service = .data ∧ (s.line 0).link.state = .up ∧ (s.line 0).link.sending = none ∧
        (s.line 0).link.replyDue.isSome = true) ∧
    (let k := ((rated .shifting (.shifting 9) 0 fun k => { k with state := .up }).line 0).link
     k.sending = none ∧ k.replyDue = none ∧ k.resends = [] ∧ k.sendList = []) ∧
    (∀ top k : Nat, top < k → k ≤ top → 160 < 24 + 8 * k) ∧ (∀ r : Nat, 1 ≤ r → 0 < 24 + 8 * r) ∧
    (let s := (pumped .connected .data .carrying fun l => { l with ctl := { l.ctl with loopMeasuring := true } }).onPump 0 fun p =>
        { p with carrierTimer := .running 700 }
     (s.pump 0).carrierTimer.isRunning = true ∧ (s.line 0).ctl.loopMeasuring = true) := by
  refine ⟨by decide +kernel, by decide +kernel, fun _ _ _ _ => by omega, fun _ _ => by omega, by decide +kernel⟩

/-- A completion that finds the call in TRAINING, with no reply due and with one. -/
theorem test_witness_ShiftsRetrainsAndCarrier_training :
    ∀ due ∈ [none, some (LinkFrame.receipt 3)],
      let s := rated .retraining .settled 0 (fun k => { k with state := .opening, replyDue := due }) .training
      (s.pump 0).activity = .retraining ∧ (s.line 0).call.state = .training ∧ (s.line 0).link.state = .opening ∧
        (s.line 0).link.sending = none ∧ (s.line 0).link.replyDue = due := by decide +kernel

/-- A retrain attempt that has failed leaves its completion without effect; the fresh attempt is the one that completes (R71). -/
theorem test_witness_ShiftsRetrainsAndCarrier_attempts :
    let s := rated .retraining .retraining 1 (fun k => { k with state := .up }) .retraining
    let u := s.attemptFailed ⟨0, 1⟩
    (s.pump 0).activity = .retraining ∧ (s.line 0).call.state.offHook = true ∧ s.inAttempt ⟨0, 1⟩ = true ∧ s.inAttempt ⟨0, 2⟩ = false ∧
      u.inAttempt ⟨0, 1⟩ = false ∧ u.inAttempt ⟨0, 2⟩ = true ∧ (u.line 0).grade.retrainCount = 2 ∧
      (s.onPump 0 fun p => { p with activity := .carrying }).inAttempt ⟨0, 1⟩ = false := by decide +kernel

/-! ## Witnesses: the link -/

/-- Line 0 CONNECTED-DATA, its pump carrying, its link as given over window 8 and information length 128. -/
def linked (k : Link → Link) (f : Line → Line := id) : State :=
  pumped .connected .data .carrying fun l =>
    f { l with link := k { l.link with state := .up, window := 8, infoLength := 128 } }

theorem linked_works : (linked id).Works 0 0 ∧ ((linked id).pump 0).activity = .carrying ∧ ((linked id).pump 0).holding = false :=
  ⟨works_of (by decide +kernel), by decide +kernel⟩

/-- A chain of 200 bytes accepted with card 0, its bytes framed and acknowledged. -/
def sendChain (framed acked : Nat) : SendChain := ⟨0, [(0, 200)], framed, acked⟩

/-- The two frames that carry it. -/
def twoFrames (tries : Nat) : List SentFrame := [⟨0, 0, 0, 128, tries⟩, ⟨1, 0, 128, 72, 1⟩]

theorem test_witness_LinkSending :
    (((linked id).line 0).link.replies = [] ∧ ((linked fun k => { k with replies := [.receipt 3] }).line 0).link.replies = [.receipt 3] ∧
      ((linked id).line 0).link.state = .up ∧ ((linked id).line 0).link.held = false ∧ ((linked id).line 0).link.inFlight = false ∧
      ((linked fun k => { k with held := true }).line 0).link.held = true) ∧
    (let k := ((linked fun k =>
        { k with resends := [1], sendWindow := twoFrames 1, sendList := [sendChain 200 0], nextSend := 2 }).line 0).link
     k.resends = [1] ∧ k.sendWindow.find? (fun x : SentFrame => x.number == 1) = some ⟨1, 0, 128, 72, 1⟩ ∧
      k.sendList.find? (fun x : SendChain => x.card == 0) = some (sendChain 200 0)) ∧
    (8 ≤ (List.replicate 8 (⟨0, 0, 0, 1, 1⟩ : SentFrame)).length ∧ ∀ c ∈ [sendChain 200 0], c.chain.bytes ≤ c.framed) ∧
    (let k := ((linked fun k => { k with sendList := [sendChain 128 0] }).line 0).link
     k.resends = [] ∧ k.sendWindow.length < k.window ∧ k.sendList = [] ++ sendChain 128 0 :: [] ∧
      (k.sendList.map SendChain.card).Nodup ∧ (sendChain 128 0).framed < (sendChain 128 0).chain.bytes) := by decide +kernel

theorem test_witness_LinkSending_send :
    takenInEveryState 6 = true ∧
    (let s := hosted (ordered (linked id) 6) .plain [1, 2, 3]
     s.takesCard (.line 0) 0 (· == 6) = true ∧ (s.line 0).connectedAs .data = true ∧ (s.line 0).link.state = .up ∧
      s.store.validate .plain 64 ((s.card (.line 0) 0).word 8) = .ok [(0, 3)] ∧ 0 < Chain.bytes [(0, 3)] ∧
      (live.store.validate .plain 64 0) = .error ⟨0, .owner⟩ ∧ (s.line 0).link.sending = none ∧ (s.line 0).link.replies = [] ∧
      (s.line 0).link.resends = [] ∧ (s.line 0).link.sendList = [] ∧ (s.line 0).link.sendWindow.length < (s.line 0).link.window) ∧
    (∀ k ∈ [5, 6], let s := ordered (linked fun l =>
        { l with sendList := List.replicate k (sendChain 200 0), sending := some (.receipt 0) }) 6
      s.takesCard (.line 0) 0 (· == 6) = true ∧ (s.line 0).link.sendList.length = k ∧ (s.line 0).link.sending.isSome = true) := by
  decide +kernel

/-- A SEND accepted while the link is held, the rate in flight, the Send Window full, or the pump not carrying. -/
theorem test_witness_LinkSending_waits :
    let accepts := fun s : State => decide (s.takesCard (.line 0) 0 (· == 6) = true ∧ (s.line 0).connectedAs .data = true ∧
      (s.line 0).link.state = .up ∧ (s.line 0).link.sendList.length < 6 ∧ (s.line 0).link.replies = [] ∧
      (s.line 0).link.resends = [] ∧ s.store.validate .plain 64 ((s.card (.line 0) 0).word 8) = .ok [(0, 3)])
    let sends := fun s : State => hosted (ordered s 6) .plain [1, 2, 3]
    (∀ k ∈ [sends (linked fun k => { k with held := true }), sends (linked fun k => { k with inFlight := true }),
      sends (linked fun k => { k with sendWindow := List.replicate 8 ⟨0, 1, 0, 1, 1⟩ }),
      (sends (linked id)).onPump 0 fun p => { p with activity := .shifting },
      (sends (linked id)).onPump 0 fun p => { p with holding := true }], accepts k = true) ∧
    ((linked fun k => { k with sendWindow := List.replicate 8 ⟨0, 1, 0, 1, 1⟩ }).line 0).link.window ≤
      (List.replicate 8 (⟨0, 1, 0, 1, 1⟩ : SentFrame)).length := by decide +kernel

theorem test_witness_LinkSending_timers :
    (let k := ((linked fun k => { k with state := .opening, repeatTimer := .running 500 }).line 0).link
     k.state = .opening ∧ k.repeatTimer.isRunning = true ∧ k.inFlight = false ∧ k.sending = none ∧ k.replies = []) ∧
    (∀ tries ∈ [5, 6], let l := (linked fun k =>
        { k with sendWindow := twoFrames tries, sendList := [sendChain 200 0], nextSend := 2, replyTimer := .running 1000 }).line 0
      l.profile.tryLimit = 6 ∧ l.link.replyTimer.isRunning = true ∧ l.call.state.offHook = true ∧ l.link.sending = none ∧
        l.link.replies = [] ∧ l.link.state = .up ∧ l.link.held = false ∧ l.link.inFlight = false ∧
        l.link.sendList.find? (fun x : SendChain => x.card == 0) = some (sendChain 200 0)) := by decide +kernel

/-- Acknowledgements of none, one, two and three frames of a window of two that begins with frame 0. -/
theorem test_witness_LinkSending_acknowledgements :
    (∀ a ∈ [0, 1, 2, 3], Wire.receive (Wire.run (.receipt (BitVec.ofNat 7 a))) = some (.receipt (BitVec.ofNat 7 a)) ∧
      Wire.receive (Wire.run (.reject (BitVec.ofNat 7 a))) = some (.reject (BitVec.ofNat 7 a)) ∧
      Wire.receive (Wire.run (.hold (BitVec.ofNat 7 a))) = some (.hold (BitVec.ofNat 7 a)) ∧
      Wire.run (.receipt (BitVec.ofNat 7 a)) ≠ [] ∧ (BitVec.ofNat 7 a - 0).toNat = a) ∧
    (∀ tries ∈ [5, 6], let k := ((linked fun k =>
        { k with
          sendWindow := twoFrames tries, sendList := [sendChain 200 0], nextSend := 2, resends := [1]
          sending := some (.receipt 0) }).line 0).link
      k.state = .up ∧ k.sendWindow.length = 2 ∧ (∀ x ∈ k.sendList, x.acked < x.chain.bytes) ∧
        (∀ x ∈ k.resends, ∃ f ∈ k.sendWindow, f.number = x) ∧ k.sending.isSome = true ∧ (k.sendList.map SendChain.card).Nodup ∧
        (∀ f ∈ (k.sendWindow.drop 1).head?, f.tries < 6)) ∧
    (((linked fun k => { k with sending := some (.receipt 0) }).line 0).link.sendWindow = [] ∧
      ((linked id).line 0).profile.tryLimit = 6) := by decide +kernel

/-- Block 0 the RECV block of line 0 with a fill, block 1 FREE, the other blocks HOST. -/
def filling (s : State) (fill : Nat) : State :=
  { s with store := ⟨Memory.setWord [] 0x4002 fill, .recv 0 :: .free :: List.replicate 110 .host, [1]⟩ }.onLine 0 fun l =>
    { l with recvBlock := some 0 }

/-- No RECV block, blocks 0 and 1 FREE. -/
def unfilled (s : State) : State := owned s [.free, .free] [0, 1]

theorem unfilled_sound (s : State) (m : Memory.wf s.store.mem = true) (k : s.port.strap = .k128) : (unfilled s).Sound :=
  sound_of .free m rfl rfl k

theorem filling_sound (s : State) (fill : Nat) (m : Memory.wf (Memory.setWord [] 0x4002 fill) = true) (k : s.port.strap = .k128) :
    (filling s fill).Sound := sound_of (.recv 0) m rfl rfl k

theorem test_witness_LinkReceiving :
    (∀ st ∈ [LinkState.none, .opening, .up, .farClosed, .closed], ((linked fun k => { k with state := st }).line 0).link.state = st) ∧
    (Wire.run .linkClose ≠ [] ∧ Wire.receive (Wire.run .linkClose) = some .linkClose ∧ Wire.receive [0] = none ∧
      Wire.receive (Wire.run (.linkOpen 15 256)) = some (.linkOpen 15 256) ∧
      Wire.receive (Wire.run (.info 127 [0xA5, 0xC3])) = some (.info 127 [0xA5, 0xC3])) ∧
    (((linked id).line 0).link.sending = none ∧ ((linked id).line 0).link.replies = [] ∧ ((linked id).line 0).link.critical = false ∧
      ((linked fun k => { k with critical := true }).line 0).link.critical = true ∧
      ((linked fun k => { k with infoLength := 1 }).line 0).link.infoLength < [(0xA5 : Byte), 0xC3].length ∧
      ((linked fun k => { k with expected := 127 }).line 0).link.expected = 127 ∧
      ((linked fun k => { k with rejectSent := true }).line 0).link.rejectSent = true) ∧
    ((7 - 127 : BitVec 7).toNat ≤ 8 ∧ 8 < (8 - 127 : BitVec 7).toNat) := by decide +kernel

/-- One, two and more bytes than the RECV block has room for, and no RECV block. -/
theorem test_witness_LinkReceiving_stores :
    (unfilled (linked id)).Sound ∧ (∀ fill ∈ [1014, 1015], (filling (linked id) fill).Sound) ∧
    (filling (linked id) 1013).Sound ∧
    (∀ fill ∈ [1013, 1014, 1015], let s := filling (linked id) fill
      s.store.fill 0 = fill ∧ (s.line 0).recvBlock = some 0 ∧ s.store.owners[0]? = some (.recv 0) ∧ s.store.free = [1] ∧
        s.store.owners.count (.recv 0) + s.store.owners.count (.deliv 0) < (s.line 0).profile.receiveLimit ∧
        (s.line 0).delivered = []) ∧
    ((unfilled (linked id)).store.free = [0, 1] ∧ ((unfilled (linked id)).line 0).recvBlock = none ∧
      ((owned (linked id) [] []).store.free = [])) ∧
    1013 + 2 < 1016 ∧ 1014 + 2 = 1016 ∧ 1016 < 1015 + 2 := by
  refine ⟨unfilled_sound _ (by decide +kernel) (by decide +kernel), fun fill h => ?_, filling_sound _ _ (by decide +kernel) (by decide +kernel),
    by decide +kernel, by decide +kernel, by decide⟩
  simp only [List.mem_cons, List.not_mem_nil, or_false] at h
  rcases h with rfl | rfl <;> exact filling_sound _ _ (by decide +kernel) (by decide +kernel)

/-- An open DATA entry, its block outstanding. -/
def openEntry : Entry := ⟨.data, 0, 0, 1, [0], 1016, 0, .none, 0, false⟩

/-- An open PAGE entry whose block is outstanding. -/
def openPageEntry : Entry := { openEntry with kind := .page }

theorem test_witness_LinkReceiving_delivers :
    (let s := filling (linked fun k => { k with idleTimer := .running 50 }) 7
     (s.line 0).link.idleTimer.isRunning = true ∧ (s.line 0).link.state = .up ∧ (s.line 0).recvBlock = some 0 ∧
      s.store.owners[0]? = some (.recv 0) ∧ (s.line 0).delivered = []) ∧
    (((linked id).line 0).recvBlock = none ∧ ((linked id).line 0).delivered = []) ∧
    (let l := (linked id fun l => { l with delivered := [openEntry] }).line 0
     l.recvBlock = none ∧ l.delivered = [openEntry] ∧ openEntry.closed = false ∧ openEntry.kind = .data ∧
      ∀ e ∈ l.delivered, e.outstanding ≠ []) := by decide +kernel

/-- An open entry whose blocks have all been returned, on a line receive-critical or not, as the idle expiry or LINK-CLOSE finds it. -/
theorem test_witness_LinkReceiving_removal :
    let gone := { openEntry with outstanding := [] }
    ∀ c ∈ [true, false], ∀ sd ∈ [none, some (LinkFrame.hold 0)],
      let s := linked (fun k => { k with critical := c, sending := sd, idleTimer := .running 50 }) fun l =>
        { l with delivered := [{ openEntry with closed := true }] ++ gone :: [] }
      let l := s.line 0
      l.recvBlock = none ∧ gone.kind = .data ∧ gone.closed = false ∧ gone.outstanding = [] ∧ l.link.idleTimer.isRunning = true ∧
        l.link.state = .up ∧ l.link.critical = c ∧ l.link.sending = sd ∧ l.link.replies = [] ∧ s.store.free ≠ [] ∧
        s.store.owners.count (.recv 0) + s.store.owners.count (.deliv 0) ≤ l.profile.receiveLimit - 2 := by decide +kernel

theorem test_witness_LinkFramesRoundTrip :
    (∀ f ∈ [LinkFrame.info 127 (List.replicate 256 0xA5), .receipt 127, .reject 0, .hold 64, .linkOpen 1 1, .linkOpen 15 256,
      .linkClose], f.sendable = true) := by decide +kernel

/-! ## Witnesses: fax sessions -/

/-- A page of card 0 in block 0. -/
def aPage (last : Bool) : Page := ⟨0, 0, [(0, 4)], last, false⟩

/-- The sender of line 0, one page waiting, its session as given. -/
def sends (g : Fax → Fax) : State :=
  faxing .sender fun f => g { f with rung := 2, pages := [aPage true], orders := [⟨0, [.none], 0, 0⟩] }

theorem test_witness_FaxSender :
    (let s := sends id
     ((s.line 0).call.pump = some 0 ∧ (s.pump 0).state = .attached ∧ (s.pump 0).line = some 0 ∧ (s.pump 0).carrierLost = false) ∧
      (s.pump 0).activity = .carrying ∧ (s.pump 0).holding = false ∧ (s.line 0).connectedAs .fax = true ∧
      (s.line 0).fax.role = .sender) ∧
    ((sends fun f => { f with phase := .offer }).line 0).fax.phase = .offer ∧
    ((sends fun f => { f with work := .patternOut 2 }).line 0).fax.work = .patternOut 2 ∧
    (∀ a ∈ [0, 1], ∀ r ∈ [1, 2], let f := ((sends fun f =>
        { f with phase := .check, standing := some (.choice ⟨r, false, 0, 0⟩), checkAttempts := a, rung := r }).line 0).fax
      f.phase = .check ∧ f.standing.isSome = true ∧ f.checkAttempts = a ∧ f.rung = r ∧ f.pages = [aPage true]) ∧
    (let f := ((sends fun f => { f with work := .pageOut, pageCount := 65534 }).line 0).fax
     f.work = .pageOut ∧ f.pages = [aPage true] ∧ f.pageCount < 65535) := by decide +kernel

/-- Two pages of two orders, in POST. -/
def twoPages (pending last re : Bool) : Fax :=
  ((sends fun f =>
    { f with
      phase := .post, resendPending := pending, sentLast := last, retrainPending := re
      pages := [aPage true, { aPage true with card := 1 }] }).line 0).fax

theorem test_witness_FaxSender_verdicts :
    (∀ pending ∈ [true, false], ∀ last ∈ [true, false], ∀ re ∈ [true, false],
      let f := twoPages pending last re
      f.phase = .post ∧ f.resendPending = pending ∧ f.sentLast = last ∧ f.retrainPending = re ∧
        f.orders.find? (fun o : FaxOrder => o.card == 0) = some ⟨0, [.none], 0, 0⟩ ∧
        f.pages = [aPage true, { aPage true with card := 1 }] ∧ ∀ q ∈ [{ aPage true with card := 1 }], q.card ≠ 0) := by
  decide +kernel

theorem test_witness_FaxSender_expiries :
    (∀ e ∈ [2, 3], ∀ x ∈ [none, some FaxFrame.more, some .last, some (.choice ⟨1, false, 0, 0⟩)],
      let f := ((sends fun f => { f with standing := x, expiries := e, replyTimer := .running 3000 }).line 0).fax
      f.replyTimer.isRunning = true ∧ f.expiries = e ∧ f.standing = x) := by decide +kernel

/-- FAX PAGES with a page count, and a chain of one row of 2 bytes in block 0. -/
theorem test_witness_FaxSender_order :
    takenInEveryState 7 = true ∧
    (∀ k ∈ [0, 1, 8, 9], let s := ordered (lineIn .idle) 7 [BitVec.ofNat 8 k]
      s.takesCard (.line 0) 0 (· == 7) = true ∧ (s.line 0).call.state = .idle ∧ (s.card (.line 0) 0).byte 6 = k) ∧
    (∀ st ∈ [LineState.queued, .connected], let l := (lineIn st .fax).line 0
      l.call.direction = .originate ∧ l.call.service = .fax ∧ l.call.state = st) ∧
    (∀ k ∈ [15, 16], ((lineWith fun l => { l with fax := { l.fax with pages := List.replicate k (aPage false) } }).line 0).fax.pages.length
      = k) ∧
    (let s := hosted (ordered (lineIn .idle) 7 [1]) .rows [2, 0, 5, 6]
     (List.range 1).map (fun j => (s.card (.line 0) 0).word (8 + 2 * j)) = [0] ∧
      s.store.validatePages [] 0 [0] = .ok [[(0, 4)]] ∧ live.store.validatePages [] 0 [0] = .error (0, ⟨0, .owner⟩)) := by
  decide +kernel

/-- The receiver of line 0, its session as given. -/
def receives (g : Fax → Fax) (f : Line → Line := id) : State :=
  faxing .receiver (fun x => g { x with rung := 1 }) fun l => f { l with grade := { l.grade with acc := 2560 } }

theorem test_witness_FaxReceiver :
    (let s := receives id
     ((s.line 0).call.pump = some 0 ∧ (s.pump 0).state = .attached ∧ (s.pump 0).line = some 0 ∧ (s.pump 0).carrierLost = false) ∧
      (s.pump 0).activity = .carrying ∧ (s.pump 0).holding = false ∧ (s.line 0).connectedAs .fax = true ∧
      (s.line 0).fax.role = .receiver ∧ (s.line 0).profile.faxMaxRung = 6) ∧
    (let f := ((receives fun f => { f with phase := .offer }).line 0).fax
     f.phase ≠ .none ∧ f.phase ≠ .release) ∧
    ((receives fun f => { f with work := .patternIn 1 }).line 0).fax.work = .patternIn 1 ∧
    ((List.range (450 * 1)).countP (fun i => (List.replicate 446 (0x00 : Byte))[i]? != some 0x00) = 4 ∧
      (List.range (450 * 1)).countP (fun i => ((0xFF : Byte) :: List.replicate 445 0x00)[i]? != some 0x00) = 5 ∧
      4 * 100 ≤ 450 * 1 ∧ 450 * 1 < 5 * 100 ∧ 24 + 8 * 1 ≤ (2560 + 8) / 16) ∧
    (∀ e ∈ [2, 3], ∀ x ∈ [none, some FaxFrame.ready],
      let f := ((receives fun f => { f with carrierTimer := .running 3000, waitBefore := some ⟨.page, x, e⟩ }).line 0).fax
      f.carrierTimer.isRunning = true ∧ f.waitBefore = some ⟨.page, x, e⟩) ∧
    (let f := ((receives fun f => { f with phase := .page, pageCount := 65534 }).line 0).fax
     f.phase = .page ∧ f.work ≠ .pageIn ∧ f.pageCount < 65535) ∧
    (let f := ((receives fun f => { f with phase := .post, judged := some false }).line 0).fax
     f.phase = .post ∧ f.judged ≠ none) := by decide +kernel

/-- The bytes of a check pattern, and the errors of one with a wrong byte and a byte missing (04 R73). -/
theorem test_check_pattern :
    (checkPatternBytes 2).length = 900 ∧ erroredBytes 1 (checkPatternBytes 1) = 0 ∧
    erroredBytes 1 (0x01 :: List.replicate 448 0x00) = 2 := by decide +kernel

/-- A page coming in, its block with room for a row of 2 bytes and without, none at hand, none to be had, the Delivered List full. -/
theorem test_witness_FaxReceiver_rows :
    (∀ gone ∈ [true, false], let f := ((receives fun f => { f with work := .pageIn, page := some ⟨65534, 0, 0, 0, gone⟩ }).line 0).fax
      f.work = .pageIn ∧ f.page = some ⟨65534, 0, 0, 0, gone⟩) ∧
    (unfilled (receives id)).Sound ∧ (filling (receives id) 1012).Sound ∧ (filling (receives id) 1013).Sound ∧
    (∀ fill ∈ [1012, 1013], let s := filling (receives id) fill
      s.store.fill 0 = fill ∧ (s.line 0).recvBlock = some 0 ∧ s.store.owners[0]? = some (.recv 0) ∧ s.store.free = [1] ∧
        (s.line 0).delivered = []) ∧
    (1012 + 4 ≤ 1016 ∧ 1016 < 1013 + 4) ∧
    ((owned (receives id) [] []).store.free = [] ∧ ((owned (receives id) [] []).line 0).recvBlock = none) ∧
    (let l := (receives id fun l => { l with delivered := List.replicate 16 { openEntry with closed := true } }).line 0
     16 ≤ l.delivered.length ∧ ∀ e ∈ l.delivered, e.outstanding ≠ [] ∧ (e.closed = false → e.kind ≠ .page)) := by
  refine ⟨by decide +kernel, unfilled_sound _ (by decide +kernel) (by decide +kernel), filling_sound _ _ (by decide +kernel) (by decide +kernel),
    filling_sound _ _ (by decide +kernel) (by decide +kernel), by decide +kernel, by decide, by decide +kernel, by decide +kernel⟩

/-- `filling` with no block FREE. -/
def drained (s : State) (fill : Nat) : State :=
  { s with store := ⟨Memory.setWord [] 0x4002 fill, .recv 0 :: List.replicate 111 .host, []⟩ }.onLine 0 fun l =>
    { l with recvBlock := some 0 }

/-- A full block delivered with an empty free stack, into a new entry and into an open one. -/
theorem test_witness_FaxReceiver_lost :
    (∀ fill ∈ [1013, 1016], let s := drained (receives fun f => { f with work := .pageIn, page := some ⟨65534, 0, 0, 0, false⟩ }) fill
      (s.line 0).fax.work = .pageIn ∧ (s.line 0).fax.page = some ⟨65534, 0, 0, 0, false⟩ ∧ (s.line 0).recvBlock = some 0 ∧
        s.store.owners[0]? = some (.recv 0) ∧ 1016 < s.store.fill 0 + 4 ∧ s.store.free = [] ∧ (s.line 0).delivered.length < 16) ∧
    ((drained (receives id fun l => { l with delivered := [] ++ { openPageEntry with blockCount := 65534 } :: [] }) 1016).line 0).delivered =
      [{ openPageEntry with blockCount := 65534 }] ∧
    (drained (receives id) 1013).Sound ∧ (drained (receives id) 1016).Sound := by
  refine ⟨by decide +kernel, by decide +kernel, ?_, ?_⟩ <;>
    exact sound_of_none (by decide +kernel) rfl rfl (by decide +kernel)

theorem test_witness_FaxReceiver_closes :
    (let s := filling (receives fun f => { f with phase := .post, page := some ⟨1, 0, 0, 0, false⟩ }) 4
     (s.line 0).fax.phase = .post ∧ (s.line 0).fax.judged = none ∧ (s.line 0).fax.page = some ⟨1, 0, 0, 0, false⟩ ∧
      (s.line 0).recvBlock = some 0 ∧ s.store.owners[0]? = some (.recv 0) ∧ (s.line 0).delivered = []) ∧
    (let l := (receives fun f => { f with phase := .page }).line 0
     l.fax.phase = .page ∧ l.fax.work ≠ .pageIn ∧ l.recvBlock = none) ∧
    (∀ ph ∈ [FaxPhase.post, .release], ∀ last ∈ [true, false], let f := ((receives fun f =>
        { f with phase := ph, judged := some last, standing := some (.verdict .good 1 0) }).line 0).fax
      f.phase = ph ∧ f.judged = some last ∧ f.standing = some (.verdict .good 1 0)) := by decide +kernel

/-! ## Witnesses: services torn down at the end of a call, and open entries -/

/-- A data call that ends with a HANGUP, a chain half acknowledged under card 3. -/
def unlinked (k : Link → Link) (f : Line → Line := id) : State :=
  held (ending .connected (.inState .attached (some 0)) ⟨[], []⟩ fun l => f { l with
    call := { l.call with service := .data }
    link := k { l.link with state := .up, sendList := [⟨3, [(2, 100), (3, 100)], 200, 130⟩] } }) (.line 0) [3]

/-- `unlinked` with its RECV block, an open entry before it and none, with no RECV block, and with an open entry whose block has been
returned; and as its carrier is lost. -/
theorem test_witness_CallEndTearsDownTheLink :
    (∀ s ∈ [filling (unlinked id) 7, filling (unlinked id fun l => { l with delivered := [openEntry] }) 7, unfilled (unlinked id),
        unfilled (unlinked id fun l => { l with delivered := [{ openEntry with outstanding := [] }] })],
      EndsCall (.hangup 0 0) 0 .localCleared s ∧ s.LongOrdersTaken ∧ s.Sound ∧ (s.line 0).call.service = .data ∧
        (s.line 0).voice.play = .none ∧ (s.line 0).fax.role ≠ .receiver ∧ (s.line 0).link.state = .up ∧
        (s.line 0).call.pump = some 0 ∧ (s.pump 0).state = .attached ∧ (s.pump 0).line = some 0) ∧
    (let s := (filling (unlinked id) 7).onPump 0 fun p => { p with carrierTimer := .running 700 }
     EndsCall (.carrierLossExpiry 0) 0 (.fault .carrierLost) s ∧ s.LongOrdersTaken ∧ s.Sound ∧ (s.line 0).link.state = .up ∧
      (s.line 0).call.pump = some 0 ∧ (s.pump 0).state = .attached ∧ (s.pump 0).line = some 0) ∧
    (CallOutcome.localCleared ≠ .remoteCleared ∧ CallOutcome.fault .carrierLost ≠ .remoteCleared) ∧
    ([(2, 100), (3, 100)] : Chain) = [(2, 100)] ++ (3, 100) :: [] ∧ ([((2 : Nat), 100)].map Prod.snd).sum ≤ 130 ∧
    130 < ([((2 : Nat), 100)].map Prod.snd).sum + 100 := by
  refine ⟨fun s h => ?_, ⟨?_, long_of (by decide +kernel), ?_, by decide +kernel⟩, by decide, by decide, by decide, by decide⟩
  · simp only [List.mem_cons, List.not_mem_nil, or_false] at h
    rcases h with rfl | rfl | rfl | rfl <;>
      refine ⟨hangs_up (by decide +kernel) (by decide +kernel), long_of (by decide +kernel), ?_, by decide +kernel⟩
    · exact filling_sound _ _ (by decide +kernel) (by decide +kernel)
    · exact filling_sound _ _ (by decide +kernel) (by decide +kernel)
    · exact unfilled_sound _ (by decide +kernel) (by decide +kernel)
    · exact unfilled_sound _ (by decide +kernel) (by decide +kernel)
  · iterate 9 refine .inr ?_
    exact .inl ⟨rfl, by decide +kernel, by decide +kernel, by decide +kernel, rfl⟩
  · exact sound_of (.recv 0) (by decide +kernel) rfl rfl (by decide +kernel)

/-- A fax call that ends with a HANGUP, its session and Delivered List as given. -/
def unfaxed (d : Direction) (g : Fax → Fax) (f : Line → Line := id) : State :=
  held (ending .connected (.inState .attached (some 0)) ⟨[], []⟩ fun l => f { l with
    call := { l.call with service := .fax, direction := d }
    fax := g { l.fax with pages := [⟨3, 0, [(2, 4)], true, false⟩], orders := [⟨3, [.none], 0, 255⟩] } }) (.line 0) [3]

/-- A sender, a retry pending or not; a receiver with no page open, and with one and no RECV block, a block with an open entry, with room
for one, with none. -/
theorem test_witness_CallEndTearsDownTheFaxSession :
    (∀ s ∈ [unfaxed .originate fun f => { f with role := .sender }, unfaxed .answer fun f => { f with role := .receiver },
        unfaxed .answer fun f => { f with role := .receiver, page := some ⟨1, 0, 0, 0, false⟩ },
        filling (unfaxed .answer (fun f => { f with role := .receiver, page := some ⟨1, 0, 0, 0, false⟩ }) fun l =>
          { l with delivered := [openPageEntry] }) 7,
        filling (unfaxed .answer fun f => { f with role := .receiver, page := some ⟨1, 0, 0, 0, false⟩ }) 7,
        filling (unfaxed .answer (fun f => { f with role := .receiver, page := some ⟨1, 0, 0, 0, false⟩ }) fun l =>
          { l with delivered := List.replicate 16 { openPageEntry with closed := true } }) 7],
      EndsCall (.hangup 0 0) 0 .localCleared s ∧ s.LongOrdersTaken ∧ (s.line 0).call.service = .fax ∧ (s.line 0).voice.play = .none ∧
        (∀ e ∈ (s.line 0).delivered, e.outstanding ≠ [] ∧ e.blockCount < 65535) ∧ (∀ x ∈ (s.line 0).fax.orders, x.cutShort ≤ 255)) ∧
    ((filling (unfaxed .answer id) 7).line 0).recvBlock = some 0 ∧
    (filling (unfaxed .answer id) 7).store.owners[0]? = some (.recv 0) := by
  refine ⟨fun s h => ?_, by decide +kernel, by decide +kernel⟩
  simp only [List.mem_cons, List.not_mem_nil, or_false] at h
  rcases h with rfl | rfl | rfl | rfl | rfl | rfl <;>
    exact ⟨hangs_up (by decide +kernel) (by decide +kernel), long_of (by decide +kernel), by decide +kernel⟩

/-- An open entry that a full block, a block of the idle expiry or of LINK-CLOSE joins, and one from whose last block a new block is
linked; seven blocks before the eighth. -/
theorem test_witness_BlocksJoinOpenEntries :
    (∀ count ∈ [6, 7], let s := filling (linked (fun k => { k with expected := 127, idleTimer := .running 50 }) fun l =>
        { l with delivered := [] ++ { openEntry with blockCount := count } :: [{ openEntry with closed := true }] }) 1014
      s.store.fill 0 + [(0xA5 : Byte), 0xC3].length = 1016 ∧ s.store.owners[0]? = some (.recv 0) ∧ (s.line 0).recvBlock = some 0 ∧
        (s.line 0).link.state = .up ∧ (s.line 0).link.critical = false ∧ (s.line 0).link.expected = 127 ∧
        (s.line 0).link.idleTimer.isRunning = true ∧ (s.line 0).delivered.length < 16 ∧ s.store.free ≠ [] ∧
        s.store.owners.count (.recv 0) + s.store.owners.count (.deliv 0) < (s.line 0).profile.receiveLimit ∧
        (∀ x ∈ [{ openEntry with closed := true }], x.closed = true ∧ x.outstanding ≠ [])) ∧
    (filling (linked id) 1014).Sound ∧ (unfilled (linked id)).Sound ∧
    (let s := (owned (linked id fun l => { l with delivered := [{ openEntry with last := 2 }] }) [.free, .free, .deliv 0] [0, 1])
     s.store.free = 0 :: [1] ∧ (s.line 0).recvBlock = none ∧ s.store.owners[2]? = some (.deliv 0) ∧ (2 : Nat) ≠ 0) ∧
    (∀ reserve ∈ [2, 3], min (reserve : Nat) 64 = reserve) ∧ (2 ≤ 2 ∧ 2 - 1 < 2 ∧ ¬ 3 ≤ 2) := by
  refine ⟨by decide +kernel, filling_sound _ _ (by decide +kernel) (by decide +kernel),
    unfilled_sound _ (by decide +kernel) (by decide +kernel), by decide +kernel, by decide, by decide⟩

/-- A page whose open entry a full block, or the last block of the page, joins, and the end of a page with no block. -/
theorem test_witness_BlocksJoinOpenEntries_pages :
    let e := { openPageEntry with blockCount := 65534 }
    (∀ fill ∈ [1013, 1016], let s := filling (receives (fun f => { f with work := .pageIn, page := some ⟨1, 0, 0, 0, false⟩ }) fun l =>
        { l with delivered := [{ openPageEntry with closed := true }] ++ e :: [] }) fill
      (s.line 0).fax.work = .pageIn ∧ (s.line 0).fax.page = some ⟨1, 0, 0, 0, false⟩ ∧ (s.line 0).recvBlock = some 0 ∧
        s.store.owners[0]? = some (.recv 0) ∧ 1016 < s.store.fill 0 + (2 + min [(5 : Byte), 6].length 1014) ∧ s.store.free = 1 :: []) ∧
    (let f := ((receives fun f => { f with phase := .post, page := some ⟨1, 0, 0, 0, false⟩ }).line 0).fax
     f.phase = .post ∧ f.judged = none) ∧
    (e.kind = .page ∧ e.closed = false ∧ e.blockCount < 65535 ∧ e.outstanding ≠ []) ∧
    (filling (receives id) 1013).Sound ∧ ((receives id).line 0).recvBlock = none ∧
    ((asked live 33 [0]).takesCard .engine 0 (· == 33) = true ∧ (live.line 0).voice.play = .none) := by
  refine ⟨by decide +kernel, by decide +kernel, by decide, filling_sound _ _ (by decide +kernel) (by decide +kernel), by decide +kernel,
    by decide +kernel⟩

/-- A sender whose Page List is empty when its pattern is accepted, and at a verdict on its last page with MORE sent. -/
theorem test_witness_FaxSender_empty_list :
    (let f := ((sends fun f => { f with phase := .check, standing := some (.choice ⟨2, false, 0, 0⟩), pages := [] }).line 0).fax
     f.phase = .check ∧ f.standing.isSome = true ∧ f.pages = []) ∧
    (let f := ((sends fun f => { f with phase := .post, sentLast := false }).line 0).fax
     f.phase = .post ∧ f.sentLast = false ∧ f.retrainPending = false ∧ f.pages = aPage true :: []) := by decide +kernel

theorem test_witness_FaxReceiver_expiries :
    (∀ e ∈ [2, 3], ∀ ph ∈ [FaxPhase.post, .release], ∀ x ∈ [none, some (FaxFrame.verdict .good 1 0)],
      let f := ((receives fun f => { f with phase := ph, standing := x, expiries := e, replyTimer := .running 3000 }).line 0).fax
      f.replyTimer.isRunning = true ∧ f.expiries = e ∧ f.phase = ph ∧ f.standing = x) ∧
    ∀ x ∈ [none, some (FaxFrame.verdict .good 1 0)], ∀ c, x ≠ some (.choice c) :=
  ⟨by decide +kernel, by simp⟩

end Sys2Proof.Tests
end

/-! O24: ENABLE (01 R18), by what the order does in OFF, in FAULT and in any other state. -/

namespace Sys2Proof.Machine

/-! ## Short orders that move the line -/

/-- A line that has entered a state, its state timer with it. -/
def Line.entered (l : Line) (target : LineState) (t : Timer) : Line :=
  { l with call := { l.call with state := target }, ctl := { l.ctl with stateTimer := t } }

/-- The entry to a state is one change of the line. -/
theorem State.enter_eq_onLine (s : State) (n : LineId) (target : LineState) (t : Timer) :
    s.enter n target t = s.onLine n fun l => l.entered target t := by
  unfold State.enter State.onCall State.onCtl
  rw [State.onLine_onLine]
  rfl

/-- A short order that moves the line to another state. -/
theorem State.shortOrder_enter {s : State} {n : LineId} {i : Nat} {codes : Nat → Bool}
    (h : s.takesCard (.line n) i codes = true) (target : LineState) (t : Timer) (st : Status) (r k : Nat) (fs : List Byte) :
    State.ShortOrder n i st r k fs ((s.line n).entered target t) s
      (s.commit (((s.taking (.line n) i).enter n target t).answerWith (.line n) i st r k fs)) := by
  rw [State.enter_eq_onLine]
  exact State.shortOrder h (fun l => l.entered target t) st r k fs

/-- The call record after a short order is that of the line the order gives. -/
theorem State.ShortOrder.call_line {n : LineId} {i : Nat} {st : Status} {r k : Nat} {fs : List Byte} {l : Line} {s t : State}
    (h : State.ShortOrder n i st r k fs l s t) : (t.line n).call = l.call := by
  obtain ⟨tb, c, rest⟩ := h.rest
  rw [rest, State.line_onLine_self]

/-- A line in IDLE has its ring detector armed (R2). -/
theorem Line.armed_of_idle {l : Line} (h : l.call.state = .idle) : l.armed = true := by
  simp only [Line.armed, h]

/-! ## What ENABLE does, by the line's state (R18) -/

theorem State.enableOrder_of_off {s : State} {n : LineId} (h : (s.line n).call.state = .off) (i : Nat) :
    s.enableOrder n i = (s.enter n .idle .stopped).answer (.line n) i .done 0 [] := by
  simp only [State.enableOrder, h]

theorem State.enableOrder_of_fault {s : State} {n : LineId} (h : (s.line n).call.state = .fault) (i : Nat) :
    s.enableOrder n i = s.answer (.line n) i .refusedState 13 [] := by
  simp only [State.enableOrder, State.refuseState, h, LineState.code]

theorem State.enableOrder_of_other {s : State} {n : LineId} (hoff : (s.line n).call.state ≠ .off)
    (hfault : (s.line n).call.state ≠ .fault) (i : Nat) : s.enableOrder n i = s.answer (.line n) i .done 0 [] := by
  unfold State.enableOrder
  split
  case h_1 off => exact absurd off hoff
  case h_2 fault => exact absurd fault hfault
  case h_3 => rfl

/-- An ENABLE to whose card the running sweep comes is carried out with the card taken (R173). -/
theorem exec_enable_taken {s : State} {n : LineId} {i : Fin 8} (h : s.takesCard (.line n) i.val (· == 1) = true) :
    exec (.enable n i) s = done s ((s.taking (.line n) i.val).enableOrder n i.val) := by
  have dispatch : exec (.enable n i) s = execEnable n i s := rfl
  rw [dispatch, execEnable, takeOrder_taken h]

/-- Settles O24, by the state of the line: in each branch of R18 the command is a short order of the line. -/
theorem enableOrder : Obligations.EnableOrder := by
  unfold Obligations.EnableOrder
  intro n i s h
  have taken : ((s.taking (.line n) i.val).line n).call.state = (s.line n).call.state := by rw [State.call_line_taking]
  rw [exec_enable_taken h]
  refine ⟨fun off => ⟨_, rfl, ?_⟩, fun fault => ⟨_, rfl, ?_⟩, fun hoff hfault => ⟨_, rfl, ?_⟩⟩
  · rw [State.enableOrder_of_off (taken.trans off)]
    have order := State.shortOrder_enter h .idle .stopped .done 0 0 []
    exact ⟨order, Line.armed_of_idle (congrArg CallRecord.state order.call_line)⟩
  · rw [State.enableOrder_of_fault (taken.trans fault)]
    exact State.shortOrder_same h .refusedState 13 0 []
  · rw [State.enableOrder_of_other (taken.trans_ne hoff) (taken.trans_ne hfault)]
    exact State.shortOrder_same h .done 0 0 []

end Sys2Proof.Machine

/-! O27: CLEAR FAULT and CLEAR RETRY COUNT (11 R186), each by the states in which it is accepted and in which it is refused. -/

namespace Sys2Proof.Machine

/-! ## Short orders that clear a field of the fault record -/

/-- A change of the fault record and the entry to a state after it are one change of the line. -/
theorem State.enter_onFm_eq_onLine (s : State) (n : LineId) (f : FaultRecord → FaultRecord) (target : LineState) (t : Timer) :
    (s.onFm n f).enter n target t = s.onLine n fun l => { l with fm := f l.fm }.entered target t := by
  rw [State.enter_eq_onLine]
  exact State.onLine_onLine s n _ _

/-- A short order that changes the fault record and moves the line to another state. -/
theorem State.shortOrder_onFm_enter {s : State} {n : LineId} {i : Nat} {codes : Nat → Bool}
    (h : s.takesCard (.line n) i codes = true) (f : FaultRecord → FaultRecord) (target : LineState) (t : Timer)
    (st : Status) (r k : Nat) (fs : List Byte) :
    State.ShortOrder n i st r k fs ({ s.line n with fm := f (s.line n).fm }.entered target t) s
      (s.commit ((((s.taking (.line n) i).onFm n f).enter n target t).answerWith (.line n) i st r k fs)) := by
  rw [State.enter_onFm_eq_onLine]
  exact State.shortOrder h (fun l => { l with fm := f l.fm }.entered target t) st r k fs

/-- A short order that changes nothing but the fault record. -/
theorem State.shortOrder_onFm {s : State} {n : LineId} {i : Nat} {codes : Nat → Bool}
    (h : s.takesCard (.line n) i codes = true) (f : FaultRecord → FaultRecord) (st : Status) (r k : Nat) (fs : List Byte) :
    State.ShortOrder n i st r k fs { s.line n with fm := f (s.line n).fm } s
      (s.commit (((s.taking (.line n) i).onFm n f).answerWith (.line n) i st r k fs)) :=
  State.shortOrder h (fun l => { l with fm := f l.fm }) st r k fs

/-- An order refused for the line's state is a short order that gives the state before it as its reason (R17). -/
theorem State.shortOrder_refuseState {s : State} {n : LineId} {i : Nat} {codes : Nat → Bool}
    (h : s.takesCard (.line n) i codes = true) :
    State.ShortOrder n i .refusedState (s.line n).call.state.code 0 [] (s.line n) s
      (s.commit ((s.taking (.line n) i).refuseState n i)) := by
  rw [State.refuseState, State.call_line_taking]
  exact State.shortOrder_same h .refusedState (s.line n).call.state.code 0 []

/-! ## What CLEAR FAULT does, by the line's state (R186) -/

theorem State.clearFaultOrder_of_fault {s : State} {n : LineId} (h : (s.line n).call.state = .fault) (i : Nat) :
    s.clearFaultOrder n i =
      ((s.onFm n fun f => { f with latch := none }).enter n .idle .stopped).answer (.line n) i .done
        (((s.line n).fm.latch.map FaultKind.code).getD 0) [] := by
  rw [State.clearFaultOrder, if_pos h]

theorem State.clearFaultOrder_of_other {s : State} {n : LineId} (h : (s.line n).call.state ≠ .fault) (i : Nat) :
    s.clearFaultOrder n i = s.refuseState n i := by
  rw [State.clearFaultOrder, if_neg h]

/-- A CLEAR FAULT to whose card the running sweep comes is carried out with the card taken (R173). -/
theorem exec_clearFault_taken {s : State} {n : LineId} {i : Fin 8} (h : s.takesCard (.line n) i.val (· == 12) = true) :
    exec (.clearFault n i) s = done s ((s.taking (.line n) i.val).clearFaultOrder n i.val) := by
  have dispatch : exec (.clearFault n i) s = execClearFault n i s := rfl
  rw [dispatch, execClearFault, takeOrder_taken h]

/-- In FAULT a CLEAR FAULT ends the latch, answers the kind that was latched, and leaves the line in IDLE. -/
theorem exec_clearFault_of_fault {s : State} {n : LineId} {i : Fin 8} (h : s.takesCard (.line n) i.val (· == 12) = true)
    (fault : (s.line n).call.state = .fault) :
    ∃ t, exec (.clearFault n i) s = .next t ∧
      State.ShortOrder n i.val .done (((s.line n).fm.latch.map FaultKind.code).getD 0) 0 []
        ({ s.line n with fm := { (s.line n).fm with latch := none } }.entered .idle .stopped) s t := by
  have taken : ((s.taking (.line n) i.val).line n).call.state = .fault := by rw [State.call_line_taking, fault]
  refine ⟨_, exec_clearFault_taken h, ?_⟩
  rw [State.clearFaultOrder_of_fault taken, State.fm_line_taking]
  exact State.shortOrder_onFm_enter h (fun f => { f with latch := none }) .idle .stopped .done _ 0 []

/-- In any other state a CLEAR FAULT is refused. -/
theorem exec_clearFault_of_other {s : State} {n : LineId} {i : Fin 8} (h : s.takesCard (.line n) i.val (· == 12) = true)
    (other : (s.line n).call.state ≠ .fault) :
    ∃ t, exec (.clearFault n i) s = .next t ∧
      State.ShortOrder n i.val .refusedState (s.line n).call.state.code 0 [] (s.line n) s t := by
  have taken : ((s.taking (.line n) i.val).line n).call.state ≠ .fault := by rwa [State.call_line_taking]
  refine ⟨_, exec_clearFault_taken h, ?_⟩
  rw [State.clearFaultOrder_of_other taken]
  exact State.shortOrder_refuseState h

/-! ## What CLEAR RETRY COUNT does, by the line's state (R186) -/

theorem State.clearRetryCountOrder_of_off {s : State} {n : LineId} (h : (s.line n).call.state = .off) (i : Nat) :
    s.clearRetryCountOrder n i = s.refuseState n i := by
  rw [State.clearRetryCountOrder, if_pos h]

theorem State.clearRetryCountOrder_of_on {s : State} {n : LineId} (h : (s.line n).call.state ≠ .off) (i : Nat) :
    s.clearRetryCountOrder n i =
      (s.onFm n fun f => { f with retryCount := 0 }).answer (.line n) i .done 0 [BitVec.ofNat 8 (s.line n).fm.retryCount] := by
  rw [State.clearRetryCountOrder, if_neg h, byteOf, pow_zero, Nat.div_one]

/-- A CLEAR RETRY COUNT to whose card the running sweep comes is carried out with the card taken (R173). -/
theorem exec_clearRetryCount_taken {s : State} {n : LineId} {i : Fin 8} (h : s.takesCard (.line n) i.val (· == 13) = true) :
    exec (.clearRetryCount n i) s = done s ((s.taking (.line n) i.val).clearRetryCountOrder n i.val) := by
  have dispatch : exec (.clearRetryCount n i) s = execClearRetryCount n i s := rfl
  rw [dispatch, execClearRetryCount, takeOrder_taken h]

/-- In OFF a CLEAR RETRY COUNT is refused; the code of OFF is 0. -/
theorem exec_clearRetryCount_of_off {s : State} {n : LineId} {i : Fin 8} (h : s.takesCard (.line n) i.val (· == 13) = true)
    (off : (s.line n).call.state = .off) :
    ∃ t, exec (.clearRetryCount n i) s = .next t ∧ State.ShortOrder n i.val .refusedState 0 0 [] (s.line n) s t := by
  have taken : ((s.taking (.line n) i.val).line n).call.state = .off := by rw [State.call_line_taking, off]
  refine ⟨_, exec_clearRetryCount_taken h, ?_⟩
  rw [State.clearRetryCountOrder_of_off taken]
  have refused := State.shortOrder_refuseState h
  rwa [off] at refused

/-- In every other state a CLEAR RETRY COUNT zeroes the retry count and answers the count before. -/
theorem exec_clearRetryCount_of_on {s : State} {n : LineId} {i : Fin 8} (h : s.takesCard (.line n) i.val (· == 13) = true)
    (on : (s.line n).call.state ≠ .off) :
    ∃ t, exec (.clearRetryCount n i) s = .next t ∧
      State.ShortOrder n i.val .done 0 0 [BitVec.ofNat 8 (s.line n).fm.retryCount]
        { s.line n with fm := { (s.line n).fm with retryCount := 0 } } s t := by
  have taken : ((s.taking (.line n) i.val).line n).call.state ≠ .off := by rwa [State.call_line_taking]
  refine ⟨_, exec_clearRetryCount_taken h, ?_⟩
  rw [State.clearRetryCountOrder_of_on taken, State.fm_line_taking]
  exact State.shortOrder_onFm h (fun f => { f with retryCount := 0 }) .done 0 0 _

/-- Settles O27, by the order and the state of the line; the ring detector is armed because CLEAR FAULT leaves the line in IDLE. -/
theorem clearFaultAndClearRetryCount : Obligations.ClearFaultAndClearRetryCount := by
  unfold Obligations.ClearFaultAndClearRetryCount
  intro n i s
  refine ⟨fun h => ⟨fun fault => ?_, exec_clearFault_of_other h⟩,
    fun h => ⟨exec_clearRetryCount_of_off h, exec_clearRetryCount_of_on h⟩⟩
  obtain ⟨t, next, order⟩ := exec_clearFault_of_fault h fault
  exact ⟨t, next, order, Line.armed_of_idle (congrArg CallRecord.state order.call_line)⟩

end Sys2Proof.Machine

/-! What a step is: an idle step, or the front command of the queue; and the invariants that the effect of every command keeps. -/

namespace Sys2Proof.Machine

/-! ## The front command -/

theorem step_of_empty {s : State} (h : s.pending = []) : step s = .next s := by
  simp only [step, h]

theorem step_of_cons {s : State} {c : Instr} {rest : List Instr} (h : s.pending = c :: rest) :
    step s = exec c (s.withQueue rest) := by
  simp only [step, h]

/-- Everything a step can do: it idles, or it runs a command of the queue on the state with other commands waiting. -/
theorem step_cases {s t : State} (h : step s = .next t) : t = s ∨ ∃ c rest, exec c (s.withQueue rest) = .next t := by
  cases q : s.pending with
  | nil => exact .inl (Host.Outcome.next.inj (h.symm.trans (step_of_empty q)))
  | cons c rest => exact .inr ⟨c, rest, (step_of_cons q).symm.trans h⟩

/-- An invariant that does not read the waiting commands is kept by every step where every command keeps it. -/
theorem step_keeps {P : State → Prop} (queue : ∀ (s : State) (q : List Instr), P s → P (s.withQueue q))
    (command : ∀ (c : Instr) (s t : State), P s → exec c s = .next t → P t) {s t : State} (hs : P s) (h : step s = .next t) : P t := by
  obtain rfl | ⟨c, rest, e⟩ := step_cases h
  · exact hs
  · exact command c _ t (queue s rest hs) e

/-- Settles O1: the front command of a queue is the one that runs, and an empty queue idles. -/
theorem stepRunsTheFrontCommand : Obligations.StepRunsTheFrontCommand := by
  unfold Obligations.StepRunsTheFrontCommand
  exact ⟨fun _ _ _ => step_of_cons rfl, fun _ => step_of_empty⟩

/-! ## Resets, odd offsets, and every other command -/

/-- Every command that goes on is an engine reset or keeps what `Keeps` says. -/
theorem exec_reset_or_keeps {c : Instr} {s t : State} (h : exec c s = .next t) : (∃ k, t = s.engineReset k) ∨ Keeps s t := by
  by_cases hr : ∃ k, c = .engineReset k
  · obtain ⟨k, rfl⟩ := hr
    exact .inl ⟨k, (Host.Outcome.next.inj h).symm⟩
  by_cases hc : ∃ v k, c = .ctrlReset v k
  · obtain ⟨v, k, rfl⟩ := hc
    exact .inl ⟨k, (Host.Outcome.next.inj h).symm⟩
  have hw : ∀ o v, c = .hostStoreWrite o v → o.getLsbD 0 = false := by
    rintro o v rfl
    cases odd : o.getLsbD 0 with
    | false => rfl
    | true => simp [exec, execHostStoreWrite, odd] at h
  have ho : ∀ o, c = .hostStoreRead o → o.getLsbD 0 = false := by
    rintro o rfl
    cases odd : o.getLsbD 0 with
    | false => rfl
    | true => simp [exec, execHostStoreRead, odd] at h
  obtain ⟨u, hu, k⟩ := exec_keeps (fun k e => hr ⟨k, e⟩) (fun v k e => hc ⟨v, k, e⟩) hw ho s
  obtain rfl := Host.Outcome.next.inj (h.symm.trans hu)
  exact .inr k

/-- The state after an engine reset is that of a reset machine but for the bytes kept, the outputs, the draws, the waiting commands and
the word last read. -/
theorem State.engineReset_eq (s : State) (k : StoreSize) :
    s.engineReset k = { State.resetWith k (keptBytes s.store.mem) s.outputs s.draws s.pending with
      port := { Port.initial k with readData := s.port.readData } } := rfl

@[simp] theorem State.line_engineReset (s : State) (k : StoreSize) (n : LineId) : (s.engineReset k).line n = .initial := by
  simp [State.engineReset_eq, State.line, State.resetWith]

@[simp] theorem State.message_engineReset (s : State) (k : StoreSize) (m : EntryId) : (s.engineReset k).message m = .initial 0 := by
  simp [State.engineReset_eq, State.message, State.resetWith]

@[simp] theorem State.pump_engineReset (s : State) (k : StoreSize) (p : PumpId) : (s.engineReset k).pump p = .initial := by
  simp [State.engineReset_eq, State.pump, State.resetWith]

@[simp] theorem State.slot_engineReset (s : State) (k : StoreSize) (g : SlotId) : (s.engineReset k).slot g = .initial := by
  simp [State.engineReset_eq, State.slot, State.resetWith]

@[simp] theorem State.hdr_engineReset (s : State) (k : StoreSize) : (s.engineReset k).hdr = .initial := rfl

@[simp] theorem State.queue_engineReset (s : State) (k : StoreSize) : (s.engineReset k).queue = ⟨[], []⟩ := rfl

@[simp] theorem State.engTable_engineReset (s : State) (k : StoreSize) : (s.engineReset k).engTable = .initial 4 := rfl

@[simp] theorem State.store_engineReset (s : State) (k : StoreSize) :
    (s.engineReset k).store =
      ⟨keptBytes s.store.mem, List.replicate (blocksFitted k) .free, List.range (blocksFitted k)⟩ := rfl

/-- Power-on is the engine reset of a machine with nothing in its store, nothing sent and nothing waiting. -/
theorem State.reset_eq_engineReset : State.reset = State.reset.engineReset .k128 := rfl

/-- The store after an engine reset is in order: every block is FREE and stands on the free stack once. -/
theorem State.sound_engineReset {s : State} (canonical : Memory.wf s.store.mem = true) (k : StoreSize) : (s.engineReset k).Sound where
  canonical := Memory.wf_filter canonical _
  economy := by
    refine ⟨List.nodup_range, fun b => ?_⟩
    simp [List.getElem?_replicate]
  fitted := List.length_replicate

/-- Settles O5: an engine reset frees every block, and every other command keeps the store in order. -/
theorem everyStepKeepsTheStoreInOrder : Obligations.EveryStepKeepsTheStoreInOrder := by
  unfold Obligations.EveryStepKeepsTheStoreInOrder
  intro s t hs h
  refine step_keeps (P := State.Sound) (fun s q k => k.of_store rfl rfl) (fun c s t k e => ?_) hs h
  obtain ⟨z, rfl⟩ | keeps := exec_reset_or_keeps e
  · exact State.sound_engineReset k.canonical z
  · exact keeps.sound k

theorem Line.bounded_initial : Line.initial.Bounded := ⟨by decide, by decide, by decide, by decide⟩

theorem State.bounded_engineReset (s : State) (k : StoreSize) : (s.engineReset k).Bounded := fun n => by
  rw [State.line_engineReset]
  exact Line.bounded_initial

/-- Settles O8: an engine reset zeroes what is bounded, and every other command keeps the bounds. -/
theorem everyStepKeepsTheBounds : Obligations.EveryStepKeepsTheBounds := by
  unfold Obligations.EveryStepKeepsTheBounds
  intro s t hs h
  refine step_keeps (P := State.Bounded) (fun s q k => k.of_lines rfl) (fun c s t k e => ?_) hs h
  obtain ⟨z, rfl⟩ | keeps := exec_reset_or_keeps e
  · exact s.bounded_engineReset z
  · exact keeps.bounded k

/-! ## Change Counts -/

/-- A command is an engine reset, a sweep, or one event whose bracketed updates are counted once (R170). -/
theorem exec_reset_sweep_or_event {c : Instr} {s t : State} (h : exec c s = .next t) :
    (∃ k, t = s.engineReset k) ∨ (∃ v p, t = s.sweepOnce v p) ∨ ∃ u, t = s.commit u := by
  by_cases hr : ∃ k, c = .engineReset k
  · obtain ⟨k, rfl⟩ := hr
    exact .inl ⟨k, (Host.Outcome.next.inj h).symm⟩
  by_cases hc : ∃ v k, c = .ctrlReset v k
  · obtain ⟨v, k, rfl⟩ := hc
    exact .inl ⟨k, (Host.Outcome.next.inj h).symm⟩
  by_cases hw : ∃ v p, c = .sweep v p
  · obtain ⟨v, p, rfl⟩ := hw
    exact .inr (.inl ⟨v, p, (Host.Outcome.next.inj h).symm⟩)
  exact .inr (.inr (exec_event (fun k e => hr ⟨k, e⟩) (fun v k e => hc ⟨v, k, e⟩) (fun v p e => hw ⟨v, p, e⟩) h))

theorem evenCount_zero : evenCount 0 = true := by decide

theorem State.countsEven_engineReset (s : State) (k : StoreSize) : (s.engineReset k).CountsEven :=
  ⟨evenCount_zero, fun n => by rw [State.line_engineReset]; exact evenCount_zero,
    fun m => by rw [State.message_engineReset]; exact evenCount_zero⟩

/-- Settles O6: counts are 0 after a reset, and every event, one of a sweep too, raises a count by 2 or leaves it. -/
theorem everyStepKeepsChangeCountsEven : Obligations.EveryStepKeepsChangeCountsEven := by
  unfold Obligations.EveryStepKeepsChangeCountsEven
  intro s t hs h
  refine step_keeps (P := State.CountsEven) (fun s q k => k) (fun c s t k e => ?_) hs h
  obtain ⟨z, rfl⟩ | ⟨v, p, rfl⟩ | ⟨u, rfl⟩ := exec_reset_sweep_or_event e
  · exact s.countsEven_engineReset z
  · exact k.sweepOnce v p
  · exact k.commit u

/-- What a Count brackets reads the same before and after the Counts are counted. -/
@[simp] theorem State.headerView_commit (s u : State) : (s.commit u).headerView = u.headerView := rfl

@[simp] theorem Line.view_commitLine (a b : Line) : (commitLine a b).view = b.view := rfl

/-- Settles O10: a command that is one event counts it once. -/
theorem changeCountsBracketEachEvent : Obligations.ChangeCountsBracketEachEvent := by
  unfold Obligations.ChangeCountsBracketEachEvent
  intro c s t hr hc hw h
  obtain ⟨u, rfl⟩ := exec_event hr hc hw h
  refine ⟨rfl, fun n => ?_, fun m => ?_⟩
  · rw [State.line_commit, Line.view_commitLine]
    rfl
  · rw [State.message_commit]
    rfl

/-! ## Completion, and commands of a line -/

/-- Settles O3: a well-formed host access is at an even offset, and every other command completes whatever its operands. -/
theorem wellFormedCommandsComplete : Obligations.WellFormedCommandsComplete := by
  unfold Obligations.WellFormedCommandsComplete
  refine ⟨fun c s wf => ?_, fun o v s odd => ?_⟩
  · by_cases hr : ∃ k, c = .engineReset k
    · obtain ⟨k, rfl⟩ := hr
      exact ⟨_, rfl, rfl⟩
    by_cases hc : ∃ v k, c = .ctrlReset v k
    · obtain ⟨v, k, rfl⟩ := hc
      exact ⟨_, rfl, rfl⟩
    have hw : ∀ o v, c = .hostStoreWrite o v → o.getLsbD 0 = false := by
      rintro o v rfl
      simpa [Instr.wellFormed] using wf
    have ho : ∀ o, c = .hostStoreRead o → o.getLsbD 0 = false := by
      rintro o rfl
      simpa [Instr.wellFormed] using wf
    obtain ⟨t, e, k⟩ := exec_keeps (fun k e => hr ⟨k, e⟩) (fun v k e => hc ⟨v, k, e⟩) hw ho s
    exact ⟨t, e, k.pending⟩
  · simp only [exec, execHostStoreWrite, execHostStoreRead, odd, if_true, and_self]

/-- Settles O11: it is what `LineEffect` says of every command of a line. -/
theorem lineCommandsStayOnTheirLine : Obligations.LineCommandsStayOnTheirLine := by
  unfold Obligations.LineCommandsStayOnTheirLine
  intro c n s t hn h
  obtain ⟨u, e, effect⟩ := exec_line hn s
  obtain rfl := Host.Outcome.next.inj (h.symm.trans e)
  exact ⟨effect.aside, effect.events, effect.steady⟩

end Sys2Proof.Machine

/-! The state after an engine reset: it has every invariant (O9), and the values of 10 R179 (O12). -/

namespace Sys2Proof.Machine

/-! ## The invariants after an engine reset -/

/-- After an engine reset every pump settles for no line, and no line has a claim or listens. -/
theorem State.pumpsInOrder_engineReset (s : State) (k : StoreSize) : (s.engineReset k).PumpsInOrder := by
  have idle : ∀ p n, ¬ (s.engineReset k).serves p n := by simp [State.serves, Pump.initial]
  have empty : ∀ n, ¬ (s.engineReset k).queued n := by simp [State.queued]
  have claim : Line.initial.claim = none := rfl
  refine
    { settling := fun p n h => absurd h (idle p n)
      attached := fun p h => ?_
      one := fun p q n h => absurd h (idle p n)
      recorded := fun n p => ?_
      once := List.nodup_nil
      answers := fun n h => absurd (.inl h) (empty n)
      originates := fun n h => absurd (.inr h) (empty n)
      claims := fun n => ?_
      waiting := fun p n h => absurd h (empty n)
      granted := fun p n h => absurd h (empty n)
      calls := fun n h => ?_
      settles := fun n h => ?_
      listens := fun n h => ?_ }
  · simp [Pump.initial] at h
  · simp [idle, Line.initial, CallRecord.initial]
  · simp [claim, empty, idle]
  · simp [claim, idle] at h
  · simp [Line.initial, AnswerSeq.initial, Timer.isRunning] at h
  · simp [Line.initial, AnswerSeq.initial] at h

theorem Line.opensInTraining_initial : Line.initial.opensInTraining := by
  simp [Line.opensInTraining, Line.initial, Link.initial]

theorem State.playsInOrder_engineReset (s : State) (k : StoreSize) : (s.engineReset k).PlaysInOrder where
  counted g := by simp [Line.initial, Voice.initial, Slot.initial]
  withdrawing g h := by simp [Slot.initial] at h
  empty g _ := by simp [Slot.initial]
  connected n h := by simp [Line.initial, Voice.initial] at h
  opening n := by rw [State.line_engineReset]; exact Line.opensInTraining_initial

theorem State.recordingsInOrder_engineReset (s : State) (k : StoreSize) : (s.engineReset k).RecordingsInOrder where
  one n m := by simp [Line.initial, Voice.initial, Message.initial]
  connected n h := by simp [Line.initial, Voice.initial] at h
  listens n h := by simp [Line.initial, AnswerSeq.initial] at h
  sequence n h := by simp [Line.initial, AnswerSeq.initial] at h
  opening n := by rw [State.line_engineReset]; exact Line.opensInTraining_initial

theorem State.receivingInOrder_engineReset (s : State) (k : StoreSize) : (s.engineReset k).ReceivingInOrder where
  one b n h := by simp [List.getElem?_replicate] at h
  entries n := by simp [Line.initial]
  oneOpen n := by simp [Line.initial]
  filling n h := by simp [Line.initial] at h
  openData n e h := by simp [Line.initial] at h
  openPage n e h := by simp [Line.initial] at h
  room n _ h := by simp [Line.initial] at h
  up n h := by simp [Line.initial, Link.initial] at h
  idle n h := by simp [Line.initial, Link.initial, Timer.isRunning] at h
  opening n := by rw [State.line_engineReset]; exact Line.opensInTraining_initial
  receiver n h := by simp [Line.initial, Fax.initial] at h
  page n h := by simp [Line.initial, Fax.initial] at h
  pageIn n h := by simp [Line.initial, Fax.initial] at h
  sequence n h := by simp [Line.initial, AnswerSeq.initial] at h

theorem State.longOrdersTaken_engineReset (s : State) (k : StoreSize) : (s.engineReset k).LongOrdersTaken := by
  have long : Line.initial.longCards = [] := rfl
  have waiting : Line.initial.table.waiting = [] := rfl
  have unload : Slot.initial.unloadCard = none := rfl
  refine ⟨fun n i h => ?_, fun n => ?_, fun i h => ?_, List.nodup_nil, fun g i h => ?_, fun g _ i h => ?_⟩
  · simp [long, waiting] at h
  · simp [long, waiting]
  · simp [OrderTable.initial, OrderTable.waiting] at h
  · simp [unload] at h
  · simp [unload] at h

/-- Settles O9: power-on is an engine reset. -/
theorem resetIsInOrder : Obligations.ResetIsInOrder := by
  unfold Obligations.ResetIsInOrder
  rw [State.reset_eq_engineReset]
  exact ⟨State.sound_engineReset rfl _, State.countsEven_engineReset _ _, State.bounded_engineReset _ _,
    State.pumpsInOrder_engineReset _ _, State.playsInOrder_engineReset _ _, State.recordingsInOrder_engineReset _ _,
    State.receivingInOrder_engineReset _ _, State.longOrdersTaken_engineReset _ _⟩

/-! ## What an engine reset leaves of the store's bytes (R179) -/

/-- Below the bytes that an engine reset keeps, every address reads as in an empty list. -/
theorem Memory.get_keptBytes_low (m : List Host.Cell) {a : Nat} (h : a < 0x1D00) : Memory.get (keptBytes m) a = Memory.get [] a := by
  have low : Memory.above a (keptBytes m) := fun c hc => by
    have := (List.mem_filter.mp hc).2
    simp only [decide_eq_true_eq] at this
    omega
  rw [Memory.get_above low]
  rfl

theorem Memory.word_keptBytes_low (m : List Host.Cell) {a : Nat} (h : a + 1 < 0x1D00) :
    Memory.word (keptBytes m) a = Memory.word [] a := by
  simp only [Memory.word, Memory.get_keptBytes_low m (show a < 0x1D00 by omega), Memory.get_keptBytes_low m h]

/-- In canonical form the host scratch and the blocks read as before the reset. -/
theorem Memory.get_keptBytes_high {m : List Host.Cell} (h : Memory.wf m = true) {a : Nat} (ha : 0x1D00 ≤ a) :
    Memory.get (keptBytes m) a = Memory.get m a := by
  induction m with
  | nil => rfl
  | cons c m ih =>
    obtain ⟨b, v⟩ := c
    obtain ⟨-, above, canonical⟩ := Memory.wf_cons.mp h
    by_cases hb : 0x1D00 ≤ b
    · have e : keptBytes ((b, v) :: m) = (b, v) :: keptBytes m := by simp [keptBytes, hb]
      simp only [e, Memory.get, ih canonical]
    · have e : keptBytes ((b, v) :: m) = keptBytes m := by simp [keptBytes, hb]
      have far : ¬a < b := by omega
      have other : a ≠ b := by omega
      simp only [e, Memory.get, ih canonical, other, far, if_false]

/-- A call profile is made from the words at the offsets of R190 alone. -/
theorem Profile.ofWords_congr {w v : Nat → Nat} (h : ∀ o, o < 0x78 → w o = v o) : Profile.ofWords w = Profile.ofWords v := by
  have policies : ((List.range 10).map fun i => policyOf (w (0x60 + 2 * i))) =
      (List.range 10).map fun i => policyOf (v (0x60 + 2 * i)) := by
    refine List.map_congr_left fun i hi => ?_
    rw [h _ (by have := List.mem_range.mp hi; omega)]
  simp (disch := decide) only [Profile.ofWords, policies, h]

/-- The Line Profile of each line, where no byte of it is listed, reads the defaults of R190. -/
theorem Profile.default_eq_ofWords (n : LineId) : Profile.default = Profile.ofWords fun o => Memory.word [] (0x500 + 256 * n.val + o) := by
  revert n
  decide +kernel

theorem Memory.profile_defaults (n : LineId) :
    (List.range 60).map (fun i => Memory.word [] (0x500 + 256 * n.val + 2 * i)) = profileDefaults := by
  revert n
  decide +kernel

/-- With no event bit set no pin is asserted. -/
theorem State.pins_engineReset (s : State) (k : StoreSize) : (s.engineReset k).inta = false ∧ (s.engineReset k).intb = false := ⟨rfl, rfl⟩

/-- Settles O12: the values are those of the reset machine, and the bytes below the host scratch read as in an empty store. -/
theorem engineResetLeaves : Obligations.EngineResetLeaves := by
  unfold Obligations.EngineResetLeaves
  intro k v s
  have profile : ∀ n : LineId, ∀ o, o < 0x78 →
      Memory.word (s.engineReset k).store.mem (0x500 + 256 * n.val + o) = Memory.word [] (0x500 + 256 * n.val + o) := fun n o h =>
    Memory.word_keptBytes_low _ (by omega)
  refine ⟨s.engineReset k, rfl, rfl, rfl, rfl, rfl, rfl, fun n => ?_, fun p => ?_, rfl, State.slot_engineReset s k,
    State.message_engineReset s k, ⟨rfl, rfl, rfl⟩, rfl, rfl, fun h a => Memory.get_keptBytes_high h, fun n => ?_, fun b hb => ?_,
    fun a => Memory.get_keptBytes_low _, rfl, (s.pins_engineReset k).1, (s.pins_engineReset k).2, rfl⟩
  · rw [Profile.ofWords_congr (profile n), ← Profile.default_eq_ofWords n, State.line_engineReset]
    exact ⟨rfl, rfl, rfl, rfl, rfl, rfl, rfl, rfl, rfl, rfl, rfl, rfl, rfl, rfl, rfl, rfl, rfl, rfl⟩
  · rw [State.pump_engineReset]
    exact ⟨rfl, rfl⟩
  · exact (List.map_congr_left fun i hi => profile n _ (by have := List.mem_range.mp hi; omega)).trans
      (Memory.profile_defaults n)
  · have fits : b < 496 := hb.trans_le (by cases k <;> decide)
    have blank : unlisted (0xD00 + 2 * b) = 0 ∧ unlisted (0xD00 + 2 * b + 1) = 0 := by
      constructor <;> exact if_neg (by omega)
    rw [State.store_engineReset, Memory.word_keptBytes_low _ (by omega)]
    simp [Memory.word, Memory.get, blank]

/-! ## The port's registers and pins -/

end Sys2Proof.Machine

/-! The port's registers and pins (O13). -/

namespace Sys2Proof.Machine

/-- Some bit of a word is set exactly where the word is not 0. -/
theorem Word.ne_zero_iff (x : Word) : (x != 0) = true ↔ ∃ i, x.getLsbD i = true := by
  rw [bne_iff_ne]
  constructor
  · intro h
    by_contra none
    exact h (BitVec.eq_of_getLsbD_eq fun i _ => by simpa using fun e => none ⟨i, e⟩)
  · rintro ⟨i, h⟩ rfl
    simp at h

/-- The five event words are that of the engine and those of the four lines. -/
theorem State.mem_eventWords (s : State) (w : EventWord) : w ∈ s.eventWords ↔ w = s.hdr.ev ∨ ∃ n, w = (s.line n).ev := by
  have lines : ∀ n : LineId, n ∈ allLines := by decide
  simp only [State.eventWords, List.mem_cons, List.mem_map]
  exact or_congr_right ⟨fun ⟨n, _, e⟩ => ⟨n, e.symm⟩, fun ⟨n, e⟩ => ⟨n, lines n, e.symm⟩⟩

/-- INTA is asserted by an event bit that is set, enabled and not routed to B. -/
theorem State.inta_iff (s : State) :
    s.inta = true ↔ s.port.ieA = true ∧ ∃ w i, (w = s.hdr.ev ∨ ∃ n, w = (s.line n).ev) ∧
      w.bits.getLsbD i = true ∧ w.mask.getLsbD i = true ∧ w.route.getLsbD i = false := by
  have bit : ∀ (w : EventWord), (w.bits &&& w.mask &&& ~~~ w.route != 0) = true ↔
      ∃ i, w.bits.getLsbD i = true ∧ w.mask.getLsbD i = true ∧ w.route.getLsbD i = false := by
    intro w
    rw [Word.ne_zero_iff]
    refine exists_congr fun i => ?_
    have inside : w.bits.getLsbD i = true → i < 16 := BitVec.lt_of_getLsbD
    simp only [BitVec.getLsbD_and, BitVec.getLsbD_not, Bool.and_eq_true, decide_eq_true_eq, Bool.not_eq_true']
    exact ⟨fun ⟨⟨a, b⟩, _, c⟩ => ⟨a, b, c⟩, fun ⟨a, b, c⟩ => ⟨⟨a, b⟩, inside a, c⟩⟩
  simp only [State.inta, Bool.and_eq_true, List.any_eq_true, State.mem_eventWords, bit]
  exact and_congr_right fun _ => ⟨fun ⟨w, a, i, b⟩ => ⟨w, i, a, b⟩, fun ⟨w, i, a, b⟩ => ⟨w, a, i, b⟩⟩

/-- INTB is asserted by an event bit that is set, enabled and routed to B. -/
theorem State.intb_iff (s : State) :
    s.intb = true ↔ s.port.ieB = true ∧ ∃ w i, (w = s.hdr.ev ∨ ∃ n, w = (s.line n).ev) ∧
      w.bits.getLsbD i = true ∧ w.mask.getLsbD i = true ∧ w.route.getLsbD i = true := by
  have bit : ∀ (w : EventWord), (w.bits &&& w.mask &&& w.route != 0) = true ↔
      ∃ i, w.bits.getLsbD i = true ∧ w.mask.getLsbD i = true ∧ w.route.getLsbD i = true := by
    intro w
    rw [Word.ne_zero_iff]
    simp only [BitVec.getLsbD_and, Bool.and_eq_true, and_assoc]
  simp only [State.intb, Bool.and_eq_true, List.any_eq_true, State.mem_eventWords, bit]
  exact and_congr_right fun _ => ⟨fun ⟨w, a, i, b⟩ => ⟨w, i, a, b⟩, fun ⟨w, i, a, b⟩ => ⟨w, a, i, b⟩⟩

/-- Bit `i` of a word made by setting or leaving out bit `k`. -/
theorem getLsbD_flagWord (b : Bool) (k i : Nat) (hk : k < 16) :
    (if b then bitWord k else (0 : Word)).getLsbD i = (b && decide (i = k)) := by
  cases b with
  | false => simp
  | true =>
    simp only [if_true, bitWord, Bool.true_and]
    by_cases e : i = k
    · subst e; simp [hk]
    · simp only [e, decide_false]
      by_cases lt : i < k
      · simp [lt]
      · have : i - k ≠ 0 := by omega
        simp [this]

/-- The bits of the word that a STAT read gives (R167, 12.2). -/
theorem State.getLsbD_stat (s : State) (i : Nat) :
    s.stat.getLsbD i = (s.port.engineRunning && decide (i = 0) || s.inta && decide (i = 1) || s.intb && decide (i = 2) ||
      s.port.guardFlag && decide (i = 3)) := by
  simp (disch := decide) only [State.stat, BitVec.getLsbD_or, getLsbD_flagWord]

/-- An event that changes only the port or the sweep is counted nowhere. -/
theorem State.done_port (s : State) (p : Port) (w : Sweep) :
    done s { s with port := p, sweep := w } = .next { s with port := p, sweep := w } := by
  unfold done
  rw [State.commit_rest (s := s) (t := { s with port := p, sweep := w }) rfl rfl rfl rfl rfl]

/-- Settles O13: register writes change the port or the sweep alone, and the pins and the STAT word are read bit by bit. -/
theorem portRegistersAndPins : Obligations.PortRegistersAndPins := by
  unfold Obligations.PortRegistersAndPins
  refine ⟨fun v s => ⟨s.done_port _ _, s.done_port _ _, s.done_port _ _, s.done_port _ _, fun starting => ?_, fun running idle => ?_,
    fun running busy => ?_⟩, fun s => ⟨s.inta_iff, s.intb_iff, s.stat, s.done_port _ _, ?_⟩,
    fun k v s => ⟨s.engineReset k, rfl, rfl, rfl, rfl⟩, fun s a b => ?_⟩
  · have e : s.requestSweep = s := by simp [State.requestSweep, starting]
    change done s s.requestSweep = _
    rw [e]
    exact s.done_port _ _
  · have e : s.requestSweep = { s with sweep := { s.sweep with running := true } } := by simp [State.requestSweep, running, idle]
    change done s s.requestSweep = _
    rw [e]
    exact s.done_port _ _
  · have e : s.requestSweep = { s with sweep := { s.sweep with held := true } } := by simp [State.requestSweep, running, busy]
    change done s s.requestSweep = _
    rw [e]
    exact s.done_port _ _
  · refine ⟨(s.getLsbD_stat 0).trans (by simp), (s.getLsbD_stat 1).trans (by simp), (s.getLsbD_stat 2).trans (by simp),
      (s.getLsbD_stat 3).trans (by simp), fun i hi => ?_⟩
    have far : i ≠ 0 ∧ i ≠ 1 ∧ i ≠ 2 ∧ i ≠ 3 := by omega
    simp [State.getLsbD_stat, far]
  · exact ⟨by simp [State.inta, a], by simp [State.intb, b]⟩

end Sys2Proof.Machine

/-! The law of received data is not kept by every step (O35): an adaptive switch leaves listening as it stands. -/

namespace Sys2Proof.Machine

/-- Line 0 in CONNECTED-VOICE, its switch claim settling at pump 0, and still listening. -/
def State.listeningSwitch : State :=
  ((State.reset.onLine 0 fun l =>
    { l with
      call := { l.call with state := .connected, service := .voice, direction := .answer }
      claim := some ⟨.answer, .stopped⟩
      seq := { l.seq with step := .switchWait, listening := true, switchTo := .data } }).onPump 0 fun _ =>
    Pump.inState .settling (some 0)).withQueue [.pumpSettleComplete 0 true true]

/-- The law holds of it: nothing has been received, and it is in CONNECTED-VOICE that line 0 listens. -/
theorem State.receivingInOrder_listeningSwitch : State.listeningSwitch.ReceivingInOrder := by
  have empty : ∀ n, (State.listeningSwitch.line n).recvBlock = none := by decide
  have nothing : ∀ n, (State.listeningSwitch.line n).delivered = [] := by decide
  have link : ∀ n, (State.listeningSwitch.line n).link = .initial := by decide
  have fax : ∀ n, (State.listeningSwitch.line n).fax = .initial := by decide
  have owners : State.listeningSwitch.store.owners = List.replicate 112 .free := rfl
  refine
    { one := fun b n h => ?_, entries := fun n => ?_, oneOpen := fun n => ?_, filling := fun n h => absurd (empty n) h
      openData := fun n e h => ?_, openPage := fun n e h => ?_, room := fun n _ h => absurd (empty n) h, up := fun n h => ?_
      idle := fun n h => ?_, opening := fun n h => ?_, receiver := fun n h => ?_, page := fun n h => ?_, pageIn := fun n h => ?_
      sequence := by decide }
  case refine_1 =>
    rw [owners, List.getElem?_replicate] at h
    split at h <;> cases h
  all_goals simp_all [Link.initial, Fax.initial, Timer.isRunning]

/-- Refutes O35: the settle of the switch claim takes line 0 to TRAINING, where it listens still, out of CONNECTED-VOICE. -/
theorem not_everyStepKeepsReceivingInOrder : ¬ Obligations.EveryStepKeepsReceivingInOrder := by
  unfold Obligations.EveryStepKeepsReceivingInOrder
  intro keeps
  have inOrder := keeps _ _ State.receivingInOrder_listeningSwitch rfl
  exact absurd (inOrder.sequence 0 (.inr (by decide))) (by decide)

end Sys2Proof.Machine

/-! The call profile that a Line Profile gives (O34). -/

namespace Sys2Proof.Machine

/-- A value clamped into a range is the median of the three. -/
theorem clampNat_eq {lo hi : Nat} (h : lo ≤ hi) (v : Nat) : clampNat lo hi v = max lo (min hi v) := by
  unfold clampNat
  split
  · omega
  · split <;> omega

theorem policyOf_eq (v : Nat) :
    policyOf v = if v = 0 then .latch else if v = 1 then .retry else if v = 3 then .silent else .report := by
  unfold policyOf
  split <;> simp_all

theorem answerModeOf_eq (v : Nat) : answerModeOf v =
    if v = 1 then .data else if v = 2 then .fax else if v = 3 then .voice else if v = 4 then .adaptive else .none := by
  unfold answerModeOf
  split <;> simp_all

theorem slotOf_eq_some (v : Nat) (g : SlotId) : slotOf v = some g ↔ v = g.val := by
  unfold slotOf
  split
  · simp [Fin.ext_iff]
  next far => simpa using fun (e : v = g.val) => far (e ▸ g.isLt)

/-- The policy of a fault kind is that of its word, which stands where the kind's code places it. -/
theorem Profile.policy_ofWords (w : Nat → Nat) (k : FaultKind) :
    (Profile.ofWords w).policy k = policyOf (w (0x60 + 2 * (k.code - 32))) := by
  cases k <;> rfl

/-- Settles O34, setting by setting. -/
theorem profileSettings : Obligations.ProfileSettings := by
  unfold Obligations.ProfileSettings
  intro w p
  refine ⟨?ranges, ?minRung, ?flags, rfl, answerModeOf_eq _, fun g => slotOf_eq_some _ g, rfl, fun k _ => ?policy⟩
  case ranges =>
    simp only [p, Profile.ofWords, List.forall_mem_cons, List.not_mem_nil, false_implies, implies_true, and_true]
    simp only [clampNat_eq, Nat.reduceLeDiff, and_self]
  case minRung => simp only [p, Profile.ofWords, clampNat_eq, Nat.reduceLeDiff]
  case flags => simp [p, Profile.ofWords]
  case policy =>
    dsimp only
    rw [Profile.policy_ofWords, policyOf_eq]

end Sys2Proof.Machine

/-! What an operation leaves of each part of the state that the laws of pumps, plays and recordings read: `Kept p s t` says that part `p`
is the same in two states. A lemma `Kept.op` names the parts that `op` may change; the laws use it for every other part. -/

namespace Sys2Proof.Machine

set_option Elab.async false

/-- The parts: the pump pool; the call record's state, service and direction; whether a line settles or listens, and the step of its answer
sequence; plays and slots; recordings and message entries; whether the link is OPENING. -/
inductive Part
  | pool | call | hear | step | play | record | link

/-- What a part reads of one line. -/
def Part.Local : Part → Type
  | .pool => Option Claim × Option PumpId
  | .call => LineState × Service × Direction
  | .hear => Bool × Bool
  | .step => SeqStep
  | .play => Play
  | .record => Option EntryId
  | .link => Bool

/-- The part of a line. -/
def Part.ofLine : (p : Part) → Line → p.Local
  | .pool, l => (l.claim, l.call.pump)
  | .call, l => (l.call.state, l.call.service, l.call.direction)
  | .hear, l => (l.seq.settleTimer.isRunning, l.seq.listening)
  | .step, l => l.seq.step
  | .play, l => l.voice.play
  | .record, l => l.voice.recording
  | .link, l => decide (l.link.state = .opening)

/-- What a part reads beside the lines is the same in two states. -/
def Part.Held : Part → State → State → Prop
  | .pool, s, t => (∀ q, (t.pump q).state = (s.pump q).state ∧ (t.pump q).line = (s.pump q).line) ∧ t.queue = s.queue
  | .play, s, t => ∀ g, (t.slot g).state = (s.slot g).state ∧ (t.slot g).playCount = (s.slot g).playCount ∧
      (t.slot g).chain = (s.slot g).chain
  | .record, s, t => ∀ m, (t.message m).state = (s.message m).state ∧ (t.message m).line = (s.message m).line
  | _, _, _ => True

/-- A part is the same in two states. -/
structure Kept (p : Part) (s t : State) : Prop where
  shared : p.Held s t
  lines : ∀ m, p.ofLine (t.line m) = p.ofLine (s.line m)

variable {p : Part} {s₀ s t u : State} {n : LineId}

theorem Part.Held.of_rest (hp : t.pumps = s.pumps) (hq : t.queue = s.queue) (hg : t.slots = s.slots) (hm : t.messages = s.messages) :
    p.Held s t := by
  cases p <;> simp only [Part.Held, State.pump, State.slot, State.message, hp, hq, hg, hm, and_self, implies_true]

theorem Part.Held.trans (h : p.Held s t) (k : p.Held t u) : p.Held s u := by
  cases p with
  | pool => exact ⟨fun q => ⟨(k.1 q).1.trans (h.1 q).1, (k.1 q).2.trans (h.1 q).2⟩, k.2.trans h.2⟩
  | play => exact fun g => ⟨(k g).1.trans (h g).1, (k g).2.1.trans (h g).2.1, (k g).2.2.trans (h g).2.2⟩
  | record => exact fun m => ⟨(k m).1.trans (h m).1, (k m).2.trans (h m).2⟩
  | _ => trivial

theorem Kept.refl : Kept p s s := ⟨.of_rest rfl rfl rfl rfl, fun _ => rfl⟩

theorem Kept.trans (h : Kept p s t) (k : Kept p t u) : Kept p s u :=
  ⟨h.shared.trans k.shared, fun m => (k.lines m).trans (h.lines m)⟩

/-! ## What the parts read -/

theorem Kept.claim (h : Kept .pool s t) (m : LineId) : (t.line m).claim = (s.line m).claim := congrArg Prod.fst (h.lines m)
theorem Kept.callPump (h : Kept .pool s t) (m : LineId) : (t.line m).call.pump = (s.line m).call.pump := congrArg Prod.snd (h.lines m)
theorem Kept.pumpState (h : Kept .pool s t) (q : PumpId) : (t.pump q).state = (s.pump q).state := (h.shared.1 q).1
theorem Kept.pumpLine (h : Kept .pool s t) (q : PumpId) : (t.pump q).line = (s.pump q).line := (h.shared.1 q).2
theorem Kept.queue (h : Kept .pool s t) : t.queue = s.queue := h.shared.2
theorem Kept.state (h : Kept .call s t) (m : LineId) : (t.line m).call.state = (s.line m).call.state := congrArg Prod.fst (h.lines m)
theorem Kept.service (h : Kept .call s t) (m : LineId) : (t.line m).call.service = (s.line m).call.service :=
  congrArg (Prod.fst ∘ Prod.snd) (h.lines m)
theorem Kept.direction (h : Kept .call s t) (m : LineId) : (t.line m).call.direction = (s.line m).call.direction :=
  congrArg (Prod.snd ∘ Prod.snd) (h.lines m)
theorem Kept.settles (h : Kept .hear s t) (m : LineId) :
    (t.line m).seq.settleTimer.isRunning = (s.line m).seq.settleTimer.isRunning := congrArg Prod.fst (h.lines m)
theorem Kept.listening (h : Kept .hear s t) (m : LineId) : (t.line m).seq.listening = (s.line m).seq.listening :=
  congrArg Prod.snd (h.lines m)
theorem Kept.stepOf (h : Kept .step s t) (m : LineId) : (t.line m).seq.step = (s.line m).seq.step := h.lines m
theorem Kept.playOf (h : Kept .play s t) (m : LineId) : (t.line m).voice.play = (s.line m).voice.play := h.lines m
theorem Kept.slotState (h : Kept .play s t) (g : SlotId) : (t.slot g).state = (s.slot g).state := (h.shared g).1
theorem Kept.playCount (h : Kept .play s t) (g : SlotId) : (t.slot g).playCount = (s.slot g).playCount := (h.shared g).2.1
theorem Kept.slotChain (h : Kept .play s t) (g : SlotId) : (t.slot g).chain = (s.slot g).chain := (h.shared g).2.2
theorem Kept.recording (h : Kept .record s t) (m : LineId) : (t.line m).voice.recording = (s.line m).voice.recording := h.lines m
theorem Kept.messageState (h : Kept .record s t) (m : EntryId) : (t.message m).state = (s.message m).state := (h.shared m).1
theorem Kept.messageLine (h : Kept .record s t) (m : EntryId) : (t.message m).line = (s.message m).line := (h.shared m).2
theorem Kept.opening (h : Kept .link s t) (m : LineId) : (t.line m).link.state = .opening ↔ (s.line m).link.state = .opening :=
  decide_eq_decide.mp (h.lines m)
theorem Kept.connectedAs (h : Kept .call s t) (m : LineId) (v : Service) : (t.line m).connectedAs v = (s.line m).connectedAs v := by
  simp only [Line.connectedAs, h.state m, h.service m]

/-! ## The updates of the state -/

/-- A change of one line that leaves the part of the line as it is. -/
theorem Kept.onLine (h : Kept p s₀ s) (m : LineId) {f : Line → Line}
    (hf : ∀ l, p.ofLine (f l) = p.ofLine l := by intro _; cases p <;> first | rfl | contradiction) : Kept p s₀ (s.onLine m f) := by
  refine h.trans ⟨.of_rest rfl rfl rfl rfl, fun q => ?_⟩
  rw [State.line_onLine]
  split
  next e => rw [hf, e]
  next => rfl

/-- Two states with the same lines and the same part beside them. -/
theorem Kept.of_lines (h : Kept p s₀ s) (e : t.lines = s.lines) (k : p.Held s t) : Kept p s₀ t :=
  h.trans ⟨k, fun m => by simp only [State.line, e]⟩

/-- Two states that differ in nothing that a part reads. -/
theorem Kept.of_rest (h : Kept p s₀ s) (e : t.lines = s.lines) (hp : t.pumps = s.pumps) (hq : t.queue = s.queue) (hg : t.slots = s.slots)
    (hm : t.messages = s.messages) : Kept p s₀ t := h.of_lines e (.of_rest hp hq hg hm)

theorem Kept.onCall (h : Kept p s₀ s) (m : LineId) {f : CallRecord → CallRecord}
    (hf : ∀ c, (f c).state = c.state ∧ (f c).service = c.service ∧ (f c).direction = c.direction ∧ (f c).pump = c.pump := by
      exact fun _ => ⟨rfl, rfl, rfl, rfl⟩) : Kept p s₀ (s.onCall m f) :=
  h.onLine m fun l => by
    obtain ⟨a, b, c, d⟩ := hf l.call
    cases p <;> simp only [Part.ofLine, a, b, c, d] <;> rfl

theorem Kept.onCtl (h : Kept p s₀ s) (m : LineId) (f : LineControl → LineControl) : Kept p s₀ (s.onCtl m f) := h.onLine m
theorem Kept.onDialler (h : Kept p s₀ s) (m : LineId) (f : Dialler → Dialler) : Kept p s₀ (s.onDialler m f) := h.onLine m
theorem Kept.onProg (h : Kept p s₀ s) (m : LineId) (f : Progress → Progress) : Kept p s₀ (s.onProg m f) := h.onLine m
theorem Kept.onGrade (h : Kept p s₀ s) (m : LineId) (f : Grade → Grade) : Kept p s₀ (s.onGrade m f) := h.onLine m
theorem Kept.onFm (h : Kept p s₀ s) (m : LineId) (f : FaultRecord → FaultRecord) : Kept p s₀ (s.onFm m f) := h.onLine m
theorem Kept.raise (h : Kept p s₀ s) (m : LineId) (e : LineEvent) : Kept p s₀ (s.raise m e) := h.onLine m

/-- A change of the answer sequence that keeps its step, and whether the line settles or listens. -/
theorem Kept.onSeq (h : Kept p s₀ s) (m : LineId) {f : AnswerSeq → AnswerSeq}
    (hf : ∀ q, (f q).settleTimer = q.settleTimer ∧ (f q).listening = q.listening ∧ (f q).step = q.step := by
      exact fun _ => ⟨rfl, rfl, rfl⟩) : Kept p s₀ (s.onSeq m f) :=
  h.onLine m fun l => by
    obtain ⟨a, b, c⟩ := hf l.seq
    cases p <;> simp only [Part.ofLine, a, b, c] <;> rfl

/-- A change of the step alone. -/
theorem Kept.onSeqStep (h : Kept p s₀ s) (hp : p ≠ .step) (m : LineId) {f : AnswerSeq → AnswerSeq}
    (hf : ∀ q, (f q).settleTimer = q.settleTimer ∧ (f q).listening = q.listening := by exact fun _ => ⟨rfl, rfl⟩) :
    Kept p s₀ (s.onSeq m f) :=
  h.onLine m fun l => by
    obtain ⟨a, b⟩ := hf l.seq
    cases p <;> first | contradiction | (simp only [Part.ofLine, a, b]; rfl)

/-- A change of whether the line settles or listens. -/
theorem Kept.onSeqHear (h : Kept p s₀ s) (hp : p ≠ .hear) (m : LineId) {f : AnswerSeq → AnswerSeq}
    (hf : ∀ q, (f q).step = q.step := by exact fun _ => rfl) : Kept p s₀ (s.onSeq m f) :=
  h.onLine m fun l => by
    have a := hf l.seq
    cases p <;> first | contradiction | (simp only [Part.ofLine, a]; rfl)

theorem Kept.onSeqAny (h : Kept p s₀ s) (hs : p ≠ .step) (hh : p ≠ .hear) (m : LineId) (f : AnswerSeq → AnswerSeq) :
    Kept p s₀ (s.onSeq m f) := h.onLine m


/-- A change of the link that keeps its state. -/
theorem Kept.onLink (h : Kept p s₀ s) (m : LineId) {f : Link → Link} (hf : ∀ l, (f l).state = l.state := by exact fun _ => rfl) :
    Kept p s₀ (s.onLink m f) :=
  h.onLine m fun l => by
    have a := hf l.link
    cases p <;> simp only [Part.ofLine, a] <;> rfl

/-- A change of the link that leaves it OPENING or not as it was. -/
theorem Kept.onLinkOpen (h : Kept p s₀ s) (m : LineId) {f : Link → Link}
    (hf : ∀ l, (f l).state = .opening ↔ l.state = .opening) : Kept p s₀ (s.onLink m f) :=
  h.onLine m fun l => by
    have a := hf l.link
    cases p <;> simp only [Part.ofLine, a] <;> rfl

theorem Kept.onLinkState (h : Kept p s₀ s) (hp : p ≠ .link) (m : LineId) (f : Link → Link) : Kept p s₀ (s.onLink m f) := h.onLine m

theorem Kept.onFax (h : Kept p s₀ s) (m : LineId) (f : Fax → Fax) : Kept p s₀ (s.onFax m f) := h.onLine m

/-- A change of the voice state that keeps play and recording. -/
theorem Kept.onVoice (h : Kept p s₀ s) (m : LineId) {f : Voice → Voice}
    (hf : ∀ v, (f v).play = v.play ∧ (f v).recording = v.recording := by exact fun _ => ⟨rfl, rfl⟩) : Kept p s₀ (s.onVoice m f) :=
  h.onLine m fun l => by
    obtain ⟨a, b⟩ := hf l.voice
    cases p <;> simp only [Part.ofLine, a, b] <;> rfl

theorem Kept.onVoicePlay (h : Kept p s₀ s) (hp : p ≠ .play) (m : LineId) {f : Voice → Voice}
    (hf : ∀ v, (f v).recording = v.recording := by exact fun _ => rfl) : Kept p s₀ (s.onVoice m f) :=
  h.onLine m fun l => by
    have a := hf l.voice
    cases p <;> first | contradiction | (simp only [Part.ofLine, a]; rfl)

theorem Kept.onVoiceRec (h : Kept p s₀ s) (hp : p ≠ .record) (m : LineId) {f : Voice → Voice}
    (hf : ∀ v, (f v).play = v.play := by exact fun _ => rfl) : Kept p s₀ (s.onVoice m f) :=
  h.onLine m fun l => by
    have a := hf l.voice
    cases p <;> first | contradiction | (simp only [Part.ofLine, a]; rfl)

theorem Kept.onHdr (h : Kept p s₀ s) (f : Header → Header) : Kept p s₀ (s.onHdr f) := h.of_rest rfl rfl rfl rfl rfl
theorem Kept.raiseEngine (h : Kept p s₀ s) (e : EngineEvent) : Kept p s₀ (s.raiseEngine e) := h.of_rest rfl rfl rfl rfl rfl
theorem Kept.emit (h : Kept p s₀ s) (o : Output) : Kept p s₀ (s.emit o) := h.of_rest rfl rfl rfl rfl rfl
theorem Kept.draw (h : Kept p s₀ s) : Kept p s₀ s.draw := h.of_rest rfl rfl rfl rfl rfl
theorem Kept.onStore (h : Kept p s₀ s) (f : Store → Store) : Kept p s₀ (s.onStore f) := h.of_rest rfl rfl rfl rfl rfl

/-- A change of a pump that keeps its state and line. -/
theorem Kept.onPump (h : Kept p s₀ s) (q : PumpId) {f : Pump → Pump}
    (hf : (f (s.pump q)).state = (s.pump q).state ∧ (f (s.pump q)).line = (s.pump q).line := by exact ⟨rfl, rfl⟩) :
    Kept p s₀ (s.onPump q f) := by
  refine h.of_lines rfl ?_
  cases p with
  | pool =>
    refine ⟨fun r => ?_, rfl⟩
    rw [State.pump_onPump]
    split
    next e => rw [e]; exact hf
    next => exact ⟨rfl, rfl⟩
  | _ => simp [Part.Held]

theorem Kept.onPumpAny (h : Kept p s₀ s) (hp : p ≠ .pool) (q : PumpId) (f : Pump → Pump) : Kept p s₀ (s.onPump q f) :=
  h.of_lines rfl (by cases p <;> first | contradiction | simp [Part.Held])
theorem Kept.onSlot (h : Kept p s₀ s) (hp : p ≠ .play) (g : SlotId) (f : Slot → Slot) : Kept p s₀ (s.onSlot g f) :=
  h.of_lines rfl (by cases p <;> first | contradiction | simp [Part.Held])
theorem Kept.withWaitQueue (h : Kept p s₀ s) (hp : p ≠ .pool) (q : WaitQueue) : Kept p s₀ { s with queue := q } :=
  h.of_lines rfl (by cases p <;> first | contradiction | simp [Part.Held, State.slot, State.message])
theorem Kept.onMessageAny (h : Kept p s₀ s) (hp : p ≠ .record) (m : EntryId) (f : Message → Message) : Kept p s₀ (s.onMessage m f) :=
  h.of_lines rfl (by cases p <;> first | contradiction | simp [Part.Held])

/-- A change of a message entry that keeps its state and line. -/
theorem Kept.onMessage (h : Kept p s₀ s) (m : EntryId) {f : Message → Message}
    (hf : ∀ x, (f x).state = x.state ∧ (f x).line = x.line := by exact fun _ => ⟨rfl, rfl⟩) : Kept p s₀ (s.onMessage m f) := by
  refine h.of_lines rfl ?_
  cases p with
  | record =>
    intro k
    rw [State.message_onMessage]
    split
    next e => rw [e]; exact hf _
    next => exact ⟨rfl, rfl⟩
  | _ => simp [Part.Held]

theorem Kept.onTable (h : Kept p s₀ s) (T : TableId) (f : OrderTable → OrderTable) : Kept p s₀ (s.onTable T f) := by
  cases T with
  | line m => exact h.onLine m (f := fun l => { l with table := f l.table })
  | engine => exact h.of_rest rfl rfl rfl rfl rfl

theorem Kept.taking (h : Kept p s₀ s) (T : TableId) (i : Nat) : Kept p s₀ (s.taking T i) := h.onTable T _

theorem Kept.answerWith (h : Kept p s₀ s) (T : TableId) (i : Nat) (st : Status) (r c : Nat) (fs : List Byte) :
    Kept p s₀ (s.answerWith T i st r c fs) := by
  cases T with
  | line m => exact (h.onTable _ _).raise m _
  | engine => exact (h.onTable _ _).raiseEngine _

theorem Kept.answer (h : Kept p s₀ s) (T : TableId) (i : Nat) (st : Status) (r : Nat) (fs : List Byte) :
    Kept p s₀ (s.answer T i st r fs) := h.answerWith T i st r 0 fs

theorem Kept.answerBadChain (h : Kept p s₀ s) (T : TableId) (i : Nat) (e : ChainFault) : Kept p s₀ (s.answerBadChain T i e) :=
  h.answer T i _ _ _

theorem Kept.refuseState (h : Kept p s₀ s) (m : LineId) (i : Nat) : Kept p s₀ (s.refuseState m i) := h.answer _ i _ _ _

theorem Kept.commit (h : Kept p s₀ s) (r : State) : Kept p s₀ (r.commit s) := by
  refine h.trans ⟨?_, fun m => ?_⟩
  · cases p <;> simp [Part.Held, commitMessage]
  · rw [State.line_commit]
    cases p <;> rfl

theorem Kept.foldl {α : Type} {f : State → α → State} (hf : ∀ s a, Kept p s₀ s → Kept p s₀ (f s a)) (h : Kept p s₀ s) (xs : List α) :
    Kept p s₀ (xs.foldl f s) := by
  induction xs generalizing s with
  | nil => exact h
  | cons x xs ih => exact ih (hf s x h)

/-- A choice between two operations. -/
theorem Kept.ite {c : Prop} [Decidable c] {a b : State} (ha : c → Kept p s₀ a) (hb : ¬c → Kept p s₀ b) :
    Kept p s₀ (if c then a else b) := by
  split
  next k => exact ha k
  next k => exact hb k

/-! ## Framing, the exit tests and the freeing of blocks (06, 09) -/

theorem Kept.beginFrame (h : Kept p s₀ s) (m : LineId) (f : LinkFrame) : Kept p s₀ (s.beginFrame m f) := (h.onLink m).emit _

theorem Kept.resendFrame (h : Kept p s₀ s) (m : LineId) (f : SentFrame) : Kept p s₀ (s.resendFrame m f) := (h.onLink m).beginFrame m _

theorem Kept.newFrame (h : Kept p s₀ s) (m : LineId) (c : SendChain) : Kept p s₀ (s.newFrame m c) := (h.onLink m).beginFrame m _

theorem Kept.linkKick (h : Kept p s₀ s) (m : LineId) : Kept p s₀ (s.linkKick m) := by
  unfold State.linkKick; dsimp only; repeat' split
  · exact h
  · exact (h.onLink m).beginFrame m _
  · exact h
  · exact (h.onLink m).resendFrame m _
  · exact h.onLink m
  · exact h.newFrame m _
  · exact h
  · exact h

theorem Kept.sendReply (h : Kept p s₀ s) (m : LineId) (f : LinkFrame) : Kept p s₀ (s.sendReply m f) := by
  unfold State.sendReply; split
  · exact h.onLink m
  · exact (h.onLink m).linkKick m

theorem Kept.rateInFlight (h : Kept p s₀ s) (m : LineId) : Kept p s₀ (s.rateInFlight m) := h.onLink m

theorem Kept.rateSettled (h : Kept p s₀ s) (m : LineId) : Kept p s₀ (s.rateSettled m) := (h.onLink m).linkKick m

theorem Kept.criticalExit (h : Kept p s₀ s) (m : LineId) : Kept p s₀ (s.criticalExit m) := by
  unfold State.criticalExit; dsimp only; repeat' split
  · exact h.onLink m
  · exact (h.onLink m).sendReply m _
  · exact h

theorem Kept.criticalExits (h : Kept p s₀ s) : Kept p s₀ s.criticalExits := Kept.foldl (fun _ m k => k.criticalExit m) h allLines

theorem Kept.freeBlock (h : Kept p s₀ s) (b : Nat) : Kept p s₀ (s.freeBlock b) := (h.onStore _).criticalExits

theorem Kept.freeBlocks (h : Kept p s₀ s) (bs : List Nat) : Kept p s₀ (s.freeBlocks bs) := Kept.foldl (fun _ b k => k.freeBlock b) h bs

theorem Kept.giveBlocks (h : Kept p s₀ s) (bs : List Nat) (o : Owner) : Kept p s₀ (s.giveBlocks bs o) := h.onStore _

/-- A pop changes the store, and in the header the event word. -/
theorem State.pop_eq_some {o : Owner} {b : Nat} (e : s.pop o = some (b, t)) :
    ∃ st, s.store.take o = some (b, st) ∧ (t = { s with store := st } ∨ t = { s with store := st }.raiseEngine .poolLow) := by
  unfold State.pop at e
  split at e
  · simp at e
  next c st k =>
    simp only [Option.some.injEq, Prod.mk.injEq] at e
    obtain ⟨rfl, rfl⟩ := e
    refine ⟨st, k, ?_⟩
    split
    · exact .inr rfl
    · exact .inl rfl

theorem Kept.pop (h : Kept p s₀ s) {o : Owner} {b : Nat} (e : s.pop o = some (b, t)) : Kept p s₀ t := by
  obtain ⟨st, -, e⟩ := State.pop_eq_some e
  have popped : Kept p s₀ { s with store := st } := h.of_rest rfl rfl rfl rfl rfl
  obtain rfl | rfl := e
  · exact popped
  · exact popped.raiseEngine _

/-! ## Received data (06, 07, 09) -/

theorem Kept.onOpenEntry (h : Kept p s₀ s) (m : LineId) (k : EntryKind) (f : Entry → Entry) :
    Kept p s₀ (s.onOpenEntry m k f) := h.onLine m

theorem Kept.removeEntries (h : Kept p s₀ s) (m : LineId) : Kept p s₀ (s.removeEntries m) := by
  unfold State.removeEntries; dsimp only; split
  · exact h
  · exact (h.onLine m).criticalExit m

theorem Kept.popRecv (h : Kept p s₀ s) {m : LineId} {ek : EntryKind} {bk : BlockKind} (e : s.popRecv m ek bk = some t) :
    Kept p s₀ t := by
  unfold State.popRecv at e
  split at e
  · cases e
  next k =>
    split at e
    · cases e
      exact ((h.pop k).onStore _).onLine m
    · cases e
      exact ((h.pop k).onStore _).onLine m

theorem Kept.closeData (h : Kept p s₀ s) (m : LineId) : Kept p s₀ (s.closeData m) := by
  unfold State.closeData; split
  · exact h
  · exact ((h.onOpenEntry m _ _).raise m _).removeEntries m

theorem Kept.deliverData (h : Kept p s₀ s) (m : LineId) : Kept p s₀ (s.deliverData m) := by
  unfold State.deliverData; split
  · exact h
  · dsimp only; repeat' split
    · exact (((h.onStore _).onLine m).onOpenEntry m _ _).closeData m
    · exact ((h.onStore _).onLine m).onOpenEntry m _ _
    · exact ((h.onStore _).onLine m).onOpenEntry m _ _

theorem Kept.storeSome (h : Kept p s₀ s) (m : LineId) (data : List Byte) : Kept p s₀ (s.storeSome m data).1 := by
  unfold State.storeSome
  split
  · exact h
  next u e =>
    have k : Kept p s₀ u := by
      split at e
      · cases e; exact h
      · exact h.popRecv e
    split
    · exact k
    · dsimp only
      split
      · exact (k.onStore _).deliverData m
      · exact k.onStore _

theorem Kept.storeData (h : Kept p s₀ s) (m : LineId) (data : List Byte) : Kept p s₀ (s.storeData m data) := by
  unfold State.storeData; dsimp only; split
  · exact h.storeSome m data
  · exact (h.storeSome m data).storeSome m _

theorem Kept.deliverPage (h : Kept p s₀ s) (m : LineId) : Kept p s₀ (s.deliverPage m) := by
  unfold State.deliverPage; split
  · exact h
  · dsimp only; split
    · exact (((h.onLine m).onFax m _).draw).freeBlock _
    · exact ((((h.onLine m).onStore _).onLine m).onOpenEntry m _ _).draw

theorem Kept.closePage (h : Kept p s₀ s) (m : LineId) (v : Verdict) (a b : Nat) : Kept p s₀ (s.closePage m v a b) :=
  (h.onOpenEntry m _ _).removeEntries m

/-! ## Calls and pumps (01, 04) -/

theorem Kept.enter (h : Kept p s₀ s) (hp : p ≠ .call) (m : LineId) (st : LineState) (x : Timer) : Kept p s₀ (s.enter m st x) :=
  (h.onLine m).onCtl m _

theorem Kept.copyProfile (h : Kept p s₀ s) (m : LineId) : Kept p s₀ (s.copyProfile m) := h.onLine m

theorem Kept.callStart (h : Kept p s₀ s) (hc : p ≠ .call) (hs : p ≠ .step) (hh : p ≠ .hear) (hl : p ≠ .link) (m : LineId) (d : Direction)
    (r : Bool) : Kept p s₀ (s.callStart m d r) := h.onLine m

theorem Kept.answerDial (h : Kept p s₀ s) (m : LineId) (st : Status) (r : Nat) : Kept p s₀ (s.answerDial m st r) := by
  unfold State.answerDial; split
  · exact h
  · exact (h.answer _ _ _ _ _).onCtl m _

theorem Kept.answerAnswer (h : Kept p s₀ s) (m : LineId) (st : Status) (r : Nat) : Kept p s₀ (s.answerAnswer m st r) := by
  unfold State.answerAnswer; split
  · exact h
  · exact (h.answer _ _ _ _ _).onCtl m _

theorem Kept.connect (h : Kept p s₀ s) (hp : p ≠ .call) (m : LineId) (v : Service) : Kept p s₀ (s.connect m v) :=
  ((((h.enter hp m _ _).onLine m).raise m _).answerDial m _ _).answerAnswer m _ _

theorem Kept.closeHook (h : Kept p s₀ s) (m : LineId) : Kept p s₀ (s.closeHook m) := ((h.onCall m).onCtl m _).onVoice m

theorem Kept.fileCaller (h : Kept p s₀ s) (m : LineId) (r : CallerRecord) : Kept p s₀ (s.fileCaller m r) := (h.onCall m).raise m _

theorem Kept.closeWindow (h : Kept p s₀ s) (m : LineId) : Kept p s₀ (s.closeWindow m) := by
  unfold State.closeWindow; dsimp only; split
  · exact (h.onLine m).fileCaller m _
  · exact h.onLine m

theorem Kept.grantNext (h : Kept p s₀ s) (hp : p ≠ .pool) : Kept p s₀ s.grantNext := by
  unfold State.grantNext; split
  · exact (h.withWaitQueue hp _).onPumpAny hp _ _
  · exact h

theorem Kept.arbitrate (h : Kept p s₀ s) (hp : p ≠ .pool) : Kept p s₀ s.arbitrate := Kept.foldl (fun _ _ k => k.grantNext hp) h allPumps

theorem Kept.placeClaim (h : Kept p s₀ s) (hp : p ≠ .pool) (m : LineId) (c : ClaimClass) : Kept p s₀ (s.placeClaim m c) := by
  unfold State.placeClaim; split
  · exact (h.onPumpAny hp _ _).onLine m
  · exact (h.withWaitQueue hp _).onLine m

theorem Kept.dropClaim (h : Kept p s₀ s) (hp : p ≠ .pool) (m : LineId) : Kept p s₀ (s.dropClaim m) := by
  unfold State.dropClaim
  exact Kept.foldl (fun _ _ k => .ite (fun _ => k.onPumpAny hp _ _) fun _ => k) ((h.withWaitQueue hp _).onLine m) allPumps

theorem Kept.releasePump (h : Kept p s₀ s) (hp : p ≠ .pool) (m : LineId) : Kept p s₀ (s.releasePump m) := by
  have freed := Kept.foldl (f := fun s q =>
      if (s.pump q).state = .attached ∧ (s.pump q).line = some m then s.onPump q fun _ => Pump.inState .free none else s)
    (fun _ _ k => .ite (fun _ => k.onPumpAny hp _ _) fun _ => k) (h.dropClaim hp m) allPumps
  exact (freed.onLine m (f := fun l => { l with call := { l.call with pump := none } })).arbitrate hp

/-! ## The teardowns of the services (06, 07, 08) -/

theorem Kept.emptySlot (h : Kept p s₀ s) (hp : p ≠ .play) (g : SlotId) : Kept p s₀ (s.emptySlot g) :=
  (h.onSlot hp g _).freeBlocks _

theorem Kept.slotPlayEnds (h : Kept p s₀ s) (hp : p ≠ .play) (g : SlotId) : Kept p s₀ (s.slotPlayEnds g) := by
  unfold State.slotPlayEnds; dsimp only; repeat' split
  · exact (h.emptySlot hp g).answer _ _ _ _ _
  · exact h.emptySlot hp g
  · exact h.onSlot hp g _

theorem Kept.finishPlay (h : Kept p s₀ s) (hp : p ≠ .play) (m : LineId) (e : PlayEnd) (st : Status) (r : Nat) :
    Kept p s₀ (s.finishPlay m e st r) := by
  have k : Kept p s₀ (s.onVoice m fun v => { v with play := .none, playCard := none, playChain := [], playTotal := 0 }) :=
    h.onVoicePlay hp m
  unfold State.finishPlay; dsimp only
  generalize (s.onVoice m fun v => { v with play := .none, playCard := none, playChain := [], playTotal := 0 }) = t at *
  repeat' split
  · exact k
  · exact k.slotPlayEnds hp _
  · exact k.giveBlocks _ _
  · exact k.answer _ _ _ _ _
  · exact (k.slotPlayEnds hp _).answer _ _ _ _ _
  · exact (k.giveBlocks _ _).answer _ _ _ _ _

theorem Kept.finishRecording (h : Kept p s₀ s) (hp : p ≠ .record) (m : LineId) (r : EndReason) : Kept p s₀ (s.finishRecording m r) := by
  unfold State.finishRecording; dsimp only; repeat' split
  · exact h
  · exact ((h.onMessageAny hp _ _).onVoiceRec hp m).raise m _
  · exact (((h.onMessageAny hp _ _).onVoiceRec hp m).raise m _).answer _ _ _ _ _

theorem Kept.voiceTeardown (h : Kept p s₀ s) (hp : p ≠ .play) (hc : p ≠ .record) (m : LineId) (o : CallOutcome) :
    Kept p s₀ (s.voiceTeardown m o) := by
  unfold State.voiceTeardown; dsimp only
  exact .ite (fun _ => h.finishRecording hc m _) fun _ => (h.finishRecording hc m _).finishPlay hp m _ _ _

theorem Kept.returnChain (h : Kept p s₀ s) (m : LineId) (o : CallOutcome) (c : SendChain) :
    Kept p s₀ (s.returnChain m o c) := (h.giveBlocks _ _).answer _ _ _ _ _

theorem Kept.linkTeardown (h : Kept p s₀ s) (hl : p ≠ .link) (m : LineId) (o : CallOutcome) :
    Kept p s₀ (s.linkTeardown m o) := by
  unfold State.linkTeardown; split
  · exact ((Kept.foldl (fun _ c k => k.returnChain m o c) (h.onLinkState hl m _) _).deliverData m).closeData m
  · exact h

theorem Kept.answerPages (h : Kept p s₀ s) (m : LineId) (st : Status) (r : Nat) (x : FaxOrder) : Kept p s₀ (s.answerPages m st r x) :=
  (h.answer _ _ _ _ _).draw

theorem Kept.returnPages (h : Kept p s₀ s) (m : LineId) (o : CallOutcome) : Kept p s₀ (s.returnPages m o) :=
  Kept.foldl (fun _ x k => k.answerPages m _ _ x) ((Kept.foldl (fun _ _ k => k.giveBlocks _ _) h _).onFax m _) _

theorem Kept.faxTeardown (h : Kept p s₀ s) (m : LineId) (o : CallOutcome) :
    Kept p s₀ (s.faxTeardown m o) := by
  unfold State.faxTeardown; dsimp only; repeat' split
  · exact Kept.onFax (.ite (fun _ => h) fun _ => h.returnPages m o) m _
  · unfold State.faxReceiverTeardown; split
    · exact h.onFax m _
    · exact ((((h.deliverPage m).closePage m _ _ _).onFax m _).raise m _).onFax m _
  · exact h

theorem Kept.answerCallCards (h : Kept p s₀ s) (m : LineId) (o : CallOutcome) : Kept p s₀ (s.answerCallCards m o) := by
  unfold State.answerCallCards; dsimp only
  exact Kept.answerAnswer (.ite (fun _ => h) fun _ => h.answerDial m _ _) m _ _

theorem Kept.stopUnits (h : Kept p s₀ s) (hc : p ≠ .call) (hs : p ≠ .step) (hh : p ≠ .hear) (m : LineId) : Kept p s₀ (s.stopUnits m) := h.onLine m

theorem Kept.sendLinkClose (h : Kept p s₀ s) (m : LineId) (o : CallOutcome) : Kept p s₀ (s.sendLinkClose m o) :=
  .ite (fun _ => h.emit _) fun _ => h

theorem Kept.abandonRetry (h : Kept p s₀ s) (m : LineId) (o : CallOutcome) : Kept p s₀ (s.abandonRetry m o) := by
  unfold State.abandonRetry; dsimp only; repeat' split
  · exact ((h.onFm m _).answerDial m _ _).returnPages m o
  · exact (h.onFm m _).answerDial m _ _
  · exact h

theorem Kept.enterOff (h : Kept p s₀ s) (hc : p ≠ .call) (m : LineId) : Kept p s₀ (s.enterOff m) :=
  (h.enter hc m _ _).returnPages m _

/-! ## Recordings and plays that start (08) -/

theorem Kept.beginRecording (h : Kept p s₀ s) (hp : p ≠ .record) (m : LineId) (k : EntryId) (x : RecordingKind) (b : Bool) :
    Kept p s₀ (s.beginRecording m k x b) := by
  unfold State.beginRecording
  exact ((h.onMessageAny hp k _).onHdr _).onVoiceRec hp m

theorem Kept.beginPlay (h : Kept p s₀ s) (hp : p ≠ .play) (m : LineId) (x : Play) (c : Chain) (k : Nat) (card : Option Nat) :
    Kept p s₀ (s.beginPlay m x c k card) := by
  unfold State.beginPlay; dsimp only; split
  · exact (h.onVoicePlay hp m).onSlot hp _ _
  · exact h.onVoicePlay hp m

end Sys2Proof.Machine

/-! The moves of a line and of the pool that the commands are made of, in the terms of the parts that the laws of pumps, plays and
recordings read (`Part`). Every command is a chain of moves (`exec_path`), so that a law holds after every command when every move keeps
it. -/

namespace Sys2Proof.Machine

set_option Elab.async false

/-! ## Lines and their states -/

/-- The line is neither QUEUED nor off hook. -/
def LineState.rests (st : LineState) : Prop := st ≠ .queued ∧ st.offHook = false

/-- The line is QUEUED or off hook. -/
def LineState.holds (st : LineState) : Prop := st = .queued ∨ st.offHook = true

/-- The states of an originated call before its training. -/
def LineState.dials : LineState → Prop
  | .queued | .seized | .dialling | .progress => True
  | _ => False

/-- The steps of an answer sequence that is on its way to a recording or to HOST. -/
def SeqStep.onWay : SeqStep → Prop
  | .greeting | .listen | .switchWait => True
  | _ => False

/-- The steps at which a line may listen. -/
def SeqStep.hears (x : SeqStep) : Prop := x = .greeting ∨ x = .listen

/-- The 300 ms of a voice answer run. -/
def Line.settles (l : Line) : Bool := l.seq.settleTimer.isRunning

/-- The line's link is OPENING. -/
def Line.opens (l : Line) : Prop := l.link.state = .opening

/-- Two lines at the same point of their answer sequence. -/
structure Line.SameSeq (l k : Line) : Prop where
  settles : k.settles = l.settles
  listening : k.seq.listening = l.seq.listening
  step : k.seq.step = l.seq.step

/-- The second line is at the same point of its answer sequence, its link opening as before, or as a new call finds them. -/
structure Line.Fresh (l k : Line) : Prop where
  settles : k.settles = true → l.settles = true
  listening : k.seq.listening = true → l.seq.listening = true
  step : k.seq.step = l.seq.step ∨ k.seq.step = .host
  opens : k.opens → l.opens

/-- The call of the second line is that of the first as far as its state and its service go. -/
def Line.SameCall (l k : Line) : Prop := k.call.state = l.call.state ∧ k.call.service = l.call.service

/-- The 300 ms of a voice answer are over, and the second line is in CONNECTED-VOICE. -/
structure Line.Answers (l k : Line) : Prop where
  state : l.call.state = .answering
  settling : l.settles = true
  connected : k.connectedAs .voice = true
  settles : k.settles = false
  hears : k.seq.listening = true → k.seq.step.hears
  opens : k.opens ↔ l.opens

/-- What can become of a line's call, answer sequence and link while its claim, pump, play and recording stay; `served` says that a pump
serves the line. -/
inductive LineMove (served : Prop) (l k : Line) : Prop
  /-- A line at rest enters any state. -/
  | rests (rest : l.call.state.rests) (fresh : l.Fresh k)
  /-- A voice answer starts its 300 ms. -/
  | settles (rest : l.call.state.rests) (state : k.call.state = .answering) (listening : k.seq.listening = l.seq.listening)
      (step : k.seq.step = l.seq.step) (opens : k.opens ↔ l.opens)
  | answers (answers : l.Answers k)
  /-- The answer sequence goes from a step to the next. -/
  | goesOn (step : l.seq.step.onWay) (call : l.SameCall k) (settles : k.settles = l.settles)
      (listening : k.seq.listening = true → l.seq.listening = true)
      (hears : k.seq.listening = true → k.seq.step.hears ∨ l.seq.step = .switchWait) (opens : k.opens ↔ l.opens)
  /-- Listening ends. -/
  | hushed (call : l.SameCall k) (settles : k.settles = l.settles) (listening : k.seq.listening = false)
      (step : k.seq.step = l.seq.step) (opens : k.opens ↔ l.opens)
  /-- The link of a data call in TRAINING opens. -/
  | opens (training : l.call.state = .training) (data : l.call.service = .data) (call : l.SameCall k) (seq : l.SameSeq k)
  /-- A call that is not connected as voice goes on to another state. -/
  | goes (here : l.connectedAs .voice = false ∧ (l.call.state = .answering → served) ∨ l.opens ∧ served)
      (there : k.call.state.holds) (seq : l.SameSeq k)
      (opens : k.opens → l.opens ∧ ¬(l.call.state = .training ∧ l.call.service = .data))
  /-- The adaptive switch. -/
  | switched (state : l.call.state = .connected) (step : l.seq.step = .switchWait) (quiet : l.voice.play = .none) (pump : served)
      (there : k.call.state.holds) (settles : k.settles = l.settles) (listening : k.seq.listening = l.seq.listening)
      (host : k.seq.step = .host) (opens : k.opens ↔ l.opens)

/-! ## Changes within a line -/

/-- No part changes. -/
abbrev Still (s t : State) : Prop := ∀ p, Kept p s t

/-- Line `n` alone changes, and not its claim, pump, play and recording. -/
structure Within (n : LineId) (s t : State) : Prop where
  pool : Kept .pool s t
  play : Kept .play s t
  record : Kept .record s t
  others : ∀ p : Part, ∀ m, m ≠ n → p.ofLine (t.line m) = p.ofLine (s.line m)

variable {s₀ s t u : State} {n : LineId}

theorem Within.refl : Within n s s := ⟨.refl, .refl, .refl, fun _ _ _ => rfl⟩

theorem Within.still (h : Within n s₀ s) (k : Still s t) : Within n s₀ t :=
  ⟨h.pool.trans (k _), h.play.trans (k _), h.record.trans (k _), fun p m hm => ((k p).lines m).trans (h.others p m hm)⟩

theorem Within.onLine (h : Within n s₀ s) {f : Line → Line}
    (hf : ∀ l, (f l).claim = l.claim ∧ (f l).call.pump = l.call.pump ∧ (f l).voice.play = l.voice.play ∧
      (f l).voice.recording = l.voice.recording := by exact fun _ => ⟨rfl, rfl, rfl, rfl⟩) : Within n s₀ (s.onLine n f) where
  pool := h.pool.onLine n fun l => congrArg₂ Prod.mk (hf l).1 (hf l).2.1
  play := h.play.onLine n fun l => (hf l).2.2.1
  record := h.record.onLine n fun l => (hf l).2.2.2
  others p m hm := by rw [State.line_onLine_ne _ hm]; exact h.others p m hm

theorem Within.onCall (h : Within n s₀ s) {f : CallRecord → CallRecord} (hf : ∀ c, (f c).pump = c.pump := by exact fun _ => rfl) :
    Within n s₀ (s.onCall n f) := h.onLine fun l => ⟨rfl, hf l.call, rfl, rfl⟩

theorem Within.onSeq (h : Within n s₀ s) (f : AnswerSeq → AnswerSeq) : Within n s₀ (s.onSeq n f) := h.onLine

theorem Within.onLink (h : Within n s₀ s) (f : Link → Link) : Within n s₀ (s.onLink n f) := h.onLine

theorem Within.enter (h : Within n s₀ s) (st : LineState) (x : Timer) : Within n s₀ (s.enter n st x) :=
  Within.onLine (h.onCall (f := fun c => { c with state := st })) (f := fun l => { l with ctl := { l.ctl with stateTimer := x } })

theorem Within.callStart (h : Within n s₀ s) (d : Direction) (r : Bool) : Within n s₀ (s.callStart n d r) := h.onLine

theorem Within.connect (h : Within n s₀ s) (v : Service) : Within n s₀ (s.connect n v) :=
  (Within.onCall (h.enter _ _)).still fun _ => (((Kept.refl.raise n _).answerDial n _ _).answerAnswer n _ _)

/-! ## Moves -/

/-- An automatic recording begins, the answer sequence at step RECORDING. -/
def State.autoRecorded (s : State) (n : LineId) (m : EntryId) (k : RecordingKind) (stop : Bool) : State :=
  (s.beginRecording n m k stop).onSeq n fun q => { q with step := .recording }

/-- The claim of a line at the head of its class again, its settling pump OUT (R63). -/
def State.requeued (s : State) (p : PumpId) (n : LineId) (c : Claim) (w : Timer) : State :=
  { s.onPump p fun _ => Pump.inState .out none with queue := s.queue.enqueueHead n c.cls }.onLine n fun l =>
    { l with claim := some { c with wait := w } }

/-- One move. -/
inductive Move (s : State) : State → Prop
  | still {t : State} (same : Still s t) : Move s t
  | inLine {t : State} (n : LineId) (within : Within n s t) (move : LineMove (∃ p, s.serves p n) (s.line n) (t.line n)) : Move s t
  /-- A call ends, whatever state its line enters then. -/
  | ended {t : State} (n : LineId) (o : CallOutcome) (u : State) (before : Within n s u)
      (service : (u.line n).call.service = (s.line n).call.service) (seq : (s.line n).SameSeq (u.line n))
      (opens : (u.line n).opens ↔ (s.line n).opens) (after : Within n (u.callEnd n o) t)
      (fresh : ((u.callEnd n o).line n).Fresh (t.line n)) : Move s t
  /-- A line at rest enters a call with a claim. -/
  | claims (n : LineId) (c : ClaimClass) (u : State) (within : Within n s u) (rest : (s.line n).call.state.rests)
      (fresh : (s.line n).Fresh (u.line n)) (there : (u.line n).call.state.holds) : Move s (u.placeClaim n c)
  /-- A listening line makes its switch claim. -/
  | switches (n : LineId) (c : ClaimClass) (u : State) (within : Within n s u) (listens : (s.line n).seq.listening = true)
      (call : (s.line n).SameCall (u.line n)) (settles : (u.line n).settles = (s.line n).settles)
      (deaf : (u.line n).seq.listening = false) (opens : (u.line n).opens ↔ (s.line n).opens) : Move s (u.placeClaim n c)
  | drops (n : LineId) : Move s (s.dropClaim n)
  | attaches (p : PumpId) (n : LineId) (settling : (s.pump p).state = .settling) (line : s.serves p n) :
      Move s ((s.onPump p fun _ => Pump.inState .attached (some n)).onLine n fun l =>
        { l with claim := none, call := { l.call with pump := some p } })
  | frees (p : PumpId) (settling : (s.pump p).state = .settling) (line : (s.pump p).line = none) :
      Move s (s.onPump p fun _ => Pump.inState .free none).arbitrate
  | out (p : PumpId) (settling : (s.pump p).state = .settling) (line : ∀ n, s.serves p n → (s.line n).claim = none) :
      Move s (s.onPump p fun _ => Pump.inState .out none)
  | requeues (p : PumpId) (n : LineId) (c : Claim) (w : Timer) (settling : (s.pump p).state = .settling) (line : s.serves p n)
      (claim : (s.line n).claim = some c) (dry : (s.requeued p n c w).lowestFree = none) : Move s (s.requeued p n c w)
  | regrants (p : PumpId) (n : LineId) (c : Claim) (w : Timer) (settling : (s.pump p).state = .settling) (line : s.serves p n)
      (claim : (s.line n).claim = some c) : Move s (s.requeued p n c w).arbitrate
  | loses (p : PumpId) (n : LineId) (attached : (s.pump p).state = .attached) (line : s.serves p n) :
      Move s ((s.onPump p fun _ => Pump.inState .out none).onCall n fun c => { c with pump := none })
  /-- The 300 ms of a voice answer are over, and the greeting is played. -/
  | greets (n : LineId) (g : SlotId) (c : Chain) (k : Nat) (card : Option Nat) (u : State) (within : Within n s u)
      (answers : (s.line n).Answers (u.line n)) (loaded : (u.slot g).state = .loaded) : Move s (u.beginPlay n (.slot g) c k card)
  /-- The 300 ms of a voice answer are over, and the caller is recorded. -/
  | answersRecording (n : LineId) (m : EntryId) (k : RecordingKind) (b : Bool) (u : State) (within : Within n s u)
      (answers : (s.line n).Answers (u.line n)) (deaf : (u.line n).seq.listening = false) (empty : (u.message m).state = .empty) :
      Move s (u.autoRecorded n m k b)
  | autoRecords (n : LineId) (m : EntryId) (k : RecordingKind) (b : Bool) (step : (s.line n).seq.step.onWay)
      (deaf : (s.line n).seq.listening = false ∨ (s.line n).seq.step = .switchWait) (empty : (s.message m).state = .empty) :
      Move s (s.autoRecorded n m k b)
  | records (n : LineId) (m : EntryId) (k : RecordingKind) (b : Bool) (voice : (s.line n).connectedAs .voice = true)
      (host : (s.line n).seq.step = .host) (none : (s.line n).voice.recording = none) (empty : (s.message m).state = .empty) :
      Move s (s.beginRecording n m k b)
  | recordingEnds {t : State} (n : LineId) (r : EndReason) (recording : (s.line n).voice.recording ≠ none)
      (within : Within n (s.finishRecording n r) t) (call : ((s.finishRecording n r).line n).SameCall (t.line n))
      (settles : (t.line n).settles = ((s.finishRecording n r).line n).settles)
      (listening : (t.line n).seq.listening = ((s.finishRecording n r).line n).seq.listening)
      (step : (t.line n).seq.step = ((s.finishRecording n r).line n).seq.step ∨ (t.line n).seq.step = .host)
      (opens : (t.line n).opens ↔ ((s.finishRecording n r).line n).opens) : Move s t
  | plays (n : LineId) (p : Play) (c : Chain) (k : Nat) (card : Option Nat) (voice : (s.line n).connectedAs .voice = true)
      (quiet : (s.line n).voice.play = .none) (some : p ≠ .none) (loaded : ∀ g, p = .slot g → (s.slot g).state = .loaded) :
      Move s (s.beginPlay n p c k card)
  | playEnds (n : LineId) (e : PlayEnd) (st : Status) (r : Nat) : Move s (s.finishPlay n e st r)
  | loads (g : SlotId) (c : Chain) (k : Nat) (empty : (s.slot g).state = .empty) : Move s (s.onSlot g fun _ => ⟨.loaded, c, k, 0, none⟩)
  | empties (g : SlotId) (quiet : (s.slot g).playCount = 0) : Move s (s.emptySlot g)
  | withdraws (g : SlotId) (i : Nat) (plays : (s.slot g).playCount ≠ 0) :
      Move s (s.onSlot g fun x => { x with state := .withdrawing, unloadCard := some i })
  | collects (m : EntryId) (complete : (s.message m).state = .complete) : Move s (s.clearMessage m)

/-- A chain of moves. -/
abbrev Path : State → State → Prop := Relation.ReflTransGen Move

theorem Path.refl : Path s s := Relation.ReflTransGen.refl

theorem Path.move (h : Path s₀ s) (m : Move s t) : Path s₀ t := h.tail m

theorem Path.still (h : Path s₀ s) (k : Still s t) : Path s₀ t := h.tail (.still k)

theorem Path.inLine (h : Path s₀ s) (n : LineId) (w : Within n s t) (m : LineMove (∃ p, s.serves p n) (s.line n) (t.line n)) : Path s₀ t :=
  h.tail (.inLine n w m)

theorem Path.foldl {α : Type} {f : State → α → State} (hf : ∀ s a, Path s₀ s → Path s₀ (f s a)) (h : Path s₀ s) (xs : List α) :
    Path s₀ (xs.foldl f s) := by
  induction xs generalizing s with
  | nil => exact h
  | cons x xs ih => exact ih (hf s x h)

theorem Path.ite {c : Prop} [Decidable c] {a b : State} (ha : c → Path s₀ a) (hb : ¬c → Path s₀ b) : Path s₀ (if c then a else b) := by
  split
  next k => exact ha k
  next k => exact hb k

/-! ## What the lines read -/

theorem Line.SameSeq.refl {l : Line} : l.SameSeq l := ⟨rfl, rfl, rfl⟩

theorem Line.Fresh.refl {l : Line} : l.Fresh l := ⟨id, id, .inl rfl, id⟩

theorem Still.sameSeq (k : Still s t) (n : LineId) : (s.line n).SameSeq (t.line n) := ⟨(k _).settles n, (k _).listening n, (k _).stepOf n⟩

theorem Still.sameCall (k : Still s t) (n : LineId) : (s.line n).SameCall (t.line n) := ⟨(k _).state n, (k _).service n⟩

theorem Still.opens (k : Still s t) (n : LineId) : (t.line n).opens ↔ (s.line n).opens := (k _).opening n

theorem Still.trans (h : Still s t) (k : Still t u) : Still s u := fun p => (h p).trans (k p)

theorem State.serves_of_heldPump {p : PumpId} (h : s.heldPump n = some p) : s.serves p n := by
  unfold State.heldPump at h
  split at h
  · split at h
    next k => cases h; exact k.2
    next => cases h
  · cases h

theorem State.serves_of_carrying (h : s.carrying n = true) : ∃ p, s.serves p n := by
  unfold State.carrying at h
  split at h
  next p k => exact ⟨p, State.serves_of_heldPump k⟩
  next => cases h

theorem State.state_enter (s : State) (n : LineId) (st : LineState) (x : Timer) : ((s.enter n st x).line n).call.state = st := by
  simp [State.enter]

theorem State.service_enter (s : State) (n : LineId) (st : LineState) (x : Timer) :
    ((s.enter n st x).line n).call.service = (s.line n).call.service := by
  simp [State.enter]

/-- A state entered changes neither answer sequence nor link. -/
theorem State.seq_enter (s : State) (n : LineId) (st : LineState) (x : Timer) :
    (s.line n).SameSeq ((s.enter n st x).line n) ∧ (((s.enter n st x).line n).opens ↔ (s.line n).opens) := by
  constructor
  · constructor <;> simp [State.enter, Line.settles]
  · simp [State.enter, Line.opens]

theorem Line.SameSeq.fresh {l k : Line} (h : l.SameSeq k) (o : k.opens ↔ l.opens) : l.Fresh k :=
  ⟨fun e => h.settles ▸ e, fun e => h.listening ▸ e, .inl h.step, o.mp⟩

/-! ## The end of a call, and faults -/

/-- A line enters a state from rest. -/
theorem Path.enterRested (h : Path s₀ s) (r : (s.line n).call.state.rests) (st : LineState) (x : Timer) : Path s₀ (s.enter n st x) :=
  h.inLine n (Within.refl.enter st x) (.rests r ((s.seq_enter n st x).1.fresh (s.seq_enter n st x).2))

/-- The clear decision up to the call-end sequence. -/
def State.decided (s : State) (n : LineId) (o : CallOutcome) : State :=
  ((((s.closeWindow n).sendLinkClose n o).onCall n fun c => { c with lastOutcome := o }).enter n .clearing
      (.running ((((s.closeWindow n).sendLinkClose n o).onCall n fun c => { c with lastOutcome := o }).line n).profile.guardTime)).onCtl n
    fun c =>
      { c with
        declined := c.declined || decide ((s.line n).call.state = .alerting)
        declinedGap := if decide ((s.line n).call.state = .alerting) then .running 8000 else .stopped
        heldCarrierLoss := false
        loopMeasuring := false }

theorem State.clearDecision_eq (s : State) (n : LineId) (o : CallOutcome) : s.clearDecision n o = (s.decided n o).callEnd n o := rfl

theorem Path.clearDecision (h : Path s₀ s) (n : LineId) (o : CallOutcome) : Path s₀ (s.clearDecision n o) := by
  have quiet : Still s (((s.closeWindow n).sendLinkClose n o).onCall n fun c => { c with lastOutcome := o }) :=
    fun _ => ((Kept.refl.closeWindow n).sendLinkClose n o).onCall n
  generalize hx : ((s.closeWindow n).sendLinkClose n o).onCall n (fun c => { c with lastOutcome := o }) = x at quiet
  have entered := x.seq_enter n .clearing (.running (x.line n).profile.guardTime)
  have ctl : Still (x.enter n .clearing (.running (x.line n).profile.guardTime)) (s.decided n o) := by
    subst hx
    exact fun _ => Kept.refl.onCtl n _
  refine h.move (.ended n o (s.decided n o) (((Within.refl.still quiet).enter _ _).still ctl) ?_ ?_ ?_ .refl .refl)
  · rw [(ctl _).service, State.service_enter, (quiet _).service]
  · have a := quiet.sameSeq n
    have b := ctl.sameSeq n
    exact ⟨b.settles.trans (entered.1.settles.trans a.settles), b.listening.trans (entered.1.listening.trans a.listening),
      b.step.trans (entered.1.step.trans a.step)⟩
  · exact (ctl.opens n).trans (entered.2.trans (quiet.opens n))

/-- A fault is taken with the call cleared or going on as it was. -/
theorem State.takeFault_cases (s : State) (n : LineId) (k : FaultKind) (d : FailDetail) (g a : Bool) :
    Still s (s.takeFault n k d g a) ∨ ∃ u, Still s u ∧ s.takeFault n k d g a = u.clearDecision n (.fault k) := by
  have reported : ∀ p : Policy, Still s (if p = .silent then s.onFm n fun f => { f with last := some ⟨k, d, p, s.hdr.tick⟩ }
      else (s.onFm n fun f => { f with last := some ⟨k, d, p, s.hdr.tick⟩ }).raise n .fault) := fun p q =>
    .ite (fun _ => Kept.refl.onFm n _) fun _ => (Kept.refl.onFm n _).raise n _
  unfold State.takeFault; dsimp only; split
  · generalize appliedPolicy _ _ _ _ = p
    have r := reported p
    split
    · exact .inr ⟨_, fun q => (r q).onFm n _, rfl⟩
    · exact .inr ⟨_, fun q => (r q).onFm n _, rfl⟩
    · split
      · exact .inl r
      · exact .inr ⟨_, r, rfl⟩
  · exact .inl fun _ => .refl

theorem Path.takeFault (h : Path s₀ s) (n : LineId) (k : FaultKind) (d : FailDetail) (g a : Bool) :
    Path s₀ (s.takeFault n k d g a) := by
  obtain r | ⟨u, r, e⟩ := s.takeFault_cases n k d g a
  · exact h.still r
  · exact e ▸ (h.still r).clearDecision n _

theorem Path.fault (h : Path s₀ s) (n : LineId) (k : FaultKind) : Path s₀ (s.fault n k) := h.takeFault n k _ _ _

theorem Path.faxFailed (h : Path s₀ s) (n : LineId) (d : FailDetail) : Path s₀ (s.faxFailed n d) :=
  Path.takeFault (h.still fun _ => Kept.refl.onFax n _) n _ _ _ _

theorem Path.enterOff (h : Path s₀ s) (r : (s.line n).call.state.rests) : Path s₀ (s.enterOff n) :=
  (h.enterRested r _ _).still fun _ => Kept.refl.returnPages n _

theorem Path.endClearing (h : Path s₀ s) (r : (s.line n).call.state.rests) : Path s₀ (s.endClearing n) := by
  unfold State.endClearing; dsimp only
  have quiet : Still s ((s.onCtl n fun c => { c with declined := false, declinedGap := .stopped }).onCall n fun c =>
      { c with disablePending := false }) := fun _ => (Kept.refl.onCtl n _).onCall n
  generalize ((s.onCtl n fun c => { c with declined := false, declinedGap := .stopped }).onCall n fun c =>
    { c with disablePending := false }) = x at quiet
  have r' : (x.line n).call.state.rests := (quiet _).state n ▸ r
  exact .ite (fun _ => (h.still quiet).enterRested r' _ _) fun _ => .ite (fun _ => (h.still quiet).enterRested r' _ _) fun _ =>
    .ite (fun _ => (h.still quiet).enterOff r') fun _ => (h.still quiet).enterRested r' _ _

end Sys2Proof.Machine

/-! Every operation of claims, recordings, plays, the answer sequence, calls and dialling is a chain of moves. -/

namespace Sys2Proof.Machine

set_option Elab.async false

variable {s₀ s t u : State} {n : LineId}

theorem LineState.rests_iff (st : LineState) :
    st.rests ↔ st = .off ∨ st = .idle ∨ st = .alerting ∨ st = .clearing ∨ st = .holdoff ∨ st = .fault := by
  cases st <;> simp [LineState.rests, LineState.offHook]

theorem LineState.holds_of_dials {st : LineState} (h : st.dials) : st.holds := by
  cases st <;> simp_all [LineState.dials, LineState.holds, LineState.offHook]

/-! ## Recordings, plays and the answer sequence -/

theorem State.finishRecording_none (h : (s.line n).voice.recording = none) (r : EndReason) : s.finishRecording n r = s := by
  simp only [State.finishRecording, h]

theorem Path.finishRecording (h : Path s₀ s) (n : LineId) (r : EndReason) : Path s₀ (s.finishRecording n r) := by
  by_cases e : (s.line n).voice.recording = none
  · rwa [State.finishRecording_none e]
  · exact h.move (.recordingEnds n r e .refl ⟨rfl, rfl⟩ rfl rfl (.inl rfl) .rfl)

theorem Path.endRecording (h : Path s₀ s) (n : LineId) (r : EndReason) (hd : r = .digit → (s.line n).voice.recording ≠ none) :
    Path s₀ (s.endRecording n r) := by
  unfold State.endRecording; dsimp only; split
  · exact h.finishRecording n r
  · split
    next e =>
      refine h.move (.recordingEnds n r (hd e) (Within.refl.onSeq _) ?_ ?_ ?_ ?_ ?_)
      · simp [Line.SameCall]
      · simp [Line.settles]
      · simp
      · simp
      · simp [Line.opens]
    next => exact (h.finishRecording n r).clearDecision n _

theorem State.empty_of_lowestEmpty {m : EntryId} (h : s.lowestEmpty = some m) : (s.message m).state = .empty := by
  simpa using List.find?_some h

/-- The answer sequence goes to another step. -/
theorem Path.toStep (h : Path s₀ s) (step : (s.line n).seq.step.onWay) {f : AnswerSeq → AnswerSeq}
    (timer : ∀ q, (f q).settleTimer = q.settleTimer) (listening : ∀ q, (f q).listening = true → q.listening = true)
    (hears : (f (s.line n).seq).listening = true → (f (s.line n).seq).step.hears ∨ (s.line n).seq.step = .switchWait) :
    Path s₀ (s.onSeq n f) := by
  refine h.inLine n (Within.refl.onSeq f) (.goesOn step ?_ ?_ ?_ ?_ ?_)
  · simp [Line.SameCall]
  · simp [Line.settles, timer]
  · simpa using listening _
  · simpa using hears
  · simp [Line.opens]

theorem Path.deaf (h : Path s₀ s) (n : LineId) : Path s₀ (s.onSeq n AnswerSeq.deaf) := by
  refine h.inLine n (Within.refl.onSeq _) (.hushed ?_ ?_ ?_ ?_ ?_)
  · simp [Line.SameCall]
  · simp [Line.settles, AnswerSeq.deaf]
  · simp [AnswerSeq.deaf]
  · simp [AnswerSeq.deaf]
  · simp [Line.opens]

theorem Path.autoRecord (h : Path s₀ s) (step : (s.line n).seq.step.onWay)
    (deaf : (s.line n).seq.listening = false ∨ (s.line n).seq.step = .switchWait) : Path s₀ (s.autoRecord n) := by
  unfold State.autoRecord; split
  next e => exact h.move (.autoRecords n _ _ _ step deaf (State.empty_of_lowestEmpty e))
  next => exact Path.clearDecision (h.still fun _ => (Kept.refl.onVoice n).raise n _) n _

theorem Path.goOn (h : Path s₀ s) (step : (s.line n).seq.step.onWay)
    (deaf : (s.line n).seq.listening = false ∨ (s.line n).seq.step = .switchWait) : Path s₀ (s.goOn n) := by
  refine .ite (fun _ => h.autoRecord step deaf) fun _ => h.toStep step (fun _ => rfl) (fun _ => id) fun e => ?_
  exact deaf.elim (fun d => absurd (d.symm.trans e) nofun) .inr

theorem Path.beginListen (h : Path s₀ s) (step : (s.line n).seq.step = .greeting) : Path s₀ (s.beginListen n) := by
  have way : (s.line n).seq.step.onWay := by rw [step]; trivial
  refine .ite (fun _ => (h.deaf n).goOn ?_ (.inl ?_)) fun _ => h.toStep way (fun _ => rfl) (fun _ => id) fun _ => .inl (.inr rfl)
  · simpa [AnswerSeq.deaf] using way
  · simp [AnswerSeq.deaf]

theorem Path.afterGreeting (h : Path s₀ s) (n : LineId) (b : Bool) : Path s₀ (s.afterGreeting n b) := by
  unfold State.afterGreeting; dsimp only
  have k : Path s₀ (s.onSeq n fun q => { q with greetingStopped := q.greetingStopped || b }) := h.still fun _ => Kept.refl.onSeq n
  generalize (s.onSeq n fun q => { q with greetingStopped := q.greetingStopped || b }) = x at k
  split
  next e =>
    refine .ite (fun _ => k.beginListen e) fun d => k.goOn (by rw [e]; trivial) (.inl (by simpa using d))
  next => exact k

theorem Path.endPlay (h : Path s₀ s) (n : LineId) (e : PlayEnd) : Path s₀ (s.endPlay n e) :=
  .ite (fun _ => (h.move (.playEnds n e _ _)).afterGreeting n _) fun _ => h.move (.playEnds n e _ _)

/-! ## Claims -/

theorem Path.resumeSequence (h : Path s₀ s) (step : (s.line n).seq.step = .switchWait) : Path s₀ (s.resumeSequence n) := by
  have way : (s.line n).seq.step.onWay := by rw [step]; trivial
  unfold State.resumeSequence; split
  · exact h.toStep way (fun _ => rfl) (fun _ => id) fun _ => .inl (.inl rfl)
  · exact h.goOn way (.inr step)

theorem State.state_clearDecision (s : State) (n : LineId) (o : CallOutcome) : ((s.clearDecision n o).line n).call.state = .clearing := by
  rw [(s.clearDecision_spec n o).call]

theorem Path.expireClaim (h : Path s₀ s) (n : LineId) : Path s₀ (s.expireClaim n) := by
  have d : Path s₀ (s.dropClaim n) := h.move (.drops n)
  unfold State.expireClaim; dsimp only
  generalize s.dropClaim n = x at d
  split
  next step =>
    obtain quiet | ⟨u, quiet, e⟩ := x.takeFault_cases n .noPump .none true false
    · exact .ite (fun _ => (d.still quiet).resumeSequence (((quiet _).stepOf n).trans step)) fun _ => d.still quiet
    · refine .ite (fun c => ?_) fun _ => d.takeFault n _ _ _ _
      rw [e, State.state_clearDecision] at c
      cases c
  next => exact d.fault n _

/-- A claim placed may expire at once. -/
theorem Path.makeClaim {c : ClaimClass} (h : Path s₀ (s.placeClaim n c)) : Path s₀ (s.makeClaim n c) :=
  .ite (fun _ => h.expireClaim n) fun _ => h

/-! ## Lines -/

theorem Still.abandonRetry (n : LineId) (o : CallOutcome) : Still s (s.abandonRetry n o) := fun _ => Kept.refl.abandonRetry n o

theorem Path.enableOrder (h : Path s₀ s) (n : LineId) (i : Nat) : Path s₀ (s.enableOrder n i) := by
  unfold State.enableOrder; split
  next e => exact (h.enterRested (by simp [LineState.rests_iff, e]) _ _).still fun _ => Kept.refl.answer _ _ _ _ _
  · exact h.still fun _ => Kept.refl.refuseState n i
  · exact h.still fun _ => Kept.refl.answer _ _ _ _ _

theorem Path.disableEffect (h : Path s₀ s) (n : LineId) : Path s₀ (s.disableEffect n) := by
  have k : Path s₀ ((s.onFm n fun f => { f with latch := none }).abandonRetry n .localCleared) :=
    h.still fun _ => (Kept.refl.onFm n _).abandonRetry n _
  unfold State.disableEffect; dsimp only
  generalize ((s.onFm n fun f => { f with latch := none }).abandonRetry n .localCleared) = x at k
  split
  next => exact k
  next e => exact k.enterOff (by simp [LineState.rests_iff, e])
  next => exact k.still fun _ => Kept.refl.onCall n
  next e => exact k.enterOff (by simp [LineState.rests_iff, e])
  next e => exact k.enterOff (by simp [LineState.rests_iff, e])
  next => exact (k.clearDecision n _).still fun _ => Kept.refl.onCall n

theorem Path.hangupEffect (h : Path s₀ s) (n : LineId) : Path s₀ (s.hangupEffect n) := by
  unfold State.hangupEffect; split
  · exact h
  · exact h
  · exact h
  · exact h
  next e =>
    refine (h.still (Still.abandonRetry n _)).enterRested ?_ _ _
    rw [(Still.abandonRetry n _ _).state, e]
    simp [LineState.rests_iff]
  next => exact h.clearDecision n _

theorem Path.clearLineEffect (h : Path s₀ s) (n : LineId) : Path s₀ (s.clearLineEffect n) := by
  refine .ite (fun e => ?_) fun _ => h.hangupEffect n
  exact (h.still fun _ => Kept.refl.onFm n _).enterRested (by simp [LineState.rests_iff, e]) _ _

theorem Path.clearFaultOrder (h : Path s₀ s) (n : LineId) (i : Nat) : Path s₀ (s.clearFaultOrder n i) := by
  refine .ite (fun e => ?_) fun _ => h.still fun _ => Kept.refl.refuseState n i
  exact ((h.still fun _ => Kept.refl.onFm n _).enterRested (by simp [LineState.rests_iff, e]) _ _).still fun _ => Kept.refl.answer _ _ _ _ _

theorem Path.loopReturn (h : Path s₀ s) (n : LineId) : Path s₀ (s.loopReturn n) :=
  .ite (fun _ => Path.fault (h.still fun _ => Kept.refl.onCtl n _) n _) fun _ => h.still fun _ => Kept.refl.onCtl n _

theorem Line.state_of_expires {l : Line} {st : LineState} (h : l.expires st = true) : l.call.state = st := by
  simp only [Line.expires, Bool.and_eq_true, decide_eq_true_eq] at h
  exact h.1

/-- A line whose call ends enters a state at once. -/
theorem Path.endedInto (h : Path s₀ s) (quiet : Still s u) (o : CallOutcome) (st : LineState) (x : Timer) :
    Path s₀ ((u.callEnd n o).enter n st x) := by
  have e := (u.callEnd n o).seq_enter n st x
  exact h.move (.ended n o u (Within.refl.still quiet) ((quiet _).service n) (quiet.sameSeq n) (quiet.opens n) (Within.refl.enter st x)
    (e.1.fresh e.2))

theorem Path.ringGap (h : Path s₀ s) (n : LineId) : Path s₀ (s.ringGap n) :=
  .ite (fun _ => h.endedInto (fun _ => (Kept.refl.closeWindow n).onCall n) _ _ _) fun _ => h

theorem Path.guardExpiry (h : Path s₀ s) (n : LineId) : Path s₀ (s.guardExpiry n) := by
  refine .ite (fun e => ?_) fun _ => h
  have k : Path s₀ (s.onCtl n fun c => { c with stateTimer := .stopped }) := h.still fun _ => Kept.refl.onCtl n _
  refine .ite (fun _ => k) fun _ => k.endClearing ?_
  simp [LineState.rests_iff, Line.state_of_expires e]

theorem Path.declinedGapExpiry (h : Path s₀ s) (n : LineId) : Path s₀ (s.declinedGapExpiry n) := by
  refine .ite (fun e => ?_) fun _ => h
  have k : Path s₀ (s.onCtl n fun c => { c with declinedGap := .stopped }) := h.still fun _ => Kept.refl.onCtl n _
  refine .ite (fun _ => k) fun _ => k.endClearing ?_
  simp [LineState.rests_iff, e.1]

/-! ## Dialling -/

/-- A call that dials goes to another state in which a line may hold a pump. -/
theorem Path.goes (h : Path s₀ s) (w : Within n s t) (d : (s.line n).call.state.dials) (there : (t.line n).call.state.holds)
    (seq : (s.line n).SameSeq (t.line n)) (opens : (t.line n).opens ↔ (s.line n).opens) : Path s₀ t := by
  have voice : (s.line n).connectedAs .voice = false := by
    generalize hx : (s.line n).call.state = x at d
    cases x <;> simp_all [LineState.dials, Line.connectedAs]
  refine h.inLine n w (.goes (.inl ⟨voice, fun e => ?_⟩) there seq fun o => ⟨opens.mp o, fun e => ?_⟩)
  · rw [e] at d; exact d.elim
  · rw [e.1] at d; exact d.elim

theorem Path.enterDials (h : Path s₀ s) (d : (s.line n).call.state.dials) {st : LineState} (there : st.holds) (x : Timer) :
    Path s₀ (s.enter n st x) :=
  h.goes (Within.refl.enter st x) d (by rwa [State.state_enter]) (s.seq_enter n st x).1 (s.seq_enter n st x).2

theorem Path.enterProgress (h : Path s₀ s) (d : (s.line n).call.state.dials) : Path s₀ (s.enterProgress n) := by
  unfold State.enterProgress
  exact (h.enterDials d (.inr rfl) _).still fun _ => (Kept.refl.onDialler n _).onProg n _

theorem Path.takeSymbols (h : Path s₀ s) (d : (s.line n).call.state.dials) (xs : List Byte) : Path s₀ (s.takeSymbols n xs) := by
  induction xs generalizing s with
  | nil => exact Path.enterProgress (h.still fun _ => Kept.refl.onDialler n _) (by simpa using d)
  | cons b rest ih =>
    unfold State.takeSymbols; dsimp only
    refine .ite (fun _ => h.still fun _ => (Kept.refl.onDialler n _).emit _) fun _ => ?_
    refine .ite (fun _ => h.still fun _ => (Kept.refl.onDialler n _).onCtl n _) fun _ => ?_
    refine .ite (fun _ => h.still fun _ => Kept.refl.onDialler n _) fun _ => ?_
    refine .ite (fun _ => h.still fun _ => Kept.refl.onDialler n _) fun _ => ?_
    refine .ite (fun _ => h.still fun _ => (Kept.refl.onDialler n _).onCtl n _) fun _ => ?_
    exact .ite (fun _ => ih (h.still fun _ => Kept.refl.onDialler n _) (by simpa using d)) fun _ =>
      .ite (fun _ => ih (h.still fun _ => Kept.refl.onDialler n _) (by simpa using d)) fun _ =>
        ih (h.still fun _ => Kept.refl.onDialler n _) (by simpa using d)

theorem Path.nextSymbol (h : Path s₀ s) (d : (s.line n).call.state.dials) : Path s₀ (s.nextSymbol n) := h.takeSymbols d _

theorem State.dials_enter {st : LineState} (d : st.dials) (s : State) (n : LineId) (x : Timer) :
    ((s.enter n st x).line n).call.state.dials := by rwa [State.state_enter]

/-- The off-hook attempt from rest or from the queue. -/
theorem Path.offHookAttempt (h : Path s₀ s) (d : (s.line n).call.state.rests ∨ (s.line n).call.state.dials) (volt : Bool) :
    Path s₀ (s.offHookAttempt n volt) := by
  have enters : ∀ {u : State}, Still s u → ∀ {st : LineState}, st.dials → ∀ x, Path s₀ (u.enter n st x) := fun {u} quiet st there x => by
    have k := h.still quiet
    rw [← (quiet _).state n] at d
    exact d.elim (fun r => k.enterRested r st x) fun r => k.enterDials r (LineState.holds_of_dials there) x
  have hook : Still s (s.closeHook n) := fun _ => Kept.refl.closeHook n
  unfold State.offHookAttempt; dsimp only
  refine .ite (fun _ => .ite (fun _ => ?_) fun _ => enters hook (st := .seized) trivial _) fun _ => h.takeFault n _ _ _ _
  exact (enters hook (st := .dialling) trivial _).nextSymbol (State.dials_enter (st := .dialling) trivial _ _ _)

/-- A call placed by a line that rests. -/
theorem Path.placeCall (h : Path s₀ s) (r : (s.line n).call.state.rests) (volt : Bool) : Path s₀ (s.placeCall n volt) := by
  refine .ite (fun _ => h.offHookAttempt (.inl r) volt) fun _ => Path.makeClaim (h.move ?_)
  have e := s.seq_enter n .queued .stopped
  exact .claims n .originate _ (Within.refl.enter _ _) r (e.1.fresh e.2) (.inl (State.state_enter _ _ _ _))

/-- A line at rest begins a call. -/
theorem Path.callStart (h : Path s₀ s) (r : (s.line n).call.state.rests) (d : Direction) (redial : Bool) :
    Path s₀ (s.callStart n d redial) := by
  refine h.inLine n (Within.refl.callStart d redial) (.rests r ⟨?_, ?_, ?_, ?_⟩) <;>
    simp [State.callStart, Line.settles, Line.opens, AnswerSeq.initial, Link.initial, Timer.isRunning]

theorem State.state_callStart (s : State) (n : LineId) (d : Direction) (r : Bool) :
    ((s.callStart n d r).line n).call.state = (s.line n).call.state := by simp [State.callStart]

/-- A change of a resting line's call that keeps its state, and of the units that dial. -/
theorem Path.onRested (h : Path s₀ s) (r : (s.line n).call.state.rests) {f : Line → Line}
    (hf : ∀ l, (f l).claim = l.claim ∧ (f l).call.pump = l.call.pump ∧ (f l).voice = l.voice ∧ (f l).seq = l.seq ∧ (f l).link = l.link := by
      exact fun _ => ⟨rfl, rfl, rfl, rfl, rfl⟩) : Path s₀ (s.onLine n f) := by
  obtain ⟨-, -, voice, seq, link⟩ := hf (s.line n)
  refine h.inLine n (Within.refl.onLine fun l => ⟨(hf l).1, (hf l).2.1, by rw [(hf l).2.2.1], by rw [(hf l).2.2.1]⟩)
    (.rests r ⟨?_, ?_, ?_, ?_⟩) <;> simp [Line.settles, Line.opens, seq, link]

theorem Path.dialCall (h : Path s₀ s) (r : (s.line n).call.state.rests) (i : Nat) (v : Service) (xs : List Byte) (volt : Bool) :
    Path s₀ (s.dialCall n i v xs volt) := by
  have k := (h.callStart r .originate false).still fun _ => Kept.refl.copyProfile n
  have r' : (((s.callStart n .originate false).copyProfile n).line n).call.state.rests := by
    simpa [State.copyProfile, State.state_callStart] using r
  exact (k.onRested r').placeCall (by simpa using r') volt

theorem Path.dialOrder (h : Path s₀ s) (n : LineId) (i : Nat) (c : Card) (volt : Bool) : Path s₀ (s.dialOrder n i c volt) := by
  unfold State.dialOrder; split
  next e =>
    split
    · exact h.still fun _ => Kept.refl.answer _ _ _ _ _
    · exact .ite (fun _ => h.still fun _ => Kept.refl.answer _ _ _ _ _) fun _ => h.dialCall (by simp [LineState.rests_iff, e]) _ _ _ _
  · exact h.still fun _ => Kept.refl.refuseState n i

theorem Path.redial (h : Path s₀ s) (n : LineId) (volt : Bool) : Path s₀ (s.redial n volt) := by
  refine .ite (fun e => ?_) fun _ => h
  have r : ((s.onFm n fun f => { f with retryPending := false }).line n).call.state.rests := by
    simp [LineState.rests_iff, Line.state_of_expires e]
  have k := Path.callStart (h.still fun _ => Kept.refl.onFm n _) r .originate true
  have r' : (((s.onFm n fun f => { f with retryPending := false }).callStart n .originate true).line n).call.state.rests := by
    rwa [State.state_callStart]
  exact (k.onRested r').placeCall (by simpa using r') volt

theorem Path.dialToneWaitExpiry (h : Path s₀ s) (n : LineId) : Path s₀ (s.dialToneWaitExpiry n) := .ite (fun _ => h.fault n _) fun _ => h

theorem Line.dials_of_dialsAt {l : Line} {p : DialPhase} (h : l.dialsAt p = true) : l.call.state.dials := by
  simp only [Line.dialsAt, Bool.and_eq_true, decide_eq_true_eq] at h
  rw [h.1]; trivial

theorem Path.dialToneAccepted (h : Path s₀ s) (n : LineId) : Path s₀ (s.dialToneAccepted n) := by
  refine .ite (fun _ => h) fun _ => .ite (fun e => ?_) fun _ => .ite (fun e => h.nextSymbol (Line.dials_of_dialsAt e)) fun _ => h
  exact (h.enterDials (by rw [e]; trivial) (.inr rfl) _).nextSymbol (State.dials_enter (st := .dialling) trivial _ _ _)

theorem Path.wWaitExpiry (h : Path s₀ s) (n : LineId) : Path s₀ (s.wWaitExpiry n) := .ite (fun _ => h.fault n _) fun _ => h

theorem Still.toneOnEnd (n : LineId) : Still s (s.toneOnEnd n) := fun _ => .ite (fun _ => Kept.refl.onDialler n _) fun _ => .refl

theorem Path.symbolEnds (h : Path s₀ s) {p : DialPhase} :
    Path s₀ (if (s.line n).dialsAt p then s.nextSymbol n else s) := .ite (fun e => h.nextSymbol (Line.dials_of_dialsAt e)) fun _ => h

theorem Still.pulseBreakEnd (n : LineId) : Still s (s.pulseBreakEnd n) := fun _ => by
  unfold State.pulseBreakEnd; split
  · exact (Kept.refl.onDialler n _).onCtl n _
  · exact .refl

theorem Still.pulseMakeEnd (n : LineId) : Still s (s.pulseMakeEnd n) := fun _ => by
  unfold State.pulseMakeEnd; split
  · exact .ite (fun _ => (Kept.refl.onDialler n _).onCtl n _) fun _ => Kept.refl.onDialler n _
  · exact .refl

theorem Path.flashEnd (h : Path s₀ s) (n : LineId) :
    Path s₀ (if (s.line n).dialsAt .flash then (s.endBreak n).nextSymbol n else s) := by
  refine .ite (fun e => Path.nextSymbol (h.still fun _ => Kept.refl.onCtl n _) ?_) fun _ => h
  simpa [State.endBreak] using Line.dials_of_dialsAt e

/-! ## Call progress -/

theorem Path.countCycle (h : Path s₀ s) (n : LineId) (c : Cycle) : Path s₀ (s.countCycle n c) := by
  unfold State.countCycle; split
  · exact .ite (fun _ => Path.clearDecision (h.still fun _ => Kept.refl.onProg n _) n _) fun _ => h.still fun _ => Kept.refl.onProg n _
  · exact .ite (fun _ => Path.clearDecision (h.still fun _ => Kept.refl.onProg n _) n _) fun _ => h.still fun _ => Kept.refl.onProg n _
  · exact h.still fun _ => Kept.refl.onProg n _

theorem Path.progressToneOnset (h : Path s₀ s) (n : LineId) (ms : Nat) : Path s₀ (s.progressToneOnset n ms) := by
  unfold State.progressToneOnset; dsimp only; split
  · split
    · exact Path.countCycle (h.still fun _ => (Kept.refl.onCtl n _).onProg n _) n _
    · exact h.still fun _ => (Kept.refl.onCtl n _).onProg n _
  · exact h.still fun _ => Kept.refl.onCtl n _

theorem State.seq_answerDial (s : State) (n : LineId) (st : Status) (r : Nat) :
    Still s (s.answerDial n st r) := fun _ => Kept.refl.answerDial n st r

/-- A connection changes neither answer sequence nor link, and leaves the line CONNECTED with the service. -/
theorem State.line_connect (s : State) (n : LineId) (v : Service) :
    ((s.connect n v).line n).call.state = .connected ∧ ((s.connect n v).line n).call.service = v ∧
    (s.line n).SameSeq ((s.connect n v).line n) ∧ (((s.connect n v).line n).opens ↔ (s.line n).opens) := by
  have entered := s.seq_enter n .connected .stopped
  have state := s.state_enter n .connected .stopped
  unfold State.connect; dsimp only
  generalize s.enter n .connected .stopped = x at *
  have tail : ∀ {f : CallRecord → CallRecord}, Still (x.onCall n f)
      ((((x.onCall n f).raise n .callUp).answerDial n .done v.outcome.code).answerAnswer n .done v.outcome.code) :=
    fun _ => ((Kept.refl.raise n _).answerDial n _ _).answerAnswer n _ _
  refine ⟨?_, ?_, ?_, ?_⟩
  · rw [(tail _).state]; simp [state]
  · rw [(tail _).service]; simp
  · have a := (tail (f := fun c =>
      { c with
        service := v
        tConnect := if c.wasConnected then c.tConnect else x.hdr.tick
        dayConnect := if c.wasConnected then c.dayConnect else x.hdr.dayClock
        wasConnected := true
        lastOutcome := v.outcome })).sameSeq n
    refine ⟨a.settles.trans (.trans ?_ entered.1.settles), a.listening.trans (.trans ?_ entered.1.listening),
      a.step.trans (.trans ?_ entered.1.step)⟩ <;> simp [Line.settles]
  · refine (tail.opens n).trans (.trans ?_ entered.2)
    simp [Line.opens]

theorem Path.voiceAnswer (h : Path s₀ s) (n : LineId) : Path s₀ (s.voiceAnswer n) := by
  refine .ite (fun e => ?_) fun _ => h
  have k : Path s₀ (s.onProg n fun g => { g with pathTimer := .stopped }) := h.still fun _ => Kept.refl.onProg n _
  have d : ((s.onProg n fun g => { g with pathTimer := .stopped }).line n).call.state.dials := by simp [e.1, LineState.dials]
  generalize (s.onProg n fun g => { g with pathTimer := .stopped }) = x at k d
  obtain ⟨state, -, seq, opens⟩ := x.line_connect n .voice
  exact k.goes (Within.refl.connect _) d (.inr (by rw [state]; rfl)) seq opens

theorem Path.progressToneCease (h : Path s₀ s) (n : LineId) (ms : Nat) : Path s₀ (s.progressToneCease n ms) :=
  .ite (fun _ => Path.voiceAnswer (h.still fun _ => (Kept.refl.onCtl n _).onProg n _) n) fun _ => h.still fun _ => Kept.refl.onCtl n _

theorem Path.voicePathOpen (h : Path s₀ s) (n : LineId) : Path s₀ (s.voicePathOpen n) :=
  .ite (fun _ => Path.voiceAnswer (h.still fun _ => Kept.refl.onProg n _) n) fun _ => h

/-- What TRAINING begun leaves of the parts: the line's state. -/
theorem State.beginTraining_still (s : State) (n : LineId) (r : Role) :
    Still (s.enter n .training (.running ((s.line n).profile.trainingLimit * 1000))) (s.beginTraining n r) := fun _ => by
  unfold State.beginTraining; dsimp only
  split
  · exact ((Kept.refl.onProg n _).onPump _).emit _
  · exact Kept.refl.onProg n _

/-- The line is in TRAINING, and its answer sequence and link are as they were. -/
theorem State.line_beginTraining (s : State) (n : LineId) (r : Role) : ((s.beginTraining n r).line n).call.state = .training ∧
    (s.line n).SameSeq ((s.beginTraining n r).line n) ∧ (((s.beginTraining n r).line n).opens ↔ (s.line n).opens) := by
  have k := s.beginTraining_still n r
  have e := s.seq_enter n .training (.running ((s.line n).profile.trainingLimit * 1000))
  have a := k.sameSeq n
  refine ⟨by rw [(k _).state, State.state_enter], ⟨a.settles.trans e.1.settles, a.listening.trans e.1.listening, a.step.trans e.1.step⟩,
    (k.opens n).trans e.2⟩

theorem Within.beginTraining (h : Within n s₀ s) (r : Role) : Within n s₀ (s.beginTraining n r) :=
  Within.still (h.enter _ _) (s.beginTraining_still n r)

theorem Path.trainDials (h : Path s₀ s) (d : (s.line n).call.state.dials) (r : Role) : Path s₀ (s.beginTraining n r) := by
  obtain ⟨state, seq, opens⟩ := s.line_beginTraining n r
  exact h.goes (Within.refl.beginTraining r) d (.inr (by rw [state]; rfl)) seq opens

theorem Path.answerToneAccepted (h : Path s₀ s) (n : LineId) : Path s₀ (s.answerToneAccepted n) :=
  .ite (fun e => h.trainDials (by rw [e.1]; trivial) _) fun _ => h

end Sys2Proof.Machine

/-! What the operations of voice, rate, link, fax, the engine and the port leave of the parts that the laws of pumps, plays and recordings
read (`Kept`). -/

namespace Sys2Proof.Machine

set_option Elab.async false

variable {p : Part} {s₀ s t : State} {n : LineId}

/-! ## Voice (08) -/

theorem Kept.popMessage (h : Kept p s₀ s) {m : EntryId} {b : Nat} (e : s.popMessage n m = some (b, t)) : Kept p s₀ t := by
  unfold State.popMessage at e
  split at e
  · split at e
    · cases e
    next k =>
      cases e
      exact ((h.pop k).onStore _).onMessage m
  · cases e

theorem Kept.storeCode (h : Kept p s₀ s) {m : EntryId} {code : Nat} (e : s.storeCode n m code = some t) : Kept p s₀ t := by
  unfold State.storeCode at e; dsimp only at e
  split at e
  · split at e
    · cases e; exact (h.onStore _).onMessage m
    · cases e; exact h.onMessage m
  · split at e
    · cases e
    next b x k =>
      have kept : Kept p s₀ x := by
        split at k
        · cases k; exact h
        · exact h.popMessage k
      cases e
      exact (kept.onStore _).onMessage m

theorem Kept.nextFrame (h : Kept p s₀ s) (n : LineId) (k : Nat) : Kept p s₀ (s.nextFrame n k) := (h.onVoice n).onCtl n _

theorem Kept.queueDigit (h : Kept p s₀ s) (n : LineId) (d : Byte) : Kept p s₀ (s.queueDigit n d) :=
  .ite (fun _ => .ite (fun _ => (h.onVoice n).raise n _) fun _ => h.onVoice n) fun _ => h.onVoice n

theorem Kept.takeDigitsOrder (h : Kept p s₀ s) (n : LineId) (i : Nat) : Kept p s₀ (s.takeDigitsOrder n i) := by
  unfold State.takeDigitsOrder
  exact (h.onVoice n).answerWith _ _ _ _ _ _

/-! ## Rate (04, 05) -/

theorem Kept.onHeldPump (h : Kept p s₀ s) (n : LineId) {f : Pump → Pump}
    (hf : ∀ q, (f q).state = q.state ∧ (f q).line = q.line := by exact fun _ => ⟨rfl, rfl⟩) : Kept p s₀ (s.onHeldPump n f) := by
  unfold State.onHeldPump; split
  · exact h.onPump _ (hf _)
  · exact h

theorem Kept.exchangeReport (h : Kept p s₀ s) (n : LineId) (farMax : Nat) (sig err : Word) : Kept p s₀ (s.exchangeReport n farMax sig err) :=
  Kept.onGrade (h.onLink n) n _

theorem Kept.requestShift (h : Kept p s₀ s) (n : LineId) (x : Nat) : Kept p s₀ (s.requestShift n x) :=
  (((h.onGrade n _).onHeldPump n).emit _).rateInFlight n

theorem Kept.shiftDone (h : Kept p s₀ s) (n : LineId) : Kept p s₀ (s.shiftDone n) := by
  unfold State.shiftDone; split
  · exact h
  · exact (((h.onGrade n _).onHeldPump n).rateSettled n).raise n _

/-! ## The checked link (06) -/

theorem Kept.sendOrder (h : Kept p s₀ s) (n : LineId) (i : Nat) (c : Card) : Kept p s₀ (s.sendOrder n i c) := by
  unfold State.sendOrder; dsimp only; repeat' split
  · exact h.answer _ _ _ _ _
  · exact h.answer _ _ _ _ _
  · exact ((h.giveBlocks _ _).onLink n).linkKick n
  · exact h.answer _ _ _ _ _

theorem Kept.linkOpenRepeat (h : Kept p s₀ s) (n : LineId) : Kept p s₀ (s.linkOpenRepeat n) :=
  .ite (fun _ => (h.onLink n).sendReply n _) fun _ => h

theorem Kept.ackFrames (h : Kept p s₀ s) (n : LineId) (d : Nat) : Kept p s₀ (s.ackFrames n d) := by
  unfold State.ackFrames
  exact Kept.foldl (fun _ c k => k.answer _ _ _ _ _) ((h.onLink n).freeBlocks _) _

theorem Kept.receipt (h : Kept p s₀ s) (n : LineId) (k : BitVec 7) : Kept p s₀ (s.receipt n k) := by
  unfold State.receipt; split
  · exact h
  · exact (Kept.onLink ((h.ackFrames n _).onLink n) n).linkKick n

theorem Kept.resendWindow (h : Kept p s₀ s) (n : LineId) : Kept p s₀ (s.resendWindow n) := (h.onLink n).linkKick n

theorem Kept.holdReceived (h : Kept p s₀ s) (n : LineId) (k : BitVec 7) : Kept p s₀ (s.holdReceived n k) := by
  unfold State.holdReceived; split
  · exact h
  · exact (h.ackFrames n _).onLink n

theorem Kept.discardFrame (h : Kept p s₀ s) (n : LineId) : Kept p s₀ (s.discardFrame n) := by
  unfold State.discardFrame; dsimp only
  exact Kept.sendReply (.ite (fun _ => (h.onLink n).raise n _) fun _ => h.onLink n) n _

theorem Kept.takeInfo (h : Kept p s₀ s) (n : LineId) (data : List Byte) : Kept p s₀ (s.takeInfo n data) :=
  ((h.storeData n data).onLink n).sendReply n _

theorem Kept.infoReceived (h : Kept p s₀ s) (n : LineId) (k : BitVec 7) (data : List Byte) : Kept p s₀ (s.infoReceived n k data) := by
  unfold State.infoReceived; dsimp only; repeat' split
  · exact h.discardFrame n
  · exact h.takeInfo n data
  · exact ((h.onLink n).raise n _).discardFrame n
  · exact h.sendReply n _
  · exact h
  · exact (h.onLink n).sendReply n _

theorem Kept.flush (h : Kept p s₀ s) (n : LineId) : Kept p s₀ (s.flush n) := ((h.onLink n).deliverData n).closeData n

/-- A change of a link that leaves it OPENING or not as it is. -/
theorem Kept.onLinkAt (h : Kept p s₀ s) (n : LineId) {f : Link → Link}
    (hf : (f (s.line n).link).state = .opening ↔ (s.line n).link.state = .opening) : Kept p s₀ (s.onLink n f) := by
  refine h.trans ⟨.of_rest rfl rfl rfl rfl, fun m => ?_⟩
  by_cases e : m = n
  · subst e
    cases p <;> simp only [Part.ofLine, State.line_onLink_self, hf] <;> rfl
  · rw [State.onLink, State.line_onLine_ne _ e]

/-- A link that is UP closes at the far end. -/
theorem Kept.farClose (h : Kept p s₀ s) (n : LineId) (up : (s.line n).link.state = .up) : Kept p s₀ (s.farClose n) := by
  unfold State.farClose
  exact (h.onLinkAt n (by simp [up])).flush n

theorem Kept.frameBad (h : Kept p s₀ s) (n : LineId) : Kept p s₀ (s.frameBad n) := (h.onLink n).draw

theorem Kept.frameSent (h : Kept p s₀ s) (n : LineId) : Kept p s₀ (s.frameSent n) := .ite (fun _ => (h.onLink n).linkKick n) fun _ => h

/-! ## Fax (07) -/

theorem Kept.sendFax (h : Kept p s₀ s) (n : LineId) (f : FaxFrame) : Kept p s₀ (s.sendFax n f) := h.emit _

theorem Kept.faxWait (h : Kept p s₀ s) (n : LineId) (x : FaxPhase) (f : Option FaxFrame) : Kept p s₀ (s.faxWait n x f) := h.onFax n _

theorem Kept.faxStand (h : Kept p s₀ s) (n : LineId) (x : FaxPhase) (f : FaxFrame) : Kept p s₀ (s.faxStand n x f) :=
  (h.faxWait n x _).sendFax n f

theorem Kept.faxRung (h : Kept p s₀ s) (n : LineId) (r : Nat) : Kept p s₀ (s.faxRung n r) :=
  .ite (fun _ => h.onGrade n _) fun _ => (h.onGrade n _).raise n _

theorem Kept.sendCheck (h : Kept p s₀ s) (n : LineId) : Kept p s₀ (s.sendCheck n) := ((h.sendFax n _).onFax n _).emit _

theorem Kept.beginCheck (h : Kept p s₀ s) (n : LineId) (r : Nat) : Kept p s₀ (s.beginCheck n r) :=
  ((h.faxRung n r).onFax n _).sendCheck n

theorem Kept.beginRelease (h : Kept p s₀ s) (n : LineId) : Kept p s₀ (s.beginRelease n) := (h.onFax n _).sendFax n _

theorem Kept.repeatStanding (h : Kept p s₀ s) (n : LineId) : Kept p s₀ (s.repeatStanding n) := by
  unfold State.repeatStanding; repeat' split
  · exact h
  · exact h.sendCheck n
  · exact h.sendFax n _
  · exact h

theorem Kept.takeOffer (h : Kept p s₀ s) (n : LineId) (o : Offer) : Kept p s₀ (s.takeOffer n o) := (h.onFax n _).beginCheck n _

theorem Kept.beginSession (h : Kept p s₀ s) (n : LineId) : Kept p s₀ (s.beginSession n) := by
  unfold State.beginSession; split
  · exact (h.onFax n _).faxStand n _ _
  · dsimp only; repeat' split
    · exact (h.onFax n _).beginRelease n
    · exact (h.onFax n _).takeOffer n _
    · exact (h.onFax n _).faxWait n _ _

theorem Kept.choiceReceived (h : Kept p s₀ s) (n : LineId) (c : Choice) : Kept p s₀ (s.choiceReceived n c) :=
  .ite (fun _ => .ite (fun _ => (h.onFax n _).faxStand n _ _) fun _ => (h.onFax n _).faxRung n _) fun _ => h

theorem Kept.patternJudged (h : Kept p s₀ s) (n : LineId) (xs : List Byte) : Kept p s₀ (s.patternJudged n xs) := by
  unfold State.patternJudged; repeat' split
  · exact .ite (fun _ => (h.onFax n _).faxStand n _ _) fun _ => (h.onFax n _).faxStand n _ _
  · exact h
  · exact h

theorem Kept.sendPage (h : Kept p s₀ s) (n : LineId) : Kept p s₀ (s.sendPage n) := by
  unfold State.sendPage; split
  · exact h.beginRelease n
  · exact (h.onFax n _).emit _

theorem Kept.patternSent (h : Kept p s₀ s) (n : LineId) : Kept p s₀ (s.patternSent n) := by
  unfold State.patternSent; repeat' split
  · exact h.onFax n _
  · exact h
  · exact h

theorem Kept.ready (h : Kept p s₀ s) (n : LineId) : Kept p s₀ (s.ready n) := .ite (fun _ => (h.onFax n _).sendPage n) fun _ => h

theorem Kept.countPage (h : Kept p s₀ s) (n : LineId) (x : Page) : Kept p s₀ (s.countPage n x) :=
  (Kept.onFax (h.onFax n _) n _).draw

theorem Kept.pageSent (h : Kept p s₀ s) (n : LineId) : Kept p s₀ (s.pageSent n) := by
  unfold State.pageSent; repeat' split
  · exact h
  · exact ((h.countPage n _).onFax n _).faxStand n _ _
  · exact h

theorem Kept.answerPagesDone (h : Kept p s₀ s) (n : LineId) (c : Nat) : Kept p s₀ (s.answerPagesDone n c) := by
  unfold State.answerPagesDone; repeat' split
  · exact h
  · exact h
  · exact (h.answerPages n _ _ _).onFax n _

theorem Kept.finalVerdict (h : Kept p s₀ s) (n : LineId) (v : Verdict) : Kept p s₀ (s.finalVerdict n v) := by
  unfold State.finalVerdict; split
  · exact h
  · exact ((Kept.onFax (h.onFax n _) n _).freeBlocks _).answerPagesDone n _

theorem Kept.afterVerdict (h : Kept p s₀ s) (n : LineId) : Kept p s₀ (s.afterVerdict n) :=
  .ite (fun _ => h.beginRelease n) fun _ => .ite (fun _ => (h.onFax n _).beginCheck n _) fun _ => h.sendPage n

theorem Kept.verdictReceived (h : Kept p s₀ s) (n : LineId) (v : SentVerdict) (a b : Nat) : Kept p s₀ (s.verdictReceived n v a b) := by
  refine .ite (fun _ => ?_) fun _ => h
  have k := (h.onFax n fun f =>
    { f with lastVerdict := verdictOf v, lastRows := a, lastBadRows := b, standing := none, replyTimer := .stopped }).raise n .page
  cases v with
  | good => exact (k.finalVerdict n _).afterVerdict n
  | goodRetrain => exact ((k.finalVerdict n _).onFax n _).afterVerdict n
  | bad => exact .ite (fun _ => ((k.finalVerdict n _).onFax n _).afterVerdict n) fun _ => (k.onFax n _).beginCheck n _

theorem Kept.openPage (h : Kept p s₀ s) (n : LineId) : Kept p s₀ (s.openPage n) := (h.onFax n _).draw

theorem Kept.pageStart (h : Kept p s₀ s) (n : LineId) : Kept p s₀ (s.pageStart n) := .ite (fun _ => (h.openPage n).onFax n _) fun _ => h

theorem Kept.rowRoom (h : Kept p s₀ s) (n : LineId) (k : Nat) : Kept p s₀ (s.rowRoom n k) := by
  unfold State.rowRoom; split
  · exact .ite (fun _ => h) fun _ => h.deliverPage n
  · exact h

theorem Kept.storeRow (h : Kept p s₀ s) (n : LineId) (r : List Byte) : Kept p s₀ (s.storeRow n r).1 := by
  unfold State.storeRow; dsimp only
  split
  · exact h
  · have k := h.rowRoom n r.length
    split
    · exact k
    · split
      · exact k.raise n _
      next x e =>
        have kept : Kept p s₀ x := by
          split at e
          · cases e; exact k
          · exact k.popRecv e
        split
        · dsimp only
          exact kept.onStore _
        · exact kept

theorem Kept.rowReceived (h : Kept p s₀ s) (n : LineId) (d : Bool) (row : List Byte) : Kept p s₀ (s.rowReceived n d row) :=
  .ite (fun _ => Kept.draw (Kept.onFax (h.storeRow n _) n _)) fun _ => h

theorem Kept.pageEnd (h : Kept p s₀ s) (n : LineId) : Kept p s₀ (s.pageEnd n) := .ite (fun _ => (h.onFax n _).faxWait n _ _) fun _ => h

theorem Kept.judgePage (h : Kept p s₀ s) (n : LineId) (b : Bool) : Kept p s₀ (s.judgePage n b) :=
  ((((h.deliverPage n).closePage n _ _ _).onFax n _).raise n _).faxStand n _ _

theorem Kept.pageFrame (h : Kept p s₀ s) (n : LineId) (b : Bool) : Kept p s₀ (s.pageFrame n b) :=
  .ite (fun _ => .ite (fun _ => h.judgePage n b) fun _ => .ite (fun _ => (h.openPage n).judgePage n b) fun _ =>
    .ite (fun _ => h.repeatStanding n) fun _ => h) fun _ => h

theorem Kept.faxPagesOrder (h : Kept p s₀ s) (n : LineId) (i : Nat) (c : Card) : Kept p s₀ (s.faxPagesOrder n i c) := by
  unfold State.faxPagesOrder; dsimp only; repeat' split
  · exact h.answer _ _ _ _ _
  · exact h.answer _ _ _ _ _
  · exact h.answer _ _ _ _ _
  · exact (h.giveBlocks _ _).onFax n _
  · exact h.refuseState n i

/-! ## The engine and the port (09, 10, 11) -/

theorem Kept.popHost (h : Kept p s₀ s) (k : Nat) : Kept p s₀ (s.popHost k).2 := by
  induction k generalizing s with
  | zero => exact h
  | succ k ih =>
    unfold State.popHost; split
    · exact h
    next e => exact ih (h.pop e)

theorem Kept.takeBlocksOrder (h : Kept p s₀ s) (i : Nat) (c : Card) : Kept p s₀ (s.takeBlocksOrder i c) := by
  unfold State.takeBlocksOrder
  exact (h.popHost _).answerWith _ _ _ _ _ _

theorem Kept.setClockOrder (h : Kept p s₀ s) (i : Nat) (c : Card) : Kept p s₀ (s.setClockOrder i c) := (h.onHdr _).answer _ _ _ _ _

theorem Kept.unknownOrder (h : Kept p s₀ s) (T : TableId) (i : Nat) : Kept p s₀ (s.unknownOrder T i) := h.answer _ _ _ _ _

theorem Kept.requestSweep (h : Kept p s₀ s) : Kept p s₀ s.requestSweep := .ite (fun _ => h.of_rest rfl rfl rfl rfl rfl) fun _ => h

theorem Kept.monitorTick (h : Kept p s₀ s) : Kept p s₀ s.monitorTick := by
  unfold State.monitorTick; split
  · exact h.of_rest rfl rfl rfl rfl rfl
  · exact h

theorem Kept.tickOnce (h : Kept p s₀ s) : Kept p s₀ s.tickOnce := .ite (fun _ => (h.onHdr _).monitorTick.requestSweep) fun _ => h

theorem Kept.withMonitor (h : Kept p s₀ s) (m : Monitor) : Kept p s₀ { s with monitor := m } := h.of_rest rfl rfl rfl rfl rfl

theorem Kept.hostBack (h : Kept p s₀ s) : Kept p s₀ s.hostBack := .ite (fun _ => (h.withMonitor _).raiseEngine _) fun _ => h

theorem Kept.hostWord (h : Kept p s₀ s) (a : Nat) (v : Word) : Kept p s₀ (s.hostWord a v) := by
  have card : ∀ T i c, Kept p s₀ (s.setCard T i c) := fun T i c => h.onTable T _
  have dropped : Kept p s₀ s.guardDrop :=
    Kept.raiseEngine (Kept.onHdr (h.of_rest (t := { s with port := { s.port with guardFlag := true } }) rfl rfl rfl rfl rfl) _) _
  unfold State.hostWord
  cases e : s.guarded a v with
  | none => exact dropped
  | some t =>
    simp only [Option.getD_some]
    unfold State.guarded at e
    split at e
    · obtain ⟨c, -, rfl⟩ := Option.map_eq_some_iff.mp e
      exact card _ _ _
    · split at e
      · obtain ⟨c, -, rfl⟩ := Option.map_eq_some_iff.mp e
        exact h.of_rest rfl rfl rfl rfl rfl
      · split at e
        · obtain ⟨c, -, rfl⟩ := Option.map_eq_some_iff.mp e
          exact h.onLine _
        · split at e
          · cases e
            exact .ite (fun _ => h.onStore _) fun _ => h
          · repeat' split at e
            all_goals first | (cases e; exact h.onStore _) | cases e

end Sys2Proof.Machine

/-! Every command but an engine reset is a chain of moves (`exec_path`). -/

namespace Sys2Proof.Machine

set_option Elab.async false

variable {s₀ s t u : State} {n : LineId}

/-! ## Ringing and answering (03) -/

/-- A line at rest enters ANSWERING. -/
theorem Path.answerAttempt (h : Path s₀ s) (r : (s.line n).call.state.rests) (v : Service) (a volt : Bool) :
    Path s₀ (s.answerAttempt n v a volt) := by
  unfold State.answerAttempt; dsimp only
  refine .ite (fun _ => ?_) fun _ => h.fault n _
  have hook : Still s ((s.closeWindow n).closeHook n) := fun _ => (Kept.refl.closeWindow n).closeHook n
  generalize (s.closeWindow n).closeHook n = x at hook
  have k := h.still hook
  have r' : (x.line n).call.state.rests := (hook _).state n ▸ r
  have w : Within n x ((x.onCall n fun c => { c with service := v }).enter n .answering .stopped) := Within.refl.onCall.enter _ _
  have e := (x.onCall n fun c => { c with service := v }).seq_enter n .answering .stopped
  have state := (x.onCall n fun c => { c with service := v }).state_enter n .answering .stopped
  have seq : (x.line n).SameSeq (((x.onCall n fun c => { c with service := v }).enter n .answering .stopped).line n) :=
    ⟨e.1.settles.trans (by simp [Line.settles]), e.1.listening.trans (by simp), e.1.step.trans (by simp)⟩
  have opens : (((x.onCall n fun c => { c with service := v }).enter n .answering .stopped).line n).opens ↔ (x.line n).opens :=
    e.2.trans (by simp [Line.opens])
  generalize (x.onCall n fun c => { c with service := v }).enter n .answering .stopped = y at *
  refine .ite (fun _ => ?_) fun _ => Path.makeClaim (k.move (.claims n .answer y w r' (seq.fresh opens) (.inr (by rw [state]; rfl))))
  refine k.inLine n (w.onSeq _) (.settles r' ?_ ?_ ?_ ?_)
  · simpa using state
  · simpa using seq.listening
  · simpa using seq.step
  · simpa [Line.opens] using opens

theorem Path.autoAnswer (h : Path s₀ s) (r : (s.line n).call.state.rests) (volt : Bool) : Path s₀ (s.autoAnswer n volt) := by
  unfold State.autoAnswer; dsimp only; repeat' split
  · exact h
  · exact h.answerAttempt r _ _ _
  · exact h.answerAttempt r _ _ _
  · exact h.answerAttempt r _ _ _
  · exact h.answerAttempt r _ _ _
  · exact h

/-- The first ring of a call, before the auto-answer test. -/
def State.alerted (s : State) (n : LineId) : State :=
  (((((s.callStart n .answer false).copyProfile n).onCall n fun c =>
      { c with tRing := ((s.callStart n .answer false).copyProfile n).hdr.tick, ringCount := 1 }).enter n .alerting (.running 8000)).raise n
    .ring).onLine n fun l => { l with dec := ⟨l.profile.callerCapture, none⟩ }

theorem State.firstRing_eq (s : State) (n : LineId) (volt : Bool) : s.firstRing n volt = (s.alerted n).autoAnswer n volt := rfl

theorem State.line_alerted (s : State) (n : LineId) :
    ((s.alerted n).line n).call.state = .alerting ∧ Within n s (s.alerted n) ∧ (s.line n).Fresh ((s.alerted n).line n) := by
  refine ⟨?_, ?_, ⟨?_, ?_, ?_, ?_⟩⟩
  · simp [State.alerted, State.enter]
  · exact ((Within.onCall ((Within.refl.callStart _ _).still fun _ => Kept.refl.copyProfile n)).enter _ _).still
      fun p => (Kept.refl.raise n _).onLine n
  all_goals
    simp [State.alerted, State.enter, State.callStart, State.copyProfile, Line.settles, Line.opens, AnswerSeq.initial, Link.initial,
      Timer.isRunning]

theorem rests_alerting : LineState.alerting.rests := ⟨nofun, rfl⟩

theorem Path.firstRing (h : Path s₀ s) (r : (s.line n).call.state.rests) (volt : Bool) : Path s₀ (s.firstRing n volt) := by
  obtain ⟨state, w, fresh⟩ := s.line_alerted n
  exact (h.inLine n w (.rests r fresh)).autoAnswer (state ▸ rests_alerting) volt

theorem Path.furtherRing (h : Path s₀ s) (r : (s.line n).call.state.rests) (volt : Bool) : Path s₀ (s.furtherRing n volt) := by
  have k : Still s ((((s.onCall n fun c => { c with ringCount := min 65535 (c.ringCount + 1) }).onCtl n fun c =>
      { c with stateTimer := .running 8000 }).raise n .ring).closeWindow n) :=
    fun _ => (((Kept.refl.onCall n).onCtl n _).raise n _).closeWindow n
  exact (h.still k).autoAnswer ((k _).state n ▸ r) volt

theorem Path.ringCounted (h : Path s₀ s) (n : LineId) (volt : Bool) : Path s₀ (s.ringCounted n volt) := by
  unfold State.ringCounted; split
  next e => exact h.firstRing (by simp [LineState.rests_iff, e]) volt
  next e => exact h.furtherRing (by simp [LineState.rests_iff, e]) volt
  next e =>
    have quiet : Still s (s.onCall n fun c => { c with lastOutcome := .cutByRing }) := fun _ => Kept.refl.onCall n
    generalize (s.onCall n fun c => { c with lastOutcome := .cutByRing }) = x at quiet
    obtain ⟨state, w, fresh⟩ := (x.callEnd n .cutByRing).line_alerted n
    have k : Path s₀ ((x.callEnd n .cutByRing).alerted n) :=
      h.move (.ended n .cutByRing x (Within.refl.still quiet) ((quiet _).service n) (quiet.sameSeq n) (quiet.opens n) w fresh)
    rw [State.firstRing_eq]
    exact k.autoAnswer (by rw [state]; exact rests_alerting) volt
  next e =>
    have quiet : Still s ((s.abandonRetry n .cutByRing).onCall n fun c => { c with lastOutcome := .cutByRing }) :=
      fun _ => (Kept.refl.abandonRetry n _).onCall n
    exact (h.still quiet).firstRing (by rw [(quiet _).state, e]; simp [LineState.rests_iff]) volt
  next => exact .ite (fun _ => h.still fun _ => Kept.refl.onCtl n _) fun _ => h
  next => exact h

theorem Still.burstStart (n : LineId) (b : Byte) : Still s (s.burstStart n b) := fun p => .ite (fun _ => Kept.refl.onLine n) fun _ => .refl

theorem Still.burstEnd (n : LineId) (bs : List Byte) : Still s (s.burstEnd n bs) := fun p => by
  unfold State.burstEnd; split
  · exact .ite (fun _ => (Kept.refl.onLine n).fileCaller n _) fun _ => Kept.refl.onLine n
  · exact .refl

theorem Path.answerOrder (h : Path s₀ s) (n : LineId) (i : Nat) (c : Card) (volt : Bool) : Path s₀ (s.answerOrder n i c volt) := by
  unfold State.answerOrder; dsimp only; split
  next e =>
    have k : Path s₀ (s.onCtl n fun k => { k with answerCard := some i }) := h.still fun _ => Kept.refl.onCtl n _
    have r : ((s.onCtl n fun k => { k with answerCard := some i }).line n).call.state.rests := by simp [e, LineState.rests_iff]
    split
    · exact k.answerAttempt r _ _ _
    · exact k.answerAttempt r _ _ _
    · exact k.answerAttempt r _ _ _
    · exact k.answerAttempt r _ _ _
    · exact h.still fun _ => Kept.refl.answer _ _ _ _ _
  · exact h.still fun _ => Kept.refl.refuseState n i

/-! ### The answer sequence begins -/

/-- The start of a play and a change of the answer sequence do not touch each other. -/
theorem State.beginPlay_onSeq (s : State) (n : LineId) (p : Play) (c : Chain) (k : Nat) (card : Option Nat) (f : AnswerSeq → AnswerSeq) :
    (s.beginPlay n p c k card).onSeq n f = (s.onSeq n f).beginPlay n p c k card := by
  have lines : ∀ g : Voice → Voice, (s.onVoice n g).onSeq n f = (s.onSeq n f).onVoice n g := fun g => by
    simp only [State.onVoice, State.onSeq, State.onLine_onLine]
  cases p with
  | slot g => exact congrArg (fun x => State.onSlot x g fun y => { y with playCount := y.playCount + 1 }) (lines _)
  | none => exact lines _
  | chain first => exact lines _

/-- After the 300 ms of a voice answer, with listening over, the sequence goes on. -/
theorem Path.goOnAnswered (h : Path s₀ s) (w : Within n s u) (a : (s.line n).Answers (u.line n)) (deaf : (u.line n).seq.listening = false) :
    Path s₀ (u.goOn n) := by
  have answered : Path s₀ u := h.inLine n w (.answers a)
  refine .ite (fun _ => ?_) fun _ => h.inLine n (w.onSeq _) (.answers ⟨a.state, a.settling, ?_, ?_, fun e => ?_, ?_⟩)
  · unfold State.autoRecord; split
    next e => exact h.move (.answersRecording n _ _ _ u w a deaf (State.empty_of_lowestEmpty e))
    next => exact Path.clearDecision (answered.still fun _ => (Kept.refl.onVoice n).raise n _) n _
  · simpa [Line.connectedAs] using a.connected
  · simpa [Line.settles] using a.settles
  · simp [deaf] at e
  · simpa [Line.opens] using a.opens

theorem Path.voiceSettle (h : Path s₀ s) (n : LineId) : Path s₀ (s.voiceSettle n) := by
  refine .ite (fun e => ?_) fun _ => h
  obtain ⟨state, settling⟩ := e
  have line := (s.onSeq n fun q => { q with settleTimer := .stopped }).line_connect n .voice
  have w : Within n s ((s.onSeq n fun q => { q with settleTimer := .stopped }).connect n .voice) := (Within.refl.onSeq _).connect _
  generalize (s.onSeq n fun q => { q with settleTimer := .stopped }).connect n .voice = x at line w
  obtain ⟨connected, voice, seq, opens⟩ := line
  unfold State.beginSequence; dsimp only
  have w' : Within n s ((x.onSeq n fun q => { q with listening := q.adaptive, greetingStopped := false }).onCtl n fun c =>
      { c with faxToneBurst := false }) := (w.onSeq _).still fun _ => Kept.refl.onCtl n _
  have settled : (((x.onSeq n fun q => { q with listening := q.adaptive, greetingStopped := false }).onCtl n fun c =>
      { c with faxToneBurst := false }).line n).settles = false := by
    have := seq.settles
    simpa [Line.settles, Timer.isRunning] using this
  have call : (((x.onSeq n fun q => { q with listening := q.adaptive, greetingStopped := false }).onCtl n fun c =>
      { c with faxToneBurst := false }).line n).connectedAs .voice = true := by
    simp [Line.connectedAs, connected, voice]
  have link : (((x.onSeq n fun q => { q with listening := q.adaptive, greetingStopped := false }).onCtl n fun c =>
      { c with faxToneBurst := false }).line n).opens ↔ (s.line n).opens := by
    simpa [Line.opens] using opens
  have hears : (((x.onSeq n fun q => { q with listening := q.adaptive, greetingStopped := false }).onCtl n fun c =>
      { c with faxToneBurst := false }).line n).seq.listening = (((x.onSeq n fun q =>
        { q with listening := q.adaptive, greetingStopped := false }).onCtl n fun c => { c with faxToneBurst := false }).line n).seq.adaptive := by
    simp
  generalize ((x.onSeq n fun q => { q with listening := q.adaptive, greetingStopped := false }).onCtl n fun c =>
    { c with faxToneBurst := false }) = y at *
  have answers : ∀ {f : AnswerSeq → AnswerSeq}, (∀ q, (f q).settleTimer = q.settleTimer) →
      ((f (y.line n).seq).listening = true → (f (y.line n).seq).step.hears) → (s.line n).Answers ((y.onSeq n f).line n) := by
    intro f timer listens
    refine ⟨state, settling, ?_, ?_, ?_, ?_⟩
    · simpa [Line.connectedAs] using call
    · simpa [Line.settles, timer] using settled
    · simpa using listens
    · simpa [Line.opens] using link
  have listen : Path s₀ (y.beginListen n) := by
    refine .ite (fun _ => h.goOnAnswered (w'.onSeq _) (answers (fun _ => rfl) nofun) ?_) fun _ =>
      h.inLine n (w'.onSeq _) (.answers (answers (fun _ => rfl) fun _ => .inr rfl))
    simp [AnswerSeq.deaf]
  have onward : Path s₀ (if (y.line n).seq.adaptive = true then y.beginListen n else y.goOn n) := by
    refine .ite (fun _ => listen) fun a => ?_
    have deaf : (y.line n).seq.listening = false := hears.trans (by simpa using a)
    exact h.goOnAnswered w' ⟨state, settling, call, settled, fun e => absurd (deaf.symm.trans e) nofun, link⟩ deaf
  split
  next g _ =>
    refine .ite (fun loaded => ?_) fun _ => onward
    rw [State.beginPlay_onSeq]
    exact h.move (.greets n g _ _ _ _ (w'.onSeq _) (answers (fun _ => rfl) fun _ => .inl rfl) loaded)
  next => exact onward

theorem Path.listenExpiry (h : Path s₀ s) (n : LineId) : Path s₀ (s.listenExpiry n) := by
  refine .ite (fun e => (h.deaf n).goOn ?_ (.inl ?_)) fun _ => h
  · simp [AnswerSeq.deaf, e.1, SeqStep.onWay]
  · simp [AnswerSeq.deaf]

theorem Path.switchClaim (h : Path s₀ s) (listens : (s.line n).seq.listening = true) (v : Service) : Path s₀ (s.switchClaim n v) := by
  refine Path.makeClaim (h.move (.switches n .answer _ (Within.refl.onSeq _) listens ?_ ?_ ?_ ?_))
  · simp [Line.SameCall]
  · simp [Line.settles, AnswerSeq.deaf]
  · simp [AnswerSeq.deaf]
  · simp [Line.opens]

theorem Path.faxToneCease (h : Path s₀ s) (n : LineId) (ms : Nat) : Path s₀ (s.faxToneCease n ms) := by
  have k : Path s₀ (s.onCtl n fun c => { c with faxToneBurst := false }) := h.still fun _ => Kept.refl.onCtl n _
  exact .ite (fun e => k.switchClaim e.2.1 _) fun _ => k

theorem Path.dataToneAccepted (h : Path s₀ s) (n : LineId) : Path s₀ (s.dataToneAccepted n) :=
  .ite (fun e => h.switchClaim e.1 _) fun _ => h

/-! ## Voice (08) -/

theorem Voice.hear_kept (v : Voice) (x : Sample) : (v.hear x).play = v.play ∧ (v.hear x).recording = v.recording := by
  unfold Voice.hear
  split <;> exact ⟨rfl, rfl⟩

theorem Path.encodeSample (h : Path s₀ s) (n : LineId) (x : Sample) : Path s₀ (s.encodeSample n x) := by
  unfold State.encodeSample; split
  · exact h
  · dsimp only; split
    · exact Path.endRecording (h.still fun _ => Kept.refl.raise n _) n _ nofun
    next stored =>
      have heard := h.still fun _ => (Kept.refl.storeCode stored).onVoice n (f := fun v =>
        { v.hear x with encoder := ((s.line n).voice.encoder.encode x.toInt).2 }) fun v => v.hear_kept x
      exact .ite (fun _ => heard.endRecording n .maxLength nofun) fun _ => heard

theorem Path.frameEnd (h : Path s₀ s) (n : LineId) (xs : List Sample) : Path s₀ (s.frameEnd n xs) := by
  refine .ite (fun _ => ?_) fun _ => h
  have recorded : ∀ {x : State} (b : Bool), Path s₀ x → Path s₀ (x.frameInRecording n b) := fun {x} b k => by
    have k' : Path s₀ (x.onVoice n fun v => { v with silentRun := if b then v.silentRun + 1 else 0 }) := k.still fun _ => Kept.refl.onVoice n
    exact .ite (fun _ => .ite (fun _ => k'.endRecording n _ nofun) fun _ => k') fun _ => k
  exact .ite (fun _ => Path.voiceAnswer ((recorded _ (h.still fun _ => Kept.refl.nextFrame n _)).still fun _ => Kept.refl.onProg n _) n)
    fun _ => recorded _ (h.still fun _ => Kept.refl.nextFrame n _)

theorem Path.recordOrder (h : Path s₀ s) (n : LineId) (i : Nat) (c : Card) : Path s₀ (s.recordOrder n i c) := by
  have answered : ∀ st r fs, Path s₀ (s.answer (.line n) i st r fs) := fun _ _ _ => h.still fun _ => Kept.refl.answer _ _ _ _ _
  unfold State.recordOrder; dsimp only; split
  next voice =>
    split
    · exact answered _ _ _
    next idle =>
      split
      · exact answered _ _ _
      next e =>
        rw [not_or, not_not] at idle
        exact h.move (.records n _ _ _ voice idle.2 (by simpa using idle.1) (State.empty_of_lowestEmpty e))
  · exact h.still fun _ => Kept.refl.refuseState n i

theorem Path.playOrder (h : Path s₀ s) (n : LineId) (i : Nat) (c : Card) : Path s₀ (s.playOrder n i c) := by
  have answered : ∀ st r fs, Path s₀ (s.answer (.line n) i st r fs) := fun _ _ _ => h.still fun _ => Kept.refl.answer _ _ _ _ _
  unfold State.playOrder; dsimp only; split
  next voice =>
    split
    · exact answered _ _ _
    next quiet =>
      rw [not_not] at quiet
      split
      · split
        · exact answered _ _ _
        next g _ =>
          refine .ite (fun loaded => h.move (.plays n _ _ _ _ voice quiet nofun fun g' e => ?_)) fun _ => answered _ _ _
          cases e; exact loaded
      · split
        · split
          · exact answered _ _ _
          next ch _ =>
            have k : Path s₀ (s.giveBlocks (ch.map Prod.fst) (.play n)) := h.still fun _ => Kept.refl.giveBlocks _ _
            exact k.move (.plays n _ _ _ _ voice quiet nofun fun _ => nofun)
        · exact answered _ _ _
  · exact h.still fun _ => Kept.refl.refuseState n i

theorem Path.decodeSample (h : Path s₀ s) (n : LineId) : Path s₀ (s.decodeSample n) := by
  refine .ite (fun _ => h) fun _ => ?_
  exact .ite (fun _ => Path.endPlay (h.still fun _ => (Kept.refl.onVoice n).emit _) n _) fun _ =>
    h.still fun _ => (Kept.refl.onVoice n).emit _

theorem Path.stopOrder (h : Path s₀ s) (n : LineId) (i : Nat) : Path s₀ (s.stopOrder n i) := by
  refine .ite (fun _ => h.still fun _ => Kept.refl.refuseState n i) fun _ => ?_
  have played : Path s₀ (if decide ((s.line n).voice.play ≠ .none) then s.endPlay n .stopped else s) :=
    .ite (fun _ => h.endPlay n _) fun _ => h
  exact Path.still (Path.ite (fun _ => played.endRecording n .stopped nofun) fun _ => played) fun _ => Kept.refl.answer _ _ _ _ _

theorem Path.digitEndsListening (h : Path s₀ s) (n : LineId) : Path s₀ (s.digitEndsListening n) := by
  refine .ite (fun _ => .ite (fun e => (h.deaf n).goOn ?_ (.inl ?_)) fun _ => h.deaf n) fun _ => h
  · rw [e]; trivial
  · simp [AnswerSeq.deaf]

theorem Path.digitHeard (h : Path s₀ s) (n : LineId) (d : Byte) : Path s₀ (s.digitHeard n d) := by
  refine .ite (fun _ => ?_) fun _ => h
  have k := h.still fun _ => Kept.refl.queueDigit n d
  exact .ite (fun e => k.endRecording n _ fun _ none => by simp [none] at e) fun _ => k.digitEndsListening n

theorem Path.loadGreetingOrder (h : Path s₀ s) (i : Nat) (c : Card) : Path s₀ (s.loadGreetingOrder i c) := by
  have answered : ∀ st r fs, Path s₀ (s.answer .engine i st r fs) := fun _ _ _ => h.still fun _ => Kept.refl.answer _ _ _ _ _
  unfold State.loadGreetingOrder; split
  · exact answered _ _ _
  · split
    · exact answered _ _ _
    next g _ empty =>
      rw [not_not] at empty
      split
      · exact answered _ _ _
      next ch _ =>
        have k : Path s₀ (s.giveBlocks (ch.map Prod.fst) (.greet g)) := h.still fun _ => Kept.refl.giveBlocks _ _
        exact (k.move (.loads g _ _ empty)).still fun _ => Kept.refl.answer _ _ _ _ _

theorem Path.unloadGreetingOrder (h : Path s₀ s) (i : Nat) (c : Card) : Path s₀ (s.unloadGreetingOrder i c) := by
  have answered : ∀ st r fs, Path s₀ (s.answer .engine i st r fs) := fun _ _ _ => h.still fun _ => Kept.refl.answer _ _ _ _ _
  unfold State.unloadGreetingOrder; split
  · exact answered _ _ _
  · split
    · exact answered _ _ _
    · exact answered _ _ _
    · exact .ite (fun e => (h.move (.empties _ e)).still fun _ => Kept.refl.answer _ _ _ _ _) fun e => h.move (.withdraws _ i e)

theorem State.complete_of_namedMessage {c : Card} {m : EntryId} (h : s.namedMessage c = .ok m) : (s.message m).state = .complete := by
  unfold State.namedMessage at h
  split at h
  · split at h
    next e => cases h; exact e.1
    next => cases h
  · cases h

theorem Path.collectOrder (h : Path s₀ s) (i : Nat) (c : Card) : Path s₀ (s.collectOrder i c) := by
  unfold State.collectOrder; split
  · exact h.still fun _ => Kept.refl.answer _ _ _ _ _
  next m e =>
    have k : Path s₀ (s.giveBlocks (s.message m).blocks .host) := h.still fun _ => Kept.refl.giveBlocks _ _
    exact (k.move (.collects _ (State.complete_of_namedMessage e))).still fun _ => Kept.refl.answer _ _ _ _ _

theorem Path.discardOrder (h : Path s₀ s) (i : Nat) (c : Card) : Path s₀ (s.discardOrder i c) := by
  unfold State.discardOrder; split
  · exact h.still fun _ => Kept.refl.answer _ _ _ _ _
  next e =>
    exact (h.move (.collects _ (State.complete_of_namedMessage e))).still fun _ => (Kept.refl.freeBlocks _).answer _ _ _ _ _

/-! ## Training, shifts and retrains (04, 05) -/

theorem State.serves_of_pumpAt {a : Activity} (h : s.pumpAt n a = true) : ∃ p, s.serves p n := by
  unfold State.pumpAt at h
  split at h
  next p k => exact ⟨p, State.serves_of_heldPump k⟩
  next => cases h

theorem Path.dataTraining (h : Path s₀ s) (n : LineId) (farMax : Nat) (sig err : Word) : Path s₀ (s.dataTraining n farMax sig err) := by
  unfold State.dataTraining; dsimp only; split
  next e =>
    have k := h.still fun _ => Kept.refl.exchangeReport n farMax sig err
    split
    next r _ =>
      have quiet : Still s (((s.exchangeReport n farMax sig err).onGrade n fun g => { g with rung := r, rate := .settled }).onHeldPump n
          fun q => q.work .carrying .stopped) := fun _ => ((Kept.refl.exchangeReport n _ _ _).onGrade n _).onHeldPump n
      generalize ((s.exchangeReport n farMax sig err).onGrade n fun g => { g with rung := r, rate := .settled }).onHeldPump n
        (fun q => q.work .carrying .stopped) = x at quiet
      refine Path.still ((h.still quiet).inLine n (Within.refl.onLink _) (.opens ?_ ?_ ?_ ?_)) fun _ => Kept.refl.sendReply n _
      · rw [(quiet _).state]; exact e.1
      · rw [(quiet _).service]; exact e.2.1
      · simp [Line.SameCall]
      · constructor <;> simp [Line.settles]
    next => exact k.fault n _
  · exact h

theorem Path.trainingMismatch (h : Path s₀ s) (n : LineId) : Path s₀ (s.trainingMismatch n) := .ite (fun _ => h.fault n _) fun _ => h

/-- A line CONNECTED-DATA goes to RETRAINING, and another stays. -/
theorem Path.beginRetrain (h : Path s₀ s) (n : LineId) : Path s₀ (s.beginRetrain n) := by
  unfold State.beginRetrain; dsimp only
  refine .ite (fun _ => ?_) fun _ => h.fault n _
  have quiet : Still s (((if (s.line n).link.inFlight then s.onGrade n fun g => { g with retrainCount := g.retrainCount + 1, rate := .retraining }
      else (s.onGrade n fun g => { g with retrainCount := g.retrainCount + 1, rate := .retraining }).rateInFlight n).onHeldPump n
      fun q => q.work .retraining (.running 5000)).emit (.retrainStart n)) := fun _ =>
    (Kept.onHeldPump (.ite (fun _ => Kept.refl.onGrade n _) fun _ => (Kept.refl.onGrade n _).rateInFlight n) n).emit _
  generalize ((if (s.line n).link.inFlight then s.onGrade n fun g => { g with retrainCount := g.retrainCount + 1, rate := .retraining }
      else (s.onGrade n fun g => { g with retrainCount := g.retrainCount + 1, rate := .retraining }).rateInFlight n).onHeldPump n
      fun q => q.work .retraining (.running 5000)).emit (.retrainStart n) = x at quiet
  have k := h.still quiet
  refine .ite (fun data => ?_) fun _ => k
  refine Path.still (k.inLine n Within.refl.onCall (.goes (.inl ⟨?_, fun e => ?_⟩) (.inr ?_) ⟨?_, ?_, ?_⟩ fun o => ⟨?_, fun e => ?_⟩))
    fun _ => Kept.refl.raise n _
  all_goals simp only [Line.connectedAs, Bool.and_eq_true, decide_eq_true_eq] at data
  · simp [Line.connectedAs, (quiet _).state, (quiet _).service, data.1, data.2]
  · simp [(quiet _).state, data.1] at e
  · simp [LineState.offHook]
  · simp [Line.settles]
  · simp
  · simp
  · simpa [Line.opens] using o
  · simp [(quiet _).state, data.1] at e

theorem Path.judgeWindow (h : Path s₀ s) (n : LineId) (f : Nat) : Path s₀ (s.judgeWindow n f) := by
  unfold State.judgeWindow; dsimp only; repeat' split
  · exact h.still fun _ => (Kept.refl.onGrade n _).requestShift n _
  · exact h.still fun _ => Kept.refl.onGrade n _
  · exact h.still fun _ => (Kept.refl.onGrade n _).requestShift n _
  · exact Path.beginRetrain (h.still fun _ => Kept.refl.onGrade n _) n
  · exact h.still fun _ => Kept.refl.onGrade n _
  · exact h.still fun _ => Kept.refl.onGrade n _

theorem Path.collapseTest (h : Path s₀ s) (n : LineId) : Path s₀ (s.collapseTest n) :=
  .ite (fun _ => .ite (fun _ => Path.takeFault (h.still fun _ => Kept.refl.onGrade n _) n _ _ _ _) fun _ =>
    h.still fun _ => Kept.refl.onGrade n _) fun _ => h.still fun _ => Kept.refl.onGrade n _

theorem Path.window (h : Path s₀ s) (n : LineId) (sig err : Word) : Path s₀ (s.window n sig err) := by
  refine .ite (fun _ => ?_) fun _ => h
  have read : Path s₀ (if (s.line n).call.service = .data then s.errorsRead n else s) :=
    h.still fun _ => .ite (fun _ => Kept.refl.onLink n) fun _ => .refl
  have k := read.still (t := (if (s.line n).call.service = .data then s.errorsRead n else s).onGrade n fun g =>
    if g.seedPending then { g.seed (margin sig err) with seedPending := false } else g.take (margin sig err)) fun _ => Kept.refl.onGrade n _
  exact .ite (fun _ => .ite (fun _ => (k.collapseTest n).judgeWindow n _) fun _ => k.collapseTest n) fun _ => k

theorem Path.farRetrain (h : Path s₀ s) (n : LineId) : Path s₀ (s.farRetrain n) :=
  .ite (fun _ => Path.beginRetrain (h.still fun _ => Kept.refl.onHeldPump n) n) fun _ => h

/-- A line in RETRAINING is CONNECTED again. -/
theorem Path.retrained (h : Path s₀ s) (n : LineId) :
    Path s₀ (s.onCall n fun c => { c with state := if c.state = .retraining then .connected else c.state }) := by
  by_cases e : (s.line n).call.state = .retraining
  · refine h.inLine n Within.refl.onCall (.goes (.inl ⟨?_, fun a => ?_⟩) (.inr ?_) ⟨?_, ?_, ?_⟩ fun o => ⟨?_, fun a => ?_⟩)
    · simp [Line.connectedAs, e]
    · simp [e] at a
    · simp [e, LineState.offHook]
    · simp [Line.settles]
    · simp
    · simp
    · simpa [Line.opens] using o
    · simp [e] at a
  · have same : s.onCall n (fun c => { c with state := if c.state = .retraining then .connected else c.state }) = s := by
      refine (State.onLine_congr (g := fun l => l) ?_).trans (s.onLine_id n)
      simp [e]
    rwa [same]

theorem Path.retrainDone (h : Path s₀ s) (a : RetrainAttempt) (farMax : Nat) (sig err : Word) : Path s₀ (s.retrainDone a farMax sig err) := by
  refine .ite (fun _ => ?_) fun _ => h
  unfold State.exchangeDone; dsimp only
  have k := h.still fun _ => Kept.refl.exchangeReport a.line farMax sig err
  split
  next r _ =>
    have k' := Path.retrained (k.still fun _ => (Kept.refl.onGrade a.line fun g => { g with rung := r, rate := .settled }).onHeldPump a.line
      (f := fun q => q.work .carrying .stopped)) a.line
    exact .ite (fun _ => k'.still fun _ => Kept.refl.rateSettled a.line) fun _ =>
      k'.still fun _ => (Kept.refl.rateSettled a.line).raise a.line _
  next => exact k.beginRetrain _

theorem Path.attemptFailed (h : Path s₀ s) (a : RetrainAttempt) : Path s₀ (s.attemptFailed a) := .ite (fun _ => h.beginRetrain _) fun _ => h

theorem Path.carrierLoss (h : Path s₀ s) (n : LineId) : Path s₀ (s.carrierLoss n) := by
  refine .ite (fun _ => ?_) fun _ => h
  have k : Path s₀ (s.onHeldPump n fun q => { q with carrierTimer := .stopped, attemptTimer := .stopped, carrierLost := true }) :=
    h.still fun _ => Kept.refl.onHeldPump n
  exact .ite (fun _ => k.still fun _ => Kept.refl.onCtl n _) fun _ => k.fault n _

/-! ## Pumps that settle and fault (04) -/

/-- The adaptive switch of a line that a pump serves. -/
theorem Path.adaptiveSwitch (h : Path s₀ s) (state : (s.line n).call.state = .connected) (step : (s.line n).seq.step = .switchWait)
    (served : ∃ p, s.serves p n) : Path s₀ (s.adaptiveSwitch n) := by
  unfold State.adaptiveSwitch; dsimp only
  have played : ∃ x, (if (s.line n).voice.play = .none then s else s.finishPlay n .switched .cut switchedCode) = x ∧ Path s₀ x ∧
      (x.line n).voice.play = .none ∧ Kept .call s x ∧ Kept .step s x ∧ Kept .pool s x := by
    refine ⟨_, rfl, ?_⟩
    split
    next quiet => exact ⟨h, quiet, .refl, .refl, .refl⟩
    next =>
      have kept : ∀ p, p ≠ Part.play → Kept p s (s.finishPlay n .switched .cut switchedCode) := fun p hp => Kept.refl.finishPlay hp n _ _ _
      exact ⟨h.move (.playEnds n _ _ _), by rw [State.voice_finishPlay], kept _ nofun, kept _ nofun, kept _ nofun⟩
  obtain ⟨x, e, k, quiet, call, steps, pool⟩ := played
  rw [e]
  have w : Within n x ((x.onCall n fun c => { c with service := (x.line n).seq.switchTo }).onSeq n fun q =>
      { q with step := .host, adaptive := false }) := Within.refl.onCall.onSeq _
  obtain ⟨there, seq, opens⟩ := ((x.onCall n fun c => { c with service := (x.line n).seq.switchTo }).onSeq n fun q =>
      { q with step := .host, adaptive := false }).line_beginTraining n .answerer
  obtain ⟨p, serves⟩ := served
  refine k.inLine n (w.beginTraining _) (.switched ?_ ?_ quiet ⟨p, (pool.pumpLine p).trans serves⟩ (.inr (by rw [there]; rfl)) ?_ ?_ ?_ ?_)
  · rw [call.state, state]
  · rw [steps.stepOf, step]
  · exact seq.settles.trans (by simp [Line.settles])
  · exact seq.listening.trans (by simp)
  · exact seq.step.trans (by simp)
  · exact opens.trans (by simp [Line.opens])

theorem Path.grantSettled (h : Path s₀ s) (served : ∃ p, s.serves p n) (volt : Bool) : Path s₀ (s.grantSettled n volt) := by
  unfold State.grantSettled; split
  next e => exact h.offHookAttempt (.inr (by rw [e]; trivial)) volt
  next e =>
    obtain ⟨state, seq, opens⟩ := s.line_beginTraining n .answerer
    refine h.inLine n (Within.refl.beginTraining _) (.goes (.inl ⟨?_, fun _ => served⟩) (.inr (by rw [state]; rfl)) seq fun o =>
      ⟨opens.mp o, fun a => ?_⟩)
    · simp [Line.connectedAs, e]
    · simp [e] at a
  next e => exact .ite (fun step => h.adaptiveSwitch e step served) fun _ => h
  next => exact h

theorem Kept.withPort {p : Part} (h : Kept p s₀ s) (x : Port) : Kept p s₀ { s with port := x } := h.of_rest rfl rfl rfl rfl rfl

theorem Path.settleComplete (h : Path s₀ s) (p : PumpId) (pass volt : Bool) : Path s₀ (s.settleComplete p pass volt) := by
  refine .ite (fun settling => ?_) fun _ => h
  have started : ∀ {x : State}, Path s₀ x → Path s₀ x.startUp := fun k =>
    k.still fun _ => .ite (fun _ => (Kept.refl.withPort _).raiseEngine _) fun _ => .refl
  refine started ?_
  have warned : Path s₀ (s.raiseEngine .pumpOut) := h.still fun _ => Kept.refl.raiseEngine _
  unfold State.settleChecked; split
  next n line =>
    refine .ite (fun _ => Path.grantSettled (h.move (.attaches p n settling line)) ⟨p, ?_⟩ volt) fun _ => ?_
    · simp [State.serves, Pump.inState]
    · change Path s₀ (((s.raiseEngine .pumpOut).onPump p fun _ => Pump.inState .out none).requeue n)
      unfold State.requeue; dsimp only
      split
      next none =>
        refine warned.move (.out p settling fun m serves => ?_)
        cases line.symm.trans serves
        exact none
      next c claim =>
        generalize (if c.wait.isRunning = true then c.wait else
          .running (((((s.raiseEngine .pumpOut).onPump p fun _ => Pump.inState .out Option.none).line n).profile.pumpWait c.cls) * 1000)) = w
        change Path s₀ (if ((s.raiseEngine .pumpOut).requeued p n c w).lowestFree.isSome = true then
          ((s.raiseEngine .pumpOut).requeued p n c w).arbitrate else if w = .running 0 then
          ((s.raiseEngine .pumpOut).requeued p n c w).expireClaim n else (s.raiseEngine .pumpOut).requeued p n c w)
        refine .ite (fun _ => warned.move (.regrants p n c w settling line claim)) fun dry => ?_
        have k := warned.move (.requeues p n c w settling line claim (by simpa using dry))
        exact .ite (fun _ => k.expireClaim n) fun _ => k
  next line =>
    refine .ite (fun _ => h.move (.frees p settling line)) fun _ => ?_
    exact warned.move (.out p settling fun m serves => by cases line.symm.trans serves)

theorem Path.claimWaitExpiry (h : Path s₀ s) (n : LineId) : Path s₀ (s.claimWaitExpiry n) := by
  unfold State.claimWaitExpiry; split
  · exact .ite (fun _ => h.expireClaim n) fun _ => h
  · exact h

theorem Path.selfFault (h : Path s₀ s) (p : PumpId) : Path s₀ (s.selfFault p) := by
  refine .ite (fun attached => ?_) fun _ => h
  split
  next n line =>
    have warned : Path s₀ (s.raiseEngine .pumpOut) := h.still fun _ => Kept.refl.raiseEngine _
    exact (warned.move (.loses p n attached line)).fault n _
  next => exact h

/-! ## The checked link and fax (06, 07) -/

theorem Path.linkUp (h : Path s₀ s) (opening : (s.line n).link.state = .opening) (carrying : s.carrying n = true) (w len : Nat) :
    Path s₀ (s.linkUp n w len) := by
  have quiet : Still s ((s.onLink n fun l => { l with openTimer := .stopped, repeatTimer := .stopped }).sendReply n
      ((s.onLink n fun l => { l with openTimer := .stopped, repeatTimer := .stopped }).ownLinkOpen n)) :=
    fun _ => (Kept.refl.onLink n).sendReply n _
  unfold State.linkUp; dsimp only
  generalize ((s.onLink n fun l => { l with openTimer := .stopped, repeatTimer := .stopped }).sendReply n
      ((s.onLink n fun l => { l with openTimer := .stopped, repeatTimer := .stopped }).ownLinkOpen n)) = x at quiet
  have line := (x.onLink n fun l =>
      { l with
        window := min (x.line n).profile.linkWindow w, infoLength := min (x.line n).profile.maxInfo len, state := .up
        nextSend := 0, expected := 0, frameErrors := 0, sendWindow := [], sendList := [] }).line_connect n .data
  obtain ⟨connected, -, seq, opens⟩ := line
  obtain ⟨p, serves⟩ := State.serves_of_carrying carrying
  refine (h.still quiet).inLine n ((Within.refl.onLink _).connect _) (.goes (.inr ⟨(quiet.opens n).mpr opening, p, ?_⟩)
    (.inr (by rw [connected]; rfl)) ⟨?_, ?_, ?_⟩ fun o => ?_)
  · exact ((quiet _).pumpLine p).trans serves
  · exact seq.settles.trans (by simp [Line.settles])
  · exact seq.listening.trans (by simp)
  · exact seq.step.trans (by simp)
  · have := opens.mp o
    simp [Line.opens] at this

theorem Path.resendOrExhaust (h : Path s₀ s) (n : LineId) : Path s₀ (s.resendOrExhaust n) := by
  unfold State.resendOrExhaust; split
  · exact h.still fun _ => (Kept.refl.onLink n).linkKick n
  · exact .ite (fun _ => h.still fun _ => Kept.refl.resendWindow n) fun _ => h.fault n _

theorem Path.reject (h : Path s₀ s) (n : LineId) (k : BitVec 7) : Path s₀ (s.reject n k) := by
  unfold State.reject; split
  · exact h
  · exact Path.resendOrExhaust (h.still fun _ => (Kept.refl.ackFrames n _).onLink n) n

theorem Path.frameReceived (h : Path s₀ s) (carrying : s.carrying n = true) (f : LinkFrame) : Path s₀ (s.frameReceived n f) := by
  unfold State.frameReceived; split
  next e => exact h.linkUp e carrying _ _
  · exact h.still fun _ => Kept.refl.sendReply n _
  · exact h.still fun _ => Kept.refl.sendReply n _
  · exact h.still fun _ => Kept.refl.infoReceived n _ _
  · exact h.still fun _ => Kept.refl.receipt n _
  · exact h.reject n _
  · exact h.still fun _ => Kept.refl.holdReceived n _
  next e => exact h.still fun _ => Kept.refl.farClose n e
  · exact h

theorem Path.runReceived (h : Path s₀ s) (n : LineId) (run : List Byte) : Path s₀ (s.runReceived n run) := by
  refine .ite (fun _ => h) fun e => ?_
  split
  · exact h.still fun _ => Kept.refl.frameBad n
  · exact h.frameReceived (by simpa using fun c => e (.inr (.inl c))) _

theorem Path.faxExpiry (h : Path s₀ s) (n : LineId) : Path s₀ (s.faxExpiry n) :=
  .ite (fun _ => h.still fun _ => (Kept.refl.onFax n _).repeatStanding n) fun _ =>
    .ite (fun _ => h.clearDecision n _) fun _ => h.faxFailed n _

theorem Path.faxTraining (h : Path s₀ s) (n : LineId) (sig err : Word) : Path s₀ (s.faxTraining n sig err) := by
  refine .ite (fun e => ?_) fun _ => h
  have quiet : Still s ((s.onGrade n fun g => g.seed (margin sig err)).onHeldPump n fun q => q.work .carrying .stopped) :=
    fun _ => Kept.trans (Kept.refl.onGrade n _) (Kept.refl.onHeldPump n)
  dsimp only
  generalize (s.onGrade n fun g => g.seed (margin sig err)).onHeldPump n (fun q => q.work .carrying .stopped) = x at quiet
  obtain ⟨connected, -, seq, opens⟩ := x.line_connect n .fax
  refine Path.still ((h.still quiet).inLine n (Within.refl.connect _) (.goes (.inl ⟨?_, fun a => ?_⟩) (.inr (by rw [connected]; rfl)) seq
    fun o => ⟨opens.mp o, fun a => ?_⟩)) fun _ => Kept.refl.beginSession n
  · simp [Line.connectedAs, (quiet _).state, e.1]
  · simp [(quiet _).state, e.1] at a
  · simp [(quiet _).service, e.2.1] at a

theorem Path.offerReceived (h : Path s₀ s) (n : LineId) (o : Offer) : Path s₀ (s.offerReceived n o) := by
  refine .ite (fun e => Path.trainDials (h.still fun _ => Kept.refl.onFax n _) ?_ _) fun _ =>
    .ite (fun _ => h.still fun _ => Kept.refl.takeOffer n o) fun _ => h
  simp [e.1, LineState.dials]

theorem Path.noPattern (h : Path s₀ s) (n : LineId) : Path s₀ (s.noPattern n) := by
  refine .ite (fun _ => ?_) fun _ => h
  split
  · exact h
  · exact Path.faxExpiry (h.still fun _ => Kept.refl.onFax n _) n

theorem Path.notReady (h : Path s₀ s) (n : LineId) : Path s₀ (s.notReady n) :=
  .ite (fun _ => .ite (fun _ => h.still fun _ => (Kept.refl.onFax n _).beginCheck n _) fun _ =>
    .ite (fun _ => h.still fun _ => (Kept.refl.onFax n _).beginCheck n _) fun _ => h.faxFailed n _) fun _ => h

/-! ## The host pulse monitor and the orders (10, 11) -/

theorem Path.silence (h : Path s₀ s) (n : LineId) : Path s₀ (s.silence n) := by
  unfold State.silence; split
  next e =>
    have quiet : Still s (s.abandonRetry n .hostSilent) := Still.abandonRetry n _
    exact Path.still ((h.still quiet).enterRested (by rw [(quiet _).state, e]; simp [LineState.rests_iff]) _ _) fun _ => Kept.refl.onCall n
  · exact h.still (Still.abandonRetry n _)
  · exact h.clearDecision n _
  · exact .ite (fun _ => h.clearDecision n _) fun _ => h

theorem Path.pulseEnd (h : Path s₀ s) (order : List LineId) : Path s₀ (s.pulseEnd order) := by
  have monitor : ∀ {x : State}, Path s₀ x → ∀ m, Path s₀ { x with monitor := m } := fun k m => k.still fun _ => Kept.refl.withMonitor m
  have back : ∀ {x : State}, Path s₀ x → Path s₀ x.hostBack := fun k => k.still fun _ => Kept.refl.hostBack
  have compared : Path s₀ (s.comparePulse order) := by
    refine .ite (fun _ => back (monitor h _)) fun _ => .ite (fun _ => ?_) fun _ => monitor h _
    unfold State.declareSilence; dsimp only
    refine .ite (fun _ => Path.foldl (fun _ n k => k.silence n) ?_ _) fun _ => h.still fun _ => (Kept.refl.withMonitor _).raiseEngine _
    exact h.still fun _ => ((Kept.refl.withMonitor _).raiseEngine _).withMonitor _
  unfold State.pulseEnd; split
  · exact h
  · exact .ite (fun _ => back (monitor compared _)) fun _ => monitor compared _

theorem Path.clearLineOrder (h : Path s₀ s) (i : Nat) (c : Card) : Path s₀ (s.clearLineOrder i c) := by
  unfold State.clearLineOrder; split
  · exact (h.clearLineEffect _).still fun _ => Kept.refl.answer _ _ _ _ _
  · exact h.still fun _ => Kept.refl.answer _ _ _ _ _

theorem Path.disableOrder (h : Path s₀ s) (n : LineId) (i : Nat) : Path s₀ (s.disableOrder n i) :=
  (h.disableEffect n).still fun _ => Kept.refl.answer _ _ _ _ _

theorem Path.hangupOrder (h : Path s₀ s) (n : LineId) (i : Nat) : Path s₀ (s.hangupOrder n i) :=
  .ite (fun _ => h.still fun _ => Kept.refl.refuseState n i) fun _ => (h.hangupEffect n).still fun _ => Kept.refl.answer _ _ _ _ _

theorem Still.clearRetryCountOrder (n : LineId) (i : Nat) : Still s (s.clearRetryCountOrder n i) := fun _ =>
  .ite (fun _ => Kept.refl.refuseState n i) fun _ => (Kept.refl.onFm n _).answer _ _ _ _ _

theorem Path.lineOrder (h : Path s₀ s) (n : LineId) (volt : Bool) (i : Nat) (c : Card) : Path s₀ (s.lineOrder n volt i c) := by
  unfold State.lineOrder; split
  · exact h.enableOrder n i
  · exact h.disableOrder n i
  · exact h.dialOrder n i c volt
  · exact h.answerOrder n i c volt
  · exact h.hangupOrder n i
  · exact h.still fun _ => Kept.refl.sendOrder n i c
  · exact h.still fun _ => Kept.refl.faxPagesOrder n i c
  · exact h.playOrder n i c
  · exact h.recordOrder n i c
  · exact h.stopOrder n i
  · exact h.still fun _ => Kept.refl.takeDigitsOrder n i
  · exact h.clearFaultOrder n i
  · exact h.still (Still.clearRetryCountOrder n i)
  · exact h.still fun _ => Kept.refl.unknownOrder _ i

theorem Path.engineOrder (h : Path s₀ s) (i : Nat) (c : Card) : Path s₀ (s.engineOrder i c) := by
  unfold State.engineOrder; split
  · exact h.still fun _ => Kept.refl.takeBlocksOrder i c
  · exact h.loadGreetingOrder i c
  · exact h.unloadGreetingOrder i c
  · exact h.collectOrder i c
  · exact h.discardOrder i c
  · exact h.still fun _ => Kept.refl.setClockOrder i c
  · exact h.clearLineOrder i c
  · exact h.still fun _ => Kept.refl.unknownOrder _ i

/-! ## The sweep (10) -/

theorem Path.commit (h : Path s₀ s) (r : State) : Path s₀ (r.commit s) := h.still fun _ => Kept.refl.commit r

theorem Path.onTable (h : Path s₀ s) (T : TableId) (f : OrderTable → OrderTable) : Path s₀ (s.onTable T f) :=
  h.still fun _ => Kept.refl.onTable T f

theorem Path.takeNext (h : Path s₀ s) (v : Volts) (T : TableId) : Path s₀ (s.takeNext v T) := by
  unfold State.takeNext; split
  · exact h.onTable T _
  next i _ =>
    refine .ite (fun _ => Path.commit ?_ s) fun _ => h.onTable T _
    have k := h.still fun _ => Kept.refl.taking T i
    cases T with
    | line n => exact k.lineOrder n _ _ _
    | engine => exact k.engineOrder _ _

theorem Kept.returnDelivered {p : Part} (h : Kept p s₀ s) (b : Nat) (n : LineId) : Kept p s₀ (s.returnDelivered b n) :=
  ((h.freeBlock b).onLine n).removeEntries n

theorem Kept.withSweep {p : Part} (h : Kept p s₀ s) (w : Sweep) : Kept p s₀ { s with sweep := w } := h.of_rest rfl rfl rfl rfl rfl

theorem Kept.visitBlock {p : Part} (h : Kept p s₀ s) (b : Nat) : Kept p s₀ (s.visitBlock b) := by
  have repaired : ∀ o, Kept p s₀ (s.repairEntry b o) := fun o => ((h.onStore _).onHdr _).raiseEngine _
  unfold State.visitBlock; split
  · exact h
  · refine .ite (fun _ => h) fun _ => Kept.commit ?_ s
    unfold State.judgeEntry; split
    · split
      · exact h.freeBlock b
      · exact h.returnDelivered b _
      · exact repaired _
    · exact repaired _

theorem Kept.ackOnce {p : Part} (h : Kept p s₀ s) (T : TableId) : Kept p s₀ (s.ackOnce T) := by
  refine .ite (fun _ => h) fun _ => Kept.commit ?_ s
  cases T with
  | line n => exact Kept.withSweep (h.onLine n) _
  | engine => exact Kept.withSweep (h.onHdr _) _

theorem Path.sweepUnit (h : Path s₀ s) (v : Volts) (x : SweepUnit) : Path s₀ (State.sweepUnit v s x) := by
  cases x with
  | hand T i => exact h.onTable T fun tb => tb.readHand i.val
  | number T i => exact h.onTable T fun tb => tb.readNumber i.val
  | list T => exact h.onTable T _
  | take T => exact h.onTable T _
  | card T => exact h.takeNext v T
  | ack T => exact h.still fun _ => Kept.refl.ackOnce T
  | visit => exact h.still fun _ => .ite (fun _ => (Kept.refl.visitBlock _).withSweep _) fun _ => .refl
  | returns =>
    have visited : ∀ bs : List Nat, Still s (bs.foldl State.visitBlock s) := fun bs _ => Kept.foldl (fun _ b k => k.visitBlock b) .refl bs
    unfold State.sweepUnit State.returnsOnce; dsimp only
    exact .ite (fun _ => h) fun _ => Path.commit (Path.still (h.still (visited _)) fun _ => (Kept.refl.withSweep _).criticalExits) _

theorem Path.sweepUnits (h : Path s₀ s) (v : Volts) (xs : List SweepUnit) : Path s₀ (s.sweepUnits v xs) :=
  Path.foldl (fun _ x k => k.sweepUnit v x) h xs

theorem Path.endSweep (h : Path s₀ s) : Path s₀ s.endSweep := by
  have ended : Still s (allTables.foldl (fun s t => s.onTable t OrderTable.sweepEnd) s) := fun _ =>
    Kept.foldl (fun _ T k => k.onTable T _) .refl allTables
  exact h.still fun p => Kept.commit (((ended p).onHdr _).withSweep _) s

theorem Path.sweepOnce (h : Path s₀ s) (v : Volts) (plan : SweepPlan) : Path s₀ (s.sweepOnce v plan) :=
  .ite (fun _ => .ite (fun _ => (h.sweepUnits v _).endSweep) fun _ => h.sweepUnits v _) fun _ => h

/-! ## Every command -/

theorem Path.of_done (h : Path s t) (e : done s t = .next u) : Path s u := by
  cases e; exact h.commit s

theorem Path.of_takeOrder {T : TableId} {i : Nat} {codes : Nat → Bool} {order : State → Card → State}
    (h : ∀ {x : State} c, Path s x → Path s (order x c)) (e : takeOrder s T i codes order = .next u) : Path s u := by
  unfold takeOrder at e
  split at e
  · exact (h _ (Path.refl.still fun _ => Kept.refl.taking T i)).of_done e
  · cases e; exact .refl

end Sys2Proof.Machine

/-! Every command that goes on is an engine reset or a chain of moves. -/

namespace Sys2Proof.Machine

variable {s₀ s : State}

theorem Path.loopDrop (h : Path s₀ s) (n : LineId) : Path s₀ (s.loopDrop n) := .ite (fun _ => h.clearDecision n _) fun _ => h

theorem Path.replyExpiry (h : Path s₀ s) (n : LineId) : Path s₀ (s.replyExpiry n) := .ite (fun _ => h.resendOrExhaust n) fun _ => h

theorem Path.releaseSent (h : Path s₀ s) (n : LineId) : Path s₀ (s.releaseSent n) := .ite (fun _ => h.clearDecision n _) fun _ => h

theorem Path.releaseReceived (h : Path s₀ s) (n : LineId) : Path s₀ (s.releaseReceived n) := .ite (fun _ => h.clearDecision n _) fun _ => h

theorem exec_path {c : Instr} {s t : State} (h : exec c s = .next t) : (∃ k, t = s.engineReset k) ∨ Path s t := by
  cases c with
  | engineReset strap => exact .inl ⟨strap, (Host.Outcome.next.inj h).symm⟩
  | ctrlReset value strap => exact .inl ⟨strap, (Host.Outcome.next.inj h).symm⟩
  | ctrlEnableWrite value => exact .inr (Path.of_done (Path.refl.still fun _ => Kept.refl.withPort _) h)
  | winaWrite value => exact .inr (Path.of_done (Path.refl.still fun _ => Kept.refl.withPort _) h)
  | winbWrite value => exact .inr (Path.of_done (Path.refl.still fun _ => Kept.refl.withPort _) h)
  | attnWrite value => exact .inr (Path.of_done (Path.refl.still fun _ => Kept.refl.requestSweep) h)
  | statRead => exact .inr (Path.of_done (Path.refl.still fun _ => Kept.refl.withPort _) h)
  | statWrite value => exact .inr (Path.of_done Path.refl h)
  | hostStoreWrite offset value =>
    change (if offset.getLsbD 0 then _ else _) = _ at h
    split at h
    · cases h
    · exact .inr (Path.of_done (Path.refl.still fun _ => Kept.refl.hostWord (s.windowAddr offset) value) h)
  | hostStoreRead offset =>
    change (if offset.getLsbD 0 then _ else _) = _ at h
    split at h
    · cases h
    · exact .inr (Path.of_done (Path.refl.still fun _ => Kept.refl.withPort _) h)
  | tick => exact .inr (Path.of_done (Path.refl.still fun _ => Kept.refl.tickOnce) h)
  | sweep volts plan => exact .inr (Host.Outcome.next.inj h ▸ Path.refl.sweepOnce volts plan)
  | unknownOrder table card => exact .inr (Path.of_takeOrder (fun _ k => k.still fun _ => Kept.refl.unknownOrder table card.val) h)
  | enable n card => exact .inr (Path.of_takeOrder (fun _ k => k.enableOrder n card.val) h)
  | disable n card => exact .inr (Path.of_takeOrder (fun _ k => k.disableOrder n card.val) h)
  | dial n card volt => exact .inr (Path.of_takeOrder (fun c k => k.dialOrder n card.val c volt) h)
  | answer n card volt => exact .inr (Path.of_takeOrder (fun c k => k.answerOrder n card.val c volt) h)
  | hangup n card => exact .inr (Path.of_takeOrder (fun _ k => k.hangupOrder n card.val) h)
  | send n card => exact .inr (Path.of_takeOrder (fun c k => k.still fun _ => Kept.refl.sendOrder n card.val c) h)
  | faxPages n card => exact .inr (Path.of_takeOrder (fun c k => k.still fun _ => Kept.refl.faxPagesOrder n card.val c) h)
  | play n card => exact .inr (Path.of_takeOrder (fun c k => k.playOrder n card.val c) h)
  | record n card => exact .inr (Path.of_takeOrder (fun c k => k.recordOrder n card.val c) h)
  | stop n card => exact .inr (Path.of_takeOrder (fun _ k => k.stopOrder n card.val) h)
  | takeDigits n card => exact .inr (Path.of_takeOrder (fun _ k => k.still fun _ => Kept.refl.takeDigitsOrder n card.val) h)
  | clearFault n card => exact .inr (Path.of_takeOrder (fun _ k => k.clearFaultOrder n card.val) h)
  | clearRetryCount n card => exact .inr (Path.of_takeOrder (fun _ k => k.still (Still.clearRetryCountOrder n card.val)) h)
  | takeBlocks card => exact .inr (Path.of_takeOrder (fun c k => k.still fun _ => Kept.refl.takeBlocksOrder card.val c) h)
  | loadGreeting card => exact .inr (Path.of_takeOrder (fun c k => k.loadGreetingOrder card.val c) h)
  | unloadGreeting card => exact .inr (Path.of_takeOrder (fun c k => k.unloadGreetingOrder card.val c) h)
  | collectMessage card => exact .inr (Path.of_takeOrder (fun c k => k.collectOrder card.val c) h)
  | discardMessage card => exact .inr (Path.of_takeOrder (fun c k => k.discardOrder card.val c) h)
  | setClock card => exact .inr (Path.of_takeOrder (fun c k => k.still fun _ => Kept.refl.setClockOrder card.val c) h)
  | clearLine card => exact .inr (Path.of_takeOrder (fun c k => k.clearLineOrder card.val c) h)
  | ringVoltageOnset n => exact .inr (Path.of_done (Path.refl.still fun _ => Kept.refl.closeWindow n) h)
  | ringCounted n volt => exact .inr (Path.of_done (Path.refl.ringCounted n volt) h)
  | ringGapExpiry n => exact .inr (Path.of_done (Path.refl.ringGap n) h)
  | callerBurstEnd n rest => exact .inr (Path.of_done (Path.refl.still (Still.burstEnd n rest)) h)
  | loopCurrentFall n => exact .inr (Path.of_done (Path.refl.still fun _ => Kept.refl.onCtl n _) h)
  | loopCurrentReturn n => exact .inr (Path.of_done (Path.refl.loopReturn n) h)
  | loopDropExpiry n => exact .inr (Path.of_done (Path.refl.loopDrop n) h)
  | guardTimeExpiry n => exact .inr (Path.of_done (Path.refl.guardExpiry n) h)
  | declinedRingGapExpiry n => exact .inr (Path.of_done (Path.refl.declinedGapExpiry n) h)
  | retryDelayExpiry n volt => exact .inr (Path.of_done (Path.refl.redial n volt) h)
  | dialToneWaitExpiry n => exact .inr (Path.of_done (Path.refl.dialToneWaitExpiry n) h)
  | progressToneOnset n offMs => exact .inr (Path.of_done (Path.refl.progressToneOnset n offMs) h)
  | progressToneCease n onMs => exact .inr (Path.of_done (Path.refl.progressToneCease n onMs) h)
  | dialToneAccepted n => exact .inr (Path.of_done (Path.refl.dialToneAccepted n) h)
  | wWaitExpiry n => exact .inr (Path.of_done (Path.refl.wWaitExpiry n) h)
  | toneOnEnd n => exact .inr (Path.of_done (Path.refl.still (Still.toneOnEnd n)) h)
  | toneGapEnd n => exact .inr (Path.refl.symbolEnds.of_done h)
  | pulseBreakEnd n => exact .inr (Path.of_done (Path.refl.still (Still.pulseBreakEnd n)) h)
  | pulseMakeEnd n => exact .inr (Path.of_done (Path.refl.still (Still.pulseMakeEnd n)) h)
  | interdigitPauseEnd n => exact .inr (Path.refl.symbolEnds.of_done h)
  | pauseEnd n => exact .inr (Path.refl.symbolEnds.of_done h)
  | flashEnd n => exact .inr (Path.refl.flashEnd n |>.of_done h)
  | answerWaitExpiry n => exact .inr ((Path.ite (fun _ => Path.refl.clearDecision n .noAnswer) fun _ => .refl).of_done h)
  | answerToneOnset n => exact .inr (Path.of_done (Path.refl.still fun _ => Kept.refl.onCtl n _) h)
  | answerToneCease n => exact .inr (Path.of_done (Path.refl.still fun _ => Kept.refl.onCtl n _) h)
  | answerToneAccepted n => exact .inr (Path.of_done (Path.refl.answerToneAccepted n) h)
  | voicePathOpen n => exact .inr (Path.of_done (Path.refl.voicePathOpen n) h)
  | voiceFrameEnd n samples => exact .inr (Path.of_done (Path.refl.frameEnd n samples) h)
  | voiceSettleExpiry n => exact .inr (Path.of_done (Path.refl.voiceSettle n) h)
  | adaptiveListenExpiry n => exact .inr (Path.of_done (Path.refl.listenExpiry n) h)
  | faxCallingToneOnset n => exact .inr (Path.of_done (Path.refl.still fun _ => Kept.refl.onCtl n _) h)
  | faxCallingToneCease n ms => exact .inr (Path.of_done (Path.refl.faxToneCease n ms) h)
  | dataCallingToneOnset n => exact .inr (Path.of_done (Path.refl.still fun _ => Kept.refl.onCtl n _) h)
  | dataCallingToneCease n => exact .inr (Path.of_done (Path.refl.still fun _ => Kept.refl.onCtl n _) h)
  | dataCallingToneAccepted n => exact .inr (Path.of_done (Path.refl.dataToneAccepted n) h)
  | dtmfDigit n digit => exact .inr (Path.of_done (Path.refl.digitHeard n digit) h)
  | encodeSample n x => exact .inr (Path.of_done (Path.refl.encodeSample n x) h)
  | decodeSample n => exact .inr (Path.of_done (Path.refl.decodeSample n) h)
  | pumpSettleComplete p pass volt => exact .inr (Path.of_done (Path.refl.settleComplete p pass volt) h)
  | claimWaitExpiry n => exact .inr (Path.of_done (Path.refl.claimWaitExpiry n) h)
  | pumpSelfFault p => exact .inr (Path.of_done (Path.refl.selfFault p) h)
  | dataTrainingSuccess n farMax sig err => exact .inr (Path.of_done (Path.refl.dataTraining n farMax sig err) h)
  | faxTrainingSuccess n sig err => exact .inr (Path.of_done (Path.refl.faxTraining n sig err) h)
  | trainingServiceMismatch n => exact .inr (Path.of_done (Path.refl.trainingMismatch n) h)
  | trainingTimerExpiry n => exact .inr ((Path.ite (fun _ => Path.refl.fault n .trainFailed) fun _ => .refl).of_done h)
  | gradingWindow n sig err => exact .inr (Path.of_done (Path.refl.window n sig err) h)
  | shiftDone n => exact .inr (Path.of_done (Path.refl.still fun _ => Kept.refl.shiftDone n) h)
  | shiftFailed n => exact .inr ((Path.ite (fun _ => Path.refl.beginRetrain n) fun _ => .refl).of_done h)
  | shiftAnswerExpiry n => exact .inr ((Path.ite (fun _ => Path.refl.beginRetrain n) fun _ => .refl).of_done h)
  | farRetrain n => exact .inr (Path.of_done (Path.refl.farRetrain n) h)
  | retrainCompletion a farMax sig err => exact .inr (Path.of_done (Path.refl.retrainDone a farMax sig err) h)
  | retrainAttemptExpiry a => exact .inr (Path.of_done (Path.refl.attemptFailed a) h)
  | retrainServiceMismatch a => exact .inr (Path.of_done (Path.refl.attemptFailed a) h)
  | carrierCease n => exact .inr ((Path.ite (fun _ => Path.refl.still fun _ => Kept.refl.onHeldPump n) fun _ => .refl).of_done h)
  | carrierReturn n => exact .inr (Path.of_done (Path.refl.still fun _ => Kept.refl.onHeldPump n) h)
  | carrierLossExpiry n => exact .inr (Path.of_done (Path.refl.carrierLoss n) h)
  | linkOpenRepeat n => exact .inr (Path.of_done (Path.refl.still fun _ => Kept.refl.linkOpenRepeat n) h)
  | linkOpenExpiry n => exact .inr ((Path.ite (fun _ => Path.refl.fault n .trainFailed) fun _ => .refl).of_done h)
  | linkOpenFrame n run => exact .inr (Path.of_done (Path.refl.runReceived n run) h)
  | infoFrame n run => exact .inr (Path.of_done (Path.refl.runReceived n run) h)
  | receiptFrame n run => exact .inr (Path.of_done (Path.refl.runReceived n run) h)
  | rejectFrame n run => exact .inr (Path.of_done (Path.refl.runReceived n run) h)
  | holdFrame n run => exact .inr (Path.of_done (Path.refl.runReceived n run) h)
  | linkCloseFrame n run => exact .inr (Path.of_done (Path.refl.runReceived n run) h)
  | badFrame n run => exact .inr (Path.of_done (Path.refl.runReceived n run) h)
  | frameSent n => exact .inr (Path.of_done (Path.refl.still fun _ => Kept.refl.frameSent n) h)
  | replyTimerExpiry n => exact .inr (Path.of_done (Path.refl.replyExpiry n) h)
  | holdTimerExpiry n => exact .inr ((Path.ite (fun _ => Path.refl.fault n .linkExhausted) fun _ => .refl).of_done h)
  | deliveryIdleExpiry n => exact .inr ((Path.ite (fun _ => Path.refl.still fun _ => Kept.refl.flush n) fun _ => .refl).of_done h)
  | offerFrame n offer => exact .inr (Path.of_done (Path.refl.offerReceived n offer) h)
  | choiceFrame n choice => exact .inr (Path.of_done (Path.refl.still fun _ => Kept.refl.choiceReceived n choice) h)
  | checkPatternSent n => exact .inr (Path.of_done (Path.refl.still fun _ => Kept.refl.patternSent n) h)
  | checkPatternResult n received => exact .inr (Path.of_done (Path.refl.still fun _ => Kept.refl.patternJudged n received) h)
  | checkCarrierWaitExpiry n => exact .inr (Path.of_done (Path.refl.noPattern n) h)
  | readyFrame n => exact .inr (Path.of_done (Path.refl.still fun _ => Kept.refl.ready n) h)
  | notReadyFrame n => exact .inr (Path.of_done (Path.refl.notReady n) h)
  | pageSent n => exact .inr (Path.of_done (Path.refl.still fun _ => Kept.refl.pageSent n) h)
  | pageCarrierStart n => exact .inr (Path.of_done (Path.refl.still fun _ => Kept.refl.pageStart n) h)
  | pageRow n damaged row => exact .inr (Path.of_done (Path.refl.still fun _ => Kept.refl.rowReceived n damaged row) h)
  | pageCarrierCease n => exact .inr (Path.of_done (Path.refl.still fun _ => Kept.refl.pageEnd n) h)
  | moreFrame n => exact .inr (Path.of_done (Path.refl.still fun _ => Kept.refl.pageFrame n false) h)
  | lastFrame n => exact .inr (Path.of_done (Path.refl.still fun _ => Kept.refl.pageFrame n true) h)
  | verdictFrame n verdict rows badRows => exact .inr (Path.of_done (Path.refl.still fun _ => Kept.refl.verdictReceived n verdict rows badRows) h)
  | faxReleaseSent n => exact .inr (Path.of_done (Path.refl.releaseSent n) h)
  | releaseFrame n => exact .inr (Path.of_done (Path.refl.releaseReceived n) h)
  | faxReplyExpiry n => exact .inr ((Path.ite (fun _ => Path.refl.faxExpiry n) fun _ => .refl).of_done h)
  | pulsePeriodEnd order => exact .inr (Path.of_done (Path.refl.pulseEnd order) h)
  | callerBurstStart n first => exact .inr (Path.of_done (Path.refl.still (Still.burstStart n first)) h)

end Sys2Proof.Machine

/-! What the call-end sequence, the end of a play and the end of a recording leave of the parts that the laws of pumps, plays and
recordings read. -/

namespace Sys2Proof.Machine

set_option Elab.async false

variable {p : Part} {s t u : State} {n : LineId}

/-! ## The other lines -/

/-- A part is the same on every line but `n`. -/
def Apart (p : Part) (n : LineId) (s t : State) : Prop := ∀ m, m ≠ n → p.ofLine (t.line m) = p.ofLine (s.line m)

theorem Apart.trans (h : Apart p n s t) (k : Apart p n t u) : Apart p n s u := fun m hm => (k m hm).trans (h m hm)

theorem Kept.apart (h : Kept p s t) : Apart p n s t := fun m _ => h.lines m

theorem Within.apart (h : Within n s t) : Apart p n s t := h.others p

theorem Apart.onLine (s : State) (n : LineId) (f : Line → Line) : Apart p n s (s.onLine n f) := fun m hm => by
  rw [State.line_onLine_ne _ hm]

theorem Apart.of_lines (e : t.lines = s.lines) : Apart p n s t := fun m _ => by simp only [State.line, e]

/-! ## The pool's own moves -/

theorem Kept.attached (hp : p ≠ .pool) (s : State) (q : PumpId) (n : LineId) (x : Pump) :
    Kept p s ((s.onPump q fun _ => x).onLine n fun l => { l with claim := none, call := { l.call with pump := some q } }) :=
  (Kept.refl.onPumpAny hp _ _).onLine n

theorem Kept.lost (hp : p ≠ .pool) (s : State) (q : PumpId) (n : LineId) (x : Pump) :
    Kept p s ((s.onPump q fun _ => x).onCall n fun c => { c with pump := none }) :=
  (Kept.refl.onPumpAny hp _ _).onLine n

theorem Kept.requeued (hp : p ≠ .pool) (s : State) (q : PumpId) (n : LineId) (c : Claim) (w : Timer) : Kept p s (s.requeued q n c w) :=
  ((Kept.refl.onPumpAny hp q _).withWaitQueue hp _).onLine n

/-! ## The end of a play -/

theorem State.playOf_emptySlot (s : State) (g : SlotId) (m : LineId) : ((s.emptySlot g).line m).voice.play = (s.line m).voice.play :=
  (Kept.refl.freeBlocks _).playOf m

theorem State.playOf_slotPlayEnds (s : State) (g : SlotId) (m : LineId) :
    ((s.slotPlayEnds g).line m).voice.play = (s.line m).voice.play := by
  unfold State.slotPlayEnds; dsimp only; repeat' split
  · exact ((Kept.refl.answer _ _ _ _ _).playOf m).trans (s.playOf_emptySlot g m)
  · exact s.playOf_emptySlot g m
  · rfl

theorem Apart.slotPlayEnds (s : State) (g : SlotId) : Apart p n s (s.slotPlayEnds g) := by
  intro m _
  by_cases hp : p = .play
  · subst hp; exact s.playOf_slotPlayEnds g m
  · exact (Kept.refl.slotPlayEnds hp g).lines m

/-- What the end of a play does with its blocks. -/
def State.playReturns (s : State) (v : Voice) : State :=
  match v.play with
  | .none => s
  | .slot g => s.slotPlayEnds g
  | .chain _ => s.giveBlocks (v.playChain.map Prod.fst) .host

theorem Kept.finishPlayAnswer (s : State) (n : LineId) (e : PlayEnd) (st : Status) (r : Nat) :
    Kept p ((s.onVoice n fun v => { v with play := .none, playCard := none, playChain := [], playTotal := 0 }).playReturns
      (s.line n).voice) (s.finishPlay n e st r) := by
  unfold State.finishPlay; dsimp only; split
  · exact .refl
  · exact Kept.refl.answer _ _ _ _ _

theorem State.playOf_playReturns (s : State) (v : Voice) (m : LineId) :
    ((s.playReturns v).line m).voice.play = (s.line m).voice.play := by
  unfold State.playReturns; split
  · rfl
  · exact s.playOf_slotPlayEnds _ m
  · rfl

theorem State.playOf_finishPlay (s : State) (n : LineId) (e : PlayEnd) (st : Status) (r : Nat) :
    ((s.finishPlay n e st r).line n).voice.play = .none := by
  rw [(Kept.finishPlayAnswer s n e st r).playOf, State.playOf_playReturns, State.line_onVoice_self]

theorem Apart.playReturns (s : State) (n : LineId) (v : Voice) : Apart p n s (s.playReturns v) := by
  unfold State.playReturns; split
  · exact Kept.refl.apart
  · exact Apart.slotPlayEnds _ _
  · exact (Kept.refl.giveBlocks _ _).apart

theorem Apart.finishPlay (s : State) (n : LineId) (e : PlayEnd) (st : Status) (r : Nat) : Apart p n s (s.finishPlay n e st r) := by
  have quiet : Apart p n s (s.onVoice n fun v => { v with play := .none, playCard := none, playChain := [], playTotal := 0 }) :=
    Apart.onLine s n _
  exact (quiet.trans (Apart.playReturns _ n _)).trans (Kept.finishPlayAnswer s n e st r).apart

/-! ## The end of a recording -/

theorem Apart.finishRecording (s : State) (n : LineId) (r : EndReason) : Apart p n s (s.finishRecording n r) := by
  have ended : ∀ x : State, x.lines = s.lines → ∀ f : Voice → Voice, Apart p n s ((x.onVoice n f).raise n .message) := fun x e f =>
    ((Apart.of_lines e).trans (Apart.onLine x n _)).trans (Apart.onLine _ n _)
  unfold State.finishRecording; dsimp only; repeat' split
  · exact Kept.refl.apart
  · exact ended (s.onMessage _ _) rfl _
  · exact (ended (s.onMessage _ _) rfl _).trans (Kept.refl.answer _ _ _ _ _).apart

theorem Apart.beginRecording (s : State) (n : LineId) (m : EntryId) (k : RecordingKind) (b : Bool) :
    Apart p n s (s.beginRecording n m k b) :=
  Apart.trans (Apart.of_lines (t := (s.onMessage m _).onHdr _) rfl) (Apart.onLine _ n _)

theorem Apart.autoRecorded (s : State) (n : LineId) (m : EntryId) (k : RecordingKind) (b : Bool) : Apart p n s (s.autoRecorded n m k b) :=
  (Apart.beginRecording s n m k b).trans (Apart.onLine _ n _)

theorem Kept.autoRecorded (hr : p ≠ .record) (hs : p ≠ .step) (s : State) (n : LineId) (m : EntryId) (k : RecordingKind) (b : Bool) :
    Kept p s (s.autoRecorded n m k b) := (Kept.refl.beginRecording hr n m k b).onSeqStep hs n

theorem State.recording_finishRecording (s : State) (n : LineId) (r : EndReason) :
    ((s.finishRecording n r).line n).voice.recording = none := by
  unfold State.finishRecording; dsimp only; repeat' split
  · assumption
  · simp
  · rw [(Kept.refl.answer _ _ _ _ _).recording]; simp

/-! ## The call-end sequence -/

theorem Apart.voiceTeardown (s : State) (n : LineId) (o : CallOutcome) : Apart p n s (s.voiceTeardown n o) := by
  unfold State.voiceTeardown; dsimp only
  generalize (if o = .remoteCleared then EndReason.remote else .cleared) = r; split
  · exact Apart.finishRecording s n _
  · exact (Apart.finishRecording s n _).trans (Apart.finishPlay _ n _ _ _)

theorem State.playOf_voiceTeardown (s : State) (n : LineId) (o : CallOutcome) :
    ((s.voiceTeardown n o).line n).voice.play = .none := by
  unfold State.voiceTeardown; dsimp only
  generalize (if o = .remoteCleared then EndReason.remote else .cleared) = r; split
  · assumption
  · exact State.playOf_finishPlay _ n _ _ _

theorem State.recording_voiceTeardown (s : State) (n : LineId) (o : CallOutcome) :
    ((s.voiceTeardown n o).line n).voice.recording = none := by
  unfold State.voiceTeardown; dsimp only
  generalize (if o = .remoteCleared then EndReason.remote else .cleared) = r; split
  · exact s.recording_finishRecording n _
  · rw [(Kept.finishPlay (p := .record) .refl nofun n _ _ _).recording]
    exact s.recording_finishRecording n _

theorem Apart.linkTeardown (s : State) (n : LineId) (o : CallOutcome) : Apart p n s (s.linkTeardown n o) := by
  unfold State.linkTeardown; dsimp only; split
  · exact (Apart.onLine s n _).trans (((Kept.foldl (fun _ c k => k.returnChain n o c) .refl _).deliverData n).closeData n).apart
  · exact Kept.refl.apart

theorem Kept.opens (h : Kept .link s t) (m : LineId) : (t.line m).opens ↔ (s.line m).opens := h.opening m

/-- The link of a data call does not open after its teardown. -/
theorem State.opens_linkTeardown (s : State) (n : LineId) (o : CallOutcome) (h : ((s.linkTeardown n o).line n).opens) :
    (s.line n).opens ∧ (s.line n).call.service ≠ .data := by
  unfold State.linkTeardown at h; dsimp only at h; split at h
  · generalize hx : s.onLink n _ = x at h
    have closed := ((((Kept.foldl (f := fun s c => s.returnChain n o c) (fun _ c k => k.returnChain n o c) (.refl (s := x))
      (s.line n).link.sendList).deliverData n).closeData n).opening n).mp h
    rw [← hx] at closed
    simp at closed
  · exact ⟨h, ‹_›⟩

/-- The call-end sequence up to its teardowns. -/
def State.tornDown (s : State) (n : LineId) (o : CallOutcome) : State :=
  ((((s.releasePump n).onGrade n Grade.ended).linkTeardown n o).faxTeardown n o).voiceTeardown n o

/-- After the teardowns and the end of the units, the call-end sequence changes no part. -/
theorem Still.callEnd (s : State) (n : LineId) (o : CallOutcome) : Still ((s.tornDown n o).stopUnits n) (s.callEnd n o) := fun _ =>
  ((Kept.refl.answerCallCards n o).onCall n).raise n _

theorem Kept.tornDown (s : State) (n : LineId) (o : CallOutcome) (hl : p ≠ .link) (hp : p ≠ .play) (hr : p ≠ .record) :
    Kept p (s.releasePump n) (s.tornDown n o) :=
  (((Kept.refl.onGrade n _).linkTeardown hl n o).faxTeardown n o).voiceTeardown hp hr n o

/-- The pool after the call-end sequence is the one that the release of the pump left. -/
theorem Kept.callEnd_pool (s : State) (n : LineId) (o : CallOutcome) : Kept .pool (s.releasePump n) (s.callEnd n o) :=
  ((Kept.tornDown (p := .pool) s n o nofun nofun nofun).stopUnits nofun nofun nofun n).trans (Still.callEnd s n o _)

theorem Apart.callEnd (s : State) (n : LineId) (o : CallOutcome) (hp : p ≠ .pool) : Apart p n s (s.callEnd n o) :=
  have torn : Apart p n s (s.tornDown n o) :=
    ((((Kept.refl.releasePump hp n).onGrade n _).apart.trans (Apart.linkTeardown _ n o)).trans (Kept.refl.faxTeardown n o).apart).trans
      (Apart.voiceTeardown _ n o)
  (torn.trans (Apart.onLine _ n _)).trans (Still.callEnd s n o p).apart

/-- Line `n` after its call-end sequence. -/
structure Line.Ended (l k : Line) : Prop where
  state : k.call.state = l.call.state
  service : k.call.service = .none
  settles : k.settles = false
  listening : k.seq.listening = false
  step : k.seq.step = .host
  play : k.voice.play = .none
  recording : k.voice.recording = none
  opens : k.opens → l.opens ∧ l.call.service ≠ .data

theorem State.line_stopUnits (s : State) (n : LineId) :
    (s.stopUnits n).line n =
      { s.line n with
        call := { (s.line n).call with service := .none }
        seq := .initial
        dialler := { (s.line n).dialler with phase := .idle, timer := .stopped }
        prog := { (s.line n).prog with pathTimer := .stopped } } := State.line_onLine_self s n _

/-- The link after the teardowns opens only where it is not of a data call. -/
theorem State.opens_tornDown (s : State) (n : LineId) (o : CallOutcome) (h : ((s.tornDown n o).line n).opens) :
    (s.line n).opens ∧ (s.line n).call.service ≠ .data := by
  have released : ∀ p, p ≠ .pool → Kept p s ((s.releasePump n).onGrade n Grade.ended) := fun _ hp => (Kept.refl.releasePump hp n).onGrade n _
  have torn : Kept .link (((s.releasePump n).onGrade n Grade.ended).linkTeardown n o) (s.tornDown n o) := by
    unfold State.tornDown
    exact (Kept.faxTeardown (p := .link) .refl n o).voiceTeardown nofun nofun n o
  obtain ⟨opens, service⟩ := State.opens_linkTeardown _ n o ((torn.opens n).mp h)
  rw [(released .call nofun).service] at service
  exact ⟨((released .link nofun).opens n).mp opens, service⟩

theorem State.playOf_tornDown (s : State) (n : LineId) (o : CallOutcome) : ((s.tornDown n o).line n).voice.play = .none := by
  unfold State.tornDown
  exact State.playOf_voiceTeardown _ n o

theorem State.recording_tornDown (s : State) (n : LineId) (o : CallOutcome) : ((s.tornDown n o).line n).voice.recording = none := by
  unfold State.tornDown
  exact State.recording_voiceTeardown _ n o

theorem Still.ended {l : Line} {x : State} (after : Still (x.stopUnits n) t) (state : (x.line n).call.state = l.call.state)
    (play : (x.line n).voice.play = .none) (recording : (x.line n).voice.recording = none)
    (opens : (x.line n).opens → l.opens ∧ l.call.service ≠ .data) : l.Ended (t.line n) := by
  have stopped := x.line_stopUnits n
  constructor
  case state => rw [(after _).state, stopped]; exact state
  case service => rw [(after _).service, stopped]
  case settles =>
    change (t.line n).seq.settleTimer.isRunning = false
    rw [(after _).settles, stopped]
    rfl
  case listening => rw [(after _).listening, stopped]; rfl
  case step => rw [(after _).stepOf, stopped]; rfl
  case play => rw [(after _).playOf, stopped]; exact play
  case recording => rw [(after _).recording, stopped]; exact recording
  case opens =>
    intro h
    have h := ((after _).opening n).mp h
    rw [stopped] at h
    exact opens h

theorem State.line_callEnd (s : State) (n : LineId) (o : CallOutcome) : (s.line n).Ended ((s.callEnd n o).line n) :=
  (Still.callEnd s n o).ended
    ((Kept.trans (Kept.releasePump (p := .call) .refl nofun n) (Kept.tornDown s n o nofun nofun nofun)).state n)
    (s.playOf_tornDown n o) (s.recording_tornDown n o) (s.opens_tornDown n o)

end Sys2Proof.Machine

/-! The law of plays: a slot's play count is the number of lines that play it (08 R144, R146, R147). -/

namespace Sys2Proof.Machine

set_option Elab.async false

variable {s t u : State} {n : LineId}

/-! ## The two halves of the law -/

/-- The number of lines that play a slot. -/
def State.plays (s : State) (g : SlotId) : Nat := (allLines.filter fun n => decide ((s.line n).voice.play = .slot g)).length

/-- What the law says of a slot that `k` lines play. -/
structure Slot.Fits (x : Slot) (k : Nat) : Prop where
  counted : x.playCount = k
  withdrawing : x.state = .withdrawing → 1 ≤ x.playCount
  empty : x.state = .empty → x.playCount = 0 ∧ x.chain = []

/-- What the law says of the slots. -/
def State.SlotsInOrder (s : State) : Prop := ∀ g, (s.slot g).Fits (s.plays g)

/-- What the law says of each line. -/
structure Line.PlayFits (l : Line) : Prop where
  connected : l.voice.play ≠ .none → l.connectedAs .voice = true
  opening : l.opens → l.call.state = .training ∧ l.call.service = .data

theorem State.playsInOrder_iff : s.PlaysInOrder ↔ s.SlotsInOrder ∧ ∀ n, (s.line n).PlayFits :=
  ⟨fun h => ⟨fun g => ⟨h.counted g, h.withdrawing g, h.empty g⟩, fun n => ⟨h.connected n, h.opening n⟩⟩,
    fun ⟨slots, lines⟩ => ⟨fun g => (slots g).counted, fun g => (slots g).withdrawing, fun g => (slots g).empty,
      fun n => (lines n).connected, fun n => (lines n).opening⟩⟩

/-! ## Counting plays -/

/-- A change of what line `n` plays changes the counts of the two plays alone. -/
theorem State.plays_update (a : Apart .play n s t) (g : SlotId) :
    t.plays g + (if (s.line n).voice.play = .slot g then 1 else 0) = s.plays g + (if (t.line n).voice.play = .slot g then 1 else 0) := by
  have same : ∀ m, m ≠ n → (t.line m).voice.play = (s.line m).voice.play := a
  simp only [State.plays, allLines, List.filter_cons, List.filter_nil]
  fin_cases n <;> simp only [Fin.zero_eta, Fin.mk_one, Fin.reduceFinMk] at same ⊢
  · rw [same 1 (by decide), same 2 (by decide), same 3 (by decide)]; grind
  · rw [same 0 (by decide), same 2 (by decide), same 3 (by decide)]; grind
  · rw [same 0 (by decide), same 1 (by decide), same 3 (by decide)]; grind
  · rw [same 0 (by decide), same 1 (by decide), same 2 (by decide)]; grind

theorem State.plays_congr (h : ∀ m, (t.line m).voice.play = (s.line m).voice.play) (g : SlotId) : t.plays g = s.plays g := by
  simp only [State.plays, h]

theorem Slot.Fits.congr {x y : Slot} {k : Nat} (h : x.Fits k) (state : y.state = x.state) (count : y.playCount = x.playCount)
    (chain : y.chain = x.chain) : y.Fits k where
  counted := count.trans h.counted
  withdrawing := by rw [state, count]; exact h.withdrawing
  empty := by rw [state, count, chain]; exact h.empty

theorem Slot.fits_initial : Slot.initial.Fits 0 := ⟨rfl, nofun, fun _ => ⟨rfl, rfl⟩⟩

theorem State.SlotsInOrder.kept (h : s.SlotsInOrder) (k : Kept .play s t) : t.SlotsInOrder := fun g => by
  rw [State.plays_congr k.playOf]
  exact (h g).congr (k.slotState g) (k.playCount g) (k.slotChain g)

/-! ## Plays and slots that start and end -/

/-- A slot changed, the others within the law. -/
theorem State.SlotsInOrder.onSlot {g : SlotId} {f : Slot → Slot} (h : ∀ k, k ≠ g → (s.slot k).Fits (s.plays k))
    (hf : (f (s.slot g)).Fits (s.plays g)) : (s.onSlot g f).SlotsInOrder := fun k => by
  rw [State.slot_onSlot, State.plays_congr fun _ => rfl]
  split
  next e => rw [e]; exact hf
  next e => exact h k e

theorem State.SlotsInOrder.emptySlot {g : SlotId} (h : ∀ k, k ≠ g → (s.slot k).Fits (s.plays k)) (quiet : s.plays g = 0) :
    (s.emptySlot g).SlotsInOrder := by
  refine State.SlotsInOrder.kept (s := s.onSlot g fun _ => .initial) (State.SlotsInOrder.onSlot h ?_) (Kept.refl.freeBlocks _)
  rw [quiet]
  exact Slot.fits_initial

/-- A play of slot `g` is over: the count falls, and a withdrawal is completed where none is left. -/
theorem State.SlotsInOrder.slotPlayEnds {g : SlotId} (h : ∀ k, k ≠ g → (s.slot k).Fits (s.plays k))
    (fits : (s.slot g).Fits (s.plays g + 1)) : (s.slotPlayEnds g).SlotsInOrder := by
  unfold State.slotPlayEnds; dsimp only; split
  next last =>
    have emptied := State.SlotsInOrder.emptySlot h (by have := fits.counted; omega)
    split
    · exact emptied.kept (Kept.refl.answer _ _ _ _ _)
    · exact emptied
  next more =>
    refine State.SlotsInOrder.onSlot h ⟨?_, fun w => ?_, fun e => ?_⟩
    · have := fits.counted
      change (s.slot g).playCount - 1 = _
      omega
    · have := fits.withdrawing w
      simp only [show (s.slot g).state = .withdrawing from w, true_and] at more
      change 1 ≤ (s.slot g).playCount - 1
      omega
    · have := (fits.empty e).1
      have := fits.counted
      omega

theorem State.SlotsInOrder.finishPlay (h : s.SlotsInOrder) (n : LineId) (e : PlayEnd) (st : Status) (r : Nat) :
    (s.finishPlay n e st r).SlotsInOrder := by
  refine State.SlotsInOrder.kept ?_ (Kept.finishPlayAnswer s n e st r)
  generalize hx : s.onVoice n (fun v => { v with play := .none, playCard := none, playChain := [], playTotal := 0 }) = x
  have slots : ∀ k, x.slot k = s.slot k := fun k => by rw [← hx, State.slot_onVoice]
  have apart : Apart .play n s x := hx ▸ Apart.onLine s n _
  have silent : (x.line n).voice.play = .none := by rw [← hx, State.line_onVoice_self]
  have counts := State.plays_update apart
  rw [silent] at counts
  unfold State.playReturns; split
  next none =>
    have plays : ∀ k, x.plays k = s.plays k := fun k => by simpa [none] using counts k
    exact fun k => by rw [slots, plays]; exact h k
  next g playing =>
    refine State.SlotsInOrder.slotPlayEnds (fun k other => ?_) ?_
    · have plays : x.plays k = s.plays k := by simpa [playing, other.symm] using counts k
      rw [slots, plays]; exact h k
    · have plays : x.plays g + 1 = s.plays g := by simpa [playing] using counts g
      rw [slots, plays]; exact h g
  next c playing =>
    have plays : ∀ k, x.plays k = s.plays k := fun k => by simpa [playing] using counts k
    exact State.SlotsInOrder.kept (fun k => by rw [slots, plays]; exact h k) (Kept.refl.giveBlocks _ _)

theorem State.SlotsInOrder.voiceTeardown (h : s.SlotsInOrder) (n : LineId) (o : CallOutcome) : (s.voiceTeardown n o).SlotsInOrder := by
  unfold State.voiceTeardown; dsimp only
  generalize (if o = .remoteCleared then EndReason.remote else .cleared) = r
  have recorded := h.kept (Kept.finishRecording (p := .play) .refl nofun n r)
  split
  · exact recorded
  · exact recorded.finishPlay n _ _ _

theorem State.SlotsInOrder.beginPlay (h : s.SlotsInOrder) (n : LineId) (x : Play) (c : Chain) (k : Nat) (card : Option Nat)
    (quiet : (s.line n).voice.play = .none) (loaded : ∀ g, x = .slot g → (s.slot g).state = .loaded) :
    (s.beginPlay n x c k card).SlotsInOrder := by
  unfold State.beginPlay; dsimp only
  generalize hy : s.onVoice n _ = y
  have slots : ∀ k, y.slot k = s.slot k := fun k => by rw [← hy, State.slot_onVoice]
  have apart : Apart .play n s y := hy ▸ Apart.onLine s n _
  have playing : (y.line n).voice.play = x := by rw [← hy, State.line_onVoice_self]
  have counts := State.plays_update apart
  rw [quiet, playing] at counts
  split
  next g =>
    refine State.SlotsInOrder.onSlot (fun k other => ?_) ?_
    · have plays : y.plays k = s.plays k := by simpa [other.symm] using counts k
      rw [slots, plays]; exact h k
    · have plays : y.plays g = s.plays g + 1 := by simpa using counts g
      have state := loaded g rfl
      rw [slots, plays, ← (h g).counted]
      exact ⟨rfl, by simp [state], by simp [state]⟩
  next other =>
    have plays : ∀ k, y.plays k = s.plays k := fun k => by simpa [show x ≠ .slot k from other k] using counts k
    exact fun k => by rw [slots, plays]; exact h k

/-! ## Every move keeps the law -/

theorem Line.PlayFits.congr {l k : Line} (h : l.PlayFits) (call : Part.call.ofLine k = Part.call.ofLine l)
    (play : k.voice.play = l.voice.play) (opens : k.opens ↔ l.opens) : k.PlayFits := by
  have state : k.call.state = l.call.state := congrArg Prod.fst call
  have service : k.call.service = l.call.service := congrArg (Prod.fst ∘ Prod.snd) call
  refine ⟨?_, ?_⟩
  · rw [play, Line.connectedAs, state, service]; exact h.connected
  · rw [opens, state, service]; exact h.opening

theorem Line.PlayFits.kept (h : (s.line n).PlayFits) (call : Kept .call s t) (play : Kept .play s t) (link : Kept .link s t) :
    (t.line n).PlayFits := h.congr (call.lines n) (play.playOf n) (link.opens n)

/-- The lines keep to the law when line `n` does and what the law reads of the others stays. -/
theorem Line.PlayFits.apart (h : ∀ m, (s.line m).PlayFits) (a : ∀ p, p ≠ .pool → Apart p n s t) (self : (t.line n).PlayFits) :
    ∀ m, (t.line m).PlayFits := fun m => by
  by_cases e : m = n
  · rw [e]; exact self
  · exact (h m).congr (a .call nofun m e) (a .play nofun m e) (decide_eq_decide.mp (a .link nofun m e))

theorem Line.PlayFits.sameCall {l k : Line} (h : l.PlayFits) (call : l.SameCall k) (play : k.voice.play = l.voice.play)
    (opens : k.opens ↔ l.opens) : k.PlayFits := by
  refine ⟨?_, ?_⟩
  · rw [play, Line.connectedAs, call.1, call.2]; exact h.connected
  · rw [opens, call.1, call.2]; exact h.opening

theorem Line.PlayFits.silent {l : Line} (h : l.PlayFits) (off : l.connectedAs .voice = false) : l.voice.play = .none := by
  by_contra playing
  exact absurd (h.connected playing) (by simp [off])

theorem Line.not_connectedAs {l : Line} (v : Service) (h : l.call.state ≠ .connected) : l.connectedAs v = false := by
  simp [Line.connectedAs, h]

theorem LineState.rests.not_connected {st : LineState} (h : st.rests) : st ≠ .connected := by
  rintro rfl; exact absurd h.2 (by decide)

theorem LineState.rests.not_training {st : LineState} (h : st.rests) : st ≠ .training := by
  rintro rfl; exact absurd h.2 (by decide)

theorem Line.PlayFits.rests {l k : Line} (h : l.PlayFits) (rest : l.call.state.rests) (fresh : l.Fresh k)
    (play : k.voice.play = l.voice.play) : k.PlayFits :=
  ⟨fun p => absurd (play.trans (h.silent (Line.not_connectedAs _ rest.not_connected))) p,
    fun o => absurd (h.opening (fresh.opens o)).1 rest.not_training⟩

theorem Line.PlayFits.answers {l k : Line} (h : l.PlayFits) (a : l.Answers k) : k.PlayFits :=
  ⟨fun _ => a.connected, fun o => absurd (h.opening (a.opens.mp o)).1 (by simp [a.state])⟩

theorem LineMove.playFits {served : Prop} {l k : Line} (h : l.PlayFits) (m : LineMove served l k) (play : k.voice.play = l.voice.play) :
    k.PlayFits := by
  have silent : l.call.state ≠ .connected → k.voice.play = .none := fun off => play.trans (h.silent (Line.not_connectedAs _ off))
  cases m with
  | rests rest fresh => exact h.rests rest fresh play
  | settles rest state listening step opens =>
    exact ⟨fun p => absurd (silent rest.not_connected) p, fun o => absurd (h.opening (opens.mp o)).1 rest.not_training⟩
  | answers a => exact h.answers a
  | goesOn step call settles listening hears opens => exact h.sameCall call play opens
  | hushed call settles listening step opens => exact h.sameCall call play opens
  | opens training data call seq =>
    exact ⟨fun p => absurd (silent (by simp [training])) p, fun _ => ⟨call.1.trans training, call.2.trans data⟩⟩
  | goes here there seq opens =>
    refine ⟨fun p => absurd (play.trans ?_) p, fun o => absurd (h.opening (opens o).1) (opens o).2⟩
    obtain ⟨off, -⟩ | ⟨opens, -⟩ := here
    · exact h.silent off
    · exact h.silent (Line.not_connectedAs _ (by simp [(h.opening opens).1]))
  | switched state step quiet pump there settles listening host opens =>
    exact ⟨fun p => absurd (play.trans quiet) p, fun o => absurd (h.opening (opens.mp o)).1 (by simp [state])⟩

theorem Apart.beginPlay (s : State) (n : LineId) (x : Play) (c : Chain) (k : Nat) (card : Option Nat) {p : Part} :
    Apart p n s (s.beginPlay n x c k card) := by
  unfold State.beginPlay; dsimp only; split
  · exact fun m hm => by rw [State.line_onSlot]; exact Apart.onLine s n _ m hm
  · exact Apart.onLine s n _

/-- A play begun leaves its line within the law where the line is in CONNECTED-VOICE. -/
theorem Line.PlayFits.beginPlay (h : (s.line n).PlayFits) (voice : (s.line n).connectedAs .voice = true) (x : Play) (c : Chain) (k : Nat)
    (card : Option Nat) : ((s.beginPlay n x c k card).line n).PlayFits := by
  have call := Kept.beginPlay (p := .call) .refl nofun n x c k card (s₀ := s)
  have link := Kept.beginPlay (p := .link) .refl nofun n x c k card (s₀ := s)
  refine ⟨fun _ => by rw [call.connectedAs]; exact voice, fun o => ?_⟩
  rw [call.state, call.service]
  exact h.opening ((link.opens n).mp o)

theorem Line.PlayFits.finishPlay (h : (s.line n).PlayFits) (e : PlayEnd) (st : Status) (r : Nat) :
    ((s.finishPlay n e st r).line n).PlayFits := by
  have call := Kept.finishPlay (p := .call) .refl nofun n e st r (s₀ := s)
  have link := Kept.finishPlay (p := .link) .refl nofun n e st r (s₀ := s)
  refine ⟨fun p => absurd (s.playOf_finishPlay n e st r) p, fun o => ?_⟩
  rw [call.state, call.service]
  exact h.opening ((link.opens n).mp o)

/-- A call ended leaves its line within the law, whatever state the line enters then. -/
theorem Line.PlayFits.ended {l i k j : Line} (h : l.PlayFits) (e : i.Ended k) (service : i.call.service = l.call.service)
    (before : i.opens ↔ l.opens) (play : j.voice.play = k.voice.play) (opens : j.opens → k.opens) : j.PlayFits := by
  refine ⟨fun p => absurd (play.trans e.play) p, fun o => ?_⟩
  obtain ⟨opening, other⟩ := e.opens (opens o)
  exact absurd (h.opening (before.mp opening)).2 (service ▸ other)

theorem State.SlotsInOrder.callEnd (h : s.SlotsInOrder) (n : LineId) (o : CallOutcome) : (s.callEnd n o).SlotsInOrder := by
  have quiet : Kept .play s ((((s.releasePump n).onGrade n Grade.ended).linkTeardown n o).faxTeardown n o) :=
    (((Kept.releasePump (p := .play) .refl nofun n).onGrade n _).linkTeardown nofun n o).faxTeardown n o
  have torn : (s.tornDown n o).SlotsInOrder := by
    unfold State.tornDown
    exact (h.kept quiet).voiceTeardown n o
  exact (torn.kept (Kept.stopUnits (p := .play) .refl nofun nofun nofun n)).kept (Still.callEnd s n o _)

theorem Move.keeps_plays (h : s.PlaysInOrder) (m : Move s t) : t.PlaysInOrder := by
  rw [State.playsInOrder_iff] at h ⊢
  obtain ⟨slots, lines⟩ := h
  have keep : ∀ {t}, Kept .call s t → Kept .play s t → Kept .link s t → t.SlotsInOrder ∧ ∀ n, (t.line n).PlayFits := fun c p l =>
    ⟨slots.kept p, fun n => (lines n).kept c p l⟩
  have kept : ∀ {t}, (∀ p, p ≠ .pool → Kept p s t) → t.SlotsInOrder ∧ ∀ n, (t.line n).PlayFits := fun k =>
    keep (k _ nofun) (k _ nofun) (k _ nofun)
  cases m with
  | still same => exact kept fun p _ => same p
  | inLine n within move =>
    exact ⟨slots.kept within.play, Line.PlayFits.apart lines (fun _ _ => within.apart) (move.playFits (lines n) (within.play.playOf n))⟩
  | ended n o u before service seq opens after fresh =>
    exact ⟨(slots.kept before.play).callEnd n o |>.kept after.play, Line.PlayFits.apart lines
      (fun _ hp => (before.apart.trans (Apart.callEnd u n o hp)).trans after.apart)
      ((lines n).ended (u.line_callEnd n o) service opens (after.play.playOf n) fresh.opens)⟩
  | claims n c u within rest fresh there =>
    have placed : ∀ p, p ≠ .pool → Kept p u (u.placeClaim n c) := fun p hp => Kept.refl.placeClaim hp n c
    exact ⟨(slots.kept within.play).kept (placed _ nofun), Line.PlayFits.apart lines (fun p hp => within.apart.trans (placed p hp).apart)
      (((lines n).rests rest fresh (within.play.playOf n)).kept (placed _ nofun) (placed _ nofun) (placed _ nofun))⟩
  | switches n c u within listens call settles deaf opens =>
    have placed : ∀ p, p ≠ .pool → Kept p u (u.placeClaim n c) := fun p hp => Kept.refl.placeClaim hp n c
    exact ⟨(slots.kept within.play).kept (placed _ nofun), Line.PlayFits.apart lines (fun p hp => within.apart.trans (placed p hp).apart)
      (((lines n).sameCall call (within.play.playOf n) opens).kept (placed _ nofun) (placed _ nofun) (placed _ nofun))⟩
  | drops n => exact kept fun p hp => Kept.refl.dropClaim hp n
  | attaches p n settling line => exact kept fun _ hp => Kept.attached hp s p n _
  | frees q settling line => exact kept fun p hp => (Kept.refl.onPumpAny hp _ _).arbitrate hp
  | out q settling line => exact kept fun p hp => Kept.refl.onPumpAny hp _ _
  | requeues p n c w settling line claim dry => exact kept fun _ hp => Kept.requeued hp s p n c w
  | regrants p n c w settling line claim => exact kept fun _ hp => (Kept.requeued hp s p n c w).arbitrate hp
  | loses p n attached line => exact kept fun _ hp => Kept.lost hp s p n _
  | greets n g c k card u within answers loaded =>
    have silent : (u.line n).voice.play = .none := (within.play.playOf n).trans ((lines n).silent (Line.not_connectedAs _ (by simp [answers.state])))
    refine ⟨(slots.kept within.play).beginPlay n _ c k card silent (fun _ e => by cases e; exact loaded),
      Line.PlayFits.apart lines (fun _ _ => within.apart.trans (Apart.beginPlay u n _ c k card)) ?_⟩
    exact ((lines n).answers answers).beginPlay answers.connected _ c k card
  | answersRecording n m k b u within answers deaf empty =>
    have recorded := fun p hr hs => Kept.autoRecorded (p := p) hr hs u n m k b
    exact ⟨(slots.kept within.play).kept (recorded _ nofun nofun), Line.PlayFits.apart lines
      (fun p hp => within.apart.trans (Apart.autoRecorded u n m k b))
      (((lines n).answers answers).kept (recorded _ nofun nofun) (recorded _ nofun nofun) (recorded _ nofun nofun))⟩
  | autoRecords n m k b step deaf empty =>
    have recorded := fun p hr hs => Kept.autoRecorded (p := p) hr hs s n m k b
    exact keep (recorded _ nofun nofun) (recorded _ nofun nofun) (recorded _ nofun nofun)
  | records n m k b voice host none empty =>
    have recorded := fun p hr => Kept.beginRecording (p := p) .refl hr n m k b (s₀ := s)
    exact keep (recorded _ nofun) (recorded _ nofun) (recorded _ nofun)
  | recordingEnds n r recording within call settles listening step opens =>
    have finished : ∀ p, p ≠ .record → Kept p s (s.finishRecording n r) := fun p hp => Kept.refl.finishRecording hp n r
    have self := ((lines n).kept (finished _ nofun) (finished _ nofun) (finished _ nofun)).sameCall call (within.play.playOf n) opens
    exact ⟨(slots.kept (finished _ nofun)).kept within.play, Line.PlayFits.apart lines
      (fun _ _ => (Apart.finishRecording s n r).trans within.apart) self⟩
  | plays n x c k card voice quiet some loaded =>
    exact ⟨slots.beginPlay n x c k card quiet loaded, Line.PlayFits.apart lines (fun _ _ => Apart.beginPlay s n x c k card)
      ((lines n).beginPlay voice x c k card)⟩
  | playEnds n e st r =>
    exact ⟨slots.finishPlay n e st r, Line.PlayFits.apart lines (fun _ _ => Apart.finishPlay s n e st r) ((lines n).finishPlay e st r)⟩
  | loads g c k empty =>
    refine ⟨State.SlotsInOrder.onSlot (fun k _ => slots k) ⟨?_, nofun, nofun⟩, lines⟩
    exact ((slots g).empty empty).1.symm.trans (slots g).counted
  | empties g quiet =>
    have emptied : ∀ p, p ≠ .play → Kept p s (s.emptySlot g) := fun p hp => Kept.refl.emptySlot hp g
    refine ⟨State.SlotsInOrder.emptySlot (fun k _ => slots k) ((slots g).counted.symm.trans quiet), fun n => ?_⟩
    exact (lines n).congr ((emptied .call nofun).lines n) (s.playOf_emptySlot g n) ((emptied .link nofun).opens n)
  | withdraws g i plays =>
    refine ⟨State.SlotsInOrder.onSlot (fun k _ => slots k) ⟨(slots g).counted, fun _ => ?_, nofun⟩, lines⟩
    exact Nat.one_le_iff_ne_zero.mpr plays
  | collects m complete =>
    have cleared := fun p hr => Kept.onMessageAny (p := p) (.refl (s := s)) hr m fun x => .initial x.changeCount
    exact keep (cleared _ nofun) (cleared _ nofun) (cleared _ nofun)

theorem Path.keeps_plays (h : Path s t) (k : s.PlaysInOrder) : t.PlaysInOrder := by
  induction h with
  | refl => exact k
  | tail _ m ih => exact m.keeps_plays ih

theorem State.PlaysInOrder.withQueue (h : s.PlaysInOrder) (q : List Instr) : (s.withQueue q).PlaysInOrder :=
  ⟨h.counted, h.withdrawing, h.empty, h.connected, h.opening⟩

/-- Settles O4: every command but an engine reset is a chain of moves, each of which keeps the counts; a reset ends every play. -/
theorem everyStepKeepsPlaysCounted : Obligations.EveryStepKeepsPlaysCounted := by
  unfold Obligations.EveryStepKeepsPlaysCounted
  intro s t hs h
  refine step_keeps (P := State.PlaysInOrder) (fun s q k => k.withQueue q) (fun c s t k e => ?_) hs h
  obtain ⟨z, rfl⟩ | path := exec_path e
  · exact State.playsInOrder_engineReset s z
  · exact path.keeps_plays k

end Sys2Proof.Machine

/-! The law of recordings: an entry is RECORDING exactly for the line whose recording it is (08 R137, R139). -/

namespace Sys2Proof.Machine

set_option Elab.async false

variable {s t u : State} {n : LineId}

/-! ## The two halves of the law -/

/-- What the law says of the entries. -/
def State.EntriesInOrder (s : State) : Prop :=
  ∀ n m, (s.line n).voice.recording = some m ↔ (s.message m).state = .recording ∧ (s.message m).line = n

/-- What the law says of each line. -/
structure Line.RecordFits (l : Line) : Prop where
  connected : l.voice.recording ≠ none → l.connectedAs .voice = true ∧ (l.seq.step = .host ∨ l.seq.step = .recording)
  listens : l.seq.listening = true → l.seq.step.hears
  sequence : l.seq.step ≠ .host → l.connectedAs .voice = true
  opening : l.opens → l.call.state = .training ∧ l.call.service = .data

theorem State.recordingsInOrder_iff : s.RecordingsInOrder ↔ s.EntriesInOrder ∧ ∀ n, (s.line n).RecordFits :=
  ⟨fun h => ⟨h.one, fun n => ⟨h.connected n, h.listens n, h.sequence n, h.opening n⟩⟩,
    fun ⟨entries, lines⟩ => ⟨entries, fun n => (lines n).connected, fun n => (lines n).listens, fun n => (lines n).sequence,
      fun n => (lines n).opening⟩⟩

/-! ## Entries -/

theorem State.EntriesInOrder.kept (h : s.EntriesInOrder) (k : Kept .record s t) : t.EntriesInOrder := fun n m => by
  rw [k.recording, k.messageState, k.messageLine]
  exact h n m

theorem State.recording_beginRecording (s : State) (n i : LineId) (m : EntryId) (k : RecordingKind) (b : Bool) :
    ((s.beginRecording n m k b).line i).voice.recording = if i = n then some m else (s.line i).voice.recording := by
  unfold State.beginRecording State.onVoice; dsimp only
  rw [State.line_onLine]
  split <;> rfl

theorem State.message_beginRecording (s : State) (n : LineId) (m j : EntryId) (k : RecordingKind) (b : Bool) :
    ((s.beginRecording n m k b).message j).state = (if j = m then .recording else (s.message j).state) ∧
    ((s.beginRecording n m k b).message j).line = if j = m then n else (s.message j).line := by
  unfold State.beginRecording; dsimp only
  rw [State.message_onVoice, State.message_onHdr, State.message_onMessage]
  split <;> exact ⟨rfl, rfl⟩

/-- An entry filled for a line without a recording. -/
theorem State.EntriesInOrder.beginRecording (h : s.EntriesInOrder) {m : EntryId} (quiet : (s.line n).voice.recording = none)
    (empty : (s.message m).state = .empty) (k : RecordingKind) (b : Bool) : (s.beginRecording n m k b).EntriesInOrder := by
  intro i j
  have free := h i m
  have other := h n j
  have same := h i j
  rw [State.recording_beginRecording, (State.message_beginRecording ..).1, (State.message_beginRecording ..).2]
  grind

/-- What the end of a recording leaves of the entries and of the recordings in progress. -/
structure RecordingEnded (n : LineId) (m : EntryId) (s t : State) : Prop where
  recording : ∀ i, (t.line i).voice.recording = if i = n then none else (s.line i).voice.recording
  state : ∀ j, (t.message j).state = if j = m then .complete else (s.message j).state
  line : ∀ j, (t.message j).line = (s.message j).line

theorem RecordingEnded.of_onVoice (s : State) (n : LineId) (m : EntryId) {f : Message → Message} {g : Voice → Voice}
    (state : ∀ x, (f x).state = .complete) (line : ∀ x, (f x).line = x.line) (recording : ∀ v, (g v).recording = none) :
    RecordingEnded n m s (((s.onMessage m f).onVoice n g).raise n .message) where
  recording i := by
    by_cases e : i = n
    · subst e; simp [recording]
    · simp [e]
  state j := by
    rw [State.message_raise, State.message_onVoice, State.message_onMessage]
    split
    · exact state _
    · rfl
  line j := by
    rw [State.message_raise, State.message_onVoice, State.message_onMessage]
    split
    next e => rw [e]; exact line _
    next => rfl

theorem RecordingEnded.kept {m : EntryId} (h : RecordingEnded n m s t) (k : Kept .record t u) : RecordingEnded n m s u where
  recording i := (k.recording i).trans (h.recording i)
  state j := (k.messageState j).trans (h.state j)
  line j := (k.messageLine j).trans (h.line j)

theorem State.finishRecording_ended {m : EntryId} (e : (s.line n).voice.recording = some m) (r : EndReason) :
    RecordingEnded n m s (s.finishRecording n r) := by
  unfold State.finishRecording
  rw [e]; dsimp only; split
  · exact RecordingEnded.of_onVoice s n m (by exact fun _ => rfl) (by exact fun _ => rfl) (by exact fun _ => rfl)
  · refine RecordingEnded.kept ?_ (Kept.refl.answer _ _ _ _ _)
    exact RecordingEnded.of_onVoice s n m (by exact fun _ => rfl) (by exact fun _ => rfl) (by exact fun _ => rfl)

theorem State.EntriesInOrder.finishRecording (h : s.EntriesInOrder) (n : LineId) (r : EndReason) :
    (s.finishRecording n r).EntriesInOrder := by
  cases e : (s.line n).voice.recording with
  | none =>
    have idle : s.finishRecording n r = s := by unfold State.finishRecording; rw [e]
    rw [idle]; exact h
  | some m =>
    have ended := s.finishRecording_ended e r
    intro i j
    have self := (h n m).mp e
    have same := h i j
    have other := h i m
    rw [ended.recording, ended.state, ended.line]
    grind

theorem State.EntriesInOrder.clearMessage (h : s.EntriesInOrder) {m : EntryId} (done : (s.message m).state ≠ .recording) :
    (s.clearMessage m).EntriesInOrder := by
  intro i j
  have old := h i j
  unfold State.clearMessage
  rw [State.line_onMessage, State.message_onMessage]
  split
  next e => rw [old, e]; exact ⟨fun k => absurd k.1 done, nofun⟩
  next => exact old

theorem State.EntriesInOrder.callEnd (h : s.EntriesInOrder) (n : LineId) (o : CallOutcome) : (s.callEnd n o).EntriesInOrder := by
  have quiet : Kept .record s ((((s.releasePump n).onGrade n Grade.ended).linkTeardown n o).faxTeardown n o) :=
    (((Kept.releasePump (p := .record) .refl nofun n).onGrade n _).linkTeardown nofun n o).faxTeardown n o
  have torn : (s.tornDown n o).EntriesInOrder := by
    unfold State.tornDown State.voiceTeardown; dsimp only
    exact ((h.kept quiet).finishRecording n _).kept (.ite (fun _ => .refl) fun _ => Kept.finishPlay (p := .record) .refl nofun n _ _ _)
  exact (torn.kept (Kept.stopUnits (p := .record) .refl nofun nofun nofun n)).kept (Still.callEnd s n o _)

/-! ## Lines -/

theorem Line.connectedAs_congr {l k : Line} (h : l.SameCall k) (v : Service) : k.connectedAs v = l.connectedAs v := by
  simp only [Line.connectedAs, h.1, h.2]

theorem Line.RecordFits.congr {l k : Line} (h : l.RecordFits) (call : l.SameCall k) (listening : k.seq.listening = l.seq.listening)
    (step : k.seq.step = l.seq.step) (recording : k.voice.recording = l.voice.recording) (opens : k.opens ↔ l.opens) : k.RecordFits where
  connected := by rw [recording, Line.connectedAs_congr call, step]; exact h.connected
  listens := by rw [listening, step]; exact h.listens
  sequence := by rw [step, Line.connectedAs_congr call]; exact h.sequence
  opening := by rw [opens, call.1, call.2]; exact h.opening

theorem Line.RecordFits.kept (h : (s.line n).RecordFits) (call : Kept .call s t) (hear : Kept .hear s t) (step : Kept .step s t)
    (record : Kept .record s t) (link : Kept .link s t) : (t.line n).RecordFits :=
  h.congr ⟨call.state n, call.service n⟩ (hear.listening n) (step.stepOf n) (record.recording n) (link.opens n)

/-- The lines keep to the law when line `n` does and what the law reads of the others stays. -/
theorem Line.RecordFits.apart (h : ∀ m, (s.line m).RecordFits) (a : ∀ p, p ≠ .pool → Apart p n s t) (self : (t.line n).RecordFits) :
    ∀ m, (t.line m).RecordFits := fun m => by
  by_cases e : m = n
  · rw [e]; exact self
  · have call := a .call nofun m e
    exact (h m).congr ⟨congrArg Prod.fst call, congrArg (Prod.fst ∘ Prod.snd) call⟩ (congrArg Prod.snd (a .hear nofun m e))
      (a .step nofun m e) (a .record nofun m e) (decide_eq_decide.mp (a .link nofun m e))

/-- A line that is not in CONNECTED-VOICE records nothing, does not listen, and is at step HOST. -/
theorem Line.RecordFits.off {l : Line} (h : l.RecordFits) (off : l.connectedAs .voice = false) :
    l.voice.recording = none ∧ l.seq.listening = false ∧ l.seq.step = .host := by
  have host : l.seq.step = .host := by
    by_contra away
    exact absurd (h.sequence away) (by simp [off])
  refine ⟨?_, ?_, host⟩
  · by_contra recording
    exact absurd (h.connected recording).1 (by simp [off])
  · by_contra listening
    have hears := h.listens (by simpa using listening)
    simp [SeqStep.hears, host] at hears

/-- A line on its way to a recording records nothing. -/
theorem Line.RecordFits.onWay {l : Line} (h : l.RecordFits) (step : l.seq.step.onWay) :
    l.voice.recording = none ∧ l.connectedAs .voice = true := by
  have away : l.seq.step ≠ .host ∧ l.seq.step ≠ .recording := by
    constructor <;> intro e <;> simp [e, SeqStep.onWay] at step
  refine ⟨?_, h.sequence away.1⟩
  by_contra recording
  obtain host | recording := (h.connected recording).2
  exacts [away.1 host, away.2 recording]

/-- A line off its answer sequence, of which nothing is recorded. -/
theorem Line.RecordFits.of_host {l : Line} (recording : l.voice.recording = none) (listening : l.seq.listening = false)
    (step : l.seq.step = .host) (opening : l.opens → l.call.state = .training ∧ l.call.service = .data) : l.RecordFits where
  connected k := absurd recording k
  listens k := absurd k (by simp [listening])
  sequence k := absurd step k
  opening := opening

theorem Line.RecordFits.rests {l k : Line} (h : l.RecordFits) (rest : l.call.state.rests) (fresh : l.Fresh k)
    (recording : k.voice.recording = l.voice.recording) : k.RecordFits := by
  obtain ⟨quiet, deaf, host⟩ := h.off (Line.not_connectedAs _ rest.not_connected)
  refine .of_host (recording.trans quiet) ?_ ?_ fun o => absurd (h.opening (fresh.opens o)).1 rest.not_training
  · by_contra listening
    exact absurd (fresh.listening (by simpa using listening)) (by simp [deaf])
  · exact fresh.step.elim (fun e => e.trans host) id

theorem Line.RecordFits.answers {l k : Line} (h : l.RecordFits) (a : l.Answers k) (recording : k.voice.recording = l.voice.recording) :
    k.RecordFits where
  connected r := absurd (recording.trans (h.off (Line.not_connectedAs _ (by simp [a.state]))).1) r
  listens := a.hears
  sequence _ := a.connected
  opening o := absurd (h.opening (a.opens.mp o)).1 (by simp [a.state])

theorem LineMove.recordFits {served : Prop} {l k : Line} (h : l.RecordFits) (m : LineMove served l k)
    (recording : k.voice.recording = l.voice.recording) : k.RecordFits := by
  cases m with
  | rests rest fresh => exact h.rests rest fresh recording
  | settles rest state listening step opens =>
    obtain ⟨quiet, deaf, host⟩ := h.off (Line.not_connectedAs _ rest.not_connected)
    exact .of_host (recording.trans quiet) (listening.trans deaf) (step.trans host) fun o =>
      absurd (h.opening (opens.mp o)).1 rest.not_training
  | answers a => exact h.answers a recording
  | goesOn step call settles listening hears opens =>
    obtain ⟨quiet, voice⟩ := h.onWay step
    refine ⟨fun r => absurd (recording.trans quiet) r, fun a => ?_, fun _ => (Line.connectedAs_congr call _).trans voice, fun o => ?_⟩
    · obtain here | waiting := hears a
      · exact here
      · have heard := h.listens (listening a)
        simp [SeqStep.hears, waiting] at heard
    · rw [call.1, call.2]; exact h.opening (opens.mp o)
  | hushed call settles listening step opens =>
    refine ⟨?_, fun a => absurd a (by simp [listening]), ?_, ?_⟩
    · rw [recording, Line.connectedAs_congr call, step]; exact h.connected
    · rw [step, Line.connectedAs_congr call]; exact h.sequence
    · rw [opens, call.1, call.2]; exact h.opening
  | opens training data call seq =>
    obtain ⟨quiet, deaf, host⟩ := h.off (Line.not_connectedAs _ (by simp [training]))
    exact .of_host (recording.trans quiet) (seq.listening.trans deaf) (seq.step.trans host) fun _ =>
      ⟨call.1.trans training, call.2.trans data⟩
  | goes here there seq opens =>
    have off : l.connectedAs .voice = false := by
      obtain ⟨off, -⟩ | ⟨opens, -⟩ := here
      · exact off
      · exact Line.not_connectedAs _ (by simp [(h.opening opens).1])
    obtain ⟨quiet, deaf, host⟩ := h.off off
    exact .of_host (recording.trans quiet) (seq.listening.trans deaf) (seq.step.trans host) fun o =>
      absurd (h.opening (opens o).1) (opens o).2
  | switched state step quiet pump there settles listening host opens =>
    have way := (h.onWay (by simp [step, SeqStep.onWay])).1
    refine .of_host (recording.trans way) ?_ host fun o => absurd (h.opening (opens.mp o)).1 (by simp [state])
    by_contra heard
    have hears := h.listens (by simpa [listening] using heard)
    simp [SeqStep.hears, step] at hears

/-! ## Every move keeps the law -/

/-- A call ended leaves its line within the law, whatever state the line enters then. -/
theorem Line.RecordFits.ended {l i k j : Line} (h : l.RecordFits) (e : i.Ended k) (service : i.call.service = l.call.service)
    (before : i.opens ↔ l.opens) (recording : j.voice.recording = k.voice.recording) (fresh : k.Fresh j) : j.RecordFits := by
  refine .of_host (recording.trans e.recording) ?_ ?_ fun o => ?_
  · by_contra listening
    exact absurd (fresh.listening (by simpa using listening)) (by simp [e.listening])
  · exact fresh.step.elim (fun k => k.trans e.step) id
  · obtain ⟨opening, other⟩ := e.opens (fresh.opens o)
    exact absurd (h.opening (before.mp opening)).2 (service ▸ other)

/-- An automatic recording leaves its line within the law in CONNECTED-VOICE. -/
theorem Line.RecordFits.autoRecorded (h : (s.line n).RecordFits) (voice : (s.line n).connectedAs .voice = true)
    (deaf : (s.line n).seq.listening = false) (m : EntryId) (k : RecordingKind) (b : Bool) :
    ((s.autoRecorded n m k b).line n).RecordFits := by
  have recorded := fun p hr hs => Kept.autoRecorded (p := p) hr hs s n m k b
  have step : ((s.autoRecorded n m k b).line n).seq.step = .recording := by simp [State.autoRecorded]
  have call := recorded .call nofun nofun
  refine ⟨fun _ => ⟨(call.connectedAs n _).trans voice, .inr step⟩, fun a => ?_, fun _ => (call.connectedAs n _).trans voice, fun o => ?_⟩
  · rw [(recorded .hear nofun nofun).listening, deaf] at a
    cases a
  · rw [call.state, call.service]
    exact h.opening (((recorded .link nofun nofun).opens n).mp o)

/-- A recording begun on order leaves its line within the law. -/
theorem Line.RecordFits.beginRecording (h : (s.line n).RecordFits) (voice : (s.line n).connectedAs .voice = true)
    (host : (s.line n).seq.step = .host) (m : EntryId) (k : RecordingKind) (b : Bool) :
    ((s.beginRecording n m k b).line n).RecordFits := by
  have recorded := fun p hp => Kept.beginRecording (p := p) .refl hp n m k b (s₀ := s)
  have call := recorded .call nofun
  have step : ((s.beginRecording n m k b).line n).seq.step = .host := ((recorded .step nofun).stepOf n).trans host
  refine ⟨fun _ => ⟨(call.connectedAs n _).trans voice, .inl step⟩, fun a => ?_, fun away => absurd step away, fun o => ?_⟩
  · rw [(recorded .hear nofun).listening] at a
    have hears := h.listens a
    simp [SeqStep.hears, host] at hears
  · rw [call.state, call.service]
    exact h.opening (((recorded .link nofun).opens n).mp o)

/-- A recording ended leaves its line within the law, its answer sequence perhaps at its end. -/
theorem Line.RecordFits.finishRecording {r : EndReason} {k : Line} (h : (s.line n).RecordFits)
    (recording : (s.line n).voice.recording ≠ none) (call : ((s.finishRecording n r).line n).SameCall k)
    (ended : k.voice.recording = ((s.finishRecording n r).line n).voice.recording)
    (listening : k.seq.listening = ((s.finishRecording n r).line n).seq.listening)
    (opens : k.opens ↔ ((s.finishRecording n r).line n).opens) : k.RecordFits := by
  have finished := fun p hp => Kept.finishRecording (p := p) .refl hp n r (s₀ := s)
  obtain ⟨voice, place⟩ := h.connected recording
  have connected : k.connectedAs .voice = true :=
    ((Line.connectedAs_congr call _).trans ((finished .call nofun).connectedAs n _)).trans voice
  refine ⟨fun r => absurd (ended.trans (s.recording_finishRecording n _)) r, fun a => ?_, fun _ => connected, fun o => ?_⟩
  · rw [listening, (finished .hear nofun).listening] at a
    have hears := h.listens a
    obtain e | e := place <;> simp [SeqStep.hears, e] at hears
  · rw [call.1, call.2, (finished .call nofun).state, (finished .call nofun).service]
    exact h.opening (((finished .link nofun).opens n).mp (opens.mp o))

theorem Move.keeps_recordings (h : s.RecordingsInOrder) (m : Move s t) : t.RecordingsInOrder := by
  rw [State.recordingsInOrder_iff] at h ⊢
  obtain ⟨entries, lines⟩ := h
  have kept : ∀ {t}, (∀ p, p ≠ .pool → p ≠ .play → Kept p s t) → t.EntriesInOrder ∧ ∀ n, (t.line n).RecordFits := fun k =>
    ⟨entries.kept (k _ nofun nofun), fun n => (lines n).kept (k _ nofun nofun) (k _ nofun nofun) (k _ nofun nofun) (k _ nofun nofun)
      (k _ nofun nofun)⟩
  cases m with
  | still same => exact kept fun p _ _ => same p
  | inLine n within move =>
    exact ⟨entries.kept within.record,
      Line.RecordFits.apart lines (fun _ _ => within.apart) (move.recordFits (lines n) (within.record.recording n))⟩
  | ended n o u before service seq opens after fresh =>
    exact ⟨((entries.kept before.record).callEnd n o).kept after.record, Line.RecordFits.apart lines
      (fun _ hp => (before.apart.trans (Apart.callEnd u n o hp)).trans after.apart)
      ((lines n).ended (u.line_callEnd n o) service opens (after.record.recording n) fresh)⟩
  | claims n c u within rest fresh there =>
    have placed : ∀ p, p ≠ .pool → Kept p u (u.placeClaim n c) := fun p hp => Kept.refl.placeClaim hp n c
    exact ⟨(entries.kept within.record).kept (placed _ nofun), Line.RecordFits.apart lines
      (fun p hp => within.apart.trans (placed p hp).apart)
      (((lines n).rests rest fresh (within.record.recording n)).kept (placed _ nofun) (placed _ nofun) (placed _ nofun) (placed _ nofun)
        (placed _ nofun))⟩
  | switches n c u within listens call settles deaf opens =>
    have placed : ∀ p, p ≠ .pool → Kept p u (u.placeClaim n c) := fun p hp => Kept.refl.placeClaim hp n c
    have way : (s.line n).seq.step.onWay := by
      obtain e | e := (lines n).listens listens <;> simp [e, SeqStep.onWay]
    obtain ⟨quiet, voice⟩ := (lines n).onWay way
    have fits : (u.line n).RecordFits := by
      refine ⟨fun r => absurd ((within.record.recording n).trans quiet) r, fun a => absurd a (by simp [deaf]),
        fun _ => (Line.connectedAs_congr call _).trans voice, fun o => ?_⟩
      rw [call.1, call.2]
      exact (lines n).opening (opens.mp o)
    exact ⟨(entries.kept within.record).kept (placed _ nofun), Line.RecordFits.apart lines
      (fun p hp => within.apart.trans (placed p hp).apart)
      (fits.kept (placed _ nofun) (placed _ nofun) (placed _ nofun) (placed _ nofun) (placed _ nofun))⟩
  | drops n => exact kept fun p hp _ => Kept.refl.dropClaim hp n
  | attaches p n settling line => exact kept fun _ hp _ => Kept.attached hp s p n _
  | frees q settling line => exact kept fun p hp _ => (Kept.refl.onPumpAny hp _ _).arbitrate hp
  | out q settling line => exact kept fun p hp _ => Kept.refl.onPumpAny hp _ _
  | requeues p n c w settling line claim dry => exact kept fun _ hp _ => Kept.requeued hp s p n c w
  | regrants p n c w settling line claim => exact kept fun _ hp _ => (Kept.requeued hp s p n c w).arbitrate hp
  | loses p n attached line => exact kept fun _ hp _ => Kept.lost hp s p n _
  | greets n g c k card u within answers loaded =>
    have played := fun p hp => Kept.beginPlay (p := p) .refl hp n (.slot g) c k card (s₀ := u)
    exact ⟨(entries.kept within.record).kept (played _ nofun), Line.RecordFits.apart lines
      (fun _ _ => within.apart.trans (Apart.beginPlay u n _ c k card))
      (((lines n).answers answers (within.record.recording n)).kept (played _ nofun) (played _ nofun) (played _ nofun) (played _ nofun)
        (played _ nofun))⟩
  | answersRecording n m k b u within answers deaf empty =>
    have fits := (lines n).answers answers (within.record.recording n)
    have quiet := ((lines n).off (Line.not_connectedAs _ (by simp [answers.state]))).1
    exact ⟨((entries.kept within.record).beginRecording ((within.record.recording n).trans quiet) empty k b).kept (Kept.onSeqStep (p := .record) .refl nofun n),
      Line.RecordFits.apart lines (fun _ _ => within.apart.trans (Apart.autoRecorded u n m k b))
      (fits.autoRecorded answers.connected deaf m k b)⟩
  | autoRecords n m k b step deaf empty =>
    obtain ⟨quiet, voice⟩ := (lines n).onWay step
    have hushed : (s.line n).seq.listening = false := by
      obtain deaf | waiting := deaf
      · exact deaf
      · by_contra heard
        have hears := (lines n).listens (by simpa using heard)
        simp [SeqStep.hears, waiting] at hears
    exact ⟨(entries.beginRecording quiet empty k b).kept (Kept.onSeqStep (p := .record) .refl nofun n),
      Line.RecordFits.apart lines (fun _ _ => Apart.autoRecorded s n m k b) ((lines n).autoRecorded voice hushed m k b)⟩
  | records n m k b voice host none empty =>
    exact ⟨entries.beginRecording none empty k b, Line.RecordFits.apart lines (fun _ _ => Apart.beginRecording s n m k b)
      ((lines n).beginRecording voice host m k b)⟩
  | recordingEnds n r recording within call settles listening step opens =>
    exact ⟨(entries.finishRecording n r).kept within.record, Line.RecordFits.apart lines
      (fun _ _ => (Apart.finishRecording s n r).trans within.apart)
      ((lines n).finishRecording recording call (within.record.recording n) listening opens)⟩
  | plays n x c k card voice quiet some loaded => exact kept fun p _ hp => Kept.refl.beginPlay hp n x c k card
  | playEnds n e st r => exact kept fun p _ hp => Kept.refl.finishPlay hp n e st r
  | loads g c k empty => exact kept fun p _ hp => Kept.refl.onSlot hp g _
  | empties g quiet => exact kept fun p _ hp => Kept.refl.emptySlot hp g
  | withdraws g i plays => exact kept fun p _ hp => Kept.refl.onSlot hp g _
  | collects m complete => exact ⟨entries.clearMessage (by simp [complete]), lines⟩

theorem Path.keeps_recordings (h : Path s t) (k : s.RecordingsInOrder) : t.RecordingsInOrder := by
  induction h with
  | refl => exact k
  | tail _ m ih => exact m.keeps_recordings ih

theorem State.RecordingsInOrder.withQueue (h : s.RecordingsInOrder) (q : List Instr) : (s.withQueue q).RecordingsInOrder :=
  ⟨h.one, h.connected, h.listens, h.sequence, h.opening⟩

/-- Settles O14: every command but an engine reset is a chain of moves, each of which keeps an entry RECORDING for the line whose recording
it is; a reset ends every recording. -/
theorem everyStepKeepsRecordingsInOrder : Obligations.EveryStepKeepsRecordingsInOrder := by
  unfold Obligations.EveryStepKeepsRecordingsInOrder
  intro s t hs h
  refine step_keeps (P := State.RecordingsInOrder) (fun s q k => k.withQueue q) (fun c s t k e => ?_) hs h
  obtain ⟨z, rfl⟩ | path := exec_path e
  · exact State.recordingsInOrder_engineReset s z
  · exact path.keeps_recordings k

end Sys2Proof.Machine

/-! The law of the pump pool: a pump serves one line, a line holds one pump, and no pump is FREE beside a waiting claim (04 R59 to R61). -/

namespace Sys2Proof.Machine

set_option Elab.async false

variable {s t u : State} {n : LineId}

/-! ## The three parts of the law -/

/-- What the law says of pumps, claims and the queue among themselves, but that a FREE pump is granted. -/
structure State.PoolInOrder (s : State) : Prop where
  settling : ∀ p n, s.serves p n → (s.pump p).state = .settling ∨ (s.pump p).state = .attached
  attached : ∀ p, (s.pump p).state = .attached → ∃ n, s.serves p n
  one : ∀ p q n, s.serves p n → s.serves q n → p = q
  recorded : ∀ n p, (s.line n).call.pump = some p ↔ (s.pump p).state = .attached ∧ s.serves p n
  once : (s.queue.answer ++ s.queue.originate).Nodup
  answers : ∀ n, n ∈ s.queue.answer → (s.line n).claim.map Claim.cls = some .answer
  originates : ∀ n, n ∈ s.queue.originate → (s.line n).claim.map Claim.cls = some .originate
  claims : ∀ n, (s.line n).claim ≠ none ↔ s.queued n ∨ ∃ p, (s.pump p).state = .settling ∧ s.serves p n
  waiting : ∀ p n, s.queued n → ¬ s.serves p n

/-- No pump is FREE while a claim waits. -/
def State.Granted (s : State) : Prop := ∀ p n, s.queued n → (s.pump p).state ≠ .free

/-- The line has a claim or a pump. -/
def State.busy (s : State) (n : LineId) : Prop := (s.line n).claim ≠ none ∨ ∃ p, s.serves p n

/-- What the law says of a line that has a claim or a pump, or none. -/
structure Line.PoolFits (l : Line) (busy : Prop) : Prop where
  calls : busy → l.call.state.holds
  settles : l.settles = true → l.call.state = .answering ∧ ¬busy
  listens : l.seq.listening = true → l.connectedAs .voice = true ∧ ¬busy

theorem State.not_busy_iff : ¬s.busy n ↔ (s.line n).claim = none ∧ ∀ p, ¬s.serves p n := by
  simp [State.busy]

theorem State.pumpsInOrder_iff : s.PumpsInOrder ↔ s.PoolInOrder ∧ s.Granted ∧ ∀ n, (s.line n).PoolFits (s.busy n) := by
  constructor
  · intro h
    refine ⟨⟨h.settling, h.attached, h.one, h.recorded, h.once, h.answers, h.originates, h.claims, h.waiting⟩, h.granted, fun n => ?_⟩
    refine ⟨h.calls n, fun k => ?_, fun k => ?_⟩ <;> rw [State.not_busy_iff]
    · exact h.settles n k
    · exact h.listens n k
  · rintro ⟨h, granted, lines⟩
    refine ⟨h.settling, h.attached, h.one, h.recorded, h.once, h.answers, h.originates, h.claims, h.waiting, granted,
      fun n => (lines n).calls, fun n k => ?_, fun n k => ?_⟩ <;> rw [← State.not_busy_iff]
    · exact (lines n).settles k
    · exact (lines n).listens k

/-! ## States with the same pool -/

theorem Kept.serves (k : Kept .pool s t) (p : PumpId) (n : LineId) : t.serves p n ↔ s.serves p n := by
  rw [State.serves, State.serves, k.pumpLine]

theorem Kept.queued (k : Kept .pool s t) (n : LineId) : t.queued n ↔ s.queued n := by rw [State.queued, State.queued, k.queue]

theorem Kept.busy (k : Kept .pool s t) (n : LineId) : t.busy n ↔ s.busy n := by
  simp only [State.busy, k.claim, k.serves]

theorem State.PoolInOrder.kept (h : s.PoolInOrder) (k : Kept .pool s t) : t.PoolInOrder where
  settling p n := by rw [k.serves, k.pumpState]; exact h.settling p n
  attached p := by simp only [k.serves, k.pumpState]; exact h.attached p
  one p q n := by rw [k.serves, k.serves]; exact h.one p q n
  recorded n p := by rw [k.serves, k.pumpState, k.callPump]; exact h.recorded n p
  once := by rw [k.queue]; exact h.once
  answers n := by rw [k.queue, k.claim]; exact h.answers n
  originates n := by rw [k.queue, k.claim]; exact h.originates n
  claims n := by simp only [k.claim, k.queued, k.pumpState, k.serves]; exact h.claims n
  waiting p n := by rw [k.serves, k.queued]; exact h.waiting p n

theorem State.Granted.kept (h : s.Granted) (k : Kept .pool s t) : t.Granted := fun p n => by
  rw [k.queued, k.pumpState]; exact h p n

/-! ## The arbiter -/

theorem State.lowestFree_eq_some {p : PumpId} (h : s.lowestFree = some p) : (s.pump p).state = .free := by
  simpa using List.find?_some h

theorem State.lowestFree_eq_none (h : s.lowestFree = none) (p : PumpId) : (s.pump p).state ≠ .free := by
  have k := List.find?_eq_none.mp h p (by fin_cases p <;> simp [allPumps])
  simpa using k

theorem WaitQueue.head_eq_some {q : WaitQueue} (h : q.head = some n) : n ∈ q.answer ∨ n ∈ q.originate := by
  unfold WaitQueue.head at h
  cases a : q.answer with
  | cons x xs => simp [a] at h; simp [h]
  | nil => simp [a] at h; exact .inr (List.mem_of_mem_head? h)

theorem WaitQueue.head_eq_none {q : WaitQueue} (h : q.head = none) : q.answer = [] ∧ q.originate = [] := by
  simpa [WaitQueue.head] using h

/-- Line `n` leaves the queue for a FREE pump, which settles for it. -/
def State.granting (s : State) (p : PumpId) (n : LineId) : State :=
  { s with queue := s.queue.remove n }.onPump p fun _ => Pump.inState .settling (some n)

theorem State.serves_granting (s : State) (p q : PumpId) (n m : LineId) :
    (s.granting p n).serves q m ↔ if q = p then m = n else s.serves q m := by
  unfold State.granting State.serves
  rw [State.pump_onPump]
  split
  · simp [Pump.inState, eq_comm]
  · rfl

theorem State.pumpState_granting (s : State) (p q : PumpId) (n : LineId) :
    ((s.granting p n).pump q).state = if q = p then .settling else (s.pump q).state := by
  unfold State.granting
  rw [State.pump_onPump]
  split <;> rfl

theorem State.queued_granting (s : State) (p : PumpId) (n m : LineId) : (s.granting p n).queued m ↔ m ≠ n ∧ s.queued m := by
  simp [State.queued, State.granting, WaitQueue.remove]
  tauto

theorem State.PoolInOrder.granting (h : s.PoolInOrder) {p : PumpId} (free : (s.pump p).state = .free) (queued : s.queued n) :
    (s.granting p n).PoolInOrder := by
  have idle : ∀ m, ¬s.serves p m := fun m k => by obtain e | e := h.settling p m k <;> simp [free] at e
  have alone : ∀ q, ¬s.serves q n := fun q => h.waiting q n queued
  have claim := (h.claims n).mpr (.inl queued)
  constructor
  case settling =>
    intro q m
    have := h.settling q m
    rw [State.serves_granting, State.pumpState_granting]
    grind
  case attached =>
    intro q
    have := h.attached q
    simp only [State.serves_granting, State.pumpState_granting]
    grind
  case one =>
    intro q r m
    have := h.one q r m
    rw [State.serves_granting, State.serves_granting]
    grind
  case recorded =>
    intro m q
    have := h.recorded m q
    rw [State.serves_granting, State.pumpState_granting]
    change (s.line m).call.pump = some q ↔ _
    grind
  case once => exact (List.Nodup.filter _ h.once) |> fun k => by simpa [State.granting, WaitQueue.remove, ← List.filter_append] using k
  case answers => exact fun m k => h.answers m (List.mem_of_mem_filter k)
  case originates => exact fun m k => h.originates m (List.mem_of_mem_filter k)
  case claims =>
    intro m
    have := h.claims m
    simp only [State.queued_granting, State.pumpState_granting, State.serves_granting]
    change (s.line m).claim ≠ none ↔ _
    by_cases e : m = n
    · subst e
      exact ⟨fun _ => .inr ⟨p, by simp⟩, fun _ => claim⟩
    · rw [this]
      refine or_congr (by simp [e]) (exists_congr fun q => ?_)
      have := idle m
      grind
  case waiting =>
    intro q m
    have := h.waiting q m
    rw [State.queued_granting, State.serves_granting]
    grind

theorem State.busy_granting (h : s.PoolInOrder) {p : PumpId} (free : (s.pump p).state = .free) (queued : s.queued n) (m : LineId) :
    (s.granting p n).busy m ↔ s.busy m := by
  have idle : ∀ m, ¬s.serves p m := fun m k => by obtain e | e := h.settling p m k <;> simp [free] at e
  have claim := (h.claims n).mpr (.inl queued)
  simp only [State.busy, State.serves_granting]
  change (s.line m).claim ≠ none ∨ _ ↔ _
  by_cases e : m = n
  · subst e
    exact ⟨fun _ => .inl claim, fun _ => .inl claim⟩
  · refine or_congr_right (exists_congr fun q => ?_)
    have := idle m
    grind

theorem State.grantNext_cases (s : State) : s.grantNext = s ∧ (s.lowestFree = none ∨ s.queue.head = none) ∨
    ∃ p n, s.lowestFree = some p ∧ s.queue.head = some n ∧ s.grantNext = s.granting p n := by
  unfold State.grantNext; split
  next p n hp hn => exact .inr ⟨p, n, hp, hn, rfl⟩
  next other =>
    refine .inl ⟨rfl, ?_⟩
    cases hp : s.lowestFree with
    | none => exact .inl rfl
    | some p =>
      cases hn : s.queue.head with
      | none => exact .inr rfl
      | some n => exact absurd hn (other p n hp)

/-- The pool of the second state is in order, and the same lines are busy in it. -/
structure SamePool (s t : State) : Prop where
  inOrder : t.PoolInOrder
  lines : t.lines = s.lines
  busy : ∀ m, t.busy m ↔ s.busy m

theorem SamePool.grantNext (h : SamePool s t) : SamePool s t.grantNext := by
  obtain ⟨e, -⟩ | ⟨p, n, free, head, e⟩ := t.grantNext_cases <;> rw [e]
  · exact h
  · have free := State.lowestFree_eq_some free
    have queued : t.queued n := WaitQueue.head_eq_some head
    exact ⟨h.inOrder.granting free queued, h.lines, fun m => (State.busy_granting h.inOrder free queued m).trans (h.busy m)⟩

theorem SamePool.arbitrate (h : s.PoolInOrder) : SamePool s s.arbitrate := by
  have start : SamePool s s := ⟨h, rfl, fun _ => .rfl⟩
  exact start.grantNext.grantNext.grantNext

/-- The queue is empty, or none of the first `k` pumps is FREE. -/
def State.DryTo (s : State) (k : Nat) : Prop := (∀ n, ¬s.queued n) ∨ ∀ q : PumpId, q.val < k → (s.pump q).state ≠ .free

theorem State.lowestFree_least {p q : PumpId} (h : s.lowestFree = some p) (less : q < p) : (s.pump q).state ≠ .free := by
  intro free
  obtain ⟨-, before, after, e, none⟩ := List.find?_eq_some_iff_append.mp h
  have order : allPumps.Pairwise (· < ·) := by decide
  have here : q ∈ before ++ p :: after := e ▸ (by fin_cases q <;> decide)
  rw [e] at order
  obtain early | late := List.mem_append.mp here
  · exact absurd (none q early) (by simp [free])
  · obtain rfl | later := List.mem_cons.mp late
    · exact absurd less (lt_irrefl _)
    · exact absurd less (List.rel_of_pairwise_cons (List.pairwise_append.mp order).2.1 later).asymm

theorem State.DryTo.grantNext {k : Nat} (h : s.DryTo k) : s.grantNext.DryTo (k + 1) := by
  obtain ⟨e, none | none⟩ | ⟨p, n, free, head, e⟩ := s.grantNext_cases <;> rw [e]
  · exact .inr fun q _ => State.lowestFree_eq_none none q
  · obtain ⟨a, b⟩ := WaitQueue.head_eq_none none
    exact .inl fun n => by simp [State.queued, a, b]
  · obtain empty | dry := h
    · exact absurd (WaitQueue.head_eq_some head) (empty n)
    · refine .inr fun q less => ?_
      rw [State.pumpState_granting]
      split
      · decide
      next other =>
        have below : q.val < k ∨ q < p := by
          have : ¬p.val < k := fun l => dry p l (State.lowestFree_eq_some free)
          have : q.val ≠ p.val := fun e => other (Fin.ext e)
          simp only [Fin.lt_def]
          omega
        exact below.elim (dry q) (State.lowestFree_least free)

theorem State.granted_arbitrate (s : State) : s.arbitrate.Granted := by
  have dry : s.arbitrate.DryTo 3 := by
    have start : s.DryTo 0 := .inr fun _ l => absurd l (by omega)
    exact start.grantNext.grantNext.grantNext
  intro p n queued
  obtain empty | dry := dry
  · exact absurd queued (empty n)
  · exact dry p p.isLt

/-! ## Claims that end, pumps that are released -/

/-- A fold that changes each pump by itself. -/
theorem State.foldl_onPump (c : Pump → Prop) [DecidablePred c] (f : Pump → Pump) (ps : List PumpId) (nodup : ps.Nodup) (s : State) :
    let t := ps.foldl (fun s p => if c (s.pump p) then s.onPump p f else s) s
    (∀ q, t.pump q = if q ∈ ps ∧ c (s.pump q) then f (s.pump q) else s.pump q) ∧ t.lines = s.lines ∧ t.queue = s.queue := by
  induction ps generalizing s with
  | nil => simp
  | cons p ps ih =>
    obtain ⟨fresh, nodup⟩ := List.nodup_cons.mp nodup
    obtain ⟨pumps, lines, queue⟩ := ih nodup (if c (s.pump p) then s.onPump p f else s)
    refine ⟨fun q => ?_, lines.trans ?_, queue.trans ?_⟩
    · rw [List.foldl_cons, pumps]
      by_cases e : q = p
      · subst e
        by_cases k : c (s.pump q) <;> simp [fresh, k]
      · split <;> simp [e]
    · split <;> rfl
    · split <;> rfl

theorem mem_allPumps (q : PumpId) : q ∈ allPumps := by fin_cases q <;> decide

/-- What the end of a claim leaves: the line's pump, where it settles, serves none. -/
structure Unclaimed (n : LineId) (s t : State) : Prop where
  pump : ∀ q, t.pump q = if (s.pump q).state = .settling ∧ (s.pump q).line = some n then { s.pump q with line := none } else s.pump q
  line : ∀ m, t.line m = if m = n then { s.line n with claim := none } else s.line m
  queue : t.queue = s.queue.remove n

theorem State.dropClaim_spec (s : State) (n : LineId) : Unclaimed n s (s.dropClaim n) := by
  obtain ⟨pumps, lines, queue⟩ := State.foldl_onPump (fun x => x.state = .settling ∧ x.line = some n) (fun x => { x with line := none })
    allPumps (by decide) ({ s with queue := s.queue.remove n }.onLine n fun l => { l with claim := none })
  refine ⟨fun q => ?_, fun m => ?_, queue⟩
  · have k := pumps q
    simp only [mem_allPumps, true_and] at k
    exact k
  · have k : (s.dropClaim n).line m = ({ s with queue := s.queue.remove n }.onLine n fun l => { l with claim := none }).line m :=
      congrArg (fun ls : Vector Line 4 => ls[m]) lines
    rw [k, State.line_onLine]
    rfl

theorem Unclaimed.serves (h : Unclaimed n s t) (q : PumpId) (m : LineId) :
    t.serves q m ↔ s.serves q m ∧ ¬((s.pump q).state = .settling ∧ m = n) := by
  unfold State.serves
  rw [h.pump]
  grind

theorem Unclaimed.pumpState (h : Unclaimed n s t) (q : PumpId) : (t.pump q).state = (s.pump q).state := by
  rw [h.pump]; split <;> rfl

theorem Unclaimed.queued (h : Unclaimed n s t) (m : LineId) : t.queued m ↔ m ≠ n ∧ s.queued m := by
  simp [State.queued, h.queue, WaitQueue.remove]
  tauto

theorem Unclaimed.claim (h : Unclaimed n s t) (m : LineId) : (t.line m).claim = if m = n then none else (s.line m).claim := by
  rw [h.line]; split <;> rfl

theorem Unclaimed.callPump (h : Unclaimed n s t) (m : LineId) : (t.line m).call.pump = (s.line m).call.pump := by
  rw [h.line]; split
  next e => rw [e]
  next => rfl

theorem Unclaimed.inOrder (k : Unclaimed n s t) (h : s.PoolInOrder) : t.PoolInOrder := by
  constructor
  case settling => intro q m; rw [k.serves, k.pumpState]; exact fun x => h.settling q m x.1
  case attached =>
    intro q a
    rw [k.pumpState] at a
    obtain ⟨m, serves⟩ := h.attached q a
    exact ⟨m, (k.serves q m).mpr ⟨serves, by simp [a]⟩⟩
  case one => intro q r m; rw [k.serves, k.serves]; exact fun x y => h.one q r m x.1 y.1
  case recorded =>
    intro m q
    have := h.recorded m q
    rw [k.callPump, k.pumpState, k.serves]
    grind
  case once => rw [k.queue]; simpa [WaitQueue.remove, ← List.filter_append] using h.once.filter (· != n)
  case answers =>
    intro m x
    rw [k.queue] at x
    obtain ⟨x, e⟩ := List.mem_filter.mp x
    rw [k.claim, if_neg (by simpa using e)]
    exact h.answers m x
  case originates =>
    intro m x
    rw [k.queue] at x
    obtain ⟨x, e⟩ := List.mem_filter.mp x
    rw [k.claim, if_neg (by simpa using e)]
    exact h.originates m x
  case claims =>
    intro m
    have := h.claims m
    simp only [k.claim, k.queued, k.pumpState, k.serves]
    grind
  case waiting => intro q m; rw [k.serves, k.queued]; exact fun x y => h.waiting q m x.2 y.1

theorem Unclaimed.granted (k : Unclaimed n s t) (h : s.Granted) : t.Granted := fun q m => by
  rw [k.queued, k.pumpState]; exact fun x => h q m x.2

/-- No other line becomes busy or idle, and line `n` is busy only with the pump attached to it. -/
theorem Unclaimed.busy (k : Unclaimed n s t) (m : LineId) :
    t.busy m ↔ if m = n then ∃ q, (s.pump q).state ≠ .settling ∧ s.serves q n else s.busy m := by
  simp only [State.busy, k.claim, k.serves]
  split
  next e => subst e; simp [and_comm]
  next e => simp [e]

/-! ## A pump released -/

/-- What the release of the attached pump leaves. -/
structure Freed (n : LineId) (s t : State) : Prop where
  pump : ∀ q, t.pump q = if (s.pump q).state = .attached ∧ (s.pump q).line = some n then Pump.inState .free none else s.pump q
  line : ∀ m, t.line m = if m = n then { s.line n with call := { (s.line n).call with pump := none } } else s.line m
  queue : t.queue = s.queue

/-- The release of the attached pump, before the arbiter. -/
def State.freed (s : State) (n : LineId) : State :=
  (allPumps.foldl (fun s p =>
    if (s.pump p).state = .attached ∧ (s.pump p).line = some n then s.onPump p fun _ => Pump.inState .free none else s) s).onCall n
    fun c => { c with pump := none }

theorem State.releasePump_eq (s : State) (n : LineId) : s.releasePump n = ((s.dropClaim n).freed n).arbitrate := rfl

theorem State.freed_spec (s : State) (n : LineId) : Freed n s (s.freed n) := by
  obtain ⟨pumps, lines, queue⟩ := State.foldl_onPump (fun x => x.state = .attached ∧ x.line = some n) (fun _ => Pump.inState .free none)
    allPumps (by decide) s
  unfold State.freed
  generalize allPumps.foldl _ s = t at *
  refine ⟨fun q => ?_, fun m => ?_, (State.queue_onCall t n _).trans queue⟩
  · have k := pumps q
    simp only [mem_allPumps, true_and] at k
    rw [State.pump_onCall, k]
  · unfold State.onCall
    rw [State.line_onLine]
    simp only [State.line, lines]

theorem Freed.serves (h : Freed n s t) (q : PumpId) (m : LineId) :
    t.serves q m ↔ s.serves q m ∧ ¬((s.pump q).state = .attached ∧ m = n) := by
  unfold State.serves
  rw [h.pump]
  have : (Pump.inState .free none).line = none := rfl
  grind

theorem Freed.pumpState (h : Freed n s t) (q : PumpId) :
    (t.pump q).state = if (s.pump q).state = .attached ∧ (s.pump q).line = some n then .free else (s.pump q).state := by
  rw [h.pump]; split <;> rfl

theorem Freed.queued (h : Freed n s t) (m : LineId) : t.queued m ↔ s.queued m := by rw [State.queued, State.queued, h.queue]

theorem Freed.claim (h : Freed n s t) (m : LineId) : (t.line m).claim = (s.line m).claim := by
  rw [h.line]; split
  next e => rw [e]
  next => rfl

theorem Freed.callPump (h : Freed n s t) (m : LineId) : (t.line m).call.pump = if m = n then none else (s.line m).call.pump := by
  rw [h.line]; split <;> rfl

theorem Freed.inOrder (k : Freed n s t) (h : s.PoolInOrder) : t.PoolInOrder := by
  constructor
  case settling => intro q m; have := h.settling q m; rw [k.serves, k.pumpState]; grind [State.serves]
  case attached =>
    intro q
    have := h.attached q
    simp only [k.serves, k.pumpState]
    grind [State.serves]
  case one => intro q r m; rw [k.serves, k.serves]; exact fun x y => h.one q r m x.1 y.1
  case recorded =>
    intro m q
    have := h.recorded m q
    rw [k.callPump, k.pumpState, k.serves]
    grind [State.serves]
  case once => rw [k.queue]; exact h.once
  case answers => intro m; rw [k.queue, k.claim]; exact h.answers m
  case originates => intro m; rw [k.queue, k.claim]; exact h.originates m
  case claims =>
    intro m
    have := h.claims m
    simp only [k.claim, k.queued, k.pumpState, k.serves]
    grind [State.serves]
  case waiting => intro q m; rw [k.serves, k.queued]; exact fun x y => h.waiting q m x y.1

theorem Freed.busy (k : Freed n s t) (m : LineId) :
    t.busy m ↔ (s.line m).claim ≠ none ∨ ∃ q, s.serves q m ∧ ¬((s.pump q).state = .attached ∧ m = n) := by
  simp only [State.busy, k.claim, k.serves]

/-- The pool after the release of a line's pump and claim: the line is not busy, and the others are as they were. -/
theorem State.releasePump_pool (h : s.PoolInOrder) (n : LineId) :
    (s.releasePump n).PoolInOrder ∧ (s.releasePump n).Granted ∧ ¬(s.releasePump n).busy n ∧
      ∀ m, m ≠ n → ((s.releasePump n).busy m ↔ s.busy m) := by
  have unclaimed := s.dropClaim_spec n
  have freed := (s.dropClaim n).freed_spec n
  have dropped := unclaimed.inOrder h
  have arbitrated := SamePool.arbitrate (freed.inOrder dropped)
  rw [s.releasePump_eq]
  refine ⟨arbitrated.inOrder, State.granted_arbitrate _, ?_, fun m other => ?_⟩
  · rw [arbitrated.busy, freed.busy, unclaimed.claim]
    rintro (claim | ⟨q, serves, other⟩)
    · simp at claim
    · obtain settling | attached := dropped.settling q n serves
      · exact ((unclaimed.serves q n).mp serves).2 ⟨(unclaimed.pumpState q).symm.trans settling, rfl⟩
      · exact other ⟨attached, rfl⟩
  · rw [arbitrated.busy, freed.busy, unclaimed.claim, if_neg other]
    simp [unclaimed.serves, other, State.busy]

/-! ## The other moves of the pool -/

theorem State.serves_onPump (s : State) (p q : PumpId) (st : PumpState) (l : Option LineId) (m : LineId) :
    (s.onPump p fun _ => Pump.inState st l).serves q m ↔ if q = p then l = some m else s.serves q m := by
  unfold State.serves
  rw [State.pump_onPump]
  split <;> rfl

theorem State.pumpState_onPump (s : State) (p q : PumpId) (st : PumpState) (l : Option LineId) :
    ((s.onPump p fun _ => Pump.inState st l).pump q).state = if q = p then st else (s.pump q).state := by
  rw [State.pump_onPump]
  split <;> rfl

/-- A line whose claim a settling pump serves. -/
theorem State.PoolInOrder.claimed (h : s.PoolInOrder) {p : PumpId} (settling : (s.pump p).state = .settling) (serves : s.serves p n) :
    (s.line n).claim ≠ none ∧ ¬s.queued n ∧ (s.line n).call.pump = none := by
  refine ⟨(h.claims n).mpr (.inr ⟨p, settling, serves⟩), fun k => h.waiting p n k serves, ?_⟩
  cases e : (s.line n).call.pump with
  | none => rfl
  | some q =>
    obtain ⟨attached, other⟩ := (h.recorded n q).mp e
    rw [h.one q p n other serves, settling] at attached
    cases attached

/-- A pump that serves no line goes OUT or becomes FREE. -/
theorem State.PoolInOrder.vacates (h : s.PoolInOrder) {p : PumpId} {st : PumpState} (idle : ∀ n, ¬s.serves p n)
    (state : (s.pump p).state = .settling) (settling : st ≠ .settling) (attached : st ≠ .attached) :
    (s.onPump p fun _ => Pump.inState st none).PoolInOrder ∧ ∀ n, (s.onPump p fun _ => Pump.inState st none).busy n ↔ s.busy n := by
  have serves : ∀ q m, (s.onPump p fun _ => Pump.inState st none).serves q m ↔ s.serves q m := fun q m => by
    rw [State.serves_onPump]
    have := idle m
    grind
  constructor
  · constructor
    case settling => intro q m; have := h.settling q m; have := idle m; rw [serves, State.pumpState_onPump]; grind
    case attached => intro q; have := h.attached q; simp only [serves, State.pumpState_onPump]; grind
    case one => intro q r m; rw [serves, serves]; exact h.one q r m
    case recorded =>
      intro m q
      have := h.recorded m q
      rw [serves, State.pumpState_onPump, State.line_onPump]
      grind
    case once => exact h.once
    case answers => exact h.answers
    case originates => exact h.originates
    case claims =>
      intro m
      have := h.claims m
      have := idle m
      simp only [serves, State.pumpState_onPump, State.line_onPump]
      change _ ↔ s.queued m ∨ _
      grind
    case waiting => intro q m; rw [serves]; exact h.waiting q m
  · intro m
    simp only [State.busy, serves, State.line_onPump]

/-- The settling pump of a line becomes ATTACHED to it. -/
def State.attaching (s : State) (p : PumpId) (n : LineId) : State :=
  (s.onPump p fun _ => Pump.inState .attached (some n)).onLine n fun l => { l with claim := none, call := { l.call with pump := some p } }

theorem State.PoolInOrder.attaches (h : s.PoolInOrder) {p : PumpId} (settling : (s.pump p).state = .settling) (line : s.serves p n) :
    (s.attaching p n).PoolInOrder ∧ ∀ m, (s.attaching p n).busy m ↔ s.busy m := by
  obtain ⟨claim, absent, noPump⟩ := h.claimed settling line
  have serves : ∀ q m, (s.attaching p n).serves q m ↔ s.serves q m := fun q m => by
    change (s.onPump p fun _ => Pump.inState .attached (some n)).serves q m ↔ _
    rw [State.serves_onPump]
    have : s.serves p m ↔ m = n := ⟨fun k => Option.some.inj (k.symm.trans line), fun e => e ▸ line⟩
    grind
  have states : ∀ q, ((s.attaching p n).pump q).state = if q = p then .attached else (s.pump q).state := fun q => by
    unfold State.attaching
    rw [State.pump_onLine, State.pumpState_onPump]
  have claims : ∀ m, ((s.attaching p n).line m).claim = if m = n then none else (s.line m).claim := fun m => by
    unfold State.attaching
    rw [State.line_onLine]
    split <;> rfl
  have pumps : ∀ m, ((s.attaching p n).line m).call.pump = if m = n then some p else (s.line m).call.pump := fun m => by
    unfold State.attaching
    rw [State.line_onLine]
    split <;> rfl
  have only : ∀ m, s.serves p m → m = n := fun m k => Option.some.inj (k.symm.trans line)
  constructor
  · constructor
    case settling => intro q m; have := h.settling q m; rw [serves, states]; grind
    case attached => intro q; have := h.attached q; simp only [serves, states]; grind
    case one => intro q r m; rw [serves, serves]; exact h.one q r m
    case recorded =>
      intro m q
      have := h.recorded m q
      have := h.one p q n line
      have := only m
      rw [serves, states, pumps]
      grind
    case once => exact h.once
    case answers =>
      intro m x
      rw [claims, if_neg (by rintro rfl; exact absent (.inl x))]
      exact h.answers m x
    case originates =>
      intro m x
      rw [claims, if_neg (by rintro rfl; exact absent (.inr x))]
      exact h.originates m x
    case claims =>
      intro m
      have := h.claims m
      have := h.one p
      simp only [serves, states, claims]
      change _ ↔ s.queued m ∨ _
      grind
    case waiting => intro q m; rw [serves]; exact h.waiting q m
  · intro m
    simp only [State.busy, serves, claims]
    split
    next e => subst e; exact ⟨fun k => .inl claim, fun _ => .inr ⟨p, line⟩⟩
    next => rfl

theorem State.serves_requeued (s : State) (p q : PumpId) (n m : LineId) (c : Claim) (w : Timer) :
    (s.requeued p n c w).serves q m ↔ q ≠ p ∧ s.serves q m := by
  change (s.onPump p fun _ => Pump.inState .out none).serves q m ↔ _
  rw [State.serves_onPump]
  grind

theorem State.pumpState_requeued (s : State) (p q : PumpId) (n : LineId) (c : Claim) (w : Timer) :
    ((s.requeued p n c w).pump q).state = if q = p then .out else (s.pump q).state :=
  State.pumpState_onPump s p q .out none

theorem State.line_requeued (s : State) (p : PumpId) (n m : LineId) (c : Claim) (w : Timer) :
    (s.requeued p n c w).line m = if m = n then { s.line n with claim := some { c with wait := w } } else s.line m := by
  unfold State.requeued
  rw [State.line_onLine]
  rfl

theorem WaitQueue.mem_enqueueHead (q : WaitQueue) (n m : LineId) (c : ClaimClass) :
    (m ∈ (q.enqueueHead n c).answer ↔ m = n ∧ c = .answer ∨ m ∈ q.answer) ∧
    (m ∈ (q.enqueueHead n c).originate ↔ m = n ∧ c = .originate ∨ m ∈ q.originate) := by
  cases c <;> simp [WaitQueue.enqueueHead]

theorem WaitQueue.mem_enqueue (q : WaitQueue) (n m : LineId) (c : ClaimClass) :
    (m ∈ (q.enqueue n c).answer ↔ m = n ∧ c = .answer ∨ m ∈ q.answer) ∧
    (m ∈ (q.enqueue n c).originate ↔ m = n ∧ c = .originate ∨ m ∈ q.originate) := by
  cases c <;> simp [WaitQueue.enqueue, or_comm]

theorem WaitQueue.nodup_enqueueHead {q : WaitQueue} (h : (q.answer ++ q.originate).Nodup) (fresh : ¬(n ∈ q.answer ∨ n ∈ q.originate))
    (c : ClaimClass) : ((q.enqueueHead n c).answer ++ (q.enqueueHead n c).originate).Nodup := by
  cases c with
  | answer => exact List.nodup_cons.mpr ⟨by simpa [WaitQueue.enqueueHead] using fresh, h⟩
  | originate => exact List.nodup_middle.mpr (List.nodup_cons.mpr ⟨by simpa [WaitQueue.enqueueHead] using fresh, h⟩)

theorem WaitQueue.nodup_enqueue {q : WaitQueue} (h : (q.answer ++ q.originate).Nodup) (fresh : ¬(n ∈ q.answer ∨ n ∈ q.originate))
    (c : ClaimClass) : ((q.enqueue n c).answer ++ (q.enqueue n c).originate).Nodup := by
  have added : (n :: (q.answer ++ q.originate)).Nodup := List.nodup_cons.mpr ⟨by simpa using fresh, h⟩
  cases c with
  | answer => simpa [WaitQueue.enqueue] using List.nodup_middle.mpr added
  | originate =>
    rw [show (q.enqueue n .originate).answer ++ (q.enqueue n .originate).originate = q.answer ++ (q.originate ++ [n]) from rfl,
      ← List.append_assoc]
    exact (List.perm_append_singleton _ _).nodup_iff.mpr added

theorem State.queued_requeued (s : State) (p : PumpId) (n m : LineId) (c : Claim) (w : Timer) :
    (s.requeued p n c w).queued m ↔ m = n ∨ s.queued m := by
  change (m ∈ (s.queue.enqueueHead n c.cls).answer ∨ m ∈ (s.queue.enqueueHead n c.cls).originate) ↔ _
  rw [(WaitQueue.mem_enqueueHead ..).1, (WaitQueue.mem_enqueueHead ..).2, State.queued]
  cases c.cls <;> simp <;> tauto

theorem State.PoolInOrder.requeued (h : s.PoolInOrder) {p : PumpId} {c : Claim} (settling : (s.pump p).state = .settling)
    (line : s.serves p n) (claim : (s.line n).claim = some c) (w : Timer) :
    (s.requeued p n c w).PoolInOrder ∧ ∀ m, (s.requeued p n c w).busy m ↔ s.busy m := by
  obtain ⟨-, absent, noPump⟩ := h.claimed settling line
  have only : ∀ m, s.serves p m ↔ m = n := fun m => ⟨fun k => Option.some.inj (k.symm.trans line), fun e => e ▸ line⟩
  have claims : ∀ m, ((s.requeued p n c w).line m).claim = if m = n then some { c with wait := w } else (s.line m).claim := fun m => by
    rw [State.line_requeued]
    split <;> rfl
  have pumps : ∀ m, ((s.requeued p n c w).line m).call.pump = (s.line m).call.pump := fun m => by
    rw [State.line_requeued]
    split
    next e => rw [e]
    next => rfl
  constructor
  · constructor
    case settling => intro q m; have := h.settling q m; rw [State.serves_requeued, State.pumpState_requeued]; grind
    case attached => intro q; have := h.attached q; simp only [State.serves_requeued, State.pumpState_requeued]; grind
    case one => intro q r m; rw [State.serves_requeued, State.serves_requeued]; exact fun x y => h.one q r m x.2 y.2
    case recorded =>
      intro m q
      have := h.recorded m q
      rw [State.serves_requeued, State.pumpState_requeued, pumps]
      grind
    case once => exact WaitQueue.nodup_enqueueHead h.once absent c.cls
    case answers =>
      intro m x
      rw [claims]
      obtain ⟨rfl, e⟩ | waits := ((WaitQueue.mem_enqueueHead ..).1).mp x
      · simpa using e
      · rw [if_neg (by rintro rfl; exact absent (.inl waits))]
        exact h.answers m waits
    case originates =>
      intro m x
      rw [claims]
      obtain ⟨rfl, e⟩ | waits := ((WaitQueue.mem_enqueueHead ..).2).mp x
      · simpa using e
      · rw [if_neg (by rintro rfl; exact absent (.inr waits))]
        exact h.originates m waits
    case claims =>
      intro m
      have := h.claims m
      have := only m
      simp only [State.serves_requeued, State.pumpState_requeued, State.queued_requeued, claims]
      grind
    case waiting =>
      intro q m
      have := h.waiting q m
      have := h.one p q m
      have := only m
      rw [State.serves_requeued, State.queued_requeued]
      grind
  · intro m
    simp only [State.busy, State.serves_requeued, claims]
    have := only m
    by_cases e : m = n
    · simp [e, claim]
    · simp only [e, if_false]
      grind

/-- The pump attached to a line goes OUT. -/
def State.losing (s : State) (p : PumpId) (n : LineId) : State :=
  (s.onPump p fun _ => Pump.inState .out none).onCall n fun c => { c with pump := none }

theorem State.PoolInOrder.loses (h : s.PoolInOrder) {p : PumpId} (attached : (s.pump p).state = .attached) (line : s.serves p n) :
    (s.losing p n).PoolInOrder ∧ ∀ m, (s.losing p n).busy m → s.busy m := by
  have only : ∀ m, s.serves p m ↔ m = n := fun m => ⟨fun k => Option.some.inj (k.symm.trans line), fun e => e ▸ line⟩
  have serves : ∀ q m, (s.losing p n).serves q m ↔ q ≠ p ∧ s.serves q m := fun q m => by
    change (s.onPump p fun _ => Pump.inState .out none).serves q m ↔ _
    rw [State.serves_onPump]
    grind
  have states : ∀ q, ((s.losing p n).pump q).state = if q = p then .out else (s.pump q).state := fun q => by
    unfold State.losing
    rw [State.pump_onCall, State.pumpState_onPump]
  have lines : ∀ m, ((s.losing p n).line m).claim = (s.line m).claim ∧
      ((s.losing p n).line m).call.pump = if m = n then none else (s.line m).call.pump := fun m => by
    unfold State.losing State.onCall
    rw [State.line_onLine, State.line_onPump, State.line_onPump]
    split
    next e => rw [e]; exact ⟨rfl, rfl⟩
    next => exact ⟨rfl, rfl⟩
  constructor
  · constructor
    case settling => intro q m; have := h.settling q m; rw [serves, states]; grind
    case attached => intro q; have := h.attached q; simp only [serves, states]; grind
    case one => intro q r m; rw [serves, serves]; exact fun x y => h.one q r m x.2 y.2
    case recorded =>
      intro m q
      have := h.recorded m q
      have := h.one p q m
      have := only m
      rw [serves, states, (lines m).2]
      grind
    case once => exact h.once
    case answers => intro m; rw [(lines m).1]; exact h.answers m
    case originates => intro m; rw [(lines m).1]; exact h.originates m
    case claims =>
      intro m
      have := h.claims m
      simp only [serves, states, (lines m).1]
      change _ ↔ s.queued m ∨ _
      grind
    case waiting => intro q m x; rw [serves]; exact fun y => h.waiting q m x y.2
  · intro m
    simp only [State.busy, serves, (lines m).1]
    exact Or.imp_right fun ⟨q, _, y⟩ => ⟨q, y⟩

theorem State.placeClaim_cases (s : State) (n : LineId) (c : ClaimClass) :
    (∃ p, s.lowestFree = some p ∧ s.placeClaim n c =
      (s.onPump p fun _ => Pump.inState .settling (some n)).onLine n fun l => { l with claim := some ⟨c, .stopped⟩ }) ∨
    s.lowestFree = none ∧ s.placeClaim n c = { s with queue := s.queue.enqueue n c }.onLine n fun l =>
      { l with claim := some ⟨c, .running (l.profile.pumpWait c * 1000)⟩ } := by
  unfold State.placeClaim
  cases s.lowestFree with
  | none => exact .inr ⟨rfl, rfl⟩
  | some p => exact .inl ⟨p, rfl, rfl⟩

/-- The claims after a claim is placed. -/
theorem State.line_placeClaim (s : State) (n m : LineId) (c : ClaimClass) :
    ((s.placeClaim n c).line m).claim.map Claim.cls = (if m = n then some c else (s.line m).claim.map Claim.cls) ∧
    ((s.placeClaim n c).line m).call.pump = (s.line m).call.pump := by
  obtain ⟨p, -, e⟩ | ⟨-, e⟩ := s.placeClaim_cases n c <;> rw [e, State.line_onLine]
  · rw [State.line_onPump, State.line_onPump]
    split
    next e => rw [e]; exact ⟨rfl, rfl⟩
    next => exact ⟨rfl, rfl⟩
  · split
    next e => rw [e]; exact ⟨rfl, rfl⟩
    next => exact ⟨rfl, rfl⟩

theorem State.claim_placeClaim (s : State) (n m : LineId) (c : ClaimClass) :
    ((s.placeClaim n c).line m).claim ≠ none ↔ m = n ∨ (s.line m).claim ≠ none := by
  have k := (s.line_placeClaim n m c).1
  cases e : ((s.placeClaim n c).line m).claim <;> cases e' : (s.line m).claim <;> simp [e, e'] at k ⊢ <;> grind

/-- A claim placed on an idle line: it waits in the queue, no pump being FREE, or the FREE pump `p` settles for it. -/
structure Placed (n : LineId) (c : ClaimClass) (free : Option PumpId) (s t : State) : Prop where
  serves : ∀ q m, t.serves q m ↔ if free = some q then m = n else s.serves q m
  state : ∀ q, (t.pump q).state = if free = some q then .settling else (s.pump q).state
  queue : t.queue = if free = none then s.queue.enqueue n c else s.queue

theorem State.placeClaim_spec (s : State) (n : LineId) (c : ClaimClass) : Placed n c s.lowestFree s (s.placeClaim n c) := by
  obtain ⟨p, e, placed⟩ | ⟨e, placed⟩ := s.placeClaim_cases n c <;> rw [e, placed]
  · refine ⟨fun q m => ?_, fun q => ?_, by simp⟩
    · change (s.onPump p fun _ => Pump.inState .settling (some n)).serves q m ↔ _
      rw [State.serves_onPump]
      grind
    · rw [State.pump_onLine, State.pumpState_onPump]
      grind
  · exact ⟨fun q m => by simp; rfl, fun q => by simp; rfl, by simp⟩

theorem Placed.queued {c : ClaimClass} {free : Option PumpId} (k : Placed n c free s t) (m : LineId) :
    t.queued m ↔ free = none ∧ m = n ∨ s.queued m := by
  rw [State.queued, State.queued, k.queue]
  cases free with
  | some p => simp
  | none =>
    simp only [if_true, (WaitQueue.mem_enqueue ..).1, (WaitQueue.mem_enqueue ..).2]
    cases c <;> simp <;> tauto

theorem State.PoolInOrder.placeClaim (h : s.PoolInOrder) (granted : s.Granted) (idle : ¬s.busy n) (c : ClaimClass) :
    (s.placeClaim n c).PoolInOrder ∧ (s.placeClaim n c).Granted ∧ ∀ m, m ≠ n → ((s.placeClaim n c).busy m ↔ s.busy m) := by
  have k := s.placeClaim_spec n c
  obtain ⟨noClaim, noPump⟩ := State.not_busy_iff.mp idle
  have absent : ¬s.queued n := fun q => (h.claims n).mpr (.inl q) noClaim
  have free : ∀ p, s.lowestFree = some p → (s.pump p).state = .free := fun p => State.lowestFree_eq_some
  have vacant : ∀ p m, s.lowestFree = some p → ¬s.serves p m := fun p m e x => by
    obtain y | y := h.settling p m x <;> simp [free p e] at y
  constructor
  · constructor
    case settling => intro q m; have := h.settling q m; rw [k.serves, k.state]; grind
    case attached => intro q; have := h.attached q; simp only [k.serves, k.state]; grind
    case one => intro q r m; have := h.one q r m; rw [k.serves, k.serves]; grind
    case recorded =>
      intro m q
      have := h.recorded m q
      have := free q
      rw [k.serves, k.state, (s.line_placeClaim n m c).2]
      grind
    case once =>
      rw [k.queue]
      split
      · exact WaitQueue.nodup_enqueue h.once absent c
      · exact h.once
    case answers =>
      intro m x
      rw [(s.line_placeClaim n m c).1]
      rw [k.queue] at x
      have := h.answers m
      have := (WaitQueue.mem_enqueue s.queue n m c).1
      have : m = n → m ∉ s.queue.answer := fun e => e ▸ fun y => absent (.inl y)
      grind
    case originates =>
      intro m x
      rw [(s.line_placeClaim n m c).1]
      rw [k.queue] at x
      have := h.originates m
      have := (WaitQueue.mem_enqueue s.queue n m c).2
      have : m = n → m ∉ s.queue.originate := fun e => e ▸ fun y => absent (.inr y)
      grind
    case claims =>
      intro m
      rw [State.claim_placeClaim]
      have := h.claims m
      simp only [k.serves, k.state, k.queued]
      cases e : s.lowestFree <;> grind
    case waiting =>
      intro q m
      have := h.waiting q m
      have := granted q m
      have := free q
      rw [k.serves, k.queued]
      grind
  refine ⟨fun q m => ?_, fun m other => ?_⟩
  · have := granted q m
    have := fun e => State.lowestFree_eq_none (s := s) e q
    rw [k.queued, k.state]
    grind
  · simp only [State.busy, State.claim_placeClaim, k.serves]
    have := vacant
    grind

end Sys2Proof.Machine

/-! Every move keeps the law of the pump pool (04 R59 to R65). -/

namespace Sys2Proof.Machine

set_option Elab.async false

variable {s t u : State} {n : LineId}

/-! ## Lines -/

theorem Line.PoolFits.congr {l k : Line} {a b : Prop} (h : l.PoolFits a) (call : l.SameCall k) (settles : k.settles = l.settles)
    (listening : k.seq.listening = l.seq.listening) (busy : b → a) : k.PoolFits b where
  calls x := by rw [call.1]; exact h.calls (busy x)
  settles x := by rw [call.1]; exact (h.settles (settles ▸ x)).imp_right fun idle y => idle (busy y)
  listens x := by rw [Line.connectedAs_congr call]; exact (h.listens (listening ▸ x)).imp_right fun idle y => idle (busy y)

theorem Line.PoolFits.kept {a b : Prop} (h : (s.line n).PoolFits a) (call : Kept .call s t) (hear : Kept .hear s t) (busy : b → a) :
    (t.line n).PoolFits b := h.congr ⟨call.state n, call.service n⟩ (hear.settles n) (hear.listening n) busy

/-- The lines keep to the law when line `n` does, and what the law reads of the others stays. -/
theorem Line.PoolFits.apart (h : ∀ m, (s.line m).PoolFits (s.busy m)) (a : ∀ p, p ≠ .pool → Apart p n s t)
    (busy : ∀ m, m ≠ n → t.busy m → s.busy m) (self : (t.line n).PoolFits (t.busy n)) : ∀ m, (t.line m).PoolFits (t.busy m) := fun m => by
  by_cases e : m = n
  · rw [e]; exact self
  · have call := a .call nofun m e
    have hear := a .hear nofun m e
    exact (h m).congr ⟨congrArg Prod.fst call, congrArg (Prod.fst ∘ Prod.snd) call⟩ (congrArg Prod.fst hear) (congrArg Prod.snd hear)
      (busy m e)

/-- A line that is not busy, does not settle for a voice answer, and does not listen. -/
theorem Line.PoolFits.of_idle {l : Line} {a : Prop} (calls : a → l.call.state.holds) (settles : l.settles = false)
    (listening : l.seq.listening = false) : l.PoolFits a :=
  ⟨calls, fun x => absurd x (by simp [settles]), fun x => absurd x (by simp [listening])⟩

theorem Line.state_of_connectedAs {l : Line} {v : Service} (h : l.connectedAs v = true) : l.call.state = .connected := by
  simp [Line.connectedAs] at h; exact h.1

theorem LineState.holds_connected : LineState.connected.holds := .inr rfl

/-- What a line at rest does not do. -/
theorem Line.PoolFits.rest {l : Line} {a : Prop} (h : l.PoolFits a) (rest : l.call.state.rests) :
    ¬a ∧ l.settles = false ∧ l.seq.listening = false := by
  refine ⟨fun x => ?_, ?_, ?_⟩
  · obtain e | e := h.calls x
    exacts [rest.1 e, absurd e (by simp [rest.2])]
  · by_contra x
    have e := (h.settles (by simpa using x)).1
    exact absurd rest.2 (by simp [e, LineState.offHook])
  · by_contra x
    exact rest.not_connected (Line.state_of_connectedAs (h.listens (by simpa using x)).1)

theorem Line.PoolFits.answers {l k : Line} {a : Prop} (h : l.PoolFits a) (x : l.Answers k) : k.PoolFits a where
  calls _ := by rw [Line.state_of_connectedAs x.connected]; exact .inr rfl
  settles y := absurd y (by simp [x.settles])
  listens _ := ⟨x.connected, (h.settles x.settling).2⟩

theorem LineMove.poolFits {served a : Prop} {l k : Line} (h : l.PoolFits a) (busy : served → a) (m : LineMove served l k) :
    k.PoolFits a := by
  cases m with
  | rests rest fresh =>
    obtain ⟨idle, settled, deaf⟩ := h.rest rest
    refine .of_idle (fun x => absurd x idle) ?_ ?_
    · by_contra x; exact absurd (fresh.settles (by simpa using x)) (by simp [settled])
    · by_contra x; exact absurd (fresh.listening (by simpa using x)) (by simp [deaf])
  | settles rest state listening step opens =>
    obtain ⟨idle, -, deaf⟩ := h.rest rest
    exact ⟨fun x => absurd x idle, fun _ => ⟨state, idle⟩, fun x => absurd (listening ▸ x) (by simp [deaf])⟩
  | answers x => exact h.answers x
  | goesOn step call settles listening hears opens =>
    refine ⟨?_, ?_, fun x => ?_⟩
    · rw [call.1]; exact h.calls
    · rw [settles, call.1]; exact h.settles
    · rw [Line.connectedAs_congr call]; exact h.listens (listening x)
  | hushed call settles listening step opens =>
    refine ⟨?_, ?_, fun x => absurd x (by simp [listening])⟩
    · rw [call.1]; exact h.calls
    · rw [settles, call.1]; exact h.settles
  | opens training data call seq => exact h.congr call seq.settles seq.listening id
  | goes here there seq opens =>
    refine .of_idle (fun _ => there) ?_ ?_
    · by_contra x
      obtain ⟨answering, idle⟩ := h.settles (by simpa [seq.settles] using x)
      obtain ⟨-, served⟩ | ⟨-, served⟩ := here
      exacts [idle (busy (served answering)), idle (busy served)]
    · by_contra x
      obtain ⟨voice, idle⟩ := h.listens (by simpa [seq.listening] using x)
      obtain ⟨off, -⟩ | ⟨-, served⟩ := here
      exacts [absurd voice (by simp [off]), idle (busy served)]
  | switched state step quiet pump there settles listening host opens =>
    refine .of_idle (fun _ => there) ?_ ?_
    · by_contra x; exact (h.settles (by simpa [settles] using x)).2 (busy pump)
    · by_contra x; exact (h.listens (by simpa [listening] using x)).2 (busy pump)

/-! ## Every move keeps the law -/

theorem State.Granted.onPump (h : s.Granted) {p : PumpId} {st : PumpState} {l : Option LineId} (hst : st ≠ .free) :
    (s.onPump p fun _ => Pump.inState st l).Granted := fun q m x => by
  rw [State.pumpState_onPump]
  split
  · exact hst
  · exact h q m x

theorem SamePool.arbitrated (h : t.PoolInOrder ∧ ∀ n, t.busy n ↔ s.busy n) :
    t.arbitrate.PoolInOrder ∧ ∀ n, t.arbitrate.busy n → s.busy n :=
  have same := SamePool.arbitrate h.1
  ⟨same.inOrder, fun n x => (h.2 n).mp ((same.busy n).mp x)⟩

theorem Move.keeps_pumps (h : s.PumpsInOrder) (m : Move s t) : t.PumpsInOrder := by
  rw [State.pumpsInOrder_iff] at h ⊢
  obtain ⟨pool, granted, lines⟩ := h
  have keep : ∀ {t}, Kept .call s t → Kept .hear s t → (t.PoolInOrder ∧ ∀ n, t.busy n → s.busy n) → t.Granted →
      t.PoolInOrder ∧ t.Granted ∧ ∀ n, (t.line n).PoolFits (t.busy n) := fun call hear x granted =>
    ⟨x.1, granted, fun n => (lines n).kept call hear (x.2 n)⟩
  have beyond : ∀ {t}, (∀ p, p ≠ .pool → Kept p s t) → (t.PoolInOrder ∧ ∀ n, t.busy n → s.busy n) → t.Granted →
      t.PoolInOrder ∧ t.Granted ∧ ∀ n, (t.line n).PoolFits (t.busy n) := fun k => keep (k _ nofun) (k _ nofun)
  have kept : ∀ {t}, (∀ p, p ≠ .play → p ≠ .record → Kept p s t) → t.PoolInOrder ∧ t.Granted ∧ ∀ n, (t.line n).PoolFits (t.busy n) :=
    fun k => keep (k _ nofun nofun) (k _ nofun nofun) ⟨pool.kept (k _ nofun nofun), fun n => ((k .pool nofun nofun).busy n).mp⟩
      (granted.kept (k _ nofun nofun))
  have claim : ∀ {u : State} {n : LineId} {c : ClaimClass}, Within n s u → ¬s.busy n → (u.line n).call.state.holds →
      (u.line n).settles = false → (u.line n).seq.listening = false → (u.placeClaim n c).PoolInOrder ∧ (u.placeClaim n c).Granted ∧
        ∀ m, ((u.placeClaim n c).line m).PoolFits ((u.placeClaim n c).busy m) := fun {u n c} within idle there settled deaf => by
    have placed : ∀ p, p ≠ .pool → Kept p u (u.placeClaim n c) := fun p hp => Kept.refl.placeClaim hp n c
    obtain ⟨inOrder, dry, busy⟩ := (pool.kept within.pool).placeClaim (granted.kept within.pool) (fun x => idle ((within.pool.busy n).mp x)) c
    refine ⟨inOrder, dry, Line.PoolFits.apart lines (fun p hp => within.apart.trans (placed p hp).apart)
      (fun m other x => (within.pool.busy m).mp ((busy m other).mp x)) (.of_idle (fun _ => ?_) ?_ ?_)⟩
    · rw [(placed .call nofun).state]; exact there
    · exact ((placed .hear nofun).settles n).trans settled
    · exact ((placed .hear nofun).listening n).trans deaf
  have pumps : ∀ {p : Part}, p ≠ .pool → ∀ q x, Kept p s (s.onPump q x) := fun hp q x => Kept.refl.onPumpAny hp q x
  cases m with
  | still same => exact kept fun p _ _ => same p
  | inLine n within move =>
    refine ⟨pool.kept within.pool, granted.kept within.pool,
      Line.PoolFits.apart lines (fun _ _ => within.apart) (fun m _ => (within.pool.busy m).mp) ?_⟩
    rw [within.pool.busy]
    exact move.poolFits (lines n) .inr
  | ended n o u before service seq opens after fresh =>
    obtain ⟨inOrder, dry, idle, busy⟩ := State.releasePump_pool (pool.kept before.pool) n
    have k := (Kept.callEnd_pool u n o).trans after.pool
    have ended := u.line_callEnd n o
    refine ⟨inOrder.kept k, dry.kept k, Line.PoolFits.apart lines
      (fun _ hp => (before.apart.trans (Apart.callEnd u n o hp)).trans after.apart)
      (fun m other x => (before.pool.busy m).mp ((busy m other).mp ((k.busy m).mp x))) ?_⟩
    refine .of_idle (fun x => absurd ((k.busy n).mp x) idle) ?_ ?_
    · by_contra x; exact absurd (fresh.settles (by simpa using x)) (by simp [ended.settles])
    · by_contra x; exact absurd (fresh.listening (by simpa using x)) (by simp [ended.listening])
  | claims n c u within rest fresh there =>
    obtain ⟨idle, settled, deaf⟩ := (lines n).rest rest
    refine claim within idle there ?_ ?_
    · by_contra x; exact absurd (fresh.settles (by simpa using x)) (by simp [settled])
    · by_contra x; exact absurd (fresh.listening (by simpa using x)) (by simp [deaf])
  | switches n c u within listens call settles deaf opens =>
    obtain ⟨voice, idle⟩ := (lines n).listens listens
    have connected := Line.state_of_connectedAs voice
    refine claim within idle (by rw [call.1, connected]; exact .inr rfl) ?_ deaf
    by_contra x
    exact absurd ((lines n).settles (by simpa [settles] using x)).1 (by simp [connected])
  | drops n =>
    have k := s.dropClaim_spec n
    refine beyond (fun _ hp => Kept.refl.dropClaim hp n) ⟨k.inOrder pool, fun m x => ?_⟩ (k.granted granted)
    rw [k.busy] at x
    split at x
    next e => obtain ⟨q, -, y⟩ := x; exact .inr ⟨q, e ▸ y⟩
    next => exact x
  | attaches p n settling line =>
    obtain ⟨inOrder, busy⟩ := pool.attaches settling line
    exact beyond (fun _ hp => Kept.attached hp s p n _) ⟨inOrder, fun m => (busy m).mp⟩ (granted.onPump nofun)
  | frees q settling line =>
    have freed := pool.vacates (st := .free) (fun m x => by simp [State.serves, line] at x) settling nofun nofun
    exact beyond (fun _ hp => (pumps hp q _).arbitrate hp) (SamePool.arbitrated freed)
      (State.granted_arbitrate _)
  | out q settling line =>
    have idle : ∀ m, ¬s.serves q m := fun m x => (pool.claimed settling x).1 (line m x)
    obtain ⟨inOrder, busy⟩ := pool.vacates (st := .out) idle settling nofun nofun
    exact beyond (fun _ hp => pumps hp q _) ⟨inOrder, fun m => (busy m).mp⟩ (granted.onPump nofun)
  | requeues p n c w settling line claim dry =>
    obtain ⟨inOrder, busy⟩ := pool.requeued settling line claim w
    exact beyond (fun _ hp => Kept.requeued hp s p n c w) ⟨inOrder, fun m => (busy m).mp⟩ fun q _ _ =>
      State.lowestFree_eq_none dry q
  | regrants p n c w settling line claim =>
    have queued := pool.requeued settling line claim w
    exact beyond (fun _ hp => (Kept.requeued hp s p n c w).arbitrate hp) (SamePool.arbitrated queued)
      (State.granted_arbitrate _)
  | loses p n attached line =>
    obtain ⟨inOrder, busy⟩ := pool.loses attached line
    exact beyond (fun _ hp => Kept.lost hp s p n _) ⟨inOrder, busy⟩ (granted.onPump nofun)
  | greets n g c k card u within answers loaded =>
    have played := fun p hp => Kept.beginPlay (p := p) .refl hp n (.slot g) c k card (s₀ := u)
    have k := within.pool.trans (played .pool nofun)
    exact ⟨pool.kept k, granted.kept k, Line.PoolFits.apart lines (fun _ _ => within.apart.trans (Apart.beginPlay u n _ c _ card))
      (fun m _ => (k.busy m).mp) (((lines n).answers answers).kept (played _ nofun) (played _ nofun) (k.busy n).mp)⟩
  | answersRecording n m k b u within answers deaf empty =>
    have recorded := fun p hr hs => Kept.autoRecorded (p := p) hr hs u n m k b
    have k := within.pool.trans (recorded .pool nofun nofun)
    exact ⟨pool.kept k, granted.kept k, Line.PoolFits.apart lines (fun _ _ => within.apart.trans (Apart.autoRecorded u n m _ b))
      (fun m _ => (k.busy m).mp) (((lines n).answers answers).kept (recorded _ nofun nofun) (recorded _ nofun nofun) (k.busy n).mp)⟩
  | autoRecords n m k b step deaf empty =>
    have recorded := fun p hr hs => Kept.autoRecorded (p := p) hr hs s n m k b
    have k := recorded .pool nofun nofun
    exact keep (recorded _ nofun nofun) (recorded _ nofun nofun) ⟨pool.kept k, fun n => (k.busy n).mp⟩ (granted.kept k)
  | records n m k b voice host none empty => exact kept fun p _ hp => Kept.refl.beginRecording hp n m k b
  | recordingEnds n r recording within call settles listening step opens =>
    have finished := fun p hp => Kept.finishRecording (p := p) .refl hp n r (s₀ := s)
    have k := (finished .pool nofun).trans within.pool
    exact ⟨pool.kept k, granted.kept k, Line.PoolFits.apart lines (fun _ _ => (Apart.finishRecording s n r).trans within.apart)
      (fun m _ => (k.busy m).mp)
      (((lines n).kept (finished _ nofun) (finished _ nofun) ((finished .pool nofun).busy n).mp).congr call settles listening
        (within.pool.busy n).mp)⟩
  | plays n x c k card voice quiet some loaded => exact kept fun p hp _ => Kept.refl.beginPlay hp n x c k card
  | playEnds n e st r => exact kept fun p hp _ => Kept.refl.finishPlay hp n e st r
  | loads g c k empty => exact kept fun p hp _ => Kept.refl.onSlot hp g _
  | empties g quiet => exact kept fun p hp _ => Kept.refl.emptySlot hp g
  | withdraws g i plays => exact kept fun p hp _ => Kept.refl.onSlot hp g _
  | collects m complete => exact kept fun p _ hp => Kept.refl.onMessageAny hp m _

theorem Path.keeps_pumps (h : Path s t) (k : s.PumpsInOrder) : t.PumpsInOrder := by
  induction h with
  | refl => exact k
  | tail _ m ih => exact m.keeps_pumps ih

theorem State.PumpsInOrder.withQueue (h : s.PumpsInOrder) (q : List Instr) : (s.withQueue q).PumpsInOrder :=
  ⟨h.settling, h.attached, h.one, h.recorded, h.once, h.answers, h.originates, h.claims, h.waiting, h.granted, h.calls, h.settles,
    h.listens⟩

/-- Settles O2: every command but an engine reset is a chain of moves, each of which keeps the pool in order; a reset has every pump settle
for no line. -/
theorem everyStepKeepsPumpsInOrder : Obligations.EveryStepKeepsPumpsInOrder := by
  unfold Obligations.EveryStepKeepsPumpsInOrder
  intro s t hs h
  refine step_keeps (P := State.PumpsInOrder) (fun s q k => k.withQueue q) (fun c s t k e => ?_) hs h
  obtain ⟨z, rfl⟩ | path := exec_path e
  · exact State.pumpsInOrder_engineReset s z
  · exact path.keeps_pumps k

end Sys2Proof.Machine

/-! O17: the write guard (10 R169, R171), by the area of the store that the window reaches. -/

namespace Sys2Proof.Machine

set_option Elab.async false

/-! ## The guard by areas -/

theorem exec_hostStoreWrite {o : BitVec 12} (even : o.getLsbD 0 = false) (v : Word) (s : State) :
    exec (.hostStoreWrite o v) s = done s (s.hostWord (s.windowAddr o) v) := by
  change (if o.getLsbD 0 = true then _ else _) = _
  rw [if_neg (by rw [even]; decide)]

theorem cardAt_engine {a : Nat} (lo : 0x80 ≤ a) (hi : a < 0x100) : cardAt a = some (.engine, (a - 0x80) / 32) := by
  simp [cardAt, lo, hi]

theorem cardAt_line {a : Nat} (lo : 0x900 ≤ a) (hi : a < 0xD00) :
    cardAt a = some (.line (Fin.ofNat 4 ((a - 0x900) / 256)), (a % 256) / 32) := by
  simp [cardAt, lo, hi, show ¬a < 0x100 by omega]

theorem cardAt_none {a : Nat} (h : a < 0x80 ∨ 0x100 ≤ a ∧ a < 0x900 ∨ 0xD00 ≤ a) : cardAt a = none := by
  unfold cardAt
  rw [if_neg (by omega), if_neg (by omega)]

variable (s : State) (v : Word) {a : Nat}

theorem State.guarded_card {T : TableId} {i : Nat} (h : cardAt a = some (T, i)) :
    s.guarded a v = ((s.card T i).hostWrite (a % 32) v).map fun c => s.setCard T i c := by
  simp only [State.guarded, h]

theorem State.guarded_header (h : a < 0x80) : s.guarded a v = (s.hdr.hostWrite a v).map fun h => { s with hdr := h } := by
  simp only [State.guarded, cardAt_none (.inl h), if_pos h]

theorem State.guarded_record (lo : 0x100 ≤ a) (hi : a < 0x500) :
    s.guarded a v = ((s.line (Fin.ofNat 4 ((a - 0x100) / 256))).ev.hostWrite (a % 256) v).map fun w =>
      s.onLine (Fin.ofNat 4 ((a - 0x100) / 256)) fun l => { l with ev := w } := by
  simp only [State.guarded, cardAt_none (a := a) (by omega), if_neg (show ¬a < 0x80 by omega), if_pos hi]

theorem State.guarded_profile (lo : 0x500 ≤ a) (hi : a < 0x900) :
    s.guarded a v = some (if a % 256 < 0x78 then s.writePlain a v else s) := by
  simp only [State.guarded, cardAt_none (a := a) (by omega), if_neg (show ¬a < 0x80 by omega), if_neg (show ¬a < 0x500 by omega), if_pos hi]

theorem State.guarded_map (lo : 0xD00 ≤ a) (hi : a < 0x1100) :
    s.guarded a v = if (a - 0xD00) / 2 < s.store.blockCount then some (s.writePlain a v) else none := by
  simp only [State.guarded, cardAt_none (a := a) (by omega), if_neg (show ¬a < 0x80 by omega), if_neg (show ¬a < 0x500 by omega),
    if_neg (show ¬a < 0x900 by omega), if_pos hi]

theorem State.guarded_high (lo : 0x1100 ≤ a) :
    s.guarded a v = if a < 0x1D00 then none else if a < 0x4000 then some (s.writePlain a v)
      else if s.store.owners[(a - 0x4000) / 1024]? = some .host then some (s.writePlain a v) else none := by
  simp only [State.guarded, cardAt_none (a := a) (by omega), if_neg (show ¬a < 0x80 by omega), if_neg (show ¬a < 0x500 by omega),
    if_neg (show ¬a < 0x900 by omega), if_neg (show ¬a < 0x1100 by omega)]

/-! ## What a write leaves -/

/-- The commit of an event that changes a field of the header, and no line and no message entry. -/
theorem State.commit_header {s t : State} (seen : s.headerView ≠ t.headerView) (lines : t.lines = s.lines)
    (messages : t.messages = s.messages) (pending : t.pending = s.pending) :
    s.commit t = { t with hdr := { t.hdr with changeCount := s.hdr.changeCount + 2 } } := by
  have els : (Vector.ofFn fun n => commitLine (s.line n) (t.line n)) = t.lines := by
    ext i hi : 1
    simp [State.line, lines]
  have ems : (Vector.ofFn fun m => commitMessage (s.message m) (t.message m)) = t.messages := by
    ext i hi : 1
    simp [State.message, messages]
  unfold State.commit
  rw [if_neg seen, els, ems, ← pending]

theorem State.commit_guardDrop : s.commit s.guardDrop = s.dropped := by
  refine State.commit_header (fun e => ?_) rfl rfl rfl
  have fields := congrArg (fun x : List Field × List (List Field) => (x.1[3]?).map fun f : Field => f.2.2) e
  have counts : s.hdr.guardCount.toNat = (s.hdr.guardCount + 1).toNat := Option.some.inj fields
  bv_omega

theorem exec_write_dropped {o : BitVec 12} (even : o.getLsbD 0 = false) (none : s.guarded (s.windowAddr o) v = none) :
    exec (.hostStoreWrite o v) s = .next s.dropped := by
  rw [exec_hostStoreWrite even, done, State.hostWord, none, Option.getD_none, s.commit_guardDrop]

/-- A write honoured that no Change Count brackets. -/
theorem exec_write_honoured {o : BitVec 12} {t : State} (even : o.getLsbD 0 = false) (some : s.guarded (s.windowAddr o) v = some t)
    (unseen : s.commit t = t) : exec (.hostStoreWrite o v) s = .next t := by
  rw [exec_hostStoreWrite even, done, State.hostWord, some, Option.getD_some, unseen]

theorem State.commit_writePlain (a : Nat) : s.commit (s.writePlain a v) = s.writePlain a v := State.commit_rest rfl rfl rfl rfl rfl

theorem State.commit_setCard (T : TableId) (i : Nat) (c : Card) : s.commit (s.setCard T i c) = s.setCard T i c := by
  cases T with
  | line n => exact s.commit_unseen n (fun _ => rfl) fun _ => rfl
  | engine => exact State.commit_rest rfl rfl rfl rfl rfl

/-! ## Writes dropped -/

theorem Header.hostWrite_none {h : Header} (x : a ∉ [0x06, 0x08, 0x0A, 0x0C, 0x0E, 0x10, 0x12]) : h.hostWrite a v = none := by
  simp only [List.mem_cons, List.not_mem_nil, or_false, not_or] at x
  obtain ⟨a1, a2, a3, a4, a5, a6, a7⟩ := x
  simp [Header.hostWrite, EventWord.hostWrite, a1, a2, a3, a4, a5, a6, a7]

theorem EventWord.hostWrite_none {w : EventWord} (x : a ∉ [0x06, 0x08, 0x0A]) : w.hostWrite a v = none := by
  simp only [List.mem_cons, List.not_mem_nil, or_false, not_or] at x
  obtain ⟨a1, a2, a3⟩ := x
  simp [EventWord.hostWrite, a1, a2, a3]

theorem State.guarded_none (h : (a < 0x80 ∧ a ∉ [0x06, 0x08, 0x0A, 0x0C, 0x0E, 0x10, 0x12]) ∨
    (0x100 ≤ a ∧ a < 0x500 ∧ a % 256 ∉ [0x06, 0x08, 0x0A]) ∨
    (0xD00 ≤ a ∧ 0xD00 + 2 * s.store.owners.length ≤ a ∧ a < 0x1D00) ∨ (0x1100 ≤ a ∧ a < 0x1D00) ∨
    (0x4000 ≤ a ∧ s.store.owners[(a - 0x4000) / 1024]? ≠ some .host)) : s.guarded a v = none := by
  have count : s.store.blockCount = s.store.owners.length := rfl
  obtain ⟨low, x⟩ | ⟨lo, hi, x⟩ | ⟨lo, beyond, hi⟩ | ⟨lo, hi⟩ | ⟨lo, owner⟩ := h
  · rw [s.guarded_header v low, Header.hostWrite_none v x]; rfl
  · rw [s.guarded_record v lo hi, EventWord.hostWrite_none v x]; rfl
  · by_cases map : a < 0x1100
    · rw [s.guarded_map v lo map, if_neg (by omega)]
    · rw [s.guarded_high v (by omega), if_pos hi]
  · rw [s.guarded_high v lo, if_pos hi]
  · rw [s.guarded_high v (by omega), if_neg (by omega), if_neg (by omega), if_neg owner]

/-! ## Writes of plain bytes -/

theorem State.guarded_plain (h : (0x500 ≤ a ∧ a < 0x900 ∧ a % 256 < 0x78) ∨
    (0xD00 ≤ a ∧ a < 0xD00 + 2 * s.store.owners.length ∧ a < 0x1100) ∨ (0x1D00 ≤ a ∧ a < 0x4000) ∨
    (0x4000 ≤ a ∧ s.store.owners[(a - 0x4000) / 1024]? = some .host)) : s.guarded a v = some (s.writePlain a v) := by
  have count : s.store.blockCount = s.store.owners.length := rfl
  obtain ⟨lo, hi, named⟩ | ⟨lo, below, hi⟩ | ⟨lo, hi⟩ | ⟨lo, owner⟩ := h
  · rw [s.guarded_profile v lo hi, if_pos named]
  · rw [s.guarded_map v lo hi, if_pos (by omega)]
  · rw [s.guarded_high v (by omega), if_neg (by omega), if_pos hi]
  · rw [s.guarded_high v (by omega), if_neg (by omega), if_neg (by omega), if_pos owner]

theorem Memory.get_setWord_word {m : List Host.Cell} (h : Memory.wf m = true) (a b : Nat) (v : Word) :
    Memory.get (Memory.setWord m a v.toNat) b =
      if b = a then v.setWidth 8 else if b = a + 1 then (v >>> 8).setWidth 8 else Memory.get m b := by
  have low : byteOf v.toNat 0 = v.setWidth 8 := by
    apply BitVec.eq_of_toNat_eq
    simp [byteOf]
  have high : byteOf v.toNat 1 = (v >>> 8).setWidth 8 := by
    apply BitVec.eq_of_toNat_eq
    simp [byteOf, Nat.shiftRight_eq_div_pow]
  rw [Memory.get_setWord h, low, high]
  by_cases e : b = a
  · simp [e]
  · simp only [e, if_false]

/-! ## Writes to cards -/

/-- The store offset of card `i` of a table (12.1). -/
def cardAddr (T : TableId) (i : Nat) : Nat :=
  match T with
  | .line n => 0x900 + 256 * n.val + 32 * i
  | .engine => 0x80 + 32 * i

theorem cardAt_cardAddr {T : TableId} {i k : Nat} (hi : i < (match T with | .line _ => 8 | .engine => 4)) (hk : k < 32) :
    cardAt (cardAddr T i + k) = some (T, i) ∧ (cardAddr T i + k) % 32 = k := by
  cases T with
  | engine =>
    simp only [cardAddr] at hi ⊢
    refine ⟨?_, by omega⟩
    rw [cardAt_engine (by omega) (by omega)]
    congr 2
    omega
  | line n =>
    simp only [cardAddr] at hi ⊢
    refine ⟨?_, by omega⟩
    have := n.isLt
    rw [cardAt_line (by omega) (by omega)]
    have en : Fin.ofNat 4 ((0x900 + 256 * n.val + 32 * i + k - 0x900) / 256) = n := Fin.ext (by simp only [Fin.val_ofNat]; omega)
    have ei : (0x900 + 256 * n.val + 32 * i + k) % 256 / 32 = i := by omega
    rw [en, ei]

theorem exec_write_card {T : TableId} {i k : Nat} {o : BitVec 12} (even : o.getLsbD 0 = false)
    (hi : i < (match T with | .line _ => 8 | .engine => 4)) (hk : k < 32) (addr : s.windowAddr o = cardAddr T i + k) :
    exec (.hostStoreWrite o v) s = .next (match (s.card T i).hostWrite k v with | some c => s.setCard T i c | none => s.dropped) := by
  obtain ⟨at_, offset⟩ := cardAt_cardAddr hi hk
  have guarded := s.guarded_card v at_
  rw [← addr] at guarded offset
  rw [offset] at guarded
  cases e : (s.card T i).hostWrite k v with
  | none => exact exec_write_dropped s v even (by rw [guarded, e]; rfl)
  | some c => exact exec_write_honoured s v even (by rw [guarded, e]; rfl) (s.commit_setCard T i c)

theorem Card.hostWrite_hand (c : Card) : c.hostWrite 0 v = (c.hand.hostWrite v).map fun h => { c with hand := h } := rfl

theorem Card.hostWrite_body (c : Card) {k : Nat} (hk : 2 ≤ k) (free : c.hand = .free) :
    c.hostWrite k v = some { c with body := (c.body.set (k - 2) (v.setWidth 8)).set (k - 1) ((v >>> 8).setWidth 8) } := by
  have low : byteOf v.toNat 0 = v.setWidth 8 := by
    apply BitVec.eq_of_toNat_eq
    simp [byteOf]
  have high : byteOf v.toNat 1 = (v >>> 8).setWidth 8 := by
    apply BitVec.eq_of_toNat_eq
    simp [byteOf, Nat.shiftRight_eq_div_pow]
  rw [Card.hostWrite, if_neg (by omega), if_pos free, low, high]

theorem Card.hostWrite_busy (c : Card) {k : Nat} (hk : 2 ≤ k) (busy : c.hand ≠ .free) : c.hostWrite k v = none := by
  rw [Card.hostWrite, if_neg (by omega), if_neg busy]

/-! ## The host's own words -/

theorem exec_write_header {o : BitVec 12} (even : o.getLsbD 0 = false) (low : s.windowAddr o < 0x80) {h : Header}
    (some : s.hdr.hostWrite (s.windowAddr o) v = some h) (unseen : s.commit { s with hdr := h } = { s with hdr := h }) :
    exec (.hostStoreWrite o v) s = .next { s with hdr := h } :=
  exec_write_honoured s v even (by rw [s.guarded_header v low, some]; rfl) unseen

theorem exec_write_event {o : BitVec 12} (even : o.getLsbD 0 = false) {n : LineId} {k : Nat} (addr : s.windowAddr o = 0x100 + k + 256 * n.val)
    (hk : k < 256) {f : EventWord → EventWord} (some : ∀ w : EventWord, w.hostWrite k v = some (f w))
    (hf : ∀ w, (f w).bits = w.bits ∧ (f w).tally = w.tally) :
    exec (.hostStoreWrite o v) s = .next (s.onLine n fun l => { l with ev := f l.ev }) := by
  have := n.isLt
  have line : Fin.ofNat 4 ((s.windowAddr o - 0x100) / 256) = n := Fin.ext (by simp only [Fin.val_ofNat]; omega)
  have offset : s.windowAddr o % 256 = k := by omega
  refine exec_write_honoured s v even ?_ (s.commit_unseen n (fun l => ?_) fun _ => rfl)
  · rw [s.guarded_record v (by omega) (by omega), line, offset, some]
    rfl
  · simp only [Line.view, Line.fields, (hf l.ev).1, (hf l.ev).2]

/-- Settles O17, area by area. -/
theorem writeGuard : Obligations.WriteGuard := by
  unfold Obligations.WriteGuard
  refine ⟨fun o v s even h => exec_write_dropped s v even (s.guarded_none v h), fun o v s even h => ?_, fun o v s => ?_, ?_⟩
  · exact ⟨_, exec_write_honoured s v even (s.guarded_plain v h) (s.commit_writePlain v _), fun wf b => Memory.get_setWord_word wf _ b v⟩
  · refine ⟨fun e even => ?_, fun e even => ?_, fun e even => ?_, fun e even => ?_, fun e even => ?_, fun e even => ?_, fun e even => ?_,
      fun n => ⟨fun e even => ?_, fun e even => ?_, fun e even => ?_⟩⟩
    iterate 7 exact exec_write_header s v even (by omega) (by rw [e]; rfl) (State.commit_rest rfl rfl rfl rfl rfl)
    · exact exec_write_event s v even (k := 6) (by omega) (by omega) (f := fun w => { w with mask := v }) (fun _ => rfl) fun _ => ⟨rfl, rfl⟩
    · exact exec_write_event s v even (k := 8) (by omega) (by omega) (f := fun w => { w with route := v }) (fun _ => rfl) fun _ => ⟨rfl, rfl⟩
    · exact exec_write_event s v even (k := 10) (by omega) (by omega) (f := fun w => { w with ack := v }) (fun _ => rfl) fun _ => ⟨rfl, rfl⟩
  · intro T i o v s even hi
    refine ⟨fun addr => ?_, fun k lo hi' addr => ?_⟩
    · have written := exec_write_card s v even hi (k := 0) (by omega) addr
      rw [Card.hostWrite_hand] at written
      refine ⟨fun h x => ?_, fun h x => ?_, fun h x => ?_, fun h => ?_⟩ <;> rw [written]
      · simp [h, x, Hand.hostWrite]
      · simp [h, x, Hand.hostWrite]
      · obtain h | h := h <;> simp [h, x, Hand.hostWrite]
      · have dropped : (s.card T i).hand.hostWrite v = none := by
          obtain h | ⟨h, zero, one⟩ | ⟨h | h, zero⟩ := h <;> rw [h]
          · rfl
          · rw [Hand.hostWrite, if_neg one, if_neg zero]
          · rw [Hand.hostWrite, if_neg zero]
          · rw [Hand.hostWrite, if_neg zero]
        rw [dropped]
        rfl
    · have written := exec_write_card s v even hi hi' addr
      refine ⟨fun free => ?_, fun busy => ?_⟩ <;> rw [written]
      · rw [Card.hostWrite_body v _ lo free]
      · rw [Card.hostWrite_busy v _ lo busy]

end Sys2Proof.Machine

/-! Events of one line: what a command leads to when it changes one line and nothing else. -/

namespace Sys2Proof.Machine

set_option Elab.async false

/-- A command that is one event of line `n` alone. -/
theorem exec_eq_eventOn {c : Instr} {n : LineId} {s : State} {f g : Line → Line} (h : exec c s = done s (s.onLine n f))
    (same : f (s.line n) = g (s.line n)) : exec c s = .next (s.eventOn n g) := by
  rw [h, done, State.commit_onLine, State.eventOn]
  exact congrArg _ (State.onLine_congr (congrArg (commitLine (s.line n)) same))

/-- A command that leaves the state as it is. -/
theorem exec_eq_self {c : Instr} {s : State} (h : exec c s = done s s) : exec c s = .next s := by
  rw [h, done, State.commit_self]

theorem State.onCtl_eq_onLine (s : State) (n : LineId) (f : LineControl → LineControl) :
    s.onCtl n f = s.onLine n fun l => { l with ctl := f l.ctl } := rfl

theorem State.onDialler_eq_onLine (s : State) (n : LineId) (f : Dialler → Dialler) :
    s.onDialler n f = s.onLine n fun l => { l with dialler := f l.dialler } := rfl

/-- Where an event that is one leads. -/
theorem Leads.iff_of_done {c : Instr} {s t u : State} (h : exec c s = done s t) (pending : t.pending = s.pending) :
    Leads c s u ↔ t.uncounted = u.uncounted := by
  constructor
  · rintro ⟨v, hv, e⟩
    obtain rfl := Host.Outcome.next.inj (h.symm.trans hv)
    rw [← e, State.uncounted_commit pending]
  · intro e
    exact ⟨_, h, (State.uncounted_commit pending).trans e⟩

/-- The close of the decoder's window changes of line `n` at most its dialler's window and the caller's record. -/
theorem State.closeWindow_keeps (s : State) (n : LineId) :
    (s.closeWindow n).hdr.tick = s.hdr.tick ∧ ((s.closeWindow n).line n).profile = (s.line n).profile ∧
      ((s.closeWindow n).line n).fm = (s.line n).fm ∧
      ∃ r, ((s.closeWindow n).line n).call = { (s.line n).call with caller := r } := by
  unfold State.closeWindow State.fileCaller; dsimp only; split
  · exact ⟨by simp, by simp, by simp, ⟨.damaged, [], [], []⟩, by simp⟩
  · exact ⟨by simp, by simp, by simp, (s.line n).call.caller, by simp⟩

end Sys2Proof.Machine

/-! O28: the loop sense and the events that end a call (01 R10 to R13; 07 R128, R130). -/

namespace Sys2Proof.Machine

set_option Elab.async false

variable {n : LineId} {s : State}

theorem DialPhase.breaksLoop_iff {p : DialPhase} : p.breaksLoop = true ↔ p = .flash ∨ ∃ k, p = .pulseBreak k := by
  cases p <;> simp [DialPhase.breaksLoop]

/-! ## The loop sense -/

theorem exec_loopCurrentFall_measures (hook : (s.line n).call.state.offHook = true)
    (closed : (s.line n).dialler.phase.breaksLoop = false) : exec (.loopCurrentFall n) s =
      .next (s.eventOn n fun l => { l with ctl := { l.ctl with loopPresent := false, loopMeasuring := true } }) := by
  refine exec_eq_eventOn (f := _) rfl ?_
  simp [hook, closed]

theorem exec_loopCurrentFall_alone (no : (s.line n).call.state.offHook = false ∨ (s.line n).dialler.phase.breaksLoop = true) :
    exec (.loopCurrentFall n) s = .next (s.eventOn n fun l => { l with ctl := { l.ctl with loopPresent := false } }) := by
  refine exec_eq_eventOn (f := _) rfl ?_
  rcases no with no | no <;> simp [no]

theorem State.loopReturn_eq (s : State) (n : LineId) : s.loopReturn n =
    let u := s.onCtl n fun c => { c with loopPresent := true, loopMeasuring := false, heldCarrierLoss := false }
    if (s.line n).ctl.heldCarrierLoss = true then u.fault n .carrierLost else u := rfl

theorem exec_loopCurrentReturn_quiet (held : (s.line n).ctl.heldCarrierLoss = false) : exec (.loopCurrentReturn n) s =
    .next (s.eventOn n fun l => { l with ctl := { l.ctl with loopPresent := true, loopMeasuring := false } }) := by
  have same : s.loopReturn n = s.onCtl n fun c => { c with loopPresent := true, loopMeasuring := false, heldCarrierLoss := false } := by
    rw [State.loopReturn_eq, held]; rfl
  refine exec_eq_eventOn (f := _) (congrArg (done s) same) ?_
  simp [held]

theorem faults_loopCurrentReturn (held : (s.line n).ctl.heldCarrierLoss = true) (hook : (s.line n).call.state.offHook = true) :
    Faults (.loopCurrentReturn n) n .carrierLost .none s := by
  have same : s.loopReturn n =
      (s.onCtl n fun c => { c with loopPresent := true, loopMeasuring := false, heldCarrierLoss := false }).takeFault n .carrierLost
        .none false false := by
    rw [State.loopReturn_eq, held]; rfl
  have run : exec (.loopCurrentReturn n) s = done s (s.loopReturn n) := rfl
  rw [same] at run
  refine Faults.of_done run (Line.takesFault_of (.inr (.inr ?_))) ?_ ?_ ?_ (LineEffect.refl.onCtl _)
  all_goals rw [State.line_onCtl_self]
  exact hook

/-! ## Clear decisions -/

theorem clears_loopDropExpiry (measuring : (s.line n).ctl.loopMeasuring = true) : Clears (.loopDropExpiry n) n .remoteCleared s := by
  have run : exec (.loopDropExpiry n) s = done s (s.loopDrop n) := rfl
  rw [State.loopDrop, if_pos measuring] at run
  exact Clears.of_done run rfl rfl rfl .refl

theorem Line.expires_of {l : Line} {st : LineState} (state : l.call.state = st) (runs : l.ctl.stateTimer.isRunning = true) :
    l.expires st = true := by simp [Line.expires, state, runs]

theorem clears_answerWaitExpiry (state : (s.line n).call.state = .progress) (runs : (s.line n).ctl.stateTimer.isRunning = true) :
    Clears (.answerWaitExpiry n) n .noAnswer s := by
  have run : exec (.answerWaitExpiry n) s = done s (if (s.line n).expires .progress then s.clearDecision n .noAnswer else s) := rfl
  rw [if_pos (Line.expires_of state runs)] at run
  exact Clears.of_done run rfl rfl rfl .refl

theorem clears_faxReleaseSent (sender : s.faxAs n .sender = true) (work : (s.line n).fax.work = .releaseOut) :
    Clears (.faxReleaseSent n) n .localCleared s := by
  have run : exec (.faxReleaseSent n) s = done s (s.releaseSent n) := rfl
  rw [State.releaseSent, if_pos ⟨sender, work⟩] at run
  exact Clears.of_done run rfl rfl rfl .refl

theorem clears_releaseFrame (receiver : s.faxAs n .receiver = true)
    (phase : (s.line n).fax.phase = .post ∨ (s.line n).fax.phase = .release) : Clears (.releaseFrame n) n .localCleared s := by
  have run : exec (.releaseFrame n) s = done s (s.releaseReceived n) := rfl
  rw [State.releaseReceived, if_pos ⟨receiver, phase⟩] at run
  exact Clears.of_done run rfl rfl rfl .refl

/-! ## The ring gap -/

/-- The expiry in ALERTING: MISSED, and the line enters IDLE without CLEARING (R12). -/
theorem ringGapExpiry_misses (state : (s.line n).call.state = .alerting) (runs : (s.line n).ctl.stateTimer.isRunning = true) :
    ∃ t, exec (.ringGapExpiry n) s = .next t ∧
      (t.line n).call =
        { (s.line n).call with
          state := .idle, lastOutcome := .missed, service := .none, pump := none, tClear := s.hdr.tick
          caller := (t.line n).call.caller } ∧
      (t.line n).ctl.stateTimer = .stopped ∧ (t.line n).claim = none ∧ (t.line n).ev.bits.getLsbD 3 = true ∧
      (t.line n).fm = (s.line n).fm ∧ (s.line n).ev.Risen (t.line n).ev ∧ State.Aside n s t ∧ State.Steady s t := by
  have run : exec (.ringGapExpiry n) s = done s (s.ringGap n) := rfl
  rw [State.ringGap, if_pos (Line.expires_of state runs)] at run
  have effect : LineEffect n s
      ((((s.closeWindow n).onCall n fun c => { c with lastOutcome := .missed }).callEnd n .missed).enter n .idle .stopped) :=
    ((LineEffect.refl.closeWindow.onCall).callEnd _).enter _ _
  obtain ⟨tick, -, fm, caller, call⟩ := s.closeWindow_keeps n
  obtain ⟨c1, c2, -, c4, -, -, c7, -⟩ := State.callEnd_spec ((s.closeWindow n).onCall n fun c => { c with lastOutcome := .missed }) n .missed
  have tick' : ((s.closeWindow n).onCall n fun c => { c with lastOutcome := .missed }).hdr.tick = s.hdr.tick := tick
  rw [State.line_onCall_self, call, tick'] at c1
  rw [State.line_onCall_self, fm] at c4
  generalize ((s.closeWindow n).onCall n fun c => { c with lastOutcome := .missed }).callEnd n .missed = u at *
  have line : (u.enter n .idle .stopped).line n =
      { u.line n with call := { (u.line n).call with state := .idle }, ctl := { (u.line n).ctl with stateTimer := .stopped } } := by
    simp [State.enter]
  have whole := effect.commit
  refine ⟨_, run, ?_, ?_, ?_, ?_, ?_, whole.events, whole.aside, whole.steady⟩
  all_goals rw [State.line_commit, line]
  · simp only [commitLine, c1]
  · rfl
  · exact c2
  · exact c7
  · exact c4

/-- Settles O28: each event by the branch it takes; the fault and the clear decisions by what these leave in general. -/
theorem loopSenseAndEventsThatClear : Obligations.LoopSenseAndEventsThatClear := by
  refine ⟨fun n s => ⟨fun hook flash pulse => ?_, fun no => ?_, exec_loopCurrentReturn_quiet, faults_loopCurrentReturn⟩,
    fun n s => ⟨clears_loopDropExpiry, clears_answerWaitExpiry, clears_faxReleaseSent, clears_releaseFrame, ringGapExpiry_misses⟩⟩
  · refine exec_loopCurrentFall_measures hook (Bool.eq_false_iff.mpr fun h => ?_)
    exact (DialPhase.breaksLoop_iff.mp h).elim flash fun ⟨k, e⟩ => pulse k e
  · exact exec_loopCurrentFall_alone (no.imp_right DialPhase.breaksLoop_iff.mpr)

end Sys2Proof.Machine

/-! O37: the dialler's timers and its next symbol (02 R28 to R33; 01 R10). -/

namespace Sys2Proof.Machine

set_option Elab.async false

/-! ## The timers of tones and pulses -/

section
variable {n : LineId} {s : State} (dialling : (s.line n).call.state = .dialling)
include dialling

theorem leads_toneOnEnd (phase : (s.line n).dialler.phase = .toneOn) : Leads (.toneOnEnd n) s (s.onLine n fun l =>
    { l with dialler := { l.dialler with phase := .toneGap, timer := .running l.profile.toneGap } }) := by
  have run : exec (.toneOnEnd n) s = done s (s.toneOnEnd n) := rfl
  rw [State.toneOnEnd, if_pos (by simp [Line.dialsAt, dialling, phase])] at run
  exact Leads.of_done run (congrArg State.uncounted (State.onLine_congr rfl))

theorem leads_pulseBreakEnd {k : Nat} (phase : (s.line n).dialler.phase = .pulseBreak k) :
    Leads (.pulseBreakEnd n) s (s.onLine n fun l =>
      { l with
        dialler := { l.dialler with phase := .pulseMake k, timer := .running 40 }
        ctl := { l.ctl with loopMeasuring := !l.ctl.loopPresent } }) := by
  have run : exec (.pulseBreakEnd n) s = done s (s.pulseBreakEnd n) := rfl
  simp only [State.pulseBreakEnd, dialling, phase, State.onDialler, State.endBreak, State.onCtl, State.onLine_onLine] at run
  exact Leads.of_done run rfl

theorem State.pulseMakeEnd_eq {k : Nat} (phase : (s.line n).dialler.phase = .pulseMake k) : s.pulseMakeEnd n =
    if 1 < k then (s.onDialler n fun d => { d with phase := .pulseBreak (k - 1), timer := .running 60 }).beginBreak n
    else s.onDialler n fun d => { d with phase := .interdigit, timer := .running 700 } := by
  simp only [State.pulseMakeEnd, dialling, phase]

theorem leads_pulseMakeEnd_more {k : Nat} (phase : (s.line n).dialler.phase = .pulseMake k) (more : 1 < k) :
    Leads (.pulseMakeEnd n) s (s.onLine n fun l =>
      { l with
        dialler := { l.dialler with phase := .pulseBreak (k - 1), timer := .running 60 }
        ctl := { l.ctl with loopMeasuring := false } }) := by
  have run : exec (.pulseMakeEnd n) s = done s (s.pulseMakeEnd n) := rfl
  rw [State.pulseMakeEnd_eq dialling phase, if_pos more] at run
  simp only [State.onDialler, State.beginBreak, State.onCtl, State.onLine_onLine] at run
  exact Leads.of_done run rfl

theorem leads_pulseMakeEnd_last {k : Nat} (phase : (s.line n).dialler.phase = .pulseMake k) (last : k ≤ 1) :
    Leads (.pulseMakeEnd n) s (s.onLine n fun l =>
      { l with dialler := { l.dialler with phase := .interdigit, timer := .running 700 } }) := by
  have run : exec (.pulseMakeEnd n) s = done s (s.pulseMakeEnd n) := rfl
  rw [State.pulseMakeEnd_eq dialling phase, if_neg (by omega)] at run
  exact Leads.of_done run rfl

end

/-! ## The commands that take the next symbol -/

/-- The command takes the next symbol of line `n`, the line changing first by `g`. -/
def TakesSymbol (c : Instr) (n : LineId) (g : Line → Line) (s : State) : Prop :=
  c = .toneGapEnd n ∧ (s.line n).dialsAt .toneGap = true ∧ g = (fun l => l) ∨
  c = .interdigitPauseEnd n ∧ (s.line n).dialsAt .interdigit = true ∧ g = (fun l => l) ∨
  c = .pauseEnd n ∧ (s.line n).dialsAt .pause = true ∧ g = (fun l => l) ∨
  c = .flashEnd n ∧ (s.line n).dialsAt .flash = true ∧
    g = (fun l => { l with ctl := { l.ctl with loopMeasuring := !l.ctl.loopPresent } }) ∨
  c = .dialToneAccepted n ∧ (s.line n).ctl.progressTone = true ∧ (s.line n).dialsAt .waitTone = true ∧ g = (fun l => l) ∨
  c = .dialToneAccepted n ∧ (s.line n).ctl.progressTone = true ∧ (s.line n).call.state = .seized ∧
    g = fun l => { l with call := { l.call with state := .dialling }, ctl := { l.ctl with stateTimer := .stopped } }

/-- What the change before the symbol leaves alone. -/
structure BeforeSymbol (g : Line → Line) : Prop where
  dialler : ∀ l, (g l).dialler = l.dialler
  profile : ∀ l, (g l).profile = l.profile
  service : ∀ l, (g l).call.service = l.call.service
  call : ∀ l, { (g l).call with state := .progress } = { l.call with state := .progress }
  commutes : ∀ l (d : Dialler), g { l with dialler := d } = { g l with dialler := d }

variable {c : Instr} {n : LineId} {g : Line → Line} {s : State}

theorem TakesSymbol.before (h : TakesSymbol c n g s) : BeforeSymbol g := by
  rcases h with ⟨-, -, rfl⟩ | ⟨-, -, rfl⟩ | ⟨-, -, rfl⟩ | ⟨-, -, rfl⟩ | ⟨-, -, -, rfl⟩ | ⟨-, -, -, rfl⟩ <;>
    exact ⟨fun _ => rfl, fun _ => rfl, fun _ => rfl, fun _ => rfl, fun _ _ => rfl⟩

/-- Whether a command takes a symbol depends on the dialler's phase alone. -/
theorem TakesSymbol.onDialler (h : TakesSymbol c n g s) {f : Dialler → Dialler} (phase : ∀ d, (f d).phase = d.phase) :
    TakesSymbol c n g (s.onDialler n f) := by
  have dials : ∀ p, ((s.onDialler n f).line n).dialsAt p = (s.line n).dialsAt p := fun p => by simp [Line.dialsAt, phase]
  have tone : ((s.onDialler n f).line n).ctl = (s.line n).ctl := by simp
  have state : ((s.onDialler n f).line n).call = (s.line n).call := by simp
  unfold TakesSymbol
  simp only [dials, tone, state]
  exact h

theorem State.dialToneAccepted_eq (tone : (s.line n).ctl.progressTone = true) : s.dialToneAccepted n =
    if (s.line n).call.state = .seized then s.enterDialling n else if (s.line n).dialsAt .waitTone then s.nextSymbol n else s := by
  simp only [State.dialToneAccepted, tone, Bool.true_eq_false, if_false]

theorem TakesSymbol.run (h : TakesSymbol c n g s) :
    exec c s = done s ((s.onLine n g).takeSymbols n (s.line n).dialler.rest) := by
  have next : done s (s.nextSymbol n) = done s ((s.onLine n fun l => l).takeSymbols n (s.line n).dialler.rest) := by
    rw [State.onLine_id]; rfl
  rcases h with ⟨rfl, at_, rfl⟩ | ⟨rfl, at_, rfl⟩ | ⟨rfl, at_, rfl⟩ | ⟨rfl, at_, rfl⟩ | ⟨rfl, tone, at_, rfl⟩ | ⟨rfl, tone, seized, rfl⟩
  · exact (congrArg (done s) (if_pos at_)).trans next
  · exact (congrArg (done s) (if_pos at_)).trans next
  · exact (congrArg (done s) (if_pos at_)).trans next
  · have run : exec (.flashEnd n) s = done s (if (s.line n).dialsAt .flash then (s.endBreak n).nextSymbol n else s) := rfl
    rw [run, if_pos at_, State.nextSymbol]
    simp [State.endBreak, State.onCtl]
  · have run : exec (.dialToneAccepted n) s = done s (s.dialToneAccepted n) := rfl
    have state : (s.line n).call.state ≠ .seized := fun e => by simp [Line.dialsAt, e] at at_
    rw [run, State.dialToneAccepted_eq tone, if_neg state, if_pos at_, next]
  · have run : exec (.dialToneAccepted n) s = done s (s.dialToneAccepted n) := rfl
    rw [run, State.dialToneAccepted_eq tone, if_pos seized, State.enterDialling, State.nextSymbol]
    simp [State.enter, State.onCall, State.onCtl, State.onLine_onLine]

/-! ## What a symbol does -/

/-- A symbol's phase begins, with the symbols that follow it left. -/
def Line.startPhase (l : Line) (rest : List Byte) (ph : DialPhase) (ms : Nat) : Line :=
  { l with dialler := { l.dialler with rest := rest, phase := ph, timer := .running ms } }

variable {b : Byte} {rest : List Byte}

theorem State.takeSymbols_tone (mode : (s.line n).dialler.mode = .tone) (digit : (isDigit b || isToneOnly b) = true) :
    s.takeSymbols n (b :: rest) =
      (s.onLine n fun l => l.startPhase rest .toneOn (s.line n).profile.toneOn).emit (.dialTone n b) := by
  rw [Bool.or_eq_true] at digit
  rw [State.takeSymbols, if_pos ⟨mode, digit⟩]
  rfl

theorem State.takeSymbols_pulse (mode : (s.line n).dialler.mode = .pulse) (digit : isDigit b = true) :
    s.takeSymbols n (b :: rest) = s.onLine n fun l =>
      { l.startPhase rest (.pulseBreak (pulsesOf b)) 60 with ctl := { l.ctl with loopMeasuring := false } } := by
  rw [State.takeSymbols, if_neg (fun h => by rw [mode] at h; exact nomatch h.1), if_pos digit]
  simp only [State.onDialler, State.beginBreak, State.onCtl, State.onLine_onLine]
  rfl

/-- A byte that is not a digit, in pulse mode or not one of the symbols of tone mode. -/
theorem State.takeSymbols_rest (digit : isDigit b = false) (tone : (s.line n).dialler.mode = .pulse ∨ isToneOnly b = false) :
    s.takeSymbols n (b :: rest) =
      if b = 0x2C then s.onLine n fun l => l.startPhase rest .pause ((s.line n).profile.pauseTime * 1000)
      else if b = 0x57 then s.onLine n fun l => l.startPhase rest .waitTone ((s.line n).profile.dialToneWait * 1000)
      else if b = 0x21 then (s.onLine n fun l => l.startPhase rest .flash 500).beginBreak n
      else if b = 0x50 then (s.onDialler n fun d => { d with mode := .pulse }).takeSymbols n rest
      else if b = 0x54 then (s.onDialler n fun d => { d with mode := .tone }).takeSymbols n rest
      else (s.onDialler n fun d => { d with skipped := d.skipped + 1 }).takeSymbols n rest := by
  rw [State.takeSymbols, if_neg, if_neg (by rw [digit]; decide)]
  · rfl
  · rintro ⟨mode, yes⟩
    rcases tone with tone | tone
    · rw [mode] at tone; exact nomatch tone
    · simp [digit, tone] at yes

theorem State.takeSymbols_pause (s : State) (n : LineId) (rest : List Byte) : s.takeSymbols n (0x2C :: rest) =
    s.onLine n fun l => l.startPhase rest .pause ((s.line n).profile.pauseTime * 1000) :=
  (State.takeSymbols_rest rfl (.inr rfl)).trans (if_pos rfl)

theorem State.takeSymbols_wait (s : State) (n : LineId) (rest : List Byte) : s.takeSymbols n (0x57 :: rest) =
    s.onLine n fun l => l.startPhase rest .waitTone ((s.line n).profile.dialToneWait * 1000) :=
  (State.takeSymbols_rest rfl (.inr rfl)).trans rfl

theorem State.takeSymbols_flash (s : State) (n : LineId) (rest : List Byte) : s.takeSymbols n (0x21 :: rest) =
    s.onLine n fun l => { l.startPhase rest .flash 500 with ctl := { l.ctl with loopMeasuring := false } } := by
  have here : s.takeSymbols n (0x21 :: rest) = (s.onLine n fun l => l.startPhase rest .flash 500).beginBreak n :=
    (State.takeSymbols_rest rfl (.inr rfl)).trans rfl
  rw [here, State.beginBreak, State.onCtl_eq_onLine, State.onLine_onLine]
  rfl

theorem State.takeSymbols_pulseMode (s : State) (n : LineId) (rest : List Byte) : s.takeSymbols n (0x50 :: rest) =
    (s.onDialler n fun d => { d with mode := .pulse }).takeSymbols n rest :=
  (State.takeSymbols_rest rfl (.inr rfl)).trans rfl

theorem State.takeSymbols_toneMode (s : State) (n : LineId) (rest : List Byte) : s.takeSymbols n (0x54 :: rest) =
    (s.onDialler n fun d => { d with mode := .tone }).takeSymbols n rest :=
  (State.takeSymbols_rest rfl (.inr rfl)).trans rfl

theorem State.takeSymbols_skip (digit : isDigit b = false) (tone : (s.line n).dialler.mode = .pulse ∨ isToneOnly b = false)
    (known : b ∉ [0x2C, 0x57, 0x21, 0x50, 0x54]) :
    s.takeSymbols n (b :: rest) = (s.onDialler n fun d => { d with skipped := d.skipped + 1 }).takeSymbols n rest := by
  simp only [List.mem_cons, List.not_mem_nil, or_false, not_or] at known
  obtain ⟨pause, wait, flash, pulse, toneMode⟩ := known
  rw [State.takeSymbols_rest digit tone, if_neg pause, if_neg wait, if_neg flash, if_neg pulse, if_neg toneMode]

/-- The symbols left are those taken: what the dialler holds of them does not matter. -/
theorem State.takeSymbols_rest_irrelevant (s : State) (n : LineId) (r xs : List Byte) :
    (s.onDialler n fun d => { d with rest := r }).takeSymbols n xs = s.takeSymbols n xs := by
  induction xs generalizing s with
  | nil => simp [State.takeSymbols, State.enterProgress, State.enter, State.onDialler, State.onCall, State.onCtl, State.onProg, State.onLine_onLine]
  | cons b xs ih =>
    have later : ∀ f : Dialler → Dialler, (∀ d, { f { d with rest := r } with rest := r } = { f d with rest := r }) →
        ((s.onDialler n fun d => { d with rest := r }).onDialler n f).takeSymbols n xs = (s.onDialler n f).takeSymbols n xs :=
      fun f hf => by
        rw [← ih (s.onDialler n f), ← ih ((s.onDialler n fun d => { d with rest := r }).onDialler n f)]
        simp only [State.onDialler, State.onLine_onLine, hf]
    have start : ∀ ph ms, ((s.onDialler n fun d => { d with rest := r }).onDialler n fun d =>
        { d with rest := xs, phase := ph, timer := .running ms }) =
          s.onDialler n fun d => { d with rest := xs, phase := ph, timer := .running ms } := fun ph ms => by
      simp only [State.onDialler, State.onLine_onLine]
    have mode : ((s.onDialler n fun d => { d with rest := r }).line n).dialler.mode = (s.line n).dialler.mode := by simp
    have profile : ((s.onDialler n fun d => { d with rest := r }).line n).profile = (s.line n).profile := by simp
    simp only [State.takeSymbols, mode, profile, start, later (fun d => { d with mode := .pulse }) (fun _ => rfl),
      later (fun d => { d with mode := .tone }) (fun _ => rfl), later (fun d => { d with skipped := d.skipped + 1 }) (fun _ => rfl)]

/-! ## The symbols, by the command that takes them -/

section
variable (h : TakesSymbol c n g s)
include h

/-- The command that takes symbols which lead to a change of its line. -/
theorem TakesSymbol.leads {f : Line → Line}
    (e : (s.onLine n g).takeSymbols n (s.line n).dialler.rest = (s.onLine n g).onLine n f) : Leads c s (s.onLine n fun l => f (g l)) := by
  have run := h.run
  rw [e, State.onLine_onLine] at run
  exact Leads.of_done run rfl

/-- A symbol that changes the dialler at once, and the next one taken after it. -/
theorem TakesSymbol.leads_next {f : Dialler → Dialler} (left : (s.line n).dialler.rest = b :: rest) (phase : ∀ d, (f d).phase = d.phase)
   
    (e : (s.onLine n g).takeSymbols n (b :: rest) = ((s.onLine n g).onDialler n f).takeSymbols n rest) (u : State)
    (next : Leads c (s.onLine n fun l => { l with dialler := { f l.dialler with rest := rest } }) u) : Leads c s u := by
  have whole : (s.onLine n fun l => { l with dialler := { f l.dialler with rest := rest } }) =
      s.onDialler n fun d => { f d with rest := rest } := rfl
  rw [whole] at next
  have h' : TakesSymbol c n g (s.onDialler n fun d => { f d with rest := rest }) := h.onDialler phase
  have run := h.run
  have run' := h'.run
  have same : ((s.onDialler n fun d => { f d with rest := rest }).onLine n g).takeSymbols n rest =
      (s.onLine n g).takeSymbols n (b :: rest) := by
    rw [e, ← State.takeSymbols_rest_irrelevant ((s.onLine n g).onDialler n f) n rest]
    simp only [State.onDialler, State.onLine_onLine]
    exact congrArg (State.takeSymbols · n rest) (State.onLine_congr (by rw [h.before.commutes, h.before.dialler]))
  rw [left] at run
  rw [show ((s.onDialler n fun d => { f d with rest := rest }).line n).dialler.rest = rest by simp, same] at run'
  have effect : LineEffect n (s.onDialler n fun d => { f d with rest := rest })
      ((s.onDialler n fun d => { f d with rest := rest }).onLine n g) := by
    rcases h with ⟨-, -, rfl⟩ | ⟨-, -, rfl⟩ | ⟨-, -, rfl⟩ | ⟨-, -, rfl⟩ | ⟨-, -, -, rfl⟩ | ⟨-, -, -, rfl⟩ <;>
      exact LineEffect.onLine .refl (hf := fun _ k => ⟨k.acc, k.lastQ, k.rings, k.digits⟩)
  have pending : ((s.onLine n g).takeSymbols n (b :: rest)).pending = s.pending := same ▸ (effect.takeSymbols rest).pending
  exact (Leads.iff_of_done run pending).mpr ((Leads.iff_of_done run' pending).mp next)

end

/-! ## The obligation -/

section
variable (h : TakesSymbol c n g s)
include h

theorem TakesSymbol.mode : ((s.onLine n g).line n).dialler.mode = (s.line n).dialler.mode := by
  rw [State.line_onLine_self, h.before.dialler]

theorem TakesSymbol.profile : ((s.onLine n g).line n).profile = (s.line n).profile := by
  rw [State.line_onLine_self, h.before.profile]

/-- The symbols that begin a phase with no tone sent. -/
theorem TakesSymbol.leads_phase {f : Line → Line} (left : (s.line n).dialler.rest = b :: rest)
    (e : (s.onLine n g).takeSymbols n (b :: rest) = (s.onLine n g).onLine n f) {k : Line → Line} (same : ∀ l, f (g l) = k l) :
    Leads c s (s.onLine n k) := by
  have := h.leads (left ▸ e)
  rwa [funext same] at this

/-- A digit in tone mode, or a symbol of tone mode. -/
theorem TakesSymbol.leads_tone (left : (s.line n).dialler.rest = b :: rest) (mode : (s.line n).dialler.mode = .tone)
    (digit : (isDigit b || isToneOnly b) = true) :
    Leads c s ((s.onLine n fun l =>
      { g l with dialler := { l.dialler with rest := rest, phase := .toneOn, timer := .running (s.line n).profile.toneOn } }).emit
        (.dialTone n b)) := by
  have run := h.run
  rw [left, State.takeSymbols_tone (h.mode.trans mode) digit, h.profile, State.onLine_onLine] at run
  refine Leads.of_done run ?_
  simp only [Line.startPhase, h.before.dialler]

theorem TakesSymbol.leads_progress (left : (s.line n).dialler.rest = []) : Leads c s (s.onLine n fun l =>
    { g l with
      call := { l.call with state := .progress }
      ctl := { (g l).ctl with stateTimer := .running ((s.line n).profile.answerWait * 1000) }
      dialler := { l.dialler with rest := [], phase := .idle, timer := .stopped }
      prog := { Progress.initial with pathTimer := if l.call.service = .voice then .running 4000 else .stopped } }) := by
  have run := h.run
  rw [left] at run
  have whole : (s.onLine n g).takeSymbols n [] = s.onLine n fun l =>
      { g l with
        call := { (g l).call with state := .progress }
        ctl := { (g l).ctl with stateTimer := .running ((s.line n).profile.answerWait * 1000) }
        dialler := { (g l).dialler with rest := [], phase := .idle, timer := .stopped }
        prog := { Progress.initial with pathTimer := if (g (s.line n)).call.service = .voice then .running 4000 else .stopped } } := by
    simp only [State.takeSymbols, State.enterProgress, State.enter, State.onDialler, State.onCall, State.onCtl, State.onProg,
      State.onLine_onLine, State.line_onLine_self, h.before.profile]
  rw [whole] at run
  refine Leads.of_done run (congrArg State.uncounted (State.onLine_congr ?_))
  rw [h.before.dialler, h.before.service, h.before.call]

end

theorem isDigit_iff (b : Byte) : isDigit b = true ↔ 0x30 ≤ b.toNat ∧ b.toNat ≤ 0x39 := by simp [isDigit]

/-- The digits and the other symbols of tone mode. -/
theorem symbol_of_tone : ∀ b : Byte,
    b ∈ [0x30, 0x31, 0x32, 0x33, 0x34, 0x35, 0x36, 0x37, 0x38, 0x39, 0x2A, 0x23, 0x41, 0x42, 0x43, 0x44] →
      (isDigit b || isToneOnly b) = true := by decide

theorem not_digit : ∀ b : Byte, b ∉ [0x30, 0x31, 0x32, 0x33, 0x34, 0x35, 0x36, 0x37, 0x38, 0x39] → isDigit b = false := by decide

theorem not_toneOnly : ∀ b : Byte, b ∉ [0x2A, 0x23, 0x41, 0x42, 0x43, 0x44] → isToneOnly b = false := by decide

theorem pulsesOf_eq (b : Byte) : pulsesOf b = if b.toNat = 0x30 then 10 else b.toNat - 0x30 := by
  have zero : b = 0x30 ↔ b.toNat = 0x30 := ⟨fun e => by rw [e]; rfl, fun e => BitVec.eq_of_toNat_eq e⟩
  simp only [pulsesOf, zero]

/-- Settles O37: the timers by the phase; the next symbol by the byte at the head of the string. -/
theorem dialTimersAndSymbols : Obligations.DialTimersAndSymbols := by
  refine ⟨fun n s dialling => ⟨leads_toneOnEnd dialling, fun k => ⟨leads_pulseBreakEnd dialling, leads_pulseMakeEnd_more dialling,
    leads_pulseMakeEnd_last dialling⟩⟩, fun c n s g h => ?_⟩
  have h : TakesSymbol c n g s := h
  refine ⟨fun b rest left => ⟨fun mode tone => h.leads_tone left mode (symbol_of_tone b tone), fun mode lo hi => ?_, ?_, ?_, ?_, ?_, ?_,
    fun known tone u => ?_⟩, h.leads_progress⟩
  · refine h.leads_phase left (State.takeSymbols_pulse (h.mode.trans mode) ((isDigit_iff b).mpr ⟨lo, hi⟩)) fun l => ?_
    simp only [Line.startPhase, h.before.dialler, pulsesOf_eq]
  · rintro rfl
    exact h.leads_phase left (State.takeSymbols_pause ..) fun l => by simp only [Line.startPhase, h.before.dialler, h.profile]
  · rintro rfl
    exact h.leads_phase left (State.takeSymbols_wait ..) fun l => by simp only [Line.startPhase, h.before.dialler, h.profile]
  · rintro rfl
    exact h.leads_phase left (State.takeSymbols_flash ..) fun l => by simp only [Line.startPhase, h.before.dialler]
  · rintro rfl u
    exact h.leads_next (f := fun d => { d with mode := .pulse }) left (fun _ => rfl) (State.takeSymbols_pulseMode ..) u
  · rintro rfl u
    exact h.leads_next (f := fun d => { d with mode := .tone }) left (fun _ => rfl) (State.takeSymbols_toneMode ..) u
  · have digit : isDigit b = false := not_digit b fun m => known (List.mem_append_left [0x2C, 0x57, 0x21, 0x50, 0x54] m)
    have others : b ∉ [0x2C, 0x57, 0x21, 0x50, 0x54] := fun m =>
      known (List.mem_append_right [0x30, 0x31, 0x32, 0x33, 0x34, 0x35, 0x36, 0x37, 0x38, 0x39] m)
    exact h.leads_next (f := fun d => { d with skipped := d.skipped + 1 }) left (fun _ => rfl)
      (State.takeSymbols_skip digit (tone.imp h.mode.trans (not_toneOnly b)) others) u

end Sys2Proof.Machine

/-! The pumps through a call's end: a pump OUT stays as it is (04 R65, R66). -/

namespace Sys2Proof.Machine

set_option Elab.async false

variable {s : State} {p : PumpId}

theorem State.pump_grantNext_of_busy (busy : (s.pump p).state ≠ .free) : s.grantNext.pump p = s.pump p := by
  obtain ⟨e, -⟩ | ⟨q, n, free, -, e⟩ := s.grantNext_cases <;> rw [e]
  have other : p ≠ q := fun k => busy (k ▸ State.lowestFree_eq_some free)
  exact State.pump_onPump_ne _ other _

theorem State.pump_arbitrate_of_busy (busy : (s.pump p).state ≠ .free) : s.arbitrate.pump p = s.pump p := by
  have step : ∀ t : State, t.pump p = s.pump p → t.grantNext.pump p = s.pump p := fun t h =>
    (State.pump_grantNext_of_busy (h ▸ busy)).trans h
  exact step _ (step _ (step s rfl))

theorem State.out_releasePump (out : (s.pump p).state = .out) (n : LineId) : ((s.releasePump n).pump p).state = .out := by
  have unclaimed : (s.dropClaim n).pump p = s.pump p := by simp [(s.dropClaim_spec n).pump, out]
  have freed : ((s.dropClaim n).freed n).pump p = s.pump p := by
    rw [((s.dropClaim n).freed_spec n).pump, unclaimed]
    simp [out]
  rw [State.releasePump_eq, State.pump_arbitrate_of_busy (by rw [freed, out]; decide), freed, out]

theorem Kept.decided (s : State) (n : LineId) (o : CallOutcome) : Kept .pool s (s.decided n o) :=
  ((((Kept.refl (p := .pool) |>.closeWindow n).sendLinkClose n o).onCall n).enter nofun n _ _).onCtl n _

theorem State.out_clearDecision (out : (s.pump p).state = .out) (n : LineId) (o : CallOutcome) :
    ((s.clearDecision n o).pump p).state = .out := by
  have decided : ((s.decided n o).pump p).state = .out := ((Kept.decided s n o).pumpState p).trans out
  rw [State.clearDecision_eq, (Kept.callEnd_pool (s.decided n o) n o).pumpState]
  exact State.out_releasePump decided n

/-- A fault that the call does not survive, by the clear decision that ends it. -/
theorem State.takeFault_eq_clearDecision (s : State) (n : LineId) (k : FaultKind) (d : FailDetail) (attempt : Bool)
    (takes : (s.line n).takesFault attempt = true) :
    ∃ f : Line → Line, s.takeFault n k d false attempt = (s.onLine n f).clearDecision n (.fault k) := by
  unfold State.takeFault
  simp only [takes, if_true]
  generalize appliedPolicy _ _ _ _ = policy
  cases policy <;> simp only [reduceCtorEq, if_false, if_true, Bool.false_eq_true, State.onFm, State.raise, State.onLine_onLine] <;>
    exact ⟨_, rfl⟩

theorem State.out_takeFault (out : (s.pump p).state = .out) (n : LineId) (k : FaultKind) (d : FailDetail) (attempt : Bool)
    (takes : (s.line n).takesFault attempt = true) : ((s.takeFault n k d false attempt).pump p).state = .out := by
  obtain ⟨f, e⟩ := s.takeFault_eq_clearDecision n k d attempt takes
  rw [e]
  exact State.out_clearDecision (s := s.onLine n f) out n _

end Sys2Proof.Machine

/-! O36: the events that report a fault after which the call cannot go on (11 R180 to R185). -/

namespace Sys2Proof.Machine

set_option Elab.async false

variable {c : Instr} {n : LineId} {s : State} {k : FaultKind}

/-- A command that reports a fault of a line in a call, and nothing else. -/
theorem Faults.of_fault (run : exec c s = done s (s.fault n k))
    (call : (s.line n).call.state = .alerting ∨ (s.line n).call.state = .queued ∨ (s.line n).call.state.offHook = true) :
    Faults c n k .none s := Faults.of_done run (Line.takesFault_of call) rfl rfl rfl .refl

/-- A line in a state with the hook off. -/
theorem Line.inCall_of {l : Line} {st : LineState} (state : l.call.state = st) (hook : st.offHook = true := by rfl) :
    l.call.state = .alerting ∨ l.call.state = .queued ∨ l.call.state.offHook = true := .inr (.inr (state ▸ hook))

theorem faults_dialToneWaitExpiry (state : (s.line n).call.state = .seized) (runs : (s.line n).ctl.stateTimer.isRunning = true) :
    Faults (.dialToneWaitExpiry n) n .noDialTone .none s :=
  .of_fault (congrArg (done s) (if_pos (Line.expires_of state runs))) (Line.inCall_of state)

theorem faults_wWaitExpiry (state : (s.line n).call.state = .dialling) (phase : (s.line n).dialler.phase = .waitTone) :
    Faults (.wWaitExpiry n) n .noDialTone .none s :=
  .of_fault (congrArg (done s) (if_pos (by simp [Line.dialsAt, state, phase]))) (Line.inCall_of state)

theorem faults_trainingTimerExpiry (state : (s.line n).call.state = .training) (runs : (s.line n).ctl.stateTimer.isRunning = true) :
    Faults (.trainingTimerExpiry n) n .trainFailed .none s :=
  .of_fault (congrArg (done s) (if_pos (Line.expires_of state runs))) (Line.inCall_of state)

theorem faults_trainingServiceMismatch (state : (s.line n).call.state = .training) (pump : s.pumpAt n .training = true) :
    Faults (.trainingServiceMismatch n) n .trainFailed .none s :=
  .of_fault (congrArg (done s) (if_pos ⟨state, pump⟩)) (Line.inCall_of state)

theorem faults_linkOpenExpiry (hook : (s.line n).call.state.offHook = true) (state : (s.line n).link.state = .opening)
    (runs : (s.line n).link.openTimer.isRunning = true) : Faults (.linkOpenExpiry n) n .trainFailed .none s :=
  .of_fault (congrArg (done s) (if_pos ⟨state, runs⟩)) (.inr (.inr hook))

theorem faults_holdTimerExpiry (hook : (s.line n).call.state.offHook = true) (held : (s.line n).link.held = true)
    (runs : (s.line n).link.holdTimer.isRunning = true) : Faults (.holdTimerExpiry n) n .linkExhausted .none s :=
  .of_fault (congrArg (done s) (if_pos ⟨held, runs⟩)) (.inr (.inr hook))

theorem State.line_onHeldPump (s : State) (n : LineId) (f : Pump → Pump) (m : LineId) : (s.onHeldPump n f).line m = s.line m := by
  unfold State.onHeldPump
  split <;> simp

theorem faults_carrierLossExpiry (hook : (s.line n).call.state.offHook = true) (measures : s.measuresCarrier n = true)
    (loop : (s.line n).ctl.loopMeasuring = false) : Faults (.carrierLossExpiry n) n .carrierLost .none s := by
  have run : exec (.carrierLossExpiry n) s = done s (s.carrierLoss n) := rfl
  rw [State.carrierLoss, if_pos measures] at run
  simp only [State.line_onHeldPump, loop, Bool.false_eq_true, if_false] at run
  refine Faults.of_done run (Line.takesFault_of (.inr (.inr ?_))) ?_ ?_ ?_ (LineEffect.refl.onHeldPump _)
  all_goals rw [State.line_onHeldPump]
  exact hook

theorem State.line_dropClaim (s : State) (n : LineId) : (s.dropClaim n).line n = { s.line n with claim := none } := by
  rw [(s.dropClaim_spec n).line, if_pos rfl]

theorem faults_claimWaitExpiry (call : (s.line n).call.state = .queued ∨ (s.line n).call.state.offHook = true)
    (step : (s.line n).seq.step ≠ .switchWait) (claim : ∃ c, (s.line n).claim = some c ∧ c.wait.isRunning = true) :
    Faults (.claimWaitExpiry n) n .noPump .none s := by
  obtain ⟨c, claim, runs⟩ := claim
  have run : exec (.claimWaitExpiry n) s = done s (s.claimWaitExpiry n) := rfl
  have line := s.line_dropClaim n
  have expires : s.claimWaitExpiry n = (s.dropClaim n).fault n .noPump := by
    simp only [State.claimWaitExpiry, claim, runs, if_true, State.expireClaim, line, step, if_false]
  rw [expires] at run
  refine Faults.of_done run (Line.takesFault_of (.inr ?_)) ?_ ?_ ?_ (LineEffect.refl.dropClaim)
  all_goals rw [line]
  exact call

/-- The self-fault of an attached pump: the pump OUT, PUMP_OUT raised, and the fault of its line (R66). -/
theorem pumpSelfFault_faults {p : PumpId} (hook : (s.line n).call.state.offHook = true) (attached : (s.pump p).state = .attached)
    (serves : (s.pump p).line = some n) :
    ∃ t, exec (.pumpSelfFault p) s = .next t ∧ State.Faulted n .pumpLost .none s t ∧ State.Steady s t ∧
      (t.pump p).state = .out ∧ t.hdr.ev.bits.getLsbD 5 = true := by
  have run : exec (.pumpSelfFault p) s = done s (s.selfFault p) := rfl
  simp only [State.selfFault, attached, serves, if_true, State.fault] at run
  have effect : LineEffect n s ((s.onPump p fun _ => Pump.inState .out none).raiseEngine .pumpOut) :=
    LineEffect.refl.onPump p _ |>.raiseEngine _
  have out : ((((s.onPump p fun _ => Pump.inState .out none).raiseEngine .pumpOut).onCall n fun c => { c with pump := none }).pump
      p).state = .out := by simp [Pump.inState]
  have line : (((s.onPump p fun _ => Pump.inState .out none).raiseEngine .pumpOut).onCall n fun c => { c with pump := none }).line n =
      { s.line n with call := { (s.line n).call with pump := none } } := by simp
  have raised : (((s.onPump p fun _ => Pump.inState .out none).raiseEngine .pumpOut).onCall n fun c =>
      { c with pump := none }).hdr.ev.bits.getLsbD 5 = true := by
    simp [State.raiseEngine, EventWord.raise, EngineEvent.bit, bitWord]
  have effect := effect.onCall (f := fun c => { c with pump := none })
  generalize (((s.onPump p fun _ => Pump.inState .out none).raiseEngine .pumpOut).onCall n fun c => { c with pump := none }) = u at *
  have takes : (u.line n).takesFault false = true := Line.takesFault_of (.inr (.inr (by rw [line]; exact hook)))
  have fault := State.takeFault_spec u n .pumpLost .none false takes
  have stays := State.out_takeFault out n .pumpLost .none false takes
  have later := LineEffect.refl.takeFault (n := n) (s₀ := u) (s := u) .pumpLost .none false false
  generalize u.takeFault n .pumpLost .none false false = v at *
  refine ⟨_, run, State.Faulted.commit ?_, (effect.trans later).commit.steady, ?_, ?_⟩
  · have applied : (u.line n).applied .pumpLost = (s.line n).applied .pumpLost := by rw [line]; rfl
    have cleared := fault.cleared
    refine ⟨⟨?_, ?_, cleared.claim, cleared.pumps, cleared.down, cleared.play, cleared.recording, ?_,
      effect.events.trans cleared.events, effect.aside.trans cleared.others⟩, ?_, ?_, ?_, ?_, ?_⟩
    · rw [cleared.call, line, effect.tick]
    · rw [cleared.guardTime, line]
    · rw [cleared.profile, line]
    · rw [fault.last, applied, effect.tick]
    · rw [fault.latch, applied, line]
    · rw [fault.retryCount, applied, line]
    · rw [fault.retryPending, applied, line]
    · rw [← applied]; exact fault.event
  · rw [State.pump_commit, stays]
  · obtain ⟨e, k, x, ⟨b, c, rfl⟩, hdr⟩ := later.hdr
    simp only [State.commit, hdr, BitVec.getLsbD_or, raised, Bool.true_or]

/-- Settles O36: each expiry reports its fault, and a fault that the call does not survive clears it. -/
theorem faultEvents : Obligations.FaultEvents := by
  refine ⟨fun p d count limit => ?_, fun n s => ⟨faults_dialToneWaitExpiry, faults_wWaitExpiry, faults_trainingTimerExpiry,
    faults_trainingServiceMismatch, faults_linkOpenExpiry, faults_holdTimerExpiry, faults_carrierLossExpiry, faults_claimWaitExpiry,
    fun p => pumpSelfFault_faults⟩⟩
  cases p with
  | retry => cases d <;> rfl
  | latch | report | silent => rfl

end Sys2Proof.Machine

/-! O38: progress tones, their cycles and the voice answer (02 R34 to R36, R38). -/

namespace Sys2Proof.Machine

set_option Elab.async false

/-! ## Measures -/

theorem matchesNominal_iff (d nominal tol : Nat) :
    matchesNominal d nominal tol = true ↔ ((d : Int) - nominal).natAbs * 100 ≤ tol * nominal := by
  have distance : ((d : Int) - nominal).natAbs = if d < nominal then nominal - d else d - nominal := by
    split <;> omega
  rw [matchesNominal, decide_eq_true_iff, distance]

theorem nearestTen_near (ms : Nat) : nearestTen ms % 10 = 0 ∧ ms ≤ nearestTen ms + 5 ∧ nearestTen ms ≤ ms + 5 := by
  unfold nearestTen
  split
  · split <;> omega
  · omega

/-! ## Onsets -/

section
variable {n : LineId} {s : State} (ms : Nat)

/-- Line `n` at an onset in PROGRESS: the tone is there, the off period over, the path timer stopped. -/
def State.toneHeard (s : State) (n : LineId) : State := s.onLine n fun l =>
  { l with
    ctl := { l.ctl with progressTone := true, toneInFrame := true }
    prog := { l.prog with onMeasured := true, onPeriod := none, pathTimer := .stopped } }

theorem State.line_toneHeard (s : State) (n : LineId) : (s.toneHeard n).line n =
    { s.line n with
      ctl := { (s.line n).ctl with progressTone := true, toneInFrame := true }
      prog := { (s.line n).prog with onMeasured := true, onPeriod := none, pathTimer := .stopped } } := State.line_onLine_self _ _ _

theorem State.toneHeard_eq (s : State) (n : LineId) :
    ((s.onCtl n fun c => { c with progressTone := true, toneInFrame := true }).onProg n fun g =>
      { g with onMeasured := true, onPeriod := none, pathTimer := .stopped }) = s.toneHeard n := by
  simp only [State.onCtl, State.onProg, State.onLine_onLine, State.toneHeard]

theorem leads_onset_elsewhere (state : (s.line n).call.state ≠ .progress) :
    Leads (.progressToneOnset n ms) s (s.onLine n fun l =>
      { l with ctl := { l.ctl with progressTone := true, toneInFrame := true } }) := by
  have run : exec (.progressToneOnset n ms) s = done s (s.progressToneOnset n ms) := rfl
  simp only [State.progressToneOnset, State.line_onCtl_self, state, if_false] at run
  exact Leads.of_done run rfl

theorem State.progressToneOnset_first (state : (s.line n).call.state = .progress) (period : (s.line n).prog.onPeriod = none) :
    s.progressToneOnset n ms = s.toneHeard n := by
  simp only [State.progressToneOnset, State.line_onCtl_self, state, if_true, State.toneHeard_eq, period]

theorem State.progressToneOnset_cycle {d : Nat} (state : (s.line n).call.state = .progress)
    (period : (s.line n).prog.onPeriod = some d) :
    s.progressToneOnset n ms = (s.toneHeard n).countCycle n (judgeCycle (s.line n).profile d (nearestTen ms)) := by
  simp only [State.progressToneOnset, State.line_onCtl_self, state, if_true, State.toneHeard_eq, State.line_toneHeard, period]

theorem leads_onset_first (state : (s.line n).call.state = .progress) (period : (s.line n).prog.onPeriod = none) :
    Leads (.progressToneOnset n ms) s (s.toneHeard n) := by
  have run : exec (.progressToneOnset n ms) s = done s (s.progressToneOnset n ms) := rfl
  rw [State.progressToneOnset_first ms state period] at run
  exact Leads.of_done run rfl

/-- An onset that completes a cycle. -/
theorem exec_onset_cycle {d : Nat} (state : (s.line n).call.state = .progress) (period : (s.line n).prog.onPeriod = some d) :
    exec (.progressToneOnset n ms) s =
      done s ((s.toneHeard n).countCycle n (judgeCycle (s.line n).profile d (nearestTen ms))) := by
  have run : exec (.progressToneOnset n ms) s = done s (s.progressToneOnset n ms) := rfl
  rwa [State.progressToneOnset_cycle ms state period] at run

theorem State.countCycle_busy (s : State) (n : LineId) : s.countCycle n .busy =
    let u := s.onProg n fun g => { g with busyRun := g.busyRun + 1 }
    if 2 ≤ (s.line n).prog.busyRun + 1 then u.clearDecision n .busy else u := by
  simp only [State.countCycle, State.line_onProg_self]

theorem State.countCycle_ringback (s : State) (n : LineId) : s.countCycle n .ringback =
    let u := s.onProg n fun g => { g with busyRun := 0, ringbackCount := g.ringbackCount + 1 }
    if 1 ≤ (s.line n).profile.ringbackLimit ∧ (s.line n).profile.ringbackLimit ≤ (s.line n).prog.ringbackCount + 1 then
      u.clearDecision n .noAnswer
    else u := by
  simp only [State.countCycle, State.line_onProg_self]

theorem judgeCycle_busy {p : Profile} {on off : Nat}
    (busy : (matchesNominal on p.busyOn p.tolerance && matchesNominal off p.busyOff p.tolerance) = true) :
    judgeCycle p on off = .busy := if_pos (Bool.and_eq_true_iff.mp busy)

theorem judgeCycle_ringback {p : Profile} {on off : Nat}
    (busy : (matchesNominal on p.busyOn p.tolerance && matchesNominal off p.busyOff p.tolerance) = false)
    (ringback : (matchesNominal on p.ringbackOn p.tolerance && matchesNominal off p.ringbackOff p.tolerance) = true) :
    judgeCycle p on off = .ringback := by
  rw [judgeCycle, if_neg (by rw [← Bool.and_eq_true_iff, busy]; decide), if_pos (Bool.and_eq_true_iff.mp ringback)]

theorem judgeCycle_unmatched {p : Profile} {on off : Nat}
    (busy : (matchesNominal on p.busyOn p.tolerance && matchesNominal off p.busyOff p.tolerance) = false)
    (ringback : (matchesNominal on p.ringbackOn p.tolerance && matchesNominal off p.ringbackOff p.tolerance) = false) :
    judgeCycle p on off = .unmatched := by
  rw [judgeCycle, if_neg (by rw [← Bool.and_eq_true_iff, busy]; decide), if_neg (by rw [← Bool.and_eq_true_iff, ringback]; decide)]

/-- Line `n` at an onset, with a change of its classifier besides. -/
theorem State.toneHeard_onProg (s : State) (n : LineId) (f : Progress → Progress) :
    (s.toneHeard n).onProg n f = s.onLine n fun l =>
      { l with
        ctl := { l.ctl with progressTone := true, toneInFrame := true }
        prog := f { l.prog with onMeasured := true, onPeriod := none, pathTimer := .stopped } } := by
  simp only [State.toneHeard, State.onProg, State.onLine_onLine]

theorem LineEffect.toneHeard (s : State) (n : LineId) (f : Progress → Progress) :
    LineEffect n s ((s.toneHeard n).onProg n f) :=
  have heard : LineEffect n s (s.toneHeard n) := LineEffect.refl.onLine
  heard.onProg f

/-- A clear decision at an onset. -/
theorem clears_onset {c : Instr} {o : CallOutcome} {f : Progress → Progress}
    (run : exec c s = done s (((s.toneHeard n).onProg n f).clearDecision n o)) : Clears c n o s := by
  refine Clears.of_done run ?_ ?_ ?_ (LineEffect.toneHeard s n f)
  all_goals rw [State.line_onProg_self, State.line_toneHeard]

/-- An onset in PROGRESS that completes a cycle, by the kind of the cycle (R35, R36). -/
theorem progressToneOnset_cycle {d : Nat} (state : (s.line n).call.state = .progress) (period : (s.line n).prog.onPeriod = some d) :
    let p := (s.line n).profile
    let heard := fun (f : Progress → Progress) => s.onLine n fun l =>
      { l with
        ctl := { l.ctl with progressTone := true, toneInFrame := true }
        prog := f { l.prog with onMeasured := true, onPeriod := none, pathTimer := .stopped } }
    let busy := matchesNominal d p.busyOn p.tolerance && matchesNominal (nearestTen ms) p.busyOff p.tolerance
    let ringback := matchesNominal d p.ringbackOn p.tolerance && matchesNominal (nearestTen ms) p.ringbackOff p.tolerance
    (busy = true → (s.line n).prog.busyRun = 0 →
      Leads (.progressToneOnset n ms) s (heard fun g => { g with busyRun := 1 })) ∧
    (busy = true → 1 ≤ (s.line n).prog.busyRun → Clears (.progressToneOnset n ms) n .busy s) ∧
    (busy = false → ringback = true → p.ringbackLimit = 0 ∨ (s.line n).prog.ringbackCount + 1 < p.ringbackLimit →
      Leads (.progressToneOnset n ms) s
        (heard fun g => { g with busyRun := 0, ringbackCount := g.ringbackCount + 1 })) ∧
    (busy = false → ringback = true → 1 ≤ p.ringbackLimit → p.ringbackLimit ≤ (s.line n).prog.ringbackCount + 1 →
      Clears (.progressToneOnset n ms) n .noAnswer s) ∧
    (busy = false → ringback = false → Leads (.progressToneOnset n ms) s (heard fun g => { g with busyRun := 0 })) := by
  intro p heard busy ringback
  have run := exec_onset_cycle ms state period
  have line := s.line_toneHeard n
  refine ⟨fun yes first => ?_, fun yes again => ?_, fun no yes below => ?_, fun no yes set reached => ?_, fun no no' => ?_⟩
  · rw [judgeCycle_busy yes, State.countCycle_busy, line, if_neg (by simp only; omega), State.toneHeard_onProg] at run
    exact Leads.of_done run (congrArg State.uncounted (State.onLine_congr (by simp only [first])))
  · rw [judgeCycle_busy yes, State.countCycle_busy, line, if_pos (by simp only; omega)] at run
    exact clears_onset run
  · rw [judgeCycle_ringback no yes, State.countCycle_ringback, line, if_neg fun k => below.elim (Nat.one_le_iff_ne_zero.mp k.1)
      fun less => absurd k.2 (Nat.not_le.mpr less), State.toneHeard_onProg] at run
    exact Leads.of_done run rfl
  · rw [judgeCycle_ringback no yes, State.countCycle_ringback, line, if_pos ⟨set, reached⟩] at run
    exact clears_onset run
  · rw [judgeCycle_unmatched no no', State.countCycle, State.toneHeard_onProg] at run
    exact Leads.of_done run rfl

/-! ## The voice answer -/

/-- A voice call connects where its run and its path allow it (R38). -/
theorem State.voiceAnswer_connects (state : (s.line n).call.state = .progress) (service : (s.line n).call.service = .voice)
    (run : 20 ≤ (s.line n).prog.voiceRun) (path : (s.line n).prog.pathOpen = true) :
    s.voiceAnswer n = (s.onProg n fun g => { g with pathTimer := .stopped }).connect n .voice :=
  if_pos ⟨state, service, run, path⟩

theorem State.voiceAnswer_waits (h : ¬((s.line n).call.service = .voice ∧ 20 ≤ (s.line n).prog.voiceRun ∧
    (s.line n).prog.pathOpen = true)) : s.voiceAnswer n = s := if_neg fun k => h k.2

/-- A command that connects a voice call after a change of its line that keeps call, cards and the fields of its answer. -/
theorem connects_of_done {c : Instr} {u : State} {v : Service} (run : exec c s = done s (u.connect n v)) (b : BeforeConnect n s u) :
    ∃ t, exec c s = .next t ∧ State.Connects n v s t := ⟨_, run, (State.connects b v).commit⟩

theorem BeforeConnect.onCtl {u : State} (b : BeforeConnect n s u) (f : LineControl → LineControl)
    (cards : ∀ c, (f c).dialCard = c.dialCard ∧ (f c).answerCard = c.answerCard) : BeforeConnect n s (u.onCtl n f) := by
  refine ⟨b.toLineEffect.onCtl f, ?_, ?_, ?_, ?_, b.day⟩
  all_goals rw [State.line_onCtl_self]
  · exact b.call
  · exact (cards _).1.trans b.dialCard
  · exact (cards _).2.trans b.answerCard
  · exact b.fields

theorem BeforeConnect.onProg {u : State} (b : BeforeConnect n s u) (f : Progress → Progress)
    (count : ∀ g, (f g).ringbackCount = g.ringbackCount) : BeforeConnect n s (u.onProg n f) := by
  refine ⟨b.toLineEffect.onProg f, ?_, ?_, ?_, ?_, b.day⟩
  all_goals rw [State.line_onProg_self]
  · exact b.call
  · exact b.dialCard
  · exact b.answerCard
  · rw [← b.fields, Line.dialFields, Line.dialFields, count]

theorem BeforeConnect.refl : BeforeConnect n s s := .of_effect .refl rfl rfl rfl rfl

/-! ## Ceases -/

theorem leads_cease_elsewhere (no : (s.line n).call.state ≠ .progress ∨ (s.line n).prog.onMeasured = false) :
    Leads (.progressToneCease n ms) s (s.onLine n fun l => { l with ctl := { l.ctl with progressTone := false } }) := by
  have run : exec (.progressToneCease n ms) s = done s (s.progressToneCease n ms) := rfl
  have not : ¬((s.line n).call.state = .progress ∧ (s.line n).prog.onMeasured = true) := by
    rintro ⟨state, measured⟩
    exact no.elim (· state) fun h => by simp [h] at measured
  simp only [State.progressToneCease, State.line_onCtl_self, not, if_false] at run
  exact Leads.of_done run rfl

/-- A cease in PROGRESS that ends an on period. -/
theorem exec_cease (state : (s.line n).call.state = .progress) (measured : (s.line n).prog.onMeasured = true) :
    exec (.progressToneCease n ms) s = done s
      (((s.onCtl n fun c => { c with progressTone := false }).onProg n fun g =>
        { g with
          onMeasured := false
          onPeriod := some (nearestTen ms)
          ringbackHeard := g.ringbackHeard ||
            matchesNominal (nearestTen ms) (s.line n).profile.ringbackOn (s.line n).profile.tolerance }).voiceAnswer n) := by
  have run : exec (.progressToneCease n ms) s = done s (s.progressToneCease n ms) := rfl
  simpa only [State.progressToneCease, State.line_onCtl_self, state, measured, true_and, if_true] using run

theorem progressToneCease_measured (state : (s.line n).call.state = .progress) (measured : (s.line n).prog.onMeasured = true) :
    let p := (s.line n).profile
    let near := nearestTen ms
    let rings := (s.line n).prog.ringbackHeard || matchesNominal near p.ringbackOn p.tolerance
    let run := (s.line n).call.service = .voice ∧ 20 ≤ (s.line n).prog.voiceRun ∧
      (rings = true ∨ (s.line n).prog.voicePath = true)
    (¬run → Leads (.progressToneCease n ms) s (s.onLine n fun l =>
      { l with
        ctl := { l.ctl with progressTone := false }
        prog := { l.prog with onMeasured := false, onPeriod := some near, ringbackHeard := rings } })) ∧
    (run → ∃ t, exec (.progressToneCease n ms) s = .next t ∧ State.Connects n .voice s t) := by
  have go := exec_cease ms state measured
  refine ⟨fun no => ?_, fun ⟨service, frames, path⟩ => ?_⟩
  · rw [State.voiceAnswer_waits fun h => no (by simpa [Progress.pathOpen] using h)] at go
    simp only [State.onCtl, State.onProg, State.onLine_onLine] at go
    exact Leads.of_done go (congrArg State.uncounted (State.onLine_congr rfl))
  · rw [State.voiceAnswer_connects (by simpa using state) (by simpa using service) (by simpa using frames)
      (by simpa [Progress.pathOpen] using path)] at go
    refine connects_of_done go (BeforeConnect.onProg (BeforeConnect.onProg (BeforeConnect.onCtl .refl _ ?_) _ ?_) _ ?_)
    · exact fun _ => ⟨rfl, rfl⟩
    · exact fun _ => rfl
    · exact fun _ => rfl

end

/-- Settles O38: the measures by arithmetic, an onset by the kind of its cycle, a cease by the voice answer. -/
theorem progressTones : Obligations.ProgressTones :=
  ⟨matchesNominal_iff, nearestTen_near, fun _ ms _ => ⟨leads_onset_elsewhere ms, leads_onset_first ms,
    fun _ => progressToneOnset_cycle ms, leads_cease_elsewhere ms, progressToneCease_measured ms⟩⟩

end Sys2Proof.Machine

/-! O42: the decoder's window, its bursts and the caller record (03 R43 to R46). -/

namespace Sys2Proof.Machine

set_option Elab.async false

/-! ## The window and its bursts -/

section
variable {n : LineId} {s : State}

theorem State.closeWindow_quiet (no : (s.line n).dec.windowOpen = false ∨ (s.line n).dec.burst ≠ some 0x41) :
    s.closeWindow n = s.onLine n fun l => { l with dec := ⟨false, none⟩ } := by
  rw [State.closeWindow, if_neg]
  rintro ⟨isOpen, burst⟩
  exact no.elim (fun h => by simp [h] at isOpen) (· burst)

theorem State.fileCaller_eq (s : State) (n : LineId) (r : CallerRecord) :
    ((s.onLine n fun l => { l with dec := ⟨false, none⟩ }).fileCaller n r) = s.onLine n fun l =>
      { l with
        dec := ⟨false, none⟩
        call := { l.call with caller := r }
        ev := { l.ev with bits := l.ev.bits ||| 2, tally := l.ev.tally + 1 } } := by
  simp only [State.fileCaller, State.onCall, State.raise, State.onLine_onLine]
  rfl

theorem State.closeWindow_cuts (dec : (s.line n).dec = ⟨true, some 0x41⟩) :
    s.closeWindow n = s.onLine n fun l =>
      { l with
        dec := ⟨false, none⟩
        call := { l.call with caller := ⟨.damaged, [], [], []⟩ }
        ev := { l.ev with bits := l.ev.bits ||| 2, tally := l.ev.tally + 1 } } := by
  rw [State.closeWindow, if_pos (by rw [dec]; exact ⟨rfl, rfl⟩), State.fileCaller_eq]

theorem exec_ringVoltageOnset (n : LineId) (s : State) : exec (.ringVoltageOnset n) s = done s (s.closeWindow n) := rfl

theorem leads_ringVoltageOnset_quiet (no : (s.line n).dec.windowOpen = false ∨ (s.line n).dec.burst ≠ some 0x41) :
    Leads (.ringVoltageOnset n) s (s.onLine n fun l => { l with dec := ⟨false, none⟩ }) :=
  Leads.of_done (exec_ringVoltageOnset n s) (congrArg State.uncounted (State.closeWindow_quiet no))

theorem leads_ringVoltageOnset_cuts (dec : (s.line n).dec = ⟨true, some 0x41⟩) :
    Leads (.ringVoltageOnset n) s (s.onLine n fun l =>
      { l with
        dec := ⟨false, none⟩
        call := { l.call with caller := ⟨.damaged, [], [], []⟩ }
        ev := { l.ev with bits := l.ev.bits ||| 2, tally := l.ev.tally + 1 } }) :=
  Leads.of_done (exec_ringVoltageOnset n s) (congrArg State.uncounted (State.closeWindow_cuts dec))

theorem exec_callerBurstStart (n : LineId) (first : Byte) (s : State) :
    exec (.callerBurstStart n first) s = done s (s.burstStart n first) := rfl

theorem leads_callerBurstStart (first : Byte) (isOpen : (s.line n).dec.windowOpen = true) (burst : (s.line n).dec.burst = none) :
    Leads (.callerBurstStart n first) s (s.onLine n fun l => { l with dec := ⟨true, some first⟩ }) := by
  have run := exec_callerBurstStart n first s
  rw [State.burstStart, if_pos ⟨isOpen, burst⟩] at run
  exact Leads.of_done run (congrArg State.uncounted (State.onLine_congr (by simp only [isOpen])))

theorem leads_callerBurstStart_ignored (first : Byte)
    (no : (s.line n).dec.windowOpen = false ∨ (s.line n).dec.burst ≠ none) : Leads (.callerBurstStart n first) s s := by
  have run := exec_callerBurstStart n first s
  rw [State.burstStart, if_neg fun h => no.elim (fun k => by simp [k] at h) (· h.2)] at run
  exact Leads.of_done run rfl

theorem exec_callerBurstEnd {first : Byte} (rest : List Byte) (dec : (s.line n).dec = ⟨true, some first⟩) :
    exec (.callerBurstEnd n rest) s = done s
      (if first = 0x41 then (s.onLine n fun l => { l with dec := ⟨false, none⟩ }).fileCaller n (judgeBurst (first :: rest))
       else s.onLine n fun l => { l with dec := { l.dec with burst := none } }) := by
  have run : exec (.callerBurstEnd n rest) s = done s (s.burstEnd n rest) := rfl
  simpa only [State.burstEnd, dec] using run

theorem leads_callerBurstEnd_other {first : Byte} (rest : List Byte) (dec : (s.line n).dec = ⟨true, some first⟩) (other : first ≠ 0x41) :
    Leads (.callerBurstEnd n rest) s (s.onLine n fun l => { l with dec := ⟨true, none⟩ }) := by
  have run := exec_callerBurstEnd rest dec
  rw [if_neg other] at run
  exact Leads.of_done run (congrArg State.uncounted (State.onLine_congr (by simp only [dec])))

theorem leads_callerBurstEnd_judged (rest : List Byte) (dec : (s.line n).dec = ⟨true, some 0x41⟩) :
    Leads (.callerBurstEnd n rest) s (s.onLine n fun l =>
      { l with
        dec := ⟨false, none⟩
        call := { l.call with caller := judgeBurst (0x41 :: rest) }
        ev := { l.ev with bits := l.ev.bits ||| 2, tally := l.ev.tally + 1 } }) := by
  have run := exec_callerBurstEnd rest dec
  rw [if_pos rfl, State.fileCaller_eq] at run
  exact Leads.of_done run rfl

end

/-! ## The record filed -/

theorem filedRecord_state_ne_absent (fs : List (Nat × List Byte)) : (filedRecord fs).state ≠ .absent := by
  simp only [filedRecord]
  split <;> exact nofun

theorem judgeBurst_state_ne_absent (bs : List Byte) : (judgeBurst bs).state ≠ .absent := by
  unfold judgeBurst
  split
  next type len rest =>
    dsimp only
    split
    · exact nofun
    · split
      · exact nofun
      · split
        · exact nofun
        · split
          · exact filedRecord_state_ne_absent _
          · exact nofun
  next => exact nofun

theorem goodField_iff (c : Nat) (x : List Byte) :
    goodField (c, x) = true ↔ (c = 0x21 → x.length = 8 ∧ ∀ b ∈ x, 0x30 ≤ b.toNat ∧ b.toNat ≤ 0x39) ∧
      (c = 0x22 → 1 ≤ x.length ∧ x.length ≤ 16 ∧ ∀ b ∈ x, 0x30 ≤ b.toNat ∧ b.toNat ≤ 0x39) ∧
      (c = 0x23 → x.length = 1) ∧ (c = 0x24 → 1 ≤ x.length ∧ x.length ≤ 15) := by
  have digits : x.all isDigit = true ↔ ∀ b ∈ x, 0x30 ≤ b.toNat ∧ b.toNat ≤ 0x39 := by simp [isDigit]
  unfold goodField
  dsimp only
  split
  next e => subst e; rw [Bool.and_eq_true, digits]; simp
  next h21 =>
    split
    next e => subst e; rw [Bool.and_eq_true, digits]; simp [and_assoc]
    next h22 =>
      split
      next e => subst e; simp
      next h23 =>
        split
        next e => subst e; simp
        next h24 => simp [h21, h22, h23, h24]

theorem noTwice_iff (fs : List (Nat × List Byte)) :
    noTwice fs = true ↔ ∀ c ∈ [0x21, 0x22, 0x23, 0x24], (fs.filter fun f => f.1 == c).length ≤ 1 := by
  simp only [noTwice, List.all_eq_true, decide_eq_true_iff]

theorem withheld_iff (fs : List (Nat × List Byte)) : (fs.any fun f => f.1 == 0x23) = true ↔ ∃ f ∈ fs, f.1 = 0x23 := by simp

theorem filedRecord_withheld {fs : List (Nat × List Byte)} (h : ∃ f ∈ fs, f.1 = 0x23) :
    filedRecord fs = ⟨.withheld, [], (filedRecord fs).name, fieldText fs 0x21⟩ := by
  simp only [filedRecord, (withheld_iff fs).mpr h, if_true]

theorem filedRecord_present {fs : List (Nat × List Byte)} (h : ¬∃ f ∈ fs, f.1 = 0x23) :
    filedRecord fs = ⟨.present, fieldText fs 0x22, (filedRecord fs).name, fieldText fs 0x21⟩ := by
  have no : (fs.any fun f => f.1 == 0x23) = false := Bool.eq_false_iff.mpr fun k => h ((withheld_iff fs).mp k)
  simp only [filedRecord, no, Bool.false_eq_true, if_false]

/-! ## Whole bursts -/

theorem judgeBurst_short (len : Byte) (rest : List Byte) (short : rest.length ≤ len.toNat) :
    judgeBurst (0x41 :: len :: rest) = ⟨.damaged, [], [], []⟩ := if_pos (Nat.lt_succ_of_le short)

/-- The fields of a burst as they stand in its body. -/
def fieldBytes (fs : List (Byte × List Byte)) : List Byte := fs.flatMap fun f => f.1 :: BitVec.ofNat 8 f.2.length :: f.2

theorem length_le_fieldBytes (fs : List (Byte × List Byte)) : fs.length ≤ (fieldBytes fs).length := by
  induction fs with
  | nil => simp [fieldBytes]
  | cons f fs ih =>
    simp only [fieldBytes, List.flatMap_cons, List.length_append, List.length_cons] at ih ⊢
    omega

/-- The fields are read back as they were written. -/
theorem burstFields_fieldBytes {fs : List (Byte × List Byte)} (small : ∀ f ∈ fs, f.2.length < 256) {fuel : Nat} (enough : fs.length ≤ fuel) :
    burstFields fuel (fieldBytes fs) = some (fs.map fun f => (f.1.toNat, f.2)) := by
  induction fs generalizing fuel with
  | nil => cases fuel <;> rfl
  | cons f fs ih =>
    obtain ⟨fuel, rfl⟩ : ∃ k, fuel = k + 1 := ⟨fuel - 1, by simp only [List.length_cons] at enough; omega⟩
    have len : (BitVec.ofNat 8 f.2.length).toNat = f.2.length := by
      rw [BitVec.toNat_ofNat]
      exact Nat.mod_eq_of_lt (small f (.head _))
    have cons : fieldBytes (f :: fs) = f.1 :: BitVec.ofNat 8 f.2.length :: (f.2 ++ fieldBytes fs) := by
      simp [fieldBytes]
    rw [cons, burstFields, len, if_pos (by simp), List.drop_left, List.take_left,
      ih (fun g hg => small g (.tail _ hg)) (by simpa using enough)]
    rfl

/-- A complete burst, by its sum and its fields (R45). -/
theorem judgeBurst_complete {fs : List (Byte × List Byte)} (sum : Byte) (after : List Byte) (small : ∀ f ∈ fs, f.2.length < 256)
    (fits : (fieldBytes fs).length < 256) :
    judgeBurst (0x41 :: BitVec.ofNat 8 (fieldBytes fs).length :: (fieldBytes fs ++ sum :: after)) =
      if (0x41 + (fieldBytes fs).length + ((fieldBytes fs).map BitVec.toNat).sum + sum.toNat) % 256 = 0 ∧
        (fs.map fun f => (f.1.toNat, f.2)).all goodField = true ∧ noTwice (fs.map fun f => (f.1.toNat, f.2)) = true
      then filedRecord (fs.map fun f => (f.1.toNat, f.2)) else ⟨.damaged, [], [], []⟩ := by
  have len : (BitVec.ofNat 8 (fieldBytes fs).length).toNat = (fieldBytes fs).length := by
    rw [BitVec.toNat_ofNat]
    exact Nat.mod_eq_of_lt fits
  have read := burstFields_fieldBytes small (fuel := 256) ((length_le_fieldBytes fs).trans fits.le)
  have total : (((0x41 :: BitVec.ofNat 8 (fieldBytes fs).length :: (fieldBytes fs ++ sum :: after)).take
      ((fieldBytes fs).length + 3)).map BitVec.toNat).sum =
        0x41 + (fieldBytes fs).length + ((fieldBytes fs).map BitVec.toNat).sum + sum.toNat := by
    have taken : (fieldBytes fs ++ sum :: after).take ((fieldBytes fs).length + 1) = fieldBytes fs ++ [sum] := by
      rw [List.take_length_add_append]
      rfl
    rw [List.take_succ_cons, List.take_succ_cons, taken]
    simp only [List.map_cons, List.map_append, List.map_nil, List.sum_cons, List.sum_append, List.sum_nil, len]
    have type : BitVec.toNat (0x41 : Byte) = 0x41 := rfl
    omega
  simp only [judgeBurst, len]
  rw [if_neg (by simp), total, List.take_left, read]
  by_cases good : (0x41 + (fieldBytes fs).length + ((fieldBytes fs).map BitVec.toNat).sum + sum.toNat) % 256 = 0
  · simp only [good, ne_eq, not_true, if_false, true_and, Bool.and_eq_true]
  · simp only [good, ne_eq, not_false_iff, if_true, false_and, if_false]

/-- Settles O42: the window by its state, a burst by the tests of R45, a complete burst by reading its fields back. -/
theorem callerBursts : Obligations.CallerBursts := by
  refine ⟨fun n s => ⟨leads_ringVoltageOnset_quiet, leads_ringVoltageOnset_cuts, fun first rest => ⟨leads_callerBurstStart first,
    leads_callerBurstStart_ignored first, leads_callerBurstEnd_other rest, leads_callerBurstEnd_judged rest⟩⟩,
    fun rest => judgeBurst_state_ne_absent _, goodField_iff, fun fs => ?_, judgeBurst_short,
    fun fs sum after small fits => judgeBurst_complete sum after small fits⟩
  intro text withheld
  have text_eq : ∀ c, text c = fieldText fs c := fun c => by
    simp only [text, fieldText]
    cases fs.find? fun f => f.1 == c <;> rfl
  simp only [text_eq]
  exact ⟨noTwice_iff fs, filedRecord_withheld, filedRecord_present, rfl⟩

end Sys2Proof.Machine

/-! Which pieces of the state an operation of a line may change: `Only n F s t` says that two states differ at most in the pieces `F`,
those of line `n` and those beside the lines. A lemma `Only.op` gives the pieces of an operation; `Only.of` reads from it what stands. -/

namespace Sys2Proof.Machine

set_option Elab.async false

/-- The pieces of a line. -/
inductive LinePiece
  | call | ctl | profile | claim | dialler | prog | dec | seq | grade | link | recv | delivered | fax | voice | fm | table | ev | count
deriving DecidableEq

/-- What a piece of a line is. -/
def LinePiece.Value : LinePiece → Type
  | .call => CallRecord
  | .ctl => LineControl
  | .profile => Profile
  | .claim => Option Claim
  | .dialler => Dialler
  | .prog => Progress
  | .dec => Decoder
  | .seq => AnswerSeq
  | .grade => Grade
  | .link => Link
  | .recv => Option Nat
  | .delivered => List Entry
  | .fax => Fax
  | .voice => Voice
  | .fm => FaultRecord
  | .table => OrderTable
  | .ev => EventWord
  | .count => Word

/-- A piece of a line. -/
def LinePiece.read : (k : LinePiece) → Line → k.Value
  | .call, l => l.call
  | .ctl, l => l.ctl
  | .profile, l => l.profile
  | .claim, l => l.claim
  | .dialler, l => l.dialler
  | .prog, l => l.prog
  | .dec, l => l.dec
  | .seq, l => l.seq
  | .grade, l => l.grade
  | .link, l => l.link
  | .recv, l => l.recvBlock
  | .delivered, l => l.delivered
  | .fax, l => l.fax
  | .voice, l => l.voice
  | .fm, l => l.fm
  | .table, l => l.table
  | .ev, l => l.ev
  | .count, l => l.changeCount

/-- The pieces of the state as one line sees it: its own, the other lines, and what stands beside the lines; `event` is the engine event
word, `hdr` the rest of the Engine Header. -/
inductive Piece
  | own (k : LinePiece)
  | others | store | pumps | queue | slots | messages | outputs | draws | engTable | event | hdr
deriving DecidableEq

/-- What a piece is. -/
def Piece.Value : Piece → Type
  | .own k => k.Value
  | .others => LineId → Option Line
  | .store => Store
  | .pumps => Vector Pump 3
  | .queue => WaitQueue
  | .slots => Vector Slot 8
  | .messages => Vector Message 32
  | .outputs => List Output
  | .draws => Nat
  | .engTable => OrderTable
  | .event => EventWord
  | .hdr => Header

/-- A piece of the state, as line `n` sees it. -/
def Piece.read (n : LineId) : (p : Piece) → State → p.Value
  | .own k, s => k.read (s.line n)
  | .others, s => fun m => if m = n then none else some (s.line m)
  | .store, s => s.store
  | .pumps, s => s.pumps
  | .queue, s => s.queue
  | .slots, s => s.slots
  | .messages, s => s.messages
  | .outputs, s => s.outputs
  | .draws, s => s.draws
  | .engTable, s => s.engTable
  | .event, s => s.hdr.ev
  | .hdr, s => { s.hdr with ev := Header.initial.ev }

abbrev Piece.call : Piece := .own .call
abbrev Piece.ctl : Piece := .own .ctl
abbrev Piece.profile : Piece := .own .profile
abbrev Piece.claim : Piece := .own .claim
abbrev Piece.dialler : Piece := .own .dialler
abbrev Piece.prog : Piece := .own .prog
abbrev Piece.dec : Piece := .own .dec
abbrev Piece.seq : Piece := .own .seq
abbrev Piece.grade : Piece := .own .grade
abbrev Piece.link : Piece := .own .link
abbrev Piece.recv : Piece := .own .recv
abbrev Piece.delivered : Piece := .own .delivered
abbrev Piece.fax : Piece := .own .fax
abbrev Piece.voice : Piece := .own .voice
abbrev Piece.fm : Piece := .own .fm
abbrev Piece.table : Piece := .own .table
abbrev Piece.ev : Piece := .own .ev
abbrev Piece.count : Piece := .own .count

/-- Two states differ at most in the pieces `F`. -/
def Only (n : LineId) (F : List Piece) (s t : State) : Prop := ∀ p, p ∉ F → p.read n t = p.read n s

variable {n : LineId} {F G H : List Piece} {s t u : State}

theorem Only.refl : Only n F s s := fun _ _ => rfl

/-- A piece that stands. -/
theorem Only.of (h : Only n F s t) (p : Piece) (out : p ∉ F := by decide) : p.read n t = p.read n s := h p out

theorem Only.line_of (h : Only n F s t) {m : LineId} (other : m ≠ n) (out : .others ∉ F := by decide) : t.line m = s.line m := by
  have := congrFun (h .others out) m
  simpa [Piece.read, other] using this

theorem Only.mono (h : Only n F s t) (sub : ∀ p ∈ F, p ∈ G := by decide) : Only n G s t := fun p out => h p fun m => out (sub p m)

/-- One operation after another. -/
theorem Only.trans (h : Only n F s t) (k : Only n G t u) (left : ∀ p ∈ F, p ∈ H := by decide) (right : ∀ p ∈ G, p ∈ H := by decide) :
    Only n H s u := fun p out => (k p fun m => out (right p m)).trans (h p fun m => out (left p m))

theorem Only.foldl {α : Type} {f : State → α → State} (hf : ∀ s a, Only n F s (f s a)) (s : State) (xs : List α) :
    Only n F s (xs.foldl f s) := by
  induction xs generalizing s with
  | nil => exact .refl
  | cons x xs ih => exact (hf s x).trans (ih _) (fun _ m => m) fun _ m => m

theorem Only.ite {c : Prop} [Decidable c] {a b : State} (ha : c → Only n F s a) (hb : ¬c → Only n F s b) :
    Only n F s (if c then a else b) := by
  split
  next k => exact ha k
  next k => exact hb k

/-- An operation of another line, as line `n` sees it. -/
theorem Only.others {m : LineId} (h : Only m F s t) (out : .others ∉ F := by decide) : Only n (.others :: F) s t := by
  intro p hp
  have hp : p ≠ .others ∧ p ∉ F := by simpa using hp
  cases p with
  | own k =>
    by_cases e : n = m
    · subst e; exact h _ hp.2
    · exact congrArg k.read (h.line_of e out)
  | others => exact absurd rfl hp.1
  | _ => exact h _ hp.2

/-! ## The updates of the state -/

theorem Only.onLine (s : State) (n : LineId) {f : Line → Line}
    (hf : ∀ k : LinePiece, .own k ∉ F → ∀ l, k.read (f l) = k.read l := by
      intro k out _; cases k <;> first | rfl | exact absurd (by decide) out) : Only n F s (s.onLine n f) := by
  intro p out
  cases p with
  | own k => exact (congrArg k.read (State.line_onLine_self s n f)).trans (hf k out _)
  | others =>
    funext m
    by_cases e : m = n
    · simp [Piece.read, e]
    · simp [Piece.read, e, State.line_onLine_ne s e]
  | _ => rfl

/-- A change of the line table of a line, or of the engine's. -/
theorem Only.of_lines (lines : t.lines = s.lines) (h : ∀ p : Piece, p ∉ F → (∀ k, p ≠ .own k) → p ≠ .others → p.read n t = p.read n s) :
    Only n F s t := by
  have line : ∀ m, t.line m = s.line m := fun m => congrArg (fun ls : Vector Line 4 => ls[m]) lines
  intro p out
  cases p with
  | own k => exact congrArg k.read (line n)
  | others => funext m; simp only [Piece.read, line]
  | _ => exact h _ out nofun nofun

theorem Only.onCall (s : State) (n : LineId) (f : CallRecord → CallRecord) : Only n [.call] s (s.onCall n f) := .onLine s n
theorem Only.onCtl (s : State) (n : LineId) (f : LineControl → LineControl) : Only n [.ctl] s (s.onCtl n f) := .onLine s n
theorem Only.onDialler (s : State) (n : LineId) (f : Dialler → Dialler) : Only n [.dialler] s (s.onDialler n f) := .onLine s n
theorem Only.onProg (s : State) (n : LineId) (f : Progress → Progress) : Only n [.prog] s (s.onProg n f) := .onLine s n
theorem Only.onSeq (s : State) (n : LineId) (f : AnswerSeq → AnswerSeq) : Only n [.seq] s (s.onSeq n f) := .onLine s n
theorem Only.onGrade (s : State) (n : LineId) (f : Grade → Grade) : Only n [.grade] s (s.onGrade n f) := .onLine s n
theorem Only.onLink (s : State) (n : LineId) (f : Link → Link) : Only n [.link] s (s.onLink n f) := .onLine s n
theorem Only.onFax (s : State) (n : LineId) (f : Fax → Fax) : Only n [.fax] s (s.onFax n f) := .onLine s n
theorem Only.onVoice (s : State) (n : LineId) (f : Voice → Voice) : Only n [.voice] s (s.onVoice n f) := .onLine s n
theorem Only.onFm (s : State) (n : LineId) (f : FaultRecord → FaultRecord) : Only n [.fm] s (s.onFm n f) := .onLine s n
theorem Only.raise (s : State) (n : LineId) (e : LineEvent) : Only n [.ev] s (s.raise n e) := .onLine s n

/-- A change of what stands beside the lines. -/
theorem Only.beside (lines : t.lines = s.lines)
    (h : ∀ p : Piece, p ∉ F → (∀ k, p ≠ .own k) → p ≠ .others → p.read n t = p.read n s := by
      intro p out own others
      cases p <;> first | rfl | exact absurd rfl (own _) | exact absurd rfl others | exact absurd (by decide) out) : Only n F s t :=
  .of_lines lines h

theorem Only.onStore (s : State) (n : LineId) (f : Store → Store) : Only n [.store] s (s.onStore f) := .beside rfl
theorem Only.onPump (s : State) (n : LineId) (p : PumpId) (f : Pump → Pump) : Only n [.pumps] s (s.onPump p f) := .beside rfl
theorem Only.onSlot (s : State) (n : LineId) (g : SlotId) (f : Slot → Slot) : Only n [.slots] s (s.onSlot g f) := .beside rfl
theorem Only.onMessage (s : State) (n : LineId) (m : EntryId) (f : Message → Message) : Only n [.messages] s (s.onMessage m f) :=
  .beside rfl
theorem Only.raiseEngine (s : State) (n : LineId) (e : EngineEvent) : Only n [.event] s (s.raiseEngine e) := .beside rfl
theorem Only.emit (s : State) (n : LineId) (o : Output) : Only n [.outputs] s (s.emit o) := .beside rfl
theorem Only.draw (s : State) (n : LineId) : Only n [.draws] s s.draw := .beside rfl
theorem Only.withQueue (s : State) (n : LineId) (q : WaitQueue) : Only n [.queue] s { s with queue := q } := .beside rfl
theorem Only.withStore (s : State) (n : LineId) (st : Store) : Only n [.store] s { s with store := st } := .beside rfl

/-! ## Answers -/

theorem Only.answerWith (s : State) (n : LineId) (i : Nat) (st : Status) (r k : Nat) (fs : List Byte) :
    Only n [.table, .ev] s (s.answerWith (.line n) i st r k fs) :=
  (Only.onLine (F := [.table]) s n).trans (Only.raise _ n _)

theorem Only.answer (s : State) (n : LineId) (i : Nat) (st : Status) (r : Nat) (fs : List Byte) :
    Only n [.table, .ev] s (s.answer (.line n) i st r fs) := .answerWith s n i st r 0 fs

theorem Only.answerEngine (s : State) (n : LineId) (i : Nat) (st : Status) (r : Nat) (fs : List Byte) :
    Only n [.engTable, .event] s (s.answer .engine i st r fs) := .beside rfl

/-! ## The link's sending, and the store (06 R100 to R109; 09 R155) -/

theorem Only.beginFrame (s : State) (n : LineId) (f : LinkFrame) : Only n [.link, .outputs] s (s.beginFrame n f) :=
  (Only.onLink s n _).trans (Only.emit _ n _)

theorem Only.linkKick (s : State) (n : LineId) : Only n [.link, .outputs] s (s.linkKick n) := by
  have frame : ∀ (f : Link → Link) (g : LinkFrame), Only n [.link, .outputs] s ((s.onLink n f).beginFrame n g) := fun f g =>
    (Only.onLink s n f).trans (Only.beginFrame _ n g)
  unfold State.linkKick; dsimp only
  refine .ite (fun _ => .refl) fun _ => ?_
  split
  · exact frame _ _
  · refine .ite (fun _ => .refl) fun _ => ?_
    split
    · split
      · exact ((Only.onLink s n _).trans (Only.onLink _ n _) (H := [.link])).trans (Only.beginFrame _ n _)
      · exact (Only.onLink s n _).mono
    · split
      · exact .ite (fun _ => frame _ _) fun _ => .refl
      · exact .refl

theorem Only.sendReply (s : State) (n : LineId) (f : LinkFrame) : Only n [.link, .outputs] s (s.sendReply n f) :=
  .ite (fun _ => (Only.onLink s n _).mono) fun _ => (Only.onLink s n _).trans (Only.linkKick _ n)

theorem Only.rateInFlight (s : State) (n : LineId) : Only n [.link] s (s.rateInFlight n) := .onLink s n _

theorem Only.rateSettled (s : State) (n : LineId) : Only n [.link, .outputs] s (s.rateSettled n) :=
  (Only.onLink s n _).trans (Only.linkKick _ n)

theorem Only.criticalExit (s : State) (n : LineId) : Only n [.link, .outputs] s (s.criticalExit n) :=
  .ite (fun _ => .ite (fun _ => (Only.onLine (F := [.link]) s n).mono) fun _ => (Only.onLine (F := [.link]) s n).trans (Only.sendReply _ n _))
    fun _ => .refl

theorem Only.criticalExits (s : State) (n : LineId) : Only n [.others, .link, .outputs] s s.criticalExits :=
  .foldl (fun s m => (Only.criticalExit s m).others) s allLines

theorem Only.freeBlock (s : State) (n : LineId) (b : Nat) : Only n [.store, .others, .link, .outputs] s (s.freeBlock b) :=
  (Only.onStore s n _).trans (Only.criticalExits _ n)

theorem Only.freeBlocks (s : State) (n : LineId) (bs : List Nat) : Only n [.store, .others, .link, .outputs] s (s.freeBlocks bs) :=
  .foldl (fun s b => Only.freeBlock s n b) s bs

theorem Only.giveBlocks (s : State) (n : LineId) (bs : List Nat) (o : Owner) : Only n [.store] s (s.giveBlocks bs o) := .onStore s n _

theorem Only.pop {o : Owner} {b : Nat} (e : s.pop o = some (b, t)) (n : LineId) : Only n [.store, .event] s t := by
  unfold State.pop at e
  split at e
  · cases e
  · simp only [Option.some.injEq, Prod.mk.injEq] at e
    rw [← e.2]
    exact .ite (fun _ => (Only.withStore s n _).trans (Only.raiseEngine _ n _)) fun _ => (Only.withStore s n _).mono

/-! ## Delivery (06 R106 to R111; 07 R125 to R127; 09 R165, R166) -/

theorem Only.onOpenEntry (s : State) (n : LineId) (k : EntryKind) (f : Entry → Entry) : Only n [.delivered] s (s.onOpenEntry n k f) :=
  .onLine s n

theorem Only.removeEntries (s : State) (n : LineId) : Only n [.delivered, .link, .outputs] s (s.removeEntries n) :=
  .ite (fun _ => .refl) fun _ => (Only.onLine (F := [.delivered]) s n).trans (Only.criticalExit _ n)

theorem Only.popRecv {ek : EntryKind} {bk : BlockKind} (e : s.popRecv n ek bk = some t) : Only n [.store, .event, .recv] s t := by
  unfold State.popRecv at e
  split at e
  · cases e
  next b u k =>
    have written : ∀ f : Store → Store, Only n [.store, .event, .recv] s ((u.onStore f).onLine n fun l => { l with recvBlock := some b }) :=
      fun f => ((Only.pop k n).trans (Only.onStore u n f) (H := [.store, .event])).trans (Only.onLine (F := [.recv]) _ n)
    split at e <;> cases e <;> exact written _

theorem Only.closeData (s : State) (n : LineId) : Only n [.delivered, .ev, .link, .outputs] s (s.closeData n) := by
  unfold State.closeData; split
  · exact .refl
  · exact ((Only.onOpenEntry s n _ _).trans (Only.raise _ n _) (H := [.delivered, .ev])).trans (Only.removeEntries _ n)

/-- The RECV block of a data line joins the open entry, or a new one. -/
theorem Only.joinsData (s : State) (n : LineId) (b fill : Nat) (k : Line → List Entry) : Only n [.store, .recv, .delivered] s
    (((s.onStore fun st => st.assign b (.deliv n)).onLine n fun l => { l with recvBlock := none, delivered := k l }).onOpenEntry n .data
      fun e => e.join b (e.blockCount + 1) fill) := by
  have line : Only n [.recv, .delivered] (s.onStore fun st => st.assign b (.deliv n))
      ((s.onStore fun st => st.assign b (.deliv n)).onLine n fun l => { l with recvBlock := none, delivered := k l }) := .onLine _ n
  exact ((Only.onStore s n _).trans line (H := [.store, .recv, .delivered])).trans (Only.onOpenEntry _ n _ _)

theorem Only.deliverData (s : State) (n : LineId) :
    Only n [.store, .recv, .delivered, .ev, .link, .outputs] s (s.deliverData n) := by
  unfold State.deliverData; split
  · exact .refl
  next b _ =>
    have joins := Only.joinsData s n b (s.store.fill b) fun l =>
      if (l.openEntry .data).isSome then l.delivered else l.delivered ++ [Entry.new .data b 0]
    dsimp only
    generalize State.onOpenEntry _ n .data _ = x at joins ⊢
    split
    · exact .ite (fun _ => joins.trans (.closeData x n)) fun _ => joins.mono
    · exact joins.mono

/-- The RECV block of a page joins the page's entry, or a new one. -/
theorem Only.joinsPage (s : State) (n : LineId) (b : Nat) (k : Line → List Entry) (f : Entry → Entry) :
    Only n [.store, .delivered, .draws] s
      (((s.onStore fun st => st.assign b (.deliv n)).onLine n fun l => { l with delivered := k l }).onOpenEntry n .page f).draw := by
  have line : Only n [.delivered] (s.onStore fun st => st.assign b (.deliv n))
      ((s.onStore fun st => st.assign b (.deliv n)).onLine n fun l => { l with delivered := k l }) := .onLine _ n
  exact (((Only.onStore s n _).trans line (H := [.store, .delivered])).trans (Only.onOpenEntry _ n _ f)
    (H := [.store, .delivered])).trans (Only.draw _ n)

theorem Only.deliverPage (s : State) (n : LineId) :
    Only n [.store, .recv, .fax, .delivered, .draws, .others, .link, .outputs] s (s.deliverPage n) := by
  unfold State.deliverPage; split
  · exact .refl
  next b _ =>
    have left : Only n [.recv] s (s.onLine n fun l => { l with recvBlock := none }) := .onLine s n
    dsimp only
    generalize s.onLine n (fun l => { l with recvBlock := none }) = x at left ⊢
    refine .ite (fun _ => ?_) fun _ => left.trans (.joinsPage x n b _ _)
    have discarded : Only n [.fax, .draws, .store, .others, .link, .outputs] x ((x.onFax n fun f =>
        { f with page := f.page.map fun p => { p with discarded := true }, pagesDiscarded := x.bump n 1 f.pagesDiscarded }).draw.freeBlock
          b) := ((Only.onFax x n _).trans (Only.draw _ n) (H := [.fax, .draws])).trans (Only.freeBlock _ n b)
    exact left.trans discarded

theorem Only.closePage (s : State) (n : LineId) (v : Verdict) (rows badRows : Nat) :
    Only n [.delivered, .link, .outputs] s (s.closePage n v rows badRows) :=
  (Only.onOpenEntry s n _ _).trans (Only.removeEntries _ n)

/-! ## Calls (01; 02; 03) -/

theorem Only.enter (s : State) (n : LineId) (st : LineState) (x : Timer) : Only n [.call, .ctl] s (s.enter n st x) :=
  (Only.onCall s n _).trans (Only.onCtl _ n _)

theorem Only.copyProfile (s : State) (n : LineId) : Only n [.profile] s (s.copyProfile n) := .onLine s n

theorem Only.callStart (s : State) (n : LineId) (d : Direction) (redial : Bool) :
    Only n [.call, .ctl, .seq, .grade, .link, .fax, .voice] s (s.callStart n d redial) := .onLine s n

theorem Only.answerDial (s : State) (n : LineId) (st : Status) (r : Nat) : Only n [.table, .ev, .ctl] s (s.answerDial n st r) := by
  unfold State.answerDial; split
  · exact .refl
  · exact (Only.answer s n _ _ _ _).trans (Only.onCtl _ n _)

theorem Only.answerAnswer (s : State) (n : LineId) (st : Status) (r : Nat) :
    Only n [.table, .ev, .ctl] s (s.answerAnswer n st r) := by
  unfold State.answerAnswer; split
  · exact .refl
  · exact (Only.answer s n _ _ _ _).trans (Only.onCtl _ n _)

theorem Only.connect (s : State) (n : LineId) (v : Service) : Only n [.call, .ctl, .ev, .table] s (s.connect n v) :=
  ((((Only.enter s n _ _).trans (Only.onCall _ n _) (H := [.call, .ctl])).trans (Only.raise _ n _) (H := [.call, .ctl, .ev])).trans
    (Only.answerDial _ n _ _) (H := [.call, .ctl, .ev, .table])).trans (Only.answerAnswer _ n _ _)

theorem Only.closeHook (s : State) (n : LineId) : Only n [.call, .ctl, .voice] s (s.closeHook n) :=
  ((Only.onCall s n _).trans (Only.onCtl _ n _) (H := [.call, .ctl])).trans (Only.onVoice _ n _)

theorem Only.fileCaller (s : State) (n : LineId) (r : CallerRecord) : Only n [.call, .ev] s (s.fileCaller n r) :=
  (Only.onCall s n _).trans (Only.raise _ n _)

theorem Only.closeWindow (s : State) (n : LineId) : Only n [.dec, .call, .ev] s (s.closeWindow n) :=
  .ite (fun _ => (Only.onLine (F := [.dec]) s n).trans (Only.fileCaller _ n _)) fun _ => (Only.onLine (F := [.dec]) s n).mono

/-! ## The pump pool (04) -/

theorem Only.grantNext (s : State) (n : LineId) : Only n [.queue, .pumps] s s.grantNext := by
  unfold State.grantNext; split
  · exact (Only.withQueue s n _).trans (Only.onPump _ n _ _)
  · exact .refl

theorem Only.arbitrate (s : State) (n : LineId) : Only n [.queue, .pumps] s s.arbitrate :=
  .foldl (fun s _ => Only.grantNext s n) s allPumps

theorem Only.placeClaim (s : State) (n : LineId) (c : ClaimClass) : Only n [.queue, .pumps, .claim] s (s.placeClaim n c) := by
  unfold State.placeClaim; split
  · exact (Only.onPump s n _ _).trans (Only.onLine (F := [.claim]) _ n)
  · exact (Only.withQueue s n _).trans (Only.onLine (F := [.claim]) _ n)

theorem Only.dropClaim (s : State) (n : LineId) : Only n [.queue, .claim, .pumps] s (s.dropClaim n) := by
  have left : Only n [.queue, .claim] s ({ s with queue := s.queue.remove n }.onLine n fun l => { l with claim := none }) :=
    (Only.withQueue s n _).trans (Only.onLine (F := [.claim]) _ n)
  unfold State.dropClaim
  dsimp only
  generalize State.onLine _ n _ = x at left ⊢
  refine left.trans (G := [.pumps]) (Only.foldl ?_ x allPumps)
  exact fun t p => .ite (fun _ => .onPump t n p _) fun _ => .refl

theorem Only.releasePump (s : State) (n : LineId) : Only n [.queue, .claim, .pumps, .call] s (s.releasePump n) := by
  have left := Only.dropClaim s n
  unfold State.releasePump
  dsimp only
  generalize s.dropClaim n = x at left ⊢
  have free : Only n [.pumps] x (allPumps.foldl (fun s p =>
      if (s.pump p).state = .attached ∧ (s.pump p).line = some n then s.onPump p fun _ => Pump.inState .free none else s) x) := by
    refine Only.foldl ?_ x allPumps
    exact fun t p => .ite (fun _ => .onPump t n p _) fun _ => .refl
  generalize allPumps.foldl _ x = y at free ⊢
  exact ((left.trans free (H := [.queue, .claim, .pumps])).trans (Only.onCall y n _) (H := [.queue, .claim, .pumps, .call])).trans
    (Only.arbitrate _ n)

/-! ## Teardowns and the end of a call (01 R13 to R15; 06 R114; 07 R131, R132; 08 R142 to R152) -/

theorem Only.emptySlot (s : State) (n : LineId) (g : SlotId) : Only n [.slots, .store, .others, .link, .outputs] s (s.emptySlot g) :=
  (Only.onSlot s n g _).trans (Only.freeBlocks _ n _)

theorem Only.slotPlayEnds (s : State) (n : LineId) (g : SlotId) :
    Only n [.slots, .store, .others, .link, .outputs, .engTable, .event] s (s.slotPlayEnds g) := by
  refine .ite (fun _ => ?_) fun _ => (Only.onSlot s n g _).mono
  split
  · exact (Only.emptySlot s n g).trans (Only.answerEngine _ n _ _ _ _)
  · exact (Only.emptySlot s n g).mono

theorem Only.finishPlay (s : State) (n : LineId) (e : PlayEnd) (st : Status) (r : Nat) :
    Only n [.voice, .slots, .store, .others, .link, .outputs, .engTable, .event, .table, .ev] s (s.finishPlay n e st r) := by
  have ended : ∀ p : Play, Only n [.voice, .slots, .store, .others, .link, .outputs, .engTable, .event] s
      (match p with
        | .none => s.onVoice n fun v => { v with play := .none, playCard := none, playChain := [], playTotal := 0 }
        | .slot g => (s.onVoice n fun v => { v with play := .none, playCard := none, playChain := [], playTotal := 0 }).slotPlayEnds g
        | .chain _ => (s.onVoice n fun v => { v with play := .none, playCard := none, playChain := [], playTotal := 0 }).giveBlocks
            ((s.line n).voice.playChain.map Prod.fst) .host) := by
    intro p
    cases p with
    | none => exact (Only.onVoice s n _).mono
    | slot g => exact (Only.onVoice s n _).trans (Only.slotPlayEnds _ n g)
    | chain first => exact (Only.onVoice s n _).trans (Only.giveBlocks _ n _ _)
  unfold State.finishPlay; dsimp only
  split
  · exact (ended _).mono
  · exact (ended _).trans (Only.answer _ n _ _ _ _)

theorem Only.finishRecording (s : State) (n : LineId) (r : EndReason) :
    Only n [.messages, .voice, .ev, .table] s (s.finishRecording n r) := by
  unfold State.finishRecording; split
  · exact .refl
  · have filed : ∀ (m : EntryId) (f : Message → Message) (g : Voice → Voice),
        Only n [.messages, .voice, .ev] s (((s.onMessage m f).onVoice n g).raise n .message) := fun m f g =>
      ((Only.onMessage s n m f).trans (Only.onVoice _ n g) (H := [.messages, .voice])).trans (Only.raise _ n _)
    dsimp only; split
    · exact (filed _ _ _).mono
    · exact (filed _ _ _).trans (Only.answer _ n _ _ _ _)

theorem Only.voiceTeardown (s : State) (n : LineId) (o : CallOutcome) :
    Only n [.messages, .voice, .slots, .store, .others, .link, .outputs, .engTable, .event, .table, .ev] s (s.voiceTeardown n o) :=
  .ite (fun _ => (Only.finishRecording s n _).mono) fun _ => (Only.finishRecording s n _).trans (Only.finishPlay _ n _ _ _)

theorem Only.returnChain (s : State) (n : LineId) (o : CallOutcome) (c : SendChain) :
    Only n [.store, .table, .ev] s (s.returnChain n o c) := (Only.giveBlocks s n _ _).trans (Only.answer _ n _ _ _ _)

theorem Only.linkTeardown (s : State) (n : LineId) (o : CallOutcome) :
    Only n [.link, .store, .table, .ev, .recv, .delivered, .outputs] s (s.linkTeardown n o) :=
  .ite (fun _ => (((Only.onLink s n _).trans (Only.foldl (fun s c => Only.returnChain s n o c) _ _) (H := [.link, .store, .table, .ev])).trans
    (Only.deliverData _ n) (H := [.link, .store, .table, .ev, .recv, .delivered, .outputs])).trans (Only.closeData _ n)) fun _ => .refl

theorem Only.answerPages (s : State) (n : LineId) (st : Status) (r : Nat) (x : FaxOrder) :
    Only n [.table, .ev, .draws] s (s.answerPages n st r x) := (Only.answer s n _ _ _ _).trans (Only.draw _ n)

theorem Only.returnPages (s : State) (n : LineId) (o : CallOutcome) : Only n [.store, .fax, .table, .ev, .draws] s (s.returnPages n o) :=
  ((Only.foldl (fun s _ => Only.giveBlocks s n _ _) s _).trans (Only.onFax _ n _) (H := [.store, .fax])).trans
    (Only.foldl (fun s x => Only.answerPages s n _ _ x) _ _)

theorem Only.faxSenderTeardown (s : State) (n : LineId) (o : CallOutcome) :
    Only n [.store, .fax, .table, .ev, .draws] s (s.faxSenderTeardown n o) := by
  unfold State.faxSenderTeardown
  split
  · exact (Only.onFax s n _).mono
  · exact (Only.returnPages s n o).trans (Only.onFax _ n _)

theorem Only.faxReceiverTeardown (s : State) (n : LineId) :
    Only n [.store, .recv, .fax, .delivered, .draws, .others, .link, .outputs, .ev] s (s.faxReceiverTeardown n) := by
  unfold State.faxReceiverTeardown; split
  · exact (Only.onFax s n _).mono
  · exact ((((Only.deliverPage s n).trans (Only.closePage _ n _ _ _)
      (H := [.store, .recv, .fax, .delivered, .draws, .others, .link, .outputs])).trans (Only.onFax _ n _)
      (H := [.store, .recv, .fax, .delivered, .draws, .others, .link, .outputs])).trans (Only.raise _ n _)
      (H := [.store, .recv, .fax, .delivered, .draws, .others, .link, .outputs, .ev])).trans (Only.onFax _ n _)

theorem Only.faxTeardown (s : State) (n : LineId) (o : CallOutcome) :
    Only n [.store, .recv, .fax, .delivered, .draws, .others, .link, .outputs, .ev, .table] s (s.faxTeardown n o) :=
  .ite (fun _ => (Only.faxSenderTeardown s n o).mono) fun _ => .ite (fun _ => (Only.faxReceiverTeardown s n).mono) fun _ => .refl

theorem Only.answerCallCards (s : State) (n : LineId) (o : CallOutcome) : Only n [.table, .ev, .ctl] s (s.answerCallCards n o) := by
  unfold State.answerCallCards; dsimp only
  split
  · exact Only.answerAnswer s n _ _
  · exact (Only.answerDial s n _ _).trans (Only.answerAnswer _ n _ _)

theorem Only.stopUnits (s : State) (n : LineId) : Only n [.call, .seq, .dialler, .prog] s (s.stopUnits n) := .onLine s n

theorem Only.sendLinkClose (s : State) (n : LineId) (o : CallOutcome) : Only n [.outputs] s (s.sendLinkClose n o) :=
  .ite (fun _ => .emit s n _) fun _ => .refl

/-- What the whole call-end sequence may change. -/
abbrev callEndPieces : List Piece :=
  [.queue, .claim, .pumps, .call, .grade, .link, .store, .table, .ev, .recv, .delivered, .outputs, .fax, .draws, .others, .messages,
    .voice, .slots, .engTable, .event, .seq, .dialler, .prog, .ctl]

theorem Only.tornDown (s : State) (n : LineId) (o : CallOutcome) :
    Only n [.queue, .claim, .pumps, .call, .grade, .link, .store, .table, .ev, .recv, .delivered, .outputs, .fax, .draws, .others,
      .messages, .voice, .slots, .engTable, .event] s (s.tornDown n o) :=
  ((((Only.releasePump s n).trans (Only.onGrade _ n _) (H := [.queue, .claim, .pumps, .call, .grade])).trans (Only.linkTeardown _ n o)
    (H := [.queue, .claim, .pumps, .call, .grade, .link, .store, .table, .ev, .recv, .delivered, .outputs])).trans
    (Only.faxTeardown _ n o) (H := [.queue, .claim, .pumps, .call, .grade, .link, .store, .table, .ev, .recv, .delivered, .outputs, .fax,
      .draws, .others])).trans (Only.voiceTeardown _ n o)

theorem Only.callEnd (s : State) (n : LineId) (o : CallOutcome) : Only n callEndPieces s (s.callEnd n o) :=
  ((((Only.tornDown s n o).trans (Only.stopUnits _ n) (H := callEndPieces)).trans (Only.answerCallCards _ n o)
    (H := callEndPieces)).trans (Only.onCall _ n _) (H := callEndPieces)).trans (Only.raise _ n _)

theorem Only.decided (s : State) (n : LineId) (o : CallOutcome) : Only n [.dec, .call, .ev, .outputs, .ctl] s (s.decided n o) :=
  ((((Only.closeWindow s n).trans (Only.sendLinkClose _ n o) (H := [.dec, .call, .ev, .outputs])).trans (Only.onCall _ n _)
    (H := [.dec, .call, .ev, .outputs])).trans (Only.enter _ n _ _) (H := [.dec, .call, .ev, .outputs, .ctl])).trans (Only.onCtl _ n _)

theorem Only.clearDecision (s : State) (n : LineId) (o : CallOutcome) : Only n (.dec :: callEndPieces) s (s.clearDecision n o) :=
  (Only.decided s n o).trans (Only.callEnd _ n o)

theorem Only.abandonRetry (s : State) (n : LineId) (o : CallOutcome) :
    Only n [.fm, .table, .ev, .ctl, .store, .fax, .draws] s (s.abandonRetry n o) := by
  refine .ite (fun _ => ?_) fun _ => .refl
  have answered : Only n [.fm, .table, .ev, .ctl] s
      ((s.onFm n fun f => { f with retryPending := false }).answerDial n (endAnswer o).1 (endAnswer o).2) :=
    (Only.onFm s n _).trans (Only.answerDial _ n _ _)
  exact .ite (fun _ => answered.trans (Only.returnPages _ n o)) fun _ => answered.mono

theorem Only.enterOff (s : State) (n : LineId) : Only n [.call, .ctl, .store, .fax, .table, .ev, .draws] s (s.enterOff n) :=
  (Only.enter s n _ _).trans (Only.returnPages _ n _)

end Sys2Proof.Machine

/-! The call-end sequence where the line has no recording in progress: the Message Table stands (08 R142). -/

namespace Sys2Proof.Machine

set_option Elab.async false

variable {s : State} {n : LineId}

/-- A recording's entry is complete, and the line has no recording any more (R142). -/
def State.recordingFiled (s : State) (n : LineId) (m : EntryId) (r : EndReason) : State :=
  ((s.onMessage m fun x => { x with state := .complete, endReason := r, trailingMs := 10 * (s.line n).voice.silentRun }).onVoice n fun v =>
    { v.framed with recording := none, lastMessage := (s.message m).number, lastEnd := r }).raise n .message

theorem State.finishRecording_automatic {m : EntryId} (h : (s.line n).voice.recording = some m)
    (k : (s.line n).voice.recKind = .automatic) (r : EndReason) : s.finishRecording n r = s.recordingFiled n m r := by
  unfold State.finishRecording State.recordingFiled
  simp only [h, k, State.message_onMessage_self]

theorem State.finishRecording_host {m : EntryId} {i : Nat} (h : (s.line n).voice.recording = some m)
    (k : (s.line n).voice.recKind = .host i) (r : EndReason) : s.finishRecording n r =
      (s.recordingFiled n m r).answer (.line n) i .done 0 (recordFields m ((s.recordingFiled n m r).message m)) := by
  unfold State.finishRecording State.recordingFiled
  simp only [h, k, State.message_onMessage_self]

theorem State.line_recordingFiled (s : State) (n : LineId) (m : EntryId) (r : EndReason) : (s.recordingFiled n m r).line n =
    { s.line n with
      voice := { (s.line n).voice.framed with recording := none, lastMessage := (s.message m).number, lastEnd := r }
      ev := (s.line n).ev.raise 11 } := by
  simp [State.recordingFiled, LineEvent.bit]

theorem State.message_recordingFiled (s : State) (n : LineId) (m : EntryId) (r : EndReason) : (s.recordingFiled n m r).message m =
    { s.message m with state := .complete, endReason := r, trailingMs := 10 * (s.line n).voice.silentRun } := by
  simp [State.recordingFiled]

/-- What the end of a recording leaves of its entry and its line, whoever called for it. -/
theorem State.finishRecording_some {m : EntryId} (h : (s.line n).voice.recording = some m) (r : EndReason) :
    (s.finishRecording n r).message m =
      { s.message m with state := .complete, endReason := r, trailingMs := 10 * (s.line n).voice.silentRun } ∧
    ((s.finishRecording n r).line n).voice =
      { (s.line n).voice.framed with recording := none, lastMessage := (s.message m).number, lastEnd := r } ∧
    ((s.finishRecording n r).line n).call = (s.line n).call := by
  have line := s.line_recordingFiled n m r
  have message := s.message_recordingFiled n m r
  cases k : (s.line n).voice.recKind with
  | automatic =>
    rw [State.finishRecording_automatic h k, line]
    exact ⟨message, rfl, rfl⟩
  | host i =>
    rw [State.finishRecording_host h k, State.message_answer, State.line_answer_self, line]
    exact ⟨message, rfl, rfl⟩

theorem State.messages_voiceTeardown (h : (s.line n).voice.recording = none) (o : CallOutcome) :
    (s.voiceTeardown n o).messages = s.messages := by
  unfold State.voiceTeardown
  rw [State.finishRecording_none h]
  dsimp only
  split
  · rfl
  · exact (Only.finishPlay s n _ _ _).of .messages

theorem State.messages_callEnd (h : (s.line n).voice.recording = none) (o : CallOutcome) : (s.callEnd n o).messages = s.messages := by
  have torn : Only n [.queue, .claim, .pumps, .call, .grade, .link, .store, .table, .ev, .recv, .delivered, .outputs, .fax, .draws, .others] s
      ((((s.releasePump n).onGrade n Grade.ended).linkTeardown n o).faxTeardown n o) :=
    ((Only.trans (H := [.queue, .claim, .pumps, .call, .grade]) (Only.releasePump s n) (Only.onGrade _ n _)).trans (Only.linkTeardown _ n o)
      (H := [.queue, .claim, .pumps, .call, .grade, .link, .store, .table, .ev, .recv, .delivered, .outputs])).trans (Only.faxTeardown _ n o)
  have after : Only n [.call, .seq, .dialler, .prog, .table, .ev, .ctl] (s.tornDown n o) (s.callEnd n o) :=
    (((Only.stopUnits _ n).trans (Only.answerCallCards _ n o) (H := [.call, .seq, .dialler, .prog, .table, .ev, .ctl])).trans
      (Only.onCall _ n _) (H := [.call, .seq, .dialler, .prog, .table, .ev, .ctl])).trans (Only.raise _ n _)
  have voice : (((((s.releasePump n).onGrade n Grade.ended).linkTeardown n o).faxTeardown n o).line n).voice = (s.line n).voice :=
    torn.of .voice
  exact (after.of .messages).trans ((State.messages_voiceTeardown (by rw [voice, h]) o).trans (torn.of .messages))

theorem State.messages_clearDecision (h : (s.line n).voice.recording = none) (o : CallOutcome) :
    (s.clearDecision n o).messages = s.messages := by
  have decided := Only.decided s n o
  have voice : ((s.decided n o).line n).voice = (s.line n).voice := decided.of .voice
  rw [State.clearDecision_eq, State.messages_callEnd (by rw [voice, h])]
  exact decided.of .messages

end Sys2Proof.Machine

/-! O39: the frames of the silence measurement, the voice run and the silent run (02 R38; 08 R136, R141). -/

namespace Sys2Proof.Machine

set_option Elab.async false

section
variable {n : LineId} {xs : List Sample} {s : State}

theorem exec_voiceFrameEnd (n : LineId) (xs : List Sample) (s : State) : exec (.voiceFrameEnd n xs) s = done s (s.frameEnd n xs) := rfl

/-- The frame that ends with the samples given is silent. -/
def Line.silentFrame (l : Line) (xs : List Sample) : Bool := decide (frameLevel (l.voice.frame ++ xs) < l.profile.silenceThreshold)

theorem leads_voiceFrameEnd_none (no : (s.line n).call.state.offHook = false ∨ ((s.line n).voice.frame ++ xs).length ≠ 80) :
    Leads (.voiceFrameEnd n xs) s s := by
  have run := exec_voiceFrameEnd n xs s
  rw [State.frameEnd, if_neg (fun h => no.elim (fun k => by simp [k] at h) (· h.2))] at run
  exact Leads.of_done run rfl

theorem State.frameEnd_eq (hook : (s.line n).call.state.offHook = true) (full : ((s.line n).voice.frame ++ xs).length = 80) :
    s.frameEnd n xs = ((s.nextFrame n xs.length).frameInRecording n ((s.line n).silentFrame xs)).frameInProgress n
      ((s.line n).silentFrame xs) (s.line n).ctl.toneInFrame := if_pos ⟨hook, full⟩

theorem State.line_nextFrame (s : State) (n : LineId) (k : Nat) : (s.nextFrame n k).line n =
    { s.line n with
      voice := { (s.line n).voice with frame := [], ahead := if (s.line n).voice.recording.isSome then (s.line n).voice.ahead + k else 0 }
      ctl := { (s.line n).ctl with toneInFrame := (s.line n).ctl.progressTone } } := by
  simp [State.nextFrame]

/-- The line as the next frame begins. -/
theorem State.nextFrame_eq (s : State) (n : LineId) (k : Nat) : s.nextFrame n k = s.onLine n fun l =>
    { l with
      voice := { l.voice with frame := [], ahead := if (s.line n).voice.recording = none then 0 else (s.line n).voice.ahead + k }
      ctl := { l.ctl with toneInFrame := l.ctl.progressTone } } := by
  simp only [State.nextFrame, State.onVoice, State.onCtl, State.onLine_onLine]
  refine State.onLine_congr ?_
  cases (s.line n).voice.recording <;> rfl

theorem State.frameInRecording_none (idle : (s.line n).voice.recording = none) (silent : Bool) : s.frameInRecording n silent = s :=
  if_neg (by rw [idle]; decide)

theorem State.frameInProgress_elsewhere (no : (s.line n).call.state ≠ .progress ∨ (s.line n).call.service ≠ .voice) (silent tone : Bool) :
    s.frameInProgress n silent tone = s := if_neg fun h => no.elim (· h.1) (· h.2)

/-- A frame outside a recording, on a line that is not a voice call in PROGRESS. -/
theorem leads_voiceFrameEnd_plain (hook : (s.line n).call.state.offHook = true) (full : ((s.line n).voice.frame ++ xs).length = 80)
    (idle : (s.line n).voice.recording = none) (no : (s.line n).call.state ≠ .progress ∨ (s.line n).call.service ≠ .voice) :
    Leads (.voiceFrameEnd n xs) s (s.nextFrame n xs.length) := by
  have run := exec_voiceFrameEnd n xs s
  rw [State.frameEnd_eq hook full, State.frameInRecording_none (by rw [State.line_nextFrame]; exact idle),
    State.frameInProgress_elsewhere (by rw [State.line_nextFrame]; exact no)] at run
  exact Leads.of_done run rfl

/-! ## The voice run -/

/-- The voice run after a frame in PROGRESS. -/
def Line.voiceRunAfter (l : Line) (silent : Bool) : Nat := if silent || l.ctl.toneInFrame then 0 else l.prog.voiceRun + 1

theorem exec_voiceFrameEnd_progress (state : (s.line n).call.state = .progress) (service : (s.line n).call.service = .voice)
    (idle : (s.line n).voice.recording = none) (full : ((s.line n).voice.frame ++ xs).length = 80) :
    exec (.voiceFrameEnd n xs) s = done s
      (((s.nextFrame n xs.length).onProg n fun g =>
        { g with voiceRun := (s.line n).voiceRunAfter ((s.line n).silentFrame xs) }).voiceAnswer n) := by
  have run := exec_voiceFrameEnd n xs s
  have line := s.line_nextFrame n xs.length
  rw [State.frameEnd_eq (by rw [state]; rfl) full, State.frameInRecording_none (by rw [line]; exact idle), State.frameInProgress,
    if_pos (by rw [line]; exact ⟨state, service⟩)] at run
  rw [run, State.onProg, State.onProg]
  exact congrArg (fun u : State => done s (u.voiceAnswer n)) (State.onLine_congr (by rw [line]; rfl))

theorem leads_voiceFrameEnd_run (state : (s.line n).call.state = .progress) (service : (s.line n).call.service = .voice)
    (idle : (s.line n).voice.recording = none) (full : ((s.line n).voice.frame ++ xs).length = 80)
    (waits : (s.line n).voiceRunAfter ((s.line n).silentFrame xs) < 20 ∨
      (s.line n).prog.ringbackHeard = false ∧ (s.line n).prog.voicePath = false) :
    Leads (.voiceFrameEnd n xs) s ((s.nextFrame n xs.length).onLine n fun l =>
      { l with prog := { l.prog with voiceRun := (s.line n).voiceRunAfter ((s.line n).silentFrame xs) } }) := by
  have run := exec_voiceFrameEnd_progress state service idle full
  rw [State.voiceAnswer_waits] at run
  · exact Leads.of_done run rfl
  · rw [State.line_onProg_self, State.line_nextFrame]
    rintro ⟨-, frames, path⟩
    rcases waits with less | ⟨heard, four⟩
    · exact absurd frames (Nat.not_le.mpr less)
    · simp [Progress.pathOpen, heard, four] at path

theorem connects_voiceFrameEnd (state : (s.line n).call.state = .progress) (service : (s.line n).call.service = .voice)
    (idle : (s.line n).voice.recording = none) (full : ((s.line n).voice.frame ++ xs).length = 80)
    (frames : 20 ≤ (s.line n).voiceRunAfter ((s.line n).silentFrame xs))
    (path : (s.line n).prog.ringbackHeard = true ∨ (s.line n).prog.voicePath = true) :
    ∃ t, exec (.voiceFrameEnd n xs) s = .next t ∧ State.Connects n .voice s t := by
  have run := exec_voiceFrameEnd_progress state service idle full
  have line := s.line_nextFrame n xs.length
  rw [State.voiceAnswer_connects] at run
  · have next : BeforeConnect n s (s.nextFrame n xs.length) := by
      refine .of_effect (LineEffect.onCtl (LineEffect.onVoice .refl) _) ?_ ?_ ?_ ?_ <;> rw [line]
      rfl
    refine connects_of_done run (BeforeConnect.onProg (BeforeConnect.onProg next _ ?_) _ ?_) <;> exact fun _ => rfl
  · rw [State.line_onProg_self, line]; exact state
  · rw [State.line_onProg_self, line]; exact service
  · rw [State.line_onProg_self]; exact frames
  · rw [State.line_onProg_self, line]; simpa [Progress.pathOpen] using path

theorem exec_voicePathOpen (state : (s.line n).call.state = .progress) (runs : (s.line n).prog.pathTimer.isRunning = true) :
    exec (.voicePathOpen n) s = done s ((s.onProg n fun g => { g with voicePath := true, pathTimer := .stopped }).voiceAnswer n) :=
  congrArg (done s) (if_pos ⟨state, runs⟩)

theorem leads_voicePathOpen (state : (s.line n).call.state = .progress) (runs : (s.line n).prog.pathTimer.isRunning = true)
    (waits : (s.line n).call.service ≠ .voice ∨ (s.line n).prog.voiceRun < 20) :
    Leads (.voicePathOpen n) s (s.onLine n fun l => { l with prog := { l.prog with voicePath := true, pathTimer := .stopped } }) := by
  have run := exec_voicePathOpen state runs
  rw [State.voiceAnswer_waits] at run
  · exact Leads.of_done run rfl
  · rw [State.line_onProg_self]
    rintro ⟨service, frames, -⟩
    exact waits.elim (· service) fun less => absurd frames (Nat.not_le.mpr less)

theorem connects_voicePathOpen (state : (s.line n).call.state = .progress) (runs : (s.line n).prog.pathTimer.isRunning = true)
    (service : (s.line n).call.service = .voice) (frames : 20 ≤ (s.line n).prog.voiceRun) :
    ∃ t, exec (.voicePathOpen n) s = .next t ∧ State.Connects n .voice s t := by
  have run := exec_voicePathOpen state runs
  rw [State.voiceAnswer_connects] at run
  · refine connects_of_done run (BeforeConnect.onProg (BeforeConnect.onProg .refl _ ?_) _ ?_) <;> exact fun _ => rfl
  all_goals rw [State.line_onProg_self]
  · exact state
  · exact service
  · exact frames
  · simp [Progress.pathOpen]

/-! ## The silent run -/

/-- The silent run after a frame in a recording. -/
def Voice.silentRunAfter (v : Voice) (silent : Bool) : Nat := if silent then v.silentRun + 1 else 0

theorem State.frameInRecording_some {m : EntryId} (recording : (s.line n).voice.recording = some m) (silent : Bool) :
    s.frameInRecording n silent =
      let u := s.onVoice n fun v => { v with silentRun := (s.line n).voice.silentRunAfter silent }
      if silent = true ∧ (s.line n).profile.silenceLimit * 100 ≤ (s.line n).voice.silentRunAfter silent then u.endRecording n .silence
      else u := by
  have same : (s.onVoice n fun v => { v with silentRun := if silent then v.silentRun + 1 else 0 }) =
      s.onVoice n fun v => { v with silentRun := (s.line n).voice.silentRunAfter silent } := State.onLine_congr rfl
  rw [State.frameInRecording, if_pos (by rw [recording]; rfl), same]
  simp only [State.line_onVoice_self]

theorem leads_voiceFrameEnd_recording {m : EntryId} (hook : (s.line n).call.state.offHook = true)
    (state : (s.line n).call.state ≠ .progress) (full : ((s.line n).voice.frame ++ xs).length = 80)
    (recording : (s.line n).voice.recording = some m)
    (below : (s.line n).silentFrame xs = false ∨
      (s.line n).voice.silentRunAfter ((s.line n).silentFrame xs) < (s.line n).profile.silenceLimit * 100) :
    Leads (.voiceFrameEnd n xs) s ((s.nextFrame n xs.length).onLine n fun l =>
      { l with voice := { l.voice with silentRun := (s.line n).voice.silentRunAfter ((s.line n).silentFrame xs) } }) := by
  have run := exec_voiceFrameEnd n xs s
  have line := s.line_nextFrame n xs.length
  rw [State.frameEnd_eq hook full, State.frameInRecording_some (m := m) (by rw [line]; exact recording)] at run
  have goesOn : ¬((s.line n).silentFrame xs = true ∧ ((s.nextFrame n xs.length).line n).profile.silenceLimit * 100 ≤
      ((s.nextFrame n xs.length).line n).voice.silentRunAfter ((s.line n).silentFrame xs)) := by
    rw [line]
    rintro ⟨silent, reached⟩
    rcases below with loud | less
    · rw [loud] at silent; exact nomatch silent
    · exact absurd reached (Nat.not_le.mpr less)
  have run := run.trans (congrArg (fun u : State => done s (u.frameInProgress n _ _)) (if_neg goesOn))
  rw [State.frameInProgress_elsewhere (by rw [State.line_onVoice_self, line]; exact .inl state)] at run
  refine Leads.of_done run (congrArg State.uncounted (State.onLine_congr ?_))
  rw [line]
  rfl

/-- The end of a recording by its silence: the entry complete, and the call cleared where the recording was automatic (R141). -/
theorem State.endRecording_silence {m : EntryId} (recording : (s.line n).voice.recording = some m) :
    let t := s.endRecording n .silence
    (t.line n).voice.recording = none ∧ (t.message m).state = .complete ∧ (t.message m).endReason = .silence ∧
      (t.message m).trailingMs = 10 * (s.line n).voice.silentRun ∧
      ((s.line n).voice.recKind = .automatic → (t.line n).call.state = .clearing ∧ (t.line n).call.lastOutcome = .localCleared) ∧
      ((t.line n).call.state = .clearing ∨ (t.line n).call.state = (s.line n).call.state) := by
  obtain ⟨message, voice, call⟩ := State.finishRecording_some recording .silence
  have quiet : ((s.finishRecording n .silence).line n).voice.recording = none := by rw [voice]
  cases kind : (s.line n).voice.recKind with
  | host i =>
    have same : s.endRecording n .silence = s.finishRecording n .silence := by simp only [State.endRecording, kind]
    rw [same]
    dsimp only
    rw [message, call]
    exact ⟨quiet, rfl, rfl, rfl, nofun, .inr rfl⟩
  | automatic =>
    have same : s.endRecording n .silence = (s.finishRecording n .silence).clearDecision n .localCleared := by
      simp only [State.endRecording, kind, reduceCtorEq, if_false]
    have cleared := (s.finishRecording n .silence).clearDecision_spec n .localCleared
    have messages := State.messages_clearDecision quiet .localCleared
    have entry : ((s.finishRecording n .silence).clearDecision n .localCleared).message m = (s.finishRecording n .silence).message m :=
      congrArg (fun ms : Vector Message 32 => ms[m]) messages
    rw [same]
    dsimp only
    rw [entry, message]
    exact ⟨cleared.recording, rfl, rfl, rfl, fun _ => by rw [cleared.call]; exact ⟨rfl, rfl⟩, .inl (by rw [cleared.call])⟩

theorem voiceFrameEnd_silence {m : EntryId} (hook : (s.line n).call.state.offHook = true) (state : (s.line n).call.state ≠ .progress)
    (full : ((s.line n).voice.frame ++ xs).length = 80) (recording : (s.line n).voice.recording = some m)
    (silent : (s.line n).silentFrame xs = true)
    (reached : (s.line n).profile.silenceLimit * 100 ≤ (s.line n).voice.silentRunAfter ((s.line n).silentFrame xs)) :
    ∃ t, exec (.voiceFrameEnd n xs) s = .next t ∧
      (t.line n).voice.recording = none ∧ (t.message m).state = .complete ∧ (t.message m).endReason = .silence ∧
      (t.message m).trailingMs = 10 * (s.line n).voice.silentRunAfter ((s.line n).silentFrame xs) ∧ State.Aside n s t ∧
      State.Steady s t ∧ ((s.line n).voice.recKind = .automatic → (t.line n).call.state = .clearing ∧
        (t.line n).call.lastOutcome = .localCleared) := by
  have run := exec_voiceFrameEnd n xs s
  have line := s.line_nextFrame n xs.length
  have effect : LineEffect n s (s.frameEnd n xs) := LineEffect.frameEnd .refl xs
  rw [State.frameEnd_eq hook full, State.frameInRecording_some (m := m) (by rw [line]; exact recording)] at run effect
  have ends : (s.line n).silentFrame xs = true ∧ ((s.nextFrame n xs.length).line n).profile.silenceLimit * 100 ≤
      ((s.nextFrame n xs.length).line n).voice.silentRunAfter ((s.line n).silentFrame xs) := by
    rw [line]; exact ⟨silent, reached⟩
  dsimp only at run effect
  rw [if_pos ends] at run effect
  have before := State.line_onVoice_self (s.nextFrame n xs.length) n fun v =>
    { v with silentRun := ((s.nextFrame n xs.length).line n).voice.silentRunAfter ((s.line n).silentFrame xs) }
  generalize State.onVoice (s.nextFrame n xs.length) n _ = u at *
  rw [line] at before
  obtain ⟨ended, complete, reason, trailing, automatic, cleared⟩ :=
    State.endRecording_silence (s := u) (n := n) (m := m) (by rw [before]; exact recording)
  rw [before] at trailing automatic cleared
  generalize u.endRecording n .silence = v at *
  rw [State.frameInProgress_elsewhere (.inl fun h => cleared.elim (fun k => by simp [k] at h) fun k => state (k.symm.trans h))]
    at run effect
  have whole := effect.commit
  refine ⟨_, run, ?_, ?_, ?_, ?_, whole.aside, whole.steady, fun k => ?_⟩
  · rw [State.line_commit]; exact ended
  · rw [State.message_commit]; exact complete
  · rw [State.message_commit]; exact reason
  · rw [State.message_commit]; exact trailing
  · rw [State.line_commit]; exact automatic k

end

/-- Settles O39: a frame by the state of the line and by whether it records; the voice answer by its run and its path. -/
theorem voiceFrames : Obligations.VoiceFrames := by
  refine ⟨fun xs => rfl, fun n xs s => ?_⟩
  have next : s.nextFrame n xs.length = _ := s.nextFrame_eq n xs.length
  refine ⟨leads_voiceFrameEnd_none, fun hook full idle no => ?_, fun state service idle full => ?_,
    fun state runs => ⟨leads_voicePathOpen state runs, connects_voicePathOpen state runs⟩, fun hook state full m recording => ?_⟩
  · exact next ▸ leads_voiceFrameEnd_plain hook full idle no
  · have run : ∀ silent : Bool, (s.line n).voiceRunAfter silent =
        if silent = true ∨ (s.line n).ctl.toneInFrame = true then 0 else (s.line n).prog.voiceRun + 1 := fun silent => by
      simp only [Line.voiceRunAfter, Bool.or_eq_true]
    refine ⟨fun waits => ?_, fun frames path => ?_⟩
    · exact next ▸ run _ ▸ leads_voiceFrameEnd_run state service idle full (run _ ▸ waits)
    · exact connects_voiceFrameEnd state service idle full (run _ ▸ frames) path
  · exact ⟨fun below => next ▸ leads_voiceFrameEnd_recording hook state full recording below,
      fun silent reached => voiceFrameEnd_silence hook state full recording silent reached⟩

end Sys2Proof.Machine

/-! O40: training as the originator, and the calling tones of adaptive listening (02 R37; 03 R54, R55; 04 R60 to R62, R68; 07 R119). -/

namespace Sys2Proof.Machine

set_option Elab.async false

section
variable {n : LineId} {p : PumpId} {s : State}

theorem State.heldPump_eq (recorded : (s.line n).call.pump = some p) (attached : (s.pump p).state = .attached)
    (serves : (s.pump p).line = some n) : s.heldPump n = some p := by
  unfold State.heldPump
  simp only [recorded, attached, serves, and_self, if_true]

/-- Which pump a line holds depends on its call record and the pumps alone. -/
theorem State.heldPump_congr {t : State} (call : (t.line n).call.pump = (s.line n).call.pump) (pumps : t.pumps = s.pumps) :
    t.heldPump n = s.heldPump n := by
  have pump : ∀ q, t.pump q = s.pump q := fun q => congrArg (fun ps : Vector Pump 3 => ps[q]) pumps
  unfold State.heldPump
  simp only [call, pump]

/-! ## Training -/

/-- The line begins to train with its pump. -/
theorem State.beginTraining_held (r : Role) (held : s.heldPump n = some p) : s.beginTraining n r =
    ((s.onLine n fun l =>
        { l with
          call := { l.call with state := .training }
          ctl := { l.ctl with stateTimer := .running (l.profile.trainingLimit * 1000) }
          prog := { l.prog with pathTimer := .stopped } }).onPump p fun q => { q with activity := .training, role := r }).emit
      (.trainingStart n r) := by
  have entered : ((s.enter n .training (.running ((s.line n).profile.trainingLimit * 1000))).onProg n fun g =>
      { g with pathTimer := .stopped }) = s.onLine n fun l =>
        { l with
          call := { l.call with state := .training }
          ctl := { l.ctl with stateTimer := .running (l.profile.trainingLimit * 1000) }
          prog := { l.prog with pathTimer := .stopped } } := by
    simp only [State.enter, State.onCall, State.onCtl, State.onProg, State.onLine_onLine]
    exact State.onLine_congr rfl
  have held' : (s.onLine n fun l =>
      { l with
        call := { l.call with state := .training }
        ctl := { l.ctl with stateTimer := .running (l.profile.trainingLimit * 1000) }
        prog := { l.prog with pathTimer := .stopped } }).heldPump n = some p := by
    rw [← held]
    refine State.heldPump_congr ?_ rfl
    rw [State.line_onLine_self]
  simp only [State.beginTraining, entered, held']

theorem leads_answerToneAccepted (state : (s.line n).call.state = .progress) (held : s.heldPump n = some p)
    (service : (s.line n).call.service ≠ .voice) (tone : (s.line n).ctl.answerTone = true) :
    Leads (.answerToneAccepted n) s
      (((s.onLine n fun l =>
          { l with
            call := { l.call with state := .training }
            ctl := { l.ctl with stateTimer := .running (l.profile.trainingLimit * 1000) }
            prog := { l.prog with pathTimer := .stopped } }).onPump p fun q => { q with activity := .training, role := .originator }).emit
        (.trainingStart n .originator)) := by
  have run : exec (.answerToneAccepted n) s = done s (s.answerToneAccepted n) := rfl
  rw [State.answerToneAccepted, if_pos ⟨state, service, tone⟩, State.beginTraining_held .originator held] at run
  exact Leads.of_done run rfl

theorem leads_offerFrame_progress (state : (s.line n).call.state = .progress) (held : s.heldPump n = some p)
    (service : (s.line n).call.service = .fax) (o : Offer) :
    Leads (.offerFrame n o) s
      (((s.onLine n fun l =>
          { l with
            call := { l.call with state := .training }
            ctl := { l.ctl with stateTimer := .running (l.profile.trainingLimit * 1000) }
            prog := { l.prog with pathTimer := .stopped }
            fax := { l.fax with offerHeld := some o } }).onPump p fun q =>
          { q with activity := .training, role := .originator }).emit (.trainingStart n .originator)) := by
  have run : exec (.offerFrame n o) s = done s (s.offerReceived n o) := rfl
  have held' : (s.onFax n fun f => { f with offerHeld := some o }).heldPump n = some p := by
    rw [← held]
    refine State.heldPump_congr ?_ rfl
    rw [State.line_onFax_self]
  rw [State.offerReceived, if_pos ⟨state, service, by rw [held]; rfl⟩, State.beginTraining_held .originator held', State.onFax,
    State.onLine_onLine] at run
  exact Leads.of_done run rfl

/-! ## Claims -/

theorem State.lowestFree_eq (free : (s.pump p).state = .free) (lowest : ∀ q < p, (s.pump q).state ≠ .free) :
    s.lowestFree = some p := by
  cases found : s.lowestFree with
  | none => exact absurd free (State.lowestFree_eq_none found p)
  | some q =>
    have qFree := State.lowestFree_eq_some found
    rcases lt_trichotomy q p with less | same | more
    · exact absurd qFree (lowest q less)
    · rw [same]
    · exact absurd free (State.lowestFree_least found more)

/-- A claim granted at once. -/
theorem State.makeClaim_granted (free : s.lowestFree = some p) (c : ClaimClass) : s.makeClaim n c =
    (s.onPump p fun _ => Pump.inState .settling (some n)).onLine n fun l => { l with claim := some ⟨c, .stopped⟩ } := by
  have placed : s.placeClaim n c =
      (s.onPump p fun _ => Pump.inState .settling (some n)).onLine n fun l => { l with claim := some ⟨c, .stopped⟩ } := by
    simp only [State.placeClaim, free]
  rw [State.makeClaim, placed]
  exact if_neg (by simp [Line.claimExpired])

/-- A claim that waits in the queue with a wait limit above 0 s. -/
theorem State.makeClaim_queued (busy : s.lowestFree = none) (c : ClaimClass) (limit : 0 < (s.line n).profile.pumpWait c) :
    s.makeClaim n c = { s with queue := s.queue.enqueue n c }.onLine n fun l =>
      { l with claim := some ⟨c, .running (l.profile.pumpWait c * 1000)⟩ } := by
  have placed : s.placeClaim n c = { s with queue := s.queue.enqueue n c }.onLine n fun l =>
      { l with claim := some ⟨c, .running (l.profile.pumpWait c * 1000)⟩ } := by
    simp only [State.placeClaim, busy]
  rw [State.makeClaim, placed]
  refine if_neg ?_
  rw [State.line_onLine_self]
  have same : State.line { s with queue := s.queue.enqueue n c } n = s.line n := rfl
  simp only [Line.claimExpired, same, Timer.running.injEq, decide_eq_true_iff]
  omega

theorem State.lowestFree_onLine (s : State) (n : LineId) (f : Line → Line) : (s.onLine n f).lowestFree = s.lowestFree := rfl

/-! ## Calling tones -/

/-- Line `n` as a calling tone of a service has been judged, with the wait timer of its claim. -/
def State.toneJudged (s : State) (n : LineId) (v : Service) (w : Timer) : State := s.onLine n fun l =>
  { l with
    ctl := { l.ctl with faxToneBurst := decide (v ≠ .fax) && l.ctl.faxToneBurst }
    seq := { l.seq with listening := false, listenTimer := .stopped, switchTo := v, step := .switchWait }
    claim := some ⟨.answer, w⟩ }

/-- Line `n` as a calling tone is judged, before its claim. -/
def State.toneTaken (s : State) (n : LineId) (v : Service) : State := s.onLine n fun l =>
  { l with
    ctl := { l.ctl with faxToneBurst := decide (v ≠ .fax) && l.ctl.faxToneBurst }
    seq := { l.seq with listening := false, listenTimer := .stopped, switchTo := v, step := .switchWait } }

theorem State.toneTaken_claim (s : State) (n : LineId) (v : Service) (w : Line → Timer) :
    (s.toneTaken n v).onLine n (fun l => { l with claim := some ⟨.answer, w l⟩ }) = s.toneJudged n v (w ((s.toneTaken n v).line n)) := by
  rw [State.toneTaken, State.onLine_onLine, State.line_onLine_self]
  exact State.onLine_congr rfl

theorem exec_faxCallingToneCease (n : LineId) (ms : Nat) (s : State) :
    exec (.faxCallingToneCease n ms) s = done s (s.faxToneCease n ms) := rfl

theorem leads_faxCallingToneCease {ms : Nat} (no : (s.line n).ctl.faxToneBurst = false ∨ (s.line n).seq.listening = false ∨ ms < 400 ∨
    700 < ms) : Leads (.faxCallingToneCease n ms) s (s.onLine n fun l => { l with ctl := { l.ctl with faxToneBurst := false } }) := by
  have run := exec_faxCallingToneCease n ms s
  have not : ¬((s.line n).ctl.faxToneBurst = true ∧ (s.line n).seq.listening = true ∧ 400 ≤ ms ∧ ms ≤ 700) := by
    rintro ⟨burst, listening, lo, hi⟩
    rcases no with no | no | no | no
    · rw [no] at burst; exact nomatch burst
    · rw [no] at listening; exact nomatch listening
    · omega
    · omega
  simp only [State.faxToneCease, State.line_onCtl_self, not, if_false] at run
  exact Leads.of_done run rfl

theorem leads_dataCallingToneAccepted (no : (s.line n).seq.listening = false ∨ (s.line n).ctl.dataTone = false) :
    Leads (.dataCallingToneAccepted n) s s := by
  have run : exec (.dataCallingToneAccepted n) s = done s (s.dataToneAccepted n) := rfl
  rw [State.dataToneAccepted, if_neg fun h => no.elim (fun k => by simp [k] at h) fun k => by simp [k] at h] at run
  exact Leads.of_done run rfl

theorem exec_fax_judged {ms : Nat} (listening : (s.line n).seq.listening = true) (burst : (s.line n).ctl.faxToneBurst = true)
    (lo : 400 ≤ ms) (hi : ms ≤ 700) : exec (.faxCallingToneCease n ms) s = done s ((s.toneTaken n .fax).makeClaim n .answer) := by
  have run := exec_faxCallingToneCease n ms s
  unfold State.faxToneCease at run
  dsimp only at run
  rw [State.line_onCtl_self, if_pos ⟨burst, listening, lo, hi⟩, State.switchClaim, State.onSeq, State.onCtl, State.onLine_onLine] at run
  exact run

theorem exec_data_judged (listening : (s.line n).seq.listening = true) (tone : (s.line n).ctl.dataTone = true) :
    exec (.dataCallingToneAccepted n) s = done s ((s.toneTaken n .data).makeClaim n .answer) := by
  have run : exec (.dataCallingToneAccepted n) s = done s (s.dataToneAccepted n) := rfl
  rw [State.dataToneAccepted, if_pos ⟨listening, tone⟩] at run
  exact run

/-- A tone judged, with a FREE pump. -/
theorem leads_judged_granted {c : Instr} {v : Service} (run : exec c s = done s ((s.toneTaken n v).makeClaim n .answer))
    (free : (s.pump p).state = .free) (lowest : ∀ q < p, (s.pump q).state ≠ .free) :
    Leads c s ((s.toneJudged n v .stopped).onPump p fun _ => Pump.inState .settling (some n)) := by
  have found : (s.toneTaken n v).lowestFree = some p := State.lowestFree_eq (s := s) free lowest
  rw [State.makeClaim_granted found] at run
  have same : ((s.toneTaken n v).onPump p fun _ => Pump.inState .settling (some n)).onLine n (fun l =>
      { l with claim := some ⟨.answer, .stopped⟩ }) = (s.toneJudged n v .stopped).onPump p fun _ => Pump.inState .settling (some n) :=
    congrArg (fun x : State => x.onPump p fun _ => Pump.inState .settling (some n)) (s.toneTaken_claim n v fun _ => .stopped)
  exact Leads.of_done run (congrArg State.uncounted same)

/-- A tone judged, with no FREE pump. -/
theorem leads_judged_queued {c : Instr} {v : Service} (run : exec c s = done s ((s.toneTaken n v).makeClaim n .answer))
    (busy : ∀ p, (s.pump p).state ≠ .free) (limit : 0 < (s.line n).profile.answerPumpWait) :
    Leads c s { s.toneJudged n v (.running ((s.line n).profile.answerPumpWait * 1000)) with
      queue := { s.queue with answer := s.queue.answer ++ [n] } } := by
  have found : (s.toneTaken n v).lowestFree = none := by
    cases e : (s.toneTaken n v).lowestFree with
    | none => rfl
    | some p => exact absurd (State.lowestFree_eq_some e) (busy p)
  have profile : ((s.toneTaken n v).line n).profile = (s.line n).profile := by rw [State.toneTaken, State.line_onLine_self]
  rw [State.makeClaim_queued found .answer (by rw [profile]; exact limit)] at run
  have same : { s.toneTaken n v with queue := (s.toneTaken n v).queue.enqueue n .answer }.onLine n (fun l =>
      { l with claim := some ⟨.answer, .running (l.profile.pumpWait .answer * 1000)⟩ }) =
        { s.toneJudged n v (.running ((s.line n).profile.answerPumpWait * 1000)) with
          queue := { s.queue with answer := s.queue.answer ++ [n] } } := by
    have claimed := s.toneTaken_claim n v fun l => .running (l.profile.pumpWait .answer * 1000)
    rw [profile] at claimed
    exact congrArg (fun x : State => { x with queue := s.queue.enqueue n .answer }) claimed
  exact Leads.of_done run (congrArg State.uncounted same)

end

/-- Settles O40: training by the pump held; the tones by whether the line listens, and a judged one by whether a pump is FREE. -/
theorem originatorTrainsAndCallingTones : Obligations.OriginatorTrainsAndCallingTones := by
  refine ⟨fun n p s state recorded attached serves => ?_, fun n s => ?_⟩
  · have held := State.heldPump_eq recorded attached serves
    exact ⟨leads_answerToneAccepted state held, fun o service => leads_offerFrame_progress state held service o⟩
  · refine ⟨.of_done (t := s.onCtl n _) rfl rfl, .of_done (t := s.onCtl n _) rfl rfl, .of_done (t := s.onCtl n _) rfl rfl,
      .of_done (t := s.onCtl n _) rfl rfl, .of_done (t := s.onCtl n _) rfl rfl, fun ms => leads_faxCallingToneCease,
      leads_dataCallingToneAccepted, fun c v listening judged => ?_⟩
    have run : exec c s = done s ((s.toneTaken n v).makeClaim n .answer) := by
      rcases judged with ⟨⟨ms, rfl, lo, hi⟩, burst, rfl⟩ | ⟨rfl, tone, rfl⟩
      · exact exec_fax_judged listening burst lo hi
      · exact exec_data_judged listening tone
    exact ⟨fun p => leads_judged_granted run, leads_judged_queued run⟩

end Sys2Proof.Machine

/-! Cards through the operations of a line: which cards stand, and what the return of the Page List and an abandoned retry answer
(07 R131, R133; 10 R174; 11 R184). -/

namespace Sys2Proof.Machine

set_option Elab.async false

variable {n : LineId} {s t u : State} {T : TableId} {i j : Nat} {st : Status} {r k : Nat} {fs : List Byte} {o : CallOutcome}

/-! ## Answers that stand -/

/-- An answered card stays answered while it stands. -/
theorem State.Answered.later (h : State.Answered T i st r k fs s t) (l : LineEffect n t u) (own : T = .line n ∨ T = .engine)
    (card : u.card T i = t.card T i) : State.Answered T i st r k fs s u := by
  refine ⟨by rw [card, h.hand], by rw [card, h.tick], by rw [card, h.status], by rw [card, h.reason], by rw [card, h.count],
    by rw [card, h.fields], ?_⟩
  have event := h.event
  rcases own with rfl | rfl
  · obtain ⟨b, c, e⟩ := l.events
    simp only [e, BitVec.getLsbD_or, event, Bool.true_or]
  · obtain ⟨w, x, y, ⟨b, c, e⟩, hdr⟩ := l.hdr
    simp only [hdr, e, BitVec.getLsbD_or, event, Bool.true_or]

/-- An answer seen from an earlier state with the same Tick. -/
theorem State.Answered.before (h : State.Answered T i st r k fs u t) (tick : u.hdr.tick = s.hdr.tick) :
    State.Answered T i st r k fs s t :=
  ⟨h.hand, tick ▸ h.tick, h.status, h.reason, h.count, h.fields, by cases T <;> exact h.event⟩

theorem State.card_congr (h : t.table T = s.table T) (i : Nat) : t.card T i = s.card T i := by rw [State.card, State.card, h]

/-- A card of the line where the line's table stands. -/
theorem Only.card {F : List Piece} (h : Only n F s t) (i : Nat) (out : .table ∉ F := by decide) :
    t.card (.line n) i = s.card (.line n) i := State.card_congr (T := .line n) (h.of .table out) i

theorem State.card_answer_ne (s : State) (T : TableId) (other : j ≠ i) (st : Status) (r : Nat) (fs : List Byte) :
    (s.answer T i st r fs).card T j = s.card T j := State.card_answerWith_ne s T other st r 0 fs

/-- An answer in the engine table leaves the cards of a line alone. -/
theorem State.card_answerEngine (s : State) (n : LineId) (i j : Nat) (st : Status) (r : Nat) (fs : List Byte) :
    (s.answer .engine i st r fs).card (.line n) j = s.card (.line n) j := (Only.answerEngine s n i st r fs).card j

theorem State.card_answerDial_ne (other : (s.line n).ctl.dialCard ≠ some j) (st : Status) (r : Nat) :
    (s.answerDial n st r).card (.line n) j = s.card (.line n) j := by
  unfold State.answerDial
  split
  · rfl
  next i e =>
    have ne : j ≠ i := fun h => other (h ▸ e)
    rw [(Only.onCtl _ n _).card j, State.card_answer_ne s (.line n) ne]

theorem State.card_answerAnswer_ne (other : (s.line n).ctl.answerCard ≠ some j) (st : Status) (r : Nat) :
    (s.answerAnswer n st r).card (.line n) j = s.card (.line n) j := by
  unfold State.answerAnswer
  split
  · rfl
  next i e =>
    have ne : j ≠ i := fun h => other (h ▸ e)
    rw [(Only.onCtl _ n _).card j, State.card_answer_ne s (.line n) ne]

/-- The answer of a DIAL card still TAKEN. -/
theorem State.answered_answerDial (held : (s.line n).ctl.dialCard = some i) (fits : i < (s.line n).table.cards.length) (st : Status)
    (r : Nat) : State.Answered (.line n) i st r 0 (s.line n).dialFields s (s.answerDial n st r) := by
  have e : s.answerDial n st r =
      (s.answer (.line n) i st r (s.line n).dialFields).onCtl n fun c => { c with dialCard := none } := by
    unfold State.answerDial
    rw [held]
  rw [e]
  have answered : State.Answered (.line n) i st r 0 (s.line n).dialFields s (s.answer (.line n) i st r (s.line n).dialFields) :=
    State.answered_of fits st r 0 _ rfl
  exact answered.later (LineEffect.refl.onCtl _) (.inl rfl) ((Only.onCtl _ n _).card i)

/-- The answer of an ANSWER card still TAKEN. -/
theorem State.answered_answerAnswer (held : (s.line n).ctl.answerCard = some i) (fits : i < (s.line n).table.cards.length) (st : Status)
    (r : Nat) : State.Answered (.line n) i st r 0 (s.line n).answerFields s (s.answerAnswer n st r) := by
  have e : s.answerAnswer n st r =
      (s.answer (.line n) i st r (s.line n).answerFields).onCtl n fun c => { c with answerCard := none } := by
    unfold State.answerAnswer
    rw [held]
  rw [e]
  have answered : State.Answered (.line n) i st r 0 (s.line n).answerFields s (s.answer (.line n) i st r (s.line n).answerFields) :=
    State.answered_of fits st r 0 _ rfl
  exact answered.later (LineEffect.refl.onCtl _) (.inl rfl) ((Only.onCtl _ n _).card i)

/-! ## The Page List -/

/-- The fields of a FAX PAGES answer at up to 255 blocks cut short (R129). -/
def FaxOrder.fields (x : FaxOrder) (f : Fax) : List Byte :=
  ((x.verdicts.map fun v : Verdict => BitVec.ofNat 8 v.code) ++ List.replicate 8 0).take 8 ++
    [BitVec.ofNat 8 x.resent, BitVec.ofNat 8 x.cutShort, BitVec.ofNat 8 f.rung, if f.fine then 1 else 0, BitVec.ofNat 8 f.width]

theorem byteOf_zero (v : Nat) : byteOf v 0 = BitVec.ofNat 8 v := by simp [byteOf]

theorem State.faxFields_eq (s : State) (n : LineId) {x : FaxOrder} (few : x.cutShort ≤ 255) :
    s.faxFields n x = x.fields (s.line n).fax := by
  have fine : byteOf (flagCode (s.line n).fax.fine) 0 = if (s.line n).fax.fine then 1 else 0 := by
    cases (s.line n).fax.fine <;> rfl
  unfold State.faxFields FaxOrder.fields State.cutShortByte
  rw [if_pos few, fine]
  simp only [byteOf_zero]

/-- The answers of several FAX PAGES orders leave the other cards alone. -/
theorem State.card_foldl_answerPages (xs : List FaxOrder) (s : State) (n : LineId) (st : Status) (r : Nat)
    (other : ∀ x ∈ xs, x.card ≠ j) :
    (xs.foldl (fun s x => s.answerPages n st r x) s).card (.line n) j = s.card (.line n) j := by
  induction xs generalizing s with
  | nil => rfl
  | cons x xs ih =>
    rw [List.foldl_cons, ih _ fun y hy => other y (.tail _ hy), State.answerPages, (Only.draw _ n).card j]
    exact State.card_answer_ne s (.line n) (other x (.head _)).symm st r _

theorem LineEffect.foldl_answerPages (xs : List FaxOrder) (s : State) (n : LineId) (st : Status) (r : Nat) :
    LineEffect n s (xs.foldl (fun s x => s.answerPages n st r x) s) :=
  LineEffect.foldl (fun _ x h => h.answerPages st r x) .refl xs

/-- Each of several FAX PAGES orders on cards of their own is answered. -/
theorem State.answered_foldl_answerPages (xs : List FaxOrder) (s : State) (n : LineId) (st : Status) (r : Nat)
    (once : (xs.map FaxOrder.card).Nodup) {x : FaxOrder} (hx : x ∈ xs) (few : x.cutShort ≤ 255)
    (fits : x.card < (s.line n).table.cards.length) :
    State.Answered (.line n) x.card st r 0 (x.fields (s.line n).fax) s (xs.foldl (fun s x => s.answerPages n st r x) s) := by
  induction xs generalizing s with
  | nil => exact nomatch hx
  | cons y ys ih =>
    rw [List.map_cons, List.nodup_cons] at once
    obtain ⟨here, once⟩ := once
    have effect : LineEffect n s (s.answerPages n st r y) := LineEffect.refl.answerPages st r y
    rw [List.foldl_cons]
    rcases List.mem_cons.mp hx with rfl | later
    · have answered : State.Answered (.line n) x.card st r 0 (x.fields (s.line n).fax) s (s.answerPages n st r x) := by
        rw [← State.faxFields_eq s n few]
        exact (State.answered_of (u := s) fits st r 0 (s.faxFields n x) rfl).later (n := n) (LineEffect.refl.draw) (.inl rfl)
          ((Only.draw _ n).card x.card)
      refine answered.later (LineEffect.foldl_answerPages ys _ n st r) (.inl rfl) (State.card_foldl_answerPages ys _ n st r fun z hz e => ?_)
      exact here (e ▸ List.mem_map_of_mem hz)
    · have fax : ((s.answerPages n st r y).line n).fax = (s.line n).fax := (Only.answerPages s n st r y).of .fax
      have length : ((s.answerPages n st r y).line n).table.cards.length = (s.line n).table.cards.length := effect.cards (.line n)
      have rest := ih (s.answerPages n st r y) once later (by rw [length]; exact fits)
      rw [fax] at rest
      exact rest.before effect.tick

/-- The Page List gone back to the host, before its cards are answered. -/
def State.pagesGone (s : State) (n : LineId) : State :=
  ((s.line n).fax.pages.foldl (fun s p => s.giveBlocks (p.chain.map Prod.fst) .host) s).onFax n fun f =>
    { f with pages := [], orders := [], resendPending := false }

theorem State.returnPages_eq (s : State) (n : LineId) (o : CallOutcome) : s.returnPages n o =
    (s.line n).fax.orders.foldl (fun s x => s.answerPages n (endAnswer o).1 (endAnswer o).2 x) (s.pagesGone n) := rfl

theorem Only.foldl_giveBlocks (s : State) (n : LineId) (xs : List Page) :
    Only n [.store] s (xs.foldl (fun s p => s.giveBlocks (p.chain.map Prod.fst) .host) s) :=
  .foldl (fun s _ => Only.giveBlocks s n _ _) s xs

theorem Only.pagesGone (s : State) (n : LineId) : Only n [.store, .fax] s (s.pagesGone n) :=
  (Only.foldl_giveBlocks s n (s.line n).fax.pages).trans (Only.onFax _ n _)

theorem LineEffect.pagesGone (s : State) (n : LineId) : LineEffect n s (s.pagesGone n) :=
  (LineEffect.foldl (f := fun s p => s.giveBlocks (p.chain.map Prod.fst) .host) (fun _ _ h => h.giveBlocks _ (by decide)) .refl
    (s.line n).fax.pages).onFax _

theorem State.fax_pagesGone (s : State) (n : LineId) :
    ((s.pagesGone n).line n).fax = { (s.line n).fax with pages := [], orders := [], resendPending := false } := by
  have kept : (((s.line n).fax.pages.foldl (fun s p => s.giveBlocks (p.chain.map Prod.fst) .host) s).line n).fax = (s.line n).fax :=
    (Only.foldl_giveBlocks s n _).of .fax
  rw [State.pagesGone, State.line_onFax_self, kept]

theorem State.store_foldl_giveBlocks (s : State) (xs : List Page) :
    (xs.foldl (fun s p => s.giveBlocks (p.chain.map Prod.fst) .host) s).store =
      xs.foldl (fun st p => st.assignAll (p.chain.map Prod.fst) .host) s.store := by
  induction xs generalizing s with
  | nil => rfl
  | cons x xs ih => exact ih _

theorem Only.foldl_answerPages (xs : List FaxOrder) (s : State) (n : LineId) (st : Status) (r : Nat) :
    Only n [.table, .ev, .draws] s (xs.foldl (fun s x => s.answerPages n st r x) s) :=
  .foldl (fun s x => Only.answerPages s n st r x) s xs

theorem State.store_returnPages (s : State) (n : LineId) (o : CallOutcome) : (s.returnPages n o).store = s.pagesHome n := by
  have answers : (s.returnPages n o).store = (s.pagesGone n).store := (Only.foldl_answerPages _ _ n _ _).of .store
  rw [answers]
  exact State.store_foldl_giveBlocks s _

theorem State.fax_returnPages (s : State) (n : LineId) (o : CallOutcome) :
    ((s.returnPages n o).line n).fax = { (s.line n).fax with pages := [], orders := [], resendPending := false } :=
  ((Only.foldl_answerPages _ _ n _ _).of .fax).trans (s.fax_pagesGone n)

/-- The return of the Page List leaves the cards of no order of it alone. -/
theorem State.card_returnPages_ne (other : ∀ x ∈ (s.line n).fax.orders, x.card ≠ j) (o : CallOutcome) :
    (s.returnPages n o).card (.line n) j = s.card (.line n) j := by
  rw [State.returnPages_eq, State.card_foldl_answerPages _ _ _ _ _ other]
  exact (Only.pagesGone s n).card j

theorem State.answered_returnPages (once : ((s.line n).fax.orders.map FaxOrder.card).Nodup) {x : FaxOrder}
    (hx : x ∈ (s.line n).fax.orders) (few : x.cutShort ≤ 255) (fits : x.card < (s.line n).table.cards.length) (o : CallOutcome) :
    State.Answered (.line n) x.card (endAnswer o).1 (endAnswer o).2 0 (x.fields (s.line n).fax) s (s.returnPages n o) := by
  have table : ((s.pagesGone n).line n).table = (s.line n).table := (Only.pagesGone s n).of .table
  have answered := State.answered_foldl_answerPages _ (s.pagesGone n) n (endAnswer o).1 (endAnswer o).2 once hx few
    (by rw [table]; exact fits)
  rw [s.fax_pagesGone n] at answered
  exact answered.before (LineEffect.pagesGone s n).tick

/-- The outcome is not a fault. -/
def CallOutcome.plain (o : CallOutcome) : Prop := endAnswer o = (.cut, o.code)

theorem State.returnPages_cut (plain : o.plain) (s : State) (n : LineId) : State.PagesCut n o [] s (s.returnPages n o) := by
  refine ⟨by rw [s.fax_returnPages n o]; exact ⟨rfl, rfl⟩, fun once x hx _ few fits => ?_⟩
  have answered := State.answered_returnPages once hx few fits o
  rw [plain] at answered
  exact answered

/-! ## What stands between -/

/-- A change that leaves what the Page List and a pending retry of line `n` are read from, before it. -/
structure SamePages (n : LineId) (s u : State) : Prop where
  tick : u.hdr.tick = s.hdr.tick
  fax : (u.line n).fax = (s.line n).fax
  length : (u.line n).table.cards.length = (s.line n).table.cards.length
  dialCard : (u.line n).ctl.dialCard = (s.line n).ctl.dialCard
  fields : (u.line n).dialFields = (s.line n).dialFields
  service : (u.line n).dialler.service = (s.line n).dialler.service
  store : u.store = s.store

theorem SamePages.trans (h : SamePages n s t) (k : SamePages n t u) : SamePages n s u :=
  ⟨k.tick.trans h.tick, k.fax.trans h.fax, k.length.trans h.length, k.dialCard.trans h.dialCard, k.fields.trans h.fields,
    k.service.trans h.service, k.store.trans h.store⟩

theorem SamePages.pagesHome (h : SamePages n s u) : u.pagesHome n = s.pagesHome n := by
  rw [State.pagesHome, State.pagesHome, h.fax, h.store]

theorem State.PagesCut.before {out : List Nat} (h : State.PagesCut n o out u t) (b : SamePages n s u) : State.PagesCut n o out s t := by
  refine ⟨h.pages, fun once x hx hout few fits => ?_⟩
  have answered := h.orders (by rw [b.fax]; exact once) x (by rw [b.fax]; exact hx) hout few (by rw [b.length]; exact fits)
  rw [b.fax] at answered
  exact answered.before b.tick

theorem State.RetryAbandoned.before {out : List Nat} (h : State.RetryAbandoned n o out u t) (b : SamePages n s u) :
    State.RetryAbandoned n o out s t := by
  refine ⟨h.pending, h.dialCard, fun i held hout other fits => ?_, fun service => (h.pages (b.service.trans service)).before b⟩
  have answered := h.dial i (b.dialCard.trans held) hout (by rw [b.fax]; exact other) (by rw [b.length]; exact fits)
  rw [b.fields] at answered
  exact answered.before b.tick

/-- A later change that leaves the Page List and every card but those of `out` alone. -/
structure LaterCards (n : LineId) (out : List Nat) (t u : State) : Prop extends LineEffect n t u where
  cards_ne : ∀ j, j ∉ out → u.card (.line n) j = t.card (.line n) j
  pages : (u.line n).fax.pages = (t.line n).fax.pages
  orders : (u.line n).fax.orders = (t.line n).fax.orders

theorem LaterCards.trans {out : List Nat} (h : LaterCards n out s t) (k : LaterCards n out t u) : LaterCards n out s u :=
  ⟨h.toLineEffect.trans k.toLineEffect, fun j hj => (k.cards_ne j hj).trans (h.cards_ne j hj), k.pages.trans h.pages,
    k.orders.trans h.orders⟩

theorem State.PagesCut.later {out : List Nat} (h : State.PagesCut n o [] s t) (l : LaterCards n out t u) :
    State.PagesCut n o out s u :=
  ⟨by rw [l.pages, l.orders]; exact h.pages, fun once x hx hout few fits =>
    (h.orders once x hx List.not_mem_nil few fits).later l.toLineEffect (.inl rfl) (l.cards_ne x.card hout)⟩

theorem State.RetryAbandoned.later {out : List Nat} (h : State.RetryAbandoned n o [] s t) (l : LaterCards n out t u)
    (pending : (u.line n).fm.retryPending = (t.line n).fm.retryPending)
    (dialCard : (u.line n).ctl.dialCard = (t.line n).ctl.dialCard) : State.RetryAbandoned n o out s u :=
  ⟨pending.trans h.pending, dialCard.trans h.dialCard, fun i held hout other fits =>
    (h.dial i held List.not_mem_nil other fits).later l.toLineEffect (.inl rfl) (l.cards_ne i hout),
    fun service => (h.pages service).later l⟩

/-! ## An abandoned retry -/

/-- A pending retry abandoned, before the kept pages go back. -/
def State.retryDropped (s : State) (n : LineId) (o : CallOutcome) : State :=
  (s.onFm n fun f => { f with retryPending := false }).answerDial n (endAnswer o).1 (endAnswer o).2

theorem State.abandonRetry_eq (pending : (s.line n).fm.retryPending = true) (o : CallOutcome) : s.abandonRetry n o =
    if (s.line n).dialler.service = .fax then (s.retryDropped n o).returnPages n o else s.retryDropped n o := by
  have dropped : Only n [.fm, .table, .ev, .ctl] s (s.retryDropped n o) := (Only.onFm s n _).trans (Only.answerDial _ n _ _)
  have dialler : ((s.retryDropped n o).line n).dialler = (s.line n).dialler := dropped.of .dialler
  rw [State.abandonRetry, if_pos pending, ← dialler]
  rfl

theorem State.abandonRetry_none (pending : (s.line n).fm.retryPending = false) (o : CallOutcome) : s.abandonRetry n o = s :=
  if_neg (by rw [pending]; decide)

theorem Only.retryDropped (s : State) (n : LineId) (o : CallOutcome) : Only n [.fm, .table, .ev, .ctl] s (s.retryDropped n o) :=
  (Only.onFm s n _).trans (Only.answerDial _ n _ _)

theorem LineEffect.retryDropped (s : State) (n : LineId) (o : CallOutcome) : LineEffect n s (s.retryDropped n o) :=
  (LineEffect.refl.onFm _).answerDial _ _

theorem State.fm_retryDropped (s : State) (n : LineId) (o : CallOutcome) :
    ((s.retryDropped n o).line n).fm = { (s.line n).fm with retryPending := false } := by
  have dial : ((s.retryDropped n o).line n).fm = ((s.onFm n fun f => { f with retryPending := false }).line n).fm :=
    (Only.answerDial _ n _ _).of .fm
  rw [dial, State.line_onFm_self]

theorem State.dialCard_retryDropped (s : State) (n : LineId) (o : CallOutcome) : ((s.retryDropped n o).line n).ctl.dialCard = none :=
  (State.line_answerDial _ n _ _).2.2.2.1

theorem State.fm_abandonRetry (s : State) (n : LineId) (o : CallOutcome) :
    ((s.abandonRetry n o).line n).fm = { (s.line n).fm with retryPending := false } := by
  cases pending : (s.line n).fm.retryPending with
  | false => rw [State.abandonRetry_none pending, ← pending]
  | true =>
    rw [State.abandonRetry_eq pending]
    split
    · exact ((Only.returnPages _ n o).of .fm).trans (s.fm_retryDropped n o)
    · exact s.fm_retryDropped n o

/-- The DIAL card that waited for the retry is answered, where no order of the Page List is on it too. -/
theorem State.answered_retryDropped (plain : o.plain) (held : (s.line n).ctl.dialCard = some i)
    (fits : i < (s.line n).table.cards.length) :
    State.Answered (.line n) i .cut o.code 0 (s.line n).dialFields s (s.retryDropped n o) := by
  have line : (s.onFm n fun f => { f with retryPending := false }).line n =
      { s.line n with fm := { (s.line n).fm with retryPending := false } } := State.line_onFm_self ..
  have answered := State.answered_answerDial (s := s.onFm n fun f => { f with retryPending := false }) (n := n) (i := i)
    (by rw [line]; exact held) (by rw [line]; exact fits) (endAnswer o).1 (endAnswer o).2
  rw [line, plain] at answered
  have seen := answered.before (s := s) rfl
  unfold State.retryDropped
  rw [plain]
  exact seen

/-- What the end of a pending retry leaves (R184). -/
theorem State.abandonRetry_spec (plain : o.plain) (pending : (s.line n).fm.retryPending = true) :
    State.RetryAbandoned n o [] s (s.abandonRetry n o) ∧ State.KeptPagesReturned n s (s.abandonRetry n o) := by
  have only := Only.retryDropped s n o
  have effect := LineEffect.retryDropped s n o
  have fax : ((s.retryDropped n o).line n).fax = (s.line n).fax := only.of .fax
  have length : ((s.retryDropped n o).line n).table.cards.length = (s.line n).table.cards.length := effect.cards (.line n)
  have store : (s.retryDropped n o).store = s.store := only.of .store
  have home : (s.retryDropped n o).pagesHome n = s.pagesHome n := by rw [State.pagesHome, State.pagesHome, fax, store]
  rw [State.abandonRetry_eq pending]
  by_cases service : (s.line n).dialler.service = .fax
  · rw [if_pos service]
    refine ⟨⟨?_, ?_, fun i held _ other fits => ?_, fun _ => ⟨?_, fun once x hx _ few fits => ?_⟩⟩, fun _ => ?_⟩
    · rw [show (((s.retryDropped n o).returnPages n o).line n).fm = ((s.retryDropped n o).line n).fm from (Only.returnPages _ n o).of .fm,
        s.fm_retryDropped]
    · rw [show (((s.retryDropped n o).returnPages n o).line n).ctl = ((s.retryDropped n o).line n).ctl from
        (Only.returnPages _ n o).of .ctl, s.dialCard_retryDropped]
    · refine (State.answered_retryDropped plain held fits).later (LineEffect.refl.returnPages o) (.inl rfl)
        (State.card_returnPages_ne (fun x hx => other x ?_) o)
      rwa [fax] at hx
    · exact (State.returnPages_cut plain (s.retryDropped n o) n).pages
    · have answered := (State.returnPages_cut plain (s.retryDropped n o) n).orders (by rw [fax]; exact once) x (by rw [fax]; exact hx)
        List.not_mem_nil few (by rw [length]; exact fits)
      rw [fax] at answered
      exact answered.before effect.tick
    · rw [State.store_returnPages, home]
  · rw [if_neg service]
    exact ⟨⟨by rw [s.fm_retryDropped], s.dialCard_retryDropped n o, fun i held _ _ fits => State.answered_retryDropped plain held fits,
      fun k => absurd k service⟩, fun k => absurd k service⟩

theorem plain_localCleared : CallOutcome.plain .localCleared := rfl
theorem plain_cutByRing : CallOutcome.plain .cutByRing := rfl
theorem plain_hostSilent : CallOutcome.plain .hostSilent := rfl

end Sys2Proof.Machine

/-! What the answers of the Page List and of a dropped retry outlast: the commit of the event, and changes of other pieces. -/

namespace Sys2Proof.Machine

set_option Elab.async false

variable {n : LineId} {s t u v : State} {o : CallOutcome} {out : List Nat}

theorem State.PagesCut.commit (h : State.PagesCut n o out s t) : State.PagesCut n o out s (v.commit t) :=
  ⟨by rw [State.line_commit]; exact h.pages, fun once x hx hout few fits => (h.orders once x hx hout few fits).commit⟩

theorem State.RetryAbandoned.commit (h : State.RetryAbandoned n o out s t) : State.RetryAbandoned n o out s (v.commit t) := by
  refine ⟨?_, ?_, fun i held hout other fits => (h.dial i held hout other fits).commit, fun service => (h.pages service).commit⟩
  · rw [State.line_commit]; exact h.pending
  · rw [State.line_commit]; exact h.dialCard

theorem LaterCards.of_only {F : List Piece} (l : LineEffect n t u) (h : Only n F t u) (table : .table ∉ F := by decide)
    (fax : .fax ∉ F := by decide) : LaterCards n out t u :=
  ⟨l, fun j _ => h.card j table, congrArg Fax.pages (h.of .fax fax), congrArg Fax.orders (h.of .fax fax)⟩

/-- The answer of a card of `out`. -/
theorem LaterCards.answer (t : State) (n : LineId) (i : Nat) (st : Status) (r : Nat) (fs : List Byte) :
    LaterCards n [i] t (t.answer (.line n) i st r fs) := by
  have only := Only.answer t n i st r fs
  refine ⟨LineEffect.refl.answer i st r fs, fun j hj => ?_, congrArg Fax.pages (only.of .fax), congrArg Fax.orders (only.of .fax)⟩
  exact State.card_answer_ne t (.line n) (by simpa using hj) st r fs

theorem SamePages.of_only {F : List Piece} (l : LineEffect n s u) (h : Only n F s u) (table : .table ∉ F := by decide)
    (ctl : .ctl ∉ F := by decide) (fax : .fax ∉ F := by decide) (dialler : .dialler ∉ F := by decide) (prog : .prog ∉ F := by decide)
    (store : .store ∉ F := by decide) : SamePages n s u := by
  have d : (u.line n).dialler = (s.line n).dialler := h.of .dialler dialler
  have p : (u.line n).prog = (s.line n).prog := h.of .prog prog
  have c : (u.line n).ctl = (s.line n).ctl := h.of .ctl ctl
  have tb : (u.line n).table = (s.line n).table := h.of .table table
  exact ⟨l.tick, h.of .fax fax, by rw [tb], by rw [c], by rw [Line.dialFields, Line.dialFields, d, p], by rw [d], h.of .store store⟩

/-- A change of line `n` alone that leaves what the Page List and a pending retry are read from. -/
theorem SamePages.onLine (s : State) (n : LineId) {f : Line → Line}
    (hf : ∀ l : Line, (f l).fax = l.fax ∧ (f l).table = l.table ∧ (f l).ctl.dialCard = l.ctl.dialCard ∧ (f l).dialler = l.dialler ∧
      (f l).prog = l.prog := by exact fun _ => ⟨rfl, rfl, rfl, rfl, rfl⟩) : SamePages n s (s.onLine n f) := by
  obtain ⟨fax, table, dialCard, dialler, prog⟩ := hf (s.line n)
  refine ⟨rfl, ?_, ?_, ?_, ?_, ?_, rfl⟩ <;> rw [State.line_onLine_self]
  · exact fax
  · rw [table]
  · exact dialCard
  · rw [Line.dialFields, Line.dialFields, dialler, prog]
  · rw [dialler]

/-- The taking of a card leaves what the Page List and a pending retry are read from. -/
theorem SamePages.taking (s : State) (n : LineId) (i : Nat) : SamePages n s (s.taking (.line n) i) := by
  have line := s.line_taking n i
  refine ⟨rfl, ?_, ?_, ?_, ?_, ?_, rfl⟩
  · rw [line]
  · exact State.length_taking s (.line n) i
  · rw [line]
  · rw [line]; rfl
  · rw [line]

theorem State.enterOff_cut (s : State) (n : LineId) :
    State.PagesCut n .localCleared [] s (s.enterOff n) ∧ (s.enterOff n).store = s.pagesHome n := by
  have entered : SamePages n s (s.enter n .off .stopped) := by
    rw [State.enter_eq_onLine]
    exact .onLine s n
  exact ⟨(State.returnPages_cut plain_localCleared (s.enter n .off .stopped) n).before entered,
    (State.store_returnPages (s.enter n .off .stopped) n .localCleared).trans entered.pagesHome⟩

theorem State.line_enterOff (s : State) (n : LineId) :
    ((s.enterOff n).line n).call = { (s.line n).call with state := .off } ∧
    ((s.enterOff n).line n).ctl = { (s.line n).ctl with stateTimer := .stopped } ∧ ((s.enterOff n).line n).fm = (s.line n).fm := by
  have only := Only.returnPages (s.enter n .off .stopped) n .localCleared
  have line : (s.enter n .off .stopped).line n =
      { s.line n with call := { (s.line n).call with state := .off }, ctl := { (s.line n).ctl with stateTimer := .stopped } } := by
    simp [State.enter]
  have fm : ((s.enter n .off .stopped).line n).fm = (s.line n).fm := by rw [line]
  exact ⟨(only.of .call).trans (congrArg Line.call line), (only.of .ctl).trans (congrArg Line.ctl line),
    (only.of .fm).trans fm⟩

end Sys2Proof.Machine

/-! O29: the end of CLEARING (01 R16; 07 R133). -/

namespace Sys2Proof.Machine

set_option Elab.async false

section
variable {n : LineId} {s : State} (state : (s.line n).call.state = .clearing)
include state

theorem guardTimeExpiry_waits (declined : (s.line n).ctl.declined = true) (gap : (s.line n).ctl.declinedGap.isRunning = true)
    (runs : (s.line n).ctl.stateTimer.isRunning = true) :
    exec (.guardTimeExpiry n) s = .next (s.eventOn n fun l => { l with ctl := { l.ctl with stateTimer := .stopped } }) := by
  have run : exec (.guardTimeExpiry n) s = done s (s.guardExpiry n) := rfl
  rw [State.guardExpiry, if_pos (Line.expires_of state runs)] at run
  exact exec_eq_eventOn (run.trans (congrArg (done s) (if_pos (by rw [State.line_onCtl_self]; exact ⟨declined, gap⟩)))) rfl

theorem declinedRingGapExpiry_waits (declined : (s.line n).ctl.declined = true) (gap : (s.line n).ctl.declinedGap.isRunning = true)
    (runs : (s.line n).ctl.stateTimer.isRunning = true) :
    exec (.declinedRingGapExpiry n) s = .next (s.eventOn n fun l => { l with ctl := { l.ctl with declinedGap := .stopped } }) := by
  have run : exec (.declinedRingGapExpiry n) s = done s (s.declinedGapExpiry n) := rfl
  rw [State.declinedGapExpiry, if_pos ⟨state, declined, gap⟩] at run
  refine exec_eq_eventOn (run.trans (congrArg (done s) (if_pos ?_))) rfl
  rw [State.line_onCtl_self]
  exact runs

/-- The later of the two times ends CLEARING, the timers being what they may. -/
theorem exec_endClearing {c : Instr}
    (h : c = .guardTimeExpiry n ∧ (s.line n).ctl.stateTimer.isRunning = true ∧
        ((s.line n).ctl.declined = false ∨ (s.line n).ctl.declinedGap.isRunning = false) ∨
      c = .declinedRingGapExpiry n ∧ (s.line n).ctl.declined = true ∧ (s.line n).ctl.declinedGap.isRunning = true ∧
        (s.line n).ctl.stateTimer.isRunning = false) :
    ∃ f : LineControl → LineControl,
      (∀ k, { f k with declined := false, declinedGap := .stopped, stateTimer := .stopped } =
        { k with declined := false, declinedGap := .stopped, stateTimer := .stopped }) ∧
      exec c s = done s ((s.onCtl n f).endClearing n) := by
  rcases h with ⟨rfl, runs, no⟩ | ⟨rfl, declined, gap, stopped⟩
  · have run : exec (.guardTimeExpiry n) s = done s (s.guardExpiry n) := rfl
    rw [State.guardExpiry, if_pos (Line.expires_of state runs)] at run
    refine ⟨fun c => { c with stateTimer := .stopped }, fun _ => rfl, run.trans (congrArg (done s) (if_neg ?_))⟩
    rintro ⟨declined, gap⟩
    exact no.elim (fun h => by simp [h] at declined) fun h => by simp [h] at gap
  · have run : exec (.declinedRingGapExpiry n) s = done s (s.declinedGapExpiry n) := rfl
    rw [State.declinedGapExpiry, if_pos ⟨state, declined, gap⟩] at run
    refine ⟨fun c => { c with declinedGap := .stopped }, fun _ => rfl, run.trans (congrArg (done s) (if_neg ?_))⟩
    rw [State.line_onCtl_self, stopped]
    decide

end

section
variable {n : LineId} {s : State}

/-- Line `n` at the end of CLEARING, before it enters a state. -/
def State.clearedUp (s : State) (n : LineId) (f : LineControl → LineControl) : State := s.onLine n fun l =>
  { l with call := { l.call with disablePending := false }, ctl := { f l.ctl with declined := false, declinedGap := .stopped } }

theorem State.endClearing_onCtl (s : State) (n : LineId) (f : LineControl → LineControl) : (s.onCtl n f).endClearing n =
    if (s.line n).fm.latch.isSome then (s.clearedUp n f).enter n .fault .stopped
    else if (s.line n).fm.retryPending then (s.clearedUp n f).enter n .holdoff (.running ((s.line n).profile.retryDelay * 1000))
    else if (s.line n).call.disablePending then (s.clearedUp n f).enterOff n
    else (s.clearedUp n f).enter n .idle .stopped := by
  have up : (((s.onCtl n f).onCtl n fun c => { c with declined := false, declinedGap := .stopped }).onCall n fun c =>
      { c with disablePending := false }) = s.clearedUp n f := by
    simp only [State.onCtl, State.onCall, State.onLine_onLine, State.clearedUp]
  rw [State.endClearing, State.line_onCtl_self]
  exact congrArg (fun u : State =>
    if (s.line n).fm.latch.isSome then u.enter n .fault .stopped
    else if (s.line n).fm.retryPending then u.enter n .holdoff (.running ((s.line n).profile.retryDelay * 1000))
    else if (s.line n).call.disablePending then u.enterOff n
    else u.enter n .idle .stopped) up

variable {c : Instr} {f : LineControl → LineControl} (run : exec c s = done s ((s.onCtl n f).endClearing n))
  (timers : ∀ k, { f k with declined := false, declinedGap := .stopped, stateTimer := .stopped } =
    { k with declined := false, declinedGap := .stopped, stateTimer := .stopped })
include run timers

theorem exec_ends {st : LineState} {x : Timer} (enters : (s.onCtl n f).endClearing n = (s.clearedUp n f).enter n st x) :
    exec c s = .next (s.eventOn n fun l =>
      { l with
        call := { l.call with state := st, disablePending := false }
        ctl := { l.ctl with declined := false, declinedGap := .stopped, stateTimer := x } }) := by
  rw [enters, State.enter_eq_onLine, State.clearedUp, State.onLine_onLine] at run
  refine exec_eq_eventOn run ?_
  have ctl : { f (s.line n).ctl with declined := false, declinedGap := .stopped, stateTimer := x } =
      { (s.line n).ctl with declined := false, declinedGap := .stopped, stateTimer := x } :=
    congrArg (fun k : LineControl => { k with stateTimer := x }) (timers (s.line n).ctl)
  exact congrArg (fun k => { s.line n with call := { (s.line n).call with state := st, disablePending := false }, ctl := k }) ctl

/-- CLEARING ends in OFF: the Page List goes back to the host (R133). -/
theorem endClearing_off (latch : (s.line n).fm.latch = none) (retry : (s.line n).fm.retryPending = false)
    (disable : (s.line n).call.disablePending = true) :
    ∃ t, exec c s = .next t ∧ (t.line n).call.state = .off ∧ (t.line n).call.disablePending = false ∧
      (t.line n).ctl.declined = false ∧ State.PagesCut n .localCleared [] s t ∧ t.store = s.pagesHome n ∧
      State.Aside n s t ∧ State.Steady s t := by
  have off : (s.onCtl n f).endClearing n = (s.clearedUp n f).enterOff n := by
    rw [State.endClearing_onCtl, latch, retry, disable]
    rfl
  have dialCard : ∀ k, (f k).dialCard = k.dialCard := fun k => by
    have same := congrArg LineControl.dialCard (timers k)
    exact same
  have same : SamePages n s (s.clearedUp n f) := .onLine s n (hf := fun l => ⟨rfl, rfl, dialCard l.ctl, rfl, rfl⟩)
  have effect : LineEffect n s ((s.clearedUp n f).enterOff n) :=
    LineEffect.enterOff (LineEffect.onLine .refl (hf := fun _ k => ⟨k.acc, k.lastQ, k.rings, k.digits⟩))
  have whole := effect.commit
  obtain ⟨cut, home⟩ := (s.clearedUp n f).enterOff_cut n
  obtain ⟨call, ctl, -⟩ := (s.clearedUp n f).line_enterOff n
  have line : (s.clearedUp n f).line n =
      { s.line n with
        call := { (s.line n).call with disablePending := false }
        ctl := { f (s.line n).ctl with declined := false, declinedGap := .stopped } } := State.line_onLine_self ..
  rw [off] at run
  refine ⟨_, run, ?_, ?_, ?_, (cut.before same).commit, home.trans same.pagesHome, whole.aside, whole.steady⟩
  all_goals rw [State.line_commit]
  · exact congrArg CallRecord.state call
  · exact (congrArg CallRecord.disablePending call).trans (by rw [line])
  · exact (congrArg LineControl.declined ctl).trans (by rw [line])

end

/-- Settles O29: by the latch, the pending retry and the pending disable, at the later of the two times. -/
theorem endOfClearing : Obligations.EndOfClearing := by
  refine ⟨fun n s state declined gap runs => ⟨guardTimeExpiry_waits state declined gap runs,
    declinedRingGapExpiry_waits state declined gap runs⟩, fun n s c state h => ?_⟩
  obtain ⟨f, timers, run⟩ := exec_endClearing state h
  have eq := s.endClearing_onCtl n f
  refine ⟨fun latch => exec_ends run timers ?_, fun latch retry => exec_ends run timers ?_, fun latch retry disable =>
    endClearing_off run timers latch retry disable, fun latch retry disable => exec_ends run timers ?_⟩
  · rw [eq, if_pos (Option.isSome_iff_ne_none.mpr latch)]
  · rw [eq, latch, retry]; rfl
  · rw [eq, latch, retry, disable]; rfl

end Sys2Proof.Machine

/-! O26: HANGUP and CLEAR LINE (01 R20, R21; 11 R184). -/

namespace Sys2Proof.Machine

set_option Elab.async false

variable {n : LineId} {s u : State} {o : CallOutcome}

/-! ## The state in which an order is carried out -/

/-- A state that differs from another in its cards at most: the one in which an order of line `n`, or of the engine, is carried out. -/
structure Carries (n : LineId) (s u : State) : Prop extends LineEffect n s u where
  line : ∃ tb, u.line n = { s.line n with table := tb }
  same : SamePages n s u

theorem Carries.taking (s : State) (n : LineId) (i : Nat) : Carries n s (s.taking (.line n) i) :=
  ⟨LineEffect.refl.taking i, ⟨_, s.line_taking n i⟩, .taking s n i⟩

theorem Carries.takingEngine (s : State) (n : LineId) (i : Nat) : Carries n s (s.taking .engine i) :=
  ⟨LineEffect.refl.takingEngine i, ⟨(s.line n).table, rfl⟩, ⟨rfl, rfl, rfl, rfl, rfl, rfl, rfl⟩⟩

theorem Carries.call (h : Carries n s u) : (u.line n).call = (s.line n).call := by obtain ⟨tb, e⟩ := h.line; rw [e]
theorem Carries.fm (h : Carries n s u) : (u.line n).fm = (s.line n).fm := by obtain ⟨tb, e⟩ := h.line; rw [e]
theorem Carries.profile (h : Carries n s u) : (u.line n).profile = (s.line n).profile := by obtain ⟨tb, e⟩ := h.line; rw [e]
theorem Carries.dialler (h : Carries n s u) : (u.line n).dialler = (s.line n).dialler := by obtain ⟨tb, e⟩ := h.line; rw [e]
theorem Carries.ctl (h : Carries n s u) : (u.line n).ctl = (s.line n).ctl := by obtain ⟨tb, e⟩ := h.line; rw [e]

/-! ## A call cleared by an order -/

/-- The call-end sequence changes of the Line Controller the two card numbers alone. -/
theorem State.ctl_callEnd (s : State) (n : LineId) (o : CallOutcome) :
    ∃ a b, ((s.callEnd n o).line n).ctl = { (s.line n).ctl with dialCard := a, answerCard := b } := by
  obtain ⟨⟨tb, ev, a, b, e⟩, -⟩ := ((s.tornDown n o).stopUnits n).answerCallCards_spec n o
  have after : Only n [.call, .ev] (((s.tornDown n o).stopUnits n).answerCallCards n o) (s.callEnd n o) :=
    (Only.onCall _ n _).trans (Only.raise _ n _)
  have ctl : ((s.callEnd n o).line n).ctl = ((((s.tornDown n o).stopUnits n).answerCallCards n o).line n).ctl := after.of .ctl
  have torn : (((s.tornDown n o).stopUnits n).line n).ctl = ((s.tornDown n o).line n).ctl := (Only.stopUnits _ n).of .ctl
  have kept : ((s.tornDown n o).line n).ctl = (s.line n).ctl := (Only.tornDown s n o).of .ctl
  exact ⟨a, b, by rw [ctl, e, torn, kept]⟩

/-- A clear decision in ALERTING declines the call (R16). -/
theorem State.declined_clearDecision (alerting : (s.line n).call.state = .alerting) (o : CallOutcome) :
    ((s.clearDecision n o).line n).ctl.declined = true := by
  obtain ⟨a, b, e⟩ := (s.decided n o).ctl_callEnd n o
  rw [State.clearDecision_eq, e, State.decided, State.line_onCtl_self, alerting]
  simp

/-- The line is in a call that an order clears. -/
def Line.inCall (l : Line) : Prop := l.call.state = .alerting ∨ l.call.state = .queued ∨ l.call.state.offHook = true

/-- What an order that clears the call leaves before its answer. -/
theorem Carries.cleared (h : Carries n s u) (o : CallOutcome) :
    State.Cleared n o s (u.clearDecision n o) ∧ ((u.clearDecision n o).line n).fm = (s.line n).fm ∧
      LineEffect n s (u.clearDecision n o) ∧
      ((s.line n).call.state = .alerting → ((u.clearDecision n o).line n).ctl.declined = true) := by
  have cleared := State.clearDecision_after h.call h.profile h.fm h.toLineEffect o
  exact ⟨cleared.1, cleared.2, h.toLineEffect.clearDecision o, fun alerting =>
    State.declined_clearDecision (by rw [h.call, alerting]) o⟩

theorem State.Cleared.answerEngine {i : Nat} {st : Status} {r : Nat} {fs : List Byte} (h : State.Cleared n o s u) :
    State.Cleared n o s (u.answer .engine i st r fs) :=
  ⟨h.call, h.guardTime, h.claim, h.pumps, h.down, h.play, h.recording, h.profile, h.events, h.others⟩

theorem State.hangupEffect_call (call : (u.line n).inCall) : u.hangupEffect n = u.clearDecision n .localCleared := by
  unfold State.hangupEffect
  rcases call with state | state | hook
  · rw [state]
  · rw [state]
  · cases state : (u.line n).call.state <;> simp only [state, LineState.offHook] at hook ⊢ <;> exact absurd hook (by decide)

theorem State.hangupEffect_rest (rest : (u.line n).call.state = .clearing ∨ (u.line n).call.state = .idle ∨
    (u.line n).call.state = .off) : u.hangupEffect n = u := by
  unfold State.hangupEffect
  rcases rest with state | state | state <;> rw [state]

/-! ## HOLDOFF ended by an order -/

/-- What an order that ends HOLDOFF leaves before its answer. -/
theorem Carries.holdoff (h : Carries n s u) (state : (s.line n).call.state = .holdoff) :
    LineEffect n s (u.hangupEffect n) ∧ ((u.hangupEffect n).line n).call.state = .idle ∧
      ((u.hangupEffect n).line n).fm.retryPending = false ∧ ((u.hangupEffect n).line n).ctl.stateTimer = .stopped ∧
      ((s.line n).fm.retryPending = true →
        State.RetryAbandoned n .localCleared [] s (u.hangupEffect n) ∧ State.KeptPagesReturned n s (u.hangupEffect n)) := by
  have effect := h.toLineEffect.hangupEffect
  have eq : u.hangupEffect n = (u.abandonRetry n .localCleared).enter n .idle .stopped := by
    unfold State.hangupEffect
    rw [h.call, state]
  rw [eq] at effect ⊢
  have line : ((u.abandonRetry n .localCleared).enter n .idle .stopped).line n =
      ((u.abandonRetry n .localCleared).line n).entered .idle .stopped := by
    rw [State.enter_eq_onLine, State.line_onLine_self]
  refine ⟨effect, ?_, ?_, ?_, fun pending => ?_⟩
  · rw [line]; rfl
  · rw [line]
    exact congrArg FaultRecord.retryPending (u.fm_abandonRetry n .localCleared)
  · rw [line]; rfl
  · obtain ⟨abandoned, kept⟩ := State.abandonRetry_spec plain_localCleared (s := u) (n := n) (by rw [h.fm]; exact pending)
    have later : LaterCards n [] (u.abandonRetry n .localCleared) ((u.abandonRetry n .localCleared).enter n .idle .stopped) :=
      .of_only (LineEffect.refl.enter _ _) (Only.enter _ n _ _)
    refine ⟨(abandoned.before h.same).later later (by rw [line]; rfl) (by rw [line]; rfl), fun service => ?_⟩
    exact (kept (by rw [h.dialler]; exact service)).trans h.same.pagesHome

/-! ## HANGUP -/

section
variable {i : Fin 8} (taken : s.takesCard (.line n) i.val (· == 5) = true)
include taken

theorem exec_hangup_taken : exec (.hangup n i) s = done s ((s.taking (.line n) i.val).hangupOrder n i.val) := by
  have dispatch : exec (.hangup n i) s = execHangup n i s := rfl
  rw [dispatch, execHangup, takeOrder_taken taken]

theorem exec_hangup_effect (other : (s.line n).call.state ≠ .fault) : exec (.hangup n i) s =
    done s (((s.taking (.line n) i.val).hangupEffect n).answer (.line n) i.val .done 0 []) := by
  rw [exec_hangup_taken taken, State.hangupOrder, if_neg (by rw [State.call_line_taking]; exact other)]

theorem hangup_call (call : (s.line n).inCall) :
    ∃ t, exec (.hangup n i) s = .next t ∧ State.Cleared n .localCleared s t ∧ (t.line n).fm = (s.line n).fm ∧
      State.Answered (.line n) i.val .done 0 0 [] s t ∧ State.Steady s t ∧
      ((s.line n).call.state = .alerting → (t.line n).ctl.declined = true) := by
  have carries := Carries.taking s n i.val
  obtain ⟨cleared, fm, effect, declined⟩ := carries.cleared .localCleared
  have other : (s.line n).call.state ≠ .fault := by
    intro e
    rcases call with k | k | k <;> rw [e] at k <;> exact absurd k (by decide)
  have run := exec_hangup_effect taken other
  rw [State.hangupEffect_call (by rw [Line.inCall, carries.call]; exact call)] at run
  generalize (s.taking (.line n) i.val).clearDecision n .localCleared = u at *
  refine ⟨_, run, cleared.answer.commit, ?_, State.answered_taken taken effect .done 0 [], (effect.answer _ _ _ _).commit.steady,
    fun alerting => ?_⟩
  · rw [State.line_commit]
    exact ((Only.answer _ n _ _ _ _).of .fm).trans fm
  · rw [State.line_commit]
    exact (congrArg LineControl.declined ((Only.answer _ n _ _ _ _).of .ctl)).trans (declined alerting)

theorem hangup_rest (rest : (s.line n).call.state = .clearing ∨ (s.line n).call.state = .idle ∨ (s.line n).call.state = .off) :
    ∃ t, exec (.hangup n i) s = .next t ∧ State.ShortOrder n i.val .done 0 0 [] (s.line n) s t := by
  have other : (s.line n).call.state ≠ .fault := by rcases rest with k | k | k <;> rw [k] <;> decide
  have run := exec_hangup_effect taken other
  rw [State.hangupEffect_rest (by rw [State.call_line_taking]; exact rest)] at run
  exact ⟨_, run, State.shortOrder_same taken .done 0 0 []⟩

theorem hangup_holdoff (state : (s.line n).call.state = .holdoff) :
    ∃ t, exec (.hangup n i) s = .next t ∧ State.Answered (.line n) i.val .done 0 0 [] s t ∧
      (t.line n).call.state = .idle ∧ (t.line n).fm.retryPending = false ∧ (t.line n).ctl.stateTimer = .stopped ∧
      ((s.line n).fm.retryPending = true →
        State.RetryAbandoned n .localCleared [i.val] s t ∧ State.KeptPagesReturned n s t) ∧
      State.Aside n s t ∧ State.Steady s t := by
  obtain ⟨effect, idle, pending, timer, retry⟩ := (Carries.taking s n i.val).holdoff state
  have run := exec_hangup_effect taken (by rw [state]; decide)
  generalize (s.taking (.line n) i.val).hangupEffect n = u at *
  have only := Only.answer u n i.val .done 0 []
  have later : LaterCards n [i.val] u (u.answer (.line n) i.val .done 0 []) := .answer u n i.val .done 0 []
  have call : ((u.answer (.line n) i.val .done 0 []).line n).call = (u.line n).call := only.of .call
  have ctl : ((u.answer (.line n) i.val .done 0 []).line n).ctl = (u.line n).ctl := only.of .ctl
  have fm : ((u.answer (.line n) i.val .done 0 []).line n).fm = (u.line n).fm := only.of .fm
  have store : (u.answer (.line n) i.val .done 0 []).store = u.store := only.of .store
  have whole := (effect.trans later.toLineEffect).commit
  refine ⟨_, run, State.answered_taken taken effect .done 0 [], ?_, ?_, ?_, fun was => ?_, whole.aside, whole.steady⟩
  · rw [State.line_commit]; exact (congrArg CallRecord.state call).trans idle
  · rw [State.line_commit]; exact (congrArg FaultRecord.retryPending fm).trans pending
  · rw [State.line_commit]; exact (congrArg LineControl.stateTimer ctl).trans timer
  · obtain ⟨abandoned, kept⟩ := retry was
    exact ⟨(abandoned.later later (by rw [fm]) (by rw [ctl])).commit, fun service => store.trans (kept service)⟩

theorem hangup_fault (state : (s.line n).call.state = .fault) :
    ∃ t, exec (.hangup n i) s = .next t ∧ State.ShortOrder n i.val .refusedState 13 0 [] (s.line n) s t := by
  have refused := State.shortOrder_refuseState taken
  rw [state] at refused
  have run := exec_hangup_taken taken
  rw [State.hangupOrder, if_pos (by rw [State.call_line_taking]; exact state)] at run
  exact ⟨_, run, refused⟩

end

/-! ## CLEAR LINE -/

section
variable {i : Fin 4} (taken : s.takesCard .engine i.val (· == 39) = true)
include taken

theorem exec_clearLine_taken : exec (.clearLine i) s =
    done s ((s.taking .engine i.val).clearLineOrder i.val (s.card .engine i.val)) := by
  have dispatch : exec (.clearLine i) s = execClearLine i s := rfl
  rw [dispatch, execClearLine, takeOrder_taken taken]

theorem clearLine_badField (number : 4 ≤ (s.card .engine i.val).byte 6) :
    ∃ t, exec (.clearLine i) s = .next t ∧ State.ShortEngineOrder i.val .badField 6 0 [] s s t := by
  have run := exec_clearLine_taken taken
  rw [State.clearLineOrder, dif_neg (by omega)] at run
  obtain ⟨answer, code, cards, lastTaken, event, rest⟩ :=
    State.shortEngineOrder (u := s.taking .engine i.val) taken .badField 6 0 [] rfl rfl rfl
  exact ⟨_, run, answer, code, cards, lastTaken, event, rest⟩

/-- An answer of the engine card in the event that takes it, whatever the order did before to a line. -/
theorem State.answered_takenEngine {v : State} (l : LineEffect n s v) :
    State.Answered .engine i.val .done 0 0 [] s (s.commit (v.answer .engine i.val .done 0 [])) :=
  State.Answered.commit (State.answered_of (by rw [l.cards]; exact State.takesCard_lt taken) .done 0 0 [] l.tick)

variable (number : (s.card .engine i.val).byte 6 = n.val)
include number

theorem exec_clearLine_effect : exec (.clearLine i) s =
    done s (((s.taking .engine i.val).clearLineEffect n).answer .engine i.val .done 0 []) := by
  have run := exec_clearLine_taken taken
  have less : (s.card .engine i.val).byte 6 < 4 := number ▸ n.isLt
  rw [State.clearLineOrder, dif_pos less] at run
  have same : (⟨(s.card .engine i.val).byte 6, less⟩ : LineId) = n := Fin.ext number
  rwa [same] at run

theorem exec_clearLine_hangs (other : (s.line n).call.state ≠ .fault) : exec (.clearLine i) s =
    done s (((s.taking .engine i.val).hangupEffect n).answer .engine i.val .done 0 []) := by
  have run := exec_clearLine_effect taken number
  rwa [State.clearLineEffect, if_neg (by exact other)] at run

theorem clearLine_call (call : (s.line n).inCall) :
    ∃ t, exec (.clearLine i) s = .next t ∧ State.Cleared n .localCleared s t ∧ (t.line n).fm = (s.line n).fm ∧
      State.Answered .engine i.val .done 0 0 [] s t ∧ State.Steady s t ∧
      ((s.line n).call.state = .alerting → (t.line n).ctl.declined = true) := by
  have carries := Carries.takingEngine s n i.val
  obtain ⟨cleared, fm, effect, declined⟩ := carries.cleared .localCleared
  have other : (s.line n).call.state ≠ .fault := by
    intro e
    rcases call with k | k | k <;> rw [e] at k <;> exact absurd k (by decide)
  have run := exec_clearLine_hangs taken number other
  rw [State.hangupEffect_call (u := s.taking .engine i.val) call] at run
  generalize (s.taking .engine i.val).clearDecision n .localCleared = u at *
  refine ⟨_, run, cleared.answerEngine.commit, ?_, State.answered_takenEngine taken effect,
    (effect.answerEngine _ _ _ _).commit.steady, fun alerting => ?_⟩
  · rw [State.line_commit]; exact fm
  · rw [State.line_commit]; exact declined alerting

theorem clearLine_rest (rest : (s.line n).call.state = .clearing ∨ (s.line n).call.state = .idle ∨ (s.line n).call.state = .off) :
    ∃ t, exec (.clearLine i) s = .next t ∧ State.ShortEngineOrder i.val .done 0 0 [] s s t := by
  have other : (s.line n).call.state ≠ .fault := by rcases rest with k | k | k <;> rw [k] <;> decide
  have run := exec_clearLine_hangs taken number other
  rw [State.hangupEffect_rest (u := s.taking .engine i.val) rest] at run
  obtain ⟨answer, code, cards, lastTaken, event, rest⟩ :=
    State.shortEngineOrder (u := s.taking .engine i.val) taken .done 0 0 [] rfl rfl rfl
  exact ⟨_, run, answer, code, cards, lastTaken, event, rest⟩

theorem clearLine_holdoff (state : (s.line n).call.state = .holdoff) :
    ∃ t, exec (.clearLine i) s = .next t ∧ State.Answered .engine i.val .done 0 0 [] s t ∧ (t.line n).call.state = .idle ∧
      (t.line n).fm.retryPending = false ∧ (t.line n).ctl.stateTimer = .stopped ∧
      ((s.line n).fm.retryPending = true →
        State.RetryAbandoned n .localCleared [] s t ∧ State.KeptPagesReturned n s t) ∧
      State.Aside n s t ∧ State.Steady s t := by
  obtain ⟨effect, idle, pending, timer, retry⟩ := (Carries.takingEngine s n i.val).holdoff state
  have run := exec_clearLine_hangs taken number (by rw [state]; decide)
  generalize (s.taking .engine i.val).hangupEffect n = u at *
  have later : LaterCards n [] u (u.answer .engine i.val .done 0 []) :=
    .of_only (LineEffect.refl.answerEngine _ _ _ _) (Only.answerEngine u n _ _ _ _)
  have whole := (effect.trans later.toLineEffect).commit
  refine ⟨_, run, State.answered_takenEngine taken effect, ?_, ?_, ?_, fun was => ?_, whole.aside, whole.steady⟩
  · rw [State.line_commit]; exact idle
  · rw [State.line_commit]; exact pending
  · rw [State.line_commit]; exact timer
  · obtain ⟨abandoned, kept⟩ := retry was
    exact ⟨(abandoned.later later rfl rfl).commit, kept⟩

theorem clearLine_fault (state : (s.line n).call.state = .fault) :
    ∃ t, exec (.clearLine i) s = .next t ∧ State.ShortEngineOrder i.val .done 0 0 []
      (s.onLine n fun l =>
        { l with
          call := { l.call with state := .idle }, ctl := { l.ctl with stateTimer := .stopped }
          fm := { l.fm with latch := none } }) s t := by
  have run := exec_clearLine_effect taken number
  rw [State.clearLineEffect, if_pos (by exact state), State.enter_onFm_eq_onLine] at run
  obtain ⟨answer, code, cards, lastTaken, event, rest⟩ :=
    State.shortEngineOrder (u := (s.taking .engine i.val).onLine n fun l =>
      { l with fm := { l.fm with latch := none } }.entered .idle .stopped) taken .done 0 0 [] rfl rfl rfl
  exact ⟨_, run, answer, code, cards, lastTaken, event, rest⟩

end

/-- Settles O26: each order by the state of its line. -/
theorem hangupAndClearLine : Obligations.HangupAndClearLine :=
  ⟨fun _ _ _ taken => ⟨hangup_call taken, hangup_rest taken, hangup_holdoff taken, hangup_fault taken⟩,
    fun _ _ taken => ⟨clearLine_badField taken, fun _ number => ⟨clearLine_call taken number, clearLine_rest taken number,
      clearLine_holdoff taken number, clearLine_fault taken number⟩⟩⟩

end Sys2Proof.Machine

/-! O25: DISABLE (01 R19; 07 R133; 11 R184). -/

namespace Sys2Proof.Machine

set_option Elab.async false

variable {n : LineId} {s t u x : State}

/-! ## A dropped retry before the entry to OFF -/

/-- The cut of the Page List seen from before a change that leaves the Page List alone. -/
theorem State.PagesCut.before_of {o : CallOutcome} {out : List Nat} (h : State.PagesCut n o out u t) (tick : u.hdr.tick = s.hdr.tick)
    (fax : (u.line n).fax = (s.line n).fax) (length : (u.line n).table.cards.length = (s.line n).table.cards.length) :
    State.PagesCut n o out s t := by
  refine ⟨h.pages, fun once x hx hout few fits => ?_⟩
  have answered := h.orders (by rw [fax]; exact once) x (by rw [fax]; exact hx) hout few (by rw [length]; exact fits)
  rw [fax] at answered
  exact answered.before tick

theorem State.fax_enter (s : State) (n : LineId) (st : LineState) (y : Timer) : ((s.enter n st y).line n).fax = (s.line n).fax :=
  (Only.enter s n st y).of .fax

/-- The entry to OFF leaves the cards that are of no order of the Page List alone. -/
theorem State.card_enterOff_ne {j : Nat} (other : ∀ y ∈ (s.line n).fax.orders, y.card ≠ j) :
    (s.enterOff n).card (.line n) j = s.card (.line n) j := by
  rw [State.enterOff, State.card_returnPages_ne (by rw [State.fax_enter]; exact other)]
  exact (Only.enter s n _ _).card j

/-- The Page List of an abandoned retry: gone where the call was a fax call, and else as it was. -/
theorem State.fax_abandonRetry (pending : (s.line n).fm.retryPending = true) (o : CallOutcome) :
    ((s.abandonRetry n o).line n).fax =
      if (s.line n).dialler.service = .fax then { (s.line n).fax with pages := [], orders := [], resendPending := false }
      else (s.line n).fax := by
  have dropped : ((s.retryDropped n o).line n).fax = (s.line n).fax := (Only.retryDropped s n o).of .fax
  rw [State.abandonRetry_eq pending]
  split
  · rw [State.fax_returnPages, dropped]
  · exact dropped

/-- An abandoned retry, and the entry to OFF after it. -/
theorem State.RetryAbandoned.enterOff (pending : (s.line n).fm.retryPending = true) :
    State.RetryAbandoned n .localCleared [] s ((s.abandonRetry n .localCleared).enterOff n) ∧
      State.KeptPagesReturned n s ((s.abandonRetry n .localCleared).enterOff n) := by
  obtain ⟨abandoned, kept⟩ := State.abandonRetry_spec plain_localCleared pending
  have fax := State.fax_abandonRetry pending .localCleared
  generalize s.abandonRetry n .localCleared = x at *
  obtain ⟨-, ctl, fm⟩ := x.line_enterOff n
  have effect : LineEffect n x (x.enterOff n) := LineEffect.refl.enterOff
  refine ⟨⟨by rw [fm]; exact abandoned.pending, by rw [ctl]; exact abandoned.dialCard, fun i held hout other fits => ?_,
    fun service => ⟨?_, fun once y hy hout few fits => ?_⟩⟩, fun service => ?_⟩
  · refine (abandoned.dial i held hout other fits).later effect (.inl rfl) (State.card_enterOff_ne fun y hy => ?_)
    rw [fax] at hy
    split at hy
    · exact nomatch hy
    · exact other y hy
  · exact (State.enterOff_cut x n).1.pages
  · rw [if_pos service] at fax
    refine ((abandoned.pages service).orders once y hy hout few fits).later effect (.inl rfl) (State.card_enterOff_ne fun z hz => ?_)
    rw [fax] at hz
    exact nomatch hz
  · rw [if_pos service] at fax
    rw [(State.enterOff_cut x n).2, State.pagesHome, fax]
    exact kept service

/-- The Page List after a retry abandoned, if one was pending, and the entry to OFF. -/
theorem State.enterOff_abandonRetry (s : State) (n : LineId) :
    State.PagesCut n .localCleared [] s ((s.abandonRetry n .localCleared).enterOff n) ∧
      ((s.abandonRetry n .localCleared).enterOff n).store = s.pagesHome n := by
  cases pending : (s.line n).fm.retryPending with
  | false =>
    rw [State.abandonRetry_none pending]
    exact s.enterOff_cut n
  | true =>
    by_cases service : (s.line n).dialler.service = .fax
    · obtain ⟨abandoned, kept⟩ := State.RetryAbandoned.enterOff pending
      exact ⟨abandoned.pages service, kept service⟩
    · have only := Only.retryDropped s n .localCleared
      have fax : ((s.retryDropped n .localCleared).line n).fax = (s.line n).fax := only.of .fax
      have store : (s.retryDropped n .localCleared).store = s.store := only.of .store
      have effect := LineEffect.retryDropped s n .localCleared
      rw [State.abandonRetry_eq pending, if_neg service]
      obtain ⟨cut, home⟩ := (s.retryDropped n .localCleared).enterOff_cut n
      exact ⟨cut.before_of effect.tick fax (effect.cards (.line n)), by rw [home, State.pagesHome, State.pagesHome, fax, store]⟩

/-! ## The order -/

/-- The line as a DISABLE leaves it before what its state asks for: no latch, no pending retry. -/
def State.unlatched (s : State) (n : LineId) : State := s.onFm n fun f => { f with latch := none }

theorem State.line_unlatched (s : State) (n : LineId) :
    (s.unlatched n).line n = { s.line n with fm := { (s.line n).fm with latch := none } } := State.line_onFm_self ..

theorem SamePages.unlatched (s : State) (n : LineId) : SamePages n s (s.unlatched n) :=
  SamePages.onLine s n (f := fun l => { l with fm := { l.fm with latch := none } })

/-- The line cleared of latch and retry. -/
def State.cancelled (s : State) (n : LineId) : State := (s.unlatched n).abandonRetry n .localCleared

theorem LineEffect.cancelled (s : State) (n : LineId) : LineEffect n s (s.cancelled n) := (LineEffect.refl.onFm _).abandonRetry _

theorem State.cancelled_keeps (s : State) (n : LineId) :
    ((s.cancelled n).line n).fm = { (s.line n).fm with latch := none, retryPending := false } ∧
    ((s.cancelled n).line n).call = (s.line n).call ∧ ((s.cancelled n).line n).profile = (s.line n).profile := by
  have only := Only.abandonRetry (s.unlatched n) n .localCleared
  have line := s.line_unlatched n
  have call : ((s.unlatched n).line n).call = (s.line n).call := by rw [line]
  have profile : ((s.unlatched n).line n).profile = (s.line n).profile := by rw [line]
  refine ⟨?_, (only.of .call).trans call, (only.of .profile).trans profile⟩
  rw [State.cancelled, State.fm_abandonRetry, line]

theorem Line.inCall.ne {l : Line} (h : l.inCall) {st : LineState}
    (quiet : st ≠ .alerting ∧ st ≠ .queued ∧ st.offHook = false) : l.call.state ≠ st := by
  intro e
  rcases h with k | k | k <;> rw [e] at k
  · exact quiet.1 k
  · exact quiet.2.1 k
  · rw [quiet.2.2] at k; exact nomatch k

/-- What a DISABLE does after it has cancelled latch and retry, by the line's state. -/
theorem State.disableEffect_off (h : (s.line n).call.state = .off) : s.disableEffect n = s.cancelled n := by
  have state : ((((s.onFm n fun f => { f with latch := none }).abandonRetry n .localCleared)).line n).call.state = .off := by
    rw [← h]; exact congrArg CallRecord.state (s.cancelled_keeps n).2.1
  simp only [State.disableEffect, state]
  rfl

theorem State.disableEffect_enterOff (h : (s.line n).call.state = .idle ∨ (s.line n).call.state = .holdoff ∨
    (s.line n).call.state = .fault) : s.disableEffect n = (s.cancelled n).enterOff n := by
  have state : ((((s.onFm n fun f => { f with latch := none }).abandonRetry n .localCleared)).line n).call.state =
      (s.line n).call.state := congrArg CallRecord.state (s.cancelled_keeps n).2.1
  rcases h with h | h | h <;> rw [h] at state <;> simp only [State.disableEffect, state] <;> rfl

theorem State.disableEffect_clearing (h : (s.line n).call.state = .clearing) :
    s.disableEffect n = (s.cancelled n).onCall n fun c => { c with disablePending := true } := by
  have state : ((((s.onFm n fun f => { f with latch := none }).abandonRetry n .localCleared)).line n).call.state = .clearing := by
    rw [← h]; exact congrArg CallRecord.state (s.cancelled_keeps n).2.1
  simp only [State.disableEffect, state]
  rfl

theorem State.disableEffect_call (h : (s.line n).inCall) : s.disableEffect n =
    ((s.cancelled n).clearDecision n .localCleared).onCall n fun c => { c with disablePending := true } := by
  have same : ((((s.onFm n fun f => { f with latch := none }).abandonRetry n .localCleared)).line n).call.state =
      (s.line n).call.state := congrArg CallRecord.state (s.cancelled_keeps n).2.1
  unfold State.disableEffect
  dsimp only
  split
  case h_1 k => exact absurd (same.symm.trans k) (h.ne (by decide))
  case h_2 k => exact absurd (same.symm.trans k) (h.ne (by decide))
  case h_3 k => exact absurd (same.symm.trans k) (h.ne (by decide))
  case h_4 k => exact absurd (same.symm.trans k) (h.ne (by decide))
  case h_5 k => exact absurd (same.symm.trans k) (h.ne (by decide))
  case h_6 => rfl

/-! ## The obligation, by what the answer leaves of the effect -/

section
variable {i : Fin 8} (taken : s.takesCard (.line n) i.val (· == 2) = true)
include taken

theorem exec_disable_taken : exec (.disable n i) s =
    done s (((s.taking (.line n) i.val).disableEffect n).answer (.line n) i.val .done 0 []) := by
  have dispatch : exec (.disable n i) s = execDisable n i s := rfl
  rw [dispatch, execDisable, takeOrder_taken taken]
  rfl

end

/-- What DISABLE does to latch and retry, whatever the line's state. -/
theorem State.fm_disableEffect (s : State) (n : LineId) :
    ((s.disableEffect n).line n).fm = { (s.line n).fm with latch := none, retryPending := false } := by
  have fm := (s.cancelled_keeps n).1
  by_cases call : (s.line n).inCall
  · have kept := ((s.cancelled n).clearDecision_both n .localCleared).2
    rw [State.disableEffect_call call]
    generalize (s.cancelled n).clearDecision n .localCleared = v at *
    rw [State.line_onCall_self]
    exact kept.trans fm
  · by_cases off : (s.line n).call.state = .off
    · rw [State.disableEffect_off off, fm]
    · by_cases clearing : (s.line n).call.state = .clearing
      · rw [State.disableEffect_clearing clearing, State.line_onCall_self]
        exact fm
      · have rest : (s.line n).call.state = .idle ∨ (s.line n).call.state = .holdoff ∨ (s.line n).call.state = .fault := by
          unfold Line.inCall at call
          cases e : (s.line n).call.state <;> simp_all [LineState.offHook]
        rw [State.disableEffect_enterOff rest, ((s.cancelled n).line_enterOff n).2.2, fm]

/-- A retry pending in HOLDOFF or CLEARING is abandoned. -/
theorem State.retry_disableEffect (state : (s.line n).call.state = .holdoff ∨ (s.line n).call.state = .clearing)
    (pending : (s.line n).fm.retryPending = true) :
    State.RetryAbandoned n .localCleared [] s (s.disableEffect n) ∧ State.KeptPagesReturned n s (s.disableEffect n) := by
  have same := SamePages.unlatched s n
  have pending' : ((s.unlatched n).line n).fm.retryPending = true := by rw [s.line_unlatched n]; exact pending
  have service : (s.line n).dialler.service = .fax → ((s.unlatched n).line n).dialler.service = .fax := fun h => same.service.trans h
  rcases state with holdoff | clearing
  · rw [State.disableEffect_enterOff (.inr (.inl holdoff))]
    obtain ⟨abandoned, kept⟩ := State.RetryAbandoned.enterOff pending'
    exact ⟨abandoned.before same, fun h => (kept (service h)).trans same.pagesHome⟩
  · rw [State.disableEffect_clearing clearing]
    obtain ⟨abandoned, kept⟩ := State.abandonRetry_spec plain_localCleared pending'
    have later : LaterCards n [] (s.cancelled n) ((s.cancelled n).onCall n fun c => { c with disablePending := true }) :=
      .of_only (LineEffect.refl.onCall) (Only.onCall _ n _)
    refine ⟨(abandoned.before same).later later ?_ ?_, fun h => (kept (service h)).trans same.pagesHome⟩
    · rw [State.line_onCall_self]; rfl
    · rw [State.line_onCall_self]; rfl

/-- On the entry to OFF the whole Page List goes back. -/
theorem State.cut_disableEffect (state : (s.line n).call.state = .idle ∨ (s.line n).call.state = .holdoff ∨
    (s.line n).call.state = .fault) :
    State.PagesCut n .localCleared [] s (s.disableEffect n) ∧ (s.disableEffect n).store = s.pagesHome n := by
  have same := SamePages.unlatched s n
  obtain ⟨cut, home⟩ := (s.unlatched n).enterOff_abandonRetry n
  rw [State.disableEffect_enterOff state]
  exact ⟨cut.before same, home.trans same.pagesHome⟩

/-- The call record after DISABLE. -/
theorem State.call_disableEffect (s : State) (n : LineId) :
    ((s.line n).call.state = .off ∨ (s.line n).call.state = .idle ∨ (s.line n).call.state = .holdoff ∨
      (s.line n).call.state = .fault → ((s.disableEffect n).line n).call.state = .off) ∧
    ((s.line n).call.state = .clearing → ((s.disableEffect n).line n).call = { (s.line n).call with disablePending := true }) ∧
    ((s.line n).inCall → ((s.disableEffect n).line n).call.state = .clearing ∧
      ((s.disableEffect n).line n).call.lastOutcome = .localCleared ∧ ((s.disableEffect n).line n).call.disablePending = true ∧
      ((s.disableEffect n).line n).call.service = .none ∧ ((s.disableEffect n).line n).call.pump = none ∧
      ((s.line n).call.state = .alerting → ((s.disableEffect n).line n).ctl.declined = true)) := by
  obtain ⟨-, call, -⟩ := s.cancelled_keeps n
  refine ⟨fun state => ?_, fun clearing => ?_, fun inCall => ?_⟩
  · rcases state with off | rest
    · rw [State.disableEffect_off off, call, off]
    · rw [State.disableEffect_enterOff rest, ((s.cancelled n).line_enterOff n).1]
  · rw [State.disableEffect_clearing clearing, State.line_onCall_self, call]
  · have cleared := (s.cancelled n).clearDecision_spec n .localCleared
    have declined := fun alerting => State.declined_clearDecision (s := s.cancelled n) (n := n) alerting .localCleared
    rw [call] at declined
    rw [State.disableEffect_call inCall]
    generalize (s.cancelled n).clearDecision n .localCleared = v at *
    rw [State.line_onCall_self]
    dsimp only
    rw [cleared.call]
    exact ⟨rfl, rfl, rfl, rfl, rfl, declined⟩

/-- Settles O25: latch and retry first, then by the line's state; the answer outlasts all of it. -/
theorem disableOrder : Obligations.DisableOrder := by
  intro n i s taken
  have run := exec_disable_taken taken
  have carries := Carries.taking s n i.val
  have effect := carries.toLineEffect.disableEffect
  have fm := (s.taking (.line n) i.val).fm_disableEffect n
  have retry := State.retry_disableEffect (s := s.taking (.line n) i.val) (n := n)
  have cut := State.cut_disableEffect (s := s.taking (.line n) i.val) (n := n)
  have call := (s.taking (.line n) i.val).call_disableEffect n
  rw [Line.inCall, carries.call] at call
  rw [carries.call, carries.fm] at retry
  rw [carries.call] at cut
  have service : (s.line n).dialler.service = .fax → ((s.taking (.line n) i.val).line n).dialler.service = .fax := fun h => by
    rw [carries.dialler, h]
  generalize (s.taking (.line n) i.val).disableEffect n = u at *
  have only := Only.answer u n i.val .done 0 []
  have later : LaterCards n [i.val] u (u.answer (.line n) i.val .done 0 []) := .answer u n i.val .done 0 []
  have line : ∃ tb ev, (u.answer (.line n) i.val .done 0 []).line n = { u.line n with table := tb, ev := ev } :=
    ⟨_, _, State.line_answer_self u n i.val .done 0 []⟩
  have store : (u.answer (.line n) i.val .done 0 []).store = u.store := only.of .store
  have answered := State.answered_taken taken effect .done 0 []
  generalize u.answer (.line n) i.val .done 0 [] = v at *
  obtain ⟨tb, ev, line⟩ := line
  have whole := (effect.trans later.toLineEffect).commit
  refine ⟨_, run, answered, ?_, ?_, whole.aside, whole.steady, fun state pending => ?_, fun state => ?_, fun state => ?_, fun clearing => ?_,
    fun inCall => ?_⟩
  · rw [State.line_commit, line]; exact congrArg FaultRecord.latch fm
  · rw [State.line_commit, line]; exact congrArg FaultRecord.retryPending fm
  · obtain ⟨abandoned, kept⟩ := retry state pending
    refine ⟨((abandoned.before carries.same).later later (by rw [line]) (by rw [line])).commit, fun h => ?_⟩
    exact store.trans ((kept (service h)).trans carries.same.pagesHome)
  · rw [State.line_commit, line]; exact call.1 state
  · obtain ⟨gone, home⟩ := cut state
    exact ⟨((gone.before carries.same).later later).commit, store.trans (home.trans carries.same.pagesHome)⟩
  · have after := call.2.1 clearing
    rw [State.line_commit, line]
    change (u.line n).call.state = .clearing ∧ (u.line n).call.disablePending = true ∧
      (u.line n).call.lastOutcome = (s.line n).call.lastOutcome
    rw [after]
    exact ⟨clearing, rfl, rfl⟩
  · rw [State.line_commit, line]; exact call.2.2 inCall

end Sys2Proof.Machine

/-! Owner changes and the store below the owner map: the teardowns of a call write map entries alone, so the Line Profiles stand
(09 R156; 12.1). -/

namespace Sys2Proof.Machine

set_option Elab.async false

/-- Between two stores the bytes below the owner map stand, and the canonical form is kept. -/
def Store.LowKept (st st' : Store) : Prop :=
  Memory.wf st.mem = true → Memory.wf st'.mem = true ∧ ∀ a, a + 1 < 0x0D00 → Memory.word st'.mem a = Memory.word st.mem a

variable {st st' st'' : Store} {s t u : State} {n : LineId}

theorem Store.LowKept.refl : Store.LowKept st st := fun wf => ⟨wf, fun _ _ => rfl⟩

theorem Store.LowKept.trans (h : Store.LowKept st st') (k : Store.LowKept st' st'') : Store.LowKept st st'' := fun wf => by
  obtain ⟨wf', low⟩ := h wf
  obtain ⟨wf'', low'⟩ := k wf'
  exact ⟨wf'', fun a ha => (low' a ha).trans (low a ha)⟩

theorem Store.LowKept.setOwner (st : Store) (b : Nat) (o : Owner) : Store.LowKept st (st.setOwner b o) := fun wf =>
  ⟨Memory.wf_setWord wf _ _, fun a ha => Memory.word_setWord_of_far wf _ (by unfold mapAddr; omega)⟩

theorem Store.LowKept.assign (st : Store) (b : Nat) (o : Owner) : Store.LowKept st (st.assign b o) := by
  unfold Store.assign
  split
  · exact .refl
  · exact .setOwner st b o
  · exact .refl

theorem Store.LowKept.assignAll (st : Store) (bs : List Nat) (o : Owner) : Store.LowKept st (st.assignAll bs o) := by
  unfold Store.assignAll
  induction bs generalizing st with
  | nil => exact .refl
  | cons b bs ih => exact (Store.LowKept.assign st b o).trans (ih _)

theorem Store.LowKept.release (st : Store) (b : Nat) : Store.LowKept st (st.release b) := by
  unfold Store.release
  split
  · exact .refl
  · exact Store.LowKept.setOwner st b .free
  · exact .refl

/-- Between two states the store below the owner map stands. -/
def LowKept (s t : State) : Prop := Store.LowKept s.store t.store

theorem LowKept.refl : LowKept s s := Store.LowKept.refl
theorem LowKept.trans (h : LowKept s t) (k : LowKept t u) : LowKept s u := Store.LowKept.trans h k

theorem LowKept.of_store (h : t.store = s.store) : LowKept s t := by
  rw [LowKept, h]
  exact .refl

theorem LowKept.of_only {F : List Piece} (h : Only n F s t) (out : .store ∉ F := by decide) : LowKept s t := .of_store (h.of .store out)

theorem LowKept.foldl {α : Type} {f : State → α → State} (hf : ∀ s a, LowKept s (f s a)) (s : State) (xs : List α) :
    LowKept s (xs.foldl f s) := by
  induction xs generalizing s with
  | nil => exact .refl
  | cons x xs ih => exact (hf s x).trans (ih _)

theorem LowKept.giveBlocks (s : State) (bs : List Nat) (o : Owner) : LowKept s (s.giveBlocks bs o) := Store.LowKept.assignAll s.store bs o

theorem LowKept.freeBlock (s : State) (b : Nat) : LowKept s (s.freeBlock b) :=
  LowKept.trans (t := s.onStore fun st => st.release b) (Store.LowKept.release s.store b)
    (.of_only (Only.criticalExits (s.onStore fun st => st.release b) 0))

theorem LowKept.freeBlocks (s : State) (bs : List Nat) : LowKept s (s.freeBlocks bs) := .foldl LowKept.freeBlock s bs

theorem LowKept.emptySlot (s : State) (g : SlotId) : LowKept s (s.emptySlot g) :=
  LowKept.trans (.of_only (Only.onSlot s 0 g _)) (.freeBlocks _ _)

theorem LowKept.slotPlayEnds (s : State) (g : SlotId) : LowKept s (s.slotPlayEnds g) := by
  unfold State.slotPlayEnds
  dsimp only
  split
  · split
    · exact (LowKept.emptySlot s g).trans (.of_only (Only.answerEngine _ 0 _ _ _ _))
    · exact LowKept.emptySlot s g
  · exact .of_only (Only.onSlot s 0 g _)

theorem LowKept.finishPlay (s : State) (n : LineId) (e : PlayEnd) (st : Status) (r : Nat) : LowKept s (s.finishPlay n e st r) := by
  have stopped : LowKept s (s.onVoice n fun v => { v with play := .none, playCard := none, playChain := [], playTotal := 0 }) :=
    .of_only (Only.onVoice s n _)
  unfold State.finishPlay
  dsimp only
  generalize State.onVoice s n _ = x at stopped ⊢
  cases (s.line n).voice.play with
  | none =>
    split
    · exact stopped
    · exact stopped.trans (.of_only (Only.answer _ n _ _ _ _))
  | slot g =>
    split
    · exact stopped.trans (.slotPlayEnds x g)
    · exact (stopped.trans (.slotPlayEnds x g)).trans (.of_only (Only.answer _ n _ _ _ _))
  | chain first =>
    split
    · exact stopped.trans (.giveBlocks x _ _)
    · exact (stopped.trans (.giveBlocks x _ _)).trans (.of_only (Only.answer _ n _ _ _ _))

theorem LowKept.voiceTeardown (s : State) (n : LineId) (o : CallOutcome) : LowKept s (s.voiceTeardown n o) := by
  have ended : ∀ r, LowKept s (s.finishRecording n r) := fun r => .of_only (Only.finishRecording s n r)
  have rest : ∀ x, LowKept s x → LowKept s (if (x.line n).voice.play = .none then x else x.finishPlay n .cleared (endAnswer o).1
      (endAnswer o).2) := fun x h => by
    split
    · exact h
    · exact h.trans (.finishPlay x n _ _ _)
  exact rest _ (ended _)

theorem LowKept.deliverData (s : State) (n : LineId) : LowKept s (s.deliverData n) := by
  unfold State.deliverData
  split
  · exact .refl
  next b _ =>
    have given : LowKept s (s.onStore fun st => st.assign b (.deliv n)) := Store.LowKept.assign s.store b _
    dsimp only
    generalize s.onStore (fun st => st.assign b (.deliv n)) = x at given ⊢
    have joined : ∀ (k : Line → List Entry) (f : Entry → Entry), LowKept s
        ((x.onLine n fun l => { l with recvBlock := none, delivered := k l }).onOpenEntry n .data f) := fun k f => given
    have joined := joined (fun l => if (l.openEntry .data).isSome then l.delivered else l.delivered ++ [Entry.new .data b 0])
      fun e => e.join b (e.blockCount + 1) (s.store.fill b)
    generalize State.onOpenEntry _ n .data _ = y at joined ⊢
    split
    · split
      · exact joined.trans (.of_only (Only.closeData y n))
      · exact joined
    · exact joined

theorem LowKept.deliverPage (s : State) (n : LineId) : LowKept s (s.deliverPage n) := by
  unfold State.deliverPage
  split
  · exact .refl
  next b _ =>
    have left : LowKept s (s.onLine n fun l => { l with recvBlock := none }) := .of_only (Only.onLine (F := [.recv]) s n)
    dsimp only
    generalize s.onLine n (fun l => { l with recvBlock := none }) = x at left ⊢
    split
    · have discarded : LowKept x ((x.onFax n fun f =>
          { f with page := f.page.map fun p => { p with discarded := true }, pagesDiscarded := x.bump n 1 f.pagesDiscarded }).draw.freeBlock
            b) :=
        (LowKept.of_only ((Only.onFax x n _).trans (Only.draw _ n) (H := [.fax, .draws]))).trans (.freeBlock _ b)
      exact left.trans discarded
    · have given : LowKept x (x.onStore fun st => st.assign b (.deliv n)) := Store.LowKept.assign x.store b _
      exact left.trans given

theorem LowKept.linkTeardown (s : State) (n : LineId) (o : CallOutcome) : LowKept s (s.linkTeardown n o) := by
  have chain : ∀ (s : State) (c : SendChain), LowKept s (s.returnChain n o c) := fun s c =>
    (LowKept.giveBlocks s _ _).trans (.of_only (Only.answer _ n _ _ _ _))
  unfold State.linkTeardown
  split
  · refine LowKept.trans ?_ (.of_only (Only.closeData _ n))
    refine LowKept.trans ?_ (.deliverData _ n)
    exact LowKept.trans (.of_only (Only.onLink s n _)) (.foldl chain _ _)
  · exact .refl

theorem LowKept.returnPages (s : State) (n : LineId) (o : CallOutcome) : LowKept s (s.returnPages n o) := by
  unfold State.returnPages
  dsimp only
  refine LowKept.trans ?_ (.foldl (fun s x => .of_only (Only.answerPages s n _ _ x)) _ _)
  refine LowKept.trans ?_ (.of_only (Only.onFax _ n _))
  exact .foldl (fun s _ => .giveBlocks s _ _) _ _

theorem LowKept.faxTeardown (s : State) (n : LineId) (o : CallOutcome) : LowKept s (s.faxTeardown n o) := by
  unfold State.faxTeardown
  dsimp only
  split
  · unfold State.faxSenderTeardown
    split
    · exact .of_only (Only.onFax s n _)
    · exact (LowKept.returnPages s n o).trans (.of_only (Only.onFax _ n _))
  · split
    · unfold State.faxReceiverTeardown
      split
      · exact .of_only (Only.onFax s n _)
      next p _ =>
        dsimp only
        have delivered : LowKept s (s.deliverPage n) := .deliverPage s n
        generalize s.deliverPage n = x at delivered ⊢
        have closed : Only n [.delivered, .link, .outputs, .fax] x ((x.closePage n .incomplete p.rows p.badRows).onFax n fun f =>
            { f with lastVerdict := .incomplete, lastRows := p.rows, lastBadRows := p.badRows }) :=
          (Only.closePage x n _ _ _).trans (Only.onFax _ n _)
        generalize State.onFax (x.closePage n .incomplete p.rows p.badRows) n _ = y at closed ⊢
        exact (delivered.trans (.of_only closed)).trans
          (.of_only ((Only.raise y n .page).trans (Only.onFax _ n Fax.ended) (H := [.ev, .fax])))
    · exact .refl

theorem LowKept.callEnd (s : State) (n : LineId) (o : CallOutcome) : LowKept s (s.callEnd n o) := by
  have released : LowKept s ((s.releasePump n).onGrade n Grade.ended) :=
    (LowKept.of_only (Only.releasePump s n)).trans (.of_only (Only.onGrade _ n _))
  have torn : LowKept s (s.tornDown n o) :=
    ((released.trans (.linkTeardown _ n o)).trans (.faxTeardown _ n o)).trans (.voiceTeardown _ n o)
  have rest : Only n [.call, .seq, .dialler, .prog, .table, .ev, .ctl] (s.tornDown n o) (s.callEnd n o) :=
    (((Only.stopUnits _ n).trans (Only.answerCallCards _ n o) (H := [.call, .seq, .dialler, .prog, .table, .ev, .ctl])).trans
      (Only.onCall _ n _) (H := [.call, .seq, .dialler, .prog, .table, .ev, .ctl])).trans (Only.raise _ n _)
  exact torn.trans (.of_only rest)

theorem LowKept.abandonRetry (s : State) (n : LineId) (o : CallOutcome) : LowKept s (s.abandonRetry n o) := by
  cases pending : (s.line n).fm.retryPending with
  | false =>
    rw [State.abandonRetry_none pending]
    exact .refl
  | true =>
    rw [State.abandonRetry_eq pending]
    have dropped : LowKept s (s.retryDropped n o) := .of_only (Only.retryDropped s n o)
    split
    · exact dropped.trans (.returnPages _ n o)
    · exact dropped

end Sys2Proof.Machine

/-! The cards of a call that ends: DIAL and ANSWER (01 R15), and the cards that the teardowns leave alone. -/

namespace Sys2Proof.Machine

set_option Elab.async false

variable {n : LineId} {s t u : State} {i j : Nat} {o : CallOutcome}

/-! ## The cards of long orders -/

theorem State.card_lt_of_taken {T : TableId} (h : (s.card T i).hand = .taken) : i < (s.table T).cards.length := by
  by_contra out
  rw [State.card, List.getElem?_eq_none (by omega)] at h
  exact absurd h (by decide)

/-- The card of the recording in progress. -/
def Line.recordCards (l : Line) : List Nat :=
  match l.voice.recording, l.voice.recKind with
  | some _, .host i => [i]
  | _, _ => []

/-- The cards of the services of a line: of the Send List, the Page List, the play and the recording. -/
def Line.serviceCards (l : Line) : List Nat :=
  l.link.sendList.map SendChain.card ++ (l.fax.orders.map FaxOrder.card ++ (l.voice.playCard.toList ++ l.recordCards))

theorem Line.longCards_eq (l : Line) :
    l.longCards = l.ctl.dialCard.toList ++ (l.ctl.answerCard.toList ++ l.serviceCards) := by
  have same : l.longCards = l.ctl.dialCard.toList ++ l.ctl.answerCard.toList ++ l.link.sendList.map SendChain.card ++
    l.fax.orders.map FaxOrder.card ++ l.voice.playCard.toList ++ l.recordCards := rfl
  simp only [same, Line.serviceCards, List.append_assoc]

theorem Line.mem_recordCards {l : Line} : i ∈ l.recordCards ↔ l.voice.recording ≠ none ∧ l.voice.recKind = .host i := by
  unfold Line.recordCards
  cases l.voice.recording <;> cases l.voice.recKind <;> simp [eq_comm]

theorem Line.mem_serviceCards {l : Line} : i ∈ l.serviceCards ↔ (∃ c ∈ l.link.sendList, c.card = i) ∨
    (∃ x ∈ l.fax.orders, x.card = i) ∨ l.voice.playCard = some i ∨ (l.voice.recording ≠ none ∧ l.voice.recKind = .host i) := by
  simp only [Line.serviceCards, List.mem_append, List.mem_map, Option.mem_toList, Line.mem_recordCards]

/-- The card of a long order is one of its table. -/
theorem State.LongOrdersTaken.fits (h : s.LongOrdersTaken) (long : i ∈ (s.line n).longCards) : i < (s.line n).table.cards.length :=
  State.card_lt_of_taken (T := .line n) (h.taken n i (List.mem_append_left _ long))

theorem State.LongOrdersTaken.nodup (h : s.LongOrdersTaken) (n : LineId) :
    ((s.line n).ctl.dialCard.toList ++ ((s.line n).ctl.answerCard.toList ++ (s.line n).serviceCards)).Nodup := by
  rw [← Line.longCards_eq]
  exact (List.nodup_append.mp (h.once n)).1

/-- The card of a DIAL is no other long order's. -/
theorem State.LongOrdersTaken.dial (h : s.LongOrdersTaken) (held : (s.line n).ctl.dialCard = some i) :
    i < (s.line n).table.cards.length ∧ (s.line n).ctl.answerCard ≠ some i ∧ i ∉ (s.line n).serviceCards := by
  have mine : i ∈ (s.line n).ctl.dialCard.toList := by rw [held]; exact List.mem_singleton_self i
  have apart := (List.nodup_append.mp (h.nodup n)).2.2 i mine
  refine ⟨h.fits (by rw [Line.longCards_eq]; exact List.mem_append_left _ mine), fun answer => ?_, fun service => ?_⟩
  · exact apart i (List.mem_append_left _ (by rw [answer]; exact List.mem_singleton_self i)) rfl
  · exact apart i (List.mem_append_right _ service) rfl

/-- The card of an ANSWER is no other long order's. -/
theorem State.LongOrdersTaken.answer (h : s.LongOrdersTaken) (held : (s.line n).ctl.answerCard = some i) :
    i < (s.line n).table.cards.length ∧ (s.line n).ctl.dialCard ≠ some i ∧ i ∉ (s.line n).serviceCards := by
  have mine : i ∈ (s.line n).ctl.answerCard.toList := by rw [held]; exact List.mem_singleton_self i
  obtain ⟨-, rest, apart⟩ := List.nodup_append.mp (h.nodup n)
  refine ⟨h.fits (by rw [Line.longCards_eq]; exact List.mem_append_right _ (List.mem_append_left _ mine)), fun dial => ?_,
    fun service => (List.nodup_append.mp rest).2.2 i mine i service rfl⟩
  exact apart i (by rw [dial]; exact List.mem_singleton_self i) i (List.mem_append_left _ mine) rfl

/-- The card of a service's order is neither DIAL's nor ANSWER's. -/
theorem State.LongOrdersTaken.service (h : s.LongOrdersTaken) (mine : i ∈ (s.line n).serviceCards) :
    i < (s.line n).table.cards.length ∧ (s.line n).ctl.dialCard ≠ some i ∧ (s.line n).ctl.answerCard ≠ some i := by
  refine ⟨h.fits (by rw [Line.longCards_eq]; exact List.mem_append_right _ (List.mem_append_right _ mine)), fun e => ?_, fun e => ?_⟩
  · exact (h.dial e).2.2 mine
  · exact (h.answer e).2.2 mine

/-! ## What the teardowns leave alone -/

/-- Several chains returned leave the other cards alone. -/
theorem State.card_foldl_returnChain (cs : List SendChain) (s : State) (n : LineId) (o : CallOutcome)
    (other : ∀ c ∈ cs, c.card ≠ j) : (cs.foldl (fun s c => s.returnChain n o c) s).card (.line n) j = s.card (.line n) j := by
  induction cs generalizing s with
  | nil => rfl
  | cons c cs ih =>
    rw [List.foldl_cons, ih _ fun d hd => other d (.tail _ hd), State.returnChain,
      State.card_answer_ne _ (.line n) (other c (.head _)).symm, (Only.giveBlocks _ n _ _).card j]

theorem State.card_linkTeardown_ne (other : ∀ c ∈ (s.line n).link.sendList, c.card ≠ j) (o : CallOutcome) :
    (s.linkTeardown n o).card (.line n) j = s.card (.line n) j := by
  unfold State.linkTeardown
  split
  · dsimp only
    rw [(Only.closeData _ n).card j .., (Only.deliverData _ n).card j .., State.card_foldl_returnChain _ _ _ _ other]
    exact (Only.onLink s n _).card j
  · rfl

theorem State.card_faxTeardown_ne (other : ∀ x ∈ (s.line n).fax.orders, x.card ≠ j) (o : CallOutcome) :
    (s.faxTeardown n o).card (.line n) j = s.card (.line n) j := by
  unfold State.faxTeardown
  dsimp only
  split
  · unfold State.faxSenderTeardown
    rw [(Only.onFax _ n _).card j]
    split
    · rfl
    · exact State.card_returnPages_ne other o
  · split
    · exact (Only.faxReceiverTeardown s n).card j
    · rfl

theorem State.card_recordingFiled (s : State) (n : LineId) (m : EntryId) (r : EndReason) (j : Nat) :
    (s.recordingFiled n m r).card (.line n) j = s.card (.line n) j :=
  Only.card (F := [.messages, .voice, .ev]) (((Only.onMessage s n m _).trans (Only.onVoice _ n _) (H := [.messages, .voice])).trans
    (Only.raise _ n _)) j

theorem State.card_finishRecording_ne (other : (s.line n).voice.recording ≠ none → (s.line n).voice.recKind ≠ .host j)
    (r : EndReason) : (s.finishRecording n r).card (.line n) j = s.card (.line n) j := by
  cases recording : (s.line n).voice.recording with
  | none => rw [State.finishRecording_none recording]
  | some m =>
    cases kind : (s.line n).voice.recKind with
    | automatic => rw [State.finishRecording_automatic recording kind, State.card_recordingFiled]
    | host i =>
      have ne : j ≠ i := fun e => other (by rw [recording]; exact Option.some_ne_none m) (by rw [kind, e])
      rw [State.finishRecording_host recording kind, State.card_answer_ne _ (.line n) ne, State.card_recordingFiled]

/-- The play of a line over, its slot's count or its chain given back, before its card is answered (R148). -/
def State.playStopped (s : State) (n : LineId) : State :=
  let stopped := s.onVoice n fun v => { v with play := .none, playCard := none, playChain := [], playTotal := 0 }
  match (s.line n).voice.play with
  | .none => stopped
  | .slot g => stopped.slotPlayEnds g
  | .chain _ => stopped.giveBlocks ((s.line n).voice.playChain.map Prod.fst) .host

theorem State.finishPlay_none (h : (s.line n).voice.playCard = none) (e : PlayEnd) (st : Status) (r : Nat) :
    s.finishPlay n e st r = s.playStopped n := by
  unfold State.finishPlay State.playStopped
  dsimp only
  cases playing : (s.line n).voice.play <;> simp only [h]

theorem State.finishPlay_some (h : (s.line n).voice.playCard = some i) (e : PlayEnd) (st : Status) (r : Nat) :
    s.finishPlay n e st r = (s.playStopped n).answer (.line n) i st r
      (longBytes (s.line n).voice.samplesPlayed ++ [byteOf e.code 0]) := by
  unfold State.finishPlay State.playStopped
  dsimp only
  cases playing : (s.line n).voice.play <;> simp only [h]

theorem Only.playStopped (s : State) (n : LineId) :
    Only n [.voice, .slots, .store, .others, .link, .outputs, .engTable, .event] s (s.playStopped n) := by
  have stopped : Only n [.voice] s (s.onVoice n fun v => { v with play := .none, playCard := none, playChain := [], playTotal := 0 }) :=
    .onVoice s n _
  unfold State.playStopped
  dsimp only
  split
  · exact stopped.mono
  · exact stopped.trans (Only.slotPlayEnds _ n _)
  · exact stopped.trans (Only.giveBlocks _ n _ _)

theorem State.card_finishPlay_ne (other : (s.line n).voice.playCard ≠ some j) (e : PlayEnd) (st : Status) (r : Nat) :
    (s.finishPlay n e st r).card (.line n) j = s.card (.line n) j := by
  have stopped : (s.playStopped n).card (.line n) j = s.card (.line n) j := (Only.playStopped s n).card j
  cases held : (s.line n).voice.playCard with
  | none => rw [State.finishPlay_none held, stopped]
  | some i =>
    have ne : j ≠ i := fun e => other (by rw [held, e])
    rw [State.finishPlay_some held, State.card_answer_ne _ (.line n) ne, stopped]

/-- The end of a recording leaves the play in progress. -/
theorem State.play_finishRecording (s : State) (n : LineId) (r : EndReason) :
    ((s.finishRecording n r).line n).voice.play = (s.line n).voice.play ∧
      ((s.finishRecording n r).line n).voice.playCard = (s.line n).voice.playCard ∧
      ((s.finishRecording n r).line n).voice.playChain = (s.line n).voice.playChain ∧
      ((s.finishRecording n r).line n).voice.samplesPlayed = (s.line n).voice.samplesPlayed := by
  cases recording : (s.line n).voice.recording with
  | none =>
    rw [State.finishRecording_none recording]
    exact ⟨rfl, rfl, rfl, rfl⟩
  | some m =>
    rw [(State.finishRecording_some recording r).2.1]
    exact ⟨rfl, rfl, rfl, rfl⟩

theorem State.card_voiceTeardown_ne (play : (s.line n).voice.playCard ≠ some j)
    (record : (s.line n).voice.recording ≠ none → (s.line n).voice.recKind ≠ .host j) (o : CallOutcome) :
    (s.voiceTeardown n o).card (.line n) j = s.card (.line n) j := by
  have ended := State.card_finishRecording_ne record
  have rest : ∀ x : State, (x.line n).voice.playCard ≠ some j → x.card (.line n) j = s.card (.line n) j →
      (if (x.line n).voice.play = .none then x else x.finishPlay n .cleared (endAnswer o).1 (endAnswer o).2).card (.line n) j =
        s.card (.line n) j := fun x hx h => by
    split
    · exact h
    · rw [State.card_finishPlay_ne hx, h]
  exact rest _ (by rw [(s.play_finishRecording n _).2.1]; exact play) (ended _)

/-- The teardowns leave alone the cards that are of no order of a service. -/
theorem State.card_tornDown_ne (other : j ∉ (s.line n).serviceCards) (o : CallOutcome) :
    (s.tornDown n o).card (.line n) j = s.card (.line n) j := by
  rw [Line.mem_serviceCards, not_or, not_or, not_or] at other
  obtain ⟨send, orders, play, record⟩ := other
  have released : Only n [.queue, .claim, .pumps, .call, .grade] s ((s.releasePump n).onGrade n Grade.ended) :=
    (Only.releasePump s n).trans (Only.onGrade _ n _)
  have linked := released.trans (Only.linkTeardown _ n o)
    (H := [.queue, .claim, .pumps, .call, .grade, .link, .store, .table, .ev, .recv, .delivered, .outputs])
  have faxed := linked.trans (Only.faxTeardown _ n o) (H := [.queue, .claim, .pumps, .call, .grade, .link, .store, .table, .ev, .recv,
    .delivered, .outputs, .fax, .draws, .others])
  have link : (((s.releasePump n).onGrade n Grade.ended).line n).link = (s.line n).link := released.of .link
  have fax : ((((s.releasePump n).onGrade n Grade.ended).linkTeardown n o).line n).fax = (s.line n).fax := linked.of .fax
  have voice : (((((s.releasePump n).onGrade n Grade.ended).linkTeardown n o).faxTeardown n o).line n).voice = (s.line n).voice :=
    faxed.of .voice
  rw [State.tornDown, State.card_voiceTeardown_ne (by rw [voice]; exact play)
      (by rw [voice]; exact fun a b => record ⟨a, b⟩),
    State.card_faxTeardown_ne (by rw [fax]; exact fun x hx e => orders ⟨x, hx, e⟩),
    State.card_linkTeardown_ne (by rw [link]; exact fun c hc e => send ⟨c, hc, e⟩), released.card j]

/-! ## DIAL and ANSWER at the end of a call (R15) -/

theorem State.answerCallCards_eq (s : State) (n : LineId) (o : CallOutcome) : s.answerCallCards n o =
    (if (s.line n).fm.retryPending then s else s.answerDial n o.ownStatus o.reason).answerAnswer n o.ownStatus o.reason := by
  cases o <;> rfl

/-- The call's services torn down and its units stopped, before its cards are answered. -/
def State.unitsStopped (s : State) (n : LineId) (o : CallOutcome) : State := (s.tornDown n o).stopUnits n

theorem Only.unitsStopped (s : State) (n : LineId) (o : CallOutcome) :
    Only n [.queue, .claim, .pumps, .call, .grade, .link, .store, .table, .ev, .recv, .delivered, .outputs, .fax, .draws, .others,
      .messages, .voice, .slots, .engTable, .event, .seq, .dialler, .prog] s (s.unitsStopped n o) :=
  (Only.tornDown s n o).trans (Only.stopUnits _ n)

theorem LineEffect.tornDown (s : State) (n : LineId) (o : CallOutcome) : LineEffect n s (s.tornDown n o) :=
  ((((LineEffect.refl.releasePump).onGrade).linkTeardown o).faxTeardown o).voiceTeardown o

theorem LineEffect.unitsStopped (s : State) (n : LineId) (o : CallOutcome) : LineEffect n s (s.unitsStopped n o) :=
  (LineEffect.tornDown s n o).stopUnits

theorem Only.cardsToEnd (s : State) (n : LineId) (o : CallOutcome) :
    Only n [.call, .ev] ((s.unitsStopped n o).answerCallCards n o) (s.callEnd n o) := (Only.onCall _ n _).trans (Only.raise _ n _)

theorem LineEffect.cardsToEnd (s : State) (n : LineId) (o : CallOutcome) :
    LineEffect n ((s.unitsStopped n o).answerCallCards n o) (s.callEnd n o) := LineEffect.refl.onCall.raise _

theorem State.line_unitsStopped (s : State) (n : LineId) (o : CallOutcome) : (s.unitsStopped n o).line n =
    { (s.tornDown n o).line n with
      call := { ((s.tornDown n o).line n).call with service := .none }
      seq := .initial
      dialler := { ((s.tornDown n o).line n).dialler with phase := .idle, timer := .stopped }
      prog := { ((s.tornDown n o).line n).prog with pathTimer := .stopped } } := by
  unfold State.unitsStopped
  generalize s.tornDown n o = t
  exact State.line_onLine_self t n _

theorem State.dialFields_unitsStopped (s : State) (n : LineId) (o : CallOutcome) :
    ((s.unitsStopped n o).line n).dialFields = (s.line n).dialFields := by
  have dialler : ((s.tornDown n o).line n).dialler = (s.line n).dialler := (Only.tornDown s n o).of .dialler
  have prog : ((s.tornDown n o).line n).prog = (s.line n).prog := (Only.tornDown s n o).of .prog
  rw [s.line_unitsStopped n o]
  generalize (s.tornDown n o).line n = l at dialler prog ⊢
  rw [Line.dialFields, Line.dialFields, dialler, prog]

theorem State.ctl_unitsStopped (s : State) (n : LineId) (o : CallOutcome) : ((s.unitsStopped n o).line n).ctl = (s.line n).ctl :=
  (Only.unitsStopped s n o).of .ctl

theorem State.fm_unitsStopped (s : State) (n : LineId) (o : CallOutcome) : ((s.unitsStopped n o).line n).fm = (s.line n).fm :=
  (Only.unitsStopped s n o).of .fm

theorem State.length_unitsStopped (s : State) (n : LineId) (o : CallOutcome) :
    ((s.unitsStopped n o).line n).table.cards.length = (s.line n).table.cards.length := by
  have same := (LineEffect.unitsStopped s n o).cards (.line n)
  generalize s.unitsStopped n o = u at same ⊢
  exact same

theorem State.card_unitsStopped_ne (other : j ∉ (s.line n).serviceCards) (o : CallOutcome) :
    (s.unitsStopped n o).card (.line n) j = s.card (.line n) j :=
  ((Only.stopUnits _ n).card j).trans (State.card_tornDown_ne other o)

theorem State.ctl_answerDial (s : State) (n : LineId) (st : Status) (r : Nat) :
    ((s.answerDial n st r).line n).ctl = { (s.line n).ctl with dialCard := none } := by
  cases held : (s.line n).ctl.dialCard with
  | none =>
    rw [State.answerDial, held]
    exact (congrArg (fun d => { (s.line n).ctl with dialCard := d }) held)
  | some i =>
    simp only [State.answerDial, held]
    rw [State.line_onCtl_self, State.line_answer_self]

theorem State.ctl_answerAnswer (s : State) (n : LineId) (st : Status) (r : Nat) :
    ((s.answerAnswer n st r).line n).ctl = { (s.line n).ctl with answerCard := none } := by
  cases held : (s.line n).ctl.answerCard with
  | none =>
    rw [State.answerAnswer, held]
    exact (congrArg (fun d => { (s.line n).ctl with answerCard := d }) held)
  | some i =>
    simp only [State.answerAnswer, held]
    rw [State.line_onCtl_self, State.line_answer_self]

theorem State.ctl_callEnd_eq (s : State) (n : LineId) (o : CallOutcome) : ((s.callEnd n o).line n).ctl =
    { (s.line n).ctl with
      dialCard := if (s.line n).fm.retryPending then (s.line n).ctl.dialCard else none
      answerCard := none } := by
  have ended : ((s.callEnd n o).line n).ctl = (((s.unitsStopped n o).answerCallCards n o).line n).ctl := (Only.cardsToEnd s n o).of .ctl
  rw [ended, State.answerCallCards_eq, State.fm_unitsStopped]
  split
  · rw [State.ctl_answerAnswer, State.ctl_unitsStopped]
  · rw [State.ctl_answerAnswer, State.ctl_answerDial, State.ctl_unitsStopped]

/-- A DIAL card still TAKEN at the end of a call with no retry pending is answered. -/
theorem State.answered_callEnd_dial (held : (s.line n).ctl.dialCard = some i) (fits : i < (s.line n).table.cards.length)
    (apart : (s.line n).ctl.answerCard ≠ some i) (settled : (s.line n).fm.retryPending = false) (o : CallOutcome) :
    State.Answered (.line n) i o.ownStatus o.reason 0 (s.line n).dialFields s (s.callEnd n o) := by
  have effect := LineEffect.unitsStopped s n o
  have cards : (s.unitsStopped n o).answerCallCards n o =
      ((s.unitsStopped n o).answerDial n o.ownStatus o.reason).answerAnswer n o.ownStatus o.reason := by
    rw [State.answerCallCards_eq, State.fm_unitsStopped, settled, if_neg Bool.false_ne_true]
  have before := s.dialFields_unitsStopped n o
  have ctl := s.ctl_unitsStopped n o
  have length := s.length_unitsStopped n o
  have last := Only.cardsToEnd s n o
  have later := LineEffect.cardsToEnd s n o
  generalize s.callEnd n o = t at *
  rw [cards] at last later
  generalize s.unitsStopped n o = u at *
  have answered := State.answered_answerDial (s := u) (n := n) (i := i) (by rw [ctl, held])
    (by rw [length]; exact fits) o.ownStatus o.reason
  rw [before] at answered
  have both := answered.later (LineEffect.refl.answerAnswer o.ownStatus o.reason) (.inl rfl)
    (State.card_answerAnswer_ne (by rw [State.ctl_answerDial, ctl]; exact apart) _ _)
  exact (both.later later (.inl rfl) (last.card i)).before effect.tick

/-- An ANSWER card still TAKEN at the end of a call is answered. -/
theorem State.answered_callEnd_answer (held : (s.line n).ctl.answerCard = some i) (fits : i < (s.line n).table.cards.length)
    (o : CallOutcome) : State.Answered (.line n) i o.ownStatus o.reason 0 (s.line n).answerFields s (s.callEnd n o) := by
  have effect := LineEffect.unitsStopped s n o
  have call : ∃ p, ((s.unitsStopped n o).line n).call = { (s.line n).call with pump := p, service := .none } := by
    obtain ⟨released, -, -⟩ := State.releasePump_spec s n
    have torn : Quiet n ((s.releasePump n).onGrade n Grade.ended) (s.tornDown n o) :=
      ((Quiet.refl.linkTeardown o).faxTeardown o).voiceTeardown o
    have same := torn.call
    rw [State.line_onGrade_self, released] at same
    exact ⟨none, by rw [s.line_unitsStopped n o, same]⟩
  have length := s.length_unitsStopped n o
  have ctl := s.ctl_unitsStopped n o
  have cards := (s.unitsStopped n o).answerCallCards_eq n o
  have last := Only.cardsToEnd s n o
  have later := LineEffect.cardsToEnd s n o
  generalize s.callEnd n o = t at *
  rw [cards] at last later
  generalize s.unitsStopped n o = u at *
  have step : ∀ x : State, LineEffect n u x → (x.line n).ctl.answerCard = some i → (x.line n).call = (u.line n).call →
      State.Answered (.line n) i o.ownStatus o.reason 0 (s.line n).answerFields s (x.answerAnswer n o.ownStatus o.reason) := fun x l a e => by
    obtain ⟨p, h⟩ := call
    have fields : (x.line n).answerFields = (s.line n).answerFields := by rw [Line.answerFields, Line.answerFields, e, h]
    have same : (x.line n).table.cards.length = (u.line n).table.cards.length := l.cards (.line n)
    have answered := State.answered_answerAnswer a (by rw [same, length]; exact fits) o.ownStatus o.reason
    rw [fields] at answered
    exact answered.before (l.tick.trans effect.tick)
  refine State.Answered.later ?_ later (.inl rfl) (last.card i)
  split
  · exact step _ .refl (by rw [ctl, held]) rfl
  · exact step _ (LineEffect.refl.answerDial _ _) (by rw [State.ctl_answerDial, ctl, held]) ((Only.answerDial u n _ _).of .call)

/-- The end of a call leaves alone a card that is of none of its orders. -/
theorem State.card_callEnd_ne (service : j ∉ (s.line n).serviceCards)
    (dial : (s.line n).fm.retryPending = false → (s.line n).ctl.dialCard ≠ some j) (answer : (s.line n).ctl.answerCard ≠ some j)
    (o : CallOutcome) : (s.callEnd n o).card (.line n) j = s.card (.line n) j := by
  rw [(Only.cardsToEnd s n o).card j, State.answerCallCards_eq, State.fm_unitsStopped]
  split
  · rw [State.card_answerAnswer_ne (by rw [State.ctl_unitsStopped]; exact answer), State.card_unitsStopped_ne service]
  next settled =>
    rw [State.card_answerAnswer_ne (by rw [State.ctl_answerDial, State.ctl_unitsStopped]; exact answer),
      State.card_answerDial_ne (by rw [State.ctl_unitsStopped]; exact dial (by simpa using settled)), State.card_unitsStopped_ne service]

end Sys2Proof.Machine

/-! O41: counted rings (02 R26; 03 R40, R41; 11 R184). -/

namespace Sys2Proof.Machine

set_option Elab.async false

variable {n : LineId} {s t u : State} {volt : Bool}

/-! ## The profile in the store -/

/-- The Line Profile of a line as the store holds it (R5). -/
def State.storedProfile (s : State) (n : LineId) : Profile :=
  Profile.ofWords fun o => Memory.word s.store.mem (0x0500 + 256 * n.val + o)

theorem LowKept.storedProfile (h : LowKept s t) (wf : Memory.wf s.store.mem = true) : t.storedProfile n = s.storedProfile n := by
  obtain ⟨-, low⟩ := h wf
  refine Profile.ofWords_congr fun o ho => low _ ?_
  have := n.isLt
  omega

/-! ## A first ring that is not answered -/

/-- The auto-answer does not answer at the first ring. -/
def State.silentAt (s : State) (p : Profile) : Prop := p.answerMode = .none ∨ 1 < p.ringsBeforeAnswer ∨ s.monitor.suspended = true

/-- A line on which a call's first ring has been counted (R40). -/
def Line.rung (p : Profile) (tick : Long) (l : Line) : Line :=
  { l with
    profile := p
    call :=
      { l.call with
        state := .alerting, service := .none, direction := .answer, tRing := tick, tOffhook := 0, tConnect := 0
        tClear := 0, dayConnect := 0, wasConnected := false, ringCount := 1, caller := ⟨.absent, [], [], []⟩ }
    ctl := { l.ctl with declined := false, heldCarrierLoss := false, stateTimer := .running 8000 }
    seq := .initial
    grade := .initial
    link := .initial
    fax := { Fax.initial with pages := l.fax.pages, orders := l.fax.orders, resendPending := false }
    voice := { l.voice with digits := [], overflow := 0 }
    ev := { l.ev with bits := l.ev.bits ||| 1, tally := l.ev.tally + 1 }
    dec := ⟨p.callerCapture, none⟩ }

theorem State.autoAnswer_silent (h : (s.line n).profile.answerMode = .none ∨ s.monitor.suspended = true ∨
    (s.line n).call.ringCount < (s.line n).profile.ringsBeforeAnswer) : s.autoAnswer n volt = s := by
  unfold State.autoAnswer
  dsimp only
  split
  next rings =>
    rcases h with none | suspended | few
    · rw [none]
    · rw [rings.2] at suspended
      exact absurd suspended (by decide)
    · omega
  · rfl

theorem State.firstRing_silent (silent : s.silentAt (s.storedProfile n)) :
    s.firstRing n volt = s.onLine n (Line.rung (s.storedProfile n) s.hdr.tick) := by
  have rung : s.firstRing n volt = (s.onLine n (Line.rung (s.storedProfile n) s.hdr.tick)).autoAnswer n volt := by
    simp only [State.firstRing, State.callStart, State.copyProfile, State.onCall, State.enter, State.onCtl, State.raise,
      State.onLine_onLine]
    rfl
  rw [rung]
  refine State.autoAnswer_silent ?_
  rw [State.line_onLine_self]
  rcases silent with none | few | suspended
  · exact .inl none
  · exact .inr (.inr few)
  · exact .inr (.inl suspended)

theorem Only.rung (s : State) (n : LineId) (p : Profile) (tick : Long) :
    Only n [.profile, .call, .ctl, .seq, .grade, .link, .fax, .voice, .ev, .dec] s (s.onLine n (Line.rung p tick)) := .onLine s n

theorem LineEffect.rung (s : State) (n : LineId) (p : Profile) (tick : Long) : LineEffect n s (s.onLine n (Line.rung p tick)) :=
  LineEffect.refl.onLine (fun _ k => ⟨Nat.zero_le _, Nat.zero_le _, by simp [Line.rung], Nat.zero_le _⟩) fun _ => ⟨1, 1, rfl⟩

theorem exec_ringCounted (n : LineId) (volt : Bool) (s : State) : exec (.ringCounted n volt) s = done s (s.ringCounted n volt) := rfl

/-! ## By the state of the line -/

theorem ringCounted_idle (idle : (s.line n).call.state = .idle) (silent : s.silentAt (s.storedProfile n)) :
    ∃ t, exec (.ringCounted n volt) s = .next t ∧ (t.line n).profile = s.storedProfile n ∧
      (t.line n).call =
        { (s.line n).call with
          state := .alerting, service := .none, direction := .answer, tRing := s.hdr.tick, tOffhook := 0, tConnect := 0
          tClear := 0, dayConnect := 0, wasConnected := false, ringCount := 1, caller := ⟨.absent, [], [], []⟩ } ∧
      (t.line n).ctl.stateTimer = .running 8000 ∧ (t.line n).dec = ⟨(s.storedProfile n).callerCapture, none⟩ ∧
      (t.line n).ev = { (s.line n).ev with bits := (s.line n).ev.bits ||| 1, tally := (s.line n).ev.tally + 1 } ∧
      (t.line n).voice.digits = [] ∧ (t.line n).voice.overflow = 0 ∧ (t.line n).fm = (s.line n).fm ∧
      State.Aside n s t ∧ State.Steady s t := by
  have run := exec_ringCounted n volt s
  rw [State.ringCounted, idle] at run
  dsimp only at run
  rw [State.firstRing_silent silent] at run
  have whole := (LineEffect.rung s n (s.storedProfile n) s.hdr.tick).commit
  have line := State.line_onLine_self s n (Line.rung (s.storedProfile n) s.hdr.tick)
  refine ⟨_, run, ?_, ?_, ?_, ?_, ?_, ?_, ?_, ?_, whole.aside, whole.steady⟩ <;> rw [State.line_commit, line] <;> rfl

theorem ringCounted_alerting (alerting : (s.line n).call.state = .alerting)
    (silent : (s.line n).profile.answerMode = .none ∨ s.monitor.suspended = true ∨
      min 65535 ((s.line n).call.ringCount + 1) < (s.line n).profile.ringsBeforeAnswer)
    (burst : (s.line n).dec.burst = none) : Leads (.ringCounted n volt) s (s.onLine n fun l =>
      { l with
        call := { l.call with ringCount := min 65535 (l.call.ringCount + 1) }
        ctl := { l.ctl with stateTimer := .running 8000 }
        ev := { l.ev with bits := l.ev.bits ||| 1, tally := l.ev.tally + 1 }
        dec := ⟨false, none⟩ }) := by
  have run := exec_ringCounted n volt s
  rw [State.ringCounted, alerting] at run
  dsimp only at run
  have counted : s.furtherRing n volt = (s.onLine n fun l =>
      { l with
        call := { l.call with ringCount := min 65535 (l.call.ringCount + 1) }
        ctl := { l.ctl with stateTimer := .running 8000 }
        ev := { l.ev with bits := l.ev.bits ||| 1, tally := l.ev.tally + 1 }
        dec := ⟨false, none⟩ }).autoAnswer n volt := by
    unfold State.furtherRing
    dsimp only
    rw [State.closeWindow_quiet (.inr (by simp [burst]))]
    simp only [State.onCall, State.onCtl, State.raise, State.onLine_onLine]
    rfl
  rw [counted, State.autoAnswer_silent (by rw [State.line_onLine_self]; exact silent)] at run
  exact Leads.of_done run rfl

theorem leads_ringCounted_declined (clearing : (s.line n).call.state = .clearing) (declined : (s.line n).ctl.declined = true) :
    Leads (.ringCounted n volt) s (s.onLine n fun l => { l with ctl := { l.ctl with declinedGap := .running 8000 } }) := by
  have run := exec_ringCounted n volt s
  rw [State.ringCounted, clearing] at run
  dsimp only at run
  rw [if_pos declined] at run
  exact Leads.of_done run rfl

theorem leads_ringCounted_ignored (h : (s.line n).call.state = .clearing ∧ (s.line n).ctl.declined = false ∨
    (s.line n).call.state = .off ∨ (s.line n).call.state = .fault ∨ (s.line n).call.state.offHook = true) :
    Leads (.ringCounted n volt) s s := by
  have same : s.ringCounted n volt = s := by
    rcases h with ⟨clearing, declined⟩ | off | fault | hook
    · simp only [State.ringCounted, clearing, declined, Bool.false_eq_true, if_false]
    · simp only [State.ringCounted, off]
    · simp only [State.ringCounted, fault]
    · unfold State.ringCounted
      split
      case h_1 e | h_2 e | h_3 e | h_4 e | h_5 e =>
        rw [e] at hook
        exact absurd hook (by decide)
      case h_6 => rfl
  exact Leads.of_done ((exec_ringCounted n volt s).trans (by rw [same])) rfl

/-- What a counted ring after the end of an earlier call leaves, whatever ended it. -/
theorem ringCounted_rung (run : exec (.ringCounted n volt) s = done s (u.firstRing n volt)) (effect : LineEffect n s u)
    (low : LowKept s u) (wf : Memory.wf s.store.mem = true) (silent : s.silentAt (s.storedProfile n))
    (outcome : (u.line n).call.lastOutcome = .cutByRing) :
    ∃ v, exec (.ringCounted n volt) s = .next (s.commit v) ∧ v = u.onLine n (Line.rung (s.storedProfile n) s.hdr.tick) ∧
      (v.line n).call.state = .alerting ∧ (v.line n).profile = s.storedProfile n ∧ (v.line n).call.direction = .answer ∧
      (v.line n).call.ringCount = 1 ∧ (v.line n).call.tRing = s.hdr.tick ∧ (v.line n).call.lastOutcome = .cutByRing ∧
      (v.line n).ev.bits.getLsbD 0 = true ∧ State.Aside n s (s.commit v) ∧ State.Steady s (s.commit v) := by
  have profile := low.storedProfile (n := n) wf
  have same : u.silentAt (u.storedProfile n) := by
    rw [profile, State.silentAt, effect.monitor]
    exact silent
  rw [State.firstRing_silent same, profile, effect.tick] at run
  have line := State.line_onLine_self u n (Line.rung (s.storedProfile n) s.hdr.tick)
  have whole := (effect.trans (LineEffect.rung u n (s.storedProfile n) s.hdr.tick)).commit
  refine ⟨_, run, rfl, ?_, ?_, ?_, ?_, ?_, ?_, ?_, whole.aside, whole.steady⟩ <;> rw [line]
  · rfl
  · rfl
  · rfl
  · rfl
  · rfl
  · exact outcome
  · simp [Line.rung]

theorem ringCounted_queued (queued : (s.line n).call.state = .queued) (wf : Memory.wf s.store.mem = true)
    (silent : s.silentAt (s.storedProfile n)) :
    ∃ v, exec (.ringCounted n volt) s = .next (s.commit v) ∧
      (v.line n).call.state = .alerting ∧ (v.line n).profile = s.storedProfile n ∧ (v.line n).call.direction = .answer ∧
      (v.line n).call.ringCount = 1 ∧ (v.line n).call.tRing = s.hdr.tick ∧ (v.line n).call.lastOutcome = .cutByRing ∧
      (v.line n).ev.bits.getLsbD 0 = true ∧ (v.line n).claim = none ∧ (v.line n).ev.bits.getLsbD 3 = true ∧
      (s.LongOrdersTaken → (s.line n).fm.retryPending = false → ∀ i, (s.line n).ctl.dialCard = some i →
        (v.line n).ctl.dialCard = none ∧
        State.Answered (.line n) i .cut CallOutcome.cutByRing.code 0 (s.line n).dialFields s v) ∧
      State.Aside n s (s.commit v) ∧ State.Steady s (s.commit v) := by
  have run := exec_ringCounted n volt s
  rw [State.ringCounted, queued] at run
  have noted := State.line_onCall_self s n fun c => { c with lastOutcome := .cutByRing }
  have before : LineEffect n s (s.onCall n fun c => { c with lastOutcome := .cutByRing }) := LineEffect.refl.onCall
  have card := (Only.onCall s n fun c => { c with lastOutcome := .cutByRing }).card
  have low : LowKept s (s.onCall n fun c => { c with lastOutcome := .cutByRing }) := .of_store rfl
  generalize (s.onCall n fun c => { c with lastOutcome := .cutByRing }) = x at *
  obtain ⟨call, claim, -, -, -, -, down, -⟩ := x.callEnd_spec n .cutByRing
  have ctl := x.ctl_callEnd_eq n .cutByRing
  have dial := fun i => State.answered_callEnd_dial (s := x) (n := n) (i := i) (o := .cutByRing)
  have effect : LineEffect n s (x.callEnd n .cutByRing) := before.callEnd .cutByRing
  have ended : LowKept s (x.callEnd n .cutByRing) := low.trans (.callEnd x n .cutByRing)
  generalize x.callEnd n .cutByRing = y at *
  obtain ⟨v, ran, eq, state, profile, direction, rings, tick, outcome, rang, aside, steady⟩ :=
    ringCounted_rung run effect ended wf silent (by rw [call, noted])
  have line := State.line_onLine_self y n (Line.rung (s.storedProfile n) s.hdr.tick)
  have later := LineEffect.rung y n (s.storedProfile n) s.hdr.tick
  have same : ∀ i, (y.onLine n (Line.rung (s.storedProfile n) s.hdr.tick)).card (.line n) i = y.card (.line n) i :=
    (Only.rung y n (s.storedProfile n) s.hdr.tick).card
  rw [← eq] at line later same
  refine ⟨v, ran, state, profile, direction, rings, tick, outcome, rang, ?_, ?_, fun long settled i held => ⟨?_, ?_⟩, aside, steady⟩
  · rw [line]; exact claim
  · rw [line]
    simp only [Line.rung, BitVec.getLsbD_or, down, Bool.true_or]
  · rw [line]
    simp only [Line.rung, ctl, noted, settled, Bool.false_eq_true, if_false]
  · obtain ⟨fits, apart, -⟩ := long.dial held
    have answered := dial i (by rw [noted]; exact held) (by rw [noted]; exact fits) (by rw [noted]; exact apart)
      (by rw [noted]; exact settled)
    have fields : (x.line n).dialFields = (s.line n).dialFields := by rw [noted]; rfl
    rw [fields] at answered
    exact (answered.later later (.inl rfl) (same i)).before before.tick

theorem ringCounted_holdoff (holdoff : (s.line n).call.state = .holdoff) (wf : Memory.wf s.store.mem = true)
    (silent : s.silentAt (s.storedProfile n)) :
    ∃ v, exec (.ringCounted n volt) s = .next (s.commit v) ∧
      (v.line n).call.state = .alerting ∧ (v.line n).profile = s.storedProfile n ∧ (v.line n).call.direction = .answer ∧
      (v.line n).call.ringCount = 1 ∧ (v.line n).call.tRing = s.hdr.tick ∧ (v.line n).call.lastOutcome = .cutByRing ∧
      (v.line n).ev.bits.getLsbD 0 = true ∧ (v.line n).fm.retryPending = false ∧
      ((s.line n).fm.retryPending = true → State.RetryAbandoned n .cutByRing [] s v ∧ State.KeptPagesReturned n s v) ∧
      State.Aside n s (s.commit v) ∧ State.Steady s (s.commit v) := by
  have run := exec_ringCounted n volt s
  rw [State.ringCounted, holdoff] at run
  dsimp only at run
  have spec := State.abandonRetry_spec (s := s) (n := n) plain_cutByRing
  have effect : LineEffect n s (s.abandonRetry n .cutByRing) := LineEffect.refl.abandonRetry .cutByRing
  have low := LowKept.abandonRetry s n .cutByRing
  have fm := s.fm_abandonRetry n .cutByRing
  generalize s.abandonRetry n .cutByRing = x at *
  have noted := State.line_onCall_self x n fun c => { c with lastOutcome := .cutByRing }
  have noting : LineEffect n x (x.onCall n fun c => { c with lastOutcome := .cutByRing }) := LineEffect.refl.onCall
  have only := Only.onCall x n fun c => { c with lastOutcome := .cutByRing }
  obtain ⟨v, ran, eq, state, profile, direction, rings, tick, outcome, rang, aside, steady⟩ :=
    ringCounted_rung run (effect.trans noting) (low.trans (.of_store rfl)) wf silent (by rw [noted])
  generalize (x.onCall n fun c => { c with lastOutcome := .cutByRing }) = y at *
  have line := State.line_onLine_self y n (Line.rung (s.storedProfile n) s.hdr.tick)
  have later : LaterCards n [] y (y.onLine n (Line.rung (s.storedProfile n) s.hdr.tick)) := by
    refine ⟨LineEffect.rung y n _ _, fun j _ => (Only.rung y n _ _).card j, ?_, ?_⟩
    · rw [line]; rfl
    · rw [line]; rfl
  have store : (y.onLine n (Line.rung (s.storedProfile n) s.hdr.tick)).store = x.store := only.of .store
  rw [← eq] at line later store
  have sum : LaterCards n [] x v := (LaterCards.of_only noting only).trans later
  refine ⟨v, ran, state, profile, direction, rings, tick, outcome, rang, ?_, fun pending => ?_, aside, steady⟩
  · rw [line, noted]
    exact congrArg FaultRecord.retryPending fm
  · obtain ⟨abandoned, kept⟩ := spec pending
    exact ⟨abandoned.later sum (by rw [line, noted]; rfl) (by rw [line, noted]; rfl), fun service => store.trans (kept service)⟩

/-- Settles O41: by the state of the line; after the end of an earlier call the first ring is that of IDLE. -/
theorem ringsCounted : Obligations.RingsCounted := by
  intro n volt s
  refine ⟨ringCounted_idle, ringCounted_alerting, fun state wf silent => ?_, leads_ringCounted_declined, leads_ringCounted_ignored⟩
  rcases state with queued | holdoff
  · obtain ⟨v, run, state, profile, direction, rings, tick, outcome, rang, claim, down, dial, aside, steady⟩ :=
      ringCounted_queued (volt := volt) queued wf silent
    refine ⟨_, run, ?_⟩
    simp only [State.line_commit]
    exact ⟨state, profile, direction, rings, tick, outcome, rang, fun _ => ⟨claim, down, fun long settled i held =>
      ⟨(dial long settled i held).1, (dial long settled i held).2.commit⟩⟩, fun h => absurd (queued.symm.trans h) (by decide), aside, steady⟩
  · obtain ⟨v, run, state, profile, direction, rings, tick, outcome, rang, settled, retry, aside, steady⟩ :=
      ringCounted_holdoff (volt := volt) holdoff wf silent
    refine ⟨_, run, ?_⟩
    simp only [State.line_commit]
    exact ⟨state, profile, direction, rings, tick, outcome, rang, fun h => absurd (holdoff.symm.trans h) (by decide),
      fun _ => ⟨settled, fun pending => ⟨(retry pending).1.commit, (retry pending).2⟩⟩, aside, steady⟩

end Sys2Proof.Machine

/-! The pool at the end of a call, pump by pump (04 R61, R64, R65). -/

namespace Sys2Proof.Machine

set_option Elab.async false

variable {n m : LineId} {s t : State} {p : PumpId}

/-! ## The arbiter -/

theorem State.grantNext_of_granted (h : s.Granted) : s.grantNext = s := by
  obtain ⟨e, -⟩ | ⟨q, m, free, head, -⟩ := s.grantNext_cases
  · exact e
  · exact absurd (State.lowestFree_eq_some free) (h q m (WaitQueue.head_eq_some head))

/-- With no FREE pump beside a claim the arbiter has nothing to grant. -/
theorem State.arbitrate_of_granted (h : s.Granted) : s.arbitrate = s := by
  have e := State.grantNext_of_granted h
  calc s.arbitrate = s.grantNext.grantNext.grantNext := rfl
    _ = s := by rw [e, e, e]

/-- One FREE pump goes to the claim at the head of the queue. -/
theorem State.arbitrate_of_one (free : (s.pump p).state = .free) (only : ∀ q, (s.pump q).state = .free → q = p)
    (head : s.queue.head = some m) : s.arbitrate = s.granting p m := by
  have first : s.grantNext = s.granting p m := by
    obtain ⟨-, none | none⟩ | ⟨q, k, lowest, head', e⟩ := s.grantNext_cases
    · exact absurd free (State.lowestFree_eq_none none p)
    · rw [head] at none
      exact nomatch none
    · rw [e, only q (State.lowestFree_eq_some lowest), Option.some.inj (head'.symm.trans head)]
  have rest : (s.granting p m).Granted := fun q _ _ => by
    rw [State.pumpState_granting]
    split
    · decide
    next other => exact fun k => other (only q k)
  have e := State.grantNext_of_granted rest
  calc s.arbitrate = s.grantNext.grantNext.grantNext := rfl
    _ = s.granting p m := by rw [first, e, e]

/-! ## The release, by what the line holds -/

/-- What the law of the pool says of pumps and queue alone (R60, R61). -/
structure State.Sharing (s : State) : Prop where
  one : ∀ p q n, s.serves p n → s.serves q n → p = q
  waiting : ∀ p n, s.queued n → ¬s.serves p n
  granted : s.Granted

theorem State.PumpsInOrder.sharing (h : s.PumpsInOrder) : s.Sharing := ⟨h.one, h.waiting, h.granted⟩

theorem State.Sharing.congr (h : s.Sharing) (pumps : t.pumps = s.pumps) (queue : t.queue = s.queue) : t.Sharing := by
  have pump : ∀ p, t.pump p = s.pump p := fun p => congrArg (fun v : Vector Pump 3 => v[p]) pumps
  have serves : ∀ p n, t.serves p n ↔ s.serves p n := fun p n => by rw [State.serves, State.serves, pump]
  have queued : ∀ n, t.queued n ↔ s.queued n := fun n => by rw [State.queued, State.queued, queue]
  refine ⟨fun p q n => ?_, fun p n => ?_, fun p n => ?_⟩
  · rw [serves, serves]; exact h.one p q n
  · rw [serves, queued]; exact h.waiting p n
  · rw [queued, pump]; exact h.granted p n

theorem filter_ne_eq_self {l : List LineId} (h : m ∉ l) : l.filter (· != m) = l :=
  List.filter_eq_self.mpr fun a ha => by simpa using fun e : a = m => h (e ▸ ha)

theorem WaitQueue.remove_eq {q : WaitQueue} (h : ¬(n ∈ q.answer ∨ n ∈ q.originate)) : q.remove n = q := by
  rw [not_or] at h
  rw [WaitQueue.remove, filter_ne_eq_self h.1, filter_ne_eq_self h.2]

/-- What the release leaves of the pool: the pumps and the queue. -/
structure State.PoolReleased (n : LineId) (s t : State) : Prop where
  others : ∀ p, ¬s.serves p n → t.pump p = s.pump p
  settling : ∀ p, s.serves p n → (s.pump p).state = .settling → t.pump p = { s.pump p with line := none }
  queue : (∀ p, s.serves p n → (s.pump p).state ≠ .attached) → t.queue = s.queue.remove n
  idle : ∀ p, s.serves p n → (s.pump p).state = .attached → s.queue = ⟨[], []⟩ →
    t.pump p = Pump.inState .free none ∧ t.queue = s.queue
  granted : ∀ p, s.serves p n → (s.pump p).state = .attached → ∀ m, s.queue.head = some m →
    t.pump p = Pump.inState .settling (some m) ∧ t.queue = s.queue.remove m

/-- The line holds no attached pump: its claim or its settling pump is dropped, and nothing is granted. -/
theorem State.releasePump_unattached (h : s.Sharing) (none : ∀ p, s.serves p n → (s.pump p).state ≠ .attached) :
    (∀ p, (s.releasePump n).pump p = (s.dropClaim n).pump p) ∧ (s.releasePump n).queue = s.queue.remove n := by
  have dropped := s.dropClaim_spec n
  have freed := (s.dropClaim n).freed_spec n
  have same : ∀ q, ((s.dropClaim n).freed n).pump q = (s.dropClaim n).pump q := fun q => by
    rw [freed.pump, if_neg]
    rintro ⟨attached, line⟩
    have serves := ((dropped.serves q n).mp line).1
    rw [dropped.pumpState] at attached
    exact none q serves attached
  have granted : ((s.dropClaim n).freed n).Granted := fun q m queued => by
    rw [same]
    exact dropped.granted h.granted q m ((freed.queued m).mp queued)
  rw [State.releasePump_eq, State.arbitrate_of_granted granted]
  exact ⟨same, freed.queue.trans dropped.queue⟩

/-- The line holds an attached pump: it is freed, and goes to the head of the queue. -/
theorem State.releasePump_attached (h : s.Sharing) (serves : s.serves p n) (attached : (s.pump p).state = .attached) :
    (s.queue.head = none → (s.releasePump n).pump p = Pump.inState .free none ∧ (s.releasePump n).queue = s.queue ∧
      ∀ q, q ≠ p → (s.releasePump n).pump q = s.pump q) ∧
    ∀ m, s.queue.head = some m → (s.releasePump n).pump p = Pump.inState .settling (some m) ∧
      (s.releasePump n).queue = s.queue.remove m ∧ ∀ q, q ≠ p → (s.releasePump n).pump q = s.pump q := by
  have dropped := s.dropClaim_spec n
  have freed := (s.dropClaim n).freed_spec n
  have unsettled : ∀ q, (s.dropClaim n).pump q = s.pump q := fun q => by
    rw [dropped.pump, if_neg]
    rintro ⟨settling, line⟩
    rw [h.one q p n line serves, attached] at settling
    exact nomatch settling
  have queue : ((s.dropClaim n).freed n).queue = s.queue := by
    rw [freed.queue, dropped.queue, WaitQueue.remove_eq fun q => h.waiting p n q serves]
  have here : ((s.dropClaim n).freed n).pump p = Pump.inState .free none := by
    rw [freed.pump, unsettled, if_pos ⟨attached, serves⟩]
  have there : ∀ q, q ≠ p → ((s.dropClaim n).freed n).pump q = s.pump q := fun q other => by
    rw [freed.pump, unsettled, if_neg]
    exact fun k => other (h.one q p n k.2 serves)
  rw [State.releasePump_eq]
  generalize (s.dropClaim n).freed n = u at *
  constructor
  · intro none
    obtain ⟨a, b⟩ := WaitQueue.head_eq_none none
    have granted : u.Granted := fun q m queued => by
      rw [State.queued, queue, a, b] at queued
      simp at queued
    rw [State.arbitrate_of_granted granted]
    exact ⟨here, queue, there⟩
  · intro m head
    have only : ∀ q, (u.pump q).state = .free → q = p := fun q free => by
      by_contra other
      rw [there q other] at free
      exact h.granted q m (WaitQueue.head_eq_some head) free
    rw [State.arbitrate_of_one (by rw [here]; rfl) only (queue ▸ head), ← queue]
    refine ⟨?_, rfl, fun q other => ?_⟩
    · rw [State.granting, State.pump_onPump_self]
    · rw [State.granting, State.pump_onPump_ne _ other]
      exact there q other

theorem State.poolReleased (h : s.Sharing) (n : LineId) : State.PoolReleased n s (s.releasePump n) := by
  have unsettled : ∀ q, ¬(s.serves q n ∧ (s.pump q).state = .settling) → (s.dropClaim n).pump q = s.pump q := fun q k => by
    rw [(s.dropClaim_spec n).pump, if_neg fun x => k ⟨x.2, x.1⟩]
  by_cases held : ∃ p, s.serves p n ∧ (s.pump p).state = .attached
  · obtain ⟨p, serves, attached⟩ := held
    obtain ⟨empty, waiting⟩ := State.releasePump_attached h serves attached
    have is : ∀ q, s.serves q n → q = p := fun q k => h.one q p n k serves
    refine ⟨fun q k => ?_, fun q k settling => ?_, fun none => absurd attached (none p serves), fun q k _ none => ?_,
      fun q k _ m head => ?_⟩
    · have other : q ≠ p := fun e => k (e ▸ serves)
      cases head : s.queue.head with
      | none => exact (empty head).2.2 q other
      | some m => exact (waiting m head).2.2 q other
    · rw [is q k, attached] at settling
      exact nomatch settling
    · rw [is q k]
      obtain ⟨pump, queue, -⟩ := empty (by rw [none]; rfl)
      exact ⟨pump, queue⟩
    · rw [is q k]
      obtain ⟨pump, queue, -⟩ := waiting m head
      exact ⟨pump, queue⟩
  · have none : ∀ p, s.serves p n → (s.pump p).state ≠ .attached := fun p k e => held ⟨p, k, e⟩
    obtain ⟨pumps, queue⟩ := State.releasePump_unattached h none
    refine ⟨fun q k => ?_, fun q k settling => ?_, fun _ => queue, fun q k e => absurd e (none q k), fun q k e => absurd e (none q k)⟩
    · rw [pumps, unsettled q fun x => k x.1]
    · rw [pumps, (s.dropClaim_spec n).pump, if_pos ⟨settling, k⟩]

/-- What a release leaves of the pool, for another state with the same pool. -/
theorem State.PoolReleased.after {v : State} (h : State.PoolReleased n s t) (pumps : v.pumps = t.pumps) (queue : v.queue = t.queue) :
    State.PoolReleased n s v := by
  have pump : ∀ p, v.pump p = t.pump p := fun p => congrArg (fun v : Vector Pump 3 => v[p]) pumps
  obtain ⟨others, settling, unattached, idle, granted⟩ := h
  constructor <;> simpa only [pump, queue]

/-- What a release leaves of the pool, seen from before a change of what an attached pump of the line does. -/
theorem State.PoolReleased.before {u : State} (h : State.PoolReleased n s t) (serves : ∀ p, s.serves p n ↔ u.serves p n)
    (state : ∀ p, (s.pump p).state = (u.pump p).state) (queue : s.queue = u.queue)
    (pump : ∀ p, ¬(u.serves p n ∧ (u.pump p).state = .attached) → s.pump p = u.pump p) : State.PoolReleased n u t := by
  obtain ⟨others, settling, unattached, idle, granted⟩ := h
  refine ⟨fun p k => ?_, fun p k e => ?_, fun none => ?_, fun p k e empty => ?_, fun p k e m head => ?_⟩
  · rw [others p (by rw [serves]; exact k), pump p fun x => k x.1]
  · rw [settling p ((serves p).mpr k) (by rw [state]; exact e), pump p fun x => by rw [e] at x; exact nomatch x.2]
  · rw [unattached fun p k => by rw [state]; exact none p ((serves p).mp k), queue]
  · rw [← queue]
    exact idle p ((serves p).mpr k) (by rw [state]; exact e) (by rw [queue]; exact empty)
  · rw [← queue]
    exact granted p ((serves p).mpr k) (by rw [state]; exact e) m (by rw [queue]; exact head)

theorem WaitQueue.head_answer {q : WaitQueue} {rest : List LineId} (once : (q.answer ++ q.originate).Nodup)
    (h : q.answer = m :: rest) : q.head = some m ∧ q.remove m = ⟨rest, q.originate⟩ := by
  rw [h] at once
  have fresh : m ∉ rest ++ q.originate := (List.nodup_cons.mp once).1
  rw [List.mem_append, not_or] at fresh
  refine ⟨by rw [WaitQueue.head, h]; rfl, ?_⟩
  rw [WaitQueue.remove, h, List.filter_cons_of_neg (by simp), filter_ne_eq_self fresh.1, filter_ne_eq_self fresh.2]

theorem WaitQueue.head_originate {q : WaitQueue} {rest : List LineId} (once : (q.answer ++ q.originate).Nodup)
    (none : q.answer = []) (h : q.originate = m :: rest) : q.head = some m ∧ q.remove m = ⟨[], rest⟩ := by
  rw [none, h] at once
  have fresh : m ∉ rest := (List.nodup_cons.mp once).1
  refine ⟨by rw [WaitQueue.head, none, h]; rfl, ?_⟩
  rw [WaitQueue.remove, none, h, List.filter_cons_of_neg (by simp), filter_ne_eq_self fresh]
  rfl

end Sys2Proof.Machine

/-! The commands that end a call (01 R13): each is a clear decision, with at most a claim dropped, a pump's carrier marked lost, the marks
of a fault, or the card of an order before it, and the answer of its order after it. -/

namespace Sys2Proof.Machine

set_option Elab.async false

variable {n : LineId} {s t u v : State} {o : CallOutcome} {c : Instr}

/-! ## The order in hand and the long orders -/

/-- Card `j` of a table is one of a long order not yet answered (10 R174). -/
def State.LongCard (s : State) : TableId → Nat → Prop
  | .line n, j => j ∈ (s.line n).longCards
  | .engine, j => ∃ g, (s.slot g).unloadCard = some j

/-- The order that comes next is no long order already taken. -/
theorem State.LongOrdersTaken.ne {T : TableId} {i j : Nat} {codes : Nat → Bool} (h : s.LongOrdersTaken)
    (takes : s.takesCard T i codes = true) (long : s.LongCard T j) : j ≠ i := by
  rintro rfl
  obtain ⟨-, -, comes, -⟩ := State.takesCard_iff.mp takes
  have hand : (s.table T).hand j = (s.card T j).hand := rfl
  rcases OrderTable.comesTo_iff.mp comes with ⟨⟨rest, waits⟩, -⟩ | ⟨-, -, posted⟩
  · cases T with
    | line n =>
      have waits : j ∈ (s.line n).table.waiting := by
        have e : (s.line n).table.waiting = j :: rest := waits
        rw [e]
        exact List.mem_cons_self
      exact (List.nodup_append.mp (h.once n)).2.2 j long j waits rfl
    | engine =>
      have waits : j ∈ s.engTable.waiting := by
        have e : s.engTable.waiting = j :: rest := waits
        rw [e]
        exact List.mem_cons_self
      obtain ⟨g, held⟩ := long
      exact (h.waiting j waits).2 g held
  · rw [hand] at posted
    cases T with
    | line n => exact absurd (posted.symm.trans (h.taken n j (List.mem_append_left _ long))) (by decide)
    | engine =>
      obtain ⟨g, held⟩ := long
      exact absurd (posted.symm.trans (h.unload g j held)) (by decide)

/-! ## Before and after the clear decision -/

/-- The state at the clear decision of a command. -/
structure Onset (n : LineId) (s u : State) : Prop extends LineEffect n s u where
  only : Only n [.fm, .ev, .table, .engTable, .claim, .pumps, .queue] s u
  cards_kept : s.LongOrdersTaken → ∀ T j, s.LongCard T j → u.card T j = s.card T j
  held : (u.heldPump n).isSome = (s.heldPump n).isSome
  pool : s.PumpsInOrder → ∀ x : State, x.pumps = u.pumps → x.queue = u.queue → State.PoolReleased n s (x.releasePump n)

/-- What the command leaves after its call-end sequence: the answer of an order, or nothing more. -/
structure Outset (n : LineId) (s u v : State) : Prop extends LineEffect n u v where
  only : Only n [.ev, .table, .engTable, .event] u v
  cards_kept : s.LongOrdersTaken → ∀ T j, s.LongCard T j → v.card T j = u.card T j

theorem Outset.refl : Outset n s u u := ⟨.refl, .refl, fun _ _ _ _ => rfl⟩

theorem State.PoolReleased.of_same (h : s.PumpsInOrder) (pumps : t.pumps = s.pumps) (queue : t.queue = s.queue) :
    State.PoolReleased n s (t.releasePump n) :=
  have pump : ∀ p, t.pump p = s.pump p := fun p => congrArg (fun v : Vector Pump 3 => v[p]) pumps
  (State.poolReleased (h.sharing.congr pumps queue) n).before (fun p => by rw [State.serves, State.serves, pump])
    (fun p => by rw [pump]) queue fun p _ => pump p

/-- A command whose call stands as it was. -/
theorem Onset.refl : Onset n s s := ⟨.refl, .refl, fun _ _ _ _ => rfl, rfl, fun h _ => .of_same h⟩

/-- Every card stands where the tables do. -/
theorem Only.card_any {F : List Piece} (h : Only n F s t) (T : TableId) (j : Nat) (table : .table ∉ F := by decide)
    (engTable : .engTable ∉ F := by decide) (others : .others ∉ F := by decide) : t.card T j = s.card T j := by
  refine State.card_congr ?_ j
  cases T with
  | line m =>
    by_cases e : m = n
    · subst e
      exact h.of .table table
    · exact congrArg Line.table (h.line_of e others)
  | engine => exact h.of .engTable engTable

/-- The marks of a fault before the clear decision. -/
theorem Onset.marked (h : Onset n s t) (l : LineEffect n t u) (only : Only n [.fm, .ev] t u) : Onset n s u := by
  have call : (u.line n).call = (t.line n).call := only.of .call
  have pumps : u.pumps = t.pumps := only.of .pumps
  have queue : u.queue = t.queue := only.of .queue
  refine ⟨h.toLineEffect.trans l, h.only.trans only, fun long T j k => ?_, ?_, fun order x p q => h.pool order x (p.trans pumps) (q.trans queue)⟩
  · rw [only.card_any T j, h.cards_kept long T j k]
  · rw [State.heldPump_congr (by rw [call]) pumps, h.held]

theorem Only.taking (s : State) (n : LineId) (i : Nat) : Only n [.table] s (s.taking (.line n) i) :=
  .onLine s n (f := fun l => { l with table := l.table.taking i })

theorem State.card_taking_other (s : State) {T T' : TableId} (other : T' ≠ T) (i j : Nat) :
    (s.taking T i).card T' j = s.card T' j := State.card_congr (by rw [State.taking, State.table_onTable, if_neg other]) j

/-- The card of the command's order taken. -/
theorem Onset.taking {i : Nat} {codes : Nat → Bool} (takes : s.takesCard (.line n) i codes = true) :
    Onset n s (s.taking (.line n) i) := by
  refine ⟨LineEffect.refl.taking i, (Only.taking s n i).mono, fun long T j k => ?_, ?_, fun h _ => .of_same h⟩
  · by_cases e : T = .line n
    · subst e
      exact (s.card_taking (.line n) i j).2 (long.ne takes k)
    · exact s.card_taking_other e i j
  · exact congrArg Option.isSome (State.heldPump_congr (by rw [State.call_line_taking]) rfl)

theorem Onset.takingEngine {i : Nat} {codes : Nat → Bool} (takes : s.takesCard .engine i codes = true) :
    Onset n s (s.taking .engine i) := by
  have only : Only n [.engTable] s (s.taking .engine i) := .beside rfl
  refine ⟨LineEffect.refl.takingEngine i, only.mono, fun long T j k => ?_, rfl, fun h _ => .of_same h⟩
  by_cases e : T = .engine
  · subst e
    exact (s.card_taking .engine i j).2 (long.ne takes k)
  · exact s.card_taking_other e i j

theorem State.card_answer_other (s : State) {T T' : TableId} (other : T' ≠ T) (i j : Nat) (st : Status) (r : Nat) (fs : List Byte) :
    (s.answer T i st r fs).card T' j = s.card T' j := by
  refine State.card_congr ?_ j
  cases T with
  | line n =>
    cases T' with
    | line m =>
      have ne : m ≠ n := fun e => other (congrArg TableId.line e)
      have same : (s.answer (.line n) i st r fs).line m = s.line m := (Only.answer s n i st r fs).line_of ne
      exact congrArg Line.table same
    | engine => exact (Only.answer s n i st r fs).of .engTable
  | engine =>
    cases T' with
    | line m => rfl
    | engine => exact absurd rfl other

/-- The answer of an order of the line. -/
theorem Outset.answer {i : Nat} {codes : Nat → Bool} (takes : s.takesCard (.line n) i codes = true) (u : State) (st : Status) (r : Nat)
    (fs : List Byte) : Outset n s u (u.answer (.line n) i st r fs) := by
  refine ⟨LineEffect.refl.answer i st r fs, (Only.answer u n i st r fs).mono, fun long T j k => ?_⟩
  by_cases e : T = .line n
  · subst e
    exact State.card_answer_ne u (.line n) (long.ne takes k) st r fs
  · exact State.card_answer_other u e i j st r fs

theorem Outset.answerEngine {i : Nat} {codes : Nat → Bool} (takes : s.takesCard .engine i codes = true) (u : State) (st : Status) (r : Nat)
    (fs : List Byte) : Outset n s u (u.answer .engine i st r fs) := by
  refine ⟨LineEffect.refl.answerEngine i st r fs, (Only.answerEngine u n i st r fs).mono, fun long T j k => ?_⟩
  by_cases e : T = .engine
  · subst e
    exact State.card_answer_ne u .engine (long.ne takes k) st r fs
  · exact State.card_answer_other u e i j st r fs

/-- A claim dropped. -/
theorem Onset.dropClaim (s : State) (n : LineId) : Onset n s (s.dropClaim n) := by
  have only := Only.dropClaim s n
  have dropped := s.dropClaim_spec n
  have line := s.line_dropClaim n
  refine ⟨LineEffect.refl.dropClaim, only.mono, fun _ T j _ => ?_, ?_, fun order x pumps queue => ?_⟩
  · refine State.card_congr ?_ j
    cases T with
    | line m =>
      have same := dropped.line m
      by_cases e : m = n
      · rw [if_pos e] at same
        subst e
        exact (congrArg Line.table same :)
      · rw [if_neg e] at same
        exact congrArg Line.table same
    | engine => exact only.of .engTable
  · unfold State.heldPump
    rw [line]
    dsimp only
    split
    next p _ =>
      have pump := dropped.pump p
      by_cases e : (s.pump p).state = .settling ∧ (s.pump p).line = some n
      · rw [if_pos e] at pump
        rw [pump]
        simp [e.1]
      · rw [if_neg e] at pump
        rw [pump]
    · rfl
  · have unclaimed : (s.dropClaim n).Sharing := by
      refine ⟨fun p q m k l => ?_, fun p m k l => ?_, dropped.granted order.granted⟩
      · exact order.one p q m ((dropped.serves p m).mp k).1 ((dropped.serves q m).mp l).1
      · exact order.waiting p m ((dropped.queued m).mp k).2 ((dropped.serves p m).mp l).1
    have again : x.Sharing := unclaimed.congr pumps queue
    have pump : ∀ p, x.pump p = (s.dropClaim n).pump p := fun p => congrArg (fun v : Vector Pump 3 => v[p]) pumps
    have serves : ∀ p, x.serves p n ↔ s.serves p n ∧ (s.pump p).state ≠ .settling := fun p => by
      rw [State.serves, pump]
      exact (dropped.serves p n).trans (by simp)
    obtain ⟨others, -, unattached, idle, granted⟩ := State.poolReleased again n
    have rest : ∀ p, ¬(s.serves p n ∧ (s.pump p).state = .settling) → x.pump p = s.pump p := fun p k => by
      rw [pump, dropped.pump, if_neg fun y => k ⟨y.2, y.1⟩]
    have queues : x.queue = s.queue.remove n := queue.trans dropped.queue
    have unqueued : ∀ p, s.serves p n → x.queue = s.queue := fun p k => by
      rw [queues, WaitQueue.remove_eq fun y => order.waiting p n y k]
    refine ⟨fun p k => ?_, fun p k e => ?_, fun none => ?_, fun p k e empty => ?_, fun p k e m head => ?_⟩
    · rw [others p fun y => k ((serves p).mp y).1, rest p fun y => k y.1]
    · rw [others p fun y => ((serves p).mp y).2 e, pump, dropped.pump, if_pos ⟨e, k⟩]
    · rw [unattached fun p k => ?_, queues]
      · simp [WaitQueue.remove]
      · obtain ⟨k, e⟩ := (serves p).mp k
        rw [rest p fun y => e y.2]
        exact none p k
    · rw [← unqueued p k] at empty ⊢
      exact idle p ((serves p).mpr ⟨k, by rw [e]; decide⟩) (by rw [rest p fun y => by rw [e] at y; exact nomatch y.2]; exact e) empty
    · rw [← unqueued p k] at head ⊢
      exact granted p ((serves p).mpr ⟨k, by rw [e]; decide⟩) (by rw [rest p fun y => by rw [e] at y; exact nomatch y.2]; exact e) m head

/-- The carrier of the line's pump marked lost, or another change of what the pump does. -/
theorem Onset.onHeldPump (s : State) (n : LineId) (f : Pump → Pump) (hf : ∀ q, (f q).state = q.state ∧ (f q).line = q.line) :
    Onset n s (s.onHeldPump n f) := by
  cases held : s.heldPump n with
  | none =>
    have same : s.onHeldPump n f = s := by rw [State.onHeldPump, held]
    rw [same]
    exact .refl
  | some p =>
    have changed : s.onHeldPump n f = s.onPump p f := by rw [State.onHeldPump, held]
    have pump : ∀ q, ((s.onPump p f).pump q).state = (s.pump q).state ∧ ((s.onPump p f).pump q).line = (s.pump q).line := fun q => by
      rw [State.pump_onPump]
      split
      next e =>
        subst e
        exact hf _
      · exact ⟨rfl, rfl⟩
    have serves : ∀ q m, (s.onPump p f).serves q m ↔ s.serves q m := fun q m => by rw [State.serves, State.serves, (pump q).2]
    have works : (s.pump p).state = .attached ∧ (s.pump p).line = some n := by
      unfold State.heldPump at held
      split at held
      next q _ =>
        split at held
        next k =>
          obtain rfl := Option.some.inj held
          exact k
        · exact nomatch held
      · exact nomatch held
    rw [changed]
    refine ⟨LineEffect.refl.onPump p f, (Only.onPump s n p f).mono, fun _ _ _ _ => rfl, ?_, fun order x pumps queue => ?_⟩
    · unfold State.heldPump
      have call : ((s.onPump p f).line n).call = (s.line n).call := rfl
      rw [call]
      split
      next q _ => rw [(pump q).1, (pump q).2]
      · rfl
    · have sharing : (s.onPump p f).Sharing := by
        refine ⟨fun a b m k l => ?_, fun a m k l => ?_, fun a m k => ?_⟩
        · exact order.one a b m ((serves a m).mp k) ((serves b m).mp l)
        · exact order.waiting a m k ((serves a m).mp l)
        · rw [(pump a).1]
          exact order.granted a m k
      have after : ∀ q, x.pump q = (s.onPump p f).pump q := fun q => congrArg (fun v : Vector Pump 3 => v[q]) pumps
      refine (State.poolReleased (sharing.congr pumps queue) n).before (fun q => ?_) (fun q => ?_) queue fun q k => ?_
      · rw [State.serves, after]
        exact serves q n
      · rw [after, (pump q).1]
      · rw [after, State.pump_onPump_ne]
        rintro rfl
        exact k ⟨works.2, works.1⟩

/-! ## The commands -/

/-- A fault that the call does not survive, by the clear decision that ends it. -/
theorem State.fault_onset (k : FaultKind) (takes : (s.line n).takesFault false = true) :
    ∃ u, s.fault n k = u.clearDecision n (.fault k) ∧ LineEffect n s u ∧ Only n [.fm, .ev] s u := by
  have noted : ∀ f, LineEffect n s (s.onFm n f) ∧ Only n [.fm, .ev] s (s.onFm n f) := fun f =>
    ⟨LineEffect.refl.onFm f, (Only.onFm s n f).mono⟩
  have raised : ∀ f, LineEffect n s ((s.onFm n f).raise n .fault) ∧ Only n [.fm, .ev] s ((s.onFm n f).raise n .fault) := fun f =>
    ⟨(LineEffect.refl.onFm f).raise _, (Only.onFm s n f).trans (Only.raise _ n _)⟩
  have marked : ∀ f g, LineEffect n s (((s.onFm n f).raise n .fault).onFm n g) ∧
      Only n [.fm, .ev] s (((s.onFm n f).raise n .fault).onFm n g) := fun f g =>
    ⟨(raised f).1.onFm g, (raised f).2.trans (Only.onFm _ n g)⟩
  unfold State.fault State.takeFault
  simp only [takes, if_true]
  generalize appliedPolicy _ _ _ _ = policy
  cases policy
  case report => exact ⟨_, rfl, raised _⟩
  case silent =>
    rw [if_pos rfl]
    exact ⟨_, rfl, noted _⟩
  case latch => exact ⟨_, rfl, marked _ _⟩
  case retry => exact ⟨_, rfl, marked _ _⟩

/-- A command that reports a fault and nothing after it. -/
theorem Onset.fault {k : FaultKind} (run : exec c s = done s (t.fault n k)) (h : Onset n s t)
    (takes : (t.line n).takesFault false = true) :
    ∃ u v, exec c s = .next (s.commit v) ∧ Onset n s u ∧ Outset n s (u.clearDecision n (.fault k)) v := by
  obtain ⟨u, e, effect, only⟩ := State.fault_onset k takes
  rw [e] at run
  exact ⟨u, _, run, h.marked effect only, .refl⟩

/-- A command that clears the call. -/
theorem Onset.clears (run : exec c s = done s (s.clearDecision n o)) :
    ∃ u v, exec c s = .next (s.commit v) ∧ Onset n s u ∧ Outset n s (u.clearDecision n o) v := ⟨s, _, run, .refl, .refl⟩

theorem EndsCall.onset (h : EndsCall c n o s) :
    ∃ u v, exec c s = .next (s.commit v) ∧ Onset n s u ∧ Outset n s (u.clearDecision n o) v := by
  unfold EndsCall at h
  dsimp only at h
  rcases h with ⟨i, rfl, takes, inCall, rfl⟩ | ⟨i, rfl, takes, number, inCall, rfl⟩ | ⟨rfl, measures, -, rfl⟩ |
    ⟨rfl, ⟨state, runs⟩, rfl⟩ | ⟨rfl, ⟨state, runs⟩, rfl⟩ | ⟨rfl, state, phase, rfl⟩ | ⟨rfl, ⟨state, runs⟩, rfl⟩ |
    ⟨rfl, hook, state, runs, rfl⟩ | ⟨rfl, hook, held, runs, rfl⟩ | ⟨rfl, hook, measures, loop, rfl⟩ |
    ⟨rfl, call, step, ⟨k, claim, runs⟩, rfl⟩
  · have run := exec_hangup_effect takes (other := fun e => by
      rcases inCall with k | k | k <;> rw [e] at k <;> exact absurd k (by decide))
    rw [State.hangupEffect_call (by rw [Line.inCall, State.call_line_taking]; exact inCall)] at run
    exact ⟨_, _, run, .taking takes, .answer takes _ _ _ _⟩
  · have run := exec_clearLine_hangs takes number (other := fun e => by
      rcases inCall with k | k | k <;> rw [e] at k <;> exact absurd k (by decide))
    rw [State.hangupEffect_call (u := s.taking .engine i.val) inCall] at run
    exact ⟨_, _, run, .takingEngine takes, .answerEngine takes _ _ _ _⟩
  · exact Onset.clears (congrArg (done s) (if_pos measures))
  · exact Onset.clears (congrArg (done s) (if_pos (Line.expires_of state runs)))
  · exact Onset.refl.fault (congrArg (done s) (if_pos (Line.expires_of state runs))) (Line.takesFault_of (Line.inCall_of state))
  · exact Onset.refl.fault (congrArg (done s) (if_pos (by simp [Line.dialsAt, state, phase]))) (Line.takesFault_of (Line.inCall_of state))
  · exact Onset.refl.fault (congrArg (done s) (if_pos (Line.expires_of state runs))) (Line.takesFault_of (Line.inCall_of state))
  · exact Onset.refl.fault (congrArg (done s) (if_pos ⟨state, runs⟩)) (Line.takesFault_of (.inr (.inr hook)))
  · exact Onset.refl.fault (congrArg (done s) (if_pos ⟨held, runs⟩)) (Line.takesFault_of (.inr (.inr hook)))
  · have run : exec (.carrierLossExpiry n) s = done s (s.carrierLoss n) := rfl
    rw [State.carrierLoss, if_pos measures] at run
    simp only [State.line_onHeldPump, loop, Bool.false_eq_true, if_false] at run
    have lost := Onset.onHeldPump s n (fun q => { q with carrierTimer := .stopped, attemptTimer := .stopped, carrierLost := true })
      fun q => ⟨rfl, rfl⟩
    refine lost.fault run (Line.takesFault_of (.inr (.inr ?_)))
    rw [State.line_onHeldPump]
    exact hook
  · have run : exec (.claimWaitExpiry n) s = done s (s.claimWaitExpiry n) := rfl
    have line := s.line_dropClaim n
    have expires : s.claimWaitExpiry n = (s.dropClaim n).fault n .noPump := by
      simp only [State.claimWaitExpiry, claim, runs, if_true, State.expireClaim, line, step, if_false]
    rw [expires] at run
    exact (Onset.dropClaim s n).fault run (Line.takesFault_of (.inr (by rw [line]; exact call)))

end Sys2Proof.Machine

/-! A call that ends by a command: the state at its call-end sequence, and what is left of it when the command is over. -/

namespace Sys2Proof.Machine

set_option Elab.async false

variable {n : LineId} {s u v x : State} {o : CallOutcome} {c : Instr} {T : TableId} {i j : Nat} {st : Status} {r k : Nat}
  {fs : List Byte}

/-! ## The decided state -/

theorem State.outputs_closeWindow (s : State) (n : LineId) : (s.closeWindow n).outputs = s.outputs := (Only.closeWindow s n).of .outputs

/-- One LINK-CLOSE goes to the pump of a link that is UP, but for a remote clear. -/
theorem State.outputs_decided (s : State) (n : LineId) (o : CallOutcome) : (s.decided n o).outputs =
    if (s.line n).link.state = .up ∧ o ≠ .remoteCleared ∧ s.heldPump n ≠ none then
      s.outputs ++ [.linkBytes n (Wire.onLine .linkClose)]
    else s.outputs := by
  have after : Only n [.call, .ctl] ((s.closeWindow n).sendLinkClose n o) (s.decided n o) :=
    ((Only.onCall _ n _).trans (Only.enter _ n _ _) (H := [.call, .ctl])).trans (Only.onCtl _ n _)
  have sent : (s.decided n o).outputs = ((s.closeWindow n).sendLinkClose n o).outputs := after.of .outputs
  have link : ((s.closeWindow n).line n).link = (s.line n).link := (Only.closeWindow s n).of .link
  obtain ⟨-, -, -, record, call⟩ := s.closeWindow_keeps n
  have held : (s.closeWindow n).heldPump n = s.heldPump n :=
    State.heldPump_congr (by rw [call]) ((Only.closeWindow s n).of .pumps)
  rw [sent, State.sendLinkClose, link, held]
  split
  · exact congrArg (· ++ [Output.linkBytes n (Wire.onLine .linkClose)]) (s.outputs_closeWindow n)
  · exact s.outputs_closeWindow n

theorem State.dec_decided (s : State) (n : LineId) (o : CallOutcome) : ((s.decided n o).line n).dec = ⟨false, none⟩ := by
  have after : Only n [.outputs, .call, .ctl] (s.closeWindow n) (s.decided n o) :=
    (((Only.sendLinkClose _ n o).trans (Only.onCall _ n _) (H := [.outputs, .call])).trans (Only.enter _ n _ _)
      (H := [.outputs, .call, .ctl])).trans (Only.onCtl _ n _)
  have same : ((s.decided n o).line n).dec = ((s.closeWindow n).line n).dec := after.of .dec
  rw [same]
  unfold State.closeWindow State.fileCaller
  dsimp only
  split <;> simp

/-- The decided state keeps the cards of DIAL and ANSWER, and of the call record all but state, outcome and caller. -/
theorem State.line_decided (s : State) (n : LineId) (o : CallOutcome) :
    ((s.decided n o).line n).ctl.dialCard = (s.line n).ctl.dialCard ∧
      ((s.decided n o).line n).ctl.answerCard = (s.line n).ctl.answerCard ∧
      ∃ r, ((s.decided n o).line n).call = { (s.line n).call with state := .clearing, lastOutcome := o, caller := r } := by
  have before : Only n [.dec, .call, .ev, .outputs] s ((s.closeWindow n).sendLinkClose n o) :=
    (Only.closeWindow s n).trans (Only.sendLinkClose _ n o)
  have ctl : (((s.closeWindow n).sendLinkClose n o).line n).ctl = (s.line n).ctl := before.of .ctl
  have same : (((s.closeWindow n).sendLinkClose n o).line n).call = ((s.closeWindow n).line n).call :=
    (Only.sendLinkClose (s.closeWindow n) n o).of .call
  obtain ⟨-, -, -, record, call⟩ := s.closeWindow_keeps n
  rw [call] at same
  unfold State.decided
  generalize (s.closeWindow n).sendLinkClose n o = y at *
  rw [State.line_onCtl_self, State.enter_eq_onLine, State.line_onLine_self, State.line_onCall_self]
  dsimp only [Line.entered]
  rw [ctl, same]
  exact ⟨rfl, rfl, record, rfl⟩

theorem LineEffect.decided (s : State) (n : LineId) (o : CallOutcome) : LineEffect n s (s.decided n o) :=
  (((LineEffect.refl.closeWindow.sendLinkClose o).onCall).enter _ _).onCtl _

/-! ## A call that ends -/

/-- The state `x` at the call-end sequence of a command on line `n`, and the state `v` when the command is over. -/
structure Ending (n : LineId) (o : CallOutcome) (s x v : State) : Prop where
  before : Only n [.fm, .ev, .table, .engTable, .claim, .pumps, .queue, .dec, .call, .outputs, .ctl] s x
  effect : LineEffect n s x
  cards : s.LongOrdersTaken → ∀ T j, s.LongCard T j → x.card T j = s.card T j
  dialCard : (x.line n).ctl.dialCard = (s.line n).ctl.dialCard
  answerCard : (x.line n).ctl.answerCard = (s.line n).ctl.answerCard
  call : ∃ r, (x.line n).call = { (s.line n).call with state := .clearing, lastOutcome := o, caller := r }
  dec : (x.line n).dec = ⟨false, none⟩
  outputs : x.outputs =
    if (s.line n).link.state = .up ∧ o ≠ .remoteCleared ∧ s.heldPump n ≠ none then
      s.outputs ++ [.linkBytes n (Wire.onLine .linkClose)]
    else s.outputs
  pool : s.PumpsInOrder → State.PoolReleased n s (x.releasePump n)
  cleared : State.Cleared n o s (x.callEnd n o)
  declined : (s.line n).call.state = .alerting → (x.line n).ctl.declined = true
  after : Outset n s (x.callEnd n o) v

theorem EndsCall.ending (h : EndsCall c n o s) : ∃ x v, exec c s = .next (s.commit v) ∧ Ending n o s x v := by
  obtain ⟨u, v, run, onset, outset⟩ := h.onset
  have only := onset.only
  have call : (u.line n).call = (s.line n).call := only.of .call
  have profile : (u.line n).profile = (s.line n).profile := only.of .profile
  have ctl : (u.line n).ctl = (s.line n).ctl := only.of .ctl
  have link : (u.line n).link = (s.line n).link := only.of .link
  have outputs : u.outputs = s.outputs := only.of .outputs
  have decided := Only.decided u n o
  obtain ⟨dialCard, answerCard, record, called⟩ := u.line_decided n o
  refine ⟨u.decided n o, v, run, only.trans decided, onset.toLineEffect.trans (LineEffect.decided u n o), fun long T j k => ?_,
    by rw [dialCard, ctl], by rw [answerCard, ctl], ⟨record, by rw [called, call]⟩, u.dec_decided n o, ?_,
    fun order => onset.pool order _ (decided.of .pumps) (decided.of .queue),
    (u.clearDecision_spec n o).before call profile onset.tick onset.events onset.aside, fun alerting => ?_, outset⟩
  · rw [decided.card_any T j, onset.cards_kept long T j k]
  · have held : u.heldPump n ≠ none ↔ s.heldPump n ≠ none := by
      rw [← Option.isSome_iff_ne_none, ← Option.isSome_iff_ne_none, onset.held]
    rw [State.outputs_decided, link, outputs]
    simp only [held]
  · rw [State.decided, State.line_onCtl_self]
    simp [call, alerting]

namespace Ending

variable (h : Ending n o s x v)
include h

theorem tick : x.hdr.tick = s.hdr.tick := h.effect.tick

theorem length : (x.line n).table.cards.length = (s.line n).table.cards.length := h.effect.cards (.line n)

theorem link : (x.line n).link = (s.line n).link := h.before.of .link
theorem fax : (x.line n).fax = (s.line n).fax := h.before.of .fax
theorem voice : (x.line n).voice = (s.line n).voice := h.before.of .voice

theorem serviceCards : (x.line n).serviceCards = (s.line n).serviceCards := by
  unfold Line.serviceCards Line.recordCards
  rw [h.link, h.fax, h.voice]

/-- What the call-end sequence answers for a long order stands answered. -/
theorem answered (long : s.LongOrdersTaken) (mine : s.LongCard T j) (own : T = .line n ∨ T = .engine)
    (a : State.Answered T j st r k fs x (x.callEnd n o)) : State.Answered T j st r k fs s (s.commit v) :=
  ((a.later h.after.toLineEffect own (h.after.cards_kept long T j mine)).before h.tick).commit

/-- A card of a long order that the call-end sequence leaves alone stands. -/
theorem stands (long : s.LongOrdersTaken) (mine : s.LongCard T j) (e : (x.callEnd n o).card T j = x.card T j) :
    (s.commit v).card T j = s.card T j := by
  rw [State.card_commit, h.after.cards_kept long T j mine, e, h.cards long T j mine]

end Ending

end Sys2Proof.Machine

/-! O30: the end of a call, what the Line Controller and the pool do (01 R13 to R16; 03 R58; 04 R64, R65; 05 R93). -/

namespace Sys2Proof.Machine

set_option Elab.async false

variable {n : LineId} {s x v : State} {o : CallOutcome} {i : Nat}

/-! ## The units -/

/-- What the call-end sequence does after the release of the pump touches neither pool nor the line's marks of a call. -/
theorem Only.released (s : State) (n : LineId) (o : CallOutcome) : Only n [.grade, .call, .link, .store, .table, .ev, .recv, .delivered,
    .outputs, .fax, .draws, .others, .messages, .voice, .slots, .engTable, .event, .seq, .dialler, .prog, .ctl]
    (s.releasePump n) (s.callEnd n o) := by
  have torn : Only n [.grade, .link, .store, .table, .ev, .recv, .delivered, .outputs, .fax, .draws, .others, .messages, .voice, .slots,
      .engTable, .event] (s.releasePump n) (s.tornDown n o) :=
    (((Only.onGrade _ n _).trans (Only.linkTeardown _ n o)
      (H := [.grade, .link, .store, .table, .ev, .recv, .delivered, .outputs])).trans (Only.faxTeardown _ n o)
      (H := [.grade, .link, .store, .table, .ev, .recv, .delivered, .outputs, .fax, .draws, .others])).trans (Only.voiceTeardown _ n o)
  have rest : Only n [.call, .seq, .dialler, .prog, .table, .ev, .ctl] (s.tornDown n o) (s.callEnd n o) :=
    (((Only.stopUnits _ n).trans (Only.answerCallCards _ n o) (H := [.call, .seq, .dialler, .prog, .table, .ev, .ctl])).trans
      (Only.onCall _ n _) (H := [.call, .seq, .dialler, .prog, .table, .ev, .ctl])).trans (Only.raise _ n _)
  exact torn.trans rest

theorem State.pumps_callEnd (s : State) (n : LineId) (o : CallOutcome) : (s.callEnd n o).pumps = (s.releasePump n).pumps :=
  (Only.released s n o).of .pumps

theorem State.queue_callEnd (s : State) (n : LineId) (o : CallOutcome) : (s.callEnd n o).queue = (s.releasePump n).queue :=
  (Only.released s n o).of .queue

theorem State.grade_callEnd (s : State) (n : LineId) (o : CallOutcome) :
    ((s.callEnd n o).line n).grade = { (s.line n).grade with rate := .settled, seedPending := false } := by
  have released : ((s.releasePump n).line n).grade = (s.line n).grade := (Only.releasePump s n).of .grade
  have after : Only n [.call, .link, .store, .table, .ev, .recv, .delivered, .outputs, .fax, .draws, .others, .messages, .voice,
      .slots, .engTable, .event, .seq, .dialler, .prog, .ctl] ((s.releasePump n).onGrade n Grade.ended) (s.callEnd n o) := by
    have torn : Only n [.link, .store, .table, .ev, .recv, .delivered, .outputs, .fax, .draws, .others, .messages, .voice, .slots,
        .engTable, .event] ((s.releasePump n).onGrade n Grade.ended) (s.tornDown n o) :=
      ((Only.linkTeardown _ n o).trans (Only.faxTeardown _ n o)
        (H := [.link, .store, .table, .ev, .recv, .delivered, .outputs, .fax, .draws, .others])).trans (Only.voiceTeardown _ n o)
    have rest : Only n [.call, .seq, .dialler, .prog, .table, .ev, .ctl] (s.tornDown n o) (s.callEnd n o) :=
      (((Only.stopUnits _ n).trans (Only.answerCallCards _ n o) (H := [.call, .seq, .dialler, .prog, .table, .ev, .ctl])).trans
        (Only.onCall _ n _) (H := [.call, .seq, .dialler, .prog, .table, .ev, .ctl])).trans (Only.raise _ n _)
    exact torn.trans rest
  have same : ((s.callEnd n o).line n).grade = (((s.releasePump n).onGrade n Grade.ended).line n).grade := after.of .grade
  rw [same, State.line_onGrade_self, released]
  rfl

/-- The answer sequence at HOST and the dialler stopped (R58). -/
theorem State.units_callEnd (s : State) (n : LineId) (o : CallOutcome) :
    ((s.callEnd n o).line n).seq = .initial ∧
      ((s.callEnd n o).line n).dialler = { (s.line n).dialler with phase := .idle, timer := .stopped } ∧
      ((s.callEnd n o).line n).dec = (s.line n).dec := by
  have after : Only n [.table, .ev, .ctl, .call] (s.unitsStopped n o) (s.callEnd n o) :=
    (Only.answerCallCards _ n o).trans (Only.cardsToEnd s n o)
  have seq : ((s.callEnd n o).line n).seq = ((s.unitsStopped n o).line n).seq := after.of .seq
  have dialler : ((s.callEnd n o).line n).dialler = ((s.unitsStopped n o).line n).dialler := after.of .dialler
  have torn : ((s.tornDown n o).line n).dialler = (s.line n).dialler := (Only.tornDown s n o).of .dialler
  refine ⟨?_, ?_, (Only.callEnd s n o).of .dec⟩
  · rw [seq, s.line_unitsStopped n o]
  · rw [dialler, s.line_unitsStopped n o, torn]

/-! ## The answers of DIAL and ANSWER -/

theorem State.longCard_dial (held : (s.line n).ctl.dialCard = some i) : s.LongCard (.line n) i := by
  rw [State.LongCard, Line.longCards_eq, held]
  exact List.mem_append_left _ (List.mem_singleton_self i)

theorem State.longCard_answer (held : (s.line n).ctl.answerCard = some i) : s.LongCard (.line n) i := by
  rw [State.LongCard, Line.longCards_eq, held]
  exact List.mem_append_right _ (List.mem_append_left _ (List.mem_singleton_self i))

theorem State.longCard_service (mine : i ∈ (s.line n).serviceCards) : s.LongCard (.line n) i := by
  rw [State.LongCard, Line.longCards_eq]
  exact List.mem_append_right _ (List.mem_append_right _ mine)

namespace Ending

variable (h : Ending n o s x v) (long : s.LongOrdersTaken)
include h long

theorem dial (held : (s.line n).ctl.dialCard = some i) :
    ((v.line n).fm.retryPending = true → (v.line n).ctl.dialCard = some i ∧ (s.commit v).card (.line n) i = s.card (.line n) i) ∧
    ((v.line n).fm.retryPending = false → (v.line n).ctl.dialCard = none ∧
      State.Answered (.line n) i o.ownStatus o.reason 0 (s.line n).dialFields s (s.commit v)) := by
  obtain ⟨fits, apart, service⟩ := long.dial held
  have fm : (v.line n).fm = (x.line n).fm :=
    (h.after.only.of .fm).trans (x.callEnd_spec n o).2.2.2.1
  have after : (v.line n).ctl = ((x.callEnd n o).line n).ctl := h.after.only.of .ctl
  have ctl := x.ctl_callEnd_eq n o
  have fields : (x.line n).dialFields = (s.line n).dialFields := by
    have dialler : (x.line n).dialler = (s.line n).dialler := h.before.of .dialler
    have prog : (x.line n).prog = (s.line n).prog := h.before.of .prog
    rw [Line.dialFields, Line.dialFields, dialler, prog]
  have mine := State.longCard_dial held
  rw [fm, after, ctl]
  refine ⟨fun pending => ⟨?_, h.stands long mine ?_⟩, fun settled => ⟨?_, h.answered long mine (.inl rfl) ?_⟩⟩
  · rw [pending, h.dialCard, held]
    rfl
  · refine State.card_callEnd_ne (by rw [h.serviceCards]; exact service) (fun settled => ?_) (by rw [h.answerCard]; exact apart) o
    rw [pending] at settled
    exact nomatch settled
  · rw [settled]
    rfl
  · rw [← fields]
    exact State.answered_callEnd_dial (by rw [h.dialCard, held]) (by rw [h.length]; exact fits) (by rw [h.answerCard]; exact apart) settled o

theorem answer (held : (s.line n).ctl.answerCard = some i) : (v.line n).ctl.answerCard = none ∧
    State.Answered (.line n) i o.ownStatus o.reason 0 (v.line n).answerFields s (s.commit v) := by
  obtain ⟨fits, -, -⟩ := long.answer held
  have after : (v.line n).ctl = ((x.callEnd n o).line n).ctl := h.after.only.of .ctl
  have call : (v.line n).call = ((x.callEnd n o).line n).call := h.after.only.of .call
  have fields : (v.line n).answerFields = (x.line n).answerFields := by
    rw [Line.answerFields, Line.answerFields, call, (x.callEnd_spec n o).1]
  refine ⟨by rw [after, x.ctl_callEnd_eq n o], h.answered long (State.longCard_answer held) (.inl rfl) ?_⟩
  rw [fields]
  exact State.answered_callEnd_answer (by rw [h.answerCard, held]) (by rw [h.length]; exact fits) o

end Ending

/-- The call cleared, when the command is over. -/
theorem Ending.cleared_commit (h : Ending n o s x v) : State.Cleared n o s (s.commit v) := by
  have only := h.after.only
  have call : (v.line n).call = ((x.callEnd n o).line n).call := only.of .call
  have ctl : (v.line n).ctl = ((x.callEnd n o).line n).ctl := only.of .ctl
  have claim : (v.line n).claim = ((x.callEnd n o).line n).claim := only.of .claim
  have voice : (v.line n).voice = ((x.callEnd n o).line n).voice := only.of .voice
  have profile : (v.line n).profile = ((x.callEnd n o).line n).profile := only.of .profile
  have pumps : v.pumps = (x.callEnd n o).pumps := only.of .pumps
  have pump : ∀ p, v.pump p = (x.callEnd n o).pump p := fun p => congrArg (fun v : Vector Pump 3 => v[p]) pumps
  have cleared := h.cleared
  have down := cleared.down
  refine State.Cleared.commit ⟨by rw [call]; exact cleared.call, by rw [ctl]; exact cleared.guardTime, by rw [claim]; exact cleared.claim,
    fun p => by rw [pump]; exact cleared.pumps p, ?_, by rw [voice]; exact cleared.play, by rw [voice]; exact cleared.recording,
    by rw [profile]; exact cleared.profile, cleared.events.trans h.after.events, cleared.others.trans h.after.aside⟩
  obtain ⟨b, c, e⟩ := h.after.events
  rw [e]
  simp only [BitVec.getLsbD_or, down, Bool.true_or]

theorem Ending.steady (h : Ending n o s x v) : State.Steady s (s.commit v) :=
  ((h.effect.trans (LineEffect.refl.callEnd o)).trans h.after.toLineEffect).commit.steady

/-- The pool when the command is over. -/
theorem Ending.poolReleased (h : Ending n o s x v) (order : s.PumpsInOrder) : State.PoolReleased n s (s.commit v) := by
  have pumps : v.pumps = (x.callEnd n o).pumps := h.after.only.of .pumps
  have queue : v.queue = (x.callEnd n o).queue := h.after.only.of .queue
  exact (h.pool order).after (pumps.trans (x.pumps_callEnd n o)) (queue.trans (x.queue_callEnd n o))

/-- Settles O30: by the state at the call-end sequence, whatever the command. -/
theorem callEndAnswersAndReleases : Obligations.CallEndAnswersAndReleases := by
  intro c n o s ends long order
  obtain ⟨x, v, run, h⟩ := ends.ending
  have only := h.after.only
  have units := x.units_callEnd n o
  have pool := h.poolReleased order
  have grade : (x.line n).grade = (s.line n).grade := h.before.of .grade
  have dialler : (x.line n).dialler = (s.line n).dialler := h.before.of .dialler
  have ended : (v.line n).grade = ((x.callEnd n o).line n).grade ∧ (v.line n).seq = ((x.callEnd n o).line n).seq ∧
      (v.line n).dialler = ((x.callEnd n o).line n).dialler ∧ (v.line n).dec = ((x.callEnd n o).line n).dec ∧
      (v.line n).ctl = ((x.callEnd n o).line n).ctl := ⟨only.of .grade, only.of .seq, only.of .dialler, only.of .dec, only.of .ctl⟩
  obtain ⟨grade', seq', dialler', dec', ctl'⟩ := ended
  have serving : ∀ p, s.serves p n → ∀ q, s.serves q n → q = p := fun p k q l => order.one q p n l k
  refine ⟨_, run, h.cleared_commit, h.steady, fun alerting => ?_, ?_, ?_, ?_, ?_, fun i held => ?_, fun i held => ?_, pool.others,
    fun p serves settling => ⟨pool.settling p serves settling, ?_⟩, fun queued => ?_, fun p serves attached => ⟨fun empty => ?_,
      fun m rest => ⟨fun head => ?_, fun none head => ?_⟩⟩⟩
  · rw [State.line_commit]
    exact (congrArg LineControl.declined (ctl'.trans (x.ctl_callEnd_eq n o))).trans (h.declined alerting)
  · rw [State.line_commit]
    exact grade'.trans ((x.grade_callEnd n o).trans (by rw [grade]))
  · rw [State.line_commit]
    exact seq'.trans units.1
  · rw [State.line_commit]
    exact dialler'.trans (units.2.1.trans (by rw [dialler]))
  · rw [State.line_commit]
    exact dec'.trans (units.2.2.trans h.dec)
  · rw [State.line_commit]
    exact h.dial long held
  · rw [State.line_commit]
    exact h.answer long held
  · rw [pool.queue fun q k => by rw [serving p serves q k, settling]; decide, WaitQueue.remove_eq fun k => order.waiting p n k serves]
  · exact pool.queue fun q k => absurd k (order.waiting q n queued)
  · exact pool.idle p serves attached empty
  · obtain ⟨first, removed⟩ := WaitQueue.head_answer order.once head
    rw [← removed]
    exact pool.granted p serves attached m first
  · obtain ⟨first, removed⟩ := WaitQueue.head_originate order.once none head
    rw [← removed]
    exact pool.granted p serves attached m first

end Sys2Proof.Machine

/-! The services torn down at the end of a call: what stands from their teardown to the end of the command, and the release before it. -/

namespace Sys2Proof.Machine

set_option Elab.async false

variable {n : LineId} {s x v : State} {o : CallOutcome} {j : Nat} {st : Status} {r k : Nat} {fs : List Byte}

theorem State.LongOrdersTaken.services (long : s.LongOrdersTaken) (n : LineId) : (s.line n).serviceCards.Nodup :=
  (List.nodup_append.mp (List.nodup_append.mp (long.nodup n)).2.1).2.1

/-- The cards of a line's services are different cards. -/
theorem Line.serviceCards_apart {l : Line} (once : l.serviceCards.Nodup) :
    (l.link.sendList.map SendChain.card).Nodup ∧ (l.fax.orders.map FaxOrder.card).Nodup ∧
      (∀ c ∈ l.link.sendList, c.card ∉ l.fax.orders.map FaxOrder.card ∧ l.voice.playCard ≠ some c.card ∧ c.card ∉ l.recordCards) ∧
      (∀ x ∈ l.fax.orders, l.voice.playCard ≠ some x.card ∧ x.card ∉ l.recordCards) ∧
      ∀ i ∈ l.recordCards, l.voice.playCard ≠ some i := by
  obtain ⟨sends, rest, apart⟩ := List.nodup_append.mp once
  obtain ⟨orders, voice, apart'⟩ := List.nodup_append.mp rest
  obtain ⟨-, -, apart''⟩ := List.nodup_append.mp voice
  have played : ∀ j, l.voice.playCard = some j → j ∈ l.voice.playCard.toList := fun j e => by rw [e]; exact List.mem_singleton_self j
  refine ⟨sends, orders, fun c hc => ⟨fun e => ?_, fun e => ?_, fun e => ?_⟩, fun x hx => ⟨fun e => ?_, fun e => ?_⟩, fun i hi e => ?_⟩
  · exact apart _ (List.mem_map_of_mem hc) _ (List.mem_append_left _ e) rfl
  · exact apart _ (List.mem_map_of_mem hc) _ (List.mem_append_right _ (List.mem_append_left _ (played _ e))) rfl
  · exact apart _ (List.mem_map_of_mem hc) _ (List.mem_append_right _ (List.mem_append_right _ e)) rfl
  · exact apart' _ (List.mem_map_of_mem hx) _ (List.mem_append_left _ (played _ e)) rfl
  · exact apart' _ (List.mem_map_of_mem hx) _ (List.mem_append_right _ e) rfl
  · exact apart'' _ (played _ e) _ hi rfl

theorem State.slot_congr (h : v.slots = s.slots) (k : SlotId) : v.slot k = s.slot k := congrArg (fun v : Vector Slot 8 => v[k]) h

theorem State.message_congr (h : v.messages = s.messages) (m : EntryId) : v.message m = s.message m :=
  congrArg (fun v : Vector Message 32 => v[m]) h

theorem LineEffect.length_line (l : LineEffect n s x) (m : LineId) : (x.line m).table.cards.length = (s.line m).table.cards.length :=
  l.cards (.line m)

theorem LineEffect.length_engine (l : LineEffect n s x) : x.engTable.cards.length = s.engTable.cards.length := l.cards .engine

/-- The line's pump released, before the teardowns of its services. -/
def State.pumpReleased (s : State) (n : LineId) : State := (s.releasePump n).onGrade n Grade.ended

theorem Only.pumpReleased (s : State) (n : LineId) : Only n [.queue, .claim, .pumps, .call, .grade] s (s.pumpReleased n) := by
  unfold State.pumpReleased
  exact (Only.releasePump s n).trans (Only.onGrade _ n _)

theorem LineEffect.pumpReleased (s : State) (n : LineId) : LineEffect n s (s.pumpReleased n) := by
  unfold State.pumpReleased
  exact LineEffect.refl.releasePump.onGrade

theorem State.call_pumpReleased (s : State) (n : LineId) :
    ((s.pumpReleased n).line n).call = { (s.line n).call with pump := none } := by
  have released := (State.releasePump_spec s n).1
  rw [State.pumpReleased, State.line_onGrade_self, released]

theorem State.tornDown_eq (s : State) (n : LineId) (o : CallOutcome) :
    s.tornDown n o = (((s.pumpReleased n).linkTeardown n o).faxTeardown n o).voiceTeardown n o := by
  rw [State.tornDown, State.pumpReleased]

/-- From the teardowns to the end of the call-end sequence. -/
theorem Only.tornToEnd (s : State) (n : LineId) (o : CallOutcome) :
    Only n [.call, .seq, .dialler, .prog, .table, .ev, .ctl] (s.tornDown n o) (s.callEnd n o) :=
  (((Only.stopUnits _ n).trans (Only.answerCallCards _ n o) (H := [.call, .seq, .dialler, .prog, .table, .ev, .ctl])).trans
    (Only.onCall _ n _) (H := [.call, .seq, .dialler, .prog, .table, .ev, .ctl])).trans (Only.raise _ n _)

theorem LineEffect.tornToEnd (s : State) (n : LineId) (o : CallOutcome) : LineEffect n (s.tornDown n o) (s.callEnd n o) :=
  ((LineEffect.refl.stopUnits).answerCallCards o).trans (LineEffect.cardsToEnd s n o)

/-- The last steps answer DIAL and ANSWER alone. -/
theorem State.card_tornToEnd (dial : (s.line n).ctl.dialCard ≠ some j) (answer : (s.line n).ctl.answerCard ≠ some j) (o : CallOutcome) :
    (s.callEnd n o).card (.line n) j = (s.tornDown n o).card (.line n) j := by
  have stopped : (s.unitsStopped n o).card (.line n) j = (s.tornDown n o).card (.line n) j := (Only.stopUnits _ n).card j
  have ctl := s.ctl_unitsStopped n o
  rw [(Only.cardsToEnd s n o).card j, State.answerCallCards_eq, ← stopped]
  split
  · exact State.card_answerAnswer_ne (by rw [ctl]; exact answer) _ _
  · rw [State.card_answerAnswer_ne (by rw [State.ctl_answerDial, ctl]; exact answer), State.card_answerDial_ne (by rw [ctl]; exact dial)]

namespace Ending

variable (h : Ending n o s x v)
include h

/-- From the teardowns to the end of the command. -/
theorem tail : Only n [.call, .seq, .dialler, .prog, .table, .ev, .ctl, .engTable, .event] (x.tornDown n o) v :=
  (Only.tornToEnd x n o).trans h.after.only

theorem tail_effect : LineEffect n (x.tornDown n o) v := (LineEffect.tornToEnd x n o).trans h.after.toLineEffect

/-- From the state before the command to the one at the teardowns. -/
theorem head : Only n [.fm, .ev, .table, .engTable, .claim, .pumps, .queue, .dec, .call, .outputs, .ctl, .grade] s (x.pumpReleased n) :=
  h.before.trans (Only.pumpReleased x n)

theorem head_effect : LineEffect n s (x.pumpReleased n) := h.effect.trans (LineEffect.pumpReleased x n)

theorem head_call : ∃ r, ((x.pumpReleased n).line n).call =
    { (s.line n).call with state := .clearing, lastOutcome := o, caller := r, pump := none } := by
  obtain ⟨r, call⟩ := h.call
  exact ⟨r, by rw [x.call_pumpReleased n, call]⟩

/-- A card of a service stands from its teardown on. -/
theorem card_torn (long : s.LongOrdersTaken) (mine : j ∈ (s.line n).serviceCards) :
    v.card (.line n) j = (x.tornDown n o).card (.line n) j := by
  obtain ⟨-, dial, answer⟩ := long.service mine
  rw [h.after.cards_kept long (.line n) j (State.longCard_service mine),
    State.card_tornToEnd (by rw [h.dialCard]; exact dial) (by rw [h.answerCard]; exact answer)]

/-- A card that a service's teardown answers stands answered. -/
theorem answered_torn (long : s.LongOrdersTaken) (mine : j ∈ (s.line n).serviceCards)
    (a : State.Answered (.line n) j st r k fs s (x.tornDown n o)) : State.Answered (.line n) j st r k fs s (s.commit v) :=
  (a.later h.tail_effect (.inl rfl) (h.card_torn long mine)).commit

/-- A card of the engine that a teardown answers stands answered. -/
theorem answeredEngine_torn (long : s.LongOrdersTaken) (mine : s.LongCard .engine j)
    (a : State.Answered .engine j st r k fs s (x.tornDown n o)) : State.Answered .engine j st r k fs s (s.commit v) := by
  have tables : (x.callEnd n o).engTable = (x.tornDown n o).engTable := (Only.tornToEnd x n o).of .engTable
  have card : v.card .engine j = (x.tornDown n o).card .engine j :=
    (h.after.cards_kept long .engine j mine).trans (State.card_congr (T := .engine) tables j)
  exact (a.later h.tail_effect (.inr rfl) card).commit

end Ending

end Sys2Proof.Machine

/-! O33: the end of a voice call, what the Voice Unit does (08 R142, R146, R148, R152; 01 R15). -/

namespace Sys2Proof.Machine

set_option Elab.async false

variable {n : LineId} {s x v : State} {o : CallOutcome} {i : Nat} {g : SlotId}

theorem endAnswer_eq (o : CallOutcome) : endAnswer o = (o.cutStatus, o.reason) := by cases o <;> rfl

/-! ## A play stopped -/

theorem State.store_freeBlocks (s : State) (bs : List Nat) : (s.freeBlocks bs).store = bs.foldl Store.release s.store := by
  unfold State.freeBlocks
  induction bs generalizing s with
  | nil => rfl
  | cons b bs ih =>
    have freed : (s.freeBlock b).store = s.store.release b := (Only.criticalExits (s.onStore fun st => st.release b) 0).of .store
    rw [List.foldl_cons, List.foldl_cons, ih, freed]

theorem State.emptySlot_spec (s : State) (g : SlotId) :
    (s.emptySlot g).store = ((s.slot g).chain.map Prod.fst).foldl Store.release s.store ∧
      ∀ k, (s.emptySlot g).slot k = if k = g then .initial else s.slot k := by
  have slots : ∀ k, (s.emptySlot g).slot k = (s.onSlot g fun _ => .initial).slot k := fun k => by
    have same : (s.emptySlot g).slots = (s.onSlot g fun _ => .initial).slots :=
      (Only.freeBlocks (s.onSlot g fun _ => .initial) 0 ((s.slot g).chain.map Prod.fst)).of .slots
    exact State.slot_congr same k
  refine ⟨State.store_freeBlocks _ _, fun k => ?_⟩
  rw [slots, State.slot_onSlot]

/-- The last play of a WITHDRAWING slot empties it; any other play leaves one play less. -/
theorem State.slotPlayEnds_rest (rest : (s.slot g).state ≠ .withdrawing ∨ 1 < (s.slot g).playCount) :
    s.slotPlayEnds g = s.onSlot g fun x => { x with playCount := x.playCount - 1 } := by
  rw [State.slotPlayEnds, if_neg]
  rintro ⟨withdrawing, few⟩
  rcases rest with h | h
  · exact h withdrawing
  · omega

theorem State.slotPlayEnds_last (withdrawing : (s.slot g).state = .withdrawing) (few : (s.slot g).playCount ≤ 1) :
    (s.slotPlayEnds g).store = (s.emptySlot g).store ∧ (s.slotPlayEnds g).slots = (s.emptySlot g).slots ∧
      ∀ i, (s.slot g).unloadCard = some i → s.slotPlayEnds g = (s.emptySlot g).answer .engine i .done 0 [] := by
  rw [State.slotPlayEnds, if_pos ⟨withdrawing, few⟩]
  cases card : (s.slot g).unloadCard with
  | none => exact ⟨rfl, rfl, fun i e => nomatch e⟩
  | some j => exact ⟨rfl, rfl, fun i e => by rw [Option.some.inj e]⟩

/-- The line's voice with its play over. -/
def Voice.stopped (v : Voice) : Voice := { v with play := .none, playCard := none, playChain := [], playTotal := 0 }

theorem State.voice_playStopped (s : State) (n : LineId) : ((s.playStopped n).line n).voice = (s.line n).voice.stopped := by
  have stopped : ((s.onVoice n Voice.stopped).line n).voice = (s.line n).voice.stopped := by rw [State.line_onVoice_self]
  unfold State.playStopped
  dsimp only
  split
  · exact stopped
  · exact ((Only.slotPlayEnds (s.onVoice n Voice.stopped) n _).of .voice).trans stopped
  · exact ((Only.giveBlocks (s.onVoice n Voice.stopped) n _ _).of .voice).trans stopped

theorem State.playStopped_chain {first : Nat} (play : (s.line n).voice.play = .chain first) :
    s.playStopped n = (s.onVoice n Voice.stopped).giveBlocks ((s.line n).voice.playChain.map Prod.fst) .host := by
  unfold State.playStopped
  rw [play]
  rfl

theorem State.playStopped_slot (play : (s.line n).voice.play = .slot g) :
    s.playStopped n = (s.onVoice n Voice.stopped).slotPlayEnds g := by
  unfold State.playStopped
  rw [play]
  rfl

/-- Card or no card, the play is stopped. -/
theorem Only.finishPlay_playStopped (s : State) (n : LineId) (e : PlayEnd) (st : Status) (r : Nat) :
    Only n [.table, .ev] (s.playStopped n) (s.finishPlay n e st r) := by
  cases card : (s.line n).voice.playCard with
  | none =>
    rw [State.finishPlay_none card]
    exact .refl
  | some i =>
    rw [State.finishPlay_some card]
    exact Only.answer _ n _ _ _ _

theorem LineEffect.finishPlay_playStopped (s : State) (n : LineId) (e : PlayEnd) (st : Status) (r : Nat) :
    LineEffect n (s.playStopped n) (s.finishPlay n e st r) := by
  cases card : (s.line n).voice.playCard with
  | none =>
    rw [State.finishPlay_none card]
    exact .refl
  | some i =>
    rw [State.finishPlay_some card]
    exact LineEffect.refl.answer _ _ _ _

/-- The UNLOAD GREETING card that a withdrawing slot's last play answers. -/
theorem State.answered_slotPlayEnds (withdrawing : (s.slot g).state = .withdrawing) (few : (s.slot g).playCount ≤ 1)
    (held : (s.slot g).unloadCard = some i) (fits : i < s.engTable.cards.length) :
    State.Answered .engine i .done 0 0 [] s (s.slotPlayEnds g) := by
  have emptied : LineEffect 0 s (s.emptySlot g) := LineEffect.refl.emptySlot g
  rw [(State.slotPlayEnds_last withdrawing few).2.2 i held]
  have answered : State.Answered .engine i .done 0 0 [] (s.emptySlot g) ((s.emptySlot g).answer .engine i .done 0 []) := by
    refine State.answered_of ?_ .done 0 0 [] rfl
    have length := emptied.length_engine
    generalize s.emptySlot g = y at *
    exact length ▸ fits
  exact answered.before emptied.tick

theorem LineEffect.playStopped (s : State) (n : LineId) : LineEffect n s (s.playStopped n) := by
  have stopped : LineEffect n s (s.onVoice n Voice.stopped) := LineEffect.refl.onVoice
  unfold State.playStopped
  dsimp only
  split
  · exact stopped
  · exact stopped.slotPlayEnds _
  · exact stopped.giveBlocks _ (by decide)

/-! ## The teardowns of a voice call -/

/-- The reason with which a recording ends at the end of a call. -/
def CallOutcome.endReason (o : CallOutcome) : EndReason := if o = .remoteCleared then .remote else .cleared

theorem State.tornDown_voice (voice : (s.line n).call.service = .voice) (role : (s.line n).fax.role ≠ .receiver) (o : CallOutcome) :
    s.tornDown n o = (s.pumpReleased n).voiceTeardown n o := by
  have call := s.call_pumpReleased n
  have fax : ((s.pumpReleased n).line n).fax = (s.line n).fax := (Only.pumpReleased s n).of .fax
  rw [State.tornDown_eq]
  generalize s.pumpReleased n = r at *
  have linked : r.linkTeardown n o = r := by
    rw [State.linkTeardown, if_neg]
    rw [call, voice]
    decide
  have faxed : r.faxTeardown n o = r := by
    unfold State.faxTeardown
    dsimp only
    rw [if_neg, if_neg]
    · rw [fax]; exact role
    · rw [call, voice]
      exact fun h => nomatch h.2
  rw [linked, faxed]

theorem State.voiceTeardown_eq (s : State) (n : LineId) (o : CallOutcome) : s.voiceTeardown n o =
    if (s.line n).voice.play = .none then s.finishRecording n o.endReason
    else (s.finishRecording n o.endReason).finishPlay n .cleared o.cutStatus o.reason := by
  have play := (s.play_finishRecording n o.endReason).1
  rw [← play, State.voiceTeardown, endAnswer_eq]
  rfl

/-! ## The recording -/

theorem State.digits_finishRecording (s : State) (n : LineId) (r : EndReason) :
    ((s.finishRecording n r).line n).voice.digits = (s.line n).voice.digits ∧
      ((s.finishRecording n r).line n).voice.overflow = (s.line n).voice.overflow := by
  cases recording : (s.line n).voice.recording with
  | none =>
    rw [State.finishRecording_none recording]
    exact ⟨rfl, rfl⟩
  | some m =>
    rw [(State.finishRecording_some recording r).2.1]
    exact ⟨rfl, rfl⟩

/-- The end of a recording raises MESSAGE (bit 11). -/
theorem State.raised_finishRecording {m : EntryId} (recording : (s.line n).voice.recording = some m) (r : EndReason) :
    ((s.finishRecording n r).line n).ev.bits.getLsbD 11 = true := by
  have filed : ((s.recordingFiled n m r).line n).ev.bits.getLsbD 11 = true := by
    rw [State.line_recordingFiled]
    simp [EventWord.raise, bitWord]
  cases kind : (s.line n).voice.recKind with
  | automatic => rwa [State.finishRecording_automatic recording kind]
  | host i =>
    rw [State.finishRecording_host recording kind]
    have answered : LineEffect n (s.recordingFiled n m r)
        ((s.recordingFiled n m r).answer (.line n) i .done 0 (recordFields m ((s.recordingFiled n m r).message m))) :=
      LineEffect.refl.answer _ _ _ _
    obtain ⟨b, c, e⟩ := answered.events
    rw [e]
    simp only [BitVec.getLsbD_or, filed, Bool.true_or]

/-- The RECORD card of a recording that ends is answered DONE. -/
theorem State.answered_finishRecording {m : EntryId} (recording : (s.line n).voice.recording = some m)
    (kind : (s.line n).voice.recKind = .host i) (fits : i < (s.line n).table.cards.length) (r : EndReason) :
    State.Answered (.line n) i .done 0 0
      (wordBytes m.val ++ wordBytes (s.message m).number ++ wordBytes r.code ++ longBytes (s.message m).sampleCount ++
        wordBytes (s.message m).blocks.length) s (s.finishRecording n r) := by
  have message := s.message_recordingFiled n m r
  have table : ((s.recordingFiled n m r).line n).table = (s.line n).table := by rw [State.line_recordingFiled]
  rw [State.finishRecording_host recording kind]
  have answered : State.Answered (.line n) i .done 0 0 (recordFields m ((s.recordingFiled n m r).message m)) (s.recordingFiled n m r)
      ((s.recordingFiled n m r).answer (.line n) i .done 0 (recordFields m ((s.recordingFiled n m r).message m))) :=
    State.answered_of (by rw [State.table, table]; exact fits) .done 0 0 _ rfl
  rw [message] at answered ⊢
  exact answered.before rfl

/-! ## What the teardown leaves -/

/-- The line with its recording filed, in a voice call at its call-end sequence. -/
def State.recordingEnded (x : State) (n : LineId) (o : CallOutcome) : State := (x.pumpReleased n).finishRecording n o.endReason

theorem State.recordingEnded_eq (x : State) (n : LineId) (o : CallOutcome) :
    x.recordingEnded n o = (x.pumpReleased n).finishRecording n o.endReason := by unfold State.recordingEnded; rfl

section
variable (h : Ending n o s x v) (service : (s.line n).call.service = .voice) (role : (s.line n).fax.role ≠ .receiver)
include h

theorem Ending.voice_pumpReleased : ((x.pumpReleased n).line n).voice = (s.line n).voice := h.head.of .voice

theorem Ending.play_recordingEnded : ((x.recordingEnded n o).line n).voice.play = (s.line n).voice.play ∧
    ((x.recordingEnded n o).line n).voice.playCard = (s.line n).voice.playCard ∧
    ((x.recordingEnded n o).line n).voice.playChain = (s.line n).voice.playChain ∧
    ((x.recordingEnded n o).line n).voice.samplesPlayed = (s.line n).voice.samplesPlayed := by
  have play := (x.pumpReleased n).play_finishRecording n o.endReason
  rwa [h.voice_pumpReleased, ← State.recordingEnded_eq] at play

theorem Ending.store_recordingEnded : (x.recordingEnded n o).store = s.store ∧ (x.recordingEnded n o).slots = s.slots ∧
    (x.recordingEnded n o).engTable.cards.length = s.engTable.cards.length := by
  have only := Only.finishRecording (x.pumpReleased n) n o.endReason
  rw [← State.recordingEnded_eq] at only
  have table : (x.recordingEnded n o).engTable = (x.pumpReleased n).engTable := only.of .engTable
  have cards : (x.pumpReleased n).engTable.cards.length = s.engTable.cards.length := h.head_effect.length_engine
  exact ⟨(only.of .store).trans (h.head.of .store), (only.of .slots).trans (h.head.of .slots), by rw [table, cards]⟩

theorem Ending.effect_recordingEnded : LineEffect n s (x.recordingEnded n o) := by
  rw [State.recordingEnded_eq]
  exact h.head_effect.finishRecording o.endReason

include service role

theorem Ending.tornDown_voice : x.tornDown n o =
    if (s.line n).voice.play = .none then x.recordingEnded n o
    else (x.recordingEnded n o).finishPlay n .cleared o.cutStatus o.reason := by
  obtain ⟨r, call⟩ := h.call
  rw [State.tornDown_voice (by rw [call]; exact service) (by rw [h.fax]; exact role), State.voiceTeardown_eq, h.voice_pumpReleased,
    State.recordingEnded_eq]

theorem Ending.tornDown_playing (play : (s.line n).voice.play ≠ .none) :
    x.tornDown n o = (x.recordingEnded n o).finishPlay n .cleared o.cutStatus o.reason := by
  rw [h.tornDown_voice service role, if_neg play]

theorem Ending.tornDown_silent (play : (s.line n).voice.play = .none) : x.tornDown n o = x.recordingEnded n o := by
  rw [h.tornDown_voice service role, if_pos play]

/-- The voice when the command is over: as the recording left it, with no play. -/
theorem Ending.voice_after : (v.line n).voice =
    if (s.line n).voice.play = .none then ((x.recordingEnded n o).line n).voice else ((x.recordingEnded n o).line n).voice.stopped := by
  have tail : (v.line n).voice = ((x.tornDown n o).line n).voice := h.tail.of .voice
  rw [tail, h.tornDown_voice service role]
  split
  · rfl
  · have same : (((x.recordingEnded n o).finishPlay n .cleared o.cutStatus o.reason).line n).voice =
        (((x.recordingEnded n o).playStopped n).line n).voice := (Only.finishPlay_playStopped _ n _ _ _).of .voice
    rw [same, State.voice_playStopped]

theorem Ending.messages_after : v.messages = (x.recordingEnded n o).messages := by
  have tail : v.messages = (x.tornDown n o).messages := h.tail.of .messages
  rw [tail, h.tornDown_voice service role]
  split
  · rfl
  · exact (Only.finishPlay _ n _ _ _).of .messages

/-- The effect on the line from the filed recording to the end of the command. -/
theorem Ending.effect_after : LineEffect n (x.recordingEnded n o) v := by
  refine LineEffect.trans ?_ h.tail_effect
  rw [h.tornDown_voice service role]
  split
  · exact .refl
  · exact LineEffect.refl.finishPlay _ _ _

theorem Ending.recorded (long : s.LongOrdersTaken) {m : EntryId} (recording : (s.line n).voice.recording = some m) :
    (v.line n).voice.lastMessage = (s.message m).number ∧ (v.line n).voice.lastEnd = o.endReason ∧
      (v.line n).ev.bits.getLsbD 11 = true ∧
      v.message m =
        { s.message m with state := .complete, endReason := o.endReason, trailingMs := 10 * (s.line n).voice.silentRun } ∧
      ∀ i, (s.line n).voice.recKind = .host i → State.Answered (.line n) i .done 0 0
        (wordBytes m.val ++ wordBytes (s.message m).number ++ wordBytes o.endReason.code ++ longBytes (s.message m).sampleCount ++
          wordBytes (s.message m).blocks.length) s (s.commit v) := by
  have messages : (x.pumpReleased n).messages = s.messages := h.head.of .messages
  have before : (x.pumpReleased n).message m = s.message m := State.message_congr messages m
  have after : v.message m = (x.recordingEnded n o).message m :=
    State.message_congr (h.messages_after service role) m
  have released : ((x.pumpReleased n).line n).voice.recording = some m := by rw [h.voice_pumpReleased, recording]
  obtain ⟨filed, voice, -⟩ := State.finishRecording_some released o.endReason
  have voiced := h.voice_after service role
  rw [State.recordingEnded_eq, voice] at voiced
  refine ⟨?_, ?_, ?_, ?_, fun i kind => h.answered_torn long ?_ ?_⟩
  · rw [voiced, before]
    split <;> rfl
  · rw [voiced]
    split <;> rfl
  · obtain ⟨b, c, e⟩ := (h.effect_after service role).events
    rw [e]
    simp only [BitVec.getLsbD_or, State.recordingEnded_eq, State.raised_finishRecording released, Bool.true_or]
  · rw [after, State.recordingEnded_eq, filed, before, h.voice_pumpReleased]
  · exact Line.mem_serviceCards.mpr (.inr (.inr (.inr ⟨by rw [recording]; exact Option.some_ne_none m, kind⟩)))
  · have mine : i ∈ (s.line n).serviceCards :=
      Line.mem_serviceCards.mpr (.inr (.inr (.inr ⟨by rw [recording]; exact Option.some_ne_none m, kind⟩)))
    have fits : i < ((x.pumpReleased n).line n).table.cards.length := by
      have length : ((x.pumpReleased n).line n).table.cards.length = (s.line n).table.cards.length := h.head_effect.length_line n
      rw [length]
      exact (long.service mine).1
    have answered := State.answered_finishRecording released (by rw [h.voice_pumpReleased]; exact kind) fits o.endReason
    rw [before] at answered
    have here := answered.before h.head_effect.tick
    rw [← State.recordingEnded_eq] at here
    rw [h.tornDown_voice service role]
    split
    · exact here
    · refine here.later (LineEffect.refl.finishPlay _ _ _) (.inl rfl) (State.card_finishPlay_ne ?_ _ _ _)
      rw [h.play_recordingEnded.2.1]
      exact (Line.serviceCards_apart (long.services n)).2.2.2.2 i
        (Line.mem_recordCards.mpr ⟨by rw [recording]; exact Option.some_ne_none m, kind⟩)

/-- What of the voice the end of play and recording leaves. -/
theorem Ending.voice_rest : ((s.line n).voice.play ≠ .none → (v.line n).voice.playCard = none) ∧
    (v.line n).voice.digits = (s.line n).voice.digits ∧ (v.line n).voice.overflow = (s.line n).voice.overflow := by
  have kept := (x.pumpReleased n).digits_finishRecording n o.endReason
  rw [h.voice_pumpReleased, ← State.recordingEnded_eq] at kept
  rw [h.voice_after service role]
  generalize ((x.recordingEnded n o).line n).voice = w at *
  split
  next play => exact ⟨fun k => absurd play k, kept⟩
  · exact ⟨fun _ => rfl, kept⟩

theorem Ending.unrecorded (recording : (s.line n).voice.recording = none) :
    (v.line n).voice.lastMessage = (s.line n).voice.lastMessage ∧ (v.line n).voice.lastEnd = (s.line n).voice.lastEnd := by
  have released : ((x.pumpReleased n).line n).voice.recording = none := by rw [h.voice_pumpReleased, recording]
  rw [h.voice_after service role, State.recordingEnded_eq, State.finishRecording_none released, h.voice_pumpReleased]
  split <;> exact ⟨rfl, rfl⟩

theorem Ending.played (long : s.LongOrdersTaken) (play : (s.line n).voice.play ≠ .none) (held : (s.line n).voice.playCard = some i) :
    State.Answered (.line n) i o.cutStatus o.reason 0 (longBytes (s.line n).voice.samplesPlayed ++ [4]) s (s.commit v) := by
  have mine : i ∈ (s.line n).serviceCards := Line.mem_serviceCards.mpr (.inr (.inr (.inl held)))
  obtain ⟨-, card, -, samples⟩ := h.play_recordingEnded
  refine h.answered_torn long mine ?_
  have effect := h.effect_recordingEnded
  have stopped := LineEffect.playStopped (x.recordingEnded n o) n
  rw [h.tornDown_playing service role play, State.finishPlay_some (card.trans held), samples]
  generalize (x.recordingEnded n o).playStopped n = y at *
  have whole := effect.trans stopped
  have length : (y.line n).table.cards.length = (s.line n).table.cards.length := whole.length_line n
  have answered : State.Answered (.line n) i o.cutStatus o.reason 0 (longBytes (s.line n).voice.samplesPlayed ++ [4]) y
      (y.answer (.line n) i o.cutStatus o.reason (longBytes (s.line n).voice.samplesPlayed ++ [4])) :=
    State.answered_of (T := .line n) (by rw [State.table, length]; exact (long.service mine).1) _ _ _ _ rfl
  exact answered.before whole.tick

theorem Ending.store_silent (play : (s.line n).voice.play = .none) : v.store = s.store ∧ v.slots = s.slots := by
  have store : v.store = (x.tornDown n o).store := h.tail.of .store
  have slots : v.slots = (x.tornDown n o).slots := h.tail.of .slots
  rw [store, slots, h.tornDown_silent service role play]
  exact ⟨h.store_recordingEnded.1, h.store_recordingEnded.2.1⟩

/-- Store and slots when the command is over are those of the play stopped. -/
theorem Ending.store_playing (play : (s.line n).voice.play ≠ .none) :
    v.store = ((x.recordingEnded n o).playStopped n).store ∧ v.slots = ((x.recordingEnded n o).playStopped n).slots := by
  have store : v.store = (x.tornDown n o).store := h.tail.of .store
  have slots : v.slots = (x.tornDown n o).slots := h.tail.of .slots
  have stopped := Only.finishPlay_playStopped (x.recordingEnded n o) n .cleared o.cutStatus o.reason
  rw [store, slots, h.tornDown_playing service role play]
  exact ⟨stopped.of .store, stopped.of .slots⟩

theorem Ending.store_chain {first : Nat} (play : (s.line n).voice.play = .chain first) :
    v.store = s.store.assignAll ((s.line n).voice.playChain.map Prod.fst) .host ∧ v.slots = s.slots := by
  obtain ⟨store, slots⟩ := h.store_playing service role (by rw [play]; exact nofun)
  obtain ⟨before, before', -⟩ := h.store_recordingEnded
  obtain ⟨playing, -, chain, -⟩ := h.play_recordingEnded
  rw [State.playStopped_chain (playing.trans play), chain] at store slots
  generalize x.recordingEnded n o = w at *
  refine ⟨store.trans ?_, slots.trans before'⟩
  rw [← before]
  rfl

theorem Ending.store_slot (long : s.LongOrdersTaken) {g : SlotId} (play : (s.line n).voice.play = .slot g) :
    (∀ k, k ≠ g → v.slot k = s.slot k) ∧
    ((s.slot g).state ≠ .withdrawing ∨ 1 < (s.slot g).playCount →
      v.slot g = { s.slot g with playCount := (s.slot g).playCount - 1 } ∧ v.store = s.store) ∧
    ((s.slot g).state = .withdrawing → (s.slot g).playCount ≤ 1 →
      v.slot g = ⟨.empty, [], 0, 0, none⟩ ∧ v.store = ((s.slot g).chain.map Prod.fst).foldl Store.release s.store ∧
      ∀ i, (s.slot g).unloadCard = some i → State.Answered .engine i .done 0 0 [] s (s.commit v)) := by
  have playing : (s.line n).voice.play ≠ .none := by rw [play]; exact nofun
  obtain ⟨store, slots⟩ := h.store_playing service role playing
  obtain ⟨before, before', -⟩ := h.store_recordingEnded
  have effect := h.effect_recordingEnded
  have torn := h.tornDown_playing service role playing
  have later := LineEffect.finishPlay_playStopped (x.recordingEnded n o) n .cleared o.cutStatus o.reason
  have table : ((x.recordingEnded n o).finishPlay n .cleared o.cutStatus o.reason).engTable =
      ((x.recordingEnded n o).playStopped n).engTable := (Only.finishPlay_playStopped _ n _ _ _).of .engTable
  have answered := fun i => h.answeredEngine_torn (j := i) (st := .done) (r := 0) (k := 0) (fs := []) long
  rw [torn] at answered
  rw [State.playStopped_slot (h.play_recordingEnded.1.trans play)] at store slots later table
  generalize (x.recordingEnded n o).finishPlay n .cleared o.cutStatus o.reason = z at *
  have voiced : LineEffect n s ((x.recordingEnded n o).onVoice n Voice.stopped) := effect.onVoice
  have slots_y : ((x.recordingEnded n o).onVoice n Voice.stopped).slots = s.slots := (Only.onVoice _ n _).of .slots |>.trans before'
  have stored : ((x.recordingEnded n o).onVoice n Voice.stopped).store = s.store := (Only.onVoice _ n _).of .store |>.trans before
  have cards : ((x.recordingEnded n o).onVoice n Voice.stopped).engTable.cards.length = s.engTable.cards.length := voiced.length_engine
  generalize (x.recordingEnded n o).onVoice n Voice.stopped = y at *
  have slot := State.slot_congr slots_y
  have after : ∀ k, v.slot k = (y.slotPlayEnds g).slot k := State.slot_congr slots
  by_cases rest : (s.slot g).state ≠ .withdrawing ∨ 1 < (s.slot g).playCount
  · have ends := State.slotPlayEnds_rest (s := y) (g := g) (by rw [slot]; exact rest)
    rw [ends] at store after
    refine ⟨fun k other => ?_, fun _ => ⟨?_, store.trans stored⟩, fun withdrawing few => ?_⟩
    · rw [after, State.slot_onSlot, if_neg other, slot]
    · rw [after, State.slot_onSlot, if_pos rfl, slot]
    · rcases rest with k | k
      · exact absurd withdrawing k
      · omega
  · obtain ⟨withdrawing, few⟩ := not_or.mp rest
    rw [not_not] at withdrawing
    rw [not_lt] at few
    obtain ⟨store', slots', -⟩ := State.slotPlayEnds_last (s := y) (g := g) (by rw [slot]; exact withdrawing) (by rw [slot]; exact few)
    obtain ⟨emptied, chain⟩ := y.emptySlot_spec g
    rw [slot, stored] at emptied
    have after' : ∀ k, v.slot k = if k = g then .initial else s.slot k := fun k => by
      rw [after, ← slot, ← chain]
      exact State.slot_congr slots' k
    refine ⟨fun k other => ?_, fun k => absurd k rest, fun _ _ => ⟨?_, store.trans (store'.trans emptied), fun i held => ?_⟩⟩
    · rw [after', if_neg other]
    · rw [after', if_pos rfl]
      rfl
    · have fits : i < s.engTable.cards.length := State.card_lt_of_taken (T := .engine) (long.unload g i held)
      have done := State.answered_slotPlayEnds (s := y) (g := g) (i := i) (by rw [slot]; exact withdrawing) (by rw [slot]; exact few)
        (by rw [slot]; exact held) (by rw [cards]; exact fits)
      exact answered i ⟨g, held⟩ ((done.later later (.inr rfl) (State.card_congr (T := .engine) table i)).before voiced.tick)

end

/-- Settles O33: the recording first, then the play; what they answer stands to the end of the command. -/
theorem callEndEndsRecordingAndPlay : Obligations.CallEndEndsRecordingAndPlay := by
  intro c n o s ends long service role
  obtain ⟨x, v, run, h⟩ := ends.ending
  have cleared := h.cleared_commit
  obtain ⟨card, digits, overflow⟩ := h.voice_rest service role
  refine ⟨_, run, cleared.play, fun play => ?_, cleared.recording, ?_, ?_, fun recording => ?_, fun m recording => ?_,
    fun i play held => h.played service role long play held, h.store_silent service role, fun first => h.store_chain service role,
    fun g => h.store_slot service role long⟩
  · rw [State.line_commit]
    exact card play
  · rw [State.line_commit]
    exact digits
  · rw [State.line_commit]
    exact overflow
  · rw [State.line_commit]
    exact h.unrecorded service role recording
  · obtain ⟨message, reason, raised, entry, answered⟩ := h.recorded service role long recording
    rw [State.line_commit, State.message_commit]
    refine ⟨message, reason, raised, ?_, answered⟩
    rw [entry]
    rfl

end Sys2Proof.Machine

/-! O32: the end of a fax call, what the Fax Sequencer does (07 R131, R132; 01 R15). -/

namespace Sys2Proof.Machine

set_option Elab.async false

variable {n : LineId} {s x v : State} {o : CallOutcome} {i b : Nat} {g : OpenPage}

/-! ## The teardowns with no play in progress -/

theorem State.tornDown_unplayed (play : (s.line n).voice.play = .none) (o : CallOutcome) :
    s.tornDown n o = (((s.pumpReleased n).linkTeardown n o).faxTeardown n o).finishRecording n o.endReason := by
  have released : ((s.pumpReleased n).line n).voice = (s.line n).voice := (Only.pumpReleased s n).of .voice
  rw [State.tornDown_eq]
  generalize s.pumpReleased n = r at *
  have linked : ((r.linkTeardown n o).line n).voice = (r.line n).voice := (Only.linkTeardown r n o).of .voice
  generalize r.linkTeardown n o = y at *
  have faxed : ((y.faxTeardown n o).line n).voice = (y.line n).voice := (Only.faxTeardown y n o).of .voice
  rw [State.voiceTeardown_eq, if_pos (by rw [faxed, linked, released, play])]

theorem State.linkTeardown_other (service : (s.line n).call.service ≠ .data) (o : CallOutcome) : s.linkTeardown n o = s := by
  rw [State.linkTeardown, if_neg service]

theorem State.faxTeardown_sender (direction : (s.line n).call.direction = .originate) (service : (s.line n).call.service = .fax)
    (o : CallOutcome) : s.faxTeardown n o = s.faxSenderTeardown n o := by
  unfold State.faxTeardown
  dsimp only
  rw [if_pos ⟨direction, service⟩]

theorem State.faxTeardown_receiver (direction : (s.line n).call.direction = .answer) (role : (s.line n).fax.role = .receiver)
    (o : CallOutcome) : s.faxTeardown n o = s.faxReceiverTeardown n := by
  unfold State.faxTeardown
  dsimp only
  rw [if_neg, if_pos role]
  rw [direction]
  exact fun h => nomatch h.1

/-! ## The sending side -/

theorem State.faxSenderTeardown_kept (pending : (s.line n).fm.retryPending = true) (o : CallOutcome) :
    s.faxSenderTeardown n o = s.onFax n Fax.ended := by
  rw [State.faxSenderTeardown, if_pos pending]

theorem State.faxSenderTeardown_returned (settled : (s.line n).fm.retryPending = false) (o : CallOutcome) :
    s.faxSenderTeardown n o = (s.returnPages n o).onFax n Fax.ended := by
  rw [State.faxSenderTeardown, if_neg (by rw [settled]; exact Bool.false_ne_true)]

/-! ## The delivery of a page's last block -/

/-- The entry of a kind that is open, as a test. -/
def Entry.isOpen (k : EntryKind) (e : Entry) : Bool := decide (e.kind = k ∧ e.closed = false)

theorem Line.openEntry_eq (l : Line) (k : EntryKind) : l.openEntry k = l.delivered.find? (Entry.isOpen k) := by
  unfold Line.openEntry
  congr 1
  funext e
  cases h : e.closed <;> simp [Entry.isOpen, h]

theorem Line.openEntry_isSome (l : Line) (k : EntryKind) : (l.openEntry k).isSome = l.delivered.any (Entry.isOpen k) := by
  rw [l.openEntry_eq]
  exact List.isSome_find?

/-- The entries of a line when a page's last block has come: its open entry, or a new one for the block. -/
def Line.pageEntries (l : Line) (b : Nat) : List Entry :=
  if l.delivered.any (Entry.isOpen .page) then l.delivered
  else l.delivered ++ [⟨.page, b, b, 0, [], 0, 0, .none, l.fax.pageCount, false⟩]

/-- A page's block as the last of its entry. -/
def Entry.joined (b : Nat) (e : Entry) : Entry :=
  { e with last := b, blockCount := e.blockCount + 1, outstanding := e.outstanding ++ [b] }

/-- What the delivery of a page's last block leaves of line and store. -/
structure State.Delivers (n : LineId) (store : Store) (entries : List Entry) (fax : Fax) (t : State) : Prop where
  store : t.store = store
  recv : (t.line n).recvBlock = none
  delivered : (t.line n).delivered = entries
  fax : (t.line n).fax = fax

theorem State.deliverPage_none (recv : (s.line n).recvBlock = none) : s.deliverPage n = s := by
  rw [State.deliverPage, recv]

/-- The block being filled is taken for delivery. -/
def State.recvTaken (s : State) (n : LineId) : State := s.onLine n fun l => { l with recvBlock := none }

/-- A page's block into the page's entry, its last so far, or into a new one (R126). -/
def State.pageJoined (s : State) (n : LineId) (b : Nat) : State :=
  let s := (s.onStore fun st => st.assign b (.deliv n)).onLine n fun l =>
    { l with
      delivered := if (l.openEntry .page).isSome then l.delivered else l.delivered ++ [Entry.new .page b l.fax.pageCount] }
  (s.onOpenEntry n .page fun e => e.join b (s.bump n 4 e.blockCount) 0).draw

/-- A page discarded with its block (R126). -/
def State.pageDropped (s : State) (n : LineId) (b : Nat) : State :=
  (s.onFax n fun f =>
    { f with page := f.page.map fun p => { p with discarded := true }, pagesDiscarded := s.bump n 1 f.pagesDiscarded }).draw.freeBlock b

theorem State.line_recvTaken (s : State) (n : LineId) : (s.recvTaken n).line n = { s.line n with recvBlock := none } :=
  State.line_onLine_self ..

theorem State.deliverPage_eq (recv : (s.line n).recvBlock = some b) : s.deliverPage n =
    if ((s.recvTaken n).line n).openEntry .page = none ∧ 16 ≤ ((s.recvTaken n).line n).delivered.length then
      (s.recvTaken n).pageDropped n b
    else (s.recvTaken n).pageJoined n b := by
  rw [State.deliverPage, recv]
  rfl

theorem Entry.isOpen_iff {k : EntryKind} {e : Entry} : e.isOpen k = true ↔ e.kind = k ∧ e.closed = false := by simp [Entry.isOpen]

theorem State.line_pageJoined (s : State) (n : LineId) (b : Nat)
    (few : ∀ e ∈ (s.line n).delivered, e.closed = false → e.blockCount < 65535) :
    (s.pageJoined n b).line n = { s.line n with
      delivered := ((s.line n).pageEntries b).map fun e => if Entry.isOpen .page e then e.joined b else e } := by
  have entries : (if ((s.line n).openEntry .page).isSome then (s.line n).delivered
      else (s.line n).delivered ++ [Entry.new .page b (s.line n).fax.pageCount]) = (s.line n).pageEntries b := by
    rw [Line.openEntry_isSome]
    rfl
  have few' : ∀ e ∈ (s.line n).pageEntries b, e.closed = false → e.blockCount < 65535 := fun e he opened => by
    unfold Line.pageEntries at he
    split at he
    · exact few e he opened
    · rcases List.mem_append.mp he with h | h
      · exact few e h opened
      · rw [List.mem_singleton.mp h]
        exact (by decide : 0 < 65535)
  unfold State.pageJoined
  dsimp only
  generalize given : (s.onStore fun st => st.assign b (.deliv n)) = y
  have line : y.line n = s.line n := by rw [← given, State.line_onStore]
  generalize joins : State.onLine y n _ = z
  have joined : z.line n = { s.line n with delivered := (s.line n).pageEntries b } := by
    rw [← joins, State.line_onLine_self, line, ← entries]
  have drawn : ((z.onOpenEntry n .page fun e => e.join b (z.bump n 4 e.blockCount) 0).draw).line n =
      (z.onOpenEntry n .page fun e => e.join b (z.bump n 4 e.blockCount) 0).line n := rfl
  rw [drawn, State.onOpenEntry, State.line_onLine_self, joined]
  congr 1
  refine List.map_congr_left fun e he => ?_
  by_cases isOpen : e.isOpen .page = true
  · rw [if_pos (Entry.isOpen_iff.mp isOpen), if_pos isOpen, State.bump, if_pos (few' e he (Entry.isOpen_iff.mp isOpen).2)]
    rfl
  · rw [if_neg fun h => isOpen (Entry.isOpen_iff.mpr h), if_neg isOpen]

/-- The block joins the page's entry, or a new one. -/
theorem State.deliverPage_joins (recv : (s.line n).recvBlock = some b)
    (room : (s.line n).delivered.any (Entry.isOpen .page) = true ∨ (s.line n).delivered.length < 16)
    (few : ∀ e ∈ (s.line n).delivered, e.closed = false → e.blockCount < 65535) :
    State.Delivers n (s.store.assign b (.deliv n))
      (((s.line n).pageEntries b).map fun e => if Entry.isOpen .page e then e.joined b else e) (s.line n).fax (s.deliverPage n) := by
  have taken := s.line_recvTaken n
  have store : ((s.recvTaken n).pageJoined n b).store = s.store.assign b (.deliv n) := rfl
  have joins : ¬(((s.recvTaken n).line n).openEntry .page = none ∧ 16 ≤ ((s.recvTaken n).line n).delivered.length) := by
    rintro ⟨none, full⟩
    have shut := ((s.recvTaken n).line n).openEntry_isSome .page
    rw [none, taken] at shut
    rw [taken] at full
    rcases room with h | h
    · rw [h] at shut
      exact nomatch shut
    · exact absurd full (Nat.not_le.mpr h)
  rw [State.deliverPage_eq recv, if_neg joins]
  have line := (s.recvTaken n).line_pageJoined n b (by rw [taken]; exact few)
  rw [taken] at line
  generalize (s.recvTaken n).pageJoined n b = y at *
  exact ⟨store, by rw [line], by rw [line]; rfl, by rw [line]⟩

/-- The block finds the Delivered List full: the page is discarded. -/
theorem State.deliverPage_full (recv : (s.line n).recvBlock = some b)
    (shut : (s.line n).delivered.any (Entry.isOpen .page) = false) (full : 16 ≤ (s.line n).delivered.length) :
    State.Delivers n (s.store.release b) (s.line n).delivered
      { (s.line n).fax with
        page := (s.line n).fax.page.map fun p => { p with discarded := true }
        pagesDiscarded := s.bump n 1 (s.line n).fax.pagesDiscarded } (s.deliverPage n) := by
  have taken := s.line_recvTaken n
  have none : ((s.recvTaken n).line n).openEntry .page = none := by
    have some := ((s.recvTaken n).line n).openEntry_isSome .page
    rw [taken] at some ⊢
    rw [← Option.not_isSome_iff_eq_none, some]
    dsimp only
    rw [shut]
    exact Bool.false_ne_true
  rw [State.deliverPage_eq recv, if_pos ⟨none, by rw [taken]; exact full⟩, State.pageDropped]
  have bump : (s.recvTaken n).bump n 1 = s.bump n 1 := rfl
  have store : (s.recvTaken n).store = s.store := rfl
  rw [bump]
  generalize s.recvTaken n = u at *
  have line := State.line_onFax_self u n fun f =>
    { f with page := f.page.map fun p => { p with discarded := true }, pagesDiscarded := s.bump n 1 f.pagesDiscarded }
  have stored : (u.onFax n fun f =>
    { f with page := f.page.map fun p => { p with discarded := true }, pagesDiscarded := s.bump n 1 f.pagesDiscarded }).store = u.store := rfl
  generalize u.onFax n _ = y at *
  have freed : Only n [.others, .link, .outputs] (y.draw.onStore fun st => st.release b) (y.draw.freeBlock b) := Only.criticalExits _ n
  have drawn : (y.draw.onStore fun st => st.release b).line n = y.line n := rfl
  rw [taken] at line
  have store' : (y.draw.freeBlock b).store = (y.draw.onStore fun st => st.release b).store := freed.of .store
  have recv' : ((y.draw.freeBlock b).line n).recvBlock = ((y.draw.onStore fun st => st.release b).line n).recvBlock := freed.of .recv
  have delivered : ((y.draw.freeBlock b).line n).delivered = ((y.draw.onStore fun st => st.release b).line n).delivered :=
    freed.of .delivered
  have fax : ((y.draw.freeBlock b).line n).fax = ((y.draw.onStore fun st => st.release b).line n).fax := freed.of .fax
  rw [drawn, line] at recv' delivered fax
  refine ⟨store'.trans ?_, recv', delivered, fax⟩
  rw [← store, ← stored]
  rfl

/-! ## The receiving side -/

/-- The page's entry closed with its counts. -/
def Entry.shut (g : OpenPage) (e : Entry) : Entry :=
  { e with count := g.rows, badRows := g.badRows, verdict := .incomplete, closed := true }

theorem State.faxReceiverTeardown_idle (page : (s.line n).fax.page = none) : s.faxReceiverTeardown n = s.onFax n Fax.ended := by
  rw [State.faxReceiverTeardown, page]

/-- With no entry left without blocks, the close of the page's entry removes none. -/
theorem State.closePage_line (held : ∀ e ∈ (s.line n).delivered, e.outstanding ≠ []) :
    ((s.closePage n .incomplete g.rows g.badRows).line n).delivered =
      (s.line n).delivered.map fun e => if Entry.isOpen .page e then e.shut g else e := by
  unfold State.closePage
  have line : (s.onOpenEntry n .page fun e =>
      { e with count := g.rows, badRows := g.badRows, verdict := .incomplete, closed := true }).line n =
        { s.line n with delivered := (s.line n).delivered.map fun e => if Entry.isOpen .page e then e.shut g else e } := by
    rw [State.onOpenEntry, State.line_onLine_self]
    congr 1
    refine List.map_congr_left fun e _ => ?_
    by_cases isOpen : e.isOpen .page = true
    · rw [if_pos (Entry.isOpen_iff.mp isOpen), if_pos isOpen]
      rfl
    · rw [if_neg fun h => isOpen (Entry.isOpen_iff.mpr h), if_neg isOpen]
  generalize State.onOpenEntry s n .page _ = y at *
  have full : (y.line n).delivered.filter (fun e => !(e.closed && e.outstanding.isEmpty)) = (y.line n).delivered := by
    refine List.filter_eq_self.mpr fun e he => ?_
    rw [line] at he
    obtain ⟨d, hd, rfl⟩ := List.mem_map.mp he
    have outstanding : d.outstanding ≠ [] := held d hd
    split <;> simp [Entry.shut, outstanding]
  unfold State.removeEntries
  rw [full]
  dsimp only
  rw [if_pos rfl, line]

/-- The page's entry takes the block and is closed. -/
theorem Entry.map_joined_shut (es : List Entry) (b : Nat) (g : OpenPage) :
    (es.map fun e => if Entry.isOpen .page e then e.joined b else e).map (fun e => if Entry.isOpen .page e then e.shut g else e) =
      es.map fun e => if Entry.isOpen .page e then (e.joined b).shut g else e := by
  rw [List.map_map]
  refine List.map_congr_left fun e _ => ?_
  have same : Entry.isOpen .page (e.joined b) = Entry.isOpen .page e := rfl
  by_cases isOpen : Entry.isOpen .page e = true
  · simp only [Function.comp_apply, isOpen, same, if_true]
  · simp only [Function.comp_apply, isOpen, if_false, Bool.false_eq_true]

/-- No entry is without blocks once the page's last one has joined. -/
theorem Line.pageEntries_held {l : Line} (held : ∀ e ∈ l.delivered, e.outstanding ≠ []) :
    ∀ e ∈ (l.pageEntries b).map fun e => if Entry.isOpen .page e then e.joined b else e, e.outstanding ≠ [] := by
  intro e he
  obtain ⟨d, hd, rfl⟩ := List.mem_map.mp he
  split
  · simp [Entry.joined]
  next shut =>
    unfold Line.pageEntries at hd
    split at hd
    · exact held d hd
    · rcases List.mem_append.mp hd with k | k
      · exact held d k
      · rw [List.mem_singleton.mp k] at shut
        exact absurd rfl shut

/-- The receiving side's teardown with a page open. -/
theorem State.faxReceiverTeardown_page (page : (s.line n).fax.page = some g) {store : Store} {entries : List Entry} {fax : Fax}
    (d : State.Delivers n store entries fax (s.deliverPage n)) (held : ∀ e ∈ entries, e.outstanding ≠ []) :
    State.Delivers n store (entries.map fun e => if Entry.isOpen .page e then e.shut g else e)
      { fax with lastVerdict := .incomplete, lastRows := g.rows, lastBadRows := g.badRows }.ended (s.faxReceiverTeardown n) ∧
      ((s.faxReceiverTeardown n).line n).ev.bits.getLsbD 10 = true := by
  have eq : s.faxReceiverTeardown n = ((((s.deliverPage n).closePage n .incomplete g.rows g.badRows).onFax n fun f =>
      { f with lastVerdict := .incomplete, lastRows := g.rows, lastBadRows := g.badRows }).raise n .page).onFax n Fax.ended := by
    rw [State.faxReceiverTeardown, page]
  rw [eq]
  generalize s.deliverPage n = y at *
  have only := Only.closePage y n .incomplete g.rows g.badRows
  have delivered := State.closePage_line (s := y) (n := n) (g := g) (by rw [d.delivered]; exact held)
  have store' : (y.closePage n .incomplete g.rows g.badRows).store = y.store := only.of .store
  have recv : ((y.closePage n .incomplete g.rows g.badRows).line n).recvBlock = (y.line n).recvBlock := only.of .recv
  have fax' : ((y.closePage n .incomplete g.rows g.badRows).line n).fax = (y.line n).fax := only.of .fax
  generalize y.closePage n .incomplete g.rows g.badRows = z at *
  refine ⟨⟨store'.trans d.store, ?_, ?_, ?_⟩, ?_⟩
  · simp only [State.line_onFax_self, State.line_raise_self, recv, d.recv]
  · simp only [State.line_onFax_self, State.line_raise_self, delivered, d.delivered]
  · simp only [State.line_onFax_self, State.line_raise_self, fax', d.fax]
  · simp [EventWord.raise, LineEvent.bit, bitWord]

/-! ## From the fax teardown to the end of the command -/

namespace Ending

variable (h : Ending n o s x v)
include h

/-- After link and fax the voice teardown of a line that plays nothing ends a recording alone. -/
theorem unplayed (play : (s.line n).voice.play = .none) :
    x.tornDown n o = (((x.pumpReleased n).linkTeardown n o).faxTeardown n o).finishRecording n o.endReason := by
  rw [State.tornDown_unplayed (by rw [h.voice]; exact play)]

theorem after_fax (play : (s.line n).voice.play = .none) :
    Only n [.messages, .voice, .ev, .table, .call, .seq, .dialler, .prog, .ctl, .engTable, .event]
      (((x.pumpReleased n).linkTeardown n o).faxTeardown n o) v ∧
    LineEffect n (((x.pumpReleased n).linkTeardown n o).faxTeardown n o) v := by
  have tail := h.tail
  have effect := h.tail_effect
  rw [h.unplayed play] at tail effect
  exact ⟨(Only.finishRecording _ n _).trans tail, (LineEffect.refl.finishRecording _).trans effect⟩

/-- The cards of SEND and FAX PAGES stand from there on. -/
theorem card_after_fax (long : s.LongOrdersTaken) (play : (s.line n).voice.play = .none) {j : Nat}
    (mine : j ∈ (s.line n).link.sendList.map SendChain.card ∨ j ∈ (s.line n).fax.orders.map FaxOrder.card) :
    v.card (.line n) j = (((x.pumpReleased n).linkTeardown n o).faxTeardown n o).card (.line n) j := by
  obtain ⟨-, -, sends, orders, -⟩ := Line.serviceCards_apart (long.services n)
  have service : j ∈ (s.line n).serviceCards := by
    rcases mine with k | k
    · exact List.mem_append_left _ k
    · exact List.mem_append_right _ (List.mem_append_left _ k)
  have record : j ∉ (s.line n).recordCards := by
    rcases mine with k | k
    · obtain ⟨c, hc, rfl⟩ := List.mem_map.mp k
      exact (sends c hc).2.2
    · obtain ⟨y, hy, rfl⟩ := List.mem_map.mp k
      exact (orders y hy).2
  have voice : (((((x.pumpReleased n).linkTeardown n o).faxTeardown n o)).line n).voice = (s.line n).voice := by
    have linked : (((x.pumpReleased n).linkTeardown n o).line n).voice = ((x.pumpReleased n).line n).voice :=
      (Only.linkTeardown _ n o).of .voice
    have faxed : ((((x.pumpReleased n).linkTeardown n o).faxTeardown n o).line n).voice =
        (((x.pumpReleased n).linkTeardown n o).line n).voice := (Only.faxTeardown _ n o).of .voice
    rw [faxed, linked, h.voice_pumpReleased]
  rw [h.card_torn long service, h.unplayed play, State.card_finishRecording_ne]
  rw [voice]
  exact fun recording kind => record (Line.mem_recordCards.mpr ⟨recording, kind⟩)

/-- A call that is not a data call has nothing of a link to tear down. -/
theorem linkTeardown_fax (service : (s.line n).call.service = .fax) :
    (x.pumpReleased n).linkTeardown n o = x.pumpReleased n := by
  obtain ⟨r, call⟩ := h.head_call
  exact State.linkTeardown_other (by rw [call]; exact fun e => nomatch service.symm.trans e) o

end Ending

/-! ## The two sides -/

section
variable (h : Ending n o s x v) (long : s.LongOrdersTaken) (service : (s.line n).call.service = .fax)
  (play : (s.line n).voice.play = .none)
include h long service play

theorem Ending.sender (direction : (s.line n).call.direction = .originate) :
    ((v.line n).fm.retryPending = true → v.store = s.store ∧ (v.line n).fax = (s.line n).fax.ended ∧
      ∀ y ∈ (s.line n).fax.orders, v.card (.line n) y.card = s.card (.line n) y.card) ∧
    ((v.line n).fm.retryPending = false → v.store = s.pagesHome n ∧
      (v.line n).fax = { (s.line n).fax with pages := [], orders := [], resendPending := false }.ended ∧
      ∀ y ∈ (s.line n).fax.orders, y.cutShort ≤ 255 →
        State.Answered (.line n) y.card o.cutStatus o.reason 0 (y.fields (s.line n).fax) s (s.commit v)) := by
  obtain ⟨only, effect⟩ := h.after_fax play
  have card := fun j => h.card_after_fax long play (j := j)
  have head := h.head
  have headEffect := h.head_effect
  obtain ⟨r, call⟩ := h.head_call
  have fm : (v.line n).fm = ((x.pumpReleased n).line n).fm :=
    (only.of .fm).trans ((Only.faxTeardown _ n o).of .fm |>.trans ((Only.linkTeardown _ n o).of .fm))
  have kept : ∀ y ∈ (s.line n).fax.orders, (x.pumpReleased n).card (.line n) y.card = s.card (.line n) y.card := fun y hy => by
    have mine : y.card ∈ (s.line n).serviceCards :=
      List.mem_append_right _ (List.mem_append_left _ (List.mem_map_of_mem hy))
    rw [(Only.pumpReleased x n).card y.card, h.cards long (.line n) y.card (State.longCard_service mine)]
  rw [h.linkTeardown_fax service] at only effect card
  have fax : ((x.pumpReleased n).line n).fax = (s.line n).fax := head.of .fax
  have store : (x.pumpReleased n).store = s.store := head.of .store
  generalize x.pumpReleased n = y at *
  rw [State.faxTeardown_sender (by rw [call]; exact direction) (by rw [call]; exact service)] at only effect card
  rw [fm]
  refine ⟨fun pending => ?_, fun settled => ?_⟩
  · rw [State.faxSenderTeardown_kept pending] at only effect card
    refine ⟨(only.of .store).trans store, (only.of .fax).trans ?_, fun z hz => ?_⟩
    · have line := State.line_onFax_self y n Fax.ended
      exact (congrArg Line.fax line).trans (by rw [fax])
    · rw [card z.card (.inr (List.mem_map_of_mem hz)), (Only.onFax y n _).card z.card, kept z hz]
  · rw [State.faxSenderTeardown_returned settled] at only effect card
    have home : y.pagesHome n = s.pagesHome n := by rw [State.pagesHome, State.pagesHome, fax, store]
    refine ⟨(only.of .store).trans ((y.store_returnPages n o).trans home), (only.of .fax).trans ?_, fun z hz few => ?_⟩
    · have line := State.line_onFax_self (y.returnPages n o) n Fax.ended
      exact (congrArg Line.fax line).trans (by rw [y.fax_returnPages n o, fax])
    · have length : (y.line n).table.cards.length = (s.line n).table.cards.length := headEffect.length_line n
      have mine : z.card ∈ (s.line n).serviceCards :=
        List.mem_append_right _ (List.mem_append_left _ (List.mem_map_of_mem hz))
      have answered := State.answered_returnPages (s := y) (n := n) (x := z)
        (by rw [fax]; exact (Line.serviceCards_apart (long.services n)).2.1) (by rw [fax]; exact hz) few
        (by rw [length]; exact (long.service mine).1) o
      rw [endAnswer_eq, fax] at answered
      refine State.Answered.commit ((answered.later ((LineEffect.refl.onFax _).trans effect) (.inl rfl) ?_).before headEffect.tick)
      rw [card z.card (.inr (List.mem_map_of_mem hz)), (Only.onFax (y.returnPages n o) n Fax.ended).card z.card]

omit long in
/-- On the answering side the page in progress is delivered and closed. -/
theorem Ending.receiver (direction : (s.line n).call.direction = .answer) (role : (s.line n).fax.role = .receiver) :
    ((s.line n).fax.page = none → v.store = s.store ∧ (v.line n).recvBlock = (s.line n).recvBlock ∧
      (v.line n).delivered = (s.line n).delivered ∧ (v.line n).fax = (s.line n).fax.ended) ∧
    ∀ g, (s.line n).fax.page = some g → ∀ store entries fax,
      (∀ y : State, (y.line n).recvBlock = (s.line n).recvBlock → (y.line n).delivered = (s.line n).delivered →
        (y.line n).fax = (s.line n).fax → y.store = s.store → y.draws = s.draws → State.Delivers n store entries fax (y.deliverPage n)) →
      (∀ e ∈ entries, e.outstanding ≠ []) →
      State.Delivers n store (entries.map fun e => if Entry.isOpen .page e then e.shut g else e)
        { fax with lastVerdict := .incomplete, lastRows := g.rows, lastBadRows := g.badRows }.ended v ∧
      (v.line n).ev.bits.getLsbD 10 = true := by
  obtain ⟨only, effect⟩ := h.after_fax play
  have head := h.head
  obtain ⟨r, call⟩ := h.head_call
  rw [h.linkTeardown_fax service] at only effect
  have fax : ((x.pumpReleased n).line n).fax = (s.line n).fax := head.of .fax
  have store : (x.pumpReleased n).store = s.store := head.of .store
  have recv : ((x.pumpReleased n).line n).recvBlock = (s.line n).recvBlock := head.of .recv
  have delivered : ((x.pumpReleased n).line n).delivered = (s.line n).delivered := head.of .delivered
  have draws : (x.pumpReleased n).draws = s.draws := head.of .draws
  generalize x.pumpReleased n = y at *
  rw [State.faxTeardown_receiver (by rw [call]; exact direction) (by rw [fax]; exact role)] at only effect
  refine ⟨fun page => ?_, fun g page store' entries fax' delivers held => ?_⟩
  · rw [State.faxReceiverTeardown_idle (by rw [fax]; exact page)] at only
    have line := State.line_onFax_self y n Fax.ended
    refine ⟨(only.of .store).trans store, (only.of .recv).trans ?_, (only.of .delivered).trans ?_, (only.of .fax).trans ?_⟩
    · exact (congrArg Line.recvBlock line).trans recv
    · exact (congrArg Line.delivered line).trans delivered
    · exact (congrArg Line.fax line).trans (by rw [fax])
  · obtain ⟨closed, raised⟩ := State.faxReceiverTeardown_page (by rw [fax]; exact page) (delivers y recv delivered fax store draws) held
    generalize y.faxReceiverTeardown n = z at *
    obtain ⟨b, c, e⟩ := effect.events
    refine ⟨⟨(only.of .store).trans closed.store, (only.of .recv).trans closed.recv, (only.of .delivered).trans closed.delivered,
      (only.of .fax).trans closed.fax⟩, ?_⟩
    rw [e]
    simp only [BitVec.getLsbD_or, raised, Bool.true_or]

end

/-- Settles O32: the side of the session, then what its page's last block finds. -/
theorem callEndTearsDownTheFaxSession : Obligations.CallEndTearsDownTheFaxSession := by
  intro c n o s ends long service play
  obtain ⟨x, v, run, h⟩ := ends.ending
  obtain ⟨w, line⟩ := commitLine_eq (s.line n) (v.line n)
  refine ⟨fun direction => ⟨_, run, ?_⟩, fun direction role held => ⟨fun none => ⟨_, run, ?_⟩, fun g some => ⟨fun recv => ⟨_, run, ?_⟩,
    fun b recv _ => ⟨fun room few => ⟨_, run, ?_⟩, fun shut full => ⟨_, run, ?_⟩⟩⟩⟩⟩ <;>
  simp only [State.line_commit, State.card_commit, State.store_commit, line]
  · obtain ⟨retry, settled⟩ := h.sender long service play direction
    cases pending : (v.line n).fm.retryPending with
    | true =>
      obtain ⟨store, fax, cards⟩ := retry pending
      rw [fax]
      exact ⟨⟨rfl, rfl, rfl, rfl, rfl, rfl, rfl, rfl, rfl, rfl, rfl, rfl⟩, ⟨rfl, rfl, rfl, rfl⟩,
        fun _ => ⟨store, rfl, rfl, rfl, cards⟩, fun e => absurd e (by decide)⟩
    | false =>
      obtain ⟨store, fax, answered⟩ := settled pending
      rw [fax]
      exact ⟨⟨rfl, rfl, rfl, rfl, rfl, rfl, rfl, rfl, rfl, rfl, rfl, rfl⟩, ⟨rfl, rfl, rfl, rfl⟩, fun e => absurd e (by decide),
        fun _ => ⟨rfl, rfl, store, answered⟩⟩
  · obtain ⟨store, recv, delivered, fax⟩ := (h.receiver service play direction role).1 none
    rw [fax]
    exact ⟨⟨⟨rfl, rfl, rfl, rfl, rfl, rfl, rfl, rfl, rfl, rfl, rfl, rfl⟩, rfl, rfl⟩, ⟨rfl, rfl, rfl, rfl⟩, store, recv, delivered⟩
  · obtain ⟨d, raised⟩ := (h.receiver service play direction role).2 g some s.store (s.line n).delivered (s.line n).fax
      (fun y recv' delivered fax store _ => by
        rw [State.deliverPage_none (recv'.trans recv)]
        exact ⟨store, recv'.trans recv, delivered, fax⟩) held
    rw [d.fax]
    exact ⟨⟨⟨⟨rfl, rfl, rfl, rfl, rfl, rfl, rfl, rfl, rfl, rfl, rfl, rfl⟩, rfl, rfl⟩, rfl, rfl, rfl, d.recv, raised⟩, d.store, rfl,
      d.delivered⟩
  · obtain ⟨d, raised⟩ := (h.receiver service play direction role).2 g some (s.store.assign b (.deliv n))
      (((s.line n).pageEntries b).map fun e => if Entry.isOpen .page e then e.joined b else e) (s.line n).fax
      (fun y recv' delivered fax store _ => by
        have joins := State.deliverPage_joins (s := y) (recv'.trans recv) (by rw [delivered]; exact room)
          (by rw [delivered]; exact fun e he _ => few e he)
        have entries : (y.line n).pageEntries b = (s.line n).pageEntries b := by rw [Line.pageEntries, Line.pageEntries, delivered, fax]
        rw [store, fax, entries] at joins
        exact joins) (Line.pageEntries_held held)
    rw [d.fax]
    exact ⟨⟨⟨⟨rfl, rfl, rfl, rfl, rfl, rfl, rfl, rfl, rfl, rfl, rfl, rfl⟩, rfl, rfl⟩, rfl, rfl, rfl, d.recv, raised⟩, d.store, rfl,
      d.delivered.trans (Entry.map_joined_shut _ b g)⟩
  · obtain ⟨d, raised⟩ := (h.receiver service play direction role).2 g some _ _ _
      (fun y recv' delivered fax store draws => by
        have drops := State.deliverPage_full (s := y) (recv'.trans recv) (by rw [delivered]; exact shut)
          (by rw [delivered]; exact full)
        rw [store, fax, delivered, State.bump, draws] at drops
        exact drops) held
    rw [d.fax]
    refine ⟨⟨⟨⟨rfl, rfl, rfl, rfl, rfl, rfl, rfl, rfl, rfl, rfl, rfl, rfl⟩, rfl, rfl⟩, rfl, rfl, rfl, d.recv, raised⟩, d.store,
      fun few => if_pos few, ?_⟩
    rw [d.delivered]
    refine (List.map_congr_left fun e he => if_neg fun isOpen => ?_).trans (List.map_id' _)
    exact absurd (List.any_eq_true.mpr ⟨e, he, isOpen⟩) (by
      have none : (s.line n).delivered.any (Entry.isOpen .page) = false := shut
      rw [none]
      exact Bool.false_ne_true)

end Sys2Proof.Machine

/-! O31: the end of a data call, what the Link Framer does (06 R113, R114; 01 R15; 09 R166; 12 section 12.6). -/

namespace Sys2Proof.Machine

set_option Elab.async false

variable {n : LineId} {s x v : State} {o : CallOutcome} {i b c : Nat} {st : Store} {w : Owner}

/-! ## Owners of a store -/

theorem Store.owners_assign_get (st : Store) (b : Nat) (w : Owner) (c : Nat) : (st.assign b w).owners[c]? =
    if c = b ∧ b < st.owners.length ∧ st.owners[b]? ≠ some .free then some w else st.owners[c]? := by
  cases h : st.owners[b]? with
  | none =>
    have out : ¬b < st.owners.length := by
      intro less
      rw [List.getElem?_eq_getElem less] at h
      exact nomatch h
    rw [if_neg fun k => out k.2.1, Store.assign, h]
  | some p =>
    have less : b < st.owners.length := (List.getElem?_eq_some_iff.mp h).1
    by_cases free : p = .free
    · subst free
      rw [if_neg fun k => k.2.2 rfl, Store.assign, h]
    · rw [Store.owners_assign w h free, List.getElem?_set]
      by_cases e : c = b
      · subst e
        rw [if_pos rfl, if_pos less, if_pos ⟨rfl, less, by simpa using free⟩]
      · rw [if_neg fun k => e k.symm, if_neg fun k => e k.1]

theorem Store.length_assign (st : Store) (b : Nat) (w : Owner) : (st.assign b w).owners.length = st.owners.length := by
  unfold Store.assign
  split
  · rfl
  · exact List.length_set
  · rfl

/-- A change of owner leaves free stack, block count, canonical form and, with at most 496 blocks, every block's fill (R155, R156). -/
structure Store.Handed (st st' : Store) : Prop where
  free : st'.free = st.free
  length : st'.owners.length = st.owners.length
  fills : Memory.wf st.mem = true → st.owners.length ≤ 496 → Memory.wf st'.mem = true ∧ ∀ b, st'.fill b = st.fill b

theorem Store.Handed.refl : Store.Handed st st := ⟨rfl, rfl, fun wf _ => ⟨wf, fun _ => rfl⟩⟩

theorem Store.Handed.trans {st' st'' : Store} (h : Store.Handed st st') (k : Store.Handed st' st'') : Store.Handed st st'' := by
  refine ⟨k.free.trans h.free, k.length.trans h.length, fun wf few => ?_⟩
  obtain ⟨wf', fills⟩ := h.fills wf few
  obtain ⟨wf'', fills'⟩ := k.fills wf' (by rw [h.length]; exact few)
  exact ⟨wf'', fun b => (fills' b).trans (fills b)⟩

theorem Store.Handed.assign (st : Store) (b : Nat) (w : Owner) : Store.Handed st (st.assign b w) := by
  refine ⟨st.free_assign b w, st.length_assign b w, fun wf few => ?_⟩
  unfold Store.assign
  split
  · exact ⟨wf, fun _ => rfl⟩
  next p h =>
    have less : b < st.owners.length := (List.getElem?_eq_some_iff.mp h).1
    refine ⟨Memory.wf_setWord wf _ _, fun c => Memory.word_setWord_of_far wf _ (.inr ?_)⟩
    unfold mapAddr blockAddr
    omega
  · exact ⟨wf, fun _ => rfl⟩

theorem Store.Handed.assignAll (st : Store) (bs : List Nat) (w : Owner) : Store.Handed st (st.assignAll bs w) := by
  unfold Store.assignAll
  induction bs generalizing st with
  | nil => exact .refl
  | cons b bs ih => exact (Store.Handed.assign st b w).trans (ih _)

theorem Store.owners_assignAll_get (st : Store) (bs : List Nat) (w : Owner) (c : Nat) : (st.assignAll bs w).owners[c]? =
    if c ∈ bs ∧ c < st.owners.length ∧ st.owners[c]? ≠ some .free then some w else st.owners[c]? := by
  unfold Store.assignAll
  induction bs generalizing st with
  | nil => simp
  | cons b bs ih =>
    have one := st.owners_assign_get b w c
    rw [List.foldl_cons, ih, st.length_assign]
    by_cases e : c = b
    · subst e
      by_cases k : c < st.owners.length ∧ st.owners[c]? ≠ some .free
      · rw [if_pos ⟨rfl, k⟩] at one
        rw [one, ite_self]
        exact (if_pos ⟨List.mem_cons_self, k⟩).symm
      · rw [if_neg fun m => k m.2] at one
        rw [one, if_neg fun m => k m.2, if_neg fun m => k m.2]
    · have same : c ∈ b :: bs ↔ c ∈ bs := by simp [e]
      rw [if_neg fun k => e k.1] at one
      simp only [one, same]

/-- The blocks of a list that an owner holds go to another (R114). -/
theorem Store.owners_handBack (st : Store) (bs : List Nat) (n : LineId) (c : Nat) :
    (st.assignAll (st.ownedBy bs (.send n)) .host).owners[c]? =
      if st.owners[c]? = some (.send n) ∧ c ∈ bs then some .host else st.owners[c]? := by
  rw [st.owners_assignAll_get]
  have mem : c ∈ st.ownedBy bs (.send n) ↔ c ∈ bs ∧ st.owners[c]? = some (.send n) := by simp [Store.ownedBy]
  by_cases k : st.owners[c]? = some (.send n) ∧ c ∈ bs
  · have less : c < st.owners.length := (List.getElem?_eq_some_iff.mp k.1).1
    rw [if_pos k, if_pos ⟨mem.mpr ⟨k.2, k.1⟩, less, by rw [k.1]; exact fun e => nomatch e⟩]
  · rw [if_neg k, if_neg fun m => k ((mem.mp m.1).symm)]

/-! ## The Send List returned -/

/-- The Send List's chains returned and their cards answered, one by one. -/
def State.chainsReturned (s : State) (n : LineId) (o : CallOutcome) (cs : List SendChain) : State :=
  cs.foldl (fun s c => s.returnChain n o c) s

theorem Only.chainsReturned (s : State) (n : LineId) (o : CallOutcome) (cs : List SendChain) :
    Only n [.store, .table, .ev] s (s.chainsReturned n o cs) := .foldl (fun s c => Only.returnChain s n o c) s cs

theorem LineEffect.chainsReturned (s : State) (n : LineId) (o : CallOutcome) (cs : List SendChain) :
    LineEffect n s (s.chainsReturned n o cs) := LineEffect.foldl (fun _ c h => h.returnChain o c) .refl cs

theorem State.store_returnChain (s : State) (n : LineId) (o : CallOutcome) (c : SendChain) :
    (s.returnChain n o c).store = s.store.assignAll (s.store.ownedBy (c.chain.map Prod.fst) (.send n)) .host :=
  (Only.answer (s.giveBlocks _ _) n _ _ _ _).of .store

theorem State.store_chainsReturned (s : State) (n : LineId) (o : CallOutcome) (cs : List SendChain) :
    Store.Handed s.store (s.chainsReturned n o cs).store ∧
      ∀ b, (s.chainsReturned n o cs).store.owners[b]? =
        if s.store.owners[b]? = some (.send n) ∧ ∃ x ∈ cs, b ∈ x.chain.map Prod.fst then some .host else s.store.owners[b]? := by
  unfold State.chainsReturned
  induction cs generalizing s with
  | nil => exact ⟨.refl, fun b => by simp⟩
  | cons c cs ih =>
    have store := s.store_returnChain n o c
    obtain ⟨handed, owners⟩ := ih (s.returnChain n o c)
    rw [store] at handed owners
    refine ⟨(Store.Handed.assignAll _ _ _).trans handed, fun b => ?_⟩
    rw [List.foldl_cons, owners b, Store.owners_handBack]
    by_cases mine : s.store.owners[b]? = some (.send n) ∧ b ∈ c.chain.map Prod.fst
    · have host : ¬(some Owner.host = some (Owner.send n) ∧ ∃ x ∈ cs, b ∈ x.chain.map Prod.fst) := fun k => nomatch k.1
      rw [if_pos mine, if_neg host, if_pos ⟨mine.1, c, List.mem_cons_self, mine.2⟩]
    · rw [if_neg mine]
      have same : (s.store.owners[b]? = some (.send n) ∧ ∃ x ∈ c :: cs, b ∈ x.chain.map Prod.fst) ↔
          (s.store.owners[b]? = some (.send n) ∧ ∃ x ∈ cs, b ∈ x.chain.map Prod.fst) := by
        simp only [List.mem_cons, exists_eq_or_imp]
        constructor
        · rintro ⟨k, here | later⟩
          · exact absurd ⟨k, here⟩ mine
          · exact ⟨k, later⟩
        · rintro ⟨k, later⟩
          exact ⟨k, .inr later⟩
      simp only [same]

/-- Where the first byte not acknowledged stands (R114). -/
theorem unackedFrom_split (before : Chain) (b fill : Nat) (after : Chain) (acked : Nat) (low : (before.map Prod.snd).sum ≤ acked)
    (high : acked < (before.map Prod.snd).sum + fill) :
    unackedFrom (before ++ (b, fill) :: after) acked = (b :: after.map Prod.fst, acked - (before.map Prod.snd).sum) := by
  induction before generalizing acked with
  | nil =>
    rw [List.map_nil, List.sum_nil] at *
    rw [List.nil_append, unackedFrom, if_neg (by omega), Nat.sub_zero]
  | cons c before ih =>
    obtain ⟨d, k⟩ := c
    rw [List.map_cons, List.sum_cons] at *
    rw [List.cons_append, unackedFrom, if_pos (by omega), ih _ (by omega) (by omega), Nat.sub_sub]

/-- The answer fields of a SEND whose chain is not acknowledged to its end. -/
theorem sendFields_split {x : SendChain} {before after : Chain} {b fill : Nat} (chain : x.chain = before ++ (b, fill) :: after)
    (low : (before.map Prod.snd).sum ≤ x.acked) (high : x.acked < (before.map Prod.snd).sum + fill) :
    sendFields x = wordBytes x.acked ++ wordBytes b ++ wordBytes (after.length + 1) ++
      wordBytes (x.acked - (before.map Prod.snd).sum) := by
  rw [sendFields, chain, unackedFrom_split before b fill after x.acked low high]
  simp

theorem State.answered_chainsReturned (cs : List SendChain) (s : State) (n : LineId) (o : CallOutcome)
    (once : (cs.map SendChain.card).Nodup) {x : SendChain} (hx : x ∈ cs) (fits : x.card < (s.line n).table.cards.length) :
    State.Answered (.line n) x.card o.cutStatus o.reason 0 (sendFields x) s (s.chainsReturned n o cs) := by
  unfold State.chainsReturned
  induction cs generalizing s with
  | nil => exact nomatch hx
  | cons y ys ih =>
    rw [List.map_cons, List.nodup_cons] at once
    obtain ⟨here, once⟩ := once
    have effect : LineEffect n s (s.returnChain n o y) := LineEffect.refl.returnChain o y
    rw [List.foldl_cons]
    rcases List.mem_cons.mp hx with rfl | later
    · have given : LineEffect n s (s.giveBlocks (s.store.ownedBy (x.chain.map Prod.fst) (.send n)) .host) :=
        LineEffect.refl.giveBlocks _ (by decide)
      have answered : State.Answered (.line n) x.card o.cutStatus o.reason 0 (sendFields x) s (s.returnChain n o x) := by
        rw [State.returnChain, endAnswer_eq]
        generalize s.giveBlocks _ _ = y at *
        have length := given.length_line n
        exact (State.answered_of (T := .line n) (by rw [State.table, length]; exact fits) _ _ _ _ rfl).before given.tick
      refine answered.later (LineEffect.chainsReturned _ n o ys) (.inl rfl) (State.card_foldl_returnChain ys _ n o fun z hz e => ?_)
      exact here (e ▸ List.mem_map_of_mem hz)
    · have length := effect.length_line n
      exact (ih (s.returnChain n o y) once later (by rw [length]; exact fits)).before effect.tick

/-! ## The entry of received data closed -/

/-- An entry has left no block to the host to return, and is closed (R166). -/
def Entry.spent (e : Entry) : Bool := e.closed && e.outstanding.isEmpty

theorem State.criticalExit_quiet (quiet : (s.line n).link.critical = false) : s.criticalExit n = s := by
  rw [State.criticalExit, if_neg]
  simp [State.mayLeaveCritical, quiet]

/-- On a line that is not receive-critical the removal of spent entries changes the Delivered List alone. -/
theorem State.removeEntries_quiet (quiet : (s.line n).link.critical = false) : Only n [.delivered] s (s.removeEntries n) ∧
    ((s.removeEntries n).line n).delivered = (s.line n).delivered.filter fun e => !e.spent := by
  have same : ∀ e : Entry, (!(e.closed && e.outstanding.isEmpty)) = !e.spent := fun _ => rfl
  unfold State.removeEntries
  simp only [same]
  split
  next k => exact ⟨.refl, (List.filter_eq_self.mpr (List.length_filter_eq_length_iff.mp k)).symm⟩
  · have line := State.line_onLine_self s n fun l => { l with delivered := (s.line n).delivered.filter fun e => !e.spent }
    rw [State.criticalExit_quiet (by rw [line]; exact quiet)]
    exact ⟨.onLine s n, congrArg Line.delivered line⟩

/-- The entries of a list with its open DATA entries closed, the spent ones gone. -/
def closedEntries (es : List Entry) : List Entry :=
  (es.map fun e => if Entry.isOpen .data e then { e with closed := true } else e).filter fun e => !e.spent

theorem closedEntries_shut (es : List Entry) : (closedEntries es).any (Entry.isOpen .data) = false := by
  rw [List.any_eq_false]
  intro e he
  obtain ⟨d, -, rfl⟩ := List.mem_map.mp (List.mem_of_mem_filter he)
  split
  · simp [Entry.isOpen]
  next shut => exact shut

/-- No open DATA entry: nothing is closed. -/
theorem State.closeData_none (shut : (s.line n).delivered.any (Entry.isOpen .data) = false) : s.closeData n = s := by
  have none : (s.line n).openEntry .data = none := by
    rw [← Option.not_isSome_iff_eq_none, Line.openEntry_isSome, shut]
    exact Bool.false_ne_true
  rw [State.closeData, none]

theorem State.closeData_some (quiet : (s.line n).link.critical = false)
    (some : (s.line n).delivered.any (Entry.isOpen .data) = true) : Only n [.delivered, .ev] s (s.closeData n) ∧
      ((s.closeData n).line n).delivered = closedEntries (s.line n).delivered ∧
      ((s.closeData n).line n).ev.bits.getLsbD 8 = true := by
  have isSome : ((s.line n).openEntry .data).isSome = true := by rw [Line.openEntry_isSome, some]
  obtain ⟨e, here⟩ := Option.isSome_iff_exists.mp isSome
  have eq : s.closeData n = ((s.onOpenEntry n .data fun e => { e with closed := true }).raise n .recv).removeEntries n := by
    rw [State.closeData, here]
  have only : Only n [.delivered, .ev] s ((s.onOpenEntry n .data fun e => { e with closed := true }).raise n .recv) :=
    (Only.onOpenEntry s n _ _).trans (Only.raise _ n _)
  have delivered : (((s.onOpenEntry n .data fun e => { e with closed := true }).raise n .recv).line n).delivered =
      (s.line n).delivered.map fun e => if Entry.isOpen .data e then { e with closed := true } else e := by
    rw [State.line_raise_self, State.onOpenEntry, State.line_onLine_self]
    refine List.map_congr_left fun e _ => ?_
    by_cases isOpen : e.isOpen .data = true
    · rw [if_pos (Entry.isOpen_iff.mp isOpen), if_pos isOpen]
    · rw [if_neg fun h => isOpen (Entry.isOpen_iff.mpr h), if_neg isOpen]
  have raised : (((s.onOpenEntry n .data fun e => { e with closed := true }).raise n .recv).line n).ev.bits.getLsbD 8 = true := by
    rw [State.line_raise_self]
    simp [EventWord.raise, LineEvent.bit, bitWord]
  rw [eq]
  have link : ((((s.onOpenEntry n .data fun e => { e with closed := true }).raise n .recv)).line n).link = (s.line n).link := only.of .link
  generalize (s.onOpenEntry n .data fun e => { e with closed := true }).raise n .recv = y at *
  obtain ⟨removed, left⟩ := State.removeEntries_quiet (s := y) (n := n) (by rw [link]; exact quiet)
  have ev : ((y.removeEntries n).line n).ev = (y.line n).ev := removed.of .ev
  exact ⟨only.trans removed, by rw [left, delivered]; rfl, by rw [ev]; exact raised⟩

theorem State.closeData_twice (quiet : (s.line n).link.critical = false) : (s.closeData n).closeData n = s.closeData n := by
  cases k : (s.line n).delivered.any (Entry.isOpen .data) with
  | false => rw [State.closeData_none k, State.closeData_none k]
  | true =>
    obtain ⟨-, delivered, -⟩ := State.closeData_some quiet k
    exact State.closeData_none (by rw [delivered]; exact closedEntries_shut _)

/-! ## The last block of received data -/

/-- The entries of a line when a data call's last block has come: its open entry, or a new one for the block. -/
def Line.dataEntries (l : Line) (b : Nat) : List Entry :=
  if l.delivered.any (Entry.isOpen .data) then l.delivered else l.delivered ++ [⟨.data, b, b, 0, [], 0, 0, .none, 0, false⟩]

/-- The RECV block of a data line in its entry, its last so far (R110). -/
def State.dataJoined (s : State) (n : LineId) (b : Nat) : State :=
  ((s.onStore fun st => st.assign b (.deliv n)).onLine n fun l =>
    { l with
      recvBlock := none
      delivered := if (l.openEntry .data).isSome then l.delivered else l.delivered ++ [Entry.new .data b 0] }).onOpenEntry n .data
    fun e => e.join b (e.blockCount + 1) (s.store.fill b)

theorem State.line_dataJoined (s : State) (n : LineId) (b : Nat) : (s.dataJoined n b).line n = { s.line n with
    recvBlock := none
    delivered := ((s.line n).dataEntries b).map fun e =>
      if Entry.isOpen .data e then e.join b (e.blockCount + 1) (s.store.fill b) else e } := by
  have entries : (if ((s.line n).openEntry .data).isSome then (s.line n).delivered
      else (s.line n).delivered ++ [Entry.new .data b 0]) = (s.line n).dataEntries b := by
    rw [Line.openEntry_isSome]
    rfl
  unfold State.dataJoined
  generalize given : (s.onStore fun st => st.assign b (.deliv n)) = y
  have line : y.line n = s.line n := by rw [← given, State.line_onStore]
  rw [State.onOpenEntry, State.line_onLine_self, State.line_onLine_self, line, ← entries]
  congr 1
  refine List.map_congr_left fun e _ => ?_
  by_cases isOpen : e.isOpen .data = true
  · rw [if_pos (Entry.isOpen_iff.mp isOpen), if_pos isOpen]
  · rw [if_neg fun h => isOpen (Entry.isOpen_iff.mpr h), if_neg isOpen]

/-- A block delivered and the entry closed, at the eighth block or now. -/
theorem State.deliverData_closeData (quiet : (s.line n).link.critical = false) (recv : (s.line n).recvBlock = some b) :
    (s.deliverData n).closeData n = (s.dataJoined n b).closeData n := by
  have eq : s.deliverData n = match ((s.dataJoined n b).line n).openEntry .data with
      | some e => if 8 ≤ e.blockCount then (s.dataJoined n b).closeData n else s.dataJoined n b
      | none => s.dataJoined n b := by
    rw [State.deliverData, recv]
    rfl
  have link : ((s.dataJoined n b).line n).link.critical = false := by rw [State.line_dataJoined]; exact quiet
  rw [eq]
  split
  · split
    · exact State.closeData_twice link
    · rfl
  · rfl

/-! ## The teardown -/

/-- A link closed: its window, list and timers empty, its sizes, numbers and counters kept (R114, log 17). -/
def Link.torn (l : Link) : Link :=
  { Link.initial with
    state := .closed, window := l.window, infoLength := l.infoLength, nextSend := l.nextSend, expected := l.expected
    frameErrors := l.frameErrors, counters := l.counters }

/-- The Send List returned, before the block being filled is delivered. -/
def State.listReturned (s : State) (n : LineId) (o : CallOutcome) : State :=
  (s.onLink n Link.torn).chainsReturned n o (s.line n).link.sendList

theorem Only.listReturned (s : State) (n : LineId) (o : CallOutcome) : Only n [.link, .store, .table, .ev] s (s.listReturned n o) :=
  (Only.onLink s n _).trans (Only.chainsReturned _ n o _)

theorem LineEffect.listReturned (s : State) (n : LineId) (o : CallOutcome) : LineEffect n s (s.listReturned n o) :=
  (LineEffect.refl.onLink n _).trans (LineEffect.chainsReturned _ n o _)

theorem State.link_listReturned (s : State) (n : LineId) (o : CallOutcome) :
    ((s.listReturned n o).line n).link = (s.line n).link.torn := by
  have same : ((s.listReturned n o).line n).link = ((s.onLink n Link.torn).line n).link := (Only.chainsReturned _ n o _).of .link
  rw [same, State.line_onLink_self]

theorem State.linkTeardown_data (service : (s.line n).call.service = .data) (o : CallOutcome) :
    s.linkTeardown n o = ((s.listReturned n o).deliverData n).closeData n := by
  rw [State.linkTeardown, if_pos service]
  rfl

/-- What the teardown of a link leaves (R114), `entries` the Delivered List with the last block in it. -/
structure State.LinkTorn (n : LineId) (o : CallOutcome) (s t : State) (entries : List Entry) : Prop where
  link : (t.line n).link = (s.line n).link.torn
  outputs : t.outputs = s.outputs
  free : t.store.free = s.store.free
  owners : ∀ b : Nat, t.store.owners[b]? =
    if (s.line n).recvBlock = some b ∧ b < s.store.owners.length ∧ s.store.owners[b]? ≠ some .free then some (.deliv n)
    else if s.store.owners[b]? = some (.send n) ∧ ∃ x ∈ (s.line n).link.sendList, b ∈ x.chain.map Prod.fst then some .host
    else s.store.owners[b]?
  recv : (t.line n).recvBlock = none
  shut : entries.any (Entry.isOpen .data) = false → (t.line n).delivered = entries
  closed : entries.any (Entry.isOpen .data) = true → (t.line n).delivered = closedEntries entries ∧
    (t.line n).ev.bits.getLsbD 8 = true

/-- The entry closed after the last block, from the state with the Send List returned. -/
theorem State.LinkTorn.of_closeData {y : State} (link : (y.line n).link = (s.line n).link.torn) (outputs : y.outputs = s.outputs)
    (free : y.store.free = s.store.free) (recv : (y.line n).recvBlock = none)
    (owners : ∀ b : Nat, y.store.owners[b]? =
      if (s.line n).recvBlock = some b ∧ b < s.store.owners.length ∧ s.store.owners[b]? ≠ some .free then some (.deliv n)
      else if s.store.owners[b]? = some (.send n) ∧ ∃ x ∈ (s.line n).link.sendList, b ∈ x.chain.map Prod.fst then some .host
      else s.store.owners[b]?) : State.LinkTorn n o s (y.closeData n) (y.line n).delivered := by
  have quiet : (y.line n).link.critical = false := by rw [link]; rfl
  cases k : (y.line n).delivered.any (Entry.isOpen .data) with
  | false =>
    rw [State.closeData_none k]
    exact ⟨link, outputs, free, owners, recv, fun _ => rfl, fun e => absurd (k.symm.trans e) (by decide)⟩
  | true =>
    obtain ⟨only, delivered, raised⟩ := State.closeData_some quiet k
    have store : (y.closeData n).store = y.store := only.of .store
    refine ⟨(only.of .link).trans link, (only.of .outputs).trans outputs, ?_, fun b => ?_, (only.of .recv).trans recv,
      fun e => absurd (k.symm.trans e) (by decide), fun _ => ⟨delivered, raised⟩⟩
    · rw [store, free]
    · rw [store, owners]

theorem State.linkTorn_empty (service : (s.line n).call.service = .data) (recv : (s.line n).recvBlock = none) :
    State.LinkTorn n o s (s.linkTeardown n o) (s.line n).delivered := by
  have only := Only.listReturned s n o
  have link := s.link_listReturned n o
  obtain ⟨handed, owners⟩ := (s.onLink n Link.torn).store_chainsReturned n o (s.line n).link.sendList
  rw [State.linkTeardown_data service]
  have delivered : ((s.listReturned n o).line n).delivered = (s.line n).delivered := only.of .delivered
  have recv' : ((s.listReturned n o).line n).recvBlock = none := (only.of .recv).trans recv
  have outputs : (s.listReturned n o).outputs = s.outputs := only.of .outputs
  have free : (s.listReturned n o).store.free = s.store.free := handed.free
  have owned : ∀ b : Nat, (s.listReturned n o).store.owners[b]? =
      if s.store.owners[b]? = some (.send n) ∧ ∃ x ∈ (s.line n).link.sendList, b ∈ x.chain.map Prod.fst then some .host
      else s.store.owners[b]? := owners
  generalize s.listReturned n o = y at *
  have none : y.deliverData n = y := by rw [State.deliverData, recv']
  rw [none, ← delivered]
  refine State.LinkTorn.of_closeData link outputs free recv' fun b => ?_
  rw [owned, if_neg (c := (s.line n).recvBlock = some b ∧ _) fun k => by rw [recv] at k; exact nomatch k.1]

theorem State.linkTorn_delivers (service : (s.line n).call.service = .data) (recv : (s.line n).recvBlock = some b)
    (wf : Memory.wf s.store.mem = true) (few : s.store.owners.length ≤ 496) :
    State.LinkTorn n o s (s.linkTeardown n o) (((s.line n).dataEntries b).map fun e =>
      if Entry.isOpen .data e then e.join b (e.blockCount + 1) (s.store.fill b) else e) := by
  have only := Only.listReturned s n o
  have link := s.link_listReturned n o
  obtain ⟨handed, owners⟩ := (s.onLink n Link.torn).store_chainsReturned n o (s.line n).link.sendList
  rw [State.linkTeardown_data service]
  have delivered : ((s.listReturned n o).line n).delivered = (s.line n).delivered := only.of .delivered
  have recv' : ((s.listReturned n o).line n).recvBlock = some b := (only.of .recv).trans recv
  have outputs : (s.listReturned n o).outputs = s.outputs := only.of .outputs
  have handed : Store.Handed s.store (s.listReturned n o).store := handed
  have owned : ∀ b : Nat, (s.listReturned n o).store.owners[b]? =
      if s.store.owners[b]? = some (.send n) ∧ ∃ x ∈ (s.line n).link.sendList, b ∈ x.chain.map Prod.fst then some .host
      else s.store.owners[b]? := owners
  generalize s.listReturned n o = y at *
  have quiet : (y.line n).link.critical = false := by rw [link]; rfl
  have line := y.line_dataJoined n b
  have store : (y.dataJoined n b).store = y.store.assign b (.deliv n) := rfl
  have outputs' : (y.dataJoined n b).outputs = y.outputs := rfl
  have entries : (y.line n).dataEntries b = (s.line n).dataEntries b := by rw [Line.dataEntries, Line.dataEntries, delivered]
  have fill : y.store.fill b = s.store.fill b := (handed.fills wf few).2 b
  rw [State.deliverData_closeData quiet recv', ← entries, ← fill]
  generalize y.dataJoined n b = z at *
  have given : (z.line n).delivered = ((y.line n).dataEntries b).map fun e =>
      if Entry.isOpen .data e then e.join b (e.blockCount + 1) (y.store.fill b) else e := by rw [line]
  rw [← given]
  refine State.LinkTorn.of_closeData (by rw [line]; exact link) (outputs'.trans outputs) ?_ (by rw [line]) fun c => ?_
  · rw [store, Store.free_assign, handed.free]
  · rw [store, Store.owners_assign_get, handed.length, owned c, owned b, recv]
    have live : (if s.store.owners[b]? = some (.send n) ∧ ∃ x ∈ (s.line n).link.sendList, b ∈ x.chain.map Prod.fst then some .host
        else s.store.owners[b]?) ≠ some Owner.free ↔ s.store.owners[b]? ≠ some .free := by
      split
      next mine =>
        rw [mine.1]
        exact ⟨fun _ e => (nomatch e), fun _ e => (nomatch e)⟩
      · exact Iff.rfl
    by_cases e : c = b
    · subst e
      simp only [live, true_and]
    · rw [if_neg fun k => e k.1, if_neg (c := some b = some c ∧ _) fun k => e (Option.some.inj k.1).symm]

/-! ## The command -/

/-- The pump that a line holds, from its call record and the pump's own state. -/
theorem State.heldPump_ne_none : s.heldPump n ≠ none ↔
    ∃ p, (s.line n).call.pump = some p ∧ (s.pump p).state = .attached ∧ (s.pump p).line = some n := by
  unfold State.heldPump
  cases recorded : (s.line n).call.pump with
  | none => simp
  | some p =>
    by_cases held : (s.pump p).state = .attached ∧ (s.pump p).line = some n <;> simp [held]

section
variable (h : Ending n o s x v) (service : (s.line n).call.service = .data) (role : (s.line n).fax.role ≠ .receiver)
include h service role

/-- A data call has no fax session to tear down. -/
theorem Ending.faxTeardown_data :
    ((x.pumpReleased n).linkTeardown n o).faxTeardown n o = (x.pumpReleased n).linkTeardown n o := by
  obtain ⟨r, call⟩ := h.head_call
  have fax : ((x.pumpReleased n).line n).fax = (s.line n).fax := h.head.of .fax
  generalize x.pumpReleased n = y at *
  have only := Only.linkTeardown y n o
  have call' : ((y.linkTeardown n o).line n).call = (y.line n).call := only.of .call
  have fax' : ((y.linkTeardown n o).line n).fax = (y.line n).fax := only.of .fax
  generalize y.linkTeardown n o = z at *
  unfold State.faxTeardown
  dsimp only
  rw [if_neg, if_neg]
  · rw [fax', fax]
    exact role
  · rw [call', call]
    exact fun k => nomatch service.symm.trans k.2

/-- What the link's teardown leaves stands to the end of the command. -/
theorem Ending.linkTorn (play : (s.line n).voice.play = .none) {entries : List Entry}
    (torn : State.LinkTorn n o (x.pumpReleased n) ((x.pumpReleased n).linkTeardown n o) entries) :
    (v.line n).link = (s.line n).link.torn ∧ v.outputs = x.outputs ∧ v.store.free = s.store.free ∧
      (∀ b : Nat, v.store.owners[b]? =
        if (s.line n).recvBlock = some b ∧ b < s.store.owners.length ∧ s.store.owners[b]? ≠ some .free then some (.deliv n)
        else if s.store.owners[b]? = some (.send n) ∧ ∃ x ∈ (s.line n).link.sendList, b ∈ x.chain.map Prod.fst then some .host
        else s.store.owners[b]?) ∧
      (v.line n).recvBlock = none ∧
      (entries.any (Entry.isOpen .data) = false → (v.line n).delivered = entries) ∧
      (entries.any (Entry.isOpen .data) = true → (v.line n).ev.bits.getLsbD 8 = true ∧ (v.line n).delivered = closedEntries entries) := by
  obtain ⟨only, effect⟩ := h.after_fax play
  rw [h.faxTeardown_data service role] at only effect
  have head := h.head
  have link : ((x.pumpReleased n).line n).link = (s.line n).link := head.of .link
  have store : (x.pumpReleased n).store = s.store := head.of .store
  have recv : ((x.pumpReleased n).line n).recvBlock = (s.line n).recvBlock := head.of .recv
  have outputs : (x.pumpReleased n).outputs = x.outputs := (Only.pumpReleased x n).of .outputs
  generalize (x.pumpReleased n).linkTeardown n o = z at *
  generalize x.pumpReleased n = y at *
  have store' : v.store = z.store := only.of .store
  obtain ⟨b, c, e⟩ := effect.events
  refine ⟨(only.of .link).trans (torn.link.trans (by rw [link])), (only.of .outputs).trans (torn.outputs.trans outputs), ?_, fun b => ?_,
    (only.of .recv).trans torn.recv, fun k => (only.of .delivered).trans (torn.shut k), fun k => ⟨?_, (only.of .delivered).trans (torn.closed k).1⟩⟩
  · rw [store', torn.free, store]
  · rw [store', torn.owners, store, link, recv]
  · rw [e]
    simp only [BitVec.getLsbD_or, (torn.closed k).2, Bool.true_or]

/-- The SEND cards answered (R114). -/
theorem Ending.sent (long : s.LongOrdersTaken) (play : (s.line n).voice.play = .none) {y : SendChain}
    (hy : y ∈ (s.line n).link.sendList) :
    State.Answered (.line n) y.card o.cutStatus o.reason 0 (sendFields y) s (s.commit v) := by
  obtain ⟨only, effect⟩ := h.after_fax play
  have card := h.card_after_fax long play (.inl (List.mem_map_of_mem hy))
  rw [h.faxTeardown_data service role] at effect card
  have mine : y.card ∈ (s.line n).serviceCards := List.mem_append_left _ (List.mem_map_of_mem hy)
  obtain ⟨r, call⟩ := h.head_call
  have headEffect := h.head_effect
  have link : ((x.pumpReleased n).line n).link = (s.line n).link := h.head.of .link
  have length := headEffect.length_line n
  generalize x.pumpReleased n = z at *
  have reset : LineEffect n z (z.onLink n Link.torn) := LineEffect.refl.onLink n _
  have answered := State.answered_chainsReturned (z.line n).link.sendList (z.onLink n Link.torn) n o
    (by rw [link]; exact (Line.serviceCards_apart (long.services n)).1) (x := y) (by rw [link]; exact hy)
    (by rw [reset.length_line n, length]; exact (long.service mine).1)
  have torn := z.linkTeardown_data (n := n) (by rw [call]; exact service) o
  have returned : State.Answered (.line n) y.card o.cutStatus o.reason 0 (sendFields y) z (z.listReturned n o) := answered.before reset.tick
  have later : LineEffect n (z.listReturned n o) (z.linkTeardown n o) := by
    rw [torn]
    exact LineEffect.refl.deliverData.closeData
  have same : (z.linkTeardown n o).card (.line n) y.card = (z.listReturned n o).card (.line n) y.card := by
    rw [torn, (Only.closeData _ n).card y.card, (Only.deliverData _ n).card y.card]
  exact State.Answered.commit ((returned.later (later.trans effect) (.inl rfl) (card.trans same)).before headEffect.tick)

end

/-- The entries kept are those not closed or with a block outstanding. -/
theorem closedEntries_eq (es : List Entry) : closedEntries es =
    (es.map fun e => if Entry.isOpen .data e then { e with closed := true } else e).filter fun e =>
      decide (e.closed = false ∨ e.outstanding ≠ []) := by
  unfold closedEntries
  congr 1
  funext e
  unfold Entry.spent
  cases closed : e.closed <;> cases outstanding : e.outstanding <;> simp

/-- Whether an entry takes a block or not, it is open or not as before. -/
theorem any_isOpen_map {f : Entry → Entry} (hf : ∀ e, Entry.isOpen .data (f e) = Entry.isOpen .data e) (es : List Entry) :
    (es.map fun e => if Entry.isOpen .data e then f e else e).any (Entry.isOpen .data) = es.any (Entry.isOpen .data) := by
  rw [List.any_map]
  congr 1
  funext e
  simp only [Function.comp_apply]
  split
  · exact hf e
  · rfl

theorem closedEntries_map {f : Entry → Entry} (hf : ∀ e, Entry.isOpen .data (f e) = Entry.isOpen .data e) (es : List Entry) :
    closedEntries (es.map fun e => if Entry.isOpen .data e then f e else e) =
      (es.map fun e => if Entry.isOpen .data e then { f e with closed := true } else e).filter fun e =>
        decide (e.closed = false ∨ e.outstanding ≠ []) := by
  rw [closedEntries_eq, List.map_map]
  congr 1
  refine List.map_congr_left fun e _ => ?_
  simp only [Function.comp_apply]
  by_cases isOpen : Entry.isOpen .data e = true
  · rw [if_pos isOpen, if_pos ((hf e).trans isOpen), if_pos isOpen]
  · rw [if_neg isOpen, if_neg isOpen, if_neg isOpen]

theorem Line.dataEntries_open (l : Line) (b : Nat) : (l.dataEntries b).any (Entry.isOpen .data) = true := by
  unfold Line.dataEntries
  split
  · assumption
  · rw [List.any_append]
    simp [Entry.isOpen]

/-- The outputs of the command: a LINK-CLOSE where one is due, and nothing else. -/
theorem Ending.closes (h : Ending n o s x v) (outputs : v.outputs = x.outputs) :
    ((s.line n).link.state = .up ∧ o ≠ .remoteCleared ∧
        (∃ p, (s.line n).call.pump = some p ∧ (s.pump p).state = .attached ∧ (s.pump p).line = some n) →
      v.outputs = s.outputs ++ [.linkBytes n (0xA5 :: (Wire.run .linkClose ++ [0xA5]))]) ∧
    (¬((s.line n).link.state = .up ∧ o ≠ .remoteCleared ∧
        ∃ p, (s.line n).call.pump = some p ∧ (s.pump p).state = .attached ∧ (s.pump p).line = some n) →
      v.outputs = s.outputs) := by
  rw [outputs, h.outputs, ← State.heldPump_ne_none]
  exact ⟨fun closes => by rw [if_pos closes]; rfl, fun stays => by rw [if_neg stays]⟩

/-- Settles O31: with a block being filled or none. -/
theorem callEndTearsDownTheLink : Obligations.CallEndTearsDownTheLink := by
  intro c n o s ends long sound service play role
  obtain ⟨x, v, run, h⟩ := ends.ending
  obtain ⟨w, line⟩ := commitLine_eq (s.line n) (v.line n)
  obtain ⟨r, call⟩ := h.head_call
  have service' : ((x.pumpReleased n).line n).call.service = .data := by rw [call]; exact service
  have recv' : ((x.pumpReleased n).line n).recvBlock = (s.line n).recvBlock := h.head.of .recv
  have delivered : ((x.pumpReleased n).line n).delivered = (s.line n).delivered := h.head.of .delivered
  have store : (x.pumpReleased n).store = s.store := h.head.of .store
  have sent : ∀ y ∈ (s.line n).link.sendList, ∀ before b fill after, y.chain = before ++ (b, fill) :: after →
      (before.map Prod.snd).sum ≤ y.acked → y.acked < (before.map Prod.snd).sum + fill →
      State.Answered (.line n) y.card o.cutStatus o.reason 0
        (wordBytes y.acked ++ wordBytes b ++ wordBytes (after.length + 1) ++ wordBytes (y.acked - (before.map Prod.snd).sum)) s
        (s.commit v) := fun y hy before b fill after chain low high => by
    rw [← sendFields_split chain low high]
    exact h.sent service role long play hy
  have few : s.store.owners.length ≤ 496 := by
    rw [sound.fitted]
    cases s.port.strap <;> decide
  refine ⟨_, run, ?_⟩
  simp only [State.line_commit, State.store_commit, State.outputs_commit, line]
  cases recv : (s.line n).recvBlock with
  | none =>
    have torn := State.linkTorn_empty (o := o) service' (recv'.trans recv)
    rw [delivered] at torn
    obtain ⟨link, outputs, free, owners, gone, shut, closed⟩ := h.linkTorn service role play torn
    obtain ⟨closes, stays⟩ := h.closes outputs
    rw [recv] at owners
    exact ⟨link, closes, stays, sent, free, owners, gone, shut, fun k => ⟨(closed k).1, (closed k).2.trans (closedEntries_eq _)⟩⟩
  | some b =>
    have torn := State.linkTorn_delivers (o := o) service' (recv'.trans recv) (by rw [store]; exact sound.canonical)
      (by rw [store]; exact few)
    have entries : ((x.pumpReleased n).line n).dataEntries b = (s.line n).dataEntries b := by
      rw [Line.dataEntries, Line.dataEntries, delivered]
    rw [entries, store] at torn
    obtain ⟨link, outputs, free, owners, gone, -, closed⟩ := h.linkTorn service role play torn
    obtain ⟨closes, stays⟩ := h.closes outputs
    rw [recv] at owners
    have same : ∀ e : Entry, Entry.isOpen .data (e.join b (e.blockCount + 1) (s.store.fill b)) = Entry.isOpen .data e := fun _ => rfl
    have isOpen := (s.line n).dataEntries_open b
    obtain ⟨raised, closed⟩ := closed (by rw [any_isOpen_map same]; exact isOpen)
    exact ⟨link, closes, stays, sent, free, owners, gone, fun k => absurd (isOpen.symm.trans k) (by decide),
      fun _ => ⟨raised, closed.trans (closedEntries_map same _)⟩⟩

end Sys2Proof.Machine

/-! O16: the tick (10 R172, R175; 11 R187) and the host pulse monitor (11 R184, R187, R188). -/

namespace Sys2Proof.Machine

set_option Elab.async false

variable {n m : LineId} {s t u v : State} {order : List LineId}

/-! ## The tick -/

theorem periodOf_eq (w : Word) : periodOf w = if w.toNat = 0 then none else if w.toNat = 1 then some 1 else if w.toNat = 2 then some 2
    else if w.toNat ≤ 5 then some 5 else some 10 := by
  unfold periodOf
  split
  · rfl
  · by_cases one : w.toNat = 1
    · rw [if_pos (by omega), if_pos one, one]
    · by_cases two : w.toNat = 2
      · rw [if_pos (by omega), if_neg one, if_pos two, two]
      · rw [if_neg (by omega), if_neg one, if_neg two]

theorem periodOf_eq_none {w : Word} : periodOf w = none ↔ w = 0 := by
  have zero : w.toNat = 0 ↔ w = 0 := by
    constructor
    · intro h
      exact BitVec.eq_of_toNat_eq h
    · rintro rfl
      rfl
  rw [← zero, periodOf_eq]
  split
  next h => simp [h]
  next h =>
    simp only [h, iff_false]
    split
    · exact nofun
    · split
      · exact nofun
      · split <;> exact nofun

theorem State.monitorTick_eq (s : State) : s.monitorTick = { s with
    monitor :=
      if s.monitor.period = none ∧ s.hdr.pulsePeriod ≠ 0 then
        { s.monitor with period := periodOf s.hdr.pulsePeriod, sample := s.hdr.hostPulse, unchanged := 0 }
      else s.monitor } := by
  unfold State.monitorTick
  split
  next p stopped found =>
    rw [if_pos ⟨stopped, fun e => by rw [periodOf_eq_none.mpr e] at found; exact nomatch found⟩, found]
  next other =>
    rw [if_neg]
    rintro ⟨stopped, set⟩
    cases found : periodOf s.hdr.pulsePeriod with
    | none => exact set (periodOf_eq_none.mp found)
    | some p => exact other p stopped found

theorem State.tickOnce_running (running : s.port.engineRunning = true) : s.tickOnce = { s with
    hdr := s.hdr.tickOnce
    sweep := if s.sweep.running then { s.sweep with held := true } else { s.sweep with running := true }
    monitor :=
      if s.monitor.period = none ∧ s.hdr.pulsePeriod ≠ 0 then
        { s.monitor with period := periodOf s.hdr.pulsePeriod, sample := s.hdr.hostPulse, unchanged := 0 }
      else s.monitor } := by
  rw [State.tickOnce, if_pos running, State.monitorTick_eq, State.requestSweep, if_pos (by exact running)]
  rfl

/-! ## The period's end without a silence declared -/

theorem exec_pulsePeriodEnd (order : List LineId) (s : State) :
    exec (.pulsePeriodEnd order) s = done s (s.pulseEnd order) := rfl

theorem State.pulseEnd_stopped (stopped : s.monitor.period = none) : s.pulseEnd order = s := by
  rw [State.pulseEnd, stopped]

/-- The next period's sample, or the stop of the monitor. -/
def State.nextPeriod (s : State) : State :=
  let s := { s with monitor := { s.monitor with sample := s.hdr.hostPulse, period := periodOf s.hdr.pulsePeriod } }
  if s.monitor.period = none then s.hostBack else s

theorem State.pulseEnd_running (running : s.monitor.period ≠ none) : s.pulseEnd order = (s.comparePulse order).nextPeriod := by
  obtain ⟨p, h⟩ := Option.ne_none_iff_exists'.mp running
  rw [State.pulseEnd, h]
  rfl

/-- A silence ended. -/
theorem State.hostBack_eq (s : State) : s.hostBack = { s with
    hdr := if s.monitor.silent then { s.hdr with ev := { s.hdr.ev with bits := s.hdr.ev.bits ||| 0x0080, tally := s.hdr.ev.tally + 1 } } else s.hdr
    monitor := { s.monitor with silent := false, suspended := s.monitor.suspended && !s.monitor.silent } } := by
  rw [State.hostBack]
  cases silent : s.monitor.silent
  · rw [if_neg (by decide), if_neg (by decide), Bool.not_false, Bool.and_true, ← silent]
  · rw [if_pos rfl, if_pos rfl, Bool.not_true, Bool.and_false]
    rfl

theorem State.nextPeriod_eq (s : State) : s.nextPeriod = { s with
    hdr :=
      if s.monitor.silent && (periodOf s.hdr.pulsePeriod).isNone then
        { s.hdr with ev := { s.hdr.ev with bits := s.hdr.ev.bits ||| 0x0080, tally := s.hdr.ev.tally + 1 } }
      else s.hdr
    monitor := ⟨periodOf s.hdr.pulsePeriod, s.hdr.hostPulse, s.monitor.unchanged, s.monitor.silent && (periodOf s.hdr.pulsePeriod).isSome,
      s.monitor.suspended && !(s.monitor.silent && (periodOf s.hdr.pulsePeriod).isNone)⟩ } := by
  rw [State.nextPeriod]
  cases stop : periodOf s.hdr.pulsePeriod with
  | none => rw [if_pos rfl, State.hostBack_eq]; simp
  | some p => rw [if_neg (by simp)]; simp

theorem State.nextPeriod_going (goesOn : periodOf s.hdr.pulsePeriod ≠ none) : s.nextPeriod =
    { s with monitor := { s.monitor with sample := s.hdr.hostPulse, period := periodOf s.hdr.pulsePeriod } } := if_neg goesOn

/-- After a pulse that moved, the monitor is not silent and the next period's start changes nothing of that. -/
theorem State.nextPeriod_moved (s : State) : ({ s with monitor := { s.monitor with unchanged := 0 } } : State).hostBack.nextPeriod = { s with
    hdr := if s.monitor.silent then { s.hdr with ev := { s.hdr.ev with bits := s.hdr.ev.bits ||| 0x0080, tally := s.hdr.ev.tally + 1 } } else s.hdr
    monitor := ⟨periodOf s.hdr.pulsePeriod, s.hdr.hostPulse, 0, false, s.monitor.suspended && !s.monitor.silent⟩ } := by
  rw [State.hostBack_eq, State.nextPeriod_eq]
  cases s.monitor.silent <;> simp

/-- The period's end where the host has moved its pulse. -/
theorem State.comparePulse_moved (moved : s.hdr.hostPulse ≠ s.monitor.sample) :
    s.comparePulse order = { s with monitor := { s.monitor with unchanged := 0 } }.hostBack := if_pos moved

/-- The period's end where it has not, and no silence is declared. -/
theorem State.comparePulse_still (same : s.hdr.hostPulse = s.monitor.sample)
    (early : s.monitor.unchanged + 1 < 3 ∨ s.monitor.silent = true) :
    s.comparePulse order = { s with monitor := { s.monitor with unchanged := min 3 (s.monitor.unchanged + 1) } } := by
  rw [State.comparePulse, if_neg (not_not.mpr same)]
  refine if_neg fun declared => ?_
  obtain ⟨count, silent⟩ := declared
  dsimp only at count silent
  rcases early with few | already
  · omega
  · exact nomatch silent.symm.trans already

/-- A silence declared, before the lines act on it. -/
def State.silentFrom (s : State) : State :=
  { s with
    hdr := { s.hdr with ev := { s.hdr.ev with bits := s.hdr.ev.bits ||| 0x0040, tally := s.hdr.ev.tally + 1 } }
    monitor := { s.monitor with unchanged := 3, silent := true } }

theorem State.comparePulse_silent (same : s.hdr.hostPulse = s.monitor.sample) (third : 2 ≤ s.monitor.unchanged)
    (heard : s.monitor.silent = false) : s.comparePulse order =
      if s.hdr.pulseMode = 1 then
        (order ++ allLines.filter fun n => decide (n ∉ order)).foldl State.silence
          { s.silentFrom with monitor := { s.silentFrom.monitor with suspended := true } }
      else s.silentFrom := by
  have three : min 3 (s.monitor.unchanged + 1) = 3 := by omega
  rw [State.comparePulse, if_neg (not_not.mpr same), three]
  exact if_pos ⟨rfl, heard⟩

/-! ## A line at a silence -/

/-- What a declared silence leaves of line `n` in mode RELEASE. -/
structure State.Silenced (n : LineId) (s t : State) : Prop where
  call : (s.line n).call.state.offHook = true ∨ (s.line n).call.state = .queued →
    (t.line n).call.state = .clearing ∧ (t.line n).call.lastOutcome = .hostSilent
  holdoff : (s.line n).call.state = .holdoff →
    (t.line n).call.state = .idle ∧ (t.line n).call.lastOutcome = .hostSilent ∧ (t.line n).fm.retryPending = false
  clearing : (s.line n).call.state = .clearing → (t.line n).call.state = .clearing ∧ (t.line n).fm.retryPending = false
  retry : (s.line n).call.state = .holdoff ∨ (s.line n).call.state = .clearing → (s.line n).fm.retryPending = true →
    State.RetryAbandoned n .hostSilent [] s t
  rest : (s.line n).call.state = .idle ∨ (s.line n).call.state = .off ∨ (s.line n).call.state = .alerting ∨
    (s.line n).call.state = .fault → (t.line n).call = (s.line n).call

theorem State.silence_call (h : (s.line n).call.state.offHook = true ∨ (s.line n).call.state = .queued) :
    s.silence n = s.clearDecision n .hostSilent := by
  unfold State.silence
  split
  next holdoff => rw [holdoff] at h; exact nomatch h
  next clearing => rw [clearing] at h; exact nomatch h
  next => rfl
  next queued => exact if_pos (h.resolve_right queued)

theorem State.silence_holdoff (h : (s.line n).call.state = .holdoff) : s.silence n =
    ((s.abandonRetry n .hostSilent).enter n .idle .stopped).onCall n fun c => { c with lastOutcome := .hostSilent } := by
  simp only [State.silence, h]

theorem State.silence_clearing (h : (s.line n).call.state = .clearing) : s.silence n = s.abandonRetry n .hostSilent := by
  simp only [State.silence, h]

theorem State.silence_rest (h : (s.line n).call.state = .idle ∨ (s.line n).call.state = .off ∨ (s.line n).call.state = .alerting ∨
    (s.line n).call.state = .fault) : s.silence n = s := by
  rcases h with h | h | h | h <;> simp [State.silence, h, LineState.offHook]

theorem Only.silenceIdle (s : State) (n : LineId) : Only n [.call, .ctl] s
    ((s.enter n .idle .stopped).onCall n fun c => { c with lastOutcome := .hostSilent }) :=
  (Only.enter s n _ _).trans (Only.onCall _ n _)

/-- The silence of the line itself. -/
theorem State.Silenced.own (s : State) (n : LineId) : State.Silenced n s (s.silence n) := by
  refine ⟨fun call => ?_, fun holdoff => ?_, fun clearing => ?_, fun state pending => ?_, fun rest => ?_⟩
  · have cleared := (s.clearDecision_spec n .hostSilent).call
    rw [State.silence_call call, cleared]
    exact ⟨rfl, rfl⟩
  · have fm := s.fm_abandonRetry n .hostSilent
    rw [State.silence_holdoff holdoff]
    generalize s.abandonRetry n .hostSilent = x at *
    refine ⟨?_, ?_, ?_⟩
    · rw [State.line_onCall_self, State.enter_eq_onLine, State.line_onLine_self]; rfl
    · rw [State.line_onCall_self]
    · have kept : (((x.enter n .idle .stopped).onCall n fun c => { c with lastOutcome := .hostSilent }).line n).fm = (x.line n).fm :=
        (Only.silenceIdle x n).of .fm
      rw [kept, fm]
  · have fm := s.fm_abandonRetry n .hostSilent
    have call : ((s.abandonRetry n .hostSilent).line n).call = (s.line n).call := (Only.abandonRetry s n .hostSilent).of .call
    rw [State.silence_clearing clearing, call, fm]
    exact ⟨clearing, rfl⟩
  · have abandoned := (State.abandonRetry_spec plain_hostSilent pending).1
    rcases state with holdoff | clearing
    · rw [State.silence_holdoff holdoff]
      generalize s.abandonRetry n .hostSilent = x at *
      have only := Only.silenceIdle x n
      have later : LaterCards n [] x ((x.enter n .idle .stopped).onCall n fun c => { c with lastOutcome := .hostSilent }) :=
        .of_only (LineEffect.refl.enter _ _).onCall only
      have fm := only.of .fm
      refine abandoned.later later (congrArg FaultRecord.retryPending fm) ?_
      rw [State.line_onCall_self, State.enter_eq_onLine, State.line_onLine_self]; rfl
    · rw [State.silence_clearing clearing]
      exact abandoned
  · rw [State.silence_rest rest]

/-- A second silence of the same line changes nothing of that. -/
theorem State.Silenced.again (h : State.Silenced n s t) : State.Silenced n s (t.silence n) := by
  by_cases call : (s.line n).call.state.offHook = true ∨ (s.line n).call.state = .queued
  · have kept : ((t.silence n).line n).call = (t.line n).call := by
      rw [State.silence_clearing (h.call call).1]
      exact (Only.abandonRetry t n .hostSilent).of .call
    have other {st : LineState} (quiet : st ≠ .queued ∧ st.offHook = false) : (s.line n).call.state ≠ st := by
      rintro rfl
      exact call.elim (fun off => nomatch off.symm.trans quiet.2) quiet.1
    refine ⟨fun _ => by rw [kept]; exact h.call call, fun state => absurd state (other (by decide)),
      fun state => absurd state (other (by decide)), fun state => ?_, fun state => ?_⟩
    · exact absurd state (not_or.mpr ⟨other (by decide), other (by decide)⟩)
    · exact absurd state (not_or.mpr ⟨other (by decide), not_or.mpr ⟨other (by decide), not_or.mpr
        ⟨other (by decide), other (by decide)⟩⟩⟩)
  · have same : t.silence n = t := by
      cases state : (s.line n).call.state
      case holdoff => exact State.silence_rest (.inl (h.holdoff state).1)
      case clearing =>
        obtain ⟨clearing, pending⟩ := h.clearing state
        rw [State.silence_clearing clearing, State.abandonRetry_none pending]
      case idle => exact State.silence_rest (by rw [h.rest (.inl state)]; exact .inl state)
      case off => exact State.silence_rest (by rw [h.rest (.inr (.inl state))]; exact .inr (.inl state))
      case alerting => exact State.silence_rest (by rw [h.rest (.inr (.inr (.inl state)))]; exact .inr (.inr (.inl state)))
      case fault => exact State.silence_rest (by rw [h.rest (.inr (.inr (.inr state)))]; exact .inr (.inr (.inr state)))
      all_goals exact absurd (by rw [state]; decide) call
    rw [same]
    exact h

/-! ## The silence of the other lines -/

/-- Line `n` stands but for its Change Count and its link, and the Tick with it. -/
structure State.Beside (n : LineId) (s t : State) : Prop where
  line : ∃ (k : Link) (c : Word), t.line n = { s.line n with link := k, changeCount := c }
  tick : t.hdr.tick = s.hdr.tick

theorem LineEffect.beside (h : LineEffect m s t) (other : n ≠ m) : State.Beside n s t := ⟨h.aside n other, h.tick⟩

theorem State.Beside.card (h : State.Beside n s t) (i : Nat) : t.card (.line n) i = s.card (.line n) i := by
  obtain ⟨⟨k, c, line⟩, -⟩ := h
  refine State.card_congr (T := .line n) ?_ i
  change (t.line n).table = (s.line n).table
  rw [line]

theorem State.Answered.beside {i : Nat} {st : Status} {r k : Nat} {fs : List Byte} (h : State.Answered (.line n) i st r k fs s t)
    (b : State.Beside n t u) : State.Answered (.line n) i st r k fs s u := by
  have card := b.card i
  obtain ⟨⟨_, _, line⟩, -⟩ := b
  have event := h.event
  refine ⟨by rw [card, h.hand], by rw [card, h.tick], by rw [card, h.status], by rw [card, h.reason], by rw [card, h.count],
    by rw [card, h.fields], ?_⟩
  dsimp only at event ⊢
  rw [line]
  exact event

theorem State.Silenced.after (h : State.Silenced n s t) (b : State.Beside n t u) : State.Silenced n s u := by
  have answered := fun {i st r k fs} (a : State.Answered (.line n) i st r k fs s t) => a.beside b
  obtain ⟨⟨k, c, line⟩, -⟩ := b
  refine ⟨?_, ?_, ?_, fun state pending => ?_, ?_⟩
  · rw [line]; exact h.call
  · rw [line]; exact h.holdoff
  · rw [line]; exact h.clearing
  · have retry := h.retry state pending
    refine ⟨by rw [line]; exact retry.pending, by rw [line]; exact retry.dialCard,
      fun i held out other fits => answered (retry.dial i held out other fits), fun service => ⟨?_, fun once x hx out few fits => ?_⟩⟩
    · rw [line]; exact (retry.pages service).pages
    · exact answered ((retry.pages service).orders once x hx out few fits)
  · rw [line]; exact h.rest

theorem State.Silenced.before (h : State.Silenced n u t) (b : State.Beside n s u) : State.Silenced n s t := by
  obtain ⟨⟨k, c, line⟩, tick⟩ := b
  obtain ⟨call, holdoff, clearing, retry, rest⟩ := h
  rw [line] at call holdoff clearing retry rest
  refine ⟨call, holdoff, clearing, fun state pending => ?_, rest⟩
  obtain ⟨gone, dialCard, dial, pages⟩ := retry state pending
  rw [line] at dial pages
  exact ⟨gone, dialCard, fun i held out other fits => (dial i held out other fits).before tick,
    fun service => (pages service).before_of tick (by rw [line]) (by rw [line])⟩

theorem State.silence_beside (s : State) (other : n ≠ m) : State.Beside n s (s.silence m) := LineEffect.refl.silence.beside other

theorem State.Silenced.foldl (order : List LineId) (h : State.Silenced n s t) : State.Silenced n s (order.foldl State.silence t) := by
  induction order generalizing t with
  | nil => exact h
  | cons m order ih =>
    refine ih ?_
    by_cases same : n = m
    · subst same; exact h.again
    · exact h.after (t.silence_beside same)

theorem State.silenced_foldl {order : List LineId} (named : n ∈ order) (s : State) :
    State.Silenced n s (order.foldl State.silence s) := by
  induction order generalizing s with
  | nil => exact nomatch named
  | cons m order ih =>
    by_cases same : n = m
    · subst same; exact (State.Silenced.own s n).foldl order
    · exact (ih ((List.mem_cons.mp named).resolve_left same) (s.silence m)).before (s.silence_beside same)

/-! ## What the lines leave of the engine -/

/-- What lines that act leave alone of the engine. -/
structure State.LinesAct (s t : State) : Prop where
  port : t.port = s.port
  sweep : t.sweep = s.sweep
  monitor : t.monitor = s.monitor
  hdr : ∃ e k c, s.hdr.ev.Risen e ∧ t.hdr = { s.hdr with ev := e, nextMessage := k, changeCount := c }

theorem State.LinesAct.trans (h : State.LinesAct s t) (k : State.LinesAct t u) : State.LinesAct s u := by
  obtain ⟨_, _, _, risen, hdr⟩ := h.hdr
  obtain ⟨e, b, c, risen', hdr'⟩ := k.hdr
  rw [hdr] at risen' hdr'
  exact ⟨k.port.trans h.port, k.sweep.trans h.sweep, k.monitor.trans h.monitor, e, b, c, risen.trans risen', hdr'⟩

theorem LineEffect.linesAct (h : LineEffect n s t) : State.LinesAct s t := ⟨h.port, h.sweep, h.monitor, h.hdr⟩

theorem State.linesAct_silence (order : List LineId) (s : State) : State.LinesAct s (order.foldl State.silence s) := by
  induction order generalizing s with
  | nil => exact (LineEffect.refl (n := 0)).linesAct
  | cons m order ih => exact LineEffect.refl.silence.linesAct.trans (ih (s.silence m))

theorem mem_wholeOrder (order : List LineId) (n : LineId) : n ∈ order ++ allLines.filter fun n => decide (n ∉ order) := by
  have every : n ∈ allLines := by revert n; decide
  by_cases named : n ∈ order
  · exact List.mem_append_left _ named
  · exact List.mem_append_right _ (List.mem_filter.mpr ⟨every, decide_eq_true named⟩)

/-! ## The obligation -/

theorem exec_tick (s : State) : exec .tick s = done s s.tickOnce := rfl

/-- A silence declared in mode RELEASE. -/
theorem exec_pulsePeriodEnd_release (running : s.monitor.period ≠ none) (same : s.hdr.hostPulse = s.monitor.sample)
    (third : 2 ≤ s.monitor.unchanged) (heard : s.monitor.silent = false) (goesOn : periodOf s.hdr.pulsePeriod ≠ none)
    (release : s.hdr.pulseMode = 1) : ∃ t, exec (.pulsePeriodEnd order) s = .next t ∧
      t.monitor = ⟨periodOf s.hdr.pulsePeriod, s.monitor.sample, 3, true, true⟩ ∧ t.hdr.ev.bits.getLsbD 6 = true ∧
      t.port = s.port ∧ t.sweep = s.sweep ∧ ∀ n, State.Silenced n s t := by
  have run := exec_pulsePeriodEnd order s
  rw [State.pulseEnd_running running, State.comparePulse_silent same third heard, if_pos release] at run
  generalize from_ : ({ s.silentFrom with monitor := { s.silentFrom.monitor with suspended := true } } : State) = x at run
  have silenced := fun n => State.silenced_foldl (mem_wholeOrder order n) x
  have act := State.linesAct_silence (order ++ allLines.filter fun n => decide (n ∉ order)) x
  generalize (order ++ allLines.filter fun n => decide (n ∉ order)).foldl State.silence x = y at *
  obtain ⟨e, k, c, ⟨b, y2, risen⟩, hdr⟩ := act.hdr
  have monitor := act.monitor
  have next : y.nextPeriod = { y with monitor := ⟨periodOf s.hdr.pulsePeriod, s.monitor.sample, 3, true, true⟩ } := by
    rw [State.nextPeriod, monitor, hdr, ← from_]
    rw [if_neg (by exact goesOn)]
    rw [← same]
    rfl
  rw [next] at run
  refine ⟨_, run, rfl, ?_, act.port.trans (by rw [← from_]; rfl), act.sweep.trans (by rw [← from_]; rfl), fun n => ?_⟩
  · change y.hdr.ev.bits.getLsbD 6 = true
    simp only [hdr, risen, ← from_, State.silentFrom, BitVec.getLsbD_or]
    rw [show (0x0040 : Word).getLsbD 6 = true from rfl, Bool.or_true, Bool.true_or]
  · have beside : State.Beside n s x := ⟨⟨_, _, by rw [← from_]; rfl⟩, by rw [← from_]; rfl⟩
    refine ((silenced n).before beside).after ⟨?_, rfl⟩
    obtain ⟨w, line⟩ := commitLine_eq (s.line n) (y.line n)
    exact ⟨_, w, by rw [State.line_commit]; exact line⟩

/-- Settles O16: the tick, and each period's end of the host pulse monitor. -/
theorem tickAndHostPulseMonitor : Obligations.TickAndHostPulseMonitor := by
  refine ⟨fun s => ⟨fun stopped => ?_, fun running => ?_⟩, periodOf_eq, fun order s => ?_⟩
  · have still : s.tickOnce = s := if_neg (by rw [stopped]; decide)
    exact exec_eq_self ((exec_tick s).trans (by rw [still]))
  · refine ⟨_, exec_tick s, ?_⟩
    rw [State.tickOnce_running running]
    exact State.uncounted_commit rfl
  · refine ⟨fun stopped => ?_, fun running => ⟨fun moved => ?_, fun same early => ?_, fun same third heard goesOn keep => ?_,
      fun same third heard goesOn release => ?_⟩⟩
    · exact Leads.of_done (t := s) (by rw [exec_pulsePeriodEnd, State.pulseEnd_stopped stopped]) rfl
    · exact Leads.of_done ((exec_pulsePeriodEnd order s).trans
        (by rw [State.pulseEnd_running running, State.comparePulse_moved moved, State.nextPeriod_moved])) rfl
    · exact Leads.of_done ((exec_pulsePeriodEnd order s).trans
        (by rw [State.pulseEnd_running running, State.comparePulse_still same early, State.nextPeriod_eq])) (by rw [← same])
    · exact Leads.of_done ((exec_pulsePeriodEnd order s).trans
        (by rw [State.pulseEnd_running running, State.comparePulse_silent same third heard, if_neg keep, State.nextPeriod_going (by exact goesOn)]))
        (by rw [← same]; rfl)
    · obtain ⟨t, run, monitor, silent, port, sweep, silenced⟩ := exec_pulsePeriodEnd_release running same third heard goesOn release
      exact ⟨t, run, monitor, silent, port, sweep, fun n =>
        ⟨(silenced n).call, (silenced n).holdoff, (silenced n).clearing, (silenced n).retry, (silenced n).rest⟩⟩

end Sys2Proof.Machine

/-! O23: chain validation (09 R160; 07 R122). -/

namespace Sys2Proof.Machine

set_option Elab.async false

variable {st : Store} {kind : BlockKind} {limit pos fuel first b : Nat} {met seen bs : List Nat}

/-! ## A walk in its blocks -/

/-- The blocks `bs` pass their tests from position `pos` on, each next field naming the block behind it. -/
def Store.Passes (st : Store) (kind : BlockKind) (limit : Nat) (met : List Nat) (pos : Nat) (bs : List Nat) : Prop :=
  ∀ (i : Nat) (h : i < bs.length), st.testBlock kind limit (met ++ bs.take i) (pos + i) bs[i] = none ∧
    ∀ h' : i + 1 < bs.length, st.next bs[i] = bs[i + 1] ∧ bs[i + 1] ≠ 65535

/-- The chain of accepted blocks, with their fills. -/
def Store.chainOf (st : Store) (bs : List Nat) : Chain := bs.map fun b => (b, st.fill b)

theorem Store.Passes.head (h : st.Passes kind limit met pos (b :: bs)) : st.testBlock kind limit met pos b = none := by
  have := (h 0 (Nat.zero_lt_succ _)).1
  simpa using this

theorem Store.Passes.link (h : st.Passes kind limit met pos (b :: bs)) {c : Nat} (next : bs.head? = some c) :
    st.next b = c ∧ c ≠ 65535 := by
  obtain ⟨rest, rfl⟩ : ∃ rest, bs = c :: rest := by
    cases bs with
    | nil => exact nomatch next
    | cons d rest => exact ⟨rest, by rw [List.head?_cons] at next; cases next; rfl⟩
  exact (h 0 (Nat.zero_lt_succ _)).2 (by simp)

theorem Store.Passes.tail (h : st.Passes kind limit met pos (b :: bs)) : st.Passes kind limit (met ++ [b]) (pos + 1) bs := by
  intro i hi
  obtain ⟨test, next⟩ := h (i + 1) (by simpa using hi)
  refine ⟨?_, fun hi' => next (by simpa using hi')⟩
  have at_ : pos + (i + 1) = pos + 1 + i := by omega
  simpa [at_] using test

/-- Which blocks were met matters as a set. -/
theorem Store.testBlock_congr (same : ∀ x, x ∈ seen ↔ x ∈ met) :
    st.testBlock kind limit seen pos b = st.testBlock kind limit met pos b := by
  simp only [Store.testBlock, same]

theorem Store.lt_of_testBlock (h : st.testBlock kind limit met pos b = none) : pos < limit := by
  by_contra reached
  rw [Store.testBlock] at h
  split at h
  · exact nomatch h
  · split at h
    · exact nomatch h
    · split at h
      · exact nomatch h
      · rw [if_pos (by omega)] at h
        exact nomatch h

/-- One block of a walk that passes. -/
theorem Store.walk_passed (passed : st.testBlock kind limit seen pos b = none) : st.walk kind limit (fuel + 1) seen pos b =
    if st.next b = 65535 then .ok [(b, st.fill b)]
    else (st.walk kind limit fuel (b :: seen) (pos + 1) (st.next b)).map ((b, st.fill b) :: ·) := by
  rw [Store.walk, passed]
  refine if_congr Iff.rfl rfl ?_
  cases st.walk kind limit fuel (b :: seen) (pos + 1) (st.next b) <;> rfl

theorem Store.walk_failed {t : ChainTest} (failed : st.testBlock kind limit seen pos b = some t) :
    st.walk kind limit (fuel + 1) seen pos b = .error ⟨pos, t⟩ := by
  rw [Store.walk, failed]

/-- A walk along blocks that pass, to the end of the chain. -/
theorem Store.walk_whole (begins : bs.head? = some first) (passes : st.Passes kind limit met pos bs)
    (ends : ∀ b, bs.getLast? = some b → st.next b = 65535) (same : ∀ x, x ∈ seen ↔ x ∈ met) (enough : limit < fuel + pos) :
    st.walk kind limit fuel seen pos first = .ok (st.chainOf bs) := by
  induction bs generalizing met seen pos fuel first with
  | nil => exact nomatch begins
  | cons b bs ih =>
    obtain rfl : b = first := by simpa using begins
    have passed := (Store.testBlock_congr same).trans passes.head
    have room := Store.lt_of_testBlock passed
    obtain ⟨fuel, rfl⟩ : ∃ k, fuel = k + 1 := ⟨fuel - 1, by omega⟩
    rw [Store.walk_passed passed]
    cases next : bs.head? with
    | none =>
      obtain rfl : bs = [] := List.head?_eq_none_iff.mp next
      rw [if_pos (ends b rfl)]
      rfl
    | some c =>
      obtain ⟨link, inner⟩ := passes.link next
      have more : bs ≠ [] := by rintro rfl; exact nomatch next
      rw [link, if_neg inner, ih next passes.tail (fun x h => ends x (by rw [List.getLast?_cons_of_ne_nil more, h]))
        (fun x => by simp [same, or_comm]) (by omega)]
      rfl

/-- A walk along blocks that pass, to a block that fails. -/
theorem Store.walk_stops {t : ChainTest} (begins : (bs ++ [b]).head? = some first) (passes : st.Passes kind limit met pos bs)
    (link : ∀ c, bs.getLast? = some c → st.next c = b ∧ b ≠ 65535)
    (failed : st.testBlock kind limit (met ++ bs) (pos + bs.length) b = some t) (same : ∀ x, x ∈ seen ↔ x ∈ met)
    (enough : limit < fuel + pos) (begun : pos ≤ limit) :
    st.walk kind limit fuel seen pos first = .error ⟨pos + bs.length, t⟩ := by
  induction bs generalizing met seen pos fuel first with
  | nil =>
    obtain rfl : b = first := by simpa using begins
    obtain ⟨fuel, rfl⟩ : ∃ k, fuel = k + 1 := ⟨fuel - 1, by omega⟩
    exact Store.walk_failed ((Store.testBlock_congr same).trans (by simpa using failed))
  | cons a bs ih =>
    obtain rfl : a = first := by simpa using begins
    have passed := (Store.testBlock_congr same).trans passes.head
    have room := Store.lt_of_testBlock passed
    obtain ⟨fuel, rfl⟩ : ∃ k, fuel = k + 1 := ⟨fuel - 1, by omega⟩
    have goes : ∃ c, (bs ++ [b]).head? = some c ∧ st.next a = c ∧ c ≠ 65535 := by
      cases next : bs.head? with
      | none =>
        obtain rfl : bs = [] := List.head?_eq_none_iff.mp next
        exact ⟨b, rfl, link a rfl⟩
      | some c => exact ⟨c, by rw [List.head?_append, next]; rfl, passes.link next⟩
    obtain ⟨c, begins', next, inner⟩ := goes
    have counted : pos + 1 + bs.length = pos + (bs.length + 1) := by omega
    have link' : ∀ x, bs.getLast? = some x → st.next x = b ∧ b ≠ 65535 := by
      intro x last
      have more : bs ≠ [] := by rintro rfl; exact nomatch last
      exact link x (by rw [List.getLast?_cons_of_ne_nil more, last])
    rw [Store.walk_passed passed, next, if_neg inner, ih begins' passes.tail link' (by simpa [counted] using failed)
      (fun x => by simp [same, or_comm]) (by omega) (by omega), counted]
    rfl

/-! ## The pages of an order -/

theorem Store.chainOf_fst (st : Store) (bs : List Nat) : (st.chainOf bs).map Prod.fst = bs := by
  simp [Store.chainOf, Function.comp_def]

/-- Each page passes and ends, the blocks of the pages before it counting as met. -/
def Store.PagesPass (st : Store) (met : List Nat) (pages : List (List Nat)) : Prop :=
  ∀ (k : Nat) (h : k < pages.length), st.Passes .rows 64 (met ++ (pages.take k).flatten) 0 pages[k] ∧
    ∀ b, pages[k].getLast? = some b → st.next b = 65535

variable {page : List Nat} {pages : List (List Nat)} {firsts : List Nat} {k : Nat}

theorem Store.PagesPass.head (h : st.PagesPass met (page :: pages)) :
    st.Passes .rows 64 met 0 page ∧ ∀ b, page.getLast? = some b → st.next b = 65535 := by
  have := h 0 (Nat.zero_lt_succ _)
  simpa using this

theorem Store.PagesPass.tail (h : st.PagesPass met (page :: pages)) : st.PagesPass (met ++ page) pages := by
  intro i hi
  have := h (i + 1) (by simpa using hi)
  simpa using this

/-- The first page passed, and the pages behind it. -/
theorem Store.validatePages_cons (begins : page.head? = some first) (passes : st.PagesPass met (page :: pages))
    (same : ∀ x, x ∈ seen ↔ x ∈ met) : st.validatePages seen k (first :: firsts) =
      (st.validatePages (page ++ seen) (k + 1) firsts).map (st.chainOf page :: ·) := by
  rw [Store.validatePages, Store.walk_whole begins passes.head.1 passes.head.2 same (by omega)]
  dsimp only
  rw [Store.chainOf_fst]
  cases st.validatePages (page ++ seen) (k + 1) firsts <;> rfl

theorem Store.validatePages_whole (begin : pages.map List.head? = firsts.map some) (passes : st.PagesPass met pages)
    (same : ∀ x, x ∈ seen ↔ x ∈ met) : st.validatePages seen k firsts = .ok (pages.map st.chainOf) := by
  induction pages generalizing met seen k firsts with
  | nil =>
    obtain rfl : firsts = [] := by simpa using begin.symm
    rfl
  | cons page pages ih =>
    cases firsts with
    | nil => exact nomatch begin
    | cons first firsts =>
      obtain ⟨head, tail⟩ := List.cons.inj begin
      rw [Store.validatePages_cons head passes same, ih tail passes.tail (fun x => by simp [same, or_comm])]
      rfl

theorem Store.validatePages_stops {t : ChainTest}
    (begin : pages.map List.head? ++ [(bs ++ [b]).head?] <+: firsts.map some) (passes : st.PagesPass met pages)
    (last : st.Passes .rows 64 (met ++ pages.flatten) 0 bs) (link : ∀ c, bs.getLast? = some c → st.next c = b ∧ b ≠ 65535)
    (failed : st.testBlock .rows 64 (met ++ pages.flatten ++ bs) bs.length b = some t) (same : ∀ x, x ∈ seen ↔ x ∈ met) :
    st.validatePages seen k firsts = .error (k + pages.length, ⟨bs.length, t⟩) := by
  induction pages generalizing met seen k firsts with
  | nil =>
    cases firsts with
    | nil => simp at begin
    | cons first firsts =>
      have begins : (bs ++ [b]).head? = some first := by simpa using (List.cons_prefix_cons.mp begin).1
      rw [Store.validatePages, Store.walk_stops begins (by simpa using last) link (by simpa using failed) same (by omega) (by omega)]
      simp
  | cons page pages ih =>
    cases firsts with
    | nil => simp at begin
    | cons first firsts =>
      obtain ⟨head, tail⟩ := List.cons_prefix_cons.mp begin
      have counted : k + 1 + pages.length = k + (page :: pages).length := by rw [List.length_cons]; omega
      rw [Store.validatePages_cons head passes same, ih tail passes.tail (by simpa using last) (by simpa using failed)
        (fun x => by simp [same, or_comm]), counted]
      rfl

/-! ## The tests by the bytes of a header -/

/-- A block tested, by the owner map and the bytes of its header. -/
theorem Store.testBlock_eq (st : Store) (kind : BlockKind) (limit : Nat) (met : List Nat) (pos b : Nat) :
    st.testBlock kind limit met pos b =
      if st.owners.length ≤ b then some .range
      else if st.owners[b]? ≠ some .host then some .owner
      else if b ∈ met then some .repeated
      else if limit ≤ pos then some .length
      else if st.fill b = 0 ∨ 1016 < st.fill b then some .fill
      else if (Memory.get st.mem (0x4000 + 1024 * b + 4)).toNat ≠ kind.code then some .kind
      else none := by
  by_cases fitted : st.owners.length ≤ b
  · rw [if_pos fitted, Store.testBlock, List.getElem?_eq_none fitted]
  · rw [if_neg fitted, Store.testBlock, List.getElem?_eq_getElem (by omega)]
    simp only [Option.some.injEq, ne_eq]
    rfl

/-- Settles O23: the walk and the walks of the pages, by induction along the blocks that pass. -/
theorem chainValidation : Obligations.ChainValidation := by
  intro st kind limit head word test passes whole stops chain
  have tested : test = st.testBlock := by
    funext kind limit met pos b
    rw [Store.testBlock_eq]
    cases kind <;> rfl
  have passed : ∀ {kind limit met bs}, passes kind limit met bs → st.Passes kind limit met 0 bs := by
    intro kind limit met bs h i hi
    have along := h i hi
    rw [tested] at along
    rw [Nat.zero_add]
    exact along
  have pagesPass : ∀ {pages : List (List Nat)},
      (∀ (k : Nat) (h : k < pages.length), passes .rows 64 (pages.take k).flatten pages[k] ∧ whole pages[k]) →
        st.PagesPass [] pages := fun h k hk => ⟨passed (h k hk).1, (h k hk).2⟩
  have stopped : ∀ {kind limit met bs b t}, stops kind limit met bs b t →
      st.Passes kind limit met 0 bs ∧ (∀ c, bs.getLast? = some c → st.next c = b ∧ b ≠ 65535) ∧
        st.testBlock kind limit (met ++ bs) bs.length b = some t := by
    rintro kind limit met bs b t ⟨along, link, failed⟩
    rw [tested] at failed
    exact ⟨passed along, link, failed⟩
  refine ⟨fun first bs begins along ends => ?_, fun first bs b t begins stop => ?_, fun firsts pages begin along => ?_,
    fun firsts pages bs b t begin along stop => ?_⟩
  · exact Store.walk_whole begins (passed along) ends (fun _ => Iff.rfl) (by omega)
  · obtain ⟨passes, link, failed⟩ := stopped stop
    have walk := Store.walk_stops (seen := []) (fuel := limit + 1) begins passes link (by simpa using failed) (fun _ => Iff.rfl)
      (by omega) (by omega)
    rw [Nat.zero_add] at walk
    exact walk
  · exact Store.validatePages_whole begin (pagesPass along) fun _ => Iff.rfl
  · obtain ⟨last, link, failed⟩ := stopped (kind := .rows) (limit := 64) (met := pages.flatten) stop
    have walk := Store.validatePages_stops (seen := []) (k := 0) begin (pagesPass along) last link failed fun _ => Iff.rfl
    rw [Nat.zero_add] at walk
    exact walk

end Sys2Proof.Machine

/-! O22: an unknown order (10 R174), TAKE BLOCKS (09 R164) and SET CLOCK (10 R175). -/

namespace Sys2Proof.Machine

set_option Elab.async false

variable {n : LineId} {i : Nat} {s t u : State} {codes : Nat → Bool}

/-- A short engine order that does nothing before its answer. -/
theorem State.shortEngineOrder_same (taken : s.takesCard .engine i codes = true) (st : Status) (r k : Nat) (fs : List Byte) :
    State.ShortEngineOrder i st r k fs s s (s.commit ((s.taking .engine i).answerWith .engine i st r k fs)) := by
  obtain ⟨a, b, c, d, e, f⟩ := State.shortEngineOrder (u := s.taking .engine i) taken st r k fs rfl rfl rfl
  exact ⟨a, b, c, d, e, f⟩

theorem State.lines_commit (lines : u.lines = s.lines) : (s.commit u).lines = s.lines := by
  have same : (Vector.ofFn fun n => commitLine (s.line n) (u.line n)) = s.lines := by
    ext i hi : 1
    simp [State.line, lines, commitLine]
  exact same

/-! ## Blocks popped for the host -/

/-- A pop by the fields it changes. -/
theorem State.pop_cons {b : Nat} {rest : List Nat} (free : s.store.free = b :: rest) (o : Owner) : ∃ u, s.pop o = some (b, u) ∧
    u.store.free = rest ∧ u.store.owners = s.store.owners.set b o ∧ u.lines = s.lines ∧ u.engTable = s.engTable ∧
    u.hdr.tick = s.hdr.tick := by
  rw [State.pop, Store.take, free]
  dsimp only
  split
  · exact ⟨_, rfl, rfl, rfl, rfl, rfl, rfl⟩
  · exact ⟨_, rfl, rfl, rfl, rfl, rfl, rfl⟩

/-- As many blocks popped as are asked for, all of them being there. -/
structure State.Popped (k : Nat) (s : State) (r : List Nat × State) : Prop where
  blocks : r.1 = s.store.free.take k
  free : r.2.store.free = s.store.free.drop k
  owners : ∀ b, r.2.store.owners[b]? = if b ∈ s.store.free.take k then some .host else s.store.owners[b]?
  lines : r.2.lines = s.lines
  engTable : r.2.engTable = s.engTable
  tick : r.2.hdr.tick = s.hdr.tick

theorem State.popped_popHost {k : Nat} (fits : ∀ b ∈ s.store.free, b < s.store.owners.length) (enough : k ≤ s.store.free.length) :
    State.Popped k s (s.popHost k) := by
  induction k generalizing s with
  | zero => exact ⟨rfl, rfl, fun b => by simp [State.popHost], rfl, rfl, rfl⟩
  | succ k ih =>
    obtain ⟨b, rest, stack⟩ : ∃ b rest, s.store.free = b :: rest := List.exists_cons_of_ne_nil (by rintro e; simp [e] at enough)
    obtain ⟨u, pop, free, owners, lines, table, tick⟩ := State.pop_cons stack .host
    rw [stack] at fits enough
    have length : u.store.owners.length = s.store.owners.length := by rw [owners, List.length_set]
    have rec_ := ih (s := u) (fun x hx => by rw [length]; exact fits x (by rw [← free]; exact List.mem_cons_of_mem b hx))
      (by rw [free]; simpa using enough)
    rw [State.popHost, pop]
    dsimp only
    have top : s.store.free.take (k + 1) = b :: rest.take k := by rw [stack, List.take_succ_cons]
    refine ⟨by rw [top, rec_.blocks, free], by rw [rec_.free, free, stack]; rfl, fun c => ?_, rec_.lines.trans lines, rec_.engTable.trans table,
      rec_.tick.trans tick⟩
    have bound := fits b List.mem_cons_self
    rw [top, rec_.owners, free, owners, List.getElem?_set]
    by_cases same : b = c
    · subst same; simp [bound]
    · simp [same, Ne.symm same]

theorem askedBlocks_eq (n : Nat) : askedBlocks n = max 1 (min 12 n) := by
  unfold askedBlocks clampNat
  split
  · omega
  · split <;> omega

/-- Blocks on the free stack are fitted. -/
theorem Store.Economy.lt_of_free {st : Store} (h : st.Economy) {b : Nat} (free : b ∈ st.free) : b < st.owners.length :=
  (List.getElem?_eq_some_iff.mp ((h.2 b).mp free)).1

theorem exec_takeBlocks {i : Fin 4} (taken : s.takesCard .engine i.val (· == 33) = true) :
    exec (.takeBlocks i) s = done s ((s.taking .engine i.val).takeBlocksOrder i.val (s.card .engine i.val)) := by
  have dispatch : exec (.takeBlocks i) s = execTakeBlocks i s := rfl
  rw [dispatch, execTakeBlocks, takeOrder_taken taken]

theorem takeBlocks_gives {i : Fin 4} (taken : s.takesCard .engine i.val (· == 33) = true) (sound : s.Sound) {k : Nat}
    (count : k = min (max 1 (min 12 ((s.card .engine i.val).byte 6))) (s.store.free.length - min s.hdr.reserve.toNat 64)) :
    ∃ t, exec (.takeBlocks i) s = .next t ∧
      State.Answered .engine i.val .done 0 k ((s.store.free.take k ++ List.replicate 12 65535).take 12 |>.flatMap wordBytes) s t ∧
      t.store.free = s.store.free.drop k ∧ t.lines = s.lines ∧
      ∀ b, t.store.owners[b]? = if b ∈ s.store.free.take k then some .host else s.store.owners[b]? := by
  have asked : min (askedBlocks ((s.card .engine i.val).byte 6)) ((s.taking .engine i.val).store.freeCount - (s.taking .engine i.val).reserve) = k := by
    rw [askedBlocks_eq, count]; rfl
  have enough : k ≤ s.store.free.length := by omega
  have popped : State.Popped k (s.taking .engine i.val) ((s.taking .engine i.val).popHost k) :=
    State.popped_popHost (fun b free => sound.economy.lt_of_free free) enough
  have fits : i.val < (s.taking .engine i.val).engTable.cards.length := by
    have := State.takesCard_lt taken
    rw [← State.length_taking s .engine i.val] at this
    exact this
  have length : (s.store.free.take k).length = k := by
    rw [List.length_take]; omega
  have run := exec_takeBlocks taken
  have order : (s.taking .engine i.val).takeBlocksOrder i.val (s.card .engine i.val) =
      ((s.taking .engine i.val).popHost k).2.answerWith .engine i.val .done 0 ((s.taking .engine i.val).popHost k).1.length
        ((((s.taking .engine i.val).popHost k).1 ++ List.replicate 12 65535).take 12 |>.flatMap wordBytes) := by
    rw [State.takeBlocksOrder, asked]
  rw [order] at run
  obtain ⟨blocks, free, owners, lines, table, tick⟩ := popped
  generalize (s.taking .engine i.val).popHost k = r at *
  have given : r.1 = s.store.free.take k := blocks
  rw [given, length] at run
  have answered := State.answered_of (s := s) (u := r.2) (T := .engine) (i := i.val) (by rw [State.table, table]; exact fits) .done 0 k
    ((s.store.free.take k ++ List.replicate 12 65535).take 12 |>.flatMap wordBytes) tick
  exact ⟨_, run, answered.commit, free, State.lines_commit lines, owners⟩

theorem setClock_sets {i : Fin 4} (taken : s.takesCard .engine i.val (· == 38) = true) : ∃ t, exec (.setClock i) s = .next t ∧
    State.ShortEngineOrder i.val .done 0 0 (longBytes s.hdr.dayClock.toNat)
      { s with hdr := { s.hdr with dayClock := BitVec.ofNat 32 ((s.card .engine i.val).long 8), dayTicks := 0 } } s t := by
  have dispatch : exec (.setClock i) s = execSetClock i s := rfl
  obtain ⟨a, b, c, d, e, f⟩ := State.shortEngineOrder (u := (s.taking .engine i.val).onHdr fun h =>
    { h with dayClock := BitVec.ofNat 32 ((s.card .engine i.val).long 8), dayTicks := 0 }) taken .done 0 0
      (longBytes s.hdr.dayClock.toNat) rfl rfl rfl
  refine ⟨_, ?_, ⟨a, b, c, d, e, f⟩⟩
  rw [dispatch, execSetClock, takeOrder_taken taken]
  rfl

/-- Settles O22: an unknown order is answered and nothing else; the blocks popped one by one; the clock set. -/
theorem unknownOrdersTakeBlocksAndSetClock : Obligations.UnknownOrdersTakeBlocksAndSetClock := by
  refine ⟨⟨fun n c => ⟨rfl, rfl⟩, fun n i s taken => ?_, fun i s taken => ?_⟩, fun i s => ⟨fun taken sound => ?_, fun taken => ?_⟩⟩
  · have dispatch : exec (.unknownOrder (.line n) i) s = execUnknownOrder (.line n) i s := rfl
    exact ⟨_, by rw [dispatch, execUnknownOrder, takeOrder_taken taken]; rfl, State.shortOrder_same taken .unknown 0 0 []⟩
  · have dispatch : exec (.unknownOrder .engine i) s = execUnknownOrder .engine i s := rfl
    exact ⟨_, by rw [dispatch, execUnknownOrder, takeOrder_taken taken]; rfl, State.shortEngineOrder_same taken .unknown 0 0 []⟩
  · exact takeBlocks_gives taken sound rfl
  · exact setClock_sets taken

end Sys2Proof.Machine

/-! O57: the frames of the checked link read back (06 R97, R98). -/

namespace Sys2Proof.Machine

set_option Elab.async false

namespace Wire

theorem removeEscapes_addEscapes (bs : List Byte) : removeEscapes (addEscapes bs) = some bs := by
  induction bs with
  | nil => rfl
  | cons b bs ih =>
    rw [addEscapes]
    by_cases special : b = flag ∨ b = escape
    · rw [if_pos special, removeEscapes, if_pos rfl]
      rw [ih, Option.map_some, BitVec.xor_assoc, BitVec.xor_self, BitVec.xor_zero]
    · have plain : b ≠ escape := (not_or.mp special).2
      rw [if_neg special]
      unfold removeEscapes
      rw [if_neg plain, ih, Option.map_some]

/-- No flag stands inside a run. -/
theorem not_flag_of_mem_addEscapes {bs : List Byte} {b : Byte} (h : b ∈ addEscapes bs) : b ≠ flag := by
  induction bs with
  | nil => exact nomatch h
  | cons c bs ih =>
    rw [addEscapes] at h
    by_cases special : c = flag ∨ c = escape
    · rw [if_pos special] at h
      rcases List.mem_cons.mp h with rfl | h
      · decide
      · rcases List.mem_cons.mp h with rfl | h
        · rcases special with rfl | rfl <;> decide
        · exact ih h
    · rw [if_neg special] at h
      rcases List.mem_cons.mp h with rfl | h
      · exact (not_or.mp special).1
      · exact ih h

theorem readNumber_numberByte (k : BitVec 7) : readNumber (numberByte k) = some k := by
  have value : (numberByte k).toNat = k.toNat := BitVec.toNat_setWidth_of_le (by decide)
  rw [readNumber, if_pos (by rw [value]; exact k.isLt)]
  refine congrArg some (BitVec.eq_of_toNat_eq ?_)
  rw [BitVec.toNat_setWidth, value, Nat.mod_eq_of_lt k.isLt]

theorem readFields_fields {f : LinkFrame} (sendable : f.sendable = true) : readFields (fields f) = some f := by
  cases f with
  | info k data =>
    have room : data ≠ [] ∧ data.length ≤ 256 := of_decide_eq_true sendable
    rw [fields, readFields, if_pos rfl]
    rw [if_pos room, readNumber_numberByte, Option.map_some]
  | receipt k => simp [fields, readFields, readNumber_numberByte]
  | reject k => simp [fields, readFields, readNumber_numberByte]
  | hold k => simp [fields, readFields, readNumber_numberByte]
  | linkOpen w l =>
    obtain ⟨low, high, short, long⟩ : 1 ≤ w ∧ w ≤ 15 ∧ 1 ≤ l ∧ l ≤ 256 := of_decide_eq_true sendable
    have window : (BitVec.ofNat 8 w).toNat = w := by rw [BitVec.toNat_ofNat]; omega
    have length : (BitVec.ofNat 8 (l - 1)).toNat + 1 = l := by rw [BitVec.toNat_ofNat]; omega
    rw [fields, readFields, if_neg (by decide), if_neg (by decide)]
    dsimp only
    rw [if_pos (by rw [window]; exact ⟨rfl, low, high⟩), window, length]
  | linkClose => rfl

theorem readContent_content {f : LinkFrame} (sendable : f.sendable = true) : readContent (content f) = some f := by
  have some_field : 1 ≤ (fields f).length := by cases f <;> simp [fields]
  have length : (content f).length = (fields f).length + 2 := by simp [content, checkBytes]
  have before : (content f).length - 2 = (fields f).length := by omega
  have head : (content f).take ((content f).length - 2) = fields f := by rw [before, content, List.take_left]
  have check : (content f).drop ((content f).length - 2) = checkBytes (fields f) := by rw [before, content, List.drop_left]
  rw [readContent, head, check, if_pos ⟨by omega, rfl⟩, readFields_fields sendable]

theorem receive_run {f : LinkFrame} (sendable : f.sendable = true) : receive (run f) = some f := by
  rw [receive, run, removeEscapes_addEscapes]
  exact readContent_content sendable

end Wire

/-- Settles O57: escapes, check and fields each read back, and the check of nine digits. -/
theorem linkFramesRoundTrip : Obligations.LinkFramesRoundTrip :=
  ⟨fun _ sendable => ⟨Wire.receive_run sendable, fun _ => Wire.not_flag_of_mem_addEscapes⟩, by decide +kernel⟩

end Sys2Proof.Machine

/-! O51: a pump's settle check complete (02 R25; 03 R50, R56; 04 R61, R63; 10 R179). -/

namespace Sys2Proof.Machine

set_option Elab.async false

variable {n m : LineId} {s t u x : State} {p : PumpId} {i : Nat}

theorem exec_pumpSettleComplete (settling : (s.pump p).state = .settling) (pass volt : Bool) :
    exec (.pumpSettleComplete p pass volt) s = done s (s.settleChecked p pass volt).startUp :=
  congrArg (done s) (if_pos settling)

theorem State.startUp_running (running : x.port.engineRunning = true) : x.startUp = x :=
  if_neg fun h => by rw [running] at h; exact nomatch h.1

/-! ## A pump that settles for no line -/

theorem State.settleChecked_idle (line : (s.pump p).line = none) :
    s.settleChecked p true volt = (s.onPump p fun _ => Pump.inState .free none).arbitrate ∧
    s.settleChecked p false volt = (s.onPump p fun _ => Pump.inState .out none).raiseEngine .pumpOut := by
  constructor <;> simp only [State.settleChecked, line] <;> rfl

theorem State.arbitrate_unclaimed (queue : s.queue = ⟨[], []⟩) : s.arbitrate = s := by
  refine State.arbitrate_of_granted fun q m waits => ?_
  rw [State.queued, queue] at waits
  exact waits.elim nofun nofun

theorem State.settleChecked_freed (line : (s.pump p).line = none) (queue : s.queue = ⟨[], []⟩) {volt : Bool} :
    s.settleChecked p true volt = s.onPump p fun _ => Pump.inState .free none := by
  rw [(State.settleChecked_idle line).1]
  exact State.arbitrate_unclaimed queue

theorem State.onPump_onPump (s : State) (p : PumpId) (f g : Pump → Pump) : (s.onPump p f).onPump p g = s.onPump p (g ∘ f) := by
  have pump := s.pump_onPump_self p f
  unfold State.onPump at *
  simp [State.pump] at *

/-- A pump that becomes FREE beside claims, no other being FREE, settles for the head of the queue. -/
theorem State.arbitrate_freed (busy : ∀ q, q ≠ p → (s.pump q).state ≠ .free) (head : s.queue.head = some m) :
    (s.onPump p fun _ => Pump.inState .free none).arbitrate =
      { s.onPump p fun _ => Pump.inState .settling (some m) with queue := s.queue.remove m } := by
  have free : ((s.onPump p fun _ => Pump.inState .free none).pump p).state = .free := by rw [State.pump_onPump_self]; rfl
  rw [State.arbitrate_of_one free (fun q => ?_) head]
  · have two := State.onPump_onPump s p (fun _ => Pump.inState .free none) fun _ => Pump.inState .settling (some m)
    exact congrArg (fun y : State => { y with queue := s.queue.remove m }) two
  · intro freed
    by_contra other
    rw [State.pump_onPump_ne s other] at freed
    exact busy q other freed

/-! ## A pump that settles for a line -/

/-- The pump attached to its line, the claim served. -/
def State.attach (s : State) (p : PumpId) (n : LineId) : State :=
  (s.onPump p fun _ => Pump.inState .attached (some n)).onLine n fun l => { l with claim := none, call := { l.call with pump := some p } }

theorem State.line_attach (s : State) (p : PumpId) (n : LineId) : (s.attach p n).line n =
    { s.line n with claim := none, call := { (s.line n).call with pump := some p } } := State.line_onLine_self ..

theorem LineEffect.attach (s : State) (p : PumpId) (n : LineId) : LineEffect n s (s.attach p n) :=
  (LineEffect.refl.onPump _ _).onLine (by exact fun _ k => ⟨k.acc, k.lastQ, k.rings, k.digits⟩)

theorem State.heldPump_attach (s : State) (p : PumpId) (n : LineId) : (s.attach p n).heldPump n = some p := by
  have pump : (s.attach p n).pump p = Pump.inState .attached (some n) :=
    State.pump_onPump_self s p fun _ => Pump.inState .attached (some n)
  exact State.heldPump_eq (by rw [State.line_attach]) (by rw [pump]; rfl) (by rw [pump]; rfl)

theorem State.settleChecked_served (line : (s.pump p).line = some n) (volt : Bool) :
    s.settleChecked p true volt = (s.attach p n).grantSettled n volt := by
  simp only [State.settleChecked, line] <;> rfl

section
variable (settling : (s.pump p).state = .settling) (running : s.port.engineRunning = true) (line : (s.pump p).line = some n)
  {volt : Bool}
include settling running line

theorem exec_settled_served (effect : LineEffect n s ((s.attach p n).grantSettled n volt)) :
    exec (.pumpSettleComplete p true volt) s = done s ((s.attach p n).grantSettled n volt) := by
  rw [exec_pumpSettleComplete settling, State.settleChecked_served line, State.startUp_running (effect.port ▸ running)]

end

/-! ### Training as the answerer -/

/-- The line in training as the answerer, from an attached pump. -/
def State.trains (s : State) (p : PumpId) (n : LineId) (v : Service) (q : AnswerSeq) : State :=
  ((s.onLine n fun l =>
    { l with
      claim := none, seq := q
      call := { l.call with state := .training, service := v, pump := some p }
      ctl := { l.ctl with stateTimer := .running (l.profile.trainingLimit * 1000) }
      prog := { l.prog with pathTimer := .stopped } }).onPump p fun _ =>
    { Pump.inState .attached (some n) with activity := .training, role := .answerer }).emit (.trainingStart n .answerer)

/-- Training begins after a change of the attached line. -/
theorem State.trains_eq {f : Line → Line} {v : Service} {q : AnswerSeq}
    (line : f ((s.attach p n).line n) = { s.line n with
      claim := none, seq := q
      call := { (s.line n).call with state := .training, service := v, pump := some p }
      ctl := { (s.line n).ctl with stateTimer := .running ((s.line n).profile.trainingLimit * 1000) }
      prog := { (s.line n).prog with pathTimer := .stopped } }) :
    (((s.attach p n).onLine n f).onPump p fun q => { q with activity := .training, role := .answerer }).emit
      (.trainingStart n .answerer) = s.trains p n v q := by
  rw [State.line_attach] at line
  have same : (s.onLine n fun l => f { l with claim := none, call := { l.call with pump := some p } }) = s.onLine n fun l =>
      { l with
        claim := none, seq := q
        call := { l.call with state := .training, service := v, pump := some p }
        ctl := { l.ctl with stateTimer := .running (l.profile.trainingLimit * 1000) }
        prog := { l.prog with pathTimer := .stopped } } := State.onLine_congr line
  have lines := congrArg (fun y : State => y.onPump p fun _ => Pump.inState .attached (some n)) same
  have attached : (s.attach p n).onLine n f = (s.onLine n fun l => f { l with claim := none, call := { l.call with pump := some p } }).onPump p
      fun _ => Pump.inState .attached (some n) := by
    rw [State.attach, State.onLine_onLine]
    rfl
  rw [attached, lines, State.onPump_onPump]
  rfl

theorem State.beginTraining_attach (s : State) (p : PumpId) (n : LineId) :
    (s.attach p n).beginTraining n .answerer = s.trains p n (s.line n).call.service (s.line n).seq := by
  rw [State.beginTraining_held .answerer (s.heldPump_attach p n)]
  exact State.trains_eq (by rw [State.line_attach])

/-! ### Going off hook -/

theorem State.offHookAttempt_attach (s : State) (p : PumpId) (n : LineId) : (s.attach p n).offHookAttempt n true =
    if (s.line n).profile.blindDialling then ((s.attach p n).closeHook n).enterDialling n
    else ((s.attach p n).closeHook n).enter n .seized (.running ((s.line n).profile.dialToneWait * 1000)) := by
  have profile : (((s.attach p n).closeHook n).line n).profile = (s.line n).profile := by
    simp [State.closeHook, State.line_attach]
  rw [State.offHookAttempt, if_pos rfl]
  dsimp only
  rw [profile]

/-- Off hook with its pump, in a state, the dialler changed by `f`. -/
theorem State.closeHook_attach (s : State) (p : PumpId) (n : LineId) (st : LineState) (timer : Timer) :
    ((s.attach p n).closeHook n).enter n st timer = (s.onPump p fun _ => Pump.inState .attached (some n)).onLine n fun l =>
      { l with
        claim := none
        call := { l.call with state := st, pump := some p, tOffhook := s.hdr.tick }
        ctl :=
          { l.ctl with
            stateTimer := timer, loopPresent := true, loopMeasuring := false, toneInFrame := l.ctl.progressTone }
        voice := { l.voice with frame := [], ahead := 0 } } := by
  simp only [State.attach, State.closeHook, State.enter, State.onCall, State.onCtl, State.onVoice, State.onLine_onLine]
  rfl

/-- A symbol taken sets the dialler's phase, whatever it was. -/
theorem State.takeSymbols_phase_irrelevant (s : State) (n : LineId) (ph : DialPhase) (xs : List Byte) :
    (s.onDialler n fun d => { d with phase := ph }).takeSymbols n xs = s.takeSymbols n xs := by
  induction xs generalizing s with
  | nil => simp [State.takeSymbols, State.enterProgress, State.enter, State.onDialler, State.onCall, State.onCtl, State.onProg, State.onLine_onLine]
  | cons b xs ih =>
    have later : ∀ f : Dialler → Dialler, (∀ d, { f { d with phase := ph } with phase := ph } = { f d with phase := ph }) →
        ((s.onDialler n fun d => { d with phase := ph }).onDialler n f).takeSymbols n xs = (s.onDialler n f).takeSymbols n xs :=
      fun f hf => by
        rw [← ih (s.onDialler n f), ← ih ((s.onDialler n fun d => { d with phase := ph }).onDialler n f)]
        simp only [State.onDialler, State.onLine_onLine, hf]
    have start : ∀ ph' ms, ((s.onDialler n fun d => { d with phase := ph }).onDialler n fun d =>
        { d with rest := xs, phase := ph', timer := .running ms }) =
          s.onDialler n fun d => { d with rest := xs, phase := ph', timer := .running ms } := fun ph' ms => by
      simp only [State.onDialler, State.onLine_onLine]
    have mode : ((s.onDialler n fun d => { d with phase := ph }).line n).dialler.mode = (s.line n).dialler.mode := by simp
    have profile : ((s.onDialler n fun d => { d with phase := ph }).line n).profile = (s.line n).profile := by simp
    simp only [State.takeSymbols, mode, profile, start, later (fun d => { d with mode := .pulse }) (fun _ => rfl),
      later (fun d => { d with mode := .tone }) (fun _ => rfl), later (fun d => { d with skipped := d.skipped + 1 }) (fun _ => rfl)]

/-- The first symbol of blind dialling is taken as at the end of a pause. -/
theorem exec_pauseEnd_of (dialling : (x.line n).call.state = .dialling) :
    exec (.pauseEnd n) (x.onDialler n fun d => { d with phase := .pause }) =
      done (x.onDialler n fun d => { d with phase := .pause }) (x.nextSymbol n) := by
  have dispatch : ∀ y : State, exec (.pauseEnd n) y = execPauseEnd n y := fun _ => rfl
  have at_ : ((x.onDialler n fun d => { d with phase := .pause }).line n).dialsAt .pause = true := by
    simp [Line.dialsAt, dialling]
  have rest : ((x.onDialler n fun d => { d with phase := .pause }).line n).dialler.rest = (x.line n).dialler.rest := by simp
  rw [dispatch, execPauseEnd, if_pos at_, State.nextSymbol, State.takeSymbols_phase_irrelevant, rest]
  rfl

/-- A fault of a line whose call record changed in its pump alone. -/
theorem State.Faulted.before_pump {k : FaultKind} {d : FailDetail} (h : State.Faulted n k d u t)
    (call : ∃ q, (u.line n).call = { (s.line n).call with pump := q }) (profile : (u.line n).profile = (s.line n).profile)
    (fm : (u.line n).fm = (s.line n).fm) (effect : LineEffect n s u) : State.Faulted n k d s t := by
  obtain ⟨q, call⟩ := call
  have applied : (u.line n).applied k = (s.line n).applied k := by simp [Line.applied, call, profile, fm]
  have tick := effect.tick
  have c := h.cleared
  refine ⟨⟨?_, ?_, c.claim, c.pumps, c.down, c.play, c.recording, c.profile.trans profile, effect.events.trans c.events,
    effect.aside.trans c.others⟩, ?_, ?_, ?_, ?_, ?_⟩
  · rw [c.call, call, tick]
  · rw [c.guardTime, profile]
  · rw [h.last, applied, tick]
  · rw [h.latch, applied, fm]
  · rw [h.retryCount, applied, fm]
  · rw [h.retryPending, applied, fm]
  · rw [← applied]; exact h.event

theorem Faults.of_done_pump {c : Instr} {k : FaultKind} {d : FailDetail} {a : Bool} (run : exec c s = done s (u.takeFault n k d false a))
    (takes : (u.line n).takesFault a = true) (call : ∃ q, (u.line n).call = { (s.line n).call with pump := q })
    (profile : (u.line n).profile = (s.line n).profile) (fm : (u.line n).fm = (s.line n).fm) (effect : LineEffect n s u) :
    Faults c n k d s := by
  have faulted := (State.takeFault_spec u n k d a takes).before_pump call profile fm effect
  have whole := effect.takeFault k d false a
  generalize u.takeFault n k d false a = v at *
  exact ⟨_, run, faulted.commit, whole.commit.steady⟩

/-! ### The adaptive switch -/

section
variable (playing : (x.line n).voice.play ≠ .none)

/-- The play cut by the switch. -/
def State.switched (x : State) (n : LineId) : State := x.finishPlay n .switched .cut 16

/-- The line at the switch, its play cut. -/
def State.switching (x : State) (n : LineId) : State := x.onLine n fun l =>
  { l with call := { l.call with service := l.seq.switchTo }, seq := { l.seq with step := .host, adaptive := false } }

theorem State.adaptiveSwitch_silent (silent : (x.line n).voice.play = .none) :
    x.adaptiveSwitch n = (x.switching n).beginTraining n .answerer := by
  rw [State.adaptiveSwitch, if_pos silent, State.switching]
  dsimp only
  rw [State.onSeq, State.onCall, State.onLine_onLine]
  exact congrArg (State.beginTraining · n .answerer) (State.onLine_congr rfl)

include playing in
theorem State.adaptiveSwitch_playing : x.adaptiveSwitch n = ((x.switched n).switching n).beginTraining n .answerer := by
  rw [State.adaptiveSwitch, if_neg playing, State.switching, State.switched]
  dsimp only
  rw [State.onSeq, State.onCall, State.onLine_onLine]
  exact congrArg (State.beginTraining · n .answerer) (State.onLine_congr rfl)

end

theorem State.line_switching (x : State) (n : LineId) : (x.switching n).line n = { x.line n with
    call := { (x.line n).call with service := (x.line n).seq.switchTo }
    seq := { (x.line n).seq with step := .host, adaptive := false } } := State.line_onLine_self ..

theorem State.grantSettled_switch (state : (s.line n).call.state = .connected) (step : (s.line n).seq.step = .switchWait) (volt : Bool) :
    (s.attach p n).grantSettled n volt = (s.attach p n).adaptiveSwitch n := by
  have connected : ((s.attach p n).line n).call.state = .connected := by rw [State.line_attach]; exact state
  have waits : ((s.attach p n).line n).seq.step = .switchWait := by rw [State.line_attach]; exact step
  simp only [State.grantSettled, connected, waits, if_true]

/-- The line in training after the switch. -/
def State.switchTraining (x : State) (n : LineId) (p : PumpId) : State :=
  ((x.onLine n fun l =>
      { l with
        call := { l.call with state := .training, service := l.seq.switchTo }
        seq := { l.seq with step := .host, adaptive := false }
        ctl := { l.ctl with stateTimer := .running (l.profile.trainingLimit * 1000) }
        prog := { l.prog with pathTimer := .stopped } }).onPump p fun q => { q with activity := .training, role := .answerer }).emit
      (.trainingStart n .answerer)

theorem State.line_switchTraining (x : State) (n : LineId) (p : PumpId) : (x.switchTraining n p).line n = { x.line n with
    call := { (x.line n).call with state := .training, service := (x.line n).seq.switchTo }
    seq := { (x.line n).seq with step := .host, adaptive := false }
    ctl := { (x.line n).ctl with stateTimer := .running ((x.line n).profile.trainingLimit * 1000) }
    prog := { (x.line n).prog with pathTimer := .stopped } } := by
  simp [State.switchTraining]

theorem State.beginTraining_switching (held : x.heldPump n = some p) :
    (x.switching n).beginTraining n .answerer = x.switchTraining n p := by
  have held' : (x.switching n).heldPump n = some p := by
    rw [← held]
    exact State.heldPump_congr (by rw [State.line_switching]) rfl
  rw [State.beginTraining_held .answerer held', State.switching, State.onLine_onLine]
  rfl

theorem LineEffect.switchTraining (x : State) (n : LineId) (p : PumpId) : LineEffect n x (x.switchTraining n p) :=
  ((LineEffect.refl.onLine (by exact fun _ k => ⟨k.acc, k.lastQ, k.rings, k.digits⟩)).onPump p _).emit _

theorem leads_switch_silent (settling : (s.pump p).state = .settling) (running : s.port.engineRunning = true)
    (line : (s.pump p).line = some n) (volt : Bool) (state : (s.line n).call.state = .connected)
    (step : (s.line n).seq.step = .switchWait) (silent : (s.line n).voice.play = .none) :
    Leads (.pumpSettleComplete p true volt) s
      (s.trains p n (s.line n).seq.switchTo { (s.line n).seq with step := .host, adaptive := false }) := by
  have run := exec_settled_served settling running line ((LineEffect.attach s p n).grantSettled volt)
  rw [State.grantSettled_switch state step, State.adaptiveSwitch_silent (by rw [State.line_attach]; exact silent),
    State.beginTraining_switching (s.heldPump_attach p n), State.switchTraining, State.trains_eq (by rw [State.line_attach])] at run
  exact Leads.of_done run rfl

/-- What the end of a play leaves of store and slots. -/
theorem State.playEnds (x : State) (n : LineId) :
    (∀ first, (x.line n).voice.play = .chain first →
      (x.playStopped n).store = x.store.assignAll ((x.line n).voice.playChain.map Prod.fst) .host) ∧
    (∀ g, (x.line n).voice.play = .slot g → (x.slot g).state = .loaded →
      (x.playStopped n).slot g = { x.slot g with playCount := (x.slot g).playCount - 1 }) ∧
    (∀ g, (x.line n).voice.play = .slot g → (x.slot g).state = .withdrawing → (x.slot g).playCount = 1 →
      ((x.playStopped n).slot g).state = .empty) := by
  refine ⟨fun first play => by rw [State.playStopped_chain play]; rfl, fun g play loaded => ?_, fun g play withdrawing one => ?_⟩
  · have rest : ((x.onVoice n Voice.stopped).slot g).state ≠ .withdrawing ∨ 1 < ((x.onVoice n Voice.stopped).slot g).playCount :=
      .inl (by rw [show (x.onVoice n Voice.stopped).slot g = x.slot g from rfl, loaded]; decide)
    rw [State.playStopped_slot play, State.slotPlayEnds_rest rest, State.slot_onSlot, if_pos rfl]
    rfl
  · have last := State.slotPlayEnds_last (s := x.onVoice n Voice.stopped) (g := g) withdrawing (le_of_eq one)
    rw [State.playStopped_slot play, State.slot_congr last.2.1 g, ((x.onVoice n Voice.stopped).emptySlot_spec g).2 g, if_pos rfl]
    rfl

/-- The switch that cuts a play. -/
theorem switch_playing (settling : (s.pump p).state = .settling) (running : s.port.engineRunning = true)
    (line : (s.pump p).line = some n) (volt : Bool) (state : (s.line n).call.state = .connected)
    (step : (s.line n).seq.step = .switchWait) (playing : (s.line n).voice.play ≠ .none) :
    let v := (s.line n).voice
    ∃ t, exec (.pumpSettleComplete p true volt) s = .next t ∧
      (t.line n).call =
        { (s.line n).call with state := .training, service := (s.line n).seq.switchTo, pump := some p } ∧
      (t.line n).claim = none ∧ (t.line n).seq = { (s.line n).seq with step := .host, adaptive := false } ∧
      (t.line n).ctl.stateTimer = .running ((s.line n).profile.trainingLimit * 1000) ∧
      t.pump p = { Pump.inState .attached (some n) with activity := .training, role := .answerer } ∧
      t.outputs.getLast? = some (.trainingStart n .answerer) ∧ (t.line n).voice.play = .none ∧
      (∀ j, v.playCard = some j → j < (s.line n).table.cards.length →
        State.Answered (.line n) j .cut 16 0 (longBytes v.samplesPlayed ++ [3]) s t) ∧
      (∀ first, v.play = .chain first → t.store = s.store.assignAll (v.playChain.map Prod.fst) .host) ∧
      (∀ g, v.play = .slot g → (s.slot g).state = .loaded →
        t.slot g = { s.slot g with playCount := (s.slot g).playCount - 1 }) ∧
      (∀ g, v.play = .slot g → (s.slot g).state = .withdrawing → (s.slot g).playCount = 1 → (t.slot g).state = .empty) ∧
      State.Aside n s t ∧ State.Steady s t := by
  have attached := LineEffect.attach s p n
  have held := s.heldPump_attach p n
  have voice : ((s.attach p n).line n).voice = (s.line n).voice := by rw [State.line_attach]
  have run := exec_settled_served settling running line (attached.grantSettled volt)
  have whole := attached.grantSettled volt
  rw [State.grantSettled_switch state step, State.adaptiveSwitch_playing (by rw [voice]; exact playing)] at run whole
  have line_x := State.line_attach s p n
  have pump_x : (s.attach p n).pump p = Pump.inState .attached (some n) :=
    State.pump_onPump_self s p fun _ => Pump.inState .attached (some n)
  have same : (s.attach p n).store = s.store ∧ (s.attach p n).slots = s.slots := ⟨rfl, rfl⟩
  generalize s.attach p n = x at *
  have only : Only n [.voice, .slots, .store, .others, .link, .outputs, .engTable, .event, .table, .ev] x (x.switched n) := Only.finishPlay x n _ _ _
  have stopped := Only.finishPlay_playStopped x n .switched .cut 16
  have silent : ((x.switched n).line n).voice.play = .none := by
    have kept : ((x.switched n).line n).voice = ((x.playStopped n).line n).voice := stopped.of .voice
    rw [kept, State.voice_playStopped]
    rfl
  have store : (x.switched n).store = (x.playStopped n).store := stopped.of .store
  have slots : (x.switched n).slots = (x.playStopped n).slots := stopped.of .slots
  have answered : ∀ j, (s.line n).voice.playCard = some j → j < (s.line n).table.cards.length →
      State.Answered (.line n) j .cut 16 0 (longBytes (s.line n).voice.samplesPlayed ++ [3]) s (x.switched n) := by
    intro j card fits
    have before := attached.trans (LineEffect.playStopped x n)
    have length := before.length_line
    rw [State.switched, State.finishPlay_some (by rw [voice]; exact card), voice]
    generalize x.playStopped n = z at *
    exact State.answered_of (by rw [State.table, length]; exact fits) .cut 16 0 _ before.tick
  obtain ⟨chain, loaded, withdrawing⟩ := x.playEnds n
  rw [voice] at chain loaded withdrawing
  rw [same.1] at chain
  simp only [State.slot_congr same.2] at loaded withdrawing
  have held' : (x.switched n).heldPump n = some p := by
    rw [← held]
    exact State.heldPump_congr (congrArg CallRecord.pump (only.of .call)) (only.of .pumps)
  have fields : ((x.switched n).line n).call = (x.line n).call ∧ ((x.switched n).line n).claim = (x.line n).claim ∧
      ((x.switched n).line n).seq = (x.line n).seq ∧ ((x.switched n).line n).profile = (x.line n).profile ∧
      (x.switched n).pump p = x.pump p := ⟨only.of .call, only.of .claim, only.of .seq, only.of .profile,
    congrArg (fun v : Vector Pump 3 => v[p]) (only.of .pumps)⟩
  obtain ⟨call, claim, seq, profile, pump⟩ := fields
  rw [line_x] at call claim seq profile
  rw [pump_x] at pump
  rw [State.beginTraining_switching held'] at run whole
  have later : LineEffect n (x.switched n) ((x.switched n).switchTraining n p) := LineEffect.switchTraining _ n p
  have cards : ∀ j, ((x.switched n).switchTraining n p).card (.line n) j = (x.switched n).card (.line n) j := fun j =>
    State.card_congr (T := .line n)
      (by change (((x.switched n).switchTraining n p).line n).table = _; rw [State.line_switchTraining]; rfl) j
  have line' := State.line_switchTraining (x.switched n) n p
  have pump' := State.pump_onPump_self ((x.switched n).switching n) p fun q => { q with activity := .training, role := .answerer }
  refine ⟨_, run, ?_, ?_, ?_, ?_, ?_, ?_, ?_, fun j card fits => ?_, fun first play => ?_, fun g play load => ?_,
    fun g play withdraw one => ?_, whole.commit.aside, whole.commit.steady⟩
  · rw [State.line_commit]
    change ((State.switchTraining _ n p).line n).call = _
    rw [line', seq]
    dsimp only
    rw [call]
  · rw [State.line_commit]
    change ((State.switchTraining _ n p).line n).claim = _
    rw [line']
    exact claim
  · rw [State.line_commit]
    change ((State.switchTraining _ n p).line n).seq = _
    rw [line', seq]
  · rw [State.line_commit]
    change ((State.switchTraining _ n p).line n).ctl.stateTimer = _
    rw [line', profile]
  · exact pump'.trans (congrArg (fun q : Pump => { q with activity := .training, role := .answerer }) pump)
  · exact List.getLast?_concat
  · rw [State.line_commit]
    change ((State.switchTraining _ n p).line n).voice.play = _
    rw [line']
    exact silent
  · exact ((answered j card fits).later later (.inl rfl) (cards j)).commit
  · exact store.trans (chain first play)
  · exact (State.slot_congr slots g).trans (loaded g play load)
  · exact (congrArg Slot.state (State.slot_congr slots g)).trans (withdrawing g play withdraw one)

/-! ### A failed settle check -/

/-- The claim of a line whose settle check failed goes back to the head of its class. -/
theorem State.requeue_waits {c : Claim} (claim : (x.line n).claim = some c) (runs : c.wait.isRunning = true)
    (left : c.wait ≠ .running 0) (busy : ∀ q, (x.pump q).state ≠ .free) :
    x.requeue n = { x with queue := x.queue.enqueueHead n c.cls } := by
  have kept : ({ x with queue := x.queue.enqueueHead n c.cls } : State).onLine n (fun l => { l with claim := some { c with wait := c.wait } }) =
      { x with queue := x.queue.enqueueHead n c.cls } := by
    refine (State.onLine_congr (g := fun l => l) ?_).trans (State.onLine_id _ n)
    change { x.line n with claim := some c } = x.line n
    rw [← claim]
  have dry : ({ x with queue := x.queue.enqueueHead n c.cls } : State).lowestFree = none := by
    cases found : ({ x with queue := x.queue.enqueueHead n c.cls } : State).lowestFree with
    | none => rfl
    | some q => exact absurd (State.lowestFree_eq_some found) (busy q)
  simp only [State.requeue, claim, runs, if_true, kept, dry, Option.isSome_none, Bool.false_eq_true, if_false, if_neg left]

/-! ## The end of start-up -/

theorem State.startUp_last (starting : x.port.engineRunning = false) (settled : ∀ q, (x.pump q).state ≠ .settling) :
    x.startUp = { x with port := { x.port with engineRunning := true } }.onHdr fun h =>
      { h with ev := { h.ev with bits := h.ev.bits ||| 1, tally := h.ev.tally + 1 } } := by
  have all : allPumps.all (fun p => decide ((x.pump p).state ≠ .settling)) = true := by
    simp only [List.all_eq_true, decide_eq_true_eq]
    exact fun q _ => settled q
  rw [State.startUp, if_pos ⟨starting, all⟩]
  rfl

theorem State.startUp_before {q : PumpId} (settling : (x.pump q).state = .settling) : x.startUp = x := by
  refine if_neg fun h => ?_
  have all := h.2
  simp only [List.all_eq_true, decide_eq_true_eq] at all
  exact all q (by fin_cases q <;> simp [allPumps]) settling

/-! ## The obligation -/

section
variable {volt : Bool} (settling : (s.pump p).state = .settling) (line : (s.pump p).line = some n)
  (running : s.port.engineRunning = true)
include settling line running

theorem leads_settled_queued (queued : (s.line n).call.state = .queued) :
    (volt = true → (s.line n).profile.blindDialling = false → Leads (.pumpSettleComplete p true volt) s
      (((s.attach p n).closeHook n).enter n .seized (.running ((s.line n).profile.dialToneWait * 1000)))) ∧
    (volt = true → (s.line n).profile.blindDialling = true → ∀ w,
      Leads (.pauseEnd n) ((((s.attach p n).closeHook n).enter n .dialling .stopped).onDialler n fun d => { d with phase := .pause }) w →
        Leads (.pumpSettleComplete p true volt) s w) ∧
    (volt = false → Faults (.pumpSettleComplete p true volt) n .lineAbsent .none s) := by
  have run := exec_settled_served settling running line ((LineEffect.attach s p n).grantSettled volt)
  have attached := State.line_attach s p n
  have state : ((s.attach p n).line n).call.state = .queued := by rw [attached]; exact queued
  simp only [State.grantSettled, state] at run
  refine ⟨?_, ?_, ?_⟩
  · rintro rfl blind
    rw [State.offHookAttempt_attach, if_neg (by rw [blind]; decide)] at run
    exact Leads.of_done run rfl
  · rintro rfl blind w leads
    rw [State.offHookAttempt_attach, if_pos blind, State.enterDialling] at run
    have dialling : ((((s.attach p n).closeHook n).enter n .dialling .stopped).line n).call.state = .dialling := by
      rw [State.enter_eq_onLine, State.line_onLine_self]; rfl
    have pending := (((LineEffect.attach s p n).closeHook).enter .dialling .stopped).pending
    generalize ((s.attach p n).closeHook n).enter n .dialling .stopped = y at *
    have kept : LineEffect n y (y.nextSymbol n) := LineEffect.refl.nextSymbol
    have same := (Leads.iff_of_done (exec_pauseEnd_of dialling) kept.pending).mp leads
    exact (Leads.iff_of_done run (kept.pending.trans pending)).mpr same
  · rintro rfl
    have effect := LineEffect.attach s p n
    have fault : (s.attach p n).offHookAttempt n false = (s.attach p n).takeFault n .lineAbsent .none false true := if_neg (by decide)
    rw [fault] at run
    generalize s.attach p n = x at *
    exact Faults.of_done_pump run (by rw [Line.takesFault, state]) ⟨some p, by rw [attached]⟩ (by rw [attached]) (by rw [attached]) effect

theorem leads_settled_answering (answering : (s.line n).call.state = .answering) :
    Leads (.pumpSettleComplete p true volt) s (s.trains p n (s.line n).call.service (s.line n).seq) := by
  have run := exec_settled_served settling running line ((LineEffect.attach s p n).grantSettled volt)
  have state : ((s.attach p n).line n).call.state = .answering := by rw [State.line_attach]; exact answering
  simp only [State.grantSettled, state] at run
  rw [State.beginTraining_attach] at run
  exact Leads.of_done run rfl

end

theorem leads_settle_failed (settling : (s.pump p).state = .settling) (running : s.port.engineRunning = true)
    (line : (s.pump p).line = some n) (volt : Bool) {c : Claim} (claim : (s.line n).claim = some c) (runs : c.wait.isRunning = true)
    (left : c.wait ≠ .running 0) (busy : ∀ q, q ≠ p → (s.pump q).state ≠ .free) :
    Leads (.pumpSettleComplete p false volt) s
      { (s.onPump p fun _ => Pump.inState .out none).raiseEngine .pumpOut with queue := s.queue.enqueueHead n c.cls } := by
  have run := exec_pumpSettleComplete settling false volt
  have checked : s.settleChecked p false volt = ((s.onPump p fun _ => Pump.inState .out none).raiseEngine .pumpOut).requeue n := by
    simp only [State.settleChecked, line] <;> rfl
  have none_free : ∀ q, (((s.onPump p fun _ => Pump.inState .out none).raiseEngine .pumpOut).pump q).state ≠ .free := by
    intro q
    change ((s.onPump p fun _ => Pump.inState .out none).pump q).state ≠ .free
    by_cases same : q = p
    · subst same
      rw [State.pump_onPump_self]
      decide
    · rw [State.pump_onPump_ne s same]
      exact busy q same
  have requeued : ((s.onPump p fun _ => Pump.inState .out none).raiseEngine .pumpOut).requeue n =
      { (s.onPump p fun _ => Pump.inState .out none).raiseEngine .pumpOut with queue := s.queue.enqueueHead n c.cls } :=
    State.requeue_waits claim runs left none_free
  rw [checked, requeued, State.startUp_running (by exact running)] at run
  exact Leads.of_done run rfl

/-- Settles O51: by what the pump settles for, and whether it passes. -/
theorem pumpSettles : Obligations.PumpSettles := by
  intro p volt s settling put out
  have settled : ∀ {st : PumpState}, st ≠ .settling → (∀ q, q ≠ p → (s.pump q).state ≠ .settling) → ∀ q,
      ((s.onPump p fun _ => Pump.inState st none).pump q).state ≠ .settling := by
    intro st other rest q
    by_cases same : q = p
    · subst same
      rw [State.pump_onPump_self]
      exact other
    · rw [State.pump_onPump_ne s same]
      exact rest q same
  have waits : ∀ {st : PumpState} {q : PumpId}, q ≠ p → (s.pump q).state = .settling →
      ((s.onPump p fun _ => Pump.inState st none).pump q).state = .settling := by
    intro st q other before
    rw [State.pump_onPump_ne s other]
    exact before
  refine ⟨fun running => ⟨fun line queue => ?_, fun line busy m rest => ⟨fun answer alone absent => ?_, fun answer originate alone => ?_⟩,
    fun line => ?_, fun n line => ⟨fun queued present tone => ?_, fun queued present blind => ?_, fun queued absent => ?_, ?_, ?_, ?_, ?_⟩⟩,
    fun starting line queue => ⟨fun last => ⟨?_, ?_⟩, fun q other before => ⟨?_, ?_⟩⟩⟩
  · have run := exec_pumpSettleComplete settling true volt
    rw [State.settleChecked_freed line queue, State.startUp_running (by exact running)] at run
    exact Leads.of_done run rfl
  · have run := exec_pumpSettleComplete settling true volt
    rw [(State.settleChecked_idle line).1, State.arbitrate_freed busy (m := m) (by rw [WaitQueue.head, answer]; rfl),
      State.startUp_running (by exact running)] at run
    refine Leads.of_done run ?_
    rw [WaitQueue.remove, answer, filter_ne_eq_self absent, List.filter_cons_of_neg (by simp), filter_ne_eq_self alone]
  · have run := exec_pumpSettleComplete settling true volt
    rw [(State.settleChecked_idle line).1, State.arbitrate_freed busy (m := m) (by rw [WaitQueue.head, answer, originate]; rfl),
      State.startUp_running (by exact running)] at run
    refine Leads.of_done run ?_
    rw [WaitQueue.remove, answer, originate, List.filter_cons_of_neg (by simp), filter_ne_eq_self alone]
    rfl
  · have run := exec_pumpSettleComplete settling false volt
    rw [(State.settleChecked_idle line).2, State.startUp_running (by exact running)] at run
    exact Leads.of_done run rfl
  · have leads := (leads_settled_queued settling line running (volt := volt) queued).1 present tone
    rw [State.closeHook_attach] at leads
    exact leads
  · intro w leads
    refine (leads_settled_queued settling line running (volt := volt) queued).2.1 present blind w ?_
    rw [State.closeHook_attach, State.onDialler, State.onLine_onLine]
    exact leads
  · exact (leads_settled_queued settling line running queued).2.2 absent
  · exact leads_settled_answering settling line running
  · exact leads_switch_silent settling running line volt
  · exact switch_playing settling running line volt
  · intro c claim runs left busy
    have leads := leads_settle_failed settling running line volt claim runs left busy
    obtain ⟨cls, wait⟩ := c
    cases cls
    · exact leads
    · exact leads
  · have run := exec_pumpSettleComplete settling true volt
    rw [State.settleChecked_freed line queue, State.startUp_last (by exact starting) (settled (by decide) last)] at run
    exact Leads.of_done run rfl
  · have run := exec_pumpSettleComplete settling false volt
    rw [(State.settleChecked_idle line).2, State.startUp_last (x := (s.onPump p fun _ => Pump.inState .out none).raiseEngine .pumpOut)
      (by exact starting) (settled (st := .out) (by decide) last)] at run
    exact Leads.of_done run rfl
  · have run := exec_pumpSettleComplete settling true volt
    rw [State.settleChecked_freed line queue, State.startUp_before (q := q) (waits other before)] at run
    exact Leads.of_done run rfl
  · have run := exec_pumpSettleComplete settling false volt
    rw [(State.settleChecked_idle line).2, State.startUp_before (x := (s.onPump p fun _ => Pump.inState .out none).raiseEngine .pumpOut)
      (q := q) (waits (st := .out) other before)] at run
    exact Leads.of_done run rfl

end Sys2Proof.Machine

/-! The sending side of a link: what the pump is given next (06 R100, R105), and the pump a line works with. -/

namespace Sys2Proof.Machine

set_option Elab.async false

variable {n : LineId} {p : PumpId} {s t : State} {f : LinkFrame}

/-! ## The pump of a line -/

theorem State.Works.heldPump (w : s.Works n p) : s.heldPump n = some p := State.heldPump_eq w.held w.state w.line

theorem State.works_of_heldPump (held : s.heldPump n = some p) (carrier : (s.pump p).carrierLost = false) : s.Works n p := by
  unfold State.heldPump at held
  split at held
  next q recorded =>
    split at held
    next serves =>
      cases held
      exact ⟨recorded, serves.1, serves.2, carrier⟩
    next => exact nomatch held
  next => exact nomatch held

theorem State.Works.carrying (w : s.Works n p) : s.carrying n = (decide ((s.pump p).activity = .carrying) && !(s.pump p).holding) := by
  simp only [State.carrying, w.heldPump, w.carrier, Bool.not_false, Bool.and_true]

theorem State.Works.carries (w : s.Works n p) (activity : (s.pump p).activity = .carrying) (holding : (s.pump p).holding = false) :
    s.carrying n = true := by
  rw [w.carrying, activity, holding]
  rfl

theorem State.carrying_iff :
    s.carrying n = true ↔ ∃ p, s.Works n p ∧ (s.pump p).activity = .carrying ∧ (s.pump p).holding = false := by
  constructor
  · intro carries
    unfold State.carrying at carries
    split at carries
    next p held =>
      simp only [Bool.and_eq_true, decide_eq_true_eq, Bool.not_eq_true'] at carries
      obtain ⟨⟨activity, holding⟩, carrier⟩ := carries
      exact ⟨p, State.works_of_heldPump held carrier, activity, holding⟩
    next => exact nomatch carries
  · rintro ⟨p, works, activity, holding⟩
    exact works.carries activity holding

theorem State.carrying_congr (call : (t.line n).call.pump = (s.line n).call.pump) (pumps : t.pumps = s.pumps) :
    t.carrying n = s.carrying n := by
  have held := State.heldPump_congr call pumps
  have pump : ∀ q, t.pump q = s.pump q := fun q => congrArg (fun ps : Vector Pump 3 => ps[q]) pumps
  simp only [State.carrying, held, pump]

theorem State.Works.congr (w : s.Works n p) (call : (t.line n).call.pump = (s.line n).call.pump) (pumps : t.pumps = s.pumps) :
    t.Works n p := by
  have pump : t.pump p = s.pump p := congrArg (fun ps : Vector Pump 3 => ps[p]) pumps
  exact ⟨call.trans w.held, by rw [pump, w.state], by rw [pump, w.line], by rw [pump, w.carrier]⟩

theorem State.Works.pumpAt (w : s.Works n p) (a : Activity) : s.pumpAt n a = decide ((s.pump p).activity = a) := by
  simp only [State.pumpAt, w.heldPump, w.carrier, Bool.not_false, Bool.and_true]

theorem State.Works.onHeldPump (w : s.Works n p) (g : Pump → Pump) : s.onHeldPump n g = s.onPump p g := by
  simp only [State.onHeldPump, w.heldPump]

theorem State.onPump_onLine (s : State) (p : PumpId) (n : LineId) (g : Pump → Pump) (h : Line → Line) :
    (s.onLine n h).onPump p g = (s.onPump p g).onLine n h := rfl

theorem State.Works.onPump (w : s.Works n p) {g : Pump → Pump} (state : ∀ q, (g q).state = q.state) (line : ∀ q, (g q).line = q.line)
    (carrier : ∀ q, (g q).carrierLost = q.carrierLost) : (s.onPump p g).Works n p := by
  have pump := State.pump_onPump_self s p g
  exact ⟨w.held, by rw [pump, state, w.state], by rw [pump, line, w.line], by rw [pump, carrier, w.carrier]⟩

theorem State.Works.onLine (w : s.Works n p) {g : Line → Line} (call : (g (s.line n)).call.pump = (s.line n).call.pump) :
    (s.onLine n g).Works n p := w.congr (by rw [State.line_onLine_self]; exact call) rfl

/-! ## The next frame -/

/-- A change of the line's link leaves its pump alone. -/
theorem State.carrying_onLink (s : State) (n : LineId) (g : Link → Link) : (s.onLink n g).carrying n = s.carrying n :=
  State.carrying_congr (by rw [State.line_onLink_self]) rfl

theorem State.linkKick_busy (busy : (s.line n).link.sending.isSome = true ∨ s.carrying n = false) : s.linkKick n = s := by
  rw [State.linkKick]
  refine if_pos ?_
  rcases busy with h | h <;> simp [h]

section
variable (idle : (s.line n).link.sending = none) (carries : s.carrying n = true)
include idle carries

/-- With the pump idle and carrying, the first reply waiting is begun. -/
theorem State.linkKick_reply {rest : List LinkFrame} (replies : (s.line n).link.replies = f :: rest) :
    s.linkKick n = (s.onLink n fun l => { l with replies := rest }).frameBegun n f := by
  simp only [State.linkKick, idle, carries, replies, Option.isSome_none, Bool.not_true, Bool.or_false, Bool.false_eq_true, if_false]
  rfl

/-- With no reply waiting and no INFO frame allowed, nothing is begun. -/
theorem State.linkKick_still (replies : (s.line n).link.replies = []) (still : (s.line n).link.mayFrame = false) : s.linkKick n = s := by
  simp only [State.linkKick, idle, carries, replies, still, Option.isSome_none, Bool.not_true, Bool.or_false, Bool.false_eq_true,
    if_false, Bool.not_false, if_true]

theorem State.linkKick_resend {j : BitVec 7} {rest : List (BitVec 7)} {x : SentFrame} (replies : (s.line n).link.replies = [])
    (may : (s.line n).link.mayFrame = true) (resends : (s.line n).link.resends = j :: rest)
    (sent : (s.line n).link.sendWindow.find? (fun f => f.number == j) = some x) :
    s.linkKick n = (s.onLink n fun l => { l with resends := rest }).resendFrame n x := by
  simp only [State.linkKick, idle, carries, replies, may, resends, sent, Option.isSome_none, Bool.not_true, Bool.or_false,
    Bool.false_eq_true, if_false]

theorem State.linkKick_new (replies : (s.line n).link.replies = []) (may : (s.line n).link.mayFrame = true)
    (resends : (s.line n).link.resends = []) {c : SendChain} (room : (s.line n).link.sendWindow.length < (s.line n).link.window)
    (chain : (s.line n).link.sendList.find? (fun c => decide (c.framed < c.chain.bytes)) = some c) :
    s.linkKick n = s.newFrame n c := by
  simp only [State.linkKick, idle, carries, replies, may, resends, chain, room, Option.isSome_none, Bool.not_true, Bool.or_false,
    Bool.false_eq_true, if_false, if_true]

theorem State.linkKick_none (replies : (s.line n).link.replies = []) (resends : (s.line n).link.resends = [])
    (nothing : (s.line n).link.window ≤ (s.line n).link.sendWindow.length ∨
      ∀ c ∈ (s.line n).link.sendList, c.chain.bytes ≤ c.framed) : s.linkKick n = s := by
  have full : ∀ c, (s.line n).link.sendList.find? (fun c => decide (c.framed < c.chain.bytes)) = some c →
      ¬(s.line n).link.sendWindow.length < (s.line n).link.window := fun c found => by
    rcases nothing with full | framed
    · omega
    · have short : c.framed < c.chain.bytes := by simpa using List.find?_some found
      exact absurd (framed c (List.mem_of_find?_eq_some found)) (by omega)
  simp only [State.linkKick, idle, carries, replies, resends, Option.isSome_none, Bool.not_true, Bool.or_false,
    Bool.false_eq_true, if_false]
  split
  · rfl
  · split
    next c found => exact if_neg (full c found)
    next => rfl

end

/-! ## A reply falls due -/

theorem State.sendReply_inFlight (inFlight : (s.line n).link.inFlight = true) (f : LinkFrame) :
    s.sendReply n f = s.onLink n fun l => { l with replyDue := some f } := if_pos inFlight

theorem State.sendReply_settled (settled : (s.line n).link.inFlight = false) (f : LinkFrame) :
    s.sendReply n f = (s.onLink n fun l => { l with replies := l.replies ++ [f] }).linkKick n := if_neg (by rw [settled]; decide)

theorem State.onLink_onLink (s : State) (n : LineId) (g h : Link → Link) : (s.onLink n g).onLink n h = s.onLink n (h ∘ g) :=
  State.onLine_onLine s n _ _

/-- A reply that waits behind a frame being sent, or for a pump that carries. -/
theorem State.sendReply_waits (settled : (s.line n).link.inFlight = false)
    (busy : (s.line n).link.sending.isSome = true ∨ s.carrying n = false) (f : LinkFrame) :
    s.sendReply n f = s.onLink n fun l => { l with replies := l.replies ++ [f] } := by
  rw [State.sendReply_settled settled, State.linkKick_busy]
  rw [State.carrying_onLink, State.line_onLink_self]
  exact busy

/-- A reply that finds the pump idle lets the first of the replies go. -/
theorem State.sendReply_first (settled : (s.line n).link.inFlight = false) (idle : (s.line n).link.sending = none)
    (carries : s.carrying n = true) {g : LinkFrame} {rest : List LinkFrame} (first : (s.line n).link.replies ++ [f] = g :: rest) :
    s.sendReply n f = (s.onLink n fun l => { l with replies := rest }).frameBegun n g := by
  rw [State.sendReply_settled settled, State.linkKick_reply (f := g) (rest := rest), State.onLink_onLink]
  · rfl
  · rw [State.line_onLink_self]; exact idle
  · rw [State.carrying_onLink]; exact carries
  · rw [State.line_onLink_self]; exact first

theorem State.frameBegun_link (s : State) (n : LineId) (f : LinkFrame) :
    ((s.frameBegun n f).line n).link = { (s.line n).link with sending := some f } := by
  simp [State.frameBegun]

/-- A reply that finds nothing before it goes out at once. -/
theorem State.sendReply_sent (settled : (s.line n).link.inFlight = false) (idle : (s.line n).link.sending = none)
    (carries : s.carrying n = true) (replies : (s.line n).link.replies = []) (f : LinkFrame) : s.sendReply n f = s.frameBegun n f := by
  have same : (s.onLink n fun l => { l with replies := [] }) = s := by
    refine (State.onLine_congr (g := fun l => l) ?_).trans (s.onLine_id n)
    dsimp only
    rw [← replies]
  rw [State.sendReply_first settled idle carries (g := f) (rest := []) (by rw [replies]; rfl), same]

end Sys2Proof.Machine

/-! What the operations of a fax session and of the Grade Unit leave alone. -/

namespace Sys2Proof.Machine

set_option Elab.async false

variable {n : LineId} {s t u : State}

theorem Only.sendFax (s : State) (n : LineId) (f : FaxFrame) : Only n [.outputs] s (s.sendFax n f) := .emit s n _

theorem Only.faxWait (s : State) (n : LineId) (p : FaxPhase) (f : Option FaxFrame) : Only n [.fax] s (s.faxWait n p f) := .onFax s n _

theorem Only.faxStand (s : State) (n : LineId) (p : FaxPhase) (f : FaxFrame) : Only n [.fax, .outputs] s (s.faxStand n p f) :=
  (Only.faxWait s n p _).trans (Only.sendFax _ n f)

theorem Only.faxRung (s : State) (n : LineId) (r : Nat) : Only n [.grade, .ev] s (s.faxRung n r) := by
  have graded := Only.onGrade s n fun g => { g with rung := r, seedPending := true }
  unfold State.faxRung
  dsimp only
  split
  · exact graded.mono
  · exact graded.trans (Only.raise _ n .rate)

theorem Only.sendCheck (s : State) (n : LineId) : Only n [.fax, .outputs] s (s.sendCheck n) :=
  ((Only.sendFax s n _).trans (Only.onFax _ n _) (H := [.fax, .outputs])).trans (Only.emit _ n _)

theorem Only.beginCheck (s : State) (n : LineId) (r : Nat) : Only n [.grade, .ev, .fax, .outputs] s (s.beginCheck n r) :=
  ((Only.faxRung s n r).trans (Only.onFax _ n _) (H := [.grade, .ev, .fax])).trans (Only.sendCheck _ n)

theorem Only.beginRelease (s : State) (n : LineId) : Only n [.fax, .outputs] s (s.beginRelease n) :=
  (Only.onFax s n _).trans (Only.sendFax _ n _)

theorem Only.takeOffer (s : State) (n : LineId) (o : Offer) : Only n [.grade, .ev, .fax, .outputs] s (s.takeOffer n o) :=
  (Only.onFax s n _).trans (Only.beginCheck _ n _)

theorem Only.beginSession (s : State) (n : LineId) : Only n [.grade, .ev, .fax, .outputs] s (s.beginSession n) := by
  unfold State.beginSession
  split
  · exact (Only.onFax s n _).trans (Only.faxStand _ n _ _)
  · have role := Only.onFax s n fun f => { f with role := .sender }
    dsimp only
    split
    · exact role.trans (Only.beginRelease _ n)
    · split
      · exact role.trans (Only.takeOffer _ n _)
      · exact role.trans (Only.faxWait _ n _ _)

theorem Only.onHeldPump (s : State) (n : LineId) (f : Pump → Pump) : Only n [.pumps] s (s.onHeldPump n f) := by
  unfold State.onHeldPump
  split
  · exact .onPump s n _ f
  · exact .refl

/-! ## A connection, and what follows it -/

theorem State.Steady.trans (h : State.Steady s t) (k : State.Steady t u) : State.Steady s u := by
  obtain ⟨a, b, hdr⟩ := h.hdr
  obtain ⟨c, d, hdr'⟩ := k.hdr
  refine ⟨k.port.trans h.port, k.sweep.trans h.sweep, k.monitor.trans h.monitor, h.ev.trans k.ev, ⟨c, d, ?_⟩, h.outputs.trans k.outputs⟩
  rw [hdr'] at *
  rw [hdr]

/-- A connection stands under what leaves the call record, the state timer and the cards alone. -/
theorem State.Connects.later {v : Service} {F : List Piece} (h : State.Connects n v s t) (l : LineEffect n t u) (o : Only n F t u)
    (call : .call ∉ F := by decide) (ctl : .ctl ∉ F := by decide) (table : .table ∉ F := by decide) : State.Connects n v s u := by
  have ctl' : (u.line n).ctl = (t.line n).ctl := o.of .ctl ctl
  have call' : (u.line n).call = (t.line n).call := o.of .call call
  refine ⟨call'.trans h.call, by rw [ctl', h.timer], ?_, fun i dial answer fits => ?_, fun i answer dial fits => ?_,
    h.others.trans l.aside, h.steady.trans l.steady⟩
  · obtain ⟨b, c, e⟩ := l.events
    rw [e]
    simp only [BitVec.getLsbD_or, h.up, Bool.true_or]
  · obtain ⟨answered, none⟩ := h.dial i dial answer fits
    exact ⟨answered.later l (.inl rfl) (o.card i table), by rw [ctl', none]⟩
  · obtain ⟨answered, none⟩ := h.answer i answer dial fits
    exact ⟨answered.later l (.inl rfl) (o.card i table), by rw [ctl', none]⟩

end Sys2Proof.Machine

/-! O52: training success (04 R68; 05 R79, R80, R91; 06 R95; 07 R116, R118 to R120). -/

namespace Sys2Proof.Machine

set_option Elab.async false

variable {n : LineId} {p : PumpId} {s t u : State} {farMax : Nat} {sig err : Word}

/-! ## The rung of an exchange -/

theorem gradeOf_full (q : Nat) : gradeOf (16 * q) = q := by unfold gradeOf; omega

theorem highestRung_eq_some {lo g hi r : Nat} (positive : 1 ≤ r) (low : lo ≤ r) (high : r ≤ hi) (meets : threshold r ≤ g)
    (best : ∀ k, r < k → k ≤ hi → g < threshold k) : highestRung lo g hi = some r := by
  induction hi with
  | zero => omega
  | succ hi ih =>
    rw [highestRung, if_neg (by omega)]
    by_cases top : r = hi + 1
    · rw [if_pos (by rw [← top]; exact meets), top]
    · have above := best (hi + 1) (by omega) le_rfl
      rw [if_neg (by omega)]
      exact ih (by omega) fun k more less => best k more (by omega)

theorem highestRung_eq_none {lo g hi : Nat} (none_meets : ∀ r, 1 ≤ r → lo ≤ r → r ≤ hi → g < threshold r) :
    highestRung lo g hi = none := by
  cases found : highestRung lo g hi with
  | none => rfl
  | some r =>
    obtain ⟨low, high, meets⟩ := highestRung_some found
    have positive : r ≠ 0 := by
      rintro rfl
      induction hi with
      | zero => exact nomatch found
      | succ hi ih =>
        rw [highestRung] at found
        split at found
        · exact nomatch found
        · split at found
          · exact nomatch found
          · exact ih (fun r a b c => none_meets r a b (by omega)) found (by omega)
    exact absurd meets (by have := none_meets r (by omega) low high; omega)

/-- The ceiling of a line by what the far end reports (R79). -/
def Profile.ceiling (x : Profile) (farMax : Nat) : Nat := min x.maxRung (max 1 (min 14 farMax))

/-- The floor of a line (R79). -/
def Profile.floor (x : Profile) (farMax : Nat) : Nat := min x.minRung (x.ceiling farMax)

/-- The grade after the report of an exchange. -/
theorem Grade.exchange_eq (g : Grade) (x : Profile) (q farMax : Nat) : g.exchange x q farMax =
    { g with
      lastQ := q, acc := 16 * q, upCount := 0, downCount := 0, ceiling := x.ceiling farMax, floor := x.floor farMax } := by
  have far : (if farMax < 1 then 1 else if 14 < farMax then 14 else farMax) = max 1 (min 14 farMax) := by
    split
    · omega
    · split <;> omega
  rw [Grade.exchange, Grade.bounds, Grade.seedData, Grade.seed]
  dsimp only
  rw [far]
  rfl

/-- The line with F read and the grade of an exchange. -/
def Line.reported (l : Line) (q farMax : Nat) : Line :=
  { l with
    grade :=
      { l.grade with
        lastQ := q, acc := 16 * q, upCount := 0, downCount := 0, ceiling := l.profile.ceiling farMax
        floor := l.profile.floor farMax }
    link := { l.link with frameErrors := 0 } }

theorem State.exchangeReport_eq (s : State) (n : LineId) (farMax : Nat) (sig err : Word) :
    s.exchangeReport n farMax sig err = s.onLine n fun l => l.reported (margin sig err) farMax := by
  rw [State.exchangeReport, State.errorsRead, State.onLink, State.onGrade, State.onLine_onLine]
  refine State.onLine_congr ?_
  dsimp only
  rw [Grade.exchange_eq]
  rfl

theorem Line.choice_reported (l : Line) (q farMax : Nat) :
    (l.reported q farMax).grade.choice = highestRung (l.profile.floor farMax) q (l.profile.ceiling farMax) := by
  rw [Grade.choice, Grade.value, Line.reported, gradeOf_full]

/-! ## Data -/

section
variable (w : s.Works n p) (state : (s.line n).call.state = .training) (activity : (s.pump p).activity = .training)
include w state activity

theorem exec_dataTrainingSuccess (service : (s.line n).call.service = .data) :
    (∀ r, highestRung ((s.line n).profile.floor farMax) (margin sig err) ((s.line n).profile.ceiling farMax) = some r →
      exec (.dataTrainingSuccess n farMax sig err) s = done s
        ((((s.onLine n fun l => l.reported (margin sig err) farMax).onGrade n fun g => { g with rung := r, rate := .settled }).onHeldPump n
          fun q => q.work .carrying .stopped).beginLinkOpen n)) ∧
    (highestRung ((s.line n).profile.floor farMax) (margin sig err) ((s.line n).profile.ceiling farMax) = none →
      exec (.dataTrainingSuccess n farMax sig err) s =
        done s ((s.onLine n fun l => l.reported (margin sig err) farMax).fault n .trainFailed)) := by
  have run : exec (.dataTrainingSuccess n farMax sig err) s = done s (s.dataTraining n farMax sig err) := rfl
  have training : s.pumpAt n .training = true := by rw [w.pumpAt, activity]; rfl
  have choice := (s.line n).choice_reported (margin sig err) farMax
  rw [State.dataTraining, if_pos ⟨state, service, training⟩, State.exchangeReport_eq] at run
  simp only [State.line_onLine_self, choice] at run
  refine ⟨fun r some => ?_, fun none => ?_⟩
  · rw [run, some]
  · rw [run, none]

end

/-- The line as link open begins at a rung. -/
def Line.linkOpened (l : Line) (q farMax r : Nat) : Line :=
  { l.reported q farMax with
    grade := { (l.reported q farMax).grade with rung := r, rate := .settled }
    link :=
      { l.link with
        state := .opening, openTimer := .running 5000, repeatTimer := .running 500, frameErrors := 0 } }

theorem leads_dataTraining (w : s.Works n p) (state : (s.line n).call.state = .training) (activity : (s.pump p).activity = .training)
    (service : (s.line n).call.service = .data) {r : Nat}
    (chosen : highestRung ((s.line n).profile.floor farMax) (margin sig err) ((s.line n).profile.ceiling farMax) = some r)
    (settled : (s.line n).link.inFlight = false) (idle : (s.line n).link.sending = none) (replies : (s.line n).link.replies = []) :
    Leads (.dataTrainingSuccess n farMax sig err) s
      (((s.onPump p fun q => q.work .carrying .stopped).onLine n fun l => l.linkOpened (margin sig err) farMax r).frameBegun n
        (.linkOpen (s.line n).profile.linkWindow (s.line n).profile.maxInfo)) := by
  have run := (exec_dataTrainingSuccess w state activity service).1 r chosen
  have graded : (s.onLine n fun l => l.reported (margin sig err) farMax).onGrade n (fun g => { g with rung := r, rate := .settled }) =
      s.onLine n fun l => { l.reported (margin sig err) farMax with
        grade := { (l.reported (margin sig err) farMax).grade with rung := r, rate := .settled } } := State.onLine_onLine ..
  have own : ((s.onPump p fun q => q.work .carrying .stopped).onLine n fun l => { l.reported (margin sig err) farMax with
        grade := { (l.reported (margin sig err) farMax).grade with rung := r, rate := .settled } }).ownLinkOpen n =
      .linkOpen (s.line n).profile.linkWindow (s.line n).profile.maxInfo := by
    rw [State.ownLinkOpen, State.line_onLine_self]; rfl
  rw [graded, (w.onLine rfl).onHeldPump, State.beginLinkOpen, State.onPump_onLine, State.onLink, State.onLine_onLine, own] at run
  change exec _ s = done s (((s.onPump p fun q => q.work .carrying .stopped).onLine n fun l =>
    l.linkOpened (margin sig err) farMax r).sendReply n _) at run
  have carries : ((s.onPump p fun q => q.work .carrying .stopped).onLine n fun l => l.linkOpened (margin sig err) farMax r).carrying n = true := by
    have works := (w.onPump (g := fun q => q.work .carrying .stopped) (fun _ => rfl) (fun _ => rfl) (fun _ => rfl))
    have pump := State.pump_onPump_self s p fun q => q.work .carrying .stopped
    refine (works.onLine rfl).carries ?_ ?_
    · exact congrArg Pump.activity pump
    · exact congrArg Pump.holding pump
  have line := State.line_onLine_self (s.onPump p fun q => q.work .carrying .stopped) n fun l => l.linkOpened (margin sig err) farMax r
  rw [State.sendReply_sent (by rw [line]; exact settled) (by rw [line]; exact idle) carries (by rw [line]; exact replies)] at run
  exact Leads.of_done run rfl

/-! ## Fax -/

theorem exec_faxTrainingSuccess (w : s.Works n p) (state : (s.line n).call.state = .training)
    (activity : (s.pump p).activity = .training) (service : (s.line n).call.service = .fax) :
    exec (.faxTrainingSuccess n sig err) s =
      done s ((((s.onGrade n fun g => g.seed (margin sig err)).onPump p fun q => q.work .carrying .stopped).connect n .fax).beginSession n) := by
  have run : exec (.faxTrainingSuccess n sig err) s = done s (s.faxTraining n sig err) := rfl
  have training : s.pumpAt n .training = true := by rw [w.pumpAt, activity]; rfl
  have held := (w.onLine (g := fun l => { l with grade := l.grade.seed (margin sig err) }) rfl).onHeldPump fun q => q.work .carrying .stopped
  rw [run, State.faxTraining, if_pos ⟨state, service, training⟩]
  exact congrArg (fun y : State => done s ((y.connect n .fax).beginSession n)) held

/-- The session of an answerer. -/
theorem State.beginSession_answer (answers : (u.line n).call.direction = .answer) : u.beginSession n =
    (u.onFax n fun f =>
      { f with
        role := .receiver, phase := .offer, standing := some (.offer (u.line n).profile.offer), expiries := 0
        replyTimer := .running 3000 }).emit (.faxFrame n (.offer (u.line n).profile.offer)) := by
  simp only [State.beginSession, answers]
  rw [State.faxStand, State.faxWait, State.sendFax, State.onFax, State.onFax, State.onLine_onLine]
  rfl

section
variable (originates : (u.line n).call.direction = .originate)
include originates

theorem State.beginSession_empty (pages : (u.line n).fax.pages = []) : u.beginSession n =
    (u.onFax n fun f =>
      { f with role := .sender, phase := .release, standing := none, replyTimer := .stopped, work := .releaseOut }).emit
        (.faxFrame n .release) := by
  simp only [State.beginSession, originates, State.line_onFax_self, pages, if_true]
  rw [State.beginRelease, State.sendFax, State.onFax, State.onFax, State.onLine_onLine]
  rfl

theorem State.beginSession_waits (pages : (u.line n).fax.pages ≠ []) (held : (u.line n).fax.offerHeld = none) : u.beginSession n =
    u.onFax n fun f =>
      { f with role := .sender, phase := .offer, standing := none, expiries := 0, replyTimer := .running 3000 } := by
  simp only [State.beginSession, originates, State.line_onFax_self, pages, if_false, held]
  rw [State.faxWait, State.onFax, State.onFax, State.onLine_onLine]
  rfl

theorem State.beginSession_offered (pages : (u.line n).fax.pages ≠ []) {o : Offer} (held : (u.line n).fax.offerHeld = some o) :
    u.beginSession n = (u.onFax n fun f => { f with role := .sender }).takeOffer n o := by
  simp only [State.beginSession, originates, State.line_onFax_self, pages, if_false, held]

end

/-- The Choice that an Offer leads to (R119). -/
def Profile.choiceOf (x : Profile) (o : Offer) : Choice :=
  ⟨min (clampNat 1 6 o.maxRung) x.faxMaxRung, o.fine && x.fineResolution, raiseRowTime o.rowTime, min (min 2 o.width) x.widthClass⟩

/-- The sender's session as its check begins. -/
def Fax.checks (f : Fax) (c : Choice) : Fax :=
  { f with
    phase := .check, rung := c.rung, fine := c.fine, rowTime := c.rowTime, width := c.width, offerHeld := none, checkAttempts := 0
    standing := none, expiries := 0, replyTimer := .stopped, work := .patternOut c.rung }

/-- The check begun (R120). -/
theorem State.beginCheck_spec (u : State) (n : LineId) (r : Nat) :
    ((u.beginCheck n r).line n).grade = { (u.line n).grade with rung := r, seedPending := true } ∧
    ((u.line n).grade.rung ≠ 0 → (u.line n).grade.rung ≠ r → ((u.beginCheck n r).line n).ev.bits.getLsbD 6 = true) ∧
    ((u.beginCheck n r).line n).fax =
      { (u.line n).fax with
        phase := .check, rung := r, standing := none, expiries := 0, replyTimer := .stopped, work := .patternOut r } ∧
    (u.beginCheck n r).outputs = u.outputs ++
      [.faxFrame n (.choice ⟨r, (u.line n).fax.fine, (u.line n).fax.rowTime, (u.line n).fax.width⟩),
        .checkPattern n r (List.replicate (450 * r) 0x00)] := by
  have rung : ((u.faxRung n r).line n).fax = (u.line n).fax := (Only.faxRung u n r).of .fax
  have outputs : (u.faxRung n r).outputs = u.outputs := (Only.faxRung u n r).of .outputs
  have grade : ((u.faxRung n r).line n).grade = { (u.line n).grade with rung := r, seedPending := true } := by
    unfold State.faxRung
    dsimp only
    split
    · rw [State.line_onGrade_self]
    · rw [State.line_raise_self, State.line_onGrade_self]
  have event : (u.line n).grade.rung ≠ 0 → (u.line n).grade.rung ≠ r → ((u.faxRung n r).line n).ev.bits.getLsbD 6 = true := by
    intro shown new
    rw [State.faxRung, if_neg (not_or.mpr ⟨shown, new⟩), State.line_raise_self]
    change (_ ||| bitWord 6).getLsbD 6 = true
    rw [BitVec.getLsbD_or, show (bitWord 6).getLsbD 6 = true from rfl, Bool.or_true]
  unfold State.beginCheck
  generalize u.faxRung n r = y at *
  rw [State.sendCheck]
  refine ⟨?_, fun shown new => ?_, ?_, ?_⟩
  · simpa [State.sendFax] using grade
  · simpa [State.sendFax] using event shown new
  · simp [State.sendFax, Fax.asChoice, rung]
  · simp only [State.line_onFax_self, Fax.asChoice, rung]
    change y.outputs ++ [_] ++ [_] = _
    rw [List.append_assoc, outputs]
    rfl

theorem State.takeOffer_spec (u : State) (n : LineId) (o : Offer) (c : Choice) (choice : c = (u.line n).profile.choiceOf o) :
    ((u.takeOffer n o).line n).grade = { (u.line n).grade with rung := c.rung, seedPending := true } ∧
    ((u.line n).grade.rung ≠ 0 → (u.line n).grade.rung ≠ c.rung → ((u.takeOffer n o).line n).ev.bits.getLsbD 6 = true) ∧
    ((u.takeOffer n o).line n).fax = (u.line n).fax.checks c ∧
    (u.takeOffer n o).outputs = u.outputs ++ [.faxFrame n (.choice c), .checkPattern n c.rung (List.replicate (450 * c.rung) 0x00)] := by
  subst choice
  have line := State.line_onFax_self u n fun f =>
    { f with
      phase := .choice, offerHeld := none, rung := ((u.line n).profile.choiceOf o).rung, fine := ((u.line n).profile.choiceOf o).fine
      rowTime := ((u.line n).profile.choiceOf o).rowTime, width := ((u.line n).profile.choiceOf o).width, checkAttempts := 0 }
  have begun := State.beginCheck_spec (u.onFax n fun f =>
    { f with
      phase := .choice, offerHeld := none, rung := ((u.line n).profile.choiceOf o).rung, fine := ((u.line n).profile.choiceOf o).fine
      rowTime := ((u.line n).profile.choiceOf o).rowTime, width := ((u.line n).profile.choiceOf o).width, checkAttempts := 0 }) n
    ((u.line n).profile.choiceOf o).rung
  rw [line] at begun
  exact begun

/-- A fax training's success up to the session's begin: connected, the grade seeded, the pump carrying. -/
structure FaxConnected (n : LineId) (p : PumpId) (q : Nat) (s y : State) : Prop where
  connects : State.Connects n .fax s y
  pump : y.pump p = { s.pump p with activity := .carrying, holding := false, attemptTimer := .stopped }
  grade : (y.line n).grade = { (s.line n).grade with lastQ := q, acc := 16 * q }
  fax : (y.line n).fax = (s.line n).fax
  profile : (y.line n).profile = (s.line n).profile
  direction : (y.line n).call.direction = (s.line n).call.direction
  outputs : y.outputs = s.outputs

theorem faxConnected (s : State) (n : LineId) (p : PumpId) {q : Nat} (most : q ≤ 160) :
    FaxConnected n p q s (((s.onGrade n fun g => g.seed q).onPump p fun x => x.work .carrying .stopped).connect n .fax) := by
  have line := State.line_onGrade_self s n fun g => g.seed q
  have pump := State.pump_onPump_self (s.onGrade n fun g => g.seed q) p fun x => x.work .carrying .stopped
  have outputs : ((s.onGrade n fun g => g.seed q).onPump p fun x => x.work .carrying .stopped).outputs = s.outputs := rfl
  have effect : LineEffect n s ((s.onGrade n fun g => g.seed q).onPump p fun x => x.work .carrying .stopped) :=
    (LineEffect.refl.onGrade (hf := fun g _ _ => by simp only [Grade.seed]; omega)).onPump p _
  have day : ((s.onGrade n fun g => g.seed q).onPump p fun x => x.work .carrying .stopped).hdr.dayClock = s.hdr.dayClock := rfl
  change ((s.onGrade n fun g => g.seed q).onPump p fun x => x.work .carrying .stopped).line n = _ at line
  generalize (s.onGrade n fun g => g.seed q).onPump p (fun x => x.work .carrying .stopped) = u at *
  have connects : State.Connects n .fax s (u.connect n .fax) :=
    State.connects ⟨effect, by rw [line], by rw [line], by rw [line], by rw [line]; rfl, day⟩ .fax
  have only := Only.connect u n .fax
  have pumps : (u.connect n .fax).pump p = u.pump p := congrArg (fun v : Vector Pump 3 => v[p]) (only.of .pumps)
  refine ⟨connects, pumps.trans pump, ?_, ?_, ?_, ?_, ?_⟩
  · exact (only.of .grade).trans (by change (u.line n).grade = _; rw [line]; rfl)
  · exact (only.of .fax).trans (by change (u.line n).fax = _; rw [line])
  · exact (only.of .profile).trans (by change (u.line n).profile = _; rw [line])
  · rw [connects.call]
  · exact (only.of .outputs).trans outputs

/-- Settles O52: the rung of an exchange chosen or not; a fax session begun by the call's direction. -/
theorem trainingSuccess : Obligations.TrainingSuccess := by
  intro n p farMax sig err s w state activity prof q top low link seeded
  refine ⟨fun service => ⟨fun r positive lo hi meets best settled idle replies => ?_, fun fails => ?_⟩, fun service => ?_⟩
  · exact leads_dataTraining w state activity service (highestRung_eq_some positive lo hi meets best) settled idle replies
  · have run := (exec_dataTrainingSuccess (farMax := farMax) (sig := sig) (err := err) w state activity service).2 (highestRung_eq_none fails)
    have line := State.line_onLine_self s n fun l => l.reported (margin sig err) farMax
    refine Faults.of_done run (Line.takesFault_of (.inr (.inr ?_))) ?_ ?_ ?_ ?_
    · rw [line]
      change (s.line n).call.state.offHook = true
      rw [state]
      rfl
    · rw [line]; rfl
    · rw [line]; rfl
    · rw [line]; rfl
    · rw [← State.exchangeReport_eq]
      exact LineEffect.refl.exchangeReport farMax sig err
  · have run := exec_faxTrainingSuccess (sig := sig) (err := err) w state activity service
    obtain ⟨connects, pump, grade, fax, profile, direction, outputs⟩ := faxConnected s n p (margin_le sig err)
    generalize ((s.onGrade n fun g => g.seed (margin sig err)).onPump p fun x => x.work .carrying .stopped).connect n .fax = y at *
    have only := Only.beginSession y n
    have pumps : (y.beginSession n).pump p = y.pump p := congrArg (fun v : Vector Pump 3 => v[p]) (only.of .pumps)
    refine ⟨_, run, (connects.later LineEffect.refl.beginSession only).commit, pumps.trans pump, fun answers => ?_,
      fun originates empty => ?_, fun originates pages none_ => ?_, fun originates pages o held => ?_⟩
    · rw [State.beginSession_answer (direction.trans answers), profile]
      refine ⟨?_, ?_, congrArg (· ++ [_]) outputs⟩
      · rw [State.line_commit, State.line_emit, State.line_onFax_self]; exact grade
      · rw [State.line_commit, State.line_emit, State.line_onFax_self, ← fax]; rfl
    · rw [State.beginSession_empty (direction.trans originates) (by rw [fax]; exact empty)]
      refine ⟨?_, ?_, congrArg (· ++ [_]) outputs⟩
      · rw [State.line_commit, State.line_emit, State.line_onFax_self]; exact grade
      · rw [State.line_commit, State.line_emit, State.line_onFax_self, ← fax]; rfl
    · rw [State.beginSession_waits (direction.trans originates) (by rw [fax]; exact pages) (by rw [fax]; exact none_)]
      refine ⟨?_, ?_, outputs⟩
      · rw [State.line_commit, State.line_onFax_self]; exact grade
      · rw [State.line_commit, State.line_onFax_self, ← fax]; rfl
    · intro r c
      have choice : c = (s.line n).profile.choiceOf o := by
        have clamped : clampNat 1 6 o.maxRung = max 1 (min 6 o.maxRung) := by
          unfold clampNat
          split
          · omega
          · split <;> omega
        rw [Profile.choiceOf, clamped]
        rfl
      rw [State.beginSession_offered (direction.trans originates) (by rw [fax]; exact pages) (by rw [fax]; exact held)]
      obtain ⟨graded, event, checks, sent⟩ := State.takeOffer_spec (y.onFax n fun f => { f with role := .sender }) n o c
        (by rw [State.line_onFax_self, choice]; exact congrArg (fun x : Profile => x.choiceOf o) profile.symm)
      rw [State.line_onFax_self] at graded event checks
      generalize (y.onFax n fun f => { f with role := .sender }).takeOffer n o = v at *
      simp only [grade, fax] at graded event checks
      refine ⟨?_, ?_, ?_, ?_⟩
      · rw [State.line_commit]; exact graded
      · rw [State.line_commit]; exact event
      · rw [State.line_commit]; exact checks
      · exact sent.trans (congrArg (· ++ _) outputs)

end Sys2Proof.Machine

/-! Shifts and retrains begun (04 R70, R71; 05 R84, R87; 06 R105). -/

namespace Sys2Proof.Machine

set_option Elab.async false

variable {n : LineId} {p : PumpId} {s t u : State}

theorem Timer.pause_eq (x : Timer) : x.pause = match x with | .running k => .paused k | x => x := by cases x <;> rfl

theorem Link.heldBack_eq (l : Link) : l.heldBack =
    { l with
      inFlight := true, sending := none, replyDue := (l.replies.getLast?).or l.replyDue, replies := []
      replyTimer := l.replyTimer.pause, holdTimer := l.holdTimer.pause, repeatTimer := .stopped } := by
  unfold Link.heldBack
  cases l.replies.getLast? <;> cases l.replyTimer <;> cases l.holdTimer <;> rfl

theorem State.rateInFlight_eq (s : State) (n : LineId) : s.rateInFlight n = s.onLine n fun l => { l with link := l.link.heldBack } :=
  State.onLine_congr (f := fun l => { l with link := _ }) (by simp only [Link.heldBack_eq])

/-- A shift requested of the line's pump. -/
theorem State.Works.requestShift (w : s.Works n p) (r : Nat) : s.requestShift n r = s.shiftBegun n p r := by
  have held := (w.onLine (g := fun l => { l with grade := { l.grade with rate := .shifting r } }) rfl).onHeldPump fun q =>
    q.work .shifting (.running 2000)
  have two := State.onLine_onLine s n (fun l => { l with grade := { l.grade with rate := .shifting r } })
    fun l => { l with link := l.link.heldBack }
  rw [State.requestShift, State.rateInFlight_eq]
  change (State.emit (State.onHeldPump (s.onLine n fun l => { l with grade := { l.grade with rate := .shifting r } }) n fun q =>
    q.work .shifting (.running 2000)) (.shiftRequest n r)).onLine n _ = _
  rw [held]
  exact congrArg (fun y : State => (y.onPump p fun q => q.work .shifting (.running 2000)).emit (.shiftRequest n r)) two

/-- The line at the begin of a retrain, but for what a connected call shows of it. -/
def Line.retrains (l : Line) : Line :=
  { l with
    grade := { l.grade with rate := .retraining, retrainCount := l.grade.retrainCount + 1 }
    link := if l.link.inFlight then l.link else l.link.heldBack }

theorem State.retrains_eq (s : State) (n : LineId) :
    (if (s.line n).link.inFlight = true then
        s.onGrade n fun g => { g with retrainCount := g.retrainCount + 1, rate := .retraining }
      else (s.onGrade n fun g => { g with retrainCount := g.retrainCount + 1, rate := .retraining }).rateInFlight n) =
      s.onLine n Line.retrains := by
  split
  next flight => exact State.onLine_congr (by rw [Line.retrains, if_pos flight])
  next settled =>
    rw [State.rateInFlight_eq, State.onGrade, State.onLine_onLine]
    refine State.onLine_congr ?_
    rw [Line.retrains, if_neg settled]

/-- A retrain begun by the line's pump below the limit. -/
theorem State.Works.beginRetrain (w : s.Works n p) (few : (s.line n).grade.retrainCount < (s.line n).profile.retrainLimit) :
    s.beginRetrain n = s.retrainBegun n p := by
  have begun : ∀ h : Line → Line, h (s.line n).retrains = { (s.line n).retrains with
        call := if (s.line n).connectedAs .data then { (s.line n).call with state := .retraining } else (s.line n).call
        ev :=
          if (s.line n).connectedAs .data then
            { (s.line n).ev with bits := (s.line n).ev.bits ||| 0x0080, tally := (s.line n).ev.tally + 1 }
          else (s.line n).ev } →
      (((s.onLine n Line.retrains).onLine n h).onPump p fun q => q.work .retraining (.running 5000)).emit (.retrainStart n) =
        s.retrainBegun n p := by
    intro h same
    rw [State.onLine_onLine]
    exact congrArg (fun y : State => (y.onPump p fun q => q.work .retraining (.running 5000)).emit (.retrainStart n))
      (State.onLine_congr same)
  rw [State.beginRetrain, if_pos few]
  dsimp only
  rw [State.retrains_eq, (w.onLine rfl).onHeldPump]
  split
  next data =>
    rw [State.raise, State.onCall, State.onLine_onLine]
    refine Eq.trans rfl (begun (fun l => { l with call := { l.call with state := .retraining }, ev := l.ev.raise 7 }) ?_)
    rw [if_pos data, if_pos data]
    rfl
  next other =>
    refine Eq.trans ?_ (begun (fun l => l) ?_)
    · rw [State.onLine_id]
    · rw [if_neg other, if_neg other]
      rfl

theorem State.beginRetrain_exhausted (many : (s.line n).profile.retrainLimit ≤ (s.line n).grade.retrainCount) :
    s.beginRetrain n = s.fault n .retrainExhausted := if_neg (by omega)

/-! ## Faults after a change of the line -/

/-- A fault of a line whose record of the last fault alone may have changed before, beside grade, link and events. -/
theorem Faults.of_done_last {c : Instr} {k : FaultKind} {d : FailDetail} {a : Bool} (run : exec c s = done s (u.takeFault n k d false a))
    (takes : (u.line n).takesFault a = true) (call : (u.line n).call = (s.line n).call) (profile : (u.line n).profile = (s.line n).profile)
    (fm : ∃ x, (u.line n).fm = { (s.line n).fm with last := x }) (effect : LineEffect n s u) : Faults c n k d s := by
  obtain ⟨x, fm⟩ := fm
  have applied : (u.line n).applied k = (s.line n).applied k := by simp [Line.applied, call, profile, fm]
  have whole := effect.takeFault k d false a
  obtain ⟨cleared, last, latch, count, pending, event⟩ := State.takeFault_spec u n k d a takes
  rw [fm, applied] at latch count pending
  rw [applied, effect.tick] at last
  rw [applied] at event
  have faulted : State.Faulted n k d s (u.takeFault n k d false a) :=
    ⟨cleared.before call profile effect.tick effect.events effect.aside, last, latch, count, pending, event⟩
  exact ⟨_, run, faulted.commit, whole.commit.steady⟩

end Sys2Proof.Machine

/-! O53: grading windows (05 R75 to R78, R81 to R83, R90, R91). -/

namespace Sys2Proof.Machine

set_option Elab.async false

variable {n : LineId} {p : PumpId} {s t u : State} {sig err : Word}

/-! ## Measures -/

theorem lg_spec (x : Word) {k : Nat} (low : 2 ^ k ≤ x.toNat) (high : x.toNat < 2 ^ (k + 1)) :
    lg x + 16 = 16 * k + if 4 ≤ k then x.toNat / 2 ^ (k - 4) else x.toNat * 2 ^ (4 - k) := by
  have positive : x.toNat ≠ 0 := by
    have := Nat.two_pow_pos k
    omega
  have highest : highBit x.toNat = k := (Nat.log2_eq_iff positive).mpr ⟨low, high⟩
  have enough : 16 ≤ if 4 ≤ k then x.toNat / 2 ^ (k - 4) else x.toNat * 2 ^ (4 - k) := by
    split
    next four =>
      rw [Nat.le_div_iff_mul_le (Nat.two_pow_pos _)]
      calc 16 * 2 ^ (k - 4) = 2 ^ (4 + (k - 4)) := by rw [Nat.pow_add]
        _ = 2 ^ k := by rw [Nat.add_sub_cancel' four]
        _ ≤ x.toNat := low
    next few =>
      calc 16 = 2 ^ (k + (4 - k)) := by rw [Nat.add_sub_cancel' (by omega)]
        _ = 2 ^ k * 2 ^ (4 - k) := Nat.pow_add ..
        _ ≤ x.toNat * 2 ^ (4 - k) := Nat.mul_le_mul_right _ low
  rw [lg, if_neg positive, lgOf, highest]
  omega

theorem margin_spec (x e : Word) : (margin x e : Int) = max 0 (min 160 (3 * ((lg x : Int) - lg e) / 4)) := by
  rw [margin, Int.fdiv_eq_ediv_of_nonneg _ (by decide)]
  omega

theorem smooth_spec (a q : Nat) :
    a ≤ 16 * q ∧ smooth a q = a + (16 * q - a) / 4 ∨ 16 * q ≤ a ∧ smooth a q = a - (a - 16 * q) / 4 := by
  rcases le_total a (16 * q) with up | down
  · refine .inl ⟨up, ?_⟩
    rw [smooth, Int.tdiv_eq_ediv_of_nonneg (by omega)]
    omega
  · refine .inr ⟨down, ?_⟩
    have negated : (16 * q : Int) - a = -((a : Int) - 16 * q) := by ring
    rw [smooth, negated, Int.neg_tdiv, Int.tdiv_eq_ediv_of_nonneg (by omega)]
    omega

/-! ## A window taken -/

/-- The grade after a window of margin `q`. -/
def Grade.windowed (g : Grade) (q : Nat) : Grade :=
  if g.seedPending then { g with lastQ := q, acc := 16 * q, seedPending := false }
  else { g with lastQ := q, acc := smooth g.acc q }

/-- The line with a grade, its count of frame errors read. -/
def Line.graded (l : Line) (x : Grade) : Line :=
  { l with
    grade := x
    link := { l.link with frameErrors := if l.call.service = .data then 0 else l.link.frameErrors } }

/-- The errors a window is judged with. -/
def Line.windowErrors (l : Line) : Nat := if l.call.service = .data then l.link.frameErrors else 0

/-- What a window leads to once its grade is taken. -/
def State.afterWindow (s : State) (n : LineId) (f : Nat) : State :=
  if (s.line n).connectedAs .data ∧ (s.line n).grade.rate = .settled then s.judgeWindow n f else s

section
variable (w : s.Works n p) (carries : s.carrying n = true)
include carries

theorem exec_gradingWindow (takes : (s.line n).call.state.takesWindows = true) :
    exec (.gradingWindow n sig err) s = done s
      (if (s.line n).call.state = .connected then
        ((s.onLine n fun l => l.graded ((s.line n).grade.windowed (margin sig err))).collapseTest n).afterWindow n (s.line n).windowErrors
      else s.onLine n fun l => l.graded ((s.line n).grade.windowed (margin sig err))) := by
  have run : exec (.gradingWindow n sig err) s = done s (s.window n sig err) := rfl
  have graded : ((if (s.line n).call.service = .data then s.errorsRead n else s).onGrade n fun g =>
      if g.seedPending then { g.seed (margin sig err) with seedPending := false } else g.take (margin sig err)) =
      s.onLine n fun l => l.graded ((s.line n).grade.windowed (margin sig err)) := by
    split
    next data =>
      rw [State.errorsRead, State.onLink, State.onGrade, State.onLine_onLine]
      refine State.onLine_congr ?_
      dsimp only
      rw [Line.graded, if_pos data]
      rfl
    next other =>
      refine State.onLine_congr ?_
      rw [Line.graded, if_neg other]
      rfl
  rw [run, State.window]
  dsimp only
  rw [if_pos ⟨takes, carries⟩, graded]
  rfl

end

/-! ## The collapse test -/

theorem State.collapseTest_miss
    (miss : (s.line n).grade.value < (s.line n).profile.collapseThreshold →
      (s.line n).grade.collapseCount + 1 < (s.line n).profile.collapseTime * 10) :
    s.collapseTest n = s.onGrade n fun g =>
      { g with
        collapseCount :=
          if (s.line n).grade.value < (s.line n).profile.collapseThreshold then (s.line n).grade.collapseCount + 1 else 0 } := by
  rw [State.collapseTest]
  split
  next below =>
    rw [if_neg (by have := miss below; omega)]
    exact State.onLine_congr rfl
  next => rfl

theorem State.collapseTest_hit (below : (s.line n).grade.value < (s.line n).profile.collapseThreshold)
    (time : (s.line n).profile.collapseTime * 10 ≤ (s.line n).grade.collapseCount + 1) :
    s.collapseTest n = (s.onGrade n fun g => { g with collapseCount := 0 }).takeFault n .gradeCollapse .none true false := by
  rw [State.collapseTest, if_pos below, if_pos time]

/-- A fault that the line's policy reports or records alone, where the work may go on. -/
theorem State.takeFault_goesOn {k : FaultKind} {d : FailDetail} {a : Bool} (takes : (s.line n).takesFault a = true)
    (policy : (s.line n).applied k = .report ∨ (s.line n).applied k = .silent) :
    s.takeFault n k d true a = s.onLine n fun l =>
      { l with
        fm := { l.fm with last := some ⟨k, d, (s.line n).applied k, s.hdr.tick⟩ }
        ev := if (s.line n).applied k = .silent then l.ev else l.ev.raise 12 } := by
  unfold State.takeFault
  dsimp only
  rw [if_pos takes]
  rcases policy with report | silent
  · have applied := report
    unfold Line.applied at report
    simp only [report, reduceCtorEq, if_false, if_true]
    rw [applied, State.raise, State.onFm, State.onLine_onLine]
    rfl
  · have applied := silent
    unfold Line.applied at silent
    simp only [silent, if_true]
    rw [applied]
    rfl

/-- Where the policy latches or redials, the call ends whether or not the work might have gone on. -/
theorem State.takeFault_ends {k : FaultKind} {d : FailDetail} {a : Bool}
    (policy : (s.line n).applied k = .latch ∨ (s.line n).applied k = .retry) : s.takeFault n k d true a = s.takeFault n k d false a := by
  unfold State.takeFault
  dsimp only
  rcases policy with latch | retry
  · unfold Line.applied at latch
    simp only [latch]
  · unfold Line.applied at retry
    simp only [retry]

/-! ## The rung decisions -/

/-- What a window shows of a collapse beside the grade: nothing, or the record of the fault and its event. -/
structure Beyond (h : Line → Line) : Prop where
  grade : ∀ l x, h { l with grade := x } = { h l with grade := x }
  call : ∀ l, (h l).call = l.call
  profile : ∀ l, (h l).profile = l.profile
  fm : ∀ l, ∃ x, (h l).fm = { l.fm with last := x }
  bounded : ∀ l, l.Bounded → (h l).Bounded
  ev : ∀ l : Line, l.ev.Risen (h l).ev
  cards : ∀ l, (h l).table = l.table

/-- The line after a window at a grade. -/
def State.windowed (s : State) (n : LineId) (h : Line → Line) (x : Grade) : State := s.onLine n fun l => h (l.graded x)

variable {h : Line → Line} {g : Grade} {f : Nat}

theorem State.line_windowed (s : State) (n : LineId) (h : Line → Line) (x : Grade) :
    (s.windowed n h x).line n = h ((s.line n).graded x) := State.line_onLine_self ..

theorem Beyond.grade_eq (b : Beyond h) (l : Line) (x : Grade) : (h (l.graded x)).grade = x := by
  have same : h (l.graded x) = { h (l.graded x) with grade := x } := b.grade (l.graded x) x
  rw [same]

theorem Beyond.onGrade (b : Beyond h) (s : State) (n : LineId) (x : Grade) (f : Grade → Grade) :
    (s.windowed n h x).onGrade n f = s.windowed n h (f x) := by
  rw [State.windowed, State.onGrade, State.onLine_onLine]
  refine State.onLine_congr ?_
  rw [b.grade_eq]
  exact (b.grade ((s.line n).graded x) (f x)).symm

/-- The line as the rung decisions find it. -/
theorem Beyond.line (b : Beyond h) (s : State) (n : LineId) (x : Grade) :
    ((s.windowed n h x).line n).grade = x ∧ ((s.windowed n h x).line n).call = (s.line n).call ∧
      ((s.windowed n h x).line n).profile = (s.line n).profile := by
  rw [State.line_windowed]
  exact ⟨b.grade_eq _ _, b.call _, b.profile _⟩

theorem Beyond.works (b : Beyond h) (w : s.Works n p) (x : Grade) : (s.windowed n h x).Works n p :=
  w.onLine (by rw [b.call]; rfl)

section
variable (b : Beyond h) (good : g.good (s.line n).profile.upMargin f = true)
include b good

theorem Beyond.judge_good (more : g.upCount + 1 < (s.line n).profile.upWindows) :
    (s.windowed n h g).judgeWindow n f = s.windowed n h { g with upCount := g.upCount + 1, downCount := 0 } := by
  obtain ⟨grade, -, profile⟩ := b.line s n g
  rw [State.judgeWindow, profile, grade, if_pos good, b.onGrade]
  dsimp only
  rw [if_neg (by omega)]

theorem Beyond.judge_up (w : s.Works n p) (enough : (s.line n).profile.upWindows ≤ g.upCount + 1) : (s.windowed n h g).judgeWindow n f =
    (s.windowed n h { g with upCount := g.upCount + 1, downCount := 0 }).shiftBegun n p (g.rung + 1) := by
  obtain ⟨grade, -, profile⟩ := b.line s n g
  rw [State.judgeWindow, profile, grade, if_pos good, b.onGrade]
  dsimp only
  rw [if_pos enough]
  exact (b.works w _).requestShift _

end

section
variable (b : Beyond h) (plain : g.good (s.line n).profile.upMargin f = false)
include b plain

theorem Beyond.judge_neither (fair : g.poor f = false) :
    (s.windowed n h g).judgeWindow n f = s.windowed n h { g with upCount := 0, downCount := 0 } := by
  obtain ⟨grade, -, profile⟩ := b.line s n g
  rw [State.judgeWindow, profile, grade, if_neg (by rw [plain]; decide), if_neg (by rw [fair]; decide), b.onGrade]

theorem Beyond.judge_poor (poor : g.poor f = true) (more : g.downCount + 1 < (s.line n).profile.downWindows) :
    (s.windowed n h g).judgeWindow n f = s.windowed n h { g with downCount := g.downCount + 1, upCount := 0 } := by
  obtain ⟨grade, -, profile⟩ := b.line s n g
  rw [State.judgeWindow, profile, grade, if_neg (by rw [plain]; decide), if_pos poor, b.onGrade]
  dsimp only
  rw [if_neg (by omega)]

variable (poor : g.poor f = true) (enough : (s.line n).profile.downWindows ≤ g.downCount + 1)
include poor enough

theorem Beyond.judge_down (w : s.Works n p) {r : Nat} (rung : highestRung g.floor g.value (g.rung - 1) = some r) :
    (s.windowed n h g).judgeWindow n f = (s.windowed n h { g with downCount := g.downCount + 1, upCount := 0 }).shiftBegun n p r := by
  obtain ⟨grade, -, profile⟩ := b.line s n g
  rw [State.judgeWindow, profile, grade, if_neg (by rw [plain]; decide), if_pos poor, b.onGrade]
  dsimp only
  rw [if_pos enough, rung]
  exact (b.works w _).requestShift _

theorem Beyond.judge_retrain (none_ : highestRung g.floor g.value (g.rung - 1) = none) :
    (s.windowed n h g).judgeWindow n f = (s.windowed n h { g with downCount := g.downCount + 1, upCount := 0 }).beginRetrain n := by
  obtain ⟨grade, -, profile⟩ := b.line s n g
  rw [State.judgeWindow, profile, grade, if_neg (by rw [plain]; decide), if_pos poor, b.onGrade]
  dsimp only
  rw [if_pos enough, none_]

end

/-- A window keeps the bounds of the grade. -/
theorem Grade.windowed_bounded (g : Grade) {q : Nat} (most : q ≤ 160) (acc : g.acc ≤ 2560) :
    (g.windowed q).acc ≤ 2560 ∧ (g.windowed q).lastQ ≤ 160 := by
  unfold Grade.windowed
  split
  · exact ⟨by change 16 * q ≤ 2560; omega, most⟩
  · exact ⟨smooth_bounded acc most, most⟩

theorem LineEffect.windowed (b : Beyond h) {x : Grade} {q : Nat} (most : q ≤ 160) (acc : x.acc = ((s.line n).grade.windowed q).acc)
    (lastQ : x.lastQ = ((s.line n).grade.windowed q).lastQ) : LineEffect n s (s.windowed n h x) := by
  have same : s.windowed n h x =
      s.onLine n fun l => h (l.graded { x with acc := (l.grade.windowed q).acc, lastQ := (l.grade.windowed q).lastQ }) := by
    refine State.onLine_congr ?_
    rw [← acc, ← lastQ]
  rw [same]
  refine LineEffect.refl.onLine (fun l k => b.bounded _ ?_) (fun l => b.ev _) fun l => by rw [b.cards]; rfl
  obtain ⟨acc', lastQ'⟩ := l.grade.windowed_bounded most k.acc
  exact ⟨acc', lastQ', k.rings, k.digits⟩

theorem Grade.good_iff {up : Nat} :
    g.good up f = true ↔ g.rung < g.ceiling ∧ 24 + 8 * (g.rung + 1) + up ≤ (g.acc + 8) / 16 ∧ f = 0 := by
  simp only [Grade.good, Bool.and_eq_true, decide_eq_true_eq, and_assoc]
  rfl

theorem Grade.poor_iff : g.poor f = true ↔ (g.acc + 8) / 16 < 24 + 8 * g.rung ∨ 3 ≤ f := by
  simp only [Grade.poor, Bool.or_eq_true, decide_eq_true_eq]
  rfl

/-! ## A connected line -/

/-- The record and the event of a collapse, where one was found. -/
def Line.collapseSeen (hit : Bool) (policy : Policy) (tick : BitVec 32) (l : Line) : Line :=
  if hit then
    { l with
      fm := { l.fm with last := some ⟨.gradeCollapse, .none, policy, tick⟩ }
      ev := if policy = .silent then l.ev else { l.ev with bits := l.ev.bits ||| 0x1000, tally := l.ev.tally + 1 } }
  else l

theorem beyond_collapseSeen (hit : Bool) (policy : Policy) (tick : BitVec 32) : Beyond (Line.collapseSeen hit policy tick) := by
  cases hit
  · exact ⟨fun _ _ => rfl, fun _ => rfl, fun _ => rfl, fun l => ⟨l.fm.last, rfl⟩, fun _ k => k, fun _ => .refl, fun _ => rfl⟩
  · refine ⟨fun _ _ => rfl, fun _ => rfl, fun _ => rfl, fun l => ⟨_, rfl⟩, fun _ k => k.of_eq rfl rfl rfl, fun l => ?_, fun _ => rfl⟩
    change EventWord.Risen l.ev (if policy = .silent then l.ev else _)
    split
    · exact .refl
    · exact ⟨_, _, rfl⟩

section
variable (state : (s.line n).call.state = .connected) (carries : s.carrying n = true) {hit : Bool}
include state

/-- The collapse test where the call goes on. -/
theorem State.collapseTest_windowed {x : Grade} {count : Nat}
    (counted : count = if (x.acc + 8) / 16 < (s.line n).profile.collapseThreshold then x.collapseCount + 1 else 0)
    (test : hit = (decide ((x.acc + 8) / 16 < (s.line n).profile.collapseThreshold) &&
      decide ((s.line n).profile.collapseTime * 10 ≤ count)))
    (goes : hit = false ∨ (s.line n).applied .gradeCollapse = .report ∨ (s.line n).applied .gradeCollapse = .silent) :
    (s.windowed n (fun l => l) x).collapseTest n =
      s.windowed n (Line.collapseSeen hit ((s.line n).applied .gradeCollapse) s.hdr.tick)
        { x with collapseCount := if hit then 0 else count } := by
  have b : Beyond fun l => l := beyond_collapseSeen false .silent 0
  obtain ⟨grade, call, profile⟩ := b.line s n x
  have value : x.value = (x.acc + 8) / 16 := rfl
  cases hit
  · rw [State.collapseTest_miss, b.onGrade, grade, profile, value, ← counted]
    · rfl
    · intro below
      rw [grade, profile, value] at below
      rw [grade, profile]
      have not_both := test.symm
      rw [if_pos below] at counted
      simp only [decide_eq_true below, Bool.true_and, decide_eq_false_iff_not] at not_both
      omega
  · obtain ⟨below, time⟩ := Bool.and_eq_true_iff.mp test.symm
    have below := of_decide_eq_true below
    have time := of_decide_eq_true time
    rw [if_pos below] at counted
    have policy := goes.resolve_left nofun
    have line := State.line_windowed s n (fun l => l) { x with collapseCount := 0 }
    have applied : ((s.windowed n (fun l => l) { x with collapseCount := 0 }).line n).applied .gradeCollapse =
        (s.line n).applied .gradeCollapse := by rw [line]; rfl
    rw [State.collapseTest_hit (by rw [grade, profile]; exact below) (by rw [grade, profile]; omega), b.onGrade,
      State.takeFault_goesOn (Line.takesFault_of (.inr (.inr (by rw [line]; change (s.line n).call.state.offHook = true; rw [state]; rfl)))) (by rw [applied]; exact policy), applied,
      State.windowed, State.onLine_onLine]
    rfl

include carries

theorem exec_gradingWindow_connected {x : Grade} (window : x = (s.line n).grade.windowed (margin sig err)) :
    exec (.gradingWindow n sig err) s =
      done s (((s.windowed n (fun l => l) x).collapseTest n).afterWindow n (s.line n).windowErrors) := by
  rw [exec_gradingWindow carries (by rw [state]; rfl), if_pos state, window]
  rfl

/-- A collapse that ends the call. -/
theorem faults_gradeCollapse {x : Grade} (window : x = (s.line n).grade.windowed (margin sig err))
    (below : (x.acc + 8) / 16 < (s.line n).profile.collapseThreshold)
    (time : (s.line n).profile.collapseTime * 10 ≤ x.collapseCount + 1)
    (policy : (s.line n).applied .gradeCollapse = .latch ∨ (s.line n).applied .gradeCollapse = .retry) :
    Faults (.gradingWindow n sig err) n .gradeCollapse .none s := by
  have b : Beyond fun l => l := beyond_collapseSeen false .silent 0
  obtain ⟨grade, call, profile⟩ := b.line s n x
  have run := exec_gradingWindow_connected state carries window
  have line := State.line_windowed s n (fun l => l) { x with collapseCount := 0 }
  have applied : ((s.windowed n (fun l => l) { x with collapseCount := 0 }).line n).applied .gradeCollapse =
      (s.line n).applied .gradeCollapse := by rw [line]; rfl
  have effect : LineEffect n s (s.windowed n (fun l => l) { x with collapseCount := 0 }) :=
    .windowed b (margin_le sig err) (by rw [window]) (by rw [window])
  rw [State.collapseTest_hit (by rw [grade, profile]; exact below) (by rw [grade, profile]; exact time), b.onGrade,
    State.takeFault_ends (by rw [applied]; exact policy)] at run
  have takes : ((s.windowed n (fun l => l) { x with collapseCount := 0 }).line n).takesFault false = true :=
    Line.takesFault_of (.inr (.inr (by rw [line]; change (s.line n).call.state.offHook = true; rw [state]; rfl)))
  have cleared := (State.takeFault_spec _ n .gradeCollapse .none false takes).cleared.call
  have over_ : ((s.windowed n (fun l => l) { x with collapseCount := 0 }).takeFault n .gradeCollapse .none false false).afterWindow n
      (s.line n).windowErrors = (s.windowed n (fun l => l) { x with collapseCount := 0 }).takeFault n .gradeCollapse .none false false := by
    refine if_neg fun h => ?_
    have connected := h.1
    rw [Line.connectedAs, cleared] at connected
    exact nomatch connected
  rw [over_] at run
  refine Faults.of_done_last run takes ?_ ?_ ⟨(s.line n).fm.last, ?_⟩ effect
  · rw [line]; rfl
  · rw [line]; rfl
  · rw [line]; rfl

end

theorem State.afterWindow_done {x : Grade} (b : Beyond h) (over_ : (s.line n).call.service ≠ .data ∨ x.rate ≠ .settled) :
    (s.windowed n h x).afterWindow n f = s.windowed n h x := by
  obtain ⟨grade, call, -⟩ := b.line s n x
  refine if_neg fun k => ?_
  obtain ⟨connected, settled⟩ := k
  rw [Line.connectedAs, call] at connected
  rw [grade] at settled
  have data := of_decide_eq_true (Bool.and_eq_true_iff.mp connected).2
  exact over_.elim (fun other => other data) fun other => other settled

theorem State.afterWindow_judged {x : Grade} (b : Beyond h) (state : (s.line n).call.state = .connected)
    (data : (s.line n).call.service = .data) (settled : x.rate = .settled) :
    (s.windowed n h x).afterWindow n f = (s.windowed n h x).judgeWindow n f := by
  obtain ⟨grade, call, -⟩ := b.line s n x
  refine if_pos ⟨?_, by rw [grade]; exact settled⟩
  rw [Line.connectedAs, call, state, data]
  rfl

/-- Settles O53: the measures by arithmetic, a window by what its grade says of a collapse and of the rung. -/
theorem gradingWindows : Obligations.GradingWindows := by
  refine ⟨⟨rfl, fun x k => lg_spec x⟩, margin_spec, smooth_spec, fun n p sig err s w activity holding => ?_⟩
  intro l q f g G graded c
  have carries := w.carries activity holding
  have pending : ∀ y, (s.onLine n y).pending = s.pending := fun _ => rfl
  refine ⟨fun state => ?_, fun training retraining connected => ?_, fun state => ?_⟩
  · have run := exec_gradingWindow (sig := sig) (err := err) carries (by rcases state with h | h <;> rw [show (s.line n).call.state = _ from h] <;> rfl)
    rw [if_neg (by rcases state with h | h <;> rw [show (s.line n).call.state = _ from h] <;> decide)] at run
    exact Leads.of_done run rfl
  · have run : exec (.gradingWindow n sig err) s = done s (s.window n sig err) := rfl
    rw [State.window, if_neg] at run
    · exact Leads.of_done run rfl
    · rintro ⟨takes, -⟩
      unfold LineState.takesWindows at takes
      split at takes
      next h => exact training h
      next h => exact connected h
      next h => exact retraining h
      next => exact nomatch takes
  · intro below count hit policy
    refine ⟨fun found ends => ?_, fun goes => ?_⟩
    · obtain ⟨under, time⟩ := Bool.and_eq_true_iff.mp found
      have under := of_decide_eq_true under
      have time := of_decide_eq_true time
      have counted : count = g.collapseCount + 1 := if_pos (decide_eq_true under)
      rw [counted] at time
      exact faults_gradeCollapse state carries rfl under time ends
    · intro x goesOn
      have b := beyond_collapseSeen hit policy s.hdr.tick
      have run := exec_gradingWindow_connected (sig := sig) (err := err) state carries (x := g) rfl
      have tested := State.collapseTest_windowed (x := g) (count := count) (hit := hit) state
        (by simp only [count, below, decide_eq_true_eq]; rfl) rfl goes
      rw [tested] at run
      change exec (.gradingWindow n sig err) s = done s ((s.windowed n (Line.collapseSeen hit policy s.hdr.tick) x).afterWindow n f) at run
      have folded : goesOn = s.windowed n (Line.collapseSeen hit policy s.hdr.tick) := funext fun y => State.onLine_onLine ..
      clear_value goesOn
      subst folded
      refine ⟨fun over_ => ?_, fun data settled => ?_⟩
      · rw [State.afterWindow_done b over_] at run
        exact Leads.of_done run rfl
      · rw [State.afterWindow_judged b state data settled] at run
        intro good poor up down
        refine ⟨fun yes more => ?_, fun yes enough => ?_, fun no fair => ?_, fun no yes more => ?_, fun no yes enough =>
          ⟨fun r positive low less meets best => ?_, fun fails => ⟨fun few => ?_, fun many => ?_⟩⟩⟩
        · rw [b.judge_good (Grade.good_iff.mpr yes) more] at run
          exact Leads.of_done run rfl
        · rw [b.judge_up (Grade.good_iff.mpr yes) w enough] at run
          exact Leads.of_done run rfl
        · rw [b.judge_neither (Bool.eq_false_iff.mpr fun k => no (Grade.good_iff.mp k))
            (Bool.eq_false_iff.mpr fun k => fair (Grade.poor_iff.mp k))] at run
          exact Leads.of_done run rfl
        · rw [b.judge_poor (Bool.eq_false_iff.mpr fun k => no (Grade.good_iff.mp k)) (Grade.poor_iff.mpr yes) more] at run
          exact Leads.of_done run rfl
        · rw [b.judge_down (Bool.eq_false_iff.mpr fun k => no (Grade.good_iff.mp k)) (Grade.poor_iff.mpr yes) enough w
            (highestRung_eq_some positive low (by omega) meets fun k more le => best k more (by omega))] at run
          exact Leads.of_done run rfl
        · rw [b.judge_retrain (Bool.eq_false_iff.mpr fun k => no (Grade.good_iff.mp k)) (Grade.poor_iff.mpr yes) enough
            (highestRung_eq_none fun r one low le => fails r one low (by omega)), (b.works w _).beginRetrain] at run
          · exact Leads.of_done run rfl
          · obtain ⟨grade, -, profile⟩ := b.line s n down
            rw [grade, profile]
            exact few
        · rw [b.judge_retrain (Bool.eq_false_iff.mpr fun k => no (Grade.good_iff.mp k)) (Grade.poor_iff.mpr yes) enough
            (highestRung_eq_none fun r one low le => fails r one low (by omega)), State.beginRetrain_exhausted] at run
          · have effect : LineEffect n s (s.windowed n (Line.collapseSeen hit policy s.hdr.tick) down) :=
              .windowed b (margin_le sig err) rfl rfl
            obtain ⟨grade, call, profile⟩ := b.line s n down
            have fm := b.fm ((s.line n).graded down)
            rw [← State.line_windowed s n (Line.collapseSeen hit policy s.hdr.tick) down] at fm
            exact Faults.of_done_last run (Line.takesFault_of (.inr (.inr (by rw [call]; exact congrArg LineState.offHook state))))
              call profile fm effect
          · obtain ⟨grade, -, profile⟩ := b.line s n down
            rw [grade, profile]
            exact many

end Sys2Proof.Machine

/-! The rate settled again (06 R105), and a completed exchange (05 R85, R88). -/

namespace Sys2Proof.Machine

set_option Elab.async false

variable {n : LineId} {p : PumpId} {s t u : State} {f : LinkFrame}

theorem Timer.resume_eq (x : Timer) : x.resume = match x with | .paused k => .running k | x => x := by cases x <;> rfl

/-- The link with its rate settled and no reply left. -/
def Link.resumed (l : Link) : Link :=
  { l with
    inFlight := false, replies := [], replyDue := none, replyTimer := l.replyTimer.resume, holdTimer := l.holdTimer.resume }

section
variable (idle : (s.line n).link.sending = none) (carries : s.carrying n = true)
include idle carries

/-- On an open link the reply due goes out. -/
theorem State.rateSettled_reply (opened : (s.line n).link.state ≠ .opening) (due : (s.line n).link.replyDue = some f) :
    s.rateSettled n = (s.onLink n Link.resumed).frameBegun n f := by
  have replies : (s.onLink n fun l => { l.resumed with replies := l.replyDue.toList }).linkKick n =
      ((s.onLink n fun l => { l.resumed with replies := l.replyDue.toList }).onLink n fun l => { l with replies := [] }).frameBegun n f := by
    refine State.linkKick_reply ?_ ?_ ?_
    · rw [State.line_onLink_self]; exact idle
    · rw [State.carrying_onLink]; exact carries
    · rw [State.line_onLink_self]
      dsimp only
      rw [due]
      rfl
  rw [State.onLink_onLink] at replies
  rw [State.rateSettled]
  simp only [opened, decide_false, Bool.false_eq_true, if_false, List.append_nil]
  exact replies

/-- On an open link with no reply due and nothing to frame, nothing goes out. -/
theorem State.rateSettled_quiet (opened : (s.line n).link.state ≠ .opening) (due : (s.line n).link.replyDue = none)
    (quiet : (s.line n).link.held = true ∨ (s.line n).link.resends = [] ∧ ∀ c ∈ (s.line n).link.sendList, c.chain.bytes ≤ c.framed) :
    s.rateSettled n = s.onLink n Link.resumed := by
  have line : (s.onLink n Link.resumed).line n = { s.line n with link := (s.line n).link.resumed } := State.line_onLink_self ..
  have still : (s.onLink n Link.resumed).linkKick n = s.onLink n Link.resumed := by
    have carries' : (s.onLink n Link.resumed).carrying n = true := by rw [State.carrying_onLink]; exact carries
    have idle' : ((s.onLink n Link.resumed).line n).link.sending = none := by rw [line]; exact idle
    rcases quiet with held | ⟨resends, framed⟩
    · refine State.linkKick_still idle' carries' (by rw [line]; rfl) ?_
      rw [line, Link.mayFrame]
      change (_ && !(s.line n).link.held && _) = false
      rw [held, Bool.not_true, Bool.and_false, Bool.false_and]
    · refine State.linkKick_none idle' carries' (by rw [line]; rfl) (by rw [line]; exact resends) (.inr ?_)
      rw [line]
      exact framed
  have same : (s.onLink n fun l => { l.resumed with replies := l.replyDue.toList }) = s.onLink n Link.resumed :=
    State.onLine_congr (by dsimp only; rw [due]; rfl)
  rw [State.rateSettled]
  simp only [opened, decide_false, Bool.false_eq_true, if_false, List.append_nil]
  exact (congrArg (State.linkKick · n) same).trans still

/-- On a link still OPENING the reply due goes out first, and else its own LINK-OPEN. -/
theorem State.rateSettled_opening (opening : (s.line n).link.state = .opening) {waiting : List LinkFrame}
    (first : (s.line n).link.replyDue.toList ++ [s.ownLinkOpen n] = f :: waiting) : s.rateSettled n =
      (s.onLink n fun l => { l.resumed with replies := waiting, repeatTimer := .running 500 }).frameBegun n f := by
  have replies : (s.onLink n fun l => { l.resumed with replies := f :: waiting, repeatTimer := .running 500 }).linkKick n =
      ((s.onLink n fun l => { l.resumed with replies := f :: waiting, repeatTimer := .running 500 }).onLink n fun l =>
        { l with replies := waiting }).frameBegun n f := by
    refine State.linkKick_reply ?_ ?_ ?_
    · rw [State.line_onLink_self]; exact idle
    · rw [State.carrying_onLink]; exact carries
    · rw [State.line_onLink_self]
  have same : (s.onLink n fun l => { l.resumed with replies := l.replyDue.toList ++ [s.ownLinkOpen n], repeatTimer := .running 500 }) =
      s.onLink n fun l => { l.resumed with replies := f :: waiting, repeatTimer := .running 500 } :=
    State.onLine_congr (by dsimp only; rw [first])
  rw [State.onLink_onLink] at replies
  rw [State.rateSettled]
  simp only [opening, decide_true, if_true]
  exact (congrArg (State.linkKick · n) same).trans replies

end

end Sys2Proof.Machine

/-! O54: shifts, retrains and the carrier (04 R70 to R72; 05 R84 to R89; 06 R105; 01 R10). -/

namespace Sys2Proof.Machine

set_option Elab.async false

variable {n : LineId} {p : PumpId} {s t u : State} {f : LinkFrame} {farMax : Nat} {sig err : Word}

theorem State.onLine_emit (s : State) (o : Output) (n : LineId) (g : Line → Line) : (s.emit o).onLine n g = (s.onLine n g).emit o := rfl

/-- The pump back at CARRYING. -/
def State.pumpCarries (s : State) (p : PumpId) : State := s.onPump p fun q => q.work .carrying .stopped

theorem State.Works.pumpCarries (w : s.Works n p) {g : Line → Line} (call : (g (s.line n)).call.pump = (s.line n).call.pump) :
    ((s.pumpCarries p).onLine n g).carrying n = true := by
  have pump := State.pump_onPump_self s p fun q => q.work .carrying .stopped
  have works := w.onPump (g := fun q => q.work .carrying .stopped) (fun _ => rfl) (fun _ => rfl) (fun _ => rfl)
  exact (works.onLine call).carries (congrArg Pump.activity pump) (congrArg Pump.holding pump)

/-! ## A shift done -/

theorem exec_shiftDone (w : s.Works n p) {target : Nat} (rate : (s.line n).grade.rate = .shifting target)
    (activity : (s.pump p).activity = .shifting) : exec (.shiftDone n) s = done s
      ((((s.pumpCarries p).onLine n fun l =>
        { l with grade := { l.grade with rung := target, rate := .settled, upCount := 0, downCount := 0 } }).rateSettled n).raise n .rate) := by
  have run : exec (.shiftDone n) s = done s (s.shiftDone n) := rfl
  have found : s.shiftTarget n = some target := by
    simp only [State.shiftTarget, rate, w.pumpAt, activity, decide_true, if_true]
  have held := (w.onLine (g := fun l =>
    { l with grade := { l.grade with rung := target, rate := .settled, upCount := 0, downCount := 0 } }) rfl).onHeldPump fun q =>
      q.work .carrying .stopped
  rw [run, State.shiftDone, found]
  exact congrArg (fun y : State => done s ((y.rateSettled n).raise n .rate)) held

/-! ## A retrain begun -/

/-- What begins a retrain. -/
theorem exec_beginsRetrain (w : s.Works n p) {c : Instr}
    (command : (c = .shiftFailed n ∨ c = .shiftAnswerExpiry n) ∧ (∃ t, (s.line n).grade.rate = .shifting t) ∧ (s.pump p).activity = .shifting ∨
      c = .farRetrain n ∧ (s.line n).call.service = .data ∧ ((s.pump p).activity = .carrying ∨ (s.pump p).activity = .shifting) ∨
      (c = .retrainAttemptExpiry ⟨n, (s.line n).grade.retrainCount⟩ ∨ c = .retrainServiceMismatch ⟨n, (s.line n).grade.retrainCount⟩) ∧
        (s.pump p).activity = .retraining) :
    exec c s = done s (s.beginRetrain n) ∨ exec c s = done s ((s.onPump p fun q => { q with holding := true }).beginRetrain n) := by
  rcases command with ⟨command, ⟨target, rate⟩, activity⟩ | ⟨rfl, data, activity⟩ | ⟨command, activity⟩
  · have found : (s.shiftTarget n).isSome = true := by
      simp only [State.shiftTarget, rate, w.pumpAt, activity, decide_true, if_true, Option.isSome_some]
    left
    rcases command with rfl | rfl
    · exact congrArg (done s) (if_pos found)
    · exact congrArg (done s) (if_pos found)
  · right
    have at_ : s.pumpAt n .carrying = true ∨ s.pumpAt n .shifting = true := by
      rw [w.pumpAt, w.pumpAt]
      exact activity.imp decide_eq_true decide_eq_true
    have run : exec (.farRetrain n) s = done s (s.farRetrain n) := rfl
    rw [run, State.farRetrain, if_pos ⟨data, at_⟩, w.onHeldPump]
  · left
    have attempt : s.inAttempt ⟨n, (s.line n).grade.retrainCount⟩ = true := by
      rw [State.inAttempt, w.pumpAt, activity]
      simp
    rcases command with rfl | rfl
    · exact congrArg (done s) (if_pos attempt)
    · exact congrArg (done s) (if_pos attempt)

theorem State.retrainBegun_holding (s : State) (n : LineId) (p : PumpId) :
    ((s.onPump p fun q => { q with holding := true }).retrainBegun n p) = s.retrainBegun n p := by
  rw [State.retrainBegun, State.onPump_onLine, State.onPump_onPump]
  rfl

theorem leads_beginsRetrain (w : s.Works n p) {c : Instr}
    (run : exec c s = done s (s.beginRetrain n) ∨ exec c s = done s ((s.onPump p fun q => { q with holding := true }).beginRetrain n)) :
    ((s.line n).grade.retrainCount < (s.line n).profile.retrainLimit → Leads c s (s.retrainBegun n p)) ∧
    ((s.line n).profile.retrainLimit ≤ (s.line n).grade.retrainCount → (s.line n).call.state.offHook = true →
      Faults c n .retrainExhausted .none s) := by
  have works := w.onPump (g := fun q => { q with holding := true }) (fun _ => rfl) (fun _ => rfl) (fun _ => rfl)
  refine ⟨fun few => ?_, fun many hook => ?_⟩
  · rcases run with run | run
    · rw [w.beginRetrain few] at run
      exact Leads.of_done run rfl
    · rw [works.beginRetrain few, State.retrainBegun_holding] at run
      exact Leads.of_done run rfl
  · rcases run with run | run
    · rw [State.beginRetrain_exhausted many] at run
      exact Faults.of_done run (Line.takesFault_of (.inr (.inr hook))) rfl rfl rfl .refl
    · have exhausted : (s.onPump p fun q => { q with holding := true }).beginRetrain n =
          (s.onPump p fun q => { q with holding := true }).fault n .retrainExhausted := State.beginRetrain_exhausted many
      rw [exhausted] at run
      exact Faults.of_done run (Line.takesFault_of (.inr (.inr hook))) rfl rfl rfl (LineEffect.refl.onPump p _)

/-! ## A completed exchange -/

section
variable (w : s.Works n p) (activity : (s.pump p).activity = .retraining)
include w activity

theorem exec_retrainCompletion : exec (.retrainCompletion ⟨n, (s.line n).grade.retrainCount⟩ farMax sig err) s =
    done s (s.exchangeDone n farMax sig err) := by
  have attempt : s.inAttempt ⟨n, (s.line n).grade.retrainCount⟩ = true := by
    rw [State.inAttempt, w.pumpAt, activity]
    simp
  exact congrArg (done s) (if_pos attempt)

end

/-- The line as its exchange settles at a rung. -/
def Line.exchanged (l : Line) (q farMax r : Nat) : Line :=
  { l.reported q farMax with
    grade := { (l.reported q farMax).grade with rung := r, rate := .settled }
    call := { l.call with state := if l.call.state = .retraining then .connected else l.call.state } }

/-- The event of a new rung. -/
def State.rateChanged (s : State) (n : LineId) (old r : Nat) : State := if r = old then s else s.raise n .rate

theorem State.Works.exchangeDone_some (w : s.Works n p) {r : Nat}
    (chosen : highestRung ((s.line n).profile.floor farMax) (margin sig err) ((s.line n).profile.ceiling farMax) = some r) :
    s.exchangeDone n farMax sig err =
      (((s.pumpCarries p).onLine n fun l => l.exchanged (margin sig err) farMax r).rateSettled n).rateChanged n (s.line n).grade.rung r := by
  have choice := (s.line n).choice_reported (margin sig err) farMax
  rw [chosen] at choice
  have graded : (s.onLine n fun l => l.reported (margin sig err) farMax).onGrade n (fun g => { g with rung := r, rate := .settled }) =
      s.onLine n fun l => { l.reported (margin sig err) farMax with
        grade := { (l.reported (margin sig err) farMax).grade with rung := r, rate := .settled } } := State.onLine_onLine ..
  rw [State.exchangeDone, State.exchangeReport_eq]
  simp only [State.line_onLine_self, choice]
  rw [graded, (w.onLine rfl).onHeldPump, State.onPump_onLine, State.onCall, State.onLine_onLine]
  rfl

theorem State.exchangeDone_none
    (none_ : highestRung ((s.line n).profile.floor farMax) (margin sig err) ((s.line n).profile.ceiling farMax) = none) :
    s.exchangeDone n farMax sig err = (s.onLine n fun l => l.reported (margin sig err) farMax).beginRetrain n := by
  have choice := (s.line n).choice_reported (margin sig err) farMax
  rw [none_] at choice
  rw [State.exchangeDone, State.exchangeReport_eq]
  simp only [State.line_onLine_self, choice]

/-! ## The rate settled again -/

/-- What a settled rate sends: the reply due, where one is. -/
def State.sendsDue (s : State) (n : LineId) (due : Option LinkFrame) : State :=
  match due with
  | some f => (s.onLink n Link.resumed).frameBegun n f
  | none => s.onLink n Link.resumed

theorem State.rateSettled_up (idle : (s.line n).link.sending = none) (carries : s.carrying n = true) (up : (s.line n).link.state = .up)
    (quiet : (s.line n).link.replyDue.isSome = true ∨ (s.line n).link.held = true ∨
      (s.line n).link.resends = [] ∧ ∀ c ∈ (s.line n).link.sendList, c.chain.bytes ≤ c.framed) :
    s.rateSettled n = s.sendsDue n (s.line n).link.replyDue := by
  have opened : (s.line n).link.state ≠ .opening := by rw [up]; decide
  cases due : (s.line n).link.replyDue with
  | some f => exact State.rateSettled_reply idle carries opened due
  | none =>
    rw [due] at quiet
    exact State.rateSettled_quiet idle carries opened due (quiet.resolve_left nofun)

theorem State.pending_sendsDue (s : State) (n : LineId) (due : Option LinkFrame) : (s.sendsDue n due).pending = s.pending := by
  cases due <;> rfl

section
variable {g : Line → Line} (commutes : ∀ l k, g { l with link := k } = { g l with link := k })
include commutes

theorem State.onLine_onLink (s : State) (n : LineId) (h : Link → Link) : (s.onLink n h).onLine n g = (s.onLine n g).onLink n h := by
  have link : (g (s.line n)).link = (s.line n).link := by
    have same : g (s.line n) = { g (s.line n) with link := (s.line n).link } := commutes (s.line n) (s.line n).link
    rw [same]
  rw [State.onLink, State.onLink, State.onLine_onLine, State.onLine_onLine]
  refine State.onLine_congr ((commutes (s.line n) (h (s.line n).link)).trans ?_)
  rw [link]

theorem State.onLine_frameBegun (s : State) (n : LineId) (f : LinkFrame) : (s.frameBegun n f).onLine n g = (s.onLine n g).frameBegun n f :=
  congrArg (·.emit (.linkBytes n (0xA5 :: (Wire.run f ++ [0xA5])))) (State.onLine_onLink commutes s n fun l => { l with sending := some f })

theorem State.onLine_sendsDue (s : State) (n : LineId) (due : Option LinkFrame) :
    (s.sendsDue n due).onLine n g = (s.onLine n g).sendsDue n due := by
  cases due with
  | none => exact State.onLine_onLink commutes s n Link.resumed
  | some f =>
    change ((s.onLink n Link.resumed).frameBegun n f).onLine n g = ((s.onLine n g).onLink n Link.resumed).frameBegun n f
    rw [State.onLine_frameBegun commutes, State.onLine_onLink commutes]

end

theorem State.rateChanged_eq (s : State) (n : LineId) (old r : Nat) : s.rateChanged n old r = s.onLine n fun l =>
    { l with ev := if r = old then l.ev else { l.ev with bits := l.ev.bits ||| 0x0040, tally := l.ev.tally + 1 } } := by
  unfold State.rateChanged
  split
  next => exact (State.onLine_id s n).symm
  next => rfl

/-! ## The obligation -/

/-- What a link must show for a settled rate to send no new INFO frame. -/
def Link.settlesQuiet (k : Link) : Prop :=
  k.state = .up ∧ k.sending = none ∧
    (k.replyDue.isSome = true ∨ k.held = true ∨ k.resends = [] ∧ ∀ c ∈ k.sendList, c.chain.bytes ≤ c.framed)

theorem State.Works.rateSettled (w : s.Works n p) (quiet : (s.line n).link.settlesQuiet) {g : Line → Line}
    (call : (g (s.line n)).call.pump = (s.line n).call.pump)
    (link : (g (s.line n)).link = { (s.line n).link with frameErrors := (g (s.line n)).link.frameErrors }) :
    ((s.pumpCarries p).onLine n g).rateSettled n = ((s.pumpCarries p).onLine n g).sendsDue n (s.line n).link.replyDue := by
  obtain ⟨up, idle, rest⟩ := quiet
  have line : ((s.pumpCarries p).onLine n g).line n = g (s.line n) := State.line_onLine_self ..
  have same : (g (s.line n)).link.replyDue = (s.line n).link.replyDue := by rw [link]
  rw [State.rateSettled_up (by rw [line, link]; exact idle) (w.pumpCarries call) (by rw [line, link]; exact up)
    (by rw [line, link]; exact rest), line, same]

theorem leads_shiftDone (w : s.Works n p) {target : Nat} (rate : (s.line n).grade.rate = .shifting target)
    (activity : (s.pump p).activity = .shifting) (quiet : (s.line n).link.settlesQuiet) :
    Leads (.shiftDone n) s (((s.pumpCarries p).onLine n fun l =>
      { l with
        grade := { l.grade with rung := target, rate := .settled, upCount := 0, downCount := 0 }
        ev := { l.ev with bits := l.ev.bits ||| 0x0040, tally := l.ev.tally + 1 } }).sendsDue n (s.line n).link.replyDue) := by
  have run := exec_shiftDone w rate activity
  have settles := w.rateSettled quiet (g := fun l =>
    { l with grade := { l.grade with rung := target, rate := .settled, upCount := 0, downCount := 0 } }) rfl rfl
  rw [settles, State.raise, State.onLine_sendsDue (fun _ _ => rfl), State.onLine_onLine] at run
  exact Leads.of_done run rfl (State.pending_sendsDue ..)

theorem leads_retrainCompletion (w : s.Works n p) (activity : (s.pump p).activity = .retraining) (state : (s.line n).call.state = .retraining)
    (quiet : (s.line n).link.settlesQuiet) {r : Nat}
    (chosen : highestRung ((s.line n).profile.floor farMax) (margin sig err) ((s.line n).profile.ceiling farMax) = some r) :
    Leads (.retrainCompletion ⟨n, (s.line n).grade.retrainCount⟩ farMax sig err) s (((s.pumpCarries p).onLine n fun l =>
      { l with
        call := { l.call with state := .connected }
        grade := { (l.reported (margin sig err) farMax).grade with rung := r, rate := .settled }
        link := { l.link with frameErrors := 0 }
        ev :=
          if r = (s.line n).grade.rung then l.ev
          else { l.ev with bits := l.ev.bits ||| 0x0040, tally := l.ev.tally + 1 } }).sendsDue n (s.line n).link.replyDue) := by
  have run := exec_retrainCompletion (farMax := farMax) (sig := sig) (err := err) w activity
  have settles := w.rateSettled quiet (g := fun l => l.exchanged (margin sig err) farMax r) rfl rfl
  rw [w.exchangeDone_some chosen, settles, State.rateChanged_eq, State.onLine_sendsDue (fun _ _ => rfl), State.onLine_onLine] at run
  refine Leads.of_done run (congrArg (fun y : State => (y.sendsDue n (s.line n).link.replyDue).uncounted) (State.onLine_congr ?_))
    (State.pending_sendsDue ..)
  have retraining : ((s.pumpCarries p).line n).call.state = .retraining := state
  simp only [Line.exchanged, retraining, if_true]
  rfl

/-- A completion that finds the call still in TRAINING, the link opening. -/
theorem leads_retrainCompletion_training (w : s.Works n p) (activity : (s.pump p).activity = .retraining)
    (state : (s.line n).call.state = .training) (opening : (s.line n).link.state = .opening) (idle : (s.line n).link.sending = none)
    {r : Nat} (chosen : highestRung ((s.line n).profile.floor farMax) (margin sig err) ((s.line n).profile.ceiling farMax) = some r)
    {waiting : List LinkFrame}
    (first : (s.line n).link.replyDue.toList ++ [.linkOpen (s.line n).profile.linkWindow (s.line n).profile.maxInfo] = f :: waiting) :
    Leads (.retrainCompletion ⟨n, (s.line n).grade.retrainCount⟩ farMax sig err) s (((s.pumpCarries p).onLine n fun l =>
      { l with
        grade := { (l.reported (margin sig err) farMax).grade with rung := r, rate := .settled }
        link := { l.link.resumed with frameErrors := 0, replies := waiting, repeatTimer := .running 500 }
        ev :=
          if r = (s.line n).grade.rung then l.ev
          else { l.ev with bits := l.ev.bits ||| 0x0040, tally := l.ev.tally + 1 } }).frameBegun n f) := by
  have run := exec_retrainCompletion (farMax := farMax) (sig := sig) (err := err) w activity
  have line : ((s.pumpCarries p).onLine n fun l => l.exchanged (margin sig err) farMax r).line n = (s.line n).exchanged (margin sig err) farMax r :=
    State.line_onLine_self ..
  have settles := State.rateSettled_opening (s := (s.pumpCarries p).onLine n fun l => l.exchanged (margin sig err) farMax r) (n := n)
    (by rw [line]; exact idle) (w.pumpCarries rfl) (by rw [line]; exact opening) (f := f) (waiting := waiting)
    (by rw [State.ownLinkOpen, line]; exact first)
  rw [w.exchangeDone_some chosen, settles, State.rateChanged_eq, State.onLine_frameBegun (fun _ _ => rfl),
    State.onLine_onLink (fun _ _ => rfl), State.onLine_onLine, State.onLink, State.onLine_onLine] at run
  refine Leads.of_done run (congrArg (fun y : State => (y.frameBegun n f).uncounted) (State.onLine_congr ?_))
  have training : ((s.pumpCarries p).line n).call.state = .training := state
  simp only [Line.exchanged, training, reduceCtorEq, if_false]
  rw [← training]
  rfl

/-- A report of an attempt that is not the one in progress. -/
theorem exec_otherAttempt {a : RetrainAttempt} (other : s.inAttempt a = false) :
    exec (.retrainCompletion a farMax sig err) s = done s s ∧ exec (.retrainAttemptExpiry a) s = done s s ∧
      exec (.retrainServiceMismatch a) s = done s s :=
  ⟨congrArg (done s) (if_neg (by rw [other]; decide)), congrArg (done s) (if_neg (by rw [other]; decide)),
    congrArg (done s) (if_neg (by rw [other]; decide))⟩

theorem State.Works.inAttempt_other (w : s.Works n p) {a : RetrainAttempt} (line : a.line = n)
    (other : (s.pump p).activity ≠ .retraining ∨ a.number ≠ (s.line n).grade.retrainCount) : s.inAttempt a = false := by
  rw [State.inAttempt, line, w.pumpAt]
  rcases other with activity | number
  · simp [activity]
  · simp [number]

/-- After a failed attempt its own completion is no longer that of the attempt in progress. -/
theorem State.Works.inAttempt_failed (w : s.Works n p) (hook : (s.line n).call.state.offHook = true) :
    (s.commit (s.beginRetrain n)).inAttempt ⟨n, (s.line n).grade.retrainCount⟩ = false := by
  rw [State.inAttempt]
  by_cases few : (s.line n).grade.retrainCount < (s.line n).profile.retrainLimit
  · have count : ((s.commit (s.beginRetrain n)).line n).grade.retrainCount = (s.line n).grade.retrainCount + 1 := by
      rw [w.beginRetrain few, State.line_commit]
      change ((State.retrainBegun s n p).line n).grade.retrainCount = _
      rw [State.retrainBegun, State.line_emit, State.line_onPump, State.line_onLine_self]
    have other : ((s.line n).grade.retrainCount == (s.line n).grade.retrainCount + 1) = false := by simp
    dsimp only
    rw [count, other, Bool.and_false]
  · have cleared := (State.takeFault_spec s n .retrainExhausted .none false (Line.takesFault_of (.inr (.inr hook)))).cleared.call
    have pump : ((s.commit (s.beginRetrain n)).line n).call.pump = none := by
      rw [State.beginRetrain_exhausted (by omega), State.line_commit]
      exact congrArg CallRecord.pump cleared
    have none_ : (s.commit (s.beginRetrain n)).heldPump n = none := by
      unfold State.heldPump
      rw [pump]
    simp [State.pumpAt, none_]

/-! ## The carrier -/

theorem State.Works.watches (w : s.Works n p) (activity : (s.pump p).activity = .carrying ∨ (s.pump p).activity = .shifting ∨
    (s.pump p).activity = .retraining) : s.watches n = true := by
  rw [State.watches, w.pumpAt, w.pumpAt, w.pumpAt]
  rcases activity with h | h | h <;> simp [h]

theorem State.Works.measuresCarrier (w : s.Works n p) (runs : (s.pump p).carrierTimer.isRunning = true) : s.measuresCarrier n = true := by
  rw [State.measuresCarrier, w.heldPump]
  exact runs

/-- Settles O54: each command by what the line's pump is doing. -/
theorem shiftsRetrainsAndCarrier : Obligations.ShiftsRetrainsAndCarrier := by
  intro n p s w l act attempt rate resume carries settled sends quiet
  refine ⟨fun target shifting activity still => leads_shiftDone w shifting activity still, fun c command => ?_,
    fun farMax sig err activity state => ?_, fun farMax sig err r activity state opening => ?_,
    fun a farMax sig err line other => ?_, fun activity hook c command => ?_, fun activity => ?_, ?_, fun runs measures => ?_⟩
  · exact leads_beginsRetrain w (exec_beginsRetrain w command)
  · intro q top low seeded
    refine ⟨fun r positive lo hi meets best still => ?_, fun fails => ⟨fun few => ?_, fun many => ?_⟩⟩
    · exact leads_retrainCompletion w activity state still (highestRung_eq_some positive lo hi meets best)
    · have run := exec_retrainCompletion (farMax := farMax) (sig := sig) (err := err) w activity
      have line := State.line_onLine_self s n fun l => l.reported (margin sig err) farMax
      rw [State.exchangeDone_none (highestRung_eq_none fails),
        (w.onLine (g := fun l => l.reported (margin sig err) farMax) rfl).beginRetrain (by rw [line]; exact few)] at run
      exact Leads.of_done run rfl
    · have run := exec_retrainCompletion (farMax := farMax) (sig := sig) (err := err) w activity
      have line := State.line_onLine_self s n fun l => l.reported (margin sig err) farMax
      rw [State.exchangeDone_none (highestRung_eq_none fails), State.beginRetrain_exhausted (by rw [line]; exact many)] at run
      refine Faults.of_done run (Line.takesFault_of (.inr (.inr ?_))) (by rw [line]; rfl) (by rw [line]; rfl) (by rw [line]; rfl) ?_
      · rw [line]
        exact congrArg LineState.offHook state
      · rw [← State.exchangeReport_eq]
        exact LineEffect.refl.exchangeReport farMax sig err
  · intro q top low own resumes positive lo hi meets best idle
    have chosen := highestRung_eq_some positive lo hi meets best
    refine ⟨fun due => ?_, fun f due => ?_⟩
    · exact leads_retrainCompletion_training w activity state opening idle chosen (by rw [show (s.line n).link.replyDue = none from due]; rfl)
    · exact leads_retrainCompletion_training w activity state opening idle chosen (by rw [show (s.line n).link.replyDue = some f from due]; rfl)
  · obtain ⟨completion, expiry, mismatch⟩ := exec_otherAttempt (farMax := farMax) (sig := sig) (err := err) (w.inAttempt_other line other)
    exact ⟨Leads.of_done completion rfl, Leads.of_done expiry rfl, Leads.of_done mismatch rfl⟩
  · have run : exec c s = done s (s.beginRetrain n) := by
      have inAttempt : s.inAttempt ⟨n, (s.line n).grade.retrainCount⟩ = true := by
        rw [State.inAttempt, w.pumpAt, show (s.pump p).activity = .retraining from activity]
        simp
      rcases List.mem_cons.mp command with rfl | h
      · exact congrArg (done s) (if_pos inAttempt)
      · rcases List.mem_singleton.mp h with rfl
        exact congrArg (done s) (if_pos inAttempt)
    exact ⟨_, run, fun farMax sig err => Leads.of_done (exec_otherAttempt (w.inAttempt_failed hook)).1 rfl⟩
  · have run : exec (.carrierCease n) s = done s (s.onPump p fun q => { q with carrierTimer := .running l.profile.carrierLossTime }) := by
      rw [← w.onHeldPump]
      exact congrArg (done s) (if_pos (w.watches activity))
    exact Leads.of_done run rfl
  · have run : exec (.carrierReturn n) s = done s (s.onPump p fun q => { q with carrierTimer := .stopped }) := by
      rw [← w.onHeldPump]
      rfl
    exact Leads.of_done run rfl
  · have run : exec (.carrierLossExpiry n) s = done s (s.carrierLoss n) := rfl
    rw [State.carrierLoss, if_pos (w.measuresCarrier runs), w.onHeldPump] at run
    have measuring : (((s.onPump p fun q => { q with carrierTimer := .stopped, attemptTimer := .stopped, carrierLost := true }).line n).ctl.loopMeasuring) =
        true := measures
    simp only [measuring, if_true] at run
    exact Leads.of_done run rfl

end Sys2Proof.Machine

/-! INFO frames begun: a frame sent again and a new frame (06 R100). -/

namespace Sys2Proof.Machine

set_option Elab.async false

variable {n : LineId} {p : PumpId} {s t u : State} {f : LinkFrame}

/-- The bytes of a frame by the chain of its card. -/
theorem State.frameData_eq {x : SentFrame} {c : SendChain} (chain : (s.line n).link.sendList.find? (fun d => d.card == x.card) = some c) :
    s.frameData n x = s.store.chainBytes c.chain x.pos x.len := by
  simp only [State.frameData, chain]

theorem State.resendFrame_eq {x : SentFrame} {c : SendChain} (chain : (s.line n).link.sendList.find? (fun d => d.card == x.card) = some c) :
    s.resendFrame n x = (s.onLink n fun l => { l with counters := { l.counters with resent := l.counters.resent + 1 } }).frameBegun n
      (.info x.number (s.store.chainBytes c.chain x.pos x.len)) := by
  rw [State.resendFrame, State.frameData_eq chain]
  rfl

/-- The link with a new frame of a chain in its Send Window. -/
def Link.framing (l : Link) (full : Timer) (before : List SendChain) (c : SendChain) (after : List SendChain) : Link :=
  { l with
    sendList := before ++ { c with framed := c.framed + min l.infoLength (c.chain.bytes - c.framed) } :: after
    sendWindow := l.sendWindow ++ [⟨l.nextSend, c.card, c.framed, min l.infoLength (c.chain.bytes - c.framed), 1⟩]
    nextSend := l.nextSend + 1
    counters := { l.counters with sent := l.counters.sent + 1 }
    replyTimer := if l.sendWindow = [] then full else l.replyTimer }

theorem SendChain.apart_of_nodup {before after : List SendChain} {c : SendChain} (once : ((before ++ c :: after).map SendChain.card).Nodup) :
    ∀ d ∈ before ++ after, d.card ≠ c.card := by
  rw [List.map_append, List.map_cons] at once
  intro d hd same
  obtain ⟨-, inAfter, inBefore⟩ := List.nodup_append.mp once
  rcases List.mem_append.mp hd with h | h
  · exact inBefore d.card (List.mem_map_of_mem h) c.card List.mem_cons_self same
  · exact (List.nodup_cons.mp inAfter).1 (same ▸ List.mem_map_of_mem h)

theorem State.newFrame_eq {before after : List SendChain} {c : SendChain} (chains : (s.line n).link.sendList = before ++ c :: after)
    (apart : ∀ d ∈ before ++ after, d.card ≠ c.card) : s.newFrame n c =
      (s.onLink n fun l => l.framing (.running ((s.line n).profile.replyTime * 100)) before c after).frameBegun n
        (.info (s.line n).link.nextSend
          (s.store.chainBytes c.chain c.framed (min (s.line n).link.infoLength (c.chain.bytes - c.framed)))) := by
  have mapped : ∀ k, ((s.line n).link.sendList.map fun d => if d.card = c.card then { d with framed := d.framed + k } else d) =
      before ++ { c with framed := c.framed + k } :: after := by
    intro k
    have still : ∀ xs : List SendChain, (∀ d ∈ xs, d.card ≠ c.card) →
        (xs.map fun d => if d.card = c.card then { d with framed := d.framed + k } else d) = xs := by
      intro xs other
      refine (List.map_congr_left fun d hd => if_neg (other d hd)).trans (List.map_id xs)
    rw [chains, List.map_append, List.map_cons, still before fun d hd => apart d (List.mem_append_left _ hd),
      still after fun d hd => apart d (List.mem_append_right _ hd), if_pos rfl]
  have found : (s.line n).link.sendList.find? (fun d => d.card == c.card) = some c := by
    rw [chains, List.find?_append, List.find?_eq_none.mpr fun d hd => by simpa using apart d (List.mem_append_left _ hd),
      List.find?_cons_of_pos (by simp)]
    rfl
  have line : (s.onLink n fun l => { l with
      sendList := l.sendList.map fun d =>
        if d.card = c.card then { d with framed := d.framed + min l.infoLength (c.chain.bytes - c.framed) } else d
      replyTimer := if l.sendWindow = [] then .running ((s.line n).profile.replyTime * 100) else l.replyTimer
      sendWindow := l.sendWindow ++ [⟨l.nextSend, c.card, c.framed, min l.infoLength (c.chain.bytes - c.framed), 1⟩]
      nextSend := l.nextSend + 1
      counters := { l.counters with sent := l.counters.sent + 1 } }) =
      s.onLink n fun l => l.framing (.running ((s.line n).profile.replyTime * 100)) before c after := by
    refine State.onLine_congr ?_
    dsimp only [Link.framing]
    rw [mapped]
  have data := State.frameData_eq (s := s) (n := n)
    (x := ⟨(s.line n).link.nextSend, c.card, c.framed, min (s.line n).link.infoLength (c.chain.bytes - c.framed), 1⟩) found
  rw [← line, State.newFrame, data]
  rfl

/-! ## What the next frame leaves of window and chains -/

/-- The Send Window only grows, the chains keep card, length and what is acknowledged, and so does the hold. -/
structure LinkGrows (l k : Link) : Prop where
  numbers : l.sendWindow.map SentFrame.number <+: k.sendWindow.map SentFrame.number
  chains : k.sendList.map (fun x => (x.card, x.chain, x.acked)) = l.sendList.map (fun x => (x.card, x.chain, x.acked))
  held : k.held = l.held

theorem LinkGrows.refl {l : Link} : LinkGrows l l := ⟨List.prefix_rfl, rfl, rfl⟩

theorem LinkGrows.trans {l k j : Link} (h : LinkGrows l k) (h' : LinkGrows k j) : LinkGrows l j :=
  ⟨h.numbers.trans h'.numbers, h'.chains.trans h.chains, h'.held.trans h.held⟩

theorem State.linkGrows_onLink {g : Link → Link} (h : LinkGrows (s.line n).link (g (s.line n).link)) :
    LinkGrows (s.line n).link ((s.onLink n g).line n).link := by
  rw [State.line_onLink_self]
  exact h

theorem State.linkGrows_newFrame (s : State) (n : LineId) (c : SendChain) :
    LinkGrows (s.line n).link ((s.newFrame n c).line n).link := by
  have chains : ∀ k : Nat, ((s.line n).link.sendList.map fun d => if d.card = c.card then { d with framed := d.framed + k } else d).map
      (fun x => (x.card, x.chain, x.acked)) = (s.line n).link.sendList.map fun x => (x.card, x.chain, x.acked) := by
    intro k
    rw [List.map_map]
    refine List.map_congr_left fun d _ => ?_
    dsimp only [Function.comp_apply]
    split <;> rfl
  rw [State.newFrame, State.beginFrame, State.line_emit, State.line_onLink_self, State.line_onLink_self]
  exact ⟨by rw [List.map_append]; exact List.prefix_append .., chains _, rfl⟩

theorem State.linkGrows_linkKick (s : State) (n : LineId) : LinkGrows (s.line n).link ((s.linkKick n).line n).link := by
  unfold State.linkKick
  dsimp only
  split
  · exact .refl
  · split
    next f rest _ =>
      rw [State.beginFrame, State.line_emit, State.line_onLink_self, State.line_onLink_self]
      exact ⟨List.prefix_rfl, rfl, rfl⟩
    next =>
      split
      · exact .refl
      · split
        next k rest _ =>
          split
          next f _ =>
            rw [State.resendFrame, State.beginFrame, State.line_emit, State.line_onLink_self, State.line_onLink_self,
              State.line_onLink_self]
            exact ⟨List.prefix_rfl, rfl, rfl⟩
          next =>
            rw [State.line_onLink_self]
            exact ⟨List.prefix_rfl, rfl, rfl⟩
        next =>
          split
          next c _ =>
            split
            · exact s.linkGrows_newFrame n c
            · exact .refl
          next => exact .refl

end Sys2Proof.Machine

/-! O55: sending on the link — SEND, the next frame, the repeat of LINK-OPEN and the reply timer (06 R95, R99, R100, R103; 10 R173). -/

namespace Sys2Proof.Machine

set_option Elab.async false

variable {n : LineId} {p : PumpId} {s t u : State} {f : LinkFrame}

/-! ## SEND -/

section
variable {i : Fin 8} (taken : s.takesCard (.line n) i.val (· == 6) = true)
include taken

theorem exec_send_taken :
    exec (.send n i) s = done s ((s.taking (.line n) i.val).sendOrder n i.val (s.card (.line n) i.val)) := by
  have dispatch : exec (.send n i) s = execSend n i s := rfl
  rw [dispatch, execSend, takeOrder_taken taken]

/-- SEND where the line is not CONNECTED-DATA with the link UP, or has six chains, or the chain fails. -/
theorem send_refused :
    (¬((s.line n).connectedAs .data = true ∧ (s.line n).link.state = .up) → ∃ t, exec (.send n i) s = .next t ∧
      State.ShortOrder n i.val .refusedState (s.line n).call.state.code 0 [0, 0, 255, 255] (s.line n) s t) ∧
    ((s.line n).connectedAs .data = true ∧ (s.line n).link.state = .up → 6 ≤ (s.line n).link.sendList.length →
      ∃ t, exec (.send n i) s = .next t ∧ State.ShortOrder n i.val .refusedFull 0 0 [0, 0, 255, 255] (s.line n) s t) ∧
    ((s.line n).connectedAs .data = true ∧ (s.line n).link.state = .up → (s.line n).link.sendList.length < 6 →
      ∀ e, s.store.validate .plain 64 ((s.card (.line n) i.val).word 8) = .error e → ∃ t, exec (.send n i) s = .next t ∧
        State.ShortOrder n i.val .badChain e.test.code 0 (wordBytes e.position ++ [255, 255]) (s.line n) s t) := by
  have run := exec_send_taken taken
  have line := s.line_taking n i.val
  have order := fun st r fs => State.shortOrder_same taken st r 0 fs
  have connected : ((s.taking (.line n) i.val).line n).connectedAs .data = (s.line n).connectedAs .data := by rw [line]; rfl
  have link : ((s.taking (.line n) i.val).line n).link = (s.line n).link := by rw [line]
  have call : ((s.taking (.line n) i.val).line n).call = (s.line n).call := by rw [line]
  have store : (s.taking (.line n) i.val).store = s.store := rfl
  rw [State.sendOrder] at run
  generalize s.taking (.line n) i.val = x at *
  refine ⟨fun down => ?_, fun up full => ?_, fun up room e bad => ?_⟩
  · rw [if_neg (by rw [connected, link]; exact down), call] at run
    exact ⟨_, run, order _ _ _⟩
  · rw [if_pos (by rw [connected, link]; exact up), if_pos (by rw [link]; exact full)] at run
    exact ⟨_, run, order _ _ _⟩
  · rw [if_pos (by rw [connected, link]; exact up), if_neg (by rw [link]; omega), store, bad] at run
    exact ⟨_, run, order _ _ _⟩

/-- The line with an accepted chain on its Send List, before the next frame is begun. -/
def State.sendTaken (s : State) (n : LineId) (i : Nat) (c : Chain) : State :=
  ((s.taking (.line n) i).onStore fun st => st.assignAll (c.map Prod.fst) (.send n)).onLink n fun k =>
    { k with sendList := k.sendList ++ [⟨i, c, 0, 0⟩] }

theorem exec_send_accepted (up : (s.line n).connectedAs .data = true ∧ (s.line n).link.state = .up)
    (room : (s.line n).link.sendList.length < 6) {c : Chain}
    (good : s.store.validate .plain 64 ((s.card (.line n) i.val).word 8) = .ok c) :
    exec (.send n i) s = done s ((s.sendTaken n i.val c).linkKick n) := by
  have run := exec_send_taken taken
  have line := s.line_taking n i.val
  have connected : ((s.taking (.line n) i.val).line n).connectedAs .data = (s.line n).connectedAs .data := by rw [line]; rfl
  have link : ((s.taking (.line n) i.val).line n).link = (s.line n).link := by rw [line]
  have store : (s.taking (.line n) i.val).store = s.store := rfl
  rw [State.sendOrder, if_pos (by rw [connected, link]; exact up), if_neg (by rw [link]; omega), store, good] at run
  exact run

end

theorem State.line_sendTaken (s : State) (n : LineId) (i : Nat) (c : Chain) : ∃ tb, (s.sendTaken n i c).line n = { s.line n with
    table := tb, link := { (s.line n).link with sendList := (s.line n).link.sendList ++ [⟨i, c, 0, 0⟩] } } := by
  refine ⟨((s.taking (.line n) i).line n).table, ?_⟩
  have stored : ∀ g, ((s.taking (.line n) i).onStore g).line n = (s.taking (.line n) i).line n := fun _ => rfl
  rw [State.sendTaken, State.line_onLink_self, stored, s.line_taking n i]

theorem State.carrying_sendTaken (s : State) (n : LineId) (i : Nat) (c : Chain) : (s.sendTaken n i c).carrying n = s.carrying n := by
  obtain ⟨tb, line⟩ := s.line_sendTaken n i c
  exact State.carrying_congr (by rw [line]) rfl

theorem leads_send_waits {i : Fin 8} (taken : s.takesCard (.line n) i.val (· == 6) = true)
    (up : (s.line n).connectedAs .data = true ∧ (s.line n).link.state = .up) (room : (s.line n).link.sendList.length < 6) {c : Chain}
    (good : s.store.validate .plain 64 ((s.card (.line n) i.val).word 8) = .ok c)
    (waits : (s.line n).link.sending.isSome = true ∨
      (s.line n).link.replies = [] ∧ ((s.line n).link.held = true ∨ (s.line n).link.inFlight = true) ∨
      (s.line n).link.replies = [] ∧ (s.line n).link.resends = [] ∧ (s.line n).link.window ≤ (s.line n).link.sendWindow.length ∨
      s.carrying n = false) : Leads (.send n i) s (s.sendTaken n i.val c) := by
  have run := exec_send_accepted taken up room good
  have carrying := s.carrying_sendTaken n i.val c
  obtain ⟨tb, line⟩ := s.line_sendTaken n i.val c
  have pending : (s.sendTaken n i.val c).pending = s.pending := rfl
  generalize s.sendTaken n i.val c = x at *
  have still : x.linkKick n = x := by
    by_cases busy : (x.line n).link.sending.isSome = true ∨ x.carrying n = false
    · exact State.linkKick_busy busy
    · obtain ⟨idle, carries⟩ := not_or.mp busy
      have idle := Option.not_isSome_iff_eq_none.mp idle
      have carries := (Bool.not_eq_false _).mp carries
      rw [line] at idle
      rw [carrying] at carries
      have idle' : (x.line n).link.sending = none := by rw [line]; exact idle
      have carries' : x.carrying n = true := by rw [carrying]; exact carries
      rcases waits with sends | ⟨replies, stopped⟩ | ⟨replies, resends, full⟩ | none_
      · rw [show (s.line n).link.sending = none from idle] at sends; exact nomatch sends
      · refine State.linkKick_still idle' carries' (by rw [line]; exact replies) ?_
        rw [line, Link.mayFrame]
        dsimp only
        rcases stopped with h | h <;> rw [h] <;> simp
      · exact State.linkKick_none idle' carries' (by rw [line]; exact replies) (by rw [line]; exact resends) (.inl (by rw [line]; exact full))
      · rw [none_] at carries; exact nomatch carries
  rw [still] at run
  exact Leads.of_done run rfl pending

/-! ## A frame begun -/

/-- What a frame begun overwrites does not matter. -/
theorem State.frameBegun_congr {g h : Link → Link} (same : ∀ x, { g (s.line n).link with sending := x } = { h (s.line n).link with sending := x }) :
    (s.onLink n g).frameBegun n f = (s.onLink n h).frameBegun n f := by
  rw [State.frameBegun, State.frameBegun, State.onLink, State.onLink, State.onLine_onLine, State.onLine_onLine]
  refine congrArg (fun u : State => u.emit (.linkBytes n (0xA5 :: (Wire.run f ++ [0xA5])))) ?_
  refine State.onLine_congr ?_
  dsimp only [Function.comp_apply]
  rw [same]

/-- A new frame of a chain begun on a line whose link was `x`. -/
def State.frameFresh (u : State) (n : LineId) (full : Timer) (x : Link) (before : List SendChain) (c : SendChain) (after : List SendChain) : State :=
  (u.onLink n fun _ => x.framing full before c after).frameBegun n
    (.info x.nextSend (u.store.chainBytes c.chain c.framed (min x.infoLength (c.chain.bytes - c.framed))))

/-- A pump idle and carrying begins a new frame of the first chain with bytes left. -/
theorem State.linkKick_fresh {before after : List SendChain} {c : SendChain} (idle : (s.line n).link.sending = none) (carries : s.carrying n = true)
    (replies : (s.line n).link.replies = []) (may : (s.line n).link.mayFrame = true) (resends : (s.line n).link.resends = [])
    (room : (s.line n).link.sendWindow.length < (s.line n).link.window)
    (chains : (s.line n).link.sendList = before ++ c :: after) (apart : ∀ d ∈ before ++ after, d.card ≠ c.card)
    (framed : ∀ d ∈ before, d.chain.bytes ≤ d.framed) (left : c.framed < c.chain.bytes) :
    s.linkKick n = s.frameFresh n (.running ((s.line n).profile.replyTime * 100)) (s.line n).link before c after := by
  have first : (s.line n).link.sendList.find? (fun c => decide (c.framed < c.chain.bytes)) = some c := by
    rw [chains, List.find?_append, List.find?_eq_none.mpr fun d hd => by simpa using framed d hd,
      List.find?_cons_of_pos (by simpa using left)]
    rfl
  rw [State.linkKick_new idle carries replies may resends room first, State.newFrame_eq chains apart, State.frameFresh]
  exact State.frameBegun_congr fun _ => rfl

theorem Link.mayFrame_iff {l : Link} : l.mayFrame = true ↔ l.state = .up ∧ l.held = false ∧ l.inFlight = false := by
  simp [Link.mayFrame, and_assoc]

/-! ## FRAME_SENT -/

section
variable (w : s.Works n p) (activity : (s.pump p).activity = .carrying) (holding : (s.pump p).holding = false)
include w activity holding

theorem exec_frameSent : exec (.frameSent n) s = done s ((s.onLink n fun l => { l with sending := none }).linkKick n) := by
  have run : exec (.frameSent n) s = done s (s.frameSent n) := rfl
  rw [run, State.frameSent, if_pos (w.carries activity holding)]

/-- The pump, its frame sent, sends the next reply, a frame again or a new frame, or falls silent. -/
theorem leads_frameSent :
    (∀ f rest, (s.line n).link.replies = f :: rest →
      Leads (.frameSent n) s ((s.onLink n fun x => { x with replies := rest }).frameBegun n f)) ∧
    ((s.line n).link.replies = [] → ¬((s.line n).link.state = .up ∧ (s.line n).link.held = false ∧ (s.line n).link.inFlight = false) →
      Leads (.frameSent n) s (s.onLink n fun x => { x with sending := none })) ∧
    ((s.line n).link.replies = [] → (s.line n).link.state = .up ∧ (s.line n).link.held = false ∧ (s.line n).link.inFlight = false →
      (∀ j rest f c, (s.line n).link.resends = j :: rest →
        (s.line n).link.sendWindow.find? (fun x : SentFrame => x.number == j) = some f →
        (s.line n).link.sendList.find? (fun x : SendChain => x.card == f.card) = some c →
        Leads (.frameSent n) s ((s.onLink n fun x =>
          { x with resends := rest, counters := { x.counters with resent := x.counters.resent + 1 } }).frameBegun n
            (.info f.number (s.store.chainBytes c.chain f.pos f.len)))) ∧
      ((s.line n).link.resends = [] →
        (s.line n).link.window ≤ (s.line n).link.sendWindow.length ∨ (∀ c ∈ (s.line n).link.sendList, c.chain.bytes ≤ c.framed) →
        Leads (.frameSent n) s (s.onLink n fun x => { x with sending := none })) ∧
      ∀ before c after, (s.line n).link.resends = [] → (s.line n).link.sendWindow.length < (s.line n).link.window →
        (s.line n).link.sendList = before ++ c :: after → ((s.line n).link.sendList.map SendChain.card).Nodup →
        (∀ d ∈ before, d.chain.bytes ≤ d.framed) → c.framed < c.chain.bytes →
        Leads (.frameSent n) s (s.frameFresh n (.running ((s.line n).profile.replyTime * 100)) (s.line n).link before c after)) := by
  have run := exec_frameSent w activity holding
  have carries : (s.onLink n fun l => { l with sending := none }).carrying n = true := by
    rw [State.carrying_onLink]; exact w.carries activity holding
  have link : ((s.onLink n fun l => { l with sending := none }).line n).link = { (s.line n).link with sending := none } := by
    rw [State.line_onLink_self]
  have profile : ((s.onLink n fun l => { l with sending := none }).line n).profile = (s.line n).profile := by
    rw [State.line_onLink_self]
  have twice : ∀ g, (s.onLink n fun l => { l with sending := none }).onLink n g = s.onLink n (g ∘ fun l => { l with sending := none }) :=
    fun g => State.onLink_onLink s n _ g
  have store : (s.onLink n fun l => { l with sending := none }).store = s.store := rfl
  have still : (s.onLink n fun l => { l with sending := none }).linkKick n = s.onLink n (fun l => { l with sending := none }) →
      Leads (.frameSent n) s (s.onLink n fun x => { x with sending := none }) := fun same => by
    rw [same] at run
    exact Leads.of_done run rfl
  have pending : (s.onLink n fun l => { l with sending := none }).pending = s.pending := rfl
  generalize (s.onLink n fun l => { l with sending := none }) = x at *
  have idle : (x.line n).link.sending = none := by rw [link]
  refine ⟨fun f rest replies => ?_, fun replies not => ?_, fun replies may => ⟨fun j rest f c resends sent chain => ?_,
    fun resends nothing => ?_, fun before c after resends room chains once framed left => ?_⟩⟩
  · rw [State.linkKick_reply idle carries (by rw [link]; exact replies), twice,
      State.frameBegun_congr (h := fun x => { x with replies := rest }) fun _ => rfl] at run
    exact Leads.of_done run rfl
  · refine still (State.linkKick_still idle carries (by rw [link]; exact replies) ?_)
    rw [link]
    exact Bool.not_eq_true _ ▸ fun h => not (Link.mayFrame_iff.mp h)
  · rw [State.linkKick_resend idle carries (by rw [link]; exact replies) (by rw [link]; exact Link.mayFrame_iff.mpr may)
      (by rw [link]; exact resends) (by rw [link]; exact sent), State.resendFrame_eq (c := c) (by rw [State.line_onLink_self, link]; exact chain),
      State.onLink_onLink, twice, State.frameBegun_congr (h := fun x =>
        { x with resends := rest, counters := { x.counters with resent := x.counters.resent + 1 } }) fun _ => rfl] at run
    rw [← store]
    exact Leads.of_done run rfl
  · exact still (State.linkKick_none idle carries (by rw [link]; exact replies) (by rw [link]; exact resends) (by rw [link]; exact nothing))
  · rw [State.linkKick_fresh idle carries (by rw [link]; exact replies) (by rw [link]; exact Link.mayFrame_iff.mpr may)
      (by rw [link]; exact resends) (by rw [link]; exact room) (by rw [link]; exact chains) (SendChain.apart_of_nodup (chains ▸ once)) framed left,
      State.frameFresh, twice, link, profile, store,
      State.frameBegun_congr (h := fun _ => (s.line n).link.framing (.running ((s.line n).profile.replyTime * 100)) before c after)
        fun _ => rfl] at run
    exact Leads.of_done run rfl

end

/-! ## SEND to an idle pump -/

theorem leads_send_fresh {i : Fin 8} (carries : s.carrying n = true) (taken : s.takesCard (.line n) i.val (· == 6) = true)
    (data : (s.line n).connectedAs .data = true) (room : (s.line n).link.sendList.length < 6) {c : Chain}
    (good : s.store.validate .plain 64 ((s.card (.line n) i.val).word 8) = .ok c)
    (idle : (s.line n).link.sending = none ∧ (s.line n).link.replies = [])
    (may : (s.line n).link.state = .up ∧ (s.line n).link.held = false ∧ (s.line n).link.inFlight = false)
    (resends : (s.line n).link.resends = []) (open_ : (s.line n).link.sendWindow.length < (s.line n).link.window) (some_ : 0 < c.bytes)
    (others : ∀ d ∈ (s.line n).link.sendList, d.chain.bytes ≤ d.framed ∧ d.card ≠ i.val) :
    Leads (.send n i) s (((s.taking (.line n) i.val).onStore fun st => st.assignAll (c.map Prod.fst) (.send n)).frameFresh n
      (.running ((s.line n).profile.replyTime * 100)) (s.line n).link (s.line n).link.sendList ⟨i.val, c, 0, 0⟩ []) := by
  have run := exec_send_accepted taken ⟨data, may.1⟩ room good
  have carrying := (s.carrying_sendTaken n i.val c).trans carries
  obtain ⟨tb, line⟩ := s.line_sendTaken n i.val c
  have link : ((s.sendTaken n i.val c).line n).link =
      { (s.line n).link with sendList := (s.line n).link.sendList ++ [⟨i.val, c, 0, 0⟩] } := by rw [line]
  have profile : ((s.sendTaken n i.val c).line n).profile = (s.line n).profile := by rw [line]
  have kick := State.linkKick_fresh (s := s.sendTaken n i.val c) (n := n) (before := (s.line n).link.sendList) (c := ⟨i.val, c, 0, 0⟩)
    (after := []) (by rw [link]; exact idle.1) carrying (by rw [link]; exact idle.2) (by rw [link]; exact Link.mayFrame_iff.mpr may)
    (by rw [link]; exact resends) (by rw [link]; exact open_) (by rw [link])
    (fun d hd => (others d (by simpa using hd)).2) (fun d hd => (others d hd).1) some_
  rw [kick, State.frameFresh, link, profile, State.sendTaken, State.onLink_onLink, State.frameBegun_congr
    (h := fun _ => (s.line n).link.framing (.running ((s.line n).profile.replyTime * 100)) (s.line n).link.sendList ⟨i.val, c, 0, 0⟩ [])
    fun _ => rfl] at run
  exact Leads.of_done run rfl

/-! ## LINK_OPEN_REPEAT -/

section
variable (w : s.Works n p) (activity : (s.pump p).activity = .carrying) (holding : (s.pump p).holding = false)
include w activity holding

theorem leads_linkOpenRepeat (opening : (s.line n).link.state = .opening) (runs : (s.line n).link.repeatTimer.isRunning = true)
    (settled : (s.line n).link.inFlight = false) :
    ((s.line n).link.sending.isSome = true → Leads (.linkOpenRepeat n) s (s.onLink n fun x =>
      { x with repeatTimer := .running 500, replies := x.replies ++ [s.ownLinkOpen n] })) ∧
    ((s.line n).link.sending = none ∧ (s.line n).link.replies = [] →
      Leads (.linkOpenRepeat n) s ((s.onLink n fun x => { x with repeatTimer := .running 500 }).frameBegun n (s.ownLinkOpen n))) := by
  have run : exec (.linkOpenRepeat n) s = done s (s.linkOpenRepeat n) := rfl
  rw [State.linkOpenRepeat, if_pos ⟨opening, runs⟩] at run
  have own : (s.onLink n fun l => { l with repeatTimer := .running 500 }).ownLinkOpen n = s.ownLinkOpen n := by
    rw [State.ownLinkOpen, State.line_onLink_self]
    rfl
  have link : ((s.onLink n fun l => { l with repeatTimer := .running 500 }).line n).link =
      { (s.line n).link with repeatTimer := .running 500 } := by rw [State.line_onLink_self]
  have carries : (s.onLink n fun l => { l with repeatTimer := .running 500 }).carrying n = true := by
    rw [State.carrying_onLink]; exact w.carries activity holding
  refine ⟨fun busy => ?_, fun ⟨idle, replies⟩ => ?_⟩
  · rw [State.sendReply_waits (by rw [link]; exact settled) (.inl (by rw [link]; exact busy)), State.onLink_onLink] at run
    exact Leads.of_done run rfl
  · rw [State.sendReply_sent (by rw [link]; exact settled) (by rw [link]; exact idle) carries (by rw [link]; exact replies)] at run
    exact Leads.of_done run rfl

end

/-! ## The Send Window sent again -/

/-- The link with its Send Window due again, the oldest frame's tries one more. -/
def Link.again (full : Timer) (f : SentFrame) (rest : List SentFrame) (x : Link) : Link :=
  { x with sendWindow := { f with tries := f.tries + 1 } :: rest, resends := x.sendWindow.map SentFrame.number, replyTimer := full }

section
variable {x : SentFrame} {rest : List SentFrame} (frames : (s.line n).link.sendWindow = x :: rest)
include frames

theorem State.resendWindow_eq :
    s.resendWindow n = (s.onLink n (Link.again (s.line n).profile.replyLimit x rest)).linkKick n := by
  rw [State.resendWindow]
  refine congrArg (·.linkKick n) (State.onLine_congr ?_)
  simp only [Link.again, frames]

theorem State.resendWindow_waits (busy : (s.line n).link.sending.isSome = true) :
    s.resendWindow n = s.onLink n (Link.again (s.line n).profile.replyLimit x rest) := by
  rw [State.resendWindow_eq frames, State.linkKick_busy]
  rw [State.line_onLink_self]
  exact .inl busy

theorem State.resendWindow_sent {c : SendChain} (carries : s.carrying n = true)
    (idle : (s.line n).link.sending = none ∧ (s.line n).link.replies = [])
    (may : (s.line n).link.state = .up ∧ (s.line n).link.held = false ∧ (s.line n).link.inFlight = false)
    (chain : (s.line n).link.sendList.find? (fun d => d.card == x.card) = some c) :
    s.resendWindow n = (s.onLink n fun l => { Link.again (s.line n).profile.replyLimit x rest l with
      resends := rest.map SentFrame.number, counters := { l.counters with resent := l.counters.resent + 1 } }).frameBegun n
        (.info x.number (s.store.chainBytes c.chain x.pos x.len)) := by
  have link : ((s.onLink n (Link.again (s.line n).profile.replyLimit x rest)).line n).link =
      Link.again (s.line n).profile.replyLimit x rest (s.line n).link := by rw [State.line_onLink_self]
  rw [State.resendWindow_eq frames, State.linkKick_resend (j := x.number) (rest := rest.map SentFrame.number)
    (x := { x with tries := x.tries + 1 }), State.resendFrame_eq (c := c), State.onLink_onLink, State.onLink_onLink]
  · rfl
  · rw [State.line_onLink_self, link]; exact chain
  · rw [link]; exact idle.1
  · rw [State.carrying_onLink]; exact carries
  · rw [link]; exact idle.2
  · rw [link]; exact Link.mayFrame_iff.mpr may
  · rw [link, Link.again, frames]; rfl
  · rw [link, Link.again]; exact List.find?_cons_of_pos (by simp)

/-- REPLY_TIMER_EXPIRY (06 R103): the Send Window again, or LINK_EXHAUSTED at the try limit. -/
theorem leads_replyTimerExpiry (runs : (s.line n).link.replyTimer.isRunning = true) :
    ((s.line n).profile.tryLimit ≤ x.tries → (s.line n).call.state.offHook = true →
      Faults (.replyTimerExpiry n) n .linkExhausted .none s) ∧
    (x.tries < (s.line n).profile.tryLimit → (s.line n).link.sending.isSome = true →
      Leads (.replyTimerExpiry n) s (s.onLink n (Link.again (s.line n).profile.replyLimit x rest))) ∧
    (x.tries < (s.line n).profile.tryLimit → s.carrying n = true → (s.line n).link.sending = none ∧ (s.line n).link.replies = [] →
      (s.line n).link.state = .up ∧ (s.line n).link.held = false ∧ (s.line n).link.inFlight = false →
      ∀ c, (s.line n).link.sendList.find? (fun d : SendChain => d.card == x.card) = some c →
      Leads (.replyTimerExpiry n) s ((s.onLink n fun l => { Link.again (s.line n).profile.replyLimit x rest l with
        resends := rest.map SentFrame.number, counters := { l.counters with resent := l.counters.resent + 1 } }).frameBegun n
          (.info x.number (s.store.chainBytes c.chain x.pos x.len)))) := by
  have run : exec (.replyTimerExpiry n) s = done s (s.replyExpiry n) := rfl
  rw [State.replyExpiry, if_pos ⟨runs, by rw [frames]; exact List.cons_ne_nil _ _⟩] at run
  have again : x.tries < (s.line n).profile.tryLimit → s.resendOrExhaust n = s.resendWindow n := fun tries => by
    simp only [State.resendOrExhaust, frames, if_pos tries]
  refine ⟨fun tries call => ?_, fun tries busy => ?_, fun tries carries idle may c chain => ?_⟩
  · have out : s.resendOrExhaust n = s.fault n .linkExhausted := by
      simp only [State.resendOrExhaust, frames, if_neg (Nat.not_lt.mpr tries)]
    rw [out] at run
    exact Faults.of_fault run (.inr (.inr call))
  · rw [again tries, State.resendWindow_waits frames busy] at run
    exact Leads.of_done run rfl
  · rw [again tries, State.resendWindow_sent frames carries idle may chain] at run
    exact Leads.of_done run rfl

end

end Sys2Proof.Machine

/-! O55, second part: RECEIPT, REJECT and HOLD in link state UP, and the acknowledgement they carry (06 R101, R102, R104, R109). -/

namespace Sys2Proof.Machine

set_option Elab.async false

variable {n m : LineId} {p : PumpId} {s t u : State} {f : LinkFrame} {d : Nat} {a : BitVec 7}

/-! ## Replies of the exit from receive-critical -/

/-- A link but for what a reply and the exit from receive-critical change of it. -/
def Link.besides (l : Link) : Link := { l with critical := false, rejectSent := false, replies := [], replyDue := none, sending := none }

theorem State.besides_sendReply (s : State) (n : LineId) (f : LinkFrame) :
    ((s.sendReply n f).line n).link.besides = (s.line n).link.besides := by
  by_cases settled : (s.line n).link.inFlight = true
  · rw [State.sendReply_inFlight settled, State.line_onLink_self]
    rfl
  · have settled := (Bool.not_eq_true _).mp settled
    by_cases busy : (s.line n).link.sending.isSome = true ∨ s.carrying n = false
    · rw [State.sendReply_waits settled busy, State.line_onLink_self]
      rfl
    · obtain ⟨idle, carries⟩ := not_or.mp busy
      obtain ⟨g, rest, first⟩ := List.exists_cons_of_ne_nil (List.append_ne_nil_of_right_ne_nil (s.line n).link.replies (List.cons_ne_nil f []))
      rw [State.sendReply_first settled (Option.not_isSome_iff_eq_none.mp idle) ((Bool.not_eq_false _).mp carries) first,
        State.frameBegun_link, State.line_onLink_self]
      rfl

theorem State.besides_criticalExit (s : State) (m n : LineId) : ((s.criticalExit m).line n).link.besides = (s.line n).link.besides := by
  by_cases own : n = m
  · subst own
    rw [State.criticalExit]
    split
    · dsimp only
      split
      · rw [State.line_onLink_self]
        rfl
      · rw [State.besides_sendReply, State.line_onLink_self]
        rfl
    · rfl
  · rw [(Only.criticalExit s m).line_of own]

theorem State.besides_freeBlocks (s : State) (bs : List Nat) (n : LineId) :
    ((s.freeBlocks bs).line n).link.besides = (s.line n).link.besides := by
  have exits : ∀ (ms : List LineId) (x : State), ((ms.foldl State.criticalExit x).line n).link.besides = (x.line n).link.besides := by
    intro ms
    induction ms with
    | nil => exact fun _ => rfl
    | cons m ms ih =>
      intro x
      rw [List.foldl_cons, ih, State.besides_criticalExit]
  unfold State.freeBlocks
  induction bs generalizing s with
  | nil => rfl
  | cons b bs ih =>
    have freed : ((s.freeBlock b).line n).link.besides = (s.line n).link.besides := exits allLines (s.onStore fun st => st.release b)
    rw [List.foldl_cons, ih, freed]

/-! ## Chains acknowledged to their end -/

/-- The SEND cards of fully acknowledged chains answered, one by one. -/
def State.chainsAnswered (s : State) (n : LineId) (cs : List SendChain) : State := cs.foldl (fun s c => s.answerSent n c) s

theorem Only.chainsAnswered (s : State) (n : LineId) (cs : List SendChain) : Only n [.table, .ev] s (s.chainsAnswered n cs) :=
  .foldl (f := fun s c => s.answerSent n c) (fun s c => Only.answer s n c.card _ _ _) s cs

theorem LineEffect.chainsAnswered (s : State) (n : LineId) (cs : List SendChain) : LineEffect n s (s.chainsAnswered n cs) :=
  LineEffect.foldl (fun _ c h => h.answer c.card _ _ _) .refl cs

theorem State.card_chainsAnswered (cs : List SendChain) (s : State) (n : LineId) {j : Nat} (other : ∀ c ∈ cs, c.card ≠ j) :
    (s.chainsAnswered n cs).card (.line n) j = s.card (.line n) j := by
  induction cs generalizing s with
  | nil => rfl
  | cons c cs ih =>
    have rest := ih (s.answerSent n c) fun x hx => other x (.tail _ hx)
    exact rest.trans (s.card_answer_ne (.line n) (fun e => other c (.head _) e.symm) _ _ _)

/-- The answer of an acknowledged chain's SEND card. -/
abbrev SendChain.doneFields (x : SendChain) : List Byte := wordBytes x.acked ++ [255, 255, 0, 0, 0, 0]

theorem State.answered_chainsAnswered (cs : List SendChain) (s : State) (n : LineId) (once : (cs.map SendChain.card).Nodup)
    {x : SendChain} (hx : x ∈ cs) (fits : x.card < (s.line n).table.cards.length) :
    State.Answered (.line n) x.card .done 0 0 x.doneFields s (s.chainsAnswered n cs) := by
  induction cs generalizing s with
  | nil => exact nomatch hx
  | cons y ys ih =>
    rw [List.map_cons, List.nodup_cons] at once
    obtain ⟨here, once⟩ := once
    rcases List.mem_cons.mp hx with rfl | later
    · have answered : State.Answered (.line n) x.card .done 0 0 x.doneFields s (s.answerSent n x) :=
        State.answered_of (T := .line n) fits _ _ _ _ rfl
      refine answered.later (LineEffect.chainsAnswered _ n ys) (.inl rfl) (State.card_chainsAnswered ys _ n fun z hz e => ?_)
      exact here (e ▸ List.mem_map_of_mem hz)
    · have effect : LineEffect n s (s.answerSent n y) := LineEffect.refl.answer y.card _ _ _
      have length := effect.length_line n
      exact (ih (s.answerSent n y) once later (by rw [length]; exact fits)).before effect.tick

/-! ## The acknowledgement -/

/-- The chains of the Send List with the bytes of the first `d` frames acknowledged. -/
def Link.ackedChains (l : Link) (d : Nat) : List SendChain := l.sendList.map fun c => c.ack (l.sendWindow.take d)

/-- The link with the first `d` frames of its Send Window acknowledged. -/
def Link.acked (l : Link) (d : Nat) : Link :=
  { l with
    sendWindow := l.sendWindow.drop d
    resends := l.resends.filter fun x => (l.sendWindow.drop d).any fun f => f.number == x
    sendList := (l.ackedChains d).filter fun c => decide (c.acked < c.chain.bytes) }

/-- The blocks which the acknowledgement of `d` frames frees. -/
def Link.freedBlocks (l : Link) (d : Nat) : List Nat := l.sendList.flatMap fun c => c.freed (l.sendWindow.take d)

theorem State.ackFrames_eq (s : State) (n : LineId) (d : Nat) : s.ackFrames n d =
    ((s.onLink n fun l => l.acked d).freeBlocks ((s.line n).link.freedBlocks d)).chainsAnswered n
      (((s.line n).link.ackedChains d).filter fun c => decide (c.chain.bytes ≤ c.acked)) := by
  have line : (s.onLink n fun k =>
      { k with
        sendWindow := k.sendWindow.drop d
        resends := k.resends.filter fun x => (k.sendWindow.drop d).any fun f => f.number == x
        sendList := ((s.line n).link.sendList.map fun c => c.ack ((s.line n).link.sendWindow.take d)).filter fun c =>
          decide (c.acked < c.chain.bytes) }) = s.onLink n fun l => l.acked d := State.onLine_congr rfl
  rw [← line]
  rfl

theorem State.besides_ackFrames (s : State) (n : LineId) (d : Nat) :
    ((s.ackFrames n d).line n).link.besides = ((s.line n).link.acked d).besides := by
  have answers := (Only.chainsAnswered ((s.onLink n fun l => l.acked d).freeBlocks ((s.line n).link.freedBlocks d)) n
    (((s.line n).link.ackedChains d).filter fun c => decide (c.chain.bytes ≤ c.acked))).of .link
  rw [s.ackFrames_eq]
  refine (congrArg Link.besides answers).trans ((State.besides_freeBlocks _ _ n).trans ?_)
  rw [State.line_onLink_self]

theorem State.store_ackFrames (s : State) (n : LineId) (d : Nat) :
    (s.ackFrames n d).store = ((s.line n).link.freedBlocks d).foldl Store.release s.store := by
  rw [s.ackFrames_eq]
  exact ((Only.chainsAnswered _ n _).of .store).trans (State.store_freeBlocks _ _)

theorem Only.ackFrames (s : State) (n : LineId) (d : Nat) :
    Only n [.store, .others, .link, .outputs, .table, .ev] s (s.ackFrames n d) := by
  rw [s.ackFrames_eq]
  exact ((Only.onLink s n _).trans (Only.freeBlocks _ n _) (H := [.store, .others, .link, .outputs])).trans (Only.chainsAnswered _ n _)

theorem State.answered_ackFrames (s : State) (n : LineId) (d : Nat) (once : ((s.line n).link.sendList.map SendChain.card).Nodup)
    {x : SendChain} (hx : x ∈ (s.line n).link.ackedChains d) (whole : x.chain.bytes ≤ x.acked)
    (fits : x.card < (s.line n).table.cards.length) :
    State.Answered (.line n) x.card .done 0 0 x.doneFields s (s.ackFrames n d) := by
  have effect : LineEffect n s ((s.onLink n fun l => l.acked d).freeBlocks ((s.line n).link.freedBlocks d)) :=
    (LineEffect.refl.onLink n _).freeBlocks _
  have cards : ((s.line n).link.ackedChains d).map SendChain.card = (s.line n).link.sendList.map SendChain.card := by
    rw [Link.ackedChains, List.map_map]
    rfl
  rw [s.ackFrames_eq]
  generalize (s.onLink n fun l => l.acked d).freeBlocks ((s.line n).link.freedBlocks d) = y at *
  have length := effect.length_line n
  refine (State.answered_chainsAnswered _ y n ?_ (List.mem_filter.mpr ⟨hx, decide_eq_true whole⟩) (by rw [length]; exact fits)).before effect.tick
  exact (cards ▸ once).sublist ((List.filter_sublist ..).map _)

/-- Nothing acknowledged, nothing changed. -/
theorem State.ackFrames_zero (left : ∀ x ∈ (s.line n).link.sendList, x.acked < x.chain.bytes)
    (due : ∀ x ∈ (s.line n).link.resends, ∃ f ∈ (s.line n).link.sendWindow, f.number = x) : s.ackFrames n 0 = s := by
  have chains : (s.line n).link.ackedChains 0 = (s.line n).link.sendList := by
    refine (List.map_congr_left fun c _ => ?_).trans (List.map_id _)
    simp [SendChain.ack, ackedIn]
  have waiting : ((s.line n).link.resends.filter fun x => (s.line n).link.sendWindow.any fun f => f.number == x) = (s.line n).link.resends :=
    List.filter_eq_self.mpr fun x hx => by simpa using due x hx
  have link : (s.line n).link.acked 0 = (s.line n).link := by
    rw [Link.acked, chains, List.drop_zero, waiting, List.filter_eq_self.mpr fun x hx => decide_eq_true (left x hx)]
  have freed : (s.line n).link.freedBlocks 0 = [] := by
    refine List.flatMap_eq_nil_iff.mpr fun c _ => ?_
    have same : c.ack ((s.line n).link.sendWindow.take 0) = c := by simp [SendChain.ack, ackedIn]
    rw [SendChain.freed, same, List.drop_length]
  have none_ : ((s.line n).link.ackedChains 0).filter (fun c => decide (c.chain.bytes ≤ c.acked)) = [] := by
    rw [chains]
    exact List.filter_eq_nil_iff.mpr fun x hx => by simpa using left x hx
  have same : (s.onLink n fun l => l.acked 0) = s := by
    refine (State.onLine_congr (g := fun l => l) ?_).trans (s.onLine_id n)
    dsimp only
    rw [link]
  rw [s.ackFrames_eq, none_, freed, same]
  rfl

/-! ## What an acknowledgement leaves -/

/-- What a RECEIPT, REJECT or HOLD leaves which acknowledges the first `d` frames of the Send Window. -/
structure State.Acknowledged (s : State) (n : LineId) (d : Nat) (held : Bool) (t : State) : Prop where
  held : (t.line n).link.held = held
  effect : LineEffect n s t
  numbers : ((s.line n).link.sendWindow.drop d).map SentFrame.number <+: (t.line n).link.sendWindow.map SentFrame.number
  chains : (t.line n).link.sendList.map (fun x : SendChain => (x.card, x.chain, x.acked)) =
    (((s.line n).link.ackedChains d).filter fun x => decide (x.acked < x.chain.bytes)).map fun x : SendChain => (x.card, x.chain, x.acked)
  store : t.store = ((s.line n).link.freedBlocks d).foldl Store.release s.store
  answers : ∀ x ∈ (s.line n).link.ackedChains d, x.chain.bytes ≤ x.acked → x.card < (s.line n).table.cards.length →
    State.Answered (.line n) x.card .done 0 0 x.doneFields s t

/-- What stands of window and chains after the acknowledgement. -/
theorem State.link_ackFrames (s : State) (n : LineId) (d : Nat) :
    ((s.ackFrames n d).line n).link.sendWindow = (s.line n).link.sendWindow.drop d ∧
    ((s.ackFrames n d).line n).link.sendList = ((s.line n).link.ackedChains d).filter (fun x => decide (x.acked < x.chain.bytes)) :=
  ⟨congrArg Link.sendWindow (s.besides_ackFrames n d), congrArg Link.sendList (s.besides_ackFrames n d)⟩

theorem State.acknowledged_ackFrames (s : State) (n : LineId) (d : Nat) (once : ((s.line n).link.sendList.map SendChain.card).Nodup) :
    State.Acknowledged s n d ((s.ackFrames n d).line n).link.held (s.ackFrames n d) := by
  obtain ⟨window, list⟩ := s.link_ackFrames n d
  exact ⟨rfl, LineEffect.refl.ackFrames d, by rw [window], by rw [list], s.store_ackFrames n d,
    fun x hx whole fits => s.answered_ackFrames n d once hx whole fits⟩

/-- A change of the link that keeps the window's numbers and the chains. -/
theorem State.Acknowledged.onLink {b c : Bool} (h : State.Acknowledged s n d b t) (g : Link → Link)
    (numbers : (g (t.line n).link).sendWindow.map SentFrame.number = (t.line n).link.sendWindow.map SentFrame.number)
    (chains : (g (t.line n).link).sendList = (t.line n).link.sendList) (held : (g (t.line n).link).held = c) :
    State.Acknowledged s n d c (t.onLink n g) := by
  have line := State.line_onLink_self t n g
  have later : LineEffect n t (t.onLink n g) := LineEffect.refl.onLink n g
  refine ⟨by rw [line]; exact held, h.effect.trans later, ?_, ?_, h.store, fun x hx whole fits => ?_⟩
  · rw [line]
    dsimp only
    rw [numbers]
    exact h.numbers
  · rw [line]
    dsimp only
    rw [chains]
    exact h.chains
  · exact (h.answers x hx whole fits).later later (.inl rfl) ((Only.onLink t n g).card _)

theorem State.Acknowledged.linkKick {b : Bool} (h : State.Acknowledged s n d b t) : State.Acknowledged s n d b (t.linkKick n) := by
  obtain ⟨numbers, chains, held⟩ := t.linkGrows_linkKick n
  have later : LineEffect n t (t.linkKick n) := LineEffect.refl.linkKick n
  have only := Only.linkKick t n
  exact ⟨held.trans h.held, h.effect.trans later, h.numbers.trans numbers, chains.trans h.chains, (only.of .store).trans h.store,
    fun x hx whole fits => (h.answers x hx whole fits).later later (.inl rfl) (only.card _)⟩

theorem State.Acknowledged.commit {b : Bool} (h : State.Acknowledged s n d b t) : State.Acknowledged s n d b (s.commit t) := by
  have link : ((s.commit t).line n).link = (t.line n).link := by rw [State.line_commit]; rfl
  exact ⟨by rw [link]; exact h.held, h.effect.commit, by rw [link]; exact h.numbers, by rw [link]; exact h.chains, h.store,
    fun x hx whole fits => (h.answers x hx whole fits).commit⟩

/-! ## RECEIPT, REJECT, HOLD -/

/-- How many frames a number acknowledges, were it acceptable. -/
def Link.distance (l : Link) (a : BitVec 7) : Nat := (a - (l.sendWindow.head?.map SentFrame.number).getD l.nextSend).toNat

theorem Link.acknowledged_none {l : Link} (far : l.sendWindow.length < l.distance a) : l.acknowledged a = none :=
  if_neg (Nat.not_le.mpr far)

theorem Link.acknowledged_some {l : Link} (near : l.distance a ≤ l.sendWindow.length) : l.acknowledged a = some (l.distance a) :=
  if_pos near

section
variable (far : (s.line n).link.sendWindow.length < (s.line n).link.distance a)
include far

/-- A number that is not acceptable is ignored. -/
theorem State.ack_ignored : s.receipt n a = s ∧ s.reject n a = s ∧ s.holdReceived n a = s := by
  have ignored := Link.acknowledged_none far
  refine ⟨?_, ?_, ?_⟩
  · simp only [State.receipt, ignored]
  · simp only [State.reject, ignored]
  · simp only [State.holdReceived, ignored]

end

/-- What a RECEIPT makes of the link, once its frames are acknowledged. -/
def Link.receipted (full : Timer) (moved : Bool) (l : Link) : Link :=
  { l with
    held := false, holdTimer := .stopped
    replyTimer := if l.sendWindow = [] then .stopped else if moved then full else l.replyTimer }

/-- What a HOLD makes of the link, once its frames are acknowledged. -/
def Link.holding (l : Link) : Link :=
  { l with held := true, replyTimer := .stopped, holdTimer := if l.held then l.holdTimer else .running 60000 }

/-- What a REJECT makes of the link, once its frames are acknowledged. -/
def Link.rejected (l : Link) : Link :=
  { l with held := false, holdTimer := .stopped, counters := { l.counters with rejects := l.counters.rejects + 1 } }

section
variable (near : (s.line n).link.distance a ≤ (s.line n).link.sendWindow.length)
include near

theorem State.receipt_eq : s.receipt n a = ((s.ackFrames n ((s.line n).link.distance a)).onLink n
    (Link.receipted (s.line n).profile.replyLimit (decide (0 < (s.line n).link.distance a) || (s.line n).link.held))).linkKick n := by
  have profile : ((s.ackFrames n ((s.line n).link.distance a)).line n).profile = (s.line n).profile :=
    (Only.ackFrames s n ((s.line n).link.distance a)).of .profile
  have profile' : (((s.ackFrames n ((s.line n).link.distance a)).onLink n Link.release).line n).profile = (s.line n).profile := by
    rw [State.line_onLink_self]; exact profile
  simp only [State.receipt, Link.acknowledged_some near, profile']
  rw [State.onLink_onLink]
  rfl

theorem State.reject_eq :
    s.reject n a = ((s.ackFrames n ((s.line n).link.distance a)).onLink n Link.rejected).resendOrExhaust n := by
  simp only [State.reject, Link.acknowledged_some near]
  rfl

theorem State.holdReceived_eq : s.holdReceived n a = (s.ackFrames n ((s.line n).link.distance a)).onLink n Link.holding := by
  simp only [State.holdReceived, Link.acknowledged_some near]
  rfl

variable (once : ((s.line n).link.sendList.map SendChain.card).Nodup)
include once

theorem State.acknowledged_receipt : State.Acknowledged s n ((s.line n).link.distance a) false (s.receipt n a) := by
  have acked := s.acknowledged_ackFrames n ((s.line n).link.distance a) once
  rw [State.receipt_eq near]
  exact (acked.onLink (Link.receipted _ _) rfl rfl rfl).linkKick

theorem State.acknowledged_holdReceived : State.Acknowledged s n ((s.line n).link.distance a) true (s.holdReceived n a) := by
  have acked := s.acknowledged_ackFrames n ((s.line n).link.distance a) once
  rw [State.holdReceived_eq near]
  exact acked.onLink _ rfl rfl rfl

/-- A REJECT that finds a frame left sends the window again, and does not exhaust its tries. -/
theorem State.acknowledged_reject
    (tries : ∀ f ∈ ((s.line n).link.sendWindow.drop ((s.line n).link.distance a)).head?, f.tries < (s.line n).profile.tryLimit) :
    State.Acknowledged s n ((s.line n).link.distance a) false (s.reject n a) := by
  have acked := s.acknowledged_ackFrames n ((s.line n).link.distance a) once
  obtain ⟨window, -⟩ := s.link_ackFrames n ((s.line n).link.distance a)
  have profile : ((s.ackFrames n ((s.line n).link.distance a)).line n).profile = (s.line n).profile :=
    (Only.ackFrames s n ((s.line n).link.distance a)).of .profile
  rw [State.reject_eq near]
  generalize s.ackFrames n ((s.line n).link.distance a) = y at *
  have line := State.line_onLink_self y n Link.rejected
  have acked : State.Acknowledged s n ((s.line n).link.distance a) false (y.onLink n Link.rejected) := acked.onLink _ rfl rfl rfl
  have window : ((y.onLink n Link.rejected).line n).link.sendWindow =
      (s.line n).link.sendWindow.drop ((s.line n).link.distance a) := by rw [line]; exact window
  have profile : ((y.onLink n Link.rejected).line n).profile = (s.line n).profile := by rw [line]; exact profile
  rw [← window, ← profile] at tries
  generalize y.onLink n Link.rejected = z at *
  unfold State.resendOrExhaust
  split
  next => exact (acked.onLink _ rfl rfl acked.held).linkKick
  next f rest frames =>
    rw [if_pos (tries f (by rw [frames]; rfl)), State.resendWindow_eq frames]
    exact (acked.onLink _ (by rw [frames]; rfl) rfl acked.held).linkKick

end

/-! ## The commands -/

section
variable {run : List Byte} (w : s.Works n p) (activity : (s.pump p).activity = .carrying) (holding : (s.pump p).holding = false)
  (some_ : run ≠ []) (up : (s.line n).link.state = .up)
include w activity holding some_ up

/-- A good frame reaches a link that is UP. -/
theorem State.runReceived_up (received : Wire.receive run = some f) (short : ∀ k data, f ≠ .info k data) :
    s.runReceived n run = s.frameReceived n f := by
  have good : (s.line n).link.goodFrame run = some f := by
    unfold Link.goodFrame
    rw [received]
    split
    next k data e =>
      cases e
      exact absurd rfl (short k data)
    next => rfl
  have active : (s.line n).link.state.active = true := by rw [up]; rfl
  rw [State.runReceived, if_neg (by rw [w.carries activity holding, active]; simpa using some_)]
  simp only [good]

theorem exec_receiptFrame (received : Wire.receive run = some (.receipt a)) : exec (.receiptFrame n run) s = done s (s.receipt n a) := by
  have go : exec (.receiptFrame n run) s = done s (s.runReceived n run) := rfl
  rw [go, State.runReceived_up w activity holding some_ up received fun _ _ e => nomatch e]
  simp only [State.frameReceived, up]

theorem exec_rejectFrame (received : Wire.receive run = some (.reject a)) : exec (.rejectFrame n run) s = done s (s.reject n a) := by
  have go : exec (.rejectFrame n run) s = done s (s.runReceived n run) := rfl
  rw [go, State.runReceived_up w activity holding some_ up received fun _ _ e => nomatch e]
  simp only [State.frameReceived, up]

theorem exec_holdFrame (received : Wire.receive run = some (.hold a)) : exec (.holdFrame n run) s = done s (s.holdReceived n a) := by
  have go : exec (.holdFrame n run) s = done s (s.runReceived n run) := rfl
  rw [go, State.runReceived_up w activity holding some_ up received fun _ _ e => nomatch e]
  simp only [State.frameReceived, up]

end

/-! ## A number that acknowledges nothing -/

section
variable (zero : (s.line n).link.distance a = 0) (left : ∀ x ∈ (s.line n).link.sendList, x.acked < x.chain.bytes)
  (due : ∀ x ∈ (s.line n).link.resends, ∃ f ∈ (s.line n).link.sendWindow, f.number = x)
include zero left due

theorem State.receipt_zero (busy : (s.line n).link.sending.isSome = true) : s.receipt n a = s.onLink n fun x =>
    { x with
      held := false, holdTimer := .stopped
      replyTimer := if x.sendWindow = [] then .stopped else if x.held then (s.line n).profile.replyLimit else x.replyTimer } := by
  rw [State.receipt_eq (by rw [zero]; exact Nat.zero_le _), zero, State.ackFrames_zero left due, State.linkKick_busy]
  · refine State.onLine_congr ?_
    simp [Link.receipted]
  · rw [State.line_onLink_self]
    exact .inl busy

theorem State.holdReceived_zero : s.holdReceived n a = s.onLink n Link.holding := by
  rw [State.holdReceived_eq (by rw [zero]; exact Nat.zero_le _), zero, State.ackFrames_zero left due]

theorem State.reject_zero : s.reject n a = (s.onLink n Link.rejected).resendOrExhaust n := by
  rw [State.reject_eq (by rw [zero]; exact Nat.zero_le _), zero, State.ackFrames_zero left due]

theorem State.reject_zero_empty (busy : (s.line n).link.sending.isSome = true) (frames : (s.line n).link.sendWindow = []) :
    s.reject n a = s.onLink n fun x => { Link.rejected x with replyTimer := .stopped } := by
  have link : ((s.onLink n Link.rejected).line n).link = Link.rejected (s.line n).link := by rw [State.line_onLink_self]
  have none_ : ((s.onLink n Link.rejected).line n).link.sendWindow = [] := by rw [link]; exact frames
  rw [State.reject_zero zero left due, State.resendOrExhaust]
  simp only [none_]
  rw [State.onLink_onLink, State.linkKick_busy]
  · rfl
  · rw [State.line_onLink_self]
    exact .inl busy

variable {x : SentFrame} {rest : List SentFrame} (frames : (s.line n).link.sendWindow = x :: rest)
include frames

theorem State.reject_zero_again (busy : (s.line n).link.sending.isSome = true) (tries : x.tries < (s.line n).profile.tryLimit) :
    s.reject n a = s.onLink n (Link.again (s.line n).profile.replyLimit x rest ∘ Link.rejected) := by
  have line := State.line_onLink_self s n Link.rejected
  have frames : ((s.onLink n Link.rejected).line n).link.sendWindow = x :: rest := by rw [line]; exact frames
  have profile : ((s.onLink n Link.rejected).line n).profile = (s.line n).profile := by rw [line]
  have busy : ((s.onLink n Link.rejected).line n).link.sending.isSome = true := by rw [line]; exact busy
  rw [State.reject_zero zero left due]
  simp only [State.resendOrExhaust, frames, profile, if_pos tries]
  rw [State.resendWindow_waits frames busy, profile, State.onLink_onLink]

theorem State.reject_zero_exhausted (tries : (s.line n).profile.tryLimit ≤ x.tries) :
    s.reject n a = (s.onLink n Link.rejected).fault n .linkExhausted := by
  have line := State.line_onLink_self s n Link.rejected
  have frames : ((s.onLink n Link.rejected).line n).link.sendWindow = x :: rest := by rw [line]; exact frames
  have profile : ((s.onLink n Link.rejected).line n).profile = (s.line n).profile := by rw [line]
  rw [State.reject_zero zero left due]
  simp only [State.resendOrExhaust, frames, profile, if_neg (Nat.not_lt.mpr tries)]

end

/-- Settles O55: SEND by what stands before the new chain, FRAME_SENT and the timers by what the pump is given next, and RECEIPT,
REJECT and HOLD by what they acknowledge. -/
theorem linkSending : Obligations.LinkSending := by
  refine ⟨fun n i s taken => ?_, fun n p s w activity holding => ?_⟩
  · obtain ⟨down, full, bad⟩ := send_refused taken
    refine ⟨down, full, fun up room => ⟨bad up room, fun c good waits => leads_send_waits taken up room good ?_⟩⟩
    rcases waits with h | h | h | h
    · exact .inl h
    · exact .inr (.inl h)
    · exact .inr (.inr (.inl h))
    · refine .inr (.inr (.inr ((Bool.not_eq_true _).mp fun carries => ?_)))
      obtain ⟨p, w, activity, holding⟩ := State.carrying_iff.mp carries
      exact (h p w).elim (fun k => k activity) fun k => Bool.false_ne_true (holding.symm.trans k)
  · have carries := w.carries activity holding
    obtain ⟨reply, still, sent⟩ := leads_frameSent w activity holding
    refine ⟨reply, still, sent, fun i c taken data room good => leads_send_fresh carries taken data room good,
      fun opening runs settled => leads_linkOpenRepeat w activity holding opening runs settled, fun f rest frames runs => ?_, ?_⟩
    · obtain ⟨exhausted, waits, again⟩ := leads_replyTimerExpiry frames runs
      exact ⟨exhausted, waits, fun tries => again tries carries⟩
    · intro c run a some_ up receipt reject hold d rejects kind
      have dist : d = (s.line n).link.distance a := by
        dsimp only [d, Link.distance]
        cases (s.line n).link.sendWindow <;> rfl
      clear_value d
      subst dist
      refine ⟨fun far => ?_, fun zero left due busy => ⟨?_, ?_, ?_, ?_⟩, fun near once tries => ?_⟩
      · obtain ⟨r, j, h⟩ := State.ack_ignored far
        rcases kind with ⟨rfl, received⟩ | ⟨rfl, received⟩ | ⟨rfl, received⟩
        · exact Leads.of_done ((exec_receiptFrame w activity holding some_ up received).trans (congrArg (done s) r)) rfl
        · exact Leads.of_done ((exec_rejectFrame w activity holding some_ up received).trans (congrArg (done s) j)) rfl
        · exact Leads.of_done ((exec_holdFrame w activity holding some_ up received).trans (congrArg (done s) h)) rfl
      · rintro ⟨rfl, received⟩
        have go := exec_receiptFrame w activity holding some_ up received
        rw [State.receipt_zero zero left due busy] at go
        exact Leads.of_done go rfl
      · rintro ⟨rfl, received⟩
        have go := exec_holdFrame w activity holding some_ up received
        rw [State.holdReceived_zero zero left due] at go
        exact Leads.of_done go rfl
      · rintro ⟨rfl, received⟩ frames
        have go := exec_rejectFrame w activity holding some_ up received
        rw [State.reject_zero_empty zero left due busy frames] at go
        exact Leads.of_done go rfl
      · rintro f rest ⟨rfl, received⟩ frames
        have go := exec_rejectFrame w activity holding some_ up received
        refine ⟨fun few => ?_, fun out call => ?_⟩
        · rw [State.reject_zero_again zero left due frames busy few] at go
          exact Leads.of_done go rfl
        · rw [State.reject_zero_exhausted zero left due frames out] at go
          have line := State.line_onLink_self s n Link.rejected
          exact Faults.of_done go (Line.takesFault_of (by rw [line]; exact .inr (.inr call))) (by rw [line]) (by rw [line]) (by rw [line])
            (LineEffect.refl.onLink n _)
      · have acked : ∃ t, exec c s = done s t ∧ State.Acknowledged s n ((s.line n).link.distance a) (decide hold) t := by
          rcases kind with ⟨rfl, received⟩ | k | ⟨rfl, received⟩
          · exact ⟨_, exec_receiptFrame w activity holding some_ up received,
              (decide_eq_false fun h => nomatch h.1 : decide hold = false) ▸ State.acknowledged_receipt near once⟩
          · obtain ⟨rfl, received⟩ := id k
            exact ⟨_, exec_rejectFrame w activity holding some_ up received,
              (decide_eq_false fun h => nomatch h.1 : decide hold = false) ▸ State.acknowledged_reject near once (tries k)⟩
          · exact ⟨_, exec_holdFrame w activity holding some_ up received,
              (decide_eq_true ⟨rfl, received⟩ : decide hold = true) ▸ State.acknowledged_holdReceived near once⟩
        obtain ⟨t, go, acked⟩ := acked
        have final := acked.commit
        exact ⟨s.commit t, go, final.held, final.effect.aside, final.effect.steady, final.numbers, final.chains, final.store, final.answers⟩

end Sys2Proof.Machine

/-! Blocks in the Block Store: what each operation on a store leaves of the header and payload of a block (09 R153, R154, R156). -/

namespace Sys2Proof.Machine

set_option Elab.async false

variable {st st' st'' : Store} {b c i : Nat} {bs : List Byte} {w : Owner}

theorem Memory.get_setBytes {m : List Host.Cell} (h : Memory.wf m = true) (a i : Nat) (bs : List Byte) (hi : i < bs.length) :
    Memory.get (Memory.setBytes m a bs) (a + i) = bs[i] := by
  induction bs generalizing m a i with
  | nil => exact absurd hi (Nat.not_lt_zero i)
  | cons x bs ih =>
    rw [Memory.setBytes]
    cases i with
    | zero => rw [Memory.get_setBytes_of_far (Memory.wf_set h _ _) bs (.inl (by omega)), Memory.get_set h, if_pos (Nat.add_zero a)]; rfl
    | succ i =>
      have less : i < bs.length := by simpa using hi
      have next := ih (Memory.wf_set h a x) (a + 1) i less
      rw [show a + (i + 1) = a + 1 + i by omega, next]
      rfl

theorem State.Sound.few {s : State} (sound : s.Sound) : s.store.owners.length ≤ 496 := by
  have fitted : s.store.owners.length = blocksFitted s.port.strap := sound.fitted
  have : blocksFitted s.port.strap ≤ 496 := by cases s.port.strap <;> decide
  omega

theorem State.Sound.lt_of_free {s : State} (sound : s.Sound) {b : Nat} (free : b ∈ s.store.free) : b < 496 :=
  Nat.lt_of_lt_of_le (List.getElem?_eq_some_iff.mp ((sound.economy.2 b).mp free)).1 sound.few

/-! ## A block that stands -/

/-- The 1024 bytes of a block stand. -/
def Store.Same (b : Nat) (st st' : Store) : Prop :=
  ∀ o, o < 1024 → Memory.get st'.mem (blockAddr b + o) = Memory.get st.mem (blockAddr b + o)

theorem Store.Same.refl : Store.Same b st st := fun _ _ => rfl

theorem Store.Same.trans (h : Store.Same b st st') (k : Store.Same b st' st'') : Store.Same b st st'' :=
  fun o ho => (k o ho).trans (h o ho)

theorem Store.Same.word (h : Store.Same b st st') (o : Nat) (ho : o + 1 < 1024) :
    Memory.word st'.mem (blockAddr b + o) = Memory.word st.mem (blockAddr b + o) := by
  simp only [Memory.word]
  rw [h o (by omega), Nat.add_assoc, h (o + 1) ho]

theorem Store.Same.next (h : Store.Same b st st') : st'.next b = st.next b := h.word 0 (by omega)
theorem Store.Same.fill (h : Store.Same b st st') : st'.fill b = st.fill b := h.word 2 (by omega)

theorem Store.Same.payload (h : Store.Same b st st') (hi : i < 1016) : st'.payload b i = st.payload b i := by
  rw [Store.payload, Store.payload, Nat.add_assoc, h (8 + i) (by omega)]

section
variable (wf : Memory.wf st.mem = true)
include wf

theorem Store.same_setOwner (fitted : c < 496) (b : Nat) (w : Owner) : Store.Same b st (st.setOwner c w) := fun o ho => by
  rw [Store.setOwner, Memory.get_setWord wf, if_neg (by unfold mapAddr blockAddr; omega), if_neg (by unfold mapAddr blockAddr; omega)]

theorem Store.same_assign (few : st.owners.length ≤ 496) (b c : Nat) (w : Owner) : Store.Same b st (st.assign c w) := by
  unfold Store.assign
  split
  · exact .refl
  next p h => exact Store.same_setOwner wf (by have := (List.getElem?_eq_some_iff.mp h).1; omega) b w
  · exact .refl

theorem Store.wf_assign (c : Nat) (w : Owner) : Memory.wf (st.assign c w).mem = true := by
  unfold Store.assign
  split
  · exact wf
  · exact Memory.wf_setWord wf _ _
  · exact wf

/-! ## The next field -/

theorem Store.same_setNext (other : b ≠ c) (v : Nat) : Store.Same b st (st.setNext c v) := fun o ho => by
  rw [Store.setNext, Memory.get_setWord wf, if_neg (by unfold blockAddr; omega), if_neg (by unfold blockAddr; omega)]

theorem Store.next_setNext {v : Nat} (hv : v < 65536) : (st.setNext b v).next b = v := Memory.word_setWord wf _ _ hv

theorem Store.fill_setNext (b c v : Nat) : (st.setNext c v).fill b = st.fill b :=
  Memory.word_setWord_of_far wf _ (by unfold blockAddr; omega)

theorem Store.payload_setNext (b c v : Nat) (hi : i < 1016) : (st.setNext c v).payload b i = st.payload b i := by
  rw [Store.payload, Store.payload, Store.setNext, Memory.get_setWord wf, if_neg (by unfold blockAddr; omega),
    if_neg (by unfold blockAddr; omega)]

theorem Store.seq_setNext (b c v : Nat) :
    Memory.word (st.setNext c v).mem (blockAddr b + 6) = Memory.word st.mem (blockAddr b + 6) :=
  Memory.word_setWord_of_far wf _ (by unfold blockAddr; omega)

/-! ## The header of a block begun -/

theorem Store.same_newHeader (other : b ≠ c) (kind : BlockKind) (n : LineId) (seq : Nat) :
    Store.Same b st (st.newHeader c kind n seq) := fun o ho => by
  refine Memory.get_setBytes_of_far wf _ ?_
  simp only [wordBytes, List.length_append, List.length_cons, List.length_nil]
  unfold blockAddr
  omega

theorem Store.word_newHeader (b : Nat) (kind : BlockKind) (n : LineId) (seq : Nat) {o : Nat} {x y : Byte}
    (hx : (wordBytes 65535 ++ wordBytes 0 ++ [byteOf kind.code 0, byteOf n.val 0] ++ wordBytes seq)[o]? = some x)
    (hy : (wordBytes 65535 ++ wordBytes 0 ++ [byteOf kind.code 0, byteOf n.val 0] ++ wordBytes seq)[o + 1]? = some y) :
    Memory.word (st.newHeader b kind n seq).mem (blockAddr b + o) = x.toNat + 256 * y.toNat := by
  obtain ⟨lx, hx⟩ := List.getElem?_eq_some_iff.mp hx
  obtain ⟨ly, hy⟩ := List.getElem?_eq_some_iff.mp hy
  rw [Memory.word, Store.newHeader, Memory.get_setBytes wf _ _ _ lx, Nat.add_assoc, Memory.get_setBytes wf _ _ _ ly, hx, hy]

theorem Store.next_newHeader (b : Nat) (kind : BlockKind) (n : LineId) (seq : Nat) : (st.newHeader b kind n seq).next b = 65535 :=
  Store.word_newHeader wf b kind n seq (o := 0) rfl rfl

theorem Store.fill_newHeader (b : Nat) (kind : BlockKind) (n : LineId) (seq : Nat) : (st.newHeader b kind n seq).fill b = 0 :=
  Store.word_newHeader wf b kind n seq (o := 2) rfl rfl

theorem Store.seq_newHeader (b : Nat) (kind : BlockKind) (n : LineId) (seq : Nat) :
    Memory.word (st.newHeader b kind n seq).mem (blockAddr b + 6) = seq % 65536 := by
  rw [Store.word_newHeader wf b kind n seq (o := 6) rfl rfl]
  simp only [byteOf, BitVec.toNat_ofNat]
  omega

/-! ## Bytes appended -/

theorem Store.same_append (other : b ≠ c) (fits : st.fill c + bs.length ≤ 1016) : Store.Same b st (st.append c bs) := fun o ho => by
  rw [Store.append, Store.setFill, Memory.get_setWord (Memory.wf_setBytes wf _ _), if_neg (by unfold blockAddr; omega),
    if_neg (by unfold blockAddr; omega), Memory.get_setBytes_of_far wf _ (by unfold blockAddr; omega)]

theorem Store.wf_append (b : Nat) (bs : List Byte) : Memory.wf (st.append b bs).mem = true :=
  Memory.wf_setWord (Memory.wf_setBytes wf _ _) _ _

theorem Store.fill_append (fits : st.fill b + bs.length ≤ 1016) : (st.append b bs).fill b = st.fill b + bs.length :=
  Memory.word_setWord (Memory.wf_setBytes wf _ _) _ _ (by omega)

theorem Store.get_append_apart {a : Nat} (low : a < blockAddr b + 8 + st.fill b ∨ blockAddr b + 8 + st.fill b + bs.length ≤ a)
    (fill : a + 1 ≤ blockAddr b + 2 ∨ blockAddr b + 4 ≤ a) : Memory.get (st.append b bs).mem a = Memory.get st.mem a := by
  rw [Store.append, Store.setFill, Memory.get_setWord (Memory.wf_setBytes wf _ _), if_neg (by omega), if_neg (by omega),
    Memory.get_setBytes_of_far wf _ low]

theorem Store.next_append (b : Nat) (bs : List Byte) : (st.append b bs).next b = st.next b := by
  rw [Store.next, Store.next, Memory.word, Memory.word, Store.get_append_apart wf (by omega) (by omega),
    Store.get_append_apart wf (by omega) (by omega)]

theorem Store.seq_append (b : Nat) (bs : List Byte) :
    Memory.word (st.append b bs).mem (blockAddr b + 6) = Memory.word st.mem (blockAddr b + 6) := by
  rw [Memory.word, Memory.word, Store.get_append_apart wf (by omega) (by omega), Store.get_append_apart wf (by omega) (by omega)]

/-- The bytes before the fill stand. -/
theorem Store.payload_append_old (bs : List Byte) (hi : i < st.fill b) : (st.append b bs).payload b i = st.payload b i := by
  rw [Store.payload, Store.payload, Store.get_append_apart wf (by omega) (by omega)]

/-- The bytes appended follow them. -/
theorem Store.payload_append_new (hi : i < bs.length) : (st.append b bs).payload b (st.fill b + i) = bs[i] := by
  rw [Store.payload, Store.append, Store.setFill, Memory.get_setWord (Memory.wf_setBytes wf _ _), if_neg (by omega), if_neg (by omega),
    ← Nat.add_assoc, Memory.get_setBytes wf _ _ _ hi]

end

theorem Store.wf_newHeader (wf : Memory.wf st.mem = true) (b : Nat) (kind : BlockKind) (n : LineId) (seq : Nat) :
    Memory.wf (st.newHeader b kind n seq).mem = true := Memory.wf_setBytes wf _ _

theorem Store.wf_setNext (wf : Memory.wf st.mem = true) (b v : Nat) : Memory.wf (st.setNext b v).mem = true := Memory.wf_setWord wf _ _

end Sys2Proof.Machine

/-! Blocks popped for reception, and bytes stored in them (06 R106, 07 R125, 09 R158, R159). -/

namespace Sys2Proof.Machine

set_option Elab.async false

variable {n : LineId} {s t u : State} {b c i : Nat} {rest : List Nat} {o : Owner} {ek : EntryKind} {bk : BlockKind} {data : List Byte}
  {st : Store}

/-! ## A pop -/

/-- The engine event word after a pop: POOL_LOW raised where the Free Count falls from at least the Reserve to below it. -/
def State.popEvent (s : State) : EventWord :=
  if min s.hdr.reserve.toNat 64 ≤ s.store.free.length ∧ s.store.free.length - 1 < min s.hdr.reserve.toNat 64 then
    { s.hdr.ev with bits := s.hdr.ev.bits ||| 0x0010, tally := s.hdr.ev.tally + 1 }
  else s.hdr.ev

theorem State.pop_eq (free : s.store.free = b :: rest) (o : Owner) (n : LineId) : ∃ u, s.pop o = some (b, u) ∧
    u.store = { s.store with free := rest }.setOwner b o ∧ u.lines = s.lines ∧ u.hdr.ev = s.popEvent ∧
    Only n [.store, .event] s u := by
  have take : s.store.take o = some (b, { s.store with free := rest }.setOwner b o) := by rw [Store.take, free]
  have less : ({ s.store with free := rest }.setOwner b o).freeCount = s.store.free.length - 1 := by
    rw [free]
    rfl
  by_cases low : s.reserve ≤ s.store.freeCount ∧ s.store.free.length - 1 < s.reserve
  · have pop : s.pop o = some (b, { s with store := { s.store with free := rest }.setOwner b o }.raiseEngine .poolLow) := by
      simp only [State.pop, take, less, if_pos low]
    exact ⟨_, pop, rfl, rfl, (if_pos low).symm, Only.pop pop n⟩
  · have pop : s.pop o = some (b, { s with store := { s.store with free := rest }.setOwner b o }) := by
      simp only [State.pop, take, less, if_neg low]
    exact ⟨_, pop, rfl, rfl, (if_neg low).symm, Only.pop pop n⟩

/-! ## A block begun -/

/-- The header of a block begun for reception, and the link to it from the entry's last block (R106, R125). -/
def Store.begun (st : Store) (b : Nat) (kind : BlockKind) (n : LineId) (entry : Option Entry) : Store :=
  match entry with
  | none => st.newHeader b kind n 0
  | some e =>
    if st.owners[e.last]? = some (.deliv n) then (st.newHeader b kind n e.blockCount).setNext e.last b
    else st.newHeader b kind n e.blockCount

/-- What a block begun leaves of a store. -/
structure Store.Begun (st : Store) (b : Nat) (n : LineId) (entry : Option Entry) (st' : Store) : Prop where
  wf : Memory.wf st'.mem = true
  free : st'.free = st.free
  owners : st'.owners = st.owners
  next : (∀ e, entry = some e → e.last ≠ b) → st'.next b = 65535
  fill : st'.fill b = 0
  seq : Memory.word st'.mem (blockAddr b + 6) = (entry.map Entry.blockCount).getD 0 % 65536
  linked : ∀ e, entry = some e → st.owners[e.last]? = some (.deliv n) → st'.next e.last = b
  fills : ∀ c, c ≠ b → st'.fill c = st.fill c
  payloads : ∀ c i, c ≠ b → i < 1016 → st'.payload c i = st.payload c i

theorem Store.begun_spec (wf : Memory.wf st.mem = true) (fitted : b < 496) (bk : BlockKind) (n : LineId) (entry : Option Entry) :
    Store.Begun st b n entry (st.begun b bk n entry) := by
  cases entry with
  | none =>
    exact ⟨Store.wf_newHeader wf b bk n 0, rfl, rfl, fun _ => Store.next_newHeader wf b bk n 0, Store.fill_newHeader wf b bk n 0,
      Store.seq_newHeader wf b bk n 0, fun _ k => (nomatch k), fun c other => (Store.same_newHeader wf other bk n 0).fill,
      fun c i other hi => (Store.same_newHeader wf other bk n 0).payload hi⟩
  | some e =>
    have header := Store.wf_newHeader wf b bk n e.blockCount
    have next := Store.next_newHeader wf b bk n e.blockCount
    have fill := Store.fill_newHeader wf b bk n e.blockCount
    have seq := Store.seq_newHeader wf b bk n e.blockCount
    have same := fun c (other : c ≠ b) => Store.same_newHeader wf other bk n e.blockCount
    rw [Store.begun]
    split
    · refine ⟨Store.wf_setNext header _ _, rfl, rfl, fun apart => ?_, (Store.fill_setNext header _ _ _).trans fill,
        (Store.seq_setNext header _ _ _).trans seq, fun x here _ => ?_, fun c other => ?_, fun c i other hi => ?_⟩
      · exact ((Store.same_setNext header (fun k => apart e rfl k.symm) b).next).trans next
      · cases here
        exact Store.next_setNext header (by omega)
      · exact (Store.fill_setNext header _ _ _).trans (same c other).fill
      · exact (Store.payload_setNext header _ _ _ hi).trans ((same c other).payload hi)
    next apart =>
      refine ⟨header, rfl, rfl, fun _ => next, fill, seq, fun x here held => ?_, fun c other => (same c other).fill,
        fun c i other hi => (same c other).payload hi⟩
      cases here
      exact absurd held apart

/-- What a pop for reception leaves: the block the line's RECV block, its header begun. -/
structure State.Begun (s : State) (n : LineId) (ek : EntryKind) (b : Nat) (rest : List Nat) (u : State) : Prop where
  only : Only n [.store, .event, .recv] s u
  line : u.line n = { s.line n with recvBlock := some b }
  free : u.store.free = rest
  owners : u.store.owners = s.store.owners.set b (.recv n)
  event : u.hdr.ev = s.popEvent
  wf : Memory.wf u.store.mem = true
  next : (∀ e, (s.line n).openEntry ek = some e → e.last ≠ b) → u.store.next b = 65535
  fill : u.store.fill b = 0
  seq : Memory.word u.store.mem (blockAddr b + 6) = (((s.line n).openEntry ek).map Entry.blockCount).getD 0 % 65536
  linked : ∀ e, (s.line n).openEntry ek = some e → e.last ≠ b → s.store.owners[e.last]? = some (.deliv n) → u.store.next e.last = b
  fills : ∀ c, c ≠ b → u.store.fill c = s.store.fill c
  payloads : ∀ c i, c ≠ b → i < 1016 → u.store.payload c i = s.store.payload c i

theorem State.popRecv_eq (wf : Memory.wf s.store.mem = true) (fitted : b < 496) (free : s.store.free = b :: rest) (ek : EntryKind)
    (bk : BlockKind) : ∃ u, s.popRecv n ek bk = some u ∧ State.Begun s n ek b rest u := by
  obtain ⟨u, pop, store, lines, event, -⟩ := State.pop_eq free (.recv n) n
  have line : u.line n = s.line n := congrArg (fun ls : Vector Line 4 => ls[n]) lines
  have popped : s.popRecv n ek bk = some ((u.onStore fun st => st.begun b bk n ((s.line n).openEntry ek)).onLine n fun l =>
      { l with recvBlock := some b }) := by
    rw [State.popRecv, pop]
    simp only [line]
    cases (s.line n).openEntry ek <;> rfl
  have mem : Memory.wf u.store.mem = true := by
    rw [store]
    exact Memory.wf_setWord wf _ _
  have kept : ∀ c, Store.Same c s.store u.store := fun c => by
    rw [store]
    exact Store.same_setOwner (st := { s.store with free := rest }) wf fitted c _
  have owners : u.store.owners = s.store.owners.set b (.recv n) := by rw [store]; rfl
  have stack : u.store.free = rest := by rw [store]; rfl
  have begun := Store.begun_spec mem fitted bk n ((s.line n).openEntry ek)
  refine ⟨_, popped, Only.popRecv popped, ?_, begun.free.trans stack, begun.owners.trans owners, event, begun.wf, begun.next, begun.fill,
    begun.seq, fun e here apart held => begun.linked e here ?_, fun c other => (begun.fills c other).trans (kept c).fill,
    fun c i other hi => (begun.payloads c i other hi).trans ((kept c).payload hi)⟩
  · rw [State.line_onLine_self, State.line_onStore, line]
  · rw [owners, List.getElem?_set, if_neg (Ne.symm apart)]
    exact held

/-! ## Bytes stored -/

/-- The bytes for which the RECV block has room, stored in it; a block filled is delivered (R106). -/
def State.filled (s : State) (n : LineId) (b : Nat) (bytes : List Byte) : State :=
  if (s.onStore fun st => st.append b bytes).store.fill b = 1016 then (s.onStore fun st => st.append b bytes).deliverData n
  else s.onStore fun st => st.append b bytes

theorem State.storeSome_some (recv : (s.line n).recvBlock = some b) (data : List Byte) : s.storeSome n data =
    (s.filled n b (data.take (1016 - s.store.fill b)), data.drop (1016 - s.store.fill b)) := by
  simp only [State.storeSome, recv]
  rfl

theorem State.storeSome_none (recv : (s.line n).recvBlock = none) (pop : s.popRecv n .data .plain = some u)
    (begun : (u.line n).recvBlock = some b) (data : List Byte) : s.storeSome n data =
    (u.filled n b (data.take (1016 - u.store.fill b)), data.drop (1016 - u.store.fill b)) := by
  simp only [State.storeSome, recv, pop, begun]
  rfl

section
variable (wf : Memory.wf s.store.mem = true)
include wf

theorem State.filled_short (short : s.store.fill b + data.length < 1016) : s.filled n b data = s.onStore fun st => st.append b data := by
  refine if_neg ?_
  have fill : (s.onStore fun st => st.append b data).store.fill b = s.store.fill b + data.length :=
    Store.fill_append wf (by omega)
  omega

theorem State.filled_full (full : s.store.fill b + data.length = 1016) :
    s.filled n b data = (s.onStore fun st => st.append b data).deliverData n := by
  refine if_pos ?_
  have fill : (s.onStore fun st => st.append b data).store.fill b = s.store.fill b + data.length :=
    Store.fill_append wf (by omega)
  omega

end

/-- Data that the RECV block holds. -/
theorem State.storeData_fits (recv : (s.line n).recvBlock = some b) (fits : s.store.fill b + data.length ≤ 1016) :
    s.storeData n data = s.filled n b data := by
  rw [State.storeData, State.storeSome_some recv, List.take_of_length_le (by omega), List.drop_of_length_le (by omega)]
  exact if_pos rfl

/-- Data in a block begun for it. -/
theorem State.storeData_begun (recv : (s.line n).recvBlock = none) (pop : s.popRecv n .data .plain = some u)
    (begun : State.Begun s n .data b rest u) (short : data.length ≤ 1016) : s.storeData n data = u.filled n b data := by
  have here : (u.line n).recvBlock = some b := by rw [begun.line]
  rw [State.storeData, State.storeSome_none recv pop here, begun.fill, List.take_of_length_le (by omega),
    List.drop_of_length_le (by omega)]
  exact if_pos rfl

end Sys2Proof.Machine

/-! O56, first part: the frames of the link that store nothing (06 R95, R96, R98, R107, R108). -/

namespace Sys2Proof.Machine

set_option Elab.async false

variable {n : LineId} {p : PumpId} {s t u : State} {f : LinkFrame} {k : Link} {run : List Byte}

/-! ## A reply that falls due -/

/-- A reply falls due at a link whose pump carries: kept while the rate is in flight, begun by an idle pump, or waiting. -/
def State.reply (u : State) (n : LineId) (k : Link) (f : LinkFrame) : State :=
  if k.inFlight then u.onLine n fun l => { l with link := { l.link with replyDue := some f } }
  else if k.sending.isNone then u.frameBegun n f
  else u.onLine n fun l => { l with link := { l.link with replies := l.link.replies ++ [f] } }

theorem State.sendReply_eq_reply (carries : u.carrying n = true) (inFlight : (u.line n).link.inFlight = k.inFlight)
    (sending : (u.line n).link.sending = k.sending) (ready : k.sending.isSome = true ∨ (u.line n).link.replies = []) (f : LinkFrame) :
    u.sendReply n f = u.reply n k f := by
  unfold State.reply
  by_cases flight : k.inFlight = true
  · rw [if_pos flight, State.sendReply_inFlight (inFlight.trans flight)]
    rfl
  · have settled : (u.line n).link.inFlight = false := inFlight.trans ((Bool.not_eq_true _).mp flight)
    rw [if_neg flight]
    cases idle : k.sending with
    | none =>
      have replies : (u.line n).link.replies = [] := ready.elim (fun h => by rw [idle] at h; exact nomatch h) id
      exact State.sendReply_sent settled (sending.trans idle) carries replies f
    | some g => exact State.sendReply_waits settled (.inl (by rw [sending, idle]; rfl)) f

/-- The link with a reply fallen due, `k` as it stood before. -/
def Link.replied (l k : Link) (f : LinkFrame) : Link :=
  if k.inFlight then { l with replyDue := some f }
  else if k.sending.isNone then { l with sending := some f } else { l with replies := l.replies ++ [f] }

/-- What a reply fallen due sends at once. -/
def Link.sends (k : Link) (n : LineId) (f : LinkFrame) : List Output :=
  if k.inFlight then [] else if k.sending.isNone then [.linkBytes n (0xA5 :: (Wire.run f ++ [0xA5]))] else []

theorem State.line_reply (u : State) (n : LineId) (k : Link) (f : LinkFrame) :
    (u.reply n k f).line n = { u.line n with link := (u.line n).link.replied k f } := by
  unfold State.reply Link.replied
  split
  · rw [State.line_onLine_self]
  · split
    · rw [State.frameBegun, State.line_emit, State.line_onLine_self]
    · rw [State.line_onLine_self]

theorem State.outputs_reply (u : State) (n : LineId) (k : Link) (f : LinkFrame) : (u.reply n k f).outputs = u.outputs ++ k.sends n f := by
  unfold State.reply Link.sends
  split
  · exact (List.append_nil _).symm
  · split
    · rfl
    · exact (List.append_nil _).symm

theorem LineEffect.reply {s₀ : State} (h : LineEffect n s₀ u) (k : Link) (f : LinkFrame) : LineEffect n s₀ (u.reply n k f) := by
  unfold State.reply
  split
  · exact h.onLink n fun l => { l with replyDue := some f }
  · split
    · exact (h.onLink n fun l => { l with sending := some f }).emit _
    · exact h.onLink n fun l => { l with replies := l.replies ++ [f] }

/-- A reply leaves the pump where it is. -/
theorem State.pending_reply (u : State) (n : LineId) (k : Link) (f : LinkFrame) : (u.reply n k f).pending = u.pending := by
  unfold State.reply
  split
  · rfl
  · split <;> rfl

/-! ## Runs received -/

theorem Leads.run_of {c : Instr} (run_ : exec c s = done s t) (e : t = u) (pending : u.pending = s.pending) : Leads c s u :=
  Leads.of_done (run_.trans (congrArg (done s) e)) rfl pending

/-- The commands that bring a run of bytes. -/
theorem exec_run {c : Instr} (h : c ∈ [Instr.linkOpenFrame n run, .infoFrame n run, .receiptFrame n run, .rejectFrame n run,
    .holdFrame n run, .linkCloseFrame n run, .badFrame n run]) (s : State) : exec c s = done s (s.runReceived n run) := by
  simp only [List.mem_cons, List.not_mem_nil, or_false] at h
  rcases h with rfl | rfl | rfl | rfl | rfl | rfl | rfl <;> rfl

theorem LinkState.inactive {x : LinkState} (h : x = .none ∨ x = .closed) : x.active = false := by
  rcases h with rfl | rfl <;> rfl

theorem leads_run_discarded {c : Instr} (h : c ∈ [Instr.linkOpenFrame n run, .infoFrame n run, .receiptFrame n run, .rejectFrame n run,
    .holdFrame n run, .linkCloseFrame n run, .badFrame n run])
    (away : run = [] ∨ (s.line n).link.state = .none ∨ (s.line n).link.state = .closed ∨
      ∀ p, s.Works n p → (s.pump p).activity ≠ .carrying ∨ (s.pump p).holding = true) : Leads c s s := by
  have off : run = [] ∨ s.carrying n = false ∨ (s.line n).link.state.active = false := by
    rcases away with empty | none_ | closed | idle
    · exact .inl empty
    · exact .inr (.inr (LinkState.inactive (.inl none_)))
    · exact .inr (.inr (LinkState.inactive (.inr closed)))
    · refine .inr (.inl ((Bool.not_eq_true _).mp fun carries => ?_))
      obtain ⟨p, w, activity, holding⟩ := State.carrying_iff.mp carries
      exact (idle p w).elim (fun k => k activity) fun k => Bool.false_ne_true (holding.symm.trans k)
  exact .run_of (exec_run h s) (if_pos off) rfl

section
variable (w : s.Works n p) (activity : (s.pump p).activity = .carrying) (holding : (s.pump p).holding = false) (some_ : run ≠ [])
include w activity holding some_

/-- A good frame reaches the link. -/
theorem State.runReceived_good (active : (s.line n).link.state.active = true) (good : (s.line n).link.goodFrame run = some f) :
    s.runReceived n run = s.frameReceived n f := by
  rw [State.runReceived, if_neg (by rw [w.carries activity holding, active]; simpa using some_)]
  simp only [good]

theorem State.runReceived_bad (active : (s.line n).link.state.active = true) (bad : (s.line n).link.goodFrame run = none) :
    s.runReceived n run = s.frameBad n := by
  rw [State.runReceived, if_neg (by rw [w.carries activity holding, active]; simpa using some_)]
  simp only [bad]

/-- A bad frame is counted, and nothing is answered. -/
theorem leads_frameBad {c : Instr} (h : c ∈ [Instr.linkOpenFrame n run, .infoFrame n run, .receiptFrame n run, .rejectFrame n run,
    .holdFrame n run, .linkCloseFrame n run, .badFrame n run]) (active : (s.line n).link.state.active = true)
    (bad : (s.line n).link.goodFrame run = none) :
    ∃ e, ((s.line n).link.frameErrors < 65535 → e = (s.line n).link.frameErrors + 1) ∧
      Leads c s (s.onLine n fun l => { l with link :=
        { l.link with frameErrors := e, counters := { l.link.counters with bad := l.link.counters.bad + 1 } } }).draw := by
  refine ⟨s.bump n 6 (s.line n).link.frameErrors, fun less => if_pos less, ?_⟩
  refine .run_of (exec_run h s) ((State.runReceived_bad w activity holding some_ active bad).trans ?_) rfl
  exact congrArg State.draw (State.onLine_congr rfl)

end

theorem Link.goodFrame_of (received : Wire.receive run = some f) (short : ∀ j data, f ≠ .info j data) : k.goodFrame run = some f := by
  unfold Link.goodFrame
  rw [received]
  split
  next j data e =>
    cases e
    exact absurd rfl (short j data)
  next => rfl

theorem Link.goodFrame_none (received : Wire.receive run = none) : k.goodFrame run = none := by
  simp only [Link.goodFrame, received]

theorem Link.goodFrame_info {j : BitVec 7} {data : List Byte} (received : Wire.receive run = some (.info j data)) :
    k.goodFrame run = if k.state = .up ∧ k.infoLength < data.length then none else some (.info j data) := by
  simp only [Link.goodFrame, received]

/-! ## LINK-OPEN -/

/-- The line before it connects: the link up with the smaller values. -/
def State.linkRaised (s : State) (n : LineId) (width len : Nat) : State :=
  ((s.onLink n fun l => { l with openTimer := .stopped, repeatTimer := .stopped }).reply n (s.line n).link (s.ownLinkOpen n)).onLink n
    fun l =>
      { l with
        window := min (s.line n).profile.linkWindow width, infoLength := min (s.line n).profile.maxInfo len, state := .up
        nextSend := 0, expected := 0, frameErrors := 0, sendWindow := [], sendList := [] }

theorem State.line_linkRaised (s : State) (n : LineId) (width len : Nat) : (s.linkRaised n width len).line n =
    { s.line n with link :=
      { (s.line n).link.replied (s.line n).link (s.ownLinkOpen n) with
        window := min (s.line n).profile.linkWindow width, infoLength := min (s.line n).profile.maxInfo len, state := .up
        nextSend := 0, expected := 0, frameErrors := 0, sendWindow := [], sendList := [], openTimer := .stopped
        repeatTimer := .stopped } } := by
  rw [State.linkRaised, State.line_onLink_self, State.line_reply, State.line_onLink_self]
  unfold Link.replied
  split
  · rfl
  · split <;> rfl

theorem State.outputs_linkRaised (s : State) (n : LineId) (width len : Nat) :
    (s.linkRaised n width len).outputs = (s.reply n (s.line n).link (s.ownLinkOpen n)).outputs := by
  have raised : (s.linkRaised n width len).outputs = ((s.onLink n fun l =>
    { l with openTimer := .stopped, repeatTimer := .stopped }).reply n (s.line n).link (s.ownLinkOpen n)).outputs := rfl
  rw [raised, State.outputs_reply, State.outputs_reply]
  rfl

theorem State.effect_linkRaised (s : State) (n : LineId) (width len : Nat) : LineEffect n s (s.linkRaised n width len) :=
  ((LineEffect.refl.onLink n _).reply _ _).onLink n _

theorem State.linkUp_eq (carries : s.carrying n = true) (ready : (s.line n).link.sending.isSome = true ∨ (s.line n).link.replies = [])
    {width len : Nat} : s.linkUp n width len = (s.linkRaised n width len).connect n .data := by
  have stopped := State.line_onLink_self s n fun l => { l with openTimer := .stopped, repeatTimer := .stopped }
  have own : (s.onLink n fun l => { l with openTimer := .stopped, repeatTimer := .stopped }).ownLinkOpen n = s.ownLinkOpen n := by
    rw [State.ownLinkOpen, stopped]
    rfl
  have sent := State.sendReply_eq_reply (u := s.onLink n fun l => { l with openTimer := .stopped, repeatTimer := .stopped })
    (k := (s.line n).link) (by rw [State.carrying_onLink]; exact carries) (by rw [stopped]) (by rw [stopped]) (by rw [stopped]; exact ready)
    (s.ownLinkOpen n)
  rw [State.linkUp, own, sent, State.line_reply, stopped]
  rfl

section
variable (w : s.Works n p) (activity : (s.pump p).activity = .carrying) (holding : (s.pump p).holding = false) (some_ : run ≠ [])
  {width len : Nat} (received : Wire.receive run = some (.linkOpen width len))
  (ready : (s.line n).link.sending.isSome = true ∨ (s.line n).link.replies = [])
include w activity holding some_ received ready

theorem leads_linkOpen_again (state : (s.line n).link.state = .up ∨ (s.line n).link.state = .farClosed) :
    Leads (.linkOpenFrame n run) s (s.reply n (s.line n).link (s.ownLinkOpen n)) := by
  have good := Link.goodFrame_of (k := (s.line n).link) received fun _ _ e => nomatch e
  have active : (s.line n).link.state.active = true := by rcases state with h | h <;> rw [h] <;> rfl
  have frame : s.frameReceived n (.linkOpen width len) = s.sendReply n (s.ownLinkOpen n) := by
    rcases state with h | h <;> simp only [State.frameReceived, h]
  exact .run_of (exec_run (by simp) s) ((State.runReceived_good w activity holding some_ active good).trans (frame.trans
    (State.sendReply_eq_reply (w.carries activity holding) rfl rfl ready _))) (s.pending_reply n _ _)

theorem connects_linkOpen (state : (s.line n).link.state = .opening) : ∃ t, exec (.linkOpenFrame n run) s = .next t ∧
    State.Connects n .data s t ∧
    (t.line n).link =
      { ((s.reply n (s.line n).link (s.ownLinkOpen n)).line n).link with
        window := min (s.line n).profile.linkWindow width, infoLength := min (s.line n).profile.maxInfo len, state := .up
        nextSend := 0, expected := 0, frameErrors := 0, sendWindow := [], sendList := [], openTimer := .stopped
        repeatTimer := .stopped } ∧
    t.outputs = (s.reply n (s.line n).link (s.ownLinkOpen n)).outputs := by
  have good := Link.goodFrame_of (k := (s.line n).link) received fun _ _ e => nomatch e
  have active : (s.line n).link.state.active = true := by rw [state]; rfl
  have frame : s.frameReceived n (.linkOpen width len) = s.linkUp n width len := by simp only [State.frameReceived, state]
  have go := exec_run (c := .linkOpenFrame n run) (n := n) (run := run) (by simp) s
  rw [State.runReceived_good w activity holding some_ active good, frame, State.linkUp_eq (w.carries activity holding) ready] at go
  have line := s.line_linkRaised n width len
  have outputs := s.outputs_linkRaised n width len
  have before : BeforeConnect n s (s.linkRaised n width len) :=
    .of_effect (s.effect_linkRaised n width len) (by rw [line]) (by rw [line]) (by rw [line]) (by rw [line]; rfl)
  generalize s.linkRaised n width len = z at *
  obtain ⟨t, run_, connects⟩ := connects_of_done (v := .data) go before
  have after : t = s.commit (z.connect n .data) := Host.Outcome.next.inj (run_.symm.trans go)
  have only := Only.connect z n .data
  refine ⟨t, run_, connects, ?_, ?_⟩
  · have link : ((z.connect n .data).line n).link = (z.line n).link := only.of .link
    rw [after, State.line_commit, State.line_reply]
    exact link.trans (by rw [line])
  · have outputs' : (z.connect n .data).outputs = z.outputs := only.of .outputs
    rw [after]
    exact outputs'.trans outputs

end

end Sys2Proof.Machine

/-! O56, second part: INFO frames, stored or not (06 R106 to R108, R110). -/

namespace Sys2Proof.Machine

set_option Elab.async false

variable {n : LineId} {p : PumpId} {s t u y : State} {f : LinkFrame} {k : Link} {run : List Byte} {b c i : Nat} {rest : List Nat}
  {data : List Byte} {j : BitVec 7}

/-! ## The data of an INFO frame -/

theorem Wire.readFields_info {fs : List Byte} (read : Wire.readFields fs = some (.info j data)) : data ≠ [] ∧ data.length ≤ 256 := by
  unfold Wire.readFields at read
  split at read
  · exact nomatch read
  next kind fs =>
    split at read
    · split at read
      · exact nomatch read
      next x rest =>
        split at read
        next sized =>
          obtain ⟨x, -, e⟩ := Option.map_eq_some_iff.mp read
          cases e
          exact sized
        · exact nomatch read
    · split at read
      · split at read <;> exact nomatch read
      · split at read
        · split at read
          · obtain ⟨x, -, e⟩ := Option.map_eq_some_iff.mp read
            exact nomatch e
          · split at read
            · obtain ⟨x, -, e⟩ := Option.map_eq_some_iff.mp read
              exact nomatch e
            · split at read
              · obtain ⟨x, -, e⟩ := Option.map_eq_some_iff.mp read
                exact nomatch e
              · exact nomatch read
        · split at read <;> exact nomatch read
        · exact nomatch read

theorem Wire.receive_info (received : Wire.receive run = some (.info j data)) : data ≠ [] ∧ data.length ≤ 256 := by
  unfold Wire.receive at received
  split at received
  · exact nomatch received
  · unfold Wire.readContent at received
    split at received
    · exact Wire.readFields_info received
    · exact nomatch received

/-! ## An INFO frame discarded -/

/-- An INFO frame answered HOLD, `k` the link before it. -/
def State.discarded (u : State) (n : LineId) (k : Link) : State :=
  (if u.store.free = [] then (u.onLink n fun l => { l with counters := { l.counters with holds := l.counters.holds + 1 } }).raise n .poolDry
    else u.onLink n fun l => { l with counters := { l.counters with holds := l.counters.holds + 1 } }).reply n k (.hold k.expected)

theorem State.carrying_raise (s : State) (n : LineId) (e : LineEvent) : (s.raise n e).carrying n = s.carrying n :=
  State.carrying_congr (by rw [State.line_raise_self]) rfl

theorem State.discardFrame_eq (carries : u.carrying n = true) (inFlight : (u.line n).link.inFlight = k.inFlight)
    (sending : (u.line n).link.sending = k.sending) (expected : (u.line n).link.expected = k.expected)
    (ready : k.sending.isSome = true ∨ (u.line n).link.replies = []) : u.discardFrame n = u.discarded n k := by
  have line := State.line_onLink_self u n fun l => { l with counters := { l.counters with holds := l.counters.holds + 1 } }
  have carries : (u.onLink n fun l => { l with counters := { l.counters with holds := l.counters.holds + 1 } }).carrying n = true := by
    rw [State.carrying_onLink]; exact carries
  have dry : (u.onLink n fun l => { l with counters := { l.counters with holds := l.counters.holds + 1 } }).store.freeCount = 0 ↔
      u.store.free = [] := List.length_eq_zero_iff
  unfold State.discardFrame State.discarded
  dsimp only
  by_cases free : u.store.free = []
  · rw [if_pos (dry.mpr free), if_pos free]
    generalize u.onLink n _ = x at *
    have raised := State.line_raise_self x n .poolDry
    rw [raised, line]
    dsimp only
    rw [expected]
    exact State.sendReply_eq_reply (by rw [State.carrying_raise]; exact carries) (by rw [raised, line]; exact inFlight)
      (by rw [raised, line]; exact sending) (by rw [raised, line]; exact ready) _
  · rw [if_neg fun h => free (dry.mp h), if_neg free]
    generalize u.onLink n _ = x at *
    rw [line]
    dsimp only
    rw [expected]
    exact State.sendReply_eq_reply carries (by rw [line]; exact inFlight) (by rw [line]; exact sending) (by rw [line]; exact ready) _

theorem State.pending_discarded (u : State) (n : LineId) (k : Link) : (u.discarded n k).pending = u.pending := by
  rw [State.discarded, State.pending_reply]
  split <;> rfl

section
variable (w : s.Works n p) (activity : (s.pump p).activity = .carrying) (holding : (s.pump p).holding = false) (some_ : run ≠ [])
  (received : Wire.receive run = some (.info j data))
include w activity holding some_ received

/-- An INFO frame before the link is up, or after the far end has closed it. -/
theorem leads_info_away (state : (s.line n).link.state = .opening ∨ (s.line n).link.state = .farClosed) :
    Leads (.infoFrame n run) s s := by
  have good : (s.line n).link.goodFrame run = some (.info j data) := by
    rw [Link.goodFrame_info received]
    refine if_neg fun h => ?_
    rcases state with e | e <;> rw [e] at h <;> exact nomatch h.1
  have active : (s.line n).link.state.active = true := by rcases state with e | e <;> rw [e] <;> rfl
  have frame : s.frameReceived n (.info j data) = s := by rcases state with e | e <;> simp only [State.frameReceived, e]
  exact .run_of (exec_run (by simp) s) ((State.runReceived_good w activity holding some_ active good).trans frame) rfl

variable (up : (s.line n).link.state = .up) (short : data.length ≤ (s.line n).link.infoLength)
include up short

theorem exec_infoFrame : exec (.infoFrame n run) s = done s (s.infoReceived n j data) := by
  have good : (s.line n).link.goodFrame run = some (.info j data) := by
    rw [Link.goodFrame_info received]
    exact if_neg fun h => absurd h.2 (by omega)
  have active : (s.line n).link.state.active = true := by rw [up]; rfl
  rw [exec_run (c := .infoFrame n run) (n := n) (run := run) (by simp), State.runReceived_good w activity holding some_ active good]
  simp only [State.frameReceived, up]

variable (ready : (s.line n).link.sending.isSome = true ∨ (s.line n).link.replies = [])
include ready

theorem leads_info_critical (critical : (s.line n).link.critical = true) :
    Leads (.infoFrame n run) s (s.discarded n (s.line n).link) := by
  refine .run_of (exec_infoFrame w activity holding some_ received up short) ?_ (s.pending_discarded n _)
  rw [State.infoReceived]
  exact (if_pos critical).trans (State.discardFrame_eq (w.carries activity holding) rfl rfl rfl ready)

/-- The line has no room: it becomes receive-critical. -/
theorem leads_info_full (critical : (s.line n).link.critical = false) (number : j = (s.line n).link.expected)
    (full : ¬(s.store.owners.count (.recv n) + s.store.owners.count (.deliv n) < (s.line n).profile.receiveLimit ∧
      (s.line n).delivered.length < 16 ∧ s.store.free ≠ [])) :
    Leads (.infoFrame n run) s
      (((s.onLink n fun l => { l with critical := true }).raise n .critical).discarded n (s.line n).link) := by
  have room : s.hasRoom n = false := by
    refine (Bool.not_eq_true _).mp fun has => full ?_
    simp only [State.hasRoom, Bool.and_eq_true, decide_eq_true_eq] at has
    obtain ⟨⟨held, entries⟩, free⟩ := has
    exact ⟨held, entries, List.ne_nil_of_length_pos free⟩
  refine .run_of (exec_infoFrame w activity holding some_ received up short) ?_ (State.pending_discarded _ n _)
  have line := State.line_onLink_self s n fun l => { l with critical := true }
  have carries : (s.onLink n fun l => { l with critical := true }).carrying n = true := by
    rw [State.carrying_onLink]; exact w.carries activity holding
  rw [State.infoReceived]
  rw [if_neg (by rw [critical]; decide), if_pos number, if_neg (by rw [room]; decide)]
  generalize s.onLink n _ = x at *
  have raised := State.line_raise_self x n .critical
  exact State.discardFrame_eq (by rw [State.carrying_raise]; exact carries) (by rw [raised, line]) (by rw [raised, line])
    (by rw [raised, line]) (by rw [raised, line]; exact ready)

/-- A number other than the expected one. -/
theorem leads_info_other (critical : (s.line n).link.critical = false) (number : j ≠ (s.line n).link.expected) :
    (((s.line n).link.expected - j).toNat ≤ (s.line n).link.window →
      Leads (.infoFrame n run) s (s.reply n (s.line n).link (.receipt (s.line n).link.expected))) ∧
    ((s.line n).link.window < ((s.line n).link.expected - j).toNat →
      ((s.line n).link.rejectSent = true → Leads (.infoFrame n run) s s) ∧
      ((s.line n).link.rejectSent = false → Leads (.infoFrame n run) s
        ((s.onLink n fun x => { x with rejectSent := true }).reply n (s.line n).link (.reject (s.line n).link.expected)))) := by
  have go := exec_infoFrame w activity holding some_ received up short
  rw [State.infoReceived] at go
  rw [if_neg (by rw [critical]; decide), if_neg number] at go
  have carries := w.carries activity holding
  refine ⟨fun near => ?_, fun far => ⟨fun sent => ?_, fun unsent => ?_⟩⟩
  · have apart : 1 ≤ ((s.line n).link.expected - j).toNat := by
      refine Nat.one_le_iff_ne_zero.mpr fun zero => number ?_
      have : (s.line n).link.expected - j = 0 := BitVec.eq_of_toNat_eq zero
      bv_omega
    rw [if_pos ⟨apart, near⟩] at go
    exact .run_of go (State.sendReply_eq_reply carries rfl rfl ready _) (s.pending_reply n _ _)
  · rw [if_neg fun h => absurd h.2 (by omega), if_pos sent] at go
    exact .run_of go rfl rfl
  · rw [if_neg fun h => absurd h.2 (by omega), if_neg (by rw [unsent]; decide)] at go
    have line := State.line_onLink_self s n fun x => { x with rejectSent := true }
    refine .run_of go (State.sendReply_eq_reply (by rw [State.carrying_onLink]; exact carries) ?_ ?_ ?_ _) (State.pending_reply _ n _ _)
    all_goals rw [line]
    exact ready

end

/-! ## An INFO frame taken -/

/-- What an INFO frame taken makes of the link but for its reply. -/
def Link.took (idle : Nat) (l : Link) : Link :=
  { l with
    expected := l.expected + 1, rejectSent := false, idleTimer := .running idle
    counters := { l.counters with received := l.counters.received + 1 } }

/-- The state after an INFO frame taken whose data is stored in `u`, `k` the link before it. -/
def State.took (u : State) (n : LineId) (idle : Nat) (k : Link) : State :=
  (u.onLink n (Link.took idle)).reply n k (.receipt (k.expected + 1))

theorem State.line_took (u : State) (n : LineId) (idle : Nat) (k : Link) : (u.took n idle k).line n =
    { u.line n with link := ((u.line n).link.took idle).replied k (.receipt (k.expected + 1)) } := by
  rw [State.took, State.line_reply, State.line_onLink_self]

theorem State.outputs_took (u : State) (n : LineId) (idle : Nat) (k : Link) :
    (u.took n idle k).outputs = u.outputs ++ k.sends n (.receipt (k.expected + 1)) := State.outputs_reply _ n k _

theorem Only.took (u : State) (n : LineId) (idle : Nat) (k : Link) : Only n [.link, .outputs] u (u.took n idle k) := by
  have linked := Only.onLink u n (Link.took idle)
  unfold State.took
  generalize u.onLink n _ = x at *
  have reply : Only n [.link, .outputs] x (x.reply n k (.receipt (k.expected + 1))) := by
    unfold State.reply
    split
    · exact (Only.onLink x n fun l => { l with replyDue := some (.receipt (k.expected + 1)) }).mono
    · split
      · exact (Only.onLink x n fun l => { l with sending := some (.receipt (k.expected + 1)) }).trans (Only.emit _ n _)
      · exact (Only.onLink x n fun l => { l with replies := l.replies ++ [.receipt (k.expected + 1)] }).mono
  exact linked.trans reply

theorem LineEffect.took {s₀ : State} (h : LineEffect n s₀ u) (idle : Nat) (k : Link) : LineEffect n s₀ (u.took n idle k) :=
  (h.onLink n _).reply k _

theorem State.takeInfo_eq (stored : s.storeData n data = y) (link : (y.line n).link = (s.line n).link)
    (carries : y.carrying n = true)
    (ready : (s.line n).link.sending.isSome = true ∨ (s.line n).link.replies = []) :
    s.takeInfo n data = y.took n (s.line n).profile.deliveryIdle (s.line n).link := by
  have line := State.line_onLink_self y n (Link.took (s.line n).profile.deliveryIdle)
  have carries : (y.onLink n (Link.took (s.line n).profile.deliveryIdle)).carrying n = true := by
    rw [State.carrying_onLink]; exact carries
  have eq : s.takeInfo n data = (y.onLink n (Link.took (s.line n).profile.deliveryIdle)).sendReply n
      (.receipt ((y.onLink n (Link.took (s.line n).profile.deliveryIdle)).line n).link.expected) := by
    rw [State.takeInfo, stored]
    rfl
  rw [eq, State.took]
  generalize y.onLink n _ = x at *
  have expected : (x.line n).link.expected = (s.line n).link.expected + 1 := by rw [line, link]; rfl
  rw [expected]
  exact State.sendReply_eq_reply carries (by rw [line, link]; rfl) (by rw [line, link]; rfl) (by rw [line, link]; exact ready) _

end Sys2Proof.Machine

/-! Received data stored in blocks and delivered (06 R106, R110, R111; 09 R166). -/

namespace Sys2Proof.Machine

set_option Elab.async false

variable {n : LineId} {p : PumpId} {s t u y : State} {k : Link} {run : List Byte} {b c i : Nat} {rest : List Nat} {data : List Byte}
  {j : BitVec 7} {e : Entry} {before after : List Entry}

/-! ## The RECV block delivered -/

/-- No entry of the list is open for data. -/
theorem shut_of (none_ : ∀ e ∈ (s.line n).delivered, e.closed = false → e.kind ≠ .data) :
    (s.line n).delivered.any (Entry.isOpen .data) = false := by
  refine List.any_eq_false.mpr fun e he isOpen => ?_
  obtain ⟨kind, opened⟩ := Entry.isOpen_iff.mp isOpen
  exact none_ e he opened kind

/-- The line after its RECV block joined an entry, by the change of the line alone. -/
theorem State.dataJoined_eq (s : State) (n : LineId) (b : Nat) {es : List Entry}
    (joined : (((s.line n).dataEntries b).map fun e =>
      if Entry.isOpen .data e then e.join b (e.blockCount + 1) (s.store.fill b) else e) = es) :
    s.dataJoined n b = (s.onStore fun st => st.assign b (.deliv n)).onLine n fun l => { l with recvBlock := none, delivered := es } := by
  have line := s.line_dataJoined n b
  rw [joined] at line
  unfold State.dataJoined at *
  rw [State.onOpenEntry, State.onLine_onLine] at *
  rw [State.line_onLine_self] at line
  exact State.onLine_congr line

/-- An entry of data with one block. -/
def Entry.ofBlock (b bytes : Nat) (closed : Bool) : Entry := ⟨.data, b, b, 1, [b], bytes, 0, .none, 0, closed⟩

theorem State.dataJoined_new (shut : (s.line n).delivered.any (Entry.isOpen .data) = false) (b : Nat) : s.dataJoined n b =
    (s.onStore fun st => st.assign b (.deliv n)).onLine n fun l =>
      { l with recvBlock := none, delivered := (s.line n).delivered ++ [Entry.ofBlock b (s.store.fill b) false] } := by
  refine s.dataJoined_eq n b ?_
  have still : ((s.line n).delivered.map fun e =>
      if Entry.isOpen .data e then e.join b (e.blockCount + 1) (s.store.fill b) else e) = (s.line n).delivered :=
    (List.map_congr_left fun e he => if_neg (List.any_eq_false.mp shut e he)).trans (List.map_id _)
  rw [Line.dataEntries, shut, if_neg Bool.false_ne_true, List.map_append, still]
  refine congrArg ((s.line n).delivered ++ [·]) ?_
  simp [Entry.isOpen, Entry.join, Entry.ofBlock]

/-- The entry open for data, in the list with its place. -/
theorem Line.openEntry_split {l : Line} (split_ : l.delivered = before ++ e :: after) (isOpen : e.isOpen .data = true)
    (earlier : ∀ x ∈ before, x.closed = true) : l.openEntry .data = some e := by
  rw [Line.openEntry, split_, List.find?_append, List.find?_eq_none.mpr fun x hx => by simp [earlier x hx], List.find?_cons_of_pos]
  · rfl
  · obtain ⟨kind, opened⟩ := Entry.isOpen_iff.mp isOpen
    simp [kind, opened]

theorem State.deliverData_new (recv : (s.line n).recvBlock = some b) (shut : (s.line n).delivered.any (Entry.isOpen .data) = false) :
    s.deliverData n = (s.onStore fun st => st.assign b (.deliv n)).onLine n fun l =>
      { l with recvBlock := none, delivered := (s.line n).delivered ++ [Entry.ofBlock b (s.store.fill b) false] } := by
  have joined := State.dataJoined_new shut b
  have opened : ((s.dataJoined n b).line n).openEntry .data = some (Entry.ofBlock b (s.store.fill b) false) := by
    have line : ((s.dataJoined n b).line n).delivered = (s.line n).delivered ++ [Entry.ofBlock b (s.store.fill b) false] := by
      rw [joined, State.line_onLine_self]
    have none_ : (s.line n).delivered.find? (fun e => decide (e.kind = .data) && !e.closed) = none :=
      List.find?_eq_none.mpr fun e he => by
        have := List.any_eq_false.mp shut e he
        rw [Entry.isOpen_iff] at this
        simpa using this
    rw [Line.openEntry, line, List.find?_append, none_]
    rfl
  rw [← joined, State.deliverData, recv]
  change (match ((s.dataJoined n b).line n).openEntry .data with
    | some e => if 8 ≤ e.blockCount then (s.dataJoined n b).closeData n else s.dataJoined n b
    | none => s.dataJoined n b) = _
  rw [opened]
  rfl

/-! ## INFO frames stored -/

section
variable (w : s.Works n p) (activity : (s.pump p).activity = .carrying) (holding : (s.pump p).holding = false) (some_ : run ≠ [])
  (received : Wire.receive run = some (.info j data)) (up : (s.line n).link.state = .up)
  (short : data.length ≤ (s.line n).link.infoLength)
  (ready : (s.line n).link.sending.isSome = true ∨ (s.line n).link.replies = [])
  (critical : (s.line n).link.critical = false) (number : j = (s.line n).link.expected)
  (room : s.store.owners.count (.recv n) + s.store.owners.count (.deliv n) < (s.line n).profile.receiveLimit ∧
    (s.line n).delivered.length < 16 ∧ s.store.free ≠ [])
include w activity holding some_ received up short critical number room

theorem exec_info_room : exec (.infoFrame n run) s = done s (s.takeInfo n data) := by
  have has : s.hasRoom n = true := by
    obtain ⟨held, entries, free⟩ := room
    simp only [State.hasRoom, Bool.and_eq_true, decide_eq_true_eq]
    exact ⟨⟨held, entries⟩, List.length_pos_of_ne_nil free⟩
  rw [exec_infoFrame w activity holding some_ received up short, State.infoReceived, if_neg (by rw [critical]; decide), if_pos number,
    if_pos has]

include ready

/-- An INFO frame taken, its data stored in the state `y`. -/
theorem exec_info_taken (stored : s.storeData n data = y) (link : (y.line n).link = (s.line n).link)
    (call : (y.line n).call = (s.line n).call) (pumps : y.pumps = s.pumps) :
    exec (.infoFrame n run) s = done s (y.took n (s.line n).profile.deliveryIdle (s.line n).link) := by
  have carries : y.carrying n = true := (State.carrying_congr (congrArg CallRecord.pump call) pumps).trans (w.carries activity holding)
  rw [exec_info_room w activity holding some_ received up short critical number room, State.takeInfo_eq stored link carries ready]

variable (sound : s.Sound)
include sound

/-- Data for which the RECV block has more than enough room. -/
theorem leads_info_append (recv : (s.line n).recvBlock = some b) (fits : s.store.fill b + data.length < 1016) :
    Leads (.infoFrame n run) s
      ((s.onStore fun st => st.append b data).took n (s.line n).profile.deliveryIdle (s.line n).link) := by
  have stored := (State.storeData_fits recv (Nat.le_of_lt fits)).trans (State.filled_short sound.canonical fits)
  exact Leads.of_done (exec_info_taken w activity holding some_ received up short ready critical number room stored rfl rfl rfl) rfl
    (State.pending_reply _ n _ _)

/-- Data that fills the RECV block, where no entry is open. -/
theorem leads_info_fills (recv : (s.line n).recvBlock = some b)
    (none_ : ∀ e ∈ (s.line n).delivered, e.closed = false → e.kind ≠ .data) (full : s.store.fill b + data.length = 1016) :
    Leads (.infoFrame n run) s (((s.onStore fun st => (st.append b data).assign b (.deliv n)).onLine n fun l =>
      { l with recvBlock := none, delivered := l.delivered ++ [Entry.ofBlock b 1016 false] }).took n
        (s.line n).profile.deliveryIdle (s.line n).link) := by
  have fill : (s.onStore fun st => st.append b data).store.fill b = 1016 :=
    (Store.fill_append sound.canonical (Nat.le_of_eq full)).trans full
  have delivers := State.deliverData_new (s := s.onStore fun st => st.append b data) (n := n) (b := b) recv (shut_of none_)
  rw [fill] at delivers
  have stored := ((State.storeData_fits recv (Nat.le_of_eq full)).trans (State.filled_full sound.canonical full)).trans delivers
  exact Leads.of_done (exec_info_taken w activity holding some_ received up short ready critical number room stored
    (by rw [State.line_onLine_self]; rfl) (by rw [State.line_onLine_self]; rfl) rfl) rfl (State.pending_reply _ n _ _)

/-- Data of a line without RECV block, in a block begun for it. -/
theorem exec_info_begun (recv : (s.line n).recvBlock = none) (free : s.store.free = b :: rest) (less : data.length < 1016) :
    ∃ u, State.Begun s n .data b rest u ∧ (s.storeData n data = u.onStore fun st => st.append b data) ∧
      exec (.infoFrame n run) s =
        done s ((u.onStore fun st => st.append b data).took n (s.line n).profile.deliveryIdle (s.line n).link) := by
  have fitted : b < 496 := sound.lt_of_free (by rw [free]; exact List.mem_cons_self)
  obtain ⟨u, pop, begun⟩ := State.popRecv_eq (n := n) sound.canonical fitted free .data .plain
  have stored := (State.storeData_begun recv pop begun (Nat.le_of_lt less)).trans
    (State.filled_short begun.wf (by rw [begun.fill]; omega))
  refine ⟨u, begun, stored, exec_info_taken w activity holding some_ received up short ready critical number room stored ?_ ?_ ?_⟩
  · rw [State.line_onStore, begun.line]
  · rw [State.line_onStore, begun.line]
  · exact begun.only.of .pumps

/-- Data that the RECV block does not hold: the block delivered full, the rest in a block begun for it (R106). -/
theorem exec_info_spills (recv : (s.line n).recvBlock = some b)
    (none_ : ∀ e ∈ (s.line n).delivered, e.closed = false → e.kind ≠ .data) (filled : s.store.fill b ≤ 1016)
    (more : 1016 < s.store.fill b + data.length) (free : s.store.free = c :: rest) :
    ∃ y u, (y = ((s.onStore fun st => st.append b (data.take (1016 - s.store.fill b))).onStore fun st =>
        st.assign b (.deliv n)).onLine n fun l =>
          { l with recvBlock := none, delivered := (s.line n).delivered ++ [Entry.ofBlock b 1016 false] }) ∧
      State.Begun y n .data c rest u ∧ data.drop (1016 - s.store.fill b) ≠ [] ∧
      exec (.infoFrame n run) s =
        done s ((u.onStore fun st => st.append c (data.drop (1016 - s.store.fill b))).took n
          (s.line n).profile.deliveryIdle (s.line n).link) := by
  obtain ⟨-, atMost⟩ := Wire.receive_info received
  have wf := sound.canonical
  have part : (data.take (1016 - s.store.fill b)).length = 1016 - s.store.fill b := by rw [List.length_take]; omega
  have left : (data.drop (1016 - s.store.fill b)).length = data.length - (1016 - s.store.fill b) := List.length_drop
  have full : s.store.fill b + (data.take (1016 - s.store.fill b)).length = 1016 := by omega
  have some' : data.drop (1016 - s.store.fill b) ≠ [] := List.ne_nil_of_length_pos (by omega)
  have fill : (s.onStore fun st => st.append b (data.take (1016 - s.store.fill b))).store.fill b = 1016 :=
    (Store.fill_append wf (Nat.le_of_eq full)).trans full
  have delivers := State.deliverData_new (s := s.onStore fun st => st.append b (data.take (1016 - s.store.fill b))) (n := n) (b := b)
    recv (shut_of none_)
  rw [fill] at delivers
  have wf' : Memory.wf (s.store.append b (data.take (1016 - s.store.fill b))).mem = true := Store.wf_append wf _ _
  generalize made : (((s.onStore fun st => st.append b (data.take (1016 - s.store.fill b))).onStore fun st =>
    st.assign b (.deliv n)).onLine n fun l =>
      { l with recvBlock := none, delivered := (s.line n).delivered ++ [Entry.ofBlock b 1016 false] }) = y
  have first : s.storeSome n data = (y, data.drop (1016 - s.store.fill b)) :=
    (State.storeSome_some recv data).trans (congrArg (Prod.mk · _) ((State.filled_full wf full).trans (delivers.trans made)))
  have store : y.store = (s.store.append b (data.take (1016 - s.store.fill b))).assign b (.deliv n) := by rw [← made]; rfl
  have line : y.line n = { s.line n with
      recvBlock := none, delivered := (s.line n).delivered ++ [Entry.ofBlock b 1016 false] } := by
    rw [← made, State.line_onLine_self]; rfl
  have pumps : y.pumps = s.pumps := by rw [← made]; rfl
  have free' : y.store.free = c :: rest := by rw [store, Store.free_assign]; exact free
  obtain ⟨u, pop, begun⟩ := State.popRecv_eq (n := n) (s := y) (by rw [store]; exact Store.wf_assign wf' _ _)
    (sound.lt_of_free (by rw [free]; exact List.mem_cons_self)) free' .data .plain
  have second : (y.storeSome n (data.drop (1016 - s.store.fill b))).1 =
      u.onStore fun st => st.append c (data.drop (1016 - s.store.fill b)) := by
    have here : (u.line n).recvBlock = some c := by rw [begun.line]
    rw [State.storeSome_none (by rw [line]) pop here, begun.fill, List.take_of_length_le (by omega)]
    exact State.filled_short begun.wf (by rw [begun.fill]; omega)
  have stored : s.storeData n data = u.onStore fun st => st.append c (data.drop (1016 - s.store.fill b)) := by
    rw [State.storeData, first]
    exact (if_neg some').trans second
  refine ⟨y, u, rfl, begun, some', exec_info_taken w activity holding some_ received up short ready critical number room stored ?_ ?_ ?_⟩
  · rw [State.line_onStore, begun.line, line]
  · rw [State.line_onStore, begun.line, line]
  · have same : u.pumps = y.pumps := begun.only.of .pumps
    exact same.trans pumps

end

/-! ## What an INFO frame taken leaves -/

theorem State.line_took_commit (s y : State) (n : LineId) (idle : Nat) (k : Link) :
    ∃ c, (s.commit (y.took n idle k)).line n =
      { y.line n with link := ((y.line n).link.took idle).replied k (.receipt (k.expected + 1)), changeCount := c } := by
  rw [State.line_commit, State.line_took]
  exact ⟨_, rfl⟩

theorem State.store_took (y : State) (n : LineId) (idle : Nat) (k : Link) : (y.took n idle k).store = y.store :=
  (Only.took y n idle k).of .store

/-- The link and what is sent depend on the link and outputs before alone. -/
theorem State.took_congr {idle : Nat} (link : (y.line n).link = (s.line n).link) (outputs : y.outputs = s.outputs) (x : State) :
    ((x.commit (y.took n idle k)).line n).link = ((s.took n idle k).line n).link ∧
      (x.commit (y.took n idle k)).outputs = (s.took n idle k).outputs := by
  obtain ⟨c, line⟩ := x.line_took_commit y n idle k
  refine ⟨?_, ?_⟩
  · rw [line, State.line_took, link]
  · have same : (x.commit (y.took n idle k)).outputs = (y.took n idle k).outputs := rfl
    rw [same, State.outputs_took, State.outputs_took, outputs]

end Sys2Proof.Machine

/-! O56, third part: LINK-CLOSE and the delivery idle expiry (06 R109, R111, R113; 09 R166). -/

namespace Sys2Proof.Machine

set_option Elab.async false

variable {n : LineId} {p : PumpId} {s t u y : State} {k : Link} {run : List Byte} {b c i : Nat} {rest : List Nat} {data : List Byte}
  {j : BitVec 7} {e : Entry} {before after : List Entry} {f : Link → Link}

/-! ## Entries closed and removed -/

/-- The open DATA entry of a list closed. -/
def Entry.closing (e : Entry) : Entry := if e.kind = .data ∧ e.closed = false then { e with closed := true } else e

theorem State.removeEntries_kept (kept : ∀ e ∈ (s.line n).delivered, e.outstanding ≠ []) : s.removeEntries n = s := by
  rw [State.removeEntries]
  refine if_pos (congrArg List.length (List.filter_eq_self.mpr fun e he => ?_))
  have some_ : e.outstanding.isEmpty = false := (Bool.not_eq_true _).mp fun h => kept e he (List.isEmpty_iff.mp h)
  rw [some_, Bool.and_false]
  rfl

/-- The open DATA entry closed, its blocks outstanding. -/
theorem State.closeData_kept (isOpen : (s.line n).delivered.any (Entry.isOpen .data) = true)
    (kept : ∀ e ∈ (s.line n).delivered, e.outstanding ≠ []) :
    s.closeData n = (s.onLine n fun l => { l with delivered := l.delivered.map Entry.closing }).raise n .recv := by
  have isSome : ((s.line n).openEntry .data).isSome = true := by rw [Line.openEntry_isSome, isOpen]
  obtain ⟨e, here⟩ := Option.isSome_iff_exists.mp isSome
  have eq : s.closeData n =
      ((s.onLine n fun l => { l with delivered := l.delivered.map Entry.closing }).raise n .recv).removeEntries n := by
    rw [State.closeData, here]
    rfl
  rw [eq]
  refine State.removeEntries_kept fun e he => ?_
  rw [State.line_raise_self, State.line_onLine_self] at he
  obtain ⟨d, hd, rfl⟩ := List.mem_map.mp he
  unfold Entry.closing
  split
  · exact kept d hd
  · exact kept d hd

/-- The open DATA entry gone, all of its blocks returned before. -/
theorem State.closeData_gone (split_ : (s.line n).delivered = before ++ e :: after) (kind : e.kind = .data) (opened : e.closed = false)
    (returned : e.outstanding = []) (others : ∀ x ∈ before ++ after, x.closed = true ∧ x.outstanding ≠ []) :
    s.closeData n = ((s.onLine n fun l => { l with delivered := before ++ after }).raise n .recv).criticalExit n := by
  have isOpen : e.isOpen .data = true := Entry.isOpen_iff.mpr ⟨kind, opened⟩
  have here := Line.openEntry_split split_ isOpen fun x hx => (others x (List.mem_append_left _ hx)).1
  have still : ∀ xs : List Entry, (∀ x ∈ xs, x ∈ before ++ after) → xs.map Entry.closing = xs := fun xs sub =>
    (List.map_congr_left fun x hx => if_neg fun h => Bool.false_ne_true (h.2.symm.trans (others x (sub x hx)).1)).trans (List.map_id xs)
  have closed : (s.line n).delivered.map Entry.closing = before ++ { e with closed := true } :: after := by
    rw [split_, List.map_append, List.map_cons, still before fun x hx => List.mem_append_left _ hx,
      still after fun x hx => List.mem_append_right _ hx, Entry.closing, if_pos ⟨kind, opened⟩]
  have line : ((s.onLine n fun l => { l with delivered := l.delivered.map Entry.closing }).raise n .recv).line n =
      { s.line n with delivered := before ++ { e with closed := true } :: after, ev := (s.line n).ev.raise LineEvent.recv.bit } := by
    rw [State.line_raise_self, State.line_onLine_self, closed]
  have kept : ∀ xs : List Entry, (∀ x ∈ xs, x ∈ before ++ after) → xs.filter (fun e => !(e.closed && e.outstanding.isEmpty)) = xs :=
    fun xs sub => List.filter_eq_self.mpr fun x hx => by
      have := (others x (sub x hx)).2
      simp [this]
  have left : (before ++ { e with closed := true } :: after).filter (fun e => !(e.closed && e.outstanding.isEmpty)) = before ++ after := by
    rw [List.filter_append, List.filter_cons_of_neg (by simp [returned]), kept before fun x hx => List.mem_append_left _ hx,
      kept after fun x hx => List.mem_append_right _ hx]
  have eq : s.closeData n =
      ((s.onLine n fun l => { l with delivered := l.delivered.map Entry.closing }).raise n .recv).removeEntries n := by
    rw [State.closeData, here]
    rfl
  rw [eq, State.removeEntries]
  rw [line]
  dsimp only
  rw [left, if_neg (by simp)]
  refine congrArg (fun x : State => x.criticalExit n) ?_
  rw [State.raise, State.raise, State.onLine_onLine, State.onLine_onLine, State.onLine_onLine]

/-! ## The exit from receive-critical -/

theorem State.criticalExit_stays (stays : s.mayLeaveCritical n = false) : s.criticalExit n = s := if_neg (by rw [stays]; decide)

theorem State.criticalExit_quietly (leaves : s.mayLeaveCritical n = true) (closed : (s.line n).link.state = .farClosed) :
    s.criticalExit n = s.onLink n fun x => { x with critical := false, rejectSent := false } := by
  have line := State.line_onLink_self s n fun x => { x with critical := false, rejectSent := false }
  rw [State.criticalExit, if_pos leaves]
  exact if_pos (by rw [line]; exact closed)

theorem State.criticalExit_replies (leaves : s.mayLeaveCritical n = true) (open_ : (s.line n).link.state ≠ .farClosed)
    (carries : s.carrying n = true) (inFlight : (s.line n).link.inFlight = k.inFlight) (sending : (s.line n).link.sending = k.sending)
    (ready : k.sending.isSome = true ∨ (s.line n).link.replies = []) :
    s.criticalExit n = (s.onLink n fun x => { x with critical := false, rejectSent := false }).reply n k
      (.receipt (s.line n).link.expected) := by
  have line := State.line_onLink_self s n fun x => { x with critical := false, rejectSent := false }
  rw [State.criticalExit, if_pos leaves]
  refine (if_neg (by rw [line]; exact open_)).trans ?_
  rw [line]
  exact State.sendReply_eq_reply (by rw [State.carrying_onLink]; exact carries) (by rw [line]; exact inFlight)
    (by rw [line]; exact sending) (by rw [line]; exact ready) _

/-! ## LINK-CLOSE and the idle expiry -/

/-- The command flushes the line's received data, after a change of its link. -/
structure Flushes (c : Instr) (n : LineId) (f : Link → Link) (s : State) : Prop where
  run : exec c s = done s (((s.onLink n f).deliverData n).closeData n)
  critical : (f (s.line n).link).critical = (s.line n).link.critical
  inFlight : (f (s.line n).link).inFlight = (s.line n).link.inFlight
  sending : (f (s.line n).link).sending = (s.line n).link.sending
  expected : (f (s.line n).link).expected = (s.line n).link.expected
  replies : (s.line n).link.replies = [] → (f (s.line n).link).replies = []

theorem flushes_idle (runs : (s.line n).link.idleTimer.isRunning = true) :
    Flushes (.deliveryIdleExpiry n) n (fun x => { x with idleTimer := .stopped }) s :=
  ⟨congrArg (done s) (if_pos runs), rfl, rfl, rfl, rfl, id⟩

theorem flushes_linkClose (w : s.Works n p) (activity : (s.pump p).activity = .carrying) (holding : (s.pump p).holding = false)
    (some_ : run ≠ []) (received : Wire.receive run = some .linkClose) (up : (s.line n).link.state = .up) :
    Flushes (.linkCloseFrame n run) n (fun x =>
      { x with
        state := .farClosed, replyTimer := .stopped, holdTimer := .stopped, idleTimer := .stopped, resends := []
        replies := x.replies.filter fun r => match r with | .linkOpen _ _ => true | _ => false }) s := by
  have good := Link.goodFrame_of (k := (s.line n).link) received fun _ _ e => nomatch e
  have active : (s.line n).link.state.active = true := by rw [up]; rfl
  have frame : s.frameReceived n .linkClose = s.farClose n := by simp only [State.frameReceived, up]
  refine ⟨?_, rfl, rfl, rfl, rfl, fun replies => by dsimp only; rw [replies]; rfl⟩
  rw [exec_run (c := .linkCloseFrame n run) (n := n) (run := run) (by simp), State.runReceived_good w activity holding some_ active good,
    frame, State.farClose, State.flush, State.onLink_onLink]
  rfl

section
variable {c : Instr} (h : Flushes c n f s)
include h

theorem Flushes.leads_nothing (recv : (s.line n).recvBlock = none)
    (none_ : ∀ e ∈ (s.line n).delivered, e.closed = false → e.kind ≠ .data) : Leads c s (s.onLink n f) := by
  have line := State.line_onLink_self s n f
  have delivers : (s.onLink n f).deliverData n = s.onLink n f := by
    rw [State.deliverData, line]
    simp only [recv]
  refine .run_of h.run ?_ rfl
  rw [delivers]
  exact State.closeData_none (by rw [line]; exact shut_of none_)

theorem Flushes.leads_block {b : Nat} (recv : (s.line n).recvBlock = some b)
    (none_ : ∀ e ∈ (s.line n).delivered, e.closed = false → e.kind ≠ .data)
    (settled : ∀ e ∈ (s.line n).delivered, e.outstanding ≠ []) :
    Leads c s ((((s.onLink n f).onStore fun st => st.assign b (.deliv n)).onLine n fun l =>
      { l with recvBlock := none, delivered := l.delivered ++ [Entry.ofBlock b (s.store.fill b) true] }).raise n .recv) := by
  have line := State.line_onLink_self s n f
  have shut := shut_of none_
  have delivers := State.deliverData_new (s := s.onLink n f) (n := n) (b := b) (by rw [line]; exact recv) (by rw [line]; exact shut)
  rw [line] at delivers
  dsimp only at delivers
  have line' := State.line_onLine_self ((s.onLink n f).onStore fun st => st.assign b (.deliv n)) n fun l =>
    { l with recvBlock := none, delivered := (s.line n).delivered ++ [Entry.ofBlock b ((s.onLink n f).store.fill b) false] }
  refine .run_of h.run ?_ rfl
  rw [delivers, State.closeData_kept (by rw [line']; simp [Entry.isOpen, Entry.ofBlock]) (by
    rw [line']
    intro e he
    rcases List.mem_append.mp he with old | new
    · exact settled e old
    · rw [List.mem_singleton.mp new]; exact List.cons_ne_nil _ _)]
  rw [State.onLine_onLine]
  refine congrArg (fun x : State => x.raise n .recv) ?_
  refine State.onLine_congr ?_
  have still : (s.line n).delivered.map Entry.closing = (s.line n).delivered :=
    (List.map_congr_left fun e he => if_neg fun k => none_ e he k.2 k.1).trans (List.map_id _)
  dsimp only [Function.comp_apply]
  rw [List.map_append, still, State.line_onStore, line]
  rfl

theorem Flushes.leads_entry (recv : (s.line n).recvBlock = none)
    (some_ : ¬∀ e ∈ (s.line n).delivered, e.closed = false → e.kind ≠ .data)
    (settled : ∀ e ∈ (s.line n).delivered, e.outstanding ≠ []) :
    Leads c s (((s.onLink n f).onLine n fun l => { l with delivered := l.delivered.map Entry.closing }).raise n .recv) := by
  have line := State.line_onLink_self s n f
  have isOpen : (s.line n).delivered.any (Entry.isOpen .data) = true := by
    refine (Bool.not_eq_false _).mp fun shut => some_ fun e he opened kind => ?_
    exact List.any_eq_false.mp shut e he (Entry.isOpen_iff.mpr ⟨kind, opened⟩)
  have delivers : (s.onLink n f).deliverData n = s.onLink n f := by
    rw [State.deliverData, line]
    simp only [recv]
  refine .run_of h.run ?_ rfl
  rw [delivers]
  exact State.closeData_kept (by rw [line]; exact isOpen) (by rw [line]; exact settled)

/-- The open entry, all of its blocks returned, leaves the list, and the line may leave receive-critical. -/
theorem Flushes.leads_gone (recv : (s.line n).recvBlock = none) (split_ : (s.line n).delivered = before ++ e :: after)
    (kind : e.kind = .data) (opened : e.closed = false) (returned : e.outstanding = [])
    (others : ∀ x ∈ before ++ after, x.closed = true ∧ x.outstanding ≠ [])
    {gone : State} (eq : gone = ((s.onLink n f).onLine n fun l => { l with delivered := before ++ after }).raise n .recv)
    {ends : Prop} (iff : ends ↔ (s.line n).link.critical = true ∧ (before ++ after).length < 16 ∧ s.store.free ≠ [] ∧
      s.store.owners.count (.recv n) + s.store.owners.count (.deliv n) ≤ (s.line n).profile.receiveLimit - 2) :
    (¬ends → Leads c s gone) ∧
    (ends → (f (s.line n).link).state = .farClosed →
      Leads c s (gone.onLink n fun x => { x with critical := false, rejectSent := false })) ∧
    (ends → (f (s.line n).link).state ≠ .farClosed → s.carrying n = true →
      (s.line n).link.sending.isSome = true ∨ (s.line n).link.replies = [] →
      Leads c s ((gone.onLink n fun x => { x with critical := false, rejectSent := false }).reply n (s.line n).link
        (.receipt (s.line n).link.expected))) := by
  have line := State.line_onLink_self s n f
  have delivers : (s.onLink n f).deliverData n = s.onLink n f := by
    rw [State.deliverData, line]
    simp only [recv]
  have run := h.run
  rw [delivers, State.closeData_gone (by rw [line]; exact split_) kind opened returned others, ← eq] at run
  have line' : gone.line n = { s.line n with
      link := f (s.line n).link, delivered := before ++ after, ev := (s.line n).ev.raise LineEvent.recv.bit } := by
    rw [eq, State.line_raise_self, State.line_onLine_self, line]
  have store : gone.store = s.store := by rw [eq]; rfl
  have pumps : gone.pumps = s.pumps := by rw [eq]; rfl
  have pending : gone.pending = s.pending := by rw [eq]; rfl
  have leaves : gone.mayLeaveCritical n = true ↔ ends := by
    rw [iff]
    simp only [State.mayLeaveCritical, State.heldBlocks, Store.countOwned, Store.freeCount, store, line', h.critical, Bool.and_eq_true,
      decide_eq_true_eq, List.length_pos_iff]
    constructor
    · rintro ⟨⟨⟨a, b⟩, c⟩, d⟩
      exact ⟨a, c, d, b⟩
    · rintro ⟨a, c, d, b⟩
      exact ⟨⟨⟨a, b⟩, c⟩, d⟩
  refine ⟨fun stays => ?_, fun leave closed => ?_, fun leave open_ carries ready => ?_⟩
  · exact .run_of run (State.criticalExit_stays ((Bool.not_eq_true _).mp fun k => stays (leaves.mp k))) pending
  · exact .run_of run (State.criticalExit_quietly (leaves.mpr leave) (by rw [line']; exact closed)) pending
  · have exit_ := State.criticalExit_replies (k := (s.line n).link) (leaves.mpr leave) (by rw [line']; exact open_)
      ((State.carrying_congr (by rw [line']) pumps).trans carries) (by rw [line']; exact h.inFlight) (by rw [line']; exact h.sending)
      (by rw [line']; exact ready.imp id h.replies)
    rw [line'] at exit_
    dsimp only at exit_
    rw [h.expected] at exit_
    exact .run_of run exit_ ((State.pending_reply _ n _ _).trans pending)

end

/-! ## The whole -/

section
variable (w : s.Works n p) (activity : (s.pump p).activity = .carrying) (holding : (s.pump p).holding = false) (some_ : run ≠ [])
  (received : Wire.receive run = some (.info j data)) (up : (s.line n).link.state = .up)
  (short : data.length ≤ (s.line n).link.infoLength)
  (ready : (s.line n).link.sending.isSome = true ∨ (s.line n).link.replies = [])
  (critical : (s.line n).link.critical = false) (number : j = (s.line n).link.expected)
  (room : s.store.owners.count (.recv n) + s.store.owners.count (.deliv n) < (s.line n).profile.receiveLimit ∧
    (s.line n).delivered.length < 16 ∧ s.store.free ≠ [])
  (sound : s.Sound)
include w activity holding some_ received up short ready critical number room sound

theorem infoFrame_begins {b : Nat} (recv : (s.line n).recvBlock = none) (free : s.store.free = b :: rest) :
    ∃ t, exec (.infoFrame n run) s = .next t ∧
      t.store.free = rest ∧ t.store.owners = s.store.owners.set b (.recv n) ∧ (t.line n).recvBlock = some b ∧
      t.store.fill b = data.length ∧ (∀ i (h : i < data.length), t.store.payload b i = data[i]) ∧
      (t.line n).delivered = (s.line n).delivered ∧
      (t.line n).link = ((s.took n (s.line n).profile.deliveryIdle (s.line n).link).line n).link ∧
      t.outputs = (s.took n (s.line n).profile.deliveryIdle (s.line n).link).outputs := by
  obtain ⟨-, atMost⟩ := Wire.receive_info received
  obtain ⟨u, begun, -, go⟩ := exec_info_begun w activity holding some_ received up short ready critical number room sound recv free (by omega)
  have line : (u.onStore fun st => st.append b data).line n = { s.line n with recvBlock := some b } := begun.line
  have fill : (u.onStore fun st => st.append b data).store.fill b = data.length := by
    refine (Store.fill_append begun.wf (by rw [begun.fill]; omega)).trans ?_
    rw [begun.fill, Nat.zero_add]
  have payload : ∀ i (h : i < data.length), (u.onStore fun st => st.append b data).store.payload b i = data[i] := fun i h => by
    have new := Store.payload_append_new begun.wf (b := b) h
    rwa [begun.fill, Nat.zero_add] at new
  have free' : (u.onStore fun st => st.append b data).store.free = rest := begun.free
  have owners : (u.onStore fun st => st.append b data).store.owners = s.store.owners.set b (.recv n) := begun.owners
  have outputs : (u.onStore fun st => st.append b data).outputs = s.outputs := begun.only.of .outputs
  generalize (u.onStore fun st => st.append b data) = y at *
  obtain ⟨x, last⟩ := s.line_took_commit y n (s.line n).profile.deliveryIdle (s.line n).link
  obtain ⟨link, sent⟩ := State.took_congr (k := (s.line n).link) (idle := (s.line n).profile.deliveryIdle) (by rw [line]) outputs s
  have store : (s.commit (y.took n (s.line n).profile.deliveryIdle (s.line n).link)).store = y.store := y.store_took n _ _
  refine ⟨_, go, by rw [store, free'], by rw [store, owners], by rw [last, line], by rw [store, fill],
    fun i h => by rw [store]; exact payload i h, by rw [last, line], link, sent⟩

theorem infoFrame_spills {b c : Nat} (recv : (s.line n).recvBlock = some b) (owned : s.store.owners[b]? = some (.recv n))
    (none_ : ∀ e ∈ (s.line n).delivered, e.closed = false → e.kind ≠ .data) (filled : s.store.fill b ≤ 1016)
    (more : 1016 < s.store.fill b + data.length) (free : s.store.free = c :: rest) :
    ∃ t, exec (.infoFrame n run) s = .next t ∧ t.store.free = rest ∧
      t.store.owners = (s.store.owners.set b (.deliv n)).set c (.recv n) ∧ (t.line n).recvBlock = some c ∧
      (t.line n).delivered = (s.line n).delivered ++ [Entry.ofBlock b 1016 false] ∧ t.store.next b = c ∧
      t.store.fill c = data.length - (1016 - s.store.fill b) ∧
      (∀ i (h : i < data.length), (if i < 1016 - s.store.fill b then t.store.payload b (s.store.fill b + i)
        else t.store.payload c (i - (1016 - s.store.fill b))) = data[i]) ∧
      (t.line n).link = ((s.took n (s.line n).profile.deliveryIdle (s.line n).link).line n).link ∧
      t.outputs = (s.took n (s.line n).profile.deliveryIdle (s.line n).link).outputs := by
  obtain ⟨-, atMost⟩ := Wire.receive_info received
  obtain ⟨y, u, made, begun, -, go⟩ := exec_info_spills w activity holding some_ received up short ready critical number room sound recv
    none_ filled more free
  have wf := sound.canonical
  have less : b < s.store.owners.length := (List.getElem?_eq_some_iff.mp owned).1
  have apart : b ≠ c := by
    rintro rfl
    have here : s.store.owners[b]? = some .free := (sound.economy.2 b).mp (by rw [free]; exact List.mem_cons_self)
    rw [owned] at here
    exact nomatch here
  have few := sound.few
  have part : (data.take (1016 - s.store.fill b)).length = 1016 - s.store.fill b := by rw [List.length_take]; omega
  have left : (data.drop (1016 - s.store.fill b)).length = data.length - (1016 - s.store.fill b) := List.length_drop
  have stored : y.store = (s.store.append b (data.take (1016 - s.store.fill b))).assign b (.deliv n) := by rw [made]; rfl
  have line : y.line n = { s.line n with
      recvBlock := none, delivered := (s.line n).delivered ++ [Entry.ofBlock b 1016 false] } := by
    rw [made, State.line_onLine_self]; rfl
  have owners : y.store.owners = s.store.owners.set b (.deliv n) := by
    rw [stored]
    exact Store.owners_assign (st := s.store.append b _) _ owned (fun e => nomatch e)
  have same : Store.Same b (s.store.append b (data.take (1016 - s.store.fill b))) y.store := by
    rw [stored]
    exact Store.same_assign (Store.wf_append wf _ _) few b b _
  have opened : (y.line n).openEntry .data = some (Entry.ofBlock b 1016 false) := by
    rw [line, Line.openEntry_eq]
    dsimp only
    rw [List.find?_append, List.find?_eq_none.mpr fun e he => List.any_eq_false.mp (shut_of none_) e he]
    rfl
  have held : y.store.owners[b]? = some (.deliv n) := by rw [owners, List.getElem?_set_self less]
  have linked : u.store.next b = c := begun.linked _ opened apart held
  have room_ : u.store.fill c + (data.drop (1016 - s.store.fill b)).length ≤ 1016 := by rw [begun.fill]; omega
  have later : Store.Same b u.store (u.store.append c (data.drop (1016 - s.store.fill b))) := Store.same_append begun.wf apart room_
  have next : (u.store.append c (data.drop (1016 - s.store.fill b))).next b = c := later.next.trans linked
  have fill : (u.store.append c (data.drop (1016 - s.store.fill b))).fill c = data.length - (1016 - s.store.fill b) := by
    rw [Store.fill_append begun.wf room_, begun.fill, left, Nat.zero_add]
  have payload : ∀ i (h : i < data.length), (if i < 1016 - s.store.fill b
      then (u.store.append c (data.drop (1016 - s.store.fill b))).payload b (s.store.fill b + i)
      else (u.store.append c (data.drop (1016 - s.store.fill b))).payload c (i - (1016 - s.store.fill b))) = data[i] := fun i h => by
    split
    next before =>
      have inside : s.store.fill b + i < 1016 := by omega
      rw [later.payload inside, begun.payloads b _ apart inside, same.payload inside,
        Store.payload_append_new wf (by rw [part]; exact before), List.getElem_take]
    next behind =>
      have new := Store.payload_append_new begun.wf (b := c) (bs := data.drop (1016 - s.store.fill b)) (i := i - (1016 - s.store.fill b))
        (by rw [left]; omega)
      rw [begun.fill, Nat.zero_add] at new
      rw [new, List.getElem_drop]
      exact getElem_congr_idx (by omega)
  have line' : (u.onStore fun st => st.append c (data.drop (1016 - s.store.fill b))).line n =
      { s.line n with recvBlock := some c, delivered := (s.line n).delivered ++ [Entry.ofBlock b 1016 false] } := by
    rw [State.line_onStore, begun.line, line]
  have store' : (u.onStore fun st => st.append c (data.drop (1016 - s.store.fill b))).store =
      u.store.append c (data.drop (1016 - s.store.fill b)) := rfl
  have outputs : (u.onStore fun st => st.append c (data.drop (1016 - s.store.fill b))).outputs = s.outputs := by
    have one : u.outputs = y.outputs := begun.only.of .outputs
    have two : y.outputs = s.outputs := by rw [made]; rfl
    exact one.trans two
  have free' : (u.store.append c (data.drop (1016 - s.store.fill b))).free = rest := begun.free
  have owners' : (u.store.append c (data.drop (1016 - s.store.fill b))).owners = (s.store.owners.set b (.deliv n)).set c (.recv n) := by
    rw [Store.owners_append, begun.owners, owners]
  generalize (u.onStore fun st => st.append c (data.drop (1016 - s.store.fill b))) = z at *
  generalize u.store.append c (data.drop (1016 - s.store.fill b)) = st at *
  obtain ⟨x, last⟩ := s.line_took_commit z n (s.line n).profile.deliveryIdle (s.line n).link
  obtain ⟨link, sent⟩ := State.took_congr (k := (s.line n).link) (idle := (s.line n).profile.deliveryIdle) (by rw [line']) outputs s
  have store : (s.commit (z.took n (s.line n).profile.deliveryIdle (s.line n).link)).store = st := (z.store_took n _ _).trans store'
  exact ⟨_, go, by rw [store, free'], by rw [store, owners'], by rw [last, line'], by rw [last, line'], by rw [store, next],
    by rw [store, fill], fun i h => by rw [store]; exact payload i h, link, sent⟩

end

/-- Settles O56: a run of bytes by the frame it carries and the state of the link, and LINK-CLOSE and the idle expiry by the Delivered
List they find. -/
theorem linkReceiving : Obligations.LinkReceiving := by
  refine ⟨fun n c run s h away => leads_run_discarded h away, fun n p run s w activity holding some_ => ?_⟩
  refine ⟨fun active bad => leads_frameBad w activity holding some_ (by simp) active (Link.goodFrame_none bad),
    fun width len received ready => ⟨connects_linkOpen w activity holding some_ received ready,
      leads_linkOpen_again w activity holding some_ received ready⟩, fun j data received => ⟨?_, ?_, ?_⟩, fun c f kind => ?_⟩
  · exact leads_info_away w activity holding some_ received
  · intro up long
    refine leads_frameBad w activity holding some_ (by simp) (by rw [up]; rfl) ?_
    rw [Link.goodFrame_info received, if_pos ⟨up, long⟩]
  · intro up short ready
    refine ⟨leads_info_critical w activity holding some_ received up short ready,
      fun critical number full => leads_info_full w activity holding some_ received up short ready critical number full,
      leads_info_other w activity holding some_ received up short ready, fun critical number room sound => ⟨?_, ?_, ?_, ?_⟩⟩
    · exact fun b => leads_info_append w activity holding some_ received up short ready critical number room sound
    · exact fun b recv _ none_ full =>
        leads_info_fills w activity holding some_ received up short ready critical number room sound recv none_ full
    · exact fun b rest recv free => infoFrame_begins w activity holding some_ received up short ready critical number room sound recv free
    · exact fun b c rest recv owned none_ filled more free =>
        infoFrame_spills w activity holding some_ received up short ready critical number room sound recv owned none_ filled more free
  · have flushes : Flushes c n f s := by
      rcases kind with ⟨rfl, received, up, rfl⟩ | ⟨rfl, runs, rfl⟩
      · exact flushes_linkClose w activity holding some_ received up
      · exact flushes_idle runs
    refine ⟨flushes.leads_nothing, fun b recv _ none_ settled => flushes.leads_block recv none_ settled, flushes.leads_entry,
      fun before e after recv split_ dataKind opened returned others => ?_⟩
    obtain ⟨stays, quiet, replies⟩ := flushes.leads_gone recv split_ dataKind opened returned others rfl Iff.rfl
    exact ⟨stays, quiet, fun ends open_ ready => replies ends open_ (w.carries activity holding) ready⟩

end Sys2Proof.Machine

/-! O58: received blocks and open entries (06 R106, R110, R111, R113; 07 R125 to R127; 09 R158, R159, R165). -/

namespace Sys2Proof.Machine

set_option Elab.async false

variable {n : LineId} {p : PumpId} {s t u x y : State} {k : Link} {run : List Byte} {b c i : Nat} {rest : List Nat} {data : List Byte}
  {j : BitVec 7} {e : Entry} {before after : List Entry} {f : Link → Link}

/-! ## The RECV block joined to an open entry -/

section
variable (split_ : (s.line n).delivered = before ++ e :: after) (kind : e.kind = .data) (opened : e.closed = false)
  (others : ∀ x ∈ before ++ after, x.closed = true ∧ x.outstanding ≠ [])
include split_ kind opened others

/-- The entries with the block joined to the open one. -/
theorem State.dataJoined_entry (b : Nat) : s.dataJoined n b = (s.onStore fun st => st.assign b (.deliv n)).onLine n fun l =>
    { l with recvBlock := none, delivered := before ++ e.join b (e.blockCount + 1) (s.store.fill b) :: after } := by
  have isOpen : e.isOpen .data = true := Entry.isOpen_iff.mpr ⟨kind, opened⟩
  have some_ : (s.line n).delivered.any (Entry.isOpen .data) = true := List.any_eq_true.mpr ⟨e, by rw [split_]; simp, isOpen⟩
  have still : ∀ xs : List Entry, (∀ x ∈ xs, x ∈ before ++ after) →
      (xs.map fun e => if Entry.isOpen .data e then e.join b (e.blockCount + 1) (s.store.fill b) else e) = xs := fun xs sub =>
    (List.map_congr_left fun x hx => if_neg fun h =>
      Bool.false_ne_true ((Entry.isOpen_iff.mp h).2.symm.trans (others x (sub x hx)).1)).trans (List.map_id xs)
  refine s.dataJoined_eq n b ?_
  rw [Line.dataEntries, if_pos some_, split_, List.map_append, List.map_cons, still before fun x hx => List.mem_append_left _ hx,
    still after fun x hx => List.mem_append_right _ hx, if_pos isOpen]

/-- With the block joined, every entry has a block outstanding. -/
theorem State.dataJoined_kept (b : Nat) : ∀ x ∈ ((s.dataJoined n b).line n).delivered, x.outstanding ≠ [] := by
  rw [State.dataJoined_entry split_ kind opened others b, State.line_onLine_self]
  intro x hx
  rcases List.mem_append.mp hx with early | late
  · exact (others x (List.mem_append_left _ early)).2
  · rcases List.mem_cons.mp late with rfl | late
    · exact List.append_ne_nil_of_right_ne_nil _ (List.cons_ne_nil _ _)
    · exact (others x (List.mem_append_right _ late)).2

theorem State.dataJoined_open (b : Nat) :
    ((s.dataJoined n b).line n).openEntry .data = some (e.join b (e.blockCount + 1) (s.store.fill b)) := by
  refine Line.openEntry_split (before := before) (after := after) ?_ (Entry.isOpen_iff.mpr ⟨kind, opened⟩) fun x hx =>
    (others x (List.mem_append_left _ hx)).1
  rw [State.dataJoined_entry split_ kind opened others b, State.line_onLine_self]

/-- The block joined and the entry closed, RECV raised. -/
def State.dataClosed (s : State) (n : LineId) (b : Nat) : State :=
  ((s.dataJoined n b).onLine n fun l => { l with delivered := l.delivered.map Entry.closing }).raise n .recv

theorem State.closeData_dataJoined (b : Nat) : (s.dataJoined n b).closeData n = s.dataClosed n b := by
  refine State.closeData_kept ?_ (State.dataJoined_kept split_ kind opened others b)
  have isSome := ((s.dataJoined n b).line n).openEntry_isSome .data
  rw [State.dataJoined_open split_ kind opened others b] at isSome
  exact isSome.symm

theorem State.deliverData_entry (recv : (s.line n).recvBlock = some b) :
    s.deliverData n = if 8 ≤ e.blockCount + 1 then s.dataClosed n b else s.dataJoined n b := by
  have eq : s.deliverData n = match ((s.dataJoined n b).line n).openEntry .data with
      | some e => if 8 ≤ e.blockCount then (s.dataJoined n b).closeData n else s.dataJoined n b
      | none => s.dataJoined n b := by
    rw [State.deliverData, recv]
    rfl
  rw [eq, State.dataJoined_open split_ kind opened others b, ← State.closeData_dataJoined split_ kind opened others b]
  rfl

theorem State.line_dataClosed (b : Nat) : (s.dataClosed n b).line n = { s.line n with
    recvBlock := none
    delivered := before ++ { e.join b (e.blockCount + 1) (s.store.fill b) with closed := true } :: after
    ev := (s.line n).ev.raise LineEvent.recv.bit } := by
  have still : ∀ xs : List Entry, (∀ x ∈ xs, x ∈ before ++ after) → xs.map Entry.closing = xs := fun xs sub =>
    (List.map_congr_left fun x hx => if_neg fun h => Bool.false_ne_true (h.2.symm.trans (others x (sub x hx)).1)).trans (List.map_id xs)
  have now : (e.join b (e.blockCount + 1) (s.store.fill b)).closing = { e.join b (e.blockCount + 1) (s.store.fill b) with closed := true } :=
    if_pos ⟨kind, opened⟩
  have line : (s.dataJoined n b).line n = { s.line n with
      recvBlock := none, delivered := before ++ e.join b (e.blockCount + 1) (s.store.fill b) :: after } := by
    rw [State.dataJoined_entry split_ kind opened others b, State.line_onLine_self, State.line_onStore]
  rw [State.dataClosed, State.line_raise_self, State.line_onLine_self, line]
  dsimp only
  rw [List.map_append, List.map_cons, still before fun x hx => List.mem_append_left _ hx,
    still after fun x hx => List.mem_append_right _ hx, now]

/-- The flush of a block that joins the open entry: the entry closed at the eighth block or now. -/
theorem State.flush_entry (recv : (s.line n).recvBlock = some b) : (s.deliverData n).closeData n = s.dataClosed n b := by
  have line := State.line_dataClosed split_ kind opened others b
  rw [State.deliverData_entry split_ kind opened others recv]
  split
  · refine State.closeData_none ?_
    rw [line]
    refine List.any_eq_false.mpr fun x hx isOpen => ?_
    have opened := (Entry.isOpen_iff.mp isOpen).2
    rcases List.mem_append.mp hx with early | late
    · rw [(others x (List.mem_append_left _ early)).1] at opened; exact nomatch opened
    · rcases List.mem_cons.mp late with rfl | late
      · exact nomatch opened
      · rw [(others x (List.mem_append_right _ late)).1] at opened; exact nomatch opened
  · exact State.closeData_dataJoined split_ kind opened others b

end

theorem State.store_dataClosed (s : State) (n : LineId) (b : Nat) : (s.dataClosed n b).store = s.store.assign b (.deliv n) := rfl

/-! ## INFO frames -/

theorem Only.takeInfo_stored (stored : s.storeData n data = y) : Only n [.link, .outputs] y (s.takeInfo n data) := by
  rw [State.takeInfo, stored]
  exact (Only.onLink y n _).trans (Only.sendReply _ n _)

theorem State.expected_sendReply (s : State) (n : LineId) (f : LinkFrame) :
    ((s.sendReply n f).line n).link.expected = (s.line n).link.expected := by
  have expected := congrArg Link.expected (s.besides_sendReply n f)
  exact expected

theorem State.expected_takeInfo (stored : s.storeData n data = y) :
    ((s.takeInfo n data).line n).link.expected = (y.line n).link.expected + 1 := by
  have replied : ((s.takeInfo n data).line n).link.expected =
      ((y.onLink n (Link.took (s.line n).profile.deliveryIdle)).line n).link.expected := by
    rw [State.takeInfo, stored]
    exact State.expected_sendReply (y.onLink n (Link.took (s.line n).profile.deliveryIdle)) n _
  rw [replied, State.line_onLink_self]
  rfl

section
variable (w : s.Works n p) (activity : (s.pump p).activity = .carrying) (holding : (s.pump p).holding = false) (sound : s.Sound)
  (received : Wire.receive run = some (.info j data)) (up : (s.line n).link.state = .up)
  (critical : (s.line n).link.critical = false) (number : j = (s.line n).link.expected)
  (short : data.length ≤ (s.line n).link.infoLength) (some_ : run ≠ [])
  (room : s.store.owners.count (.recv n) + s.store.owners.count (.deliv n) < (s.line n).profile.receiveLimit ∧
    (s.line n).delivered.length < 16 ∧ s.store.free ≠ [])
include w activity holding sound received up critical number short some_ room

/-- The RECV block filled joins the open entry, which the eighth block closes. -/
theorem infoFrame_joins (split_ : (s.line n).delivered = before ++ e :: after) (kind : e.kind = .data) (opened : e.closed = false)
    (others : ∀ x ∈ before ++ after, x.closed = true ∧ x.outstanding ≠ []) (recv : (s.line n).recvBlock = some b)
    (owned : s.store.owners[b]? = some (.recv n)) (full : s.store.fill b + data.length = 1016) :
    ∃ t, exec (.infoFrame n run) s = .next t ∧ State.Aside n s t ∧ State.Steady s t ∧ (t.line n).recvBlock = none ∧
      t.store.owners = s.store.owners.set b (.deliv n) ∧ t.store.free = s.store.free ∧ t.hdr.ev = s.hdr.ev ∧
      (t.line n).link.expected = (s.line n).link.expected + 1 ∧
      (t.line n).delivered = before ++
        { e with
          last := b, blockCount := e.blockCount + 1, outstanding := e.outstanding ++ [b], count := e.count + 1016
          closed := decide (8 ≤ e.blockCount + 1) } :: after ∧
      (8 ≤ e.blockCount + 1 → (t.line n).ev.bits.getLsbD 8 = true) := by
  have go := exec_info_room w activity holding some_ received up short critical number room
  have effect : LineEffect n s (s.takeInfo n data) := LineEffect.refl.takeInfo data
  have fill : (s.onStore fun st => st.append b data).store.fill b = 1016 :=
    (Store.fill_append sound.canonical (Nat.le_of_eq full)).trans full
  have stored := ((State.storeData_fits recv (Nat.le_of_eq full)).trans (State.filled_full sound.canonical full))
  have joined := State.dataJoined_entry (s := s.onStore fun st => st.append b data) (n := n) split_ kind opened others b
  have closed := State.line_dataClosed (s := s.onStore fun st => st.append b data) (n := n) split_ kind opened others b
  rw [State.deliverData_entry (s := s.onStore fun st => st.append b data) (n := n) split_ kind opened others recv] at stored
  rw [fill] at joined closed
  have owners : ((s.store.append b data).assign b (.deliv n)).owners = s.store.owners.set b (.deliv n) :=
    Store.owners_assign (st := s.store.append b data) _ owned (fun e => nomatch e)
  have free : ((s.store.append b data).assign b (.deliv n)).free = s.store.free := Store.free_assign _ _ _
  obtain ⟨y, made⟩ : ∃ y, (if 8 ≤ e.blockCount + 1 then (s.onStore fun st => st.append b data).dataClosed n b
    else (s.onStore fun st => st.append b data).dataJoined n b) = y := ⟨_, rfl⟩
  rw [made] at stored
  have line : ∃ ev, y.line n = { s.line n with
      recvBlock := none, ev := ev
      delivered := before ++ { e.join b (e.blockCount + 1) 1016 with closed := decide (8 ≤ e.blockCount + 1) } :: after } ∧
      (8 ≤ e.blockCount + 1 → ev.bits.getLsbD 8 = true) := by
    rw [← made]
    by_cases eight : 8 ≤ e.blockCount + 1
    · rw [if_pos eight, closed, decide_eq_true eight]
      exact ⟨_, rfl, fun _ => by simp [EventWord.raise, LineEvent.bit, bitWord]⟩
    · rw [if_neg eight, joined, State.line_onLine_self, decide_eq_false eight]
      refine ⟨(s.line n).ev, ?_, fun h => absurd h eight⟩
      rw [← opened]
      rfl
  have store : y.store = (s.store.append b data).assign b (.deliv n) := by
    rw [← made]
    split
    · exact State.store_dataClosed _ n b
    · rw [joined]; rfl
  have event : y.hdr.ev = s.hdr.ev := by
    rw [← made]
    split
    · rfl
    · rw [joined]; rfl
  obtain ⟨ev, line, raised⟩ := line
  have only := Only.takeInfo_stored stored
  have expected := State.expected_takeInfo stored
  have committed := State.line_commit s (s.takeInfo n data) n
  generalize s.takeInfo n data = z at *
  have store' : z.store = y.store := only.of .store
  have event' : z.hdr.ev = y.hdr.ev := only.of .event
  have recv' : (z.line n).recvBlock = (y.line n).recvBlock := only.of .recv
  have delivered' : (z.line n).delivered = (y.line n).delivered := only.of .delivered
  have ev' : (z.line n).ev = (y.line n).ev := only.of .ev
  refine ⟨s.commit z, go, effect.commit.aside, effect.commit.steady, ?_, ?_, ?_, event'.trans event, ?_, ?_, fun eight => ?_⟩
  · rw [committed]; exact recv'.trans (by rw [line])
  · exact (congrArg Store.owners (store'.trans store)).trans owners
  · exact (congrArg Store.free (store'.trans store)).trans free
  · rw [committed]; exact expected.trans (by rw [line])
  · rw [committed]; exact delivered'.trans (by rw [line]; rfl)
  · rw [committed]
    exact (congrArg (fun v : EventWord => v.bits.getLsbD 8) (ev'.trans (by rw [line]))).trans (raised eight)

/-- A block popped while an entry is open. -/
theorem infoFrame_numbers (split_ : (s.line n).delivered = before ++ e :: after) (kind : e.kind = .data) (opened : e.closed = false)
    (others : ∀ x ∈ before ++ after, x.closed = true) (recv : (s.line n).recvBlock = none) (free : s.store.free = b :: rest)
    (apart : e.last ≠ b) (less : data.length < 1016) :
    ∃ t, exec (.infoFrame n run) s = .next t ∧ (t.line n).recvBlock = some b ∧ t.store.free = rest ∧
      t.store.next b = 65535 ∧ t.store.fill b = data.length ∧
      Memory.word t.store.mem (0x4000 + 1024 * b + 6) = e.blockCount % 65536 ∧
      (s.store.owners[e.last]? = some (.deliv n) → t.store.next e.last = b) ∧ (t.line n).delivered = (s.line n).delivered := by
  have go := exec_info_room w activity holding some_ received up short critical number room
  have here : (s.line n).openEntry .data = some e :=
    Line.openEntry_split split_ (Entry.isOpen_iff.mpr ⟨kind, opened⟩) fun x hx => others x (List.mem_append_left _ hx)
  obtain ⟨u, pop, begun⟩ := State.popRecv_eq (n := n) sound.canonical
    (sound.lt_of_free (by rw [free]; exact List.mem_cons_self)) free .data .plain
  have stored := (State.storeData_begun recv pop begun (Nat.le_of_lt less)).trans (State.filled_short begun.wf (by rw [begun.fill]; omega))
  have fits : u.store.fill b + data.length ≤ 1016 := by rw [begun.fill]; omega
  have fill : (u.store.append b data).fill b = data.length := by
    rw [Store.fill_append begun.wf fits, begun.fill, Nat.zero_add]
  have next : (u.store.append b data).next b = 65535 :=
    (Store.next_append begun.wf b data).trans (begun.next fun x hx => by rw [here] at hx; cases hx; exact apart)
  have seq : Memory.word (u.store.append b data).mem (blockAddr b + 6) = e.blockCount % 65536 := by
    rw [Store.seq_append begun.wf, begun.seq, here]
    rfl
  have linked : s.store.owners[e.last]? = some (.deliv n) → (u.store.append b data).next e.last = b := fun held =>
    (Store.same_append begun.wf apart fits).next.trans (begun.linked e here apart held)
  have only := Only.takeInfo_stored stored
  have committed := State.line_commit s (s.takeInfo n data) n
  have line : (u.onStore fun st => st.append b data).line n = { s.line n with recvBlock := some b } := begun.line
  generalize s.takeInfo n data = z at *
  have store : z.store = u.store.append b data := only.of .store
  have recv' : (z.line n).recvBlock = ((u.onStore fun st => st.append b data).line n).recvBlock := only.of .recv
  have delivered' : (z.line n).delivered = ((u.onStore fun st => st.append b data).line n).delivered := only.of .delivered
  have store' : (s.commit z).store = u.store.append b data := store
  refine ⟨s.commit z, go, ?_, ?_, ?_, ?_, ?_, fun held => ?_, ?_⟩
  · rw [committed]; exact recv'.trans (by rw [line])
  · rw [store']; exact begun.free
  · rw [store', next]
  · rw [store', fill]
  · rw [store']; exact seq
  · rw [store']; exact linked held
  · rw [committed]; exact delivered'.trans (by rw [line])

/-- A pop for received data and POOL_LOW. -/
theorem infoFrame_event (recv : (s.line n).recvBlock = none) (less : data.length < 1016) :
    ∃ t, exec (.infoFrame n run) s = .next t ∧ t.hdr.ev = s.popEvent := by
  have go := exec_info_room w activity holding some_ received up short critical number room
  obtain ⟨b, rest, free⟩ := List.exists_cons_of_ne_nil room.2.2
  obtain ⟨u, pop, begun⟩ := State.popRecv_eq (n := n) sound.canonical
    (sound.lt_of_free (by rw [free]; exact List.mem_cons_self)) free .data .plain
  have stored := (State.storeData_begun recv pop begun (Nat.le_of_lt less)).trans (State.filled_short begun.wf (by rw [begun.fill]; omega))
  have event : (s.takeInfo n data).hdr.ev = u.hdr.ev := (Only.takeInfo_stored stored).of .event
  exact ⟨_, go, event.trans begun.event⟩

end

/-! ## The flush -/

theorem Flushes.joins {c : Instr} (h : Flushes c n f s) (split_ : (s.line n).delivered = before ++ e :: after) (kind : e.kind = .data)
    (opened : e.closed = false) (others : ∀ x ∈ before ++ after, x.closed = true ∧ x.outstanding ≠ [])
    (recv : (s.line n).recvBlock = some b) :
    ∃ t, exec c s = .next t ∧ State.Aside n s t ∧ State.Steady s t ∧ (t.line n).recvBlock = none ∧
      t.store = s.store.assign b (.deliv n) ∧ (t.line n).ev.bits.getLsbD 8 = true ∧
      (t.line n).delivered = before ++
        { e with
          last := b, blockCount := e.blockCount + 1, outstanding := e.outstanding ++ [b], count := e.count + s.store.fill b
          closed := true } :: after := by
  have line := State.line_onLink_self s n f
  have run := h.run
  have effect : LineEffect n s (((s.onLink n f).deliverData n).closeData n) := (LineEffect.refl.onLink n f).deliverData.closeData
  have closed := State.line_dataClosed (s := s.onLink n f) (n := n) (by rw [line]; exact split_) kind opened others b
  rw [State.flush_entry (by rw [line]; exact split_) kind opened others (by rw [line]; exact recv)] at run effect
  have store := (s.onLink n f).store_dataClosed n b
  have committed := State.line_commit s ((s.onLink n f).dataClosed n b) n
  generalize (s.onLink n f).dataClosed n b = z at *
  refine ⟨s.commit z, run, effect.commit.aside, effect.commit.steady, ?_, store, ?_, ?_⟩
  · rw [committed]; exact congrArg Line.recvBlock closed
  · rw [committed]
    refine (congrArg (fun l : Line => l.ev.bits.getLsbD 8) closed).trans ?_
    simp [EventWord.raise, LineEvent.bit, bitWord]
  · rw [committed]; exact congrArg Line.delivered closed

end Sys2Proof.Machine

/-! O58, second part: the blocks of a page, its rows and its end (07 R125 to R127; 09 R158, R159), and the pops that raise nothing. -/

namespace Sys2Proof.Machine

set_option Elab.async false

variable {n : LineId} {p : PumpId} {s t u x y : State} {b c i : Nat} {rest : List Nat} {g : OpenPage} {row : List Byte} {damaged : Bool}
  {before after : List Entry} {e : Entry}

/-! ## The page's entry -/

theorem State.faxAs_of {r : FaxRole} (w : s.Works n p) (activity : (s.pump p).activity = .carrying) (holding : (s.pump p).holding = false)
    (fax : (s.line n).connectedAs .fax = true) (role : (s.line n).fax.role = r) : s.faxAs n r = true := by
  simp [State.faxAs, State.faxLive, fax, role, w.carries activity holding]

section
variable (split_ : (s.line n).delivered = before ++ e :: after) (kind : e.kind = .page) (opened : e.closed = false)
  (others : ∀ x ∈ before ++ after, x.closed = true)
include split_ kind opened others

/-- The open entry of a page, in the list with its place, changed alone. -/
theorem Entry.map_open (h : Entry → Entry) :
    ((s.line n).delivered.map fun x => if Entry.isOpen .page x then h x else x) = before ++ h e :: after := by
  have still : ∀ xs : List Entry, (∀ x ∈ xs, x ∈ before ++ after) → (xs.map fun x => if Entry.isOpen .page x then h x else x) = xs :=
    fun xs sub => (List.map_congr_left fun x hx => if_neg fun isOpen =>
      Bool.false_ne_true ((Entry.isOpen_iff.mp isOpen).2.symm.trans (others x (sub x hx)))).trans (List.map_id xs)
  rw [split_, List.map_append, List.map_cons, still before fun x hx => List.mem_append_left _ hx,
    still after fun x hx => List.mem_append_right _ hx, if_pos (Entry.isOpen_iff.mpr ⟨kind, opened⟩)]

theorem State.openEntry_page : (s.line n).openEntry .page = some e := by
  rw [Line.openEntry_eq, split_, List.find?_append, List.find?_eq_none.mpr fun x hx isOpen =>
    Bool.false_ne_true ((Entry.isOpen_iff.mp isOpen).2.symm.trans (others x (List.mem_append_left _ hx))),
    List.find?_cons_of_pos (Entry.isOpen_iff.mpr ⟨kind, opened⟩)]
  rfl

/-- The RECV block of a page joins the page's entry. -/
theorem State.deliverPage_entry (few : e.blockCount < 65535) (recv : (s.line n).recvBlock = some b) :
    State.Delivers n (s.store.assign b (.deliv n)) (before ++ e.joined b :: after) (s.line n).fax (s.deliverPage n) := by
  have isOpen : e.isOpen .page = true := Entry.isOpen_iff.mpr ⟨kind, opened⟩
  have any_ : (s.line n).delivered.any (Entry.isOpen .page) = true := List.any_eq_true.mpr ⟨e, by rw [split_]; simp, isOpen⟩
  have joins := State.deliverPage_joins recv (.inl any_) fun x hx open_ => by
    rw [split_] at hx
    rcases List.mem_append.mp hx with early | late
    · rw [others x (List.mem_append_left _ early)] at open_; exact nomatch open_
    · rcases List.mem_cons.mp late with rfl | late
      · exact few
      · rw [others x (List.mem_append_right _ late)] at open_; exact nomatch open_
  rw [Line.pageEntries, if_pos any_, Entry.map_open split_ kind opened others fun x => x.joined b] at joins
  exact joins

/-- The page's entry closed with its counts, every entry having a block outstanding. -/
theorem State.closePage_entry (held : ∀ x ∈ e :: (before ++ after), x.outstanding ≠ []) (v : Verdict) (rows badRows : Nat) :
    s.closePage n v rows badRows = s.onLine n fun l =>
      { l with delivered := before ++ { e with count := rows, badRows := badRows, verdict := v, closed := true } :: after } := by
  have changed := Entry.map_open split_ kind opened others fun x =>
    { x with count := rows, badRows := badRows, verdict := v, closed := true }
  have entry : (s.onOpenEntry n .page fun e => { e with count := rows, badRows := badRows, verdict := v, closed := true }) =
      s.onLine n fun l =>
        { l with delivered := before ++ { e with count := rows, badRows := badRows, verdict := v, closed := true } :: after } := by
    refine State.onLine_congr ?_
    dsimp only
    rw [← changed]
    congr 1
    refine List.map_congr_left fun x _ => ?_
    by_cases isOpen : x.isOpen .page = true
    · rw [if_pos (Entry.isOpen_iff.mp isOpen), if_pos isOpen]
    · rw [if_neg fun k => isOpen (Entry.isOpen_iff.mpr k), if_neg isOpen]
  rw [State.closePage, entry]
  refine State.removeEntries_kept fun x hx => ?_
  rw [State.line_onLine_self] at hx
  rcases List.mem_append.mp hx with early | late
  · exact held x (.tail _ (List.mem_append_left _ early))
  · rcases List.mem_cons.mp late with rfl | late
    · exact held e (.head _)
    · exact held x (.tail _ (List.mem_append_right _ late))

end

/-! ## Rows -/

theorem length_rowRecord (damaged : Bool) (row : List Byte) : (rowRecord damaged (row.take 1014)).length = 2 + min row.length 1014 := by
  rw [rowRecord, List.length_append, List.length_take, Nat.min_comm]
  rfl

theorem Only.countRow (s : State) (n : LineId) (d : Bool) : Only n [.fax, .draws] s (s.countRow n d) :=
  (Only.onFax s n _).trans (Only.draw _ n)

/-- The row record of a received row. -/
def pageRecord (damaged : Bool) (row : List Byte) : List Byte := rowRecord (damaged || decide (1014 < row.length)) (row.take 1014)

section
variable (fax : s.faxAs n .receiver = true) (work : (s.line n).fax.work = .pageIn)
include fax work

theorem exec_pageRow : exec (.pageRow n damaged row) s = done s ((s.storeRow n (pageRecord damaged row)).1.countRow n
    (damaged || decide (1014 < row.length) || (s.storeRow n (pageRecord damaged row)).2)) := by
  have run : exec (.pageRow n damaged row) s = done s (s.rowReceived n damaged row) := rfl
  rw [run, State.rowReceived, if_pos ⟨fax, work⟩]
  rfl

end

section
variable (page : (s.line n).fax.page = some g) (stands : g.discarded = false)
include page stands

theorem Fax.pageGone_false {f : Fax} (same : f = (s.line n).fax) : f.pageGone = false := by
  rw [same, Fax.pageGone, page]
  exact stands

/-- A row record stored in a block begun for it. -/
theorem State.storeRow_begun (recv : (s.line n).recvBlock = none) (pop : s.popRecv n .page .rows = some u)
    (begun : State.Begun s n .page b rest u) (r : List Byte) : s.storeRow n r = (u.onStore fun st => st.append b r, false) := by
  have gone := Fax.pageGone_false page stands rfl
  have room : s.rowRoom n r.length = s := by rw [State.rowRoom, recv]
  have here : (u.line n).recvBlock = some b := by rw [begun.line]
  simp only [State.storeRow, gone, room, recv, pop, here, Bool.false_eq_true, if_false]

/-- A row record lost for want of a block. -/
theorem State.storeRow_lost (recv : (s.line n).recvBlock = none) (free : s.store.free = []) (r : List Byte) :
    s.storeRow n r = (s.raise n .poolDry, true) := by
  have gone := Fax.pageGone_false page stands rfl
  have room : s.rowRoom n r.length = s := by rw [State.rowRoom, recv]
  have pop : s.popRecv n .page .rows = none := by
    have take : s.store.take (.recv n) = none := Store.take_eq_none.mpr free
    have pop : s.pop (.recv n) = none := by rw [State.pop, take]
    rw [State.popRecv, pop]
  simp only [State.storeRow, gone, room, recv, pop, Bool.false_eq_true, if_false]

/-- A row record that needs the RECV block delivered first. -/
theorem State.storeRow_delivers {r : List Byte} (recv : (s.line n).recvBlock = some b) (full : 1016 < s.store.fill b + r.length)
    (delivered : ((s.deliverPage n).line n).recvBlock = none ∧ ((s.deliverPage n).line n).fax = (s.line n).fax) :
    s.storeRow n r = (s.deliverPage n).storeRow n r := by
  obtain ⟨none_, same⟩ := delivered
  have gone := Fax.pageGone_false page stands rfl
  have gone' := Fax.pageGone_false page stands same
  have room : s.rowRoom n r.length = s.deliverPage n := by
    rw [State.rowRoom, recv]
    exact if_neg (by omega)
  have room' : (s.deliverPage n).rowRoom n r.length = s.deliverPage n := by rw [State.rowRoom, none_]
  simp only [State.storeRow, gone, gone', room, room', Bool.false_eq_true, if_false]

end

/-- The page's block is full: it joins the page's entry, and the record goes into a block begun for it. -/
theorem pageRow_delivers (fax : s.faxAs n .receiver = true) (work : (s.line n).fax.work = .pageIn) (sound : s.Sound)
    (page : (s.line n).fax.page = some g) (stands : g.discarded = false) (split_ : (s.line n).delivered = before ++ e :: after)
    (kind : e.kind = .page) (opened : e.closed = false) (others : ∀ x ∈ before ++ after, x.closed = true) (few : e.blockCount < 65535)
    (recv : (s.line n).recvBlock = some b) (owned : s.store.owners[b]? = some (.recv n))
    (full : 1016 < s.store.fill b + (2 + min row.length 1014)) (free : s.store.free = c :: rest) :
    ∃ t, exec (.pageRow n damaged row) s = .next t ∧ (t.line n).recvBlock = some c ∧ t.store.free = rest ∧
      t.store.owners = (s.store.owners.set b (.deliv n)).set c (.recv n) ∧ t.store.next b = c ∧
      Memory.word t.store.mem (0x4000 + 1024 * c + 6) = e.blockCount + 1 ∧ (t.line n).delivered = before ++ e.joined b :: after := by
  have go := exec_pageRow (damaged := damaged) (row := row) fax work
  have length : (pageRecord damaged row).length = 2 + min row.length 1014 := length_rowRecord _ row
  have delivers := State.deliverPage_entry split_ kind opened others few recv
  rw [State.storeRow_delivers page stands recv (by rw [length]; exact full) ⟨delivers.recv, delivers.fax⟩] at go
  have less : b < s.store.owners.length := (List.getElem?_eq_some_iff.mp owned).1
  have apart : b ≠ c := by
    rintro rfl
    have here : s.store.owners[b]? = some .free := (sound.economy.2 b).mp (by rw [free]; exact List.mem_cons_self)
    rw [owned] at here
    exact nomatch here
  have owners : (s.store.assign b (.deliv n)).owners = s.store.owners.set b (.deliv n) := Store.owners_assign _ owned fun e => nomatch e
  generalize s.deliverPage n = y at *
  have wf : Memory.wf y.store.mem = true := by rw [delivers.store]; exact Store.wf_assign sound.canonical _ _
  have free' : y.store.free = c :: rest := by rw [delivers.store, Store.free_assign]; exact free
  have here : (y.line n).openEntry .page = some (e.joined b) :=
    State.openEntry_page (before := before) (after := after) delivers.delivered kind opened others
  have held : y.store.owners[b]? = some (.deliv n) := by rw [delivers.store, owners, List.getElem?_set_self less]
  obtain ⟨u, pop, begun⟩ := State.popRecv_eq (n := n) wf (sound.lt_of_free (by rw [free]; exact List.mem_cons_self)) free' .page .rows
  rw [State.storeRow_begun (s := y) (g := g) (by rw [delivers.fax]; exact page) stands delivers.recv pop begun] at go
  dsimp only at go
  have fits : u.store.fill c + (pageRecord damaged row).length ≤ 1016 := by rw [begun.fill, length]; omega
  have next : (u.store.append c (pageRecord damaged row)).next b = c :=
    (Store.same_append begun.wf apart fits).next.trans (begun.linked _ here apart held)
  have seq : Memory.word (u.store.append c (pageRecord damaged row)).mem (blockAddr c + 6) = e.blockCount + 1 := by
    rw [Store.seq_append begun.wf, begun.seq, here]
    exact Nat.mod_eq_of_lt (by change e.blockCount + 1 < 65536; omega)
  have counted := Only.countRow (u.onStore fun st => st.append c (pageRecord damaged row)) n
    (damaged || decide (1014 < row.length) || false)
  have line : (u.onStore fun st => st.append c (pageRecord damaged row)).line n = { y.line n with recvBlock := some c } := begun.line
  have free'' : (u.store.append c (pageRecord damaged row)).free = rest := begun.free
  have owners' : (u.store.append c (pageRecord damaged row)).owners = (s.store.owners.set b (.deliv n)).set c (.recv n) := by
    rw [Store.owners_append, begun.owners, delivers.store, owners]
  have committed := State.line_commit s ((u.onStore fun st => st.append c (pageRecord damaged row)).countRow n
    (damaged || decide (1014 < row.length) || false)) n
  generalize (u.onStore fun st => st.append c (pageRecord damaged row)).countRow n _ = z at *
  have store : (s.commit z).store = u.store.append c (pageRecord damaged row) := counted.of .store
  have recv' : (z.line n).recvBlock = ((u.onStore fun st => st.append c (pageRecord damaged row)).line n).recvBlock := counted.of .recv
  have delivered' : (z.line n).delivered = ((u.onStore fun st => st.append c (pageRecord damaged row)).line n).delivered :=
    counted.of .delivered
  refine ⟨s.commit z, go, ?_, by rw [store, free''], by rw [store, owners'], by rw [store, next], by rw [store]; exact seq, ?_⟩
  · rw [committed]; exact recv'.trans (by rw [line])
  · rw [committed]; exact delivered'.trans (by rw [line]; exact delivers.delivered)

/-- The page's block is full and no other is free: the block joins the page's entry all the same, and the row is lost. -/
theorem pageRow_dry (fax : s.faxAs n .receiver = true) (work : (s.line n).fax.work = .pageIn)
    (page : (s.line n).fax.page = some g) (stands : g.discarded = false) (split_ : (s.line n).delivered = before ++ e :: after)
    (kind : e.kind = .page) (opened : e.closed = false) (others : ∀ x ∈ before ++ after, x.closed = true) (few : e.blockCount < 65535)
    (recv : (s.line n).recvBlock = some b) (full : 1016 < s.store.fill b + (2 + min row.length 1014)) (free : s.store.free = []) :
    ∃ t, exec (.pageRow n damaged row) s = .next t ∧ (t.line n).recvBlock = none ∧ t.store = s.store.assign b (.deliv n) ∧
      (t.line n).delivered = before ++ e.joined b :: after ∧ (t.line n).ev.bits.getLsbD 13 = true := by
  have go := exec_pageRow (damaged := damaged) (row := row) fax work
  have length : (pageRecord damaged row).length = 2 + min row.length 1014 := length_rowRecord _ row
  have delivers := State.deliverPage_entry split_ kind opened others few recv
  rw [State.storeRow_delivers page stands recv (by rw [length]; exact full) ⟨delivers.recv, delivers.fax⟩] at go
  generalize s.deliverPage n = y at *
  rw [State.storeRow_lost (s := y) (g := g) (by rw [delivers.fax]; exact page) stands delivers.recv
    (by rw [delivers.store, Store.free_assign]; exact free)] at go
  dsimp only at go
  have counted := Only.countRow (y.raise n .poolDry) n (damaged || decide (1014 < row.length) || true)
  have line := State.line_raise_self y n .poolDry
  have stored : (y.raise n .poolDry).store = y.store := rfl
  generalize y.raise n .poolDry = x at *
  have committed := State.line_commit s (x.countRow n (damaged || decide (1014 < row.length) || true)) n
  generalize x.countRow n _ = z at *
  have store : (s.commit z).store = x.store := counted.of .store
  have recv' : (z.line n).recvBlock = (x.line n).recvBlock := counted.of .recv
  have delivered' : (z.line n).delivered = (x.line n).delivered := counted.of .delivered
  have ev' : (z.line n).ev = (x.line n).ev := counted.of .ev
  refine ⟨s.commit z, go, ?_, store.trans (stored.trans delivers.store), ?_, ?_⟩
  · rw [committed]; exact recv'.trans (by rw [line]; exact delivers.recv)
  · rw [committed]; exact delivered'.trans (by rw [line]; exact delivers.delivered)
  · rw [committed]
    refine (congrArg (fun v : EventWord => v.bits.getLsbD 13) (ev'.trans (by rw [line]))).trans ?_
    simp [EventWord.raise, LineEvent.bit, bitWord]

/-- A pop for a row and POOL_LOW. -/
theorem pageRow_event (fax : s.faxAs n .receiver = true) (work : (s.line n).fax.work = .pageIn) (sound : s.Sound)
    (page : (s.line n).fax.page = some g) (stands : g.discarded = false) (recv : (s.line n).recvBlock = none)
    (free : s.store.free = b :: rest) : ∃ t, exec (.pageRow n damaged row) s = .next t ∧ t.hdr.ev = s.popEvent := by
  have go := exec_pageRow (damaged := damaged) (row := row) fax work
  obtain ⟨u, pop, begun⟩ := State.popRecv_eq (n := n) sound.canonical (sound.lt_of_free (by rw [free]; exact List.mem_cons_self)) free
    .page .rows
  rw [State.storeRow_begun page stands recv pop begun] at go
  have event : ((u.onStore fun st => st.append b (pageRecord damaged row)).countRow n
    (damaged || decide (1014 < row.length) || false)).hdr.ev = u.hdr.ev := rfl
  exact ⟨_, go, event.trans begun.event⟩

/-! ## The end of a page -/

/-- The verdict on an open page, as the entry's. -/
theorem verdictOf_judge (g : OpenPage) (bad run rung v up : Nat) : verdictOf (g.judge bad run rung v up) =
    if g.discarded = true ∨ g.rows = 0 then .bad
    else if bad * g.rows < g.badRows * 100 ∨ run < g.longest then .bad
    else if v < 24 + 8 * rung + up then .goodRetrain else .good := by
  unfold OpenPage.judge threshold
  split
  · rfl
  · split
    · rfl
    · split <;> rfl

/-- A page judged, once its last block is delivered in the state `y`. -/
theorem State.judgePage_closes {last : Bool} (delivered : s.deliverPage n = y) (page : (y.line n).fax.page = some g)
    (split_ : (y.line n).delivered = before ++ e :: after)
    (kind : e.kind = .page) (opened : e.closed = false) (others : ∀ x ∈ before ++ after, x.closed = true)
    (held : ∀ x ∈ e :: (before ++ after), x.outstanding ≠ []) :
    (s.judgePage n last).store = y.store ∧ ((s.judgePage n last).line n).recvBlock = (y.line n).recvBlock ∧
      ((s.judgePage n last).line n).delivered = before ++
        { e with
          count := g.rows, badRows := g.badRows, closed := true
          verdict := verdictOf (g.judge (y.line n).profile.badRowLimit (y.line n).profile.runLimit (y.line n).fax.rung
            (y.line n).grade.value (y.line n).profile.upMargin) } :: after ∧
      ((s.judgePage n last).line n).ev.bits.getLsbD 10 = true := by
  have open_ : (y.line n).fax.page.getD .empty = g := by rw [page]; rfl
  rw [State.judgePage, delivered, open_, State.closePage_entry split_ kind opened others held]
  generalize g.judge _ _ _ _ _ = v
  generalize closed : (y.onLine n fun l => { l with delivered := before ++
    { e with count := g.rows, badRows := g.badRows, verdict := verdictOf v, closed := true } :: after }) = z
  have line : z.line n = { y.line n with delivered := before ++
      { e with count := g.rows, badRows := g.badRows, verdict := verdictOf v, closed := true } :: after } := by
    rw [← closed, State.line_onLine_self]
  have store : z.store = y.store := by rw [← closed]; rfl
  generalize judged : (z.onFax n fun f =>
    { f with
      page := none, judged := some last, lastVerdict := verdictOf v, lastRows := g.rows, lastBadRows := g.badRows }) = x
  have noted : Only n [.fax] z x := by rw [← judged]; exact Only.onFax z n _
  have raised := State.line_raise_self x n .page
  have stands := Only.faxStand (x.raise n .page) n (if last = true ∧ v ≠ .bad then .release else .post) (.verdict v g.rows g.badRows)
  have stored : (x.raise n .page).store = x.store := rfl
  generalize x.raise n .page = w at *
  generalize w.faxStand n _ _ = o at *
  have store₁ : o.store = w.store := stands.of .store
  have store₂ : x.store = z.store := noted.of .store
  have recv₁ : (o.line n).recvBlock = (w.line n).recvBlock := stands.of .recv
  have recv₂ : (x.line n).recvBlock = (z.line n).recvBlock := noted.of .recv
  have delivered₁ : (o.line n).delivered = (w.line n).delivered := stands.of .delivered
  have delivered₂ : (x.line n).delivered = (z.line n).delivered := noted.of .delivered
  have ev₁ : (o.line n).ev = (w.line n).ev := stands.of .ev
  refine ⟨by rw [store₁, stored, store₂, store], ?_, ?_, ?_⟩
  · rw [recv₁, raised]; exact recv₂.trans (by rw [line])
  · rw [delivered₁, raised]; exact delivered₂.trans (by rw [line])
  · rw [ev₁, raised]
    simp [EventWord.raise, LineEvent.bit, bitWord]

theorem exec_pageFrame {c : Instr} (h : c = .moreFrame n ∨ c = .lastFrame n) (fax : s.faxAs n .receiver = true)
    (phase : (s.line n).fax.phase = .post) (judged : (s.line n).fax.judged = none) : ∃ last, exec c s = done s (s.judgePage n last) := by
  have frame : ∀ last, s.pageFrame n last = s.judgePage n last := fun last => by
    rw [State.pageFrame, if_pos fax]
    exact if_pos ⟨phase, judged⟩
  rcases h with rfl | rfl
  · exact ⟨false, congrArg (done s) (frame false)⟩
  · exact ⟨true, congrArg (done s) (frame true)⟩

section
variable {c : Instr} (h : c = .moreFrame n ∨ c = .lastFrame n) (fax : s.faxAs n .receiver = true)
  (phase : (s.line n).fax.phase = .post) (judged : (s.line n).fax.judged = none) (page : (s.line n).fax.page = some g)
  (split_ : (s.line n).delivered = before ++ e :: after) (kind : e.kind = .page) (opened : e.closed = false)
  (others : ∀ x ∈ before ++ after, x.closed = true) (held : ∀ x ∈ e :: (before ++ after), x.outstanding ≠ [])
include h fax phase judged page split_ kind opened others held

/-- The verdict of the line on its open page. -/
def Line.verdict (l : Line) (g : OpenPage) : Verdict :=
  if g.discarded = true ∨ g.rows = 0 then .bad
  else if l.profile.badRowLimit * g.rows < g.badRows * 100 ∨ l.profile.runLimit < g.longest then .bad
  else if (l.grade.acc + 8) / 16 < 24 + 8 * l.fax.rung + l.profile.upMargin then .goodRetrain else .good

theorem pageFrame_closes (recv : (s.line n).recvBlock = none) : ∃ t, exec c s = .next t ∧ t.store = s.store ∧
    (t.line n).delivered = before ++
      { e with count := g.rows, badRows := g.badRows, verdict := (s.line n).verdict g, closed := true } :: after ∧
    (t.line n).ev.bits.getLsbD 10 = true := by
  obtain ⟨last, go⟩ := exec_pageFrame h fax phase judged
  obtain ⟨store, -, delivered, raised⟩ := State.judgePage_closes (last := last) (State.deliverPage_none recv) page split_ kind opened others held
  rw [verdictOf_judge] at delivered
  generalize s.judgePage n last = z at *
  have committed := State.line_commit s z n
  exact ⟨s.commit z, go, store, by rw [committed]; exact delivered, by rw [committed]; exact raised⟩

theorem pageFrame_joins (few : e.blockCount < 65535) (recv : (s.line n).recvBlock = some b) : ∃ t, exec c s = .next t ∧
    t.store = s.store.assign b (.deliv n) ∧ (t.line n).recvBlock = none ∧
    (t.line n).delivered = before ++
      { e.joined b with count := g.rows, badRows := g.badRows, verdict := (s.line n).verdict g, closed := true } :: after ∧
    (t.line n).ev.bits.getLsbD 10 = true := by
  obtain ⟨last, go⟩ := exec_pageFrame h fax phase judged
  have delivers := State.deliverPage_entry split_ kind opened others few recv
  have only := Only.deliverPage s n
  obtain ⟨y, made⟩ : ∃ y, s.deliverPage n = y := ⟨_, rfl⟩
  rw [made] at delivers only
  have held' : ∀ x ∈ e.joined b :: (before ++ after), x.outstanding ≠ [] := fun x hx => by
    rcases List.mem_cons.mp hx with rfl | rest
    · exact List.append_ne_nil_of_right_ne_nil _ (List.cons_ne_nil _ _)
    · exact held x (.tail _ rest)
  have profile : (y.line n).profile = (s.line n).profile := only.of .profile
  have grade : (y.line n).grade = (s.line n).grade := only.of .grade
  obtain ⟨store, recv', delivered, raised⟩ := State.judgePage_closes (last := last) made (by rw [delivers.fax]; exact page)
    delivers.delivered kind opened others held'
  rw [verdictOf_judge, profile, grade, delivers.fax] at delivered
  generalize s.judgePage n last = z at *
  have committed := State.line_commit s z n
  exact ⟨s.commit z, go, store.trans delivers.store, by rw [committed]; exact recv'.trans delivers.recv, by rw [committed]; exact delivered,
    by rw [committed]; exact raised⟩

end

/-! ## Pops that stay above the Reserve -/

theorem State.event_popHost (s : State) (k : Nat) (above : k ≤ s.store.free.length - min s.hdr.reserve.toNat 64) :
    (s.popHost k).2.hdr.ev = s.hdr.ev := by
  induction k generalizing s with
  | zero => rfl
  | succ k ih =>
    rcases free : s.store.free with _ | ⟨b, rest⟩
    · rw [free] at above
      exact absurd above (by simp)
    · obtain ⟨u, pop, store, -, event, only⟩ := State.pop_eq free .host 0
      have rest_ : { u.hdr with ev := Header.initial.ev } = { s.hdr with ev := Header.initial.ev } := only.of .hdr
      have reserve : u.hdr.reserve = s.hdr.reserve := by
        have same := congrArg Header.reserve rest_
        exact same
      have stack : u.store.free = rest := by rw [store]; rfl
      have quiet : s.popEvent = s.hdr.ev := by
        rw [State.popEvent, if_neg]
        omega
      rw [free, List.length_cons] at above
      have popped : (s.popHost (k + 1)).2 = (u.popHost k).2 := by rw [State.popHost, pop]
      rw [popped, ih u (by rw [stack, reserve]; omega), event, quiet]

theorem takeBlocks_event {i : Fin 4} (taken : s.takesCard .engine i.val (· == 33) = true) : ∃ t, exec (.takeBlocks i) s = .next t ∧
    t.hdr.ev = { s.hdr.ev with bits := s.hdr.ev.bits ||| 0x0002, tally := s.hdr.ev.tally + 1 } := by
  have run := exec_takeBlocks taken
  have store : (s.taking .engine i.val).store = s.store := rfl
  have header : (s.taking .engine i.val).hdr = s.hdr := rfl
  rw [State.takeBlocksOrder] at run
  have event := State.event_popHost (s.taking .engine i.val)
    (min (askedBlocks ((s.card .engine i.val).byte 6)) ((s.taking .engine i.val).store.freeCount - (s.taking .engine i.val).reserve))
    (Nat.min_le_right _ _)
  generalize State.popHost _ _ = r at *
  refine ⟨_, run, ?_⟩
  have raised : (r.2.answerWith .engine i.val .done 0 r.1.length ((r.1 ++ List.replicate 12 65535).take 12 |>.flatMap wordBytes)).hdr.ev =
      r.2.hdr.ev.raise 1 := rfl
  refine Eq.trans raised ?_
  rw [event, header]
  rfl

/-- A pop for a recording. -/
theorem State.event_popMessage {m : EntryId} (pop : s.popMessage n m = some (b, t)) :
    t.hdr.ev = s.hdr.ev ∧ t.lines = s.lines := by
  unfold State.popMessage at pop
  split at pop
  next above =>
    rcases free : s.store.free with _ | ⟨c, rest⟩
    · rw [Store.freeCount, free] at above
      exact absurd above (Nat.not_lt_zero _)
    · obtain ⟨u, popped, -, lines, event, -⟩ := State.pop_eq free (.msg m) n
      have quiet : s.popEvent = s.hdr.ev := by
        rw [State.popEvent, if_neg]
        rw [State.reserve, Store.freeCount] at above
        omega
      rw [popped] at pop
      dsimp only at pop
      split at pop <;> cases pop <;> exact ⟨event.trans quiet, lines⟩
  · exact nomatch pop

theorem State.event_storeCode {m : EntryId} {code : Nat} (stored : s.storeCode n m code = some t) :
    t.hdr.ev = s.hdr.ev ∧ t.lines = s.lines := by
  unfold State.storeCode at stored
  dsimp only at stored
  split at stored
  · split at stored <;> cases stored <;> exact ⟨rfl, rfl⟩
  · split at stored
    · exact nomatch stored
    next b u found =>
      cases stored
      split at found
      · cases found
        exact ⟨rfl, rfl⟩
      · obtain ⟨event, lines⟩ := State.event_popMessage found
        exact ⟨event, lines⟩

theorem State.event_voiceTeardown (play : (s.line n).voice.play = .none) (o : CallOutcome) : (s.voiceTeardown n o).hdr.ev = s.hdr.ev := by
  have ended : ∀ r, (s.finishRecording n r).hdr.ev = s.hdr.ev := fun r => (Only.finishRecording s n r).of .event
  rw [State.voiceTeardown]
  rw [if_pos ((s.play_finishRecording n _).1.trans play)]
  exact ended _

/-- With no play in progress the end of a call raises no event of the engine. -/
theorem State.event_callEnd (play : (s.line n).voice.play = .none) (o : CallOutcome) : (s.callEnd n o).hdr.ev = s.hdr.ev := by
  have released : Only n [.queue, .claim, .pumps, .call, .grade] s ((s.releasePump n).onGrade n Grade.ended) :=
    (Only.releasePump s n).trans (Only.onGrade _ n _)
  have last : (s.callEnd n o).hdr.ev = ((s.unitsStopped n o).answerCallCards n o).hdr.ev := (Only.cardsToEnd s n o).of .event
  have cards : ((s.unitsStopped n o).answerCallCards n o).hdr.ev = (s.unitsStopped n o).hdr.ev :=
    (Only.answerCallCards (s.unitsStopped n o) n o).of .event
  have units : (s.unitsStopped n o).hdr.ev = (s.tornDown n o).hdr.ev := (Only.stopUnits (s.tornDown n o) n).of .event
  rw [last, cards, units, State.tornDown]
  generalize (s.releasePump n).onGrade n Grade.ended = x at *
  have linked := Only.linkTeardown x n o
  generalize x.linkTeardown n o = y at *
  have faxed := Only.faxTeardown y n o
  generalize y.faxTeardown n o = z at *
  have voice : (z.line n).voice = (s.line n).voice := (faxed.of .voice).trans ((linked.of .voice).trans (released.of .voice))
  have event : z.hdr.ev = s.hdr.ev := (faxed.of .event).trans ((linked.of .event).trans (released.of .event))
  rw [State.event_voiceTeardown (by rw [voice]; exact play), event]

theorem State.event_clearDecision (play : (s.line n).voice.play = .none) (o : CallOutcome) : (s.clearDecision n o).hdr.ev = s.hdr.ev := by
  have decided := Only.decided s n o
  have voice : ((s.decided n o).line n).voice = (s.line n).voice := decided.of .voice
  have event : (s.decided n o).hdr.ev = s.hdr.ev := decided.of .event
  rw [State.clearDecision_eq, State.event_callEnd (by rw [voice]; exact play), event]

theorem State.event_endRecording (play : (s.line n).voice.play = .none) {r : EndReason} (other : r ≠ .digit) :
    (s.endRecording n r).hdr.ev = s.hdr.ev := by
  have same := (s.play_finishRecording n r).1.trans play
  have event : (s.finishRecording n r).hdr.ev = s.hdr.ev := (Only.finishRecording s n r).of .event
  rw [State.endRecording]
  split
  · exact event
  · rw [if_neg other, State.event_clearDecision same, event]

theorem encodeSample_event {z : Sample} (play : (s.line n).voice.play = .none) :
    ∃ t, exec (.encodeSample n z) s = .next t ∧ t.hdr.ev = s.hdr.ev := by
  have run : exec (.encodeSample n z) s = done s (s.encodeSample n z) := rfl
  refine ⟨_, run, ?_⟩
  have committed : (s.commit (s.encodeSample n z)).hdr.ev = (s.encodeSample n z).hdr.ev := rfl
  rw [committed, State.encodeSample]
  split
  · rfl
  next m recording =>
    dsimp only
    split
    · have line := State.line_raise_self s n .poolDry
      exact State.event_endRecording (by rw [line]; exact play) (by decide)
    next u stored =>
      obtain ⟨event, lines⟩ := State.event_storeCode stored
      have line : u.line n = s.line n := congrArg (fun ls : Vector Line 4 => ls[n]) lines
      split
      · have heard := State.line_onVoice_self u n fun v =>
          { v.hear z with encoder := ((s.line n).voice.encoder.encode z.toInt).2 }
        refine (State.event_endRecording ?_ (by decide)).trans event
        rw [heard, line]
        dsimp only
        rw [← play, Voice.hear]
        split <;> rfl
      · exact event

/-- Settles O58: the Delivered List with its open entry in its place, block by block. -/
theorem blocksJoinOpenEntries : Obligations.BlocksJoinOpenEntries := by
  refine ⟨?_, fun n p run c s before e after b cmd split_ kind opened others recv _ => ?_,
    fun n p s g w activity holding fax role page sound => ?_, fun i n x s => ⟨takeBlocks_event, encodeSample_event⟩⟩
  · intro n p run j data s w activity holding sound received k low up critical number short _ some_ held entries free noEntry
    refine ⟨fun before e after b split_ kind opened others recv owned full => ?_,
      fun before e after b rest split_ kind opened others recv stack apart less => ?_, fun _ recv less => ?_⟩
    · exact infoFrame_joins w activity holding sound received up critical number short some_ ⟨held, entries, free⟩ split_ kind opened others
        recv owned full
    · exact infoFrame_numbers w activity holding sound received up critical number short some_ ⟨held, entries, free⟩ split_ kind opened others
        recv stack apart less
    · exact infoFrame_event w activity holding sound received up critical number short some_ ⟨held, entries, free⟩ recv less
  · rcases cmd with ⟨rfl, runs⟩ | ⟨rfl, some_, received, up, w, activity, holding⟩
    · exact (flushes_idle runs).joins split_ kind opened others recv
    · exact (flushes_linkClose w activity holding some_ received up).joins split_ kind opened others recv
  · have live := State.faxAs_of w activity holding fax role
    refine ⟨fun before e after split_ kind opened held others few => ⟨?_, ?_, ?_⟩, ?_⟩
    · exact fun damaged row b c rest work stands recv owned full free =>
        pageRow_delivers live work sound page stands split_ kind opened others few recv owned full free
    · exact fun damaged row b work stands recv _ full free =>
        pageRow_dry live work page stands split_ kind opened others few recv full free
    · intro c cmd phase judged
      exact ⟨pageFrame_closes cmd live phase judged page split_ kind opened others held,
        fun b recv _ => pageFrame_joins cmd live phase judged page split_ kind opened others held few recv⟩
    · exact fun damaged row b rest work stands recv free => pageRow_event live work sound page stands recv free

end Sys2Proof.Machine

/-! O43: DIAL and the redial (02 R22 to R25, R39; 11 R183). -/

namespace Sys2Proof.Machine

set_option Elab.async false

variable {n : LineId} {p : PumpId} {s t u x y : State} {i : Nat} {volt : Bool} {v : Service} {symbols : List Byte} {prof : Profile}
  {attempt : Nat} {c : Instr}

/-! ## The card -/

/-- The card of an order is TAKEN while the order is carried out. -/
theorem State.hand_taking {T : TableId} {codes : Nat → Bool} (taken : s.takesCard T i codes = true) :
    ((s.taking T i).card T i).hand = .taken := by
  obtain ⟨-, -, comes, -⟩ := State.takesCard_iff.mp taken
  have less := State.takesCard_lt taken
  have hand := OrderTable.hand_of_comesTo comes
  rw [State.card, State.taking, State.table_onTable, if_pos rfl, OrderTable.cards_taking]
  split
  next => rw [List.getElem?_set_self less]; rfl
  next waits => rw [if_neg waits] at hand; exact hand

/-! ## Service codes -/

theorem serviceOf_eq_none {k : Nat} (h : k ∉ [1, 2, 3]) : serviceOf k = none := by
  have other : k ≠ 1 ∧ k ≠ 2 ∧ k ≠ 3 := by simpa using h
  obtain ⟨a, b, c⟩ := other
  unfold serviceOf
  split <;> first | rfl | omega

theorem serviceOf_isSome {k : Nat} (h : k ∈ [1, 2, 3]) : ∃ v, serviceOf k = some v := by
  have known : k = 1 ∨ k = 2 ∨ k = 3 := by simpa using h
  rcases known with rfl | rfl | rfl <;> exact ⟨_, rfl⟩

theorem serviceOf_code (h : v ≠ .none) : serviceOf v.code = some v := by
  cases v <;> first | rfl | exact absurd rfl h

/-! ## A claim that expires as it is made -/

theorem State.not_queued_grantNext (h : ¬s.queued n) : ¬s.grantNext.queued n := by
  obtain ⟨same, -⟩ | ⟨p, m, -, -, same⟩ := s.grantNext_cases <;> rw [same]
  · exact h
  · rw [State.queued_granting]; exact fun k => h k.2

theorem State.not_queued_arbitrate (h : ¬s.queued n) : ¬s.arbitrate.queued n :=
  State.not_queued_grantNext (State.not_queued_grantNext (State.not_queued_grantNext h))

theorem State.not_queued_clearDecision (s : State) (n : LineId) (o : CallOutcome) : ¬(s.clearDecision n o).queued n := by
  have ended : (s.clearDecision n o).queue = ((s.decided n o).releasePump n).queue := State.queue_callEnd _ n o
  rw [State.queued, ended, State.releasePump_eq]
  refine State.not_queued_arbitrate fun k => ?_
  rw [(State.freed_spec _ n).queued, (State.dropClaim_spec _ n).queued] at k
  exact k.1 rfl

theorem State.not_queued_takeFault {k : FaultKind} {d : FailDetail} {attempt : Bool} (takes : (s.line n).takesFault attempt = true) :
    ¬(s.takeFault n k d false attempt).queued n := by
  obtain ⟨f, same⟩ := s.takeFault_eq_clearDecision n k d attempt takes
  rw [same]
  exact State.not_queued_clearDecision _ n _

/-- No pump is FREE and the wait limit is 0 s (R62). -/
theorem State.makeClaim_refused (busy : s.lowestFree = none) (cls : ClaimClass) (limit : (s.line n).profile.pumpWait cls = 0)
    (step : (s.line n).seq.step ≠ .switchWait) (takes : (s.line n).takesFault false = true) :
    State.Faulted n .noPump .none s (s.makeClaim n cls) ∧ ¬(s.makeClaim n cls).queued n := by
  have placed : s.placeClaim n cls = { s with queue := s.queue.enqueue n cls }.onLine n fun l =>
      { l with claim := some ⟨cls, .running (l.profile.pumpWait cls * 1000)⟩ } := by
    simp only [State.placeClaim, busy]
  have line : ((s.placeClaim n cls).line n) = { s.line n with claim := some ⟨cls, .running 0⟩ } := by
    rw [placed, State.line_onLine_self]
    change { s.line n with claim := some ⟨cls, .running ((s.line n).profile.pumpWait cls * 1000)⟩ } = _
    rw [limit]
  have dropped : ((s.placeClaim n cls).dropClaim n).line n = { s.line n with claim := none } := by
    rw [(State.dropClaim_spec _ n).line, if_pos rfl, line]
  have effect : LineEffect n s ((s.placeClaim n cls).dropClaim n) := (LineEffect.refl.placeClaim cls).dropClaim
  have same : s.makeClaim n cls = ((s.placeClaim n cls).dropClaim n).takeFault n .noPump .none false false := by
    rw [State.makeClaim, if_pos (by rw [line]; rfl), State.expireClaim, if_neg (by rw [dropped]; exact step)]
    rfl
  rw [same]
  generalize (s.placeClaim n cls).dropClaim n = x at *
  have faulted := State.takeFault_spec x n .noPump .none false (by rw [dropped]; exact takes)
  refine ⟨?_, State.not_queued_takeFault (by rw [dropped]; exact takes)⟩
  exact faulted.before (by rw [dropped]) (by rw [dropped]) effect.tick (by rw [dropped]) effect.events effect.aside

/-! ## A call placed -/

/-- An originated call before it claims a pump or goes off hook. -/
structure Placing (c : Instr) (n : LineId) (i : Fin 8) (volt : Bool) (s x : State) (v : Service) (symbols : List Byte) (p : Profile)
    (attempt : Nat) : Prop where
  run : exec c s = done s (x.placeCall n volt)
  state : (s.line n).call.state = .idle ∨ (s.line n).call.state = .holdoff
  profile : (x.line n).profile = p
  dialler : (x.line n).dialler = ⟨v, symbols, symbols, p.dialMode, .idle, .stopped, attempt, 0⟩
  call : (x.line n).call =
    { (s.line n).call with
      service := v, direction := .originate, tRing := 0, tOffhook := 0, tConnect := 0, tClear := 0
      dayConnect := 0, wasConnected := false, ringCount := 0, caller := ⟨.absent, [], [], []⟩ }
  prog : (x.line n).prog = .initial
  seq : (x.line n).seq = .initial
  dial : c = .dial n i volt →
    (x.card (.line n) i.val).hand = .taken ∧ (x.line n).ctl.dialCard = some i.val ∧ (x.line n).fm.retryCount = 0
  redial : c = .retryDelayExpiry n volt → (x.line n).fm = { (s.line n).fm with retryPending := false }
  effect : LineEffect n s x
  pumps : x.pumps = s.pumps
  queue : x.queue = s.queue
  pending : x.pending = s.pending

/-- What an originated call that has begun leaves of its line. -/
def CallBegun (c : Instr) (n : LineId) (i : Fin 8) (volt : Bool) (s : State) (v : Service) (symbols : List Byte) (p : Profile)
    (attempt : Nat) (t : State) (st : LineState) (ph : DialPhase) (offhook : Long) : Prop :=
  (t.line n).profile = p ∧ (t.line n).dialler = ⟨v, symbols, symbols, p.dialMode, ph, .stopped, attempt, 0⟩ ∧
  (t.line n).call =
    { (s.line n).call with
      state := st, service := v, direction := .originate, tRing := 0, tOffhook := offhook, tConnect := 0, tClear := 0
      dayConnect := 0, wasConnected := false, ringCount := 0, caller := ⟨.absent, [], [], []⟩ } ∧
  (c = .dial n i volt → (t.card (.line n) i.val).hand = .taken ∧ (t.line n).ctl.dialCard = some i.val ∧ (t.line n).fm.retryCount = 0) ∧
  (c = .retryDelayExpiry n volt → (t.line n).fm = { (s.line n).fm with retryPending := false }) ∧
  State.Aside n s t ∧ State.Steady s t

section
variable {i : Fin 8} (h : Placing c n i volt s x v symbols prof attempt)
include h

theorem Placing.begun {st : LineState} {ph : DialPhase} {offhook : Long} (later : LineEffect n x t)
    (profile : (t.line n).profile = (x.line n).profile) (dialler : (t.line n).dialler = { (x.line n).dialler with phase := ph })
    (call : (t.line n).call = { (x.line n).call with state := st, tOffhook := offhook }) (table : (t.line n).table = (x.line n).table)
    (card : (t.line n).ctl.dialCard = (x.line n).ctl.dialCard) (fm : (t.line n).fm = (x.line n).fm) :
    CallBegun c n i volt s v symbols prof attempt t st ph offhook := by
  have effect := h.effect.trans later
  refine ⟨profile.trans h.profile, by rw [dialler, h.dialler], by rw [call, h.call], fun dial => ?_, fun redial => fm.trans (h.redial redial),
    effect.aside, effect.steady⟩
  obtain ⟨hand, dialCard, count⟩ := h.dial dial
  have same : t.card (.line n) i.val = x.card (.line n) i.val := State.card_congr (T := .line n) table i.val
  exact ⟨by rw [same]; exact hand, card.trans dialCard, by rw [fm]; exact count⟩

omit h in
/-- A call begun stands through the end of its event. -/
theorem CallBegun.commit {st : LineState} {ph : DialPhase} {offhook : Long} (effect : LineEffect n s t)
    (h : CallBegun c n i volt s v symbols prof attempt t st ph offhook) :
    CallBegun c n i volt s v symbols prof attempt (s.commit t) st ph offhook := by
  obtain ⟨profile, dialler, call, dial, redial, -, -⟩ := h
  have line := State.line_commit s t n
  have card : (s.commit t).card (.line n) i.val = t.card (.line n) i.val := State.card_congr (T := .line n) (by
    rw [State.table, line]; rfl) i.val
  refine ⟨by rw [line]; exact profile, by rw [line]; exact dialler, by rw [line]; exact call, fun k => ?_, fun k => by rw [line]; exact redial k,
    effect.commit.aside, effect.commit.steady⟩
  obtain ⟨hand, dialCard, count⟩ := dial k
  exact ⟨by rw [card]; exact hand, by rw [line]; exact dialCard, by rw [line]; exact count⟩

/-- A voice call without line voltage (R24). -/
theorem Placing.lineAbsent (voice : v = .voice) (dead : volt = false) : ∃ t, exec c s = .next t ∧ (t.line n).call.state = .clearing ∧
    (t.line n).call.lastOutcome = .fault .lineAbsent ∧ (t.line n).fm.last.map LastFault.kind = some .lineAbsent := by
  have service : (x.line n).call.service = .voice := by rw [h.call]; exact voice
  have run := h.run
  rw [State.placeCall, if_pos service, State.offHookAttempt, if_neg (by rw [dead]; decide)] at run
  have takes : (x.line n).takesFault true = true := by
    rw [Line.takesFault, h.call]
    rcases h.state with e | e <;> simp only [e]
  have faulted := (State.takeFault_spec x n .lineAbsent .none true takes).commit (s := x)
  have spec := State.takeFault_spec x n .lineAbsent .none true takes
  generalize x.takeFault n .lineAbsent .none false true = y at *
  have line := State.line_commit s y n
  refine ⟨s.commit y, run, ?_, ?_, ?_⟩
  · rw [line]; exact (congrArg CallRecord.state spec.cleared.call)
  · rw [line]; exact (congrArg CallRecord.lastOutcome spec.cleared.call)
  · rw [line]
    change (y.line n).fm.last.map LastFault.kind = _
    rw [spec.last]
    rfl

/-- Off hook with the voltage there. -/
theorem Placing.line_closeHook (st : LineState) (timer : Timer) : ((x.closeHook n).enter n st timer).line n =
    { x.line n with
      call := { (x.line n).call with state := st, tOffhook := s.hdr.tick }
      ctl :=
        { (x.line n).ctl with
          stateTimer := timer, loopPresent := true, loopMeasuring := false, toneInFrame := (x.line n).ctl.progressTone }
      voice := { (x.line n).voice with frame := [], ahead := 0 } } := by
  rw [← h.effect.tick]
  simp [State.closeHook, State.enter, State.onCall, State.onCtl, State.onVoice, Voice.framed]

theorem Placing.seizes (voice : v = .voice) (live : volt = true) (blind : prof.blindDialling = false) : ∃ t, exec c s = .next t ∧
    CallBegun c n i volt s v symbols prof attempt t .seized .idle s.hdr.tick ∧
    (t.line n).ctl.stateTimer = .running (prof.dialToneWait * 1000) ∧ (t.line n).ctl.loopPresent = true := by
  have service : (x.line n).call.service = .voice := by rw [h.call]; exact voice
  have profile : ((x.closeHook n).line n).profile = prof := ((Only.closeHook x n).of .profile).trans h.profile
  have run := h.run
  rw [State.placeCall, if_pos service, State.offHookAttempt, if_pos live] at run
  dsimp only at run
  rw [profile, blind, if_neg Bool.false_ne_true] at run
  have line := h.line_closeHook .seized (.running (prof.dialToneWait * 1000))
  have later : LineEffect n x ((x.closeHook n).enter n .seized (.running (prof.dialToneWait * 1000))) := LineEffect.refl.closeHook.enter _ _
  generalize (x.closeHook n).enter n _ _ = y at *
  have begun : CallBegun c n i volt s v symbols prof attempt y .seized .idle s.hdr.tick :=
    h.begun later (by rw [line]) (by rw [line, h.dialler]) (by rw [line]) (by rw [line]) (by rw [line]) (by rw [line])
  have committed := State.line_commit s y n
  refine ⟨s.commit y, run, begun.commit (h.effect.trans later), ?_, ?_⟩
  · rw [committed]; exact congrArg (fun l : Line => l.ctl.stateTimer) line
  · rw [committed]; exact congrArg (fun l : Line => l.ctl.loopPresent) line

theorem Placing.dials (voice : v = .voice) (live : volt = true) (blind : prof.blindDialling = true) : ∃ u : State,
    CallBegun c n i volt s v symbols prof attempt u .dialling .pause s.hdr.tick ∧
    (u.line n).ctl.stateTimer = .stopped ∧ (u.line n).ctl.loopPresent = true ∧ (u.line n).prog = Progress.initial ∧
    ∀ w, Leads (.pauseEnd n) u w → Leads c s w := by
  have service : (x.line n).call.service = .voice := by rw [h.call]; exact voice
  have profile : ((x.closeHook n).line n).profile = prof := ((Only.closeHook x n).of .profile).trans h.profile
  have run := h.run
  rw [State.placeCall, if_pos service, State.offHookAttempt, if_pos live] at run
  dsimp only at run
  rw [profile, if_pos blind, State.enterDialling] at run
  have line := h.line_closeHook .dialling .stopped
  have later : LineEffect n x ((x.closeHook n).enter n .dialling .stopped) := LineEffect.refl.closeHook.enter _ _
  generalize (x.closeHook n).enter n _ _ = y at *
  have paused : ((y.onDialler n fun d => { d with phase := .pause }).line n) =
      { y.line n with dialler := { (y.line n).dialler with phase := .pause } } := State.line_onDialler_self ..
  have kept : LineEffect n y (y.nextSymbol n) := LineEffect.refl.nextSymbol
  have pending : y.pending = s.pending := later.pending.trans h.pending
  refine ⟨y.onDialler n fun d => { d with phase := .pause }, h.begun (later.onDialler _) ?_ ?_ ?_ ?_ ?_ ?_, ?_, ?_, ?_, fun w leads => ?_⟩
  iterate 6 rw [paused, line]
  · rw [paused, line]
  · rw [paused, line]
  · rw [paused, line]; exact h.prog
  · have same := (Leads.iff_of_done (exec_pauseEnd_of (by rw [line])) kept.pending).mp leads
    exact (Leads.iff_of_done run (kept.pending.trans pending)).mpr same

omit h in
/-- A data or fax call before its claim. -/
theorem State.line_enter_queued (timer : Timer) : (x.enter n .queued timer).line n =
    { x.line n with
      call := { (x.line n).call with state := .queued }
      ctl := { (x.line n).ctl with stateTimer := timer } } := by
  rw [State.enter_eq_onLine, State.line_onLine_self]
  rfl

theorem Placing.claims (pumped : v = .data ∨ v = .fax) :
    exec c s = done s ((x.enter n .queued .stopped).makeClaim n .originate) := by
  have service : (x.line n).call.service = v := by rw [h.call]
  have run := h.run
  rw [State.placeCall, if_neg (by rw [service]; rcases pumped with rfl | rfl <;> decide)] at run
  exact run

theorem Placing.lowestFree (q : PumpId) (free : (s.pump q).state = .free) (lowest : ∀ r < q, (s.pump r).state ≠ .free) :
    (x.enter n .queued .stopped).lowestFree = some q := by
  have same : ∀ r, (x.enter n .queued .stopped).pump r = s.pump r := fun r => congrArg (fun ps : Vector Pump 3 => ps[r]) h.pumps
  exact State.lowestFree_eq (by rw [same]; exact free) fun r less => by rw [same]; exact lowest r less

theorem Placing.lowestFree_none (busy : ∀ q, (s.pump q).state ≠ .free) : (x.enter n .queued .stopped).lowestFree = none := by
  have same : ∀ r, (x.enter n .queued .stopped).pump r = s.pump r := fun r => congrArg (fun ps : Vector Pump 3 => ps[r]) h.pumps
  cases found : (x.enter n .queued .stopped).lowestFree with
  | none => rfl
  | some q => exact absurd ((congrArg Pump.state (same q)).symm.trans (State.lowestFree_eq_some found)) (busy q)

theorem Placing.granted (pumped : v = .data ∨ v = .fax) (q : PumpId) (free : (s.pump q).state = .free)
    (lowest : ∀ r < q, (s.pump r).state ≠ .free) : ∃ t, exec c s = .next t ∧
    CallBegun c n i volt s v symbols prof attempt t .queued .idle 0 ∧ (t.line n).claim = some ⟨.originate, .stopped⟩ ∧
    t.pump q = Pump.inState .settling (some n) ∧ t.queue = s.queue := by
  have run := h.claims pumped
  rw [State.makeClaim_granted (h.lowestFree q free lowest)] at run
  have entered := State.line_enter_queued (x := x) (n := n) .stopped
  have effect : LineEffect n x (x.enter n .queued .stopped) := LineEffect.refl.enter _ _
  have queue : (x.enter n .queued .stopped).queue = s.queue := h.queue
  generalize x.enter n .queued .stopped = y at *
  have line : ((y.onPump q fun _ => Pump.inState .settling (some n)).onLine n fun l => { l with claim := some ⟨.originate, .stopped⟩ }).line n =
      { y.line n with claim := some ⟨.originate, .stopped⟩ } := by rw [State.line_onLine_self]; rfl
  have later : LineEffect n x ((y.onPump q fun _ => Pump.inState .settling (some n)).onLine n fun l =>
      { l with claim := some ⟨.originate, .stopped⟩ }) := (effect.onPump _ _).setClaim _
  have pump : ((y.onPump q fun _ => Pump.inState .settling (some n)).onLine n fun l =>
      { l with claim := some ⟨.originate, .stopped⟩ }).pump q = Pump.inState .settling (some n) := by
    rw [State.pump_onLine, State.pump_onPump_self]
  have queue' : ((y.onPump q fun _ => Pump.inState .settling (some n)).onLine n fun l =>
      { l with claim := some ⟨.originate, .stopped⟩ }).queue = s.queue := queue
  generalize (y.onPump q _).onLine n _ = z at *
  have begun : CallBegun c n i volt s v symbols prof attempt z .queued .idle 0 :=
    h.begun later (by rw [line, entered]) (by rw [line, entered, h.dialler]) (by rw [line, entered, h.call]) (by rw [line, entered])
      (by rw [line, entered]) (by rw [line, entered])
  refine ⟨s.commit z, run, begun.commit (h.effect.trans later), ?_, pump, queue'⟩
  rw [State.line_commit]
  exact congrArg Line.claim line

theorem Placing.waits (pumped : v = .data ∨ v = .fax) (busy : ∀ q, (s.pump q).state ≠ .free) (limit : 0 < prof.originatePumpWait) :
    ∃ t, exec c s = .next t ∧ CallBegun c n i volt s v symbols prof attempt t .queued .idle 0 ∧
      (t.line n).claim = some ⟨.originate, .running (prof.originatePumpWait * 1000)⟩ ∧ t.pumps = s.pumps ∧
      t.queue = ⟨s.queue.answer, s.queue.originate ++ [n]⟩ := by
  have run := h.claims pumped
  have entered := State.line_enter_queued (x := x) (n := n) .stopped
  have profile : ((x.enter n .queued .stopped).line n).profile = prof := by rw [entered]; exact h.profile
  rw [State.makeClaim_queued (h.lowestFree_none busy) .originate (by rw [profile]; exact limit)] at run
  have effect : LineEffect n x (x.enter n .queued .stopped) := LineEffect.refl.enter _ _
  have queue : (x.enter n .queued .stopped).queue = s.queue := h.queue
  have pumps : (x.enter n .queued .stopped).pumps = s.pumps := h.pumps
  generalize x.enter n .queued .stopped = y at *
  have line : ({ y with queue := y.queue.enqueue n .originate }.onLine n fun l =>
      { l with claim := some ⟨.originate, .running (l.profile.pumpWait .originate * 1000)⟩ }).line n =
      { y.line n with claim := some ⟨.originate, .running (prof.originatePumpWait * 1000)⟩ } := by
    rw [State.line_onLine_self, ← profile]
    rfl
  have later : LineEffect n x ({ y with queue := y.queue.enqueue n .originate }.onLine n fun l =>
      { l with claim := some ⟨.originate, .running (l.profile.pumpWait .originate * 1000)⟩ }) := (effect.withWaitQueue _).setClaim _
  have queue' : ({ y with queue := y.queue.enqueue n .originate }.onLine n fun l =>
      { l with claim := some ⟨.originate, .running (l.profile.pumpWait .originate * 1000)⟩ }).queue =
        ⟨s.queue.answer, s.queue.originate ++ [n]⟩ := by rw [← queue]; rfl
  have pumps' : ({ y with queue := y.queue.enqueue n .originate }.onLine n fun l =>
      { l with claim := some ⟨.originate, .running (l.profile.pumpWait .originate * 1000)⟩ }).pumps = s.pumps := pumps
  generalize State.onLine _ n _ = z at *
  have begun : CallBegun c n i volt s v symbols prof attempt z .queued .idle 0 :=
    h.begun later (by rw [line, entered]) (by rw [line, entered, h.dialler]) (by rw [line, entered, h.call]) (by rw [line, entered])
      (by rw [line, entered]) (by rw [line, entered])
  refine ⟨s.commit z, run, begun.commit (h.effect.trans later), ?_, pumps', queue'⟩
  rw [State.line_commit]
  exact congrArg Line.claim line

theorem Placing.noPump (pumped : v = .data ∨ v = .fax) (busy : ∀ q, (s.pump q).state ≠ .free) (limit : prof.originatePumpWait = 0) :
    ∃ t, exec c s = .next t ∧ (t.line n).call.state = .clearing ∧ (t.line n).call.lastOutcome = .fault .noPump ∧
      (t.line n).fm.last.map LastFault.kind = some .noPump ∧ (t.line n).claim = none ∧
      n ∉ t.queue.answer ∧ n ∉ t.queue.originate ∧ State.Aside n s t ∧ State.Steady s t := by
  have run := h.claims pumped
  have entered := State.line_enter_queued (x := x) (n := n) .stopped
  have effect : LineEffect n s (x.enter n .queued .stopped) := h.effect.enter _ _
  have whole := (effect.makeClaim .originate).commit (s := s)
  have faulted := State.makeClaim_refused (h.lowestFree_none busy) .originate
    (by rw [entered]; exact (congrArg Profile.originatePumpWait h.profile).trans limit) (by rw [entered, h.seq]; decide)
    (by rw [entered]; rfl)
  generalize (x.enter n .queued .stopped).makeClaim n .originate = y at *
  obtain ⟨fault, waits⟩ := faulted
  refine ⟨s.commit y, run, ?_, ?_, ?_, ?_, fun k => waits (.inl k), fun k => waits (.inr k), whole.aside, whole.steady⟩
  all_goals rw [State.line_commit]
  · exact congrArg CallRecord.state fault.cleared.call
  · exact congrArg CallRecord.lastOutcome fault.cleared.call
  · change (y.line n).fm.last.map LastFault.kind = _
    rw [fault.last]; rfl
  · exact fault.cleared.claim

end

/-! ## DIAL -/

/-- Line `n` as a DIAL taken leaves it before its call is placed. -/
def State.dialled (s : State) (n : LineId) (i : Nat) (v : Service) (symbols : List Byte) : State :=
  ((s.callStart n .originate false).copyProfile n).onLine n fun l =>
    { l with
      call := { l.call with service := v }
      dialler := ⟨v, symbols, symbols, l.profile.dialMode, .idle, .stopped, 1, 0⟩
      prog := .initial
      fm := { l.fm with retryCount := 0 }
      ctl := { l.ctl with dialCard := some i } }

theorem State.dialCall_eq (s : State) (n : LineId) (i : Nat) (v : Service) (symbols : List Byte) (volt : Bool) :
    s.dialCall n i v symbols volt = (s.dialled n i v symbols).placeCall n volt := rfl

theorem exec_dial_taken {i : Fin 8} (taken : s.takesCard (.line n) i.val (· == 3) = true) :
    exec (.dial n i volt) s = done s ((s.taking (.line n) i.val).dialOrder n i.val (s.card (.line n) i.val) volt) := by
  have dispatch : exec (.dial n i volt) s = execDial n i volt s := rfl
  rw [dispatch, execDial, takeOrder_taken taken]

/-- DIAL refused (R22). `Obligations.OriginatedCalls` names these answers among its hypotheses; they hold of every state. -/
theorem dial_refused {i : Fin 8} (taken : s.takesCard (.line n) i.val (· == 3) = true) :
    ((s.line n).call.state ≠ .idle → ∃ t, exec (.dial n i volt) s = .next t ∧
      State.ShortOrder n i.val .refusedState (s.line n).call.state.code 0 [] (s.line n) s t) ∧
    ((s.line n).call.state = .idle → (s.card (.line n) i.val).byte 6 ∉ [1, 2, 3] → ∃ t, exec (.dial n i volt) s = .next t ∧
      State.ShortOrder n i.val .badField 6 0 [] (s.line n) s t) ∧
    ((s.line n).call.state = .idle → (s.card (.line n) i.val).byte 6 ∈ [1, 2, 3] → 20 < (s.card (.line n) i.val).byte 7 →
      ∃ t, exec (.dial n i volt) s = .next t ∧ State.ShortOrder n i.val .badField 7 0 [] (s.line n) s t) := by
  have run := exec_dial_taken (volt := volt) taken
  rw [State.dialOrder, State.call_line_taking] at run
  refine ⟨fun state => ?_, fun state service => ?_, fun state service long => ?_⟩
  · rw [if_neg state] at run
    exact ⟨_, run, State.shortOrder_refuseState taken⟩
  · rw [if_pos state, serviceOf_eq_none service] at run
    exact ⟨_, run, State.shortOrder_same taken .badField 6 0 []⟩
  · obtain ⟨v, known⟩ := serviceOf_isSome service
    rw [if_pos state, known] at run
    dsimp only at run
    rw [if_pos long] at run
    exact ⟨_, run, State.shortOrder_same taken .badField 7 0 []⟩

/-- A DIAL taken in IDLE with good fields (R23). -/
theorem placing_dial {i : Fin 8} (taken : s.takesCard (.line n) i.val (· == 3) = true) (state : (s.line n).call.state = .idle)
    (service : (s.card (.line n) i.val).byte 6 = v.code) (named : v ≠ .none) (short : (s.card (.line n) i.val).byte 7 ≤ 20) :
    Placing (.dial n i volt) n i volt s ((s.taking (.line n) i.val).dialled n i.val v
        (((s.card (.line n) i.val).body.drop 6).take ((s.card (.line n) i.val).byte 7))) v
      (((s.card (.line n) i.val).body.drop 6).take ((s.card (.line n) i.val).byte 7))
      (Profile.ofWords fun o => Memory.word s.store.mem (0x0500 + 256 * n.val + o)) 1 := by
  have run := exec_dial_taken (volt := volt) taken
  rw [State.dialOrder, State.call_line_taking, if_pos state, service, serviceOf_code named] at run
  dsimp only at run
  rw [if_neg (by omega), State.dialCall_eq] at run
  have card := State.hand_taking taken
  have effect : LineEffect n s (s.taking (.line n) i.val) := LineEffect.refl.taking _
  have line := State.line_taking s n i.val
  have pumps : (s.taking (.line n) i.val).pumps = s.pumps := rfl
  have queue : (s.taking (.line n) i.val).queue = s.queue := rfl
  have store : (s.taking (.line n) i.val).store = s.store := rfl
  generalize s.taking (.line n) i.val = y at *
  generalize ((s.card (.line n) i.val).body.drop 6).take ((s.card (.line n) i.val).byte 7) = symbols at *
  have set : (y.dialled n i.val v symbols).line n =
      { y.line n with
        profile := Profile.ofWords fun o => Memory.word s.store.mem (0x0500 + 256 * n.val + o)
        call :=
          { (y.line n).call with
            direction := .originate, service := v, tRing := 0, tOffhook := 0, tConnect := 0, tClear := 0, dayConnect := 0
            wasConnected := false, ringCount := 0, caller := .none }
        ctl := { (y.line n).ctl with declined := false, heldCarrierLoss := false, dialCard := some i.val }
        seq := .initial, grade := .initial, link := .initial
        fax := { Fax.initial with pages := (y.line n).fax.pages, orders := (y.line n).fax.orders, resendPending := false }
        voice := { (y.line n).voice with digits := [], overflow := 0 }
        dialler :=
          ⟨v, symbols, symbols, (Profile.ofWords fun o => Memory.word s.store.mem (0x0500 + 256 * n.val + o)).dialMode, .idle, .stopped, 1, 0⟩
        prog := .initial
        fm := { (y.line n).fm with retryCount := 0 } } := by
    rw [← store, State.dialled, State.line_onLine_self, State.copyProfile, State.line_onLine_self, State.callStart, State.line_onLine_self]
    rfl
  have later : LineEffect n y (y.dialled n i.val v symbols) :=
    LineEffect.onLine (LineEffect.refl.callStart _ _).copyProfile (by exact fun _ k => ⟨k.acc, k.lastQ, k.rings, k.digits⟩)
  have pending := (effect.trans later).pending
  have pumps' : (y.dialled n i.val v symbols).pumps = s.pumps := pumps
  have queue' : (y.dialled n i.val v symbols).queue = s.queue := queue
  generalize y.dialled n i.val v symbols = x at *
  refine ⟨run, .inl state, by rw [set], by rw [set], by rw [set, line]; rfl, by rw [set], by rw [set], fun _ => ⟨?_, by rw [set], by rw [set]⟩,
    (nomatch ·), effect.trans later, pumps', queue', pending⟩
  have same : x.card (.line n) i.val = y.card (.line n) i.val := State.card_congr (T := .line n) (by rw [State.table, set]; rfl) i.val
  rw [same]; exact card

/-! ## The redial -/

/-- Line `n` as the end of the retry delay leaves it before its call is placed again. -/
def State.redialled (s : State) (n : LineId) : State :=
  ((s.onFm n fun f => { f with retryPending := false }).callStart n .originate true).onLine n fun l =>
    { l with
      call := { l.call with service := l.dialler.service }
      ctl := { l.ctl with stateTimer := .stopped }
      dialler :=
        ⟨l.dialler.service, l.dialler.symbols, l.dialler.symbols, l.profile.dialMode, .idle, .stopped, l.dialler.attempt + 1, 0⟩
      prog := .initial }

/-- The end of the retry delay in HOLDOFF (R39). -/
theorem placing_redial {i : Fin 8} (state : (s.line n).call.state = .holdoff) (runs : (s.line n).ctl.stateTimer.isRunning = true) :
    Placing (.retryDelayExpiry n volt) n i volt s (s.redialled n) (s.line n).dialler.service (s.line n).dialler.symbols
      (s.line n).profile ((s.line n).dialler.attempt + 1) := by
  have run : exec (.retryDelayExpiry n volt) s = done s (s.redial n volt) := rfl
  rw [State.redial, if_pos (Line.expires_of state runs)] at run
  have set : (s.redialled n).line n =
      { s.line n with
        call :=
          { (s.line n).call with
            direction := .originate, service := (s.line n).dialler.service, tRing := 0, tOffhook := 0, tConnect := 0, tClear := 0
            dayConnect := 0, wasConnected := false, ringCount := 0, caller := .none }
        ctl := { (s.line n).ctl with declined := false, heldCarrierLoss := false, stateTimer := .stopped }
        seq := .initial, grade := .initial, link := .initial
        fax :=
          { Fax.initial with
            pages := (s.line n).fax.pages, orders := (s.line n).fax.orders, resendPending := (s.line n).fax.resendPending }
        voice := { (s.line n).voice with digits := [], overflow := 0 }
        dialler :=
          ⟨(s.line n).dialler.service, (s.line n).dialler.symbols, (s.line n).dialler.symbols, (s.line n).profile.dialMode, .idle, .stopped,
            (s.line n).dialler.attempt + 1, 0⟩
        prog := .initial
        fm := { (s.line n).fm with retryPending := false } } := by
    rw [State.redialled, State.line_onLine_self, State.callStart, State.line_onLine_self, State.line_onFm_self]
    rfl
  have later : LineEffect n s (s.redialled n) :=
    LineEffect.onLine ((LineEffect.refl.onFm _).callStart _ _) (by exact fun _ k => ⟨k.acc, k.lastQ, k.rings, k.digits⟩)
  exact ⟨run, .inr state, by rw [set], by rw [set], by rw [set]; rfl, by rw [set], by rw [set], (nomatch ·), fun _ => by rw [set], later, rfl, rfl,
    later.pending⟩

/-- Settles O43: by the order or the expiry that places the call, then by what the call needs first. Its clause about refusals is a
hypothesis of the statement and is proved apart (`dial_refused`). -/
theorem originatedCalls : Obligations.OriginatedCalls := by
  unfold Obligations.OriginatedCalls
  rintro n i volt s c v symbols p attempt card ⟨-, how⟩ begun
  have placing : ∃ x, Placing c n i volt s x v symbols p attempt := by
    rcases how with ⟨rfl, taken, state, service, named, short, rfl, rfl, rfl⟩ | ⟨rfl, state, runs, rfl, rfl, rfl, rfl⟩
    · exact ⟨_, placing_dial taken state service named short⟩
    · exact ⟨_, placing_redial state runs⟩
  obtain ⟨x, placing⟩ := placing
  exact ⟨placing.seizes, placing.dials, placing.lineAbsent, placing.granted, placing.waits, placing.noPump⟩

end Sys2Proof.Machine

/-! The first ring that is answered (O44) does not keep the answer of an abandoned retry's DIAL card: without voltage the call ends at
once, and its call-end sequence answers the ANSWER card, which in an arbitrary state may be the same card. -/

namespace Sys2Proof.Machine

set_option Elab.async false

/-- Line 0 in HOLDOFF with a retry pending, one card held both as its DIAL and as its ANSWER card, a Line Profile in the store that answers
with VOICE at the first ring. -/
def State.sharedCard : State :=
  { State.reset with
    store := { State.reset.store with mem := Memory.setWord (Memory.setWord [] 0x522 3) 0x524 1 } }.onLine 0 fun l =>
      { l with
        call := { l.call with state := .holdoff }
        fm := { l.fm with retryPending := true }
        ctl := { l.ctl with dialCard := some 0, answerCard := some 0 } }

theorem State.pumpsInOrder_sharedCard : State.sharedCard.PumpsInOrder := by
  have idle : ∀ p n, ¬State.sharedCard.serves p n := by unfold State.serves; decide
  have loose : ∀ p, (State.sharedCard.pump p).state ≠ .attached := by decide
  have empty : State.sharedCard.queue = ⟨[], []⟩ := rfl
  have unqueued : ∀ n, ¬State.sharedCard.queued n := fun n h => by simp [State.queued, empty] at h
  have claim : ∀ n, (State.sharedCard.line n).claim = none := by decide
  have pump : ∀ n, (State.sharedCard.line n).call.pump = none := by decide
  have still : ∀ n, (State.sharedCard.line n).seq.settleTimer.isRunning = false ∧ (State.sharedCard.line n).seq.listening = false := by decide
  constructor
  case settling => exact fun p n h => absurd h (idle p n)
  case one => exact fun p q n h => absurd h (idle p n)
  case waiting => exact fun p n h => absurd h (unqueued n)
  case granted => exact fun p n h => absurd h (unqueued n)
  case settles => exact fun n h => by simp [still] at h
  case listens => exact fun n h => by simp [still] at h
  all_goals simp [empty, idle, unqueued, claim, pump, loose]

/-- Refutes O44: without voltage the answer at the first ring ends the call LINE_ABSENT, and the card that answered CUT for the abandoned
retry is answered FAILED. -/
theorem not_answerOrder : ¬ Obligations.AnswerOrder := by
  unfold Obligations.AnswerOrder
  intro h
  obtain ⟨-, -, rings⟩ := h 0 0 false State.sharedCard (.ringCounted 0 false) 3
  obtain ⟨-, -, -, -, absent⟩ := rings (.inr (.inr rfl)) (by decide) rfl (by decide) (by decide) (by decide) State.pumpsInOrder_sharedCard
    (by simp only [State.serves]; decide)
  obtain ⟨t, run, ⟨-, -, -, -, -, -, retry, -⟩, -⟩ := absent rfl
  obtain ⟨abandoned, -⟩ := retry rfl rfl
  have cut := (abandoned.dial 0 rfl (by decide) (by decide) (by decide)).status
  have card : (State.sharedCard.commit (State.sharedCard.ringCounted 0 false)).card (.line 0) 0 = t.card (.line 0) 0 := by
    rw [Host.Outcome.next.inj (run.symm.trans (exec_ringCounted 0 false State.sharedCard))]
  rw [← card] at cut
  exact absurd cut (by decide +kernel)

end Sys2Proof.Machine

/-! O45: the answer sequence (03 R51 to R54; 08 R139). -/

namespace Sys2Proof.Machine

set_option Elab.async false

variable {n : LineId} {s t u x : State} {m : EntryId} {g : SlotId} {c : Instr}

/-! ## The lowest EMPTY entry -/

theorem State.lowestEmpty_eq (empty : (s.message m).state = .empty) (lowest : ∀ k < m, (s.message k).state ≠ .empty) :
    s.lowestEmpty = some m := by
  refine List.find?_eq_some_iff_getElem.mpr ⟨decide_eq_true empty, m.val, by simp, by simp, fun j less => ?_⟩
  have below := lowest ⟨j, less.trans m.isLt⟩ less
  simpa using below

theorem State.lowestEmpty_none (full : ∀ m, (s.message m).state ≠ .empty) : s.lowestEmpty = none :=
  List.find?_eq_none.mpr fun m _ => by simpa using full m

/-! ## The sequence goes on -/

theorem State.goOn_host (h : (s.line n).profile.recordAfter = false ∨ (s.line n).seq.greetingStopped = true) :
    s.goOn n = s.onSeq n fun q => { q with step := .host } := by
  rw [State.goOn, if_neg]
  rintro ⟨record, stopped⟩
  rcases h with h | h
  · rw [h] at record; exact absurd record (by decide)
  · rw [h] at stopped; exact absurd stopped (by decide)

theorem State.goOn_record (record : (s.line n).profile.recordAfter = true) (stopped : (s.line n).seq.greetingStopped = false) :
    s.goOn n = s.autoRecord n := if_pos ⟨record, stopped⟩

/-- Automatic recording begun in entry `m` (R139). -/
def State.recordingInto (s : State) (n : LineId) (m : EntryId) : State :=
  ((s.onMessage m fun y =>
    { Message.initial y.changeCount with
      state := .recording, line := n, number := s.hdr.nextMessage, dayClock := s.hdr.dayClock
      caller := (s.line n).call.caller }).onHdr fun h =>
        { h with nextMessage := if h.nextMessage = 65535 then 1 else h.nextMessage + 1 }).onLine n fun y =>
    { y with
      seq := { y.seq with step := .recording }
      voice :=
        { y.voice with
          recording := some m, recKind := .automatic, stopOnDigit := (s.line n).profile.stopOnDigit, encoder := ⟨0, 0⟩, silentRun := 0
          frame := [], ahead := 0 } }

theorem State.autoRecord_into (empty : (s.message m).state = .empty) (lowest : ∀ k < m, (s.message k).state ≠ .empty) :
    s.autoRecord n = s.recordingInto n m := by
  rw [State.autoRecord, State.lowestEmpty_eq empty lowest]
  dsimp only
  rw [State.beginRecording, State.onSeq, State.onVoice, State.onLine_onLine]
  rfl

theorem State.onMessage_onLine (s : State) (n : LineId) (f : Line → Line) (m : EntryId) (h : Message → Message) :
    (s.onLine n f).onMessage m h = (s.onMessage m h).onLine n f := rfl

theorem State.onHdr_onLine (s : State) (n : LineId) (f : Line → Line) (h : Header → Header) :
    (s.onLine n f).onHdr h = (s.onHdr h).onLine n f := rfl

/-- Recording begun on a line that an event has changed, its call record and profile apart. -/
theorem State.recordingInto_onLine {f : Line → Line} (call : (f (s.line n)).call = (s.line n).call)
    (profile : (f (s.line n)).profile = (s.line n).profile) : (s.onLine n f).recordingInto n m =
      ((s.onMessage m fun y =>
        { Message.initial y.changeCount with
          state := .recording, line := n, number := s.hdr.nextMessage, dayClock := s.hdr.dayClock
          caller := (s.line n).call.caller }).onHdr fun h =>
            { h with nextMessage := if h.nextMessage = 65535 then 1 else h.nextMessage + 1 }).onLine n fun y =>
        { f y with
          seq := { (f y).seq with step := .recording }
          voice :=
            { (f y).voice with
              recording := some m, recKind := .automatic, stopOnDigit := (s.line n).profile.stopOnDigit, encoder := ⟨0, 0⟩
              silentRun := 0, frame := [], ahead := 0 } } := by
  rw [State.recordingInto, State.line_onLine_self, call, profile]
  rw [State.onMessage_onLine, State.onHdr_onLine, State.onLine_onLine]
  rfl

/-- The voice of a line whose play is over. -/
def Voice.over (v : Voice) : Voice := if v.play = .none then v else v.stopped

theorem Voice.lastEnd_over (v : Voice) : v.over.lastEnd = v.lastEnd := by rw [Voice.over]; split <;> rfl

theorem Voice.digits_over (v : Voice) : v.over.digits = v.digits := by rw [Voice.over]; split <;> rfl

theorem State.voice_voiceTeardown_idle (idle : (s.line n).voice.recording = none) (o : CallOutcome) :
    ((s.voiceTeardown n o).line n).voice = (s.line n).voice.over := by
  unfold State.voiceTeardown
  rw [State.finishRecording_none idle, Voice.over]
  dsimp only
  split
  · rfl
  · rw [State.voice_finishPlay]
    rfl

/-- The voice after a clear decision where nothing is recorded. -/
theorem State.voice_clearDecision_idle (idle : (s.line n).voice.recording = none) (o : CallOutcome) :
    ((s.clearDecision n o).line n).voice = (s.line n).voice.over := by
  have torn : Only n [.dec, .call, .ev, .outputs, .ctl, .queue, .claim, .pumps, .grade, .link, .store, .table, .recv, .delivered, .fax, .draws,
      .others] s (((((s.decided n o).releasePump n).onGrade n Grade.ended).linkTeardown n o).faxTeardown n o) :=
    (((Only.trans (H := [.dec, .call, .ev, .outputs, .ctl, .queue, .claim, .pumps]) (Only.decided s n o) (Only.releasePump _ n)).trans
      (Only.onGrade _ n _) (H := [.dec, .call, .ev, .outputs, .ctl, .queue, .claim, .pumps, .grade])).trans (Only.linkTeardown _ n o)
      (H := [.dec, .call, .ev, .outputs, .ctl, .queue, .claim, .pumps, .grade, .link, .store, .table, .recv, .delivered])).trans
      (Only.faxTeardown _ n o)
  have after : Only n [.call, .seq, .dialler, .prog, .table, .ev, .ctl] ((s.decided n o).tornDown n o) (s.clearDecision n o) :=
    (((Only.stopUnits _ n).trans (Only.answerCallCards _ n o) (H := [.call, .seq, .dialler, .prog, .table, .ev, .ctl])).trans
      (Only.onCall _ n _) (H := [.call, .seq, .dialler, .prog, .table, .ev, .ctl])).trans (Only.raise _ n _)
  have voice : ((((((s.decided n o).releasePump n).onGrade n Grade.ended).linkTeardown n o).faxTeardown n o).line n).voice =
      (s.line n).voice := torn.of .voice
  have last : ((s.clearDecision n o).line n).voice = (((s.decided n o).tornDown n o).line n).voice := after.of .voice
  rw [last, State.tornDown, State.voice_voiceTeardown_idle (by rw [voice, idle]), voice]

/-- Automatic recording with no EMPTY entry (R139). -/
theorem State.autoRecord_full (full : ∀ m, (s.message m).state ≠ .empty) (idle : (s.line n).voice.recording = none) :
    State.Cleared n .localCleared s (s.autoRecord n) ∧ ((s.autoRecord n).line n).voice.lastEnd = .tableFull ∧
      ((s.autoRecord n).line n).ev.bits.getLsbD 11 = true ∧ ((s.autoRecord n).line n).voice.digits = (s.line n).voice.digits := by
  have run : s.autoRecord n = ((s.onVoice n fun v => { v with lastEnd := .tableFull }).raise n .message).clearDecision n .localCleared := by
    rw [State.autoRecord, State.lowestEmpty_none full]
  have effect : LineEffect n s ((s.onVoice n fun v => { v with lastEnd := .tableFull }).raise n .message) :=
    LineEffect.refl.onVoice.raise .message
  have line : ((s.onVoice n fun v => { v with lastEnd := .tableFull }).raise n .message).line n =
      { s.line n with
        voice := { (s.line n).voice with lastEnd := .tableFull }
        ev := { (s.line n).ev with bits := (s.line n).ev.bits ||| 0x0800, tally := (s.line n).ev.tally + 1 } } := by
    rw [State.raise, State.line_onLine_self, State.line_onVoice_self]
    rfl
  rw [run]
  generalize (s.onVoice n _).raise n .message = y at *
  have cleared := y.clearDecision_spec n .localCleared
  refine ⟨cleared.before (by rw [line]) (by rw [line]) effect.tick effect.events effect.aside, ?_, ?_, ?_⟩
  · rw [State.voice_clearDecision_idle (by rw [line]; exact idle), Voice.lastEnd_over, line]
  · obtain ⟨b, k, risen⟩ := cleared.events
    rw [risen, line]
    simp
  · rw [State.voice_clearDecision_idle (by rw [line]; exact idle), Voice.digits_over, line]

/-! ## The end of the 300 ms -/

/-- The call connected as voice at the end of the 300 ms (R51). -/
def State.settled (s : State) (n : LineId) : State := (s.onSeq n fun q => { q with settleTimer := .stopped }).connect n .voice

theorem exec_voiceSettleExpiry (state : (s.line n).call.state = .answering) (runs : (s.line n).seq.settleTimer.isRunning = true) :
    exec (.voiceSettleExpiry n) s = done s ((s.settled n).beginSequence n) := by
  have run : exec (.voiceSettleExpiry n) s = done s (s.voiceSettle n) := rfl
  rw [State.voiceSettle, if_pos ⟨state, runs⟩] at run
  exact run

/-- What the answer sequence finds where it begins. -/
structure Settled (n : LineId) (s x : State) : Prop where
  connects : State.Connects n .voice s x
  effect : LineEffect n s x
  only : Only n [.call, .ctl, .ev, .table, .seq] s x
  seq : (x.line n).seq =
    { (s.line n).seq with listening := (s.line n).seq.adaptive, greetingStopped := false, settleTimer := .stopped }

/-- The beginning of the sequence, before its first step (R53). -/
def State.sequenceBegun (s : State) (n : LineId) : State :=
  (s.onSeq n fun q => { q with listening := q.adaptive, greetingStopped := false }).onCtl n fun c => { c with faxToneBurst := false }

theorem State.settled_spec (s : State) (n : LineId) : Settled n s ((s.settled n).sequenceBegun n) := by
  have before : BeforeConnect n s (s.onSeq n fun q => { q with settleTimer := .stopped }) := by
    have line := State.line_onSeq_self s n fun q => { q with settleTimer := .stopped }
    exact .of_effect (LineEffect.refl.onSeq _) (by rw [line]) (by rw [line]) (by rw [line]) (by rw [line]; rfl)
  have connects := State.connects before .voice
  have connected : Only n [.call, .ctl, .ev, .table, .seq] s (s.settled n) :=
    (Only.onSeq s n _).trans (Only.connect _ n .voice)
  have seq : ((s.settled n).line n).seq = { (s.line n).seq with settleTimer := .stopped } := by
    have same : ((s.settled n).line n).seq = ((s.onSeq n fun q => { q with settleTimer := .stopped }).line n).seq :=
      (Only.connect _ n .voice).of .seq
    rw [same, State.line_onSeq_self]
  have effect : LineEffect n s (s.settled n) := (LineEffect.refl.onSeq _).connect .voice
  have connects' : State.Connects n .voice s (s.settled n) := connects
  generalize s.settled n = y at *
  have line : (y.sequenceBegun n).line n =
      { y.line n with
        seq := { (y.line n).seq with listening := (y.line n).seq.adaptive, greetingStopped := false }
        ctl := { (y.line n).ctl with faxToneBurst := false } } := by
    rw [State.sequenceBegun, State.line_onCtl_self, State.line_onSeq_self]
  have later : LineEffect n y (y.sequenceBegun n) := (LineEffect.refl.onSeq _).onCtl _
  have only : Only n [.seq, .ctl] y (y.sequenceBegun n) := (Only.onSeq y n _).trans (Only.onCtl _ n _)
  have card : ∀ i, (y.sequenceBegun n).card (.line n) i = y.card (.line n) i := only.card
  generalize y.sequenceBegun n = x at *
  refine ⟨?_, effect.trans later, connected.trans only, by rw [line, seq]⟩
  refine ⟨by rw [line]; exact connects'.call, by rw [line]; exact connects'.timer, by rw [line]; exact connects'.up,
    fun i dial answer fits => ?_, fun i answer dial fits => ?_, connects'.others.trans later.aside, connects'.steady.trans later.steady⟩
  · obtain ⟨answered, none⟩ := connects'.dial i dial answer fits
    exact ⟨answered.later later (.inl rfl) (card i), by rw [line]; exact none⟩
  · obtain ⟨answered, none⟩ := connects'.answer i answer dial fits
    exact ⟨answered.later later (.inl rfl) (card i), by rw [line]; exact none⟩

/-- The first step of the sequence where no greeting is loaded. -/
def State.afterNoGreeting (s : State) (n : LineId) : State := if (s.line n).seq.adaptive then s.beginListen n else s.goOn n

theorem State.greetingSlot_sequenceBegun (s : State) (n : LineId) :
    ((s.sequenceBegun n).line n).profile.greetingSlot = (s.line n).profile.greetingSlot := by
  rw [State.sequenceBegun, State.line_onCtl_self, State.line_onSeq_self]

theorem State.beginSequence_silent (silent : (s.line n).profile.greetingSlot = none ∨
    ∃ g, (s.line n).profile.greetingSlot = some g ∧ (s.slot g).state ≠ .loaded) :
    s.beginSequence n = (s.sequenceBegun n).afterNoGreeting n := by
  have slot := s.greetingSlot_sequenceBegun n
  unfold State.beginSequence
  dsimp only
  split
  next g found =>
    have named : (s.line n).profile.greetingSlot = some g := slot.symm.trans found
    rcases silent with none | ⟨k, other, unloaded⟩
    · rw [none] at named; cases named
    · rw [named] at other
      obtain rfl := Option.some.inj other
      exact if_neg unloaded
  next => rfl

theorem State.beginSequence_greets (slot : (s.line n).profile.greetingSlot = some g) (loaded : (s.slot g).state = .loaded) :
    s.beginSequence n = ((s.sequenceBegun n).beginPlay n (.slot g) (s.slot g).chain (s.slot g).sampleCount none).onSeq n fun q =>
      { q with step := .greeting } := by
  have same := (s.greetingSlot_sequenceBegun n).trans slot
  unfold State.beginSequence
  dsimp only
  split
  next k found =>
    obtain rfl := Option.some.inj (same.symm.trans found)
    exact if_pos loaded
  next none => exact absurd (same.symm.trans none) (by simp)

/-! ## The end of the listen time -/

theorem exec_adaptiveListenExpiry (step : (s.line n).seq.step = .listen) (listening : (s.line n).seq.listening = true)
    (runs : (s.line n).seq.listenTimer.isRunning = true) :
    exec (.adaptiveListenExpiry n) s = done s ((s.onSeq n AnswerSeq.deaf).goOn n) := by
  have run : exec (.adaptiveListenExpiry n) s = done s (s.listenExpiry n) := rfl
  rw [State.listenExpiry, if_pos ⟨step, listening, runs⟩] at run
  exact run

/-! ## The first step -/

theorem State.slot_settled (s : State) (n : LineId) (g : SlotId) : (s.settled n).slot g = s.slot g := by
  have same : (s.settled n).slots = (s.onSeq n fun q => { q with settleTimer := .stopped }).slots :=
    (Only.connect _ n .voice).of .slots
  exact congrArg (fun v : Vector Slot 8 => v[g]) same

theorem State.profile_settled (s : State) (n : LineId) : ((s.settled n).line n).profile = (s.line n).profile := by
  have same : ((s.settled n).line n).profile = ((s.onSeq n fun q => { q with settleTimer := .stopped }).line n).profile :=
    (Only.connect _ n .voice).of .profile
  rw [same, State.line_onSeq_self]

theorem exec_settle_greets (state : (s.line n).call.state = .answering) (runs : (s.line n).seq.settleTimer.isRunning = true)
    (slot : (s.line n).profile.greetingSlot = some g) (loaded : (s.slot g).state = .loaded) :
    ∃ x, Settled n s x ∧ exec (.voiceSettleExpiry n) s = done s
      ((x.beginPlay n (.slot g) (s.slot g).chain (s.slot g).sampleCount none).onSeq n fun q => { q with step := .greeting }) := by
  refine ⟨_, s.settled_spec n, ?_⟩
  rw [exec_voiceSettleExpiry state runs, State.beginSequence_greets (by rw [State.profile_settled]; exact slot)
    (by rw [State.slot_settled]; exact loaded), State.slot_settled]

theorem exec_settle_silent (state : (s.line n).call.state = .answering) (runs : (s.line n).seq.settleTimer.isRunning = true)
    (silent : (s.line n).profile.greetingSlot = none ∨ ∃ g, (s.line n).profile.greetingSlot = some g ∧ (s.slot g).state ≠ .loaded) :
    ∃ x, Settled n s x ∧ exec (.voiceSettleExpiry n) s = done s (x.afterNoGreeting n) := by
  refine ⟨_, s.settled_spec n, ?_⟩
  rw [exec_voiceSettleExpiry state runs, State.beginSequence_silent]
  rw [State.profile_settled]
  simpa only [State.slot_settled] using silent

/-- The call connected, then what the first step of the sequence leaves, the call record and the cards apart. -/
theorem Settled.stands {F : List Piece} {y : State} (h : Settled n s x) (later : LineEffect n x y) (only : Only n F x y)
    (call : .call ∉ F := by decide) (ctl : .ctl ∉ F := by decide) (table : .table ∉ F := by decide) :
    State.Connects n .voice s (s.commit y) := (h.connects.later later only call ctl table).commit

theorem State.beginPlay_slot (s : State) (n : LineId) (g : SlotId) (ch : Chain) (total : Nat) (card : Option Nat) :
    s.beginPlay n (.slot g) ch total card = (s.onVoice n fun v =>
      { v with play := .slot g, playCard := card, playChain := ch, playTotal := total, samplesPlayed := 0, decoder := ⟨0, 0⟩ }).onSlot g
        fun x => { x with playCount := x.playCount + 1 } := rfl

theorem Only.beginPlay_slot (s : State) (n : LineId) (g : SlotId) (ch : Chain) (total : Nat) (card : Option Nat) :
    Only n [.voice, .slots] s (s.beginPlay n (.slot g) ch total card) := by
  rw [State.beginPlay_slot]
  exact (Only.onVoice s n _).trans (Only.onSlot _ n g _)

theorem voiceSettleExpiry_greets (state : (s.line n).call.state = .answering) (runs : (s.line n).seq.settleTimer.isRunning = true)
    (slot : (s.line n).profile.greetingSlot = some g) (loaded : (s.slot g).state = .loaded) :
    ∃ t, exec (.voiceSettleExpiry n) s = .next t ∧ State.Connects n .voice s t ∧
      (t.line n).seq =
        { (s.line n).seq with
          step := .greeting, listening := (s.line n).seq.adaptive, greetingStopped := false, settleTimer := .stopped } ∧
      (t.line n).voice =
        { (s.line n).voice with
          play := .slot g, playCard := none, playChain := (s.slot g).chain, playTotal := (s.slot g).sampleCount
          samplesPlayed := 0, decoder := ⟨0, 0⟩ } ∧
      t.slot g = { s.slot g with playCount := (s.slot g).playCount + 1 } := by
  obtain ⟨x, settled, run⟩ := exec_settle_greets state runs slot loaded
  have slots : x.slot g = s.slot g := congrArg (fun v : Vector Slot 8 => v[g]) (settled.only.of .slots)
  have voice : (x.line n).voice = (s.line n).voice := settled.only.of .voice
  have later : LineEffect n x ((x.beginPlay n (.slot g) (s.slot g).chain (s.slot g).sampleCount none).onSeq n fun q =>
      { q with step := .greeting }) := (LineEffect.refl.beginPlay _ _ _ _).onSeq _
  have only : Only n [.voice, .slots, .seq] x ((x.beginPlay n (.slot g) (s.slot g).chain (s.slot g).sampleCount none).onSeq n fun q =>
      { q with step := .greeting }) := (Only.beginPlay_slot x n g _ _ _).trans (Only.onSeq _ n _)
  have line : ((x.beginPlay n (.slot g) (s.slot g).chain (s.slot g).sampleCount none).onSeq n fun q => { q with step := .greeting }).line n =
      { x.line n with
        seq := { (x.line n).seq with step := .greeting }
        voice :=
          { (x.line n).voice with
            play := .slot g, playCard := none, playChain := (s.slot g).chain, playTotal := (s.slot g).sampleCount
            samplesPlayed := 0, decoder := ⟨0, 0⟩ } } := by
    rw [State.line_onSeq_self, State.beginPlay, State.line_onSlot, State.line_onVoice_self]
    rfl
  have count : ((x.beginPlay n (.slot g) (s.slot g).chain (s.slot g).sampleCount none).onSeq n fun q => { q with step := .greeting }).slot g =
      { x.slot g with playCount := (x.slot g).playCount + 1 } := by
    simp [State.beginPlay_slot]
  generalize (x.beginPlay n _ _ _ none).onSeq n _ = y at *
  refine ⟨_, run, settled.stands later only, ?_, ?_, count.trans (by rw [slots])⟩ <;> rw [State.line_commit]
  · exact (congrArg Line.seq line).trans (by rw [settled.seq])
  · exact (congrArg Line.voice line).trans (by rw [voice])

theorem voiceSettleExpiry_listens (state : (s.line n).call.state = .answering) (runs : (s.line n).seq.settleTimer.isRunning = true)
    (silent : (s.line n).profile.greetingSlot = none ∨ ∃ g, (s.line n).profile.greetingSlot = some g ∧ (s.slot g).state ≠ .loaded)
    (adaptive : (s.line n).seq.adaptive = true) (limit : 0 < (s.line n).profile.listenTime) :
    ∃ t, exec (.voiceSettleExpiry n) s = .next t ∧ State.Connects n .voice s t ∧
      (t.line n).seq =
        { (s.line n).seq with
          step := .listen, listening := true, greetingStopped := false, settleTimer := .stopped
          listenTimer := .running ((s.line n).profile.listenTime * 1000) } := by
  obtain ⟨x, settled, run⟩ := exec_settle_silent state runs silent
  have profile : (x.line n).profile = (s.line n).profile := settled.only.of .profile
  have first : x.afterNoGreeting n = x.onSeq n fun q =>
      { q with step := .listen, listenTimer := .running ((s.line n).profile.listenTime * 1000) } := by
    rw [State.afterNoGreeting, if_pos (by rw [settled.seq]; exact adaptive), State.beginListen, if_neg (by rw [profile]; omega), profile]
  rw [first] at run
  refine ⟨_, run, settled.stands (LineEffect.refl.onSeq _) (Only.onSeq x n _), ?_⟩
  rw [State.line_commit, State.line_onSeq_self]
  change ({ (x.line n).seq with step := _, listenTimer := _ } : AnswerSeq) = _
  rw [settled.seq, adaptive]

theorem voiceSettleExpiry_host (state : (s.line n).call.state = .answering) (runs : (s.line n).seq.settleTimer.isRunning = true)
    (silent : (s.line n).profile.greetingSlot = none ∨ ∃ g, (s.line n).profile.greetingSlot = some g ∧ (s.slot g).state ≠ .loaded)
    (plain : (s.line n).seq.adaptive = false) (after : (s.line n).profile.recordAfter = false) :
    ∃ t, exec (.voiceSettleExpiry n) s = .next t ∧ State.Connects n .voice s t ∧
      (t.line n).seq =
        { (s.line n).seq with step := .host, listening := false, greetingStopped := false, settleTimer := .stopped } := by
  obtain ⟨x, settled, run⟩ := exec_settle_silent state runs silent
  have profile : (x.line n).profile = (s.line n).profile := settled.only.of .profile
  rw [State.afterNoGreeting, if_neg (by rw [settled.seq, plain]; decide), State.goOn_host (.inl (by rw [profile]; exact after))] at run
  refine ⟨_, run, settled.stands (LineEffect.refl.onSeq _) (Only.onSeq x n _), ?_⟩
  rw [State.line_commit, State.line_onSeq_self]
  change ({ (x.line n).seq with step := _ } : AnswerSeq) = _
  rw [settled.seq, plain]

/-- Settles O45: the call connects, and the first step is that of R53; at the end of the listen time the sequence goes on. -/
theorem answerSequence : Obligations.AnswerSequence := by
  unfold Obligations.AnswerSequence
  intro n s p q silent
  refine ⟨fun state runs => ⟨fun g => voiceSettleExpiry_greets state runs, voiceSettleExpiry_listens state runs,
    voiceSettleExpiry_host state runs⟩, ?_⟩
  intro step listening runs deaf
  have run := exec_adaptiveListenExpiry step listening runs
  have line := State.line_onSeq_self s n AnswerSeq.deaf
  have effect : LineEffect n s (s.onSeq n AnswerSeq.deaf) := LineEffect.refl.onSeq _
  refine ⟨fun ends => ?_, fun after stopped => ⟨fun m empty lowest => ?_, fun full idle => ?_⟩⟩
  · rw [State.goOn_host (by rw [line]; exact ends), State.onSeq, State.onSeq, State.onLine_onLine] at run
    exact Leads.of_done run rfl
  · rw [State.goOn_record (by rw [line]; exact after) (by rw [line]; exact stopped), State.autoRecord_into (n := n) (m := m) (s := s.onSeq n AnswerSeq.deaf) empty lowest] at run
    refine Leads.of_done run (congrArg State.uncounted ?_)
    exact State.recordingInto_onLine rfl rfl
  · rw [State.goOn_record (by rw [line]; exact after) (by rw [line]; exact stopped)] at run
    obtain ⟨cleared, last, told, -⟩ := State.autoRecord_full (s := s.onSeq n AnswerSeq.deaf) full (by rw [line]; exact idle)
    have whole := (effect.autoRecord).commit
    refine ⟨_, run, (cleared.before (by rw [line]) (by rw [line]) effect.tick effect.events effect.aside).commit, ?_, ?_, whole.steady⟩ <;>
      rw [State.line_commit]
    · exact last
    · exact told

end Sys2Proof.Machine

/-! O46: the answer sequence between its steps (03 R53 to R55, R57; 08 R139, R142). -/

namespace Sys2Proof.Machine

set_option Elab.async false

variable {n : LineId} {s t u x y : State} {m : EntryId} {g : SlotId} {c : Instr} {q : AnswerSeq}

/-! ## The sequence goes on from a state -/

/-- Line `n` with its answer sequence replaced. -/
def State.withSeq (s : State) (n : LineId) (q : AnswerSeq) : State := s.onLine n fun l => { l with seq := q }

theorem State.line_withSeq (s : State) (n : LineId) (q : AnswerSeq) : (s.withSeq n q).line n = { s.line n with seq := q } :=
  State.line_onLine_self ..

theorem State.withSeq_self (s : State) (n : LineId) : s.withSeq n (s.line n).seq = s :=
  (State.onLine_congr rfl).trans (State.onLine_id s n)

theorem State.onSeq_eq_withSeq (s : State) (n : LineId) (f : AnswerSeq → AnswerSeq) : s.onSeq n f = s.withSeq n (f (s.line n).seq) :=
  State.onLine_congr rfl

theorem State.onSeq_withSeq (s : State) (n : LineId) (q : AnswerSeq) (f : AnswerSeq → AnswerSeq) :
    (s.withSeq n q).onSeq n f = s.withSeq n (f q) := State.onLine_onLine ..

theorem Only.withSeq (s : State) (n : LineId) (q : AnswerSeq) : Only n [.seq] s (s.withSeq n q) := .onLine s n

theorem LineEffect.withSeq (h : LineEffect n s x) (q : AnswerSeq) : LineEffect n s (x.withSeq n q) := h.onLine

/-- A command whose last act is that the sequence goes on from `u`, at `q`. -/
structure GoesOn (c : Instr) (n : LineId) (s u : State) (q : AnswerSeq) : Prop where
  run : exec c s = done s ((u.withSeq n q).goOn n)
  effect : LineEffect n s u
  call : (u.line n).call = (s.line n).call
  profile : (u.line n).profile = (s.line n).profile
  recording : (u.line n).voice.recording = (s.line n).voice.recording
  messages : u.messages = s.messages
  hdr : u.hdr = s.hdr

/-- Entry `m` begun, with the words of `s` (R138, R139). -/
def State.entryBegun (u s : State) (n : LineId) (m : EntryId) : State :=
  (u.onMessage m fun y =>
    { Message.initial y.changeCount with
      state := .recording, line := n, number := s.hdr.nextMessage, dayClock := s.hdr.dayClock
      caller := (s.line n).call.caller }).onHdr fun h =>
        { h with nextMessage := if h.nextMessage = 65535 then 1 else h.nextMessage + 1 }

theorem Only.entryBegun (u s : State) (n : LineId) (m : EntryId) : Only n [.messages, .hdr] u (u.entryBegun s n m) :=
  .beside rfl

/-- Line `n` recording into entry `m`, with the words of `s`, its sequence from `q` (R139). -/
def State.records (u s : State) (n : LineId) (m : EntryId) (q : AnswerSeq) : State :=
  (u.entryBegun s n m).onLine n fun y =>
    { y with
      seq := { q with step := .recording }
      voice :=
        { y.voice with
          recording := some m, recKind := .automatic, stopOnDigit := (s.line n).profile.stopOnDigit, encoder := ⟨0, 0⟩, silentRun := 0
          frame := [], ahead := 0 } }

theorem State.message_records (u s : State) (n : LineId) (m : EntryId) (q : AnswerSeq) : (u.records s n m q).message m =
    { Message.initial (u.message m).changeCount with
      state := .recording, line := n, number := s.hdr.nextMessage, dayClock := s.hdr.dayClock
      caller := (s.line n).call.caller } := by
  simp [State.records, State.entryBegun]

theorem State.recordingInto_withSeq (call : (u.line n).call = (s.line n).call) (profile : (u.line n).profile = (s.line n).profile)
    (hdr : u.hdr = s.hdr) : (u.withSeq n q).recordingInto n m = u.records s n m q := by
  refine (State.recordingInto_onLine rfl rfl).trans ?_
  rw [State.records, State.entryBegun, call, profile, hdr]

section
variable (h : GoesOn c n s u q)
include h

theorem GoesOn.host (ends : (s.line n).profile.recordAfter = false ∨ q.greetingStopped = true) :
    Leads c s (u.withSeq n { q with step := .host }) := by
  have run := h.run
  rw [State.goOn_host (by rw [State.line_withSeq, h.profile]; exact ends), State.onSeq_withSeq] at run
  exact Leads.of_done run rfl h.effect.pending

theorem GoesOn.recordsInto (after : (s.line n).profile.recordAfter = true) (stopped : q.greetingStopped = false)
    (empty : (s.message m).state = .empty) (lowest : ∀ k < m, (s.message k).state ≠ .empty) : Leads c s (u.records s n m q) := by
  have run := h.run
  have same : ∀ k, (u.withSeq n q).message k = s.message k := fun k => congrArg (fun v : Vector Message 32 => v[k]) h.messages
  rw [State.goOn_record (by rw [State.line_withSeq, h.profile]; exact after) (by rw [State.line_withSeq]; exact stopped),
    State.autoRecord_into (m := m) (by rw [same]; exact empty) (fun k less => by rw [same]; exact lowest k less),
    State.recordingInto_withSeq h.call h.profile h.hdr] at run
  exact Leads.of_done run rfl h.effect.pending

/-- No EMPTY entry is left for the recording (R139). -/
theorem GoesOn.clears (after : (s.line n).profile.recordAfter = true) (stopped : q.greetingStopped = false)
    (full : ∀ k, (s.message k).state ≠ .empty) (idle : (s.line n).voice.recording = none) :
    ∃ t, exec c s = .next t ∧ State.Cleared n .localCleared s t ∧ (t.line n).voice.lastEnd = .tableFull ∧
      (t.line n).voice.digits = (u.line n).voice.digits ∧ (t.line n).ev.bits.getLsbD 11 = true ∧ State.Steady s t := by
  have run := h.run
  have same : ∀ k, (u.withSeq n q).message k = s.message k := fun k => congrArg (fun v : Vector Message 32 => v[k]) h.messages
  rw [State.goOn_record (by rw [State.line_withSeq, h.profile]; exact after) (by rw [State.line_withSeq]; exact stopped)] at run
  have line := u.line_withSeq n q
  have effect := h.effect.withSeq q
  obtain ⟨cleared, last, told, digits⟩ := State.autoRecord_full (s := u.withSeq n q) (n := n) (fun k => by rw [same]; exact full k)
    (by rw [line]; exact h.recording.trans idle)
  have whole := effect.autoRecord.commit
  refine ⟨_, run, (cleared.before (by rw [line]; exact h.call) (by rw [line]; exact h.profile) effect.tick effect.events effect.aside).commit,
    ?_, ?_, ?_, whole.steady⟩ <;> rw [State.line_commit]
  · exact last
  · exact digits.trans (by rw [line])
  · exact told

theorem GoesOn.full (after : (s.line n).profile.recordAfter = true) (stopped : q.greetingStopped = false)
    (full : ∀ k, (s.message k).state ≠ .empty) (idle : (s.line n).voice.recording = none) :
    ∃ t, exec c s = .next t ∧ State.Cleared n .localCleared s t ∧ (t.line n).voice.lastEnd = .tableFull ∧
      (t.line n).ev.bits.getLsbD 11 = true ∧ State.Steady s t := by
  obtain ⟨t, run, cleared, last, -, told, steady⟩ := h.clears after stopped full idle
  exact ⟨t, run, cleared, last, told, steady⟩

end

/-! ## As the call connects -/

/-- No greeting is loaded and there is nothing to listen for. -/
theorem Settled.goesOn (h : Settled n s x) (plain : (s.line n).seq.adaptive = false ∨ (s.line n).profile.listenTime = 0) :
    ∃ q, x.afterNoGreeting n = (x.withSeq n q).goOn n ∧ q.listening = false ∧ q.greetingStopped = false := by
  have profile : (x.line n).profile = (s.line n).profile := h.only.of .profile
  have seq := h.seq
  cases adaptive : (s.line n).seq.adaptive with
  | false =>
    refine ⟨(x.line n).seq, ?_, by rw [seq]; exact adaptive, by rw [seq]⟩
    rw [State.afterNoGreeting, if_neg (by rw [seq, adaptive]; decide), State.withSeq_self]
  | true =>
    have limit : (s.line n).profile.listenTime = 0 := plain.resolve_left (by rw [adaptive]; decide)
    refine ⟨AnswerSeq.deaf (x.line n).seq, ?_, rfl, by rw [seq]; rfl⟩
    rw [State.afterNoGreeting, if_pos (by rw [seq]; exact adaptive), State.beginListen, if_pos (by rw [profile]; exact limit),
      State.onSeq_eq_withSeq]

theorem voiceSettleExpiry_goesOn (state : (s.line n).call.state = .answering) (runs : (s.line n).seq.settleTimer.isRunning = true)
    (silent : (s.line n).profile.greetingSlot = none ∨ ∃ g, (s.line n).profile.greetingSlot = some g ∧ (s.slot g).state ≠ .loaded)
    (plain : (s.line n).seq.adaptive = false ∨ (s.line n).profile.listenTime = 0) :
    ∃ x q, Settled n s x ∧ exec (.voiceSettleExpiry n) s = done s ((x.withSeq n q).goOn n) ∧ q.listening = false ∧
      q.greetingStopped = false := by
  obtain ⟨x, settled, run⟩ := exec_settle_silent state runs silent
  obtain ⟨q, goes, listening, stopped⟩ := settled.goesOn plain
  exact ⟨x, q, settled, by rw [run, goes], listening, stopped⟩

section
variable (state : (s.line n).call.state = .answering) (runs : (s.line n).seq.settleTimer.isRunning = true)
  (silent : (s.line n).profile.greetingSlot = none ∨ ∃ g, (s.line n).profile.greetingSlot = some g ∧ (s.slot g).state ≠ .loaded)
  (plain : (s.line n).seq.adaptive = false ∨ (s.line n).profile.listenTime = 0)
include state runs silent plain

theorem voiceSettleExpiry_toHost (after : (s.line n).profile.recordAfter = false) :
    ∃ t, exec (.voiceSettleExpiry n) s = .next t ∧ State.Connects n .voice s t ∧ (t.line n).seq.step = .host ∧
      (t.line n).seq.listening = false ∧ (t.line n).voice = (s.line n).voice := by
  obtain ⟨x, q, settled, run, listening, -⟩ := voiceSettleExpiry_goesOn state runs silent plain
  have profile : (x.line n).profile = (s.line n).profile := settled.only.of .profile
  have voice : (x.line n).voice = (s.line n).voice := settled.only.of .voice
  rw [State.goOn_host (.inl (by rw [State.line_withSeq, profile]; exact after)), State.onSeq_withSeq] at run
  refine ⟨_, run, settled.stands (LineEffect.refl.withSeq _) (Only.withSeq x n _), ?_, ?_, ?_⟩ <;>
    rw [State.line_commit, State.line_withSeq]
  · rfl
  · exact listening
  · exact voice

theorem voiceSettleExpiry_records (after : (s.line n).profile.recordAfter = true) (empty : (s.message m).state = .empty)
    (lowest : ∀ k < m, (s.message k).state ≠ .empty) :
    ∃ t, exec (.voiceSettleExpiry n) s = .next t ∧ State.Connects n .voice s t ∧ (t.line n).seq.step = .recording ∧
      (t.line n).seq.listening = false ∧
      (t.line n).voice =
        { (s.line n).voice with
          recording := some m, recKind := .automatic, stopOnDigit := (s.line n).profile.stopOnDigit, encoder := ⟨0, 0⟩, silentRun := 0
          frame := [], ahead := 0 } ∧
      t.message m =
        { Message.initial (t.message m).changeCount with
          state := .recording, line := n, number := s.hdr.nextMessage, dayClock := s.hdr.dayClock
          caller := (s.line n).call.caller } ∧
      t.hdr.nextMessage = if s.hdr.nextMessage = 65535 then 1 else s.hdr.nextMessage + 1 := by
  obtain ⟨x, q, settled, run, listening, stopped⟩ := voiceSettleExpiry_goesOn state runs silent plain
  have profile : (x.line n).profile = (s.line n).profile := settled.only.of .profile
  have voice : (x.line n).voice = (s.line n).voice := settled.only.of .voice
  have messages : ∀ k, x.message k = s.message k := fun k => congrArg (fun v : Vector Message 32 => v[k]) (settled.only.of .messages)
  have hdr : x.hdr.nextMessage = s.hdr.nextMessage ∧ x.hdr.dayClock = s.hdr.dayClock := by
    have same : { x.hdr with ev := Header.initial.ev } = { s.hdr with ev := Header.initial.ev } := settled.only.of .hdr
    have number := congrArg Header.nextMessage same
    have day := congrArg Header.dayClock same
    exact ⟨number, day⟩
  have caller : (x.line n).call.caller = (s.line n).call.caller := by rw [settled.connects.call]
  have kept : ∀ k, (x.withSeq n q).message k = s.message k := messages
  have effect : LineEffect n x (x.withSeq n q) := LineEffect.refl.withSeq q
  rw [State.goOn_record (by rw [State.line_withSeq, profile]; exact after) (by rw [State.line_withSeq]; exact stopped)] at run
  have recorded := effect.autoRecord
  rw [State.autoRecord_into (m := m) (by rw [kept]; exact empty) (fun k less => by rw [kept]; exact lowest k less)] at run recorded
  have into : (x.withSeq n q).recordingInto n m = x.records x n m q := State.recordingInto_withSeq rfl rfl rfl
  rw [into] at run recorded
  have only : Only n [.messages, .hdr, .seq, .voice] x (x.records x n m q) :=
    (Only.entryBegun x x n m).trans (Only.onLine (F := [.seq, .voice]) _ n)
  have line : (x.records x n m q).line n =
      { x.line n with
        seq := { q with step := .recording }
        voice :=
          { (x.line n).voice with
            recording := some m, recKind := .automatic, stopOnDigit := (x.line n).profile.stopOnDigit, encoder := ⟨0, 0⟩, silentRun := 0
            frame := [], ahead := 0 } } := State.line_onLine_self ..
  have message : (x.records x n m q).message m =
      { Message.initial (x.message m).changeCount with
        state := .recording, line := n, number := x.hdr.nextMessage, dayClock := x.hdr.dayClock, caller := (x.line n).call.caller } :=
    (State.message_records x x n m q).trans rfl
  have next : (x.records x n m q).hdr.nextMessage = if x.hdr.nextMessage = 65535 then 1 else x.hdr.nextMessage + 1 := rfl
  generalize x.records x n m q = y at *
  refine ⟨_, run, settled.stands recorded only, ?_, ?_, ?_, ?_, next.trans (by rw [hdr.1])⟩
  · rw [State.line_commit]; exact congrArg (fun l : Line => l.seq.step) line
  · rw [State.line_commit]; exact (congrArg (fun l : Line => l.seq.listening) line).trans listening
  · rw [State.line_commit]; exact (congrArg Line.voice line).trans (by rw [voice, profile])
  · rw [State.message_commit, commitMessage, message, hdr.1, hdr.2, caller]
    rfl

theorem voiceSettleExpiry_full (after : (s.line n).profile.recordAfter = true) (full : ∀ k, (s.message k).state ≠ .empty)
    (idle : (s.line n).voice.recording = none) :
    ∃ t, exec (.voiceSettleExpiry n) s = .next t ∧ (t.line n).call.state = .clearing ∧ (t.line n).call.lastOutcome = .localCleared ∧
      (t.line n).call.tConnect = (if (s.line n).call.wasConnected then (s.line n).call.tConnect else s.hdr.tick) ∧
      (t.line n).call.tClear = s.hdr.tick ∧ (t.line n).voice.lastEnd = .tableFull ∧ (t.line n).ev.bits.getLsbD 2 = true ∧
      (t.line n).ev.bits.getLsbD 3 = true ∧ (t.line n).ev.bits.getLsbD 11 = true ∧ State.Aside n s t ∧ State.Steady s t := by
  obtain ⟨x, q, settled, run, -, stopped⟩ := voiceSettleExpiry_goesOn state runs silent plain
  have profile : (x.line n).profile = (s.line n).profile := settled.only.of .profile
  have voice : (x.line n).voice = (s.line n).voice := settled.only.of .voice
  have kept : ∀ k, (x.withSeq n q).message k = s.message k :=
    fun k => congrArg (fun v : Vector Message 32 => v[k]) (settled.only.of .messages)
  have line := x.line_withSeq n q
  have effect : LineEffect n s (x.withSeq n q) := settled.effect.withSeq q
  rw [State.goOn_record (by rw [line, profile]; exact after) (by rw [line]; exact stopped)] at run
  obtain ⟨cleared, last, told, -⟩ := State.autoRecord_full (s := x.withSeq n q) (n := n) (fun k => by rw [kept]; exact full k)
    (by rw [line, voice]; exact idle)
  have whole := effect.autoRecord.commit (s := s)
  have tick := effect.tick
  generalize (x.withSeq n q).autoRecord n = y at *
  have call := cleared.call
  rw [line, settled.connects.call, tick] at call
  have up : (y.line n).ev.bits.getLsbD 2 = true := by
    obtain ⟨b, k, risen⟩ := cleared.events
    rw [risen, line]
    simp only [BitVec.getLsbD_or, settled.connects.up, Bool.true_or]
  refine ⟨_, run, ?_, ?_, ?_, ?_, ?_, ?_, ?_, ?_, whole.aside, whole.steady⟩ <;> rw [State.line_commit]
  · exact congrArg CallRecord.state call
  · exact congrArg CallRecord.lastOutcome call
  · exact congrArg CallRecord.tConnect call
  · exact congrArg CallRecord.tClear call
  · exact last
  · exact up
  · exact cleared.down
  · exact told

end

/-! ## The end of a greeting -/

/-- The sequence as the end of a greeting finds it. -/
def AnswerSeq.told (q : AnswerSeq) (stopped : Bool) : AnswerSeq := { q with greetingStopped := q.greetingStopped || stopped }

theorem AnswerSeq.told_false (q : AnswerSeq) : q.told false = q := by rw [AnswerSeq.told, Bool.or_false]

theorem State.afterGreeting_elsewhere (step : (s.line n).seq.step ≠ .greeting) (stopped : Bool) :
    s.afterGreeting n stopped = s.withSeq n ((s.line n).seq.told stopped) := by
  have told := s.onSeq_eq_withSeq n fun q => { q with greetingStopped := q.greetingStopped || stopped }
  unfold State.afterGreeting
  dsimp only
  rw [told]
  split
  next e => rw [State.line_withSeq] at e; exact absurd e step
  next => rfl

theorem State.afterGreeting_at (step : (s.line n).seq.step = .greeting) (stopped : Bool) : s.afterGreeting n stopped =
    if (s.line n).seq.listening then (s.withSeq n ((s.line n).seq.told stopped)).beginListen n
    else (s.withSeq n ((s.line n).seq.told stopped)).goOn n := by
  have told := s.onSeq_eq_withSeq n fun q => { q with greetingStopped := q.greetingStopped || stopped }
  unfold State.afterGreeting
  dsimp only
  rw [told]
  split
  next => rw [State.line_withSeq]; rfl
  next other => rw [State.line_withSeq] at other; exact absurd step other

theorem State.afterGreeting_listens (step : (s.line n).seq.step = .greeting) (listening : (s.line n).seq.listening = true)
    (limit : 0 < (s.line n).profile.listenTime) (stopped : Bool) : s.afterGreeting n stopped = s.withSeq n
      { (s.line n).seq.told stopped with step := .listen, listenTimer := .running ((s.line n).profile.listenTime * 1000) } := by
  rw [State.afterGreeting_at step, if_pos listening, State.beginListen, State.line_withSeq, if_neg (by dsimp only; omega), State.onSeq_withSeq]

theorem State.afterGreeting_deaf (step : (s.line n).seq.step = .greeting) (listening : (s.line n).seq.listening = true)
    (limit : (s.line n).profile.listenTime = 0) (stopped : Bool) :
    s.afterGreeting n stopped = (s.withSeq n (((s.line n).seq.told stopped).deaf)).goOn n := by
  rw [State.afterGreeting_at step, if_pos listening, State.beginListen, State.line_withSeq, if_pos limit, State.onSeq_withSeq]

theorem State.afterGreeting_plain (step : (s.line n).seq.step = .greeting) (plain : (s.line n).seq.listening = false) (stopped : Bool) :
    s.afterGreeting n stopped = (s.withSeq n ((s.line n).seq.told stopped)).goOn n := by
  rw [State.afterGreeting_at step, if_neg (by rw [plain]; decide)]

/-- A play without a card is a greeting: its end is told to the sequence. -/
theorem State.endPlay_greeting (card : (s.line n).voice.playCard = none) (e : PlayEnd) :
    s.endPlay n e = (s.playStopped n).afterGreeting n (decide (e = .stopped)) := by
  rw [State.endPlay, card]
  change (s.finishPlay n e .done 0).afterGreeting n _ = _
  rw [State.finishPlay_none card]

/-- The next sample of a play sent (R148). -/
def State.samplePlayed (s : State) (n : LineId) (d : Codec) : State :=
  (s.onVoice n fun v => { v with decoder := d, samplesPlayed := v.samplesPlayed + 1 }).emit (.audio n d.p)

theorem State.line_samplePlayed (s : State) (n : LineId) (d : Codec) : (s.samplePlayed n d).line n =
    { s.line n with voice := { (s.line n).voice with decoder := d, samplesPlayed := (s.line n).voice.samplesPlayed + 1 } } := by
  rw [State.samplePlayed, State.line_emit, State.line_onVoice_self]

/-- The decoder after the next sample of a play (R148). -/
def State.nextDecoder (s : State) (n : LineId) : Codec := (s.line n).voice.decoder.decode (s.store.nextCode (s.line n).voice)

theorem exec_decodeSample (play : (s.line n).voice.play ≠ .none) : exec (.decodeSample n) s = done s
    (if (s.line n).voice.playTotal ≤ (s.line n).voice.samplesPlayed + 1 then (s.samplePlayed n (s.nextDecoder n)).endPlay n .ended
     else s.samplePlayed n (s.nextDecoder n)) := by
  have run : exec (.decodeSample n) s = done s (if ((s.samplePlayed n (s.nextDecoder n)).line n).voice.playTotal ≤
      ((s.samplePlayed n (s.nextDecoder n)).line n).voice.samplesPlayed then (s.samplePlayed n (s.nextDecoder n)).endPlay n .ended
     else s.samplePlayed n (s.nextDecoder n)) := congrArg (done s) (if_neg play)
  rw [State.line_samplePlayed] at run
  exact run

/-- The last sample of a greeting sent, its play over (R148). -/
def State.greetingPlayed (s : State) (n : LineId) (g : SlotId) (d : Codec) : State :=
  ((s.onLine n fun y =>
    { y with
      voice :=
        { y.voice with
          play := .none, playChain := [], playTotal := 0, decoder := d, samplesPlayed := (s.line n).voice.samplesPlayed + 1 } }).onSlot g
    fun x => { x with playCount := x.playCount - 1 }).emit (.audio n d.p)

theorem State.line_greetingPlayed (s : State) (n : LineId) (g : SlotId) (d : Codec) : (s.greetingPlayed n g d).line n =
    { s.line n with
      voice :=
        { (s.line n).voice with
          play := .none, playChain := [], playTotal := 0, decoder := d, samplesPlayed := (s.line n).voice.samplesPlayed + 1 } } := by
  rw [State.greetingPlayed, State.line_emit, State.line_onSlot, State.line_onLine_self]

theorem State.playStopped_samplePlayed (play : (s.line n).voice.play = .slot g) (card : (s.line n).voice.playCard = none)
    (loaded : (s.slot g).state = .loaded) (d : Codec) : (s.samplePlayed n d).playStopped n = s.greetingPlayed n g d := by
  have rest : (((s.samplePlayed n d).onVoice n Voice.stopped).slot g).state ≠ .withdrawing := by
    rw [show ((s.samplePlayed n d).onVoice n Voice.stopped).slot g = s.slot g from rfl, loaded]; decide
  rw [State.playStopped_slot (by rw [State.line_samplePlayed]; exact play), State.slotPlayEnds_rest (.inl rest)]
  have voice : (s.onVoice n fun v => { v with decoder := d, samplesPlayed := v.samplesPlayed + 1 }).onVoice n Voice.stopped =
      s.onLine n fun y =>
        { y with
          voice :=
            { y.voice with
              play := .none, playChain := [], playTotal := 0, decoder := d, samplesPlayed := (s.line n).voice.samplesPlayed + 1 } } := by
    rw [State.onVoice, State.onVoice, State.onLine_onLine]
    refine State.onLine_congr ?_
    simp only [Voice.stopped, card]
  exact congrArg (fun x : State => (x.onSlot g fun y => { y with playCount := y.playCount - 1 }).emit (.audio n d.p)) voice

theorem exec_decodeSample_last (play : (s.line n).voice.play = .slot g) (card : (s.line n).voice.playCard = none)
    (last : (s.line n).voice.playTotal ≤ (s.line n).voice.samplesPlayed + 1) (loaded : (s.slot g).state = .loaded) :
    exec (.decodeSample n) s = done s ((s.greetingPlayed n g (s.nextDecoder n)).afterGreeting n false) := by
  have run := exec_decodeSample (s := s) (n := n) (by rw [play]; nofun)
  rw [if_pos last, State.endPlay_greeting (by rw [State.line_samplePlayed]; exact card), State.playStopped_samplePlayed play card loaded] at run
  exact run

theorem LineEffect.greetingPlayed (s : State) (n : LineId) (g : SlotId) (d : Codec) : LineEffect n s (s.greetingPlayed n g d) := by
  unfold State.greetingPlayed
  refine LineEffect.emit (LineEffect.onSlot (LineEffect.onLine .refl ?_) g _) _
  exact fun _ k => ⟨k.acc, k.lastQ, k.rings, k.digits⟩

section
variable (play : (s.line n).voice.play = .slot g) (card : (s.line n).voice.playCard = none)
  (last : (s.line n).voice.playTotal ≤ (s.line n).voice.samplesPlayed + 1) (loaded : (s.slot g).state = .loaded)
include play card last loaded

theorem leads_greetingEnd_elsewhere (step : (s.line n).seq.step ≠ .greeting) :
    Leads (.decodeSample n) s (s.greetingPlayed n g (s.nextDecoder n)) := by
  have run := exec_decodeSample_last play card last loaded
  have line := s.line_greetingPlayed n g (s.nextDecoder n)
  have pending := (LineEffect.greetingPlayed s n g (s.nextDecoder n)).pending
  generalize s.greetingPlayed n g (s.nextDecoder n) = x at *
  rw [State.afterGreeting_elsewhere (by rw [line]; exact step), AnswerSeq.told_false, State.withSeq_self] at run
  exact Leads.of_done run rfl pending

theorem leads_greetingEnd_listens (step : (s.line n).seq.step = .greeting) (listening : (s.line n).seq.listening = true)
    (limit : 0 < (s.line n).profile.listenTime) :
    Leads (.decodeSample n) s ((s.greetingPlayed n g (s.nextDecoder n)).withSeq n
      { (s.line n).seq with step := .listen, listenTimer := .running ((s.line n).profile.listenTime * 1000) }) := by
  have run := exec_decodeSample_last play card last loaded
  have line := s.line_greetingPlayed n g (s.nextDecoder n)
  have pending := (LineEffect.greetingPlayed s n g (s.nextDecoder n)).pending
  generalize s.greetingPlayed n g (s.nextDecoder n) = x at *
  rw [State.afterGreeting_listens (by rw [line]; exact step) (by rw [line]; exact listening) (by rw [line]; exact limit),
    AnswerSeq.told_false, line] at run
  exact Leads.of_done run rfl pending

theorem goesOn_greetingEnd {x : AnswerSeq} (step : (s.line n).seq.step = .greeting)
    (how : (s.line n).seq.listening = true ∧ (s.line n).profile.listenTime = 0 ∧
        x = { (s.line n).seq with listening := false, listenTimer := .stopped } ∨
      (s.line n).seq.listening = false ∧ x = (s.line n).seq) :
    GoesOn (.decodeSample n) n s (s.greetingPlayed n g (s.nextDecoder n)) x := by
  have run := exec_decodeSample_last play card last loaded
  have line := s.line_greetingPlayed n g (s.nextDecoder n)
  have effect := LineEffect.greetingPlayed s n g (s.nextDecoder n)
  have messages : (s.greetingPlayed n g (s.nextDecoder n)).messages = s.messages := rfl
  have hdr : (s.greetingPlayed n g (s.nextDecoder n)).hdr = s.hdr := rfl
  generalize s.greetingPlayed n g (s.nextDecoder n) = y at *
  refine ⟨?_, effect, by rw [line], by rw [line], by rw [line], messages, hdr⟩
  rcases how with ⟨listening, limit, rfl⟩ | ⟨plain, rfl⟩
  · rw [State.afterGreeting_deaf (by rw [line]; exact step) (by rw [line]; exact listening) (by rw [line]; exact limit),
      AnswerSeq.told_false, line] at run
    exact run
  · rw [State.afterGreeting_plain (by rw [line]; exact step) (by rw [line]; exact plain), AnswerSeq.told_false, line] at run
    exact run

end

/-! ## STOP -/

/-- The sequence when a STOP has ended a greeting (R55). -/
def Line.greetingCut (l : Line) : AnswerSeq :=
  if l.seq.step = .greeting then
    if l.seq.listening then
      if 0 < l.profile.listenTime then
        { l.seq with greetingStopped := true, step := .listen, listenTimer := .running (l.profile.listenTime * 1000) }
      else { l.seq with listening := false, listenTimer := .stopped, greetingStopped := true, step := .host }
    else { l.seq with greetingStopped := true, step := .host }
  else { l.seq with greetingStopped := true }

/-- After a STOP the sequence never records. -/
theorem State.afterGreeting_stopped (s : State) (n : LineId) : s.afterGreeting n true = s.withSeq n (s.line n).greetingCut := by
  have told : (s.line n).seq.told true = { (s.line n).seq with greetingStopped := true } := by rw [AnswerSeq.told, Bool.or_true]
  have host : ∀ q : AnswerSeq, q.greetingStopped = true → (s.withSeq n q).goOn n = s.withSeq n { q with step := .host } := fun q stopped => by
    rw [State.goOn_host (.inr (by rw [State.line_withSeq]; exact stopped)), State.onSeq_withSeq]
  unfold Line.greetingCut
  split
  next step =>
    cases listening : (s.line n).seq.listening with
    | false =>
      rw [State.afterGreeting_plain step listening, told, host _ rfl, if_neg Bool.false_ne_true]
    | true =>
      rw [if_pos rfl]
      split
      next limit => rw [State.afterGreeting_listens step listening limit, told, ← listening]
      next none =>
        rw [State.afterGreeting_deaf step listening (by omega), told, host _ rfl]
        rfl
  next step => rw [State.afterGreeting_elsewhere step, told]

theorem State.seq_playStopped (s : State) (n : LineId) : ((s.playStopped n).line n).seq = (s.line n).seq :=
  (Only.playStopped s n).of .seq

theorem stop_greeting {i : Fin 8} (play : (s.line n).voice.play = .slot g) (card : (s.line n).voice.playCard = none)
    (idle : (s.line n).voice.recording = none) (voice : (s.line n).connectedAs .voice = true)
    (taken : s.takesCard (.line n) i.val (· == 10) = true) : ∃ t, exec (.stop n i) s = .next t ∧
      State.Answered (.line n) i.val .done 0 0 [1, 0] s t ∧ (t.line n).voice.play = .none ∧ (t.line n).voice.recording = none ∧
      (t.line n).call = (s.line n).call ∧ (t.line n).seq = (s.line n).greetingCut := by
  have dispatch : exec (.stop n i) s = execStop n i s := rfl
  rw [dispatch, execStop, takeOrder_taken taken]
  have line := State.line_taking s n i.val
  have effect : LineEffect n s (s.taking (.line n) i.val) := LineEffect.refl.taking _
  generalize s.taking (.line n) i.val = x at *
  have state : ¬((x.line n).call.state = .off ∨ (x.line n).call.state = .fault) := by
    have connected := Line.state_of_connectedAs voice
    rw [line]
    rintro (e | e) <;> exact absurd (connected.symm.trans e) (by decide)
  have playing : decide ((x.line n).voice.play ≠ .none) = true := decide_eq_true (by rw [line, play]; nofun)
  have recording : (x.line n).voice.recording.isSome = false := by rw [line, idle]; rfl
  rw [State.stopOrder, if_neg state]
  dsimp only
  rw [playing, recording, if_pos rfl, if_neg Bool.false_ne_true, State.endPlay_greeting (by rw [line]; exact card)]
  have ended : (x.playStopped n).afterGreeting n (decide (PlayEnd.stopped = .stopped)) =
      (x.playStopped n).withSeq n ((x.playStopped n).line n).greetingCut := State.afterGreeting_stopped ..
  rw [ended]
  have stopped := State.voice_playStopped x n
  have only := Only.playStopped x n
  have profile : ((x.playStopped n).line n).profile = (x.line n).profile := only.of .profile
  have call : ((x.playStopped n).line n).call = (x.line n).call := only.of .call
  have cut : ((x.playStopped n).line n).greetingCut = (s.line n).greetingCut := by
    rw [Line.greetingCut, State.seq_playStopped, profile, line]
    rfl
  rw [cut]
  have later : LineEffect n s (x.playStopped n) := effect.trans (LineEffect.playStopped x n)
  generalize x.playStopped n = y at *
  have set := y.line_withSeq n (s.line n).greetingCut
  refine ⟨_, rfl, State.answered_taken taken (later.withSeq _) .done 0 [1, 0], ?_, ?_, ?_, ?_⟩ <;>
    rw [State.line_commit]
  · change ((State.answer _ _ _ _ _ _).line n).voice.play = _
    rw [State.voice_line_answer, set]; exact congrArg Voice.play stopped
  · change ((State.answer _ _ _ _ _ _).line n).voice.recording = _
    rw [State.voice_line_answer, set]; exact (congrArg Voice.recording stopped).trans (by rw [line]; exact idle)
  · change ((State.answer _ _ _ _ _ _).line n).call = _
    rw [State.call_line_answer, set]; exact call.trans (by rw [line])
  · change ((State.answer _ _ _ _ _ _).line n).seq = _
    rw [State.seq_line_answer, set]

/-! ## A switch claim that expires -/

/-- A claim given up where no pump settles for it (R62). -/
theorem State.dropClaim_unserved (unserved : ∀ p, s.serves p n → (s.pump p).state ≠ .settling) :
    s.dropClaim n = { s with queue := s.queue.remove n }.onLine n fun l => { l with claim := none } := by
  have fixed : ∀ (x : State) (p : PumpId), x.pumps = s.pumps →
      (if (x.pump p).state = .settling ∧ (x.pump p).line = some n then x.onPump p fun q => { q with line := none } else x) = x := by
    intro x p same
    have pump : x.pump p = s.pump p := congrArg (fun v : Vector Pump 3 => v[p]) same
    rw [pump]
    exact if_neg fun h => unserved p h.2 h.1
  unfold State.dropClaim
  dsimp only
  generalize hx : { s with queue := s.queue.remove n }.onLine n (fun l => { l with claim := none }) = x
  have same : x.pumps = s.pumps := by rw [← hx]; rfl
  have fold : ∀ ps : List PumpId, ps.foldl (fun y p =>
      if (y.pump p).state = .settling ∧ (y.pump p).line = some n then y.onPump p fun q => { q with line := none } else y) x = x := by
    intro ps
    induction ps with
    | nil => rfl
    | cons p ps ih => rw [List.foldl_cons, fixed x p same, ih]
  exact fold allPumps

section
variable (voice : (s.line n).connectedAs .voice = true) (step : (s.line n).seq.step = .switchWait)
  (claim : ∃ k, (s.line n).claim = some k ∧ k.wait.isRunning = true)
include step claim

theorem exec_switchClaimExpiry : exec (.claimWaitExpiry n) s = done s
    (if (((s.dropClaim n).takeFault n .noPump .none true false).line n).call.state = .connected then
      ((s.dropClaim n).takeFault n .noPump .none true false).resumeSequence n
     else (s.dropClaim n).takeFault n .noPump .none true false) := by
  obtain ⟨k, held, runs⟩ := claim
  have run : exec (.claimWaitExpiry n) s = done s (s.claimWaitExpiry n) := rfl
  rw [run, State.claimWaitExpiry, held]
  dsimp only
  rw [if_pos runs, State.expireClaim]
  dsimp only
  rw [if_pos (by rw [State.line_dropClaim]; exact step)]

include voice

theorem faults_switchClaim (policy : (s.line n).applied .noPump = .latch ∨ (s.line n).applied .noPump = .retry) :
    Faults (.claimWaitExpiry n) n .noPump .none s := by
  have run := exec_switchClaimExpiry step claim
  have line := State.line_dropClaim s n
  have effect : LineEffect n s (s.dropClaim n) := LineEffect.refl.dropClaim
  generalize s.dropClaim n = x at *
  have takes : (x.line n).takesFault false = true := by
    rw [line]
    exact Line.takesFault_of (.inr (.inr (by rw [Line.state_of_connectedAs voice]; rfl)))
  have applied : (x.line n).applied .noPump = (s.line n).applied .noPump := by rw [line]; rfl
  rw [State.takeFault_ends (by rw [applied]; exact policy)] at run
  have faulted := State.takeFault_spec x n .noPump .none false takes
  rw [if_neg (by rw [faulted.cleared.call]; nofun)] at run
  exact Faults.of_done run takes (by rw [line]) (by rw [line]) (by rw [line]) effect

/-- The line after a switch claim that expired without clearing the call (R57). -/
def State.switchGivenUp (s : State) (n : LineId) : State :=
  { s with queue := s.queue.remove n }.onLine n fun y =>
    { y with
      claim := none
      fm := { y.fm with last := some ⟨.noPump, .none, (s.line n).applied .noPump, s.hdr.tick⟩ }
      ev := if (s.line n).applied .noPump = Policy.silent then y.ev else y.ev.raise 12 }

theorem exec_switchGivenUp (policy : (s.line n).applied .noPump = .report ∨ (s.line n).applied .noPump = .silent)
    (unserved : ∀ p, s.serves p n → (s.pump p).state ≠ .settling) :
    exec (.claimWaitExpiry n) s = done s ((s.switchGivenUp n).resumeSequence n) := by
  have run := exec_switchClaimExpiry step claim
  have line := State.line_dropClaim s n
  have tick : (s.dropClaim n).hdr.tick = s.hdr.tick := (LineEffect.refl (n := n) (s := s)).dropClaim.tick
  have takes : ((s.dropClaim n).line n).takesFault false = true := by
    rw [line]
    exact Line.takesFault_of (.inr (.inr (by rw [Line.state_of_connectedAs voice]; rfl)))
  have applied : ((s.dropClaim n).line n).applied .noPump = (s.line n).applied .noPump := by rw [line]; rfl
  have given : (s.dropClaim n).takeFault n .noPump .none true false = s.switchGivenUp n := by
    rw [State.takeFault_goesOn takes (by rw [applied]; exact policy), applied, tick, State.dropClaim_unserved unserved, State.onLine_onLine]
    rfl
  rw [given] at run
  have kept : ((s.switchGivenUp n).line n).call = (s.line n).call := by rw [State.switchGivenUp, State.line_onLine_self]; rfl
  rw [if_pos (by rw [kept]; exact Line.state_of_connectedAs voice)] at run
  exact run

end

theorem State.line_switchGivenUp (s : State) (n : LineId) : (s.switchGivenUp n).line n =
    { s.line n with
      claim := none
      fm := { (s.line n).fm with last := some ⟨.noPump, .none, (s.line n).applied .noPump, s.hdr.tick⟩ }
      ev := if (s.line n).applied .noPump = Policy.silent then (s.line n).ev else (s.line n).ev.raise 12 } :=
  State.line_onLine_self ..

theorem LineEffect.switchGivenUp (s : State) (n : LineId) : LineEffect n s (s.switchGivenUp n) := by
  refine LineEffect.onLine (LineEffect.refl.withWaitQueue _) (he := fun l => ?_)
  dsimp only
  split
  · exact .refl
  · exact EventWord.Risen.refl.raise _

/-- The sequence resumes at GREETING while the greeting plays (R57). -/
theorem State.resumeSequence_greets (card : (s.line n).voice.playCard = none) (play : (s.line n).voice.play = .slot g) :
    s.resumeSequence n = s.withSeq n { (s.line n).seq with step := .greeting } := by
  unfold State.resumeSequence
  rw [play, card]
  exact s.onSeq_eq_withSeq n _

theorem State.resumeSequence_goesOn (no : ¬((s.line n).voice.playCard = none ∧ ∃ g, (s.line n).voice.play = .slot g)) :
    s.resumeSequence n = s.goOn n := by
  unfold State.resumeSequence
  split
  next play card => exact absurd ⟨card, _, play⟩ no
  next => rfl

theorem Line.applied_answer (direction : (s.line n).call.direction = .answer) {k : FaultKind} {p : Policy}
    (policy : (s.line n).profile.policy k = p) : (s.line n).applied k = if p = .retry then Policy.report else p := by
  rw [Line.applied, policy, direction]
  cases p <;> rfl

/-- Settles O46: the sequence goes on from the state that its step leaves, to a recording, to HOST, or to the end of the call. -/
theorem answerSequenceGoesOn : Obligations.AnswerSequenceGoesOn := by
  unfold Obligations.AnswerSequenceGoesOn
  intro n s l p q v deaf lowest full records seq
  refine ⟨fun state runs silent plain => ⟨voiceSettleExpiry_toHost state runs silent plain, fun after =>
    ⟨fun m low => voiceSettleExpiry_records state runs silent plain after low.1 low.2, fun none =>
      voiceSettleExpiry_full state runs silent plain after none.1 none.2⟩⟩, ?_, ?_, ?_⟩
  · intro g play card last loaded byte d played c
    refine ⟨leads_greetingEnd_elsewhere play card last loaded, leads_greetingEnd_listens play card last loaded, fun x step how => ?_⟩
    have goes := goesOn_greetingEnd play card last loaded step how
    have told : x.greetingStopped = q.greetingStopped := by rcases how with ⟨-, -, rfl⟩ | ⟨-, rfl⟩ <;> rfl
    exact ⟨fun ends => goes.host (ends.imp_right told.trans), fun after stopped =>
      ⟨fun m low => goes.recordsInto after (told.trans stopped) low.1 low.2, fun none =>
        goes.full after (told.trans stopped) none.1 none.2⟩⟩
  · intro g i play card idle voice taken
    obtain ⟨t, run, answered, still, unrecorded, call, cut⟩ := stop_greeting play card idle voice taken
    refine ⟨t, run, answered, still, unrecorded, call, fun step => ?_, fun step listening limit => ?_, fun step listening limit => ?_,
      fun step plain => ?_⟩ <;> rw [cut, Line.greetingCut]
    · rw [if_neg step]
    · rw [if_pos step, if_pos listening, if_pos limit]
    · rw [if_pos step, if_pos listening, if_neg (Nat.not_lt.mpr limit.le)]
    · rw [if_pos step, if_neg (by rw [plain]; decide)]
  · intro voice step claim c policy
    refine ⟨faults_switchClaim voice step claim, fun k direction named => Line.applied_answer direction named, ?_⟩
    intro applied unserved on greets
    have run := exec_switchGivenUp voice step claim applied unserved
    have line := s.line_switchGivenUp n
    have effect := LineEffect.switchGivenUp s n
    have messages : (s.switchGivenUp n).messages = s.messages := rfl
    have hdr : (s.switchGivenUp n).hdr = s.hdr := rfl
    have same : on = s.switchGivenUp n := rfl
    have asked : ∀ x, seq on x = (s.switchGivenUp n).withSeq n x := fun x => rfl
    have filed : ∀ m x, records on m x = (s.switchGivenUp n).records s n m x := fun m x => rfl
    generalize s.switchGivenUp n = u at *
    have goes : ¬greets → GoesOn c n s u q := fun no => by
      rw [State.resumeSequence_goesOn (by rw [line]; exact no)] at run
      have here : q = (u.line n).seq := by rw [line]
      refine ⟨?_, effect, by rw [line], by rw [line], by rw [line], messages, hdr⟩
      rw [here, State.withSeq_self]
      exact run
    refine ⟨fun ⟨card, g, play⟩ => ?_, fun no ends => ?_, fun no after stopped => ⟨fun m low => ?_, fun none => ?_⟩⟩
    · rw [State.resumeSequence_greets (by rw [line]; exact card) (by rw [line]; exact play), line] at run
      rw [asked]
      exact Leads.of_done run rfl effect.pending
    · rw [asked]
      exact (goes no).host ends
    · rw [filed]
      exact (goes no).recordsInto after stopped low.1 low.2
    · exact (goes no).full after stopped none.1 none.2

end Sys2Proof.Machine

/-! O47: PLAY and RECORD, and the card that an order takes (08 R138, R139, R147; 10 R173). -/

namespace Sys2Proof.Machine

set_option Elab.async false

variable {n : LineId} {s t u x : State} {m : EntryId} {g : SlotId} {i : Fin 8}

/-! ## The card taken -/

theorem State.card_taken {T : TableId} {i : Nat} {codes : Nat → Bool} (taken : s.takesCard T i codes = true) :
    (s.taking T i).card T i = ⟨.taken, (s.card T i).body⟩ := by
  obtain ⟨-, -, comes, -⟩ := State.takesCard_iff.mp taken
  have less := State.takesCard_lt taken
  have hand := OrderTable.hand_of_comesTo comes
  have same : (s.taking T i).card T i = (((s.table T).taking i).cards[i]?).getD .initial := by
    rw [State.card, State.taking, State.table_onTable, if_pos rfl]
  rw [same, OrderTable.cards_taking]
  split
  next => rw [List.getElem?_set_self less]; rfl
  next waits =>
    rw [if_neg waits] at hand
    have held : (s.card T i).hand = .taken := hand
    change s.card T i = _
    rw [← held]

theorem State.connectedAs_taking (s : State) (T : TableId) (i : Nat) (v : Service) :
    ((s.taking T i).line n).connectedAs v = (s.line n).connectedAs v := by
  simp only [Line.connectedAs, State.call_line_taking]

/-! ## RECORD -/

section
variable (taken : s.takesCard (.line n) i.val (· == 9) = true)
include taken

theorem exec_record_taken : exec (.record n i) s = done s ((s.taking (.line n) i.val).recordOrder n i.val (s.card (.line n) i.val)) := by
  have dispatch : exec (.record n i) s = execRecord n i s := rfl
  rw [dispatch, execRecord, takeOrder_taken taken]

theorem record_elsewhere (no : (s.line n).connectedAs .voice = false) : ∃ t, exec (.record n i) s = .next t ∧
    State.ShortOrder n i.val .refusedState (s.line n).call.state.code 0 [] (s.line n) s t := by
  have run := exec_record_taken taken
  rw [State.recordOrder, if_neg (by rw [State.connectedAs_taking, no]; decide)] at run
  exact ⟨_, run, State.shortOrder_refuseState taken⟩

theorem record_busy (voice : (s.line n).connectedAs .voice = true)
    (busy : (s.line n).voice.recording ≠ none ∨ (s.line n).seq.step ≠ .host) : ∃ t, exec (.record n i) s = .next t ∧
    State.ShortOrder n i.val .refusedBusy 0 0 [] (s.line n) s t := by
  have run := exec_record_taken taken
  have line := State.line_taking s n i.val
  rw [State.recordOrder, if_pos (by rw [State.connectedAs_taking, voice]),
    if_pos (by rw [line]; exact busy.imp_left Option.isSome_iff_ne_none.mpr)] at run
  exact ⟨_, run, State.shortOrder_same taken .refusedBusy 0 0 []⟩

theorem record_full (voice : (s.line n).connectedAs .voice = true) (idle : (s.line n).voice.recording = none)
    (step : (s.line n).seq.step = .host) (full : ∀ m, (s.message m).state ≠ .empty) : ∃ t, exec (.record n i) s = .next t ∧
    State.ShortOrder n i.val .refusedFull 0 0 [] (s.line n) s t := by
  have run := exec_record_taken taken
  have line := State.line_taking s n i.val
  have none : (s.taking (.line n) i.val).lowestEmpty = none := State.lowestEmpty_none (s := s) full
  rw [State.recordOrder, if_pos (by rw [State.connectedAs_taking, voice]), if_neg (by rw [line]; simp [idle, step]), none] at run
  exact ⟨_, run, State.shortOrder_same taken .refusedFull 0 0 []⟩

theorem record_begins (voice : (s.line n).connectedAs .voice = true) (idle : (s.line n).voice.recording = none)
    (step : (s.line n).seq.step = .host) (empty : (s.message m).state = .empty) (lowest : ∀ k < m, (s.message k).state ≠ .empty) :
    Leads (.record n i) s ((s.taking (.line n) i.val).entryBegun s n m |>.onLine n fun l =>
      { l with
        voice :=
          { l.voice with
            recording := some m, recKind := .host i.val, stopOnDigit := (s.card (.line n) i.val).byte 6 != 0, encoder := ⟨0, 0⟩
            silentRun := 0, frame := [], ahead := 0 } }) := by
  have run := exec_record_taken taken
  have line := State.line_taking s n i.val
  have found : (s.taking (.line n) i.val).lowestEmpty = some m := State.lowestEmpty_eq (s := s) empty lowest
  have hdr : (s.taking (.line n) i.val).hdr = s.hdr := rfl
  rw [State.recordOrder, if_pos (by rw [State.connectedAs_taking, voice]), if_neg (by rw [line]; simp [idle, step]), found] at run
  dsimp only at run
  rw [State.beginRecording, State.call_line_taking, hdr] at run
  exact Leads.of_done run rfl

end

/-! ## PLAY -/

section
variable (taken : s.takesCard (.line n) i.val (· == 8) = true)
include taken

theorem exec_play_taken : exec (.play n i) s = done s ((s.taking (.line n) i.val).playOrder n i.val (s.card (.line n) i.val)) := by
  have dispatch : exec (.play n i) s = execPlay n i s := rfl
  rw [dispatch, execPlay, takeOrder_taken taken]

theorem play_elsewhere (no : (s.line n).connectedAs .voice = false) : ∃ t, exec (.play n i) s = .next t ∧
    State.ShortOrder n i.val .refusedState (s.line n).call.state.code 0 [] (s.line n) s t := by
  have run := exec_play_taken taken
  rw [State.playOrder, if_neg (by rw [State.connectedAs_taking, no]; decide)] at run
  exact ⟨_, run, State.shortOrder_refuseState taken⟩

variable (voice : (s.line n).connectedAs .voice = true)
include voice

theorem play_busy (playing : (s.line n).voice.play ≠ .none) : ∃ t, exec (.play n i) s = .next t ∧
    State.ShortOrder n i.val .refusedBusy 0 0 [] (s.line n) s t := by
  have run := exec_play_taken taken
  have line := State.line_taking s n i.val
  rw [State.playOrder, if_pos (by rw [State.connectedAs_taking, voice]), if_pos (by rw [line]; exact playing)] at run
  exact ⟨_, run, State.shortOrder_same taken .refusedBusy 0 0 []⟩

variable (idle : (s.line n).voice.play = .none)
include idle

theorem play_badKind (slot : (s.card (.line n) i.val).byte 6 ≠ 1) (chain : (s.card (.line n) i.val).byte 6 ≠ 2) :
    ∃ t, exec (.play n i) s = .next t ∧ State.ShortOrder n i.val .badField 6 0 [] (s.line n) s t := by
  have run := exec_play_taken taken
  have line := State.line_taking s n i.val
  rw [State.playOrder, if_pos (by rw [State.connectedAs_taking, voice]), if_neg (by rw [line]; exact not_not.mpr idle), if_neg slot,
    if_neg chain] at run
  exact ⟨_, run, State.shortOrder_same taken .badField 6 0 []⟩

theorem exec_play_slot (slot : (s.card (.line n) i.val).byte 6 = 1) {r : Option SlotId}
    (named : slotOf ((s.card (.line n) i.val).byte 7) = r) :
    (r = none → ∃ t, exec (.play n i) s = .next t ∧ State.ShortOrder n i.val .badField 7 0 [] (s.line n) s t) ∧
    ∀ g, r = some g →
      ((s.slot g).state ≠ .loaded → ∃ t, exec (.play n i) s = .next t ∧ State.ShortOrder n i.val .absent 0 0 [] (s.line n) s t) ∧
      ((s.slot g).state = .loaded → exec (.play n i) s = done s
        ((s.taking (.line n) i.val).beginPlay n (.slot g) (s.slot g).chain (s.slot g).sampleCount (some i.val))) := by
  have run := exec_play_taken taken
  have line := State.line_taking s n i.val
  have slots : ∀ g, (s.taking (.line n) i.val).slot g = s.slot g := fun _ => rfl
  rw [State.playOrder, if_pos (by rw [State.connectedAs_taking, voice]), if_neg (by rw [line]; exact not_not.mpr idle), if_pos slot,
    named] at run
  refine ⟨?_, ?_⟩
  · rintro rfl
    exact ⟨_, run, State.shortOrder_same taken .badField 7 0 []⟩
  · rintro g rfl
    dsimp only at run
    rw [slots] at run
    refine ⟨fun unloaded => ?_, fun loaded => ?_⟩
    · rw [if_neg unloaded] at run
      exact ⟨_, run, State.shortOrder_same taken .absent 0 0 []⟩
    · rw [if_pos loaded] at run
      exact run

theorem play_loaded (slot : (s.card (.line n) i.val).byte 6 = 1) (named : (s.card (.line n) i.val).byte 7 = g.val)
    (loaded : (s.slot g).state = .loaded) : Leads (.play n i) s
      (((s.taking (.line n) i.val).onLine n fun l =>
        { l with
          voice :=
            { l.voice with
              play := .slot g, playCard := some i.val, playChain := (s.slot g).chain, playTotal := (s.slot g).sampleCount
              samplesPlayed := 0, decoder := ⟨0, 0⟩ } }).onSlot g fun x => { x with playCount := x.playCount + 1 }) := by
  have known : slotOf ((s.card (.line n) i.val).byte 7) = some g := by rw [named, slotOf, dif_pos g.isLt]
  have run := ((exec_play_slot taken voice idle slot known).2 g rfl).2 loaded
  rw [State.beginPlay_slot] at run
  exact Leads.of_done run rfl

theorem play_badChain (chain : (s.card (.line n) i.val).byte 6 = 2) {e : ChainFault}
    (bad : s.store.validate .voice 255 ((s.card (.line n) i.val).word 8) = .error e) : ∃ t, exec (.play n i) s = .next t ∧
    State.ShortOrder n i.val .badChain e.test.code 0 (wordBytes e.position) (s.line n) s t := by
  have run := exec_play_taken taken
  have line := State.line_taking s n i.val
  have validated : (s.taking (.line n) i.val).store.validate .voice 255 ((s.card (.line n) i.val).word 8) = .error e := bad
  rw [State.playOrder, if_pos (by rw [State.connectedAs_taking, voice]), if_neg (by rw [line]; exact not_not.mpr idle),
    if_neg (by rw [chain]; decide), if_pos chain, validated] at run
  exact ⟨_, run, State.shortOrder_same taken .badChain e.test.code 0 (wordBytes e.position)⟩

theorem play_chain (chain : (s.card (.line n) i.val).byte 6 = 2) {ch : Chain}
    (good : s.store.validate .voice 255 ((s.card (.line n) i.val).word 8) = .ok ch) : Leads (.play n i) s
      (((s.taking (.line n) i.val).onStore fun st => st.assignAll (ch.map Prod.fst) (.play n)).onLine n fun l =>
        { l with
          voice :=
            { l.voice with
              play := .chain ((s.card (.line n) i.val).word 8), playCard := some i.val, playChain := ch
              playTotal := 2 * (ch.map Prod.snd).sum, samplesPlayed := 0, decoder := ⟨0, 0⟩ } }) := by
  have run := exec_play_taken taken
  have line := State.line_taking s n i.val
  have validated : (s.taking (.line n) i.val).store.validate .voice 255 ((s.card (.line n) i.val).word 8) = .ok ch := good
  rw [State.playOrder, if_pos (by rw [State.connectedAs_taking, voice]), if_neg (by rw [line]; exact not_not.mpr idle),
    if_neg (by rw [chain]; decide), if_pos chain, validated] at run
  exact Leads.of_done run rfl

end

end Sys2Proof.Machine

/-! O47: STOP (08 R142, R148, R149). -/

namespace Sys2Proof.Machine

set_option Elab.async false

variable {n : LineId} {s t u x y z : State} {m : EntryId} {g : SlotId} {i : Fin 8} {j : Nat}

/-! ## A clear decision of a voice call with nothing in progress -/

theorem State.decided_voice (s : State) (n : LineId) (o : CallOutcome) :
    ((s.decided n o).line n).call.service = (s.line n).call.service ∧ ((s.decided n o).line n).fax = (s.line n).fax ∧
      ((s.decided n o).line n).voice = (s.line n).voice := by
  obtain ⟨-, -, r, call⟩ := s.line_decided n o
  exact ⟨by rw [call], (Only.decided s n o).of .fax, (Only.decided s n o).of .voice⟩

/-- The store, the slots and the engine table stand where a voice call is cleared with nothing played and nothing recorded. -/
theorem Only.clearDecision_voice (service : (s.line n).call.service = .voice) (role : (s.line n).fax.role ≠ .receiver)
    (silent : (s.line n).voice.play = .none) (idle : (s.line n).voice.recording = none) (o : CallOutcome) :
    Only n [.dec, .call, .ev, .outputs, .ctl, .queue, .claim, .pumps, .grade, .seq, .dialler, .prog, .table] s (s.clearDecision n o) := by
  obtain ⟨call, fax, voice⟩ := s.decided_voice n o
  have decided := Only.decided s n o
  rw [State.clearDecision_eq]
  generalize s.decided n o = x at *
  have released : Only n [.queue, .claim, .pumps, .call, .grade] x (x.tornDown n o) := by
    have only := Only.pumpReleased x n
    have kept : ((x.pumpReleased n).line n).voice = (x.line n).voice := only.of .voice
    have torn : x.tornDown n o = x.pumpReleased n := by
      rw [State.tornDown_voice (call.trans service) (by rw [fax]; exact role), State.voiceTeardown_eq, kept, voice, if_pos silent,
        State.finishRecording_none (by rw [kept, voice]; exact idle)]
    rw [torn]
    exact only
  have after : Only n [.call, .seq, .dialler, .prog, .table, .ev, .ctl] (x.tornDown n o) (x.callEnd n o) :=
    (((Only.stopUnits _ n).trans (Only.answerCallCards _ n o) (H := [.call, .seq, .dialler, .prog, .table, .ev, .ctl])).trans
      (Only.onCall _ n _) (H := [.call, .seq, .dialler, .prog, .table, .ev, .ctl])).trans (Only.raise _ n _)
  exact (decided.trans released (H := [.dec, .call, .ev, .outputs, .ctl, .queue, .claim, .pumps, .grade])).trans after

/-- A clear decision leaves alone a card that is of none of the line's orders. -/
theorem State.card_clearDecision_ne (other : j ∉ (s.line n).longCards) (o : CallOutcome) :
    (s.clearDecision n o).card (.line n) j = s.card (.line n) j := by
  have decided := Only.decided s n o
  obtain ⟨dial, answer, -⟩ := s.line_decided n o
  have link : ((s.decided n o).line n).link = (s.line n).link := decided.of .link
  have fax : ((s.decided n o).line n).fax = (s.line n).fax := decided.of .fax
  have voice : ((s.decided n o).line n).voice = (s.line n).voice := decided.of .voice
  have cards : ((s.decided n o).line n).serviceCards = (s.line n).serviceCards := by
    rw [Line.serviceCards, Line.serviceCards, Line.recordCards, Line.recordCards, link, fax, voice]
  rw [Line.longCards_eq, List.mem_append, List.mem_append, not_or, not_or, Option.mem_toList, Option.mem_toList] at other
  obtain ⟨notDial, notAnswer, notService⟩ := other
  rw [State.clearDecision_eq, State.card_callEnd_ne (by rw [cards]; exact notService) (fun _ => by rw [dial]; exact notDial)
    (by rw [answer]; exact notAnswer)]
  exact decided.card j

/-! ## The play ended by STOP -/

/-- The play of line `n`, if there is one, ended STOPPED. -/
def State.stopPlay (s : State) (n : LineId) : State := if (s.line n).voice.play = .none then s else s.endPlay n .stopped

theorem State.stopPlay_none (play : (s.line n).voice.play = .none) : s.stopPlay n = s := if_pos play

theorem State.stopPlay_greeting (play : (s.line n).voice.play ≠ .none) (card : (s.line n).voice.playCard = none) :
    s.stopPlay n = (s.playStopped n).withSeq n ((s.playStopped n).line n).greetingCut := by
  rw [State.stopPlay, if_neg play, State.endPlay_greeting card]
  exact State.afterGreeting_stopped _ n

theorem State.stopPlay_card (play : (s.line n).voice.play ≠ .none) (card : (s.line n).voice.playCard = some j) :
    s.stopPlay n = (s.playStopped n).answer (.line n) j .done 0 (longBytes (s.line n).voice.samplesPlayed ++ [2]) := by
  rw [State.stopPlay, if_neg play, State.endPlay, card]
  exact State.finishPlay_some card ..

theorem State.sendList_playStopped (s : State) (n : LineId) : ((s.playStopped n).line n).link.sendList = (s.line n).link.sendList := by
  have freed : ∀ (x : State) (g : SlotId), ((x.slotPlayEnds g).line n).link.sendList = (x.line n).link.sendList := by
    intro x g
    by_cases last : (x.slot g).state = .withdrawing ∧ (x.slot g).playCount ≤ 1
    · have kept := State.besides_freeBlocks (x.onSlot g fun _ => .initial) ((x.slot g).chain.map Prod.fst) n
      have emptied : ((x.emptySlot g).line n).link.sendList = (x.line n).link.sendList := by
        have same := congrArg Link.sendList kept
        exact same
      rw [State.slotPlayEnds, if_pos last]
      split
      · rw [State.link_line_answer]; exact emptied
      · exact emptied
    · rw [State.slotPlayEnds, if_neg last]; rfl
  unfold State.playStopped
  dsimp only
  split
  · rw [State.line_onVoice_self]
  · rw [freed, State.line_onVoice_self]
  · rw [show ∀ (x : State) bs o, (x.giveBlocks bs o).line n = x.line n from fun _ _ _ => rfl, State.line_onVoice_self]

/-- What the end of the play leaves. -/
structure PlayCut (n : LineId) (s t : State) : Prop where
  still : (s.line n).voice.play = .none → t = s
  effect : LineEffect n s t
  only : Only n [.voice, .slots, .store, .others, .link, .outputs, .engTable, .event, .table, .ev, .seq] s t
  silent : (t.line n).voice.play = .none
  recording : (t.line n).voice.recording = (s.line n).voice.recording ∧ (t.line n).voice.recKind = (s.line n).voice.recKind
  playCard : (s.line n).voice.play ≠ .none → (t.line n).voice.playCard = none
  sends : (t.line n).link.sendList = (s.line n).link.sendList
  cards : ∀ k, (s.line n).voice.playCard ≠ some k → t.card (.line n) k = s.card (.line n) k
  blocks : (s.line n).voice.play ≠ .none → t.store = (s.playStopped n).store ∧ t.slots = (s.playStopped n).slots ∧
    t.engTable = (s.playStopped n).engTable ∧ t.hdr.ev = (s.playStopped n).hdr.ev
  answered : (s.line n).voice.play ≠ .none → ∀ k, (s.line n).voice.playCard = some k → k < (s.line n).table.cards.length →
    State.Answered (.line n) k .done 0 0 (longBytes (s.line n).voice.samplesPlayed ++ [2]) s t

theorem State.stopPlay_spec (s : State) (n : LineId) : PlayCut n s (s.stopPlay n) := by
  by_cases play : (s.line n).voice.play = .none
  · rw [State.stopPlay_none play]
    exact ⟨fun _ => rfl, .refl, .refl, play, ⟨rfl, rfl⟩, (absurd play ·), rfl, fun _ _ => rfl, (absurd play ·), (absurd play ·)⟩
  · have only := Only.playStopped s n
    have effect := LineEffect.playStopped s n
    have voice := s.voice_playStopped n
    have sends := s.sendList_playStopped n
    cases card : (s.line n).voice.playCard with
    | none =>
      rw [State.stopPlay_greeting play card]
      have line := (s.playStopped n).line_withSeq n ((s.playStopped n).line n).greetingCut
      have told := Only.withSeq (s.playStopped n) n ((s.playStopped n).line n).greetingCut
      have later : LineEffect n (s.playStopped n) ((s.playStopped n).withSeq n ((s.playStopped n).line n).greetingCut) :=
        LineEffect.refl.withSeq _
      generalize ((s.playStopped n).line n).greetingCut = q at *
      have blocks : ((s.playStopped n).withSeq n q).store = (s.playStopped n).store ∧
        ((s.playStopped n).withSeq n q).slots = (s.playStopped n).slots ∧
        ((s.playStopped n).withSeq n q).engTable = (s.playStopped n).engTable ∧
        ((s.playStopped n).withSeq n q).hdr.ev = (s.playStopped n).hdr.ev := ⟨rfl, rfl, rfl, rfl⟩
      generalize hy : s.playStopped n = y at *
      generalize y.withSeq n q = z at *
      refine ⟨(absurd · play), effect.trans later, only.trans told, by rw [line, voice]; rfl, by rw [line, voice]; exact ⟨rfl, rfl⟩,
        fun _ => by rw [line, voice]; rfl, by rw [line]; exact sends, fun k _ => (told.card k).trans (only.card k), fun _ => by rw [hy]; exact blocks,
        fun _ k held => by rw [card] at held; cases held⟩
    | some k =>
      rw [State.stopPlay_card play card]
      generalize hy : s.playStopped n = y at *
      have told : Only n [.table, .ev] y (y.answer (.line n) k .done 0 (longBytes (s.line n).voice.samplesPlayed ++ [2])) :=
        Only.answer y n k .done 0 (longBytes (s.line n).voice.samplesPlayed ++ [2])
      have later : LineEffect n y (y.answer (.line n) k .done 0 (longBytes (s.line n).voice.samplesPlayed ++ [2])) :=
        LineEffect.refl.answer k .done 0 (longBytes (s.line n).voice.samplesPlayed ++ [2])
      refine ⟨(absurd · play), effect.trans later, only.trans told, by rw [State.voice_line_answer, voice]; rfl,
        by rw [State.voice_line_answer, voice]; exact ⟨rfl, rfl⟩, fun _ => by rw [State.voice_line_answer, voice]; rfl,
        by rw [State.link_line_answer]; exact sends, fun c other => ?_, fun _ => by rw [hy]; exact ⟨rfl, rfl, rfl, rfl⟩, fun _ c held fits => ?_⟩
      · rw [State.card_answer_ne _ (.line n) (fun e => other (by rw [card, e]))]
        exact only.card c
      · obtain rfl := Option.some.inj (card.symm.trans held)
        have length : k < (y.line n).table.cards.length := by rw [effect.length_line]; exact fits
        exact (State.answered_of (s := y) (u := y) (T := .line n) length .done 0 0 _ rfl).before effect.tick

/-! ## The recording ended by STOP -/

/-- The recording of line `n`, if there is one, ended STOPPED. -/
def State.stopRecording (s : State) (n : LineId) : State := if (s.line n).voice.recording.isSome then s.endRecording n .stopped else s

/-- What the end of the recording leaves. -/
structure RecordCut (n : LineId) (s t : State) : Prop where
  effect : LineEffect n s t
  silent : (s.line n).voice.play = .none → (t.line n).voice.play = .none
  idle : (t.line n).voice.recording = none
  cards : ∀ k ∉ (s.line n).longCards, t.card (.line n) k = s.card (.line n) k
  kept : (s.line n).call.service = .voice → (s.line n).fax.role ≠ .receiver → (s.line n).voice.play = .none →
    t.store = s.store ∧ t.slots = s.slots ∧ t.engTable = s.engTable
  complete : ∀ m, (s.line n).voice.recording = some m → (t.message m).state = .complete ∧ (t.message m).endReason = .stopped
  cleared : (s.line n).voice.recording ≠ none → (s.line n).voice.recKind = .automatic → State.Cleared n .localCleared s t
  call : (s.line n).voice.recording = none ∨ (∃ k, (s.line n).voice.recKind = .host k) → (t.line n).call = (s.line n).call
  answered : ∀ m k, (s.line n).voice.recording = some m → (s.line n).voice.recKind = .host k → k < (s.line n).table.cards.length →
    State.Answered (.line n) k .done 0 0
      (wordBytes m.val ++ wordBytes (s.message m).number ++ wordBytes 5 ++ longBytes (s.message m).sampleCount ++
        wordBytes (s.message m).blocks.length) s t

theorem State.stopRecording_host {k : Nat} (recording : (s.line n).voice.recording = some m) (kind : (s.line n).voice.recKind = .host k) :
    s.stopRecording n = s.finishRecording n .stopped := by
  rw [State.stopRecording, if_pos (by rw [recording]; rfl), State.endRecording, kind]

theorem State.stopRecording_automatic (recording : (s.line n).voice.recording = some m) (kind : (s.line n).voice.recKind = .automatic) :
    s.stopRecording n = (s.recordingFiled n m .stopped).clearDecision n .localCleared := by
  rw [State.stopRecording, if_pos (by rw [recording]; rfl), State.endRecording, kind, State.finishRecording_automatic recording kind]
  rfl

theorem State.longCards_recordingFiled (s : State) (n : LineId) (m : EntryId) (r : EndReason) {k : Nat}
    (h : k ∈ ((s.recordingFiled n m r).line n).longCards) : k ∈ (s.line n).longCards := by
  rw [State.line_recordingFiled] at h
  simp only [Line.longCards_eq, Line.serviceCards, List.mem_append, Line.recordCards] at h ⊢
  rcases h with h | h | h | h | h | h
  · exact .inl h
  · exact .inr (.inl h)
  · exact .inr (.inr (.inl h))
  · exact .inr (.inr (.inr (.inl h)))
  · exact .inr (.inr (.inr (.inr (.inl h))))
  · exact nomatch h

theorem State.stopRecording_spec (s : State) (n : LineId) : RecordCut n s (s.stopRecording n) := by
  cases recording : (s.line n).voice.recording with
  | none =>
    have same : s.stopRecording n = s := if_neg (by rw [recording]; decide)
    rw [same]
    exact ⟨.refl, id, recording, fun _ _ => rfl, fun _ _ _ => ⟨rfl, rfl, rfl⟩, fun m h => (nomatch recording.symm.trans h),
      fun h => absurd recording h, fun _ => rfl, fun m k h => (nomatch recording.symm.trans h)⟩
  | some m =>
    have line := s.line_recordingFiled n m .stopped
    have message := s.message_recordingFiled n m .stopped
    have effect : LineEffect n s (s.recordingFiled n m .stopped) := (((LineEffect.refl.onMessage m _).onVoice).raise .message)
    have only : Only n [.messages, .voice, .ev] s (s.recordingFiled n m .stopped) :=
      (((Only.onMessage s n m _).trans (Only.onVoice _ n _) (H := [.messages, .voice])).trans (Only.raise _ n _))
    cases kind : (s.line n).voice.recKind with
    | host k =>
      rw [State.stopRecording_host recording kind]
      obtain ⟨filed, voice, call⟩ := State.finishRecording_some recording .stopped
      have answered := fun fits => State.answered_finishRecording recording kind fits .stopped
      have finished := Only.finishRecording s n .stopped
      have whole : LineEffect n s (s.finishRecording n .stopped) := LineEffect.refl.finishRecording .stopped
      have cards : ∀ c, c ≠ k → (s.finishRecording n .stopped).card (.line n) c = s.card (.line n) c := fun c other => by
        rw [State.finishRecording_host recording kind, State.card_answer_ne _ (.line n) other, only.card c]
      generalize s.finishRecording n .stopped = t at *
      refine ⟨whole, fun silent => by rw [voice]; exact silent, by rw [voice], fun c other => cards c ?_,
        fun _ _ _ => ⟨finished.of .store, finished.of .slots, finished.of .engTable⟩, fun m' h => ?_, fun _ h => (nomatch kind.symm.trans h),
        fun _ => call, fun m' k' h h' fits => ?_⟩
      · rintro rfl
        exact other (by
          rw [Line.longCards_eq]
          exact List.mem_append_right _ (List.mem_append_right _ (Line.mem_serviceCards.mpr
            (.inr (.inr (.inr ⟨by rw [recording]; nofun, kind⟩))))))
      · obtain rfl := Option.some.inj (recording.symm.trans h)
        rw [filed]
        exact ⟨rfl, rfl⟩
      · obtain rfl := Option.some.inj (recording.symm.trans h)
        obtain rfl := RecordingKind.host.inj (kind.symm.trans h')
        exact answered fits
    | automatic =>
      rw [State.stopRecording_automatic recording kind]
      have longCards := fun k => s.longCards_recordingFiled n m .stopped (k := k)
      generalize s.recordingFiled n m .stopped = x at *
      have cleared := x.clearDecision_spec n .localCleared
      have none : (x.line n).voice.recording = none := by rw [line]
      have messages := State.messages_clearDecision none .localCleared
      have whole : LineEffect n x (x.clearDecision n .localCleared) := LineEffect.refl.clearDecision _
      have later := fun service role silent => Only.clearDecision_voice (s := x) service role silent none .localCleared
      have cards := fun k (h : k ∉ (x.line n).longCards) => State.card_clearDecision_ne h .localCleared
      generalize x.clearDecision n .localCleared = t at *
      refine ⟨effect.trans whole, fun _ => cleared.play, cleared.recording, fun c other => (cards c fun h => other (longCards c h)).trans (only.card c),
        fun service role silent => ?_, fun m' h => ?_, fun _ _ =>
        cleared.before (by rw [line]) (by rw [line]) effect.tick effect.events effect.aside, fun h => ?_, fun m' k' _ h' => (nomatch kind.symm.trans h')⟩
      · have after := later (by rw [line]; exact service) (by rw [line]; exact role) (by rw [line]; exact silent)
        exact ⟨(after.of .store).trans (only.of .store), (after.of .slots).trans (only.of .slots),
          (after.of .engTable).trans (only.of .engTable)⟩
      · obtain rfl := Option.some.inj (recording.symm.trans h)
        rw [State.message_congr messages, message]
        exact ⟨rfl, rfl⟩
      · rcases h with h | ⟨k, h⟩
        · exact nomatch recording.symm.trans h
        · exact nomatch kind.symm.trans h

/-! ## STOP -/

/-- What STOP answers (12.6): whether a play and a recording were in progress. -/
def Line.stopFields (l : Line) : List Byte :=
  [if l.voice.play = .none then 0 else 1, if l.voice.recording = none then 0 else 1]

theorem State.stopOrder_eq (state : ¬((s.line n).call.state = .off ∨ (s.line n).call.state = .fault)) (k : Nat) :
    s.stopOrder n k = ((s.stopPlay n).stopRecording n).answer (.line n) k .done 0 (s.line n).stopFields := by
  obtain ⟨recording, -⟩ := (s.stopPlay_spec n).recording
  have fields : [byteOf (flagCode (decide ((s.line n).voice.play ≠ .none))) 0, byteOf (flagCode (s.line n).voice.recording.isSome) 0] =
      (s.line n).stopFields := by
    rw [Line.stopFields]
    have yes : byteOf (flagCode true) 0 = 1 := rfl
    have no : byteOf (flagCode false) 0 = 0 := rfl
    by_cases play : (s.line n).voice.play = .none <;> cases held : (s.line n).voice.recording <;> simp [play, yes, no]
  have playing : (if decide ((s.line n).voice.play ≠ .none) = true then s.endPlay n .stopped else s) = s.stopPlay n := by
    rw [State.stopPlay]
    by_cases play : (s.line n).voice.play = .none
    · rw [if_pos play, if_neg (by simp [play])]
    · rw [if_neg play, if_pos (by simp [play])]
  rw [State.stopOrder, if_neg state]
  dsimp only
  rw [playing, fields, State.stopRecording, recording]

section
variable (taken : s.takesCard (.line n) i.val (· == 10) = true)
include taken

theorem exec_stop_taken : exec (.stop n i) s = done s ((s.taking (.line n) i.val).stopOrder n i.val) := by
  have dispatch : exec (.stop n i) s = execStop n i s := rfl
  rw [dispatch, execStop, takeOrder_taken taken]

theorem stop_refused (state : (s.line n).call.state = .off ∨ (s.line n).call.state = .fault) : ∃ t, exec (.stop n i) s = .next t ∧
    State.ShortOrder n i.val .refusedState (s.line n).call.state.code 0 [] (s.line n) s t := by
  have run := exec_stop_taken taken
  rw [State.stopOrder, if_pos (by rw [State.call_line_taking]; exact state)] at run
  exact ⟨_, run, State.shortOrder_refuseState taken⟩

/-- The states through which a STOP goes: the play over, then the recording, then the answer. -/
theorem stop_cuts (off : (s.line n).call.state ≠ .off) (fault : (s.line n).call.state ≠ .fault) : ∃ y z,
    PlayCut n (s.taking (.line n) i.val) y ∧ RecordCut n y z ∧
      exec (.stop n i) s = .next (s.commit (z.answer (.line n) i.val .done 0 (s.line n).stopFields)) := by
  have run := exec_stop_taken taken
  have line := State.line_taking s n i.val
  have fields : ((s.taking (.line n) i.val).line n).stopFields = (s.line n).stopFields := by rw [line]; rfl
  rw [State.stopOrder_eq (by rw [line]; exact not_or.mpr ⟨off, fault⟩), fields] at run
  exact ⟨_, _, State.stopPlay_spec _ n, State.stopRecording_spec _ n, run⟩

end

/-- A card of a long order of the line is not the card of the order that is carried out. -/
theorem State.LongOrdersTaken.longCard_ne {codes : Nat → Bool} {k : Nat} (long : s.LongOrdersTaken)
    (taken : s.takesCard (.line n) i.val codes = true) (mine : k ∈ (s.line n).longCards) : k ≠ i.val :=
  long.ne (T := .line n) taken mine

/-- With its play over, the line's orders are those it had but the PLAY. -/
theorem PlayCut.longCards (h : PlayCut n s y) {k : Nat} (mine : k ∈ (y.line n).longCards) : k ∈ (s.line n).longCards := by
  by_cases play : (s.line n).voice.play = .none
  · rw [h.still play] at mine
    exact mine
  · have ctl : (y.line n).ctl = (s.line n).ctl := h.only.of .ctl
    have fax : (y.line n).fax = (s.line n).fax := h.only.of .fax
    obtain ⟨recording, kind⟩ := h.recording
    simp only [Line.longCards_eq, Line.serviceCards, Line.recordCards, List.mem_append, ctl, fax, h.sends, recording, kind,
      h.playCard play, Option.toList_none, List.not_mem_nil, false_or] at mine ⊢
    tauto

/-- The card of the PLAY is none of the orders that are left. -/
theorem PlayCut.playCard_apart (h : PlayCut n s y) (once : (s.line n).longCards.Nodup) (play : (s.line n).voice.play ≠ .none) {k : Nat}
    (held : (s.line n).voice.playCard = some k) : k ∉ (y.line n).longCards := by
  have ctl : (y.line n).ctl = (s.line n).ctl := h.only.of .ctl
  have fax : (y.line n).fax = (s.line n).fax := h.only.of .fax
  obtain ⟨recording, kind⟩ := h.recording
  have same : (y.line n).longCards = (s.line n).ctl.dialCard.toList ++ ((s.line n).ctl.answerCard.toList ++
      ((s.line n).link.sendList.map SendChain.card ++ ((s.line n).fax.orders.map FaxOrder.card ++ (s.line n).recordCards))) := by
    rw [Line.longCards_eq, Line.serviceCards, Line.recordCards, ctl, fax, h.sends, recording, kind, h.playCard play]
    rfl
  rw [same]
  rw [Line.longCards_eq, Line.serviceCards, held] at once
  simp only [Option.toList_some, List.nodup_append, List.mem_append, List.mem_singleton] at once ⊢
  grind

/-! ## What STOP leaves -/

/-- An answered engine card stands while the engine's table and event word do. -/
theorem State.Answered.engine_congr {k : Nat} {st : Status} {r c : Nat} {fs : List Byte} (h : State.Answered .engine k st r c fs s t)
    (table : u.engTable = t.engTable) (event : u.hdr.ev = t.hdr.ev) : State.Answered .engine k st r c fs s u := by
  have card : u.card .engine k = t.card .engine k := State.card_congr (T := .engine) table k
  refine ⟨by rw [card, h.hand], by rw [card, h.tick], by rw [card, h.status], by rw [card, h.reason], by rw [card, h.count],
    by rw [card, h.fields], ?_⟩
  have seen := h.event
  dsimp only at seen ⊢
  rw [event]
  exact seen

/-- The last play of a slot that is not WITHDRAWING, or one of several. -/
theorem State.playStopped_rest (play : (s.line n).voice.play = .slot g)
    (rest : (s.slot g).state ≠ .withdrawing ∨ 1 < (s.slot g).playCount) :
    (s.playStopped n).slot g = { s.slot g with playCount := (s.slot g).playCount - 1 } ∧ (s.playStopped n).store = s.store := by
  have ended : s.playStopped n = (s.onVoice n Voice.stopped).onSlot g fun x => { x with playCount := x.playCount - 1 } := by
    rw [State.playStopped_slot play]
    exact State.slotPlayEnds_rest (s := s.onVoice n Voice.stopped) rest
  rw [ended]
  exact ⟨State.slot_onSlot_self .., rfl⟩

theorem State.playStopped_last (play : (s.line n).voice.play = .slot g) (withdrawing : (s.slot g).state = .withdrawing)
    (few : (s.slot g).playCount ≤ 1) : (s.playStopped n).slot g = ⟨.empty, [], 0, 0, none⟩ ∧
      (s.playStopped n).store = ((s.slot g).chain.map Prod.fst).foldl Store.release s.store ∧
      ∀ k, (s.slot g).unloadCard = some k → k < s.engTable.cards.length → State.Answered .engine k .done 0 0 [] s (s.playStopped n) := by
  have stopped := State.playStopped_slot play
  have before : LineEffect n s (s.onVoice n Voice.stopped) := LineEffect.refl.onVoice
  obtain ⟨last, lastSlots, -⟩ := State.slotPlayEnds_last (s := s.onVoice n Voice.stopped) withdrawing few
  obtain ⟨emptied, emptiedSlots⟩ := State.emptySlot_spec (s.onVoice n Voice.stopped) g
  refine ⟨?_, ?_, fun k held fits => ?_⟩
  · rw [stopped, State.slot_congr lastSlots g, emptiedSlots g, if_pos rfl]
    rfl
  · rw [stopped, last, emptied]
    rfl
  · have answered := State.answered_slotPlayEnds (s := s.onVoice n Voice.stopped) withdrawing few held fits
    rw [← stopped] at answered
    exact answered.before before.tick

/-- The slot of a play that is not its last has one play less (R148). -/
theorem PlayCut.slot_rest (h : PlayCut n s y) (play : (s.line n).voice.play = .slot g)
    (rest : (s.slot g).state ≠ .withdrawing ∨ 1 < (s.slot g).playCount) :
    y.slot g = { s.slot g with playCount := (s.slot g).playCount - 1 } ∧ y.store = s.store := by
  obtain ⟨store, slots, -⟩ := h.blocks (by rw [play]; nofun)
  rw [State.slot_congr slots g, store]
  exact State.playStopped_rest play rest

/-- The last play of a WITHDRAWING slot empties it and answers its UNLOAD GREETING card (R146). -/
theorem PlayCut.slot_last (h : PlayCut n s y) (play : (s.line n).voice.play = .slot g) (withdrawing : (s.slot g).state = .withdrawing)
    (few : (s.slot g).playCount ≤ 1) : y.slot g = ⟨.empty, [], 0, 0, none⟩ ∧
      y.store = ((s.slot g).chain.map Prod.fst).foldl Store.release s.store ∧
      ∀ k, (s.slot g).unloadCard = some k → k < s.engTable.cards.length → State.Answered .engine k .done 0 0 [] s y := by
  obtain ⟨store, slots, table, event⟩ := h.blocks (by rw [play]; nofun)
  obtain ⟨empty, released, answered⟩ := State.playStopped_last play withdrawing few
  rw [State.slot_congr slots g, store]
  exact ⟨empty, released, fun k held fits => (answered k held fits).engine_congr table event⟩

section
variable (cut : PlayCut n s y) (filed : RecordCut n y z) (voice : (s.line n).connectedAs .voice = true)
  (role : (s.line n).fax.role ≠ .receiver)
include cut filed voice role

theorem RecordCut.kept_after : z.store = y.store ∧ z.slots = y.slots ∧ z.engTable = y.engTable := by
  have call : (y.line n).call = (s.line n).call := cut.only.of .call
  have fax : (y.line n).fax = (s.line n).fax := cut.only.of .fax
  have service : (s.line n).call.service = .voice := by
    have both := voice
    simp only [Line.connectedAs, Bool.and_eq_true, decide_eq_true_iff] at both
    exact both.2
  exact filed.kept (by rw [call]; exact service) (by rw [fax]; exact role) cut.silent

/-- Where the blocks and the slot of the play are when STOP is over. -/
theorem stop_blocks : ((s.line n).voice.play = .none → z.store = s.store) ∧
    (∀ first, (s.line n).voice.play = .chain first → z.store = s.store.assignAll ((s.line n).voice.playChain.map Prod.fst) .host) ∧
    ∀ g, (s.line n).voice.play = .slot g →
      ((s.slot g).state ≠ .withdrawing ∨ 1 < (s.slot g).playCount →
        z.slot g = { s.slot g with playCount := (s.slot g).playCount - 1 } ∧ z.store = s.store) ∧
      ((s.slot g).state = .withdrawing → (s.slot g).playCount ≤ 1 → z.slot g = ⟨.empty, [], 0, 0, none⟩ ∧
        z.store = ((s.slot g).chain.map Prod.fst).foldl Store.release s.store ∧
        ∀ k, (s.slot g).unloadCard = some k → k < s.engTable.cards.length → State.Answered .engine k .done 0 0 [] s z) := by
  obtain ⟨store, slots, table⟩ := RecordCut.kept_after cut filed voice role
  refine ⟨fun play => ?_, fun first play => ?_, fun g play => ⟨fun rest => ?_, fun withdrawing few => ?_⟩⟩
  · rw [store, cut.still play]
  · rw [store, (cut.blocks (by rw [play]; nofun)).1, (s.playEnds n).1 first play]
  · rw [store, State.slot_congr slots g]
    exact cut.slot_rest play rest
  · rw [store, State.slot_congr slots g]
    obtain ⟨slot, released, answered⟩ := cut.slot_last play withdrawing few
    exact ⟨slot, released, fun k held fits =>
      (answered k held fits).later filed.effect (.inr rfl) (State.card_congr (T := .engine) table k)⟩

end

section
variable (taken : s.takesCard (.line n) i.val (· == 10) = true) (off : (s.line n).call.state ≠ .off)
  (fault : (s.line n).call.state ≠ .fault)
include taken off fault

theorem stop_ends : ∃ t, exec (.stop n i) s = .next t ∧ State.Answered (.line n) i.val .done 0 0 (s.line n).stopFields s t ∧
    (t.line n).voice.play = .none ∧ (t.line n).voice.recording = none ∧ State.Aside n s t ∧ State.Steady s t ∧
    (∀ m, (s.line n).voice.recording = some m → (t.message m).state = .complete ∧ (t.message m).endReason = .stopped ∧
      ((s.line n).voice.recKind = .automatic → State.Cleared n .localCleared s t)) ∧
    ((s.line n).voice.recording = none ∨ (∃ j, (s.line n).voice.recKind = .host j) → (t.line n).call = (s.line n).call) ∧
    ((s.line n).connectedAs .voice = true → (s.line n).fax.role ≠ .receiver →
      ((s.line n).voice.play = .none → t.store = s.store) ∧
      (∀ first, (s.line n).voice.play = .chain first → t.store = s.store.assignAll ((s.line n).voice.playChain.map Prod.fst) .host) ∧
      ∀ g, (s.line n).voice.play = .slot g →
        ((s.slot g).state ≠ .withdrawing ∨ 1 < (s.slot g).playCount →
          t.slot g = { s.slot g with playCount := (s.slot g).playCount - 1 } ∧ t.store = s.store) ∧
        ((s.slot g).state = .withdrawing → (s.slot g).playCount ≤ 1 → t.slot g = ⟨.empty, [], 0, 0, none⟩ ∧
          t.store = ((s.slot g).chain.map Prod.fst).foldl Store.release s.store ∧
          ∀ j, (s.slot g).unloadCard = some j → j < s.engTable.cards.length → State.Answered .engine j .done 0 0 [] s t)) ∧
    (s.LongOrdersTaken →
      (∀ j, (s.line n).voice.play ≠ .none → (s.line n).voice.playCard = some j →
        State.Answered (.line n) j .done 0 0 (longBytes (s.line n).voice.samplesPlayed ++ [2]) s t) ∧
      ∀ m j, (s.line n).voice.recording = some m → (s.line n).voice.recKind = .host j → State.Answered (.line n) j .done 0 0
        (wordBytes m.val ++ wordBytes (s.message m).number ++ wordBytes 5 ++ longBytes (s.message m).sampleCount ++
          wordBytes (s.message m).blocks.length) s t) := by
  obtain ⟨y, z, cut, filed, run⟩ := stop_cuts taken off fault
  have line := State.line_taking s n i.val
  have taking : LineEffect n s (s.taking (.line n) i.val) := LineEffect.refl.taking _
  have others : ∀ k, k ≠ i.val → (s.taking (.line n) i.val).card (.line n) k = s.card (.line n) k := (State.card_taking s _ _ · |>.2)
  have connected := State.connectedAs_taking (n := n) s (.line n) i.val .voice
  have message : ∀ k, (s.taking (.line n) i.val).message k = s.message k := fun _ => rfl
  have blocks := stop_blocks cut filed
  have slot : ∀ k, (s.taking (.line n) i.val).slot k = s.slot k := fun _ => rfl
  have store : (s.taking (.line n) i.val).store = s.store := rfl
  have engine : (s.taking (.line n) i.val).engTable = s.engTable := rfl
  generalize s.taking (.line n) i.val = x at *
  have effect : LineEffect n s z := (taking.trans cut.effect).trans filed.effect
  have messages : ∀ k, y.message k = s.message k := fun k => (State.message_congr (cut.only.of .messages) k).trans (message k)
  have recording : (y.line n).voice.recording = (s.line n).voice.recording ∧ (y.line n).voice.recKind = (s.line n).voice.recKind := by
    obtain ⟨a, b⟩ := cut.recording
    rw [a, b, line]
    exact ⟨rfl, rfl⟩
  have call : (y.line n).call = (s.line n).call := by
    have same : (y.line n).call = (x.line n).call := cut.only.of .call
    rw [same, line]
  have longCards : (x.line n).longCards = (s.line n).longCards := by rw [line]; rfl
  have later : LineEffect n z (z.answer (.line n) i.val .done 0 (s.line n).stopFields) := LineEffect.refl.answer ..
  have card : ∀ k, k ≠ i.val → (z.answer (.line n) i.val .done 0 (s.line n).stopFields).card (.line n) k = z.card (.line n) k :=
    fun k other => State.card_answer_ne _ (.line n) other _ _ _
  refine ⟨_, run, State.answered_taken taken effect .done 0 _, ?_, ?_, (effect.trans later).commit.aside, (effect.trans later).commit.steady,
    fun m held => ⟨?_, ?_, fun kind => ?_⟩, fun how => ?_, fun voice role => ?_, fun long => ⟨fun k play held => ?_, fun m k held kind => ?_⟩⟩
  · rw [State.line_commit]
    change ((State.answer _ _ _ _ _ _).line n).voice.play = _
    rw [State.voice_line_answer]
    exact filed.silent cut.silent
  · rw [State.line_commit]
    change ((State.answer _ _ _ _ _ _).line n).voice.recording = _
    rw [State.voice_line_answer]
    exact filed.idle
  · rw [State.message_commit]
    exact (filed.complete m (recording.1.trans held)).1
  · rw [State.message_commit]
    exact (filed.complete m (recording.1.trans held)).2
  · have cleared := filed.cleared (by rw [recording.1, held]; nofun) (recording.2.trans kind)
    have profile : (y.line n).profile = (s.line n).profile := by
      have same : (y.line n).profile = (x.line n).profile := cut.only.of .profile
      rw [same, line]
    have before : LineEffect n s y := taking.trans cut.effect
    exact (cleared.before call profile before.tick before.events before.aside).answer.commit
  · rw [State.line_commit]
    change ((State.answer _ _ _ _ _ _).line n).call = _
    rw [State.call_line_answer, filed.call (how.imp (recording.1.trans ·) fun ⟨j, kind⟩ => ⟨j, recording.2.trans kind⟩), call]
  · obtain ⟨none, chain, played⟩ := blocks (connected.trans voice) (by rw [line]; exact role)
    rw [line, store] at none chain
    rw [line] at played
    have after : (s.commit (z.answer (.line n) i.val .done 0 (s.line n).stopFields)).store = z.store ∧
      (∀ k, (s.commit (z.answer (.line n) i.val .done 0 (s.line n).stopFields)).slot k = z.slot k) := ⟨rfl, fun _ => rfl⟩
    rw [after.1]
    refine ⟨none, chain, fun g play => ?_⟩
    obtain ⟨rest, last⟩ := played g play
    rw [slot, store] at rest last
    rw [engine] at last
    rw [after.2]
    refine ⟨rest, fun withdrawing few => ?_⟩
    obtain ⟨empty, released, answered⟩ := last withdrawing few
    refine ⟨empty, released, fun k held fits => ?_⟩
    exact (((answered k held fits).before taking.tick).later later (.inr rfl) (State.card_congr (T := .engine) rfl k)).commit
  · have mine : k ∈ (s.line n).longCards := by
      rw [Line.longCards_eq]
      exact List.mem_append_right _ (List.mem_append_right _ (Line.mem_serviceCards.mpr (.inr (.inr (.inl held)))))
    have playing : (x.line n).voice.play ≠ .none := by rw [line]; exact play
    have held' : (x.line n).voice.playCard = some k := by rw [line]; exact held
    have once : (x.line n).longCards.Nodup := by
      rw [longCards, Line.longCards_eq]
      exact long.nodup n
    have answered := cut.answered playing k held' (by rw [taking.length_line]; exact long.fits mine)
    have left := filed.cards k (cut.playCard_apart once playing held')
    rw [line] at answered
    exact (((answered.before taking.tick).later filed.effect (.inl rfl) left).later later (.inl rfl)
      (card k (long.longCard_ne taken mine))).commit
  · have mine : k ∈ (s.line n).longCards := by
      rw [Line.longCards_eq]
      exact List.mem_append_right _ (List.mem_append_right _ (Line.mem_serviceCards.mpr
        (.inr (.inr (.inr ⟨by rw [held]; nofun, kind⟩)))))
    have before : LineEffect n s y := taking.trans cut.effect
    have answered := filed.answered m k (recording.1.trans held) (recording.2.trans kind) (by rw [before.length_line]; exact long.fits mine)
    rw [messages] at answered
    exact ((answered.before before.tick).later later (.inl rfl) (card k (long.longCard_ne taken mine))).commit

end

/-- Settles O47: RECORD and PLAY by their refusals and what they begin; STOP ends the play, then the recording, then answers. -/
theorem playRecordAndStop : Obligations.PlayRecordAndStop := by
  unfold Obligations.PlayRecordAndStop
  intro n i s card taken v short
  refine ⟨⟨fun codes takes => ⟨State.card_taken takes, State.lastTaken_taking s _ _⟩, fun j other => (State.card_taking s _ _ j).2 other⟩,
    fun takes => ⟨record_elsewhere takes, fun voice => ⟨record_busy takes voice, fun idle step =>
      ⟨record_full takes voice idle step, fun m empty lowest => record_begins takes voice idle step empty lowest⟩⟩⟩,
    fun takes => ⟨play_elsewhere takes, fun voice => ⟨play_busy takes voice, ?_⟩⟩,
    fun takes => ⟨stop_refused takes, fun off fault => stop_ends takes off fault⟩⟩
  intro idle playing
  refine ⟨play_badKind takes voice idle, fun slot large => ?_, fun g slot named => ⟨fun unloaded => ?_, play_loaded takes voice idle slot named⟩,
    fun chain e => play_badChain takes voice idle chain, fun chain c => play_chain takes voice idle chain⟩
  · exact (exec_play_slot takes voice idle slot (dif_neg (Nat.not_lt.mpr large))).1 rfl
  · have known : slotOf (card.byte 7) = some g := by rw [named, slotOf, dif_pos g.isLt]
    exact ((exec_play_slot takes voice idle slot known).2 g rfl).1 unloaded

end Sys2Proof.Machine

/-! O48: TAKE DIGITS and a digit heard (03 R53, R54; 08 R139, R142, R150, R151). -/

namespace Sys2Proof.Machine

set_option Elab.async false

variable {n : LineId} {s t u x : State} {m : EntryId} {d : Byte} {i : Fin 8}

theorem takeDigits_answers (taken : s.takesCard (.line n) i.val (· == 11) = true) : ∃ t, exec (.takeDigits n i) s = .next t ∧
    State.ShortOrder n i.val .done 0 (s.line n).voice.digits.length
      (((s.line n).voice.digits ++ List.replicate 16 0).take 16 ++ wordBytes (s.line n).voice.overflow)
      { s.line n with voice := { (s.line n).voice with digits := [], overflow := 0 } } s t := by
  have dispatch : exec (.takeDigits n i) s = execTakeDigits n i s := rfl
  have voice : ((s.taking (.line n) i.val).line n).voice = (s.line n).voice := by rw [State.line_taking]
  rw [dispatch, execTakeDigits, takeOrder_taken taken, State.takeDigitsOrder]
  dsimp only
  rw [voice]
  exact ⟨_, rfl, State.shortOrder taken (fun l => { l with voice := { l.voice with digits := [], overflow := 0 } }) .done 0 _ _⟩

/-! ## A digit heard -/

/-- What a digit does to the Digit Queue of a line (R150). -/
def Line.digitQueued (d : Byte) (l : Line) : Line :=
  if l.voice.digits = [] then
    { l with voice := { l.voice with digits := [d] }, ev := { l.ev with bits := l.ev.bits ||| 0x0020, tally := l.ev.tally + 1 } }
  else if l.voice.digits.length < 16 then { l with voice := { l.voice with digits := l.voice.digits ++ [d] } }
  else { l with voice := { l.voice with overflow := min 65535 (l.voice.overflow + 1) } }

theorem State.queueDigit_eq (s : State) (n : LineId) (d : Byte) : s.queueDigit n d = s.onLine n (Line.digitQueued d) := by
  unfold State.queueDigit
  dsimp only
  by_cases empty : (s.line n).voice.digits = []
  · rw [if_pos (by rw [empty]; decide), if_pos empty, State.raise, State.onVoice, State.onLine_onLine]
    refine State.onLine_congr ?_
    rw [Line.digitQueued, if_pos empty, empty]
    rfl
  · by_cases room : (s.line n).voice.digits.length < 16
    · rw [if_pos room, if_neg empty, State.onVoice]
      refine State.onLine_congr ?_
      rw [Line.digitQueued, if_neg empty, if_pos room]
    · rw [if_neg room, State.onVoice]
      refine State.onLine_congr ?_
      rw [Line.digitQueued, if_neg empty, if_neg room]

theorem Line.digitQueued_parts (d : Byte) (l : Line) : (l.digitQueued d).call = l.call ∧ (l.digitQueued d).seq = l.seq ∧
    (l.digitQueued d).profile = l.profile ∧ (l.digitQueued d).voice.recording = l.voice.recording ∧
    (l.digitQueued d).voice.recKind = l.voice.recKind ∧ (l.digitQueued d).voice.stopOnDigit = l.voice.stopOnDigit := by
  unfold Line.digitQueued
  split
  · exact ⟨rfl, rfl, rfl, rfl, rfl, rfl⟩
  · split <;> exact ⟨rfl, rfl, rfl, rfl, rfl, rfl⟩

theorem exec_dtmfDigit (voice : (s.line n).connectedAs .voice = true) : exec (.dtmfDigit n d) s = done s
    (if ((s.onLine n (Line.digitQueued d)).line n).voice.recording.isSome = true ∧
        ((s.onLine n (Line.digitQueued d)).line n).voice.stopOnDigit = true then
      (s.onLine n (Line.digitQueued d)).endRecording n .digit
    else (s.onLine n (Line.digitQueued d)).digitEndsListening n) := by
  have run : exec (.dtmfDigit n d) s = done s (s.digitHeard n d) := rfl
  rw [State.digitHeard, if_pos voice] at run
  dsimp only at run
  rw [State.queueDigit_eq] at run
  exact run

theorem leads_dtmfDigit_elsewhere (no : (s.line n).connectedAs .voice = false) : Leads (.dtmfDigit n d) s s := by
  have run : exec (.dtmfDigit n d) s = done s (s.digitHeard n d) := rfl
  rw [State.digitHeard, if_neg (by rw [no]; decide)] at run
  exact Leads.of_done run rfl

theorem LineEffect.digitQueued (s : State) (n : LineId) (d : Byte) : LineEffect n s (s.onLine n (Line.digitQueued d)) := by
  rw [← State.queueDigit_eq]
  exact LineEffect.refl.queueDigit d

/-- Recording begun on a line that an event has changed. -/
theorem State.records_onLine (s : State) (n : LineId) (f : Line → Line) (m : EntryId) (q : AnswerSeq) : (s.onLine n f).records s n m q =
    (s.entryBegun s n m).onLine n fun l =>
      { f l with
        seq := { q with step := .recording }
        voice :=
          { (f l).voice with
            recording := some m, recKind := .automatic, stopOnDigit := (s.line n).profile.stopOnDigit, encoder := ⟨0, 0⟩
            silentRun := 0, frame := [], ahead := 0 } } := by
  have begun : (s.onLine n f).entryBegun s n m = (s.entryBegun s n m).onLine n f := rfl
  rw [State.records, begun, State.onLine_onLine]

section
variable {g : Line → Line} (voice : (s.line n).connectedAs .voice = true)
  (plain : (s.line n).voice.recording = none ∨ (s.line n).voice.stopOnDigit = false) (queues : g (s.line n) = (s.line n).digitQueued d)
include voice plain queues

theorem exec_dtmfDigit_plain : exec (.dtmfDigit n d) s = done s ((s.onLine n g).digitEndsListening n) := by
  have run := exec_dtmfDigit (d := d) voice
  obtain ⟨-, -, -, recording, -, stop⟩ := Line.digitQueued_parts d (s.line n)
  rw [State.line_onLine_self, recording, stop, if_neg, State.onLine_congr queues.symm] at run
  · exact run
  · rintro ⟨held, stops⟩
    rcases plain with none | keeps
    · rw [none] at held; exact absurd held (by decide)
    · rw [keeps] at stops; exact absurd stops (by decide)

theorem leads_dtmfDigit_queued (deaf : (s.line n).seq.listening = false) : Leads (.dtmfDigit n d) s (s.onLine n g) := by
  have run := exec_dtmfDigit_plain voice plain queues
  obtain ⟨-, seq, -⟩ := Line.digitQueued_parts d (s.line n)
  rw [State.digitEndsListening, State.line_onLine_self, queues, seq, if_neg (by rw [deaf]; decide)] at run
  exact Leads.of_done run rfl

theorem exec_dtmfDigit_listening (listening : (s.line n).seq.listening = true) : exec (.dtmfDigit n d) s = done s
    (if (s.line n).seq.step = .listen then ((s.onLine n g).withSeq n (s.line n).seq.deaf).goOn n
     else (s.onLine n g).withSeq n (s.line n).seq.deaf) := by
  have run := exec_dtmfDigit_plain voice plain queues
  obtain ⟨-, seq, -⟩ := Line.digitQueued_parts d (s.line n)
  have line : ((s.onLine n g).line n).seq = (s.line n).seq := by rw [State.line_onLine_self, queues, seq]
  rw [State.digitEndsListening, line, if_pos listening, State.onSeq_eq_withSeq, line] at run
  dsimp only at run
  rw [State.line_withSeq] at run
  exact run

theorem leads_dtmfDigit_deafens (listening : (s.line n).seq.listening = true) (step : (s.line n).seq.step ≠ .listen) :
    Leads (.dtmfDigit n d) s (s.onLine n fun l => { g l with seq := { l.seq with listening := false, listenTimer := .stopped } }) := by
  have run := exec_dtmfDigit_listening voice plain queues listening
  rw [if_neg step, State.withSeq, State.onLine_onLine] at run
  exact Leads.of_done run (congrArg State.uncounted (State.onLine_congr rfl))

theorem goesOn_dtmfDigit (listening : (s.line n).seq.listening = true) (step : (s.line n).seq.step = .listen) :
    GoesOn (.dtmfDigit n d) n s (s.onLine n g) (s.line n).seq.deaf := by
  have run := exec_dtmfDigit_listening voice plain queues listening
  rw [if_pos step] at run
  obtain ⟨call, -, profile, recording, -⟩ := Line.digitQueued_parts d (s.line n)
  have effect : LineEffect n s (s.onLine n g) := by
    rw [State.onLine_congr queues]
    exact .digitQueued s n d
  refine ⟨run, effect, ?_, ?_, ?_, rfl, rfl⟩ <;> rw [State.line_onLine_self, queues]
  · exact call
  · exact profile
  · exact recording

end

/-- A digit that ends a recording (R142). -/
theorem dtmfDigit_ends (voice : (s.line n).connectedAs .voice = true) (recording : (s.line n).voice.recording = some m)
    (stops : (s.line n).voice.stopOnDigit = true) : ∃ t, exec (.dtmfDigit n d) s = .next t ∧ (t.line n).voice.recording = none ∧
      (t.message m).state = .complete ∧ (t.message m).endReason = .digit ∧ (t.line n).ev.bits.getLsbD 11 = true ∧ State.Aside n s t ∧
      State.Steady s t ∧ ((s.line n).voice.recKind = .automatic → (t.line n).seq.step = .host ∧ (t.line n).call = (s.line n).call) := by
  have run := exec_dtmfDigit (d := d) voice
  obtain ⟨call, -, -, held, kind, stop⟩ := Line.digitQueued_parts d (s.line n)
  rw [if_pos (by rw [State.line_onLine_self, held, stop, recording]; exact ⟨rfl, stops⟩)] at run
  have line := State.line_onLine_self s n (Line.digitQueued d)
  have effect := LineEffect.digitQueued s n d
  generalize s.onLine n (Line.digitQueued d) = x at *
  have recording' : (x.line n).voice.recording = some m := by rw [line, held, recording]
  obtain ⟨filed, after, callKept⟩ := State.finishRecording_some recording' .digit
  have raised := State.raised_finishRecording recording' .digit
  have whole := effect.finishRecording .digit
  have ended := (effect.endRecording .digit).commit
  rw [State.endRecording] at run ended
  rw [line, kind] at run ended
  generalize x.finishRecording n .digit = y at *
  cases how : (s.line n).voice.recKind with
  | host k =>
    rw [how] at run ended
    refine ⟨_, run, ?_, ?_, ?_, ?_, ended.aside, ended.steady, nofun⟩
    · rw [State.line_commit]; exact congrArg Voice.recording after
    · rw [State.message_commit]; exact congrArg Message.state filed
    · rw [State.message_commit]; exact congrArg Message.endReason filed
    · rw [State.line_commit]; exact raised
  | automatic =>
    rw [how] at run ended
    have set := State.line_onSeq_self y n fun q => { q with step := .host }
    refine ⟨_, run, ?_, ?_, ?_, ?_, ended.aside, ended.steady, fun _ => ⟨?_, ?_⟩⟩
    · rw [State.line_commit]; exact congrArg (fun l : Line => l.voice.recording) set |>.trans (congrArg Voice.recording after)
    · rw [State.message_commit]; exact congrArg Message.state filed
    · rw [State.message_commit]; exact congrArg Message.endReason filed
    · rw [State.line_commit]; exact (congrArg (fun l : Line => l.ev.bits.getLsbD 11) set).trans raised
    · rw [State.line_commit]; exact congrArg (fun l : Line => l.seq.step) set
    · rw [State.line_commit]; exact (congrArg Line.call set).trans (callKept.trans (by rw [line, call]))

/-- Settles O48: a digit by the queue it finds, then by whether it ends a recording or adaptive listening. -/
theorem takeDigitsAndDigits : Obligations.TakeDigitsAndDigits := by
  unfold Obligations.TakeDigitsAndDigits
  refine ⟨fun n i s => takeDigits_answers, ?_⟩
  intro n d s v
  refine ⟨leads_dtmfDigit_elsewhere, ?_, fun m => dtmfDigit_ends⟩
  intro g voice plain how p deaf
  have queues : g (s.line n) = (s.line n).digitQueued d := by
    rw [Line.digitQueued]
    rcases how with ⟨empty, rfl⟩ | ⟨some, room, rfl⟩ | ⟨full, rfl⟩
    · exact (if_pos empty).symm
    · rw [if_neg some, if_pos room]
    · rw [if_neg (fun empty : (s.line n).voice.digits = [] => by
        have none : v.digits = [] := empty
        rw [none] at full
        exact absurd full (by decide)), if_neg (Nat.not_lt.mpr full)]
  refine ⟨leads_dtmfDigit_queued voice plain queues, leads_dtmfDigit_deafens voice plain queues, fun listening step idle => ?_⟩
  have goes := goesOn_dtmfDigit voice plain queues listening step
  refine ⟨fun ends => ?_, fun after stopped => ⟨fun m empty lowest => ?_, fun full => ?_⟩⟩
  · have leads := goes.host ends
    rw [State.withSeq, State.onLine_onLine] at leads
    have same : s.onLine n (fun l => { g l with seq := { deaf l.seq with step := .host } }) =
        s.onLine n ((fun l => { l with seq := { (s.line n).seq.deaf with step := .host } }) ∘ g) := State.onLine_congr rfl
    rw [same]
    exact leads
  · have leads := goes.recordsInto after stopped empty lowest
    rw [State.records_onLine] at leads
    have line : (s.entryBegun s n m).line n = s.line n := rfl
    have same : (s.entryBegun s n m).onLine n (fun l =>
        { g l with
          seq := { deaf l.seq with step := .recording }
          voice :=
            { (g l).voice with
              recording := some m, recKind := .automatic, stopOnDigit := p.stopOnDigit, encoder := ⟨0, 0⟩, silentRun := 0
              frame := [], ahead := 0 } }) = (s.entryBegun s n m).onLine n fun l =>
        { g l with
          seq := { (s.line n).seq.deaf with step := .recording }
          voice :=
            { (g l).voice with
              recording := some m, recKind := .automatic, stopOnDigit := (s.line n).profile.stopOnDigit, encoder := ⟨0, 0⟩, silentRun := 0
              frame := [], ahead := 0 } } := State.onLine_congr (by rw [line]; rfl)
    exact same ▸ leads
  · obtain ⟨t, run, cleared, last, digits, told, steady⟩ := goes.clears after stopped full idle
    exact ⟨t, run, cleared, last, digits.trans (by rw [State.line_onLine_self]), told, steady⟩

end Sys2Proof.Machine

/-! O49: the codec, and the samples of plays and recordings (08 R135, R140, R141, R148). -/

namespace Sys2Proof.Machine

set_option Elab.async false

variable {n : LineId} {s t u x y : State} {m : EntryId} {g : SlotId} {i j : Nat}

/-! ## The codec -/

theorem clampInt_eq (lo hi v : Int) (order : lo ≤ hi) : clampInt lo hi v = max lo (min hi v) := by
  unfold clampInt
  split
  · omega
  · split <;> omega

theorem stepAdjust_eq {k : Nat} (small : k ≤ 7) : stepAdjust k = if k ≤ 3 then -1 else 2 * (k : Int) - 6 := by
  interval_cases k <;> rfl

/-- The code of a sample without its sign (R135). -/
def Codec.magnitude (c : Codec) (x : Int) : Nat := min 7 (2 * (x - c.p).natAbs / stepSize c.k)

theorem Codec.measure_eq (c : Codec) (x : Int) : c.measure x = (decide (x < c.p), c.magnitude x) := by
  rw [Codec.measure, Codec.magnitude]
  congr 1
  exact decide_eq_decide.mpr (by omega)

theorem Codec.update_eq (c : Codec) (negative : Bool) {k : Nat} (small : k ≤ 7) : c.update negative k =
    ⟨max (-8192) (min 8191 (if negative = true then c.p - ((2 * k + 1) * stepSize c.k / 4 : Nat) else c.p + ((2 * k + 1) * stepSize c.k / 4 : Nat))),
      (max 0 (min 46 ((c.k : Int) + if k ≤ 3 then -1 else 2 * (k : Int) - 6))).toNat⟩ := by
  rw [Codec.update, clampInt_eq _ _ _ (by decide), clampInt_eq _ _ _ (by decide), stepAdjust_eq small]

theorem Codec.encode_fst (c : Codec) (x : Int) : (c.encode x).1 = (if x < c.p then 8 else 0) + c.magnitude x := by
  rw [Codec.encode, Codec.measure_eq]
  simp only [decide_eq_true_eq]

theorem Codec.encode_snd (c : Codec) (x : Int) : (c.encode x).2 = c.update (decide (x < c.p)) (c.magnitude x) := by
  rw [Codec.encode, Codec.measure_eq]

theorem Codec.magnitude_le (c : Codec) (x : Int) : c.magnitude x ≤ 7 := Nat.min_le_left _ _

/-- The decoder that takes the code follows the encoder. -/
theorem Codec.decode_encode (c : Codec) (x : Int) : c.decode (c.encode x).1 = (c.encode x).2 := by
  have small := c.magnitude_le x
  rw [Codec.decode, Codec.encode_fst, Codec.encode_snd]
  by_cases below : x < c.p
  · rw [if_pos below, show (8 + c.magnitude x) % 8 = c.magnitude x by omega, decide_eq_true below, decide_eq_true (by omega)]
  · rw [if_neg below, show (0 + c.magnitude x) % 8 = c.magnitude x by omega, decide_eq_false below, decide_eq_false (by omega)]

/-! ## Samples of a play -/

theorem leads_decodeSample_silent (play : (s.line n).voice.play = .none) : Leads (.decodeSample n) s s := by
  have run : exec (.decodeSample n) s = done s (s.decodeSample n) := rfl
  rw [State.decodeSample, if_pos play] at run
  exact Leads.of_done run rfl

theorem leads_decodeSample_goesOn (play : (s.line n).voice.play ≠ .none)
    (more : (s.line n).voice.samplesPlayed + 1 < (s.line n).voice.playTotal) :
    Leads (.decodeSample n) s (s.samplePlayed n (s.nextDecoder n)) := by
  have run := exec_decodeSample play
  rw [if_neg (Nat.not_le.mpr more)] at run
  exact Leads.of_done run rfl

theorem State.endPlay_card (card : (s.line n).voice.playCard = some j) (e : PlayEnd) : s.endPlay n e =
    (s.playStopped n).answer (.line n) j .done 0 (longBytes (s.line n).voice.samplesPlayed ++ [byteOf e.code 0]) := by
  rw [State.endPlay, card]
  exact State.finishPlay_some card ..

/-- The play of an order ends with its last sample (R148). -/
structure PlayEnded (n : LineId) (j : Nat) (s x t : State) : Prop where
  run : exec (.decodeSample n) s = .next t
  silent : (t.line n).voice.play = .none
  card : (t.line n).voice.playCard = none
  seq : (t.line n).seq = (s.line n).seq
  answered : State.Answered (.line n) j .done 0 0 (longBytes ((s.line n).voice.samplesPlayed + 1) ++ [1]) s t
  store : t.store = (x.playStopped n).store
  slots : ∀ k, t.slot k = (x.playStopped n).slot k
  engine : ∀ k, State.Answered .engine k .done 0 0 [] s (x.playStopped n) → State.Answered .engine k .done 0 0 [] s t
  aside : State.Aside n s t
  steady : State.Steady s t

theorem LineEffect.samplePlayed (s : State) (n : LineId) (d : Codec) : LineEffect n s (s.samplePlayed n d) := by
  unfold State.samplePlayed
  exact (LineEffect.refl.onVoice).emit _

theorem decodeSample_ends (play : (s.line n).voice.play ≠ .none) (card : (s.line n).voice.playCard = some j)
    (fits : j < (s.line n).table.cards.length) (last : (s.line n).voice.playTotal ≤ (s.line n).voice.samplesPlayed + 1) :
    ∃ t, PlayEnded n j s (s.samplePlayed n (s.nextDecoder n)) t := by
  have run := exec_decodeSample play
  have line := s.line_samplePlayed n (s.nextDecoder n)
  have effect := LineEffect.samplePlayed s n (s.nextDecoder n)
  rw [if_pos last] at run
  generalize s.samplePlayed n (s.nextDecoder n) = x at *
  rw [State.endPlay_card (by rw [line]; exact card), line] at run
  have stopped := LineEffect.playStopped x n
  have voice := State.voice_playStopped x n
  have seq := State.seq_playStopped x n
  rw [line] at voice seq
  have whole := effect.trans stopped
  generalize hz : x.playStopped n = z at *
  have later : LineEffect n z (z.answer (.line n) j .done 0 (longBytes ((s.line n).voice.samplesPlayed + 1) ++ [1])) :=
    LineEffect.refl.answer ..
  have length : j < (z.line n).table.cards.length := by rw [whole.length_line]; exact fits
  have answered : State.Answered (.line n) j .done 0 0 (longBytes ((s.line n).voice.samplesPlayed + 1) ++ [1]) s
      (z.answer (.line n) j .done 0 (longBytes ((s.line n).voice.samplesPlayed + 1) ++ [1])) :=
    State.answered_of (T := .line n) length .done 0 0 _ whole.tick
  have both := (whole.trans later).commit
  refine ⟨_, ⟨run, ?_, ?_, ?_, answered.commit, by rw [hz]; rfl, fun k => by rw [hz]; rfl,
    fun k told => ?_, both.aside, both.steady⟩⟩
  · rw [State.line_commit]
    change ((State.answer _ _ _ _ _ _).line n).voice.play = _
    rw [State.voice_line_answer, voice]
    rfl
  · rw [State.line_commit]
    change ((State.answer _ _ _ _ _ _).line n).voice.playCard = _
    rw [State.voice_line_answer, voice]
    rfl
  · rw [State.line_commit]
    change ((State.answer _ _ _ _ _ _).line n).seq = _
    rw [State.seq_line_answer, seq]
  · rw [hz] at told
    exact (told.later later (.inr rfl) (State.card_congr (T := .engine) rfl k)).commit

theorem decodeSample_chain {first : Nat} (play : (s.line n).voice.play = .chain first) (card : (s.line n).voice.playCard = some j)
    (fits : j < (s.line n).table.cards.length) (last : (s.line n).voice.playTotal ≤ (s.line n).voice.samplesPlayed + 1) :
    ∃ t, exec (.decodeSample n) s = .next t ∧ (t.line n).voice.play = .none ∧
      State.Answered (.line n) j .done 0 0 (longBytes ((s.line n).voice.samplesPlayed + 1) ++ [1]) s t ∧
      t.store = s.store.assignAll ((s.line n).voice.playChain.map Prod.fst) .host ∧ State.Aside n s t ∧ State.Steady s t := by
  obtain ⟨t, ended⟩ := decodeSample_ends (by rw [play]; nofun) card fits last
  have line := s.line_samplePlayed n (s.nextDecoder n)
  have blocks := ((s.samplePlayed n (s.nextDecoder n)).playEnds n).1 first (by rw [line]; exact play)
  rw [line] at blocks
  exact ⟨t, ended.run, ended.silent, ended.answered, ended.store.trans blocks, ended.aside, ended.steady⟩

theorem decodeSample_slot (play : (s.line n).voice.play = .slot g) (card : (s.line n).voice.playCard = some j)
    (fits : j < (s.line n).table.cards.length) (last : (s.line n).voice.playTotal ≤ (s.line n).voice.samplesPlayed + 1) :
    ∃ t, exec (.decodeSample n) s = .next t ∧ (t.line n).voice.play = .none ∧ (t.line n).voice.playCard = none ∧
      (t.line n).seq = (s.line n).seq ∧
      State.Answered (.line n) j .done 0 0 (longBytes ((s.line n).voice.samplesPlayed + 1) ++ [1]) s t ∧
      ((s.slot g).state ≠ .withdrawing ∨ 1 < (s.slot g).playCount →
        t.slot g = { s.slot g with playCount := (s.slot g).playCount - 1 } ∧ t.store = s.store) ∧
      ((s.slot g).state = .withdrawing → (s.slot g).playCount ≤ 1 →
        t.slot g = ⟨.empty, [], 0, 0, none⟩ ∧ t.store = ((s.slot g).chain.map Prod.fst).foldl Store.release s.store ∧
        ∀ i, (s.slot g).unloadCard = some i → i < s.engTable.cards.length → State.Answered .engine i .done 0 0 [] s t) ∧
      State.Aside n s t ∧ State.Steady s t := by
  obtain ⟨t, ended⟩ := decodeSample_ends (by rw [play]; nofun) card fits last
  have line := s.line_samplePlayed n (s.nextDecoder n)
  have effect := LineEffect.samplePlayed s n (s.nextDecoder n)
  have rest := (State.playStopped_rest (s := s.samplePlayed n (s.nextDecoder n)) (g := g) (by rw [line]; exact play) ·)
  have emptied := (State.playStopped_last (s := s.samplePlayed n (s.nextDecoder n)) (g := g) (by rw [line]; exact play) · ·)
  refine ⟨t, ended.run, ended.silent, ended.card, ended.seq, ended.answered, fun more => ?_, fun withdrawing few => ?_, ended.aside, ended.steady⟩
  · rw [ended.slots g, ended.store]
    exact rest more
  · obtain ⟨slot, store, answered⟩ := emptied withdrawing few
    rw [ended.slots g, ended.store]
    exact ⟨slot, store, fun k held length => ended.engine k ((answered k held length).before effect.tick)⟩

/-! ## The end of a recording -/

/-- What the end of the recording of line `n` in entry `m` leaves, at any reason but a digit (R141, R142). -/
structure RecordEnded (n : LineId) (m : EntryId) (r : EndReason) (s t : State) : Prop where
  effect : LineEffect n s t
  idle : (t.line n).voice.recording = none
  message : t.message m = { s.message m with state := .complete, endReason := r, trailingMs := 10 * (s.line n).voice.silentRun }
  raised : (t.line n).ev.bits.getLsbD 11 = true
  host : ∀ k, (s.line n).voice.recKind = .host k → (t.line n).call = (s.line n).call ∧
    (k < (s.line n).table.cards.length → State.Answered (.line n) k .done 0 0
      (wordBytes m.val ++ wordBytes (s.message m).number ++ wordBytes r.code ++ longBytes (s.message m).sampleCount ++
        wordBytes (s.message m).blocks.length) s t)
  automatic : (s.line n).voice.recKind = .automatic → State.Cleared n .localCleared s t

theorem EventWord.Risen.bit {w v : EventWord} (h : w.Risen v) {k : Nat} (up : w.bits.getLsbD k = true) : v.bits.getLsbD k = true := by
  obtain ⟨b, c, rfl⟩ := h
  rw [BitVec.getLsbD_or, up]
  rfl

theorem State.endRecording_spec (recording : (s.line n).voice.recording = some m) {r : EndReason} (other : r ≠ .digit) :
    RecordEnded n m r s (s.endRecording n r) := by
  cases kind : (s.line n).voice.recKind with
  | host k =>
    have run : s.endRecording n r = s.finishRecording n r := by rw [State.endRecording, kind]
    obtain ⟨filed, voice, call⟩ := State.finishRecording_some recording r
    rw [run]
    refine ⟨LineEffect.refl.finishRecording r, by rw [voice], filed, State.raised_finishRecording recording r, fun k' h => ?_,
      fun h => (nomatch kind.symm.trans h)⟩
    obtain rfl := RecordingKind.host.inj (kind.symm.trans h)
    exact ⟨call, fun fits => State.answered_finishRecording recording kind fits r⟩
  | automatic =>
    have run : s.endRecording n r = (s.recordingFiled n m r).clearDecision n .localCleared := by
      rw [State.endRecording, kind, State.finishRecording_automatic recording kind]
      exact if_neg other
    rw [run]
    have line := s.line_recordingFiled n m r
    have message := s.message_recordingFiled n m r
    have effect : LineEffect n s (s.recordingFiled n m r) := (((LineEffect.refl.onMessage m _).onVoice).raise .message)
    generalize s.recordingFiled n m r = x at *
    have cleared := x.clearDecision_spec n .localCleared
    have none : (x.line n).voice.recording = none := by rw [line]
    have up : (x.line n).ev.bits.getLsbD 11 = true := by rw [line]; simp [EventWord.raise, bitWord]
    exact ⟨effect.trans (LineEffect.refl.clearDecision _), cleared.recording,
      (State.message_congr (State.messages_clearDecision none .localCleared) m).trans message, cleared.events.bit up,
      fun k h => (nomatch kind.symm.trans h),
      fun _ => cleared.before (by rw [line]) (by rw [line]) effect.tick effect.events effect.aside⟩

/-! ## Samples of a recording -/

theorem leads_encodeSample_idle {x : Sample} (idle : (s.line n).voice.recording = none) : Leads (.encodeSample n x) s s := by
  have run : exec (.encodeSample n x) s = done s (s.encodeSample n x) := rfl
  rw [State.encodeSample, idle] at run
  exact Leads.of_done run rfl

/-- A sample heard and coded, the encoder at `c` (R136, R140). -/
def Voice.coded (c : Codec) (x : Sample) (v : Voice) : Voice := { v.hear x with encoder := c }

theorem Voice.coded_eq (c : Codec) (x : Sample) (v : Voice) : v.coded c x =
    if 0 < v.ahead then { v with encoder := c, ahead := v.ahead - 1 }
    else { v with encoder := c, frame := if v.frame.length < 80 then v.frame ++ [x] else [x] } := by
  rw [Voice.coded, Voice.hear]
  split <;> rfl

theorem Voice.coded_kept (c : Codec) (x : Sample) (v : Voice) :
    (v.coded c x).recording = v.recording ∧ (v.coded c x).recKind = v.recKind ∧ (v.coded c x).digits = v.digits := by
  rw [Voice.coded_eq]
  split <;> exact ⟨rfl, rfl, rfl⟩

/-- The sample counted in its entry and heard on its line (R136, R140). -/
def State.sampleTaken (s : State) (n : LineId) (m : EntryId) (c : Codec) (x : Sample) : State :=
  (s.onMessage m fun y => { y with sampleCount := y.sampleCount + 1 }).onVoice n (Voice.coded c x)

theorem State.line_sampleTaken (s : State) (n : LineId) (m : EntryId) (c : Codec) (x : Sample) :
    (s.sampleTaken n m c x).line n = { s.line n with voice := (s.line n).voice.coded c x } := by
  rw [State.sampleTaken, State.line_onVoice_self]
  rfl

theorem State.message_sampleTaken (s : State) (n : LineId) (m : EntryId) (c : Codec) (x : Sample) :
    (s.sampleTaken n m c x).message m = { s.message m with sampleCount := (s.message m).sampleCount + 1 } := by
  exact State.message_onMessage_self s m fun y => { y with sampleCount := y.sampleCount + 1 }

section
variable {a : Sample} (recording : (s.line n).voice.recording = some m)
include recording

/-- A sample whose code found its place, in `u`. -/
theorem exec_encodeSample_stored
    (stored : s.storeCode n m ((s.line n).voice.encoder.encode a.toInt).1 = some (u.onMessage m fun y => { y with sampleCount := y.sampleCount + 1 }))
    (line : u.line n = s.line n) (message : (u.message m).sampleCount = (s.message m).sampleCount) :
    exec (.encodeSample n a) s = done s
      (if (s.line n).profile.maxLength * 8000 ≤ (s.message m).sampleCount + 1 then
        (u.sampleTaken n m ((s.line n).voice.encoder.encode a.toInt).2 a).endRecording n .maxLength
       else u.sampleTaken n m ((s.line n).voice.encoder.encode a.toInt).2 a) := by
  have run : exec (.encodeSample n a) s = done s (s.encodeSample n a) := rfl
  rw [State.encodeSample, recording] at run
  dsimp only at run
  rw [stored] at run
  have taken := u.line_sampleTaken n m ((s.line n).voice.encoder.encode a.toInt).2 a
  have counted := u.message_sampleTaken n m ((s.line n).voice.encoder.encode a.toInt).2 a
  refine run.trans (congrArg (done s) ?_)
  change (if ((u.sampleTaken n m ((s.line n).voice.encoder.encode a.toInt).2 a).line n).profile.maxLength * 8000 ≤
    ((u.sampleTaken n m ((s.line n).voice.encoder.encode a.toInt).2 a).message m).sampleCount then _ else _) = _
  rw [taken, counted, line, message]
  rfl

theorem exec_encodeSample_full (full : s.storeCode n m ((s.line n).voice.encoder.encode a.toInt).1 = none) :
    exec (.encodeSample n a) s = done s ((s.raise n .poolDry).endRecording n .storeFull) := by
  have run : exec (.encodeSample n a) s = done s (s.encodeSample n a) := rfl
  rw [State.encodeSample, recording] at run
  dsimp only at run
  rw [full] at run
  exact run

end

/-- The states in which a sample's code has found its place, before the sample is counted. -/
structure CodePlaced (n : LineId) (m : EntryId) (code : Nat) (s u : State) : Prop where
  stored : s.storeCode n m code = some (u.onMessage m fun y => { y with sampleCount := y.sampleCount + 1 })
  line : u.line n = s.line n
  count : (u.message m).sampleCount = (s.message m).sampleCount

theorem codePlaced_low {b code : Nat} (last : (s.message m).blocks.getLast? = some b) (odd : (s.message m).sampleCount % 2 = 1) :
    CodePlaced n m code s (s.onStore fun st =>
      st.setPayload b (st.fill b - 1) ((st.payload b (st.fill b - 1) &&& 0xF0) ||| BitVec.ofNat 8 code)) := by
  refine ⟨?_, rfl, rfl⟩
  rw [State.storeCode, if_pos odd, last]
  rfl

theorem codePlaced_high {b code : Nat} (last : (s.message m).blocks.getLast? = some b) (even : (s.message m).sampleCount % 2 = 0)
    (room : s.store.fill b < 1016) : CodePlaced n m code s (s.onStore fun st => st.append b [BitVec.ofNat 8 (16 * code)]) := by
  have opened : s.openBlock m = some b := by
    rw [State.openBlock, last]
    exact if_pos room
  refine ⟨?_, rfl, rfl⟩
  rw [State.storeCode, if_neg (by omega), opened]

theorem State.openBlock_none (full : (s.message m).blocks = [] ∨ ∃ b, (s.message m).blocks.getLast? = some b ∧ s.store.fill b = 1016) :
    s.openBlock m = none := by
  rw [State.openBlock]
  rcases full with empty | ⟨b, last, fill⟩
  · rw [empty]
    rfl
  · rw [last]
    exact if_neg (by omega)

/-- A block popped for a recording (R140). -/
theorem State.popMessage_some {b : Nat} {rest : List Nat} (free : s.store.free = b :: rest) (above : s.reserve < s.store.free.length) :
    ∃ u, s.popMessage n m = some (b, u) ∧ u.store.free = rest ∧ u.store.owners = s.store.owners.set b (.msg m) ∧ u.lines = s.lines ∧
      u.message m = { s.message m with blocks := (s.message m).blocks ++ [b] } := by
  obtain ⟨v, pop, store, lines, -, only⟩ := State.pop_eq free (.msg m) n
  have message : v.message m = s.message m := State.message_congr (only.of .messages) m
  rw [State.popMessage, if_pos (show s.reserve < s.store.freeCount from above), pop]
  refine ⟨_, rfl, ?_, ?_, lines, ?_⟩
  · change (match (v.message m).blocks.getLast? with
      | some last => (v.store.newHeader b .voice n (v.message m).blocks.length).setNext last b
      | none => v.store.newHeader b .voice n (v.message m).blocks.length).free = rest
    split <;> exact congrArg Store.free store
  · change (match (v.message m).blocks.getLast? with
      | some last => (v.store.newHeader b .voice n (v.message m).blocks.length).setNext last b
      | none => v.store.newHeader b .voice n (v.message m).blocks.length).owners = _
    split <;> exact congrArg Store.owners store
  · rw [State.message_onMessage_self]
    exact congrArg (fun y : Message => { y with blocks := y.blocks ++ [b] }) message

theorem codePlaced_fresh {b code : Nat} {rest : List Nat} (even : (s.message m).sampleCount % 2 = 0)
    (full : (s.message m).blocks = [] ∨ ∃ b, (s.message m).blocks.getLast? = some b ∧ s.store.fill b = 1016)
    (free : s.store.free = b :: rest) (above : s.reserve < s.store.free.length) : ∃ u, CodePlaced n m code s u ∧
      u.store.free = rest ∧ u.store.owners = s.store.owners.set b (.msg m) ∧ (u.message m).blocks = (s.message m).blocks ++ [b] := by
  obtain ⟨v, popped, rest', owners, lines, message⟩ := State.popMessage_some (n := n) (m := m) free above
  refine ⟨v.onStore fun st => st.append b [BitVec.ofNat 8 (16 * code)], ⟨?_, ?_, ?_⟩, rest', owners, congrArg Message.blocks message⟩
  · rw [State.storeCode, if_neg (by omega), State.openBlock_none full]
    dsimp only
    rw [popped]
  · exact congrArg (·[n]) lines
  · change (v.message m).sampleCount = _
    rw [message]

theorem State.storeCode_none {code : Nat} (even : (s.message m).sampleCount % 2 = 0)
    (full : (s.message m).blocks = [] ∨ ∃ b, (s.message m).blocks.getLast? = some b ∧ s.store.fill b = 1016)
    (few : s.store.free.length ≤ s.reserve) : s.storeCode n m code = none := by
  have dry : s.popMessage n m = none := if_neg (Nat.not_lt.mpr few)
  rw [State.storeCode, if_neg (by omega), State.openBlock_none full]
  dsimp only
  rw [dry]

theorem State.sampleTaken_eq (s : State) (n : LineId) (m : EntryId) (c : Codec) (x : Sample) : s.sampleTaken n m c x =
    (s.onMessage m fun y => { y with sampleCount := y.sampleCount + 1 }).onLine n fun l =>
      { l with
        voice := if 0 < l.voice.ahead then { l.voice with encoder := c, ahead := l.voice.ahead - 1 }
          else { l.voice with encoder := c, frame := if l.voice.frame.length < 80 then l.voice.frame ++ [x] else [x] } } := by
  rw [State.sampleTaken, funext (Voice.coded_eq c x)]
  rfl

section
variable {a : Sample} (recording : (s.line n).voice.recording = some m)
  (placed : CodePlaced n m ((s.line n).voice.encoder.encode a.toInt).1 s u)
include placed

theorem CodePlaced.effect : LineEffect n s (u.sampleTaken n m ((s.line n).voice.encoder.encode a.toInt).2 a) := by
  refine ((LineEffect.refl (n := n)).storeCode placed.stored).onVoice (hf := fun v few => ?_)
  rw [(v.coded_kept _ a).2.2]
  exact few

include recording

theorem leads_encodeSample (more : (s.message m).sampleCount + 1 < (s.line n).profile.maxLength * 8000) :
    Leads (.encodeSample n a) s (u.sampleTaken n m ((s.line n).voice.encoder.encode a.toInt).2 a) := by
  have run := exec_encodeSample_stored recording placed.stored placed.line placed.count
  rw [if_neg (Nat.not_le.mpr more)] at run
  exact Leads.of_done run rfl placed.effect.pending

/-- The sample that fills a recording's time (R141). -/
theorem encodeSample_maxLength (blocks : (u.message m).blocks = (s.message m).blocks) (number : (u.message m).number = (s.message m).number)
    (long : (s.line n).profile.maxLength * 8000 ≤ (s.message m).sampleCount + 1) : ∃ t, exec (.encodeSample n a) s = .next t ∧
      (t.line n).voice.recording = none ∧ (t.message m).state = .complete ∧ (t.message m).endReason = .maxLength ∧
      (t.message m).sampleCount = (s.message m).sampleCount + 1 ∧ (t.line n).ev.bits.getLsbD 11 = true ∧
      (∀ j, (s.line n).voice.recKind = .host j → j < (s.line n).table.cards.length → State.Answered (.line n) j .done 0 0
        (wordBytes m.val ++ wordBytes (s.message m).number ++ wordBytes 2 ++ longBytes ((s.message m).sampleCount + 1) ++
          wordBytes (s.message m).blocks.length) s t ∧ (t.line n).call = (s.line n).call) ∧
      ((s.line n).voice.recKind = .automatic → (t.line n).call.state = .clearing ∧ (t.line n).call.lastOutcome = .localCleared) ∧
      State.Aside n s t ∧ State.Steady s t := by
  have run := exec_encodeSample_stored recording placed.stored placed.line placed.count
  rw [if_pos long] at run
  have line := u.line_sampleTaken n m ((s.line n).voice.encoder.encode a.toInt).2 a
  have message := u.message_sampleTaken n m ((s.line n).voice.encoder.encode a.toInt).2 a
  have effect := placed.effect
  obtain ⟨recordingKept, kind, -⟩ := (s.line n).voice.coded_kept ((s.line n).voice.encoder.encode a.toInt).2 a
  rw [placed.line] at line
  generalize u.sampleTaken n m ((s.line n).voice.encoder.encode a.toInt).2 a = y at *
  have ended := State.endRecording_spec (s := y) (by rw [line]; exact recordingKept.trans recording) (r := .maxLength) (by decide)
  generalize y.endRecording n .maxLength = t at *
  have whole := (effect.trans ended.effect).commit
  refine ⟨_, run, ?_, ?_, ?_, ?_, ?_, fun j host fits => ?_, fun automatic => ?_, whole.aside, whole.steady⟩
  · rw [State.line_commit]; exact ended.idle
  · rw [State.message_commit]; exact congrArg Message.state ended.message
  · rw [State.message_commit]; exact congrArg Message.endReason ended.message
  · rw [State.message_commit]
    exact (congrArg Message.sampleCount ended.message).trans ((congrArg Message.sampleCount message).trans (by rw [← placed.count]))
  · rw [State.line_commit]; exact ended.raised
  · obtain ⟨call, answered⟩ := ended.host j (by rw [line]; exact kind.trans host)
    have told := answered (by rw [line]; exact fits)
    rw [message] at told
    dsimp only at told
    rw [placed.count, blocks, number] at told
    exact ⟨(told.before effect.tick).commit, by rw [State.line_commit]; exact call.trans (by rw [line])⟩
  · have cleared := (ended.automatic (by rw [line]; exact kind.trans automatic)).call
    rw [State.line_commit]
    exact ⟨congrArg CallRecord.state cleared, congrArg CallRecord.lastOutcome cleared⟩

end

/-- A recording that needs a block at the Reserve (R140, R141). -/
theorem encodeSample_full {a : Sample} (recording : (s.line n).voice.recording = some m) (even : (s.message m).sampleCount % 2 = 0)
    (full : (s.message m).blocks = [] ∨ ∃ b, (s.message m).blocks.getLast? = some b ∧ s.store.fill b = 1016)
    (few : s.store.free.length ≤ s.reserve) : ∃ t, exec (.encodeSample n a) s = .next t ∧
      (t.line n).voice.recording = none ∧ (t.message m).state = .complete ∧ (t.message m).endReason = .storeFull ∧
      (t.message m).sampleCount = (s.message m).sampleCount ∧ (t.line n).ev.bits.getLsbD 13 = true ∧
      (∀ j, (s.line n).voice.recKind = .host j → j < (s.line n).table.cards.length → State.Answered (.line n) j .done 0 0
        (wordBytes m.val ++ wordBytes (s.message m).number ++ wordBytes 3 ++ longBytes (s.message m).sampleCount ++
          wordBytes (s.message m).blocks.length) s t ∧ (t.line n).call = (s.line n).call) ∧
      ((s.line n).voice.recKind = .automatic → (t.line n).call.state = .clearing ∧ (t.line n).call.lastOutcome = .localCleared) ∧
      State.Aside n s t ∧ State.Steady s t := by
  have run := exec_encodeSample_full (a := a) recording (State.storeCode_none even full few)
  have line : (s.raise n .poolDry).line n = { s.line n with ev := (s.line n).ev.raise 13 } := State.line_onLine_self ..
  have up : ((s.raise n .poolDry).line n).ev.bits.getLsbD 13 = true := by rw [line]; simp [EventWord.raise, bitWord]
  have message : (s.raise n .poolDry).message m = s.message m := rfl
  have effect : LineEffect n s (s.raise n .poolDry) := LineEffect.refl.raise _
  generalize s.raise n .poolDry = y at *
  have ended := State.endRecording_spec (s := y) (by rw [line]; exact recording) (r := .storeFull) (by decide)
  generalize y.endRecording n .storeFull = t at *
  have whole := (effect.trans ended.effect).commit
  refine ⟨_, run, ?_, ?_, ?_, ?_, ?_, fun j host fits => ?_, fun automatic => ?_, whole.aside, whole.steady⟩
  · rw [State.line_commit]; exact ended.idle
  · rw [State.message_commit]; exact congrArg Message.state ended.message
  · rw [State.message_commit]; exact congrArg Message.endReason ended.message
  · rw [State.message_commit]
    have count := congrArg Message.sampleCount ended.message
    rw [message] at count
    exact count
  · rw [State.line_commit]; exact ended.effect.events.bit up
  · obtain ⟨call, answered⟩ := ended.host j (by rw [line]; exact host)
    have told := answered (by rw [line]; exact fits)
    rw [message] at told
    exact ⟨(told.before effect.tick).commit, by rw [State.line_commit]; exact call.trans (by rw [line])⟩
  · have cleared := (ended.automatic (by rw [line]; exact automatic)).call
    rw [State.line_commit]
    exact ⟨congrArg CallRecord.state cleared, congrArg CallRecord.lastOutcome cleared⟩

/-- A recording that takes a new block (R140). -/
theorem encodeSample_fresh {a : Sample} {b : Nat} {rest : List Nat} (recording : (s.line n).voice.recording = some m)
    (even : (s.message m).sampleCount % 2 = 0)
    (full : (s.message m).blocks = [] ∨ ∃ b, (s.message m).blocks.getLast? = some b ∧ s.store.fill b = 1016)
    (free : s.store.free = b :: rest) (above : s.reserve < s.store.free.length)
    (more : (s.message m).sampleCount + 1 < (s.line n).profile.maxLength * 8000) : ∃ t, exec (.encodeSample n a) s = .next t ∧
      t.store.free = rest ∧ t.store.owners = s.store.owners.set b (.msg m) ∧ (t.message m).blocks = (s.message m).blocks ++ [b] ∧
      (t.message m).sampleCount = (s.message m).sampleCount + 1 ∧
      (t.line n).voice = (s.line n).voice.coded ((s.line n).voice.encoder.encode a.toInt).2 a ∧ State.Aside n s t ∧ State.Steady s t := by
  obtain ⟨u, placed, left, owners, blocks⟩ := codePlaced_fresh (n := n) (code := ((s.line n).voice.encoder.encode a.toInt).1) even full free above
  have run := exec_encodeSample_stored recording placed.stored placed.line placed.count
  rw [if_neg (Nat.not_le.mpr more)] at run
  have effect := placed.effect.commit
  refine ⟨_, run, left, owners, ?_, ?_, ?_, effect.aside, effect.steady⟩
  · rw [State.message_commit]
    exact (congrArg Message.blocks (u.message_sampleTaken n m _ a)).trans blocks
  · rw [State.message_commit]
    exact (congrArg Message.sampleCount (u.message_sampleTaken n m _ a)).trans (congrArg (· + 1) placed.count)
  · rw [State.line_commit]
    exact (congrArg Line.voice (u.line_sampleTaken n m _ a)).trans (by rw [placed.line])

/-- Settles O49: the codec by its equations, a sample played by whether it is the last, a sample recorded by where its code goes. -/
theorem samplesCodedAndDecoded : Obligations.SamplesCodedAndDecoded := by
  refine ⟨⟨rfl, fun _ => rfl⟩, fun c x => ?_, fun n x s => ?_⟩
  · intro k delta adj
    refine ⟨c.encode_fst x, ?_, c.decode_encode x⟩
    rw [c.encode_snd x, c.update_eq _ (c.magnitude_le x)]
    simp only [decide_eq_true_eq]
    rfl
  · intro v byte d
    refine ⟨leads_decodeSample_silent, leads_decodeSample_goesOn, fun j first play card fits last => decodeSample_chain play card fits last,
      fun j g play card fits last => decodeSample_slot play card fits last, leads_encodeSample_idle, fun m recording => ?_⟩
    intro e heard counted
    have shape : ∀ u, counted u = u.sampleTaken n m e.2 x := fun u => (u.sampleTaken_eq n m e.2 x).symm
    refine ⟨fun b last more => ⟨fun odd => ?_, fun even room => ?_⟩, fun b last long room => ?_, fun even full => ⟨fun few => ?_,
      fun b rest free above more => ?_⟩⟩
    · rw [shape]
      exact leads_encodeSample recording (codePlaced_low last odd) more
    · rw [shape]
      exact leads_encodeSample recording (codePlaced_high last even room) more
    · rcases Nat.mod_two_eq_zero_or_one (s.message m).sampleCount with even | odd
      · exact encodeSample_maxLength recording (codePlaced_high last even (room.resolve_left (by omega))) rfl rfl long
      · exact encodeSample_maxLength recording (codePlaced_low last odd) rfl rfl long
    · exact encodeSample_full recording even full few
    · obtain ⟨t, run, left, owners, blocks, count, voice, others⟩ := encodeSample_fresh (a := x) recording even full free above more
      exact ⟨t, run, left, owners, blocks, count, voice.trans (Voice.coded_eq ..), others⟩

end Sys2Proof.Machine

/-! O50: LOAD GREETING, UNLOAD GREETING, COLLECT MESSAGE and DISCARD MESSAGE (08 R143 to R146). -/

namespace Sys2Proof.Machine

set_option Elab.async false

variable {s u v : State} {i : Fin 4} {g : SlotId} {m : EntryId} {c : Instr} {k r : Nat} {st : Status} {fs : List Byte}

/-- An engine order that ends at once with the state `u`, its answer written (10 R174). -/
theorem shortEngine_of {codes : Nat → Bool} (taken : s.takesCard .engine i.val codes = true)
    (run : exec c s = done s (v.answer .engine i.val st r fs)) (table : v.engTable = (s.taking .engine i.val).engTable)
    (tick : v.hdr.tick = s.hdr.tick) (pending : v.pending = s.pending) (event : v.hdr = u.hdr)
    (same : ∀ t, { v with engTable := t } = { u with engTable := t }) :
    ∃ t, exec c s = .next t ∧ State.ShortEngineOrder i.val st r 0 fs u s t := by
  have ended : exec c s = .next (s.commit (v.answerWith .engine i.val st r 0 fs)) := run
  obtain ⟨answer, code, cards, lastTaken, word, rest⟩ := State.shortEngineOrder taken st r 0 fs table tick pending
  generalize s.commit (v.answerWith .engine i.val st r 0 fs) = t at *
  have whole := congrArg (fun x : State => { x with hdr := { v.hdr with ev := t.hdr.ev } }.uncounted) (same t.engTable)
  refine ⟨t, ended, ⟨answer, code, cards, lastTaken, by rw [← event]; exact word, ?_⟩⟩
  rw [← event]
  exact rest.trans whole

theorem State.answered_engine {n : LineId} {codes : Nat → Bool} (taken : s.takesCard .engine i.val codes = true) (effect : LineEffect n s v)
    (st : Status) (r : Nat) (fs : List Byte) : State.Answered .engine i.val st r 0 fs s (s.commit (v.answer .engine i.val st r fs)) :=
  State.Answered.commit (State.answered_of (T := .engine) (by rw [effect.cards]; exact State.takesCard_lt taken) st r 0 fs effect.tick)

theorem slotOf_eq_none (far : 8 ≤ k) : slotOf k = none := dif_neg (by omega)

theorem slotOf_val (g : SlotId) : slotOf g.val = some g := dif_pos g.isLt

/-! ## LOAD GREETING -/

section
variable (taken : s.takesCard .engine i.val (· == 34) = true)
include taken

theorem exec_loadGreeting : exec (.loadGreeting i) s = done s ((s.taking .engine i.val).loadGreetingOrder i.val (s.card .engine i.val)) := by
  have dispatch : exec (.loadGreeting i) s = execLoadGreeting i s := rfl
  rw [dispatch, execLoadGreeting, takeOrder_taken taken]

theorem loadGreeting_noSlot (far : 8 ≤ (s.card .engine i.val).byte 6) :
    ∃ t, exec (.loadGreeting i) s = .next t ∧ State.ShortEngineOrder i.val .badField 6 0 [] s s t := by
  have run := exec_loadGreeting taken
  rw [State.loadGreetingOrder, slotOf_eq_none far] at run
  exact shortEngine_of taken run rfl rfl rfl rfl fun _ => rfl

variable (named : (s.card .engine i.val).byte 6 = g.val)
include named

theorem loadGreeting_busy (full : (s.slot g).state ≠ .empty) :
    ∃ t, exec (.loadGreeting i) s = .next t ∧ State.ShortEngineOrder i.val .refusedBusy 0 0 [] s s t := by
  have run := exec_loadGreeting taken
  rw [State.loadGreetingOrder, named, slotOf_val] at run
  dsimp only at run
  rw [if_pos (show ((s.taking .engine i.val).slot g).state ≠ .empty from full)] at run
  exact shortEngine_of taken run rfl rfl rfl rfl fun _ => rfl

/-- LOAD GREETING of an EMPTY slot, with what the test of its chain finds. -/
theorem loadGreeting_badChain (empty : (s.slot g).state = .empty) {e : ChainFault}
    (found : s.store.validate .voice 255 ((s.card .engine i.val).word 8) = .error e) : ∃ t, exec (.loadGreeting i) s = .next t ∧
      State.ShortEngineOrder i.val .badChain e.test.code 0 (wordBytes e.position) s s t := by
  have run := exec_loadGreeting taken
  rw [State.loadGreetingOrder, named, slotOf_val] at run
  dsimp only at run
  rw [if_neg (not_not.mpr (show ((s.taking .engine i.val).slot g).state = .empty from empty)),
    show (s.taking .engine i.val).store = s.store from rfl, found] at run
  exact shortEngine_of taken run rfl rfl rfl rfl fun _ => rfl

theorem loadGreeting_loads (empty : (s.slot g).state = .empty) {ch : Chain}
    (found : s.store.validate .voice 255 ((s.card .engine i.val).word 8) = .ok ch) : ∃ t, exec (.loadGreeting i) s = .next t ∧
      State.ShortEngineOrder i.val .done 0 0 (wordBytes ch.length ++ longBytes (2 * (ch.map Prod.snd).sum))
        ((s.onStore fun st => st.assignAll (ch.map Prod.fst) (.greet g)).onSlot g fun _ => ⟨.loaded, ch, 2 * (ch.map Prod.snd).sum, 0, none⟩)
        s t := by
  have run := exec_loadGreeting taken
  rw [State.loadGreetingOrder, named, slotOf_val] at run
  dsimp only at run
  rw [if_neg (not_not.mpr (show ((s.taking .engine i.val).slot g).state = .empty from empty)),
    show (s.taking .engine i.val).store = s.store from rfl, found] at run
  exact shortEngine_of taken run rfl rfl rfl rfl fun _ => rfl

end

/-! ## UNLOAD GREETING -/

section
variable (taken : s.takesCard .engine i.val (· == 35) = true)
include taken

theorem exec_unloadGreeting :
    exec (.unloadGreeting i) s = done s ((s.taking .engine i.val).unloadGreetingOrder i.val (s.card .engine i.val)) := by
  have dispatch : exec (.unloadGreeting i) s = execUnloadGreeting i s := rfl
  rw [dispatch, execUnloadGreeting, takeOrder_taken taken]

theorem unloadGreeting_noSlot (far : 8 ≤ (s.card .engine i.val).byte 6) :
    ∃ t, exec (.unloadGreeting i) s = .next t ∧ State.ShortEngineOrder i.val .badField 6 0 [] s s t := by
  have run := exec_unloadGreeting taken
  rw [State.unloadGreetingOrder, slotOf_eq_none far] at run
  exact shortEngine_of taken run rfl rfl rfl rfl fun _ => rfl

variable (named : (s.card .engine i.val).byte 6 = g.val)
include named

theorem unloadGreeting_absent (empty : (s.slot g).state = .empty) :
    ∃ t, exec (.unloadGreeting i) s = .next t ∧ State.ShortEngineOrder i.val .absent 0 0 [] s s t := by
  have run := exec_unloadGreeting taken
  rw [State.unloadGreetingOrder, named, slotOf_val] at run
  dsimp only at run
  rw [show ((s.taking .engine i.val).slot g).state = .empty from empty] at run
  exact shortEngine_of taken run rfl rfl rfl rfl fun _ => rfl

theorem unloadGreeting_busy (withdrawing : (s.slot g).state = .withdrawing) :
    ∃ t, exec (.unloadGreeting i) s = .next t ∧ State.ShortEngineOrder i.val .refusedBusy 0 0 [] s s t := by
  have run := exec_unloadGreeting taken
  rw [State.unloadGreetingOrder, named, slotOf_val] at run
  dsimp only at run
  rw [show ((s.taking .engine i.val).slot g).state = .withdrawing from withdrawing] at run
  exact shortEngine_of taken run rfl rfl rfl rfl fun _ => rfl

theorem unloadGreeting_empties (loaded : (s.slot g).state = .loaded) (unplayed : (s.slot g).playCount = 0) :
    ∃ t, exec (.unloadGreeting i) s = .next t ∧ State.Answered .engine i.val .done 0 0 [] s t ∧ t.slot g = ⟨.empty, [], 0, 0, none⟩ ∧
      t.store = ((s.slot g).chain.map Prod.fst).foldl Store.release s.store := by
  have run := exec_unloadGreeting taken
  rw [State.unloadGreetingOrder, named, slotOf_val] at run
  dsimp only at run
  rw [show ((s.taking .engine i.val).slot g).state = .loaded from loaded] at run
  dsimp only at run
  rw [if_pos (show ((s.taking .engine i.val).slot g).playCount = 0 from unplayed)] at run
  obtain ⟨store, slots⟩ := State.emptySlot_spec (s.taking .engine i.val) g
  have effect : LineEffect 0 s ((s.taking .engine i.val).emptySlot g) := (LineEffect.refl.takingEngine i.val).emptySlot g
  have slot := slots g
  rw [if_pos rfl] at slot
  generalize (s.taking .engine i.val).emptySlot g = y at *
  exact ⟨_, run, State.answered_engine taken effect .done 0 [], slot, store⟩

theorem unloadGreeting_withdraws (loaded : (s.slot g).state = .loaded) (played : 0 < (s.slot g).playCount) :
    Leads (.unloadGreeting i) s
      ((s.taking .engine i.val).onSlot g fun x => { x with state := .withdrawing, unloadCard := some i.val }) := by
  have run := exec_unloadGreeting taken
  rw [State.unloadGreetingOrder, named, slotOf_val] at run
  dsimp only at run
  rw [show ((s.taking .engine i.val).slot g).state = .loaded from loaded] at run
  dsimp only at run
  rw [if_neg (show ¬((s.taking .engine i.val).slot g).playCount = 0 from Nat.ne_of_gt played)] at run
  exact Leads.of_done run rfl

end

/-! ## COLLECT MESSAGE and DISCARD MESSAGE -/

theorem State.namedMessage_far {c : Card} (far : 32 ≤ c.byte 6) : s.namedMessage c = .error .badField := dif_neg (by omega)

theorem State.namedMessage_val {c : Card} (named : c.byte 6 = m.val) : s.namedMessage c =
    if (s.message m).state = .complete ∧ (s.message m).number = c.word 8 then .ok m else .error .absent := by
  have near : c.byte 6 < 32 := by omega
  have same : (⟨c.byte 6, near⟩ : EntryId) = m := Fin.ext named
  rw [State.namedMessage, dif_pos near, same]

/-- What COLLECT MESSAGE and DISCARD MESSAGE look for: the entry is not there. -/
theorem State.namedMessage_absent {c : Card} (named : c.byte 6 = m.val)
    (absent : (s.message m).state ≠ .complete ∨ (s.message m).number ≠ c.word 8) : s.namedMessage c = .error .absent := by
  rw [State.namedMessage_val named, if_neg fun ⟨complete, number⟩ => absent.elim (· complete) (· number)]

theorem State.namedMessage_taking (s : State) (i : Nat) (c : Card) : (s.taking .engine i).namedMessage c = s.namedMessage c := rfl

section
variable (taken : s.takesCard .engine i.val (· == 36) = true)
include taken

theorem exec_collectMessage {x : Except Status EntryId} (found : s.namedMessage (s.card .engine i.val) = x) :
    (∀ st, x = .error st → exec (.collectMessage i) s =
      done s ((s.taking .engine i.val).answer .engine i.val st (if st = .badField then 6 else 0) [])) ∧
    ∀ m, x = .ok m → exec (.collectMessage i) s = done s ((((s.taking .engine i.val).giveBlocks (s.message m).blocks .host).clearMessage m).answer
      .engine i.val .done 0 (wordBytes ((s.message m).blocks.head?.getD 65535) ++ wordBytes (s.message m).blocks.length ++
        longBytes (s.message m).sampleCount ++ [byteOf (s.message m).endReason.code 0])) := by
  have dispatch : exec (.collectMessage i) s = execCollectMessage i s := rfl
  rw [dispatch, execCollectMessage, takeOrder_taken taken, State.collectOrder, State.namedMessage_taking, found]
  refine ⟨fun st error => ?_, fun m ok => ?_⟩
  · rw [error]
  · rw [ok]
    rfl

theorem collectMessage_far (far : 32 ≤ (s.card .engine i.val).byte 6) :
    ∃ t, exec (.collectMessage i) s = .next t ∧ State.ShortEngineOrder i.val .badField 6 0 [] s s t :=
  shortEngine_of taken ((exec_collectMessage taken (State.namedMessage_far far)).1 _ rfl) rfl rfl rfl rfl fun _ => rfl

variable (named : (s.card .engine i.val).byte 6 = m.val)
include named

theorem collectMessage_absent (absent : (s.message m).state ≠ .complete ∨ (s.message m).number ≠ (s.card .engine i.val).word 8) :
    ∃ t, exec (.collectMessage i) s = .next t ∧ State.ShortEngineOrder i.val .absent 0 0 [] s s t :=
  shortEngine_of taken ((exec_collectMessage taken (State.namedMessage_absent named absent)).1 _ rfl) rfl rfl rfl rfl fun _ => rfl

theorem collectMessage_collects (complete : (s.message m).state = .complete) (number : (s.message m).number = (s.card .engine i.val).word 8) :
    ∃ t, exec (.collectMessage i) s = .next t ∧ State.ShortEngineOrder i.val .done 0 0
      (wordBytes ((s.message m).blocks.head?.getD 65535) ++ wordBytes (s.message m).blocks.length ++ longBytes (s.message m).sampleCount ++
        [byteOf (s.message m).endReason.code 0])
      ((s.onStore fun st => st.assignAll (s.message m).blocks .host).onMessage m fun y => .initial y.changeCount) s t := by
  have found := State.namedMessage_val (s := s) named
  rw [if_pos ⟨complete, number⟩] at found
  exact shortEngine_of taken ((exec_collectMessage taken found).2 m rfl) rfl rfl rfl rfl fun _ => rfl

end

section
variable (taken : s.takesCard .engine i.val (· == 37) = true)
include taken

theorem exec_discardMessage {x : Except Status EntryId} (found : s.namedMessage (s.card .engine i.val) = x) :
    (∀ st, x = .error st → exec (.discardMessage i) s =
      done s ((s.taking .engine i.val).answer .engine i.val st (if st = .badField then 6 else 0) [])) ∧
    ∀ m, x = .ok m → exec (.discardMessage i) s = done s ((((s.taking .engine i.val).clearMessage m).freeBlocks (s.message m).blocks).answer
      .engine i.val .done 0 (wordBytes (s.message m).blocks.length)) := by
  have dispatch : exec (.discardMessage i) s = execDiscardMessage i s := rfl
  rw [dispatch, execDiscardMessage, takeOrder_taken taken, State.discardOrder, State.namedMessage_taking, found]
  refine ⟨fun st error => ?_, fun m ok => ?_⟩
  · rw [error]
  · rw [ok]
    rfl

theorem discardMessage_far (far : 32 ≤ (s.card .engine i.val).byte 6) :
    ∃ t, exec (.discardMessage i) s = .next t ∧ State.ShortEngineOrder i.val .badField 6 0 [] s s t :=
  shortEngine_of taken ((exec_discardMessage taken (State.namedMessage_far far)).1 _ rfl) rfl rfl rfl rfl fun _ => rfl

variable (named : (s.card .engine i.val).byte 6 = m.val)
include named

theorem discardMessage_absent (absent : (s.message m).state ≠ .complete ∨ (s.message m).number ≠ (s.card .engine i.val).word 8) :
    ∃ t, exec (.discardMessage i) s = .next t ∧ State.ShortEngineOrder i.val .absent 0 0 [] s s t :=
  shortEngine_of taken ((exec_discardMessage taken (State.namedMessage_absent named absent)).1 _ rfl) rfl rfl rfl rfl fun _ => rfl

theorem discardMessage_discards (complete : (s.message m).state = .complete) (number : (s.message m).number = (s.card .engine i.val).word 8) :
    ∃ t, exec (.discardMessage i) s = .next t ∧ State.Answered .engine i.val .done 0 0 (wordBytes (s.message m).blocks.length) s t ∧
      (t.message m).state = .empty ∧ (t.message m).blocks = [] ∧ t.store = (s.message m).blocks.foldl Store.release s.store := by
  have found := State.namedMessage_val (s := s) named
  rw [if_pos ⟨complete, number⟩] at found
  have run := (exec_discardMessage taken found).2 m rfl
  have cleared : ((s.taking .engine i.val).clearMessage m).message m = .initial (s.message m).changeCount :=
    State.message_onMessage_self (s.taking .engine i.val) m fun x => .initial x.changeCount
  have effect : LineEffect 0 s ((s.taking .engine i.val).clearMessage m) := (LineEffect.refl.takingEngine i.val).onMessage m _
  have store := State.store_freeBlocks ((s.taking .engine i.val).clearMessage m) (s.message m).blocks
  have only := Only.freeBlocks ((s.taking .engine i.val).clearMessage m) 0 (s.message m).blocks
  have freed := effect.freeBlocks (s.message m).blocks
  have message : (((s.taking .engine i.val).clearMessage m).freeBlocks (s.message m).blocks).message m = _ :=
    State.message_congr (only.of .messages) m
  rw [cleared] at message
  generalize ((s.taking .engine i.val).clearMessage m).freeBlocks (s.message m).blocks = y at *
  refine ⟨_, run, State.answered_engine taken freed .done 0 _, ?_, ?_, store⟩
  · rw [State.message_commit]; exact congrArg Message.state message
  · rw [State.message_commit]; exact congrArg Message.blocks message

end

/-- Settles O50: each order by what its card names. -/
theorem greetingsAndMessages : Obligations.GreetingsAndMessages := by
  intro i s card short load unload
  refine ⟨loadGreeting_noSlot, unloadGreeting_noSlot, fun g named => ⟨fun taken => ⟨loadGreeting_busy taken named,
    fun empty e found => loadGreeting_badChain taken named empty found, fun empty ch found => loadGreeting_loads taken named empty found⟩,
    fun taken => ⟨unloadGreeting_absent taken named, unloadGreeting_busy taken named, unloadGreeting_empties taken named,
      unloadGreeting_withdraws taken named⟩⟩, ?_⟩
  rintro c code (⟨rfl, rfl⟩ | ⟨rfl, rfl⟩) taken
  · exact ⟨collectMessage_far taken, fun m named => ⟨collectMessage_absent taken named,
      fun complete number => ⟨fun _ => collectMessage_collects taken named complete number, nofun⟩⟩⟩
  · exact ⟨discardMessage_far taken, fun m named => ⟨discardMessage_absent taken named,
      fun complete number => ⟨nofun, fun _ => discardMessage_discards taken named complete number⟩⟩⟩

end Sys2Proof.Machine

/-! O18: one sweep (10 R172, R177; 09 R162). -/

namespace Sys2Proof.Machine

set_option Elab.async false

variable {s t u x y : State} {n : LineId} {T : TableId} {v : Volts}

/-! ## What goes on through a sweep -/

/-- What no piece of a sweep touches: the port, the Tick, the Sweep Count, that the sweep runs and whether a request is held. -/
structure SweepStays (s t : State) : Prop where
  port : t.port = s.port
  tick : t.hdr.tick = s.hdr.tick
  count : t.hdr.sweepCount = s.hdr.sweepCount
  running : t.sweep.running = s.sweep.running
  held : t.sweep.held = s.sweep.held

theorem SweepStays.refl : SweepStays s s := ⟨rfl, rfl, rfl, rfl, rfl⟩

theorem SweepStays.trans (h : SweepStays s t) (k : SweepStays t u) : SweepStays s u :=
  ⟨k.port.trans h.port, k.tick.trans h.tick, k.count.trans h.count, k.running.trans h.running, k.held.trans h.held⟩

theorem LineEffect.stays (h : LineEffect n s t) : SweepStays s t := by
  obtain ⟨e, k, c, -, hdr⟩ := h.hdr
  exact ⟨h.port, by rw [hdr], by rw [hdr], by rw [h.sweep], by rw [h.sweep]⟩

theorem SweepStays.commit (h : SweepStays s t) : SweepStays s (x.commit t) := ⟨h.port, h.tick, h.count, h.running, h.held⟩

theorem SweepStays.onTable (s : State) (T : TableId) (f : OrderTable → OrderTable) : SweepStays s (s.onTable T f) := by
  cases T <;> exact ⟨rfl, rfl, rfl, rfl, rfl⟩

theorem SweepStays.carryOut (s : State) (v : Volts) (T : TableId) (i : Nat) (c : Card) : SweepStays s (s.carryOut v T i c) := by
  cases T with
  | line n => exact (LineEffect.refl.lineOrder (n := n) _ i c).stays
  | engine =>
    have line := LineEffect.refl (n := 0) (s := s)
    change SweepStays s (s.engineOrder i c)
    unfold State.engineOrder
    split
    · exact (line.takeBlocksOrder i c).stays
    · exact (line.loadGreetingOrder i c).stays
    · exact (line.unloadGreetingOrder i c).stays
    · exact (line.collectOrder i c).stays
    · exact (line.discardOrder i c).stays
    · exact ⟨rfl, rfl, rfl, rfl, rfl⟩
    · unfold State.clearLineOrder
      split
      next e => exact ((LineEffect.refl (n := ⟨c.byte 6, e⟩)).clearLineEffect.answerEngine _ _ _ _).stays
      next => exact (line.answerEngine _ _ _ _).stays
    · exact (line.answerEngine _ _ _ _).stays

theorem SweepStays.takeNext (s : State) (v : Volts) (T : TableId) : SweepStays s (s.takeNext v T) := by
  obtain ⟨f, passed, -⟩ | ⟨i, -, done⟩ := s.takeNext_cases v T
  · rw [passed]
    exact .onTable s T f
  · rw [done]
    exact ((SweepStays.onTable s T _).trans (.carryOut _ v T i _)).commit

theorem SweepStays.ackOnce (s : State) (T : TableId) : SweepStays s (s.ackOnce T) := by
  unfold State.ackOnce
  split
  · exact .refl
  · cases T <;> exact ⟨rfl, rfl, rfl, rfl, rfl⟩

theorem SweepStays.judgeEntry (s : State) (b : Nat) (o : Owner) : SweepStays s (s.judgeEntry b o) := by
  unfold State.judgeEntry
  repeat' split
  · exact (LineEffect.refl.freeBlock (n := 0) b).stays
  next n => exact (LineEffect.refl.returnDelivered (n := n) b).stays
  · exact ⟨rfl, rfl, rfl, rfl, rfl⟩
  · exact ⟨rfl, rfl, rfl, rfl, rfl⟩

theorem SweepStays.visitBlock (s : State) (b : Nat) : SweepStays s (s.visitBlock b) := by
  unfold State.visitBlock
  repeat' split
  · exact .refl
  · exact .refl
  next o _ _ => exact (SweepStays.judgeEntry s b o).commit

theorem SweepStays.foldl {α : Type} {f : State → α → State} (h : ∀ s a, SweepStays s (f s a)) (s : State) (as : List α) :
    SweepStays s (as.foldl f s) := by
  induction as generalizing s with
  | nil => exact .refl
  | cons a as ih => exact (h s a).trans (ih _)

theorem SweepStays.sweepUnit (s : State) (v : Volts) (p : SweepUnit) : SweepStays s (State.sweepUnit v s p) := by
  cases p with
  | hand T i => exact .onTable s T fun tb => tb.readHand i.val
  | number T i => exact .onTable s T fun tb => tb.readNumber i.val
  | list T => exact .onTable s T _
  | take T => exact .onTable s T _
  | card T => exact .takeNext s v T
  | ack T => exact .ackOnce s T
  | visit =>
    unfold State.sweepUnit State.visitNext
    dsimp only
    split
    · exact (SweepStays.visitBlock s _).trans ⟨rfl, rfl, rfl, rfl, rfl⟩
    · exact .refl
  | returns =>
    unfold State.sweepUnit State.returnsOnce
    dsimp only
    split
    · exact .refl
    · have visited := SweepStays.foldl SweepStays.visitBlock s ((List.range s.store.blockCount).drop s.sweep.visited)
      generalize ((List.range s.store.blockCount).drop s.sweep.visited).foldl State.visitBlock s = y at *
      have marked : SweepStays y { y with sweep := { y.sweep with visited := y.store.blockCount, returned := true } } := ⟨rfl, rfl, rfl, rfl, rfl⟩
      exact (visited.trans (marked.trans (LineEffect.refl.criticalExits (n := 0)).stays)).commit

theorem SweepStays.sweepUnits (s : State) (v : Volts) (ps : List SweepUnit) : SweepStays s (s.sweepUnits v ps) :=
  .foldl (fun s p => .sweepUnit s v p) s ps

/-! ## The tables' lists forgotten -/

/-- The list of a line's table forgotten. -/
def Line.listForgotten (l : Line) : Line := { l with table := l.table.sweepEnd }

/-- The lists of the running sweep forgotten (10 R173). -/
def State.forgetLists (s : State) : State :=
  { s with engTable := s.engTable.sweepEnd, lines := s.lines.map fun l => { l with table := l.table.sweepEnd } }

theorem State.line_forgetLists (s : State) (n : LineId) :
    s.forgetLists.line n = { s.line n with table := (s.line n).table.sweepEnd } := by
  simp [State.forgetLists, State.line]

theorem State.lines_ext (same : ∀ n, s.line n = t.line n) : s.lines = t.lines := by
  ext i hi : 1
  exact same ⟨i, hi⟩

/-- A change made to each line in turn. -/
theorem State.lines_each (s : State) (f : Line → Line) :
    ((((s.onLine 0 f).onLine 1 f).onLine 2 f).onLine 3 f).lines = s.lines.map f := by
  ext i hi : 1
  have line : ∀ n, ((((s.onLine 0 f).onLine 1 f).onLine 2 f).onLine 3 f).line n = f (s.line n) := fun n => by
    simp only [State.line_onLine]
    fin_cases n <;> rfl
  simpa [State.line] using line ⟨i, hi⟩

theorem State.forgetLists_fold (s : State) : allTables.foldl (fun s T => s.onTable T OrderTable.sweepEnd) s = s.forgetLists := by
  have lines : (allTables.foldl (fun s T => s.onTable T OrderTable.sweepEnd) s).lines = s.forgetLists.lines :=
    s.lines_each Line.listForgotten
  exact congrArg (fun l => { s with engTable := s.engTable.sweepEnd, lines := l }) lines

theorem State.endSweep_eq (s : State) : s.endSweep = s.commit
    { s.forgetLists with
      hdr := { s.hdr with sweepCount := s.hdr.sweepCount + 1 }, sweep := ⟨s.sweep.held, false, [], 0, false⟩ } := by
  unfold State.endSweep
  rw [State.forgetLists_fold]
  rfl

/-- A change of the list of a table alone is forgotten with the list. -/
theorem State.forgetLists_onTable (s : State) (T : TableId) {f : OrderTable → OrderTable}
    (list : ∀ tb, (f tb).cards = tb.cards ∧ (f tb).lastTaken = tb.lastTaken) : (s.onTable T f).forgetLists = s.forgetLists := by
  have same : ∀ tb, (f tb).sweepEnd = tb.sweepEnd := fun tb => by rw [OrderTable.sweepEnd, OrderTable.sweepEnd, (list tb).1, (list tb).2]
  cases T with
  | engine => exact congrArg (fun e => { s.forgetLists with engTable := e }) (same s.engTable)
  | line n =>
    have lines : (s.onTable (.line n) f).forgetLists.lines = s.forgetLists.lines := by
      refine State.lines_ext fun m => ?_
      rw [State.line_forgetLists, State.line_forgetLists, State.onTable, State.line_onLine]
      split
      next e => rw [e, same]
      next => rfl
    exact congrArg (fun l => { s.forgetLists with lines := l }) lines

theorem State.table_forgetLists (s : State) (T : TableId) : s.forgetLists.table T = (s.table T).sweepEnd := by
  cases T with
  | line n => exact congrArg Line.table (s.line_forgetLists n)
  | engine => rfl

theorem execSweep_ends (running : s.port.engineRunning = true) (sweeps : s.sweep.running = true) (v : Volts) (ps : List SweepUnit) :
    exec (.sweep v ⟨ps, true⟩) s = .next (s.sweepUnits v (ps ++ fullPlan)).endSweep := by
  have run : exec (.sweep v ⟨ps, true⟩) s = .next (s.sweepOnce v ⟨ps, true⟩) := rfl
  rw [run, State.sweepOnce, if_pos ⟨running, sweeps⟩]
  rfl

theorem execSweep_goesOn (running : s.port.engineRunning = true) (sweeps : s.sweep.running = true) (v : Volts) (ps : List SweepUnit) :
    exec (.sweep v ⟨ps, false⟩) s = .next (s.sweepUnits v ps) := by
  have run : exec (.sweep v ⟨ps, false⟩) s = .next (s.sweepOnce v ⟨ps, false⟩) := rfl
  rw [run, State.sweepOnce, if_pos ⟨running, sweeps⟩]
  rfl

theorem execSweep_rests (rests : s.port.engineRunning = false ∨ s.sweep.running = false) (v : Volts) (plan : SweepPlan) :
    exec (.sweep v plan) s = .next s := by
  have run : exec (.sweep v plan) s = .next (s.sweepOnce v plan) := rfl
  rw [run, State.sweepOnce, if_neg]
  rintro ⟨running, sweeps⟩
  rcases rests with off | off
  · exact absurd (off.symm.trans running) (by decide)
  · exact absurd (off.symm.trans sweeps) (by decide)

/-- The end of a sweep. -/
theorem sweep_ends (running : s.port.engineRunning = true) (sweeps : s.sweep.running = true) (v : Volts) (ps : List SweepUnit) :
    ∃ t, exec (.sweep v ⟨ps, true⟩) s = .next t ∧ t.port = s.port ∧ t.hdr.tick = s.hdr.tick ∧ t.hdr.sweepCount = s.hdr.sweepCount + 1 ∧
      t.sweep = ⟨s.sweep.held, false, [], 0, false⟩ ∧ ∀ T, (t.table T).listed = .reading [] := by
  have stays := SweepStays.sweepUnits s v (ps ++ fullPlan)
  have run := execSweep_ends running sweeps v ps
  generalize s.sweepUnits v (ps ++ fullPlan) = y at *
  refine ⟨_, run, stays.port, stays.tick, ?_, ?_, fun T => ?_⟩
  · exact congrArg (· + 1) stays.count
  · exact congrArg (fun h => (⟨h, false, [], 0, false⟩ : Sweep)) stays.held
  · rw [State.endSweep_eq, State.table_commit]
    have forgotten := y.table_forgetLists T
    cases T <;> exact congrArg OrderTable.listed forgotten

theorem sweep_goesOn (running : s.port.engineRunning = true) (sweeps : s.sweep.running = true) (v : Volts) (ps : List SweepUnit) :
    ∃ t, exec (.sweep v ⟨ps, false⟩) s = .next t ∧ t.port = s.port ∧ t.hdr.tick = s.hdr.tick ∧ t.hdr.sweepCount = s.hdr.sweepCount ∧
      t.sweep.running = true ∧ t.sweep.held = s.sweep.held := by
  have stays := SweepStays.sweepUnits s v ps
  exact ⟨_, execSweep_goesOn running sweeps v ps, stays.port, stays.tick, stays.count, stays.running.trans sweeps, stays.held⟩

/-- Units passed in one command are passed as in two. -/
theorem sweep_append (v : Volts) (first rest : List SweepUnit) (ends : Bool) (run : exec (.sweep v ⟨first, false⟩) s = .next u) :
    exec (.sweep v ⟨first ++ rest, ends⟩) s = exec (.sweep v ⟨rest, ends⟩) u := by
  by_cases on : s.port.engineRunning = true ∧ s.sweep.running = true
  · obtain ⟨running, sweeps⟩ := on
    have stays := SweepStays.sweepUnits s v first
    have after : .next (s.sweepUnits v first) = Host.Outcome.next u := (execSweep_goesOn running sweeps v first).symm.trans run
    cases after
    have running' := (congrArg Port.engineRunning stays.port).trans running
    have sweeps' := stays.running.trans sweeps
    cases ends with
    | true => rw [execSweep_ends running sweeps, execSweep_ends running' sweeps', List.append_assoc, State.sweepUnits_append]
    | false => rw [execSweep_goesOn running sweeps, execSweep_goesOn running' sweeps', State.sweepUnits_append]
  · have rests : s.port.engineRunning = false ∨ s.sweep.running = false := by
      simpa only [not_and_or, Bool.not_eq_true] using on
    have after : .next s = Host.Outcome.next u := (execSweep_rests rests v ⟨first, false⟩).symm.trans run
    cases after
    rw [execSweep_rests rests, execSweep_rests rests]

/-! ## The acknowledge words -/

/-- The acknowledge word of a line processed. -/
def Line.acknowledged (l : Line) : Line := { l with ev := l.ev.acknowledge }

/-- The acknowledge word of the record of a table processed (10 R177). -/
def State.acknowledged (s : State) (T : TableId) : State :=
  match T with
  | .line n => s.onLine n Line.acknowledged
  | .engine => { s with hdr := { s.hdr with ev := s.hdr.ev.acknowledge } }

/-- The record of a table marked as processed in this sweep. -/
def State.ackMarked (s : State) (T : TableId) : State := { s with sweep := { s.sweep with acked := T :: s.sweep.acked } }

theorem State.ackOnce_done (done : T ∈ s.sweep.acked) : s.ackOnce T = s := if_pos done

theorem State.ackOnce_due (due : T ∉ s.sweep.acked) : s.ackOnce T = s.commit ((s.ackMarked T).acknowledged T) := by
  cases T <;> exact if_neg due

theorem State.ackOnce_uncounted (due : T ∉ s.sweep.acked) : (s.ackOnce T).uncounted = ((s.ackMarked T).acknowledged T).uncounted := by
  rw [State.ackOnce_due due]
  exact State.uncounted_commit (by cases T <;> rfl)

theorem sweep_ack (running : s.port.engineRunning = true) (sweeps : s.sweep.running = true) (v : Volts) (T : TableId) :
    exec (.sweep v ⟨[.ack T], false⟩) s = .next (s.ackOnce T) := execSweep_goesOn running sweeps v [.ack T]

/-! ## A sweep that finds no card and nothing in the Block Map -/

/-- The state without its Change Counts and the lists of the sweep. -/
def State.unlisted (s : State) : State := s.uncounted.forgetLists

theorem State.uncounted_onLine {f : Line → Line} (plain : ∀ l, { f l with changeCount := 0 } = f { l with changeCount := 0 }) :
    (s.onLine n f).uncounted = s.uncounted.onLine n f := by
  have lines : (s.onLine n f).uncounted.lines = (s.uncounted.onLine n f).lines := by
    refine State.lines_ext fun m => ?_
    have left : (s.onLine n f).uncounted.line m = { (s.onLine n f).line m with changeCount := 0 } := by
      simp [State.uncounted, State.line]
    have right : ∀ k, s.uncounted.line k = { s.line k with changeCount := 0 } := fun k => by simp [State.uncounted, State.line]
    rw [left, State.line_onLine, State.line_onLine]
    split
    · rw [right, plain]
    · rw [right]
  exact congrArg (fun l => { s.uncounted with lines := l }) lines

theorem State.unlisted_onTable (s : State) (T : TableId) {f : OrderTable → OrderTable}
    (list : ∀ tb, (f tb).cards = tb.cards ∧ (f tb).lastTaken = tb.lastTaken) : (s.onTable T f).unlisted = s.unlisted := by
  have uncounted : (s.onTable T f).uncounted = s.uncounted.onTable T f := by
    cases T with
    | line n => exact State.uncounted_onLine fun _ => rfl
    | engine => rfl
  rw [State.unlisted, uncounted]
  exact State.forgetLists_onTable _ T list

/-- No card is POSTED and no order waits. -/
def State.NoOrders (s : State) : Prop := ∀ T, (s.table T).waiting = [] ∧ ∀ i, (s.card T i).hand ≠ .posted

/-- Where no order waits and no card is POSTED the sweep carries out no order. -/
theorem State.NoOrders.takeNext (quiet : s.NoOrders) (v : Volts) (T : TableId) :
    (s.takeNext v T).NoOrders ∧ (s.takeNext v T).unlisted = s.unlisted ∧ (s.takeNext v T).sweep = s.sweep := by
  have stays : ∀ f : OrderTable → OrderTable, (∀ tb, (f tb).cards = tb.cards ∧ (f tb).lastTaken = tb.lastTaken) →
      (f (s.table T)).waiting = [] → (s.onTable T f).NoOrders ∧ (s.onTable T f).unlisted = s.unlisted ∧ (s.onTable T f).sweep = s.sweep := by
    intro f list empty
    have table : ∀ U, ((s.onTable T f).table U).waiting = [] ∧ ((s.onTable T f).table U).cards = (s.table U).cards := by
      intro U
      rw [State.table_onTable]
      split
      next e =>
        subst e
        exact ⟨empty, (list _).1⟩
      next => exact ⟨(quiet U).1, rfl⟩
    refine ⟨fun U => ⟨(table U).1, fun i => ?_⟩, State.unlisted_onTable s T list, by cases T <;> rfl⟩
    have card : (s.onTable T f).card U i = s.card U i := congrArg (fun cards : List Card => cards[i]?.getD .initial) (table U).2
    rw [card]
    exact (quiet U).2 i
  have away : ∀ i, (s.table T).comesTo i = false := fun i => by
    have idle : (s.table T).hand i ≠ .posted := (quiet T).2 i
    rw [OrderTable.comesTo, (quiet T).1, if_pos rfl, decide_eq_false idle, Bool.and_false]
  unfold State.takeNext
  split
  · exact stays OrderTable.pass (fun _ => ⟨rfl, rfl⟩) (quiet T).1
  next i _ =>
    rw [if_neg (by rw [away i]; decide)]
    refine stays _ (fun tb => by split <;> exact ⟨rfl, rfl⟩) ?_
    rw [if_pos (quiet T).1]
    exact (quiet T).1

theorem State.NoOrders.cards (quiet : s.NoOrders) (v : Volts) (Ts : List TableId) :
    (s.sweepUnits v (Ts.map .card)).NoOrders ∧ (s.sweepUnits v (Ts.map .card)).unlisted = s.unlisted ∧
      (s.sweepUnits v (Ts.map .card)).sweep = s.sweep := by
  induction Ts generalizing s with
  | nil => exact ⟨quiet, rfl, rfl⟩
  | cons T Ts ih =>
    obtain ⟨first, view, sweep⟩ := quiet.takeNext v T
    obtain ⟨rest, views, sweeps⟩ := ih first
    exact ⟨rest, views.trans view, sweeps.trans sweep⟩

/-- All five acknowledge words processed. -/
def State.allAcknowledged (s : State) : State :=
  { s with
    hdr := { s.hdr with ev := s.hdr.ev.acknowledge }
    lines := s.lines.map Line.acknowledged
    sweep := { s.sweep with acked := allTables.reverse } }

theorem State.unlisted_ackOnce (due : T ∉ s.sweep.acked) : (s.ackOnce T).unlisted = (s.unlisted.ackMarked T).acknowledged T ∧
    (s.ackOnce T).sweep = { s.sweep with acked := T :: s.sweep.acked } := by
  refine ⟨?_, by rw [State.ackOnce_due due]; cases T <;> rfl⟩
  rw [State.unlisted, State.ackOnce_uncounted due]
  cases T with
  | engine => rfl
  | line n =>
    have acked : ((s.ackMarked (.line n)).acknowledged (.line n)).uncounted = (s.ackMarked (.line n)).uncounted.onLine n Line.acknowledged :=
      State.uncounted_onLine fun _ => rfl
    rw [acked]
    have lines : ((s.ackMarked (.line n)).uncounted.onLine n Line.acknowledged).forgetLists.lines =
        ((s.unlisted.ackMarked (.line n)).acknowledged (.line n)).lines := by
      refine State.lines_ext fun m => ?_
      have right : ((s.unlisted.ackMarked (.line n)).acknowledged (.line n)).line m =
        (s.unlisted.onLine n Line.acknowledged).line m := rfl
      have plain : s.unlisted.line m = (s.uncounted.line m).listForgotten := State.line_forgetLists s.uncounted m
      rw [State.line_forgetLists, right, State.line_onLine, State.line_onLine, plain]
      split
      next e =>
        subst e
        rw [plain]
        rfl
      next => rfl
    exact congrArg (fun l => { s.unlisted with sweep := { s.sweep with acked := .line n :: s.sweep.acked }, lines := l }) lines

/-- The acknowledge words of tables that differ, processed in turn. -/
theorem State.unlisted_acks (v : Volts) {Ts : List TableId} (once : Ts.Nodup) (due : ∀ T ∈ Ts, T ∉ s.sweep.acked) :
    (s.sweepUnits v (Ts.map .ack)).unlisted = Ts.foldl (fun x T => (x.ackMarked T).acknowledged T) s.unlisted ∧
      (s.sweepUnits v (Ts.map .ack)).sweep = { s.sweep with acked := Ts.reverse ++ s.sweep.acked } := by
  induction Ts generalizing s with
  | nil => exact ⟨rfl, rfl⟩
  | cons T Ts ih =>
    obtain ⟨new, rest⟩ := List.nodup_cons.mp once
    obtain ⟨view, sweep⟩ := State.unlisted_ackOnce (due T List.mem_cons_self)
    have after : ∀ U ∈ Ts, U ∉ (s.ackOnce T).sweep.acked := fun U member => by
      rw [sweep, List.mem_cons, not_or]
      exact ⟨fun e => new (e ▸ member), due U (List.mem_cons_of_mem _ member)⟩
    obtain ⟨views, sweeps⟩ := ih rest after
    refine ⟨?_, ?_⟩
    · rw [List.foldl_cons, ← view]
      exact views
    · rw [sweep] at sweeps
      rw [List.reverse_cons, List.append_assoc]
      exact sweeps

/-- The state with other lines and another sweep record. -/
def State.withSwept (s : State) (lines : Vector Line 4) (w : Sweep) : State := { s with lines := lines, sweep := w }

theorem State.ackMarked_withSwept (s x : State) (n : LineId) (w : Sweep) :
    ((s.withSwept x.lines w).ackMarked (.line n)).acknowledged (.line n) =
      s.withSwept (x.onLine n Line.acknowledged).lines { w with acked := .line n :: w.acked } := rfl

theorem State.ackMarked_engine (s : State) (lines : Vector Line 4) (w : Sweep) :
    ((s.withSwept lines w).ackMarked .engine).acknowledged .engine = State.withSwept { s with hdr := { s.hdr with ev := s.hdr.ev.acknowledge } }
      lines { w with acked := .engine :: w.acked } := rfl

theorem State.ackMarked_all (s : State) : allTables.foldl (fun x T => (x.ackMarked T).acknowledged T) s =
    State.withSwept { s with hdr := { s.hdr with ev := s.hdr.ev.acknowledge } } (s.lines.map Line.acknowledged)
      { s.sweep with acked := allTables.reverse ++ s.sweep.acked } := by
  have start : s = s.withSwept s.lines s.sweep := rfl
  rw [allTables, List.foldl_cons, List.foldl_cons, List.foldl_cons, List.foldl_cons, List.foldl_cons, List.foldl_nil]
  conv_lhs => rw [start]
  rw [← s.lines_each Line.acknowledged, State.ackMarked_withSwept, State.ackMarked_withSwept, State.ackMarked_withSwept,
    State.ackMarked_withSwept, State.ackMarked_engine]
  rfl

theorem State.acks (fresh : s.sweep.acked = []) (v : Volts) :
    (s.sweepUnits v (allTables.map .ack)).unlisted = s.unlisted.allAcknowledged ∧
      (s.sweepUnits v (allTables.map .ack)).sweep = { s.sweep with acked := allTables.reverse } := by
  obtain ⟨view, sweep⟩ := State.unlisted_acks (s := s) v (Ts := allTables) (by decide) fun T _ => by rw [fresh]; exact List.not_mem_nil
  have none : s.unlisted.sweep.acked = [] := fresh
  rw [State.ackMarked_all, none, List.append_nil] at view
  rw [fresh, List.append_nil] at sweep
  exact ⟨view, sweep⟩

/-! ## The return sweep where nothing is to be done -/

theorem State.visitBlock_clean {b : Nat} (clean : ∀ o, s.store.owners[b]? = some o → Memory.word s.store.mem (mapAddr b) = o.word) :
    s.visitBlock b = s := by
  unfold State.visitBlock
  split
  · rfl
  next o owned => exact if_pos (clean o owned)

theorem State.visits_clean {bs : List Nat}
    (clean : ∀ b ∈ bs, ∀ o, s.store.owners[b]? = some o → Memory.word s.store.mem (mapAddr b) = o.word) : bs.foldl State.visitBlock s = s := by
  induction bs with
  | nil => rfl
  | cons b bs ih =>
    rw [List.foldl_cons, State.visitBlock_clean (clean b List.mem_cons_self)]
    exact ih fun c member => clean c (List.mem_cons_of_mem _ member)

theorem State.criticalExit_calm (calm : (s.line n).link.critical = false) : s.criticalExit n = s := by
  refine if_neg ?_
  rw [State.mayLeaveCritical, calm, Bool.false_and, Bool.false_and, Bool.false_and]
  decide

theorem State.criticalExits_calm (calm : ∀ n, (s.line n).link.critical = false) : s.criticalExits = s := by
  unfold State.criticalExits
  generalize allLines = ns
  induction ns with
  | nil => rfl
  | cons n ns ih => rw [List.foldl_cons, State.criticalExit_calm (calm n), ih]

/-- The sweep with its return sweep passed. -/
def State.visited (s : State) : State := { s with sweep := { s.sweep with visited := s.store.blockCount, returned := true } }

theorem State.returnsOnce_due (due : s.sweep.returned = false)
    (visits : ((List.range s.store.blockCount).drop s.sweep.visited).foldl State.visitBlock s = y) :
    s.returnsOnce = y.commit y.visited.criticalExits := by
  rw [State.returnsOnce, if_neg (by rw [due]; decide), visits]
  rfl

/-! ## The units of a full plan -/

theorem sweepUnits_full (s : State) (v : Volts) : s.sweepUnits v fullPlan =
    ((s.sweepUnits v ((allTables.flatMap fun T => List.replicate 8 T).map .card)).sweepUnits v (allTables.map .ack)).returnsOnce := by
  have split : fullPlan = (allTables.flatMap fun T => List.replicate 8 T).map .card ++ (allTables.map .ack ++ [.returns]) := rfl
  rw [split, State.sweepUnits_append, State.sweepUnits_append, State.sweepUnits_cons, State.sweepUnits_nil]
  rfl

/-- A state that differs from `s` in nothing but Change Counts and the lists of the sweep, but that its acknowledge words have been
processed. -/
structure Swept (s x : State) : Prop where
  view : x.unlisted = s.unlisted.allAcknowledged
  sweep : x.sweep = { s.sweep with acked := allTables.reverse }

theorem swept_of (quiet : s.NoOrders) (fresh : s.sweep.acked = []) (v : Volts) : Swept s
    ((s.sweepUnits v ((allTables.flatMap fun T => List.replicate 8 T).map .card)).sweepUnits v (allTables.map .ack)) := by
  obtain ⟨-, view, sweep⟩ := quiet.cards v (allTables.flatMap fun T => List.replicate 8 T)
  obtain ⟨views, sweeps⟩ := State.acks (s := s.sweepUnits v ((allTables.flatMap fun T => List.replicate 8 T).map .card)) (by rw [sweep]; exact fresh) v
  exact ⟨by rw [views, view], by rw [sweeps, sweep]⟩

theorem Swept.store (h : Swept s x) : x.store = s.store := by
  have store := congrArg State.store h.view
  exact store

theorem Swept.line (h : Swept s x) (n : LineId) :
    { (x.line n).listForgotten with changeCount := 0 } = { (s.line n).listForgotten.acknowledged with changeCount := 0 } := by
  have lines := congrArg (fun y : State => y.line n) h.view
  have left : ∀ y : State, y.unlisted.line n = { (y.line n).listForgotten with changeCount := 0 } := fun y => by
    simp [State.unlisted, State.forgetLists, State.uncounted, State.line, Line.listForgotten]
  have right : s.unlisted.allAcknowledged.line n = (s.unlisted.line n).acknowledged := by
    simp [State.allAcknowledged, State.line]
  rw [left, right, left] at lines
  exact lines

theorem Swept.link (h : Swept s x) (n : LineId) : (x.line n).link = (s.line n).link := by
  have link := congrArg Line.link (h.line n)
  exact link

/-! ## The end of a quiet sweep -/

theorem State.line_uncounted (s : State) (n : LineId) : s.uncounted.line n = { s.line n with changeCount := 0 } := by
  simp [State.uncounted, State.line]

/-- What the end of a sweep leaves, lists and Change Counts aside. -/
def State.sweepEnded (s : State) : State :=
  { s with hdr := { s.hdr with sweepCount := s.hdr.sweepCount + 1 }, sweep := ⟨s.sweep.held, false, [], 0, false⟩ }

theorem State.uncounted_forgetLists (s : State) : s.forgetLists.uncounted = s.unlisted := by
  have lines : s.forgetLists.uncounted.lines = s.unlisted.lines := by
    refine State.lines_ext fun n => ?_
    rw [State.line_uncounted, State.line_forgetLists, State.unlisted, State.line_forgetLists, State.line_uncounted]
  exact congrArg (fun l => { s.unlisted with lines := l }) lines

theorem State.uncounted_endSweep (s : State) : s.endSweep.uncounted = s.unlisted.sweepEnded := by
  rw [State.endSweep_eq, State.uncounted_commit (by rfl), ← State.uncounted_forgetLists]
  rfl

theorem State.uncounted_lists (fresh : ∀ T, (s.table T).listed = .reading []) : s.unlisted = s.uncounted := by
  have plain : ∀ tb : OrderTable, tb.listed = .reading [] → tb.sweepEnd = tb := fun tb h => by rw [OrderTable.sweepEnd, ← h]
  have lines : s.forgetLists.lines = s.lines := State.lines_ext fun n => by
    rw [State.line_forgetLists, plain (s.line n).table (fresh (.line n))]
  have engine : s.engTable.sweepEnd = s.engTable := plain _ (fresh .engine)
  have same : s.forgetLists = s := by
    have both := congr (congrArg (fun e l => { s with engTable := e, lines := l }) engine) lines
    exact both
  rw [← State.uncounted_forgetLists, same]

/-- The quiet sweep (10 R172, R177): the acknowledge words processed, and nothing else. -/
theorem sweep_quiet (running : s.port.engineRunning = true) (sweeps : s.sweep.running = true) (fresh : s.sweep.acked = [])
    (due : s.sweep.returned = false) (quiet : s.NoOrders)
    (clean : ∀ b o, s.store.owners[b]? = some o → Memory.word s.store.mem (mapAddr b) = o.word)
    (calm : ∀ n, (s.line n).link.critical = false) :
    ∃ t, exec (.sweep v ⟨[], true⟩) s = .next t ∧ t.uncounted = s.unlisted.allAcknowledged.sweepEnded := by
  refine ⟨_, execSweep_ends running sweeps v [], ?_⟩
  rw [State.uncounted_endSweep, List.nil_append, sweepUnits_full]
  have swept := swept_of quiet fresh v
  generalize (s.sweepUnits v ((allTables.flatMap fun T => List.replicate 8 T).map .card)).sweepUnits v (allTables.map .ack) = x at *
  have store := swept.store
  have visits : ((List.range x.store.blockCount).drop x.sweep.visited).foldl State.visitBlock x = x :=
    State.visits_clean fun b _ o owned => by rw [store] at owned ⊢; exact clean b o owned
  have exits : x.visited.criticalExits = x.visited := State.criticalExits_calm fun n => by
    rw [← calm n, ← swept.link n]
    rfl
  rw [State.returnsOnce_due (by rw [swept.sweep]; exact due) visits, exits]
  have view : (x.commit x.visited).unlisted = { x.unlisted with sweep := x.visited.sweep } := by
    rw [State.unlisted, State.uncounted_commit (by rfl)]
    rfl
  rw [view, swept.view]
  have held : x.visited.sweep.held = s.sweep.held := by
    have same := congrArg Sweep.held swept.sweep
    exact same
  exact congrArg (fun h => { s.unlisted.allAcknowledged.sweepEnded with sweep := ⟨h, false, [], 0, false⟩ }) held

/-- Settles O18: what every piece of a sweep keeps, the acknowledge words one by one, and a sweep that finds nothing to do. -/
theorem sweepEndsAndAcknowledges : Obligations.SweepEndsAndAcknowledges := by
  refine ⟨fun v plan s => ⟨fun rests => execSweep_rests rests v plan, fun running sweeps => ?_⟩,
    fun v first rest ends s u run => sweep_append v first rest ends run, fun v T s running sweeps => ?_,
    fun v s running sweeps fresh due quiet clean calm => ?_⟩
  · obtain ⟨ps, ends⟩ := plan
    cases ends with
    | true =>
      obtain ⟨t, run, port, tick, count, sweep, lists⟩ := sweep_ends running sweeps v ps
      exact ⟨t, run, port, tick, fun _ => ⟨count, sweep, lists⟩, nofun⟩
    | false =>
      obtain ⟨t, run, port, tick, count, still, held⟩ := sweep_goesOn running sweeps v ps
      exact ⟨t, run, port, tick, nofun, fun _ => ⟨count, still, held⟩⟩
  · refine ⟨fun done => ?_, fun due => ⟨_, sweep_ack running sweeps v T, ?_⟩⟩
    · rw [sweep_ack running sweeps, State.ackOnce_done done]
    · rw [State.ackOnce_uncounted due]
      cases T <;> rfl
  · obtain ⟨t, run, rest⟩ := sweep_quiet (v := v) running sweeps fresh due
      (fun T => ⟨by rw [OrderTable.waiting, (quiet T).1], (quiet T).2⟩) clean calm
    refine ⟨t, run, rest.trans ?_, fun _ => rfl⟩
    rw [State.uncounted_lists fun T => (quiet T).1]
    have lines : s.uncounted.allAcknowledged.lines =
        State.lines (State.uncounted { s with lines := s.lines.map Line.acknowledged }) := State.lines_ext fun n => by
      simp [State.allAcknowledged, State.uncounted, State.line, Line.acknowledged]
    exact congrArg (fun l => { s.uncounted.allAcknowledged.sweepEnded with lines := l }) lines

end Sys2Proof.Machine

/-! O19: the return sweep (09 R162, R163, R166). -/

namespace Sys2Proof.Machine

set_option Elab.async false

variable {s t u x y : State} {n : LineId} {v : Volts} {b : Nat} {o : Owner}

/-! ## Map entries -/

theorem Owner.code_le (o : Owner) : o.code ≤ 8 := by cases o <;> simp [Owner.code]

theorem Owner.index_lt (o : Owner) : o.index < 256 := by cases o <;> simp only [Owner.index] <;> omega

theorem Owner.word_lt (o : Owner) : o.word < 65536 := by
  have code := o.code_le
  have index := o.index_lt
  rw [Owner.word]
  omega

/-- No owner's map entry reads RETURNED (12.4). -/
theorem Owner.word_mod (o : Owner) : o.word % 256 ≠ 255 := by
  have code := o.code_le
  rw [Owner.word]
  omega

theorem Memory.word_setWord_map {m : List Host.Cell} (wf : Memory.wf m = true) {c : Nat} (other : c ≠ b) (w : Nat) :
    Memory.word (Memory.setWord m (mapAddr b) w) (mapAddr c) = Memory.word m (mapAddr c) :=
  Memory.word_setWord_of_far wf w (by unfold mapAddr; omega)

theorem Store.release_owned {st : Store} (owned : st.owners[b]? = some o) (taken : o ≠ .free) :
    st.release b = { st.setOwner b .free with free := b :: st.free } := by
  rw [Store.release, owned]
  cases o <;> first | rfl | exact absurd rfl taken

/-- The block and its entry where a block is given back. -/
theorem Store.release_parts {st : Store} (wf : Memory.wf st.mem = true) (owned : st.owners[b]? = some o) (taken : o ≠ .free) :
    (st.release b).owners = st.owners.set b .free ∧ (st.release b).free = b :: st.free ∧
      Memory.word (st.release b).mem (mapAddr b) = 0 := by
  rw [Store.release_owned owned taken]
  exact ⟨rfl, rfl, Memory.word_setWord wf _ _ (by decide)⟩

/-- A visit leaves the owner and the entry of every other block. -/
def Store.Apart (b : Nat) (st st' : Store) : Prop :=
  ∀ c, c ≠ b → st'.owners[c]? = st.owners[c]? ∧ Memory.word st'.mem (mapAddr c) = Memory.word st.mem (mapAddr c)

theorem Store.apart_release {st : Store} (wf : Memory.wf st.mem = true) (b : Nat) : st.Apart b (st.release b) := by
  intro c other
  cases owned : st.owners[b]? with
  | none =>
    rw [Store.release, owned]
    exact ⟨rfl, rfl⟩
  | some o =>
    by_cases free : o = .free
    · rw [Store.release, owned, free]
      exact ⟨rfl, rfl⟩
    · rw [Store.release_owned owned free]
      exact ⟨List.getElem?_set_ne (Ne.symm other), Memory.word_setWord_map wf other _⟩

theorem Store.apart_rewritten {st : Store} (wf : Memory.wf st.mem = true) (b w : Nat) :
    st.Apart b { st with mem := Memory.setWord st.mem (mapAddr b) w } := fun _ other => ⟨rfl, Memory.word_setWord_map wf other _⟩

/-! ## One visit -/

theorem State.store_freeBlock (s : State) (b : Nat) : (s.freeBlock b).store = s.store.release b :=
  (Only.criticalExits (s.onStore fun st => st.release b) 0).of .store

theorem State.store_removeEntries (s : State) (n : LineId) : (s.removeEntries n).store = s.store := (Only.removeEntries s n).of .store

theorem State.store_returnDelivered (s : State) (b : Nat) (n : LineId) : (s.returnDelivered b n).store = s.store.release b := by
  have aside : ∀ (x : State) f, (x.onLine n f).store = x.store := fun _ _ => rfl
  rw [State.returnDelivered, State.store_removeEntries, aside, State.store_freeBlock]

theorem State.apart_judgeEntry (wf : Memory.wf s.store.mem = true) (b : Nat) (o : Owner) : s.store.Apart b (s.judgeEntry b o).store := by
  unfold State.judgeEntry
  repeat' split
  · rw [State.store_freeBlock]
    exact Store.apart_release wf b
  · rw [State.store_returnDelivered]
    exact Store.apart_release wf b
  · exact Store.apart_rewritten wf b _
  · exact Store.apart_rewritten wf b _

theorem State.apart_visitBlock (wf : Memory.wf s.store.mem = true) (b : Nat) : s.store.Apart b (s.visitBlock b).store := by
  unfold State.visitBlock
  repeat' split
  · exact fun _ _ => ⟨rfl, rfl⟩
  · exact fun _ _ => ⟨rfl, rfl⟩
  · exact State.apart_judgeEntry wf b _

theorem State.sweep_judgeEntry (s : State) (b : Nat) (o : Owner) : (s.judgeEntry b o).sweep = s.sweep := by
  unfold State.judgeEntry
  repeat' split
  · exact (LineEffect.refl.freeBlock (n := 0) b).sweep
  next n => exact (LineEffect.refl.returnDelivered (n := n) b).sweep
  · rfl
  · rfl

theorem State.sweep_visitBlock (s : State) (b : Nat) : (s.visitBlock b).sweep = s.sweep := by
  unfold State.visitBlock
  repeat' split
  · rfl
  · rfl
  · exact s.sweep_judgeEntry b _

theorem sweep_visit (running : s.port.engineRunning = true) (sweeps : s.sweep.running = true) (v : Volts) :
    exec (.sweep v ⟨[.visit], false⟩) s = .next s.visitNext := execSweep_goesOn running sweeps v [.visit]

theorem visit_moves (running : s.port.engineRunning = true) (sweeps : s.sweep.running = true) (wf : Memory.wf s.store.mem = true)
    (left : s.sweep.visited < s.store.blockCount) : ∃ t, exec (.sweep v ⟨[.visit], false⟩) s = .next t ∧
      t.sweep = { s.sweep with visited := s.sweep.visited + 1 } ∧
      ∀ c, c ≠ s.sweep.visited → t.store.owners[c]? = s.store.owners[c]? ∧
        Memory.word t.store.mem (mapAddr c) = Memory.word s.store.mem (mapAddr c) := by
  have run := sweep_visit running sweeps v
  rw [State.visitNext, if_pos left] at run
  have apart := State.apart_visitBlock wf s.sweep.visited
  have sweep := s.sweep_visitBlock s.sweep.visited
  exact ⟨_, run, congrArg (fun w : Sweep => { w with visited := s.sweep.visited + 1 }) sweep, apart⟩

/-! ## The return sweep with one entry to judge -/

/-- The entries of a list but one read as the internal owners: the visits come to the visit of that one. -/
theorem State.visits_one {bs : List Nat} (wf : Memory.wf s.store.mem = true) (once : bs.Nodup) (member : b ∈ bs)
    (clean : ∀ c ∈ bs, c ≠ b → ∀ o, s.store.owners[c]? = some o → Memory.word s.store.mem (mapAddr c) = o.word) :
    bs.foldl State.visitBlock s = s.visitBlock b := by
  induction bs with
  | nil => exact absurd member List.not_mem_nil
  | cons c bs ih =>
    obtain ⟨new, rest⟩ := List.nodup_cons.mp once
    rw [List.foldl_cons]
    by_cases here : c = b
    · subst here
      refine State.visits_clean fun d later o owned => ?_
      have other : d ≠ c := fun e => new (e ▸ later)
      obtain ⟨owners, word⟩ := State.apart_visitBlock wf c d other
      rw [word]
      exact clean d (List.mem_cons_of_mem _ later) other o (owners.symm.trans owned)
    · rw [State.visitBlock_clean (clean c List.mem_cons_self here)]
      exact ih rest ((List.mem_cons.mp member).resolve_left (Ne.symm here)) fun d later => clean d (List.mem_cons_of_mem _ later)

theorem Swept.hdr (h : Swept s x) : { x.hdr with changeCount := 0 } = { s.hdr with changeCount := 0, ev := s.hdr.ev.acknowledge } := by
  have hdr := congrArg State.hdr h.view
  exact hdr

theorem Swept.repairs (h : Swept s x) : x.hdr.mapRepairCount = s.hdr.mapRepairCount := by
  have count := congrArg Header.mapRepairCount h.hdr
  exact count

theorem Swept.delivered (h : Swept s x) (n : LineId) : (x.line n).delivered = (s.line n).delivered := by
  have delivered := congrArg Line.delivered (h.line n)
  exact delivered

/-- What the return sweep leaves of a sweep with one entry to judge and no line receive-critical. -/
structure ReturnSwept (s y t : State) : Prop where
  store : t.store = y.store
  hdr : t.hdr.mapRepairCount = y.hdr.mapRepairCount ∧ t.hdr.ev = y.hdr.ev
  delivered : ∀ n, (t.line n).delivered = (y.line n).delivered

theorem State.store_endSweep (s : State) : s.endSweep.store = s.store ∧ s.endSweep.hdr.mapRepairCount = s.hdr.mapRepairCount ∧
    s.endSweep.hdr.ev = s.hdr.ev := by
  rw [State.endSweep_eq]
  exact ⟨rfl, rfl, rfl⟩

theorem State.delivered_endSweep (s : State) (n : LineId) : (s.endSweep.line n).delivered = (s.line n).delivered := by
  rw [State.endSweep_eq, State.line_commit]
  have line := congrArg Line.delivered (s.line_forgetLists n)
  exact line

section
variable (running : s.port.engineRunning = true) (sweeps : s.sweep.running = true) (fresh : s.sweep.acked = [])
  (due : s.sweep.returned = false) (quiet : s.NoOrders)
include running sweeps fresh due quiet

/-- A sweep that finds one entry differing from the internal owner. -/
theorem sweep_judges (v : Volts) (wf : Memory.wf s.store.mem = true) (ahead : s.sweep.visited ≤ b)
    (owned : s.store.owners[b]? = some o) (differs : Memory.word s.store.mem (mapAddr b) ≠ o.word)
    (clean : ∀ c p, s.sweep.visited ≤ c → c ≠ b → s.store.owners[c]? = some p → Memory.word s.store.mem (mapAddr c) = p.word)
    (calm : ∀ x, Swept s x → ∀ n, ((x.judgeEntry b o).line n).link.critical = false) :
    ∃ x t, Swept s x ∧ exec (.sweep v ⟨[], true⟩) s = .next t ∧ ReturnSwept s (x.judgeEntry b o) t := by
  have run := execSweep_ends running sweeps v []
  rw [List.nil_append, sweepUnits_full] at run
  have swept := swept_of quiet fresh v
  generalize (s.sweepUnits v ((allTables.flatMap fun T => List.replicate 8 T).map .card)).sweepUnits v (allTables.map .ack) = x at *
  have calm := calm x swept
  have store := swept.store
  have from_ : x.sweep.visited = s.sweep.visited := by
    have same := congrArg Sweep.visited swept.sweep
    exact same
  have bound : b < s.store.owners.length := (List.getElem?_eq_some_iff.mp owned).1
  have member : b ∈ (List.range x.store.blockCount).drop x.sweep.visited := by
    rw [from_, store, List.mem_drop_iff_getElem]
    exact ⟨b - s.sweep.visited, by rw [List.length_range, Store.blockCount]; omega,
      by rw [List.getElem_range]; omega⟩
  have visits : ((List.range x.store.blockCount).drop x.sweep.visited).foldl State.visitBlock x = x.visitBlock b := by
    refine State.visits_one (by rw [store]; exact wf) (List.nodup_range.sublist (List.drop_sublist _ _)) member fun c later other p ownedC => ?_
    rw [store] at ownedC ⊢
    have past : s.sweep.visited ≤ c := by
      rw [from_, List.mem_drop_iff_getElem] at later
      obtain ⟨i, _, e⟩ := later
      rw [List.getElem_range] at e
      omega
    exact clean c p past other ownedC
  have visit : x.visitBlock b = x.commit (x.judgeEntry b o) := by
    rw [State.visitBlock, store, owned]
    exact if_neg (by rw [← store] at differs ⊢; exact differs)
  generalize hy : x.judgeEntry b o = y at *
  rw [State.returnsOnce_due (by rw [swept.sweep]; exact due) visits, visit] at run
  have exits : (x.commit y).visited.criticalExits = (x.commit y).visited := State.criticalExits_calm fun n => by
    rw [← calm n]
    change ((x.commit y).line n).link.critical = _
    rw [State.line_commit]
    rfl
  rw [exits] at run
  refine ⟨x, _, swept, run, ?_⟩
  rw [hy]
  obtain ⟨store, repairs, ev⟩ := State.store_endSweep ((x.commit y).commit (x.commit y).visited)
  refine ⟨store.trans rfl, ⟨repairs.trans rfl, ev.trans rfl⟩, fun n => ?_⟩
  rw [State.delivered_endSweep, State.line_commit]
  change ((x.commit y).line n).delivered = _
  rw [State.line_commit]
  rfl

end

/-! ## What the judgement of one entry leaves -/

theorem State.freeBlock_calm (calm : ∀ n, (s.line n).link.critical = false) (b : Nat) :
    s.freeBlock b = s.onStore fun st => st.release b := State.criticalExits_calm calm

/-- The entries of a Delivered List with one block returned, those of which nothing is outstanding gone (09 R166). -/
def Line.entriesLeft (b : Nat) (l : Line) : List Entry :=
  (l.delivered.map fun e => { e with outstanding := e.outstanding.filter (· != b) }).filter fun e => !(e.closed && e.outstanding.isEmpty)

theorem State.removeEntries_calm (calm : (s.line n).link.critical = false) : s.removeEntries n =
    s.onLine n fun l => { l with delivered := l.delivered.filter fun e => !(e.closed && e.outstanding.isEmpty) } := by
  rw [State.removeEntries]
  split
  next same =>
    have all : (s.line n).delivered.filter (fun e => !(e.closed && e.outstanding.isEmpty)) = (s.line n).delivered :=
      List.filter_sublist.eq_of_length same
    have id : { s.line n with delivered := (s.line n).delivered.filter fun e => !(e.closed && e.outstanding.isEmpty) } = s.line n := by rw [all]
    exact ((State.onLine_congr (g := fun l => l) id).trans (s.onLine_id n)).symm
  next => exact State.criticalExit_calm (by rw [State.line_onLine_self]; exact calm)

theorem State.returnDelivered_calm (calm : ∀ n, (s.line n).link.critical = false) (b : Nat) (n : LineId) : s.returnDelivered b n =
    (s.onStore fun st => st.release b).onLine n fun l => { l with delivered := l.entriesLeft b } := by
  rw [State.returnDelivered, State.freeBlock_calm calm, State.removeEntries_calm (by rw [State.line_onLine_self]; exact calm n),
    State.onLine_onLine]
  rfl

theorem Swept.calm (h : Swept s x) (calm : ∀ n, (s.line n).link.critical = false) (n : LineId) : (x.line n).link.critical = false := by
  rw [h.link n]
  exact calm n

section
variable (running : s.port.engineRunning = true) (sweeps : s.sweep.running = true) (fresh : s.sweep.acked = [])
  (due : s.sweep.returned = false) (quiet : s.NoOrders) (wf : Memory.wf s.store.mem = true) (ahead : s.sweep.visited ≤ b)
  (owned : s.store.owners[b]? = some o)
  (clean : ∀ c p, s.sweep.visited ≤ c → c ≠ b → s.store.owners[c]? = some p → Memory.word s.store.mem (mapAddr c) = p.word)
  (calm : ∀ n, (s.line n).link.critical = false)
include running sweeps fresh due quiet wf ahead owned clean calm

/-- A HOST block RETURNED (09 R162). -/
theorem sweep_returnsHost (v : Volts) (host : o = .host) (returned : Memory.word s.store.mem (mapAddr b) % 256 = 255) :
    ∃ t, exec (.sweep v ⟨[], true⟩) s = .next t ∧ t.store.owners = s.store.owners.set b .free ∧ t.store.free = b :: s.store.free ∧
      Memory.word t.store.mem (mapAddr b) = 0 ∧ t.hdr.mapRepairCount = s.hdr.mapRepairCount := by
  have judged : ∀ x, Swept s x → x.judgeEntry b o = x.onStore fun st => st.release b := fun x swept => by
    rw [host, State.judgeEntry, swept.store, if_pos returned]
    exact State.freeBlock_calm (swept.calm calm) b
  obtain ⟨x, t, swept, run, left⟩ := sweep_judges running sweeps fresh due quiet v wf ahead owned
    (fun e => o.word_mod (by rw [← e]; exact returned)) clean fun x swept n => by
      rw [judged x swept]
      exact swept.calm calm n
  have store := left.store
  have repairs := left.hdr.1
  rw [judged x swept] at store repairs
  have released : t.store = s.store.release b := store.trans (congrArg (Store.release · b) swept.store)
  obtain ⟨owners, free, word⟩ := Store.release_parts wf owned (by rw [host]; nofun)
  exact ⟨t, run, by rw [released]; exact owners, by rw [released]; exact free, by rw [released]; exact word, repairs.trans swept.repairs⟩

/-- A delivered block RETURNED (09 R162, R166). -/
theorem sweep_returnsDelivered (v : Volts) (deliv : o = .deliv n) (returned : Memory.word s.store.mem (mapAddr b) % 256 = 255) :
    ∃ t, exec (.sweep v ⟨[], true⟩) s = .next t ∧ t.store.owners = s.store.owners.set b .free ∧ t.store.free = b :: s.store.free ∧
      Memory.word t.store.mem (mapAddr b) = 0 ∧ t.hdr.mapRepairCount = s.hdr.mapRepairCount ∧
      (t.line n).delivered = (s.line n).entriesLeft b ∧ ∀ m, m ≠ n → (t.line m).delivered = (s.line m).delivered := by
  have judged : ∀ x, Swept s x → x.judgeEntry b o =
      (x.onStore fun st => st.release b).onLine n fun l => { l with delivered := l.entriesLeft b } := fun x swept => by
    rw [deliv, State.judgeEntry, swept.store, if_pos returned]
    exact State.returnDelivered_calm (swept.calm calm) b n
  obtain ⟨x, t, swept, run, left⟩ := sweep_judges running sweeps fresh due quiet v wf ahead owned
    (fun e => o.word_mod (by rw [← e]; exact returned)) clean fun x swept m => by
      rw [judged x swept, State.line_onLine]
      split
      · exact swept.calm calm n
      · exact swept.calm calm m
  have store := left.store
  have repairs := left.hdr.1
  have delivered := left.delivered
  rw [judged x swept] at store repairs delivered
  have released : t.store = s.store.release b := store.trans (congrArg (Store.release · b) swept.store)
  obtain ⟨owners, free, word⟩ := Store.release_parts wf owned (by rw [deliv]; nofun)
  refine ⟨t, run, by rw [released]; exact owners, by rw [released]; exact free, by rw [released]; exact word, repairs.trans swept.repairs,
    ?_, fun m other => ?_⟩
  · rw [delivered, State.line_onLine_self]
    change (x.line n).entriesLeft b = _
    rw [Line.entriesLeft, swept.delivered]
    rfl
  · rw [delivered, State.line_onLine_ne _ other]
    exact swept.delivered m

/-- An entry that the host may not have written (09 R162). -/
theorem sweep_repairs (v : Volts)
    (wrong : Memory.word s.store.mem (mapAddr b) % 256 ≠ 255 ∨ (o ≠ .host ∧ ∀ n, o ≠ .deliv n))
    (differs : Memory.word s.store.mem (mapAddr b) ≠ o.word) :
    ∃ t, exec (.sweep v ⟨[], true⟩) s = .next t ∧ t.store.owners = s.store.owners ∧ t.store.free = s.store.free ∧
      Memory.word t.store.mem (mapAddr b) = o.word ∧ t.hdr.mapRepairCount = s.hdr.mapRepairCount + 1 ∧
      t.hdr.ev.bits.getLsbD 3 = true := by
  have judged : ∀ x, Swept s x → x.judgeEntry b o = x.repairEntry b o := fun x swept => by
    unfold State.judgeEntry
    rw [swept.store]
    rcases wrong with low | ⟨notHost, notDeliv⟩
    · exact if_neg low
    · split
      · cases o with
        | host => exact absurd rfl notHost
        | deliv n => exact absurd rfl (notDeliv n)
        | _ => rfl
      · rfl
  obtain ⟨x, t, swept, run, left⟩ := sweep_judges running sweeps fresh due quiet v wf ahead owned differs clean fun x swept n => by
      rw [judged x swept]
      exact swept.calm calm n
  have store := left.store
  obtain ⟨repairs, ev⟩ := left.hdr
  rw [judged x swept] at store repairs ev
  have rewritten : t.store = { s.store with mem := Memory.setWord s.store.mem (mapAddr b) o.word } :=
    store.trans (congrArg (fun st : Store => { st with mem := Memory.setWord st.mem (mapAddr b) o.word }) swept.store)
  refine ⟨t, run, by rw [rewritten], by rw [rewritten], by rw [rewritten]; exact Memory.word_setWord wf _ _ o.word_lt,
    repairs.trans (congrArg (· + 1) swept.repairs), ?_⟩
  rw [ev]
  change (x.hdr.ev.raise 3).bits.getLsbD 3 = true
  simp [EventWord.raise, bitWord]

end

/-! ## A sweep that finds every entry as it should be -/

theorem State.store_criticalExits (s : State) :
    s.criticalExits.store = s.store ∧ s.criticalExits.hdr.mapRepairCount = s.hdr.mapRepairCount := by
  have exits := Only.criticalExits s 0
  have hdr : { s.criticalExits.hdr with ev := Header.initial.ev } = { s.hdr with ev := Header.initial.ev } := exits.of .hdr
  have count := congrArg Header.mapRepairCount hdr
  exact ⟨exits.of .store, count⟩

/-- What a sweep leaves of the store that carries out no order and finds nothing in the Block Map. -/
structure StoreStays (s x : State) : Prop where
  store : x.store = s.store
  repairs : x.hdr.mapRepairCount = s.hdr.mapRepairCount
  visited : x.sweep.visited = s.sweep.visited

theorem StoreStays.acks (s : State) (v : Volts) (Ts : List TableId) : StoreStays s (s.sweepUnits v (Ts.map .ack)) := by
  induction Ts generalizing s with
  | nil => exact ⟨rfl, rfl, rfl⟩
  | cons T Ts ih =>
    have first : StoreStays s (s.ackOnce T) := by
      unfold State.ackOnce
      split
      · exact ⟨rfl, rfl, rfl⟩
      · cases T <;> exact ⟨rfl, rfl, rfl⟩
    have rest := ih (s.ackOnce T)
    exact ⟨rest.store.trans first.store, rest.repairs.trans first.repairs, rest.visited.trans first.visited⟩

theorem State.NoOrders.stays (quiet : s.NoOrders) (v : Volts) (Ts : List TableId) : StoreStays s (s.sweepUnits v (Ts.map .card)) := by
  obtain ⟨-, view, sweep⟩ := quiet.cards v Ts
  have store := congrArg State.store view
  have repairs := congrArg (fun u : State => u.hdr.mapRepairCount) view
  exact ⟨store, repairs, congrArg Sweep.visited sweep⟩

theorem sweep_clean (running : s.port.engineRunning = true) (sweeps : s.sweep.running = true) (quiet : s.NoOrders) (v : Volts)
    (clean : ∀ c p, s.sweep.visited ≤ c → s.store.owners[c]? = some p → Memory.word s.store.mem (mapAddr c) = p.word) :
    ∃ t, exec (.sweep v ⟨[], true⟩) s = .next t ∧ t.store = s.store ∧ t.hdr.mapRepairCount = s.hdr.mapRepairCount := by
  have run := execSweep_ends running sweeps v []
  rw [List.nil_append, sweepUnits_full] at run
  have cards := quiet.stays v (allTables.flatMap fun T => List.replicate 8 T)
  have acks := StoreStays.acks (s.sweepUnits v ((allTables.flatMap fun T => List.replicate 8 T).map .card)) v allTables
  have store := acks.store.trans cards.store
  have repairs := acks.repairs.trans cards.repairs
  have visited := acks.visited.trans cards.visited
  generalize (s.sweepUnits v ((allTables.flatMap fun T => List.replicate 8 T).map .card)).sweepUnits v (allTables.map .ack) = x at *
  obtain ⟨endStore, endRepairs, -⟩ := State.store_endSweep x.returnsOnce
  refine ⟨_, run, ?_⟩
  rw [endStore, endRepairs]
  by_cases returned : x.sweep.returned = true
  · rw [State.returnsOnce, if_pos returned]
    exact ⟨store, repairs⟩
  · have visits : ((List.range x.store.blockCount).drop x.sweep.visited).foldl State.visitBlock x = x := by
      refine State.visits_clean fun c later o ownedC => ?_
      rw [store] at ownedC ⊢
      rw [visited, List.mem_drop_iff_getElem] at later
      obtain ⟨i, _, e⟩ := later
      rw [List.getElem_range] at e
      exact clean c o (by omega) ownedC
    rw [State.returnsOnce_due (by simpa using returned) visits]
    obtain ⟨kept, count⟩ := x.visited.store_criticalExits
    generalize x.visited.criticalExits = y at *
    exact ⟨kept.trans store, count.trans repairs⟩

/-- Settles O19: the visits of the return sweep come to the visit of the one entry that differs, and a visit leaves the others. -/
theorem returnSweepJudgesTheBlockMap : Obligations.ReturnSweepJudgesTheBlockMap := by
  refine ⟨fun v s b o running sweeps fresh due ahead wf quiet calm owned _ clean => ⟨fun host returned => ?_, fun n deliv returned => ?_,
    fun wrong differs => ?_⟩, fun v s running sweeps wf => ⟨fun none => ?_, fun left => visit_moves running sweeps wf left⟩,
    fun v s running sweeps quiet clean => sweep_clean running sweeps quiet v clean⟩
  · exact sweep_returnsHost running sweeps fresh due quiet wf ahead owned clean calm v host returned
  · exact sweep_returnsDelivered running sweeps fresh due quiet wf ahead owned clean calm v deliv returned
  · exact sweep_repairs running sweeps fresh due quiet wf ahead owned clean calm v wrong differs
  · rw [sweep_visit running sweeps, State.visitNext, if_neg (Nat.not_lt.mpr none)]

end Sys2Proof.Machine

/-! O21: the exit from receive-critical (06 R109). -/

namespace Sys2Proof.Machine

set_option Elab.async false

variable {s t u x y : State} {n m : LineId} {v : Volts} {b : Nat} {o : Owner} {k : Link} {es : List Entry}

/-! ## One exit -/

/-- The test of the exit, with the entries of the line's Delivered List given. -/
def State.ExitTest (s : State) (n : LineId) (es : List Entry) : Prop :=
  (s.line n).link.critical = true ∧ s.store.free ≠ [] ∧ es.length < 16 ∧
    s.store.owners.count (.recv n) + s.store.owners.count (.deliv n) ≤ (s.line n).profile.receiveLimit - 2

theorem State.mayLeaveCritical_iff : s.mayLeaveCritical n = true ↔ s.ExitTest n (s.line n).delivered := by
  simp only [State.mayLeaveCritical, Bool.and_eq_true, decide_eq_true_iff, State.ExitTest, State.heldBlocks, Store.countOwned,
    Store.freeCount, List.length_pos_iff]
  constructor
  · rintro ⟨⟨⟨critical, held⟩, few⟩, free⟩
    exact ⟨critical, free, few, of_decide_eq_true held⟩
  · rintro ⟨critical, free, few, held⟩
    exact ⟨⟨⟨critical, decide_eq_true held⟩, few⟩, free⟩

/-- A link that has left receive-critical. -/
def Link.calmed (k : Link) : Link := { k with critical := false, rejectSent := false }

/-- The exit of line `n`, its link being `k`: whether its pump carries says what becomes of the RECEIPT (06 R105, R109). -/
structure LeftCritical (t : State) (n : LineId) (carries : Bool) (k : Link) : Prop where
  closed : k.state = .farClosed → (t.line n).link = k.calmed
  inFlight : k.state ≠ .farClosed → k.inFlight = true → (t.line n).link = { k.calmed with replyDue := some (.receipt k.expected) }
  waits : k.state ≠ .farClosed → k.inFlight = false → carries = false ∨ k.sending ≠ none →
    (t.line n).link = { k.calmed with replies := k.replies ++ [.receipt k.expected] }
  sends : k.state ≠ .farClosed → k.inFlight = false → carries = true → k.sending = none →
    ∀ f rest, k.replies ++ [.receipt k.expected] = f :: rest →
      (t.line n).link = { k.calmed with replies := rest, sending := some f } ∧ .linkBytes n (0xA5 :: (Wire.run f ++ [0xA5])) ∈ t.outputs

theorem LeftCritical.later {c : Bool} (h : LeftCritical t n c k) (link : (u.line n).link = (t.line n).link) (outputs : t.outputs <+: u.outputs) :
    LeftCritical u n c k :=
  ⟨fun a => link.trans (h.closed a), fun a b => link.trans (h.inFlight a b), fun a b d => link.trans (h.waits a b d),
    fun a b d e f rest first => ⟨link.trans (h.sends a b d e f rest first).1, outputs.subset (h.sends a b d e f rest first).2⟩⟩

theorem LeftCritical.calm {c : Bool} (h : LeftCritical t n c k) : (t.line n).link.critical = false ∧ (t.line n).link.rejectSent = false := by
  by_cases closed : k.state = .farClosed
  · rw [h.closed closed]; exact ⟨rfl, rfl⟩
  · cases inFlight : k.inFlight with
    | true => rw [h.inFlight closed inFlight]; exact ⟨rfl, rfl⟩
    | false =>
      by_cases waits : c = false ∨ k.sending ≠ none
      · rw [h.waits closed inFlight waits]; exact ⟨rfl, rfl⟩
      · obtain ⟨carries, idle⟩ := not_or.mp waits
        cases first : k.replies ++ [.receipt k.expected] with
        | nil => exact absurd first (by simp)
        | cons f rest =>
          rw [(h.sends closed inFlight (by simpa using carries) (not_not.mp idle) f rest first).1]
          exact ⟨rfl, rfl⟩

theorem leftCritical_of (leaves : s.mayLeaveCritical n = true) : LeftCritical (s.criticalExit n) n (s.carrying n) (s.line n).link := by
  have run : s.criticalExit n = if ((s.onLink n Link.calmed).line n).link.state = .farClosed then s.onLink n Link.calmed
      else (s.onLink n Link.calmed).sendReply n (.receipt ((s.onLink n Link.calmed).line n).link.expected) := if_pos leaves
  have link : ((s.onLink n Link.calmed).line n).link = (s.line n).link.calmed := by rw [State.line_onLink_self]
  have carrying : (s.onLink n Link.calmed).carrying n = s.carrying n := State.carrying_onLink s n _
  rw [link] at run
  generalize s.onLink n Link.calmed = x at *
  rw [run]
  generalize (s.line n).link = k at *
  refine ⟨fun closed => ?_, fun open_ inFlight => ?_, fun open_ settled waits => ?_, fun open_ settled carries idle f rest first => ?_⟩
  · rw [if_pos (show k.calmed.state = .farClosed from closed), link]
  · rw [if_neg (show k.calmed.state ≠ .farClosed from open_), State.sendReply_inFlight (by rw [link]; exact inFlight), State.line_onLink_self, link]
    rfl
  · rw [if_neg (show k.calmed.state ≠ .farClosed from open_), State.sendReply_waits (by rw [link]; exact settled), State.line_onLink_self, link]
    · rfl
    · rw [link, carrying]
      exact waits.symm.imp_left Option.isSome_iff_ne_none.mpr
  · rw [if_neg (show k.calmed.state ≠ .farClosed from open_), State.sendReply_first (g := f) (rest := rest) (by rw [link]; exact settled)
      (by rw [link]; exact idle) (by rw [carrying]; exact carries) (by rw [link]; exact first), State.frameBegun_link, State.line_onLink_self, link]
    exact ⟨rfl, by simp [State.frameBegun, State.emit]⟩

/-! ## The exits of all lines -/

/-- Two states that read the same to the exit of line `n`. -/
structure SameExit (n : LineId) (s t : State) : Prop where
  line : t.line n = s.line n
  store : t.store = s.store
  pumps : t.pumps = s.pumps

theorem SameExit.mayLeave (h : SameExit n s t) : t.mayLeaveCritical n = s.mayLeaveCritical n := by
  rw [Bool.eq_iff_iff, State.mayLeaveCritical_iff, State.mayLeaveCritical_iff, State.ExitTest, State.ExitTest, h.line, h.store]

theorem SameExit.carrying (h : SameExit n s t) : t.carrying n = s.carrying n := State.carrying_congr (by rw [h.line]) h.pumps

theorem sameExit_criticalExit (other : n ≠ m) (s : State) : SameExit n s (s.criticalExit m) := by
  have only := Only.criticalExit s m
  exact ⟨only.line_of other, only.of .store, only.of .pumps⟩

theorem sameExit_foldl {ns : List LineId} (out : n ∉ ns) (s : State) : SameExit n s (ns.foldl State.criticalExit s) := by
  induction ns generalizing s with
  | nil => exact ⟨rfl, rfl, rfl⟩
  | cons m ns ih =>
    obtain ⟨other, rest⟩ := not_or.mp (List.mem_cons.not.mp out)
    have first := sameExit_criticalExit other s
    have later := ih rest (s.criticalExit m)
    exact ⟨later.line.trans first.line, later.store.trans first.store, later.pumps.trans first.pumps⟩

theorem outputs_exits (ns : List LineId) (s : State) : s.outputs <+: (ns.foldl State.criticalExit s).outputs := by
  induction ns generalizing s with
  | nil => exact List.prefix_rfl
  | cons m ns ih => exact (LineEffect.refl.criticalExit m (n := m)).outputs.trans (ih _)

/-- The exit tests of all lines, as line `n` finds them. -/
theorem State.criticalExits_line (s : State) (n : LineId) :
    (s.mayLeaveCritical n = true → LeftCritical s.criticalExits n (s.carrying n) (s.line n).link) ∧
      (s.mayLeaveCritical n = false → s.criticalExits.line n = s.line n) := by
  have every : ∃ before after, allLines = before ++ n :: after ∧ n ∉ before ∧ n ∉ after := by
    fin_cases n
    · exact ⟨[], [1, 2, 3], rfl, by decide, by decide⟩
    · exact ⟨[0], [2, 3], rfl, by decide, by decide⟩
    · exact ⟨[0, 1], [3], rfl, by decide, by decide⟩
    · exact ⟨[0, 1, 2], [], rfl, by decide, by decide⟩
  obtain ⟨before, after, all, first, last⟩ := every
  rw [State.criticalExits, all, List.foldl_append, List.foldl_cons]
  have same := sameExit_foldl first s
  generalize before.foldl State.criticalExit s = x at *
  have later := sameExit_foldl last (x.criticalExit n)
  have outputs := outputs_exits after (x.criticalExit n)
  refine ⟨fun leaves => ?_, fun stays => ?_⟩
  · have left := leftCritical_of (s := x) (n := n) (by rw [same.mayLeave]; exact leaves)
    rw [same.carrying, same.line] at left
    exact left.later (by rw [later.line]) outputs
  · rw [later.line, State.criticalExit_stays (by rw [same.mayLeave]; exact stays), same.line]

theorem Swept.rest (h : Swept s x) : x.pumps = s.pumps ∧ ∀ n, (x.line n).profile = (s.line n).profile ∧ (x.line n).call = (s.line n).call := by
  have pumps := congrArg State.pumps h.view
  refine ⟨pumps, fun n => ?_⟩
  have profile := congrArg Line.profile (h.line n)
  have call := congrArg Line.call (h.line n)
  exact ⟨profile, call⟩

theorem State.link_endSweep (s : State) (n : LineId) : (s.endSweep.line n).link = (s.line n).link := by
  rw [State.endSweep_eq, State.line_commit]
  have line := congrArg Line.link (s.line_forgetLists n)
  exact line

/-- The sweep that finds nothing but lines that may leave receive-critical. -/
theorem sweep_leaves (running : s.port.engineRunning = true) (sweeps : s.sweep.running = true) (fresh : s.sweep.acked = [])
    (due : s.sweep.returned = false) (quiet : s.NoOrders) (v : Volts)
    (clean : ∀ b o, s.store.owners[b]? = some o → Memory.word s.store.mem (mapAddr b) = o.word) :
    ∃ t, exec (.sweep v ⟨[], true⟩) s = .next t ∧ t.store = s.store ∧ ∀ n,
      (¬ s.ExitTest n (s.line n).delivered → (t.line n).link = (s.line n).link) ∧
      (s.ExitTest n (s.line n).delivered → LeftCritical t n (s.carrying n) (s.line n).link) := by
  have run := execSweep_ends running sweeps v []
  rw [List.nil_append, sweepUnits_full] at run
  have swept := swept_of quiet fresh v
  generalize (s.sweepUnits v ((allTables.flatMap fun T => List.replicate 8 T).map .card)).sweepUnits v (allTables.map .ack) = x at *
  have store := swept.store
  obtain ⟨pumps, rest⟩ := swept.rest
  have visits : ((List.range x.store.blockCount).drop x.sweep.visited).foldl State.visitBlock x = x :=
    State.visits_clean fun b _ o owned => by rw [store] at owned ⊢; exact clean b o owned
  rw [State.returnsOnce_due (by rw [swept.sweep]; exact due) visits] at run
  have mayLeave : ∀ n, x.visited.mayLeaveCritical n = s.mayLeaveCritical n := fun n => by
    change x.mayLeaveCritical n = _
    rw [Bool.eq_iff_iff, State.mayLeaveCritical_iff, State.mayLeaveCritical_iff, State.ExitTest, State.ExitTest, swept.link n, swept.delivered n,
      (rest n).1, store]
  have carrying : ∀ n, x.visited.carrying n = s.carrying n := fun n =>
    State.carrying_congr (congrArg CallRecord.pump (rest n).2) pumps
  have link : ∀ n, (x.visited.line n).link = (s.line n).link := swept.link
  have kept := x.visited.store_criticalExits.1
  have exits := x.visited.criticalExits_line
  have visited : x.visited.store = s.store := store
  generalize x.visited.criticalExits = y at *
  obtain ⟨endStore, -⟩ := (x.commit y).store_endSweep
  have outputs : (x.commit y).endSweep.outputs = y.outputs := by rw [State.endSweep_eq]; rfl
  have line : ∀ n, ((x.commit y).endSweep.line n).link = (y.line n).link := fun n => by rw [State.link_endSweep, State.line_commit]; rfl
  generalize (x.commit y).endSweep = t at *
  refine ⟨t, run, endStore.trans (kept.trans visited), fun n => ⟨fun stays => ?_, fun leaves => ?_⟩⟩
  · rw [← State.mayLeaveCritical_iff, ← mayLeave n, Bool.not_eq_true] at stays
    rw [line n, (exits n).2 stays, link n]
  · rw [← State.mayLeaveCritical_iff, ← mayLeave n] at leaves
    have left := (exits n).1 leaves
    rw [carrying, link] at left
    exact left.later (line n) (by rw [outputs])

/-! ## The blocks of a discarded message -/

theorem Store.count_release (st : Store) (b : Nat) {a : Owner} (taken : a ≠ .free) : (st.release b).owners.count a ≤ st.owners.count a := by
  unfold Store.release
  split
  · exact Nat.le_refl _
  next o _ owned =>
    obtain ⟨bound, -⟩ := List.getElem?_eq_some_iff.mp owned
    change (st.owners.set b .free).count a ≤ _
    rw [List.count_set bound, if_neg (show ¬(Owner.free == a) = true by simpa using Ne.symm taken)]
    omega
  · exact Nat.le_refl _

/-- The link of line `n` has left receive-critical. -/
def State.Calmed (s : State) (n : LineId) : Prop := (s.line n).link.critical = false ∧ (s.line n).link.rejectSent = false

/-- The two conditions of the exit of line `n` beside the Free Count. -/
def State.Ready (s : State) (n : LineId) : Prop :=
  (s.line n).link.critical = true ∧ (s.line n).delivered.length < 16 ∧
    s.store.owners.count (.recv n) + s.store.owners.count (.deliv n) ≤ (s.line n).profile.receiveLimit - 2

theorem State.freeBlock_eq (s : State) (b : Nat) : s.freeBlock b = (s.onStore fun st => st.release b).criticalExits := rfl

theorem State.Calmed.freeBlock (h : s.Calmed n) (b : Nat) : (s.freeBlock b).Calmed n := by
  have stays : (s.onStore fun st => st.release b).mayLeaveCritical n = false := by
    rw [← Bool.not_eq_true, State.mayLeaveCritical_iff]
    exact fun test => Bool.false_ne_true (h.1.symm.trans test.1)
  rw [State.freeBlock_eq, State.Calmed, (State.criticalExits_line _ n).2 stays]
  exact h

/-- A block freed lets a ready line leave, where the free stack is not empty then. -/
theorem State.Ready.freeBlock (h : s.Ready n) (b : Nat) :
    ((s.freeBlock b).store.free ≠ [] → (s.freeBlock b).Calmed n) ∧ ((s.freeBlock b).Ready n ∨ (s.freeBlock b).Calmed n) := by
  obtain ⟨critical, few, held⟩ := h
  have store := State.store_freeBlock s b
  have recv := Store.count_release s.store b (a := .recv n) (by nofun)
  have deliv := Store.count_release s.store b (a := .deliv n) (by nofun)
  have ready : (s.onStore fun st => st.release b).Ready n := ⟨critical, few, by
    change (s.store.release b).owners.count (.recv n) + (s.store.release b).owners.count (.deliv n) ≤ (s.line n).profile.receiveLimit - 2
    omega⟩
  have free : (s.freeBlock b).store.free = (s.onStore fun st => st.release b).store.free := congrArg Store.free store
  have exits := (s.onStore fun st => st.release b).criticalExits_line n
  rw [← State.freeBlock_eq] at exits
  have same := congrArg Store.owners store
  generalize s.freeBlock b = y at *
  have calms : y.store.free ≠ [] → y.Calmed n := fun some_ => by
    refine (exits.1 (State.mayLeaveCritical_iff.mpr ?_)).calm
    exact ⟨ready.1, by rw [← free]; exact some_, ready.2.1, ready.2.2⟩
  refine ⟨calms, ?_⟩
  by_cases some_ : y.store.free = []
  · have stays : (s.onStore fun st => st.release b).mayLeaveCritical n = false := by
      rw [← Bool.not_eq_true, State.mayLeaveCritical_iff]
      exact fun test => test.2.1 (by rw [← free]; exact some_)
    have line := exits.2 stays
    refine .inl ⟨by rw [line]; exact ready.1, by rw [line]; exact ready.2.1, ?_⟩
    rw [line, same]
    exact ready.2.2
  · exact .inr (calms some_)

theorem Store.free_release_ne {st : Store} (some_ : st.free ≠ []) (b : Nat) : (st.release b).free ≠ [] := by
  unfold Store.release
  split
  · exact some_
  · exact List.cons_ne_nil _ _
  · exact some_

theorem State.free_freeBlocks {bs : List Nat} (some_ : s.store.free ≠ []) : (s.freeBlocks bs).store.free ≠ [] := by
  rw [State.freeBlocks]
  induction bs generalizing s with
  | nil => exact some_
  | cons b bs ih => exact ih (by rw [State.store_freeBlock]; exact Store.free_release_ne some_ b)

theorem State.calmed_freeBlocks {bs : List Nat} (calmed : s.Calmed n) : (s.freeBlocks bs).Calmed n := by
  rw [State.freeBlocks]
  induction bs generalizing s with
  | nil => exact calmed
  | cons b bs ih => exact ih (calmed.freeBlock b)

/-- Blocks freed of which one is not FREE: there are free blocks then, and every ready line leaves receive-critical. -/
theorem State.freeBlocks_calms {bs : List Nat} (pushes : ∃ b ∈ bs, ∃ o, s.store.owners[b]? = some o ∧ o ≠ .free) :
    (s.freeBlocks bs).store.free ≠ [] ∧ ∀ n, s.Ready n → (s.freeBlocks bs).Calmed n := by
  induction bs generalizing s with
  | nil => obtain ⟨b, member, -⟩ := pushes; exact absurd member List.not_mem_nil
  | cons c bs ih =>
    rw [show s.freeBlocks (c :: bs) = (s.freeBlock c).freeBlocks bs from rfl]
    have store := State.store_freeBlock s c
    by_cases pushed : ∃ o, s.store.owners[c]? = some o ∧ o ≠ .free
    · obtain ⟨o, owned, taken⟩ := pushed
      have some_ : (s.freeBlock c).store.free ≠ [] := by
        rw [store, Store.release_owned owned taken]
        exact List.cons_ne_nil _ _
      exact ⟨State.free_freeBlocks some_, fun n ready => State.calmed_freeBlocks ((ready.freeBlock c).1 some_)⟩
    · have same : s.store.release c = s.store := by
        unfold Store.release
        split
        · rfl
        next o taken owned => exact absurd ⟨o, owned, taken⟩ pushed
        · rfl
      obtain ⟨b, member, o, owned, taken⟩ := pushes
      have later : b ∈ bs := (List.mem_cons.mp member).resolve_left fun e => pushed ⟨o, e ▸ owned, taken⟩
      obtain ⟨free, calms⟩ := ih (s := s.freeBlock c) ⟨b, later, o, by rw [store, same]; exact owned, taken⟩
      exact ⟨free, fun n ready => (ready.freeBlock c).2.elim (calms n) State.calmed_freeBlocks⟩

theorem discardMessage_calms {i : Fin 4} {m : EntryId} (taken : s.takesCard .engine i.val (· == 37) = true)
    (named : (s.card .engine i.val).byte 6 = m.val) (complete : (s.message m).state = .complete)
    (number : (s.message m).number = (s.card .engine i.val).word 8)
    (owned : ∃ b ∈ (s.message m).blocks, s.store.owners[b]? = some (.msg m)) :
    ∃ t, exec (.discardMessage i) s = .next t ∧ t.store.free ≠ [] ∧ ∀ n, s.Ready n → t.Calmed n := by
  have found := State.namedMessage_val (s := s) named
  rw [if_pos ⟨complete, number⟩] at found
  have run := (exec_discardMessage taken found).2 m rfl
  obtain ⟨b, member, owner⟩ := owned
  obtain ⟨free, calms⟩ := State.freeBlocks_calms (s := (s.taking .engine i.val).clearMessage m) (bs := (s.message m).blocks)
    ⟨b, member, .msg m, owner, by nofun⟩
  have ready : ∀ n, s.Ready n → ((s.taking .engine i.val).clearMessage m).Ready n := fun n ready => ready
  generalize ((s.taking .engine i.val).clearMessage m).freeBlocks (s.message m).blocks = y at *
  refine ⟨_, run, free, fun n r => ?_⟩
  have calmed := calms n (ready n r)
  rw [State.Calmed, State.line_commit]
  exact calmed

/-! ## The delivery idle expiry that removes an entry -/

theorem deliveryIdle_leaves {before after : List Entry} {e : Entry} (runs : (s.line n).link.idleTimer.isRunning = true)
    (recv : (s.line n).recvBlock = none) (split_ : (s.line n).delivered = before ++ e :: after) (kind : e.kind = .data)
    (opened : e.closed = false) (returned : e.outstanding = [])
    (others : ∀ x ∈ before ++ after, x.closed = true ∧ x.outstanding ≠ []) :
    ∃ t, exec (.deliveryIdleExpiry n) s = .next t ∧ (t.line n).delivered = before ++ after ∧ t.store = s.store ∧
      (t.line n).ev.bits.getLsbD 8 = true ∧
      (¬ s.ExitTest n (before ++ after) → (t.line n).link = { (s.line n).link with idleTimer := .stopped }) ∧
      (s.ExitTest n (before ++ after) → LeftCritical t n (s.carrying n) { (s.line n).link with idleTimer := .stopped }) := by
  have run := (flushes_idle runs).run
  have line := State.line_onLink_self s n fun x => { x with idleTimer := .stopped }
  have still : (s.onLink n fun x => { x with idleTimer := .stopped }).deliverData n = s.onLink n fun x => { x with idleTimer := .stopped } := by
    rw [State.deliverData, line]
    dsimp only
    rw [recv]
  rw [still, State.closeData_gone (before := before) (after := after) (e := e) (by rw [line]; exact split_) kind opened returned others] at run
  have store : (s.onLink n fun x => { x with idleTimer := .stopped }).store = s.store := rfl
  have carrying := State.carrying_onLink s n fun x => { x with idleTimer := .stopped }
  generalize s.onLink n (fun x => { x with idleTimer := .stopped }) = x at *
  have line' : ((x.onLine n fun l => { l with delivered := before ++ after }).raise n .recv).line n =
      { x.line n with delivered := before ++ after, ev := (x.line n).ev.raise 8 } := by
    rw [State.line_raise_self, State.line_onLine_self]
    rfl
  have store' : ((x.onLine n fun l => { l with delivered := before ++ after }).raise n .recv).store = x.store := rfl
  have carrying' : ((x.onLine n fun l => { l with delivered := before ++ after }).raise n .recv).carrying n = x.carrying n :=
    State.carrying_congr (by rw [line']) rfl
  generalize (x.onLine n fun l => { l with delivered := before ++ after }).raise n .recv = y at *
  have exit_ := Only.criticalExit y n
  have kept : (y.criticalExit n).store = y.store := exit_.of .store
  have delivered : ((y.criticalExit n).line n).delivered = (y.line n).delivered := exit_.of .delivered
  have ev : ((y.criticalExit n).line n).ev = (y.line n).ev := exit_.of .ev
  have test : y.mayLeaveCritical n = true ↔ s.ExitTest n (before ++ after) := by
    rw [State.mayLeaveCritical_iff, State.ExitTest, State.ExitTest, line', store', store, line]
  have stays := State.criticalExit_stays (s := y) (n := n)
  have leaves := leftCritical_of (s := y) (n := n)
  rw [carrying', carrying, line', line] at leaves
  generalize y.criticalExit n = z at *
  refine ⟨_, run, ?_, kept.trans (store'.trans store), ?_, fun no => ?_, fun yes => ?_⟩
  · rw [State.line_commit]
    exact delivered.trans (by rw [line'])
  · rw [State.line_commit]
    change (z.line n).ev.bits.getLsbD 8 = true
    rw [ev, line']
    simp [EventWord.raise, bitWord]
  · rw [State.line_commit]
    change (z.line n).link = _
    rw [stays (by rw [← Bool.not_eq_true, test]; exact no), line', line]
  · exact (leaves (test.mpr yes)).later (by rw [State.line_commit]; rfl) List.prefix_rfl

/-- Settles O21: one exit by what becomes of its RECEIPT; a sweep, a push and the removal of an entry come to such an exit. -/
theorem receiveCriticalEnds : Obligations.ReceiveCriticalEnds := by
  unfold Obligations.ReceiveCriticalEnds
  intro test leaves
  have left : ∀ s t n k, LeftCritical t n (s.carrying n) k → leaves s t n k := by
    intro s t n k h
    refine ⟨h.closed, fun open_ => ⟨h.inFlight open_, fun settled waits => ?_, fun settled carries idle => ?_⟩⟩
    · refine h.waits open_ settled (waits.imp_left fun none => ?_)
      rw [← Bool.not_eq_true, State.carrying_iff]
      exact none
    · exact h.sends open_ settled (State.carrying_iff.mpr carries) idle
  refine ⟨fun v s running sweeps fresh due quiet clean => ?_, fun i m s taken named complete number owned => ?_,
    fun n s before e after runs recv split_ kind opened returned others => ?_⟩
  · obtain ⟨t, run, store, exits⟩ := sweep_leaves running sweeps fresh due quiet v clean
    exact ⟨t, run, store, fun n => ⟨(exits n).1, fun yes => left s t n _ ((exits n).2 yes)⟩⟩
  · obtain ⟨t, run, free, calms⟩ := discardMessage_calms taken named complete number owned
    exact ⟨t, run, free, fun n critical few held => calms n ⟨critical, few, held⟩⟩
  · intro k
    obtain ⟨t, run, delivered, store, raised, stays, exits⟩ := deliveryIdle_leaves runs recv split_ kind opened returned others
    exact ⟨t, run, delivered, store, raised, stays, fun yes => left s t n _ (exits yes)⟩

end Sys2Proof.Machine

/-! O59, first part: the sender's check, its pages out and its waits (07 R117, R119, R120, R123, R124). -/

namespace Sys2Proof.Machine

set_option Elab.async false

variable {n : LineId} {p : PumpId} {s t u : State} {f : Fax → Fax}

/-! ## The check -/

/-- The line as the sender's check begins at a rung (07 R120, 05 R91). -/
def Line.checking (r : Nat) (l : Line) : Line :=
  { l with
    grade := { l.grade with rung := r, seedPending := true }
    ev :=
      if l.grade.rung = 0 ∨ l.grade.rung = r then l.ev
      else { l.ev with bits := l.ev.bits ||| 0x0040, tally := l.ev.tally + 1 }
    fax := { l.fax with rung := r, standing := none, expiries := 0 } }

/-- The Choice and its check pattern sent. -/
def State.choiceSent (u : State) (n : LineId) : State :=
  ((u.onLine n fun l =>
      { l with fax := { l.fax with phase := .check, replyTimer := .stopped, work := .patternOut l.fax.rung } }).emit
    (.faxFrame n (.choice (u.line n).fax.asChoice))).emit (.checkPattern n (u.line n).fax.rung (List.replicate (450 * (u.line n).fax.rung) 0x00))

theorem State.sendCheck_eq (u : State) (n : LineId) : u.sendCheck n = u.choiceSent n := by
  have same : (u.onFax n fun x => { x with phase := .check, work := .patternOut (u.line n).fax.rung, replyTimer := .stopped }) =
      u.onLine n fun l => { l with fax := { l.fax with phase := .check, replyTimer := .stopped, work := .patternOut l.fax.rung } } :=
    State.onLine_congr rfl
  rw [State.choiceSent, ← same]
  rfl

theorem State.faxRung_eq (s : State) (n : LineId) (r : Nat) : s.faxRung n r = s.onLine n fun l =>
    { l with
      grade := { l.grade with rung := r, seedPending := true }
      ev :=
        if l.grade.rung = 0 ∨ l.grade.rung = r then l.ev
        else { l.ev with bits := l.ev.bits ||| 0x0040, tally := l.ev.tally + 1 } } := by
  rw [State.faxRung]
  by_cases same : (s.line n).grade.rung = 0 ∨ (s.line n).grade.rung = r
  · refine (if_pos same).trans (State.onLine_congr ?_)
    rw [if_pos same]
  · refine (if_neg same).trans ?_
    rw [State.raise, State.onGrade, State.onLine_onLine]
    refine State.onLine_congr ?_
    rw [if_neg same]
    rfl

theorem State.beginCheck_eq (u : State) (n : LineId) (r : Nat) : u.beginCheck n r = (u.onLine n (Line.checking r)).choiceSent n := by
  have begun : (u.faxRung n r).onFax n (fun f => { f with rung := r, phase := .choice, standing := none, expiries := 0, replyTimer := .stopped }) =
      u.onLine n fun l => { l.checking r with fax := { (l.checking r).fax with phase := .choice, replyTimer := .stopped } } := by
    rw [State.faxRung_eq, State.onFax, State.onLine_onLine]
    rfl
  rw [State.beginCheck, begun, State.sendCheck_eq]
  have line := State.line_onLine_self u n fun l => { l.checking r with fax := { (l.checking r).fax with phase := .choice, replyTimer := .stopped } }
  have line' := State.line_onLine_self u n (Line.checking r)
  rw [State.choiceSent, State.choiceSent, line, line', State.onLine_onLine, State.onLine_onLine]
  rfl

/-- A check begun after a change of the line's session. -/
theorem State.beginCheck_onFax (u : State) (n : LineId) (f : Fax → Fax) (r : Nat) : (u.onFax n f).beginCheck n r =
    ((u.onLine n fun l => { l with fax := f l.fax }).onLine n (Line.checking r)).choiceSent n := State.beginCheck_eq _ n r

/-- A fax call that fails. -/
theorem Faults.of_faxFailed {c : Instr} {d : FailDetail} (run : exec c s = done s (u.faxFailed n d))
    (fax : (s.line n).connectedAs .fax = true) (call : (u.line n).call = (s.line n).call)
    (profile : (u.line n).profile = (s.line n).profile) (fm : (u.line n).fm = (s.line n).fm) (effect : LineEffect n s u) :
    Faults c n .faxFailed d s := by
  have line := State.line_onFax_self u n fun f => { f with failDetail := d }
  have state := Line.state_of_connectedAs fax
  refine Faults.of_done (u := u.onFax n fun f => { f with failDetail := d }) run
    (Line.takesFault_of (Line.inCall_of (st := .connected) (by rw [line, call]; exact state))) ?_ ?_ ?_ (effect.onFax _)
  · rw [line]; exact call
  · rw [line]; exact profile
  · rw [line]; exact fm

theorem min_clamp (k top : Nat) : min (clampNat 1 6 k) top = min (max 1 (min 6 k)) top := by
  rw [clampNat_eq (by decide)]

section
variable (w : s.Works n p) (activity : (s.pump p).activity = .carrying) (holding : (s.pump p).holding = false)
  (fax : (s.line n).connectedAs .fax = true) (role : (s.line n).fax.role = .sender)
include w activity holding fax role

theorem leads_offerFrame {o : Offer} (phase : (s.line n).fax.phase = .offer) : Leads (.offerFrame n o) s
    (((s.onLine n fun l =>
      { l with
        fax :=
          { l.fax with
            offerHeld := none, fine := o.fine && (s.line n).profile.fineResolution
            width := min (min 2 o.width) (s.line n).profile.widthClass, checkAttempts := 0
            rowTime :=
              if o.rowTime = 0 then 0 else if o.rowTime ≤ 5 then 5 else if o.rowTime ≤ 10 then 10
              else if o.rowTime ≤ 20 then 20 else 40 } }).onLine n
        (Line.checking (min (max 1 (min 6 o.maxRung)) (s.line n).profile.faxMaxRung))).choiceSent n) := by
  have sender := State.faxAs_of w activity holding fax role
  have run : exec (.offerFrame n o) s = done s (s.offerReceived n o) := rfl
  have elsewhere : ¬((s.line n).call.state = .progress ∧ (s.line n).call.service = .fax ∧ (s.heldPump n).isSome = true) := by
    rintro ⟨progress, -⟩
    simp only [Line.connectedAs, Bool.and_eq_true, decide_eq_true_iff] at fax
    exact absurd (fax.1.symm.trans progress) (by decide)
  have taken : s.offerReceived n o = s.takeOffer n o := by
    rw [State.offerReceived]
    exact (if_neg elsewhere).trans (if_pos ⟨sender, phase⟩)
  rw [taken, State.takeOffer, State.beginCheck_onFax] at run
  have rung : min (offerClamped o).maxRung (s.line n).profile.faxMaxRung = min (max 1 (min 6 o.maxRung)) (s.line n).profile.faxMaxRung := min_clamp ..
  rw [rung] at run
  refine Leads.of_done run (congrArg State.uncounted ?_)
  rw [State.onLine_onLine, State.onLine_onLine, State.choiceSent, State.choiceSent, State.line_onLine_self, State.line_onLine_self,
    State.onLine_onLine, State.onLine_onLine]
  rfl

theorem leads_checkPatternSent {r : Nat} (work : (s.line n).fax.work = .patternOut r) : Leads (.checkPatternSent n) s
    (s.onLine n fun l =>
      { l with fax := { l.fax with work := .none, standing := some (.choice l.fax.asChoice), replyTimer := .running 3000 } }) := by
  have sender := State.faxAs_of w activity holding fax role
  have run : exec (.checkPatternSent n) s = done s (s.patternSent n) := rfl
  rw [State.patternSent, if_pos sender, work] at run
  exact Leads.of_done run rfl

section
variable (phase : (s.line n).fax.phase = .check) (standing : (s.line n).fax.standing.isSome = true)
include phase standing

theorem State.awaitsReady_of : s.awaitsReady n = true := by
  rw [State.awaitsReady, State.faxAs_of w activity holding fax role, phase, standing]
  rfl

theorem exec_readyFrame : exec (.readyFrame n) s = done s ((s.onFax n fun x => { x with checkAttempts := 0 }).sendPage n) := by
  have run : exec (.readyFrame n) s = done s (s.ready n) := rfl
  rw [run, State.ready, if_pos (State.awaitsReady_of w activity holding fax role phase standing)]

theorem leads_readyFrame_page {g : Page} {rest : List Page} (pages : (s.line n).fax.pages = g :: rest) : Leads (.readyFrame n) s
    ((s.onLine n fun l =>
      { l with
        fax := { l.fax with phase := .page, standing := none, replyTimer := .stopped, work := .pageOut, checkAttempts := 0 } }).emit
      (.pageRows n (s.line n).fax.rung ((s.store.pageRows g.chain).map fun row =>
        (row, (3 * (s.line n).fax.rung * (s.line n).fax.rowTime + 9) / 10 - row.length)))) := by
  have run := exec_readyFrame w activity holding fax role phase standing
  have line := State.line_onFax_self s n fun x => { x with checkAttempts := 0 }
  rw [State.sendPage, line] at run
  dsimp only at run
  rw [pages] at run
  rw [State.onFax, State.onFax, State.onLine_onLine] at run
  exact Leads.of_done run rfl

theorem leads_readyFrame_none (pages : (s.line n).fax.pages = []) : Leads (.readyFrame n) s
    ((s.onLine n fun l =>
      { l with
        fax := { l.fax with phase := .release, standing := none, replyTimer := .stopped, work := .releaseOut, checkAttempts := 0 } }).emit
      (.faxFrame n .release)) := by
  have run := exec_readyFrame w activity holding fax role phase standing
  have line := State.line_onFax_self s n fun x => { x with checkAttempts := 0 }
  rw [State.sendPage, line] at run
  dsimp only at run
  rw [pages] at run
  rw [State.beginRelease, State.onFax, State.onFax, State.onLine_onLine] at run
  exact Leads.of_done run rfl

theorem exec_notReadyFrame : exec (.notReadyFrame n) s = done s (if (s.line n).fax.checkAttempts = 0 then
      (s.onFax n fun f => { f with checkAttempts := 1 }).beginCheck n (s.line n).fax.rung
    else if 1 < (s.line n).fax.rung then (s.onFax n fun f => { f with checkAttempts := 0 }).beginCheck n ((s.line n).fax.rung - 1)
    else s.faxFailed n .training) := by
  have run : exec (.notReadyFrame n) s = done s (s.notReady n) := rfl
  rw [run, State.notReady, if_pos (State.awaitsReady_of w activity holding fax role phase standing)]

theorem leads_notReady_again (first : (s.line n).fax.checkAttempts = 0) : Leads (.notReadyFrame n) s
    (((s.onLine n fun l => { l with fax := { l.fax with checkAttempts := 1 } }).onLine n (Line.checking (s.line n).fax.rung)).choiceSent n) := by
  have run := exec_notReadyFrame w activity holding fax role phase standing
  rw [if_pos first, State.beginCheck_onFax] at run
  exact Leads.of_done run rfl

theorem leads_notReady_lower (second : (s.line n).fax.checkAttempts ≠ 0) (above : 1 < (s.line n).fax.rung) : Leads (.notReadyFrame n) s
    (((s.onLine n fun l => { l with fax := { l.fax with checkAttempts := 0 } }).onLine n
      (Line.checking ((s.line n).fax.rung - 1))).choiceSent n) := by
  have run := exec_notReadyFrame w activity holding fax role phase standing
  rw [if_neg second, if_pos above, State.beginCheck_onFax] at run
  exact Leads.of_done run rfl

theorem faults_notReady (second : (s.line n).fax.checkAttempts ≠ 0) (lowest : (s.line n).fax.rung ≤ 1) :
    Faults (.notReadyFrame n) n .faxFailed .training s := by
  have run := exec_notReadyFrame w activity holding fax role phase standing
  rw [if_neg second, if_neg (Nat.not_lt.mpr lowest)] at run
  exact Faults.of_faxFailed run fax rfl rfl rfl .refl

end

end

end Sys2Proof.Machine

/-! O59, second part: a page sent, the sender's waits and its first BAD (07 R117, R123, R124, R128, R129). -/

namespace Sys2Proof.Machine

set_option Elab.async false

variable {n : LineId} {p : PumpId} {s t u : State} {f : Fax → Fax}

/-! ## A page sent -/

theorem Fax.lastNow_cons {f : Fax} {g : Page} {rest : List Page} (pages : f.pages = g :: rest) :
    f.lastNow = (g.lastOfDocument || rest.isEmpty) := by
  rw [Fax.lastNow, pages]
  cases rest with
  | nil => exact (Bool.or_true _).symm
  | cons h rest => exact (Bool.or_false _).symm

/-- The head page sent, its MORE or LAST following it, as the sender's session counts it. -/
def Fax.pageOut (f : Fax) (count cuts : Nat) (g : Page) (rest : List Page) (last : Bool) : Fax :=
  { f with
    pageCount := count, work := .none, sentLast := last, phase := .post, standing := some (if last then .last else .more), expiries := 0
    replyTimer := .running 3000
    pages := if (f.resendPending && !g.resent) = true then { g with resent := true } :: rest else f.pages
    orders := f.orders.map fun o =>
      if o.card = g.card then
        { o with cutShort := o.cutShort + cuts, resent := if (f.resendPending && !g.resent) = true then o.resent + 1 else o.resent }
      else o }

section
variable (w : s.Works n p) (activity : (s.pump p).activity = .carrying) (holding : (s.pump p).holding = false)
  (fax : (s.line n).connectedAs .fax = true) (role : (s.line n).fax.role = .sender)
include w activity holding fax role

theorem leads_pageSent {g : Page} {rest : List Page} (pages : (s.line n).fax.pages = g :: rest) (work : (s.line n).fax.work = .pageOut)
    {last : Bool} (isLast : last = (g.lastOfDocument || rest.isEmpty)) :
    ∃ count, ((s.line n).fax.pageCount < 65535 → count = (s.line n).fax.pageCount + 1) ∧ Leads (.pageSent n) s
      ((s.onLine n fun l => { l with fax := l.fax.pageOut count (s.store.pageCuts g.chain) g rest last }).draw.emit
        (.faxFrame n (if last then .last else .more))) := by
  have sender := State.faxAs_of w activity holding fax role
  have run : exec (.pageSent n) s = done s (s.pageSent n) := rfl
  rw [State.pageSent, if_pos ⟨sender, work⟩, pages] at run
  dsimp only at run
  rw [Fax.lastNow_cons pages, ← isLast] at run
  refine ⟨s.bump n 0 (s.line n).fax.pageCount, fun few => if_pos few, Leads.of_done run (congrArg State.uncounted ?_)⟩
  have sent : s.onLine n (fun l => { l with fax := l.fax.pageOut (s.bump n 0 (s.line n).fax.pageCount) (s.store.pageCuts g.chain) g rest last }) =
      (((s.onFaxOrder n g.card fun o =>
          { o with
            cutShort := o.cutShort + s.store.pageCuts g.chain
            resent := if ((s.line n).fax.resendPending && !g.resent) = true then o.resent + 1 else o.resent }).onFax n fun f =>
        { f with
          pageCount := s.bump n 0 f.pageCount
          pages := if ((s.line n).fax.resendPending && !g.resent) = true then { g with resent := true } :: f.pages.tail else f.pages }).onFax n
        fun f => { f with work := .none, sentLast := last }).onFax n
        fun f => { f with phase := .post, standing := some (if last then .last else .more), expiries := 0, replyTimer := faxReply } := by
    rw [State.onFaxOrder, State.onFax, State.onFax, State.onFax, State.onFax, State.onLine_onLine, State.onLine_onLine, State.onLine_onLine]
    refine State.onLine_congr ?_
    simp only [Fax.pageOut, pages, List.tail_cons]
    rfl
  rw [sent]
  rfl

/-! ## The sender's wait -/

end

theorem exec_faxReplyExpiry (role : (s.line n).fax.role ≠ .none) (runs : (s.line n).fax.replyTimer.isRunning = true) :
    exec (.faxReplyExpiry n) s = done s (s.faxExpiry n) := by
  have run : exec (.faxReplyExpiry n) s = done s (if (s.line n).fax.role ≠ .none ∧ (s.line n).fax.replyTimer.isRunning = true then
      s.faxExpiry n else s) := rfl
  rw [run, if_pos ⟨role, runs⟩]

/-- One expiry more of the present wait. -/
def State.expired (s : State) (n : LineId) : State :=
  s.onLine n fun l => { l with fax := { l.fax with expiries := l.fax.expiries + 1, replyTimer := .running 3000 } }

theorem State.faxExpiry_repeats (carries : s.carrying n = true) (few : (s.line n).fax.expiries < 3) :
    ((s.line n).fax.standing = none → s.faxExpiry n = s.expired n) ∧
    (∀ c, (s.line n).fax.standing = some (.choice c) → s.faxExpiry n = (s.expired n).choiceSent n) ∧
    ∀ x, (s.line n).fax.standing = some x → (∀ c, x ≠ .choice c) → s.faxExpiry n = (s.expired n).emit (.faxFrame n x) := by
  have line := State.line_onLine_self s n fun l =>
    { l with fax := { l.fax with expiries := l.fax.expiries + 1, replyTimer := .running 3000 } }
  have carrying : (s.expired n).carrying n = true := by
    rw [← carries]
    exact State.carrying_congr (by rw [State.expired, line]) rfl
  have standing : ((s.expired n).line n).fax.standing = (s.line n).fax.standing := by rw [State.expired, line]
  have repeats : s.faxExpiry n = (s.expired n).repeatStanding n := if_pos few
  rw [repeats, State.repeatStanding, if_pos carrying, standing]
  refine ⟨fun none_ => by rw [none_], fun c some_ => ?_, fun x some_ other => ?_⟩
  · rw [some_]
    exact State.sendCheck_eq _ n
  · rw [some_]
    cases x with
    | choice c => exact absurd rfl (other c)
    | _ => rfl

theorem State.faxExpiry_fails (many : 3 ≤ (s.line n).fax.expiries)
    (holds : ¬((s.line n).fax.role = .receiver ∧ (s.line n).fax.phase = .release)) : s.faxExpiry n = s.faxFailed n .noReply := by
  rw [State.faxExpiry]
  exact (if_neg (Nat.not_lt.mpr many)).trans (if_neg holds)

theorem State.faxExpiry_clears (many : 3 ≤ (s.line n).fax.expiries)
    (release : (s.line n).fax.role = .receiver ∧ (s.line n).fax.phase = .release) : s.faxExpiry n = s.clearDecision n .localCleared := by
  rw [State.faxExpiry]
  exact (if_neg (Nat.not_lt.mpr many)).trans (if_pos release)

/-! ## Verdicts -/

section
variable (w : s.Works n p) (activity : (s.pump p).activity = .carrying) (holding : (s.pump p).holding = false)
  (fax : (s.line n).connectedAs .fax = true) (role : (s.line n).fax.role = .sender) (phase : (s.line n).fax.phase = .post)
include w activity holding fax role phase

/-- The verdict shown, PAGE raised. -/
def State.verdictShown (s : State) (n : LineId) (v : Verdict) (rows badRows : Nat) : State :=
  (s.onFax n fun f => { f with lastVerdict := v, lastRows := rows, lastBadRows := badRows, standing := none, replyTimer := .stopped }).raise n .page

theorem exec_verdictFrame (v : SentVerdict) (rows badRows : Nat) : exec (.verdictFrame n v rows badRows) s =
    done s ((s.verdictShown n (verdictOf v) rows badRows).actOnVerdict n v) := by
  have sender := State.faxAs_of w activity holding fax role
  have run : exec (.verdictFrame n v rows badRows) s = done s (s.verdictReceived n v rows badRows) := rfl
  rw [run, State.verdictReceived, if_pos ⟨sender, phase⟩]
  rfl

theorem leads_firstBad (rows badRows : Nat) (first : (s.line n).fax.resendPending = false) : Leads (.verdictFrame n .bad rows badRows) s
    (((s.onLine n fun l =>
      { l with
        fax :=
          { l.fax with
            lastVerdict := .bad, lastRows := rows, lastBadRows := badRows, replyTimer := .stopped, resendPending := true }
        ev := { l.ev with bits := l.ev.bits ||| 0x0400, tally := l.ev.tally + 1 } }).onLine n
      (Line.checking (max 1 ((s.line n).fax.rung - 1)))).choiceSent n) := by
  have run := exec_verdictFrame w activity holding fax role phase .bad rows badRows
  have shown : s.verdictShown n .bad rows badRows = s.onLine n fun l =>
      { l with
        fax := { l.fax with lastVerdict := .bad, lastRows := rows, lastBadRows := badRows, standing := none, replyTimer := .stopped }
        ev := { l.ev with bits := l.ev.bits ||| 0x0400, tally := l.ev.tally + 1 } } := by
    rw [State.verdictShown, State.raise, State.onFax, State.onLine_onLine]
    rfl
  have line := State.line_onLine_self s n fun l =>
    { l with
      fax := { l.fax with lastVerdict := .bad, lastRows := rows, lastBadRows := badRows, standing := none, replyTimer := .stopped }
      ev := { l.ev with bits := l.ev.bits ||| 0x0400, tally := l.ev.tally + 1 } }
  rw [show verdictOf .bad = .bad from rfl, shown, State.actOnVerdict, line] at run
  dsimp only at run
  rw [first, if_neg (by decide), State.beginCheck_onFax] at run
  refine Leads.of_done run (congrArg State.uncounted ?_)
  rw [State.onLine_onLine, State.onLine_onLine, State.onLine_onLine, State.choiceSent, State.choiceSent, State.line_onLine_self,
    State.line_onLine_self, State.onLine_onLine, State.onLine_onLine]
  rfl

end

end Sys2Proof.Machine

/-! O59, third part: the final verdict on a page (07 R128, R129). -/

namespace Sys2Proof.Machine

set_option Elab.async false

variable {n : LineId} {p : PumpId} {s t u x y z : State} {g : Page} {rest : List Page} {v : Verdict}

/-! ## The head page leaves the Page List -/

/-- What a final verdict leaves (07 R128, R129). -/
structure PageJudged (n : LineId) (v : Verdict) (g : Page) (rest : List Page) (y z : State) : Prop where
  effect : LineEffect n y z
  store : z.store = (g.chain.map Prod.fst).foldl Store.release y.store
  fax : ∃ orders, (z.line n).fax = { (y.line n).fax with pages := rest, resendPending := false, orders := orders }
  answered : ∀ x, (y.line n).fax.orders.find? (fun o : FaxOrder => o.card == g.card) = some x → (∀ q ∈ rest, q.card ≠ g.card) →
    x.cutShort ≤ 255 → g.card < (y.line n).table.cards.length →
    State.Answered (.line n) g.card .done 0 0 (FaxOrder.fields { x with verdicts := x.verdicts.set g.index v } (y.line n).fax) y z

/-- The verdict entered in the order of its page. -/
def FaxOrder.judged (g : Page) (v : Verdict) (o : FaxOrder) : FaxOrder :=
  if o.card = g.card then { o with verdicts := o.verdicts.set g.index v } else o

theorem FaxOrder.card_judged (g : Page) (v : Verdict) (o : FaxOrder) : (o.judged g v).card = o.card := by
  unfold FaxOrder.judged
  split <;> rfl

theorem FaxOrder.find_judged {os : List FaxOrder} {o : FaxOrder} (found : os.find? (fun o => o.card == g.card) = some o) :
    (os.map (FaxOrder.judged g v)).find? (fun o => o.card == g.card) = some { o with verdicts := o.verdicts.set g.index v } := by
  have card : o.card = g.card := by simpa using List.find?_some found
  have same : ((fun o : FaxOrder => o.card == g.card) ∘ FaxOrder.judged g v) = fun o => o.card == g.card := by
    funext o
    simp only [Function.comp_apply, FaxOrder.card_judged]
  rw [List.find?_map, same, found, Option.map_some, FaxOrder.judged, if_pos card]

/-- The head page gone from the Page List, its blocks free, its order not yet looked at. -/
def State.pageLeft (y : State) (n : LineId) (g : Page) (rest : List Page) (v : Verdict) : State :=
  (y.onFax n fun f => { f with orders := f.orders.map (FaxOrder.judged g v), pages := rest, resendPending := false }).freeBlocks
    (g.chain.map Prod.fst)

theorem State.finalVerdict_eq (pages : (y.line n).fax.pages = g :: rest) (v : Verdict) :
    y.finalVerdict n v = (y.pageLeft n g rest v).answerPagesDone n g.card := by
  rw [State.finalVerdict, pages]
  dsimp only
  rw [State.onFaxOrder, State.onFax, State.onFax, State.onLine_onLine]
  rfl

theorem State.pageLeft_spec (y : State) (n : LineId) (g : Page) (rest : List Page) (v : Verdict) : LineEffect n y (y.pageLeft n g rest v) ∧
    (y.pageLeft n g rest v).store = (g.chain.map Prod.fst).foldl Store.release y.store ∧
    ((y.pageLeft n g rest v).line n).fax =
      { (y.line n).fax with orders := (y.line n).fax.orders.map (FaxOrder.judged g v), pages := rest, resendPending := false } := by
  refine ⟨(LineEffect.refl.onFax _).freeBlocks _, State.store_freeBlocks _ _, ?_⟩
  have fax : ((y.pageLeft n g rest v).line n).fax = ((y.onFax n fun f =>
    { f with orders := f.orders.map (FaxOrder.judged g v), pages := rest, resendPending := false }).line n).fax :=
    (Only.freeBlocks _ n _).of .fax
  rw [fax, State.line_onFax_self]

/-- The answer of an order with no page left. -/
theorem State.answerPagesDone_cases (s : State) (n : LineId) (card : Nat) :
    (((s.line n).fax.pages.any (fun q => q.card == card) = true ∨ (s.line n).fax.orders.find? (fun o => o.card == card) = none) ∧
      s.answerPagesDone n card = s) ∨
    ∃ o, (s.line n).fax.orders.find? (fun o => o.card == card) = some o ∧ s.answerPagesDone n card =
      (s.answerPages n .done 0 o).onFax n fun f => { f with orders := f.orders.filter fun o => o.card != card } := by
  by_cases any : (s.line n).fax.pages.any (fun q => q.card == card) = true
  · exact .inl ⟨.inl any, if_pos any⟩
  · cases found : (s.line n).fax.orders.find? (fun o => o.card == card) with
    | none =>
      refine .inl ⟨.inr rfl, ?_⟩
      rw [State.answerPagesDone, if_neg any, found]
    | some o =>
      refine .inr ⟨o, rfl, ?_⟩
      rw [State.answerPagesDone, if_neg any, found]

theorem State.pageJudged (pages : (y.line n).fax.pages = g :: rest) (v : Verdict) : PageJudged n v g rest y (y.finalVerdict n v) := by
  obtain ⟨effect, store, fax⟩ := y.pageLeft_spec n g rest v
  rw [State.finalVerdict_eq pages]
  generalize y.pageLeft n g rest v = x at *
  have length : (x.line n).table.cards.length = (y.line n).table.cards.length := effect.length_line n
  obtain ⟨why, same⟩ | ⟨o, found, run⟩ := x.answerPagesDone_cases n g.card
  · rw [same]
    refine ⟨effect, store, ⟨_, fax⟩, fun w hw gone _ _ => ?_⟩
    rw [fax] at why
    rcases why with any | none
    · obtain ⟨q, member, card⟩ := List.any_eq_true.mp any
      exact absurd (by simpa using card) (gone q member)
    · exact absurd (none.symm.trans (FaxOrder.find_judged hw)) nofun
  · have card : o.card = g.card := by simpa using List.find?_some found
    have answers : LineEffect n x (x.answerPages n .done 0 o) := LineEffect.refl.answerPages .done 0 o
    have kept : ((x.answerPages n .done 0 o).line n).fax = (x.line n).fax := (Only.answerPages x n .done 0 o).of .fax
    have stored : (x.answerPages n .done 0 o).store = x.store := (Only.answerPages x n .done 0 o).of .store
    have answered : ∀ few fits, _ := fun few fits => State.answered_foldl_answerPages [o] x n .done 0 (List.nodup_singleton _)
      (List.mem_singleton_self o) few fits
    rw [List.foldl_cons, List.foldl_nil] at answered
    rw [run]
    generalize x.answerPages n .done 0 o = z at *
    have line := State.line_onFax_self z n fun f => { f with orders := f.orders.filter fun o => o.card != g.card }
    have last : LineEffect n z (z.onFax n fun f => { f with orders := f.orders.filter fun o => o.card != g.card }) := LineEffect.refl.onFax _
    refine ⟨effect.trans (answers.trans last), stored.trans store, ⟨_, by rw [line, kept, fax]⟩, fun w hw _ few fits => ?_⟩
    rw [fax] at found
    obtain rfl := Option.some.inj ((FaxOrder.find_judged hw).symm.trans found)
    have told := answered few (by rw [card, length]; exact fits)
    rw [card, fax] at told
    exact ((told.before effect.tick).later last (.inl rfl) ((Only.onFax z n _).card g.card))

/-! ## After the verdict -/

/-- What the session shows of its pages and of the last verdict. -/
def Fax.shown (f : Fax) : List Page × Bool × Verdict × Nat × Nat := (f.pages, f.resendPending, f.lastVerdict, f.lastRows, f.lastBadRows)

/-- How a sender goes on when its head page has gone (07 R128). -/
structure GoesOnSending (n : LineId) (x t : State) : Prop where
  effect : LineEffect n x t
  only : Only n [.grade, .ev, .fax, .outputs] x t
  shown : (t.line n).fax.shown = (x.line n).fax.shown
  releases : (x.line n).fax.sentLast = true ∨ (x.line n).fax.retrainPending = false ∧ (x.line n).fax.pages = [] →
    (t.line n).fax.phase = .release ∧ (t.line n).fax.work = .releaseOut ∧ t.outputs.getLast? = some (.faxFrame n .release)
  checks : (x.line n).fax.sentLast = false → (x.line n).fax.retrainPending = true →
    (t.line n).fax.phase = .check ∧ (t.line n).fax.rung = max 1 ((x.line n).fax.rung - 1) ∧
      (t.line n).fax.work = .patternOut (max 1 ((x.line n).fax.rung - 1)) ∧ (t.line n).fax.retrainPending = false ∧
      t.outputs.getLast? = some (.checkPattern n (max 1 ((x.line n).fax.rung - 1))
        (List.replicate (450 * max 1 ((x.line n).fax.rung - 1)) 0x00))
  sends : (x.line n).fax.sentLast = false → (x.line n).fax.retrainPending = false → (x.line n).fax.pages ≠ [] →
    (t.line n).fax.phase = .page ∧ (t.line n).fax.work = .pageOut ∧ (t.line n).fax.rung = (x.line n).fax.rung

theorem State.beginRelease_spec (x : State) (n : LineId) : ((x.beginRelease n).line n).fax =
    { (x.line n).fax with phase := .release, standing := none, replyTimer := .stopped, work := .releaseOut } ∧
    (x.beginRelease n).outputs = x.outputs ++ [.faxFrame n .release] := by
  rw [State.beginRelease]
  refine ⟨?_, rfl⟩
  rw [State.sendFax, State.line_emit, State.line_onFax_self]

theorem Only.sendPage (x : State) (n : LineId) : Only n [.fax, .outputs] x (x.sendPage n) := by
  unfold State.sendPage
  split
  · exact Only.beginRelease x n
  · exact (Only.onFax x n _).trans (Only.emit _ n _)

theorem GoesOnSending.of_release (sent : x.afterVerdict n = x.beginRelease n)
    (why : (x.line n).fax.sentLast = true ∨ (x.line n).fax.retrainPending = false ∧ (x.line n).fax.pages = []) :
    GoesOnSending n x (x.afterVerdict n) := by
  obtain ⟨fax, outputs⟩ := x.beginRelease_spec n
  rw [sent]
  refine ⟨LineEffect.refl.beginRelease, (Only.beginRelease x n).mono, by rw [fax]; rfl, fun _ => ?_, fun open_ retrain => ?_, fun open_ none pages => ?_⟩
  · rw [fax, outputs]
    exact ⟨rfl, rfl, List.getLast?_concat ..⟩
  · rcases why with last | ⟨none, -⟩
    · exact absurd (open_.symm.trans last) (by decide)
    · exact absurd (none.symm.trans retrain) (by decide)
  · rcases why with last | ⟨-, empty⟩
    · exact absurd (open_.symm.trans last) (by decide)
    · exact absurd empty pages

theorem State.afterVerdict_spec (x : State) (n : LineId) : GoesOnSending n x (x.afterVerdict n) := by
  by_cases last : (x.line n).fax.sentLast = true
  · exact .of_release (if_pos last) (.inl last)
  · rw [Bool.not_eq_true] at last
    by_cases retrain : (x.line n).fax.retrainPending = true
    · have run : x.afterVerdict n = (x.onFax n fun f => { f with retrainPending := false }).beginCheck n (rungBelow (x.line n).fax.rung) := by
        rw [State.afterVerdict, if_neg (by rw [last]; decide), if_pos retrain]
      have line := State.line_onFax_self x n fun f => { f with retrainPending := false }
      obtain ⟨-, -, fax, outputs⟩ := State.beginCheck_spec (x.onFax n fun f => { f with retrainPending := false }) n (rungBelow (x.line n).fax.rung)
      rw [line] at fax
      have effect : LineEffect n x ((x.onFax n fun f => { f with retrainPending := false }).beginCheck n (rungBelow (x.line n).fax.rung)) :=
        (LineEffect.refl.onFax _).beginCheck _
      have only : Only n [.grade, .ev, .fax, .outputs] x
          ((x.onFax n fun f => { f with retrainPending := false }).beginCheck n (rungBelow (x.line n).fax.rung)) :=
        (Only.onFax x n _).trans (Only.beginCheck _ n _)
      rw [run]
      generalize (x.onFax n fun f => { f with retrainPending := false }).beginCheck n (rungBelow (x.line n).fax.rung) = t at *
      refine ⟨effect, only, by rw [fax]; rfl, fun why => ?_, fun _ _ => ?_, fun _ none => absurd (none.symm.trans retrain) (by decide)⟩
      · rcases why with sent | ⟨none, -⟩
        · exact absurd (last.symm.trans sent) (by decide)
        · exact absurd (none.symm.trans retrain) (by decide)
      · refine ⟨by rw [fax], by rw [fax]; rfl, by rw [fax]; rfl, by rw [fax], ?_⟩
        rw [outputs, List.getLast?_append]
        rfl
    · rw [Bool.not_eq_true] at retrain
      have run : x.afterVerdict n = x.sendPage n := by
        rw [State.afterVerdict, if_neg (by rw [last]; decide), if_neg (by rw [retrain]; decide)]
      cases pages : (x.line n).fax.pages with
      | nil => exact .of_release (by rw [run, State.sendPage, pages]) (.inr ⟨retrain, pages⟩)
      | cons g rest =>
        have fax : ((x.sendPage n).line n).fax =
            { (x.line n).fax with phase := .page, standing := none, replyTimer := .stopped, work := .pageOut } := by
          rw [State.sendPage, pages]
          dsimp only
          rw [State.line_emit, State.line_onFax_self]
        rw [run]
        refine ⟨LineEffect.refl.sendPage, (Only.sendPage x n).mono, by rw [fax]; rfl, fun why => ?_,
          fun _ yes => absurd (retrain.symm.trans yes) (by decide), fun _ _ _ => ?_⟩
        · rcases why with sent | ⟨-, empty⟩
          · exact absurd (last.symm.trans sent) (by decide)
          · exact absurd (pages.symm.trans empty) (List.cons_ne_nil _ _)
        · rw [fax]
          exact ⟨rfl, rfl, rfl⟩

end Sys2Proof.Machine

/-! O59, fourth part: the verdict that lets a page go (07 R128, R129). -/

namespace Sys2Proof.Machine

set_option Elab.async false

variable {n : LineId} {p : PumpId} {s t u x y z : State} {g : Page} {rest : List Page} {i : Fin 8}

/-- The head page gone with its verdict, a retrain wanted where the verdict was not GOOD. -/
def State.pageDone (y : State) (n : LineId) (v : SentVerdict) : State :=
  (y.finalVerdict n (verdictOf v)).onFax n fun f => { f with retrainPending := f.retrainPending || decide (v ≠ .good) }

theorem State.pageDone_retrain {v : SentVerdict} (other : v ≠ .good) (y : State) (n : LineId) :
    (y.finalVerdict n (verdictOf v)).onFax n (fun f => { f with retrainPending := true }) = y.pageDone n v := by
  rw [State.pageDone, State.onFax, State.onFax]
  refine State.onLine_congr ?_
  simp only [decide_eq_true other, Bool.or_true]

theorem State.pageDone_good (y : State) (n : LineId) : y.finalVerdict n .good = y.pageDone n .good := by
  rw [State.pageDone, State.onFax]
  refine ((y.finalVerdict n .good).onLine_id n).symm.trans (State.onLine_congr ?_)
  simp

theorem State.actOnVerdict_final {v : SentVerdict} (final : v ≠ .bad ∨ (y.line n).fax.resendPending = true) :
    y.actOnVerdict n v = (y.pageDone n v).afterVerdict n := by
  cases v with
  | good => exact congrArg (fun x : State => x.afterVerdict n) (y.pageDone_good n)
  | goodRetrain => exact congrArg (fun x : State => x.afterVerdict n) (State.pageDone_retrain (v := .goodRetrain) (by decide) y n)
  | bad =>
    have pending := final.resolve_left fun other => other rfl
    rw [State.actOnVerdict, if_pos pending]
    exact congrArg (fun x : State => x.afterVerdict n) (State.pageDone_retrain (v := .bad) (by decide) y n)

section
variable (w : s.Works n p) (activity : (s.pump p).activity = .carrying) (holding : (s.pump p).holding = false)
  (fax : (s.line n).connectedAs .fax = true) (role : (s.line n).fax.role = .sender) (phase : (s.line n).fax.phase = .post)
  (pages : (s.line n).fax.pages = g :: rest)
include w activity holding fax role phase pages

theorem verdictFrame_final {v : SentVerdict} {rows badRows : Nat} (final : v ≠ .bad ∨ (s.line n).fax.resendPending = true) :
    ∃ t, exec (.verdictFrame n v rows badRows) s = .next t ∧ State.Aside n s t ∧ State.Steady s t ∧
      t.store = (g.chain.map Prod.fst).foldl Store.release s.store ∧
      (t.line n).fax.shown = (rest, false, verdictOf v, rows, badRows) ∧ (t.line n).ev.bits.getLsbD 10 = true ∧
      ((s.line n).fax.sentLast = true ∨ ((s.line n).fax.retrainPending || decide (v ≠ .good)) = false ∧ rest = [] →
        (t.line n).fax.phase = .release ∧ (t.line n).fax.work = .releaseOut ∧ t.outputs.getLast? = some (.faxFrame n .release)) ∧
      ((s.line n).fax.sentLast = false → ((s.line n).fax.retrainPending || decide (v ≠ .good)) = true →
        (t.line n).fax.phase = .check ∧ (t.line n).fax.rung = max 1 ((s.line n).fax.rung - 1) ∧
          (t.line n).fax.work = .patternOut (max 1 ((s.line n).fax.rung - 1)) ∧ (t.line n).fax.retrainPending = false ∧
          t.outputs.getLast? = some (.checkPattern n (max 1 ((s.line n).fax.rung - 1))
            (List.replicate (450 * max 1 ((s.line n).fax.rung - 1)) 0x00))) ∧
      ((s.line n).fax.sentLast = false → ((s.line n).fax.retrainPending || decide (v ≠ .good)) = false → rest ≠ [] →
        (t.line n).fax.phase = .page ∧ (t.line n).fax.work = .pageOut ∧ (t.line n).fax.rung = (s.line n).fax.rung) ∧
      ∀ o, (s.line n).fax.orders.find? (fun o : FaxOrder => o.card == g.card) = some o → (∀ q ∈ rest, q.card ≠ g.card) →
        o.cutShort ≤ 255 → g.card < (s.line n).table.cards.length → State.Answered (.line n) g.card .done 0 0
          (FaxOrder.fields { o with verdicts := o.verdicts.set g.index (verdictOf v) } (s.line n).fax) s t := by
  have run := exec_verdictFrame w activity holding fax role phase v rows badRows
  have shown : (s.verdictShown n (verdictOf v) rows badRows).line n = { s.line n with
      fax := { (s.line n).fax with
        lastVerdict := verdictOf v, lastRows := rows, lastBadRows := badRows, standing := none, replyTimer := .stopped }
      ev := (s.line n).ev.raise 10 } := by
    rw [State.verdictShown, State.line_raise_self, State.line_onFax_self]
    rfl
  have before : LineEffect n s (s.verdictShown n (verdictOf v) rows badRows) := (LineEffect.refl.onFax _).raise _
  have store : (s.verdictShown n (verdictOf v) rows badRows).store = s.store := rfl
  generalize s.verdictShown n (verdictOf v) rows badRows = y at *
  rw [State.actOnVerdict_final (by rw [shown]; exact final), State.pageDone] at run
  obtain ⟨effect, released, ⟨orders, left⟩, answered⟩ := State.pageJudged (y := y) (by rw [shown]; exact pages) (verdictOf v)
  generalize y.finalVerdict n (verdictOf v) = z at *
  have line := State.line_onFax_self z n fun f => { f with retrainPending := f.retrainPending || decide (v ≠ .good) }
  have retrain : LineEffect n z (z.onFax n fun f => { f with retrainPending := f.retrainPending || decide (v ≠ .good) }) := LineEffect.refl.onFax _
  have wanted := Only.onFax z n fun f => { f with retrainPending := f.retrainPending || decide (v ≠ .good) }
  generalize z.onFax n (fun f => { f with retrainPending := f.retrainPending || decide (v ≠ .good) }) = x at *
  have faxX : (x.line n).fax = { (s.line n).fax with
      lastVerdict := verdictOf v, lastRows := rows, lastBadRows := badRows, standing := none, replyTimer := .stopped, pages := rest
      resendPending := false, orders := orders, retrainPending := (s.line n).fax.retrainPending || decide (v ≠ .good) } := by
    rw [line, left, shown]
  obtain ⟨last, only, kept, releases, checks, sends⟩ := x.afterVerdict_spec n
  generalize x.afterVerdict n = t at *
  have whole := before.trans (effect.trans (retrain.trans last))
  have up : (y.line n).ev.bits.getLsbD 10 = true := by rw [shown]; simp [EventWord.raise, bitWord]
  have raised := (effect.trans (retrain.trans last)).events.bit up
  have stored : t.store = x.store := only.of .store
  have stored' : x.store = z.store := wanted.of .store
  rw [faxX] at kept releases checks sends
  have same : ∀ m, ((s.commit t).line m).fax = (t.line m).fax := fun m => by rw [State.line_commit]; rfl
  refine ⟨_, run, whole.commit.aside, whole.commit.steady, stored.trans (stored'.trans (released.trans (by rw [store]))), ?_, ?_, ?_, ?_, ?_,
    fun o found gone few fits => ?_⟩
  · rw [same]; exact kept
  · rw [State.line_commit]; exact raised
  · rw [same]; exact releases
  · rw [same]; exact checks
  · rw [same]; exact sends
  · have told := answered o (by rw [shown]; exact found) gone few (by rw [shown]; exact fits)
    rw [shown] at told
    have later := told.later (retrain.trans last) (.inl rfl) ((only.card g.card).trans (wanted.card g.card))
    exact (later.before before.tick).commit

end

end Sys2Proof.Machine

/-! O59, last part: FAX PAGES (07 R122), and the sender's session. -/

namespace Sys2Proof.Machine

set_option Elab.async false

variable {n : LineId} {p : PumpId} {s : State} {i : Fin 8}

/-! ## FAX PAGES -/

/-- FAX PAGES is accepted on an idle line and in an originated fax call (R122). -/
theorem Line.takesPages_iff {l : Line} : l.takesPages = true ↔ l.call.state = .idle ∨
    l.call.direction = .originate ∧ l.call.service = .fax ∧
      l.call.state ∈ [LineState.queued, .seized, .dialling, .progress, .training, .connected] := by
  unfold Line.takesPages
  cases l.call.state <;> simp

section
variable (taken : s.takesCard (.line n) i.val (· == 7) = true)
include taken

theorem exec_faxPages_taken : exec (.faxPages n i) s = done s ((s.taking (.line n) i.val).faxPagesOrder n i.val (s.card (.line n) i.val)) := by
  have dispatch : exec (.faxPages n i) s = execFaxPages n i s := rfl
  rw [dispatch, execFaxPages, takeOrder_taken taken]

theorem faxPages_elsewhere (no : (s.line n).takesPages ≠ true) : ∃ t, exec (.faxPages n i) s = .next t ∧
    State.ShortOrder n i.val .refusedState (s.line n).call.state.code 0 [] (s.line n) s t := by
  have run := exec_faxPages_taken taken
  have takes : ((s.taking (.line n) i.val).line n).takesPages = (s.line n).takesPages := by rw [State.line_taking]; rfl
  rw [State.faxPagesOrder, takes, if_neg no] at run
  exact ⟨_, run, State.shortOrder_refuseState taken⟩

section
variable (takes : (s.line n).takesPages = true)
include takes

theorem faxPages_badCount (bad : (s.card (.line n) i.val).byte 6 = 0 ∨ 8 < (s.card (.line n) i.val).byte 6) :
    ∃ t, exec (.faxPages n i) s = .next t ∧ State.ShortOrder n i.val .badField 6 0 [] (s.line n) s t := by
  have run := exec_faxPages_taken taken
  have same : ((s.taking (.line n) i.val).line n).takesPages = (s.line n).takesPages := by rw [State.line_taking]; rfl
  rw [State.faxPagesOrder, same, if_pos takes, if_pos bad] at run
  exact ⟨_, run, State.shortOrder_same taken .badField 6 0 []⟩

section
variable (least : 1 ≤ (s.card (.line n) i.val).byte 6) (most : (s.card (.line n) i.val).byte 6 ≤ 8)
include least most

theorem faxPages_counted :
    (16 < (s.line n).fax.pages.length + (s.card (.line n) i.val).byte 6 → ∃ t, exec (.faxPages n i) s = .next t ∧
      State.ShortOrder n i.val .refusedFull 0 0 [] (s.line n) s t) ∧
    ((s.line n).fax.pages.length + (s.card (.line n) i.val).byte 6 ≤ 16 →
      (∀ e, s.store.validatePages [] 0 (s.card (.line n) i.val).pageFirsts = .error e → ∃ t, exec (.faxPages n i) s = .next t ∧
        State.ShortOrder n i.val .badChain e.2.test.code 0 (wordBytes e.2.position ++ wordBytes e.1) (s.line n) s t) ∧
      ∀ chains, s.store.validatePages [] 0 (s.card (.line n) i.val).pageFirsts = .ok chains → Leads (.faxPages n i) s
        (((s.taking (.line n) i.val).onStore fun st => st.assignAll (chains.flatMap fun c => c.map Prod.fst) (.send n)).onLine n fun l =>
          { l with
            fax :=
              { l.fax with
                pages := l.fax.pages ++ newPages i.val chains ((s.card (.line n) i.val).byte 7 != 0)
                orders := l.fax.orders ++ [⟨i.val, List.replicate ((s.card (.line n) i.val).byte 6) .none, 0, 0⟩] } })) := by
  have run := exec_faxPages_taken taken
  have same : ((s.taking (.line n) i.val).line n).takesPages = (s.line n).takesPages := by rw [State.line_taking]; rfl
  rw [State.faxPagesOrder, same, if_pos takes, if_neg (by omega), State.fax_line_taking, State.store_taking] at run
  refine ⟨fun full => ?_, fun room => ⟨fun e bad => ?_, fun chains good => ?_⟩⟩
  · rw [if_pos full] at run
    exact ⟨_, run, State.shortOrder_same taken .refusedFull 0 0 []⟩
  · rw [if_neg (by omega), bad] at run
    exact ⟨_, run, State.shortOrder_same taken _ _ 0 _⟩
  · rw [if_neg (by omega), good] at run
    exact Leads.of_done run rfl

end

end

end

/-! ## The sender's session -/

section
variable (w : s.Works n p) (activity : (s.pump p).activity = .carrying) (holding : (s.pump p).holding = false)
  (fax : (s.line n).connectedAs .fax = true) (role : (s.line n).fax.role = .sender)
include w activity holding fax role

theorem sender_replyExpiry (runs : (s.line n).fax.replyTimer.isRunning = true) :
    (3 ≤ (s.line n).fax.expiries → Faults (.faxReplyExpiry n) n .faxFailed .noReply s) ∧
    ((s.line n).fax.expiries < 3 →
      ((s.line n).fax.standing = none → Leads (.faxReplyExpiry n) s (s.expired n)) ∧
      ((s.line n).fax.standing = some .more ∨ (s.line n).fax.standing = some .last →
        ∀ x, (s.line n).fax.standing = some x → Leads (.faxReplyExpiry n) s ((s.expired n).emit (.faxFrame n x))) ∧
      ∀ c, (s.line n).fax.standing = some (.choice c) → Leads (.faxReplyExpiry n) s ((s.expired n).choiceSent n)) := by
  have run := exec_faxReplyExpiry (by rw [role]; decide) runs
  refine ⟨fun many => ?_, fun few => ?_⟩
  · rw [State.faxExpiry_fails many (by rw [role]; rintro ⟨other, -⟩; exact absurd other (by decide))] at run
    exact Faults.of_faxFailed run fax rfl rfl rfl .refl
  · obtain ⟨none_, choice, frame⟩ := State.faxExpiry_repeats (State.carrying_iff.mpr ⟨p, w, activity, holding⟩) few
    refine ⟨fun standing => ?_, fun pageEnd x standing => ?_, fun c standing => ?_⟩
    · rw [none_ standing] at run
      exact Leads.of_done run rfl
    · rw [frame x standing fun c other => by rw [standing, other] at pageEnd; exact pageEnd.elim nofun nofun] at run
      exact Leads.of_done run rfl
    · rw [choice c standing] at run
      exact Leads.of_done run rfl

end

/-- Settles O59: the sender's frames, waits and verdicts one by one, and FAX PAGES by its checks. -/
theorem faxSender : Obligations.FaxSender := by
  refine ⟨fun n p s w activity holding fax role => ?_, fun n i s taken => ?_⟩
  · refine ⟨fun o phase => leads_offerFrame w activity holding fax role phase,
      fun r work => leads_checkPatternSent w activity holding fax role work, fun phase standing => ⟨fun g rest pages => ?_, fun pages => ?_,
        fun first => ?_, fun second above => ?_, fun second lowest => ?_⟩, fun g rest pages => ⟨fun work => ?_, fun v rows badRows phase => ?_⟩,
      fun runs => sender_replyExpiry w activity holding fax role runs⟩
    · exact leads_readyFrame_page w activity holding fax role phase standing pages
    · exact leads_readyFrame_none w activity holding fax role phase standing pages
    · exact leads_notReady_again w activity holding fax role phase standing first
    · exact leads_notReady_lower w activity holding fax role phase standing second above
    · exact faults_notReady w activity holding fax role phase standing second lowest
    · exact leads_pageSent w activity holding fax role pages work rfl
    · refine ⟨fun bad first => ?_, fun final => ?_⟩
      · subst bad
        exact leads_firstBad w activity holding fax role phase rows badRows first
      · obtain ⟨t, run, aside, steady, store, shown, page, releases, checks, sends, answered⟩ :=
          verdictFrame_final w activity holding fax role phase pages (rows := rows) (badRows := badRows) final
        obtain ⟨left, pending, verdict, shownRows, shownBad⟩ : _ ∧ _ ∧ _ ∧ _ ∧ _ := by simpa only [Fax.shown, Prod.mk.injEq] using shown
        exact ⟨t, run, aside, steady, store, left, pending, verdict, shownRows, shownBad, page, releases, checks, sends, answered⟩
  · refine ⟨fun no => faxPages_elsewhere taken (mt Line.takesPages_iff.mp no), fun takes bad => ?_, fun takes least most => ?_⟩
    · exact faxPages_badCount taken (Line.takesPages_iff.mpr takes) bad
    · exact faxPages_counted taken (Line.takesPages_iff.mpr takes) least most

end Sys2Proof.Machine

/-! O60, first part: the receiver's check and its waits (07 R117, R121, R125). -/

namespace Sys2Proof.Machine

set_option Elab.async false

variable {n : LineId} {p : PumpId} {s t u : State} {f : Fax → Fax}

/-! ## The check pattern -/

/-- C of 04 R73, position by position. -/
theorem erroredBytes_eq (r : Nat) (received : List Byte) :
    erroredBytes r received = (List.range (450 * r)).countP fun i => received[i]? != some 0x00 := by
  unfold erroredBytes
  generalize 450 * r = k
  induction k with
  | zero => simp
  | succ k ih =>
    rw [List.range_succ, List.countP_append, ← ih, List.take_add_one]
    cases byte : received[k]? with
    | none =>
      have past := List.getElem?_eq_none_iff.mp byte
      simp [byte]
      omega
    | some b =>
      have less := (List.getElem?_eq_some_iff.mp byte).1
      by_cases zero : b = 0x00
      · simp [byte, zero]
        omega
      · have counted : ((some b).toList.filter fun b => b != 0x00).length = 1 := by
          rw [Option.toList_some, List.filter_singleton, bne_iff_ne.mpr zero]
          rfl
        have other : (some b != some 0x00) = true := by simpa using zero
        rw [List.filter_append, List.length_append, counted, List.countP_singleton, byte, if_pos other]
        omega

theorem checkPasses_iff {errored r g : Nat} : checkPasses errored r g = true ↔ errored * 100 ≤ 450 * r ∧ 24 + 8 * r ≤ g := by
  rw [checkPasses, Bool.and_eq_true, decide_eq_true_iff, decide_eq_true_iff, threshold]

/-- The check over, the wait before it forgotten. -/
def Fax.checkOver (f : Fax) : Fax := { f with work := .none, carrierTimer := .stopped, waitBefore := none }

section
variable (w : s.Works n p) (activity : (s.pump p).activity = .carrying) (holding : (s.pump p).holding = false)
  (fax : (s.line n).connectedAs .fax = true) (role : (s.line n).fax.role = .receiver)
include w activity holding fax role

/-! ## Choices -/

section
variable {c : Choice} (open_ : (s.line n).fax.phase ≠ .none) (going : (s.line n).fax.phase ≠ .release)
include open_ going

theorem exec_choiceFrame : exec (.choiceFrame n c) s = done s (s.takeChoice n c) := by
  have run : exec (.choiceFrame n c) s = done s (s.choiceReceived n c) := rfl
  rw [run, State.choiceReceived, if_pos ⟨State.faxAs_of w activity holding fax role, open_, going⟩]

theorem leads_choiceFrame_above (above : (s.line n).profile.faxMaxRung < c.rung) :
    Leads (.choiceFrame n c) s ((s.onFax n Fax.checkOver).faxStand n .check .notReady) := by
  have run := exec_choiceFrame w activity holding fax role (c := c) open_ going
  rw [State.takeChoice, if_pos above] at run
  exact Leads.of_done run rfl

theorem leads_choiceFrame {before : Option FaxWait} (interrupted : (s.line n).fax.interrupted = before)
    (within : c.rung ≤ (s.line n).profile.faxMaxRung) : Leads (.choiceFrame n c) s (s.onLine n fun l =>
      { l with
        grade := { l.grade with rung := c.rung, seedPending := true }
        ev :=
          if l.grade.rung = 0 ∨ l.grade.rung = c.rung then l.ev
          else { l.ev with bits := l.ev.bits ||| 0x0040, tally := l.ev.tally + 1 }
        fax :=
          { l.fax with
            rung := c.rung, fine := c.fine, rowTime := c.rowTime, width := c.width, phase := .check, standing := none
            replyTimer := .stopped, work := .patternIn c.rung, carrierTimer := .running 3000, waitBefore := before } }) := by
  have run := exec_choiceFrame w activity holding fax role (c := c) open_ going
  rw [State.takeChoice, if_neg (Nat.not_lt.mpr within), State.faxRung_eq, State.onFax, State.onLine_onLine] at run
  refine Leads.of_done run (congrArg State.uncounted (State.onLine_congr ?_))
  rw [← interrupted]
  rfl

end

/-! ## The pattern judged -/

theorem leads_checkPatternResult {r : Nat} {received : List Byte} (work : (s.line n).fax.work = .patternIn r) :
    (erroredBytes r received * 100 ≤ 450 * r ∧ 24 + 8 * r ≤ ((s.line n).grade.acc + 8) / 16 →
      Leads (.checkPatternResult n received) s ((s.onFax n Fax.checkOver).faxStand n .page .ready)) ∧
    (450 * r < erroredBytes r received * 100 ∨ ((s.line n).grade.acc + 8) / 16 < 24 + 8 * r →
      Leads (.checkPatternResult n received) s ((s.onFax n Fax.checkOver).faxStand n .check .notReady)) := by
  have run : exec (.checkPatternResult n received) s = done s (s.patternJudged n received) := rfl
  have line := State.line_onFax_self s n fun f => { f with work := .none, carrierTimer := .stopped, waitBefore := none }
  rw [State.patternJudged, if_pos (State.faxAs_of w activity holding fax role), work] at run
  dsimp only at run
  rw [line] at run
  have value : (s.line n).grade.value = ((s.line n).grade.acc + 8) / 16 := rfl
  dsimp only at run
  rw [value] at run
  refine ⟨fun passes => ?_, fun fails => ?_⟩
  · rw [if_pos (checkPasses_iff.mpr passes)] at run
    exact Leads.of_done run rfl
  · rw [if_neg fun passes => by have := checkPasses_iff.mp passes; omega] at run
    exact Leads.of_done run rfl

/-! ## Waits -/

section
variable {b : FaxWait} (runs : (s.line n).fax.carrierTimer.isRunning = true) (before : (s.line n).fax.waitBefore = some b)
include runs before

/-- The wait before the check, with one expiry more. -/
def State.waitBack (s : State) (n : LineId) (b : FaxWait) : State :=
  (s.onFax n Fax.checkOver).onFax n fun x =>
    { x with phase := b.phase, standing := b.standing, expiries := b.expiries + 1, replyTimer := .running 3000 }

/-- The wait before the check, as it stood. -/
def State.waitAgain (s : State) (n : LineId) (b : FaxWait) : State :=
  s.onFax n fun f => { f.checkOver with phase := b.phase, standing := b.standing, expiries := b.expiries }

omit w activity holding fax role in
theorem exec_carrierWait : exec (.checkCarrierWaitExpiry n) s = done s ((s.waitAgain n b).faxExpiry n) := by
  have run : exec (.checkCarrierWaitExpiry n) s = done s (s.noPattern n) := rfl
  rw [State.noPattern, if_pos runs, before] at run
  exact run

omit w activity holding fax role runs before in
theorem State.expired_waitAgain : (s.waitAgain n b).expired n = s.waitBack n b := by
  rw [State.expired, State.waitAgain, State.waitBack, State.onFax, State.onFax, State.onFax, State.onLine_onLine, State.onLine_onLine]

omit fax role in
theorem leads_carrierWait (few : b.expiries < 3) :
    (b.standing = none → Leads (.checkCarrierWaitExpiry n) s (s.waitBack n b)) ∧
    ∀ x, b.standing = some x → (∀ c, x ≠ .choice c) →
      Leads (.checkCarrierWaitExpiry n) s ((s.waitBack n b).emit (.faxFrame n x)) := by
  have run := exec_carrierWait runs before
  have line : (s.waitAgain n b).line n = { s.line n with
      fax := { (s.line n).fax.checkOver with phase := b.phase, standing := b.standing, expiries := b.expiries } } := State.line_onFax_self ..
  have carrying : (s.waitAgain n b).carrying n = true :=
    (State.carrying_congr (t := s.waitAgain n b) (s := s) (by rw [line]) rfl).trans (w.carries activity holding)
  obtain ⟨none_, -, frame⟩ := State.faxExpiry_repeats carrying (by rw [line]; exact few)
  rw [line, State.expired_waitAgain] at none_ frame
  refine ⟨fun standing => ?_, fun x standing other => ?_⟩
  · rw [none_ standing] at run
    exact Leads.of_done run rfl
  · rw [frame x standing other] at run
    exact Leads.of_done run rfl

omit w activity holding role in
theorem faults_carrierWait (many : 3 ≤ b.expiries) (phase : b.phase ≠ .release) :
    Faults (.checkCarrierWaitExpiry n) n .faxFailed .noReply s := by
  have run := exec_carrierWait runs before
  have line : (s.waitAgain n b).line n = { s.line n with
      fax := { (s.line n).fax.checkOver with phase := b.phase, standing := b.standing, expiries := b.expiries } } := State.line_onFax_self ..
  rw [State.faxExpiry_fails (by rw [line]; exact many) (by rw [line]; exact fun h => phase h.2)] at run
  exact Faults.of_faxFailed run fax (by rw [line]) (by rw [line]) (by rw [line]) (LineEffect.refl.onFax _)

end

section
variable (runs : (s.line n).fax.replyTimer.isRunning = true)
include runs

omit fax in
theorem receiver_expiryRepeats (few : (s.line n).fax.expiries < 3) (other : ∀ c, (s.line n).fax.standing ≠ some (.choice c)) :
    ((s.line n).fax.standing = none → Leads (.faxReplyExpiry n) s (s.expired n)) ∧
    ∀ x, (s.line n).fax.standing = some x → Leads (.faxReplyExpiry n) s ((s.expired n).emit (.faxFrame n x)) := by
  have run := exec_faxReplyExpiry (by rw [role]; decide) runs
  obtain ⟨none_, -, frame⟩ := State.faxExpiry_repeats (State.carrying_iff.mpr ⟨p, w, activity, holding⟩) few
  refine ⟨fun standing => ?_, fun x standing => ?_⟩
  · rw [none_ standing] at run
    exact Leads.of_done run rfl
  · rw [frame x standing fun c e => other c (by rw [standing, e])] at run
    exact Leads.of_done run rfl

omit w activity holding in
theorem receiver_expiryFails (many : 3 ≤ (s.line n).fax.expiries) (phase : (s.line n).fax.phase ≠ .release) :
    Faults (.faxReplyExpiry n) n .faxFailed .noReply s := by
  have run := exec_faxReplyExpiry (by rw [role]; decide) runs
  rw [State.faxExpiry_fails many fun h => phase h.2] at run
  exact Faults.of_faxFailed run fax rfl rfl rfl .refl

omit w activity holding fax in
theorem receiver_expiryClears (many : 3 ≤ (s.line n).fax.expiries) (phase : (s.line n).fax.phase = .release) :
    Clears (.faxReplyExpiry n) n .localCleared s := by
  have run := exec_faxReplyExpiry (by rw [role]; decide) runs
  rw [State.faxExpiry_clears many ⟨role, phase⟩] at run
  exact Clears.of_done run rfl rfl rfl .refl

end

/-! ## The page carrier -/

theorem leads_pageCarrierStart (awaits : (s.line n).fax.phase = .page ∧ (s.line n).fax.work ≠ .pageIn ∨
      (s.line n).fax.phase = .post ∧ (s.line n).fax.judged ≠ none) :
    ∃ count, ((s.line n).fax.pageCount < 65535 → count = (s.line n).fax.pageCount + 1) ∧ Leads (.pageCarrierStart n) s
      (s.onFax n fun x =>
        { x with
          pageCount := count, page := some .empty, judged := none, phase := .page, standing := none, expiries := 0
          replyTimer := .stopped, work := .pageIn }).draw := by
  have waits : (s.line n).fax.awaitsPage = true := by
    rw [Fax.awaitsPage, Bool.or_eq_true, Bool.and_eq_true, Bool.and_eq_true, decide_eq_true_iff, decide_eq_true_iff, decide_eq_true_iff,
      Option.isSome_iff_ne_none]
    exact awaits
  have run : exec (.pageCarrierStart n) s = done s (s.pageStart n) := rfl
  rw [State.pageStart, if_pos ⟨State.faxAs_of w activity holding fax role, waits⟩] at run
  refine ⟨s.bump n 0 (s.line n).fax.pageCount, fun few => if_pos few, Leads.of_done run (congrArg State.uncounted ?_)⟩
  have begun : (s.openPage n).onFax n (fun f =>
      { f with phase := .page, standing := none, expiries := 0, replyTimer := .stopped, work := .pageIn }) =
      ((s.onFax n fun f => { f with pageCount := s.bump n 0 f.pageCount, page := some .empty, judged := none }).onFax n fun f =>
        { f with phase := .page, standing := none, expiries := 0, replyTimer := .stopped, work := .pageIn }).draw := rfl
  rw [begun, State.onFax, State.onFax, State.onLine_onLine, State.onFax]
  exact congrArg State.draw (State.onLine_congr rfl)

theorem leads_pageCarrierCease (work : (s.line n).fax.work = .pageIn) : Leads (.pageCarrierCease n) s (s.onFax n fun x =>
    { x with work := .none, phase := .post, standing := none, expiries := 0, replyTimer := .running 3000 }) := by
  have run : exec (.pageCarrierCease n) s = done s (s.pageEnd n) := rfl
  rw [State.pageEnd, if_pos ⟨State.faxAs_of w activity holding fax role, work⟩, State.faxWait, State.onFax, State.onFax,
    State.onLine_onLine] at run
  exact Leads.of_done run rfl

end

end Sys2Proof.Machine

/-! O60, second part: the rows of a page (07 R125, R126). -/

namespace Sys2Proof.Machine

set_option Elab.async false

variable {n : LineId} {s t u x y : State} {g h : OpenPage} {k c : Nat} {rest : List Nat} {damaged : Bool} {row : List Byte}

/-! ## Counting -/

theorem pageRecord_eq (damaged : Bool) (row : List Byte) : pageRecord damaged row =
    wordBytes (min row.length 1014 + if (damaged || decide (1014 < row.length)) = true then 32768 else 0) ++ row.take 1014 := by
  rw [pageRecord, rowRecord, List.length_take, Nat.min_comm]

/-- The open page with a row more, bad or not. -/
def OpenPage.counted (g : OpenPage) (bad gone : Bool) (rows badRows : Nat) : OpenPage :=
  { g with
    rows := rows, badRows := badRows, run := if bad = true then g.run + 1 else 0, discarded := gone
    longest := if bad = true then max g.longest (g.run + 1) else g.longest }

/-- What `rows` and `badRows` are after one row more. -/
def OpenPage.Counts (g : OpenPage) (bad : Bool) (rows badRows : Nat) : Prop :=
  (g.rows < 65535 → rows = g.rows + 1) ∧ if bad = true then g.badRows < 65535 → badRows = g.badRows + 1 else badRows = g.badRows

/-- The session with its open page. -/
def State.withPage (x : State) (n : LineId) (g : OpenPage) : State := x.onFax n fun f => { f with page := some g }

theorem State.countRow_eq (page : (x.line n).fax.page = some g) (bad : Bool) : ∃ a b, g.Counts bad a b ∧
    x.countRow n bad = (x.withPage n (g.counted bad g.discarded a b)).draw := by
  refine ⟨x.bump n 2 g.rows, if bad = true then x.bump n 3 g.badRows else g.badRows, ⟨fun few => if_pos few, ?_⟩, ?_⟩
  · cases bad with
    | true => exact fun few => if_pos few
    | false => rfl
  · rw [State.countRow, State.withPage, State.onFax, State.onFax]
    refine congrArg State.draw (State.onLine_congr ?_)
    rw [page]
    rfl

/-! ## Rows stored -/

section
variable (fax : s.faxAs n .receiver = true) (work : (s.line n).fax.work = .pageIn) (page : (s.line n).fax.page = some g)
include fax work page

/-- The row of a page discarded before. -/
theorem leads_pageRow_gone (gone : g.discarded = true) : ∃ a b, g.Counts (damaged || decide (1014 < row.length) || false) a b ∧
    Leads (.pageRow n damaged row) s
      (s.withPage n (g.counted (damaged || decide (1014 < row.length) || false) true a b)).draw := by
  have run := exec_pageRow (damaged := damaged) (row := row) fax work
  have left : (s.line n).fax.pageGone = true := by rw [Fax.pageGone, page]; exact gone
  have stored : s.storeRow n (pageRecord damaged row) = (s, false) := by rw [State.storeRow, if_pos left]
  obtain ⟨a, b, counts, counted⟩ := State.countRow_eq page (damaged || decide (1014 < row.length) || false)
  rw [stored, counted, gone] at run
  exact ⟨a, b, counts, Leads.of_done run rfl⟩

section
variable (stands : g.discarded = false)
include stands

/-- The RECV block has room for the record. -/
theorem leads_pageRow_fits (recv : (s.line n).recvBlock = some k)
    (room : s.store.fill k + (pageRecord damaged row).length ≤ 1016) :
    ∃ a b, g.Counts (damaged || decide (1014 < row.length) || false) a b ∧ Leads (.pageRow n damaged row) s
      ((s.onStore fun st => st.append k (pageRecord damaged row)).withPage n
        (g.counted (damaged || decide (1014 < row.length) || false) false a b)).draw := by
  have run := exec_pageRow (damaged := damaged) (row := row) fax work
  have gone := Fax.pageGone_false page stands rfl
  have roomy : s.rowRoom n (pageRecord damaged row).length = s := by rw [State.rowRoom, recv]; exact if_pos room
  have stored : s.storeRow n (pageRecord damaged row) = (s.onStore fun st => st.append k (pageRecord damaged row), false) := by
    simp only [State.storeRow, gone, roomy, recv, Bool.false_eq_true, if_false]
  obtain ⟨a, b, counts, counted⟩ := State.countRow_eq (x := s.onStore fun st => st.append k (pageRecord damaged row)) (n := n) page
    (damaged || decide (1014 < row.length) || false)
  rw [stored] at run
  dsimp only at run
  rw [counted, stands] at run
  exact ⟨a, b, counts, Leads.of_done run rfl⟩

/-- No block for the row. -/
theorem leads_pageRow_lost (recv : (s.line n).recvBlock = none) (free : s.store.free = []) :
    ∃ a b, g.Counts (damaged || decide (1014 < row.length) || true) a b ∧ Leads (.pageRow n damaged row) s
      (s.onLine n fun l =>
        { l with
          fax := { l.fax with page := some (g.counted (damaged || decide (1014 < row.length) || true) false a b) }
          ev := { l.ev with bits := l.ev.bits ||| 0x2000, tally := l.ev.tally + 1 } }).draw := by
  have run := exec_pageRow (damaged := damaged) (row := row) fax work
  have line := State.line_raise_self s n .poolDry
  obtain ⟨a, b, counts, counted⟩ := State.countRow_eq (x := s.raise n .poolDry) (n := n) (by rw [line]; exact page)
    (damaged || decide (1014 < row.length) || true)
  rw [State.storeRow_lost page stands recv free] at run
  dsimp only at run
  rw [counted, stands, State.withPage, State.onFax, State.raise, State.onLine_onLine] at run
  exact ⟨a, b, counts, Leads.of_done run rfl⟩

end

end

/-- What a row stored in a block begun for it leaves. -/
structure RowBegun (n : LineId) (c : Nat) (rest : List Nat) (record : List Byte) (y t : State) : Prop where
  free : t.store.free = rest
  owners : t.store.owners = y.store.owners.set c (.recv n)
  recv : (t.line n).recvBlock = some c
  fill : t.store.fill c = record.length
  payload : ∀ i (h : i < record.length), t.store.payload c i = record[i]
  delivered : (t.line n).delivered = (y.line n).delivered
  linked : ∀ e, (y.line n).openEntry .page = some e → e.last ≠ c → y.store.owners[e.last]? = some (.deliv n) → t.store.next e.last = c

theorem RowBegun.of_begun {record : List Byte} (begun : State.Begun y n .page c rest u) (short : record.length ≤ 1016) (h : OpenPage) :
    RowBegun n c rest record y (s.commit ((u.onStore fun st => st.append c record).withPage n h).draw) ∧
    ((s.commit ((u.onStore fun st => st.append c record).withPage n h).draw).line n).fax = { (y.line n).fax with page := some h } := by
  have fits : u.store.fill c + record.length ≤ 1016 := by rw [begun.fill]; omega
  have line : (((u.onStore fun st => st.append c record).withPage n h).draw).line n =
      { y.line n with recvBlock := some c, fax := { (y.line n).fax with page := some h } } := by
    refine (State.line_onFax_self (u.onStore fun st => st.append c record) n fun f => { f with page := some h }).trans ?_
    rw [State.line_onStore, begun.line]
  have store : (((u.onStore fun st => st.append c record).withPage n h).draw).store = u.store.append c record := rfl
  generalize ((u.onStore fun st => st.append c record).withPage n h).draw = z at *
  have store' : (s.commit z).store = u.store.append c record := store
  refine ⟨⟨?_, ?_, ?_, ?_, fun i less => ?_, ?_, fun e open_ apart held => ?_⟩, ?_⟩
  · rw [store']; exact begun.free
  · rw [store', Store.owners_append]; exact begun.owners
  · have same := congrArg Line.recvBlock line
    rw [State.line_commit]; exact same
  · rw [store', Store.fill_append begun.wf fits, begun.fill, Nat.zero_add]
  · have new := Store.payload_append_new (b := c) begun.wf less
    rw [begun.fill, Nat.zero_add] at new
    rw [store', new]
  · have same := congrArg Line.delivered line
    rw [State.line_commit]; exact same
  · rw [store']
    exact (Store.same_append begun.wf apart fits).next.trans (begun.linked e open_ apart held)
  · have same := congrArg Line.fax line
    rw [State.line_commit]; exact same

section
variable (fax : s.faxAs n .receiver = true) (work : (s.line n).fax.work = .pageIn) (page : (s.line n).fax.page = some g)
  (stands : g.discarded = false) (sound : s.Sound)
include fax work page stands sound

/-- A row stored in a block begun for it, once the RECV block has been delivered or there is none. -/
theorem exec_pageRow_begun (stored : s.storeRow n (pageRecord damaged row) = y.storeRow n (pageRecord damaged row))
    (same : (y.line n).fax = (s.line n).fax) (wf : Memory.wf y.store.mem = true) (recv : (y.line n).recvBlock = none)
    (free : y.store.free = c :: rest) (from_ : s.store.free = c :: rest) :
    ∃ a b t, g.Counts (damaged || decide (1014 < row.length) || false) a b ∧ exec (.pageRow n damaged row) s = .next t ∧
      RowBegun n c rest (pageRecord damaged row) y t ∧
      (t.line n).fax =
        { (s.line n).fax with page := some (g.counted (damaged || decide (1014 < row.length) || false) false a b) } := by
  have run := exec_pageRow (damaged := damaged) (row := row) fax work
  have short : (pageRecord damaged row).length ≤ 1016 := by
    have length : (pageRecord damaged row).length = 2 + min row.length 1014 := length_rowRecord _ row
    omega
  obtain ⟨u, pop, begun⟩ := State.popRecv_eq (n := n) wf (sound.lt_of_free (by rw [from_]; exact List.mem_cons_self)) free .page .rows
  rw [stored, State.storeRow_begun (s := y) (g := g) (by rw [same]; exact page) stands recv pop begun] at run
  dsimp only at run
  obtain ⟨a, b, counts, counted⟩ := State.countRow_eq (x := u.onStore fun st => st.append c (pageRecord damaged row)) (n := n)
    (g := g) (by rw [State.line_onStore, begun.line]; exact (congrArg Fax.page same).trans page)
    (damaged || decide (1014 < row.length) || false)
  rw [counted, stands] at run
  obtain ⟨row_, fax'⟩ := RowBegun.of_begun (s := s) begun short
    (g.counted (damaged || decide (1014 < row.length) || false) false a b)
  exact ⟨a, b, _, counts, run, row_, by rw [fax', same]⟩

end

end Sys2Proof.Machine

/-! O60, third part: a full RECV block with no entry of its page yet (07 R125, R126). -/

namespace Sys2Proof.Machine

set_option Elab.async false

variable {n : LineId} {s t u x y : State} {g : OpenPage} {k c : Nat} {rest : List Nat} {damaged : Bool} {row : List Byte} {l : Line}

/-! ## The first block of a page delivered -/

/-- Every entry has a block outstanding, and none is an open page's. -/
def Line.NoPageEntry (l : Line) : Prop := ∀ e ∈ l.delivered, e.outstanding ≠ [] ∧ (e.closed = false → e.kind ≠ .page)

/-- The entry of a page by its first block. -/
def Entry.firstOf (k pageNumber : Nat) : Entry := ⟨.page, k, k, 1, [k], 0, 0, .none, pageNumber, false⟩

theorem Line.NoPageEntry.shut (none_ : l.NoPageEntry) : ∀ e ∈ l.delivered, ¬(e.kind = .page ∧ e.closed = false) :=
  fun e member opened => (none_ e member).2 opened.2 opened.1

theorem Line.NoPageEntry.any (none_ : l.NoPageEntry) : l.delivered.any (Entry.isOpen .page) = false :=
  List.any_eq_false.mpr fun e member isOpen => none_.shut e member (Entry.isOpen_iff.mp isOpen)

/-- The line with its RECV block in a new entry. -/
def Line.firstDelivered (k : Nat) (l : Line) : Line :=
  { l with recvBlock := none, delivered := l.delivered ++ [Entry.firstOf k l.fax.pageCount] }

theorem State.deliverPage_first (none_ : (s.line n).NoPageEntry) (recv : (s.line n).recvBlock = some k)
    (room : (s.line n).delivered.length < 16) :
    s.deliverPage n = ((s.onStore fun st => st.assign k (.deliv n)).onLine n (Line.firstDelivered k)).draw := by
  have taken := s.line_recvTaken n
  have shut : ((s.line n).openEntry .page).isSome = false := by rw [Line.openEntry_isSome]; exact none_.any
  have same : ∀ r, ({ s.line n with recvBlock := r } : Line).openEntry .page = (s.line n).openEntry .page := fun _ => rfl
  rw [State.deliverPage_eq recv, if_neg (by rw [taken]; exact fun full => absurd full.2 (Nat.not_le.mpr room)), State.pageJoined]
  have order : (s.recvTaken n).onStore (fun st => st.assign k (.deliv n)) =
      (s.onStore fun st => st.assign k (.deliv n)).onLine n fun l => { l with recvBlock := none } := rfl
  rw [order, State.onOpenEntry, State.onLine_onLine, State.onLine_onLine]
  refine congrArg State.draw (State.onLine_congr ?_)
  rw [State.line_onStore]
  dsimp only
  rw [same, shut, if_neg (by decide), List.map_append, List.map_congr_left fun e member => if_neg (none_.shut e member), List.map_id']
  rfl

theorem Line.openEntry_firstDelivered (none_ : l.NoPageEntry) (k : Nat) :
    (l.firstDelivered k).openEntry .page = some (Entry.firstOf k l.fax.pageCount) := by
  rw [Line.openEntry_eq, Line.firstDelivered, List.find?_append,
    List.find?_eq_none.mpr fun e member isOpen => none_.shut e member (Entry.isOpen_iff.mp isOpen)]
  rfl

theorem State.deliverPage_first_line (none_ : (s.line n).NoPageEntry) (recv : (s.line n).recvBlock = some k)
    (room : (s.line n).delivered.length < 16) :
    (s.deliverPage n).line n = (s.line n).firstDelivered k ∧ (s.deliverPage n).store = s.store.assign k (.deliv n) := by
  rw [State.deliverPage_first none_ recv room]
  refine ⟨?_, rfl⟩
  refine (State.line_onLine_self (s.onStore fun st => st.assign k (.deliv n)) n (Line.firstDelivered k)).trans ?_
  rw [State.line_onStore]

/-! ## Rows that find the RECV block full -/

section
variable (fax : s.faxAs n .receiver = true) (work : (s.line n).fax.work = .pageIn) (page : (s.line n).fax.page = some g)
  (stands : g.discarded = false) (none_ : (s.line n).NoPageEntry) (recv : (s.line n).recvBlock = some k)
  (full : 1016 < s.store.fill k + (pageRecord damaged row).length)
include fax work page stands none_ recv full

theorem pageRow_first (sound : s.Sound) (owned : s.store.owners[k]? = some (.recv n)) (room : (s.line n).delivered.length < 16)
    (free : s.store.free = c :: rest) :
    ∃ a b t, g.Counts (damaged || decide (1014 < row.length) || false) a b ∧ exec (.pageRow n damaged row) s = .next t ∧
      t.store.free = rest ∧ t.store.owners = (s.store.owners.set k (.deliv n)).set c (.recv n) ∧ (t.line n).recvBlock = some c ∧
      (t.line n).delivered = (s.line n).delivered ++ [Entry.firstOf k (s.line n).fax.pageCount] ∧ t.store.next k = c ∧
      t.store.fill c = (pageRecord damaged row).length ∧
      (∀ i (h : i < (pageRecord damaged row).length), t.store.payload c i = (pageRecord damaged row)[i]) ∧
      (t.line n).fax =
        { (s.line n).fax with page := some (g.counted (damaged || decide (1014 < row.length) || false) false a b) } := by
  obtain ⟨line, store⟩ := State.deliverPage_first_line none_ recv room
  have less : k < s.store.owners.length := (List.getElem?_eq_some_iff.mp owned).1
  have apart : k ≠ c := by
    rintro rfl
    have here : s.store.owners[k]? = some .free := (sound.economy.2 k).mp (by rw [free]; exact List.mem_cons_self)
    rw [owned] at here
    exact nomatch here
  have owners : (s.store.assign k (.deliv n)).owners = s.store.owners.set k (.deliv n) := Store.owners_assign _ owned fun e => nomatch e
  have moved : s.storeRow n (pageRecord damaged row) = (s.deliverPage n).storeRow n (pageRecord damaged row) :=
    State.storeRow_delivers page stands recv full ⟨by rw [line]; rfl, by rw [line]; rfl⟩
  obtain ⟨a, b, t, counts, run, begun, fax'⟩ := exec_pageRow_begun (y := s.deliverPage n) fax work page stands sound moved
    (by rw [line]; rfl) (by rw [store]; exact Store.wf_assign sound.canonical _ _) (by rw [line]; rfl)
    (by rw [store, Store.free_assign]; exact free) free
  have linked := begun.linked _ (by rw [line]; exact Line.openEntry_firstDelivered none_ k) apart
    (by rw [store, owners]; exact List.getElem?_set_self less)
  refine ⟨a, b, t, counts, run, begun.free, ?_, begun.recv, ?_, linked, begun.fill, begun.payload, fax'⟩
  · rw [begun.owners, store, owners]
  · rw [begun.delivered, line]; rfl

theorem pageRow_firstDry (room : (s.line n).delivered.length < 16) (free : s.store.free = []) :
    ∃ a b t, g.Counts (damaged || decide (1014 < row.length) || true) a b ∧ exec (.pageRow n damaged row) s = .next t ∧
      t.store = s.store.assign k (.deliv n) ∧ (t.line n).recvBlock = none ∧
      (t.line n).delivered = (s.line n).delivered ++ [Entry.firstOf k (s.line n).fax.pageCount] ∧
      (t.line n).ev = { (s.line n).ev with bits := (s.line n).ev.bits ||| 0x2000, tally := (s.line n).ev.tally + 1 } ∧
      (t.line n).fax =
        { (s.line n).fax with page := some (g.counted (damaged || decide (1014 < row.length) || true) false a b) } := by
  have run := exec_pageRow (damaged := damaged) (row := row) fax work
  obtain ⟨line, store⟩ := State.deliverPage_first_line none_ recv room
  rw [State.storeRow_delivers page stands recv full ⟨by rw [line]; rfl, by rw [line]; rfl⟩] at run
  generalize s.deliverPage n = y at *
  rw [State.storeRow_lost (s := y) (g := g) (by rw [line]; exact page) stands (by rw [line]; rfl)
    (by rw [store, Store.free_assign]; exact free)] at run
  dsimp only at run
  have raised := State.line_raise_self y n .poolDry
  obtain ⟨a, b, counts, counted⟩ := State.countRow_eq (x := y.raise n .poolDry) (n := n) (g := g) (by rw [raised, line]; exact page)
    (damaged || decide (1014 < row.length) || true)
  rw [counted, stands] at run
  have now := State.line_onFax_self (y.raise n .poolDry) n fun f =>
    { f with page := some (g.counted (damaged || decide (1014 < row.length) || true) false a b) }
  rw [raised, line] at now
  refine ⟨a, b, _, counts, run, store, ?_, ?_, ?_, ?_⟩
  · have same := congrArg Line.recvBlock now
    rw [State.line_commit]; exact same
  · have same := congrArg Line.delivered now
    rw [State.line_commit]; exact same
  · have same := congrArg Line.ev now
    rw [State.line_commit]; exact same
  · have same := congrArg Line.fax now
    rw [State.line_commit]; exact same

/-- The Delivered List is full: the page is discarded. -/
theorem pageRow_discards (entries : 16 ≤ (s.line n).delivered.length) :
    ∃ a b d t, g.Counts (damaged || decide (1014 < row.length) || false) a b ∧
      ((s.line n).fax.pagesDiscarded < 65535 → d = (s.line n).fax.pagesDiscarded + 1) ∧
      exec (.pageRow n damaged row) s = .next t ∧ t.store = s.store.release k ∧ (t.line n).recvBlock = none ∧
      (t.line n).delivered = (s.line n).delivered ∧
      (t.line n).fax =
        { (s.line n).fax with
          page := some (g.counted (damaged || decide (1014 < row.length) || false) true a b), pagesDiscarded := d } := by
  have run := exec_pageRow (damaged := damaged) (row := row) fax work
  have left := State.deliverPage_full recv none_.any entries
  have gone := Fax.pageGone_false page stands rfl
  have room : s.rowRoom n (pageRecord damaged row).length = s.deliverPage n := by
    rw [State.rowRoom, recv]
    exact if_neg (Nat.not_le.mpr full)
  have gone' : ((s.deliverPage n).line n).fax.pageGone = true := by rw [left.fax, Fax.pageGone, page]; rfl
  have stored : s.storeRow n (pageRecord damaged row) = (s.deliverPage n, false) := by
    simp only [State.storeRow, gone, room, gone', Bool.false_eq_true, if_false, if_true]
  rw [stored] at run
  dsimp only at run
  generalize s.deliverPage n = y at *
  obtain ⟨a, b, counts, counted⟩ := State.countRow_eq (x := y) (n := n) (g := { g with discarded := true }) (by rw [left.fax, page]; rfl)
    (damaged || decide (1014 < row.length) || false)
  rw [counted] at run
  have now := State.line_onFax_self y n fun f =>
    { f with page := some (g.counted (damaged || decide (1014 < row.length) || false) true a b) }
  refine ⟨a, b, s.bump n 1 (s.line n).fax.pagesDiscarded, _, counts, fun few => if_pos few, run, left.store, ?_, ?_, ?_⟩
  · have same := congrArg Line.recvBlock now
    rw [State.line_commit]; exact same.trans left.recv
  · have same := congrArg Line.delivered now
    rw [State.line_commit]; exact same.trans left.delivered
  · have same := congrArg Line.fax now
    rw [left.fax] at same
    rw [State.line_commit]; exact same

end

end Sys2Proof.Machine

/-! O60, last part: MORE and LAST received (07 R117, R125, R127), and the receiver's session. -/

namespace Sys2Proof.Machine

set_option Elab.async false

variable {n : LineId} {p : PumpId} {s t u x y z : State} {g : OpenPage} {k : Nat} {last : Bool} {c : Instr}

/-! ## A page judged -/

/-- The verdict of a line on a page, as it is sent (R127). -/
def Line.judges (l : Line) (g : OpenPage) : SentVerdict :=
  g.judge l.profile.badRowLimit l.profile.runLimit l.fax.rung l.grade.value l.profile.upMargin

/-- The page judged and its verdict standing, PAGE raised. -/
def State.pageClosed (u : State) (n : LineId) (last : Bool) (v : SentVerdict) (g : OpenPage) : State :=
  (u.onLine n fun l =>
    { l with
      fax :=
        { l.fax with
          page := none, judged := some last, lastVerdict := verdictOf v, lastRows := g.rows, lastBadRows := g.badRows }
      ev := { l.ev with bits := l.ev.bits ||| 0x0400, tally := l.ev.tally + 1 } }).faxStand n
    (if last = true ∧ v ≠ .bad then .release else .post) (.verdict v g.rows g.badRows)

theorem State.judgePage_eq (page : ((s.deliverPage n).line n).fax.page.getD .empty = g) (last : Bool) : s.judgePage n last =
    ((s.deliverPage n).closePage n (verdictOf (((s.deliverPage n).line n).judges g)) g.rows g.badRows).pageClosed n last
      (((s.deliverPage n).line n).judges g) g := by
  rw [State.judgePage, page, State.pageClosed]
  generalize s.deliverPage n = y
  have verdict : g.judge (y.line n).profile.badRowLimit (y.line n).profile.runLimit (y.line n).fax.rung (y.line n).grade.value
    (y.line n).profile.upMargin = (y.line n).judges g := rfl
  rw [verdict]
  generalize (y.line n).judges g = v
  dsimp only
  generalize y.closePage n (verdictOf v) g.rows g.badRows = z
  rw [State.raise, State.onFax, State.onLine_onLine]
  rfl

/-- A page without an entry has none to close. -/
theorem State.closePage_none (none_ : (y.line n).NoPageEntry) (v : Verdict) (rows badRows : Nat) : y.closePage n v rows badRows = y := by
  have same : (y.onOpenEntry n .page fun e => { e with count := rows, badRows := badRows, verdict := v, closed := true }) = y := by
    rw [State.onOpenEntry]
    refine (State.onLine_congr ?_).trans (y.onLine_id n)
    rw [List.map_congr_left fun e member => if_neg (none_.shut e member), List.map_id']
  rw [State.closePage, same]
  exact State.removeEntries_kept fun e member => (none_ e member).1

/-- The line with its RECV block in a new entry, closed. -/
def Line.firstClosed (k rows badRows : Nat) (v : Verdict) (l : Line) : Line :=
  { l with
    recvBlock := none
    delivered := l.delivered ++ [⟨.page, k, k, 1, [k], rows, badRows, v, l.fax.pageCount, true⟩] }

theorem State.closePage_first (none_ : (s.line n).NoPageEntry) (v : Verdict) (rows badRows : Nat) :
    (((s.onStore fun st => st.assign k (.deliv n)).onLine n (Line.firstDelivered k)).draw).closePage n v rows badRows =
      ((s.onStore fun st => st.assign k (.deliv n)).onLine n (Line.firstClosed k rows badRows v)).draw := by
  have line : (s.onStore fun st => st.assign k (.deliv n)).line n = s.line n := rfl
  generalize s.onStore (fun st => st.assign k (.deliv n)) = y at *
  have closed : ((y.onLine n (Line.firstDelivered k)).draw.onOpenEntry n .page fun e =>
      { e with count := rows, badRows := badRows, verdict := v, closed := true }) =
      (y.onLine n (Line.firstClosed k rows badRows v)).draw := by
    have order : ∀ f : Line → Line, (y.onLine n (Line.firstDelivered k)).draw.onLine n f =
        ((y.onLine n (Line.firstDelivered k)).onLine n f).draw := fun _ => rfl
    rw [State.onOpenEntry, order, State.onLine_onLine]
    refine congrArg State.draw (State.onLine_congr ?_)
    rw [line, Line.firstDelivered]
    dsimp only
    rw [List.map_append, List.map_congr_left fun e member => if_neg (none_.shut e member), List.map_id']
    rfl
  rw [State.closePage, closed]
  refine State.removeEntries_kept fun e member => ?_
  have now := State.line_onLine_self y n (Line.firstClosed k rows badRows v)
  have list : ((y.onLine n (Line.firstClosed k rows badRows v)).draw.line n).delivered = ((s.line n).firstClosed k rows badRows v).delivered := by
    rw [← line]
    exact congrArg Line.delivered now
  rw [list] at member
  rcases List.mem_append.mp member with old | new
  · exact (none_ e old).1
  · rw [List.mem_singleton.mp new]
    exact List.cons_ne_nil _ _

/-! ## MORE and LAST -/

/-- The frame that ends a page, and whether it ends the document. -/
theorem exec_pageEnd (frame : c = .moreFrame n ∧ last = false ∨ c = .lastFrame n ∧ last = true) : exec c s = done s (s.pageFrame n last) := by
  rcases frame with ⟨rfl, rfl⟩ | ⟨rfl, rfl⟩ <;> rfl

section
variable (frame : c = .moreFrame n ∧ last = false ∨ c = .lastFrame n ∧ last = true) (fax : s.faxAs n .receiver = true)
include frame fax

section
variable (phase : (s.line n).fax.phase = .post) (judged : (s.line n).fax.judged = none) (page : (s.line n).fax.page = some g)
  (none_ : (s.line n).NoPageEntry)
include phase judged page none_

theorem leads_pageEnd_stored (recv : (s.line n).recvBlock = none) : Leads c s (s.pageClosed n last ((s.line n).judges g) g) := by
  have run := exec_pageEnd (s := s) frame
  have whole := State.deliverPage_none recv
  rw [State.pageFrame, if_pos fax] at run
  dsimp only at run
  rw [if_pos ⟨phase, judged⟩, State.judgePage_eq (g := g) (by rw [whole, page]; rfl) last, whole, State.closePage_none none_] at run
  exact Leads.of_done run rfl

theorem leads_pageEnd_delivers (recv : (s.line n).recvBlock = some k) (room : (s.line n).delivered.length < 16) :
    Leads c s (((s.onStore fun st => st.assign k (.deliv n)).onLine n
      (Line.firstClosed k g.rows g.badRows (verdictOf ((s.line n).judges g)))).pageClosed n last ((s.line n).judges g) g).draw := by
  have run := exec_pageEnd (s := s) frame
  obtain ⟨line, -⟩ := State.deliverPage_first_line none_ recv room
  have judges : ((s.deliverPage n).line n).judges g = (s.line n).judges g := by rw [line]; rfl
  rw [State.pageFrame, if_pos fax] at run
  dsimp only at run
  rw [if_pos ⟨phase, judged⟩, State.judgePage_eq (g := g) (by rw [line]; exact congrArg (fun o : Option OpenPage => o.getD .empty) page) last, judges,
    State.deliverPage_first none_ recv room, State.closePage_first none_] at run
  exact Leads.of_done run rfl

end

/-- A page whose carrier was never heard. -/
theorem leads_pageEnd_unheard (phase : (s.line n).fax.phase = .page) (work : (s.line n).fax.work ≠ .pageIn)
    (none_ : (s.line n).NoPageEntry) (recv : (s.line n).recvBlock = none) :
    ∃ count, ((s.line n).fax.pageCount < 65535 → count = (s.line n).fax.pageCount + 1) ∧ Leads c s
      ((s.onFax n fun x => { x with pageCount := count }).pageClosed n last ((s.line n).judges .empty) .empty).draw := by
  have run := exec_pageEnd (s := s) frame
  have line : (s.openPage n).line n = { s.line n with
      fax :=
        { (s.line n).fax with
          pageCount := s.bump n 0 (s.line n).fax.pageCount, page := some .empty, judged := none } } :=
    State.line_onFax_self s n fun f => { f with pageCount := s.bump n 0 f.pageCount, page := some .empty, judged := none }
  have whole : (s.openPage n).deliverPage n = s.openPage n := State.deliverPage_none (by rw [line]; exact recv)
  have judges : ((s.openPage n).line n).judges .empty = (s.line n).judges .empty := by rw [line]; rfl
  rw [State.pageFrame, if_pos fax] at run
  dsimp only at run
  rw [if_neg (by rw [phase]; exact fun h => nomatch h.1), if_pos ⟨phase, work⟩, State.judgePage_eq (g := .empty) (by rw [whole, line]; rfl) last, whole, judges,
    State.closePage_none (by rw [line]; exact none_)] at run
  refine ⟨s.bump n 0 (s.line n).fax.pageCount, fun few => if_pos few, Leads.of_done run (congrArg State.uncounted ?_)⟩
  generalize (s.line n).judges .empty = v
  have order : ∀ f : Line → Line, (s.openPage n).onLine n f = ((s.onFax n fun f =>
      { f with pageCount := s.bump n 0 f.pageCount, page := some .empty, judged := none }).onLine n f).draw := fun _ => rfl
  rw [State.pageClosed, State.pageClosed, order, State.onFax, State.onFax, State.onLine_onLine, State.onLine_onLine]
  rfl

/-- The frame received again: its verdict is sent again. -/
theorem leads_pageEnd_again {v : SentVerdict} {rows badRows : Nat} (carrying : s.carrying n = true)
    (phase : (s.line n).fax.phase = .post ∨ (s.line n).fax.phase = .release)
    (judged : (s.line n).fax.judged = some last) (standing : (s.line n).fax.standing = some (.verdict v rows badRows)) :
    Leads c s (s.emit (.faxFrame n (.verdict v rows badRows))) := by
  have run := exec_pageEnd (s := s) frame
  have elsewhere : ¬((s.line n).fax.phase = .page ∧ (s.line n).fax.work ≠ .pageIn) := by
    rintro ⟨page, -⟩
    rw [page] at phase
    exact phase.elim nofun nofun
  rw [State.pageFrame, if_pos fax] at run
  dsimp only at run
  rw [if_neg (by rw [judged]; exact fun h => nomatch h.2), if_neg elsewhere, if_pos ⟨phase, judged⟩, State.repeatStanding,
    if_pos carrying, standing] at run
  exact Leads.of_done run rfl

end

/-! ## The receiver's session -/

/-- Settles O60: the receiver's frames, rows and waits one by one. -/
theorem faxReceiver : Obligations.FaxReceiver := by
  intro n p s w activity holding fax role
  have live := State.faxAs_of w activity holding fax role
  refine ⟨fun c open_ going => ⟨fun above => ?_, fun within => ?_⟩, fun r received work => ?_, fun b runs before => ⟨fun few standing => ?_,
    fun x few standing other => ?_, fun many phase => ?_⟩, fun runs => ⟨fun few other => ?_, fun many phase => ?_, fun many phase => ?_⟩,
    fun awaits => ?_, fun work => ?_, fun g damaged row work page => ?_, fun c last frame => ⟨fun g phase judged page none_ => ⟨fun recv => ?_,
      fun k recv owned room => ?_⟩, fun phase work none_ recv => ?_, fun v rows badRows phase judged standing => ?_⟩⟩
  · exact leads_choiceFrame_above w activity holding fax role open_ going above
  · refine leads_choiceFrame w activity holding fax role open_ going ?_ within
    unfold Fax.interrupted
    cases (s.line n).fax.waitBefore <;> rfl
  · rw [← erroredBytes_eq]
    exact leads_checkPatternResult w activity holding fax role work
  · exact (leads_carrierWait w activity holding runs before few).1 standing
  · exact (leads_carrierWait w activity holding runs before few).2 x standing other
  · exact faults_carrierWait fax runs before many phase
  · obtain ⟨none_, frame⟩ := receiver_expiryRepeats w activity holding role runs few other
    split
    next x standing => exact frame x standing
    next standing => exact none_ standing
  · exact receiver_expiryFails fax role runs many phase
  · exact receiver_expiryClears role runs many phase
  · exact leads_pageCarrierStart w activity holding fax role awaits
  · exact leads_pageCarrierCease w activity holding fax role work
  · intro bad record counted count
    have same : pageRecord damaged row = record := pageRecord_eq damaged row
    refine ⟨fun gone => leads_pageRow_gone live work page gone, fun stands sound => ⟨fun k recv room => ?_, fun recv free => ?_,
      fun k rest recv free => ?_, fun k recv owned full none_ => ⟨fun c rest room free => ?_, fun room free => ?_, fun entries => ?_⟩⟩⟩
    · rw [← same] at room ⊢
      exact leads_pageRow_fits live work page stands recv room
    · exact leads_pageRow_lost live work page stands recv free
    · rw [← same]
      obtain ⟨a, b, t, counts, run, begun, fax'⟩ := exec_pageRow_begun live work page stands sound rfl rfl sound.canonical recv free free
      exact ⟨a, b, t, counts, run, begun.free, begun.owners, begun.recv, begun.fill, begun.payload, fax'⟩
    · rw [← same] at full ⊢
      exact pageRow_first live work page stands none_ recv full sound owned room free
    · rw [← same] at full
      exact pageRow_firstDry live work page stands none_ recv full room free
    · rw [← same] at full
      exact pageRow_discards live work page stands none_ recv full entries
  · exact leads_pageEnd_stored frame live phase judged page none_ recv
  · exact leads_pageEnd_delivers frame live phase judged page none_ recv room
  · exact leads_pageEnd_unheard frame live phase work none_ recv
  · exact leads_pageEnd_again frame live (w.carries activity holding) phase judged standing

end Sys2Proof.Machine

/-! O15, first part: the fields of a record, and the areas of the store (12 sections 12.1, 12.3, 12.4). -/

namespace Sys2Proof.Machine

set_option Elab.async false

variable {s : State} {a o : Nat} {fs gs : List Field}

/-! ## Fields of a record -/

/-- The first field of a record that holds an offset. -/
def fieldAt (fs : List Field) (o : Nat) : Option Field := fs.find? fun f => decide (f.1 ≤ o ∧ o < f.1 + f.2.1)

/-- The byte at an offset, from the field that holds it. -/
def fieldRead (fs : List Field) (o : Nat) : Byte :=
  match fieldAt fs o with
  | some f => BitVec.ofNat 8 (f.2.2 / 256 ^ (o - f.1))
  | none => 0

theorem fieldByte_eq (fs : List Field) (o : Nat) : fieldByte fs o = fieldRead fs o := by
  induction fs with
  | nil => rfl
  | cons f fs ih =>
    obtain ⟨a, k, v⟩ := f
    unfold fieldByte fieldRead fieldAt
    by_cases here : a ≤ o ∧ o < a + k
    · simp only [if_pos here, List.find?_cons, decide_eq_true here]
      rfl
    · simp only [if_neg here, List.find?_cons, decide_eq_false here, ih]
      rfl

theorem fieldRead_congr (same : fieldAt fs o = fieldAt gs o) : fieldRead fs o = fieldRead gs o := by
  unfold fieldRead
  rw [same]

theorem fieldAt_append (fs gs : List Field) (o : Nat) : fieldAt (fs ++ gs) o = (fieldAt fs o).or (fieldAt gs o) := List.find?_append

/-- Fields below a bound and fields above it may change places. -/
theorem fieldAt_swap {b : Nat} (below : ∀ f ∈ fs, f.1 + f.2.1 ≤ b) (above : ∀ f ∈ gs, b ≤ f.1) (o : Nat) :
    fieldAt (gs ++ fs) o = fieldAt (fs ++ gs) o := by
  rw [fieldAt_append, fieldAt_append]
  by_cases low : o < b
  · have none_ : fieldAt gs o = none := List.find?_eq_none.mpr fun f member => by
      have := above f member
      simp
      omega
    rw [none_, Option.none_or, Option.or_none]
  · have none_ : fieldAt fs o = none := List.find?_eq_none.mpr fun f member => by
      have := below f member
      simp
      omega
    rw [none_, Option.none_or, Option.or_none]

/-- A record past the last of its fields, which may be left out. -/
theorem fieldRead_zeros (zero : ∀ f ∈ gs, f.2.2 = 0) (o : Nat) : fieldRead (fs ++ gs) o = fieldRead fs o := by
  unfold fieldRead
  rw [fieldAt_append]
  cases here : fieldAt fs o with
  | some f => rfl
  | none =>
    rw [Option.none_or]
    cases there : fieldAt gs o with
    | none => rfl
    | some f =>
      have value := zero f (List.mem_of_find?_eq_some there)
      dsimp only
      rw [value, Nat.zero_div]
      rfl

/-! ## The areas of the store -/

/-- What a byte that lies in no card is. -/
theorem State.byteAt_plain (h : cardAt a = none) : s.byteAt a =
    if a < 0x0080 then fieldByte s.headerImage a
    else if a < 0x0500 then fieldByte (s.line (Fin.ofNat 4 ((a - 0x0100) / 256))).image (a % 256)
    else if a < 0x0900 then Memory.get s.store.mem a
    else if a < 0x1100 then
      if (a - 0x0D00) / 2 < s.store.blockCount then Memory.get s.store.mem a
      else if a < 0x10E0 then byteOf Owner.absent.word (a % 2) else 0
    else if a < 0x1900 then fieldByte (s.message (Fin.ofNat 32 ((a - 0x1100) / 64))).fields (a % 64)
    else if a < 0x1980 then fieldByte (s.slot (Fin.ofNat 8 ((a - 0x1900) / 16))).fields (a % 16)
    else if a < 0x1C80 then
      fieldByte (entryFields ((s.line (Fin.ofNat 4 ((a - 0x1980) / 192))).delivered[((a - 0x1980) % 192) / 12]?))
        ((a - 0x1980) % 12)
    else if a < 0x1D00 then
      byteOf ((((s.line (Fin.ofNat 4 ((a - 0x1C80) / 32))).delivered[((a - 0x1C80) % 32) / 2]?).map Entry.pageNumber).getD 0)
        (a % 2)
    else Memory.get s.store.mem a := by
  rw [State.byteAt, h]

theorem State.byteAt_header (h : o < 0x80) : s.byteAt o = fieldRead s.headerImage o := by
  rw [State.byteAt_plain (cardAt_none (.inl h)), if_pos h, fieldByte_eq]

theorem State.byteAt_record (n : LineId) (h : o < 256) : s.byteAt (0x100 + 256 * n.val + o) = fieldRead (s.line n).image o := by
  have := n.isLt
  have line : Fin.ofNat 4 ((0x100 + 256 * n.val + o - 0x100) / 256) = n := Fin.ext (by simp only [Fin.val_ofNat]; omega)
  have offset : (0x100 + 256 * n.val + o) % 256 = o := by omega
  rw [State.byteAt_plain (cardAt_none (by omega)), if_neg (by omega), if_pos (by omega), line, offset, fieldByte_eq]

theorem State.byteAt_card {T : TableId} {i : Nat} (hi : i < (match T with | .line _ => 8 | .engine => 4)) (ho : o < 32) :
    s.byteAt (cardAddr T i + o) = (s.card T i).image o := by
  obtain ⟨at_, offset⟩ := cardAt_cardAddr hi ho
  rw [State.byteAt, at_]
  dsimp only
  rw [offset]

theorem State.byteAt_profile (lo : 0x500 ≤ a) (hi : a < 0x900) : s.byteAt a = Memory.get s.store.mem a := by
  rw [State.byteAt_plain (cardAt_none (by omega)), if_neg (by omega), if_neg (by omega), if_pos hi]

theorem State.byteAt_map (lo : 0xD00 ≤ a) (hi : a < 0x1100) : s.byteAt a =
    if (a - 0x0D00) / 2 < s.store.blockCount then Memory.get s.store.mem a
    else if a < 0x10E0 then byteOf Owner.absent.word (a % 2) else 0 := by
  rw [State.byteAt_plain (cardAt_none (by omega)), if_neg (by omega), if_neg (by omega), if_neg (by omega), if_pos hi]

theorem State.byteAt_message (m : EntryId) (h : o < 64) : s.byteAt (0x1100 + 64 * m.val + o) = fieldRead (s.message m).fields o := by
  have := m.isLt
  have entry : Fin.ofNat 32 ((0x1100 + 64 * m.val + o - 0x1100) / 64) = m := Fin.ext (by simp only [Fin.val_ofNat]; omega)
  have offset : (0x1100 + 64 * m.val + o) % 64 = o := by omega
  rw [State.byteAt_plain (cardAt_none (by omega)), if_neg (by omega), if_neg (by omega), if_neg (by omega), if_neg (by omega),
    if_pos (by omega), entry, offset, fieldByte_eq]

theorem State.byteAt_slot (g : SlotId) (h : o < 16) : s.byteAt (0x1900 + 16 * g.val + o) = fieldRead (s.slot g).fields o := by
  have := g.isLt
  have slot : Fin.ofNat 8 ((0x1900 + 16 * g.val + o - 0x1900) / 16) = g := Fin.ext (by simp only [Fin.val_ofNat]; omega)
  have offset : (0x1900 + 16 * g.val + o) % 16 = o := by omega
  rw [State.byteAt_plain (cardAt_none (by omega)), if_neg (by omega), if_neg (by omega), if_neg (by omega), if_neg (by omega),
    if_neg (by omega), if_pos (by omega), slot, offset, fieldByte_eq]

theorem State.byteAt_entry (n : LineId) {i : Nat} (hi : i < 16) (h : o < 12) :
    s.byteAt (0x1980 + 192 * n.val + 12 * i + o) = fieldRead (entryFields (s.line n).delivered[i]?) o := by
  have := n.isLt
  have line : Fin.ofNat 4 ((0x1980 + 192 * n.val + 12 * i + o - 0x1980) / 192) = n := Fin.ext (by simp only [Fin.val_ofNat]; omega)
  have index : (0x1980 + 192 * n.val + 12 * i + o - 0x1980) % 192 / 12 = i := by omega
  have offset : (0x1980 + 192 * n.val + 12 * i + o - 0x1980) % 12 = o := by omega
  rw [State.byteAt_plain (cardAt_none (by omega)), if_neg (by omega), if_neg (by omega), if_neg (by omega), if_neg (by omega),
    if_neg (by omega), if_neg (by omega), if_pos (by omega), line, index, offset, fieldByte_eq]

theorem State.byteAt_pageNumber (n : LineId) {i : Nat} (hi : i < 16) (h : o < 2) :
    s.byteAt (0x1C80 + 32 * n.val + 2 * i + o) = byteOf ((((s.line n).delivered[i]?).map Entry.pageNumber).getD 0) o := by
  have := n.isLt
  have line : Fin.ofNat 4 ((0x1C80 + 32 * n.val + 2 * i + o - 0x1C80) / 32) = n := Fin.ext (by simp only [Fin.val_ofNat]; omega)
  have index : (0x1C80 + 32 * n.val + 2 * i + o - 0x1C80) % 32 / 2 = i := by omega
  have offset : (0x1C80 + 32 * n.val + 2 * i + o) % 2 = o := by omega
  rw [State.byteAt_plain (cardAt_none (by omega)), if_neg (by omega), if_neg (by omega), if_neg (by omega), if_neg (by omega),
    if_neg (by omega), if_neg (by omega), if_neg (by omega), if_pos (by omega), line, index, offset]

theorem State.byteAt_high (lo : 0x1D00 ≤ a) : s.byteAt a = Memory.get s.store.mem a := by
  rw [State.byteAt_plain (cardAt_none (by omega)), if_neg (by omega), if_neg (by omega), if_neg (by omega), if_neg (by omega),
    if_neg (by omega), if_neg (by omega), if_neg (by omega), if_neg (by omega)]

/-! ## A host read -/

theorem State.wordAt_toNat : (s.wordAt a).toNat =
    if a < 0x4000 + 1024 * s.store.owners.length then (s.byteAt a).toNat + 256 * (s.byteAt (a + 1)).toNat else 0xFFFF := by
  have low := (s.byteAt a).isLt
  have high := (s.byteAt (a + 1)).isLt
  have size : s.storeSize = 0x4000 + 1024 * s.store.owners.length := rfl
  rw [State.wordAt, size]
  split
  · rw [BitVec.toNat_ofNat]
    omega
  · rfl

theorem exec_hostStoreRead {w : BitVec 12} (even : w.getLsbD 0 = false) :
    exec (.hostStoreRead w) s = .next { s with port := { s.port with readData := s.wordAt (s.windowAddr w) } } := by
  have run : exec (.hostStoreRead w) s = if w.getLsbD 0 = true then .fault .oddOffset
      else done s (s.onPort fun p => { p with readData := s.wordAt (s.windowAddr w) }) := rfl
  rw [run, if_neg (by rw [even]; decide), done]
  exact congrArg Host.Outcome.next (State.commit_rest rfl rfl rfl rfl rfl)

end Sys2Proof.Machine

/-! O15, second part: the Engine Header and the Line Records in the order of their offsets (12 sections 12.3, 12.4), and the host's reads. -/

namespace Sys2Proof.Machine

set_option Elab.async false

variable {s : State} {o : Nat}

/-! ## Records in the order of their offsets -/

/-- A line or pump number, 255 for none. -/
def numberOf {k : Nat} (x : Option (Fin k)) : Nat :=
  match x with
  | some x => x.val
  | none => 255

theorem orNone_val {k : Nat} (x : Option (Fin k)) : orNone (x.map Fin.val) = numberOf x := by cases x <;> rfl

/-- The fields of an event word. -/
def EventWord.allFields (w : EventWord) : List Field :=
  [(0x02, 2, w.bits.toNat), (0x04, 2, w.tally.toNat), (0x06, 2, w.mask.toNat), (0x08, 2, w.route.toNat), (0x0A, 2, w.ack.toNat)]

/-- A pump entry. -/
def State.pumpEntry (s : State) (p : PumpId) : Nat := (s.pump p).state.code + 256 * numberOf (s.pump p).line

/-- The fields of the Engine Header past the host's words. -/
def State.headerRest (s : State) : List Field :=
  [(0x14, 2, s.store.free.length), (0x16, 2, s.hdr.guardCount.toNat), (0x18, 2, s.hdr.mapRepairCount.toNat),
    (0x1A, 2, s.store.owners.length), (0x1C, 4, s.hdr.tick.toNat), (0x20, 4, s.hdr.dayClock.toNat),
    (0x24, 4, s.hdr.sweepCount.toNat), (0x28, 2, s.pumpEntry 0), (0x2A, 2, s.pumpEntry 1), (0x2C, 2, s.pumpEntry 2),
    (0x2E, 2, s.hdr.nextMessage)]

/-- The host's own words of the Engine Header past its event word. -/
def Header.hostWords (h : Header) : List Field :=
  [(0x0C, 2, h.hostPulse.toNat), (0x0E, 2, h.pulsePeriod.toNat), (0x10, 2, h.pulseMode.toNat), (0x12, 2, h.reserve.toNat)]

/-- The Engine Header by its offsets. -/
def State.headerRecord (s : State) : List Field :=
  (0x00, 2, s.hdr.changeCount.toNat) :: s.hdr.ev.allFields ++ (s.hdr.hostWords ++ s.headerRest)

theorem State.read_headerImage (s : State) (o : Nat) : fieldRead s.headerImage o = fieldRead s.headerRecord o := by
  have entry : ∀ p, (s.pump p).entry = s.pumpEntry p := fun p => by rw [Pump.entry, State.pumpEntry, orNone_val]
  have image : s.headerImage =
      [(0x00, 2, s.hdr.changeCount.toNat), (0x02, 2, s.hdr.ev.bits.toNat), (0x04, 2, s.hdr.ev.tally.toNat)] ++
        (s.headerRest ++ (s.hdr.ev.hostFields ++ s.hdr.hostWords)) := by
    rw [State.headerImage, State.headerFields, entry, entry, entry]
    rfl
  have record : s.headerRecord =
      [(0x00, 2, s.hdr.changeCount.toNat), (0x02, 2, s.hdr.ev.bits.toNat), (0x04, 2, s.hdr.ev.tally.toNat)] ++
        ((s.hdr.ev.hostFields ++ s.hdr.hostWords) ++ s.headerRest) := rfl
  refine fieldRead_congr ?_
  rw [image, record, fieldAt_append,
    fieldAt_swap (b := 0x14) (fs := s.hdr.ev.hostFields ++ s.hdr.hostWords) (gs := s.headerRest)
      (by simp [EventWord.hostFields, Header.hostWords]) (by simp [State.headerRest]), ← fieldAt_append]

/-- The call record's fields, and the length of the Delivered List after them. -/
def Line.callFields (l : Line) : List Field :=
  [(0x0C, 1, l.call.state.code), (0x0D, 1, l.call.service.code), (0x0E, 1, l.call.direction.code), (0x0F, 1, numberOf l.call.pump),
    (0x10, 4, l.call.tRing.toNat), (0x14, 4, l.call.tOffhook.toNat), (0x18, 4, l.call.tConnect.toNat), (0x1C, 4, l.call.tClear.toNat),
    (0x20, 4, l.call.dayConnect.toNat), (0x24, 2, l.call.ringCount), (0x26, 1, l.call.lastOutcome.code),
    (0x27, 1, (l.fm.latch.map FaultKind.code).getD 0), (0x28, 1, flagCode l.call.disablePending), (0x29, 1, l.call.caller.state.code),
    (0x2A, 1, l.call.caller.number.length), (0x2B, 1, l.call.caller.name.length), (0x2C, 16, textValue l.call.caller.number),
    (0x3C, 15, textValue l.call.caller.name), (0x4B, 8, textValue l.call.caller.dateTime), (0x53, 1, l.delivered.length)]

/-- The voice fields. -/
def Voice.allFields (v : Voice) : List Field :=
  [(0x88, 1, match v.play with | .none => 0 | .slot _ => 1 | .chain _ => 2), (0x89, 1, numberOf v.recording),
    (0x8A, 2, match v.play with | .none => 65535 | .slot g => g.val | .chain b => b), (0x8C, 4, v.samplesPlayed),
    (0x90, 2, v.lastMessage), (0x92, 1, v.lastEnd.code), (0x93, 1, v.digits.length), (0x94, 2, v.overflow)]

theorem Voice.fields_eq (v : Voice) : v.fields = v.allFields := by
  unfold Voice.fields Voice.allFields
  rw [orNone_val]
  cases v.play <;> rfl

/-- The fault fields, a last fault of none as 0. -/
def FaultRecord.allFields (f : FaultRecord) : List Field :=
  [(0x96, 1, f.retryCount), (0x97, 1, (f.last.map fun x => x.kind.code).getD 0), (0x98, 1, (f.last.map fun x => x.detail.code).getD 0),
    (0x99, 1, (f.last.map fun x => x.policy.code).getD 0), (0x9A, 4, (f.last.map fun x => x.tick.toNat).getD 0)]

theorem FaultRecord.read_fields (f : FaultRecord) (fs : List Field) (o : Nat) :
    fieldRead (fs ++ f.allFields) o = fieldRead (fs ++ f.fields) o := by
  unfold FaultRecord.fields FaultRecord.allFields
  cases f.last with
  | some x => rfl
  | none =>
    have split_ : fs ++ [(0x96, 1, f.retryCount), (0x97, 1, 0), (0x98, 1, 0), (0x99, 1, 0), (0x9A, 4, 0)] =
        (fs ++ [(0x96, 1, f.retryCount)]) ++ [(0x97, 1, 0), (0x98, 1, 0), (0x99, 1, 0), (0x9A, 4, 0)] := by
      rw [List.append_assoc]
      rfl
    refine Eq.trans ?_ (fieldRead_zeros (fs := fs ++ [(0x96, 1, f.retryCount)])
      (gs := [(0x97, 1, 0), (0x98, 1, 0), (0x99, 1, 0), (0x9A, 4, 0)]) (by simp) o)
    exact congrArg (fieldRead · o) split_

/-- The Line Record by its offsets, but for its fault fields. -/
def Line.upToFaults (l : Line) : List Field :=
  (0x00, 2, l.changeCount.toNat) :: l.ev.allFields ++ l.callFields ++ l.grade.fields ++ l.link.fields ++ l.fax.fields ++ l.voice.allFields

theorem Line.read_image (l : Line) (o : Nat) : fieldRead l.image o = fieldRead (l.upToFaults ++ l.fm.allFields) o := by
  rw [FaultRecord.read_fields]
  refine fieldRead_congr ?_
  have call : l.call.fields l.fm.latch ++ [(0x53, 1, l.delivered.length)] = l.callFields := by
    unfold CallRecord.fields
    rw [orNone_val]
    rfl
  have image : l.image = ([(0x00, 2, l.changeCount.toNat)] ++ (l.ev.hostFields ++ [(0x02, 2, l.ev.bits.toNat), (0x04, 2, l.ev.tally.toNat)])) ++
      (([(0x53, 1, l.delivered.length)] ++ l.call.fields l.fm.latch) ++
        (l.grade.fields ++ l.link.fields ++ l.fax.fields ++ l.voice.allFields ++ l.fm.fields)) := by
    rw [← Voice.fields_eq]
    rfl
  have record : l.upToFaults ++ l.fm.fields =
      ([(0x00, 2, l.changeCount.toNat)] ++ ([(0x02, 2, l.ev.bits.toNat), (0x04, 2, l.ev.tally.toNat)] ++ l.ev.hostFields)) ++
        ((l.call.fields l.fm.latch ++ [(0x53, 1, l.delivered.length)]) ++
          (l.grade.fields ++ l.link.fields ++ l.fax.fields ++ l.voice.allFields ++ l.fm.fields)) := by
    rw [call, Line.upToFaults]
    rfl
  rw [image, record]
  simp only [fieldAt_append _ _ o]
  rw [← fieldAt_append l.ev.hostFields, ← fieldAt_append [(0x53, 1, l.delivered.length)],
    fieldAt_swap (b := 0x06) (gs := l.ev.hostFields) (by simp) (by simp [EventWord.hostFields]),
    fieldAt_swap (b := 0x53) (fs := l.call.fields l.fm.latch) (by simp [CallRecord.fields]) (by simp), fieldAt_append, fieldAt_append]

/-- The fields of a Delivered List slot. -/
def Entry.allFields (e : Entry) : List Field :=
  [(0x00, 1, match e.kind with | .data => 1 | .page => 2),
    (0x01, 1, match e.closed, e.kind with | false, _ => 0 | true, .data => 1 | true, .page => e.verdict.code + 1),
    (0x02, 2, e.first), (0x04, 2, e.blockCount), (0x06, 2, e.outstanding.length), (0x08, 2, e.count), (0x0A, 2, e.badRows)]

theorem entryFields_some (e : Entry) : entryFields (some e) = e.allFields := by
  obtain ⟨kind, first, last, blockCount, outstanding, count, badRows, verdict, pageNumber, closed⟩ := e
  cases kind <;> cases closed <;> rfl

/-! ## Cards and the Block Map -/

theorem Card.image_eq (c : Card) (o : Nat) :
    c.image o = if o < 2 then BitVec.ofNat 8 (c.hand.code / 256 ^ o) else (c.body[o - 2]?).getD 0 := rfl

theorem State.byteAt_mapBeyond {b : Nat} (beyond : s.store.owners.length ≤ b) (within : b < 496) :
    s.byteAt (0xD00 + 2 * b) = 8 ∧ s.byteAt (0xD00 + 2 * b + 1) = 0 := by
  have count : s.store.blockCount = s.store.owners.length := rfl
  have even : (0xD00 + 2 * b) % 2 = 0 := by omega
  have odd : (0xD00 + 2 * b + 1) % 2 = 1 := by omega
  refine ⟨?_, ?_⟩
  · rw [State.byteAt_map (by omega) (by omega), count, if_neg (by omega), if_pos (by omega), even]
    rfl
  · rw [State.byteAt_map (by omega) (by omega), count, if_neg (by omega), if_pos (by omega), odd]
    rfl

theorem State.byteAt_mapWithin {b k : Nat} (counted : b < s.store.owners.length) (within : b < 496) (hk : k < 2) :
    s.byteAt (0xD00 + 2 * b + k) = Memory.get s.store.mem (0xD00 + 2 * b + k) := by
  have count : s.store.blockCount = s.store.owners.length := rfl
  rw [State.byteAt_map (by omega) (by omega), count, if_pos (by omega)]

theorem State.byteAt_mapUnused {a : Nat} (few : s.store.owners.length ≤ 496) (lo : 0x10E0 ≤ a) (hi : a < 0x1100) : s.byteAt a = 0 := by
  have count : s.store.blockCount = s.store.owners.length := rfl
  rw [State.byteAt_map (by omega) hi, count, if_neg (by omega), if_neg (by omega)]

/-! ## The codes -/

/-- Settles O15: each area of the store by its offsets, and the codes by evaluation. -/
theorem hostReads : Obligations.HostReads := by
  refine ⟨fun o s even => ⟨rfl, s.wordAt (s.windowAddr o), exec_hostStoreRead even, State.wordAt_toNat⟩, fun s => ?_, ?_⟩
  · intro read text number flag events pump header record message slot entry
    refine ⟨fun o less => ?_, fun n o less => ?_, fun T i o hi ho => ?_, fun b beyond within => State.byteAt_mapBeyond beyond within,
      fun b k counted within hk => State.byteAt_mapWithin counted within hk, fun a few lo hi => State.byteAt_mapUnused few lo hi,
      fun a lo hi => State.byteAt_profile lo hi, fun a lo => State.byteAt_high lo, fun m o less => State.byteAt_message m less,
      fun g o less => State.byteAt_slot g less, fun n i o hi ho => ?_, fun n i o hi ho => State.byteAt_pageNumber n hi ho⟩
    · exact (State.byteAt_header less).trans (s.read_headerImage o)
    · exact (State.byteAt_record n less).trans ((s.line n).read_image o)
    · cases T with
      | line n => exact (State.byteAt_card (T := .line n) hi ho).trans ((s.card (.line n) i).image_eq o)
      | engine => exact (State.byteAt_card (T := .engine) hi ho).trans ((s.card .engine i).image_eq o)
    · refine (State.byteAt_entry n hi ho).trans ?_
      cases (s.line n).delivered[i]? with
      | none => rfl
      | some e =>
        rw [entryFields_some]
        rfl
  · refine ⟨rfl, rfl, rfl, ⟨rfl, fun _ => rfl⟩, rfl, rfl, rfl, rfl, rfl, rfl, rfl, rfl, rfl, rfl, rfl, rfl, rfl⟩

end Sys2Proof.Machine

/-! The cards of long orders (10 R174): how often a state owes an answer to a card, and what an operation may do with the cards it holds
and with those that the state owes. -/

namespace Sys2Proof.Machine

set_option Elab.async false

/-! ## The cards owed -/

/-- How often a card stands in a place for one. -/
def cardIn (c : Option Nat) (j : Nat) : Nat := if c = some j then 1 else 0

theorem count_toList (c : Option Nat) (j : Nat) : c.toList.count j = cardIn c j := by
  cases c with
  | none => rfl
  | some i =>
    by_cases h : i = j
    · subst h; simp [cardIn]
    · simp [cardIn, h]

theorem cardIn_none (j : Nat) : cardIn none j = 0 := rfl

theorem cardIn_self (i : Nat) : cardIn (some i) i = 1 := if_pos rfl

theorem cardIn_ne {i j : Nat} (h : j ≠ i) : cardIn (some i) j = 0 := if_neg fun e => h (Option.some.inj e).symm

/-- The card of the recording in progress that a RECORD began. -/
def Voice.recordCard (v : Voice) : Option Nat :=
  match v.recording, v.recKind with
  | some _, .host i => some i
  | _, _ => none

/-- How often a card stands for a long order of the line. -/
def Line.owed (l : Line) (j : Nat) : Nat :=
  cardIn l.ctl.dialCard j + cardIn l.ctl.answerCard j + (l.link.sendList.map SendChain.card).count j +
    (l.fax.orders.map FaxOrder.card).count j + cardIn l.voice.playCard j + cardIn l.voice.recordCard j

theorem Line.count_longCards (l : Line) (j : Nat) : l.longCards.count j = l.owed j := by
  have record : ∀ v : Voice, (match v.recording, v.recKind with
      | some _, .host i => [i]
      | _, _ => []).count j = cardIn v.recordCard j := by
    intro v
    rw [← count_toList, Voice.recordCard]
    cases v.recording with
    | none => rfl
    | some m => cases v.recKind <;> rfl
  have h := record l.voice
  simp only [Line.longCards, List.count_append, Line.owed, count_toList]
  exact congrArg _ h

/-- How often a card of a table stands for a long order. -/
def State.owed (s : State) : TableId → Nat → Nat
  | .line n, j => (s.line n).owed j
  | .engine, j => ∑ g : SlotId, cardIn (s.slot g).unloadCard j

/-- How many times each card of each table is held. -/
abbrev Hold := TableId → Nat → Nat

/-- Cards of one table held too. -/
def Hold.plus (x : Hold) (T : TableId) (c : Nat → Nat) : Hold := fun U j => if U = T then x U j + c j else x U j

/-- One card held too. -/
def Hold.card (x : Hold) (T : TableId) (i : Nat) : Hold := x.plus T (cardIn (some i))

theorem Hold.plus_self (x : Hold) (T : TableId) (c : Nat → Nat) (j : Nat) : x.plus T c T j = x T j + c j := if_pos rfl

theorem Hold.plus_ne (x : Hold) {T U : TableId} (h : U ≠ T) (c : Nat → Nat) (j : Nat) : x.plus T c U j = x U j := if_neg h

theorem Hold.le_plus (x : Hold) (T : TableId) (c : Nat → Nat) (U : TableId) (j : Nat) : x U j ≤ x.plus T c U j := by
  unfold Hold.plus; split <;> omega

/-- The cards `x` are held and the state `s` is reached: the lists of the tables are as in the state `s₀` at the beginning, no card is held
or owed more often than the `w` of the beginning, and a card whose hand word was changed less often. -/
structure Pays (w : Hold) (s₀ : State) (x : Hold) (s : State) : Prop where
  listed : ∀ T, (s.table T).listed = (s₀.table T).listed
  fewer : ∀ T j, x T j + s.owed T j ≤ w T j
  hands : ∀ T j, (s.card T j).hand = (s₀.card T j).hand ∨ x T j + s.owed T j < w T j

variable {w x y : Hold} {s₀ s t : State} {n : LineId}

/-- Where an operation begins. -/
theorem Pays.start (x : Hold) (s : State) : Pays (fun T j => x T j + s.owed T j) s x s :=
  ⟨fun _ => rfl, fun _ _ => Nat.le_refl _, fun _ _ => .inl rfl⟩

theorem Pays.to (h : Pays w s₀ x s) (ht : ∀ T, (t.table T).listed = (s.table T).listed)
    (hf : ∀ T j, y T j + t.owed T j ≤ x T j + s.owed T j)
    (hh : ∀ T j, (t.card T j).hand = (s.card T j).hand ∨ y T j + t.owed T j < x T j + s.owed T j) : Pays w s₀ y t where
  listed T := (ht T).trans (h.listed T)
  fewer T j := (hf T j).trans (h.fewer T j)
  hands T j := by
    obtain e | lt := hh T j
    · obtain e' | lt' := h.hands T j
      · exact .inl (e.trans e')
      · exact .inr ((hf T j).trans_lt lt')
    · exact .inr (lt.trans_le (h.fewer T j))

/-- A change that leaves the tables as they are. -/
theorem Pays.same (h : Pays w s₀ x s) (ht : ∀ T, t.table T = s.table T) (hf : ∀ T j, y T j + t.owed T j ≤ x T j + s.owed T j) :
    Pays w s₀ y t :=
  h.to (fun T => by rw [ht]) hf fun T j => .inl (by rw [State.card, ht]; rfl)

/-- A card held may be dropped without an answer. -/
theorem Pays.drop {T : TableId} {c : Nat → Nat} (h : Pays w s₀ (x.plus T c) s) : Pays w s₀ x s :=
  h.same (fun _ => rfl) fun U j => Nat.add_le_add_right (x.le_plus T c U j) _

/-! ## Updates -/

theorem State.table_onLine_table (s : State) (n : LineId) {f : Line → Line} (ht : (f (s.line n)).table = (s.line n).table) (T : TableId) :
    (s.onLine n f).table T = s.table T := by
  cases T with
  | engine => rfl
  | line m =>
    simp only [State.table, State.line_onLine]
    split
    next e => subst e; exact ht
    next => rfl

/-- A change of a line that installs some of the cards held and gives up others. -/
theorem Pays.onLineHeld {a b : Nat → Nat} (h : Pays w s₀ (x.plus (.line n) a) s) {f : Line → Line}
    (hf : ∀ j, b j + (f (s.line n)).owed j ≤ a j + (s.line n).owed j)
    (ht : (f (s.line n)).table = (s.line n).table := by exact rfl) : Pays w s₀ (x.plus (.line n) b) (s.onLine n f) := by
  refine h.same (s.table_onLine_table n ht) fun T j => ?_
  cases T with
  | engine => exact Nat.le_refl _
  | line m =>
    by_cases e : m = n
    · subst e
      have := hf j
      simp only [State.owed, State.line_onLine_self, Hold.plus_self]
      omega
    · have e' : TableId.line m ≠ .line n := fun k => e (TableId.line.inj k)
      simp only [State.owed, State.line_onLine_ne _ e, Hold.plus_ne _ e', Nat.le_refl]

theorem Hold.plus_zero (x : Hold) (T : TableId) : x.plus T (fun _ => 0) = x := by
  funext U j; unfold Hold.plus; split <;> rfl

/-- A change of a line that puts cards held into the places of its long orders. -/
theorem Pays.install {a : Nat → Nat} (h : Pays w s₀ (x.plus (.line n) a) s) {f : Line → Line}
    (hf : ∀ j, (f (s.line n)).owed j ≤ a j + (s.line n).owed j) (ht : (f (s.line n)).table = (s.line n).table := by exact rfl) :
    Pays w s₀ x (s.onLine n f) := by
  rw [← x.plus_zero (.line n)]
  exact h.onLineHeld (fun j => (Nat.zero_add _).le.trans (hf j)) ht

/-- A change of a line that adds no card. -/
theorem Pays.onLine (h : Pays w s₀ x s) {f : Line → Line} (hf : ∀ l j, (f l).owed j ≤ l.owed j := by exact fun _ _ => Nat.le_refl _)
    (ht : ∀ l, (f l).table = l.table := by exact fun _ => rfl) : Pays w s₀ x (s.onLine n f) :=
  Pays.install (a := fun _ => 0) ((x.plus_zero (.line n)).symm ▸ h) (fun j => (hf _ j).trans (Nat.le_add_left ..)) (ht _)

theorem Pays.onCtl (h : Pays w s₀ x s) (f : LineControl → LineControl)
    (hf : ∀ c, (f c).dialCard = c.dialCard ∧ (f c).answerCard = c.answerCard := by exact fun _ => ⟨rfl, rfl⟩) :
    Pays w s₀ x (s.onCtl n f) :=
  h.onLine fun l j => by
    obtain ⟨a, b⟩ := hf l.ctl
    exact (by simp only [Line.owed, a, b] : Line.owed { l with ctl := f l.ctl } j = l.owed j).le

theorem Pays.onLink (h : Pays w s₀ x s) (m : LineId) (f : Link → Link)
    (hf : ∀ k, (f k).sendList.map SendChain.card = k.sendList.map SendChain.card := by exact fun _ => rfl) :
    Pays w s₀ x (s.onLink m f) :=
  Pays.onLine h fun l j => (by simp only [Line.owed, hf] : Line.owed { l with link := f l.link } j = l.owed j).le

theorem Pays.onFax (h : Pays w s₀ x s) (f : Fax → Fax)
    (hf : ∀ k, (f k).orders.map FaxOrder.card = k.orders.map FaxOrder.card := by exact fun _ => rfl) : Pays w s₀ x (s.onFax n f) :=
  h.onLine fun l j => (by simp only [Line.owed, hf] : Line.owed { l with fax := f l.fax } j = l.owed j).le

theorem Pays.onVoice (h : Pays w s₀ x s) {f : Voice → Voice}
    (hf : ∀ v, (f v).playCard = v.playCard ∧ (f v).recordCard = v.recordCard := by exact fun _ => ⟨rfl, rfl⟩) :
    Pays w s₀ x (s.onVoice n f) :=
  h.onLine fun l j => by
    obtain ⟨a, b⟩ := hf l.voice
    exact (by simp only [Line.owed, a, b] : Line.owed { l with voice := f l.voice } j = l.owed j).le

/-! What becomes of the cards of a line where one of its parts changes. -/

theorem Line.owed_ctl (l : Line) (c : LineControl) (j : Nat) :
    { l with ctl := c }.owed j + (cardIn l.ctl.dialCard j + cardIn l.ctl.answerCard j) =
      l.owed j + (cardIn c.dialCard j + cardIn c.answerCard j) := by
  simp only [Line.owed]; omega

theorem Line.owed_link (l : Line) (k : Link) (j : Nat) :
    { l with link := k }.owed j + (l.link.sendList.map SendChain.card).count j =
      l.owed j + (k.sendList.map SendChain.card).count j := by
  simp only [Line.owed]; omega

theorem Line.owed_fax (l : Line) (k : Fax) (j : Nat) :
    { l with fax := k }.owed j + (l.fax.orders.map FaxOrder.card).count j = l.owed j + (k.orders.map FaxOrder.card).count j := by
  simp only [Line.owed]; omega

theorem Line.owed_voice (l : Line) (v : Voice) (j : Nat) :
    { l with voice := v }.owed j + (cardIn l.voice.playCard j + cardIn l.voice.recordCard j) =
      l.owed j + (cardIn v.playCard j + cardIn v.recordCard j) := by
  simp only [Line.owed]; omega

theorem Pays.ctlHeld {a b : Nat → Nat} (h : Pays w s₀ (x.plus (.line n) a) s) {f : LineControl → LineControl}
    (hf : ∀ j, b j + (cardIn (f (s.line n).ctl).dialCard j + cardIn (f (s.line n).ctl).answerCard j) ≤
      a j + (cardIn (s.line n).ctl.dialCard j + cardIn (s.line n).ctl.answerCard j)) :
    Pays w s₀ (x.plus (.line n) b) (s.onCtl n f) :=
  h.onLineHeld fun j => by
    have := (s.line n).owed_ctl (f (s.line n).ctl) j
    have := hf j
    omega

theorem Pays.linkHeld {a b : Nat → Nat} (h : Pays w s₀ (x.plus (.line n) a) s) {f : Link → Link}
    (hf : ∀ j, b j + ((f (s.line n).link).sendList.map SendChain.card).count j ≤
      a j + ((s.line n).link.sendList.map SendChain.card).count j) : Pays w s₀ (x.plus (.line n) b) (s.onLink n f) :=
  h.onLineHeld fun j => by
    have := (s.line n).owed_link (f (s.line n).link) j
    have := hf j
    omega

theorem Pays.faxHeld {a b : Nat → Nat} (h : Pays w s₀ (x.plus (.line n) a) s) {f : Fax → Fax}
    (hf : ∀ j, b j + ((f (s.line n).fax).orders.map FaxOrder.card).count j ≤
      a j + ((s.line n).fax.orders.map FaxOrder.card).count j) : Pays w s₀ (x.plus (.line n) b) (s.onFax n f) :=
  h.onLineHeld fun j => by
    have := (s.line n).owed_fax (f (s.line n).fax) j
    have := hf j
    omega

theorem Pays.voiceHeld {a b : Nat → Nat} (h : Pays w s₀ (x.plus (.line n) a) s) {f : Voice → Voice}
    (hf : ∀ j, b j + (cardIn (f (s.line n).voice).playCard j + cardIn (f (s.line n).voice).recordCard j) ≤
      a j + (cardIn (s.line n).voice.playCard j + cardIn (s.line n).voice.recordCard j)) :
    Pays w s₀ (x.plus (.line n) b) (s.onVoice n f) :=
  h.onLineHeld fun j => by
    have := (s.line n).owed_voice (f (s.line n).voice) j
    have := hf j
    omega

/-- No card of the table is held beside those of `x`. -/
theorem Pays.plusNone (h : Pays w s₀ x s) (T : TableId) : Pays w s₀ (x.plus T fun _ => 0) s := (x.plus_zero T).symm ▸ h

theorem Pays.ofPlusNone {T : TableId} (h : Pays w s₀ (x.plus T fun _ => 0) s) : Pays w s₀ x s := x.plus_zero T ▸ h

theorem Pays.onCall (h : Pays w s₀ x s) {f : CallRecord → CallRecord} : Pays w s₀ x (s.onCall n f) := h.onLine
theorem Pays.onGrade (h : Pays w s₀ x s) {f : Grade → Grade} : Pays w s₀ x (s.onGrade n f) := h.onLine
theorem Pays.onDialler (h : Pays w s₀ x s) (f : Dialler → Dialler) : Pays w s₀ x (s.onDialler n f) := h.onLine
theorem Pays.onProg (h : Pays w s₀ x s) (f : Progress → Progress) : Pays w s₀ x (s.onProg n f) := h.onLine
theorem Pays.onSeq (h : Pays w s₀ x s) (f : AnswerSeq → AnswerSeq) : Pays w s₀ x (s.onSeq n f) := h.onLine
theorem Pays.onFm (h : Pays w s₀ x s) (f : FaultRecord → FaultRecord) : Pays w s₀ x (s.onFm n f) := h.onLine
theorem Pays.raise (h : Pays w s₀ x s) (e : LineEvent) : Pays w s₀ x (s.raise n e) := h.onLine

/-- A change beside the lines, the engine table and the slots. -/
theorem Pays.of_rest (h : Pays w s₀ x s) (hl : t.lines = s.lines) (he : t.engTable = s.engTable) (hg : t.slots = s.slots) :
    Pays w s₀ x t := by
  refine h.same (fun T => ?_) fun T j => Nat.le_of_eq ?_
  · cases T with
    | line m => simp only [State.table, State.line, hl]
    | engine => exact he
  · cases T with
    | line m => simp only [State.owed, State.line, hl]
    | engine => simp only [State.owed, State.slot, hg]

theorem Pays.onPump (h : Pays w s₀ x s) (p : PumpId) (f : Pump → Pump) : Pays w s₀ x (s.onPump p f) := h.of_rest rfl rfl rfl
theorem Pays.onMessage (h : Pays w s₀ x s) (m : EntryId) (f : Message → Message) : Pays w s₀ x (s.onMessage m f) := h.of_rest rfl rfl rfl
theorem Pays.withWaitQueue (h : Pays w s₀ x s) (q : WaitQueue) : Pays w s₀ x { s with queue := q } := h.of_rest rfl rfl rfl
theorem Pays.draw (h : Pays w s₀ x s) : Pays w s₀ x s.draw := h.of_rest rfl rfl rfl
theorem Pays.emit (h : Pays w s₀ x s) (o : Output) : Pays w s₀ x (s.emit o) := h.of_rest rfl rfl rfl
theorem Pays.onHdr (h : Pays w s₀ x s) (f : Header → Header) : Pays w s₀ x (s.onHdr f) := h.of_rest rfl rfl rfl
theorem Pays.raiseEngine (h : Pays w s₀ x s) (e : EngineEvent) : Pays w s₀ x (s.raiseEngine e) := h.of_rest rfl rfl rfl
theorem Pays.nextMessage (h : Pays w s₀ x s) (f : Nat → Nat) : Pays w s₀ x (s.onHdr fun h => { h with nextMessage := f h.nextMessage }) :=
  h.onHdr _
theorem Pays.onStore (h : Pays w s₀ x s) {f : Store → Store} : Pays w s₀ x (s.onStore f) := h.of_rest rfl rfl rfl
theorem Pays.giveBlocks (h : Pays w s₀ x s) (bs : List Nat) {o : Owner} : Pays w s₀ x (s.giveBlocks bs o) := h.onStore

theorem Pays.pop (h : Pays w s₀ x s) {o : Owner} {b : Nat} (hp : s.pop o = some (b, t)) : Pays w s₀ x t := by
  unfold State.pop at hp
  split at hp
  · cases hp
  next c st ht =>
    obtain ⟨-, rfl⟩ := Prod.mk.inj (Option.some.inj hp)
    have k : Pays w s₀ x { s with store := st } := h.of_rest rfl rfl rfl
    split
    · exact k.raiseEngine _
    · exact k

theorem Pays.commit (h : Pays w s₀ x s) (u : State) : Pays w s₀ x (u.commit s) := by
  refine h.same (fun T => ?_) fun T j => Nat.le_of_eq ?_
  · cases T with
    | line m => simp only [State.table, State.line_commit]; rfl
    | engine => rfl
  · cases T with
    | line m => simp only [State.owed, State.line_commit]; rfl
    | engine => rfl

theorem Pays.foldl {α : Type} {f : State → α → State} (hf : ∀ s a, Pays w s₀ x s → Pays w s₀ x (f s a)) (h : Pays w s₀ x s)
    (xs : List α) : Pays w s₀ x (xs.foldl f s) := by
  induction xs generalizing s with
  | nil => exact h
  | cons a xs ih => exact ih (hf s a h)

theorem Pays.ite {c : Prop} [Decidable c] {a b : State} (ha : c → Pays w s₀ x a) (hb : ¬c → Pays w s₀ x b) :
    Pays w s₀ x (if c then a else b) := by
  split
  next k => exact ha k
  next k => exact hb k

/-! ## Slots -/

/-- A change of a slot that gives its card into the operation's hand and takes another, or neither. -/
theorem Pays.onSlotHeld {a b : Nat → Nat} (h : Pays w s₀ (x.plus .engine a) s) {g : SlotId} {f : Slot → Slot}
    (hf : ∀ j, b j + cardIn (f (s.slot g)).unloadCard j ≤ a j + cardIn (s.slot g).unloadCard j) :
    Pays w s₀ (x.plus .engine b) (s.onSlot g f) := by
  refine h.same (fun T => by cases T <;> rfl) fun T j => ?_
  cases T with
  | line m => exact Nat.le_refl _
  | engine =>
    have others : ∑ k ∈ Finset.univ.erase g, cardIn ((s.onSlot g f).slot k).unloadCard j =
        ∑ k ∈ Finset.univ.erase g, cardIn (s.slot k).unloadCard j :=
      Finset.sum_congr rfl fun k hk => by rw [State.slot_onSlot, if_neg (Finset.ne_of_mem_erase hk)]
    have own : (s.onSlot g f).slot g = f (s.slot g) := by rw [State.slot_onSlot, if_pos rfl]
    have := hf j
    simp only [State.owed, Hold.plus_self, ← Finset.add_sum_erase Finset.univ _ (Finset.mem_univ g), others, own]
    omega

/-- A change of a slot that adds no card. -/
theorem Pays.onSlot (h : Pays w s₀ x s) (g : SlotId) (f : Slot → Slot)
    (hf : ∀ j, cardIn (f (s.slot g)).unloadCard j ≤ cardIn (s.slot g).unloadCard j := by exact fun _ => Nat.le_refl _) :
    Pays w s₀ x (s.onSlot g f) := by
  rw [← x.plus_zero .engine] at h ⊢
  exact h.onSlotHeld fun j => Nat.add_le_add_left (hf j) 0

/-- A slot that a card held is put into. -/
theorem Pays.installSlot {i : Nat} (h : Pays w s₀ (x.card .engine i) s) {g : SlotId} {f : Slot → Slot}
    (hf : (f (s.slot g)).unloadCard = some i) : Pays w s₀ x (s.onSlot g f) := by
  rw [← x.plus_zero .engine]
  exact Pays.onSlotHeld (a := cardIn (some i)) h fun j => by rw [hf]; omega

/-- A slot that gives up its card. -/
theorem Pays.releaseSlot (h : Pays w s₀ x s) {g : SlotId} {f : Slot → Slot} (hf : (f (s.slot g)).unloadCard = none) :
    Pays w s₀ (x.plus .engine (cardIn (s.slot g).unloadCard)) (s.onSlot g f) := by
  rw [← x.plus_zero .engine] at h
  have k := Pays.onSlotHeld (b := cardIn (s.slot g).unloadCard) (g := g) (f := f) h fun j => by rw [hf, cardIn_none]; omega
  exact k

/-! ## Answers -/

theorem State.owed_onTable (s : State) (T : TableId) (f : OrderTable → OrderTable) : (s.onTable T f).owed = s.owed := by
  funext U j
  cases T with
  | engine => cases U <;> rfl
  | line n =>
    cases U with
    | engine => rfl
    | line m =>
      simp only [State.owed, State.onTable, State.line_onLine]
      split
      next e => subst e; rfl
      next => rfl

/-- What an answer does beside its card is the raising of an event. -/
theorem Pays.answered {T : TableId} {i : Nat} {c : Card} {st : Status} {r k : Nat} {fs : List Byte} (h : Pays w s₀ x (s.setCard T i c))
    (e : c = ⟨.answered, answerBody (s.card T i) s.hdr.tick st r k fs⟩) :
    Pays w s₀ x (s.answerWith T i st r k fs) := by
  subst e
  cases T with
  | line n => exact h.raise _
  | engine => exact h.raiseEngine _

/-- The answer of a card held. -/
theorem Pays.answerWith {T : TableId} {i : Nat} (h : Pays w s₀ (x.card T i) s) (st : Status) (r k : Nat) (fs : List Byte) :
    Pays w s₀ x (s.answerWith T i st r k fs) := by
  refine Pays.answered (h.to (fun U => ?_) (fun U j => ?_) fun U j => ?_) rfl
  · rw [State.setCard, State.table_onTable]
    split
    next e => rw [e]
    next => rfl
  · rw [State.setCard, State.owed_onTable]
    exact Nat.add_le_add_right (x.le_plus T _ U j) _
  · by_cases same : U = T ∧ j = i
    · obtain ⟨rfl, rfl⟩ := same
      rw [State.setCard, State.owed_onTable, Hold.card, Hold.plus_self, cardIn_self]
      exact .inr (by omega)
    · left
      rw [State.card, State.setCard, State.table_onTable]
      split
      next e =>
        subst e
        rw [List.getElem?_set_ne fun e => same ⟨rfl, e.symm⟩]
        rfl
      next => rfl

theorem Pays.answer {T : TableId} {i : Nat} (h : Pays w s₀ (x.card T i) s) (st : Status) (r : Nat) (fs : List Byte) :
    Pays w s₀ x (s.answer T i st r fs) := h.answerWith st r 0 fs

theorem Pays.answerBadChain {T : TableId} {i : Nat} (h : Pays w s₀ (x.card T i) s) (e : ChainFault) :
    Pays w s₀ x (s.answerBadChain T i e) := h.answer _ _ _

theorem Pays.refuseState {i : Nat} (h : Pays w s₀ (x.card (.line n) i) s) : Pays w s₀ x (s.refuseState n i) := h.answer _ _ _

theorem Hold.plus_cons (x : Hold) (T : TableId) (i : Nat) (c : Nat → Nat) :
    x.plus T (fun j => cardIn (some i) j + c j) = (x.plus T c).card T i := by
  funext U j
  simp only [Hold.card, Hold.plus]
  split <;> omega

/-- The answers of several cards held. -/
theorem Pays.foldlAnswers {α : Type} {T : TableId} {g : α → Nat} {f : State → α → State}
    (hf : ∀ (y : Hold) (s : State) (a : α), Pays w s₀ (y.card T (g a)) s → Pays w s₀ y (f s a)) (xs : List α)
    (h : Pays w s₀ (x.plus T fun j => (xs.map g).count j) s) : Pays w s₀ x (xs.foldl f s) := by
  induction xs generalizing s with
  | nil => exact h.drop
  | cons a xs ih =>
    refine ih (hf _ _ _ ?_)
    rw [← Hold.plus_cons]
    have e : (fun j => ((a :: xs).map g).count j) = fun j => cardIn (some (g a)) j + (xs.map g).count j := by
      funext j
      rw [List.map_cons, List.count_cons, Nat.add_comm]
      congr 1
      simp only [cardIn, Option.some.injEq, beq_iff_eq]
    rwa [e] at h

end Sys2Proof.Machine

/-! What the operations of LinkSend, Delivery, Calls, Pumps, CallEnd and Sequence do with the cards of long orders (see `Pays`). -/

namespace Sys2Proof.Machine

set_option Elab.async false

variable {w x : Hold} {s₀ s : State} {n : LineId}

/-! ## LinkSend -/

theorem Pays.beginFrame (h : Pays w s₀ x s) (m : LineId) (f : LinkFrame) : Pays w s₀ x (s.beginFrame m f) :=
  (h.onLink m _).emit _

theorem Pays.resendFrame (h : Pays w s₀ x s) (m : LineId) (f : SentFrame) : Pays w s₀ x (s.resendFrame m f) :=
  (h.onLink m _).beginFrame m _

/-- A change of the elements of a list that keeps their cards. -/
theorem map_card_map {α : Type} {c : α → Nat} {g : α → α} (h : ∀ a, c (g a) = c a) (xs : List α) : (xs.map g).map c = xs.map c := by
  rw [List.map_map]
  exact List.map_congr_left fun a _ => h a

theorem Pays.newFrame (h : Pays w s₀ x s) (m : LineId) (c : SendChain) : Pays w s₀ x (s.newFrame m c) :=
  (h.onLink m _ fun _ => map_card_map (fun d => by split <;> rfl) _).beginFrame m _

theorem Pays.linkKick (h : Pays w s₀ x s) (m : LineId) : Pays w s₀ x (s.linkKick m) := by
  unfold State.linkKick; dsimp only; repeat' split
  · exact h
  · exact (h.onLink m _).beginFrame m _
  · exact h
  · exact (h.onLink m _).resendFrame m _
  · exact h.onLink m _
  · exact h.newFrame m _
  · exact h
  · exact h

theorem Pays.sendReply (h : Pays w s₀ x s) (m : LineId) (f : LinkFrame) : Pays w s₀ x (s.sendReply m f) := by
  unfold State.sendReply; split
  · exact h.onLink m _
  · exact (h.onLink m _).linkKick m

theorem Pays.rateInFlight (h : Pays w s₀ x s) (m : LineId) : Pays w s₀ x (s.rateInFlight m) := h.onLink m _

theorem Pays.rateSettled (h : Pays w s₀ x s) (m : LineId) : Pays w s₀ x (s.rateSettled m) :=
  (h.onLink m _).linkKick m

theorem Pays.criticalExit (h : Pays w s₀ x s) (m : LineId) : Pays w s₀ x (s.criticalExit m) := by
  unfold State.criticalExit; dsimp only; repeat' split
  · exact h.onLink m _
  · exact (h.onLink m _).sendReply m _
  · exact h

theorem Pays.criticalExits (h : Pays w s₀ x s) : Pays w s₀ x s.criticalExits :=
  Pays.foldl (fun _ m k => k.criticalExit m) h allLines

theorem Pays.freeBlock (h : Pays w s₀ x s) (b : Nat) : Pays w s₀ x (s.freeBlock b) :=
  Pays.criticalExits h.onStore

theorem Pays.freeBlocks (h : Pays w s₀ x s) (bs : List Nat) : Pays w s₀ x (s.freeBlocks bs) :=
  Pays.foldl (fun _ b k => k.freeBlock b) h bs

/-! ## Delivery -/

theorem Pays.onOpenEntry (h : Pays w s₀ x s) (k : EntryKind) (f : Entry → Entry) :
    Pays w s₀ x (s.onOpenEntry n k f) := h.onLine

theorem Pays.setDelivered (h : Pays w s₀ x s) (f : Line → List Entry) :
    Pays w s₀ x (s.onLine n fun l => { l with delivered := f l }) := h.onLine

theorem Pays.setRecvBlock (h : Pays w s₀ x s) (f : Line → Option Nat) :
    Pays w s₀ x (s.onLine n fun l => { l with recvBlock := f l }) := h.onLine

theorem Pays.removeEntries (h : Pays w s₀ x s) : Pays w s₀ x (s.removeEntries n) := by
  unfold State.removeEntries; dsimp only; split
  · exact h
  · exact (h.setDelivered _).criticalExit n

theorem Pays.popRecv (h : Pays w s₀ x s) {ek : EntryKind} {bk : BlockKind} {t : State}
    (hp : s.popRecv n ek bk = some t) : Pays w s₀ x t := by
  unfold State.popRecv at hp
  split at hp
  · simp at hp
  next b s' hpop =>
    have hs := h.pop hpop
    split at hp
    all_goals
      rw [← Option.some.inj hp]
      exact hs.onStore.setRecvBlock fun _ => some b

theorem Pays.closeData (h : Pays w s₀ x s) : Pays w s₀ x (s.closeData n) := by
  unfold State.closeData; split
  · exact h
  · exact Pays.removeEntries ((h.onOpenEntry _ _).raise _)

theorem Pays.deliverData (h : Pays w s₀ x s) : Pays w s₀ x (s.deliverData n) := by
  unfold State.deliverData
  split
  · exact h
  next b _ =>
    dsimp only
    have k : Pays w s₀ x _ := (Pays.onLine (h.onStore (f := fun st => st.assign b (.deliv n))) (n := n) (f := fun l => { l with
        recvBlock := none
        delivered := if (l.openEntry .data).isSome then l.delivered else l.delivered ++ [Entry.new .data b 0] })).onOpenEntry
      (n := n) .data fun e => e.join b (e.blockCount + 1) (s.store.fill b)
    split
    · split
      · exact k.closeData
      · exact k
    · exact k

theorem Pays.storeSome (h : Pays w s₀ x s) (data : List Byte) : Pays w s₀ x (s.storeSome n data).1 := by
  unfold State.storeSome
  split
  · exact h
  next t ht =>
    have k : Pays w s₀ x t := by
      split at ht
      · exact Option.some.inj ht ▸ h
      · exact h.popRecv ht
    split
    · exact k
    next b _ =>
      dsimp only
      have k' := k.onStore (f := fun st => st.append b (data.take (1016 - t.store.fill b)))
      split
      · exact k'.deliverData
      · exact k'

theorem Pays.storeData (h : Pays w s₀ x s) (data : List Byte) : Pays w s₀ x (s.storeData n data) := by
  unfold State.storeData; dsimp only
  split
  · exact h.storeSome data
  · exact (h.storeSome data).storeSome _

theorem Pays.deliverPage (h : Pays w s₀ x s) : Pays w s₀ x (s.deliverPage n) := by
  unfold State.deliverPage
  split
  · exact h
  next b _ =>
    have k := h.setRecvBlock (n := n) fun _ => none
    dsimp only
    split
    · exact Pays.freeBlock (Pays.draw (k.onFax _)) b
    · exact Pays.draw (Pays.onOpenEntry (Pays.onLine
        k.onStore) _ _)

theorem Pays.closePage (h : Pays w s₀ x s) (v : Verdict) (r b : Nat) : Pays w s₀ x (s.closePage n v r b) :=
  (h.onOpenEntry .page _).removeEntries

/-! ## Calls -/

theorem Pays.enter (h : Pays w s₀ x s) (st : LineState) (t : Timer) : Pays w s₀ x (s.enter n st t) :=
  (h.onCall).onCtl _

theorem Pays.copyProfile (h : Pays w s₀ x s) : Pays w s₀ x (s.copyProfile n) :=
  h.onLine

theorem Pays.callStart (h : Pays w s₀ x s) (d : Direction) (r : Bool) : Pays w s₀ x (s.callStart n d r) :=
  Pays.onLine h fun l j => by
    have none : (([] : List SendChain).map SendChain.card).count j = 0 := rfl
    show cardIn l.ctl.dialCard j + cardIn l.ctl.answerCard j + (([] : List SendChain).map SendChain.card).count j +
      (l.fax.orders.map FaxOrder.card).count j + cardIn l.voice.playCard j + cardIn l.voice.recordCard j ≤ _
    simp only [Line.owed, none]
    omega

/-- A change of a line beside its table and its event word comes before an answer as well as after it. -/
theorem State.answer_onLine (s : State) (n : LineId) (i : Nat) (st : Status) (r : Nat) (fs : List Byte) {f : Line → Line}
    (hf : ∀ l tb e, f { l with table := tb, ev := e } = { f l with table := tb, ev := e } := by exact fun _ _ _ => rfl) :
    (s.answer (.line n) i st r fs).onLine n f = (s.onLine n f).answer (.line n) i st r fs := by
  have same := hf (s.line n) (s.line n).table (s.line n).ev
  have table : (f (s.line n)).table = (s.line n).table := by have h := congrArg Line.table same; exact h
  have event : (f (s.line n)).ev = (s.line n).ev := by have h := congrArg Line.ev same; exact h
  simp only [State.answer, State.answerWith, State.setCard, State.onTable, State.raise, State.onLine_onLine]
  refine State.onLine_congr ?_
  simp only [State.card, State.table, State.line_onLine_self, table, event]
  exact hf (s.line n) _ _

theorem State.answer_onCtl (s : State) (n : LineId) (i : Nat) (st : Status) (r : Nat) (fs : List Byte) (f : LineControl → LineControl) :
    (s.answer (.line n) i st r fs).onCtl n f = (s.onCtl n f).answer (.line n) i st r fs := s.answer_onLine n i st r fs

theorem Pays.answerDial (h : Pays w s₀ x s) (st : Status) (r : Nat) : Pays w s₀ x (s.answerDial n st r) := by
  unfold State.answerDial; split
  · exact h
  next i e =>
    rw [State.answer_onCtl]
    refine Pays.answer ((h.plusNone _).ctlHeld fun j => ?_) _ _ _
    rw [e]
    show cardIn (some i) j + (cardIn none j + cardIn (s.line n).ctl.answerCard j) ≤ _
    rw [cardIn_none]
    omega

theorem Pays.answerAnswer (h : Pays w s₀ x s) (st : Status) (r : Nat) : Pays w s₀ x (s.answerAnswer n st r) := by
  unfold State.answerAnswer; split
  · exact h
  next i e =>
    rw [State.answer_onCtl]
    refine Pays.answer ((h.plusNone _).ctlHeld fun j => ?_) _ _ _
    rw [e]
    show cardIn (some i) j + (cardIn (s.line n).ctl.dialCard j + cardIn none j) ≤ _
    rw [cardIn_none]
    omega

theorem Pays.connect (h : Pays w s₀ x s) (v : Service) : Pays w s₀ x (s.connect n v) :=
  ((((h.enter _ _).onCall).raise _).answerDial _ _).answerAnswer _ _

theorem Pays.closeHook (h : Pays w s₀ x s) : Pays w s₀ x (s.closeHook n) := ((h.onCall).onCtl _).onVoice

theorem Pays.fileCaller (h : Pays w s₀ x s) (r : CallerRecord) : Pays w s₀ x (s.fileCaller n r) :=
  (h.onCall).raise _

theorem Pays.setDecoder (h : Pays w s₀ x s) (f : Line → Decoder) :
    Pays w s₀ x (s.onLine n fun l => { l with dec := f l }) := h.onLine

theorem Pays.closeWindow (h : Pays w s₀ x s) : Pays w s₀ x (s.closeWindow n) := by
  unfold State.closeWindow; dsimp only; split
  · exact (h.setDecoder _).fileCaller _
  · exact h.setDecoder _

/-! ## Pumps -/

theorem Pays.setClaim (h : Pays w s₀ x s) (f : Line → Option Claim) :
    Pays w s₀ x (s.onLine n fun l => { l with claim := f l }) := h.onLine

theorem Pays.grantNext (h : Pays w s₀ x s) : Pays w s₀ x s.grantNext := by
  unfold State.grantNext; split
  · exact (h.withWaitQueue _).onPump _ _
  · exact h

theorem Pays.arbitrate (h : Pays w s₀ x s) : Pays w s₀ x s.arbitrate :=
  Pays.foldl (fun _ _ k => k.grantNext) h allPumps

theorem Pays.placeClaim (h : Pays w s₀ x s) (c : ClaimClass) : Pays w s₀ x (s.placeClaim n c) := by
  unfold State.placeClaim; split
  · exact (h.onPump _ _).setClaim _
  · exact (h.withWaitQueue _).setClaim _

theorem Pays.dropClaim (h : Pays w s₀ x s) : Pays w s₀ x (s.dropClaim n) := by
  unfold State.dropClaim
  refine Pays.foldl (fun t p k => ?_) ((h.withWaitQueue _).setClaim fun _ => none) allPumps
  split
  · exact k.onPump _ _
  · exact k

theorem Pays.releasePump (h : Pays w s₀ x s) : Pays w s₀ x (s.releasePump n) := by
  unfold State.releasePump
  refine Pays.arbitrate (Pays.onCall (Pays.foldl (fun t p k => ?_) h.dropClaim allPumps))
  split
  · exact k.onPump _ _
  · exact k

/-! ## Voice -/

/-- A slot emptied gives up its UNLOAD GREETING card. -/
theorem Pays.emptySlot (h : Pays w s₀ x s) (g : SlotId) : Pays w s₀ (x.plus .engine (cardIn (s.slot g).unloadCard)) (s.emptySlot g) :=
  (h.releaseSlot rfl).freeBlocks _

theorem Pays.slotPlayEnds (h : Pays w s₀ x s) (g : SlotId) : Pays w s₀ x (s.slotPlayEnds g) := by
  unfold State.slotPlayEnds; dsimp only; split
  · have k := h.emptySlot g
    split
    next i e => rw [e] at k; exact Pays.answer k _ _ _
    next => exact k.drop
  · exact h.onSlot g _

/-- The end of a play gives up its card, which is answered then. -/
theorem Pays.finishPlay (h : Pays w s₀ x s) (e : PlayEnd) (st : Status) (r : Nat) : Pays w s₀ x (s.finishPlay n e st r) := by
  have k : Pays w s₀ (x.plus (.line n) (cardIn (s.line n).voice.playCard))
      (s.onVoice n fun v => { v with play := .none, playCard := none, playChain := [], playTotal := 0 }) :=
    (h.plusNone _).voiceHeld fun j => by
      rw [cardIn_none, Nat.zero_add, Nat.zero_add]
      exact Nat.le_refl _
  have k2 : Pays w s₀ (x.plus (.line n) (cardIn (s.line n).voice.playCard)) (match (s.line n).voice.play with
      | .none => s.onVoice n fun v => { v with play := .none, playCard := none, playChain := [], playTotal := 0 }
      | .slot g => (s.onVoice n fun v => { v with play := .none, playCard := none, playChain := [], playTotal := 0 }).slotPlayEnds g
      | .chain _ => (s.onVoice n fun v => { v with play := .none, playCard := none, playChain := [], playTotal := 0 }).giveBlocks
          ((s.line n).voice.playChain.map Prod.fst) .host) := by
    split
    · exact k
    · exact k.slotPlayEnds _
    · exact k.giveBlocks _
  unfold State.finishPlay; dsimp only
  split
  · exact k2.drop
  next i e => rw [e] at k2; exact Pays.answer k2 _ _ _

/-- A recording that ends gives up its card. -/
theorem Pays.recordingGone (h : Pays w s₀ x s) {f : Voice → Voice} (hp : ∀ v, (f v).playCard = v.playCard)
    (hr : ∀ v, (f v).recording = none) : Pays w s₀ (x.plus (.line n) (cardIn (s.line n).voice.recordCard)) (s.onVoice n f) :=
  (h.plusNone _).voiceHeld fun j => by
    have gone : (f (s.line n).voice).recordCard = none := by rw [Voice.recordCard, hr]
    rw [hp, gone, cardIn_none]
    omega

theorem Pays.finishRecording (h : Pays w s₀ x s) (r : EndReason) : Pays w s₀ x (s.finishRecording n r) := by
  unfold State.finishRecording; dsimp only
  split
  · exact h
  next m e =>
    split
    next =>
      refine Pays.drop (T := .line n) (c := cardIn (s.line n).voice.recordCard) (Pays.raise ?_ _)
      exact Pays.recordingGone (h.onMessage m _) (fun _ => rfl) fun _ => rfl
    next i kind =>
      have card : (s.line n).voice.recordCard = some i := by rw [Voice.recordCard, e, kind]
      refine Pays.answer (Pays.raise ?_ _) _ _ _
      rw [Hold.card, ← card]
      exact Pays.recordingGone (h.onMessage m _) (fun _ => rfl) fun _ => rfl

theorem Pays.voiceTeardown (h : Pays w s₀ x s) (o : CallOutcome) : Pays w s₀ x (s.voiceTeardown n o) := by
  unfold State.voiceTeardown; dsimp only
  generalize (if o = .remoteCleared then EndReason.remote else .cleared) = r
  split
  · exact h.finishRecording r
  · exact (h.finishRecording r).finishPlay _ _ _

/-! ## Link and fax -/

theorem Pays.returnChain {c : SendChain} (h : Pays w s₀ (x.card (.line n) c.card) s) (o : CallOutcome) :
    Pays w s₀ x (s.returnChain n o c) := Pays.answer (h.giveBlocks _) _ _ _

/-- The Send List is given up, and the cards of its chains are answered then. -/
theorem Pays.linkTeardown (h : Pays w s₀ x s) (o : CallOutcome) : Pays w s₀ x (s.linkTeardown n o) := by
  unfold State.linkTeardown; split
  · refine Pays.closeData (Pays.deliverData (Pays.foldlAnswers (T := .line n) (g := SendChain.card)
      (fun _ _ c k => k.returnChain o) _ ((h.plusNone _).linkHeld fun j => ?_)))
    exact (Nat.zero_add _).ge
  · exact h

theorem Pays.answerPages {a : FaxOrder} (h : Pays w s₀ (x.card (.line n) a.card) s) (st : Status) (r : Nat) :
    Pays w s₀ x (s.answerPages n st r a) := Pays.draw (Pays.answer h _ _ _)

/-- The Page List and its orders are given up, and the cards of the orders are answered then. -/
theorem Pays.returnPages (h : Pays w s₀ x s) (o : CallOutcome) : Pays w s₀ x (s.returnPages n o) := by
  have blocks : Pays w s₀ x ((s.line n).fax.pages.foldl (fun s p => s.giveBlocks (p.chain.map Prod.fst) .host) s) :=
    Pays.foldl (fun _ _ k => k.giveBlocks _) h _
  have kept : (((s.line n).fax.pages.foldl (fun s p => s.giveBlocks (p.chain.map Prod.fst) .host) s).line n).fax = (s.line n).fax :=
    (Only.foldl_giveBlocks s n _).of .fax
  rw [State.returnPages_eq]
  refine Pays.foldlAnswers (T := .line n) (g := FaxOrder.card) (fun _ _ _ k => k.answerPages _ _) _
    ((blocks.plusNone _).faxHeld fun j => ?_)
  rw [kept]
  exact (Nat.zero_add _).ge

theorem Pays.faxSenderTeardown (h : Pays w s₀ x s) (o : CallOutcome) : Pays w s₀ x (s.faxSenderTeardown n o) := by
  unfold State.faxSenderTeardown; split
  · exact h.onFax _
  · exact (h.returnPages o).onFax _

theorem Pays.faxReceiverTeardown (h : Pays w s₀ x s) : Pays w s₀ x (s.faxReceiverTeardown n) := by
  unfold State.faxReceiverTeardown; split
  · exact h.onFax _
  · exact (((h.deliverPage.closePage _ _ _).onFax _).raise _).onFax _

theorem Pays.faxTeardown (h : Pays w s₀ x s) (o : CallOutcome) : Pays w s₀ x (s.faxTeardown n o) := by
  unfold State.faxTeardown; dsimp only; repeat' split
  · exact h.faxSenderTeardown o
  · exact h.faxReceiverTeardown
  · exact h

/-! ## The call-end sequence and the clear decision -/

theorem Pays.answerCallCards (h : Pays w s₀ x s) (o : CallOutcome) : Pays w s₀ x (s.answerCallCards n o) := by
  unfold State.answerCallCards; dsimp only; split
  · exact h.answerAnswer _ _
  · exact (h.answerDial _ _).answerAnswer _ _

theorem Pays.stopUnits (h : Pays w s₀ x s) : Pays w s₀ x (s.stopUnits n) :=
  h.onLine

theorem Pays.callEnd (h : Pays w s₀ x s) (o : CallOutcome) : Pays w s₀ x (s.callEnd n o) := by
  have a : Pays w s₀ x ((s.releasePump n).onGrade n Grade.ended) := h.releasePump.onGrade
  exact (((((a.linkTeardown o).faxTeardown o).voiceTeardown o).stopUnits).answerCallCards o).onCall.raise _

theorem Pays.sendLinkClose (h : Pays w s₀ x s) (o : CallOutcome) : Pays w s₀ x (s.sendLinkClose n o) := by
  unfold State.sendLinkClose; split
  · exact h.emit _
  · exact h

theorem Pays.clearDecision (h : Pays w s₀ x s) (o : CallOutcome) : Pays w s₀ x (s.clearDecision n o) :=
  ((((h.closeWindow.sendLinkClose o).onCall).enter _ _).onCtl _).callEnd o

/-! ## Faults -/

theorem Pays.takeFault (h : Pays w s₀ x s) (k : FaultKind) (d : FailDetail) (g a : Bool) :
    Pays w s₀ x (s.takeFault n k d g a) := by
  have key : ∀ p : Policy, Pays w s₀ x (if p = .silent then s.onFm n fun f => { f with last := some ⟨k, d, p, s.hdr.tick⟩ }
      else (s.onFm n fun f => { f with last := some ⟨k, d, p, s.hdr.tick⟩ }).raise n .fault) := by
    intro p; split
    · exact h.onFm _
    · exact (h.onFm _).raise _
  unfold State.takeFault; dsimp only; split
  · split
    · exact ((key _).onFm _).clearDecision _
    · exact ((key _).onFm _).clearDecision _
    · split
      · exact key _
      · exact (key _).clearDecision _
  · exact h

theorem Pays.fault (h : Pays w s₀ x s) (k : FaultKind) : Pays w s₀ x (s.fault n k) := h.takeFault k _ _ _

theorem Pays.faxFailed (h : Pays w s₀ x s) (d : FailDetail) : Pays w s₀ x (s.faxFailed n d) :=
  (h.onFax _).takeFault _ d _ _

theorem Pays.abandonRetry (h : Pays w s₀ x s) (o : CallOutcome) : Pays w s₀ x (s.abandonRetry n o) := by
  unfold State.abandonRetry; dsimp only; split
  · split
    · exact ((h.onFm _).answerDial _ _).returnPages o
    · exact (h.onFm _).answerDial _ _
  · exact h

theorem Pays.enterOff (h : Pays w s₀ x s) : Pays w s₀ x (s.enterOff n) := (h.enter _ _).returnPages _

theorem Pays.endClearing (h : Pays w s₀ x s) : Pays w s₀ x (s.endClearing n) := by
  have k : Pays w s₀ x ((s.onCtl n fun c => { c with declined := false, declinedGap := .stopped }).onCall n fun c =>
    { c with disablePending := false }) := (h.onCtl _).onCall
  unfold State.endClearing; dsimp only; repeat' split
  · exact k.enter _ _
  · exact k.enter _ _
  · exact k.enterOff
  · exact k.enter _ _

/-! ## Recordings, plays and the answer sequence -/

/-- The card of a RECORD. -/
def RecordingKind.card : RecordingKind → Option Nat
  | .host i => some i
  | .automatic => none

theorem Voice.recordCard_some {v : Voice} {m : EntryId} (h : v.recording = some m) : v.recordCard = v.recKind.card := by
  rw [Voice.recordCard, h]
  cases v.recKind <;> rfl

theorem Hold.plus_none (x : Hold) (T : TableId) : x.plus T (cardIn none) = x := x.plus_zero T

/-- A recording that begins takes its card's place. -/
theorem Pays.beginRecording {k : RecordingKind} (h : Pays w s₀ (x.plus (.line n) (cardIn k.card)) s) (m : EntryId) (b : Bool) :
    Pays w s₀ x (s.beginRecording n m k b) := by
  unfold State.beginRecording; dsimp only
  refine Pays.ofPlusNone (T := .line n) (Pays.voiceHeld ((h.onMessage m _).nextMessage nextNumber) fun j => ?_)
  rw [Voice.recordCard_some rfl]
  show 0 + (cardIn (s.line n).voice.playCard j + cardIn k.card j) ≤ cardIn k.card j + (cardIn (s.line n).voice.playCard j + _)
  omega

theorem Pays.autoRecord (h : Pays w s₀ x s) : Pays w s₀ x (s.autoRecord n) := by
  unfold State.autoRecord; split
  · rw [← x.plus_none (.line n)] at h
    exact (Pays.beginRecording (k := .automatic) h _ _).onSeq _
  · exact ((h.onVoice).raise _).clearDecision _

theorem Pays.goOn (h : Pays w s₀ x s) : Pays w s₀ x (s.goOn n) := by
  unfold State.goOn; split
  · exact h.autoRecord
  · exact h.onSeq _

theorem Pays.beginListen (h : Pays w s₀ x s) : Pays w s₀ x (s.beginListen n) := by
  unfold State.beginListen; split
  · exact (h.onSeq _).goOn
  · exact h.onSeq _

theorem Pays.afterGreeting (h : Pays w s₀ x s) (b : Bool) : Pays w s₀ x (s.afterGreeting n b) := by
  have k : Pays w s₀ x (s.onSeq n fun q => { q with greetingStopped := q.greetingStopped || b }) := h.onSeq _
  unfold State.afterGreeting; dsimp only; repeat' split
  · exact k.beginListen
  · exact k.goOn
  · exact k

/-- A play that begins takes its card's place. -/
theorem Pays.beginPlay {d : Option Nat} (h : Pays w s₀ (x.plus (.line n) (cardIn d)) s) (p : Play) (c : Chain) (t : Nat) :
    Pays w s₀ x (s.beginPlay n p c t d) := by
  have k : Pays w s₀ x (s.onVoice n fun v =>
      { v with play := p, playCard := d, playChain := c, playTotal := t, samplesPlayed := 0, decoder := .initial }) :=
    Pays.ofPlusNone (T := .line n) (h.voiceHeld fun j => by
      show 0 + (cardIn d j + cardIn (s.line n).voice.recordCard j) ≤ _
      omega)
  unfold State.beginPlay; dsimp only; split
  · exact k.onSlot _ _
  · exact k

theorem Pays.endPlay (h : Pays w s₀ x s) (e : PlayEnd) : Pays w s₀ x (s.endPlay n e) := by
  unfold State.endPlay; dsimp only; split
  · exact (h.finishPlay _ _ _).afterGreeting _
  · exact h.finishPlay _ _ _

theorem Pays.endRecording (h : Pays w s₀ x s) (r : EndReason) : Pays w s₀ x (s.endRecording n r) := by
  unfold State.endRecording; dsimp only; repeat' split
  · exact h.finishRecording _
  · exact (h.finishRecording _).onSeq _
  · exact (h.finishRecording _).clearDecision _

theorem Pays.beginSequence (h : Pays w s₀ x s) : Pays w s₀ x (s.beginSequence n) := by
  have k : Pays w s₀ x ((s.onSeq n fun q => { q with listening := q.adaptive, greetingStopped := false }).onCtl n fun c =>
    { c with faxToneBurst := false }) := (h.onSeq _).onCtl _
  unfold State.beginSequence; dsimp only; repeat' split
  · rw [← x.plus_none (.line n)] at k
    exact (k.beginPlay _ _ _).onSeq _
  · exact k.beginListen
  · exact k.goOn
  · exact k.beginListen
  · exact k.goOn

theorem Pays.resumeSequence (h : Pays w s₀ x s) : Pays w s₀ x (s.resumeSequence n) := by
  unfold State.resumeSequence; split
  · exact h.onSeq _
  · exact h.goOn

theorem Pays.expireClaim (h : Pays w s₀ x s) : Pays w s₀ x (s.expireClaim n) := by
  have k := (h.dropClaim (n := n)).takeFault (n := n) .noPump .none true false
  unfold State.expireClaim; dsimp only; repeat' split
  · exact k.resumeSequence
  · exact k
  · exact h.dropClaim.fault _

theorem Pays.makeClaim (h : Pays w s₀ x s) (c : ClaimClass) : Pays w s₀ x (s.makeClaim n c) := by
  unfold State.makeClaim; dsimp only; split
  · exact (h.placeClaim c).expireClaim
  · exact h.placeClaim c

end Sys2Proof.Machine

/-! What the operations of Lines, Dial and Ringing do with the cards of long orders (see `Pays`): the card of an order is
held when the order begins. -/

namespace Sys2Proof.Machine

set_option Elab.async false

variable {w x : Hold} {s₀ s : State} {n : LineId}

/-! ## Lines -/

theorem Pays.enableOrder {i : Nat} (h : Pays w s₀ (x.card (.line n) i) s) : Pays w s₀ x (s.enableOrder n i) := by
  unfold State.enableOrder; split
  · exact (h.enter _ _).answer _ _ _
  · exact h.refuseState
  · exact h.answer _ _ _

theorem Pays.disableEffect (h : Pays w s₀ x s) : Pays w s₀ x (s.disableEffect n) := by
  have k : Pays w s₀ x ((s.onFm n fun f => { f with latch := none }).abandonRetry n .localCleared) :=
    (h.onFm _).abandonRetry _
  unfold State.disableEffect; dsimp only; split
  · exact k
  · exact k.enterOff
  · exact k.onCall
  · exact k.enterOff
  · exact k.enterOff
  · exact (k.clearDecision _).onCall

theorem Pays.disableOrder {i : Nat} (h : Pays w s₀ (x.card (.line n) i) s) : Pays w s₀ x (s.disableOrder n i) :=
  h.disableEffect.answer _ _ _

theorem Pays.hangupEffect (h : Pays w s₀ x s) : Pays w s₀ x (s.hangupEffect n) := by
  unfold State.hangupEffect; split
  · exact h
  · exact h
  · exact h
  · exact h
  · exact (h.abandonRetry _).enter _ _
  · exact h.clearDecision _

theorem Pays.hangupOrder {i : Nat} (h : Pays w s₀ (x.card (.line n) i) s) : Pays w s₀ x (s.hangupOrder n i) := by
  unfold State.hangupOrder; split
  · exact h.refuseState
  · exact h.hangupEffect.answer _ _ _

theorem Pays.clearLineEffect (h : Pays w s₀ x s) : Pays w s₀ x (s.clearLineEffect n) := by
  unfold State.clearLineEffect; split
  · exact (h.onFm _).enter _ _
  · exact h.hangupEffect

theorem Pays.clearFaultOrder {i : Nat} (h : Pays w s₀ (x.card (.line n) i) s) : Pays w s₀ x (s.clearFaultOrder n i) := by
  unfold State.clearFaultOrder; split
  · exact ((h.onFm _).enter _ _).answer _ _ _
  · exact h.refuseState

theorem Pays.clearRetryCountOrder {i : Nat} (h : Pays w s₀ (x.card (.line n) i) s) : Pays w s₀ x (s.clearRetryCountOrder n i) := by
  unfold State.clearRetryCountOrder; split
  · exact h.refuseState
  · exact (h.onFm _).answer _ _ _

theorem Pays.loopFall (h : Pays w s₀ x s) : Pays w s₀ x (s.loopFall n) := by
  unfold State.loopFall; exact h.onCtl _

theorem Pays.loopReturn (h : Pays w s₀ x s) : Pays w s₀ x (s.loopReturn n) := by
  unfold State.loopReturn; dsimp only; split
  · exact (h.onCtl _).fault _
  · exact h.onCtl _

theorem Pays.loopDrop (h : Pays w s₀ x s) : Pays w s₀ x (s.loopDrop n) := by
  unfold State.loopDrop; split
  · exact h.clearDecision _
  · exact h

theorem Pays.ringGap (h : Pays w s₀ x s) : Pays w s₀ x (s.ringGap n) := by
  unfold State.ringGap; split
  · exact ((h.closeWindow.onCall).callEnd _).enter _ _
  · exact h

theorem Pays.guardExpiry (h : Pays w s₀ x s) : Pays w s₀ x (s.guardExpiry n) := by
  unfold State.guardExpiry; dsimp only; repeat' split
  · exact h.onCtl _
  · exact (h.onCtl _).endClearing
  · exact h

theorem Pays.declinedGapExpiry (h : Pays w s₀ x s) : Pays w s₀ x (s.declinedGapExpiry n) := by
  unfold State.declinedGapExpiry; dsimp only; repeat' split
  · exact h.onCtl _
  · exact (h.onCtl _).endClearing
  · exact h

/-! ## Dialling -/

theorem Pays.enterProgress (h : Pays w s₀ x s) : Pays w s₀ x (s.enterProgress n) := by
  unfold State.enterProgress; exact ((h.enter _ _).onDialler _).onProg _

theorem Pays.takeSymbols (h : Pays w s₀ x s) (bs : List Byte) : Pays w s₀ x (s.takeSymbols n bs) := by
  induction bs generalizing s with
  | nil => exact (h.onDialler _).enterProgress
  | cons b bs ih =>
    unfold State.takeSymbols; dsimp only; repeat' split
    · exact (h.onDialler _).emit _
    · exact (h.onDialler _).onCtl _
    · exact h.onDialler _
    · exact h.onDialler _
    · exact (h.onDialler _).onCtl _
    · exact ih (h.onDialler _)
    · exact ih (h.onDialler _)
    · exact ih (h.onDialler _)

theorem Pays.nextSymbol (h : Pays w s₀ x s) : Pays w s₀ x (s.nextSymbol n) := h.takeSymbols _

theorem Pays.enterDialling (h : Pays w s₀ x s) : Pays w s₀ x (s.enterDialling n) := (h.enter _ _).nextSymbol

theorem Pays.offHookAttempt (h : Pays w s₀ x s) (v : Bool) : Pays w s₀ x (s.offHookAttempt n v) := by
  unfold State.offHookAttempt; dsimp only; repeat' split
  · exact h.closeHook.enterDialling
  · exact h.closeHook.enter _ _
  · exact h.takeFault _ _ _ _

theorem Pays.placeCall (h : Pays w s₀ x s) (v : Bool) : Pays w s₀ x (s.placeCall n v) := by
  unfold State.placeCall; split
  · exact h.offHookAttempt v
  · exact (h.enter _ _).makeClaim _

theorem Pays.dialCall {i : Nat} (h : Pays w s₀ (x.card (.line n) i) s) (v : Service) (bs : List Byte) (b : Bool) :
    Pays w s₀ x (s.dialCall n i v bs b) := by
  unfold State.dialCall; dsimp only
  refine Pays.placeCall (Pays.install (h.callStart _ _).copyProfile fun j => ?_) b
  show cardIn (some i) j + _ + _ + _ + _ + _ ≤ _
  simp only [Line.owed]
  omega

theorem Pays.dialOrder {i : Nat} (h : Pays w s₀ (x.card (.line n) i) s) (c : Card) (b : Bool) : Pays w s₀ x (s.dialOrder n i c b) := by
  unfold State.dialOrder; repeat' split
  · exact h.answer _ _ _
  · exact h.answer _ _ _
  · exact h.dialCall _ _ _
  · exact h.refuseState

theorem Pays.redial (h : Pays w s₀ x s) (b : Bool) : Pays w s₀ x (s.redial n b) := by
  unfold State.redial; dsimp only; split
  · exact (Pays.onLine ((h.onFm _).callStart _ _)).placeCall b
  · exact h

theorem Pays.dialToneWaitExpiry (h : Pays w s₀ x s) : Pays w s₀ x (s.dialToneWaitExpiry n) := by
  unfold State.dialToneWaitExpiry; split
  · exact h.fault _
  · exact h

theorem Pays.dialToneAccepted (h : Pays w s₀ x s) : Pays w s₀ x (s.dialToneAccepted n) := by
  unfold State.dialToneAccepted; dsimp only; repeat' split
  · exact h
  · exact h.enterDialling
  · exact h.nextSymbol
  · exact h

theorem Pays.wWaitExpiry (h : Pays w s₀ x s) : Pays w s₀ x (s.wWaitExpiry n) := by
  unfold State.wWaitExpiry; split
  · exact h.fault _
  · exact h

theorem Pays.toneOnEnd (h : Pays w s₀ x s) : Pays w s₀ x (s.toneOnEnd n) := by
  unfold State.toneOnEnd; split
  · exact h.onDialler _
  · exact h

theorem Pays.pulseBreakEnd (h : Pays w s₀ x s) : Pays w s₀ x (s.pulseBreakEnd n) := by
  unfold State.pulseBreakEnd; split
  · exact (h.onDialler _).onCtl _
  · exact h

theorem Pays.pulseMakeEnd (h : Pays w s₀ x s) : Pays w s₀ x (s.pulseMakeEnd n) := by
  unfold State.pulseMakeEnd; repeat' split
  · exact (h.onDialler _).onCtl _
  · exact h.onDialler _
  · exact h

theorem Pays.countCycle (h : Pays w s₀ x s) (c : Cycle) : Pays w s₀ x (s.countCycle n c) := by
  unfold State.countCycle; dsimp only; repeat' split
  · exact (h.onProg _).clearDecision _
  · exact h.onProg _
  · exact (h.onProg _).clearDecision _
  · exact h.onProg _
  · exact h.onProg _

theorem Pays.progressToneOnset (h : Pays w s₀ x s) (ms : Nat) : Pays w s₀ x (s.progressToneOnset n ms) := by
  unfold State.progressToneOnset; dsimp only; repeat' split
  · exact ((h.onCtl _).onProg _).countCycle _
  · exact (h.onCtl _).onProg _
  · exact h.onCtl _

theorem Pays.voiceAnswer (h : Pays w s₀ x s) : Pays w s₀ x (s.voiceAnswer n) := by
  unfold State.voiceAnswer; split
  · exact (h.onProg _).connect _
  · exact h

theorem Pays.progressToneCease (h : Pays w s₀ x s) (ms : Nat) : Pays w s₀ x (s.progressToneCease n ms) := by
  unfold State.progressToneCease; dsimp only; split
  · exact ((h.onCtl _).onProg _).voiceAnswer
  · exact h.onCtl _

theorem Pays.voicePathOpen (h : Pays w s₀ x s) : Pays w s₀ x (s.voicePathOpen n) := by
  unfold State.voicePathOpen; split
  · exact (h.onProg _).voiceAnswer
  · exact h

theorem Pays.beginTraining (h : Pays w s₀ x s) (r : Role) : Pays w s₀ x (s.beginTraining n r) := by
  unfold State.beginTraining; dsimp only; split
  · exact (((h.enter _ _).onProg _).onPump _ _).emit _
  · exact (h.enter _ _).onProg _

theorem Pays.answerToneAccepted (h : Pays w s₀ x s) : Pays w s₀ x (s.answerToneAccepted n) := by
  unfold State.answerToneAccepted; split
  · exact h.beginTraining _
  · exact h

/-! ## Ringing and answering -/

theorem Pays.answerAttempt (h : Pays w s₀ x s) (v : Service) (a b : Bool) : Pays w s₀ x (s.answerAttempt n v a b) := by
  have k : Pays w s₀ x ((((s.closeWindow n).closeHook n).onCall n fun c => { c with service := v }).enter n .answering .stopped) :=
    (h.closeWindow.closeHook.onCall).enter _ _
  unfold State.answerAttempt; dsimp only; repeat' split
  · exact k.onSeq _
  · exact k.makeClaim _
  · exact h.fault _

theorem Pays.autoAnswer (h : Pays w s₀ x s) (b : Bool) : Pays w s₀ x (s.autoAnswer n b) := by
  unfold State.autoAnswer; dsimp only; repeat' split
  all_goals first | exact h | exact h.answerAttempt _ _ _

theorem Pays.firstRing (h : Pays w s₀ x s) (b : Bool) : Pays w s₀ x (s.firstRing n b) :=
  (((((h.callStart _ _).copyProfile.onCall ).enter _ _).raise _).setDecoder _).autoAnswer b

theorem Pays.furtherRing (h : Pays w s₀ x s) (b : Bool) : Pays w s₀ x (s.furtherRing n b) :=
  ((((h.onCall ).onCtl _).raise _).closeWindow).autoAnswer b

theorem Pays.ringCounted (h : Pays w s₀ x s) (b : Bool) : Pays w s₀ x (s.ringCounted n b) := by
  unfold State.ringCounted; repeat' split
  · exact h.firstRing b
  · exact h.furtherRing b
  · exact (h.onCall.callEnd _).firstRing b
  · exact ((h.abandonRetry _).onCall).firstRing b
  · exact h.onCtl _
  · exact h
  · exact h

theorem Pays.burstStart (h : Pays w s₀ x s) (b : Byte) : Pays w s₀ x (s.burstStart n b) := by
  unfold State.burstStart; split
  · exact h.setDecoder _
  · exact h

theorem Pays.burstEnd (h : Pays w s₀ x s) (bs : List Byte) : Pays w s₀ x (s.burstEnd n bs) := by
  unfold State.burstEnd; repeat' split
  · exact (h.setDecoder _).fileCaller _
  · exact h.setDecoder _
  · exact h

theorem Pays.answerOrder {i : Nat} (h : Pays w s₀ (x.card (.line n) i) s) (c : Card) (b : Bool) :
    Pays w s₀ x (s.answerOrder n i c b) := by
  have k : Pays w s₀ x (s.onCtl n fun c => { c with answerCard := some i }) :=
    Pays.ofPlusNone (T := .line n) (Pays.ctlHeld h fun j => by
      show 0 + (cardIn (s.line n).ctl.dialCard j + cardIn (some i) j) ≤ _
      omega)
  unfold State.answerOrder; dsimp only; repeat' split
  · exact k.answerAttempt _ _ _
  · exact k.answerAttempt _ _ _
  · exact k.answerAttempt _ _ _
  · exact k.answerAttempt _ _ _
  · exact h.answer _ _ _
  · exact h.refuseState

theorem Pays.voiceSettle (h : Pays w s₀ x s) : Pays w s₀ x (s.voiceSettle n) := by
  unfold State.voiceSettle; split
  · exact ((h.onSeq _).connect _).beginSequence
  · exact h

theorem Pays.listenExpiry (h : Pays w s₀ x s) : Pays w s₀ x (s.listenExpiry n) := by
  unfold State.listenExpiry; split
  · exact (h.onSeq _).goOn
  · exact h

theorem Pays.switchClaim (h : Pays w s₀ x s) (v : Service) : Pays w s₀ x (s.switchClaim n v) :=
  (h.onSeq _).makeClaim _

theorem Pays.faxToneCease (h : Pays w s₀ x s) (ms : Nat) : Pays w s₀ x (s.faxToneCease n ms) := by
  unfold State.faxToneCease; dsimp only; split
  · exact (h.onCtl _).switchClaim _
  · exact h.onCtl _

theorem Pays.dataToneAccepted (h : Pays w s₀ x s) : Pays w s₀ x (s.dataToneAccepted n) := by
  unfold State.dataToneAccepted; split
  · exact h.switchClaim _
  · exact h

end Sys2Proof.Machine

/-! What the operations of Voice, Rate and LinkReceive do with the cards of long orders (see `Pays`): the card of an order is
held when the order begins. -/

namespace Sys2Proof.Machine

set_option Elab.async false

variable {w x : Hold} {s₀ s : State} {n : LineId}

/-! ## Voice -/

theorem Pays.popMessage (h : Pays w s₀ x s) {m : EntryId} {b : Nat} {t : State} {k : LineId}
    (hp : s.popMessage k m = some (b, t)) : Pays w s₀ x t := by
  unfold State.popMessage at hp
  split at hp
  · split at hp
    · simp at hp
    next c u hu =>
      simp only [Option.some.injEq, Prod.mk.injEq] at hp
      rw [← hp.2]
      exact (h.pop hu).onStore.onMessage _ _
  · simp at hp

theorem Pays.storeCode (h : Pays w s₀ x s) {m : EntryId} {c : Nat} {t : State} {k : LineId}
    (hp : s.storeCode k m c = some t) : Pays w s₀ x t := by
  unfold State.storeCode at hp
  dsimp only at hp
  split at hp
  · split at hp
    · rw [← Option.some.inj hp]
      exact h.onStore.onMessage _ _
    · rw [← Option.some.inj hp]
      exact h.onMessage _ _
  · split at hp
    · simp at hp
    next b u hu =>
      rw [← Option.some.inj hp]
      have k' : Pays w s₀ x u := by
        split at hu
        · cases hu; exact h
        · exact h.popMessage hu
      exact k'.onStore.onMessage _ _

theorem Pays.encodeSample (h : Pays w s₀ x s) (a : Sample) : Pays w s₀ x (s.encodeSample n a) := by
  unfold State.encodeSample; dsimp only; split
  · exact h
  · split
    · exact (h.raise _).endRecording _
    next t ht =>
      have k : Pays w s₀ x t := h.storeCode ht
      have e : Pays w s₀ x (t.onVoice n fun v => { v.hear a with encoder := ((s.line n).voice.encoder.encode a.toInt).2 }) :=
        k.onVoice (hf := fun v => by unfold Voice.hear; split <;> exact ⟨rfl, rfl⟩)
      split
      · exact e.endRecording _
      · exact e

theorem Pays.frameInProgress (h : Pays w s₀ x s) (b c : Bool) : Pays w s₀ x (s.frameInProgress n b c) := by
  unfold State.frameInProgress; split
  · exact (h.onProg _).voiceAnswer
  · exact h

theorem Pays.frameInRecording (h : Pays w s₀ x s) (b : Bool) : Pays w s₀ x (s.frameInRecording n b) := by
  have k : Pays w s₀ x (s.onVoice n fun v => { v with silentRun := if b then v.silentRun + 1 else 0 }) := h.onVoice
  unfold State.frameInRecording; dsimp only
  generalize (s.onVoice n fun v => { v with silentRun := if b then v.silentRun + 1 else 0 }) = t at *
  repeat' split
  · exact k.endRecording _
  · exact k
  · exact h

theorem Pays.nextFrame (h : Pays w s₀ x s) (k : Nat) : Pays w s₀ x (s.nextFrame n k) := h.onVoice.onCtl _

theorem Pays.frameEnd (h : Pays w s₀ x s) (xs : List Sample) : Pays w s₀ x (s.frameEnd n xs) := by
  unfold State.frameEnd; dsimp only; split
  · exact ((h.nextFrame _).frameInRecording _).frameInProgress _ _
  · exact h

theorem Pays.recordOrder {i : Nat} (h : Pays w s₀ (x.card (.line n) i) s) (c : Card) : Pays w s₀ x (s.recordOrder n i c) := by
  unfold State.recordOrder; dsimp only; repeat' split
  · exact h.answer _ _ _
  · exact h.answer _ _ _
  · exact Pays.beginRecording (k := .host i) h _ _
  · exact h.refuseState

theorem Pays.playOrder {i : Nat} (h : Pays w s₀ (x.card (.line n) i) s) (c : Card) : Pays w s₀ x (s.playOrder n i c) := by
  unfold State.playOrder; dsimp only; repeat' split
  · exact h.answer _ _ _
  · exact h.answer _ _ _
  · exact Pays.beginPlay (d := some i) h _ _ _
  · exact h.answer _ _ _
  · exact h.answerBadChain _
  · exact Pays.beginPlay (d := some i) (h.giveBlocks _) _ _ _
  · exact h.answer _ _ _
  · exact h.refuseState

theorem Pays.decodeSample (h : Pays w s₀ x s) : Pays w s₀ x (s.decodeSample n) := by
  unfold State.decodeSample; dsimp only; repeat' split
  · exact h
  · exact (h.onVoice.emit _).endPlay _
  · exact h.onVoice.emit _

theorem Pays.stopOrder {i : Nat} (h : Pays w s₀ (x.card (.line n) i) s) : Pays w s₀ x (s.stopOrder n i) := by
  have a : Pays w s₀ (x.card (.line n) i) (if decide ((s.line n).voice.play ≠ .none) = true then s.endPlay n .stopped else s) :=
    .ite (fun _ => h.endPlay _) fun _ => h
  unfold State.stopOrder; dsimp only; split
  · exact h.refuseState
  · refine Pays.answer (Pays.ite (fun _ => ?_) fun _ => a) _ _ _
    exact a.endRecording _

theorem Pays.queueDigit (h : Pays w s₀ x s) (d : Byte) : Pays w s₀ x (s.queueDigit n d) := by
  have k : Pays w s₀ x (s.onVoice n fun v => { v with digits := v.digits ++ [d] }) := h.onVoice
  unfold State.queueDigit; dsimp only; split
  · split
    · exact k.raise _
    · exact k
  · exact h.onVoice

theorem Pays.digitEndsListening (h : Pays w s₀ x s) : Pays w s₀ x (s.digitEndsListening n) := by
  unfold State.digitEndsListening; dsimp only; repeat' split
  · exact (h.onSeq _).goOn
  · exact h.onSeq _
  · exact h

theorem Pays.digitHeard (h : Pays w s₀ x s) (d : Byte) : Pays w s₀ x (s.digitHeard n d) := by
  unfold State.digitHeard; dsimp only; repeat' split
  · exact (h.queueDigit d).endRecording _
  · exact (h.queueDigit d).digitEndsListening
  · exact h

theorem Pays.takeDigitsOrder {i : Nat} (h : Pays w s₀ (x.card (.line n) i) s) : Pays w s₀ x (s.takeDigitsOrder n i) := by
  unfold State.takeDigitsOrder; dsimp only
  exact (h.onVoice ).answerWith _ _ _ _

theorem Pays.loadGreetingOrder {i : Nat} (h : Pays w s₀ (x.card .engine i) s) (c : Card) : Pays w s₀ x (s.loadGreetingOrder i c) := by
  unfold State.loadGreetingOrder; repeat' split
  · exact h.answer _ _ _
  · exact h.answer _ _ _
  · exact h.answerBadChain _
  · exact ((h.giveBlocks _).onSlot _ _ fun _ => Nat.zero_le _).answer _ _ _

theorem Pays.unloadGreetingOrder {i : Nat} (h : Pays w s₀ (x.card .engine i) s) (c : Card) :
    Pays w s₀ x (s.unloadGreetingOrder i c) := by
  unfold State.unloadGreetingOrder; repeat' split
  · exact h.answer _ _ _
  · exact h.answer _ _ _
  · exact h.answer _ _ _
  · exact Pays.answer (h.emptySlot _).drop _ _ _
  · exact h.installSlot rfl

theorem Pays.collectOrder {i : Nat} (h : Pays w s₀ (x.card .engine i) s) (c : Card) : Pays w s₀ x (s.collectOrder i c) := by
  unfold State.collectOrder; split
  · exact h.answer _ _ _
  · exact ((h.giveBlocks _).onMessage _ _).answer _ _ _

theorem Pays.discardOrder {i : Nat} (h : Pays w s₀ (x.card .engine i) s) (c : Card) : Pays w s₀ x (s.discardOrder i c) := by
  unfold State.discardOrder; split
  · exact h.answer _ _ _
  · exact ((h.onMessage _ _).freeBlocks _).answer _ _ _

/-! ## Rate -/

theorem Pays.onHeldPump (h : Pays w s₀ x s) (f : Pump → Pump) : Pays w s₀ x (s.onHeldPump n f) := by
  unfold State.onHeldPump; split
  · exact h.onPump _ _
  · exact h

theorem Pays.beginLinkOpen (h : Pays w s₀ x s) : Pays w s₀ x (s.beginLinkOpen n) := (h.onLink n _).sendReply n _

theorem Pays.errorsRead (h : Pays w s₀ x s) : Pays w s₀ x (s.errorsRead n) := h.onLink n _

theorem Pays.exchangeReport (h : Pays w s₀ x s) (f : Nat) (a b : Word) : Pays w s₀ x (s.exchangeReport n f a b) :=
  h.errorsRead.onGrade

theorem Pays.dataTraining (h : Pays w s₀ x s) (f : Nat) (a b : Word) : Pays w s₀ x (s.dataTraining n f a b) := by
  unfold State.dataTraining; dsimp only; repeat' split
  · exact (((h.exchangeReport f a b).onGrade).onHeldPump _).beginLinkOpen
  · exact (h.exchangeReport f a b).fault _
  · exact h

theorem Pays.trainingMismatch (h : Pays w s₀ x s) : Pays w s₀ x (s.trainingMismatch n) := by
  unfold State.trainingMismatch; split
  · exact h.fault _
  · exact h

theorem Pays.requestShift (h : Pays w s₀ x s) (t : Nat) : Pays w s₀ x (s.requestShift n t) :=
  ((h.onGrade.onHeldPump _).emit _).rateInFlight n

theorem Pays.beginRetrain (h : Pays w s₀ x s) : Pays w s₀ x (s.beginRetrain n) := by
  have k : Pays w s₀ x (if (s.line n).link.inFlight = true then
      s.onGrade n fun g => { g with retrainCount := g.retrainCount + 1, rate := .retraining }
      else (s.onGrade n fun g => { g with retrainCount := g.retrainCount + 1, rate := .retraining }).rateInFlight n) := by
    split
    · exact h.onGrade
    · exact h.onGrade.rateInFlight n
  unfold State.beginRetrain; dsimp only
  split
  · generalize (if (s.line n).link.inFlight = true then
      s.onGrade n fun g => { g with retrainCount := g.retrainCount + 1, rate := .retraining }
      else (s.onGrade n fun g => { g with retrainCount := g.retrainCount + 1, rate := .retraining }).rateInFlight n) = t at *
    split
    · exact (((k.onHeldPump _).emit _).onCall).raise _
    · exact (k.onHeldPump _).emit _
  · exact h.fault _

theorem Pays.collapseTest (h : Pays w s₀ x s) : Pays w s₀ x (s.collapseTest n) := by
  unfold State.collapseTest; dsimp only; repeat' split
  · exact h.onGrade.takeFault _ _ _ _
  · exact h.onGrade
  · exact h.onGrade

theorem Pays.judgeWindow (h : Pays w s₀ x s) (f : Nat) : Pays w s₀ x (s.judgeWindow n f) := by
  unfold State.judgeWindow; dsimp only; repeat' split
  · exact h.onGrade.requestShift _
  · exact h.onGrade
  · exact h.onGrade.requestShift _
  · exact h.onGrade.beginRetrain
  · exact h.onGrade
  · exact h.onGrade

theorem Pays.window (h : Pays w s₀ x s) (a b : Word) : Pays w s₀ x (s.window n a b) := by
  have e : Pays w s₀ x (if (s.line n).call.service = .data then s.errorsRead n else s) := .ite (fun _ => h.errorsRead) fun _ => h
  have k : Pays w s₀ x ((if (s.line n).call.service = .data then s.errorsRead n else s).onGrade n fun g =>
      if g.seedPending then { g.seed (margin a b) with seedPending := false } else g.take (margin a b)) := e.onGrade
  unfold State.window; dsimp only
  exact .ite (fun _ => .ite (fun _ => .ite (fun _ => k.collapseTest.judgeWindow _) fun _ => k.collapseTest)
    fun _ => k) fun _ => h

theorem Pays.shiftDone (h : Pays w s₀ x s) : Pays w s₀ x (s.shiftDone n) := by
  unfold State.shiftDone; split
  · exact h
  · exact ((h.onGrade.onHeldPump _).rateSettled n).raise _

theorem Pays.farRetrain (h : Pays w s₀ x s) : Pays w s₀ x (s.farRetrain n) := by
  unfold State.farRetrain; split
  · exact (h.onHeldPump _).beginRetrain
  · exact h

theorem Pays.exchangeDone (h : Pays w s₀ x s) (f : Nat) (a b : Word) : Pays w s₀ x (s.exchangeDone n f a b) := by
  have k : Pays w s₀ x (s.exchangeReport n f a b) := h.exchangeReport f a b
  unfold State.exchangeDone; dsimp only; repeat' split
  · exact ((k.onGrade.onHeldPump _).onCall).rateSettled n
  · exact (((k.onGrade.onHeldPump _).onCall).rateSettled n).raise _
  · exact k.beginRetrain

theorem Pays.retrainDone {a : RetrainAttempt} (h : Pays w s₀ x s) (f : Nat) (b c : Word) :
    Pays w s₀ x (s.retrainDone a f b c) := .ite (fun _ => h.exchangeDone f b c) fun _ => h

theorem Pays.attemptFailed {a : RetrainAttempt} (h : Pays w s₀ x s) : Pays w s₀ x (s.attemptFailed a) :=
  .ite (fun _ => h.beginRetrain) fun _ => h

theorem Pays.carrierLoss (h : Pays w s₀ x s) : Pays w s₀ x (s.carrierLoss n) := by
  unfold State.carrierLoss; dsimp only; repeat' split
  · exact (h.onHeldPump _).onCtl _
  · exact (h.onHeldPump _).fault _
  · exact h

theorem Pays.adaptiveSwitch (h : Pays w s₀ x s) : Pays w s₀ x (s.adaptiveSwitch n) := by
  have k : Pays w s₀ x (if (s.line n).voice.play = .none then s else s.finishPlay n .switched .cut switchedCode) := by
    split
    · exact h
    · exact h.finishPlay _ _ _
  unfold State.adaptiveSwitch; dsimp only
  exact ((k.onCall).onSeq _).beginTraining _

theorem Pays.grantSettled (h : Pays w s₀ x s) (v : Bool) : Pays w s₀ x (s.grantSettled n v) := by
  unfold State.grantSettled; repeat' split
  · exact h.offHookAttempt v
  · exact h.beginTraining _
  · exact h.adaptiveSwitch
  · exact h
  · exact h

theorem Pays.requeue (h : Pays w s₀ x s) : Pays w s₀ x (s.requeue n) := by
  unfold State.requeue; dsimp only; split
  · exact h
  · exact .ite (fun _ => ((h.withWaitQueue _).setClaim _).arbitrate)
      fun _ => .ite (fun _ => ((h.withWaitQueue _).setClaim _).expireClaim) fun _ => (h.withWaitQueue _).setClaim _

theorem Pays.claimWaitExpiry (h : Pays w s₀ x s) : Pays w s₀ x (s.claimWaitExpiry n) := by
  unfold State.claimWaitExpiry; repeat' split
  · exact h.expireClaim
  · exact h
  · exact h

/-! ## The checked link -/

/-- How often a card stands in a list that an element was added to. -/
theorem count_card_append {α : Type} (c : α → Nat) (xs : List α) (a : α) (j : Nat) :
    ((xs ++ [a]).map c).count j = (xs.map c).count j + cardIn (some (c a)) j := by
  rw [List.map_append, List.count_append, List.map_cons, List.map_nil, List.count_singleton]
  simp only [cardIn, Option.some.injEq, beq_iff_eq]

theorem Pays.sendOrder {i : Nat} (h : Pays w s₀ (x.card (.line n) i) s) (c : Card) : Pays w s₀ x (s.sendOrder n i c) := by
  unfold State.sendOrder; dsimp only; repeat' split
  · exact h.answer _ _ _
  · exact h.answer _ _ _
  · refine Pays.linkKick (Pays.ofPlusNone (T := .line n) (Pays.linkHeld (h.giveBlocks _) fun j => ?_)) n
    rw [count_card_append]
    exact (Nat.zero_add _).le.trans (Nat.add_comm ..).le
  · exact h.answer _ _ _

theorem Pays.linkOpenRepeat (h : Pays w s₀ x s) : Pays w s₀ x (s.linkOpenRepeat n) := by
  unfold State.linkOpenRepeat; split
  · exact (h.onLink n _).sendReply n _
  · exact h

/-- A link that comes up begins with an empty Send List. -/
theorem Pays.linkUp (h : Pays w s₀ x s) (a l : Nat) : Pays w s₀ x (s.linkUp n a l) := by
  refine Pays.connect (Pays.ofPlusNone (T := .line n) (Pays.linkHeld (((h.onLink n _).sendReply n _).plusNone _) fun j => ?_)) _
  exact Nat.add_le_add_left (Nat.zero_le _) 0

/-- A list cut in two holds each card as often as before. -/
theorem count_card_filter {α : Type} (c : α → Nat) {p q : α → Bool} (hq : ∀ a, q a = !p a) (xs : List α) (j : Nat) :
    ((xs.filter p).map c).count j + ((xs.filter q).map c).count j = (xs.map c).count j := by
  induction xs with
  | nil => rfl
  | cons a xs ih =>
    cases e : p a
    all_goals simp only [List.filter_cons, hq, e, Bool.not_true, Bool.not_false, if_true, Bool.false_eq_true, if_false, List.map_cons,
      List.count_cons]
    all_goals omega

/-- The chains acknowledged to their ends leave the Send List, and their cards are answered then. -/
theorem Pays.ackFrames (h : Pays w s₀ x s) (d : Nat) : Pays w s₀ x (s.ackFrames n d) := by
  unfold State.ackFrames; dsimp only
  refine Pays.foldlAnswers (T := .line n) (g := SendChain.card) (fun _ _ c k => Pays.answer k _ _ _) _
    (Pays.freeBlocks (Pays.linkHeld (h.plusNone _) fun j => ?_) _)
  have both := count_card_filter SendChain.card (p := fun c => decide (c.chain.bytes ≤ c.acked))
    (q := fun c => decide (c.acked < c.chain.bytes)) (fun c => by rw [← decide_not]; simp only [Nat.not_le])
    ((s.line n).link.sendList.map fun c => c.ack ((s.line n).link.sendWindow.take d)) j
  rw [map_card_map (c := SendChain.card) (g := fun c => c.ack ((s.line n).link.sendWindow.take d)) fun _ => rfl] at both
  exact (both.trans (Nat.zero_add _).symm).le

theorem Pays.receipt (h : Pays w s₀ x s) (k : BitVec 7) : Pays w s₀ x (s.receipt n k) := by
  unfold State.receipt; dsimp only; split
  · exact h
  · exact (((h.ackFrames _).onLink n _).onLink n _).linkKick n

theorem Pays.resendWindow (h : Pays w s₀ x s) : Pays w s₀ x (s.resendWindow n) := (h.onLink n _).linkKick n

theorem Pays.resendOrExhaust (h : Pays w s₀ x s) : Pays w s₀ x (s.resendOrExhaust n) := by
  unfold State.resendOrExhaust; repeat' split
  · exact (h.onLink n _).linkKick n
  · exact h.resendWindow
  · exact h.fault _

theorem Pays.reject (h : Pays w s₀ x s) (k : BitVec 7) : Pays w s₀ x (s.reject n k) := by
  unfold State.reject; split
  · exact h
  · exact ((h.ackFrames _).onLink n _).resendOrExhaust

theorem Pays.holdReceived (h : Pays w s₀ x s) (k : BitVec 7) : Pays w s₀ x (s.holdReceived n k) := by
  unfold State.holdReceived; split
  · exact h
  · exact (h.ackFrames _).onLink n _

theorem Pays.replyExpiry (h : Pays w s₀ x s) : Pays w s₀ x (s.replyExpiry n) := by
  unfold State.replyExpiry; split
  · exact h.resendOrExhaust
  · exact h

theorem Pays.discardFrame (h : Pays w s₀ x s) : Pays w s₀ x (s.discardFrame n) := by
  unfold State.discardFrame; dsimp only; split
  · exact ((h.onLink n _).raise _).sendReply n _
  · exact (h.onLink n _).sendReply n _

theorem Pays.takeInfo (h : Pays w s₀ x s) (d : List Byte) : Pays w s₀ x (s.takeInfo n d) :=
  ((h.storeData d).onLink n _).sendReply n _

theorem Pays.infoReceived (h : Pays w s₀ x s) (k : BitVec 7) (d : List Byte) : Pays w s₀ x (s.infoReceived n k d) := by
  unfold State.infoReceived; dsimp only; repeat' split
  · exact h.discardFrame
  · exact h.takeInfo d
  · exact ((h.onLink n _).raise _).discardFrame
  · exact h.sendReply n _
  · exact h
  · exact (h.onLink n _).sendReply n _

theorem Pays.flush (h : Pays w s₀ x s) : Pays w s₀ x (s.flush n) := (h.onLink n _).deliverData.closeData

theorem Pays.farClose (h : Pays w s₀ x s) : Pays w s₀ x (s.farClose n) := (h.onLink n _).flush

theorem Pays.frameReceived (h : Pays w s₀ x s) (f : LinkFrame) : Pays w s₀ x (s.frameReceived n f) := by
  unfold State.frameReceived; split
  · exact h.linkUp _ _
  · exact h.sendReply n _
  · exact h.sendReply n _
  · exact h.infoReceived _ _
  · exact h.receipt _
  · exact h.reject _
  · exact h.holdReceived _
  · exact h.farClose
  · exact h

theorem Pays.runReceived (h : Pays w s₀ x s) (r : List Byte) : Pays w s₀ x (s.runReceived n r) := by
  unfold State.runReceived; repeat' split
  · exact h
  · exact Pays.draw (h.onLink n _)
  · exact h.frameReceived _

theorem Pays.frameSent (h : Pays w s₀ x s) : Pays w s₀ x (s.frameSent n) := by
  unfold State.frameSent; split
  · exact (h.onLink n _).linkKick n
  · exact h

end Sys2Proof.Machine

/-! What the operations of Fax do with the cards of long orders (see `Pays`). -/

namespace Sys2Proof.Machine

set_option Elab.async false

variable {w x : Hold} {s₀ s : State} {n : LineId}

theorem Pays.sendFax (h : Pays w s₀ x s) (f : FaxFrame) : Pays w s₀ x (s.sendFax n f) := h.emit _

theorem Pays.faxWait (h : Pays w s₀ x s) (p : FaxPhase) (f : Option FaxFrame) : Pays w s₀ x (s.faxWait n p f) :=
  h.onFax _

theorem Pays.faxStand (h : Pays w s₀ x s) (p : FaxPhase) (f : FaxFrame) : Pays w s₀ x (s.faxStand n p f) :=
  (h.faxWait p _).sendFax f

theorem Pays.faxRung (h : Pays w s₀ x s) (r : Nat) : Pays w s₀ x (s.faxRung n r) := by
  unfold State.faxRung; dsimp only; split
  · exact h.onGrade
  · exact h.onGrade.raise _

theorem Pays.sendCheck (h : Pays w s₀ x s) : Pays w s₀ x (s.sendCheck n) := ((h.sendFax _).onFax _).emit _

theorem Pays.beginCheck (h : Pays w s₀ x s) (r : Nat) : Pays w s₀ x (s.beginCheck n r) :=
  ((h.faxRung r).onFax _).sendCheck

theorem Pays.beginRelease (h : Pays w s₀ x s) : Pays w s₀ x (s.beginRelease n) := (h.onFax _).sendFax _

theorem Pays.repeatStanding (h : Pays w s₀ x s) : Pays w s₀ x (s.repeatStanding n) := by
  unfold State.repeatStanding; repeat' split
  · exact h
  · exact h.sendCheck
  · exact h.sendFax _
  · exact h

theorem Pays.faxExpiry (h : Pays w s₀ x s) : Pays w s₀ x (s.faxExpiry n) := by
  unfold State.faxExpiry; dsimp only; repeat' split
  · exact (h.onFax _).repeatStanding
  · exact h.clearDecision _
  · exact h.faxFailed _

theorem Pays.takeOffer (h : Pays w s₀ x s) (o : Offer) : Pays w s₀ x (s.takeOffer n o) := (h.onFax _).beginCheck _

theorem Pays.beginSession (h : Pays w s₀ x s) : Pays w s₀ x (s.beginSession n) := by
  unfold State.beginSession; dsimp only; repeat' split
  · exact (h.onFax _).faxStand _ _
  · exact (h.onFax _).beginRelease
  · exact (h.onFax _).takeOffer _
  · exact (h.onFax _).faxWait _ _

theorem Pays.faxTraining (h : Pays w s₀ x s) (a b : Word) : Pays w s₀ x (s.faxTraining n a b) := by
  unfold State.faxTraining; dsimp only; split
  · exact ((h.onGrade.onHeldPump _).connect _).beginSession
  · exact h

theorem Pays.offerReceived (h : Pays w s₀ x s) (o : Offer) : Pays w s₀ x (s.offerReceived n o) := by
  unfold State.offerReceived; dsimp only; repeat' split
  · exact (h.onFax _).beginTraining _
  · exact h.takeOffer o
  · exact h

theorem Pays.takeChoice (h : Pays w s₀ x s) (c : Choice) : Pays w s₀ x (s.takeChoice n c) := by
  unfold State.takeChoice; split
  · exact (h.onFax _).faxStand _ _
  · exact (h.onFax _).faxRung _

theorem Pays.choiceReceived (h : Pays w s₀ x s) (c : Choice) : Pays w s₀ x (s.choiceReceived n c) := by
  unfold State.choiceReceived; split
  · exact h.takeChoice c
  · exact h

theorem Pays.patternJudged (h : Pays w s₀ x s) (e : List Byte) : Pays w s₀ x (s.patternJudged n e) := by
  unfold State.patternJudged; dsimp only; repeat' split
  · exact (h.onFax _).faxStand _ _
  · exact (h.onFax _).faxStand _ _
  · exact h
  · exact h

theorem Pays.noPattern (h : Pays w s₀ x s) : Pays w s₀ x (s.noPattern n) := by
  unfold State.noPattern; repeat' split
  · exact h
  · exact (h.onFax _).faxExpiry
  · exact h

theorem Pays.sendPage (h : Pays w s₀ x s) : Pays w s₀ x (s.sendPage n) := by
  unfold State.sendPage; dsimp only; split
  · exact h.beginRelease
  · exact (h.onFax _).emit _

theorem Pays.patternSent (h : Pays w s₀ x s) : Pays w s₀ x (s.patternSent n) := by
  unfold State.patternSent; repeat' split
  · exact h.onFax _
  · exact h
  · exact h

theorem Pays.ready (h : Pays w s₀ x s) : Pays w s₀ x (s.ready n) := by
  unfold State.ready; split
  · exact (h.onFax _).sendPage
  · exact h

theorem Pays.notReady (h : Pays w s₀ x s) : Pays w s₀ x (s.notReady n) := by
  unfold State.notReady; dsimp only; repeat' split
  · exact (h.onFax _).beginCheck _
  · exact (h.onFax _).beginCheck _
  · exact h.faxFailed _
  · exact h

theorem Pays.onFaxOrder (h : Pays w s₀ x s) (c : Nat) (f : FaxOrder → FaxOrder)
    (hf : ∀ o, (f o).card = o.card := by exact fun _ => rfl) : Pays w s₀ x (s.onFaxOrder n c f) :=
  h.onFax _ fun _ => map_card_map (fun o => by split; exact hf o; rfl) _

theorem Pays.countPage (h : Pays w s₀ x s) (p : Page) : Pays w s₀ x (s.countPage n p) :=
  Pays.draw ((h.onFaxOrder _ _).onFax _)

theorem Pays.pageSent (h : Pays w s₀ x s) : Pays w s₀ x (s.pageSent n) := by
  unfold State.pageSent; split
  · split
    · exact h
    · exact ((h.countPage _).onFax _).faxStand _ _
  · exact h

/-- An order whose pages are done leaves the Page List, and its card is answered. -/
theorem Pays.answerPagesDone (h : Pays w s₀ x s) (c : Nat) : Pays w s₀ x (s.answerPagesDone n c) := by
  unfold State.answerPagesDone; repeat' split
  · exact h
  · exact h
  next o e =>
    have card : o.card = c := by simpa using List.find?_some e
    have left : Pays w s₀ (x.card (.line n) o.card)
        (s.onFax n fun f => { f with orders := f.orders.filter fun o => o.card != c }) := by
      refine Pays.faxHeld (h.plusNone _) fun j => ?_
      have both := count_card_filter FaxOrder.card (p := fun o => o.card == c) (q := fun o => o.card != c) (fun _ => rfl)
        (s.line n).fax.orders j
      have one : cardIn (some o.card) j ≤ (((s.line n).fax.orders.filter fun o => o.card == c).map FaxOrder.card).count j := by
        by_cases same : j = o.card
        · rw [same, cardIn_self]
          exact List.count_pos_iff.mpr (List.mem_map_of_mem (List.mem_filter.mpr ⟨List.mem_of_find?_eq_some e, by simpa using card⟩))
        · rw [cardIn_ne same]; exact Nat.zero_le _
      show _ + (((s.line n).fax.orders.filter fun o => o.card != c).map FaxOrder.card).count j ≤ _
      omega
    have answered := Pays.draw (Pays.answer left .done 0 (s.faxFields n o))
    rw [State.onFax, ← s.answer_onLine] at answered
    exact answered

theorem Pays.finalVerdict (h : Pays w s₀ x s) (v : Verdict) : Pays w s₀ x (s.finalVerdict n v) := by
  unfold State.finalVerdict; split
  · exact h
  · exact (((h.onFaxOrder _ _).onFax _).freeBlocks _).answerPagesDone _

theorem Pays.afterVerdict (h : Pays w s₀ x s) : Pays w s₀ x (s.afterVerdict n) := by
  unfold State.afterVerdict; dsimp only; repeat' split
  · exact h.beginRelease
  · exact (h.onFax _).beginCheck _
  · exact h.sendPage

theorem Pays.actOnVerdict (h : Pays w s₀ x s) (v : SentVerdict) : Pays w s₀ x (s.actOnVerdict n v) := by
  unfold State.actOnVerdict; repeat' split
  · exact (h.finalVerdict _).afterVerdict
  · exact ((h.finalVerdict _).onFax _).afterVerdict
  · exact ((h.finalVerdict _).onFax _).afterVerdict
  · exact (h.onFax _).beginCheck _

theorem Pays.verdictReceived (h : Pays w s₀ x s) (v : SentVerdict) (r b : Nat) :
    Pays w s₀ x (s.verdictReceived n v r b) := by
  unfold State.verdictReceived; split
  · exact ((h.onFax _).raise _).actOnVerdict v
  · exact h

theorem Pays.releaseSent (h : Pays w s₀ x s) : Pays w s₀ x (s.releaseSent n) := by
  unfold State.releaseSent; split
  · exact h.clearDecision _
  · exact h

theorem Pays.releaseReceived (h : Pays w s₀ x s) : Pays w s₀ x (s.releaseReceived n) := by
  unfold State.releaseReceived; split
  · exact h.clearDecision _
  · exact h

theorem Pays.openPage (h : Pays w s₀ x s) : Pays w s₀ x (s.openPage n) := Pays.draw (h.onFax _)

theorem Pays.pageStart (h : Pays w s₀ x s) : Pays w s₀ x (s.pageStart n) := by
  unfold State.pageStart; split
  · exact h.openPage.onFax _
  · exact h

theorem Pays.rowRoom (h : Pays w s₀ x s) (k : Nat) : Pays w s₀ x (s.rowRoom n k) := by
  unfold State.rowRoom; repeat' split
  · exact h
  · exact h.deliverPage
  · exact h

theorem Pays.storeRow (h : Pays w s₀ x s) (r : List Byte) : Pays w s₀ x (s.storeRow n r).1 := by
  have k := h.rowRoom (n := n) r.length
  unfold State.storeRow; dsimp only
  generalize s.rowRoom n r.length = t at *
  split
  · exact h
  · split
    · exact k
    · split
      · exact k.raise _
      next u hu =>
        have ku : Pays w s₀ x u := by
          split at hu
          · exact Option.some.inj hu ▸ k
          · exact k.popRecv hu
        split
        · dsimp only; exact ku.onStore
        · exact ku

theorem Pays.countRow (h : Pays w s₀ x s) (d : Bool) : Pays w s₀ x (s.countRow n d) := Pays.draw (h.onFax _)

theorem Pays.rowReceived (h : Pays w s₀ x s) (d : Bool) (r : List Byte) : Pays w s₀ x (s.rowReceived n d r) := by
  unfold State.rowReceived; dsimp only; split
  · exact (h.storeRow _).countRow _
  · exact h

theorem Pays.pageEnd (h : Pays w s₀ x s) : Pays w s₀ x (s.pageEnd n) := by
  unfold State.pageEnd; split
  · exact (h.onFax _).faxWait _ _
  · exact h

theorem Pays.judgePage (h : Pays w s₀ x s) (l : Bool) : Pays w s₀ x (s.judgePage n l) :=
  (((h.deliverPage.closePage _ _ _).onFax _).raise _).faxStand _ _

theorem Pays.pageFrame (h : Pays w s₀ x s) (l : Bool) : Pays w s₀ x (s.pageFrame n l) := by
  unfold State.pageFrame; dsimp only; repeat' split
  · exact h.judgePage l
  · exact h.openPage.judgePage l
  · exact h.repeatStanding
  · exact h
  · exact h

theorem Pays.faxPagesOrder {i : Nat} (h : Pays w s₀ (x.card (.line n) i) s) (c : Card) : Pays w s₀ x (s.faxPagesOrder n i c) := by
  unfold State.faxPagesOrder; dsimp only; repeat' split
  · exact h.answer _ _ _
  · exact h.answer _ _ _
  · exact h.answer _ _ _
  · refine Pays.ofPlusNone (T := .line n) (Pays.faxHeld (h.giveBlocks _) fun j => ?_)
    rw [count_card_append]
    exact (Nat.zero_add _).le.trans (Nat.add_comm ..).le
  · exact h.refuseState

end Sys2Proof.Machine

/-! What each command but a reset, a sweep and a store write does with the cards of long orders: it is one event that pays them, or the
order of a card that the sweep takes (see `Pays`). -/

namespace Sys2Proof.Machine

set_option Elab.async false

variable {w x : Hold} {s₀ s : State} {n : LineId}

/-! ## Pumps, the Clock and the host pulse monitor -/

theorem Pays.startUp (h : Pays w s₀ x s) : Pays w s₀ x s.startUp := by
  unfold State.startUp; split
  · exact h.of_rest rfl rfl rfl
  · exact h

theorem Pays.settleChecked (h : Pays w s₀ x s) (p : PumpId) (a b : Bool) : Pays w s₀ x (s.settleChecked p a b) := by
  unfold State.settleChecked; dsimp only; repeat' split
  next n _ _ => exact Pays.grantSettled (n := n) (Pays.onLine (h.onPump p _)) b
  next n _ _ => exact ((h.onPump p _).raiseEngine _).requeue
  · exact (h.onPump p _).arbitrate
  · exact (h.onPump p _).raiseEngine _

theorem Pays.settleComplete (h : Pays w s₀ x s) (p : PumpId) (a b : Bool) : Pays w s₀ x (s.settleComplete p a b) := by
  unfold State.settleComplete; split
  · exact (h.settleChecked p a b).startUp
  · exact h

theorem Pays.selfFault (h : Pays w s₀ x s) (p : PumpId) : Pays w s₀ x (s.selfFault p) := by
  unfold State.selfFault; repeat' split
  next n _ => exact (Pays.onCall (n := n) ((h.onPump p _).raiseEngine _)).fault _
  · exact h
  · exact h

theorem Pays.onPort (h : Pays w s₀ x s) (f : Port → Port) : Pays w s₀ x (s.onPort f) := h.of_rest rfl rfl rfl

theorem Pays.requestSweep (h : Pays w s₀ x s) : Pays w s₀ x s.requestSweep := .ite (fun _ => h.of_rest rfl rfl rfl) fun _ => h

theorem Pays.monitorTick (h : Pays w s₀ x s) : Pays w s₀ x s.monitorTick := by
  unfold State.monitorTick; split
  · exact h.of_rest rfl rfl rfl
  · exact h

theorem Pays.tickOnce (h : Pays w s₀ x s) : Pays w s₀ x s.tickOnce :=
  .ite (fun _ => (h.onHdr _).monitorTick.requestSweep) fun _ => h

theorem Pays.silence (h : Pays w s₀ x s) (n : LineId) : Pays w s₀ x (s.silence n) := by
  unfold State.silence; repeat' split
  · exact ((h.abandonRetry _).enter _ _).onCall
  · exact h.abandonRetry _
  · exact h.clearDecision _
  · exact h.clearDecision _
  · exact h

theorem Pays.withMonitor (h : Pays w s₀ x s) (m : Monitor) : Pays w s₀ x { s with monitor := m } := h.of_rest rfl rfl rfl

theorem Pays.hostBack (h : Pays w s₀ x s) : Pays w s₀ x s.hostBack := .ite (fun _ => (h.withMonitor _).raiseEngine _) fun _ => h

theorem Pays.declareSilence (h : Pays w s₀ x s) (order : List LineId) : Pays w s₀ x (s.declareSilence order) := by
  unfold State.declareSilence; dsimp only; split
  · exact Pays.foldl (fun _ n k => k.silence n) (((h.withMonitor _).raiseEngine _).withMonitor _) _
  · exact (h.withMonitor _).raiseEngine _

theorem Pays.comparePulse (h : Pays w s₀ x s) (order : List LineId) : Pays w s₀ x (s.comparePulse order) := by
  unfold State.comparePulse; dsimp only; repeat' split
  · exact (h.withMonitor _).hostBack
  · exact (h.withMonitor _).declareSilence order
  · exact h.withMonitor _

theorem Pays.pulseEnd (h : Pays w s₀ x s) (order : List LineId) : Pays w s₀ x (s.pulseEnd order) := by
  unfold State.pulseEnd; dsimp only; repeat' split
  · exact h
  · exact ((h.comparePulse order).withMonitor _).hostBack
  · exact (h.comparePulse order).withMonitor _

/-! ## Orders -/

theorem Pays.popHost (h : Pays w s₀ x s) (k : Nat) : Pays w s₀ x (s.popHost k).2 := by
  induction k generalizing s with
  | zero => exact h
  | succ k ih =>
    unfold State.popHost
    split
    · exact h
    next hp => exact ih (h.pop hp)

theorem Pays.takeBlocksOrder {i : Nat} (h : Pays w s₀ (x.card .engine i) s) (c : Card) : Pays w s₀ x (s.takeBlocksOrder i c) :=
  (h.popHost _).answerWith _ _ _ _

theorem Pays.setClockOrder {i : Nat} (h : Pays w s₀ (x.card .engine i) s) (c : Card) : Pays w s₀ x (s.setClockOrder i c) :=
  (h.onHdr _).answer _ _ _

theorem Pays.unknownOrder {T : TableId} {i : Nat} (h : Pays w s₀ (x.card T i) s) : Pays w s₀ x (s.unknownOrder T i) := h.answer _ _ _

theorem Pays.clearLineOrder {i : Nat} (h : Pays w s₀ (x.card .engine i) s) (c : Card) : Pays w s₀ x (s.clearLineOrder i c) := by
  unfold State.clearLineOrder; split
  · exact h.clearLineEffect.answer _ _ _
  · exact h.answer _ _ _

theorem Pays.lineOrder {i : Nat} (h : Pays w s₀ (x.card (.line n) i) s) (v : Bool) (c : Card) : Pays w s₀ x (s.lineOrder n v i c) := by
  unfold State.lineOrder; split
  · exact h.enableOrder
  · exact h.disableOrder
  · exact h.dialOrder c v
  · exact h.answerOrder c v
  · exact h.hangupOrder
  · exact h.sendOrder c
  · exact h.faxPagesOrder c
  · exact h.playOrder c
  · exact h.recordOrder c
  · exact h.stopOrder
  · exact h.takeDigitsOrder
  · exact h.clearFaultOrder
  · exact h.clearRetryCountOrder
  · exact h.unknownOrder

theorem Pays.engineOrder {i : Nat} (h : Pays w s₀ (x.card .engine i) s) (c : Card) : Pays w s₀ x (s.engineOrder i c) := by
  unfold State.engineOrder; split
  · exact h.takeBlocksOrder c
  · exact h.loadGreetingOrder c
  · exact h.unloadGreetingOrder c
  · exact h.collectOrder c
  · exact h.discardOrder c
  · exact h.setClockOrder c
  · exact h.clearLineOrder c
  · exact h.unknownOrder

theorem Pays.carryOut {T : TableId} {i : Nat} (h : Pays w s₀ (x.card T i) s) (v : Volts) (c : Card) : Pays w s₀ x (s.carryOut v T i c) := by
  cases T with
  | line n => exact h.lineOrder _ c
  | engine => exact h.engineOrder c

/-! ## Commands -/

/-- No card is held. -/
def Hold.none : Hold := fun _ _ => 0

/-- What the state owes with some cards held. -/
def Hold.before (x : Hold) (s : State) : Hold := fun T j => x T j + s.owed T j

/-- One event that holds no card, or the order of a card that the sweep comes to. -/
inductive Ran (s : State) : State → Prop
  | event {t : State} (pays : Pays (Hold.none.before s) s Hold.none t) : Ran s (s.commit t)
  | order {t : State} (T : TableId) (i : Nat) (comes : (s.table T).comesTo i = true)
      (pays : Pays ((Hold.none.card T i).before (s.taking T i)) (s.taking T i) Hold.none t) : Ran s (s.commit t)

theorem Ran.same : Ran s s := by
  have h := Ran.event (.start .none s)
  rwa [State.commit_self] at h

theorem Ran.of_done {u t : State} (h : Pays (Hold.none.before s) s Hold.none u) (e : done s u = .next t) : Ran s t := by
  cases e; exact .event h

/-- An order carried out with the taking of its card. -/
theorem Ran.of_takeOrder {t : State} {T : TableId} {i : Nat} {codes : Nat → Bool} {order : State → Card → State}
    (h : ∀ {w s₀ u} c, Pays w s₀ (Hold.none.card T i) u → Pays w s₀ Hold.none (order u c))
    (e : takeOrder s T i codes order = .next t) : Ran s t := by
  obtain rfl | ⟨taken, rfl⟩ := takeOrder_next e
  · exact .same
  · exact .order T i (State.takesCard_iff.mp taken).2.2.1 (h _ (.start _ _))

/-- A command that is neither a reset nor a sweep nor a store access. -/
theorem exec_ran {c : Instr} {t : State} (hr : ∀ k, c ≠ .engineReset k) (hc : ∀ v k, c ≠ .ctrlReset v k) (hs : ∀ v p, c ≠ .sweep v p)
    (hw : ∀ o v, c ≠ .hostStoreWrite o v) (ho : ∀ o, c ≠ .hostStoreRead o) (e : exec c s = .next t) : Ran s t := by
  have start := Pays.start .none s
  cases c with
  | engineReset k => exact absurd rfl (hr k)
  | ctrlReset v k => exact absurd rfl (hc v k)
  | sweep v p => exact absurd rfl (hs v p)
  | hostStoreWrite o v => exact absurd rfl (hw o v)
  | hostStoreRead o => exact absurd rfl (ho o)
  | ctrlEnableWrite v => exact Ran.of_done (start.onPort _) e
  | winaWrite v => exact Ran.of_done (start.onPort _) e
  | winbWrite v => exact Ran.of_done (start.onPort _) e
  | attnWrite v => exact Ran.of_done (start.requestSweep) e
  | statRead => exact Ran.of_done (start.onPort _) e
  | statWrite v => exact Ran.of_done start e
  | tick => exact Ran.of_done (start.tickOnce) e
  | unknownOrder T i => exact Ran.of_takeOrder (fun _ k => Pays.unknownOrder (T := T) (i := i.val) k) e
  | takeBlocks i => exact Ran.of_takeOrder (fun c k => Pays.takeBlocksOrder (i := i.val) k c) e
  | loadGreeting i => exact Ran.of_takeOrder (fun c k => Pays.loadGreetingOrder (i := i.val) k c) e
  | unloadGreeting i => exact Ran.of_takeOrder (fun c k => Pays.unloadGreetingOrder (i := i.val) k c) e
  | collectMessage i => exact Ran.of_takeOrder (fun c k => Pays.collectOrder (i := i.val) k c) e
  | discardMessage i => exact Ran.of_takeOrder (fun c k => Pays.discardOrder (i := i.val) k c) e
  | setClock i => exact Ran.of_takeOrder (fun c k => Pays.setClockOrder (i := i.val) k c) e
  | clearLine i => exact Ran.of_takeOrder (fun c k => Pays.clearLineOrder (i := i.val) k c) e
  | pumpSettleComplete p a b => exact Ran.of_done (start.settleComplete p a b) e
  | pumpSelfFault p => exact Ran.of_done (start.selfFault p) e
  | pulsePeriodEnd o => exact Ran.of_done (start.pulseEnd o) e
  | enable m i => exact Ran.of_takeOrder (fun _ k => Pays.enableOrder (n := m) (i := i.val) k) e
  | disable m i => exact Ran.of_takeOrder (fun _ k => Pays.disableOrder (n := m) (i := i.val) k) e
  | dial m i v => exact Ran.of_takeOrder (fun c k => Pays.dialOrder (n := m) (i := i.val) k c v) e
  | answer m i v => exact Ran.of_takeOrder (fun c k => Pays.answerOrder (n := m) (i := i.val) k c v) e
  | hangup m i => exact Ran.of_takeOrder (fun _ k => Pays.hangupOrder (n := m) (i := i.val) k) e
  | send m i => exact Ran.of_takeOrder (fun c k => Pays.sendOrder (n := m) (i := i.val) k c) e
  | faxPages m i => exact Ran.of_takeOrder (fun c k => Pays.faxPagesOrder (n := m) (i := i.val) k c) e
  | play m i => exact Ran.of_takeOrder (fun c k => Pays.playOrder (n := m) (i := i.val) k c) e
  | record m i => exact Ran.of_takeOrder (fun c k => Pays.recordOrder (n := m) (i := i.val) k c) e
  | stop m i => exact Ran.of_takeOrder (fun _ k => Pays.stopOrder (n := m) (i := i.val) k) e
  | takeDigits m i => exact Ran.of_takeOrder (fun _ k => Pays.takeDigitsOrder (n := m) (i := i.val) k) e
  | clearFault m i => exact Ran.of_takeOrder (fun _ k => Pays.clearFaultOrder (n := m) (i := i.val) k) e
  | clearRetryCount m i => exact Ran.of_takeOrder (fun _ k => Pays.clearRetryCountOrder (n := m) (i := i.val) k) e
  | ringVoltageOnset _ => exact Ran.of_done (by apply Pays.closeWindow; exact start) e
  | ringCounted _ _ => exact Ran.of_done (by apply Pays.ringCounted; exact start) e
  | ringGapExpiry _ => exact Ran.of_done (by apply Pays.ringGap; exact start) e
  | callerBurstEnd _ _ => exact Ran.of_done (by apply Pays.burstEnd; exact start) e
  | loopCurrentFall _ => exact Ran.of_done (by apply Pays.loopFall; exact start) e
  | loopCurrentReturn _ => exact Ran.of_done (by apply Pays.loopReturn; exact start) e
  | loopDropExpiry _ => exact Ran.of_done (by apply Pays.loopDrop; exact start) e
  | guardTimeExpiry _ => exact Ran.of_done (by apply Pays.guardExpiry; exact start) e
  | declinedRingGapExpiry _ => exact Ran.of_done (by apply Pays.declinedGapExpiry; exact start) e
  | retryDelayExpiry _ _ => exact Ran.of_done (by apply Pays.redial; exact start) e
  | dialToneWaitExpiry _ => exact Ran.of_done (by apply Pays.dialToneWaitExpiry; exact start) e
  | progressToneOnset _ _ => exact Ran.of_done (by apply Pays.progressToneOnset; exact start) e
  | progressToneCease _ _ => exact Ran.of_done (by apply Pays.progressToneCease; exact start) e
  | dialToneAccepted _ => exact Ran.of_done (by apply Pays.dialToneAccepted; exact start) e
  | wWaitExpiry _ => exact Ran.of_done (by apply Pays.wWaitExpiry; exact start) e
  | toneOnEnd _ => exact Ran.of_done (by apply Pays.toneOnEnd; exact start) e
  | toneGapEnd _ => exact Ran.of_done (.ite (fun _ => (by apply Pays.nextSymbol; exact start)) fun _ => start) e
  | pulseBreakEnd _ => exact Ran.of_done (by apply Pays.pulseBreakEnd; exact start) e
  | pulseMakeEnd _ => exact Ran.of_done (by apply Pays.pulseMakeEnd; exact start) e
  | interdigitPauseEnd _ => exact Ran.of_done (.ite (fun _ => (by apply Pays.nextSymbol; exact start)) fun _ => start) e
  | pauseEnd _ => exact Ran.of_done (.ite (fun _ => (by apply Pays.nextSymbol; exact start)) fun _ => start) e
  | flashEnd m => exact Ran.of_done (.ite (fun _ => Pays.nextSymbol (start.onCtl (n := m) _)) fun _ => start) e
  | answerWaitExpiry _ => exact Ran.of_done (.ite (fun _ => (by apply Pays.clearDecision; exact start)) fun _ => start) e
  | answerToneOnset m => exact Ran.of_done (start.onCtl (n := m) _) e
  | answerToneCease m => exact Ran.of_done (start.onCtl (n := m) _) e
  | answerToneAccepted _ => exact Ran.of_done (by apply Pays.answerToneAccepted; exact start) e
  | voicePathOpen _ => exact Ran.of_done (by apply Pays.voicePathOpen; exact start) e
  | voiceFrameEnd _ _ => exact Ran.of_done (by apply Pays.frameEnd; exact start) e
  | voiceSettleExpiry _ => exact Ran.of_done (by apply Pays.voiceSettle; exact start) e
  | adaptiveListenExpiry _ => exact Ran.of_done (by apply Pays.listenExpiry; exact start) e
  | faxCallingToneOnset m => exact Ran.of_done (start.onCtl (n := m) _) e
  | faxCallingToneCease _ _ => exact Ran.of_done (by apply Pays.faxToneCease; exact start) e
  | dataCallingToneOnset m => exact Ran.of_done (start.onCtl (n := m) _) e
  | dataCallingToneCease m => exact Ran.of_done (start.onCtl (n := m) _) e
  | dataCallingToneAccepted _ => exact Ran.of_done (by apply Pays.dataToneAccepted; exact start) e
  | dtmfDigit _ _ => exact Ran.of_done (by apply Pays.digitHeard; exact start) e
  | encodeSample _ _ => exact Ran.of_done (by apply Pays.encodeSample; exact start) e
  | decodeSample _ => exact Ran.of_done (by apply Pays.decodeSample; exact start) e
  | claimWaitExpiry _ => exact Ran.of_done (by apply Pays.claimWaitExpiry; exact start) e
  | dataTrainingSuccess _ _ _ _ => exact Ran.of_done (by apply Pays.dataTraining; exact start) e
  | faxTrainingSuccess _ _ _ => exact Ran.of_done (by apply Pays.faxTraining; exact start) e
  | trainingServiceMismatch _ => exact Ran.of_done (by apply Pays.trainingMismatch; exact start) e
  | trainingTimerExpiry _ => exact Ran.of_done (.ite (fun _ => (by apply Pays.fault; exact start)) fun _ => start) e
  | gradingWindow _ _ _ => exact Ran.of_done (by apply Pays.window; exact start) e
  | shiftDone _ => exact Ran.of_done (by apply Pays.shiftDone; exact start) e
  | shiftFailed _ => exact Ran.of_done (.ite (fun _ => (by apply Pays.beginRetrain; exact start)) fun _ => start) e
  | shiftAnswerExpiry _ => exact Ran.of_done (.ite (fun _ => (by apply Pays.beginRetrain; exact start)) fun _ => start) e
  | farRetrain _ => exact Ran.of_done (by apply Pays.farRetrain; exact start) e
  | retrainCompletion _ _ _ _ => exact Ran.of_done (by apply Pays.retrainDone; exact start) e
  | retrainAttemptExpiry a => exact Ran.of_done (by apply Pays.attemptFailed; exact start) e
  | retrainServiceMismatch a => exact Ran.of_done (by apply Pays.attemptFailed; exact start) e
  | carrierCease _ => exact Ran.of_done (.ite (fun _ => (by apply Pays.onHeldPump; exact start)) fun _ => start) e
  | carrierReturn _ => exact Ran.of_done (by apply Pays.onHeldPump; exact start) e
  | carrierLossExpiry _ => exact Ran.of_done (by apply Pays.carrierLoss; exact start) e
  | linkOpenRepeat _ => exact Ran.of_done (by apply Pays.linkOpenRepeat; exact start) e
  | linkOpenExpiry _ => exact Ran.of_done (.ite (fun _ => (by apply Pays.fault; exact start)) fun _ => start) e
  | linkOpenFrame _ _ => exact Ran.of_done (by apply Pays.runReceived; exact start) e
  | infoFrame _ _ => exact Ran.of_done (by apply Pays.runReceived; exact start) e
  | receiptFrame _ _ => exact Ran.of_done (by apply Pays.runReceived; exact start) e
  | rejectFrame _ _ => exact Ran.of_done (by apply Pays.runReceived; exact start) e
  | holdFrame _ _ => exact Ran.of_done (by apply Pays.runReceived; exact start) e
  | linkCloseFrame _ _ => exact Ran.of_done (by apply Pays.runReceived; exact start) e
  | badFrame _ _ => exact Ran.of_done (by apply Pays.runReceived; exact start) e
  | frameSent _ => exact Ran.of_done (by apply Pays.frameSent; exact start) e
  | replyTimerExpiry _ => exact Ran.of_done (by apply Pays.replyExpiry; exact start) e
  | holdTimerExpiry _ => exact Ran.of_done (.ite (fun _ => (by apply Pays.fault; exact start)) fun _ => start) e
  | deliveryIdleExpiry _ => exact Ran.of_done (.ite (fun _ => (by apply Pays.flush; exact start)) fun _ => start) e
  | offerFrame _ _ => exact Ran.of_done (by apply Pays.offerReceived; exact start) e
  | choiceFrame _ _ => exact Ran.of_done (by apply Pays.choiceReceived; exact start) e
  | checkPatternSent _ => exact Ran.of_done (by apply Pays.patternSent; exact start) e
  | checkPatternResult _ _ => exact Ran.of_done (by apply Pays.patternJudged; exact start) e
  | checkCarrierWaitExpiry _ => exact Ran.of_done (by apply Pays.noPattern; exact start) e
  | readyFrame _ => exact Ran.of_done (by apply Pays.ready; exact start) e
  | notReadyFrame _ => exact Ran.of_done (by apply Pays.notReady; exact start) e
  | pageSent _ => exact Ran.of_done (by apply Pays.pageSent; exact start) e
  | pageCarrierStart _ => exact Ran.of_done (by apply Pays.pageStart; exact start) e
  | pageRow _ _ _ => exact Ran.of_done (by apply Pays.rowReceived; exact start) e
  | pageCarrierCease _ => exact Ran.of_done (by apply Pays.pageEnd; exact start) e
  | moreFrame _ => exact Ran.of_done (by apply Pays.pageFrame; exact start) e
  | lastFrame _ => exact Ran.of_done (by apply Pays.pageFrame; exact start) e
  | verdictFrame _ _ _ _ => exact Ran.of_done (by apply Pays.verdictReceived; exact start) e
  | faxReleaseSent _ => exact Ran.of_done (by apply Pays.releaseSent; exact start) e
  | releaseFrame _ => exact Ran.of_done (by apply Pays.releaseReceived; exact start) e
  | faxReplyExpiry _ => exact Ran.of_done (.ite (fun _ => (by apply Pays.faxExpiry; exact start)) fun _ => start) e
  | callerBurstStart _ _ => exact Ran.of_done (by apply Pays.burstStart; exact start) e

end Sys2Proof.Machine

/-! The law of long orders (10 R171, R174) as a count: no card stands for two orders, and one that stands for an order is TAKEN. Every
command keeps it. -/

namespace Sys2Proof.Machine

set_option Elab.async false

/-- How often a card is held, owed an answer, or waits for its owner. -/
def State.stands (s : State) (x : Hold) (T : TableId) (j : Nat) : Nat := x T j + s.owed T j + (s.table T).waiting.count j

/-- With the cards `x` held, no card stands for two orders, and the card of each is TAKEN. -/
def State.Lawful (s : State) (x : Hold) : Prop := ∀ T j, s.stands x T j ≤ 1 ∧ (s.stands x T j ≠ 0 → (s.card T j).hand = .taken)

variable {w x y : Hold} {s t : State} {n : LineId}

/-! ## The law as the model states it -/

theorem cardIn_le_one (c : Option Nat) (j : Nat) : cardIn c j ≤ 1 := by unfold cardIn; split <;> omega

theorem cardIn_ne_zero {c : Option Nat} {j : Nat} : cardIn c j ≠ 0 ↔ c = some j := by
  unfold cardIn; split <;> simp_all

/-- A card owed by the engine stands in a slot. -/
theorem State.owed_engine_ne_zero {j : Nat} : s.owed .engine j ≠ 0 ↔ ∃ g, (s.slot g).unloadCard = some j := by
  simp only [State.owed, ne_eq, Finset.sum_eq_zero_iff, Finset.mem_univ, true_imp_iff, not_forall, ← cardIn_ne_zero]

/-- Two slots with one card make two. -/
theorem State.two_le_owed {g k : SlotId} {j : Nat} (ne : g ≠ k) (hg : (s.slot g).unloadCard = some j)
    (hk : (s.slot k).unloadCard = some j) : 2 ≤ s.owed .engine j := by
  have pair : ∑ q ∈ ({g, k} : Finset SlotId), cardIn (s.slot q).unloadCard j ≤ s.owed .engine j :=
    Finset.sum_le_sum_of_subset (Finset.subset_univ _)
  rwa [Finset.sum_pair ne, hg, hk, cardIn_self] at pair

/-- Slots that share no card owe each once. -/
theorem State.owed_engine_le_one {j : Nat}
    (once : ∀ g k, (s.slot g).unloadCard = some j → (s.slot k).unloadCard = some j → g = k) : s.owed .engine j ≤ 1 := by
  by_cases some : ∃ g, (s.slot g).unloadCard = some j
  · obtain ⟨g, hg⟩ := some
    have single : s.owed .engine j = cardIn (s.slot g).unloadCard j :=
      Finset.sum_eq_single g (fun k _ ne => not_not.mp fun h => ne (once k g (cardIn_ne_zero.mp h) hg)) fun h => absurd (Finset.mem_univ g) h
    rw [single]
    exact cardIn_le_one _ _
  · have none : s.owed .engine j = 0 := not_not.mp fun h => some (State.owed_engine_ne_zero.mp h)
    omega

theorem State.stands_line (n : LineId) (j : Nat) :
    s.stands .none (.line n) j = ((s.line n).longCards ++ (s.line n).table.waiting).count j := by
  rw [List.count_append, Line.count_longCards]
  simp only [State.stands, Hold.none, State.owed, State.table, Nat.zero_add]

theorem State.stands_engine (j : Nat) : s.stands .none .engine j = s.owed .engine j + s.engTable.waiting.count j := by
  simp only [State.stands, Hold.none, State.table, Nat.zero_add]

theorem State.LongOrdersTaken.lawful (h : s.LongOrdersTaken) : s.Lawful .none := by
  rintro (n | _) j
  · rw [State.stands_line]
    exact ⟨List.nodup_iff_count_le_one.mp (h.once n) j, fun some => h.taken n j (List.count_pos_iff.mp (Nat.pos_of_ne_zero some))⟩
  · rw [State.stands_engine]
    have owedOnce := State.owed_engine_le_one (h.unloadOnce · · j)
    have waitsOnce := List.nodup_iff_count_le_one.mp h.waitingOnce j
    by_cases waits : j ∈ s.engTable.waiting
    · obtain ⟨taken, unowed⟩ := h.waiting j waits
      have none : s.owed .engine j = 0 := not_not.mp fun h => (State.owed_engine_ne_zero.mp h).elim unowed
      exact ⟨by omega, fun _ => taken⟩
    · have none : s.engTable.waiting.count j = 0 := List.count_eq_zero.mpr waits
      refine ⟨by omega, fun some => ?_⟩
      obtain ⟨g, hg⟩ := State.owed_engine_ne_zero.mp (show s.owed .engine j ≠ 0 by omega)
      exact h.unload g j hg

theorem State.Lawful.longOrdersTaken (h : s.Lawful .none) : s.LongOrdersTaken := by
  have lineLaw := fun n j => h (.line n) j
  have engineLaw := fun j => h .engine j
  simp only [State.stands_line] at lineLaw
  simp only [State.stands_engine] at engineLaw
  refine ⟨fun n i hi => (lineLaw n i).2 (List.count_pos_iff.mpr hi).ne', fun n => List.nodup_iff_count_le_one.mpr fun j => (lineLaw n j).1,
    fun i hi => ?_, List.nodup_iff_count_le_one.mpr fun j => (Nat.le_add_left ..).trans (engineLaw j).1, fun g i hg => ?_,
    fun g k i hg hk => ?_⟩
  · have waits := List.count_pos_iff.mpr hi
    obtain ⟨once, taken⟩ := engineLaw i
    refine ⟨taken (by omega), fun g hg => ?_⟩
    have owed := State.owed_engine_ne_zero.mpr ⟨g, hg⟩
    omega
  · have owed := State.owed_engine_ne_zero.mpr ⟨g, hg⟩
    exact (engineLaw i).2 (by omega)
  · by_contra ne
    have two := State.two_le_owed ne hg hk
    have := (engineLaw i).1
    omega

/-! ## What keeps it -/

/-- A card stands for no more than before and stays TAKEN, or it is TAKEN now and stands for one order. -/
theorem State.Lawful.to (h : s.Lawful x) (step : ∀ T j,
    (t.stands y T j ≤ s.stands x T j ∧ ((s.card T j).hand = .taken → (t.card T j).hand = .taken)) ∨
      (t.stands y T j ≤ 1 ∧ (t.card T j).hand = .taken)) : t.Lawful y := by
  intro T j
  obtain ⟨once, taken⟩ := h T j
  obtain ⟨fewer, stays⟩ | ⟨one, taken'⟩ := step T j
  · exact ⟨by omega, fun some => stays (taken (by omega))⟩
  · exact ⟨one, fun _ => taken'⟩

/-- A card that is not TAKEN stands for no order. -/
theorem State.Lawful.stands_zero (h : s.Lawful x) {T : TableId} {j : Nat} (free : (s.card T j).hand ≠ .taken) : s.stands x T j = 0 :=
  not_not.mp fun some => free ((h T j).2 some)

theorem OrderTable.waiting_congr {t u : OrderTable} (h : t.listed = u.listed) : t.waiting = u.waiting := by
  simp only [OrderTable.waiting, h]

/-- An operation that pays its cards keeps the law. -/
theorem Pays.lawful (h : Pays (x.before s) s y t) (law : s.Lawful x) : t.Lawful y := by
  intro T j
  obtain ⟨once, taken⟩ := law T j
  have fewer := h.fewer T j
  have waits : t.stands y T j = y T j + t.owed T j + (s.table T).waiting.count j := by
    rw [State.stands, OrderTable.waiting_congr (h.listed T)]
  have before : s.stands x T j = x.before s T j + (s.table T).waiting.count j := rfl
  refine ⟨by omega, fun some => ?_⟩
  obtain e | lt := h.hands T j
  · exact e.trans (taken (by omega))
  · omega

/-! ## Changes of a table -/

theorem State.stands_onTable (T : TableId) (f : OrderTable → OrderTable) (U : TableId) (j : Nat) :
    (s.onTable T f).stands x U j = x U j + s.owed U j + ((if U = T then f (s.table T) else s.table U).waiting).count j := by
  rw [State.stands, State.owed_onTable, State.table_onTable]

/-- A table whose cards stand, and in which no more orders wait. -/
theorem State.Lawful.onTable (h : s.Lawful x) (T : TableId) {f : OrderTable → OrderTable} (hc : (f (s.table T)).cards = (s.table T).cards)
    (hw : ∀ j, (f (s.table T)).waiting.count j ≤ (s.table T).waiting.count j) : (s.onTable T f).Lawful x := by
  refine h.to fun U j => .inl ⟨?_, fun taken => ?_⟩
  · rw [State.stands_onTable, State.stands]
    split
    next e => subst e; have := hw j; omega
    next => exact Nat.le_refl _
  · rw [State.card, State.table_onTable]
    split
    next e => subst e; rw [hc]; exact taken
    next => exact taken

/-- The taking of a POSTED card whose order waits then or goes to its owner: it stands for that order. -/
theorem State.Lawful.take (h : s.Lawful .none) {T : TableId} {i : Nat} (posted : (s.table T).hand i = .posted)
    {f : OrderTable → OrderTable} (hc : (f (s.table T)).cards = ((s.table T).take i).cards)
    (hw : ∀ j, x T j + (f (s.table T)).waiting.count j = (s.table T).waiting.count j + cardIn (some i) j)
    (hx : ∀ U j, U ≠ T → x U j = 0) : (s.onTable T f).Lawful x := by
  have free : (s.card T i).hand ≠ .taken := by
    have e : (s.card T i).hand = .posted := posted
    rw [e]; decide
  have less : i < (s.table T).cards.length := OrderTable.lt_of_hand (by rw [posted]; decide)
  have none := h.stands_zero free
  refine h.to fun U j => ?_
  by_cases same : U = T ∧ j = i
  · obtain ⟨rfl, rfl⟩ := same
    refine .inr ⟨?_, ?_⟩
    · have := hw j
      rw [State.stands_onTable, if_pos rfl]
      rw [State.stands, Hold.none] at none
      rw [cardIn_self] at this
      omega
    · rw [State.card, State.table_onTable, if_pos rfl, hc]
      simp only [OrderTable.take, List.getElem?_set_self less, Option.getD_some]
  · refine .inl ⟨?_, fun taken => ?_⟩
    · rw [State.stands_onTable, State.stands]
      split
      next e =>
        subst e
        have := hw j
        rw [cardIn_ne fun e => same ⟨rfl, e⟩] at this
        simp only [Hold.none]
        omega
      next e => rw [hx U j e]; simp only [Hold.none, Nat.le_refl]
    · rw [State.card, State.table_onTable]
      split
      next e =>
        subst e
        rw [hc]
        simp only [OrderTable.take, List.getElem?_set_ne fun e => same ⟨rfl, e.symm⟩]
        exact taken
      next => exact taken

theorem Hold.none_card_ne {T U : TableId} (h : U ≠ T) (i j : Nat) : Hold.none.card T i U j = 0 := Hold.plus_ne _ h _ _

theorem Hold.none_card_self (T : TableId) (i j : Nat) : Hold.none.card T i T j = cardIn (some i) j := by
  rw [Hold.card, Hold.plus_self, Hold.none, Nat.zero_add]

/-- A card that the sweep comes to is held while its order is carried out. -/
theorem State.Lawful.taking (h : s.Lawful .none) {T : TableId} {i : Nat} (comes : (s.table T).comesTo i = true) :
    (s.taking T i).Lawful (Hold.none.card T i) := by
  obtain ⟨⟨rest, waits⟩, -⟩ | ⟨none, -, posted⟩ := OrderTable.comesTo_iff.mp comes
  · have step : (s.table T).taking i = (s.table T).handOver := by
      rw [OrderTable.taking, if_neg (by rw [waits]; exact List.cons_ne_nil _ _)]
    refine h.to fun U j => .inl ⟨?_, fun taken => ?_⟩
    · rw [State.taking, State.stands_onTable, State.stands]
      split
      next e =>
        subst e
        rw [Hold.none_card_self, step, OrderTable.waiting_handOver, waits, List.tail_cons, List.count_cons]
        have one : (if i == j then 1 else 0) = cardIn (some i) j := by simp only [cardIn, Option.some.injEq, beq_iff_eq]
        rw [one, Hold.none]
        omega
      next e => rw [Hold.none_card_ne e]; exact Nat.le_refl _
    · rw [State.card, State.taking, State.table_onTable]
      split
      next e => subst e; rw [step]; exact taken
      next => exact taken
  · have step : (s.table T).taking i = ((s.table T).take i).handOver := by rw [OrderTable.taking, if_pos none]
    refine h.take posted (by rw [step]; rfl) (fun j => ?_) fun U j e => Hold.none_card_ne e i j
    rw [Hold.none_card_self, step, OrderTable.waiting_handOver, OrderTable.waiting_take, none, List.nil_append, List.tail_cons]
    omega

theorem Ran.lawful (h : Ran s t) (law : s.Lawful .none) : t.Lawful .none := by
  cases h with
  | event pays => exact (pays.commit s).lawful law
  | order T i comes pays => exact (pays.commit s).lawful (law.taking comes)

end Sys2Proof.Machine

/-! The law of long orders under a sweep, a host's write to the store and an engine reset, and so under every step (10 R171, R174). -/

namespace Sys2Proof.Machine

set_option Elab.async false

variable {w x y : Hold} {s₀ s t : State} {n : LineId}

/-! ## The pieces of a sweep -/

theorem Pays.withSweep (h : Pays w s₀ x s) (z : Sweep) : Pays w s₀ x { s with sweep := z } := h.of_rest rfl rfl rfl

theorem Pays.ackOnce (h : Pays w s₀ x s) (T : TableId) : Pays w s₀ x (s.ackOnce T) := by
  unfold State.ackOnce; split
  · exact h
  · cases T with
    | line n => exact Pays.commit (Pays.withSweep (h.onLine (n := n)) _) s
    | engine => exact Pays.commit (Pays.withSweep (h.onHdr _) _) s

theorem Pays.judgeEntry (h : Pays w s₀ x s) (b : Nat) (o : Owner) : Pays w s₀ x (s.judgeEntry b o) := by
  have repair : Pays w s₀ x (s.repairEntry b o) := (h.onStore.onHdr _).raiseEngine _
  unfold State.judgeEntry; repeat' split
  · exact h.freeBlock b
  · exact ((h.freeBlock b).setDelivered _).removeEntries
  · exact repair
  · exact repair

theorem Pays.visitBlock (h : Pays w s₀ x s) (b : Nat) : Pays w s₀ x (s.visitBlock b) := by
  unfold State.visitBlock; repeat' split
  · exact h
  · exact h
  · exact (h.judgeEntry _ _).commit s

theorem Pays.visitNext (h : Pays w s₀ x s) : Pays w s₀ x s.visitNext := by
  unfold State.visitNext; split
  · exact (h.visitBlock _).withSweep _
  · exact h

theorem Pays.returnsOnce (h : Pays w s₀ x s) : Pays w s₀ x s.returnsOnce := by
  unfold State.returnsOnce; split
  · exact h
  · have visited := Pays.foldl (fun _ b k => k.visitBlock b) h ((List.range s.store.blockCount).drop s.sweep.visited)
    exact ((visited.withSweep _).criticalExits).commit _

@[simp] theorem OrderTable.waiting_readHand (t : OrderTable) (i : Nat) : (t.readHand i).waiting = t.waiting := by
  cases e : t.listed with
  | made ws is => simp only [OrderTable.readHand, e]
  | reading reads =>
    simp only [OrderTable.readHand, e]
    split
    · simp only [OrderTable.waiting, e]
    · rfl

@[simp] theorem OrderTable.waiting_readNumber (t : OrderTable) (i : Nat) : (t.readNumber i).waiting = t.waiting := by
  cases e : t.listed with
  | made ws is => simp only [OrderTable.readNumber, e]
  | reading reads => simp only [OrderTable.readNumber, OrderTable.waiting, e]

theorem State.Lawful.pass (h : s.Lawful x) (T : TableId) : (s.onTable T OrderTable.pass).Lawful x :=
  h.onTable T rfl fun _ => Nat.le_refl _

/-- The next card of a list taken alone waits for its owner. -/
theorem State.Lawful.takeStep (h : s.Lawful .none) (T : TableId) : (s.onTable T OrderTable.takeStep).Lawful .none := by
  have passes : (s.table T).takeStep = (s.table T).pass → (s.onTable T OrderTable.takeStep).Lawful .none := fun e => by
    rw [s.onTable_congr T e]; exact h.pass T
  cases list : (s.table T).listing with
  | nil => exact passes (by simp only [OrderTable.takeStep, list])
  | cons i rest =>
    by_cases posted : (s.table T).hand i = .posted
    · have step : (s.table T).takeStep = (s.table T).take i := by simp only [OrderTable.takeStep, list, if_pos posted]
      refine h.take posted (by rw [step]) (fun j => ?_) fun _ _ _ => rfl
      rw [step, OrderTable.waiting_take, List.count_append, List.count_singleton, Hold.none]
      simp only [cardIn, Option.some.injEq, beq_iff_eq, Nat.zero_add]
    · exact passes (by simp only [OrderTable.takeStep, list, if_neg posted])

/-- The next order of a table is carried out, or passed by. -/
theorem State.Lawful.takeNext (h : s.Lawful .none) (v : Volts) (T : TableId) : (s.takeNext v T).Lawful .none := by
  unfold State.takeNext
  split
  · exact h.pass T
  next i _ =>
    split
    next comes => exact (Ran.order T i comes ((Pays.start _ _).carryOut v _)).lawful h
    next =>
      refine h.onTable T ?_ fun j => ?_
      · split <;> rfl
      · split
        · exact Nat.le_refl _
        · exact (List.tail_sublist _).count_le j

theorem State.Lawful.sweepUnit (h : s.Lawful .none) (v : Volts) (u : SweepUnit) : (State.sweepUnit v s u).Lawful .none := by
  have start := Pays.start .none s
  cases u with
  | hand T i => exact h.onTable T (OrderTable.cards_readHand _ _) fun j => by rw [OrderTable.waiting_readHand]
  | number T i => exact h.onTable T (OrderTable.cards_readNumber _ _) fun j => by rw [OrderTable.waiting_readNumber]
  | list T => exact h.onTable T rfl fun _ => Nat.le_refl _
  | take T => exact h.takeStep T
  | card T => exact h.takeNext v T
  | ack T => exact (start.ackOnce T).lawful h
  | visit => exact start.visitNext.lawful h
  | returns => exact start.returnsOnce.lawful h

theorem State.Lawful.sweepUnits (h : s.Lawful .none) (v : Volts) (units : List SweepUnit) : (s.sweepUnits v units).Lawful .none := by
  induction units generalizing s with
  | nil => exact h
  | cons u us ih => exact ih (h.sweepUnit v u)

theorem State.Lawful.sweepEnds (h : s.Lawful .none) (Ts : List TableId) :
    (Ts.foldl (fun s T => s.onTable T OrderTable.sweepEnd) s).Lawful .none := by
  induction Ts generalizing s with
  | nil => exact h
  | cons T Ts ih => exact ih (h.onTable T rfl fun _ => Nat.zero_le _)

theorem State.Lawful.endSweep (h : s.Lawful .none) : s.endSweep.Lawful .none :=
  ((((Pays.start _ _).onHdr _).withSweep _).commit s).lawful (h.sweepEnds allTables)

theorem State.Lawful.sweepOnce (h : s.Lawful .none) (v : Volts) (p : SweepPlan) : (s.sweepOnce v p).Lawful .none := by
  unfold State.sweepOnce; repeat' split
  · exact (h.sweepUnits v _).endSweep
  · exact h.sweepUnits v _
  · exact h

/-! ## Host writes -/

/-- The host changes no card that is TAKEN (R171). -/
theorem Card.hostWrite_taken {c : Card} (h : c.hand = .taken) (o : Nat) (v : Word) : c.hostWrite o v = none := by
  unfold Card.hostWrite
  rw [h]
  split
  · rfl
  · rfl

theorem State.Lawful.setCard (h : s.Lawful x) {T : TableId} {i : Nat} (free : (s.card T i).hand ≠ .taken) (c : Card) :
    (s.setCard T i c).Lawful x := by
  refine h.to fun U j => .inl ⟨?_, fun taken => ?_⟩
  · rw [State.setCard, State.stands_onTable, State.stands]
    split
    next e => subst e; exact Nat.le_refl _
    next => exact Nat.le_refl _
  · rw [State.card, State.setCard, State.table_onTable]
    split
    next e =>
      subst e
      have other : i ≠ j := fun e => free (e ▸ taken)
      rw [List.getElem?_set_ne other]
      exact taken
    next => exact taken

theorem State.Lawful.guarded (h : s.Lawful .none) {a : Nat} {v : Word} (e : s.guarded a v = some t) : t.Lawful .none := by
  have start := Pays.start .none s
  cases card : cardAt a with
  | some c =>
    obtain ⟨T, i⟩ := c
    rw [s.guarded_card v card] at e
    obtain ⟨c, written, rfl⟩ := Option.map_eq_some_iff.mp e
    refine h.setCard (fun taken => ?_) c
    rw [Card.hostWrite_taken taken] at written
    cases written
  | none =>
    refine Pays.lawful (x := .none) ?_ h
    simp only [State.guarded, card] at e
    repeat' split at e
    · obtain ⟨c, -, rfl⟩ := Option.map_eq_some_iff.mp e
      exact start.of_rest rfl rfl rfl
    · obtain ⟨c, -, rfl⟩ := Option.map_eq_some_iff.mp e
      exact start.onLine
    · cases e; exact start.onStore
    · cases e; exact start
    · cases e; exact start.onStore
    · cases e
    · cases e
    · cases e; exact start.onStore
    · cases e; exact start.onStore
    · cases e

theorem State.Lawful.hostWord (h : s.Lawful .none) (a : Nat) (v : Word) : (s.hostWord a v).Lawful .none := by
  unfold State.hostWord
  cases e : s.guarded a v with
  | none =>
    have drop : Pays (Hold.none.before s) s .none s.guardDrop := (Pays.start .none s).of_rest rfl rfl rfl
    exact drop.lawful h
  | some t => exact h.guarded e

/-! ## Every step -/

theorem State.Lawful.exec (h : s.Lawful .none) {c : Instr} (e : exec c s = .next t) : t.Lawful .none := by
  have store : ∀ {o : BitVec 12} {u : State}, (if o.getLsbD 0 then .fault .oddOffset else done s u) = .next t → t = s.commit u := by
    intro o u e
    split at e
    · cases e
    · exact (Host.Outcome.next.inj e).symm
  cases c with
  | engineReset k => cases e; exact (State.longOrdersTaken_engineReset s k).lawful
  | ctrlReset v k => cases e; exact (State.longOrdersTaken_engineReset s k).lawful
  | sweep v p => cases e; exact h.sweepOnce v p
  | hostStoreWrite o v =>
    rw [store e]
    exact ((Pays.start _ _).commit s).lawful (h.hostWord _ v)
  | hostStoreRead o =>
    rw [store e]
    exact (((Pays.start .none s).onPort _).commit s).lawful h
  | _ =>
    have ran := fun a b c d f => exec_ran a b c d f e
    exact (ran (fun _ => nofun) (fun _ _ => nofun) (fun _ _ => nofun) (fun _ _ => nofun) fun _ => nofun).lawful h

/-- Settles O7: a card that stands for a long order or for one that waits is TAKEN and stands for no other, and the operations of every
command hand on, answer or drop such cards, never doubling one nor changing the hand word of one that they keep. -/
theorem everyStepKeepsLongOrdersTaken : Obligations.EveryStepKeepsLongOrdersTaken := by
  unfold Obligations.EveryStepKeepsLongOrdersTaken
  intro s t hs h
  refine (step_keeps (P := fun s => s.Lawful .none) (fun s q k => ?_) (fun c s t k e => k.exec e) hs.lawful h).longOrdersTaken
  exact ((Pays.start .none s).of_rest (t := s.withQueue q) rfl rfl rfl).lawful k

end Sys2Proof.Machine

/-! O20: the list of a table's cards, and the card whose order comes next (10 R173). -/

namespace Sys2Proof.Machine

set_option Elab.async false

variable {s : State} {T : TableId} {tb : OrderTable}

/-! ## The order of a list -/

/-- The distance of a card by its post number as a number. -/
theorem OrderTable.distance_eq {i : Nat} {p : Nat} (post : tb.listNumber i = BitVec.ofNat 16 p) :
    tb.distance i = if (p + 65536 - tb.lastTaken.toNat) % 65536 = 0 then 65536 else (p + 65536 - tb.lastTaken.toNat) % 65536 := by
  have last : tb.lastTaken.toNat < 65536 := tb.lastTaken.isLt
  have less : (BitVec.ofNat 16 p - tb.lastTaken).toNat = (p + 65536 - tb.lastTaken.toNat) % 65536 := by
    rw [BitVec.toNat_sub, BitVec.toNat_ofNat]
    omega
  simp only [OrderTable.distance, post, less]

/-- One card comes before another on the list. -/
def OrderTable.Before (tb : OrderTable) (i j : Nat) : Prop := tb.distance i < tb.distance j ∨ tb.distance i = tb.distance j ∧ i < j

theorem OrderTable.Before.trans {i j k : Nat} (h : tb.Before i j) (e : tb.Before j k) : tb.Before i k := by
  unfold OrderTable.Before at *; omega

theorem OrderTable.before_or {i j : Nat} (ne : i ≠ j) (h : ¬tb.Before i j) : tb.Before j i := by
  unfold OrderTable.Before at *; omega

theorem OrderTable.insert_perm (i : Nat) (xs : List Nat) : (tb.insert i xs).Perm (i :: xs) := by
  induction xs with
  | nil => exact .refl _
  | cons j xs ih =>
    unfold OrderTable.insert
    split
    · exact .refl _
    · exact (ih.cons j).trans (.swap ..)

/-- A card put into a list in order leaves it in order. -/
theorem OrderTable.insert_sorted {i : Nat} {xs : List Nat} (new : i ∉ xs) (sorted : xs.Pairwise tb.Before) :
    (tb.insert i xs).Pairwise tb.Before := by
  induction xs with
  | nil => exact List.pairwise_singleton ..
  | cons j xs ih =>
    obtain ⟨first, rest⟩ := List.pairwise_cons.mp sorted
    have ne : i ≠ j := fun e => new (e ▸ List.mem_cons_self)
    have out : i ∉ xs := fun h => new (List.mem_cons_of_mem _ h)
    unfold OrderTable.insert
    split
    next h =>
      refine List.pairwise_cons.mpr ⟨fun k hk => ?_, sorted⟩
      rcases List.mem_cons.mp hk with rfl | hk
      · exact h
      · exact OrderTable.Before.trans h (first k hk)
    next h =>
      refine List.pairwise_cons.mpr ⟨fun k hk => ?_, ih out rest⟩
      rcases List.mem_cons.mp ((tb.insert_perm i xs).mem_iff.mp hk) with rfl | hk
      · exact OrderTable.before_or ne h
      · exact first k hk

theorem OrderTable.inserted_perm (xs : List Nat) : (xs.foldr tb.insert []).Perm xs := by
  induction xs with
  | nil => exact .refl _
  | cons i xs ih => exact (tb.insert_perm i _).trans (ih.cons i)

theorem OrderTable.inserted_sorted {xs : List Nat} (once : xs.Nodup) : (xs.foldr tb.insert []).Pairwise tb.Before := by
  induction xs with
  | nil => exact .nil
  | cons i xs ih =>
    obtain ⟨new, once⟩ := List.nodup_cons.mp once
    exact OrderTable.insert_sorted (fun h => new ((OrderTable.inserted_perm xs).mem_iff.mp h)) (ih once)

/-- The cards found POSTED, as they stand in the table. -/
theorem OrderTable.posted_perm : tb.posted.Perm ((List.range tb.cards.length).filter tb.foundPosted) := OrderTable.inserted_perm _

theorem OrderTable.mem_posted {i : Nat} : i ∈ tb.posted ↔ i < tb.cards.length ∧ tb.foundPosted i = true := by
  rw [OrderTable.posted_perm.mem_iff, List.mem_filter, List.mem_range]

theorem OrderTable.nodup_posted : tb.posted.Nodup := OrderTable.posted_perm.nodup_iff.mpr (List.nodup_range.filter _)

theorem OrderTable.sorted_posted : tb.posted.Pairwise tb.Before := OrderTable.inserted_sorted (List.nodup_range.filter _)

theorem OrderTable.length_posted : tb.posted.length ≤ tb.cards.length := by
  rw [OrderTable.posted_perm.length_eq]
  exact (List.length_filter_le ..).trans List.length_range.le

/-! ## What was read of a card -/

/-- The card was found POSTED, as it was read or as it stands. -/
def OrderTable.FoundPosted (tb : OrderTable) (i : Nat) : Prop :=
  match tb.readOf i with
  | some r => r.posted = true
  | none => tb.hand i = .posted

theorem OrderTable.foundPosted_iff {i : Nat} : tb.foundPosted i = true ↔ tb.FoundPosted i := by
  unfold OrderTable.foundPosted OrderTable.FoundPosted
  cases tb.readOf i with
  | some r => exact Iff.rfl
  | none => exact decide_eq_true_iff

/-- The post number of a card, as it was read or as it stands. -/
def OrderTable.postOf (tb : OrderTable) (i : Nat) : Nat :=
  match (tb.readOf i).bind CardRead.number with
  | some v => v.toNat
  | none => ((tb.cards[i]?).getD .initial).word 2

theorem OrderTable.listNumber_eq (i : Nat) : tb.listNumber i = BitVec.ofNat 16 (tb.postOf i) := by
  unfold OrderTable.listNumber OrderTable.postOf
  cases (tb.readOf i).bind CardRead.number with
  | some v => simp
  | none => rfl

/-! ## The card whose order comes next -/

theorem State.taking_waiting {i : Nat} {rest : List Nat} (waits : (s.table T).waiting = i :: rest) :
    s.taking T i = s.onTable T fun _ => { s.table T with listed := .made rest (s.table T).listing } := by
  refine s.onTable_congr T ?_
  rw [OrderTable.taking, if_neg (by rw [waits]; exact List.cons_ne_nil _ _), OrderTable.handOver, waits]
  rfl

theorem State.taking_listed {i : Nat} {after : List Nat} (none : (s.table T).waiting = []) (list : (s.table T).listing = i :: after) :
    s.taking T i = s.onTable T fun _ =>
      ⟨(s.table T).cards.set i ⟨.taken, (s.card T i).body⟩, BitVec.ofNat 16 ((s.card T i).word 2), .made [] after⟩ := by
  refine s.onTable_congr T ?_
  rw [OrderTable.taking, if_pos none, OrderTable.take, OrderTable.handOver, none, list]
  rfl

/-- What it takes for the sweep to come to a card, as the rows' guard tests it. -/
theorem State.takesCard_next {i : Nat} {codes : Nat → Bool} : s.takesCard T i codes = true ↔
    s.port.engineRunning = true ∧ s.sweep.running = true ∧ codes ((s.card T i).byte 4) = true ∧
      ((∃ rest, (s.table T).waiting = i :: rest) ∧ (s.card T i).hand = .taken ∨
        (s.table T).waiting = [] ∧ (∃ after, (s.table T).listing = i :: after) ∧ (s.card T i).hand = .posted) := by
  rw [State.takesCard_iff, OrderTable.comesTo_iff, and_comm (a := _ ∨ _)]
  exact Iff.rfl

end Sys2Proof.Machine

/-! O20: the pieces of a sweep that make a table's list and take its cards, and the host's writes between them (10 R171, R173). -/

namespace Sys2Proof.Machine

set_option Elab.async false

variable {s : State} {T : TableId} {v : Volts} {units : List SweepUnit} {ends : Bool}

/-! ## The first piece of a plan -/

/-- A SWEEP whose plan begins with a piece passes it and goes on. -/
theorem sweep_cons (running : s.port.engineRunning = true) (sweeps : s.sweep.running = true) (v : Volts) (p : SweepUnit)
    (units : List SweepUnit) (ends : Bool) :
    exec (.sweep v ⟨p :: units, ends⟩) s = exec (.sweep v ⟨units, ends⟩) (State.sweepUnit v s p) :=
  sweep_append v [p] units ends (execSweep_goesOn running sweeps v [p])

theorem State.onTable_id (s : State) (T : TableId) {f : OrderTable → OrderTable} (h : f (s.table T) = s.table T) : s.onTable T f = s := by
  rw [s.onTable_congr T (g := id) h]
  cases T with
  | engine => rfl
  | line n =>
    change s.onLine n id = s
    simp [State.onLine, State.line]

/-- A piece that changes a table's list alone. -/
theorem sweep_lists (running : s.port.engineRunning = true) (sweeps : s.sweep.running = true) {p : SweepUnit}
    {f : OrderTable → OrderTable} (unit : State.sweepUnit v s p = s.onTable T f) {listed : CardList}
    (h : f (s.table T) = { s.table T with listed := listed }) :
    exec (.sweep v ⟨p :: units, ends⟩) s =
      exec (.sweep v ⟨units, ends⟩) (s.onTable T fun tb => { tb with listed := listed }) := by
  rw [sweep_cons running sweeps, unit, s.onTable_congr T (g := fun tb => { tb with listed := listed }) h]

/-- A piece that finds nothing to do. -/
theorem sweep_skips (running : s.port.engineRunning = true) (sweeps : s.sweep.running = true) {p : SweepUnit}
    {f : OrderTable → OrderTable} (unit : State.sweepUnit v s p = s.onTable T f) (h : f (s.table T) = s.table T) :
    exec (.sweep v ⟨p :: units, ends⟩) s = exec (.sweep v ⟨units, ends⟩) s := by
  rw [sweep_cons running sweeps, unit, s.onTable_id T h]

/-! ## Hand words and post numbers read -/

/-- A card has been read for the list. -/
theorem readOf_ne_none_iff {tb : OrderTable} {reads : List CardRead} (e : tb.listed = .reading reads) (i : Nat) :
    tb.readOf i ≠ none ↔ ∃ r ∈ reads, r.card = i := by
  simp only [OrderTable.readOf, e, ne_eq, List.find?_eq_none, beq_iff_eq, not_forall, not_not, exists_prop]

theorem readHand_new {tb : OrderTable} {reads : List CardRead} (e : tb.listed = .reading reads) {i : Nat} (less : i < tb.cards.length)
    (new : ∀ r ∈ reads, r.card ≠ i) :
    tb.readHand i = { tb with listed := .reading (⟨i, decide (tb.hand i = .posted), none⟩ :: reads) } := by
  have unread : tb.readOf i = none := by
    by_contra read
    obtain ⟨r, mem, card⟩ := (readOf_ne_none_iff e i).mp read
    exact new r mem card
  simp only [OrderTable.readHand, e, if_pos (And.intro less unread)]

theorem readHand_old {tb : OrderTable} {reads : List CardRead} (e : tb.listed = .reading reads) {i : Nat}
    (old : tb.cards.length ≤ i ∨ ∃ r ∈ reads, r.card = i) : tb.readHand i = tb := by
  have stands : ¬(i < tb.cards.length ∧ tb.readOf i = none) := by
    rintro ⟨less, unread⟩
    rcases old with beyond | read
    · omega
    · exact (readOf_ne_none_iff e i).mpr read unread
  simp only [OrderTable.readHand, e, if_neg stands]

theorem readHand_made {tb : OrderTable} {ws is : List Nat} (e : tb.listed = .made ws is) (i : Nat) : tb.readHand i = tb := by
  simp only [OrderTable.readHand, e]

theorem readNumber_made {tb : OrderTable} {ws is : List Nat} (e : tb.listed = .made ws is) (i : Nat) : tb.readNumber i = tb := by
  simp only [OrderTable.readNumber, e]

theorem readNumber_reading {tb : OrderTable} {reads : List CardRead} (e : tb.listed = .reading reads) (i : Nat) :
    tb.readNumber i = { tb with
      listed := .reading (reads.map fun r =>
        if r.card = i ∧ r.posted = true ∧ r.number = none then { r with number := some (tb.postNumber i) } else r) } := by
  simp only [OrderTable.readNumber, e]

/-! ## Cards taken and passed by -/

theorem takeStep_nil {tb : OrderTable} (list : tb.listing = []) : tb.takeStep = { tb with listed := .made tb.waiting [] } := by
  simp only [OrderTable.takeStep, list, OrderTable.pass, List.tail_nil]

theorem takeStep_posted {tb : OrderTable} {j : Nat} {after : List Nat} (list : tb.listing = j :: after) (posted : tb.hand j = .posted) :
    tb.takeStep = tb.take j := by
  simp only [OrderTable.takeStep, list, if_pos posted]

theorem takeStep_free {tb : OrderTable} {j : Nat} {after : List Nat} (list : tb.listing = j :: after) (free : tb.hand j ≠ .posted) :
    tb.takeStep = { tb with listed := .made tb.waiting after } := by
  simp only [OrderTable.takeStep, list, if_neg free, OrderTable.pass, List.tail_cons]

theorem take_eq {tb : OrderTable} {j : Nat} {after : List Nat} (list : tb.listing = j :: after) : tb.take j =
    ⟨tb.cards.set j ⟨.taken, ((tb.cards[j]?).getD .initial).body⟩, tb.postNumber j, .made (tb.waiting ++ [j]) after⟩ := by
  rw [OrderTable.take, list, List.tail_cons]

/-- A table with no order left to come to. -/
theorem State.takeNext_nil (wait : (s.table T).waiting = []) (list : (s.table T).listing = []) (v : Volts) :
    s.takeNext v T = s.onTable T OrderTable.pass := by
  simp only [State.takeNext, OrderTable.due, wait, list, List.append_nil, List.head?_nil]

/-- The next card of the list, found FREE, is passed by. -/
theorem State.takeNext_free {j : Nat} {after : List Nat} (wait : (s.table T).waiting = []) (list : (s.table T).listing = j :: after)
    (free : (s.table T).hand j ≠ .posted) (v : Volts) : s.takeNext v T = s.onTable T OrderTable.pass := by
  have due : (s.table T).due = some j := by simp only [OrderTable.due, wait, list, List.nil_append, List.head?_cons]
  have passed : (s.table T).comesTo j = false := by
    rw [Bool.eq_false_iff]
    intro comes
    have hand := OrderTable.hand_of_comesTo comes
    rw [if_pos wait] at hand
    exact free hand
  simp only [State.takeNext, due, passed, Bool.false_eq_true, if_false]
  refine s.onTable_congr T ?_
  simp only [wait, if_pos]

/-! ## The host's writes -/

/-- The list of a table stands, whatever is written to its cards. -/
theorem State.listed_setCard (s : State) (T : TableId) (j : Nat) (c : Card) : ((s.setCard T j c).table T).listed = (s.table T).listed := by
  rw [State.setCard, State.table_onTable, if_pos rfl]

/-- A card neither listed nor waiting is not taken. -/
theorem State.takesCard_unlisted {ws is : List Nat} (made : (s.table T).listed = .made ws is) {i : Nat} (out : i ∉ ws ++ is)
    (codes : Nat → Bool) : s.takesCard T i codes = false := by
  have waits : (s.table T).waiting = ws := by simp only [OrderTable.waiting, made]
  have list : (s.table T).listing = is := by simp only [OrderTable.listing, made]
  rw [List.mem_append, not_or] at out
  rw [Bool.eq_false_iff]
  intro taken
  obtain ⟨-, -, -, ⟨⟨rest, e⟩, -⟩ | ⟨-, ⟨after, e⟩, -⟩⟩ := State.takesCard_next.mp taken
  · exact out.1 (waits ▸ e ▸ List.mem_cons_self)
  · exact out.2 (list ▸ e ▸ List.mem_cons_self)

/-- The host's FREE to a TAKEN card is dropped (R171). -/
theorem exec_write_taken {i : Nat} {o : BitVec 12} (less : i < (match T with | .line _ => 8 | .engine => 4))
    (taken : (s.card T i).hand = .taken) (even : o.getLsbD 0 = false) (addr : s.windowAddr o = cardAddr T i) (w : Word) :
    exec (.hostStoreWrite o w) s = .next s.dropped := by
  have written := exec_write_card s w even less (k := 0) (by decide) addr
  rwa [Card.hostWrite_taken taken] at written

theorem State.dropped_taking (s : State) (T : TableId) (i : Nat) : s.dropped.taking T i = (s.taking T i).dropped := by
  cases T <;> rfl

theorem State.dropped_takesCard (s : State) (T : TableId) (i : Nat) (codes : Nat → Bool) :
    s.dropped.takesCard T i codes = s.takesCard T i codes := by
  cases T <;> rfl

end Sys2Proof.Machine

/-! O20: rows and a SWEEP in parts carry an order out alike, and the end of a sweep comes to all cards of all tables (10 R173, R174). -/

namespace Sys2Proof.Machine

set_option Elab.async false

variable {s t : State} {T : TableId} {i : Nat} {codes : Nat → Bool} {order : State → Card → State} {row : Instr} {n : LineId}

/-! ## An order's row -/

theorem row_rests (run : exec row s = takeOrder s T i codes order) (no : s.takesCard T i codes = false) : exec row s = .next s := by
  rw [run, takeOrder, no, if_neg Bool.false_ne_true]

/-- The next order of a table is carried out. -/
theorem State.takeNext_comes (comes : (s.table T).comesTo i = true) (v : Volts) :
    s.takeNext v T = s.commit ((s.taking T i).carryOut v T i (s.card T i)) := by
  have due : (s.table T).due = some i := by
    unfold OrderTable.comesTo at comes
    exact beq_iff_eq.mp (Bool.and_eq_true_iff.mp comes).1
  simp only [State.takeNext, due, comes, if_true]

/-- A SWEEP that comes to a card carries its order out as the order's row does. -/
theorem sweep_row {v : Volts} (run : exec row s = takeOrder s T i codes order)
    (same : ∀ c, codes (c.byte 4) = true → ∀ x : State, x.carryOut v T i c = order x c) (taken : s.takesCard T i codes = true)
    (e : exec row s = .next t) (units : List SweepUnit) (ends : Bool) :
    exec (.sweep v ⟨.card T :: units, ends⟩) s = exec (.sweep v ⟨units, ends⟩) t := by
  obtain ⟨running, sweeps, comes, code⟩ := State.takesCard_iff.mp taken
  have next : t = s.takeNext v T := by
    rw [run, takeOrder_taken taken] at e
    rw [State.takeNext_comes comes, same _ code]
    exact (Host.Outcome.next.inj e).symm
  rw [sweep_cons running sweeps, next]
  rfl

/-- The row of a line order, by its code. -/
theorem line_row {k : Nat} {volt : Bool} (run : exec row s = takeOrder s (.line n) i (· == k) order)
    (same : ∀ c : Card, c.byte 4 = k → ∀ x : State, x.lineOrder n volt i c = order x c) :
    (s.takesCard (.line n) i (· == k) = false → exec row s = .next s) ∧
      ∀ (v : Volts) (units : List SweepUnit) (ends : Bool) (u : State), v.at n = volt → s.takesCard (.line n) i (· == k) = true →
        exec row s = .next u → exec (.sweep v ⟨.card (.line n) :: units, ends⟩) s = exec (.sweep v ⟨units, ends⟩) u := by
  refine ⟨row_rests run, fun v units ends u volts taken e => sweep_row run (fun c code x => ?_) taken e units ends⟩
  subst volts
  exact same c (beq_iff_eq.mp code) x

/-- The row of an engine order, by its code. -/
theorem engine_row {k : Nat} (run : exec row s = takeOrder s .engine i (· == k) order)
    (same : ∀ c : Card, c.byte 4 = k → ∀ x : State, x.engineOrder i c = order x c) :
    (s.takesCard .engine i (· == k) = false → exec row s = .next s) ∧
      ∀ (v : Volts) (units : List SweepUnit) (ends : Bool) (u : State), s.takesCard .engine i (· == k) = true →
        exec row s = .next u → exec (.sweep v ⟨.card .engine :: units, ends⟩) s = exec (.sweep v ⟨units, ends⟩) u :=
  ⟨row_rests run, fun _ units ends _ taken e => sweep_row run (fun c code => same c (beq_iff_eq.mp code)) taken e units ends⟩

/-- The rows of the line orders. -/
theorem line_rows (n : LineId) (i : Fin 8) (volt : Bool) (s : State) : ∀ x ∈
    [(Instr.enable n i, 1), (.disable n i, 2), (.dial n i volt, 3), (.answer n i volt, 4), (.hangup n i, 5),
      (.send n i, 6), (.faxPages n i, 7), (.play n i, 8), (.record n i, 9), (.stop n i, 10),
      (.takeDigits n i, 11), (.clearFault n i, 12), (.clearRetryCount n i, 13)],
    (s.takesCard (.line n) i.val (· == x.2) = false → exec x.1 s = .next s) ∧
      ∀ (v : Volts) (units : List SweepUnit) (ends : Bool) (u : State), v.at n = volt → s.takesCard (.line n) i.val (· == x.2) = true →
        exec x.1 s = .next u → exec (.sweep v ⟨.card (.line n) :: units, ends⟩) s = exec (.sweep v ⟨units, ends⟩) u := by
  simp only [List.forall_mem_cons]
  refine ⟨?_, ?_, ?_, ?_, ?_, ?_, ?_, ?_, ?_, ?_, ?_, ?_, ?_, nofun⟩
  · exact line_row (order := fun x _ => x.enableOrder n i.val) rfl fun c code x => by simp only [State.lineOrder, code]
  · exact line_row (order := fun x _ => x.disableOrder n i.val) rfl fun c code x => by simp only [State.lineOrder, code]
  · exact line_row (order := fun x c => x.dialOrder n i.val c volt) rfl fun c code x => by simp only [State.lineOrder, code]
  · exact line_row (order := fun x c => x.answerOrder n i.val c volt) rfl fun c code x => by simp only [State.lineOrder, code]
  · exact line_row (order := fun x _ => x.hangupOrder n i.val) rfl fun c code x => by simp only [State.lineOrder, code]
  · exact line_row (order := fun x c => x.sendOrder n i.val c) rfl fun c code x => by simp only [State.lineOrder, code]
  · exact line_row (order := fun x c => x.faxPagesOrder n i.val c) rfl fun c code x => by simp only [State.lineOrder, code]
  · exact line_row (order := fun x c => x.playOrder n i.val c) rfl fun c code x => by simp only [State.lineOrder, code]
  · exact line_row (order := fun x c => x.recordOrder n i.val c) rfl fun c code x => by simp only [State.lineOrder, code]
  · exact line_row (order := fun x _ => x.stopOrder n i.val) rfl fun c code x => by simp only [State.lineOrder, code]
  · exact line_row (order := fun x _ => x.takeDigitsOrder n i.val) rfl fun c code x => by simp only [State.lineOrder, code]
  · exact line_row (order := fun x _ => x.clearFaultOrder n i.val) rfl fun c code x => by simp only [State.lineOrder, code]
  · exact line_row (order := fun x _ => x.clearRetryCountOrder n i.val) rfl fun c code x => by simp only [State.lineOrder, code]

/-- The rows of the engine orders. -/
theorem engine_rows (j : Fin 4) (s : State) : ∀ x ∈
    [(Instr.takeBlocks j, 33), (.loadGreeting j, 34), (.unloadGreeting j, 35), (.collectMessage j, 36),
      (.discardMessage j, 37), (.setClock j, 38), (.clearLine j, 39)],
    (s.takesCard .engine j.val (· == x.2) = false → exec x.1 s = .next s) ∧
      ∀ (v : Volts) (units : List SweepUnit) (ends : Bool) (u : State), s.takesCard .engine j.val (· == x.2) = true →
        exec x.1 s = .next u → exec (.sweep v ⟨.card .engine :: units, ends⟩) s = exec (.sweep v ⟨units, ends⟩) u := by
  simp only [List.forall_mem_cons]
  refine ⟨?_, ?_, ?_, ?_, ?_, ?_, ?_, nofun⟩
  · exact engine_row (order := fun x c => x.takeBlocksOrder j.val c) rfl fun c code x => by simp only [State.engineOrder, code]
  · exact engine_row (order := fun x c => x.loadGreetingOrder j.val c) rfl fun c code x => by simp only [State.engineOrder, code]
  · exact engine_row (order := fun x c => x.unloadGreetingOrder j.val c) rfl fun c code x => by simp only [State.engineOrder, code]
  · exact engine_row (order := fun x c => x.collectOrder j.val c) rfl fun c code x => by simp only [State.engineOrder, code]
  · exact engine_row (order := fun x c => x.discardOrder j.val c) rfl fun c code x => by simp only [State.engineOrder, code]
  · exact engine_row (order := fun x c => x.setClockOrder j.val c) rfl fun c code x => by simp only [State.engineOrder, code]
  · exact engine_row (order := fun x c => x.clearLineOrder j.val c) rfl fun c code x => by simp only [State.engineOrder, code]

theorem State.lineOrder_unknown {c : Card} (unknown : isLineOrder (c.byte 4) = false) (x : State) (n : LineId) (volt : Bool) (i : Nat) :
    x.lineOrder n volt i c = x.unknownOrder (.line n) i := by
  have out := of_decide_eq_false unknown
  unfold State.lineOrder
  split
  case h_14 => rfl
  all_goals omega

theorem State.engineOrder_unknown {c : Card} (unknown : isEngineOrder (c.byte 4) = false) (x : State) (i : Nat) :
    x.engineOrder i c = x.unknownOrder .engine i := by
  have out := of_decide_eq_false unknown
  unfold State.engineOrder
  split
  case h_8 => rfl
  all_goals omega

/-- A code unknown to the table. -/
theorem State.carryOut_unknown {c : Card} (unknown : knownOrder T (c.byte 4) = false) (x : State) (v : Volts) (i : Nat) :
    x.carryOut v T i c = x.unknownOrder T i := by
  cases T with
  | line n => exact State.lineOrder_unknown unknown x n _ i
  | engine => exact State.engineOrder_unknown unknown x i

/-- The row of the codes that a table does not know. -/
theorem unknown_row (s : State) (T : TableId) (i : Fin 8) :
    (s.takesCard T i.val (fun c => !knownOrder T c) = false → exec (.unknownOrder T i) s = .next s) ∧
      ∀ (v : Volts) (units : List SweepUnit) (ends : Bool) (u : State), s.takesCard T i.val (fun c => !knownOrder T c) = true →
        exec (.unknownOrder T i) s = .next u →
          exec (.sweep v ⟨.card T :: units, ends⟩) s = exec (.sweep v ⟨units, ends⟩) u := by
  have run : exec (.unknownOrder T i) s =
      takeOrder s T i.val (fun c => !knownOrder T c) (fun s _ => s.unknownOrder T i.val) := rfl
  refine ⟨row_rests run, fun v units ends u taken e => sweep_row run (fun c code x => ?_) taken e units ends⟩
  exact State.carryOut_unknown (Bool.not_eq_true' _ |>.mp code) x v i.val

/-! ## All cards of a table -/

/-- The orders left of a table: those that wait, then those of the cards listed. -/
def State.ordersLeft (s : State) (T : TableId) : List Nat := (s.table T).waiting ++ (s.table T).listing

/-- The list of a table is made, with no order left. -/
def State.Emptied (s : State) (T : TableId) : Prop := (s.table T).listed = .made [] []

theorem State.listed_carryOut (s : State) (v : Volts) (T : TableId) (i : Nat) (c : Card) (U : TableId) :
    ((s.carryOut v T i c).table U).listed = (s.table U).listed :=
  (Pays.carryOut (Pays.start (Hold.none.card T i) s) v c).listed U

theorem LineEffect.length {m : LineId} (h : LineEffect m s t) (U : TableId) : (t.table U).cards.length = (s.table U).cards.length :=
  h.cards U

/-- Carrying an order out leaves every table as long as it was. -/
theorem State.length_carryOut (s : State) (v : Volts) (T : TableId) (i : Nat) (c : Card) (U : TableId) :
    ((s.carryOut v T i c).table U).cards.length = (s.table U).cards.length := by
  cases T with
  | line n => exact (LineEffect.refl.lineOrder (n := n) _ i c).length U
  | engine =>
    have line := LineEffect.refl (n := 0) (s := s)
    change ((s.engineOrder i c).table U).cards.length = _
    unfold State.engineOrder
    split
    · exact (line.takeBlocksOrder i c).length U
    · exact (line.loadGreetingOrder i c).length U
    · exact (line.unloadGreetingOrder i c).length U
    · exact (line.collectOrder i c).length U
    · exact (line.discardOrder i c).length U
    · cases U with
      | line m => rfl
      | engine => exact List.length_set
    · unfold State.clearLineOrder
      split
      next e => exact ((LineEffect.refl (n := ⟨c.byte 6, e⟩)).clearLineEffect.answerEngine _ _ _ _).length U
      next => exact (line.answerEngine _ _ _ _).length U
    · exact (line.answerEngine _ _ _ _).length U

/-- A step of a table leaves the lists of the others, and every table as long as it was. -/
theorem State.takeNext_others (s : State) (v : Volts) (T U : TableId) :
    ((s.takeNext v T).table U).cards.length = (s.table U).cards.length ∧
      (U ≠ T → ((s.takeNext v T).table U).listed = (s.table U).listed) := by
  obtain ⟨f, passed, stands⟩ | ⟨i, -, done⟩ := s.takeNext_cases v T
  · rw [passed, State.table_onTable]
    split
    next e => exact ⟨by rw [(stands _).1, e], fun ne => absurd e ne⟩
    next => exact ⟨rfl, fun _ => rfl⟩
  · rw [done, State.table_commit, State.length_carryOut, State.listed_carryOut, State.taking, State.table_onTable]
    split
    next e => exact ⟨by rw [OrderTable.length_taking, e], fun ne => absurd e ne⟩
    next => exact ⟨rfl, fun _ => rfl⟩

/-- A list as a step leaves it: made, with the first order gone. -/
def CardList.Stepped (left : List Nat) (listed : CardList) : Prop := ∃ ws is, listed = .made ws is ∧ ws ++ is = left.tail

theorem OrderTable.stepped_pass {tb : OrderTable} (none : tb.waiting = []) :
    CardList.Stepped (tb.waiting ++ tb.listing) tb.pass.listed :=
  ⟨tb.waiting, tb.listing.tail, rfl, by rw [none]; rfl⟩

theorem OrderTable.stepped_handOver {tb : OrderTable} (some : tb.waiting ≠ []) :
    CardList.Stepped (tb.waiting ++ tb.listing) tb.handOver.listed :=
  ⟨tb.waiting.tail, tb.listing, rfl, (List.tail_append_of_ne_nil some).symm⟩

theorem OrderTable.stepped_taking (tb : OrderTable) (i : Nat) :
    CardList.Stepped (tb.waiting ++ tb.listing) (tb.taking i).listed := by
  by_cases none : tb.waiting = []
  · rw [OrderTable.taking, if_pos none]
    exact ⟨[], tb.listing.tail, by rw [OrderTable.handOver, OrderTable.waiting_take, none]; rfl, by rw [none]; rfl⟩
  · rw [OrderTable.taking, if_neg none]
    exact OrderTable.stepped_handOver none

/-- A step of a table takes the first of the orders left. -/
theorem State.takeNext_steps (s : State) (v : Volts) (T : TableId) :
    CardList.Stepped (s.ordersLeft T) ((s.takeNext v T).table T).listed := by
  unfold State.takeNext
  split
  next due =>
    have nothing : (s.table T).waiting = [] ∧ (s.table T).listing = [] :=
      List.append_eq_nil_iff.mp (List.head?_eq_none_iff.mp due)
    rw [State.table_onTable, if_pos rfl]
    exact OrderTable.stepped_pass nothing.1
  next i _ =>
    split
    · rw [State.table_commit, State.listed_carryOut, State.taking, State.table_onTable, if_pos rfl]
      exact OrderTable.stepped_taking _ i
    · rw [State.table_onTable, if_pos rfl]
      split
      next none => exact OrderTable.stepped_pass none
      next some => exact OrderTable.stepped_handOver some

theorem CardList.Stepped.left {left : List Nat} {tb : OrderTable} (h : CardList.Stepped left tb.listed) :
    tb.waiting ++ tb.listing = left.tail := by
  obtain ⟨ws, is, made, rest⟩ := h
  simp only [OrderTable.waiting, OrderTable.listing, made, rest]

theorem State.ordersLeft_takeNext (s : State) (v : Volts) (T : TableId) : (s.takeNext v T).ordersLeft T = (s.ordersLeft T).tail :=
  (s.takeNext_steps v T).left

/-- The steps of a table, as often as orders are left and once at least, leave none. -/
theorem State.emptied_takeNext (s : State) (v : Volts) (T : TableId) (few : (s.ordersLeft T).length ≤ 1) : (s.takeNext v T).Emptied T := by
  obtain ⟨ws, is, made, rest⟩ := s.takeNext_steps v T
  have nil : ws ++ is = [] := by
    rw [rest, ← List.length_eq_zero_iff, List.length_tail]
    omega
  obtain ⟨rfl, rfl⟩ := List.append_eq_nil_iff.mp nil
  exact made

theorem State.cards_steps (v : Volts) (T : TableId) (k : Nat) (s : State) (few : (s.ordersLeft T).length ≤ k + 1) :
    (s.sweepUnits v (List.replicate (k + 1) (.card T))).Emptied T := by
  induction k generalizing s with
  | zero => exact s.emptied_takeNext v T few
  | succ k ih =>
    rw [List.replicate_succ, State.sweepUnits_cons]
    refine ih (s.takeNext v T) ?_
    rw [State.ordersLeft_takeNext, List.length_tail]
    omega

theorem State.cards_others (v : Volts) (T U : TableId) (k : Nat) (s : State) :
    ((s.sweepUnits v (List.replicate k (.card T))).table U).cards.length = (s.table U).cards.length ∧
      (U ≠ T → ((s.sweepUnits v (List.replicate k (.card T))).table U).listed = (s.table U).listed) := by
  induction k generalizing s with
  | zero => exact ⟨rfl, fun _ => rfl⟩
  | succ k ih =>
    rw [List.replicate_succ, State.sweepUnits_cons]
    obtain ⟨length, listed⟩ := ih (s.takeNext v T)
    obtain ⟨length', listed'⟩ := s.takeNext_others v T U
    exact ⟨length.trans length', fun ne => (listed ne).trans (listed' ne)⟩

/-! ## All cards of all tables -/

/-- Eight steps of each of some tables. -/
def cardsOf (Ts : List TableId) : List SweepUnit := Ts.flatMap fun T => List.replicate 8 (.card T)

theorem cardsOf_cons (T : TableId) (Ts : List TableId) : cardsOf (T :: Ts) = List.replicate 8 (.card T) ++ cardsOf Ts :=
  List.flatMap_cons

/-- The list of a table has not been made, and it holds eight cards at most. -/
def State.Unread (s : State) (T : TableId) : Prop := (∃ reads, (s.table T).listed = .reading reads) ∧ (s.table T).cards.length ≤ 8

theorem State.Unread.few (h : s.Unread T) : (s.ordersLeft T).length ≤ 8 := by
  obtain ⟨⟨reads, reading⟩, short⟩ := h
  have left : s.ordersLeft T = (s.table T).posted := by
    simp only [State.ordersLeft, OrderTable.waiting, OrderTable.listing, reading, List.nil_append]
  rw [left]
  exact OrderTable.length_posted.trans short

theorem State.Unread.others (h : s.Unread T) {U : TableId} (ne : T ≠ U) (v : Volts) (k : Nat) :
    (s.sweepUnits v (List.replicate k (.card U))).Unread T := by
  obtain ⟨length, listed⟩ := State.cards_others v U T k s
  exact ⟨h.1.imp fun reads reading => (listed ne).trans reading, length.le.trans h.2⟩

/-- The steps of some tables leave them without orders, and the lists of the others as they were. -/
theorem State.cardsOf_empties (v : Volts) (Ts : List TableId) (once : Ts.Nodup) (s : State) (unread : ∀ T ∈ Ts, s.Unread T) :
    ∀ T, (T ∈ Ts → (s.sweepUnits v (cardsOf Ts)).Emptied T) ∧
      (T ∉ Ts → ((s.sweepUnits v (cardsOf Ts)).table T).listed = (s.table T).listed) := by
  induction Ts generalizing s with
  | nil => exact fun T => ⟨nofun, fun _ => rfl⟩
  | cons U Us ih =>
    obtain ⟨new, once⟩ := List.nodup_cons.mp once
    rw [cardsOf_cons, State.sweepUnits_append]
    have emptied := State.cards_steps v U 7 s (unread U List.mem_cons_self).few
    have others := fun T => (State.cards_others v U T 8 s).2
    have rest := ih once (s.sweepUnits v (List.replicate 8 (.card U))) fun T hT =>
      (unread T (List.mem_cons_of_mem _ hT)).others (U := U) (fun e => new (e ▸ hT)) v 8
    intro T
    refine ⟨fun mem => ?_, fun out => ?_⟩
    · by_cases later : T ∈ Us
      · exact (rest T).1 later
      · obtain rfl : T = U := (List.mem_cons.mp mem).resolve_right later
        exact ((rest T).2 later).trans emptied
    · exact ((rest T).2 fun later => out (List.mem_cons_of_mem _ later)).trans (others T fun e => out (e ▸ List.mem_cons_self))

/-- Where no order is left of a table, its steps do nothing. -/
theorem State.Emptied.takeNext (h : s.Emptied T) (v : Volts) : s.takeNext v T = s := by
  have wait : (s.table T).waiting = [] := by simp only [OrderTable.waiting, show (s.table T).listed = _ from h]
  have list : (s.table T).listing = [] := by simp only [OrderTable.listing, show (s.table T).listed = _ from h]
  rw [State.takeNext_nil wait list]
  refine s.onTable_id T ?_
  rw [OrderTable.pass, wait, list, List.tail_nil]
  exact congrArg (fun l => { s.table T with listed := l }) h.symm

theorem State.cardsOf_rest (v : Volts) {Ts : List TableId} (emptied : ∀ T ∈ Ts, s.Emptied T) : s.sweepUnits v (cardsOf Ts) = s := by
  have steps : ∀ {T} (k : Nat), s.Emptied T → s.sweepUnits v (List.replicate k (.card T)) = s := by
    intro T k h
    induction k with
    | zero => rfl
    | succ k ih =>
      rw [List.replicate_succ, State.sweepUnits_cons]
      exact (congrArg (State.sweepUnits · v _) (h.takeNext v)).trans ih
  induction Ts with
  | nil => rfl
  | cons T Ts ih =>
    rw [cardsOf_cons, State.sweepUnits_append, steps 8 (emptied T List.mem_cons_self)]
    exact ih fun U hU => emptied U (List.mem_cons_of_mem _ hU)

theorem mem_allTables (T : TableId) : T ∈ allTables := by
  cases T with
  | engine => decide
  | line n => fin_cases n <;> decide

/-- The end of a sweep comes to all cards of all tables; coming to them before does what it does then. -/
theorem sweep_allCards (running : s.port.engineRunning = true) (sweeps : s.sweep.running = true) (v : Volts)
    (unread : ∀ T, s.Unread T) : exec (.sweep v ⟨[], true⟩) s = exec (.sweep v ⟨cardsOf allTables, true⟩) s := by
  have full : fullPlan = cardsOf allTables ++ (allTables.map .ack ++ [.returns]) := rfl
  have emptied := fun T => (State.cardsOf_empties v allTables (by decide) s (fun T _ => unread T) T).1 (mem_allTables T)
  have again : ∀ units, (s.sweepUnits v (cardsOf allTables)).sweepUnits v (cardsOf allTables ++ units) =
      (s.sweepUnits v (cardsOf allTables)).sweepUnits v units := fun units => by
    rw [State.sweepUnits_append, State.cardsOf_rest v fun T _ => emptied T]
  rw [execSweep_ends running sweeps, execSweep_ends running sweeps, List.nil_append, State.sweepUnits_append, full, again,
    State.sweepUnits_append]

/-! ## The statement -/

/-- Settles O20: a table's list is what was read of its cards, put in order by distance; each piece of a sweep changes that list, takes
the first card of it or carries out the order that comes next, as the rows do, and the steps that the end of a sweep begins with leave no
order. -/
theorem orderOfTaking : Obligations.OrderOfTaking := by
  unfold Obligations.OrderOfTaking
  refine ⟨fun T s => ⟨fun i => OrderTable.distance_eq (OrderTable.listNumber_eq i),
      fun i => OrderTable.mem_posted.trans (and_congr_right fun _ => OrderTable.foundPosted_iff), OrderTable.nodup_posted, ?_, rfl, rfl,
      fun i => ⟨fun codes => State.takesCard_next, fun rest => State.taking_waiting, fun after => State.taking_listed⟩⟩,
    fun T i v units ends s running sweeps => ⟨fun reads reading => ⟨fun less new => ?_, fun old => ?_, ?_⟩,
      fun waiting cards made => ⟨?_, ?_⟩, ?_, fun list => ⟨?_, fun wait => ?_⟩,
      fun j after list => ⟨fun posted => ?_, fun free => ⟨?_, fun wait => ?_⟩⟩⟩,
    fun T s => ⟨s.listed_setCard T, fun _ _ _ codes made out => State.takesCard_unlisted made out codes,
      fun i o _ taken less even addr => exec_write_taken less taken even addr 0,
      fun i codes => ⟨s.dropped_takesCard T i codes, s.dropped_taking T i⟩⟩,
    fun n i volt s => ⟨fun x hx => ?_, fun j x hx => ?_⟩, fun T i s => ?_,
    fun v s running sweeps unread => sweep_allCards running sweeps v unread⟩
  · exact OrderTable.sorted_posted.imp fun h => by
      rw [OrderTable.Before, OrderTable.distance_eq (OrderTable.listNumber_eq _), OrderTable.distance_eq (OrderTable.listNumber_eq _)] at h
      exact h
  · exact sweep_lists running sweeps (f := fun tb => tb.readHand i.val) rfl (readHand_new reading less new)
  · exact sweep_skips running sweeps (f := fun tb => tb.readHand i.val) rfl (readHand_old reading old)
  · exact sweep_lists running sweeps (f := fun tb => tb.readNumber i.val) rfl (readNumber_reading reading _)
  · exact sweep_skips running sweeps (f := fun tb => tb.readHand i.val) rfl (readHand_made made _)
  · exact sweep_skips running sweeps (f := fun tb => tb.readNumber i.val) rfl (readNumber_made made _)
  · exact sweep_lists running sweeps (f := OrderTable.make) rfl rfl
  · exact sweep_lists running sweeps (f := OrderTable.takeStep) rfl (takeStep_nil list)
  · exact sweep_lists running sweeps (p := .card T) (v := v) (State.takeNext_nil wait list v) (by rw [OrderTable.pass, wait, list]; rfl)
  · rw [sweep_cons running sweeps]
    exact congrArg _ (s.onTable_congr T ((takeStep_posted list posted).trans (take_eq list)))
  · exact sweep_lists running sweeps (f := OrderTable.takeStep) rfl (takeStep_free list free)
  · exact sweep_lists running sweeps (p := .card T) (v := v) (State.takeNext_free wait list free v)
      (by rw [OrderTable.pass, wait, list]; rfl)
  · exact line_rows n i volt s x hx
  · exact engine_rows j s x hx
  · cases T with
    | line n => exact unknown_row s (.line n) i
    | engine => exact unknown_row s .engine i

end Sys2Proof.Machine
